-- ==== Sys2Proof/Word.lean ====
section
/-! DEFINITION. The word types of the K20 model: bytes, 32- and 64-bit words, and the sparse table
type in which register arrays, memories and records of the device are kept. -/

namespace Sys2Proof

/-- One byte (R8: every structure of the manual is little-endian over bytes). -/
abbrev Byte := BitVec 8

/-- A 32-bit word: a thread register, a binary32 pattern, a vector-register element. -/
abbrev Word := BitVec 32

/-- A 64-bit word: a BAR0 register image, a semaphore, a shader instruction. -/
abbrev DWord := BitVec 64

/-- A sparse table: pairs of a numeric key and a value, keys strictly rising. A key that is not
listed holds the table's default value, which each use names. -/
abbrev Tbl (α : Type) := List (Nat × α)

end Sys2Proof
end

