-- ==== Sys2Proof/Syntax.lean ====
section
/-! DEFINITION. The commands of the K20: one constructor for each row of the opcode table, with the
operands the spec gives the row. Operands are numbers of queues, stations, stacks and so on; where the
surroundings or the hardware's physics decide something (a sample, a training result, an ECC verdict,
which granule is taken), the command carries it. A command of the host's packet protocol names its
packet by queue and sequence number, and its parameters stand in the packet's bytes (R385). -/

namespace Sys2Proof

/-- What start-up finds in the package and at the pins (R459-R469, R622-R630). -/
structure BootIn where
  /-- strap words read by dies that do not read the word of their place: (die, word) -/
  straps : List (Nat × Nat)
  /-- failing lanes found by training: (link, bundle, mask of lanes 0-17) -/
  lanes : List (Nat × Nat × Nat)
  /-- unexpected strap words received by a bundle: (link, bundle, word) -/
  words : List (Nat × Nat × Nat)
  /-- channels that fail training: (stack, channel) -/
  chFail : List (Nat × Nat)
  /-- fuses read and the identity key derived (R630 IDENTITY_FAIL when false) -/
  fuseOk : Bool
  /-- the die whose control-core memory or host write cache fails its test, if one does -/
  memFail : Option Nat
  /-- PD1 answers in step 10 -/
  pd1Answers : Bool
  /-- the image started reaches READY within 100 ms -/
  imageReady : Bool
  /-- sideband inputs as sampled: asserted or not -/
  perst : Bool
  pwrbrk : Bool
  trayStop : Bool
  /-- ADDR[1:0] as read at power-on -/
  addr : Nat
  /-- PCIe link comes up (REFCLK present and the link partner trains) -/
  linkTrains : Bool
  /-- the stored calibration set reads back whole (R544) -/
  calOk : Bool
  /-- REF counts the start-up or the rung takes -/
  elapsed : Nat
deriving DecidableEq, Repr

/-- What training at a rung 3 or in a retraining window finds. -/
structure TrainIn where
  /-- failing lanes: (link, bundle, mask of lanes 0-17) -/
  lanes : List (Nat × Nat × Nat)
  words : List (Nat × Nat × Nat)
  /-- microseconds the training took -/
  us : Nat
deriving DecidableEq, Repr

/-- One partition's rail sample (R539, R541): total energy, active part, and activity counts by
launch or command: (queue, sequence, context, count). All energies in µJ. -/
structure PartSample where
  total : Nat
  active : Nat
  acts : List (Nat × Nat × Nat × Nat)
deriving DecidableEq, Repr

/-- A 10 µs power sample (R539): input in 10 mV and 10 mA units, energies in µJ, means in W. -/
structure PowerIn where
  volts : Nat
  amps : Nat
  inUj : Nat
  portUj : Nat
  parts : List PartSample
  mean1ms : Nat
  mean10ms : Nat
  port10ms : Nat
deriving DecidableEq, Repr

/-- An MCTP message on the management sideband (R649). -/
inductive Mctp where
  /-- PLDM monitoring: read of a numeric sensor: 0 voltage, 1 current, 2 power, 3 energy, 16 + d the temperature of die d -/
  | sensor (n : Nat)
  /-- PLDM firmware update of an image slot (false A, true B) with the image's bytes -/
  | image (slot : Bool) (bytes : List Byte)
deriving DecidableEq, Repr

/-- A JTAG TAP instruction (R646). -/
inductive Jtag where
  | bypass
  | idcode
  | samplePreload
  | extest
  /-- access to an SEC_DBG_ register: block offset, and the value written or none for a read -/
  | secDbg (off : Nat) (val : Option Nat)
  | other (ir : Nat)
deriving DecidableEq, Repr

/-- A thread group on a station: station number 168·partition + 14·row + column, and group 0-63. -/
structure Grp where
  stn : Nat
  g : Nat
deriving DecidableEq, Repr

/-- The fields of a shader instruction below its CLASS and OP (R200). `low` is bits [31:0]: SB, SC and
MOD in the register form, IMM in the immediate form. -/
structure ShIns where
  pred : BitVec 3
  pneg : Bool
  form : BitVec 2
  dst : BitVec 8
  sa : BitVec 8
  low : BitVec 32
deriving DecidableEq, Repr

/-- A station fault that the hardware detects (R83, R84). -/
structure FaultIn where
  stn : Nat
  code : Nat
  indexKind : Nat
  index : Nat
  codeOffset : Nat
  address : Nat
  detail : Nat
deriving DecidableEq, Repr

/-- The agent behind a request to a home (R298, R329). -/
inductive Agent where
  /-- a read for the station cache of a station -/
  | cache (stn : Nat)
  /-- piece `k` of transfer `x` of a station (copy, stream, gather or scatter) -/
  | xfer (stn x k : Nat)
  /-- a miss register of an RG station -/
  | missReg (stn r : Nat)
  /-- a copy or other work of a command -/
  | cmd (queue seq : Nat)
  /-- a control core of a port die -/
  | core (die : Nat)
  /-- an inbound Riberex packet, by window and tag -/
  | rbx (window src tag : Nat)
  /-- the host through BAR4 -/
  | bar4
  /-- a semaphore wait or add of a station's descriptor -/
  | sem (stn : Nat)
  /-- a semaphore wait or add of a thread group -/
  | semGrp (stn g : Nat)
  /-- the Piper, placing results of a route plan -/
  | piper (plan : Nat)
deriving DecidableEq, Repr

/-- A request to a line's home: stack, stack-local line number, context, handle of the translating
extent, and the agent. -/
structure Req where
  stack : Nat
  line : Nat
  ctx : Nat
  handle : Nat
  who : Agent
deriving DecidableEq, Repr

/-- A reduction's operation (R309) on a line. -/
structure RedOp where
  /-- 0 add, 1 maximum, 2 minimum -/
  op : Nat
  /-- 0 binary32, 1 bfloat16, 2 INT32 -/
  ty : Nat
  /-- element mask -/
  mask : Nat
  /-- 128 operand bytes -/
  data : List Byte
  ordered : Bool
  seq : Nat
  count : Nat
deriving DecidableEq, Repr

/-- What a read from a stack finds: the line as written, 16-bit symbols in error in one of its two 64-byte words (the worse of
the two), or data that fail their MAC (R278, R566). -/
inductive Ecc where
  | clean
  | symbols (n : Nat)
  | macMismatch
deriving DecidableEq, Repr

/-- A Riberex packet's header fields and data (R498). -/
structure Pkt where
  ptype : Nat
  op : Nat
  src : Nat
  dst : Nat
  window : Nat
  counter : Nat
  offset : Nat
  length : Nat
  status : Nat
  tag : Nat
  mask : Nat
  /-- the reserved fields of the header are zero -/
  reservedOk : Bool
  data : List Byte
deriving DecidableEq, Repr

/-- A Riberex flit (R491): sequence, acknowledged sequence, NAK bit, channel, returned credits, CRC good. -/
structure RFlit where
  seq : Nat
  ackSeq : Nat
  nak : Bool
  vc : Nat
  credits : List Nat
  crcOk : Bool
deriving DecidableEq, Repr

/-- Where the device places what it allocates: a starting extent number, and starting granules, one
for each granule taken. The device takes the first free one at or after each. -/
structure AllocHint where
  num : Nat
  grans : List Nat
deriving DecidableEq, Repr

/-- Counts of one load window of a link (R472): high-load or not, retries and corrected symbols per
bundle, and corrected errors per channel of the watched stack. -/
structure LoadIn where
  high : Bool
  retries : List Nat
  corrected : List Nat
  chCorrected : List Nat
deriving DecidableEq, Repr

/-- The commands of the device, one for each row of the opcode table. -/
inductive Instr where
  -- power, pins and the PCIe endpoint
  | powerOn (b : BootIn)
  | imageFault (ready : Bool) (pd1 : Bool)
  | undervoltageStop
  | overvoltageStop
  | powerSample (m : PowerIn)
  | poweredHour
  | thermalSample (die tj : Nat)
  | budgetWindow (part baseW portW : Nat)
  | boostStep (part west east : Nat)
  | pwrbrkAssert (watts : Nat)
  | pwrbrkRelease
  | sidebandChatter (input episodes watts : Nat)
  | trayStopOn (watts : Nat)
  | trayStopOff
  | perstAssert
  | perstDeassert (b : BootIn)
  | perstChatter (episodes : Nat)
  | linkDown
  | hotReset (b : BootIn)
  | functionLevelReset (b : BootIn)
  | d3hotEntry
  | d0Return
  | doeSpdm (req : List Byte)
  | mctpMessage (m : Mctp)
  | dynamicAddress (addr : Nat)
  | jtagInstruction (ir : Jtag)
  -- BAR0 registers
  | registerWrite (off size val : Nat)
  | readClear (off size : Nat)
  | q0Enable (val : Nat)
  | q0Restart
  | faultTailWrite (val : Nat)
  | eventTailWrite (val : Nat)
  | pendingWrite (stack mask : Nat)
  | ueThreshWrite (stack : Nat) (channel : Option Nat) (val : Nat)
  | seamRetrainReq (link : Nat)
  | rbxModeSet (val : Nat)
  | rbxRetrain (port : Nat)
  | owinValidSet (w val : Nat)
  | owinValidClear (w : Nat)
  | unlock
  -- the posting window and the command protocol
  | bar2Write (off : Nat) (data : List Byte)
  | sealWord (off val : Nat)
  | takePacket (q : Nat)
  | commandStart (q seq : Nat)
  | reply (q seq : Nat)
  | eventRecord
  -- commands of the host
  | ctxCreate (q seq : Nat)
  | ctxDestroy (q seq : Nat)
  | ctxFlags (q seq : Nat)
  | queueCreate (q seq : Nat)
  | queueDestroy (q seq : Nat)
  | queueReset (q seq : Nat)
  | faultResume (q seq : Nat)
  | extCreate (q seq : Nat) (h : AllocHint)
  | extDestroy (q seq : Nat)
  | extShare (q seq : Nat)
  | extUnmap (q seq : Nat)
  | extQuery (q seq : Nat)
  | pin (q seq : Nat)
  | unpin (q seq : Nat)
  | apertureSet (q seq : Nat)
  | windowSet (q seq : Nat)
  | counterReset (q seq : Nat)
  | recipeLoad (q seq : Nat)
  | recipeCheck (q seq : Nat)
  | recipeUnload (q seq : Nat)
  | launch (q seq : Nat)
  | copy (q seq : Nat)
  | fillCommand (q seq : Nat)
  | semWaitCommand (q seq : Nat)
  | semWaitTimeout (q seq : Nat)
  | semReleaseCommand (q seq : Nat)
  | flush (q seq : Nat)
  | budgetSet (q seq : Nat)
  | capSet (q seq : Nat)
  | modeSet (q seq : Nat)
  | sliceCreate (q seq : Nat)
  | sliceResize (q seq : Nat)
  | sliceDestroy (q seq : Nat)
  | slicePasid (q seq : Nat)
  | dirtyLog (q seq : Nat)
  | spdm (q seq : Nat)
  | setKey (q seq : Nat)
  | bundleImport (q seq : Nat)
  | setDestroy (q seq : Nat)
  | reset (q seq : Nat)
  | crumbRead (q seq : Nat)
  | crashBufferSet (q seq : Nat)
  | calRead (q seq : Nat)
  | calWrite (q seq : Nat)
  | clockCorr (q seq : Nat) (uncert : List Nat)
  | energyRead (q seq : Nat)
  -- scheduling and placement
  | serviceTick (cplx : Nat)
  | timeSliceEnd (ctx : Nat)
  | placement (launch : Nat) (grans : List Nat)
  | overrunKill (ctx : Nat)
  | restPointReached (launch inst : Nat)
  | saveDone (launch inst : Nat)
  | restoreDone (launch inst : Nat)
  | instanceComplete (launch inst : Nat)
  | launchComplete (launch : Nat)
  -- streams and descriptors
  | flitArrival (launch inst stream k : Nat)
  | creditReturn (launch inst stream : Nat)
  | descriptorComplete (stn idx : Nat)
  | stationFault (f : FaultIn)
  | loop (stn : Nat)
  | recv (stn : Nat)
  | send (stn : Nat)
  | copyIn (stn : Nat)
  | copyOut (stn : Nat)
  | explicitCopyDone (stn x : Nat)
  | semWait (stn : Nat)
  | semRelease (stn : Nat)
  | matmul (stn : Nat)
  | conv (stn : Nat)
  | attnScore (stn : Nat)
  | attnPv (stn : Nat)
  | attnFinal (stn : Nat)
  | eltwise (stn : Nat)
  | reduce (stn : Nat)
  | run (stn : Nat)
  -- shader instructions
  | iadd (u : Grp) (w : ShIns)
  | isub (u : Grp) (w : ShIns)
  | imul (u : Grp) (w : ShIns)
  | imuladd (u : Grp) (w : ShIns)
  | imin (u : Grp) (w : ShIns)
  | imax (u : Grp) (w : ShIns)
  | and (u : Grp) (w : ShIns)
  | or (u : Grp) (w : ShIns)
  | xor (u : Grp) (w : ShIns)
  | not (u : Grp) (w : ShIns)
  | shl (u : Grp) (w : ShIns)
  | shr (u : Grp) (w : ShIns)
  | shra (u : Grp) (w : ShIns)
  | bitcnt (u : Grp) (w : ShIns)
  | leadz (u : Grp) (w : ShIns)
  | icmp (u : Grp) (w : ShIns)
  | fadd (u : Grp) (w : ShIns)
  | fmul (u : Grp) (w : ShIns)
  | fmuladd (u : Grp) (w : ShIns)
  | fmin (u : Grp) (w : ShIns)
  | fmax (u : Grp) (w : ShIns)
  | fcmp (u : Grp) (w : ShIns)
  | rcp (u : Grp) (w : ShIns)
  | rsqrt (u : Grp) (w : ShIns)
  | sqrt (u : Grp) (w : ShIns)
  | exp2 (u : Grp) (w : ShIns)
  | log2 (u : Grp) (w : ShIns)
  | sin (u : Grp) (w : ShIns)
  | cos (u : Grp) (w : ShIns)
  | tanh (u : Grp) (w : ShIns)
  | ftoi (u : Grp) (w : ShIns)
  | itof (u : Grp) (w : ShIns)
  | fcvt (u : Grp) (w : ShIns)
  | pack2 (u : Grp) (w : ShIns)
  | unpack2 (u : Grp) (w : ShIns)
  | mov (u : Grp) (w : ShIns)
  | movi (u : Grp) (w : ShIns)
  | sel (u : Grp) (w : ShIns)
  | threadno (u : Grp) (w : ShIns)
  | groupno (u : Grp) (w : ShIns)
  | stationno (u : Grp) (w : ShIns)
  | laneget (u : Grp) (w : ShIns)
  | lanepoll (u : Grp) (w : ShIns)
  | psave (u : Grp) (w : ShIns)
  | pload (u : Grp) (w : ShIns)
  | ld (u : Grp) (w : ShIns)
  | st (u : Grp) (w : ShIns)
  | gmac (u : Grp) (w : ShIns)
  | gmload (u : Grp) (w : ShIns)
  | gmstore (u : Grp) (w : ShIns)
  | jump (u : Grp) (w : ShIns)
  | split (u : Grp) (w : ShIns)
  | join (u : Grp) (w : ShIns)
  | loopin (u : Grp) (w : ShIns)
  | leave (u : Grp) (w : ShIns)
  | issue (u : Grp) (w : ShIns)
  | gatherDone (stn x : Nat)
  | msemr (u : Grp) (w : ShIns)
  | msemw (u : Grp) (w : ShIns)
  | precv (u : Grp) (w : ShIns)
  | psend (u : Grp) (w : ShIns)
  | wait (u : Grp) (w : ShIns)
  | meet (u : Grp) (w : ShIns)
  | sema (u : Grp) (w : ShIns)
  | swait (u : Grp) (w : ShIns)
  | lock (u : Grp) (w : ShIns)
  | trylock (u : Grp) (w : ShIns)
  | nop (u : Grp) (w : ShIns)
  | rest (u : Grp) (w : ShIns)
  | finish (u : Grp) (w : ShIns)
  -- ray and gather stations, link stations
  | trace (stn : Nat)
  | rayBatchTake (stn : Nat)
  | resultBatchFlush (stn : Nat)
  | gatherHash (stn : Nat)
  | gatherEmbed (stn : Nat)
  | missFill (stn reg : Nat)
  | fetch (stn : Nat)
  | store (stn : Nat)
  -- the Piper
  | handOver (stn : Nat)
  | tokenRowArrival (plan expert k : Nat)
  | blockDelivery (plan expert : Nat)
  | resultHandOver (plan expert : Nat)
  | piperRemoteLost (plan expert block : Nat)
  -- coherence messages and reductions
  | gets (r : Req)
  | getu (r : Req)
  | getr (r : Req)
  | getc (r : Req)
  | write (r : Req) (mask : Nat) (data : List Byte)
  | red (r : Req) (o : RedOp)
  | homeSemWait (r : Req) (off val : Nat)
  | inv (stack line part : Nat)
  | invDrop (stn stack line : Nat)
  | partAck (stack line part : Nat)
  | stackDataArrival (stack line : Nat) (e : Ecc)
  | replicaRepair (handle line : Nat)
  | fill (k : Nat)
  | wrAck (k : Nat)
  | redAck (k : Nat)
  | semOk (k : Nat)
  | semRetry (k : Nat)
  | retry (k : Nat)
  | reductionApply (stack line : Nat)
  | holdEnd (stack line : Nat)
  | orderTimeout (stack line : Nat)
  | writeBatchDrain (stack channel : Nat)
  | scrubRead (stack line : Nat) (e : Ecc)
  | thrashWindow (stack slice : Nat)
  -- extents, faults and the aperture
  | extentWalk (stn ctx addr access agent index len : Nat)
  | staleExtent (stn ctx addr : Nat)
  | allStalled (ctx : Nat)
  | faultBatchDelivery (ctx : Nat)
  | bar4Read (off len : Nat)
  | bar4Write (off : Nat) (data : List Byte)
  | hostWcWriteback (die : Nat) (keys : List Nat)
  -- Riberex
  | rbxFlit (port : Nat) (f : RFlit)
  | rbxNak (port ackSeq : Nat)
  | idleTimeout (port : Nat)
  | rbxLossOfLock (port lane : Nat)
  | rbxPortUp (port lanesOk peer us : Nat)
  | rbxWrite (p : Pkt)
  | rbxRead (p : Pkt)
  | rbxRed (p : Pkt)
  | rbxSemAdd (p : Pkt)
  | rbxBarrier (p : Pkt)
  | rbxAck (p : Pkt)
  | rbxReadData (p : Pkt)
  | requestExpiry (tag : Nat)
  -- seams, fences, watchdogs and rungs
  | seamLaneLoss (link bundle lane : Nat)
  | loadWindow (link : Nat) (w : LoadIn)
  | retrainingWindow (link : Nat) (t : TrainIn)
  | dieClockLoss (die : Nat)
  | partitionFenced (part : Nat)
  | crustClockReturn (die : Nat)
  | partitionRestored (part : Nat)
  | homeUnavailableResend (k : Nat)
  | wdRest (stn : Nat)
  | wdCommand (q : Nat)
  | wdHome (stack line : Nat)
  | controlComplexWatchdog (cplx : Nat)
  | powerSequencerWatchdog
  | stationUe (stn : Nat) (cacheLine : Option (Nat × Nat))
  | fatalError (die source : Nat)
  | rung1 (ctx : Nat)
  | rung2 (stn : Nat)
  | rung3 (part : Nat) (t : TrainIn)
  | rung4 (b : BootIn)
  | rung5
  | rungEscalated (rung target hung : Nat)
  | shaderUnlock (u : Grp) (w : ShIns)
  | msixUnmask (vector : Nat)
  | bar4Resize (log2 : Nat)
  | faultRingEnable (val : Nat)
  | seamRetry (link bundle : Nat)
  | freedGranuleZeroed (stack granule : Nat)
deriving DecidableEq, Repr

end Sys2Proof
end

