-- ==== Sys2Proof/Decode.lean ====
section
/-! DEFINITION. The opcode table gives its rows no bits: a command of the K20 comes as a register access, a
packet, a message or an event, never as an instruction word, so no word spells a command. -/

namespace Sys2Proof

/-- The command that a word of the opcode table's bits spells: none, as no row has bits. -/
def decodeTableWord (_nbits _w : Nat) : Option Instr := none

end Sys2Proof
end

