-- ==== Sys2Proof/Config.lean ====
section
/-! DEFINITION. What the spec leaves to the hardware: opaque constants. Nothing in Lean can evaluate them,
so a statement that holds, holds whatever the hardware's value is. Each is named in the assumption log. -/

namespace Sys2Proof.Config

/-- Fused serial number (R627). [DESIGN CHOICE, log entry 100] -/
opaque serial : Nat
/-- Bytes of the device hash, by index 0-47 (R556). [DESIGN CHOICE, log entry 100] -/
opaque deviceHash : Nat → Byte
/-- The error of a die's reference oscillator, by die number; taken modulo 101 and less 50 it is in ppm (R39). [DESIGN CHOICE, log entry 123] -/
opaque ppm : Nat → Nat
/-- The nonce the random number generator gives at its n-th draw (R581). -/
opaque nonce : Nat → Nat
/-- Lowest SVN fused when the module leaves the factory (R559). -/
opaque svnFloor : Nat
/-- Factory voltage in mV of half h, point k (R545). [DESIGN CHOICE, log entry 100] -/
opaque factoryVolt : Nat → Nat → Nat
/-- Factory guardband maximum and rate of half h, point k (R545). [DESIGN CHOICE, log entry 100] -/
opaque factoryGb : Nat → Nat → Nat
/-- Factory forced map-out mask of a stack (R544). -/
opaque factoryMask : Nat → Nat
/-- Factory trim and preset bytes, by offset in the set (R544). -/
opaque factoryTrim : Nat → Byte
/-- SHA-384 of a byte string, byte i (R556, R559, R572). [DESIGN CHOICE, log entry 101] -/
opaque sha384 : List Byte → Nat → Byte
/-- ECDSA verification of an image header against the fused Lomkel firmware key (R559). [DESIGN CHOICE, log entry 101] -/
opaque fwSigOk : List Byte → Bool
/-- ECDSA verification of a debug token against the fused debug key (R581). [DESIGN CHOICE, log entry 101] -/
opaque dbgSigOk : List Byte → Bool
/-- The set key a SET_KEY message unwraps to on this device, none where the point is not on the curve or
the tag fails (R569). [DESIGN CHOICE, log entry 101] -/
opaque setKey : List Byte → Option (List Byte)
/-- HMAC-SHA-384 of a message under a key, byte i (R570). -/
opaque hmac : List Byte → List Byte → Nat → Byte
/-- The bundle key that a wrapped key unwraps to under a set key (R573). -/
opaque unwrap : List Byte → List Byte → Option (List Byte)
/-- GCM decryption of a payload: key, nonce, additional data, payload, tag; none where the tag fails (R574). -/
opaque gcm : List Byte → List Byte → List Byte → List Byte → List Byte → Option (List Byte)
/-- The Lomkel root certificate and the Lomkel Korhild K20 intermediate (R557). [DESIGN CHOICE, log entry 101] -/
opaque rootCert : List Byte
opaque midCert : List Byte
/-- The device identity certificate, which binds a device hash, an ordering code and a serial number (R557). [DESIGN CHOICE, log entry 101] -/
opaque identityCert : List Byte → List Byte → Nat → List Byte
/-- The boot ROM of PD0 (R559, R562). [DESIGN CHOICE, log entry 101] -/
opaque bootRom : List Byte
/-- The SPDM response to a request, given the certificate chain of each slot, the measurement blocks with their indices, and the
messages so far on the connection (R557, R560-R562). [DESIGN CHOICE, log entry 101] -/
opaque spdmResponse : List (List (List Byte)) → List (Nat × List Byte) → List (List Byte) → List Byte → List Byte
/-- Whether an SPDM exchange leaves the connection with IDE keys set and started (R563). -/
opaque spdmIde : List (List Byte) → List Byte → Bool

/-- Sum of terms when the order or the width of summation shows (R97, R110, R130): subnormal mode, and each term as sign,
integer and exponent, with (s, 0, 1) for an infinity and (false, 0, 2) for a NaN. [DEDUCED, log entry 71] -/
opaque arraySum : Bool → List (Bool × Nat × Int) → Word
/-- The sticky flags of such a sum (R136, R139). -/
opaque sumFlags : Bool → List (Bool × Nat × Int) → Nat
/-- Result of a special function, which the device may deliver where it lies within the bound of the spec: function code and
argument (R204). [DEDUCED, log entry 64] -/
opaque sfu : Nat → Word → Word
/-- Result of an epilogue function, which the device may deliver where it is close to the exact value (R115). [DESIGN CHOICE, log entry 72] -/
opaque epiFn : Nat → Word → Word
/-- The flags of a result that the spec states no value for, by function code and argument (R139). [DEDUCED, log entry 64] -/
opaque fnFlags : Nat → Word → Nat
/-- A shape or register number that a descriptor leaves unnamed: number of the case, and the descriptor (R107, R108). [DESIGN CHOICE, log entry 61] -/
opaque openField : Nat → List Byte → Nat
/-- A result that the spec states no value for: number of the case, and its operands. [DESIGN CHOICE, log entry 61] -/
opaque unstated : Nat → List Word → Word
/-- Whether a box test reports a hit, and the entry distance (R233). -/
opaque boxTest : List Word → Option Word
/-- Result of a triangle test: distance and barycentric coordinates (R234). -/
opaque triTest : List Word → Option (Word × Word × Word)
/-- The directory set of a stack-local line, taken modulo 16,384 (R295). [DESIGN CHOICE, log entry 99] -/
opaque dirSet : Nat → Nat
/-- Hash of a line address by which a seam link chooses a bundle (R464). [DESIGN CHOICE, log entry 25] -/
opaque lineHash : Nat → Word
/-- A free value drawn at the n-th open choice. [DESIGN CHOICE, log entry 118] -/
opaque freeValue : Nat → Word

end Sys2Proof.Config
end

