-- ==== Sys2Proof/Machine/Flags.lean ====
section
/-! DEFINITION. The sticky floating-point flags of a station and a context (R139). -/

namespace Sys2Proof.Machine

/-! ### Sticky flags (R139) -/

def fInvalid : Nat := 1
def fOverflow : Nat := 2
def fUnderflow : Nat := 4
def fInexact : Nat := 8
def fFlush : Nat := 16

/-- A flag where a condition holds. -/
def flagIf (b : Bool) (f : Nat) : Nat := if b then f else 0

/-- The five sticky flags, bits [4:0]. -/
def allFlags : Nat := 31

end Sys2Proof.Machine
end

