-- ==== Sys2Proof/Machine/State.lean ====
section
/-! DEFINITION. The state of the K20: every register, table, buffer, queue and pin the spec gives the
device, as plain data, and `State.reset`, the module with its supplies off and every register at its
reset value. Registers with many copies are sparse tables whose default is the reset value. -/

namespace Sys2Proof.Machine

/-- Why a step faults. No command of the device stops the model with a fault. -/
inductive Fault where
  /-- Raised by no meaning: the spec gives every command an effect. Safe. -/
  | stuck
deriving DecidableEq, Repr

/-- Why a step is refused. -/
inductive Refusal where
  /-- Raised by an arm of `exec` whose command has no meaning yet. Safe. -/
  | notModelled (mnemonic : String)
deriving DecidableEq, Repr

/-! ### Clocks -/

/-- REF counters and clock-correlation records (R38-R42). [DESIGN CHOICE, log entry 118] -/
structure Clk where
  /-- 64-bit REF counter of each die, by die number (R38) -/
  ref : Tbl Nat := []
  /-- dies whose clock is lost (R479) -/
  lost : List Nat := []
  /-- nominal 40 ns periods since power-on: no register shows it, and each die's counter departs from it by its own
  oscillator's error (R39) -/
  ticks : Nat := 0
  /-- a correlation marker in flight: every die's counter at the instant it left PD0 (R40, R42) -/
  marker : Option (Tbl Nat) := none
  /-- CLOCK_CORR commands that the marker in flight answers, and those that the next one answers: (queue, seq) (R42) -/
  corrWait : List (Nat × Nat) := []
  corrNext : List (Nat × Nat) := []
  /-- SEQ of the next clock-correlation record (R41) -/
  corrSeq : Nat := 0
  /-- ID_CLOCK_REC: the bytes of the most recent record (R628) -/
  record : List Byte := []
  /-- the model's own count of answers the device drew from an open choice -/
  free : Nat := 0
deriving DecidableEq, Repr

/-! ### Power -/

/-- Where the module stands between its supply and READY (R522, R549, R601, R622, R631). -/
inductive Phase where
  /-- regulators off; starts when the input reaches 45 V -/
  | off
  /-- off after an overvoltage stop: the input must first fall below 44 V -/
  | offOver
  /-- off after a thermal trip: THERMTRIP_N held until the input falls below 44 V -/
  | offTrip
  /-- start-up waits for a started Uhlug image to reach READY -/
  | starting
  /-- boot halt (R631) -/
  | halted
  /-- READY: Uhlug takes packets -/
  | ready
  /-- rung 5 holds the module until its input is lost (R601) -/
  | held
deriving DecidableEq, Repr

/-- PWR_HALFh_CLK: the point and voltage of a half-die (R533, R554). -/
structure HalfClk where
  point : Nat := 12
  volt : Nat := 0
deriving DecidableEq, Repr

/-- A slice's power breach on a partition, as last recorded (R436, R527). -/
structure Breach where
  granted : Nat
  received : Nat
  /-- REF count of the planner's port die when the breach began -/
  since : Nat
deriving DecidableEq, Repr

/-- Power, planner, calibration and thermal state (R520-R554). -/
structure Pwr where
  phase : Phase := .off
  /-- PWR_STATUS.MODE in force at each partition's planner: 0 boost, 1 fixed (R532) -/
  mode : Tbl Nat := []
  /-- mode selected by MODE_SET, taking effect at each window start -/
  modeSel : Nat := 1
  /-- CAP_W -/
  cap : Nat := 4400
  /-- a CAP_SET stored while the brake is in force (R538) -/
  capStored : Option Nat := none
  /-- PWRBRK_N in force -/
  brake : Bool := false
  /-- stations and engines have stopped since PWRBRK_N was asserted: the planner has not restarted the halves yet (R537) -/
  braked : Bool := false
  /-- REF count of PD0 when the brake was asserted -/
  brakeAt : Nat := 0
  /-- dies at their throttle level and not yet below 93 °C -/
  throttled : List Nat := []
  /-- dies at their alert level and not yet below 98 °C -/
  alerting : List Nat := []
  /-- ALERT_N asserted for temperature: since a die's alert, until every die is below 98 °C (R548) -/
  alertOn : Bool := false
  /-- PWR_INPUT.VOLTAGE, 10 mV -/
  volts : Nat := 0
  /-- the input lay outside 46-59 V at the last sample (R643) -/
  inputOut : Bool := false
  /-- PWR_INPUT.CURRENT, 10 mA -/
  amps : Nat := 0
  /-- mean input over 1 ms and over 10 ms, W -/
  mean1ms : Nat := 0
  mean10ms : Nat := 0
  /-- port dies' mean draw over 10 ms, W -/
  port10ms : Nat := 0
  /-- PWR_STATUS.PORT_RES_W -/
  portRes : Nat := 0
  /-- 64-bit energy counters, µJ (R540) -/
  eIn : Nat := 0
  ePort : Nat := 0
  ePart : Tbl Nat := []
  eQueue : Tbl Nat := []
  eCtx : Tbl Nat := []
  /-- PWR_PLAN_CFG.BORROW -/
  borrow : Nat := 4
  /-- PWR_CAL -/
  hours : Nat := 0
  writes : Nat := 0
  origin : Nat := 0
  /-- the stored calibration set (R544), as bytes; empty: factory bytes not read into the model -/
  cal : List Byte := []
  /-- a written set that takes effect at the next rung 5 (R547) -/
  calNext : Option (List Byte) := none
  /-- the boot ROM's built-in set is in force (R630) -/
  calDefault : Bool := false
  /-- PWR_PARTp_BUDGET: grantable mW and base draw W -/
  grantMw : Tbl Nat := []
  baseW : Tbl Nat := []
  /-- the planner's pool, µJ, per partition (R527, R530) -/
  pool : Tbl Nat := []
  /-- remaining budget, µJ, by slice·16 + partition (R530) -/
  remaining : Tbl Int := []
  /-- budget of the current window, µJ, by slice·16 + partition -/
  budget : Tbl Nat := []
  /-- grants replaced by BUDGET_SET, µJ, by slice·16 + partition (R527) -/
  grants : Tbl Nat := []
  /-- power breaches open, by slice·16 + partition -/
  breaches : Tbl Breach := []
  /-- window of the last CHANGE record of a slice and resource, by writing die (R436), by (resource·128 + slice)·2 + die, plus 1 -/
  changeAt : Tbl Nat := []
  /-- power cap of each half-die, mW: its share of its partition's budget (R27, R536) -/
  halfMw : Tbl Nat := []
  /-- PWR_HALFh_CLK by half number -/
  halves : Tbl HalfClk := []
  /-- PWR_TEMPd: TJ_C and MAX_C, by die number -/
  tj : Tbl Nat := []
  tmax : Tbl Nat := []
  /-- REF counts of the last INPUT_RANGE event and of the last FIXED_DELAY of each partition -/
  inputAt : Option Nat := none
  delayAt : Tbl Nat := []
  /-- commands delayed per partition since the last FIXED_DELAY -/
  delayed : Tbl Nat := []
deriving DecidableEq, Repr

/-! ### Pins, sideband and JTAG -/

/-- DBG_OBS_SELn (R647). -/
structure ObsSel where
  die : Nat := 0
  group : Nat := 0
  index : Nat := 0
  enable : Bool := false
deriving DecidableEq, Repr

/-- A PLDM platform event message (R649): THERMAL_ALERT of a die with its junction in °C, or a new ID_BOOT.STATUS. -/
inductive PlatEvent where
  | thermal (die tj : Nat)
  | boot (status : Nat)
deriving DecidableEq, Repr

/-- Sideband signals as the device sees them (R636-R651). [PRESUMED, log entry 36; DESIGN CHOICE, log entry 119] -/
structure Pins where
  perst : Bool := false
  pwrbrk : Bool := false
  trayStop : Bool := false
  perstChat : Bool := false
  pwrbrkChat : Bool := false
  stopChat : Bool := false
  /-- PERST_N was asserted in the boot halt under way: its release restarts start-up (R626) -/
  perstHalt : Bool := false
  thermtrip : Bool := false
  alert : Bool := false
  fault : Bool := false
  trayCycle : Bool := false
  addr : Nat := 0
  i3c : Bool := false
  /-- I3C dynamic address, when assigned (R648) -/
  dynAddr : Option Nat := none
  /-- REF count of PD0 when TRAY_STOP_N was taken as asserted -/
  stopAt : Nat := 0
  /-- REF count of the last SIDEBAND_CHATTER event of each input -/
  chatAt : Tbl Nat := []
  obs : Tbl ObsSel := []
  /-- JTAG: the instruction in force, and the value last shifted out -/
  jtag : Option Jtag := none
  tdo : Nat := 0
  /-- the last MCTP response: sensor value or acknowledgement -/
  mctpOut : Nat := 0
  /-- PLDM platform event messages sent, oldest first (R649) -/
  platform : List PlatEvent := []
deriving DecidableEq, Repr

/-! ### PCIe endpoint and host memory -/

/-- Identity values of the function's configuration space; its Device Serial Number capability is `cfgSerial` (R1, R616). -/
structure CfgId where
  vendor : Nat := 0x1F2B
  device : Nat := 0x2040
  revision : Nat := 0x11
  classCode : Nat := 0x120000
  subVendor : Nat := 0x1F2B
  subsystem : Nat := 0x0001
deriving DecidableEq, Repr

/-- The PCIe endpoint (R614-R620, R624). [PRESUMED, log entry 12; DESIGN CHOICE, log entry 119] -/
structure Pci where
  /-- the endpoint is out of reset -/
  active : Bool := false
  linkUp : Bool := false
  /-- configuration-space identity (R616) -/
  cfg : CfgId := {}
  d3hot : Bool := false
  /-- MSI-X: vectors whose mask bit is clear, function mask, pending-bit array, messages delivered (oldest first)
  (R618) -/
  unmasked : List Nat := []
  functionMask : Bool := false
  pba : List Nat := []
  msix : List Nat := []
  /-- raw MSI-X table dwords, by byte offset within the table -/
  table : Tbl Nat := []
  /-- XT_AP_CFG.LOG2_SIZE -/
  bar4Log2 : Nat := 36
  /-- the link IDE stream is active (R563) -/
  ide : Bool := false
  /-- read data returned by the last BAR0 or BAR4 read -/
  rdData : List Byte := []
  /-- the last read completion carried the poisoned-data bit (R370) -/
  rdPoison : Bool := false
deriving DecidableEq, Repr

/-- Host memory as the device's transfers see it, and the host write caches (R344-R348). [DESIGN CHOICE, log entry 5] -/
structure HostMem where
  /-- bytes of host memory, keyed 2^64·(PASID + 1) + address, or the address alone without PASID -/
  mem : Tbl Byte := []
  /-- dirty bytes of the two host write caches (R345); bit 12 of the address names the cache -/
  dirty : Tbl Byte := []
deriving DecidableEq, Repr

/-- Identity registers (R627). -/
structure Ident where
  stage : Nat := 0
  status : Nat := 0
  die : Nat := 0x3F
  elapsedMs : Nat := 0
  hostwcLost : Nat := 0
  readyCount : Nat := 0
deriving DecidableEq, Repr

/-! ### Command protocol -/

/-- Where a taken command stands between taking and reply (R390-R394). -/
inductive CmdPhase where
  | taken
  | started
  /-- carried out with a status and DETAIL; its reply is to be written -/
  | done (status detail : Nat)
deriving DecidableEq, Repr

/-- A stalled access that a FAULT_RESUME lets try again (R376). -/
inductive Retry where
  /-- piece `k` of a station's transfer -/
  | piece (stn xid k : Nat)
  /-- the semaphore access of a station's descriptor -/
  | sem (stn : Nat)
  /-- the semaphore access of a thread group -/
  | semGrp (stn grp : Nat)
  /-- a ray slot, point or bag -/
  | slot (stn n : Nat)
deriving DecidableEq, Repr

/-- A command taken from a queue. -/
structure TakenCmd where
  seq : Nat
  op : Nat
  flags : Nat
  energy : Nat
  ctx : Nat
  tag : Nat
  /-- the packet's bytes -/
  pkt : List Byte
  phase : CmdPhase
  /-- the planner has admitted it (R530) -/
  admitted : Bool
  /-- energy shares debited: (slice·16 + partition, µJ) -/
  shares : List (Nat × Nat)
  /-- keys of the shares charged to a partition's pool (R530) -/
  pooled : List Nat := []
  /-- measured energy so far, µJ (R531) -/
  used : Nat
  /-- REF count of its control complex when it started (R593) -/
  startAt : Nat
  /-- REF count from which a bound that begins later runs: the last instance complete, the last reply of a queue, or the
  last line moved (R405, R593) -/
  boundAt : Option Nat := none
  /-- REF counts since then at which TRAY_STOP_N stopped its watchdog (R641) -/
  paused : Nat := 0
  /-- stalled accesses that a FAULT_RESUME lets try again: its reply follows the first retry of each (R376) -/
  retries : List Retry := []
deriving DecidableEq, Repr

/-- CMD_Qn_STATE.STATE -/
inductive QState where
  | free | running | stopped | draining
deriving DecidableEq, Repr

/-- One queue (R381-R400, R408). [DEDUCED, log entry 115] -/
structure Queue where
  /-- its own number -/
  num : Nat := 0
  state : QState := .free
  cplx : Nat := 0
  slice : Nat := 0
  /-- the PASID, none for manager queues -/
  pasid : Option Nat := none
  vector : Nat := 0
  homePart : Nat := 0
  log2 : Nat := 8
  ring : Nat := 0
  next : Nat := 0
  stopCause : Nat := 0
  /-- sequence number that stopped the queue, while its QUEUE_STOPPED reply is owed -/
  stopSeq : Option Nat := none
  stale : Nat := 0
  /-- replies written since the ring was named -/
  replies : Nat := 0
  /-- sequence numbers sealed and not yet taken, with the seal's LEN -/
  sealed : List (Nat × Nat) := []
  /-- commands taken and not yet replied, in order of taking -/
  cmds : List TakenCmd := []
deriving DecidableEq, Repr

/-- A record raised for the manager's event ring and, where named, a slice's manager page (R401, R448). -/
structure EvRec where
  bytes : List Byte
  /-- slice whose manager page also gets it -/
  slice : Option Nat
deriving DecidableEq, Repr

/-- The command protocol's registers, queues, posting window and event ring (R408). -/
structure CmdSt where
  ready : Bool := false
  orphan : Nat := 0
  q0ring : Nat := 0
  q0log2 : Nat := 8
  q0vec : Nat := 0
  q0enable : Bool := false
  /-- RESTART was written while the stopped queue 0 still owes a reply (R400) -/
  q0restart : Bool := false
  evBase : Nat := 0
  evLog2 : Nat := 12
  evVec : Nat := 0
  evEnable : Bool := false
  evHead : Nat := 0
  evTail : Nat := 0
  evLost : Nat := 0
  evDelivered : Nat := 0
  /-- records raised and not yet written, oldest first -/
  evq : List EvRec := []
  queues : Tbl Queue := []
  /-- bytes of the posting window, by BAR2 offset -/
  window : Tbl Byte := []
deriving DecidableEq, Repr

/-! ### Tenants -/

/-- A slice's quota record and page (R438, R445, R654). -/
structure Slice where
  vector : Nat
  queueFirst : Nat
  queueCount : Nat
  windows : Nat
  contexts : Nat
  tsliceMs : Nat
  graceMs : Nat
  latTarget : Nat
  /-- memory quota in MiB and pin quota in MiB per stack -/
  memMib : Nat
  pinMib : Nat
  energyUj : Nat
  memBwFloor : Nat
  rbxBwFloor : Nat
  /-- stations granted: 168-bit masks by partition -/
  stations : Tbl Nat
  /-- the quota record's bytes in force -/
  record : List Byte
  /-- host address of the manager page -/
  page : Nat
  evHead : Nat := 0
  /-- records dropped since the last SLICE_EVENTS_LOST that found room -/
  evLost : Nat := 0
  /-- a resize in progress: (queue, seq) -/
  resizing : Option (Nat × Nat) := none
  /-- stations being taken away -/
  leaving : List Nat := []
  /-- dirty logging: on, dirty granules by stack·2^20 + granule, host log -/
  dirtyOn : Bool := false
  dirty : List Nat := []
  hostlog : List (Nat × Nat) := []
  hostlogOver : Bool := false
deriving DecidableEq, Repr

/-- A fault record's fields (R373). -/
structure FaultRec where
  die : Nat
  cause : Nat
  count : Nat
  address : Nat
  station : Nat
  access : Nat
  agent : Nat
  index : Nat
  merged : Nat
  length : Nat
deriving DecidableEq, Repr

/-- A fault batch (R374): open or waiting undelivered, or delivered and unresolved. -/
structure Batch where
  seq : Nat
  recs : List FaultRec
deriving DecidableEq, Repr

/-- A context (R355, R406, R409-R421). -/
structure Ctx where
  slice : Nat
  cls : Nat := 0
  weight : Nat := 10000
  /-- subnormal mode: true flush-to-zero (R136) -/
  flush : Bool := false
  cplx : Nat := 0
  dead : Bool := false
  /-- sticky flags, bits [4:0] (R139), and shader status word (R216) -/
  flags : Nat := 0
  shStatus : Nat := 0
  /-- service count and carried remainder (R413) -/
  service : Nat := 0
  carry : Nat := 0
  /-- REF count when the time slice began, none while no station is held (R415) -/
  sliceAt : Option Nat := none
  /-- the time slice has ended (R416, R417) -/
  sliceEnded : Bool := false
  /-- µs owed from time slices to come (R421) -/
  debit : Nat := 0
  /-- µs of overrun counted, while a pre-emption is requested (R419) -/
  overrun : Option Nat := none
  /-- the overrun is caused by the end of a time slice and will be debited -/
  overrunDebits : Bool := false
  /-- Recipe ID → recipe key -/
  recipes : Tbl Nat := []
  /-- open batch, full or triggered batches waiting for delivery, delivered ones -/
  openBatch : Option Batch := none
  /-- DAMAGED records owed at the next rest point of a running instance (R591) -/
  owedDamage : List FaultRec := []
  waiting : List (Batch × Nat) := []
  unresolved : List Batch := []
  batchSeq : Nat := 0
deriving DecidableEq, Repr

/-- Slices, contexts and PASID bindings. -/
structure Tenants where
  slices : Tbl Slice := []
  ctxs : Tbl Ctx := []
  /-- PASID → slice (R442) -/
  pasids : Tbl Nat := []
deriving DecidableEq, Repr

/-! ### Extents, apertures and windows -/

/-- An extent (R359-R363). -/
structure Extent where
  /-- generation (R366) -/
  gen : Nat
  length : Nat
  placement : Nat
  place : Nat
  /-- attribute bits as written, DAMAGED aside -/
  attr : Nat
  sharedSet : Nat
  replicaWhere : Nat
  sealSet : Nat
  owner : Nat
  slice : Nat
  /-- stack list and granules taken on each, 64 KiB granule numbers (R263) -/
  stks : List Nat
  grans : List (List Nat)
  tagGrans : List (Nat × Nat)
  repStacks : List Nat
  repGrans : List (List Nat)
  /-- granules of the extent loaded by bundle imports, by granule index (R571) -/
  loaded : List Nat
  damaged : Bool
  /-- a granule lies in a withdrawn range: DAMAGED stays (R589) -/
  withdrawn : Bool
  /-- poisoned lines written whole since DAMAGED was set, and the Crust die's REF count then -/
  repaired : Nat
  damagedAt : Nat
deriving DecidableEq, Repr

/-- A mapping of an extent in a context's address space. -/
structure Mapping where
  ctx : Nat
  start : Nat
  num : Nat
  /-- made by EXT_SHARE (membership, R363) -/
  shared : Bool
deriving DecidableEq, Repr

/-- A BAR4 aperture entry (R368). -/
structure ApEntry where
  ctx : Nat
  addr : Nat
  rd : Bool
  wr : Bool
deriving DecidableEq, Repr

/-- An inbound window's table entry (R378). -/
structure WinEntry where
  off : Nat
  len : Nat
  addr : Nat
  rights : Nat
  peer : Nat
deriving DecidableEq, Repr

/-- An inbound window (R377, R378). -/
structure Window where
  owner : Nat
  counterMode : Nat
  entries : List WinEntry
deriving DecidableEq, Repr

/-- Extents, apertures, windows, the fault ring and the XT_ registers (R380). -/
structure Xt where
  extents : Tbl Extent := []
  /-- last generation used by each extent number -/
  gens : Tbl Nat := []
  maps : List Mapping := []
  /-- freed granules not yet zeroed: (stack, granule, slice charged) (R367, R598) -/
  freeing : List (Nat × Nat × Nat) := []
  apertures : Tbl ApEntry := []
  apMisses : Nat := 0
  apPoisoned : Nat := 0
  apMissAt : Option Nat := none
  apSince : Nat := 0
  windows : Tbl Window := []
  /-- arrival counters, by window·16 + counter (R377) -/
  counters : Tbl Nat := []
  ringBase : Nat := 0
  ringLog2 : Nat := 12
  ringVec : Nat := 0
  ringEnable : Bool := false
  head : Nat := 0
  tail : Nat := 0
  delivered : Nat := 0
deriving DecidableEq, Repr

/-! ### Device memory and homes -/

/-- Device memory as its homes give it: bytes by stack·2^36 + stack-local address, unlisted bytes zero
(a fresh line reads as zeros, R600, R623), and poison marks by stack·2^29 + line. [DESIGN CHOICE, log entry 5; DESIGN CHOICE, log entry 7] -/
structure DevMem where
  cells : Tbl Byte := []
  poison : List Nat := []
deriving DecidableEq, Repr

/-- A message on its way from a home (R298). -/
inductive Msg where
  /-- FILL with the line's bytes as the home read them -/
  | fill (stack line : Nat) (data : List Byte) (poison : Bool) (dest : List Req)
  | wrAck (r : Req) (status : Nat)
  | redAck (r : Req) (status : Nat)
  | semOk (r : Req) (status : Nat)
  | semRetry (r : Req) (off val : Nat)
  | retry (r : Req) (o : RedOp)
  /-- a request answered HOME_UNAVAILABLE, NOT_OWNER or STALE_EXTENT -/
  | refuse (r : Req) (status : Nat)
deriving DecidableEq, Repr

/-- A request held at its home (R301, R303). -/
inductive HReq where
  | gets (r : Req)
  | getu (r : Req)
  | getr (r : Req)
  | getc (r : Req)
  | write (r : Req) (mask : Nat) (data : List Byte)
  | red (r : Req) (o : RedOp)
  | semWait (r : Req) (off val : Nat)
deriving DecidableEq, Repr

/-- Home state of a line (R303); NS is the default. -/
inductive LineSt where
  | ns | sh | fp | bl
deriving DecidableEq, Repr

/-- A line at its home (R295-R319). -/
structure HLine where
  st : LineSt := .ns
  /-- sharer-group masks by partition (R295) -/
  sharers : Tbl Nat := []
  /-- partitions whose PART_ACK is awaited -/
  await : List Nat := []
  /-- acknowledgements owed when the round ends -/
  owed : List Msg := []
  /-- a request of this line waits for a directory entry, which a recall frees; the lines that wait for this line's
  entry (R297) -/
  waitDir : Bool := false
  recallFor : List Nat := []
  /-- the stack's data of a pending fill has come, or none is needed: only a way of the cache is awaited (R318) -/
  ready : Bool := false
  /-- requests held, in arrival order -/
  held : List HReq := []
  /-- readers waiting for the stack, in arrival order -/
  merge : List HReq := []
  /-- accepted reductions not yet applied, in order (R316, R317) -/
  batch : List (Req × RedOp) := []
  /-- the line is held by a reduction batch -/
  isHeld : Bool := false
  /-- its batch is closed (R318) -/
  closed : Bool := false
  /-- REF count when it became blocked (R593) -/
  blockedAt : Nat := 0
  /-- the line is in the Crust cache, dirty or not -/
  cached : Bool := false
  dirty : Bool := false
deriving DecidableEq, Repr

/-- An open ordered sequence of a line (R320-R323). -/
structure Ordered where
  count : Nat
  next : Nat
  stored : List (Req × RedOp)
  since : Nat
deriving DecidableEq, Repr

/-- A waiter of a home or of a port die's arrival counters (R314, R377). -/
structure Waiter where
  r : Req
  off : Nat
  val : Nat
deriving DecidableEq, Repr

/-- The CRU_ register block of a Crust die (R291, R325). -/
structure Cru where
  chOut : List Nat := []
  chPending : Nat := 0
  mapped : Bool := false
  bundles : Nat := 15
  ueThresh : Nat := 8
  wrBatch : Nat := 16
  thrThresh : Nat := 262144
  thrEnable : Bool := false
  scrubH : Nat := 24
  scrubOn : Bool := true
  scrubPasses : Nat := 0
  /-- lines read in the current scrub pass, and the die's REF count when it began (R280) -/
  scrubDone : List Nat := []
  scrubAt : Nat := 0
  orderMs : Nat := 10
  recalls : Nat := 0
  closes : Nat := 0
  retries : Nat := 0
  timeouts : Nat := 0
  /-- corrected and uncorrectable errors by channel -/
  corr : Tbl Nat := []
  uncorr : Tbl Nat := []
  /-- misses of each slice in the current 1 ms window, and windows left silent (R289) -/
  misses : Tbl Nat := []
  silent : Tbl Nat := []
  /-- writes held for each channel (R269) -/
  wrHeld : Tbl (List Nat) := []
  /-- pseudo-LRU bits of each set, by bank·2048 + set, and lines in its 16 ways (0 none, else line + 1) -/
  plru : Tbl Nat := []
  ways : Tbl (List Nat) := []
  /-- directory entries in order of allocation: lines (R297) -/
  dirOrder : List Nat := []
  /-- lines whose fill waits for a way, in order (R318) -/
  wayWait : List Nat := []
  /-- number of each slice's current 1 ms window of misses, counted on the die's REF counter (R289) -/
  missWin : Tbl Nat := []
deriving DecidableEq, Repr

/-- Homes of all stacks. Lines are keyed stack·2^29 + line. -/
structure Home where
  lines : Tbl HLine := []
  ordered : Tbl Ordered := []
  /-- waiters of each stack, in order of registration; 20 and 21 are PD0 and PD1 (R377) -/
  waiters : Tbl (List Waiter) := []
  cru : Tbl Cru := []
  /-- pins: by stack·2^29 + line, the slices that pin it (R285, R286) -/
  pins : Tbl (List Nat) := []
  /-- messages on their way from homes, oldest first -/
  net : List Msg := []
  /-- requests answered HOME_UNAVAILABLE that their requester resends (R481) -/
  resend : List HReq := []
  /-- requests answered SEM_RETRY or RETRY, and the REF count of their requester's die from which they are sent again
  (R315, R321) -/
  later : List (HReq × Nat) := []
  /-- INV messages on their way to a partition's fan-out station: (key, partition) (R300) -/
  invs : List (Nat × Nat) := []
  /-- INV messages that a fan-out station has multicast, and stations that have not answered it: (key, partition),
  (key, station) (R300) -/
  fanned : List (Nat × Nat) := []
  drops : List (Nat × Nat) := []
  /-- preloads of PIN commands under way: queue, sequence number, lines still to fill (R285, R288) -/
  preloads : List (Nat × Nat × List Nat) := []
deriving DecidableEq, Repr

/-! ### Seams -/

/-- A bundle of a seam link (R466, R486): 1 FULL, 2 HALF, 3 OUT, 0 not trained or no such bundle. -/
structure Bundle where
  st : Nat := 0
  corrected : Nat := 0
  retries : Nat := 0
  spares : Nat := 2
  lastLane : Nat := 31
  /-- failing lanes found so far -/
  failed : Nat := 0
  /-- state before a lane lost lock in operation, 0 when none has since training (R468) -/
  was : Nat := 0
deriving DecidableEq, Repr

/-- A link's watch (R472, R473). -/
structure Watch where
  windows : Nat := 0
  retrains : Nat := 0
deriving DecidableEq, Repr

/-- Seam state and SEAM_ registers (R486). -/
structure Seam where
  fenced : List Nat := []
  absent : List Nat := []
  credit : List Nat := []
  highPct : Nat := 50
  watchMin : Nat := 10
  retryThresh : Nat := 16
  hbmThresh : Nat := 64
  corrThresh : Nat := 65536
  pendLinks : List Nat := []
  pendTrims : List Nat := []
  /-- SEAM_DIEn_ID.STRAPS and STATE by die -/
  straps : Tbl Nat := []
  dieState : Tbl Nat := []
  /-- bundles, by link·16 + bundle -/
  bundles : Tbl Bundle := []
  watch : Tbl Watch := []
  /-- links for which instances hold at their rest points, none while no retraining runs -/
  holding : Option Nat := none
  /-- REF count of PD0 when each partition was fenced -/
  fencedAt : Tbl Nat := []
  /-- instances spanning a seam in credit mode that have not rested since the halves met (R476) -/
  spanning : List (Nat × Nat) := []
  /-- extents marked DAMAGED by each partition's fence (R484) -/
  fenceDamage : Tbl Nat := []
  /-- fenced partitions whose training is complete and which have not rejoined (R484) -/
  retrained : List Nat := []
  /-- stations that slices lost to the fences in force, by slice·16 + partition (R435, R436) -/
  lostStns : Tbl Nat := []
deriving DecidableEq, Repr

/-! ### Riberex -/

/-- A Riberex port (R487-R495, R519). -/
structure RPort where
  st : Nat := 0
  cause : Nat := 1
  lanesOk : Nat := 0
  peer : Nat := 0
  corrected : Nat := 0
  uncorrectable : Nat := 0
  replays : Nat := 0
  /-- link layer: next sequence to send, next expected, last acknowledged -/
  txSeq : Nat := 0
  rxSeq : Nat := 0
  acked : Nat := 0xFFF
  /-- replay buffer: (sequence, channel, times replayed), oldest first -/
  replay : List (Nat × Nat × Nat) := []
  /-- send credits and receive buffers in use, by channel 0-2 -/
  credits : List Nat := [512, 512, 32]
  rxUsed : List Nat := [0, 0, 0]
  /-- packets that have started and not all gone: channel, packet and flits left, at most one a channel (R497) -/
  cur : List (Nat × Pkt × Nat) := []
  /-- a NAK has been sent and the flit it asks for has not come -/
  nakSent : Bool := false
  /-- count of the port die at the last flit received, or at the end of training (R492) -/
  heardAt : Nat := 0
  /-- the port has trained at half width since the last full-width training (R514) -/
  halfOnly : Bool := false
deriving DecidableEq, Repr

/-- An outbound window (R502, R519). -/
structure OWin where
  valid : Bool := false
  busy : Bool := false
  err : Nat := 0
  owner : Nat := 0
  base : Nat := 0
  len : Nat := 0
  remote : Nat := 0
  destWindow : Nat := 0
  counter : Nat := 0
  destDev : Nat := 0
  portMask : Nat := 0
deriving DecidableEq, Repr

/-- An outstanding request through an outbound window (R507). -/
structure RReq where
  tag : Nat
  /-- port die and port it left through, port none while unsent -/
  die : Nat
  port : Option Nat
  owin : Nat
  pkt : Pkt
  who : Agent
  since : Nat
  /-- Piper traffic: refusals and losses follow R180 -/
  piper : Option (Nat × Nat × Nat)
deriving DecidableEq, Repr

/-- An inbound packet whose accesses are under way (R500): the STATUS so far, lines not yet answered (stack, line), and for
a READ where each line's bytes stand (stack, line, first byte in the line, bytes, offset in the data), and the data. -/
structure InPkt where
  pkt : Pkt
  status : Nat := 0
  left : List (Nat × Nat)
  parts : List (Nat × Nat × Nat × Nat × Nat)
  data : List Byte
deriving DecidableEq, Repr

/-- Riberex state and RBX_ registers. [DESIGN CHOICE, log entry 119] -/
structure Rbx where
  deviceNum : Nat := 0
  mode : Nat := 0
  groupSize : Nat := 0
  ackUs : Nat := 2000
  idleUs : Nat := 100
  late : Nat := 0
  expired : Nat := 0
  ports : Tbl RPort := []
  refused : Tbl Nat := []
  lastStatus : Tbl Nat := []
  owins : Tbl OWin := []
  out : List RReq := []
  nextTag : Nat := 0
  /-- inbound packets not yet answered -/
  inb : List InPkt := []
  /-- answers owed to peers: packets on the response channel -/
  answers : List Pkt := []
  /-- packets put on the wire, oldest first: (port, packet) -/
  sent : List (Nat × Pkt) := []
  /-- REF count of the last RBX_EXPIRED event of each port die, and requests expired since -/
  expAt : Tbl Nat := []
  expCount : Tbl Nat := []
deriving DecidableEq, Repr

/-! ### Recipes, launches and stations -/

/-- A station entry of a Recipe (R65). -/
structure StnEntry where
  fx : Nat
  fy : Nat
  kind : Nat
  split : Nat
  /-- its descriptors, in order -/
  descs : List (List Byte)
  /-- its code, as 64-bit instructions -/
  code : List Nat
  shConfig : Nat
deriving DecidableEq, Repr

/-- A stream entry of a Recipe (R67). -/
structure StreamEntry where
  srcCell : Nat
  srcPort : Nat
  sinkCell : Nat
  sinkPort : Nat
  hops : Nat
  route : Nat
  slotMask : Nat
  phaseMask : Nat
deriving DecidableEq, Repr

/-- A rest point of a Recipe (R69). -/
structure RestEntry where
  id : Nat
  liveFirst : Nat
  liveCount : Nat
  runBound : Nat
  liveBytes : Nat
deriving DecidableEq, Repr

/-- A live-set entry (R70): cell, type and two parameters. -/
structure LiveEntry where
  cell : Nat
  ty : Nat
  a : Nat
  b : Nat
deriving DecidableEq, Repr

/-- A loaded Recipe. -/
structure Recipe where
  ctx : Nat
  bytes : List Byte
  footW : Nat
  footH : Nat
  period : Nat
  foot : List Nat
  stations : List StnEntry
  streams : List StreamEntry
  rests : List RestEntry
  lives : List LiveEntry
  startBound : Nat
  checked : Bool
deriving DecidableEq, Repr

/-- A shader thread group (R188, R199, R211). -/
structure GroupSt where
  /-- program counter in bytes -/
  pc : Nat := 0
  mask : BitVec 32 := 0xFFFFFFFF#32
  /-- mask stack, top first: (pc, mask) -/
  stack : List (Nat × BitVec 32) := []
  /-- thread registers, by register·32 + thread -/
  regs : Tbl Word := []
  /-- predicates p0-p6: a 32-bit mask of threads each -/
  preds : Tbl (BitVec 32) := []
  /-- counters 0-3 -/
  counters : List Nat := [0, 0, 0, 0]
  /-- what the group waits for -/
  waiting : Option (Nat × Nat) := none
  /-- for an MSEMR or MSEMW: the number of the station's next transfer when it issued (R222, R330) -/
  mark : Nat := 0
  ended : Bool := false
deriving DecidableEq, Repr

/-- What a transfer of a station is. -/
inductive XKind where
  | copyIn | copyOut | gather | scatter | scatterRed | fetch | store | precv | psend
  /-- the semaphore add of an MSEMR on its way: the group is its `desc` (R222, R336) -/
  | semAdd
deriving DecidableEq, Repr

/-- A piece of a transfer: device address, local offset (or tile position), bytes, done or not. -/
structure XPiece where
  addr : Nat
  loc : Nat
  len : Nat
  /-- 0 to be issued, 1 issued, 2 finished, 3 stalled on a translation fault -/
  st : Nat
deriving DecidableEq, Repr

/-- A transfer of a station: an explicit copy, a gather or scatter, a FETCH or STORE (R111, R206, R272). -/
structure Xfer where
  id : Nat
  kind : XKind
  /-- index of its descriptor, or the group that issued it and its counter -/
  desc : Nat
  grp : Option (Nat × Nat)
  pieces : List XPiece
  /-- scratchpad range it owns, its first byte and the byte after it; for a semaphore add, the number of the station's next
  transfer when its MSEMR issued, and its value -/
  lo : Nat
  hi : Nat
  /-- engine that runs it, 16·(Link Station) + port (R48, R274); 0 none -/
  eng : Nat
  redOp : Nat := 0
  redTy : Nat := 0
deriving DecidableEq, Repr

/-- A ray's closest or first hit (R239). -/
structure RayHit where
  tri : Nat
  t : Word
  u : Word
  v : Word
  prim : Nat
  geom : Nat
  kind : Nat
deriving DecidableEq, Repr

/-- A ray in traversal, or a point or bag being gathered (R228, R237). -/
structure RaySt where
  ray : List Byte
  /-- stacked entries, nearest on top: (leaf, node index or 16 · first triangle + count, distance pattern); for a point
  or bag, the addresses of the lines still to read -/
  todo : List (Bool × Nat × Nat)
  /-- nodes and triangles in hand: (triangle, index) -/
  cur : List (Bool × Nat) := []
  tmax : Word
  hit : Option RayHit
  /-- line waited for, and lines gathered so far, by device address -/
  waitLine : Option Nat
  got : List (Nat × List Byte) := []
  /-- number of the point or bag, and whether its result stands in the output queue -/
  idx : Nat := 0
  done : Bool := false
  poisoned : Bool
  spilled : Nat
  /-- address of a translation fault that stalls it (R249, R372) -/
  stalled : Option Nat := none
deriving DecidableEq, Repr

/-- RG station state beyond the common parts. -/
structure RgSt where
  rays : Tbl RaySt := []
  /-- miss registers: register → (device line address, waiters in order, invalidated) -/
  miss : Tbl (Nat × List Nat × Bool) := []
  batches : Nat := 0
  /-- results placed in the batch being filled -/
  results : List (List Byte) := []
  /-- finished points or bags waiting to leave in order, by index -/
  outQ : Tbl (List Byte) := []
  outNext : Nat := 0
  inNext : Nat := 0
  /-- a rest point under way: 0 none, 1 due, 2 marked (R250) -/
  resting : Nat := 0
deriving DecidableEq, Repr

/-- A flit of a stream (R45): 512 bytes, and the tile it is part of: format code, rows, elements per row, and
its place among the tile's flits. Format code 0 marks a flit that no tile descriptor sent. -/
structure Flit where
  fmt : Nat
  rows : Nat
  cols : Nat
  idx : Nat
  data : List Byte
deriving DecidableEq, Repr

/-- Where a started descriptor stands. -/
inductive WorkSt where
  /-- takes in flits, computes, or sends -/
  | run
  /-- waits for a semaphore or for the accesses its release follows -/
  | wait
  /-- its effect is complete -/
  | fin
deriving DecidableEq, Repr

/-- A descriptor in progress: flits taken in for its operands (by operand), flits to send (port or engine, flit),
tiles or pieces dealt with, and where it stands; its place in the order of starting, the passes of the LOOPs that enclose
it, innermost first, and rows placed so far; for a semaphore descriptor, the number of the next transfer when it
started (R335). -/
structure Work where
  ord : Nat := 0
  passes : List Nat := []
  rows : Nat := 0
  feeds : Tbl (List Flit) := []
  outs : List (Nat × Flit) := []
  count : Nat := 0
  st : WorkSt := .run
deriving DecidableEq, Repr

/-- A station: its launch, descriptor list, stores, flags and engines. Stations are keyed
168·partition + 14·row + column. A station with no entry is idle, its stores zero. [DESIGN CHOICE, log entry 98] -/
structure Stn where
  launch : Nat
  inst : Nat
  cell : Nat
  ctx : Nat
  kind : Nat
  split : Nat
  descs : List (List Byte)
  code : List Nat
  shConfig : Nat := 0
  /-- next descriptor to start; descriptors started and not complete, by index -/
  next : Nat := 0
  works : Tbl Work := []
  /-- descriptors started since the station began -/
  started : Nat := 0
  /-- LOOP passes made, by descriptor index -/
  loops : Tbl Nat := []
  /-- rest point marked and waited on, 0 none -/
  marked : Nat := 0
  /-- rest points passed -/
  lastRest : Nat := 0
  /-- stretch count in units of 1/25 ARITH cycle, and the stretch's bound in cycles (R73) -/
  stretch : Nat := 0
  bound : Nat := 0
  /-- a fault or a hang has stopped it -/
  stopped : Bool := false
  fault : Nat := 0
  /-- local store bytes -/
  ls : Tbl Byte := []
  /-- accumulator tiles: tile·4096 + 64·row + column -/
  acc : Tbl Word := []
  /-- vector registers: register·64 + element -/
  vreg : Tbl Word := []
  /-- sticky flags and shader status word -/
  flags : Nat := 0
  shStatus : Nat := 0
  /-- histogram bins: HIST_ID·64 + bin (R145) -/
  hist : Tbl Nat := []
  groups : Tbl GroupSt := []
  /-- RUN in progress: its descriptor index -/
  runIdx : Option Nat := none
  /-- locks: holder group + waiters, by lock -/
  locks : Tbl (Option Nat × List Nat) := []
  sems : Tbl Nat := []
  /-- groups waiting at each barrier -/
  meets : Tbl (List Nat) := []
  xfers : List Xfer := []
  /-- extent cache: (context, handle, start), most recent first (R364) -/
  xcache : List (Nat × Nat × Nat) := []
  /-- station cache: lines held, by key, with their bytes, most recent first (R276) -/
  cache : List (Nat × List Byte) := []
  /-- lines requested for the cache, oldest first: key, waiting reads, invalidated meanwhile (R307) -/
  pend : List (Nat × List Req × Bool) := []
  rg : RgSt := {}
  /-- stall counters, by position in the kind's telemetry, in units of 1/25 ARITH cycle (R85) -/
  stalls : Tbl Nat := []
  /-- how long the station has done nothing but wait, in the same units (R374) -/
  waited : Nat := 0
  /-- has held a launch of a sealed context (R577) -/
  isSealed : Bool := false
deriving DecidableEq, Repr

/-- Where an instance of a launch stands. -/
inductive InstPh where
  /-- running a stretch -/
  | running
  /-- at a rest point, held by a fault batch, a retraining window or a pre-emption whose save runs -/
  | resting
  | saving
  | saved
  | restoring
  | complete
deriving DecidableEq, Repr

/-- One instance of a launch. [DESIGN CHOICE, log entry 98] -/
structure Inst where
  part : Nat
  y : Nat
  x : Nat
  ph : InstPh := .running
  /-- rest point reached last, 0 none -/
  rest : Nat := 0
  /-- stations hold their grid positions (not yet saved away) -/
  placed : Bool := true
  /-- what its save area holds: by cell, the station with its live set and station record (R76, R425) -/
  saved : Tbl Stn := []
  /-- save-area granules: (stack, granule) -/
  area : List (Nat × Nat) := []
  /-- flits in flight: (stream, links travelled, flit) oldest first -/
  flight : List (Nat × Nat × Flit) := []
  /-- receive buffers at sinks, by stream -/
  bufs : Tbl (List Flit) := []
  /-- credits held at sources, by stream; 32 by default (R51) -/
  credits : Tbl Nat := []
  /-- credits on their way back in express slots, by stream -/
  returning : Tbl Nat := []
  /-- stall counters of streams, by stream·8 + row of R82, in units of 1/25 ARITH cycle (R85) -/
  stalls : Tbl Nat := []
deriving DecidableEq, Repr

/-- Where a launch stands. -/
inductive LaunchPh where
  /-- waits for its first placement -/
  | waiting
  /-- placed and waiting for admission -/
  | placed
  | running
  /-- pre-emption requested -/
  | leaving
  /-- pre-empted whole, waits to resume -/
  | preempted
deriving DecidableEq, Repr

/-- A launch (R78, R405, R418). -/
structure Launch where
  q : Nat
  seq : Nat
  ctx : Nat
  slice : Nat
  recipe : Nat
  recipeId : Nat
  d : Nat
  count : Nat
  plan : Nat
  hist : Nat
  telem : Nat
  homePart : Nat
  noWait : Bool
  ph : LaunchPh
  /-- order in which its request reached PD0 (R77) -/
  order : Nat
  insts : List Inst
  /-- granules of the save area of each instance (R425) -/
  saveGrans : Nat
  /-- launches this pre-emption makes way for -/
  victimOf : List Nat
  /-- histogram bins of completed instances, by HIST_ID·64 + bin, and stations that contributed (R146) -/
  hists : Tbl Nat := []
  histStns : Tbl Nat := []
  /-- telemetry entries of completed instances (R407) -/
  telemStns : List (List Byte) := []
  telemStreams : List (List Byte) := []
deriving DecidableEq, Repr

/-- Scheduling: recipes, launches, stations. -/
structure Sched where
  recipes : Tbl Recipe := []
  launches : Tbl Launch := []
  nextKey : Nat := 1
  order : Nat := 0
  /-- transfers issued so far: their order of arrival at the engines (R275) -/
  xseq : Nat := 0
  /-- what each engine of a Link Station served last: 1 a line of a copy, 2 a line of a stream (R275) -/
  engLast : Tbl Nat := []
  stns : Tbl Stn := []
deriving DecidableEq, Repr

/-! ### The Piper -/

/-- A block being assembled or delivered: rows of (token, rank, gate, bytes); an empty row is none. -/
structure PBlock where
  rows : List (Option (Nat × Nat × Word × List Byte))
deriving DecidableEq, Repr

/-- An expert's delivery state (R165-R174). -/
structure PExpert where
  claimed : Nat := 0
  accepted : Nat := 0
  dropped : Nat := 0
  spilled : Nat := 0
  /-- rows on their way to the packer: accepted under CAP_SPLIT 1, claims still to be granted under CAP_SPLIT 0 -/
  transit : List (Nat × Nat × Word × List Byte) := []
  /-- rows in the block being assembled -/
  cur : List (Nat × Nat × Word × List Byte) := []
  /-- blocks complete and not yet delivered, oldest first -/
  ready : List PBlock := []
  delivered : Nat := 0
  returned : Nat := 0
  /-- blocks sent to a remote expert and not answered: (block, rows, REF count when sent) -/
  out : List (Nat × PBlock × Nat) := []
  /-- claims granted per router under CAP_SPLIT 1 -/
  quota : Tbl Nat := []
deriving DecidableEq, Repr

/-- A route plan in force or collecting its launches (R154). -/
structure Plan where
  ctx : Nat
  addr : Nat
  /-- launches that hold the plan, in placement order, and LAUNCHES as the plan gave it to the first -/
  launches : List Nat
  total : Nat
  /-- the plan's bytes, once activated -/
  bytes : Option (List Byte)
  experts : Tbl PExpert := []
  /-- releases of stations of the plan's launches that may be hand-overs, waiting: (station, address, value) -/
  waiting : List (Nat × Nat × Nat) := []
  /-- hand-overs of each router processed, tokens of each router handed over -/
  slots : Tbl Nat := []
  tokens : Tbl Nat := []
  spillUsed : Nat := 0
  spillFull : Nat := 0
  lost : Nat := 0
  unserved : Nat := 0
  /-- claims refused, by token -/
  refused : Tbl Nat := []
  /-- pairs counted into COMBINE_SEM so far, and adds to it that wait for rows to be accepted -/
  combined : Nat := 0
  owed : List Nat := []
  /-- the load record has been written -/
  recorded : Bool := false
  /-- result counters' values at activation, by expert -/
  base : Tbl Nat := []
deriving DecidableEq, Repr

/-- The Piper. -/
structure Piper where
  plans : Tbl Plan := []
deriving DecidableEq, Repr

/-! ### Security -/

/-- A sealed set (R568). -/
structure SealedSet where
  slice : Nat
  setId : List Byte
  listHash : List Byte
  recipes : List (List Byte)
  /-- the set key -/
  key : List Byte
deriving DecidableEq, Repr

/-- An Uhlug image slot in flash (R558). -/
structure Image where
  bytes : List Byte
deriving DecidableEq, Repr

/-- Security state and SEC_ registers (R585). [DESIGN CHOICE, log entry 119] -/
structure Sec where
  unlocked : Bool := false
  /-- an unlock has been accepted and its rung 4 has not run (R581) -/
  unlocking : Bool := false
  /-- the nonce that the accepted token named (R583) -/
  unlockNonce : Nat := 0
  dbgResult : Nat := 0
  /-- SVN and DIGEST of the running image (R559, R562) -/
  svn : Nat := 0
  digest : List Byte := []
  svnFloor : Nat := 0
  slot : Bool := false
  integFails : Nat := 0
  /-- nonces drawn so far: the nonce is the draw of this number -/
  nonceNo : Nat := 0
  /-- SEC_DBG_TOKEN bytes, by offset -/
  token : Tbl Byte := []
  sets : Tbl SealedSet := []
  /-- key domains that hold a key: 0 manager, 1-127 slices (R564) -/
  keys : List Nat := []
  /-- flash slots A and B -/
  imageA : Image := ⟨[]⟩
  imageB : Image := ⟨[]⟩
  /-- image being tried at start-up, and images tried -/
  tried : List Bool := []
  /-- SPDM: messages exchanged on the connection, and the last response -/
  spdmLog : List (List Byte) := []
  spdmOut : List Byte := []
deriving DecidableEq, Repr

/-! ### Errors, rungs and Crumb samples -/

/-- A rung requested or running: rung, target, cause (R605). -/
structure RungReq where
  rung : Nat
  target : Nat
  cause : Nat
  /-- RESET commands that wait for it: (queue, seq) -/
  cmds : List (Nat × Nat)
  /-- REF count of its timing die when it was requested -/
  since : Nat
  /-- the die whose counter times it: for rung 1 the port die of the context's control complex, else PD0 (R11, R596) -/
  die : Nat := 0x30
deriving DecidableEq, Repr

/-- Errors, rungs and Crumb samples, and the DBG_ registers (R613). -/
structure Err where
  rungs : List RungReq := []
  active : Bool := false
  rung : Nat := 0
  cause : Nat := 0
  target : Nat := 0
  escalations : Nat := 0
  durationUs : Nat := 0
  graceDiv : Nat := 4
  graceMin : Nat := 65536
  cmdMs : Nat := 10
  homeUs : Nat := 1000
  corrected : Nat := 0
  poisoned : Nat := 0
  stationUe : Nat := 0
  fatal : Nat := 0
  /-- Crumb samples held in the region, oldest first -/
  region : List (List Byte) := []
  /-- the extent number of the Crumb region -/
  regionExt : Option Nat := none
  lost : Bool := false
  dropped : Nat := 0
  crumbSeq : Nat := 0
  bufBase : Nat := 0
  bufSize : Nat := 0
  bufUsed : Nat := 0
deriving DecidableEq, Repr

/-! ### The whole device -/

/-- The state of the device, and the queue of commands waiting to be run, first in first out. [DESIGN CHOICE, log entry 1] -/
structure State where
  pending : List Instr := []
  clk : Clk := {}
  pwr : Pwr := {}
  pin : Pins := {}
  pci : Pci := {}
  host : HostMem := {}
  idr : Ident := {}
  cmd : CmdSt := {}
  ten : Tenants := {}
  xt : Xt := {}
  mem : DevMem := {}
  home : Home := {}
  seam : Seam := {}
  rbx : Rbx := {}
  sch : Sched := {}
  pip : Piper := {}
  sec : Sec := {}
  err : Err := {}
deriving DecidableEq, Repr

/-- The module with its supplies off: every register at its reset value, no command waiting. [DESIGN CHOICE, log entry 3; DESIGN CHOICE, log entry 14] -/
def State.reset : State := {}

end Sys2Proof.Machine
end

