-- ==== Sys2Proof/Machine/Tables.lean ====
section
/-! DEFINITION. Operations on sparse tables, byte strings and bit fields: the shared helpers that every
other file of the machine uses. -/

namespace Sys2Proof.Machine

/-! ### Sparse tables -/

/-- The entry listed for key `k`, if there is one. -/
def tget? {α : Type} : Tbl α → Nat → Option α
  | [], _ => none
  | (j, v) :: r, k => if j = k then some v else tget? r k

/-- The value at key `k`, or the default `d` when nothing is listed. -/
def tget {α : Type} (d : α) (t : Tbl α) (k : Nat) : α := (tget? t k).getD d

/-- Lists value `v` at key `k`, keeping keys strictly rising. -/
def tput {α : Type} : Tbl α → Nat → α → Tbl α
  | [], k, v => [(k, v)]
  | (j, w) :: r, k, v =>
    if k < j then (k, v) :: (j, w) :: r
    else if k = j then (k, v) :: r
    else (j, w) :: tput r k v

/-- Drops every entry of key `k`. -/
def tdel {α : Type} : Tbl α → Nat → Tbl α
  | [], _ => []
  | (j, w) :: r, k => if j = k then tdel r k else (j, w) :: tdel r k

/-- Lists `v` at `k`, or drops the entry when `v` is the default, so that equal tables are equal data. -/
def tset {α : Type} [DecidableEq α] (d : α) (t : Tbl α) (k : Nat) (v : α) : Tbl α :=
  if v = d then tdel t k else tput t k v

/-- Applies `f` to the value at `k` (default `d`). -/
def tmod {α : Type} [DecidableEq α] (d : α) (t : Tbl α) (k : Nat) (f : α → α) : Tbl α :=
  tset d t k (f (tget d t k))

/-- Applies `f` to the entry listed at `k`, when there is one; changes nothing otherwise. -/
def tupd {α : Type} : Tbl α → Nat → (α → α) → Tbl α
  | [], _, _ => []
  | (j, w) :: r, k, f => if j = k then (j, f w) :: r else (j, w) :: tupd r k f

/-- Applies `f` to every listed value. -/
def tmap {α : Type} (t : Tbl α) (f : Nat → α → α) : Tbl α := t.map (fun p => (p.1, f p.1 p.2))

/-- Keeps the entries that satisfy `p`. -/
def tfilter {α : Type} (t : Tbl α) (p : Nat → α → Bool) : Tbl α := t.filter (fun e => p e.1 e.2)

/-- The keys listed. -/
def tkeys {α : Type} (t : Tbl α) : List Nat := t.map (·.1)

/-- The values listed, in key order. -/
def tvals {α : Type} (t : Tbl α) : List α := t.map (·.2)

/-- The keys of `t` rise strictly. -/
def tsorted {α : Type} : Tbl α → Bool
  | [] => true
  | [_] => true
  | (j, _) :: (k, w) :: r => decide (j < k) && tsorted ((k, w) :: r)

/-- The canonical form of a table with default `d`: strictly rising keys, no entry equal to the default. -/
def twf {α : Type} [DecidableEq α] (d : α) (t : Tbl α) : Bool :=
  tsorted t && t.all (fun e => decide (e.2 ≠ d))

/-- The lowest number from `n` upwards that is not in `used`, looking at most `fuel` numbers on. -/
def lowestFree (used : List Nat) : Nat → Nat → Nat
  | 0, n => n
  | fuel + 1, n => if n ∈ used then lowestFree used fuel (n + 1) else n

/-! ### Lists -/

/-- Inserts a key into a rising list of keys. -/
def insKey (k : Nat) : List Nat → List Nat
  | [] => [k]
  | j :: r => if k < j then k :: j :: r else if k = j then j :: r else j :: insKey k r

/-- The element at index `i`, or `d`. -/
def nth {α : Type} (d : α) (l : List α) (i : Nat) : α := l.getD i d

/-- `l` with its element `i` replaced; unchanged when `l` is shorter. -/
def putNth {α : Type} (l : List α) (i : Nat) (v : α) : List α := l.set i v

/-- Sum of a list of naturals. -/
def sumNat (l : List Nat) : Nat := l.foldl (· + ·) 0

/-- The largest of a list of naturals, 0 for none. -/
def maxNat (l : List Nat) : Nat := l.foldl max 0

/-- `a / b` rounded up. -/
def ceilDiv (a b : Nat) : Nat := (a + b - 1) / b

/-- `a` rounded up to a multiple of `b`. -/
def roundUp (a b : Nat) : Nat := ceilDiv a b * b

/-- A counter that stops at its largest value `m` (the saturating counters of the register tables). -/
def satAdd (m a b : Nat) : Nat := min m (a + b)

/-! ### Little-endian byte strings (R8) -/

/-- Bytes of `v`, least significant first, `n` of them. -/
def leBytes : Nat → Nat → List Byte
  | 0, _ => []
  | n + 1, v => BitVec.ofNat 8 v :: leBytes n (v / 256)

/-- The number whose little-endian bytes are `bs`. -/
def leNat : List Byte → Nat
  | [] => 0
  | b :: r => b.toNat + 256 * leNat r

/-- The little-endian field of `n` bytes at offset `off` of a record. -/
def field (bs : List Byte) (off n : Nat) : Nat := leNat ((bs.drop off).take n)

/-- `n` zero bytes. -/
def zeros (n : Nat) : List Byte := List.replicate n 0

/-- True when the `n` bytes at `off` are all zero (a reserved field, R16). -/
def zeroAt (bs : List Byte) (off n : Nat) : Bool := ((bs.drop off).take n).all (· == 0)

/-- Bit `i` of a number. -/
def bitOf (v i : Nat) : Bool := v.testBit i

/-- Bits [hi:lo] of a number. -/
def bits (v hi lo : Nat) : Nat := (v / 2 ^ lo) % 2 ^ (hi + 1 - lo)

/-- `v` with bits [hi:lo] replaced by `x`. -/
def putBits (v hi lo x : Nat) : Nat :=
  v - bits v hi lo * 2 ^ lo + (x % 2 ^ (hi + 1 - lo)) * 2 ^ lo

/-- 1 for true, 0 for false. -/
def b2n (b : Bool) : Nat := if b then 1 else 0

/-- A number whose bit `i` is set for each `i` in the list. -/
def maskOf (l : List Nat) : Nat := l.foldl (fun a i => a ||| 2 ^ i) 0

/-- The positions of the set bits of `v` below `n`. -/
def bitsSet (n v : Nat) : List Nat := (List.range n).filter (fun i => v.testBit i)

/-- The number of set bits of `v` below `n`. -/
def popCount (n v : Nat) : Nat := (bitsSet n v).length

/-- The two's-complement value of the low `w` bits of `v`. -/
def signedOf (w v : Nat) : Int :=
  let x := v % 2 ^ w
  if x < 2 ^ (w - 1) then (x : Int) else (x : Int) - (2 : Int) ^ w

/-- The `w`-bit two's-complement pattern of `i`. -/
def wrapInt (w : Nat) (i : Int) : Nat := (i % ((2 : Int) ^ w)).toNat

/-- CRC-32C of a byte string, reflected form with polynomial 0x82F63B78 (R61, R491, R544). -/
def crc32cByte (c : BitVec 32) (b : Byte) : BitVec 32 :=
  let x := c ^^^ b.setWidth 32
  (List.range 8).foldl (fun a _ => if a.getLsbD 0 then (a >>> 1) ^^^ 0x82F63B78#32 else a >>> 1) x

/-- CRC-32C over a whole byte string. -/
def crc32c (bs : List Byte) : Nat := (~~~ (bs.foldl crc32cByte 0xFFFFFFFF#32)).toNat

/-- A record of `size` bytes with the given (offset, bytes) fields and zeros elsewhere. -/
def layout (size : Nat) (fields : List (Nat × List Byte)) : List Byte :=
  fields.foldl (fun acc f => acc.take f.1 ++ f.2 ++ acc.drop (f.1 + f.2.length)) (zeros size)

end Sys2Proof.Machine
end

