-- ==== Sys2Proof/Machine/Ops.lean ====
section
/-! DEFINITION. Shared operations: the places of the device (R19-R28), REF counters, events, interrupts,
host memory and the guards under which commands act. -/

namespace Sys2Proof.Machine

/-- The answer type of every meaning. -/
abbrev Out := Host.Outcome State Fault Refusal

/-- Acts only while the module is up (R551: nothing in an unpowered module acts). [DESIGN CHOICE, log entry 4] -/
def ifUp (f : State → State) (s : State) : Out :=
  .next (if s.pwr.phase = .ready then f s else s)

/-- Acts only where condition `c` of the state holds; changes nothing otherwise. -/
def guardS (c : Bool) (f : State → State) (s : State) : State := if c then f s else s

/-- Stations, copy engines and DMA engines have stopped: TRAY_STOP_N is asserted, or PWRBRK_N was and the planner has not
restarted the halves yet (R537, R641). [DESIGN CHOICE, log entry 34] -/
def issueHeld (s : State) : Bool := s.pin.trayStop || s.pwr.braked

/-! ### Status codes (R404, R440, R553, R584, R612) -/

def stOk : Nat := 0x0000
def stCheckOk : Nat := 0x0001
def stPinOk : Nat := 0x0002
def stBadPacket : Nat := 0x0010
def stBadSlot : Nat := 0x0011
def stCreditExceeded : Nat := 0x0012
def stQueueStopped : Nat := 0x0013
def stBadOpcode : Nat := 0x0014
def stBadParam : Nat := 0x0015
def stNotPermitted : Nat := 0x0016
def stQueueLimit : Nat := 0x0017
def stBusy : Nat := 0x0018
def stTimeout : Nat := 0x0019
def stKilled : Nat := 0x001A
def stContextLimit : Nat := 0x0020
def stContextDead : Nat := 0x0021
def stBadBatch : Nat := 0x0022
def stBadExtent : Nat := 0x0030
def stExtentOverlap : Nat := 0x0031
def stExtentLimit : Nat := 0x0032
def stMemQuota : Nat := 0x0033
def stNoExtent : Nat := 0x0034
def stNotOwner : Nat := 0x0035
def stPinCap : Nat := 0x0036
def stPinQuota : Nat := 0x0037
def stSealed : Nat := 0x0038
def stHomeUnavailable : Nat := 0x0039
def stPoisoned : Nat := 0x003A
def stStackFull : Nat := 0x003B
def stBadRecipe : Nat := 0x0040
def stBadFootprint : Nat := 0x0041
def stBadRoute : Nat := 0x0042
def stSlotConflict : Nat := 0x0043
def stBadRest : Nat := 0x0044
def stBadStation : Nat := 0x0045
def stRecipeLimit : Nat := 0x0046
def stPlaceNoFit : Nat := 0x0047
def stBadPiperPlan : Nat := 0x0048
def stCheckDeadlock : Nat := 0x0050
def stCheckRestOrder : Nat := 0x0051
def stCheckLiveSet : Nat := 0x0052
def stCheckBound : Nat := 0x0053
def stCheckShader : Nat := 0x0054
def stCapRange : Nat := 0x0060
def stCalBad : Nat := 0x0061
def stCalWorn : Nat := 0x0062
def stSliceExists : Nat := 0x0070
def stBadQuota : Nat := 0x0071
def stStationsTaken : Nat := 0x0072
def stOvercommit : Nat := 0x0073
def stQuotaInUse : Nat := 0x0074
def stSliceAbsent : Nat := 0x0075
def stSliceNotEmpty : Nat := 0x0076
def stQuotaFull : Nat := 0x0077
def stPasidInUse : Nat := 0x0078
def stPasidLimit : Nat := 0x0079
def stStationsAbsent : Nat := 0x007A
def stResetTarget : Nat := 0x0090
def stCrumbNone : Nat := 0x0091
def stStreamPort : Nat := 0x00A0
def stStreamFormat : Nat := 0x00A1
def stRestNotEmpty : Nat := 0x00A2
def stRestMismatch : Nat := 0x00A3
def stLocalRange : Nat := 0x00A4
def stBadDesc : Nat := 0x00A5
def stAccRange : Nat := 0x00A6
def stSparseMeta : Nat := 0x00A7
def stVregRange : Nat := 0x00A8
def stIllegalInsn : Nat := 0x00A9
def stRegRange : Nat := 0x00AA
def stCodeRange : Nat := 0x00AB
def stGatherDesc : Nat := 0x00AC
def stMaskOverflow : Nat := 0x00AD
def stMaskUnderflow : Nat := 0x00AE
def stBranchDiverged : Nat := 0x00AF
def stLockOwner : Nat := 0x00B0
def stLockHeld : Nat := 0x00B1
def stBvhNode : Nat := 0x00B2
def stRayStack : Nat := 0x00B3
def stRayRecord : Nat := 0x00B4
def stPiperCount : Nat := 0x00B5
def stPiperResult : Nat := 0x00B6
def stRedSeq : Nat := 0x00B7
def stRemoteLost : Nat := 0x00B8
def stRemoteOp : Nat := 0x00B9
def stRemoteRefused : Nat := 0x00BA
/-- STALE_EXTENT is an answer of a home and no status code of R404; outside the 16-bit codes. -/
def stStale : Nat := 0x10000

/-! ### Places -/

/-- Number of stations of the device (R43). -/
def nStations : Nat := 1680

/-- Partition, row, column and half of a station by its number 168·partition + 14·row + column. -/
def stnPart (n : Nat) : Nat := n / 168
def stnRow (n : Nat) : Nat := n % 168 / 14
def stnCol (n : Nat) : Nat := n % 14
def stnAt (part row col : Nat) : Nat := 168 * part + 14 * row + col

/-- Half-die number of a station: twice the partition, plus 1 for columns x07-x13 (R27). -/
def stnHalf (n : Nat) : Nat := 2 * stnPart n + (if stnCol n ≤ 6 then 0 else 1)

/-- 16-bit station identifier (R25). -/
def stnId (n : Nat) : Nat := stnPart n * 4096 + stnRow n * 256 + stnCol n * 16

/-- The station an identifier names, none where R26 refuses it. -/
def stnOfId (i : Nat) : Option Nat :=
  let p := bits i 15 12
  let r := bits i 11 8
  let c := bits i 7 4
  if p ≤ 9 ∧ r ≤ 11 ∧ c ≤ 13 ∧ bits i 3 0 = 0 ∧ i < 65536 then some (stnAt p r c) else none

/-- Kind codes of R63: 1 MX, 2 SH, 3 RG, 4 LK, from the table of R24. -/
def kindAt (row col : Nat) : Nat :=
  if row = 3 then nth 1 [1, 2, 4, 3, 2, 4, 2, 2, 4, 2, 3, 4, 2, 1] col
  else if row = 8 then nth 1 [1, 3, 2, 4, 2, 3, 2, 2, 3, 2, 4, 2, 3, 1] col
  else 1

/-- Kind of a station. -/
def stnKind (n : Nat) : Nat := kindAt (stnRow n) (stnCol n)

/-- Die numbers (R23): compute dies 0-9, Crust dies 16-35, port dies 48 and 49. -/
def pd0 : Nat := 0x30
def pd1 : Nat := 0x31
def crustDie (stack : Nat) : Nat := 0x10 + stack
def allDies : List Nat := List.range 10 ++ (List.range 20).map crustDie ++ [pd0, pd1]

/-- Die kind: 0 compute, 1 Crust, 2 port. -/
def dieKind (d : Nat) : Nat := if d < 0x10 then 0 else if d < 0x30 then 1 else 2

/-- The partition a compute or Crust die belongs to, none for a port die. -/
def diePart (d : Nat) : Option Nat :=
  if d < 10 then some d else if 0x10 ≤ d ∧ d < 0x24 then some ((d - 0x10) / 2) else none

/-- Partition of a stack (R20). -/
def stackPart (k : Nat) : Nat := k / 2

/-- Port die of a control complex (R22). -/
def cplxDie (c : Nat) : Nat := if c = 0 then pd0 else pd1

/-- Link Stations that land stack `k`'s Crust die, in the order of R28. -/
def landing (k : Nat) : List Nat :=
  let p := stackPart k
  if k % 2 = 0 then [stnAt p 3 2, stnAt p 3 5, stnAt p 8 3]
  else [stnAt p 3 8, stnAt p 3 11, stnAt p 8 10]

/-- Control cores of a control complex, and host DMA engines of a port die (R21). -/
def controlCores : Nat := 4
def dmaEngines : Nat := 8

/-- ID_REV of stepping B1: PART in [15:0], MINOR in [19:16], MAJOR in [23:20] (R4, R627). -/
def idRev : Nat := 0x4B20 + 1 * 2 ^ 16 + 1 * 2 ^ 20

/-- ID_SERIAL, and the value of the Device Serial Number capability (R616). -/
def cfgSerial : Nat := Config.serial % 2 ^ 64

/-- |a − b|. -/
def dist (a b : Nat) : Nat := (a - b) + (b - a)

/-- Rows plus columns between two stations of one die. -/
def stnDist (a b : Nat) : Nat := dist (stnRow a) (stnRow b) + dist (stnCol a) (stnCol b)

/-- The nearest of a list of stations to station `n`, ties to the lower row and then the lower column
(R265): the list is in that order. -/
def nearest (n : Nat) : List Nat → Option Nat
  | [] => none
  | a :: r =>
    match nearest n r with
    | none => some a
    | some b =>
      if stnDist a n < stnDist b n ∨ (stnDist a n = stnDist b n ∧ a < b) then some a else some b

/-- Package row and column of a partition (R19), and hops between two partitions (R32). -/
def pRow (p : Nat) : Nat := p / 5
def pCol (p : Nat) : Nat := p % 5
def hops (a b : Nat) : Nat := dist (pRow a) (pRow b) + dist (pCol a) (pCol b)

/-! ### Counters of REF -/

/-- The REF counter of die `d` (R38). -/
def refOf (s : State) (d : Nat) : Nat := tget 0 s.clk.ref d

/-- REF counts in a microsecond and in a millisecond (25 MHz). -/
def refUs : Nat := 25
def refMs : Nat := 25000

/-- Counts that die `d`'s reference makes in `t` nominal periods of 40 ns: its oscillator is within 50 ppm of 25 MHz (R39). [DESIGN CHOICE, log entry 123] -/
def refCounts (d t : Nat) : Nat := t * (999950 + Config.ppm d % 101) / 1000000

/-- Advances the REF counter of every die with a clock over `n` nominal periods (R38, R39; R479 for a lost clock). [DESIGN CHOICE, log entry 2; DESIGN CHOICE, log entry 123] -/
def advanceRef (n : Nat) (s : State) : State :=
  { s with clk := { s.clk with
      ticks := s.clk.ticks + n,
      ref := (allDies.filter (fun d => decide (d ∉ s.clk.lost))).foldl
        (fun t d => tset 0 t d ((tget 0 t d + (refCounts d (s.clk.ticks + n) - refCounts d s.clk.ticks)) % 2 ^ 64)) s.clk.ref } }

/-! ### Interrupts (R618) -/

/-- Delivers vector `v`, or sets its pending bit while it or the function is masked. -/
def raiseMsix (v : Nat) (s : State) : State :=
  if s.pci.functionMask ∨ v ∉ s.pci.unmasked then
    { s with pci := { s.pci with pba := if v ∈ s.pci.pba then s.pci.pba else s.pci.pba ++ [v] } }
  else { s with pci := { s.pci with msix := s.pci.msix ++ [v] } }

/-! ### Events (R401) -/

/-- A generic event record. -/
def eventBytes (die ev count ctx slice a0 a1 a2 : Nat) : List Byte :=
  layout 64 [(0, leBytes 4 0x0C07), (4, leBytes 2 ev), (6, leBytes 1 die), (8, leBytes 8 count),
    (16, leBytes 2 ctx), (18, leBytes 2 slice), (24, leBytes 8 a0), (32, leBytes 8 a1), (40, leBytes 8 a2)]

/-- Queues record bytes for the manager's event ring, and for a slice's page where one is named (R448). [DESIGN CHOICE, log entry 9] -/
def raiseRec (r : EvRec) (s : State) : State := { s with cmd := { s.cmd with evq := s.cmd.evq ++ [r] } }

/-- Raises an event of die `die`; EVENT_RECORD delivers it. [DESIGN CHOICE, log entry 9] -/
def raise (die ev ctx slice a0 a1 a2 : Nat) (s : State) : State :=
  raiseRec ⟨eventBytes die ev (refOf s die) ctx slice a0 a1 a2, none⟩ s

/-- Raises an event that also goes to the slice's manager page. -/
def raiseSlice (die ev ctx slice a0 a1 a2 : Nat) (s : State) : State :=
  raiseRec ⟨eventBytes die ev (refOf s die) ctx slice a0 a1 a2, some slice⟩ s

/-! ### Host memory (R326, R344-R348) -/

/-- Key of a host byte: its address alone without a PASID, else 2^64·(PASID + 1) + address. -/
def hkey (pasid : Option Nat) (a : Nat) : Nat :=
  match pasid with
  | none => a % 2 ^ 64
  | some p => (p + 1) * 2 ^ 64 + a % 2 ^ 64

/-- The byte a device read of host memory returns: the owning host write cache's where it holds one (R345). [DESIGN CHOICE, log entry 5] -/
def hostByte (s : State) (k : Nat) : Byte := (tget? s.host.dirty k).getD (tget 0 s.host.mem k)

/-- Device read of `n` bytes of host memory. -/
def hostRead (s : State) (pasid : Option Nat) (a n : Nat) : List Byte :=
  (List.range n).map (fun i => hostByte s (hkey pasid (a + i)))

/-- A posted write past the host write caches (R348, R445, R607). -/
def hostPost (pasid : Option Nat) (a : Nat) (bs : List Byte) (s : State) : State :=
  { s with host := { s.host with
      mem := (List.range bs.length).foldl (fun m i => tset 0 m (hkey pasid (a + i)) (nth 0 bs i)) s.host.mem } }

/-- The port die whose host write cache holds a host byte: bit 12 of the address (R344). [DESIGN CHOICE, log entry 109] -/
def wcDie (k : Nat) : Nat := if bitOf k 12 then pd1 else pd0

/-- Writes back the dirty bytes whose key satisfies `p` (R346, R347). [DESIGN CHOICE, log entry 109] -/
def writeBack (p : Nat → Bool) (s : State) : State :=
  { s with host := { s.host with
      mem := (s.host.dirty.filter (fun e => p e.1)).foldl (fun m e => tset 0 m e.1 e.2) s.host.mem,
      dirty := tfilter s.host.dirty (fun k _ => !p k) } }

/-! ### Slices: dirty logging of host pages (R457) -/

/-- Slices that log dirty state and to which the PASID is bound. -/
def logSlices (s : State) (pasid : Nat) : List Nat :=
  (s.ten.slices.filter (fun e => e.2.dirtyOn && decide (tget? s.ten.pasids pasid = some e.1))).map (·.1)

/-- Logs a host page written under a PASID, and overflows past 262,144 unharvested pages (R457). -/
def logPage (pasid page : Nat) (n : Nat) (s : State) : State :=
  match tget? s.ten.slices n with
  | none => s
  | some sl =>
    if sl.hostlogOver then s
    else if 262144 ≤ sl.hostlog.length then
      raiseSlice pd0 0x001A 0 n sl.hostlog.length 0 0
        { s with ten := { s.ten with slices := tput s.ten.slices n { sl with hostlogOver := true } } }
    else { s with ten := { s.ten with
        slices := tput s.ten.slices n { sl with hostlog := sl.hostlog ++ [(page, pasid)] } } }

/-- The 4 KiB pages that `n` bytes at `a` touch. -/
def pagesOf (a n : Nat) : List Nat :=
  if n = 0 then [] else (List.range ((a + n - 1) / 4096 - a / 4096 + 1)).map (fun i => (a / 4096 + i) * 4096)

/-- Logs every page of a host write made under a PASID. -/
def logHost (pasid : Option Nat) (a n : Nat) (s : State) : State :=
  match pasid with
  | none => s
  | some p => (pagesOf a n).foldl (fun s g => (logSlices s p).foldl (fun s k => logPage p g k s) s) s

/-- Bytes of one host write cache (R21). -/
def wcSize : Nat := 16 * 2 ^ 20

/-- Dirty bytes that the host write cache of a port die holds. -/
def wcHeld (s : State) (d : Nat) : Nat := (s.host.dirty.filter (fun e => decide (wcDie e.1 = d))).length

/-- The cache of port die `d` writes back its dirty bytes where they pass its 16 MiB (R21, R346). [DESIGN CHOICE, log entry 109] -/
def wcTrim (d : Nat) (s : State) : State :=
  if wcSize < wcHeld s d then writeBack (fun k => decide (wcDie k = d)) s else s

/-- A device write accepted by the host write caches (R344, R345). [DESIGN CHOICE, log entry 109] -/
def hostWrite (pasid : Option Nat) (a : Nat) (bs : List Byte) (s : State) : State :=
  logHost pasid a bs.length (wcTrim pd1 (wcTrim pd0
    { s with host := { s.host with
        dirty := (List.range bs.length).foldl (fun m i => tput m (hkey pasid (a + i)) (nth 0 bs i)) s.host.dirty } }))

/-! ### Contexts and slices -/

/-- The context record; context 0 belongs to the manager and always exists (R355). -/
def ctxOf (s : State) (c : Nat) : Option Ctx :=
  if c = 0 then some ((tget? s.ten.ctxs 0).getD { slice := 0 }) else tget? s.ten.ctxs c

/-- The slice of a context, 0 for the manager's. -/
def ctxSlice (s : State) (c : Nat) : Nat := ((ctxOf s c).map (·.slice)).getD 0

/-- Changes a context's record. -/
def setCtx (c : Nat) (f : Ctx → Ctx) (s : State) : State :=
  match ctxOf s c with
  | none => s
  | some x => { s with ten := { s.ten with ctxs := tput s.ten.ctxs c (f x) } }

/-- Changes a slice's record. -/
def setSlice (n : Nat) (f : Slice → Slice) (s : State) : State :=
  { s with ten := { s.ten with slices := tupd s.ten.slices n f } }

/-- Port die of a context's control complex (R382). -/
def ctxDie (s : State) (c : Nat) : Nat := cplxDie (((ctxOf s c).map (·.cplx)).getD 0)

/-! ### Rungs (R596-R602) -/

/-- The cause codes of R605. -/
def rcReset : Nat := 0
def rcRest : Nat := 1
def rcCommand : Nat := 2
def rcHome : Nat := 3
def rcControl : Nat := 4
def rcEscalation : Nat := 5
def rcFatal : Nat := 6
/-- Cause code of a rung by a link or a fence (R605). [DEDUCED, log entry 32] -/
def rcLink : Nat := 7

/-- Rung `r` on target `t` covers rung `r'` on target `t'` (R602): the same scope, or a wider one that holds it. [DESIGN CHOICE, log entry 10] -/
def rungCovers (r t r' t' : Nat) : Bool :=
  if r' ≤ r then
    if r ≥ 4 then true
    else if r = r' then decide (t = t')
    else decide (r = 3 ∧ r' = 2 ∧ t' / 4096 = t)
  else false

/-- The rungs requested or running that no running rung of `r`, `t` covers. -/
def rungsLeft (r t : Nat) (l : List RungReq) : List RungReq := l.filter (fun x => !rungCovers r t x.rung x.target)

/-- The commands that wait for rungs that rung `r` on `t` takes over. -/
def rungsCmds (r t : Nat) (l : List RungReq) : List (Nat × Nat) :=
  (l.filter (fun x => rungCovers r t x.rung x.target)).flatMap (·.cmds)

/-- The die whose counter times rung `r` on `t`: the port die of the context's control complex for rung 1, else PD0 (R11, R596). -/
def rungDie (s : State) (r t : Nat) : Nat := if r = 1 then ctxDie s t else pd0

/-- Starts rung `r` on target `t`: absorbed by a running rung that covers it, and taking over the narrower
rungs inside its scope (R602). DBG_RESET_STATUS and RUNG_START report it; rungs 4 and 5 assert FAULT_N, and
rung 5 TRAY_CYCLE_N too (R643); a partition is fenced from the moment rung 3 starts on it. [DESIGN CHOICE, log entry 10] -/
def startRung (r t cause : Nat) (cmds : List (Nat × Nat)) (s : State) : State :=
  if s.err.rungs.any (fun x => rungCovers x.rung x.target r t) then
    { s with err := { s.err with rungs := s.err.rungs.map (fun x =>
        if rungCovers x.rung x.target r t then { x with cmds := x.cmds ++ cmds } else x) } }
  else
    let s := raise (rungDie s r t) 0x004B (if r = 1 then t else 0) 0 r t cause s
    { s with
      err := { s.err with
        rungs := rungsLeft r t s.err.rungs ++
          [⟨r, t, cause, rungsCmds r t s.err.rungs ++ cmds, refOf s (rungDie s r t), rungDie s r t⟩],
        active := s.err.active || decide (2 ≤ r), rung := r, cause := cause, target := t },
      cmd := if r ≥ 4 then { s.cmd with ready := false } else s.cmd,
      seam := if r = 3 then { s.seam with fenced := insKey t s.seam.fenced } else s.seam,
      pin := if r = 4 then { s.pin with fault := true }
        else if r = 5 then { s.pin with fault := true, trayCycle := true } else s.pin }

/-- The pending request of rung `r` on target `t`. -/
def rungReq? (s : State) (r t : Nat) : Option RungReq :=
  s.err.rungs.find? (fun x => decide (x.rung = r ∧ x.target = t))

/-- Completes rung `r` on `t`: RUNG_DONE, the duration, and ACTIVE while no other rung of 2 or higher runs. [DESIGN CHOICE, log entry 10] -/
def endRung (q : RungReq) (s : State) : State :=
  let us := (refOf s q.die - q.since) / refUs
  let left := s.err.rungs.filter (fun x => !decide (x.rung = q.rung ∧ x.target = q.target))
  raise q.die 0x004C (if q.rung = 1 then q.target else 0) 0 q.rung q.target us
    { s with err := { s.err with
        rungs := left, active := left.any (fun x => decide (2 ≤ x.rung)), durationUs := min 65535 us } }

end Sys2Proof.Machine
end

