-- ==== Sys2Proof/Machine/Numeric.lean ====
section
/-! DEFINITION. Numbers: the element formats of R124, exact arithmetic on their values, rounding and
saturation (R131-R134), MX blocks (R133), subnormal flushing (R136, R138) and the sticky flags (R139). -/

namespace Sys2Proof.Machine

/-! ### Formats (R100, R124) -/

/-- How a format encodes infinities and NaNs: 0 neither, 1 the E4M3 NaN pattern only, 2 as IEEE 754. -/
structure Fmt where
  width : Nat
  eb : Nat
  mb : Nat
  bias : Nat
  special : Nat
deriving DecidableEq, Repr

def fE2M1 : Fmt := ⟨4, 2, 1, 1, 0⟩
def fE2M3 : Fmt := ⟨6, 2, 3, 1, 0⟩
def fE3M2 : Fmt := ⟨6, 3, 2, 3, 0⟩
def fE4M3 : Fmt := ⟨8, 4, 3, 7, 1⟩
def fE5M2 : Fmt := ⟨8, 5, 2, 15, 2⟩
def fBf16 : Fmt := ⟨16, 8, 7, 127, 2⟩
def fF16 : Fmt := ⟨16, 5, 10, 15, 2⟩
def fF32 : Fmt := ⟨32, 8, 23, 127, 2⟩

/-- Element format of a format code 0x01-0x0A (R100). -/
def fmtOf (c : Nat) : Fmt :=
  if c = 1 then fE2M1 else if c = 2 then fE2M3 else if c = 3 then fE3M2
  else if c = 4 ∨ c = 6 then fE4M3 else if c = 5 ∨ c = 7 then fE5M2
  else if c = 8 then fBf16 else if c = 9 then fF16 else fF32

/-- The MX formats (R100). -/
def isMx (c : Nat) : Bool := decide (1 ≤ c ∧ c ≤ 5)
/-- The per-tensor-scaled FP8 formats. -/
def isFp8 (c : Nat) : Bool := decide (c = 6 ∨ c = 7)
/-- Formats the subnormal mode applies to (R136, R137). -/
def flushes (c : Nat) : Bool := decide (8 ≤ c ∧ c ≤ 10)
/-- Bits of an element of a format code, integers included. -/
def fmtBits (c : Nat) : Nat := if c = 0x0B then 4 else if c = 0x0C then 8 else (fmtOf c).width

/-! ### Values -/

/-- A value: NaN (signalling or not), an infinity, or (−1)^neg × m × 2^e. -/
inductive FV where
  | nan (sig : Bool)
  | inf (neg : Bool)
  | fin (neg : Bool) (m : Nat) (e : Int)
deriving DecidableEq, Repr

/-- Decodes an element (R124). -/
def decF (f : Fmt) (x : Nat) : FV :=
  let neg := bitOf x (f.width - 1)
  let ex := bits x (f.width - 2) f.mb
  let m := x % 2 ^ f.mb
  let top := 2 ^ f.eb - 1
  if f.special = 2 ∧ ex = top then (if m = 0 then .inf neg else .nan (!bitOf m (f.mb - 1)))
  else if f.special = 1 ∧ ex = top ∧ m = 2 ^ f.mb - 1 then .nan false
  else if ex = 0 then .fin neg m (1 - (f.bias : Int) - f.mb)
  else .fin neg (m + 2 ^ f.mb) ((ex : Int) - f.bias - f.mb)

/-- An element is subnormal. -/
def isSub (f : Fmt) (x : Nat) : Bool := decide (bits x (f.width - 2) f.mb = 0 ∧ x % 2 ^ f.mb ≠ 0)

/-- Position of the highest set bit of a positive number. -/
def ilog2 (m : Nat) : Nat := Nat.log2 m

/-- Canonical NaN of a format (R125). -/
def canonNan (f : Fmt) : Nat :=
  if f.special = 1 then 0x7F
  else if f.width = 8 then 0x7F
  else (2 ^ f.eb - 1) * 2 ^ f.mb + 2 ^ (f.mb - 1)

/-- Infinity of a sign. -/
def infBits (f : Fmt) (neg : Bool) : Nat := b2n neg * 2 ^ (f.width - 1) + (2 ^ f.eb - 1) * 2 ^ f.mb

/-- Largest finite value of a sign. -/
def maxBits (f : Fmt) (neg : Bool) : Nat :=
  b2n neg * 2 ^ (f.width - 1) +
    (if f.special = 2 then (2 ^ f.eb - 1) * 2 ^ f.mb - 1
     else if f.special = 1 then 2 ^ (f.width - 1) - 2
     else 2 ^ (f.width - 1) - 1)

/-- A number rounded to a multiple of 2^d by the rule: none for nearest even, some r for a stochastic draw
of 16 bits (R131, R134); and whether anything was lost. -/
def roundShift (m d : Nat) (sr : Option Nat) : Nat × Bool :=
  let hi := m / 2 ^ d
  let lo := m % 2 ^ d
  if lo = 0 then (hi, false)
  else
    match sr with
    | none =>
      if 2 * lo > 2 ^ d ∨ (2 * lo = 2 ^ d ∧ hi % 2 = 1) then (hi + 1, true) else (hi, true)
    | some r => if lo * 65536 / 2 ^ d + r ≥ 65536 then (hi + 1, true) else (hi, true)

/-- Packs an exact finite value into a format: pattern, and flags OVERFLOW, UNDERFLOW, INEXACT (R131, R132,
R139). `sat` saturates an overflow, which E4M3 and the MX elements do. -/
def packFin (f : Fmt) (sat : Bool) (sr : Option Nat) (neg : Bool) (m : Nat) (e : Int) : Nat × Nat :=
  let sgn := b2n neg * 2 ^ (f.width - 1)
  if m = 0 then (sgn, 0)
  else
    let lg : Int := (ilog2 m : Int) + e
    let qmin : Int := 1 - (f.bias : Int) - f.mb
    let q : Int := max (lg - f.mb) qmin
    let r : Nat × Bool :=
      if q ≤ e then (m * 2 ^ (e - q).toNat, false) else roundShift m (q - e).toNat sr
    let tiny := decide (lg < 1 - (f.bias : Int))
    let k := r.1
    let body : Nat :=
      if k < 2 ^ f.mb then k
      else
        let kk := if k < 2 ^ (f.mb + 1) then (k, q) else (k / 2, q + 1)
        ((kk.2 + f.mb + f.bias).toNat) * 2 ^ f.mb + (kk.1 - 2 ^ f.mb)
    let past := decide (body > maxBits f false)
    if past then
      ((if sat then maxBits f neg else infBits f neg), fOverflow + fInexact)
    else (sgn + body, flagIf r.2 fInexact + flagIf (tiny && r.2) fUnderflow)

/-- E4M3 saturates; every other format with infinities overflows to infinity (R132). -/
def satOf (f : Fmt) : Bool := decide (f.special ≠ 2)

/-- Packs any value into a format other than an MX format (R125, R132): pattern and flags. -/
def packV (f : Fmt) (sr : Option Nat) : FV → Nat × Nat
  | .nan sig => (canonNan f, flagIf sig fInvalid)
  | .inf neg => if satOf f then (maxBits f neg, fOverflow) else (infBits f neg, 0)
  | .fin neg m e => packFin f (satOf f) sr neg m e

/-! ### Subnormal mode (R136, R138) -/

/-- Reads an element of a format the mode applies to: a subnormal reads as zero of its sign in flush mode. -/
def readF (flush : Bool) (f : Fmt) (x : Nat) : FV × Nat :=
  if flush ∧ isSub f x then (.fin (bitOf x (f.width - 1)) 0 0, fFlush) else (decF f x, 0)

/-- Writes a result: a subnormal pattern becomes zero of its sign in flush mode. -/
def writeF (flush : Bool) (f : Fmt) (p : Nat × Nat) : Nat × Nat :=
  if flush ∧ isSub f p.1 then
    (b2n (bitOf p.1 (f.width - 1)) * 2 ^ (f.width - 1), (p.2 ||| (fFlush + fUnderflow + fInexact)))
  else p

/-! ### Exact arithmetic -/

/-- A finite value as a signed integer multiple of 2^e. -/
def scaledInt (neg : Bool) (m : Nat) (e base : Int) : Int :=
  let v : Int := (m : Int) * (2 : Int) ^ (e - base).toNat
  if neg then -v else v

/-- Exact sum of two values, with the NaN and infinity rules of R130; INVALID where a NaN is produced. The
sign of a zero sum is minus only where both are minus zero. -/
def addV (a b : FV) : FV × Nat :=
  match a, b with
  | .nan x, .nan y => (.nan false, flagIf (x || y) fInvalid)
  | .nan x, _ => (.nan false, flagIf x fInvalid)
  | _, .nan y => (.nan false, flagIf y fInvalid)
  | .inf x, .inf y => if x = y then (.inf x, 0) else (.nan false, fInvalid)
  | .inf x, _ => (.inf x, 0)
  | _, .inf y => (.inf y, 0)
  | .fin s m e, .fin t n g =>
    let base := min e g
    let v := scaledInt s m e base + scaledInt t n g base
    if v = 0 then (.fin (s && t) 0 0, 0) else (.fin (decide (v < 0)) v.natAbs base, 0)

/-- Exact product of two values. -/
def mulV (a b : FV) : FV × Nat :=
  match a, b with
  | .nan x, .nan y => (.nan false, flagIf (x || y) fInvalid)
  | .nan x, _ => (.nan false, flagIf x fInvalid)
  | _, .nan y => (.nan false, flagIf y fInvalid)
  | .inf x, .inf y => (.inf (x != y), 0)
  | .inf x, .fin t n _ => if n = 0 then (.nan false, fInvalid) else (.inf (x != t), 0)
  | .fin s m _, .inf y => if m = 0 then (.nan false, fInvalid) else (.inf (s != y), 0)
  | .fin s m e, .fin t n g => (.fin (s != t) (m * n) (e + g), 0)

/-- The negation of a value. -/
def negV : FV → FV
  | .nan x => .nan x
  | .inf s => .inf (!s)
  | .fin s m e => .fin (!s) m e

/-- Quotient of two values to 64 bits with the remainder kept as a sticky bit, which every narrower
rounding sees as it would the exact quotient. -/
def divV (a b : FV) : FV × Nat :=
  match a, b with
  | .nan x, .nan y => (.nan false, flagIf (x || y) fInvalid)
  | .nan x, _ => (.nan false, flagIf x fInvalid)
  | _, .nan y => (.nan false, flagIf y fInvalid)
  | .inf _, .inf _ => (.nan false, fInvalid)
  | .inf x, .fin t _ _ => (.inf (x != t), 0)
  | .fin s _ _, .inf y => (.fin (s != y) 0 0, 0)
  | .fin s m e, .fin t n g =>
    if n = 0 then (if m = 0 then (.nan false, fInvalid) else (.inf (s != t), 0))
    else
      let k := 64 + ilog2 n
      let q := m * 2 ^ k / n
      let st := b2n (decide (m * 2 ^ k % n ≠ 0))
      (.fin (s != t) (2 * q + st) (e - g - k - 1), 0)

/-- Integer square root, by Newton steps from above. -/
def isqrtGo (n : Nat) : Nat → Nat → Nat
  | 0, x => x
  | f + 1, x =>
    let y := (x + n / x) / 2
    if y < x then isqrtGo n f y else x

def isqrt (n : Nat) : Nat := if n = 0 then 0 else isqrtGo n 400 (2 ^ (ilog2 n / 2 + 1))

/-- Square root with a sticky bit. -/
def sqrtV : FV → FV × Nat
  | .nan x => (.nan false, flagIf x fInvalid)
  | .inf neg => if neg then (.nan false, fInvalid) else (.inf false, 0)
  | .fin s m e =>
    if m = 0 then (.fin s 0 0, 0)
    else if s then (.nan false, fInvalid)
    else
      let k : Nat := if e % 2 = 0 then 64 else 65
      let v := m * 2 ^ k
      let r := isqrt v
      (.fin false (2 * r + b2n (decide (r * r ≠ v))) ((e - k) / 2 - 1), 0)

/-- Order of two values that are not NaN, minus zero below plus zero (R130): true where a is less than b. -/
def ltV (a b : FV) : Bool :=
  match a, b with
  | .inf s, .inf t => s && !t
  | .inf s, _ => s
  | _, .inf t => !t
  | .fin s m e, .fin t n g =>
    let base := min e g
    let x := scaledInt s m e base
    let y := scaledInt t n g base
    if x = 0 ∧ y = 0 then s && !t else decide (x < y)
  | _, _ => false

/-- Numeric equality of two values that are not NaN: zeros of both signs are equal. -/
def eqV (a b : FV) : Bool :=
  match a, b with
  | .inf s, .inf t => decide (s = t)
  | .fin s m e, .fin t n g => decide (scaledInt s m e (min e g) = scaledInt t n g (min e g))
  | _, _ => false

/-- A value is NaN. -/
def isNanV : FV → Bool
  | .nan _ => true
  | _ => false

/-- The larger (`hi`) or smaller of two values, NaN where either is (R130). -/
def extremeV (hi : Bool) (a b : FV) : FV × Nat :=
  match a, b with
  | .nan x, .nan y => (.nan false, flagIf (x || y) fInvalid)
  | .nan x, _ => (.nan false, flagIf x fInvalid)
  | _, .nan y => (.nan false, flagIf y fInvalid)
  | a, b => (if ltV a b = hi then b else a, 0)

/-! ### Binary32 operations -/

/-- One binary32 operation: reads flush in flush mode, the exact result rounds to nearest even, a subnormal
result flushes. Pattern and flags. -/
def op32 (flush : Bool) (r : FV × Nat) (inFlags : Nat) : Word × Nat :=
  let p := writeF flush fF32 (packV fF32 none r.1)
  (BitVec.ofNat 32 p.1, r.2 ||| p.2 ||| inFlags)

def add32 (flush : Bool) (a b : Word) : Word × Nat :=
  let x := readF flush fF32 a.toNat
  let y := readF flush fF32 b.toNat
  op32 flush (addV x.1 y.1) (x.2 ||| y.2)

def mul32 (flush : Bool) (a b : Word) : Word × Nat :=
  let x := readF flush fF32 a.toNat
  let y := readF flush fF32 b.toNat
  op32 flush (mulV x.1 y.1) (x.2 ||| y.2)

/-- Fused multiply-add, rounded once. -/
def fma32 (flush : Bool) (a b c : Word) : Word × Nat :=
  let x := readF flush fF32 a.toNat
  let y := readF flush fF32 b.toNat
  let z := readF flush fF32 c.toNat
  let p := mulV x.1 y.1
  let r := addV p.1 z.1
  op32 flush (r.1, p.2 ||| r.2) (x.2 ||| y.2 ||| z.2)

def div32 (flush : Bool) (a b : Word) : Word × Nat :=
  let x := readF flush fF32 a.toNat
  let y := readF flush fF32 b.toNat
  op32 flush (divV x.1 y.1) (x.2 ||| y.2)

def sqrt32 (flush : Bool) (a : Word) : Word × Nat :=
  let x := readF flush fF32 a.toNat
  op32 flush (sqrtV x.1) x.2

def ext32 (flush hi : Bool) (a b : Word) : Word × Nat :=
  let x := readF flush fF32 a.toNat
  let y := readF flush fF32 b.toNat
  op32 flush (extremeV hi x.1 y.1) (x.2 ||| y.2)

/-- Converts a pattern between two formats, none of them MX (R131, R132). -/
def convF (flush : Bool) (src dst : Nat) (sr : Option Nat) (x : Nat) : Nat × Nat :=
  let v := if flushes src then readF flush (fmtOf src) x else (decF (fmtOf src) x, 0)
  let p := packV (fmtOf dst) sr v.1
  let p := if flushes dst then writeF flush (fmtOf dst) p else p
  (p.1, p.2 ||| v.2)

/-- Exact value of a signed integer. -/
def intV (i : Int) : FV := .fin (decide (i < 0)) i.natAbs 0

/-- A value truncated towards zero as an integer, none for NaN and infinities. -/
def truncV : FV → Option Int
  | .fin s m e =>
    let v : Nat := if 0 ≤ e then m * 2 ^ e.toNat else m / 2 ^ (-e).toNat
    some (if s then -(v : Int) else v)
  | _ => none

/-! ### Reductions at the home (R309, R310) -/

/-- Sum of two binary32 patterns with subnormals kept. -/
def redAdd32 (a b : Word) : Word := (add32 false a b).1

/-- One element of a home reduction: operation 0 add, 1 maximum, 2 minimum; type 0 binary32, 1 bfloat16,
2 INT32, 3 a 64-bit semaphore (R309). -/
def redElem (op ty a b : Nat) : Nat :=
  if ty = 0 then
    (if op = 0 then redAdd32 (BitVec.ofNat 32 a) (BitVec.ofNat 32 b)
     else (ext32 false (op = 1) (BitVec.ofNat 32 a) (BitVec.ofNat 32 b)).1).toNat
  else if ty = 1 then
    let w := fun x => BitVec.ofNat 32 (x * 65536)
    let r := if op = 0 then redAdd32 (w a) (w b) else (ext32 false (op = 1) (w a) (w b)).1
    (convF false 0x0A 0x08 none r.toNat).1
  else if ty = 2 then
    if op = 0 then (a + b) % 2 ^ 32
    else if (signedOf 32 a < signedOf 32 b) = (op = 1) then b else a
  else (a + b) % 2 ^ 64

/-- Bytes of an element of a reduction type. -/
def redBytes (ty : Nat) : Nat := if ty = 1 then 2 else if ty = 3 then 8 else 4

/-- The byte mask of the elements a reduction names. -/
def redMask (o : RedOp) : Nat :=
  maskOf ((bitsSet (128 / redBytes o.ty) o.mask).flatMap (fun i =>
    (List.range (redBytes o.ty)).map (fun j => i * redBytes o.ty + j)))

/-- A line after a reduction: every element of its mask replaced. -/
def redApply (o : RedOp) (line : List Byte) : List Byte :=
  let w := redBytes o.ty
  (List.range (128 / w)).flatMap (fun i =>
    if bitOf o.mask i then leBytes w (redElem o.op o.ty (field line (i * w) w) (field o.data (i * w) w))
    else (line.drop (i * w)).take w)

/-! ### MX blocks (R126, R133) -/

/-- emax of a format code (R133). -/
def emaxOf (c : Nat) : Int := if c = 1 ∨ c = 2 then 2 else if c = 3 then 4 else if c = 4 then 8 else 15

/-- Value of a block scale, none for 0xFF. -/
def scaleV (b : Nat) : Option Int := if b = 255 then none else some ((b : Int) - 127)

/-- An element of an MX block with its scale. -/
def mxValue (c sc x : Nat) : FV :=
  match scaleV sc, decF (fmtOf c) x with
  | none, _ => .nan false
  | some k, .fin s m e => .fin s m (e + k)
  | some _, v => v

/-- floor(log2 |v|) of a finite non-zero value. -/
def floorLog (v : FV) : Option Int :=
  match v with
  | .fin _ m e => if m = 0 then none else some ((ilog2 m : Int) + e)
  | _ => none

/-- The largest of a list of integers. -/
def maxInt? : List Int → Option Int
  | [] => none
  | a :: r => some (r.foldl max a)

/-- Converts one block of values to an MX format: scale byte, elements and flags (R133). `sr` gives the
stochastic draw of each element, none for nearest even. -/
def toMxBlock (c : Nat) (vs : List FV) (sr : List (Option Nat)) : Nat × List Nat × Nat :=
  if vs.any (fun v => match v with | .nan _ => true | .inf _ => true | _ => false) then
    (255, vs.map (fun _ => 0), flagIf (vs.any (fun v => match v with | .inf _ => true | _ => false)) fInvalid)
  else
    match maxInt? (vs.filterMap floorLog) with
    | none => (127, vs.map (fun _ => 0), 0)
    | some am =>
      let x := am - emaxOf c
      let xc := max (-127) (min 127 x)
      let fl := flagIf (decide (127 < x)) fOverflow ||| flagIf (decide (x < -127)) fUnderflow
      let f := fmtOf c
      let es := (vs.zip sr).map (fun p =>
        match p.1 with
        | .fin s m e =>
          let r := packFin f true p.2 s m (e - xc)
          -- 0x7F in E4M3 is NaN and the top exponents of E5M2 are special: the largest finite bounds both
          (r.1, flagIf (decide (r.2 % 16 ≥ 2)) fInexact)
        | _ => (0, 0))
      ((xc + 127).toNat, es.map (·.1), es.foldl (fun a p => a ||| p.2) fl)

/-- Random bits of stochastic rounding for element `e` of tile `t` (R134). -/
def srBits (seed t e : Nat) : Nat :=
  let w := fun n : Nat => BitVec.ofNat 32 n
  let h := w seed ^^^ (w t * 0x9E3779B9#32) ^^^ (w e * 0x85EBCA6B#32)
  let h := (h ^^^ (h >>> 16)) * 0x7FEB352D#32
  let h := (h ^^^ (h >>> 15)) * 0x846CA68B#32
  let h := h ^^^ (h >>> 16)
  (h >>> 16).toNat

/-- Histogram bin of a binary32 pattern (R145). -/
def histBin (x : Word) : Nat :=
  match decF fF32 x.toNat with
  | .nan _ => 63
  | .inf _ => 62
  | .fin _ m e =>
    if m = 0 then 0
    else
      let g : Int := (ilog2 m : Int) + e
      if g ≤ -31 then 1 else if g ≥ 29 then 61 else (g + 32).toNat

/-! ### Packed rows (R127) -/

/-- Element i of a packed bit stream of w-bit elements that begins at byte `off`. -/
def rowElem (bs : List Byte) (off w i : Nat) : Nat :=
  let lo := w * i
  (field bs (off + lo / 8) 5 / 2 ^ (lo % 8)) % 2 ^ w

/-- Bytes of the element stream of n w-bit elements. -/
def elemBytes (w n : Nat) : Nat := ceilDiv (w * n) 8

/-- Bytes of a row of n elements of a format code, block scales included (R127). -/
def rowBytes (c n : Nat) : Nat := elemBytes (fmtBits c) n + (if isMx c then ceilDiv n 32 else 0)

/-- Packs n w-bit elements into a bit stream. -/
def packRow (w : Nat) (es : List Nat) : List Byte :=
  leBytes (elemBytes w es.length) (es.zipIdx.foldl (fun a p => a + (p.1 % 2 ^ w) * 2 ^ (w * p.2)) 0)

/-- Value of element i of a row laid out at byte `off`, block scale included. -/
def rowValue (bs : List Byte) (off c n i : Nat) : FV :=
  let w := fmtBits c
  let x := rowElem bs off w i
  if c = 0x0B then intV (signedOf 4 x)
  else if c = 0x0C then intV (signedOf 8 x)
  else if isMx c then mxValue c (field bs (off + elemBytes w n + i / 32) 1) x
  else decF (fmtOf c) x

end Sys2Proof.Machine
end

