-- ==== Sys2Proof/Machine/Elementary.lean ====
section
/-! DEFINITION. The functions that R115 and R204 bound or name without a rounding, and sums whose order the spec leaves
open (R97, R110, R130): exact values to 64 bits or more, what the device may deliver beside them, and the flags of it. -/

namespace Sys2Proof.Machine

/-! ### Exponentials and logarithms -/

/-- Fraction bits of a fixed-point number. -/
def fixP : Nat := 320

/-- ln 2 and π in fixed point. -/
def fixLn2 : Nat := 1480553391661173448385607439722553250922680800745876974795605978609098082859138712941075737848984
def fixPi : Nat := 6710401180212168915155840974220003240804194089427148950727106424351713218671805380099500388914039
/-- √(2/π) in fixed point. [PRESUMED, log entry 134] -/
def fixGelu : Nat := 1704271078036369527640793026491347494927463643304879350637741155034799905963359738391626168040302

/-- m × 2^e in fixed point. -/
def toFix (neg : Bool) (m : Nat) (e : Int) : Int :=
  let k := e + fixP
  let v : Nat := if 0 ≤ k then m * 2 ^ k.toNat else m / 2 ^ (-k).toNat
  if neg then -v else v

/-- A fixed-point number as a value. -/
def ofFix (v : Int) : FV := .fin (decide (v < 0)) v.natAbs (-fixP)

/-- The terms of a power series Σ f^k ÷ k! from term `k` on, each `step` apart in k, with alternating signs where `alt`. -/
def expTerms (f : Int) (step : Nat) (alt : Bool) : Nat → Nat → Int → Int → Int
  | 0, _, _, acc => acc
  | n + 1, k, t, acc =>
    let t1 := t * f / 2 ^ fixP / (k : Int)
    let t2 := if step = 2 then t1 * f / 2 ^ fixP / ((k + 1 : Nat) : Int) else t1
    let t3 := if alt then -t2 else t2
    expTerms f step alt n (k + step) t3 (acc + t3)

/-- e^f for a fixed-point f from 0 to 1. -/
def expFrac (f : Int) : Int := expTerms f 1 false 90 1 (2 ^ fixP) (2 ^ fixP)

/-- e^x of a fixed-point x, past ±8,192 taken as there. -/
def expFix (x : Int) : FV :=
  let lim : Int := 8192 * 2 ^ fixP
  let y := max (-lim) (min lim x)
  let k := y / (fixLn2 : Int)
  .fin false (expFrac (y - k * fixLn2)).toNat (k - fixP)

/-- e^x. -/
def expV : FV → FV
  | .nan x => .nan x
  | .inf s => if s then .fin false 0 0 else .inf false
  | .fin s m e => expFix (toFix s m e)

/-- 2^x. -/
def exp2V : FV → FV
  | .nan x => .nan x
  | .inf s => if s then .fin false 0 0 else .inf false
  | .fin s m e =>
    let lim : Int := 8192 * 2 ^ fixP
    let y := max (-lim) (min lim (toFix s m e))
    let f := y % 2 ^ fixP
    .fin false (expFrac (f * fixLn2 / 2 ^ fixP)).toNat (y / 2 ^ fixP - fixP)

/-- 2 × Σ z^(2k+1) ÷ (2k+1), from term 2k+1 = `k` on. -/
def atanhTerms (z2 : Nat) : Nat → Nat → Nat → Nat → Nat
  | 0, _, _, acc => acc
  | n + 1, k, t, acc => atanhTerms z2 n (k + 2) (t * z2 / 2 ^ fixP) (acc + 2 * t / k)

/-- log2 of a positive finite value. -/
def log2V (m : Nat) (e : Int) : FV :=
  let lg := ilog2 m
  let one := 2 ^ fixP
  let y := m * one / 2 ^ lg
  let z := (y - one) * one / (y + one)
  let ln := atanhTerms (z * z / one) 110 1 z 0
  ofFix (((lg : Int) + e) * 2 ^ fixP + ((ln * one / fixLn2 : Nat) : Int))

/-! ### The logistic function and its kin (R115) -/

/-- 1 ÷ (1 + e^−x) of a fixed-point x. -/
def sigmoidFix (x : Int) : FV := (divV (.fin false 1 0) (addV (.fin false 1 0) (expFix (-x))).1).1

/-- sigmoid(x). -/
def sigmoidV : FV → FV
  | .nan x => .nan x
  | .inf s => .fin false (b2n (!s)) 0
  | .fin s m e => sigmoidFix (toFix s m e)

/-- tanh(x) = (1 − e^−2|x|) ÷ (1 + e^−2|x|), with the sign of x. -/
def tanhV : FV → FV
  | .nan x => .nan x
  | .inf s => .fin s 1 0
  | .fin s m e =>
    if m = 0 then .fin s 0 0
    else
      let q := expFix (-(2 * toFix false m e))
      match (divV (addV (.fin false 1 0) (negV q)).1 (addV (.fin false 1 0) q).1).1 with
      | .fin _ n g => .fin s n g
      | v => v

/-- x × sigmoid(x), with the rules of R130 at the infinities. -/
def siluV (x : FV) : FV × Nat := mulV x (sigmoidV x)

/-- GELU, tanh form: x × (1 + tanh(√(2/π) × (x + 0.044715 x³))) ÷ 2, which is x × sigmoid of twice that argument. [PRESUMED, log entry 134] -/
def geluV : FV → FV × Nat
  | .fin s m e =>
    let cube := toFix s (m * m * m) (3 * e)
    let u := (toFix s m e * 1000000 + 44715 * cube) * (fixGelu : Int) / 2 ^ fixP * 2 / 1000000
    mulV (.fin s m e) (sigmoidFix u)
  | x => mulV x (sigmoidV x)

/-! ### Sine and cosine -/

/-- Sine or cosine of a finite value: reduced by quarter turns to at most a quarter turn, then by its series. -/
def trigV (cos s : Bool) (m : Nat) (e : Int) : FV :=
  let x := toFix s m e
  let h : Int := fixPi / 2
  let q := x / h
  let r := x - q * h
  let quad := (q + (if cos then 1 else 0)) % 4
  let sn := expTerms r 2 true 50 2 r r
  let cs := expTerms r 2 true 50 1 (2 ^ fixP) (2 ^ fixP)
  let v := if quad % 2 = 0 then sn else cs
  ofFix (if quad < 2 then v else -v)

/-! ### What may be delivered -/

/-- The magnitude of the difference of two values. -/
def gapV (a b : FV) : FV := match (addV a (negV b)).1 with
  | .fin _ m e => .fin false m e
  | v => v

/-- A pattern as a value, an infinity as the value that an overflow would have. -/
def reachV (w : Word) : FV := match decF fF32 w.toNat with
  | .inf s => .fin s 1 128
  | v => v

/-- A finite pattern, or an infinity, lies within `tol` of a finite value. [DEDUCED, log entry 64] -/
def within (tol v : FV) (w : Word) : Bool :=
  !isNanV (reachV w) && !ltV tol (gapV (reachV w) v)

/-- Two units in the last place of binary32 at a value (R204). -/
def twoUlp : FV → FV
  | .fin _ m e => .fin false 2 (if m = 0 then -149 else max ((ilog2 m : Int) + e - 23) (-149))
  | _ => .fin false 0 0

/-- Flags of delivering a binary32 pattern for an exact value (R139). -/
def deliverFlags (v : FV) (w : Word) : Nat :=
  match v with
  | .fin _ m e =>
    let off := !eqV (decF fF32 w.toNat) v
    flagIf off fInexact |||
    flagIf (match decF fF32 w.toNat with
      | .inf _ => true
      | _ => false) (fOverflow + fInexact) |||
    flagIf (off && decide (m ≠ 0 ∧ (ilog2 m : Int) + e < -126)) fUnderflow
  | _ => 0

/-- The result of a function whose exact value is `v` and which the spec states within `tol`: the hardware's pattern where
it lies within that, else the rounded value; exactly the value where that is zero, infinite or NaN, and, where `exact`,
where binary32 holds it. Pattern and flags, in flush mode as R136 has it. [DEDUCED, log entry 64] -/
def deliver (flush exact : Bool) (tol v : FV) (raw : Word) : Word × Nat :=
  let p := packV fF32 none v
  let free := match v with
    | .fin _ m _ => decide (m ≠ 0) && !(exact && decide (p.2 = 0)) && within tol v raw
    | _ => false
  let w := if free then raw else BitVec.ofNat 32 p.1
  let r := writeF flush fF32 (w.toNat, deliverFlags v w)
  (BitVec.ofNat 32 r.1, r.2)

/-! ### Sums whose order is open (R97, R110, R130) -/

/-- A value as a term of a sum. -/
def termOf : FV → Bool × Nat × Int
  | .nan _ => (false, 0, 2)
  | .inf s => (s, 0, 1)
  | .fin s m e => (s, m, if m = 0 then 0 else e)

/-- Trailing zero bits of a positive number. -/
def lowZeros (m : Nat) : Nat := ilog2 (m - (m &&& (m - 1)))

/-- Exponent of the lowest set bit of a non-zero finite value. -/
def lowExp : FV → Option Int
  | .fin _ m e => if m = 0 then none else some (e + lowZeros m)
  | _ => none

/-- A binary32 pattern holds the value. -/
def fits32 (v : FV) : Bool := match v with
  | .fin _ _ _ => decide ((packV fF32 none v).2 = 0)
  | _ => true

/-- A value as a multiple of 2^base, which divides it. -/
def multOf (base : Int) : FV → Int
  | .fin s m e =>
    if m = 0 then 0
    else
      let z := lowZeros m
      scaledInt s (m / 2 ^ z) (e + z) base
  | _ => 0

/-- Lowest exponent of the terms, and the terms as multiples of two to its power. -/
def sumBase (vs : List FV) : Int := match vs.filterMap lowExp with
  | [] => 0
  | b :: r => r.foldl min b
def sumMults (vs : List FV) : List Int := vs.map (multOf (sumBase vs))

/-- Every partial sum in every order is a binary32 value, normal in flush mode: the order of adding does not show. [DEDUCED, log entry 71] -/
def orderFree (flush : Bool) (vs : List FV) : Bool :=
  let base := sumBase vs
  decide ((if flush then -126 else -149) ≤ base ∧ base ≤ 104 ∧ sumNat ((sumMults vs).map Int.natAbs) < 2 ^ 24)

/-- The exact sum of finite values; minus zero only where every one is. -/
def exactSum (vs : List FV) : FV :=
  let t := (sumMults vs).foldl (· + ·) 0
  if t = 0 then
    .fin (!vs.isEmpty && vs.all (fun v => match v with
      | .fin s m _ => s && decide (m = 0)
      | _ => false)) 0 0
  else .fin (decide (t < 0)) t.natAbs (sumBase vs)

/-- The positive and the negative terms added, as magnitudes, and the largest term of a sign. -/
def sideSum (neg : Bool) (vs : List FV) : FV :=
  .fin false (sumNat ((sumMults vs).map (fun t => if (decide (t < 0)) = neg then t.natAbs else 0))) (sumBase vs)
def sideMax (neg : Bool) (vs : List FV) : FV :=
  .fin false ((sumMults vs).foldl (fun a t => if (decide (t < 0)) = neg then max a t.natAbs else a) 0) (sumBase vs)

/-- Twice a value. -/
def twice : FV → FV
  | .fin s m e => .fin s (2 * m) e
  | v => v

/-- A sum overflows to the infinity of a sign in every order: one term of that sign does against all of the other sign's,
which cannot overflow themselves (R130). [DEDUCED, log entry 71] -/
def mustOverflow (neg : Bool) (vs : List FV) : Bool :=
  let other := twice (sideSum (!neg) vs)
  !ltV (addV (sideMax neg vs) (negV other)).1 (.fin false 1 128) && ltV other (.fin false 1 127)

/-- How far a binary32 sum of n terms may lie from the exact sum, in any order: a unit of rounding of all terms' magnitudes
for each addition and each rounded factor, and in flush mode the smallest normal number for each. [DEDUCED, log entry 71] -/
def sumTol (flush : Bool) (vs : List FV) : FV :=
  let k := vs.length + 4
  let all := (addV (sideSum false vs) (sideSum true vs)).1
  (addV (mulV (.fin false (2 * k) (-24)) all).1 (.fin false k (if flush then -126 else -149))).1

/-- The hardware may deliver this pattern as the sum. -/
def sumMay (flush : Bool) (vs : List FV) (w : Word) : Bool :=
  let can := fun neg : Bool => !ltV (twice (sideSum neg vs)) (.fin false 1 128)
  match decF fF32 w.toNat with
  | .nan _ => decide (w = 0x7FC00000#32) && can false && can true
  | .inf s => can s
  | .fin _ _ _ => within (sumTol flush vs) (exactSum vs) w

/-- Flags of a sum delivered: INVALID and OVERFLOW with their results; what a rounding or a flush on the way leaves is the
hardware's. [DEDUCED, log entry 71] -/
def sumFlagsOf (flush : Bool) (vs : List FV) (w : Word) : Nat :=
  let fr := Config.sumFlags flush (vs.map termOf)
  let base := sumBase vs
  let fl := match decF fF32 w.toNat with
    | .nan _ => fInvalid + fOverflow + fInexact
    | .inf _ => fOverflow + fInexact
    | v => flagIf (!eqV v (exactSum vs)) fInexact ||| (fr &&& fInexact)
  fl ||| flagIf (decide (base < -149) && bitOf fr 2) (fUnderflow + fInexact) |||
    flagIf (flush && decide (base < -126) && bitOf fr 4) (fFlush + fUnderflow + fInexact)

/-- A sum of finite values in binary32 and its flags: exact or rounded once where no order shows; else what the hardware
delivers within `sumTol`. `whole`: every factor of a term was a binary32 value. [DEDUCED, log entry 71] -/
def finiteSum (flush whole : Bool) (vs : List FV) : Word × Nat :=
  let ex := exactSum vs
  let nz := vs.filter (fun v => (lowExp v).isSome)
  let p := packV fF32 none ex
  if whole ∧ (orderFree flush vs ∨ nz.length ≤ 1 ∨ (nz.length = 2 ∧ nz.all fits32)) then
    let r := writeF flush fF32 p
    (BitVec.ofNat 32 r.1, r.2)
  else
    let raw := Config.arraySum flush (vs.map termOf)
    let w := if mustOverflow false vs then BitVec.ofNat 32 (infBits fF32 false)
      else if mustOverflow true vs then BitVec.ofNat 32 (infBits fF32 true)
      else if sumMay flush vs raw then raw else BitVec.ofNat 32 p.1
    let r := writeF flush fF32 (w.toNat, sumFlagsOf flush vs w)
    (BitVec.ofNat 32 r.1, r.2)

/-- A sum of values in binary32 and its flags: NaN, and infinities of opposite sign, give NaN in any order; an infinity
gives itself, unless the finite terms overflow to the other one on the way, which is the hardware's (R130). [DEDUCED, log entry 71] -/
def sumOf (flush whole : Bool) (vs : List FV) : Word × Nat :=
  let pos := vs.any (fun v => decide (v = .inf false))
  let negI := vs.any (fun v => decide (v = .inf true))
  let fins := vs.filter (fun v => match v with
    | .fin _ _ _ => true
    | _ => false)
  if vs.any isNanV then (0x7FC00000#32, flagIf (vs.any (fun v => decide (v = .nan true))) fInvalid)
  else if pos ∧ negI then (0x7FC00000#32, fInvalid)
  else if pos ∨ negI then
    let inf := BitVec.ofNat 32 (infBits fF32 negI)
    if ¬ ltV (twice (sideSum pos fins)) (.fin false 1 128) ∧ Config.arraySum flush (vs.map termOf) ≠ inf then
      (0x7FC00000#32, fInvalid + fOverflow + fInexact)
    else (inf, Config.sumFlags flush (vs.map termOf) &&& (fInexact ||| flagIf flush (fFlush + fUnderflow)))
  else finiteSum flush whole fins

/-- A sum of binary32 values, or of exact products of them. -/
def sumV (flush : Bool) (vs : List FV) : Word × Nat := sumOf flush true vs

end Sys2Proof.Machine
end

