-- ==== Sys2Proof/Machine/Events.lean ====
section
/-! DEFINITION. Event records on their way to the manager's event ring and to the pages of slices (R401, R403, R448, R449). -/

namespace Sys2Proof.Machine

/-- EVENT_TAIL of a slice's page, as the tenant runtime wrote it. -/
def pageTail (s : State) (sl : Slice) : Nat := leNat (hostRead s none (sl.page + 20) 4) % 64

/-- Writes one 64-byte entry of a slice's page ring, advances EVENT_HEAD and raises TENANT_VECTOR; none where no
entry is free before EVENT_TAIL (R445, R448). -/
def pageEntry (n : Nat) (bs : List Byte) (s : State) : Option State :=
  match tget? s.ten.slices n with
  | none => none
  | some sl =>
    if n = 0 ∨ (sl.evHead + 1) % 64 = pageTail s sl then none
    else
      let head := (sl.evHead + 1) % 64
      let s := hostPost none (sl.page + 0x3000 + 64 * sl.evHead) bs s
      let s := hostPost none (sl.page + 16) (leBytes 4 head) s
      some (raiseMsix sl.vector (setSlice n (fun sl => { sl with evHead := head }) s))

/-- A record for a slice's page: SLICE_EVENTS_LOST goes first where records were lost; a record that finds no room
is dropped and counted (R448, R449). -/
def pageRecord (n : Nat) (bs : List Byte) (s : State) : State :=
  let lost := ((tget? s.ten.slices n).map (·.evLost)).getD 0
  let s := if lost = 0 then s else
    match pageEntry n (eventBytes pd0 0x0019 (refOf s pd0) 0 n lost 0 0) s with
    | some s => raise pd0 0x0019 0 n lost 0 0 (setSlice n (fun sl => { sl with evLost := 0 }) s)
    | none => s
  match pageEntry n bs s with
  | some s => s
  | none => setSlice n (fun sl => { sl with evLost := sl.evLost + 1 }) s

/-- The manager's event ring has room: one entry stays free before TAIL. -/
def evRoom (s : State) : Bool :=
  let n := 2 ^ s.cmd.evLog2
  s.cmd.evEnable && decide ((s.cmd.evHead + 1) % n ≠ s.cmd.evTail % n)

/-- EVENT_RECORD: the oldest raised record is written, or dropped and counted. [DESIGN CHOICE, log entry 9] -/
def eventRecordS (s : State) : State :=
  match s.cmd.evq with
  | [] => s
  | r :: rest =>
    let s := { s with cmd := { s.cmd with evq := rest } }
    let s := match r.slice with
      | some n => pageRecord n r.bytes s
      | none => s
    if evRoom s then
      let s := hostPost none (s.cmd.evBase + 64 * s.cmd.evHead) r.bytes s
      raiseMsix s.cmd.evVec { s with cmd := { s.cmd with
        evHead := (s.cmd.evHead + 1) % 2 ^ s.cmd.evLog2, evDelivered := satAdd (2 ^ 32 - 1) s.cmd.evDelivered 1 } }
    else { s with cmd := { s.cmd with evLost := satAdd (2 ^ 32 - 1) s.cmd.evLost 1 } }

/-- Every record raised so far is written, oldest first. -/
def flushEvents (s : State) : State := s.cmd.evq.foldl (fun s _ => eventRecordS s) s

end Sys2Proof.Machine
end

