-- ==== Sys2Proof/Machine/Memory.lean ====
section
/-! DEFINITION. Device memory: extents and their placement (R254-R264, R359-R367), routes and availability
of homes (R470-R482), poison and damage (R279, R588-R592), and reads and writes of lines at their homes. -/

namespace Sys2Proof.Machine

/-! ### Bundles, links and routes -/

/-- Bundles of a link (R463). -/
def linkBundles (l : Nat) : Nat := if l < 20 then 15 else if l < 33 then 12 else 4

/-- Ends of a link, as die numbers (R463). -/
def linkEnds (l : Nat) : Nat × Nat :=
  if l < 20 then (l / 2, crustDie l)
  else if l < 24 then (l - 20, l - 19)
  else if l < 28 then (l - 19, l - 18)
  else if l < 33 then (l - 28, l - 23)
  else
    let ring := [pd0, 0, 1, 2, 3, 4, pd1, 9, 8, 7, 6, 5, pd0]
    (nth 0 ring (l - 33), nth 0 ring (l - 32))

/-- A bundle of a link. -/
def bundleOf (s : State) (l b : Nat) : Bundle := tget {} s.seam.bundles (l * 16 + b)

/-- Some bundle of the link is FULL or HALF. -/
def linkUp (s : State) (l : Nat) : Bool :=
  (List.range (linkBundles l)).any (fun b => (bundleOf s l b).st = 1 ∨ (bundleOf s l b).st = 2)

/-- Bundles of a link in service. -/
def linkInService (s : State) (l : Nat) : Nat :=
  ((List.range (linkBundles l)).filter (fun b =>
    decide ((bundleOf s l b).st = 1 ∨ (bundleOf s l b).st = 2))).length

/-- The link between two neighbouring partitions (R463), none where they are not neighbours. -/
def meshLink (a b : Nat) : Option Nat :=
  (List.range' 20 13).find? (fun l => decide (linkEnds l = (a, b) ∨ linkEnds l = (b, a)))

/-- The partitions from `a` towards column `c` of `a`'s row, `a` left out. -/
def rowPath (a c : Nat) : List Nat :=
  let r := pRow a
  if pCol a < c then (List.range (c - pCol a)).map (fun i => 5 * r + pCol a + 1 + i)
  else (List.range (pCol a - c)).map (fun i => 5 * r + pCol a - 1 - i)

/-- The partition across the rows from `a`. -/
def across (a : Nat) : Nat := if a < 5 then a + 5 else a - 5

/-- The route of R32 from `a` to `b`: along the row, then across. -/
def routeMain (a b : Nat) : List Nat :=
  rowPath a (pCol b) ++ (if pRow a = pRow b then [] else [b])

/-- The alternative route of R482. -/
def routeAlt (a b : Nat) : List Nat :=
  if pRow a = pRow b then [across a] ++ rowPath (across a) (pCol b) ++ [b]
  else [across a] ++ rowPath (across a) (pCol b)

/-- A route meets no fenced die on its way and no link with every bundle OUT (R471, R482). -/
def routeClear (s : State) (a : Nat) : List Nat → Bool
  | [] => true
  | b :: r =>
    (match meshLink a b with
     | some l => linkUp s l
     | none => false) && (r.isEmpty || !decide (b ∈ s.seam.fenced)) && routeClear s b r

/-- Some route joins two partitions. -/
def routeOk (s : State) (a b : Nat) : Bool :=
  decide (a = b) || routeClear s a (routeMain a b) || routeClear s a (routeAlt a b)

/-- Places of the I/O ring in the loop order of R33. -/
def ringOrder : List Nat := [pd0, 0, 1, 2, 3, 4, pd1, 9, 8, 7, 6, 5]

/-- Position of a die on the ring. -/
def ringPos (d : Nat) : Nat := ringOrder.findIdx (fun x => decide (x = d))

/-- The ring from position `i` forwards for `n` segments is unbroken: each segment in service and each stop
between running (R471, R483). -/
def ringFwd (s : State) : Nat → Nat → Bool
  | _, 0 => true
  | i, n + 1 =>
    linkUp s (33 + i % 12) &&
    (decide (n = 0) || !decide (nth 0 ringOrder ((i + 1) % 12) ∈ s.clk.lost)) && ringFwd s (i + 1) n

/-- The direction of the ring from one stop to another: the one with fewer segments, true for the order of `ringOrder`;
between the port dies, PD0 to PD1 along the north row and PD1 to PD0 along the south row, both in that order (R34). -/
def ringDir (a d : Nat) : Bool := decide ((ringPos d + 12 - ringPos a) % 12 ≤ 6)

/-- The ring from one stop to another is unbroken in a direction. -/
def ringWhole (s : State) (a d : Nat) (fwd : Bool) : Bool :=
  let i := ringPos a
  let j := ringPos d
  if fwd then ringFwd s i ((j + 12 - i) % 12) else ringFwd s j ((i + 12 - j) % 12)

/-- The direction that ring traffic takes: R34's, or the other way around the loop where that one is broken, none where both
are (R471). -/
def ringRoute (s : State) (a d : Nat) : Option Bool :=
  if ringWhole s a d (ringDir a d) then some (ringDir a d)
  else if ringWhole s a d (!ringDir a d) then some (!ringDir a d) else none

/-- A port die reaches a die over the ring (R471). -/
def ringReach (s : State) (port d : Nat) : Bool := (ringRoute s port d).isSome

/-- Some port die reaches the partition's compute die. -/
def ringOk (s : State) (p : Nat) : Bool := ringReach s pd0 p || ringReach s pd1 p

/-! ### Crust dies -/

/-- The Crust register block of a stack. -/
def cruOf (s : State) (k : Nat) : Cru := tget {} s.home.cru k

/-- Changes a stack's Crust block. -/
def setCru (k : Nat) (f : Cru → Cru) (s : State) : State :=
  { s with home := { s.home with cru := tmod {} s.home.cru k f } }

/-- Usable granules of a stack: 64 − 2m GiB with m channels out, none when it is mapped out (R282). -/
def usableGrans (s : State) (k : Nat) : Nat :=
  if (cruOf s k).mapped then 0 else (64 - 2 * (cruOf s k).chOut.length) * 16384

/-- The stack is in service for new extents: not mapped out (R284). -/
def stackInService (s : State) (k : Nat) : Bool := decide (k < 20) && !(cruOf s k).mapped

/-- A home is out of service for good or for a time (R470, R479, R481). -/
def homeDown (s : State) (k : Nat) : Bool :=
  (cruOf s k).mapped || decide (stackPart k ∈ s.seam.fenced) || !linkUp s k

/-- The home is unavailable only for a time, so read-only requests are sent again (R481). -/
def homeDownForNow (s : State) (k : Nat) : Bool := !(cruOf s k).mapped && homeDown s k

/-- Partition from which an agent's requests come, none for a port die. -/
def agentPart : Agent → Option Nat
  | .cache n => some (stnPart n)
  | .xfer n _ _ => some (stnPart n)
  | .missReg n _ => some (stnPart n)
  | .sem n => some (stnPart n)
  | .semGrp n _ => some (stnPart n)
  | .cmd _ _ => none
  | .core _ => none
  | .rbx _ _ _ => none
  | .bar4 => none
  | .piper _ => none

/-- The home of stack `k` answers the agent: it is in service and a route reaches it (R471, R481, R482). -/
def homeAnswers (s : State) (k : Nat) (a : Agent) : Bool :=
  !homeDown s k &&
    (match a with
     | .piper _ => true
     | _ => (match agentPart a with
       | some p => routeOk s p (stackPart k)
       | none => ringOk s (stackPart k)))

/-! ### Extents -/

/-- Handle of an extent number (R359). -/
def handleOf (num : Nat) (x : Extent) : Nat := num % 2 ^ 24 + x.gen % 256 * 2 ^ 24

/-- The extent a handle names, generation included. -/
def extByHandle (s : State) (h : Nat) : Option (Nat × Extent) :=
  match tget? s.xt.extents (h % 2 ^ 24) with
  | some x => if x.gen = h / 2 ^ 24 % 256 then some (h % 2 ^ 24, x) else none
  | none => none

def attrReadOnly (a : Nat) : Bool := bitOf a 0
def attrSealed (a : Nat) : Bool := bitOf a 1
def attrIntegrity (a : Nat) : Bool := bitOf a 2
def attrPinned (a : Nat) : Bool := bitOf a 3
def attrReplica (a : Nat) : Bool := bitOf a 4
def attrSharedRo (a : Nat) : Bool := bitOf a 6

/-- Read-only for the context (R363). -/
def readOnlyFor (x : Extent) (c : Nat) : Bool :=
  attrReadOnly x.attr || (attrSharedRo x.attr && !decide (c = x.owner))

/-- A context is a member of a shared set while it maps an extent of it through EXT_SHARE (R363). -/
def isMember (s : State) (set c : Nat) : Bool :=
  decide (set ≠ 0) && s.xt.maps.any (fun m => decide (m.ctx = c) && m.shared &&
    (match tget? s.xt.extents m.num with
     | some y => decide (y.sharedSet = set)
     | none => false))

/-- The owner set of an extent (R363). -/
def inOwnerSet (s : State) (x : Extent) (c : Nat) : Bool :=
  decide (c = x.owner) || isMember s x.sharedSet c

/-- The mapping of context `c` that holds address `a`, with its extent (R365). -/
def findMap (s : State) (c a : Nat) : Option (Mapping × Extent) :=
  s.xt.maps.findSome? (fun m =>
    if m.ctx = c then
      match tget? s.xt.extents m.num with
      | some x => if m.start ≤ a ∧ a < m.start + x.length then some (m, x) else none
      | none => none
    else none)

/-- Parity of the set bits of a number. -/
def parity (u : Nat) : Nat := popCount 64 u % 2

/-- `locate` of R263 over a list of stacks and granules. -/
def locateIn (placement : Nat) (stks : List Nat) (grans : List (List Nat)) (f : Nat) : Option (Nat × Nat) :=
  let u := f / 4096
  let n := stks.length
  let kv : Nat × Nat :=
    if placement = 0 then (if n = 2 then (parity u, u / 2) else (0, u))
    else if placement = 1 then (if n = 0 then (0, u) else ((u + u / n) % n, u / n))
    else (0, u)
  match stks[kv.1]?, (grans.getD kv.1 [])[kv.2 / 16]? with
  | some k, some g => some (k, g * 65536 + (kv.2 % 16) * 4096 + f % 4096)
  | _, _ => none

/-- Stack and stack-local address of byte offset `f` of an extent (R263). -/
def locate (x : Extent) (f : Nat) : Option (Nat × Nat) := locateIn x.placement x.stks x.grans f

/-- The same in the extent's replica. -/
def locateRep (x : Extent) (f : Nat) : Option (Nat × Nat) :=
  locateIn (if x.repStacks.length = 1 then 2 else x.placement) x.repStacks x.repGrans f

/-- Byte offset in an extent of byte `a` (below 64 KiB) of granule `gi` of stack `k` of its list: the inverse of `locate`. -/
def offsetOf (placement : Nat) (n k gi a : Nat) : Nat :=
  let v := gi * 16 + a / 4096
  let u :=
    if placement = 0 then (if n = 2 then (if parity (2 * v) = k then 2 * v else 2 * v + 1) else v)
    else if placement = 1 then v * n + (k + n - v % n) % n
    else v
  u * 4096 + a % 4096

/-- Where granule `g` of stack `k` stands in the lists of an extent: index of the stack and of the granule. -/
def findGran (stks : List Nat) (grans : List (List Nat)) (k g : Nat) : Option (Nat × Nat) :=
  (stks.zip grans).zipIdx.findSome? (fun e =>
    if e.1.1 = k then
      let i := e.1.2.findIdx (fun y => decide (y = g))
      if i < e.1.2.length then some (e.2, i) else none
    else none)

/-- A granule's current extent (R366): number, extent, whether it is the replica, and its place in the lists. -/
def granOwner (s : State) (k g : Nat) : Option (Nat × Extent × Bool × Nat × Nat) :=
  s.xt.extents.findSome? (fun e =>
    match findGran e.2.stks e.2.grans k g with
    | some (i, j) => some (e.1, e.2, false, i, j)
    | none =>
      match findGran e.2.repStacks e.2.repGrans k g with
      | some (i, j) => some (e.1, e.2, true, i, j)
      | none => none)

/-- Granules on stack `k` held by an extent: data, tags and replica. -/
def extGrans (x : Extent) (k : Nat) : List Nat :=
  ((x.stks.zip x.grans).flatMap (fun e => if e.1 = k then e.2 else [])) ++
  ((x.repStacks.zip x.repGrans).flatMap (fun e => if e.1 = k then e.2 else [])) ++
  (x.tagGrans.filter (fun e => decide (e.1 = k))).map (·.2)

/-- Granules an extent is charged for (R264, R362). -/
def extCharge (x : Extent) : Nat :=
  sumNat (x.grans.map (·.length)) + sumNat (x.repGrans.map (·.length)) + x.tagGrans.length

/-- All granules of an extent as (stack, granule). -/
def extGranList (x : Extent) : List (Nat × Nat) :=
  ((x.stks.zip x.grans).flatMap (fun e => e.2.map (fun g => (e.1, g)))) ++
  ((x.repStacks.zip x.repGrans).flatMap (fun e => e.2.map (fun g => (e.1, g)))) ++ x.tagGrans

/-- Granules of stack `k` in use: extents, save areas, and freed ones not yet zeroed. [DEDUCED, log entry 108] -/
def usedGrans (s : State) (k : Nat) : List Nat :=
  s.xt.extents.flatMap (fun e => extGrans e.2 k) ++
  s.sch.launches.flatMap (fun e => e.2.insts.flatMap (fun i =>
    (i.area.filter (fun a => decide (a.1 = k))).map (·.2))) ++
  (s.xt.freeing.filter (fun e => decide (e.1 = k))).map (fun e => e.2.1)

/-- The granule for a hint: the first free one at or after it, cyclically, none where the stack is full. -/
def pickGran (s : State) (k : Nat) (taken : List Nat) (hint : Nat) : Option Nat :=
  let n := usableGrans s k
  let used := usedGrans s k ++ taken
  let g := lowestFree used n (hint % (n + 1))
  if g < n then some g
  else
    let g := lowestFree used n 0
    if g < n then some g else none

/-- Takes `cnt` granules of stack `k` by the hints, leaving the unused hints; none where there are too few. -/
def takeGrans (s : State) (k : Nat) : Nat → List Nat → List Nat → Option (List Nat × List Nat)
  | 0, _, hints => some ([], hints)
  | cnt + 1, taken, hints =>
    match pickGran s k taken (hints.headD 0) with
    | none => none
    | some g =>
      match takeGrans s k cnt (g :: taken) hints.tail with
      | none => none
      | some (gs, h) => some (g :: gs, h)

/-! ### Lines -/

/-- Key of a line: stack·2^29 + stack-local line number (R256). -/
def lkey (k line : Nat) : Nat := k * 2 ^ 29 + line

/-- Key of a byte: stack·2^36 + stack-local address. -/
def bkey (k a : Nat) : Nat := k * 2 ^ 36 + a

/-- Byte of device memory at its home; an unlisted byte reads as zero (R600, R623). [DESIGN CHOICE, log entry 5] -/
def memByte (s : State) (k a : Nat) : Byte := tget 0 s.mem.cells (bkey k a)

/-- The 128 bytes of a line. -/
def lineBytes (s : State) (k line : Nat) : List Byte :=
  (List.range 128).map (fun i => memByte s k (line * 128 + i))

/-- The line lies in the withdrawn range of its stack (R282, R283). -/
def withdrawn (s : State) (k line : Nat) : Bool := decide (usableGrans s k * 512 ≤ line)

/-- A granule of a sealed extent not yet loaded reads as poison (R571). -/
def unloadedGran (s : State) (k g : Nat) : Bool :=
  match granOwner s k g with
  | some (_, x, _, i, j) =>
    attrSealed x.attr && !decide (offsetOf x.placement x.stks.length i j 0 / 65536 ∈ x.loaded)
  | none => false

/-- A read of the line returns poison (R279, R283, R571). -/
def linePoisoned (s : State) (k line : Nat) : Bool :=
  decide (lkey k line ∈ s.mem.poison) || withdrawn s k line || unloadedGran s k (line / 512)

/-- Marks a 64 KiB data granule dirty for the slice charged, while it logs (R454). -/
def dirtyMark (k g : Nat) (s : State) : State :=
  match granOwner s k g with
  | some (_, x, false, _, _) =>
    setSlice x.slice (fun sl => if sl.dirtyOn then { sl with dirty := insKey (k * 1048576 + g) sl.dirty } else sl) s
  | _ => s

/-- Writes the bytes of a line named by the byte mask, at their home. -/
def putLine (k line mask : Nat) (data : List Byte) (s : State) : State :=
  { s with mem := { s.mem with
      cells := (bitsSet 128 mask).foldl (fun m i => tset 0 m (bkey k (line * 128 + i)) (nth 0 data i)) s.mem.cells } }

/-- Poisoned lines an extent's data granules hold, as keys. -/
def extPoison (s : State) (x : Extent) : List Nat :=
  s.mem.poison.filter (fun key =>
    (findGran x.stks x.grans (key / 2 ^ 29) (key % 2 ^ 29 / 512)).isSome)

/-- A whole-line write clears the poison mark (R279); the extent's DAMAGED clears with its last poisoned line
unless a granule is withdrawn, and EXTENT_REPAIRED is raised (R589). -/
def clearPoison (k line : Nat) (s : State) : State :=
  if lkey k line ∈ s.mem.poison then
    let s := { s with mem := { s.mem with poison := s.mem.poison.filter (fun p => !decide (p = lkey k line)) } }
    match granOwner s k (line / 512) with
    | some (num, x, false, _, _) =>
      let x' := { x with repaired := x.repaired + 1 }
      if x.damaged ∧ ¬ x.withdrawn ∧ (extPoison s x).isEmpty then
        raise (crustDie k) 0x0050 x.owner x.slice (handleOf num x) x'.repaired
          ((refOf s (crustDie k) - x.damagedAt) / refUs)
          { s with xt := { s.xt with extents := tput s.xt.extents num { x' with damaged := false, repaired := 0 } } }
      else { s with xt := { s.xt with extents := tput s.xt.extents num x' } }
    | _ => s
  else s

/-- Puts bytes of a line, and clears its poison mark where the whole line is named (R279). [DEDUCED, log entry 110] -/
def putWhole (k line mask : Nat) (data : List Byte) (s : State) : State :=
  let s := putLine k line mask data s
  if mask % 2 ^ 128 = 2 ^ 128 - 1 then clearPoison k line s else s

/-- The replica's place of a line of an extent's data (R263, R361). [DEDUCED, log entry 110] -/
def replicaLine (s : State) (k line : Nat) : Option (Nat × Nat) :=
  match granOwner s k (line / 512) with
  | some (_, x, false, i, j) =>
    if attrReplica x.attr then
      (locateRep x (offsetOf x.placement x.stks.length i j (line % 512 * 128))).map (fun p => (p.1, p.2 / 128))
    else none
  | _ => none

/-- A write of a line at its home: bytes, dirty log, and the poison mark where the whole line is named. A
write to a withdrawn granule is discarded (R283). A write into an extent with a replica reaches the replica too. [DEDUCED, log entry 110] -/
def writeLine (k line mask : Nat) (data : List Byte) (s : State) : State :=
  if withdrawn s k line then s
  else
    let rep := replicaLine s k line
    let s := putWhole k line mask data (dirtyMark k (line / 512) s)
    match rep with
    | some (k2, l2) => if withdrawn s k2 l2 then s else putWhole k2 l2 mask data s
    | none => s

/-! ### Fault records and damage (R371-R374, R589-R592) -/

/-- Bytes of a fault record within its batch (R373). -/
def faultBytes (ctx batch : Nat) (r : FaultRec) : List Byte :=
  layout 64 [(0, leBytes 4 0x0C05), (4, leBytes 2 ctx), (6, leBytes 1 r.die), (7, leBytes 1 r.cause),
    (8, leBytes 8 r.count), (16, leBytes 8 r.address), (24, leBytes 2 r.station), (26, leBytes 1 r.access),
    (27, leBytes 1 r.agent), (28, leBytes 2 r.index), (30, leBytes 2 r.merged), (32, leBytes 4 r.length),
    (36, leBytes 4 batch)]

/-- Two faults merge: same station, granule, access and cause (R373). -/
def sameFault (a b : FaultRec) : Bool :=
  decide (a.station = b.station ∧ a.address / 65536 = b.address / 65536 ∧ a.access = b.access ∧ a.cause = b.cause)

/-- Merges a fault into the first record it matches. -/
def mergeFault (r : FaultRec) : List FaultRec → Option (List FaultRec)
  | [] => none
  | a :: l =>
    if sameFault a r then some ({ a with merged := min 65535 (a.merged + 1) } :: l)
    else (mergeFault r l).map (a :: ·)

/-- The open batch takes a fault record; at 256 records it waits for delivery with trigger FULL (R373, R374). -/
def addFault (c : Nat) (r : FaultRec) : State → State :=
  setCtx c (fun x =>
    let b : Batch := x.openBatch.getD ⟨x.batchSeq, []⟩
    let seq := if x.openBatch.isSome then x.batchSeq else x.batchSeq + 1
    let recs := (mergeFault r b.recs).getD (b.recs ++ [{ r with merged := 1 }])
    if recs.length ≥ 256 then
      { x with openBatch := none, waiting := x.waiting ++ [({ b with recs := recs }, 0)], batchSeq := seq }
    else { x with openBatch := some { b with recs := recs }, batchSeq := seq })

/-- A trigger moves the open batch, when it holds a record, to the batches that wait for delivery (R374). -/
def triggerBatch (c trig : Nat) : State → State :=
  setCtx c (fun x =>
    match x.openBatch with
    | some b => if b.recs.isEmpty then x else { x with openBatch := none, waiting := x.waiting ++ [(b, trig)] }
    | none => x)

/-- Some instance of the context is running a stretch or holds at a rest point with its stations. -/
def ctxRunning (s : State) (c : Nat) : Bool :=
  s.sch.launches.any (fun e => decide (e.2.ctx = c) && e.2.insts.any (fun i => i.placed && decide (i.ph ≠ .complete)))

/-- The contexts that map an extent, each once. -/
def ctxsMapping (s : State) (num : Nat) : List Nat :=
  ((s.xt.maps.filter (fun m => decide (m.num = num))).map (·.ctx)).eraseDups

/-- The device address of offset `f` of an extent in a context. -/
def addrIn (s : State) (c num f : Nat) : Nat :=
  match s.xt.maps.find? (fun m => decide (m.ctx = c ∧ m.num = num)) with
  | some m => m.start + f
  | none => f

/-- R591: every context that maps the extent gets a DAMAGED record, at its instance's next rest point or at
once with trigger DAMAGED. -/
def suspendCtxs (num : Nat) (k off : Nat) (s : State) : State :=
  (ctxsMapping s num).foldl (fun s c =>
    let r : FaultRec := ⟨crustDie k, 5, refOf s (crustDie k), addrIn s c num off, 0, 0, 0, 0, 1, 128⟩
    if ctxRunning s c then setCtx c (fun x => { x with owedDamage := x.owedDamage ++ [r] }) s
    else triggerBatch c 3 (addFault c r s)) s

/-- R592: zeros over a whole sealed extent, every granule unloaded. -/
def unloadSealed (num : Nat) (x : Extent) (s : State) : State :=
  let inExt := fun (k g : Nat) => (findGran x.stks x.grans k g).isSome || (findGran x.repStacks x.repGrans k g).isSome
  let s := raise pd0 0x0050 x.owner x.slice (handleOf num x) (extPoison s x).length 0 s
  { s with
    mem := { cells := s.mem.cells.filter (fun e => !inExt (e.1 / 2 ^ 36) (e.1 % 2 ^ 36 / 65536)),
             poison := s.mem.poison.filter (fun p => !inExt (p / 2 ^ 29) (p % 2 ^ 29 / 512)) },
    xt := { s.xt with extents := tput s.xt.extents num { x with loaded := [], damaged := false } } }

/-- The replica can give the line at offset `off`: it has one, its home answers and its line is not poisoned. -/
def replicaUsable (s : State) (x : Extent) (off : Nat) : Bool :=
  attrReplica x.attr &&
    (match locateRep x off with
     | some (k, a) => !homeDown s k && !linePoisoned s k (a / 128)
     | none => false)

/-- DAMAGED rises on an extent: the event names what follows (R589, R611). -/
def damageExtent (num : Nat) (x : Extent) (k off line : Nat) (s : State) : State :=
  let how := if ¬ attrReadOnly x.attr then 3 else if replicaUsable s x off then 0 else if attrSealed x.attr then 2 else 1
  let x' := { x with damaged := true, repaired := 0, damagedAt := refOf s (crustDie k) }
  let s := raise (crustDie k) 0x004F x.owner x.slice (handleOf num x) line how
    { s with xt := { s.xt with extents := tput s.xt.extents num x' } }
  if how = 1 then suspendCtxs num k off s
  else if how = 2 then
    suspendCtxs num k off (unloadSealed num x s)
  else s

/-- A home poisons a line (R279, R589). -/
def poisonLine (k line : Nat) (s : State) : State :=
  if lkey k line ∈ s.mem.poison then s
  else
    let s := { s with
      mem := { s.mem with poison := insKey (lkey k line) s.mem.poison },
      err := { s.err with poisoned := satAdd 65535 s.err.poisoned 1 } }
    match granOwner s k (line / 512) with
    | some (num, x, false, i, j) =>
      if x.damaged then s
      else damageExtent num x k (offsetOf x.placement x.stks.length i j (line % 512 * 128)) (line * 128) s
    | _ => s

/-! ### Translation -/

/-- A translated place: stack, line, byte in the line, and the handle of the extent. -/
structure Place where
  stack : Nat
  line : Nat
  off : Nat
  handle : Nat
  ro : Bool
deriving DecidableEq, Repr

/-- Translates a device address of a context (R358, R364, R365). -/
def translate (s : State) (c a : Nat) : Option Place :=
  match findMap s c a with
  | none => none
  | some (m, x) =>
    match locate x (a - m.start) with
    | none => none
    | some (k, b) => some ⟨k, b / 128, b % 128, handleOf m.num x, readOnlyFor x c⟩

/-- Every byte of a range lies in extents of the context. [DEDUCED, log entry 19] -/
def rangeMapped (s : State) (c a n : Nat) : Bool :=
  (List.range (ceilDiv (a % 4096 + n) 4096)).all (fun i =>
    (findMap s c (max a ((a / 4096 + i) * 4096))).isSome)

/-- The arrival-counter region (R358). -/
def inCounters (a : Nat) : Bool := decide (0xFFFFFFFFF8000 ≤ a ∧ a < 2 ^ 52)

/-- One byte of device memory as a context reads it through its extents; zero outside them. -/
def ctxByte (s : State) (c a : Nat) : Byte :=
  match translate s c a with
  | some p => memByte s p.stack (p.line * 128 + p.off)
  | none => 0

/-- `n` bytes of device memory as a context reads them. [DESIGN CHOICE, log entry 6] -/
def ctxRead (s : State) (c a n : Nat) : List Byte := (List.range n).map (fun i => ctxByte s c (a + i))

/-- Some line of the range reads as poison. -/
def ctxPoisoned (s : State) (c a n : Nat) : Bool :=
  (List.range (ceilDiv (a % 128 + n) 128)).any (fun i =>
    match translate s c (max a ((a / 128 + i) * 128)) with
    | some p => linePoisoned s p.stack p.line
    | none => false)

/-- Some home of the range does not answer the agent. -/
def ctxUnavailable (s : State) (c a n : Nat) (who : Agent) : Bool :=
  (List.range (ceilDiv (a % 128 + n) 128)).any (fun i =>
    match translate s c (max a ((a / 128 + i) * 128)) with
    | some p => !homeAnswers s p.stack who
    | none => false)

/-- The context cuts a byte range into lines: (place, byte offset in the range, bytes). -/
def linesOf (a n : Nat) : List (Nat × Nat × Nat) :=
  (List.range (ceilDiv (a % 128 + n) 128)).map (fun i =>
    let b := max a ((a / 128 + i) * 128)
    let e := min (a + n) ((a / 128 + i + 1) * 128)
    (b, b - a, e - b))

/-! ### Memory quotas (R362, R425, R441, R654) -/

/-- Granules charged to a slice: its extents, save areas of its launches, and freed granules not yet zeroed. -/
def usedQuota (s : State) (n : Nat) : Nat :=
  sumNat (s.xt.extents.map (fun e => if e.2.slice = n then extCharge e.2 else 0)) +
  sumNat (s.sch.launches.map (fun e => if e.2.slice = n then e.2.saveGrans * e.2.count else 0)) +
  (s.xt.freeing.filter (fun e => decide (e.2.2 = n))).length

/-- Usable granules of the stacks in service. -/
def totalGrans (s : State) : Nat := sumNat ((List.range 20).map (usableGrans s))

/-- Granules of a slice's memory quota; slice 0 takes what no tenant quota reserves (R654). -/
def quotaGrans (s : State) (n : Nat) : Nat :=
  if n = 0 then totalGrans s - sumNat (s.ten.slices.map (fun e => e.2.memMib * 16))
  else ((tget? s.ten.slices n).map (·.memMib * 16)).getD 0

end Sys2Proof.Machine
end

