-- ==== Sys2Proof/Machine/Floorplan.lean ====
section
/-! DEFINITION. Where things lie: the bundles a Link Station lands (R28), the landing places of mesh bundles (R31) and ring
stops (R33), the Link Station a request leaves and enters a die by (R32, R265), and the place of a line in its stack (R254,
R256, R282). -/

namespace Sys2Proof.Machine

/-! ### Landing places of bundles -/

/-- The five bundles of stack `k`'s link that its Link Station number `i` of R28's order lands. -/
def lkBundles (i : Nat) : List Nat := (List.range 5).map (fun b => 5 * i + b)

/-- Bundles in service at Link Station number `i` of stack `k` (R28). -/
def lkInService (s : State) (k i : Nat) : List Nat :=
  (lkBundles i).filter (fun b => decide ((bundleOf s k b).st = 1 ∨ (bundleOf s k b).st = 2))

/-- Station at which bundle `b` of mesh link `l` lands on the compute die `p`, one bundle a station (R31). -/
def meshLanding (l p b : Nat) : Nat :=
  let q := if (linkEnds l).1 = p then (linkEnds l).2 else (linkEnds l).1
  if pRow p = pRow q then stnAt p b (if pCol p < pCol q then 13 else 0)
  else stnAt p (if pRow p = 0 then 11 else 0) (b + 1)

/-- Stations to whose outward ports a compute die's ring stop is attached (R33). -/
def ringStop (p : Nat) : List Nat :=
  if pRow p = 0 then [stnAt p 0 6, stnAt p 0 7] else [stnAt p 11 6, stnAt p 11 7]

/-! ### The way of a line request (R32, R265) -/

/-- Link Stations landing the Crust die of stack `k` that have a bundle in service (R470). -/
def landingUp (s : State) (k : Nat) : List Nat :=
  ((landing k).zipIdx.filter (fun e => !(lkInService s k e.2).isEmpty)).map (·.1)

/-- The Link Station by which a request at a station of the home's die reaches the home Crust of stack `k`: the nearest of
those that land it with a bundle in service (R265, R470). [DEDUCED, log entry 126] -/
def crustLink (s : State) (n k : Nat) : Option Nat := nearest n (landingUp s k)

/-- The bundle of link `l` that every flit of a line takes while the bundles in service stay as they are: chosen by a hash of the
line address, a FULL bundle with twice the weight of a HALF one (R464). The hash is not given. [DESIGN CHOICE, log entry 25] -/
def lineBundle (s : State) (l line : Nat) : Option Nat :=
  let bs := (List.range (linkBundles l)).flatMap (fun b =>
    if (bundleOf s l b).st = 1 then [b, b] else if (bundleOf s l b).st = 2 then [b] else [])
  bs[(Config.lineHash line).toNat % bs.length]?

/-- Station where a request from station `n` enters partition `p`, having left by bundle row or column alike: traffic keeps
the station row it entered by while it goes east or west, and crosses between the rows in the column it reached (R31,
R32). [DEDUCED, log entry 126] -/
def entryStn (n p : Nat) : Nat :=
  let a := stnPart n
  if a = p then n
  else if pRow a = pRow p then stnAt p (stnRow n) (if pCol a < pCol p then 0 else 13)
  else
    let c := if pCol a = pCol p then stnCol n else if pCol a < pCol p then 0 else 13
    stnAt p (if pRow p = 0 then 11 else 0) (min 12 (max 1 c))

/-- The Link Station through which a station's request for a line of stack `k` goes (R265): for a line homed on another
partition, nearest to the station where it entered the home's die. [DEDUCED, log entry 126] -/
def requestLink (s : State) (n k : Nat) : Option Nat := crustLink s (entryStn n (stackPart k)) k

/-! ### A line's place in its stack -/

/-- A place in a stack: channel, bank of the channel, row of the bank, and line within the 1 KiB row (R254). -/
structure DramPlace where
  channel : Nat
  bank : Nat
  row : Nat
  col : Nat
deriving DecidableEq, Repr

/-- Bank group of a bank: 16 groups of 4 (R254, R256). -/
def bankGroup (bank : Nat) : Nat := bits bank 5 2

/-- R256's place of a stack-local line. -/
def placeOf (l : Nat) : DramPlace :=
  ⟨bits l 4 0 ^^^ bits l 18 14, bits l 13 8 ^^^ bits l 19 14, bits l 28 14, bits l 7 5⟩

/-- The place of a line with the channels `out` mapped out, in the order they went (R282). -/
def placeWith (out : List Nat) (l : Nat) : DramPlace :=
  let p := placeOf l
  if p.channel ∈ out then
    { p with channel := nth 0 ((List.range 32).filter (fun x => decide (x ∉ out))) (bits p.row 14 10),
             row := (31 - out.findIdx (fun x => decide (x = p.channel))) * 1024 + bits p.row 9 0 }
  else p

/-- Channel of a stack-local line. -/
def chanOf (out : List Nat) (l : Nat) : Nat := (placeWith out l).channel

end Sys2Proof.Machine
end

