-- ==== Sys2Proof/Machine/Home.lean ====
section
/-! DEFINITION. The home Crusts: the home order of each line, the sharer directory, blocking, merge sets,
held lines and eviction, reductions, ordered sequences and semaphore waiters (R257-R261, R292-R324). -/

namespace Sys2Proof.Machine

/-- A line's record at its home, by line key. -/
def hline (s : State) (key : Nat) : HLine := tget {} s.home.lines key

/-- Changes a line's record. -/
def setLine (key : Nat) (f : HLine → HLine) (s : State) : State :=
  { s with home := { s.home with lines := tmod {} s.home.lines key f } }

/-- A home sends a message (R298). -/
def sendMsg (m : Msg) (s : State) : State := { s with home := { s.home with net := s.home.net ++ [m] } }

def reqOf : HReq → Req
  | .gets r => r
  | .getu r => r
  | .getr r => r
  | .getc r => r
  | .write r _ _ => r
  | .red r _ => r
  | .semWait r _ _ => r

def isRead : HReq → Bool
  | .gets _ => true
  | .getu _ => true
  | .getr _ => true
  | .getc _ => true
  | _ => false

/-- Requests that join a merge set: GETS, and GETU from a station or Link Station engine (R304, R306). -/
def mergeable : HReq → Bool
  | .gets _ => true
  | .getu r => (agentPart r.who).isSome
  | _ => false

/-- Partition of a request's merge set. -/
def mergePart (h : HReq) : Nat := ((agentPart (reqOf h).who)).getD 10

/-! ### Crust cache (R258-R261, R316-R319) -/

/-- Set of a line: bank·2048 + set (R258). -/
def setOf (line : Nat) : Nat := line % 24 * 2048 + ((line / 24) % 2048 ^^^ (line / 49152) % 2048)

/-- The 16 ways of a set: 0 for an empty way, else line + 1. -/
def waysOf (s : State) (k line : Nat) : List Nat := tget (List.replicate 16 0) (cruOf s k).ways (setOf line)

/-- A way may be the victim: it holds a line, neither pinned nor held, and is not kept for a fill (R261, R316). [DESIGN CHOICE, log entry 116] -/
def candidate (s : State) (k w : Nat) : Bool :=
  let h := hline s (lkey k (w - 1))
  decide (w ≠ 0) && (tget [] s.home.pins (lkey k (w - 1))).isEmpty && !h.isHeld && (h.cached || decide (h.st ≠ .fp))

/-- Tree pseudo-LRU: descends from node `n` over `d` levels, to the side its bit names while that side has
a candidate, else to the other. `i` is the way number built so far. [DESIGN CHOICE, log entry 116] -/
def plruGo (tree : Nat) (cand : Nat → Bool) : Nat → Nat → Nat → Nat
  | 0, _, i => i
  | d + 1, n, i =>
    let side := b2n (bitOf tree n)
    let has := fun b : Nat => (List.range (2 ^ d)).any (fun j => cand ((i * 2 + b) * 2 ^ d + j))
    let b := if has side then side else 1 - side
    plruGo tree cand d (2 * n + 1 + b) (i * 2 + b)

/-- The tree after an access to way `w`: every node on the path points away from it. [DESIGN CHOICE, log entry 116] -/
def plruTouch (tree w : Nat) : Nat :=
  ((List.range 4).foldl (fun (a : Nat × Nat) d =>
    let b := (w / 2 ^ (3 - d)) % 2
    (putBits a.1 a.2 a.2 (1 - b), 2 * a.2 + 1 + b)) (tree, 0)).1

/-- Marks a use of a line in its set. -/
def touchLine (k line : Nat) (s : State) : State :=
  let i := (waysOf s k line).findIdx (fun w => decide (w = line + 1))
  if i < 16 then
    setCru k (fun c => { c with plru := tset 0 c.plru (setOf line) (plruTouch (tget 0 c.plru (setOf line)) i) }) s
  else s

/-- Evicts a line: a dirty one joins the writes held for its channel (R260, R269, R319). [DESIGN CHOICE, log entry 7] -/
def evictLine (k line : Nat) (s : State) : State :=
  let key := lkey k line
  let d := (hline s key).dirty
  let s := setLine key (fun h => { h with cached := false, dirty := false, isHeld := false, closed := false }) s
  if d then
    let c := chanOf (cruOf s k).chOut line
    setCru k (fun u => { u with wrHeld := tmod [] u.wrHeld c (fun l => l ++ [line]) }) s
  else s

/-- The way a fill of the line would take: one kept for it, an empty one, else the pseudo-LRU victim; none where every
way is pinned, held or kept for another fill. [DESIGN CHOICE, log entry 116] -/
def wayFor (s : State) (k line : Nat) : Option Nat :=
  let ws := waysOf s k line
  let kept := ws.findIdx (fun w => decide (w = line + 1))
  let free := ws.findIdx (fun w => decide (w = 0))
  if kept < 16 then some kept
  else if free < 16 then some free
  else
    let cand := fun i => candidate s k (nth 0 ws i)
    if (List.range 16).any cand then some (plruGo (tget 0 (cruOf s k).plru (setOf line)) cand 4 0 0) else none

/-- Installs a line in the Crust cache, evicting a victim where the set is full; nothing where no way is free. [DESIGN CHOICE, log entry 7] -/
def installLine (k line : Nat) (dirty : Bool) (s : State) : State :=
  let key := lkey k line
  if (hline s key).cached then
    touchLine k line (setLine key (fun h => { h with dirty := h.dirty || dirty }) s)
  else
    match wayFor s k line with
    | none => s
    | some i =>
      let ws := waysOf s k line
      let old := nth 0 ws i
      let s := if old = 0 ∨ old = line + 1 then s else evictLine k (old - 1) s
      let s := setCru k (fun c => { c with
        ways := tput c.ways (setOf line) (putNth ws i (line + 1)),
        wrHeld := tmap c.wrHeld (fun _ l => l.filter (fun x => !decide (x = line))) }) s
      touchLine k line (setLine key (fun h => { h with cached := true, dirty := h.dirty || dirty }) s)

/-- Fills of the line's set that wait for a way, in order. -/
def waitersOf (s : State) (k line : Nat) : List Nat := (cruOf s k).wayWait.filter (fun l => decide (setOf l = setOf line))

/-- Keeps a way for the fill of a line: its old line is evicted, and the way waits for the fill's data (R318). -/
def keepWay (k line : Nat) (s : State) : State :=
  match wayFor s k line with
  | none => s
  | some i =>
    let ws := waysOf s k line
    let old := nth 0 ws i
    let s := if old = 0 ∨ old = line + 1 then s else evictLine k (old - 1) s
    setCru k (fun c => { c with
      ways := tput c.ways (setOf line) (putNth ws i (line + 1)), wayWait := c.wayWait.filter (fun l => !decide (l = line)) }) s

/-- Held lines of a line's set, by way. -/
def heldWays (s : State) (k line : Nat) : List Nat :=
  (waysOf s k line).filter (fun w => decide (w ≠ 0) && (hline s (lkey k (w - 1))).isHeld)

/-- The batches of a set's held lines close, or the lines accept reductions again (R318). -/
def setClosed (k line : Nat) (b : Bool) (s : State) : State :=
  (heldWays s k line).foldl (fun s w => setLine (lkey k (w - 1)) (fun h => { h with closed := b }) s) s

/-- R318: the fills that wait for a way of a set have one each, in order, as far as there are any. The first held line whose
accepted reductions have all been applied becomes the victim; where none has, every held line closes, and with no fill left
to wait they accept reductions again. -/
def nextWays (k line : Nat) : Nat → State → State
  | 0, s => s
  | fuel + 1, s =>
    match (waitersOf s k line).head? with
    | none => setClosed k line false s
    | some l =>
      if (wayFor s k l).isSome then nextWays k line fuel (keepWay k l s)
      else
        match (heldWays s k line).find? (fun w => (hline s (lkey k (w - 1))).batch.isEmpty) with
        | some w => nextWays k line fuel (setLine (lkey k (w - 1)) (fun h => { h with isHeld := false, closed := false }) s)
        | none => setClosed k line true s

/-- The fills of a set go on with the ways that are there. -/
def giveWays (k line : Nat) (s : State) : State := nextWays k line (2 * (waitersOf s k line).length + 1) s

/-- A fill of a line asks for a way: it waits where every way of its set is pinned, held or kept for another fill, and the set's
held lines close (R261, R318). -/
def wantWay (k line : Nat) (s : State) : State :=
  if (wayFor s k line).isSome ∨ line ∈ (cruOf s k).wayWait then s
  else giveWays k line (setCru k (fun c => { c with wayWait := c.wayWait ++ [line], closes := satAdd 65535 c.closes 1 }) s)

/-! ### Directory (R295-R302) -/

/-- Sharer group of a station (R295). -/
def sharerGroup (n : Nat) : Nat := n % 168 / 8

/-- Directory entries of a stack in the same set as the line, oldest first. [DESIGN CHOICE, log entry 99] -/
def dirSame (s : State) (k line : Nat) : List Nat :=
  (cruOf s k).dirOrder.filter (fun l => decide (Config.dirSet l % 16384 = Config.dirSet line % 16384))

/-- A line has a directory entry. -/
def hasDir (s : State) (k line : Nat) : Bool := decide (line ∈ (cruOf s k).dirOrder)

/-- Sets the group bit of a station on the line, making a directory entry where there is none. -/
def markSharer (k line n : Nat) (s : State) : State :=
  let s := setLine (lkey k line) (fun h => { h with
    sharers := tmod 0 h.sharers (stnPart n) (fun m => m ||| 2 ^ sharerGroup n) }) s
  if hasDir s k line then s else setCru k (fun c => { c with dirOrder := c.dirOrder ++ [line] }) s

/-- Drops a line's directory entry and sharers. -/
def dropDir (k line : Nat) (s : State) : State :=
  setCru k (fun c => { c with dirOrder := c.dirOrder.filter (fun l => !decide (l = line)) })
    (setLine (lkey k line) (fun h => { h with sharers := [] }) s)

/-- The station a reader's line will be installed in, for GETS and GETR. -/
def sharerOf : HReq → Option Nat
  | .gets r => match r.who with
    | .cache n => some n
    | _ => none
  | .getr r => match r.who with
    | .missReg n _ => some n
    | _ => none
  | _ => none

/-! ### Answers -/

/-- Where the reads of a poisoned line of a read-only extent are sent: its place in a usable replica (R590). -/
def repairSource (s : State) (k line : Nat) : Option (Nat × Nat) :=
  if ¬ linePoisoned s k line then none
  else
    match granOwner s k (line / 512) with
    | some (_, x, false, i, j) =>
      let off := offsetOf x.placement x.stks.length i j (line % 512 * 128)
      if attrReadOnly x.attr && replicaUsable s x off then (locateRep x off).map (fun p => (p.1, p.2 / 128)) else none
    | _ => none

/-- One FILL for a set of requests with the line as it is now (R303, R305); sharers marked for those that
install the line, none for a poisoned line's station-cache readers (R308). A poisoned line with a usable replica is
read there (R590). -/
def answerReads (k line : Nat) (hs : List HReq) (s : State) : State :=
  let src := repairSource s k line
  let p := linePoisoned s k line && src.isNone
  let data := match src with
    | some (k2, l2) => lineBytes s k2 l2
    | none => lineBytes s k line
  let s := sendMsg (.fill k line data p (hs.map reqOf)) s
  let s := if p then s else (hs.filterMap sharerOf).foldl (fun s n => markSharer k line n s) s
  setLine (lkey k line) (fun h => { h with st := if h.sharers.isEmpty then .ns else .sh }) s

/-- Groups a list of mergeable readers by partition, keeping arrival order. -/
def groupReads (hs : List HReq) : List (List HReq) :=
  let parts := (hs.map mergePart).eraseDups
  (parts.map (fun p => hs.filter (fun h => mergeable h && decide (mergePart h = p)))).filter (fun l => !l.isEmpty) ++
  (hs.filter (fun h => !mergeable h)).map (fun h => [h])

/-- Sends INV to every marked partition that is not fenced and blocks the line (R300-R302); with none to
wait for, the acknowledgement goes at once. -/
def startRound (k line : Nat) (owed : List Msg) (s : State) : State :=
  let key := lkey k line
  let ps := (tkeys (hline s key).sharers).filter (fun p => decide (p ∉ s.seam.fenced))
  if ps.isEmpty then owed.foldl (fun s m => sendMsg m s) (setLine key (fun h => { h with st := .ns }) (dropDir k line s))
  else
    setLine key (fun h => { h with st := .bl, await := ps, owed := owed, blockedAt := refOf s (crustDie k) })
      { s with home := { s.home with invs := s.home.invs ++ ps.map (fun p => (key, p)) } }

/-- Sends an acknowledgement, or keeps it until the round it caused ends (R301, R311). -/
def ackAfterRound (k line : Nat) (m : Msg) (s : State) : State :=
  let h := hline s (lkey k line)
  if h.st = .bl then setLine (lkey k line) (fun h => { h with owed := h.owed ++ [m] }) s else sendMsg m s

/-- Semaphore waiters of an address answered as reached, in order of registration (R314). -/
def wakeWaiters (unit key off : Nat) (val : Int) (s : State) : State :=
  let ws := tget [] s.home.waiters unit
  let hit := fun w : Waiter => decide (lkey w.r.stack w.r.line = key ∧ w.off = off ∧ signedOf 64 w.val ≤ val)
  let s := { s with home := { s.home with waiters := tset [] s.home.waiters unit (ws.filter (fun w => !hit w)) } }
  (ws.filter hit).foldl (fun s w => sendMsg (.semOk w.r stOk) s) s

/-- Waiters on a line that becomes poisoned are answered POISONED (R315). -/
def dropWaiters (k line : Nat) (s : State) : State :=
  let ws := tget [] s.home.waiters k
  let hit := fun w : Waiter => decide (w.r.stack = k ∧ w.r.line = line)
  let s := { s with home := { s.home with waiters := tset [] s.home.waiters k (ws.filter (fun w => !hit w)) } }
  (ws.filter hit).foldl (fun s w => sendMsg (.semOk w.r stPoisoned) s) s

/-- Every line of a stack that has waiters and now reads as poison has them answered POISONED: an extent that is unloaded
reads as poison in every line (R315, R592). -/
def dropPoisoned (s : State) : State :=
  (((List.range 20).flatMap (fun k => (tget [] s.home.waiters k).map (fun w => (k, w.r.line)))).eraseDups).foldl (fun s e =>
    if linePoisoned s e.1 e.2 then dropWaiters e.1 e.2 s else s) s

/-- A home poisons a line: the mark, its extent's damage, and its waiters. -/
def poisonHome (k line : Nat) (s : State) : State := dropPoisoned (poisonLine k line s)

/-- Die of the agent behind a request. -/
def agentDie (s : State) (a : Agent) : Nat :=
  match a with
  | .core d => d
  | .cmd q _ => ((tget? s.cmd.queues q).map (fun u => cplxDie u.cplx)).getD pd0
  | .rbx w _ _ => if w < 128 then pd0 else pd1
  | a => (agentPart a).getD pd0

/-- A request is sent again no sooner than 1 µs later, counted on its requester's die (R315, R321). -/
def sendLater (h : HReq) (s : State) : State :=
  { s with home := { s.home with later := s.home.later ++ [(h, refOf s (agentDie s (reqOf h).who) + refUs)] } }

/-- The requests to be sent again whose time has come. -/
def laterDue (s : State) : List (HReq × Nat) := s.home.later.filter (fun e => decide (e.2 ≤ refOf s (agentDie s (reqOf e.1).who)))

/-! ### Requests at the home (R303) -/

/-- The line takes no other request now: blocked, filling, waiting for a directory entry, or with accepted
reductions still to apply (home order, R292). -/
def lineBusy (h : HLine) : Bool := decide (h.st = .bl ∨ h.st = .fp) || h.waitDir || !h.batch.isEmpty

/-- A reduction may join the accepted ones: not blocked or filling, fewer than 32 unapplied, and the batch
not closed (R317, R318). -/
def redAccepts (h : HLine) : Bool :=
  decide (h.st ≠ .bl ∧ h.st ≠ .fp) && !h.waitDir && decide (h.batch.length < 32) && !h.closed

/-- Holds a request in arrival order. -/
def holdReq (h : HReq) (s : State) : State :=
  let r := reqOf h
  setLine (lkey r.stack r.line) (fun l => { l with held := l.held ++ [h] }) s

/-- Holds a request ahead of the others: it was the next to be served. -/
def holdFront (h : HReq) (s : State) : State :=
  let r := reqOf h
  setLine (lkey r.stack r.line) (fun l => { l with held := h :: l.held }) s

/-- Recalls the oldest directory entry of the line's set where the set is full and the line has none (R297):
true where the request must wait. -/
def needsRecall (s : State) (k line : Nat) : Option Nat :=
  if hasDir s k line then none
  else if (dirSame s k line).length < 16 then none
  else (dirSame s k line).head?

/-- A recall that line `v` owes begins, where the line is neither blocked nor filling: its groups are invalidated as for a
write (R297). With no partition to wait for its entry is free at once. -/
def beginRecall (k v : Nat) (s : State) : State :=
  let h := hline s (lkey k v)
  if h.recallFor.isEmpty ∨ h.st = .bl ∨ h.st = .fp then s
  else startRound k v [] (setCru k (fun c => { c with recalls := satAdd 65535 c.recalls 1 }) s)

/-- A request of `line` waits for the directory entry of line `v`. -/
def startRecall (k line v : Nat) (s : State) : State :=
  let s := setLine (lkey k v) (fun h => { h with recallFor := h.recallFor ++ [line] }) s
  beginRecall k v (setLine (lkey k line) (fun h => { h with waitDir := true }) s)

/-- A slice's misses on unpinned lines (R289). [DEDUCED, log entry 91] -/
def countMiss (k line ctx : Nat) (s : State) : State :=
  if (tget [] s.home.pins (lkey k line)).isEmpty then
    setCru k (fun c => { c with misses := tmod 0 c.misses (ctxSlice s ctx) (· + 1) }) s
  else s

/-- A request misses: the line is read from the stack, or, with `ready`, needs only a way (R260, R303, R311). -/
def openFill (k line ctx : Nat) (ready : Bool) (s : State) : State :=
  wantWay k line (countMiss k line ctx (setLine (lkey k line) (fun l => { l with st := .fp, ready := ready }) s))

/-- A read of a line that is not busy: a hit is answered, once there is a directory entry for its sharer; a miss opens a
merge set. -/
def acceptRead (h : HReq) (s : State) : State :=
  let r := reqOf h
  let key := lkey r.stack r.line
  if withdrawn s r.stack r.line then answerReads r.stack r.line [h] s
  else if (hline s key).cached then
    match (if (sharerOf h).isSome then needsRecall s r.stack r.line else none) with
    | some v => startRecall r.stack r.line v (holdFront h s)
    | none => answerReads r.stack r.line [h] (touchLine r.stack r.line s)
  else openFill r.stack r.line r.ctx false (setLine key (fun l => { l with merge := [h] }) s)

/-- A write placed in home order: applied, and acknowledged when its invalidation round ends (R301, R331). A write of part of
a line that misses first fills it from the stack; one of a whole line needs only a way (R260). -/
def acceptWrite (r : Req) (mask : Nat) (data : List Byte) (s : State) : State :=
  let key := lkey r.stack r.line
  let whole := decide (mask = 2 ^ 128 - 1)
  if withdrawn s r.stack r.line then sendMsg (.wrAck r stHomeUnavailable) s
  else if (hline s key).cached ∨ (whole ∧ (wayFor s r.stack r.line).isSome) then
    let s := if (hline s key).cached then s else countMiss r.stack r.line r.ctx s
    let s := installLine r.stack r.line true (writeLine r.stack r.line mask data s)
    if (hline s key).sharers.isEmpty then sendMsg (.wrAck r stOk) s
    else startRound r.stack r.line [.wrAck r stOk] s
  else openFill r.stack r.line r.ctx whole (holdFront (.write r mask data) s)

/-- A reduction joins the batch of a line in the cache; the line is held, and a shared line blocks (R311, R316). -/
def joinBatch (r : Req) (o : RedOp) (s : State) : State :=
  let key := lkey r.stack r.line
  let s := touchLine r.stack r.line (setLine key (fun l => { l with batch := l.batch ++ [(r, o)], isHeld := true }) s)
  if (hline s key).sharers.isEmpty then s else startRound r.stack r.line [] s

/-- A reduction of a line: accepted into its batch, or, where the line is absent, after the stack has been read (R311, R319). -/
def acceptRed (r : Req) (o : RedOp) (s : State) : State :=
  if (hline s (lkey r.stack r.line)).cached then joinBatch r o s
  else openFill r.stack r.line r.ctx false (holdFront (.red r o) s)

/-- A semaphore wait: answered where the value is reached, else recorded, else SEM_RETRY (R314, R315). -/
def acceptSemWait (r : Req) (off val : Nat) (s : State) : State :=
  if linePoisoned s r.stack r.line then sendMsg (.semOk r stPoisoned) s
  else
    let v := signedOf 64 (field (lineBytes s r.stack r.line) off 8)
    if signedOf 64 val ≤ v then sendMsg (.semOk r stOk) s
    else
      let ws := tget [] s.home.waiters r.stack
      if ws.length < 4096 then
        { s with home := { s.home with waiters := tset [] s.home.waiters r.stack (ws ++ [⟨r, off, val⟩]) } }
      else
        setCru r.stack (fun c => { c with retries := satAdd 65535 c.retries 1 }) (sendMsg (.semRetry r off val) s)

/-- An open ordered sequence of a line. -/
def orderedOf (s : State) (key : Nat) : Option Ordered := tget? s.home.ordered key

/-- Ordered-table entries and stored operands of a stack. -/
def orderUsed (s : State) (k : Nat) : Nat := (s.home.ordered.filter (fun e => decide (e.1 / 2 ^ 29 = k))).length
def orderStored (s : State) (k : Nat) : Nat :=
  sumNat ((s.home.ordered.filter (fun e => decide (e.1 / 2 ^ 29 = k))).map (fun e => e.2.stored.length))

/-- Accepts the stored members that are due, in order, while the line takes reductions (R317, R321); a line that has left the
cache is filled first. -/
def acceptStored (key : Nat) : Nat → State → State
  | 0, s => s
  | n + 1, s =>
    match (orderedOf s key).bind (fun q => (q.stored.find? (fun e => decide (e.2.seq = q.next))).map (fun e => (q, e))) with
    | none => s
    | some (q, e) =>
      if ¬ redAccepts (hline s key) then s
      else if ¬ (hline s key).cached then openFill e.1.stack e.1.line e.1.ctx false s
      else
        let q' := { q with next := q.next + 1, stored := q.stored.filter (fun x => !decide (x.2.seq = q.next)) }
        acceptStored key n (joinBatch e.1 e.2 { s with home := { s.home with ordered := tput s.home.ordered key q' } })

/-- An ordered reduction at its home (R320-R322): the one due is accepted, with an entry whether or not the table is full,
and its stored successors follow; an early one is stored or answered RETRY, and one that breaks the sequence is refused
RED_SEQ. A sequence of one member needs no entry. [DESIGN CHOICE, log entry 92] -/
def acceptOrdered (r : Req) (o : RedOp) (s : State) : State :=
  let key := lkey r.stack r.line
  let open? := orderedOf s key
  let next := ((open?.map (·.next))).getD 0
  let bad := decide (o.count ≤ o.seq) ||
    (match open? with
     | some q => decide (q.count ≠ o.count ∨ o.seq < q.next) || q.stored.any (fun e => decide (e.2.seq = o.seq))
     | none => false)
  if bad then sendMsg (.redAck r stRedSeq) s
  else if o.seq = next then
    if ¬ (hline s key).cached then acceptRed r o s
    else
      let q : Ordered := open?.getD ⟨o.count, 0, [], refOf s (crustDie r.stack)⟩
      let s := if o.count = 1 then s
        else { s with home := { s.home with ordered := tput s.home.ordered key { q with next := next + 1 } } }
      acceptStored key (q.stored.length) (joinBatch r o s)
  else if orderStored s r.stack < 4096 ∧ (open?.isSome ∨ orderUsed s r.stack < 8192) then
    let q : Ordered := open?.getD ⟨o.count, 0, [], refOf s (crustDie r.stack)⟩
    { s with home := { s.home with ordered := tput s.home.ordered key { q with stored := q.stored ++ [(r, o)] } } }
  else setCru r.stack (fun c => { c with retries := satAdd 65535 c.retries 1 }) (sendMsg (.retry r o) s)

/-- A request that the line can take now. -/
def acceptReq (h : HReq) (s : State) : State :=
  match h with
  | .write r m d => acceptWrite r m d s
  | .red r o => if o.ordered then acceptOrdered r o s else acceptRed r o s
  | .semWait r off val => acceptSemWait r off val s
  | h => acceptRead h s

/-- The line can take the request now. -/
def canAccept (s : State) (h : HReq) : Bool :=
  let l := hline s (lkey (reqOf h).stack (reqOf h).line)
  match h with
  | .red _ _ => redAccepts l
  | _ => !lineBusy l

/-- The readers of one partition that stand next to each other at the front of a queue (R303). -/
def frontRun (p : Nat) : List HReq → List HReq × List HReq
  | [] => ([], [])
  | h :: r =>
    if mergeable h ∧ mergePart h = p then ((h :: (frontRun p r).1), (frontRun p r).2) else ([], h :: r)

/-- Serves held requests in order until one must wait. Adjacent GETS and GETU of a partition that hit are answered as one
merge set; those behind a read that misses join its fill (R303, R304). -/
def serveHeld (key : Nat) : Nat → State → State
  | 0, s => s
  | n + 1, s =>
    match (hline s key).held with
    | [] => s
    | h :: rest =>
      if (hline s key).st = .fp ∧ mergeable h ∧ ¬ (hline s key).merge.isEmpty then
        serveHeld key n (setLine key (fun l => { l with held := rest, merge := l.merge ++ [h] }) s)
      else if canAccept s h then
        if mergeable h ∧ (hline s key).cached ∧ (needsRecall s (key / 2 ^ 29) (key % 2 ^ 29)).isNone then
          let run := frontRun (mergePart h) rest
          let s := setLine key (fun l => { l with held := run.2 }) s
          serveHeld key n (answerReads (key / 2 ^ 29) (key % 2 ^ 29) (h :: run.1) s)
        else
          let s := setLine key (fun l => { l with held := rest }) s
          serveHeld key n (acceptReq h s)
      else s

/-- The data of a pending fill is there and so is its way: the line is installed, and one FILL goes to each merge set (R303,
R305), once there is a directory entry for the readers that install it. -/
def finishFill (k line : Nat) (s : State) : State :=
  let key := lkey k line
  let h := hline s key
  if h.st ≠ .fp ∨ ¬ h.ready ∨ h.waitDir then s
  else
    match (if h.merge.any (fun m => (sharerOf m).isSome) then needsRecall s k line else none) with
    | some v => startRecall k line v s
    | none =>
      if (wayFor s k line).isNone then wantWay k line s
      else
        let s := installLine k line false s
        let s := setCru k (fun c => { c with wayWait := c.wayWait.filter (fun l => !decide (l = line)) }) s
        let s := setLine key (fun h => { h with st := (if h.sharers.isEmpty then .ns else .sh), merge := [], ready := false }) s
        (groupReads h.merge).foldl (fun s g => answerReads k line g s) s

/-- Whatever a line can do now: its fill finishes, a recall it owes begins, stored members that are due and held requests are
served. -/
def serveLine (key : Nat) (s : State) : State :=
  let s := beginRecall (key / 2 ^ 29) (key % 2 ^ 29) (finishFill (key / 2 ^ 29) (key % 2 ^ 29) s)
  let s := acceptStored key (((orderedOf s key).map (·.stored.length)).getD 0) s
  serveHeld key (2 * (hline s key).held.length + 2) s

/-- A fill has its data and a way is kept for it. -/
def fillReady (s : State) (key : Nat) : Bool :=
  let h := hline s key
  decide (h.st = .fp) && h.ready && !h.waitDir

/-- Ways of a set may have come free: the fills that wait for one have it, and those whose data has come finish (R318). -/
def serveWays (k line : Nat) (s : State) : State :=
  let s := giveWays k line s
  (waysOf s k line).foldl (fun s w => if w ≠ 0 ∧ fillReady s (lkey k (w - 1)) then serveLine (lkey k (w - 1)) s else s) s

/-- A line goes on, and with it the fills of its set that wait for a way. -/
def goLine (key : Nat) (s : State) : State := serveWays (key / 2 ^ 29) (key % 2 ^ 29) (serveLine key s)

/-- The status with which a home refuses a request before it enters home order, if it does: the home is
unavailable (R479, R481), the handle is stale (R366), or the context owns no right (R357). -/
def homeRefuses (s : State) (r : Req) : Option Nat :=
  if !homeAnswers s r.stack r.who then some stHomeUnavailable
  else
    match granOwner s r.stack (r.line / 512) with
    | none => some stStale
    | some (num, x, _, _, _) =>
      if handleOf num x ≠ r.handle then some stStale
      else if ¬ inOwnerSet s x r.ctx then some stNotOwner
      else none

/-- A request reaches its home (R303). A request refused is answered with its status and has no effect on the
line (STALE_EXTENT, R366: the requester translates again). -/
def homeRequest (h : HReq) (s : State) : State :=
  let r := reqOf h
  match homeRefuses s r with
  | some st =>
    (match r.who with
     | .piper _ => s
     | _ => sendMsg (.refuse r st) s)
  | none =>
    let l := hline s (lkey r.stack r.line)
    if l.st = .fp ∧ mergeable h then
      countMiss r.stack r.line r.ctx (setLine (lkey r.stack r.line) (fun l => { l with merge := l.merge ++ [h] }) s)
    else goLine (lkey r.stack r.line) (holdReq h s)

/-- Semaphore waiters of a line whose values have been reached (R314). -/
def wakeLine (k line : Nat) (s : State) : State :=
  (List.range 16).foldl (fun s i =>
    wakeWaiters k (lkey k line) (8 * i) (signedOf 64 (field (lineBytes s k line) (8 * i) 8)) s) s

/-- Ends an invalidation round: clears the sharers, acknowledges, answers the waiters that its semaphore adds reach, serves
held requests, and lets the requests that waited for the directory entry go on (R297, R301, R331). -/
def endRound (k line : Nat) (s : State) : State :=
  let key := lkey k line
  let l := hline s key
  let s := dropDir k line s
  let s := setLine key (fun h => { h with st := .ns, await := [], owed := [], recallFor := [] }) s
  let s := l.owed.foldl (fun s m => sendMsg m s) s
  let s := if linePoisoned s k line then s else wakeLine k line s
  let s := goLine key s
  l.recallFor.foldl (fun s v => goLine (lkey k v) (setLine (lkey k v) (fun h => { h with waitDir := false }) s)) s

/-- A partition's acknowledgement of an INV reaches the home (R301). -/
def partAck (k line p : Nat) (s : State) : State :=
  let key := lkey k line
  let s := { s with home := { s.home with
    invs := s.home.invs.filter (fun e => !decide (e = (key, p))),
    fanned := s.home.fanned.filter (fun e => !decide (e = (key, p))),
    drops := s.home.drops.filter (fun e => !decide (e.1 = key ∧ e.2 / 168 = p)) } }
  let s := setLine key (fun h => { h with await := h.await.filter (fun q => !decide (q = p)) }) s
  if (hline s key).st = .bl ∧ (hline s key).await.isEmpty then endRound k line s else s

/-- An ordered member has been applied: the sequence's time starts again, and its entry is free after the last (R321, R323). -/
def orderApplied (k key : Nat) (o : RedOp) (s : State) : State :=
  match orderedOf s key with
  | none => s
  | some q =>
    if ¬ o.ordered ∨ q.count ≠ o.count then s
    else { s with home := { s.home with
      ordered := if q.count ≤ o.seq + 1 then tdel s.home.ordered key
        else tput s.home.ordered key { q with since := refOf s (crustDie k) } } }

/-- Applies the oldest accepted reduction of a line (R309-R312, R314). Semaphore waiters learn of it once the round that it
caused has ended (R331). The last one of a closed batch makes its line the victim (R318). -/
def applyRed (k line : Nat) (s : State) : State :=
  let key := lkey k line
  match (hline s key).batch with
  | [] => s
  | (r, o) :: rest =>
    let s := setLine key (fun l => { l with batch := rest }) s
    let bad := linePoisoned s k line
    let s :=
      if bad then s
      else
        let s := dirtyMark k (line / 512) (putLine k line (redMask o) (redApply o (lineBytes s k line)) s)
        setLine key (fun l => { l with dirty := true }) s
    let s := orderApplied k key o (ackAfterRound k line (.redAck r (if bad then stPoisoned else stOk)) s)
    let s :=
      if o.ty = 3 ∧ ¬ bad ∧ (hline s key).st ≠ .bl then
        (bitsSet 16 o.mask).foldl (fun s i =>
          wakeWaiters k key (8 * i) (signedOf 64 (field (lineBytes s k line) (8 * i) 8)) s) s
      else s
    let s := if rest.isEmpty then giveWays k line s else s
    goLine key s

/-- R323: the stored members of a sequence that timed out take their place ahead of the requests held for the line, in
ascending SEQ, and its entry is free. [DESIGN CHOICE, log entry 92] -/
def flushOrdered (key : Nat) (q : Ordered) (s : State) : State :=
  let ms := (List.range q.count).filterMap (fun i => q.stored.find? (fun e => decide (e.2.seq = i)))
  let s := { s with home := { s.home with ordered := tdel s.home.ordered key } }
  goLine key (setLine key (fun l => { l with held := ms.map (fun e => HReq.red e.1 { e.2 with ordered := false }) ++ l.held }) s)

/-- A semaphore add of `v` at an address, as a request to its home. [DESIGN CHOICE, log entry 6] -/
def semAddReq (stack line off ctx handle v : Nat) (who : Agent) : HReq :=
  .red ⟨stack, line, ctx, handle, who⟩ ⟨0, 3, 2 ^ (off / 8), zeros (off / 8 * 8) ++ leBytes 8 v ++ zeros (120 - off / 8 * 8), false, 0, 0⟩

/-- Writes a byte range of a context's device memory as requests to the homes, by lines (R299). [DESIGN CHOICE, log entry 6] -/
def ctxWrite (c a : Nat) (bs : List Byte) (who : Agent) (s : State) : State :=
  (linesOf a bs.length).foldl (fun s e =>
    match translate s c e.1 with
    | none => s
    | some p =>
      homeRequest (.write ⟨p.stack, p.line, c, p.handle, who⟩
        (maskOf ((List.range e.2.2).map (fun i => p.off + i)))
        (zeros p.off ++ ((bs.drop e.2.1).take e.2.2) ++ zeros (128 - p.off - e.2.2))) s) s

/-! ### Inbound Riberex packets (R351, R377, R500) -/

/-- Bytes that an accepted packet counts. [DESIGN CHOICE, log entry 6] -/
def pktCount (p : Pkt) : Nat := if p.ptype = 1 then p.length else if p.ptype = 3 then 128 else if p.ptype = 4 then 8 else 0

/-- An accepted packet counts on its window's arrival counter: 1 in packet mode, else its bytes. -/
def arriveCount (w c n : Nat) (s : State) : State :=
  match tget? s.xt.windows w with
  | none => s
  | some x =>
    let v := (tget 0 s.xt.counters (16 * w + c) + (if bitOf x.counterMode c then 1 else n)) % 2 ^ 64
    let unit := if w < 128 then 20 else 21
    wakeWaiters unit (lkey unit w) (8 * c) (signedOf 64 v) { s with xt := { s.xt with counters := tset 0 s.xt.counters (16 * w + c) v } }

/-- The answer to a packet. -/
def answerPkt (s : State) (p : Pkt) (status : Nat) (data : List Byte) : Pkt :=
  { ptype := (if p.ptype = 2 then 0x11 else 0x10), op := 0, src := s.rbx.deviceNum, dst := p.src, window := 0, counter := 0, offset := 0,
    length := data.length, status := status, tag := p.tag, mask := 0, reservedOk := true, data := data }

/-- Every access of an inbound packet is done: it is counted where it was accepted whole, and answered. -/
def inbFinish (e : InPkt) (s : State) : State :=
  let s := { s with rbx := { s.rbx with inb := s.rbx.inb.filter (fun x => !decide (x = e)) } }
  let s := if e.status = 0 ∧ e.pkt.ptype ≠ 2 then arriveCount e.pkt.window e.pkt.counter (pktCount e.pkt) s else s
  { s with rbx := { s.rbx with
      answers := s.rbx.answers ++ [answerPkt s e.pkt e.status (if e.status = 0 ∧ e.pkt.ptype = 2 then e.data else [])] } }

/-- The inbound packet that an answered request is part of. -/
def inbOf (s : State) (r : Req) : Option InPkt :=
  match r.who with
  | .rbx w src tag => s.rbx.inb.find? (fun e => decide (e.pkt.window = w ∧ e.pkt.src = src ∧ e.pkt.tag = tag ∧ (r.stack, r.line) ∈ e.left))
  | _ => none

/-- A home answers one request of an inbound packet, with a STATUS and, for a read, the line. -/
def inbAnswer (r : Req) (status : Nat) (line : List Byte) (s : State) : State :=
  match inbOf s r with
  | none => s
  | some e =>
    let put := fun (d : List Byte) (q : Nat × Nat × Nat × Nat × Nat) =>
      if q.1 = r.stack ∧ q.2.1 = r.line then
        d.take q.2.2.2.2 ++ (line.drop q.2.2.1).take q.2.2.2.1 ++ d.drop (q.2.2.2.2 + q.2.2.2.1)
      else d
    let e2 := { e with
      status := if e.status = 0 then status else e.status,
      left := e.left.filter (fun x => !decide (x = (r.stack, r.line))),
      data := e.parts.foldl put e.data }
    let s2 := { s with rbx := { s.rbx with inb := s.rbx.inb.map (fun x => if x = e then e2 else x) } }
    if e2.left.isEmpty then inbFinish e2 s2 else s2

end Sys2Proof.Machine
end

