-- ==== Sys2Proof/Machine/Context.lean ====
section
/-! DEFINITION. What befalls a context: station faults (R83, R84), translation faults (R371-R373), the
removal of mappings and extents (R366, R367), and rung 1 (R397, R422, R598). -/

namespace Sys2Proof.Machine

/-! ### Stations -/

/-- A station's record, where a launch holds it. -/
def stnOf (s : State) (n : Nat) : Option Stn := tget? s.sch.stns n

/-- Changes a station's record, where a launch holds it. -/
def setStn (n : Nat) (f : Stn → Stn) (s : State) : State :=
  { s with sch := { s.sch with stns := tupd s.sch.stns n f } }

/-- Changes a launch's record. -/
def setLaunch (k : Nat) (f : Launch → Launch) (s : State) : State :=
  { s with sch := { s.sch with launches := tupd s.sch.launches k f } }

/-- Changes one instance of a launch. -/
def setInst (k i : Nat) (f : Inst → Inst) (s : State) : State :=
  setLaunch k (fun l => { l with insts := l.insts.zipIdx.map (fun e => if e.2 = i then f e.1 else e.1) }) s

/-- The instance a station runs. -/
def instOf (s : State) (k i : Nat) : Option Inst := (tget? s.sch.launches k).bind (fun l => l.insts[i]?)

/-- Subnormal mode of a station's context (R136). -/
def stnFlush (s : State) (x : Stn) : Bool := ((ctxOf s x.ctx).map (·.flush)).getD false

/-- ORs sticky flags into a station's (R139). -/
def addFlags (n fl : Nat) (s : State) : State :=
  if fl = 0 then s else setStn n (fun x => { x with flags := x.flags ||| fl }) s

/-- Merges the flags of the stations that satisfy `p` into their contexts, and clears them (R140, R216). -/
def mergeFlags (p : Nat → Stn → Bool) (s : State) : State :=
  let s := s.sch.stns.foldl (fun s e =>
    if p e.1 e.2 then
      setCtx e.2.ctx (fun c => { c with flags := c.flags ||| e.2.flags, shStatus := c.shStatus ||| e.2.shStatus }) s
    else s) s
  { s with sch := { s.sch with
      stns := tmap s.sch.stns (fun n x => if p n x then { x with flags := 0, shStatus := 0 } else x) } }

/-- A context that is being stopped: killed, or with rung 1 requested. -/
def ctxStopping (s : State) (c : Nat) : Bool :=
  ((ctxOf s c).map (·.dead)).getD true || (rungReq? s 1 c).isSome

/-- Starts rung 1 on a living tenant context, once (R595); context 0 is never killed. -/
def rung1Start (c cause : Nat) (cmds : List (Nat × Nat)) (s : State) : State :=
  if c = 0 then s else if ((ctxOf s c).map (·.dead)).getD true then s else startRung 1 c cause cmds s

/-- A station fault record (R84). -/
def stationFaultBytes (s : State) (n : Nat) (x : Stn) (code ik idx co addr detail : Nat) : List Byte :=
  layout 64 [(0, leBytes 4 0x0C0E), (4, leBytes 2 x.ctx), (6, leBytes 1 (stnPart n)), (7, leBytes 1 x.kind),
    (8, leBytes 8 (refOf s (stnPart n))), (16, leBytes 2 code), (18, leBytes 2 (stnId n)), (20, leBytes 2 x.inst),
    (22, leBytes 1 ik), (24, leBytes 4 idx), (28, leBytes 4 co), (32, leBytes 8 addr), (40, leBytes 8 detail)]

/-- Stops every station of a context. -/
def stopStations (c : Nat) (s : State) : State :=
  { s with sch := { s.sch with stns := tmap s.sch.stns (fun _ x => if x.ctx = c then { x with stopped := true } else x) } }

/-- A station fault: the first of a context stops its stations, writes one record to the manager's event ring
and to the slice's page, after the records raised before it, and then takes the context to rung 1 (R83, R84). A stopped
station raises nothing. -/
def stationFault (n code ik idx co addr detail : Nat) (s : State) : State :=
  match stnOf s n with
  | none => s
  | some x =>
    if x.stopped ∨ ctxStopping s x.ctx then s
    else
      let s := flushEvents (raiseRec ⟨stationFaultBytes s n x code ik idx co addr detail, some (ctxSlice s x.ctx)⟩ s)
      let s := setStn n (fun x => { x with fault := code }) (stopStations x.ctx s)
      rung1Start x.ctx rcRest [] s

/-- A translation fault of a station's access (R371-R373). -/
def stationXlate (n cause addr access agent index len : Nat) (s : State) : State :=
  match stnOf s n with
  | none => s
  | some x => addFault x.ctx ⟨stnPart n, cause, refOf s (stnPart n), addr, stnId n, access, agent, index, 1, len⟩ s

/-- A batch of the context is undelivered or unresolved (R74, R376). -/
def batchOpen (s : State) (c : Nat) : Bool :=
  match ctxOf s c with
  | some x => x.openBatch.isSome || !x.waiting.isEmpty || !x.unresolved.isEmpty
  | none => false

/-! ### Removing mappings and extents (R366, R367) -/

/-- The home finishes every request to a granule's lines: acknowledgements owed and accepted reductions are
answered, held and waiting requests and semaphore waiters are answered STALE_EXTENT (a command's are translated again by
the command); its lines leave the Crust cache unpinned. -/
def retireLines (k : Nat) (grans : List Nat) (s : State) : State :=
  let mine := fun key : Nat => decide (key / 2 ^ 29 = k ∧ key % 2 ^ 29 / 512 ∈ grans)
  let ls := s.home.lines.filter (fun e => mine e.1)
  let s := ls.foldl (fun s e =>
    let s := e.2.owed.foldl (fun s m => sendMsg m s) s
    let s := e.2.batch.foldl (fun s r => sendMsg (.redAck r.1 stOk) s) s
    (e.2.merge ++ e.2.held).foldl (fun s h => match (reqOf h).who with
      | .cmd _ _ => s
      | .core _ => s
      | .bar4 => s
      | .piper _ => s
      | .rbx _ _ _ => inbAnswer (reqOf h) 4 [] s
      | _ => sendMsg (.refuse (reqOf h) stStale) s) s) s
  let ws := (tget [] s.home.waiters k).filter (fun w => mine (lkey k w.r.line))
  let s := ws.foldl (fun s w => match w.r.who with
    | .cmd _ _ => s
    | _ => sendMsg (.refuse w.r stStale) s) s
  let s := { s with home := { s.home with
    lines := s.home.lines.filter (fun e => !mine e.1),
    ordered := s.home.ordered.filter (fun e => !mine e.1),
    waiters := tset [] s.home.waiters k ((tget [] s.home.waiters k).filter (fun w => !mine (lkey k w.r.line))),
    preloads := (s.home.preloads.map (fun p => (p.1, p.2.1, p.2.2.filter (fun l => !mine l)))).filter (fun p => !p.2.2.isEmpty),
    pins := s.home.pins.filter (fun e => !mine e.1),
    invs := s.home.invs.filter (fun e => !mine e.1),
    fanned := s.home.fanned.filter (fun e => !mine e.1),
    drops := s.home.drops.filter (fun e => !mine e.1) } }
  let gone := fun l : Nat => decide (l / 512 ∈ grans)
  setCru k (fun c => { c with
    dirOrder := c.dirOrder.filter (fun l => !gone l),
    ways := tmap c.ways (fun _ ws => ws.map (fun w => if w ≠ 0 ∧ gone (w - 1) then 0 else w)),
    wrHeld := tmap c.wrHeld (fun _ l => l.filter (fun x => !gone x)),
    wayWait := c.wayWait.filter (fun l => !gone l) }) s

/-- Zeros over one granule: its contents and poison marks go (R367 step 5). -/
def zeroGran (k g : Nat) (s : State) : State :=
  { s with mem := {
      cells := s.mem.cells.filter (fun e => !decide (e.1 / 2 ^ 36 = k ∧ e.1 % 2 ^ 36 / 65536 = g)),
      poison := s.mem.poison.filter (fun p => !decide (p / 2 ^ 29 = k ∧ p % 2 ^ 29 / 512 = g)) } }

/-- Invalidates the extent-cache entries of an extent in every station, of one context or of all (R367 step
3), and the station-cache copies of its lines (R277). -/
def dropXcache (h : Nat) (c : Option Nat) (s : State) : State :=
  let drop := fun x : Stn =>
    { x with xcache := x.xcache.filter (fun e => !decide (e.2.1 = h ∧ (c = none ∨ c = some e.1))) }
  { s with sch := { s.sch with stns := tmap s.sch.stns (fun _ x => drop x) } }

/-- Removes an extent: its record, its mappings, its lines at their homes, and the old handle everywhere. Its
granules are left to `freeExtent`. -/
def unhookExtent (num : Nat) (x : Extent) (s : State) : State :=
  let gs := extGranList x
  let s := { s with xt := { s.xt with
    extents := tdel s.xt.extents num,
    maps := s.xt.maps.filter (fun m => !decide (m.num = num)) } }
  let s := dropXcache (handleOf num x) none s
  let ks := (gs.map (·.1)).eraseDups
  let s := ks.foldl (fun s k => retireLines k ((gs.filter (fun e => decide (e.1 = k))).map (·.2)) s) s
  let cached := fun key : Nat => gs.any (fun e => decide (e = (key / 2 ^ 29, key % 2 ^ 29 / 512)))
  let clean := fun y : Stn => { y with cache := y.cache.filter (fun l => !cached l.1) }
  { s with sch := { s.sch with stns := tmap s.sch.stns (fun _ y => clean y) } }

/-- Destroys an extent at a rung: its granules go on being zeroed after it (R598). -/
def destroyLater (num : Nat) (x : Extent) (s : State) : State :=
  let s := unhookExtent num x s
  { s with xt := { s.xt with freeing := s.xt.freeing ++ (extGranList x).map (fun e => (e.1, e.2, x.slice)) } }

/-- Destroys an extent whole, its granules zeroed and free (R367). -/
def destroyNow (num : Nat) (x : Extent) (s : State) : State :=
  (extGranList x).foldl (fun s e => zeroGran e.1 e.2 s) (unhookExtent num x s)

/-- Removes one mapping (EXT_UNMAP; R367 steps 1-4). -/
def unmap (m : Mapping) (s : State) : State :=
  let s := { s with xt := { s.xt with maps := s.xt.maps.filter (fun y => !decide (y = m)) } }
  match tget? s.xt.extents m.num with
  | some x => dropXcache (handleOf m.num x) (some m.ctx) s
  | none => s

/-- Aperture entries that name a context become invalid (R368). -/
def dropApertures (c : Nat) (s : State) : State :=
  { s with xt := { s.xt with apertures := s.xt.apertures.filter (fun e => !decide (e.2.ctx = c)) } }

/-- Inbound windows of a context are freed, and packets in them go unanswered (R598). -/
def dropWindows (c : Nat) (s : State) : State :=
  { s with
    rbx := { s.rbx with inb := s.rbx.inb.filter (fun e => match tget? s.xt.windows e.pkt.window with
      | some w => !decide (w.owner = c)
      | none => false) },
    xt := { s.xt with windows := s.xt.windows.filter (fun e => !decide (e.2.owner = c)) } }

/-- ERR 3 on a context's outbound windows (R598). -/
def failOwins (c : Nat) (s : State) : State :=
  { s with rbx := { s.rbx with owins := tmap s.rbx.owins (fun _ w => if w.owner = c ∧ w.valid then { w with err := 3 } else w) } }

/-! ### Launches -/

/-- Frees the stations of an instance: their stores, caches and streams are gone (R577, R598). -/
def freeStations (p : Stn → Bool) (s : State) : State :=
  { s with sch := { s.sch with stns := s.sch.stns.filter (fun e => !p e.2) } }

/-- Removes a launch with its instances, stations and save areas, and a route plan with the last launch that holds it. -/
def dropLaunch (k : Nat) (s : State) : State :=
  let s := freeStations (fun x => decide (x.launch = k)) s
  let s := { s with sch := { s.sch with launches := tdel s.sch.launches k } }
  let ps := s.pip.plans.filter (fun e => e.2.launches.any (fun l => (tget? s.sch.launches l).isSome))
  { s with pip := { s.pip with plans := ps } }

/-- Launches of a context. -/
def ctxLaunches (s : State) (c : Nat) : List Nat := (s.sch.launches.filter (fun e => decide (e.2.ctx = c))).map (·.1)

/-! ### Commands of a context -/

/-- Changes a queue's record. -/
def setQueue (q : Nat) (f : Queue → Queue) (s : State) : State :=
  { s with cmd := { s.cmd with queues := tupd s.cmd.queues q f } }

/-- A stopped queue starts again at a sequence number: its ring begins anew (R400). -/
def restartQueue (first : Nat) (v : Queue) : Queue :=
  { v with state := .running, next := first % 2 ^ 32, replies := 0, sealed := [], stopCause := 0, stopSeq := none }

/-- Changes a taken command. -/
def setCmd (q seq : Nat) (f : TakenCmd → TakenCmd) (s : State) : State :=
  setQueue q (fun u => { u with cmds := u.cmds.map (fun c => if c.seq = seq then f c else c) }) s

/-- A command completes with a status and DETAIL; REPLY writes its reply. -/
def finishCmd (q seq st detail : Nat) (s : State) : State :=
  setCmd q seq (fun c => { c with phase := .done st detail }) s

/-- A command's bound, or its progress, begins anew now (R405, R593). [DEDUCED, log entry 57] -/
def markBound (q seq : Nat) (s : State) : State :=
  setQueue q (fun u => { u with cmds := u.cmds.map (fun c =>
    if c.seq = seq then { c with boundAt := some (refOf s (cplxDie u.cplx)), paused := 0 } else c) }) s

/-- A command of the context is carried out by its rung or destroys it: it is not replied KILLED. [DEDUCED, log entry 53] -/
def outlivesKill (op : Nat) : Bool := decide (op = 0x0102 ∨ op = 0x0107 ∨ op = 0x0803 ∨ op = 0x0904 ∨ op = 0x0A01)

/-- Every command of a killed context taken and not replied replies KILLED (R397). [DEDUCED, log entry 53] -/
def killCmds (c : Nat) (s : State) : State :=
  let kill := fun x : TakenCmd =>
    if x.ctx = c ∧ ¬ outlivesKill x.op then
      (match x.phase with
       | .done _ _ => x
       | _ => { x with phase := .done stKilled 0 })
    else x
  { s with cmd := { s.cmd with
      queues := tmap s.cmd.queues (fun _ u => { u with cmds := u.cmds.map kill }) } }

/-- Requests of a context that no home has accepted are discarded (R343). -/
def dropRequests (c : Nat) (s : State) : State :=
  { s with home := { s.home with
      lines := tmap s.home.lines (fun _ l => { l with held := l.held.filter (fun h => !decide ((reqOf h).ctx = c)) }),
      resend := s.home.resend.filter (fun h => !decide ((reqOf h).ctx = c)),
      later := s.home.later.filter (fun h => !decide ((reqOf h.1).ctx = c)),
      waiters := tmap s.home.waiters (fun _ ws => ws.filter (fun w => !decide (w.r.ctx = c))) } }

/-- Extents that go with a killed context: owned by it or mapped by it, with no living context mapping them. -/
def extentsOf (s : State) (c : Nat) : List (Nat × Extent) :=
  s.xt.extents.filter (fun e =>
    (decide (e.2.owner = c) || s.xt.maps.any (fun m => decide (m.ctx = c ∧ m.num = e.1))) &&
    !s.xt.maps.any (fun m => decide (m.num = e.1 ∧ m.ctx ≠ c) && !((ctxOf s m.ctx).map (·.dead)).getD true))

/-- Rung 1's steps on a context (R598). -/
def killCtx (c : Nat) (s : State) : State :=
  let s := setCtx c (fun x => { x with
    dead := true, openBatch := none, waiting := [], owedDamage := [], overrun := none, sliceAt := none }) s
  let s := dropRequests c (killCmds c s)
  let s := mergeFlags (fun _ x => decide (x.ctx = c)) s
  let s := (ctxLaunches s c).foldl (fun s k => dropLaunch k s) s
  let ext := extentsOf s c
  let s := { s with xt := { s.xt with maps := s.xt.maps.filter (fun m => !decide (m.ctx = c)) } }
  let s := failOwins c (dropWindows c (dropApertures c s))
  let s := ext.foldl (fun s e => destroyLater e.1 e.2 s) s
  let keys := (((ctxOf s c).map (·.recipes)).getD []).map (·.2)
  let s := { s with sch := { s.sch with recipes := s.sch.recipes.filter (fun e => !decide (e.1 ∈ keys)) } }
  setCtx c (fun x => { x with recipes := [] }) s

/-- Completes rung 1 of a context and the RESET commands that wait for it. -/
def runRung1 (c : Nat) (s : State) : State :=
  match rungReq? s 1 c with
  | none => s
  | some q =>
    let s := endRung q (killCtx c s)
    q.cmds.foldl (fun s w => finishCmd w.1 w.2 stOk 1 s) s

end Sys2Proof.Machine
end

