-- ==== Sys2Proof/Machine/Planner.lean ====
section
/-! DEFINITION. The energy planners: caps, budgets and grants (R524-R527), admission (R528-R531), clock points
(R532-R536) and guarantee-breach records (R436). -/

namespace Sys2Proof.Machine

/-- Key of a slice's budget on a partition. -/
def bk (slice part : Nat) : Nat := slice * 16 + part

/-- Port die that runs a partition's planner (R520). -/
def plannerDie (p : Nat) : Nat := if p < 5 then pd0 else pd1

/-- Stations of a partition that tenant slices own, as a 168-bit mask. -/
def tenantMask (s : State) (p : Nat) : Nat :=
  s.ten.slices.foldl (fun a e => if e.1 = 0 then a else a ||| tget 0 e.2.stations p) 0

/-- Stations a slice owns on a partition: slice 0 holds what no tenant slice owns (R438, R654). -/
def sliceMask (s : State) (n p : Nat) : Nat :=
  if n = 0 then (2 ^ 168 - 1) ^^^ (tenantMask s p % 2 ^ 168)
  else ((tget? s.ten.slices n).map (fun sl => tget 0 sl.stations p)).getD 0

/-- A slice holds some station of the partition. -/
def sliceOn (s : State) (n p : Nat) : Bool := decide (sliceMask s n p ≠ 0)

/-- A slice's grant on a partition in µJ per window: BUDGET_SET's, else ENERGY_UJ where it holds a station; slice
0 and a slice without one have no grant there (R527, R654). -/
def grantOf (s : State) (n p : Nat) : Option Nat :=
  match tget? s.pwr.grants (bk n p) with
  | some g => some g
  | none =>
    match tget? s.ten.slices n with
    | some sl => if n ≠ 0 ∧ tget 0 sl.stations p ≠ 0 then some sl.energyUj else none
    | none => none

/-- The effective cap in W (R525). [DESIGN CHOICE, log entry 34] -/
def effCap (s : State) : Nat := if s.pwr.brake then min s.pwr.cap 1200 else s.pwr.cap

/-- Port reserve in W from the port dies' mean draw (R526). -/
def portReserve (w : Nat) : Nat := max 60 (min 300 (roundUp w 10))

/-- Partitions not fenced. -/
def liveParts (s : State) : List Nat := (List.range 10).filter (fun p => decide (p ∉ s.seam.fenced))

/-- Partition budget B in mW (R526). -/
def partBudget (s : State) (portW : Nat) : Nat :=
  min 404000 ((effCap s * 950 - portReserve portW * 1000) / (liveParts s).length)

/-- Slices with a grant on the partition. -/
def grantees (s : State) (p : Nat) : List Nat :=
  (((tkeys s.ten.slices) ++ (tkeys s.pwr.grants).map (· / 16)).eraseDups).filter (fun n => (grantOf s n p).isSome)

/-- Sum of the grants on a partition. -/
def grantSum (s : State) (p : Nat) : Nat := sumNat ((grantees s p).map (fun n => (grantOf s n p).getD 0))

/-- Effective budget of a grant `g` when `sum` µJ are granted and G is `avail` (R434, R527). -/
def effBudget (g sum avail : Nat) : Nat := if avail < sum then g * avail / sum else g

/-- A guarantee-breach record (R436). [DESIGN CHOICE, log entry 51] -/
def breachBytes (rank byRank resource die count phase slice part sharers granted received us : Nat) : List Byte :=
  layout 64 [(0, leBytes 4 0x0C09), (4, leBytes 1 rank), (5, leBytes 1 byRank), (6, leBytes 1 die), (7, leBytes 1 phase),
    (8, leBytes 8 count), (16, leBytes 2 slice), (20, leBytes 1 resource), (21, leBytes 1 part),
    (22, leBytes 1 (min 255 sharers)), (24, leBytes 8 granted), (32, leBytes 8 received),
    (40, leBytes 8 (granted - received)), (48, leBytes 4 us)]

/-- Writes a record of a power breach, rank 4 broken to keep rank 1, to the manager's ring and the slice's page. -/
def writeBreach (p n phase sharers granted received us : Nat) (s : State) : State :=
  let d := plannerDie p
  raiseRec ⟨breachBytes 4 1 0 d (refOf s d) phase n p sharers granted received us, some n⟩ s

/-- Writes a record of a loss of reserved capacity, rank 3, on a partition: `resource` is 1 for stations, 2 for memory. The loss
falls on that slice alone (R435). The rank kept by it is not stated: a free value. [DESIGN CHOICE, log entry 51] -/
def lossBreach (resource p n phase granted received us : Nat) (s : State) : State :=
  let d := plannerDie p
  let by_ := 1 + (Config.freeValue s.clk.free).toNat % 5
  raiseRec ⟨breachBytes 3 by_ resource d (refOf s d) phase n p 1 granted received us, some n⟩
    { s with clk := { s.clk with free := s.clk.free + 1 } }

/-- Key of a slice's CHANGE records of a resource by a writing die, and the 1 ms window of that die now (R436). -/
def changeKey (resource n d : Nat) : Nat := (resource * 128 + n) * 2 + d % 2
def dieWindow (s : State) (d : Nat) : Nat := refOf s d / refMs + 1

/-- Begins, changes or ends a slice's power breach on a partition; one CHANGE record at most of a slice in a 1 ms window of the
writing die (R436). [DESIGN CHOICE, log entry 51] -/
def updateBreach (p sharers n granted received : Nat) (s : State) : State :=
  let d := plannerDie p
  match tget? s.pwr.breaches (bk n p) with
  | none =>
    if received < granted then
      writeBreach p n 0 sharers granted received 0
        { s with pwr := { s.pwr with breaches := tput s.pwr.breaches (bk n p) ⟨granted, received, refOf s d⟩ } }
    else s
  | some b =>
    if granted ≤ received then
      writeBreach p n 2 sharers granted received ((refOf s d - b.since) / refUs)
        { s with pwr := { s.pwr with breaches := tdel s.pwr.breaches (bk n p) } }
    else if 20 * dist (granted - received) (b.granted - b.received) ≥ granted ∧
        tget 0 s.pwr.changeAt (changeKey 0 n d) ≠ dieWindow s d then
      writeBreach p n 1 sharers granted received 0
        { s with pwr := { s.pwr with
          breaches := tput s.pwr.breaches (bk n p) ⟨granted, received, b.since⟩,
          changeAt := tset 0 s.pwr.changeAt (changeKey 0 n d) (dieWindow s d) } }
    else s

/-- Breaches on a partition of slices that have no grant there any longer end (R436). [DESIGN CHOICE, log entry 51] -/
def endBreaches (p : Nat) (ns : List Nat) (s : State) : State :=
  (s.pwr.breaches.filter (fun e => decide (e.1 % 16 = p ∧ e.1 / 16 ∉ ns))).foldl (fun s e => updateBreach p ns.length (e.1 / 16) 0 0 s) s

/-! ### Order of contexts (R409, R412) -/

def ctxClass (s : State) (c : Nat) : Nat := if c = 0 then 0 else ((ctxOf s c).map (·.cls)).getD 0
def ctxService (s : State) (c : Nat) : Nat := ((ctxOf s c).map (·.service)).getD 0

/-- Work of context `a` is served before work of context `b`: ascending class, then ascending service count (R412). -/
def ctxBefore (s : State) (a b : Nat) : Bool :=
  decide (ctxClass s a < ctxClass s b ∨ (ctxClass s a = ctxClass s b ∧ ctxService s a < ctxService s b))

/-! ### Admission (R529-R531) -/

/-- Partitions and stations a launch's instances hold. -/
def launchStations (s : State) (k p : Nat) : Nat :=
  (s.sch.stns.filter (fun e => decide (e.2.launch = k ∧ stnPart e.1 = p))).length

/-- Key of the launch a command started or asked for. -/
def launchOf (s : State) (q seq : Nat) : Option (Nat × Launch) :=
  s.sch.launches.find? (fun e => decide (e.2.q = q ∧ e.2.seq = seq))

/-- The slice a command charges: a LAUNCH its context's, any other its queue's (R529). [DEDUCED, log entry 21] -/
def chargedSlice (s : State) (u : Queue) (c : TakenCmd) : Nat :=
  if c.op = 0x0304 then ctxSlice s c.ctx else u.slice

/-- A command's shares: (slice·16 + partition, µJ) (R529). [DEDUCED, log entry 21] -/
def sharesOf (s : State) (q : Nat) (u : Queue) (c : TakenCmd) : List (Nat × Nat) :=
  let n := chargedSlice s u c
  if c.op = 0x0304 then
    match launchOf s q c.seq with
    | some (k, _) =>
      let per := (List.range 10).map (launchStations s k)
      let tot := sumNat per
      (per.zipIdx.filter (fun e => decide (e.1 ≠ 0))).map (fun e => (bk n e.2, ceilDiv (c.energy * e.1) tot))
    | none => []
  else [(bk n u.homePart, c.energy)]

/-- Some started, unreplied command of the slice charges the partition. -/
def runsOn (s : State) (key : Nat) : Bool :=
  s.cmd.queues.any (fun e => e.2.cmds.any (fun c =>
    decide (c.phase = .started) && c.shares.any (fun x => decide (x.1 = key))))

/-- R530's `fits`: none where the share does not fit, some true where the pool is charged, some false where the
slice is; a slice without a grant on the partition is neither held nor debited. -/
def fits (s : State) (key e : Nat) : Option Bool :=
  if (grantOf s (key / 16) (key % 16)).isNone then some false
  else
    let rem := tget 0 s.pwr.remaining key
    let bud := tget 0 s.pwr.budget key
    if e = 0 then (if 0 < rem then some false else none)
    else if rem - (e : Int) ≥ -((s.pwr.borrow * bud : Nat) : Int) then some false
    else if rem = (bud : Int) ∧ ¬ runsOn s key then some false
    else if e ≤ tget 0 s.pwr.pool (key % 16) then some true
    else none

/-- Debits one share. [DEDUCED, log entry 114] -/
def debitShare (key e : Nat) (s : State) : State :=
  if (grantOf s (key / 16) (key % 16)).isNone then s
  else
    match fits s key e with
    | some true => { s with pwr := { s.pwr with pool := tmod 0 s.pwr.pool (key % 16) (· - e) } }
    | _ => { s with pwr := { s.pwr with remaining := tmod 0 s.pwr.remaining key (· - (e : Int)) } }

/-- In fixed-frequency mode a command waits while the mean input is at least 95% of the effective cap (R535). [DEDUCED, log entry 114] -/
def fixedHold (s : State) (p : Nat) : Bool :=
  decide (tget 1 s.pwr.mode p = 1) && !s.pwr.brake && decide (95 * effCap s ≤ 100 * s.pwr.mean1ms)

/-- The planner admits a command now. [DEDUCED, log entry 114] -/
def admits (s : State) (shares : List (Nat × Nat)) (p : Nat) : Bool :=
  shares.all (fun e => (fits s e.1 e.2).isSome) && !fixedHold s p

/-- FIXED_DELAY, at most once per 100 ms per partition (R535). -/
def fixedDelay (p : Nat) (s : State) : State :=
  let d := plannerDie p
  let n := tget 0 s.pwr.delayed p + 1
  let due := match tget? s.pwr.delayAt p with
    | none => true
    | some t => decide (100 * refMs ≤ refOf s d - t)
  if due then
    raise d 0x0030 0 0 p n 0
      { s with pwr := { s.pwr with delayAt := tput s.pwr.delayAt p (refOf s d), delayed := tset 0 s.pwr.delayed p 0 } }
  else { s with pwr := { s.pwr with delayed := tset 0 s.pwr.delayed p n } }

/-- A completed command's unspent estimate is credited back, but for what the pool was charged, up to the window's budget (R531).
[DEDUCED, log entry 26] -/
def creditBack (c : TakenCmd) (s : State) : State :=
  if c.used < c.energy then
    (c.shares.filter (fun e => decide (e.1 ∉ c.pooled))).foldl (fun s e =>
      let back := e.2 * (c.energy - c.used) / c.energy
      let rem := tget 0 s.pwr.remaining e.1
      let bud : Int := (tget 0 s.pwr.budget e.1 : Nat)
      { s with pwr := { s.pwr with
        remaining := tset 0 s.pwr.remaining e.1 (if rem < bud then min bud (rem + back) else rem) } }) s
  else s

/-! ### Clocks (R533-R536) -/

/-- Frequency of a point in MHz (R533). -/
def pointMhz (k : Nat) : Nat := 220 + 60 * k

/-- The calibration set in force, as bytes at their offsets: VOLT_MV and guardband of a half and point. The
boot ROM's built-in set enables points 0-12 at 1,050 mV (R630). -/
def vfEntry (s : State) (h k : Nat) : Nat × Nat × Nat :=
  if s.pwr.calDefault then (if k ≤ 12 then (1050, 0, 0) else (0, 0, 0))
  else if s.pwr.cal.isEmpty then
    let v := Config.factoryVolt h k
    let g := Config.factoryGb h k
    (if k ≤ 12 then 600 + v % 451 else if v = 0 then 0 else 600 + v % 451, g % 256, g / 256 % 256)
  else
    let o := 256 + 64 * h + 4 * k
    (field s.pwr.cal o 2, field s.pwr.cal (o + 2) 1, field s.pwr.cal (o + 3) 1)

/-- Voltage of a half at a point, guardband included; 0 for a disabled point (R533). -/
def pointVolt (s : State) (h k : Nat) : Nat :=
  let e := vfEntry s h k
  if e.1 = 0 then 0 else e.1 + min e.2.1 (s.pwr.hours * e.2.2 / 1000)

/-- A half-die's clock record. -/
def halfClk (s : State) (h : Nat) : HalfClk := tget {} s.pwr.halves h

/-- ARITH frequency of a station in MHz. -/
def stnMhz (s : State) (n : Nat) : Nat := pointMhz (halfClk s (stnHalf n)).point

/-- Puts both a half's point and voltage. -/
def putPoint (h k : Nat) (s : State) : State :=
  { s with pwr := { s.pwr with halves := tput s.pwr.halves h ⟨k, pointVolt s h k⟩ } }

/-- One step of a half towards a target point; a disabled point is never selected (R533, R534). -/
def stepTowards (s : State) (h target : Nat) : Nat :=
  let k := (halfClk s h).point
  let n := if k < target then k + 1 else if target < k then k - 1 else k
  if pointVolt s h n = 0 then k else n

/-- Instances of a partition that span the half-die seam (R476). -/
def spanners (s : State) (p : Nat) : List (Nat × Nat) :=
  s.sch.launches.flatMap (fun e =>
    (e.2.insts.zipIdx.filter (fun i =>
      decide (i.1.part = p) && i.1.placed && decide (i.1.ph ≠ .complete) &&
      s.sch.stns.any (fun x => decide (x.2.launch = e.1 ∧ x.2.inst = i.2 ∧ stnCol x.1 ≤ 6)) &&
      s.sch.stns.any (fun x => decide (x.2.launch = e.1 ∧ x.2.inst = i.2 ∧ 7 ≤ stnCol x.1)))).map (fun i => (e.1, i.2)))

/-- Credit mode follows the clocks of the halves: entered when they differ; left only when they agree and every
spanning instance has rested or completed since they came to agree (R475, R476). [DEDUCED, log entry 52] -/
def seamFollow (p : Nat) (s : State) : State :=
  if (halfClk s (2 * p)).point ≠ (halfClk s (2 * p + 1)).point then
    { s with seam := { s.seam with
        credit := insKey p s.seam.credit,
        spanning := s.seam.spanning.filter (fun e => !decide (e ∈ spanners s p)) ++ spanners s p } }
  else if (spanners s p).any (fun e => decide (e ∈ s.seam.spanning)) then s
  else { s with seam := { s.seam with credit := s.seam.credit.filter (fun q => !decide (q = p)) } }

/-- Moves both halves of a die one step towards their targets. -/
def moveHalves (p west east : Nat) (s : State) : State :=
  let w := stepTowards s (2 * p) west
  let e := stepTowards s (2 * p + 1) east
  seamFollow p (putPoint (2 * p + 1) e (putPoint (2 * p) w s))

/-- A die of the partition is at its throttle level. -/
def partThrottled (s : State) (p : Nat) : Bool := s.pwr.throttled.any (fun d => decide (d = p))

/-- FIXED_BROKEN: in fixed-frequency mode both halves go down one point together (R535). -/
def fixedBroken (p cause : Nat) (s : State) : State :=
  let k := (halfClk s (2 * p)).point - 1
  raise (plannerDie p) 0x0031 0 0 p cause k (moveHalves p k k s)

end Sys2Proof.Machine
end

