-- ==== Sys2Proof/Machine/Operands.lean ====
section
/-! DEFINITION. Operand forms: the packets of the host's commands (R384-R386, R405) and the fields of shader
instructions and descriptors (R66, R96, R200-R203). -/

namespace Sys2Proof.Machine

/-! ### Packets -/

/-- The opcode table: opcode, manager queues only, bytes of parameters (R405). -/
def opcodes : List (Nat × Bool × Nat) :=
  [(0x0101, true, 7), (0x0102, true, 0), (0x0103, false, 0), (0x0104, true, 21), (0x0105, false, 2),
   (0x0106, false, 6), (0x0107, true, 5), (0x0201, true, 64), (0x0202, true, 4), (0x0203, true, 14),
   (0x0204, true, 10), (0x0205, false, 16), (0x0206, true, 17), (0x0207, true, 16), (0x0208, true, 19),
   (0x0209, true, 15), (0x020A, false, 4)] ++
  [(0x0301, false, 12), (0x0302, false, 2), (0x0303, false, 2), (0x0304, false, 29), (0x0401, false, 25),
   (0x0402, false, 25), (0x0501, false, 20), (0x0502, false, 17), (0x0601, false, 16), (0x0701, true, 8),
   (0x0702, true, 2), (0x0703, true, 1), (0x0801, true, 18), (0x0802, true, 10), (0x0803, true, 2),
   (0x0804, true, 7), (0x0805, true, 19)] ++
  [(0x0901, false, 24), (0x0902, false, 18), (0x0903, false, 14), (0x0904, false, 2), (0x0A01, true, 3),
   (0x0A02, true, 12), (0x0A03, true, 12), (0x0B01, true, 12), (0x0B02, true, 12), (0x0C01, true, 8),
   (0x0C02, false, 9)]

/-- Row of an opcode. -/
def opInfo (op : Nat) : Option (Bool × Nat) := (opcodes.find? (fun e => decide (e.1 = op))).map (·.2)

/-- A parameter of a packet: n bytes at offset `o` from the start of the parameters (R385). -/
def par (c : TakenCmd) (o n : Nat) : Nat := field c.pkt (24 + o) n

/-- Reserved bytes of a packet are zero: FLAGS [7:3], bytes 14-15, and those between the parameters and the
seal word (R384, R385). [DEDUCED, log entry 15] -/
def packetReservedOk (pkt : List Byte) (params len : Nat) : Bool :=
  decide (field pkt 7 1 < 8) && zeroAt pkt 14 2 && zeroAt pkt (24 + params) (64 * len - 8 - 24 - params)

/-- Acts on a started command of opcode `op` of a queue (R391); changes nothing where there is none. [DESIGN CHOICE, log entry 4] -/
def cmdGo (op q seq : Nat) (f : Queue → TakenCmd → State → State) (s : State) : State :=
  match tget? s.cmd.queues q with
  | none => s
  | some u =>
    match u.cmds.find? (fun c => decide (c.seq = seq)) with
    | none => s
    | some c => if c.op = op ∧ c.phase = .started then f u c s else s

/-- A command's meaning: acts while the module is up. [DESIGN CHOICE, log entry 4] -/
def cmdOut (op q seq : Nat) (f : Queue → TakenCmd → State → State) (s : State) : Out :=
  ifUp (cmdGo op q seq f) s

/-! ### Shader instructions (R200) -/

/-- The 64-bit word of a shader instruction of a class and operation. -/
def shWord (cls op : Nat) (w : ShIns) : Nat :=
  cls * 2 ^ 60 + op * 2 ^ 54 + w.pred.toNat * 2 ^ 51 + b2n w.pneg * 2 ^ 50 + w.form.toNat * 2 ^ 48 +
    w.dst.toNat * 2 ^ 40 + w.sa.toNat * 2 ^ 32 + w.low.toNat

end Sys2Proof.Machine
end

