-- ==== Sys2Proof/Machine/Queues.lean ====
section
/-! DEFINITION. The command protocol: the posting window (R381-R388), taking and starting of commands
(R389-R392), replies (R393-R397), stopped queues (R398-R400) and event records (R401-R403, R448). -/

namespace Sys2Proof.Machine

/-- The function answers memory accesses: link up, endpoint out of reset, in D0 (R619, R624). [PRESUMED, log entry 11] -/
def busUp (s : State) : Bool := s.pci.active && s.pci.linkUp && !s.pci.d3hot

/-! ### The posting window -/

/-- Bytes of the posting window from a BAR2 offset. -/
def windowBytes (s : State) (off n : Nat) : List Byte := (List.range n).map (fun i => tget 0 s.cmd.window (off + i))

/-- Sets bytes of the posting window. -/
def putWindow (off : Nat) (bs : List Byte) (s : State) : State :=
  { s with cmd := { s.cmd with
      window := (List.range bs.length).foldl (fun t i => tset 0 t (off + i) (nth 0 bs i)) s.cmd.window } }

/-- CREDIT_SEQ: the lowest sequence number whose reply has not been written (R392). -/
def creditOf (u : Queue) : Nat := ((u.cmds.head?).map (·.seq)).getD u.next

/-- a − b modulo 2^32 (R389). -/
def seqDiff (a b : Nat) : Nat := (a + 2 ^ 32 - b % 2 ^ 32) % 2 ^ 32

/-- Stops a queue with a cause and the offending sequence number (R398). -/
def stopQueue (q cause seq : Nat) (u : Queue) (s : State) : State :=
  raise (cplxDie u.cplx) 0x0005 0 u.slice q cause 0
    (setQueue q (fun u => { u with state := .stopped, stopCause := cause, stopSeq := some seq, sealed := [] }) s)

/-- The queue takes packets: it runs, and queue 0 is enabled (R382, R408). [DEDUCED, log entry 17] -/
def queueOn (s : State) (q : Nat) (u : Queue) : Bool := decide (u.state = .running) && (decide (q ≠ 0) || s.cmd.q0enable)

/-- Uhlug's checks of a recognised seal word (R398), in the order of its table. -/
def sealCheck (q slot w : Nat) (s : State) : State :=
  match tget? s.cmd.queues q with
  | none => s
  | some u =>
    let seq := bits w 31 0
    if ¬ queueOn s q u then s
    else if seq % 128 ≠ slot then stopQueue q stBadSlot seq u s
    else if 2 ^ 31 ≤ seqDiff seq u.next then setQueue q (fun u => { u with stale := satAdd 65535 u.stale 1 }) s
    else if 128 ≤ seqDiff seq (creditOf u) then stopQueue q stCreditExceeded seq u s
    else if bits w 63 48 ≠ 0x5EA1 ∨ bits w 47 36 ≠ 0 then stopQueue q stBadPacket seq u s
    else setQueue q (fun u => { u with
      sealed := u.sealed.filter (fun e => !decide (e.1 = seq)) ++ [(seq, bits w 35 32)] }) s

/-- Checks the 8 bytes at a BAR2 offset for a seal word: recognised where its LEN puts it there (R387). [DEDUCED, log entry 17] -/
def sealAt (off : Nat) (s : State) : State :=
  let w := leNat (windowBytes s off 8)
  let len := bits w 35 32
  if 1 ≤ len ∧ len ≤ 8 ∧ off % 512 = 64 * len - 8 then sealCheck (off / 65536) (off % 65536 / 512) w s else s

/-- One host write to BAR2 (R383, R387): bytes land in the window of an existing queue, and each seal word that the
write covers whole is checked. -/
def bar2WriteS (off : Nat) (data : List Byte) (s : State) : State :=
  if 2 ^ 26 < off + data.length then s
  else if (tget? s.cmd.queues (off / 65536)).isNone then
    { s with cmd := { s.cmd with orphan := satAdd 65535 s.cmd.orphan 1 } }
  else
    let s := putWindow off data s
    let first := (off + 7) / 8
    let last := (off + data.length) / 8
    (List.range (last - first)).foldl (fun s i => sealAt (8 * (first + i)) s) s

/-- BAR2_WRITE. -/
def execBar2Write (off : Nat) (data : List Byte) (s : State) : Out :=
  ifUp (fun s => guardS (busUp s) (bar2WriteS off data) s) s

/-- SEAL_WORD: a single 8-byte write. [DEDUCED, log entry 17] -/
def execSealWord (off val : Nat) (s : State) : Out :=
  ifUp (fun s => guardS (busUp s && decide (off % 8 = 0)) (bar2WriteS off (leBytes 8 val)) s) s

/-! ### Taking (R385, R390, R397, R398) -/

/-- The status with which a taken packet is skipped, none where it runs. Reserved bytes are tested before
permission. [DEDUCED, log entry 15] -/
def packetRefusal (s : State) (u : Queue) (pkt : List Byte) (len : Nat) : Option Nat :=
  let op := field pkt 4 2
  let c := field pkt 12 2
  match opInfo op with
  | none => some stBadOpcode
  | some (mgr, params) =>
    if 64 * len < 32 + params then some stBadPacket
    else if ¬ packetReservedOk pkt params len then some stBadParam
    else if u.slice ≠ 0 ∧ (mgr ∨ (ctxOf s c).isNone ∨ ctxSlice s c ≠ u.slice) then some stNotPermitted
    else if ((ctxOf s c).map (·.dead)).getD false ∧ op ≠ 0x0102 then some stContextDead
    else none

/-- A host write through BAR4 is not yet accepted at its home (R349). -/
def bar4Pending (s : State) : Bool :=
  s.home.lines.any (fun e => (e.2.held ++ e.2.merge).any (fun h => decide ((reqOf h).who = .bar4)) ||
    e.2.owed.any (fun m => match m with
      | .wrAck r _ => decide (r.who = .bar4)
      | _ => false))

/-- TAKE_PACKET: the packet at NEXT, once the packet before it has started and every BAR4 write received before it has
been accepted (R349, R390). Its bytes are read as it is taken (R388). [DESIGN CHOICE, log entry 133] -/
def takePacketS (q : Nat) (s : State) : State :=
  match tget? s.cmd.queues q with
  | none => s
  | some u =>
    if ¬ s.cmd.ready ∨ s.pci.d3hot ∨ ¬ queueOn s q u ∨ u.cmds.any (fun c => decide (c.phase = .taken)) ∨ bar4Pending s then s
    else
      match u.sealed.find? (fun e => decide (e.1 = u.next)) with
      | none => s
      | some (seq, len) =>
        let pkt := windowBytes s (q * 65536 + seq % 128 * 512) (64 * len)
        if field pkt 0 4 ≠ seq ∨ field pkt 6 1 ≠ len then stopQueue q stBadPacket seq u s
        else
          let cmd : TakenCmd :=
            { seq := seq, op := field pkt 4 2, flags := field pkt 7 1, energy := field pkt 8 4, ctx := field pkt 12 2,
              tag := field pkt 16 8, pkt := pkt,
              phase := (match packetRefusal s u pkt len with
                | some st => .done st 0
                | none => .taken),
              admitted := false, shares := [], used := 0, startAt := 0 }
          setQueue q (fun u => { u with
            next := (seq + 1) % 2 ^ 32, sealed := u.sealed.filter (fun e => !decide (e.1 = seq)),
            cmds := u.cmds ++ [cmd] }) s

def execTakePacket (q : Nat) (s : State) : Out := ifUp (takePacketS q) s

/-! ### Starting (R391, R530) -/

/-- The command waits for every earlier command of its queue to reply: FENCE, and SEM_RELEASE (R391, R406). -/
def fenced (c : TakenCmd) : Bool := bitOf c.flags 0 || decide (c.op = 0x0502)

/-- Placed, for a LAUNCH (R391). -/
def launchPlaced (s : State) (q : Nat) (c : TakenCmd) : Bool :=
  decide (c.op ≠ 0x0304) ||
    (match launchOf s q c.seq with
     | some (_, l) => decide (l.ph = .placed)
     | none => false)

/-- Partition whose planner admits the command. [DEDUCED, log entry 115] -/
def admitPart (u : Queue) (shares : List (Nat × Nat)) : Nat := ((shares.head?).map (fun e => e.1 % 16)).getD u.homePart

/-- Every instance of a launch begins to run with its command. -/
def startLaunch (q seq : Nat) (s : State) : State :=
  match launchOf s q seq with
  | some (k, l) => if l.ph = .placed then setLaunch k (fun l => { l with ph := .running }) s else s
  | none => s

/-- What a command still waits for before its admission: the commands before it, FENCE, and a LAUNCH's placement (R391). -/
def readyToAdmit (s : State) (q : Nat) (u : Queue) (c : TakenCmd) : Bool :=
  let before_ := u.cmds.takeWhile (fun x => !decide (x.seq = c.seq))
  decide (c.phase = .taken) && !before_.any (fun x => decide (x.phase = .taken)) &&
    !(fenced c && !before_.isEmpty) && launchPlaced s q c

/-- Some other command waits for admission on the partition, comes before context `c`'s in R412's order, and fits now: it is
tried first (R530). -/
def admitAhead (s : State) (c p : Nat) : Bool :=
  s.cmd.queues.any (fun e => e.2.cmds.any (fun x =>
    ctxBefore s x.ctx c && readyToAdmit s e.1 e.2 x &&
      (let shares := sharesOf s e.1 e.2 x
       decide (admitPart e.2 shares = p) && admits s shares p)))

/-- COMMAND_START: admits and starts a taken command whose conditions hold; a planner in fixed-frequency mode that
holds it back counts the delay (R535). No command starts while TRAY_STOP_N is asserted (R641). -/
def commandStartS (q seq : Nat) (s : State) : State :=
  match tget? s.cmd.queues q with
  | none => s
  | some u =>
    match u.cmds.find? (fun c => decide (c.seq = seq)) with
    | none => s
    | some c =>
      if s.pin.trayStop ∨ ¬ readyToAdmit s q u c then s
      else
        let shares := sharesOf s q u c
        let p := admitPart u shares
        if admitAhead s c.ctx p then s
        else if admits s shares p then
          let pooled := (shares.filter (fun e => decide (fits s e.1 e.2 = some true))).map (·.1)
          let s := shares.foldl (fun s e => debitShare e.1 e.2 s) s
          startLaunch q seq (setCmd q seq (fun c => { c with
            phase := .started, admitted := true, shares := shares, pooled := pooled, startAt := refOf s (cplxDie u.cplx) }) s)
        else if fixedHold s p then fixedDelay p s
        else s

def execCommandStart (q seq : Nat) (s : State) : Out := ifUp (commandStartS q seq) s

/-! ### Replies (R393-R396) -/

/-- Ring base, log2 of entries and vector of a queue's replies; queue 0's come from its registers. -/
def ringOf (s : State) (q : Nat) (u : Queue) : Nat × Nat × Nat :=
  if q = 0 then (s.cmd.q0ring, s.cmd.q0log2, s.cmd.q0vec) else (u.ring, u.log2, u.vector)

/-- Bytes of a reply. -/
def replyBytes (s : State) (u : Queue) (phase seq st tag credit detail : Nat) : List Byte :=
  let d := cplxDie u.cplx
  leBytes 4 seq ++ leBytes 2 st ++ leBytes 1 phase ++ leBytes 1 d ++ leBytes 8 tag ++ leBytes 4 credit ++
    leBytes 4 detail ++ leBytes 8 (refOf s d)

/-- Writes one reply to the next entry of the queue's ring. -/
def writeReply (q seq st tag credit detail : Nat) (s : State) : State :=
  match tget? s.cmd.queues q with
  | none => s
  | some u =>
    let r := ringOf s q u
    let n := 2 ^ r.2.1
    let phase := 1 - u.replies / n % 2
    setQueue q (fun u => { u with replies := u.replies + 1 })
      (logHost u.pasid (r.1 + 32 * (u.replies % n)) 32
        (hostPost u.pasid (r.1 + 32 * (u.replies % n)) (replyBytes s u phase seq st tag credit detail) s))

/-- A message from a home concerns command (q, seq). -/
def msgOf (q seq : Nat) : Msg → Bool
  | .fill _ _ _ _ rs => rs.any (fun r => decide (r.who = .cmd q seq))
  | .wrAck r _ => decide (r.who = .cmd q seq)
  | .redAck r _ => decide (r.who = .cmd q seq)
  | .semOk r _ => decide (r.who = .cmd q seq)
  | .semRetry r _ _ => decide (r.who = .cmd q seq)
  | .retry r _ => decide (r.who = .cmd q seq)
  | .refuse _ _ => false

/-- Some device access of the command is not yet accepted at its home (R396), or its preload runs (R406). -/
def cmdOutstanding (s : State) (q seq : Nat) : Bool :=
  s.home.preloads.any (fun p => decide (p.1 = q ∧ p.2.1 = seq)) || s.home.net.any (msgOf q seq) || s.home.later.any (fun h => decide ((reqOf h.1).who = .cmd q seq)) ||
  s.home.lines.any (fun e =>
    (e.2.held ++ e.2.merge).any (fun h => decide ((reqOf h).who = .cmd q seq)) || e.2.owed.any (msgOf q seq) ||
    e.2.batch.any (fun b => decide (b.1.who = .cmd q seq)))

/-- QUEUE_DESTROY and QUEUE_RESET commands whose named queue has made its last reply begin their bounds (R405). -/
def markQueue (q : Nat) (s : State) : State :=
  let mine := ((tget? s.cmd.queues q).map (fun u => (u.cmds.map (fun c => (q, c.seq))))).getD []
  let names := fun c : TakenCmd => decide ((c.op = 0x0105 ∧ par c 0 2 = q) ∨ (c.op = 0x0106 ∧ par c 4 2 = q))
  { s with cmd := { s.cmd with queues := tmap s.cmd.queues (fun n u => { u with cmds := u.cmds.map (fun c =>
      if names c && mine.all (fun e => decide (e = (n, c.seq))) then { c with boundAt := some (refOf s (cplxDie u.cplx)), paused := 0 } else c) }) } }

/-- Reply of a completed command: the reply, the vector with IRQ, the energy credited back, and the end of a queue
that destroyed itself. -/
def replyCmd (q : Nat) (u : Queue) (c : TakenCmd) (st detail : Nat) (s : State) : State :=
  let s := markQueue q (setQueue q (fun u => { u with cmds := u.cmds.filter (fun x => !decide (x.seq = c.seq)) }) s)
  let credit := ((tget? s.cmd.queues q).map creditOf).getD 0
  let s := writeReply q c.seq st c.tag credit detail s
  let s := creditBack c s
  let s := if bitOf c.flags 1 then raiseMsix (ringOf s q u).2.2 s else s
  if c.op = 0x0105 ∧ par c 0 2 = q ∧ st = stOk then { s with cmd := { s.cmd with queues := tdel s.cmd.queues q } } else s

/-- The QUEUE_STOPPED reply of a stopped queue whose taken commands have all replied (R398). A RESTART written to queue 0
meanwhile takes effect after it (R400). [DEDUCED, log entry 54] -/
def replyStopped (q : Nat) (u : Queue) (seq : Nat) (s : State) : State :=
  let tag := leNat (windowBytes s (q * 65536 + seq % 128 * 512 + 16) 8)
  let s1 := markQueue q <| setQueue q (fun u => { u with stopSeq := none }) (writeReply q seq stQueueStopped tag (creditOf u) 0 s)
  if q = 0 ∧ s1.cmd.q0restart then setQueue 0 (restartQueue 0) { s1 with cmd := { s1.cmd with q0restart := false } } else s1

/-- A stalled access that a FAULT_RESUME let try again has not tried yet (R376). -/
def untried (s : State) : Retry → Bool
  | .piece n xid k => ((stnOf s n).map (fun x => x.xfers.any (fun f =>
      decide (f.id = xid) && ((f.pieces[k]?).map (fun p => decide (p.st = 0))).getD false))).getD false
  | .sem n => ((stnOf s n).map (fun x => x.works.any (fun e => decide (e.2.st = .wait ∧ e.2.count = 0)))).getD false
  | .semGrp n g => (((stnOf s n).bind (fun x => tget? x.groups g)).map (fun y => match y.waiting with
      | some (10, v) => decide (v % 4 = 0)
      | _ => false)).getD false
  | .slot n r => (((stnOf s n).bind (fun x => tget? x.rg.rays r)).map (fun y =>
      !y.done && y.waitLine.isNone && y.stalled.isNone)).getD false

/-- A reply that waits for accesses checked under entries that the command has replaced: APERTURE_SET for BAR4 accesses,
WINDOW_SET for packets of its window (R406). -/
def oldEntriesUsed (s : State) (c : TakenCmd) : Bool :=
  (decide (c.op = 0x0208) && bar4Pending s) ||
  (decide (c.op = 0x0209) && s.rbx.inb.any (fun e => decide (e.pkt.window = par c 8 2)))

/-- REPLY. -/
def replyS (q seq : Nat) (s : State) : State :=
  match tget? s.cmd.queues q with
  | none => s
  | some u =>
    match u.cmds.find? (fun c => decide (c.seq = seq)) with
    | some c =>
      (match c.phase with
       | .done st detail => if cmdOutstanding s q seq || oldEntriesUsed s c || c.retries.any (untried s) then s else replyCmd q u c st detail s
       | _ => s)
    | none => if u.stopSeq = some seq ∧ u.cmds.isEmpty then replyStopped q u seq s else s

def execReply (q seq : Nat) (s : State) : Out := ifUp (replyS q seq) s

/-! ### Event records (R401, R403, R448) -/

def execEventRecord (s : State) : Out := ifUp eventRecordS s

end Sys2Proof.Machine
end

