-- ==== Sys2Proof/Machine/CtxOps.lean ====
section
/-! DEFINITION. Commands on contexts and queues (R355, R376, R381-R400, R406, R409, R441-R443). -/

namespace Sys2Proof.Machine

/-! ### Contexts -/

/-- Tenant contexts in existence: created and not destroyed, dead ones included (R355). -/
def tenantCtxs (s : State) : List Nat := (tkeys s.ten.ctxs).filter (fun c => decide (c ≠ 0))

/-- Tenant contexts of a slice. -/
def sliceCtxs (s : State) (n : Nat) : List Nat :=
  (s.ten.ctxs.filter (fun e => decide (e.1 ≠ 0 ∧ e.2.slice = n))).map (·.1)

/-- A slice exists: slice 0 always does. -/
def sliceThere (s : State) (n : Nat) : Bool := decide (n = 0) || (tget? s.ten.slices n).isSome

/-- CTX_CREATE (R355, R406, R409, R441). -/
def ctxCreateS (u : Queue) (c : TakenCmd) (s : State) : State :=
  let n := par c 0 2
  let cls := par c 2 1
  let sub := par c 3 1
  let w := par c 4 2
  let x := par c 6 1
  if 3 < cls ∨ w = 0 ∨ 10000 < w ∨ 1 < sub ∨ 1 < x then finishCmd u.num c.seq stBadParam 0 s
  else if ¬ sliceThere s n then finishCmd u.num c.seq stSliceAbsent 0 s
  else if 4095 ≤ (tenantCtxs s).length then finishCmd u.num c.seq stContextLimit 0 s
  else
    match tget? s.ten.slices n with
    | some sl =>
      if n ≠ 0 ∧ sl.contexts ≤ (sliceCtxs s n).length then finishCmd u.num c.seq stQuotaFull 0 s
      else
        let id := lowestFree (tenantCtxs s) 4095 1
        finishCmd u.num c.seq stOk id { s with
          ten := { s.ten with ctxs := tput s.ten.ctxs id { slice := n, cls := cls, weight := w, flush := sub = 1, cplx := x } },
          pwr := { s.pwr with eCtx := tset 0 s.pwr.eCtx id 0 } }
    | none =>
      let id := lowestFree (tenantCtxs s) 4095 1
      finishCmd u.num c.seq stOk id { s with
        ten := { s.ten with ctxs := tput s.ten.ctxs id { slice := n, cls := cls, weight := w, flush := sub = 1, cplx := x } },
        pwr := { s.pwr with eCtx := tset 0 s.pwr.eCtx id 0 } }

def execCtxCreate (q seq : Nat) (s : State) : Out := cmdOut 0x0101 q seq ctxCreateS s

/-- CTX_DESTROY: rung 1, then the identifier is freed (R406). The command completes once its rung has. [DEDUCED, log entry 53] -/
def ctxDestroyS (u : Queue) (c : TakenCmd) (s : State) : State :=
  match tget? s.ten.ctxs c.ctx with
  | none => finishCmd u.num c.seq stBadParam 0 s
  | some x =>
    if c.ctx = 0 then finishCmd u.num c.seq stBadParam 0 s
    else if ¬ x.dead then rung1Start c.ctx rcReset [] s
    else if (rungReq? s 1 c.ctx).isSome then s
    else finishCmd u.num c.seq stOk 0 { s with ten := { s.ten with ctxs := tdel s.ten.ctxs c.ctx } }

def execCtxDestroy (q seq : Nat) (s : State) : Out := cmdOut 0x0102 q seq ctxDestroyS s

/-- CTX_FLAGS: returns and clears the context's sticky flags and GMAT_PARTIAL (R140, R216, R405). -/
def ctxFlagsS (u : Queue) (c : TakenCmd) (s : State) : State :=
  match ctxOf s c.ctx with
  | none => finishCmd u.num c.seq stBadParam 0 s
  | some x =>
    finishCmd u.num c.seq stOk (x.flags % 32 + 256 * (x.shStatus % 2))
      (setCtx c.ctx (fun x => { x with flags := 0, shStatus := 0 }) s)

def execCtxFlags (q seq : Nat) (s : State) : Out := cmdOut 0x0103 q seq ctxFlagsS s

/-! ### Queues -/

/-- A tenant slice whose range holds the queue number (R438). -/
def queueOwner (s : State) (n : Nat) : Option Nat :=
  (s.ten.slices.find? (fun e => decide (e.1 ≠ 0 ∧ e.2.queueFirst ≤ n ∧ n < e.2.queueFirst + e.2.queueCount))).map (·.1)

/-- QUEUE_CREATE (R406, R438, R441, R443). [DEDUCED, log entry 16] -/
def queueCreateS (u : Queue) (c : TakenCmd) (s : State) : State :=
  let ring := par c 0 8
  let pasid := par c 8 4
  let n := par c 12 2
  let sl := par c 14 2
  let vec := par c 16 2
  let hp := par c 18 1
  let x := par c 19 1
  let lg := par c 20 1
  if (tget? s.cmd.queues n).isSome then finishCmd u.num c.seq stQueueLimit 0 s
  else if n = 0 ∨ 1023 < n ∨ lg < 8 ∨ 16 < lg ∨ 1 < x ∨ 9 < hp ∨ 2047 < vec ∨ ring % 32 ≠ 0 then
    finishCmd u.num c.seq stBadParam 0 s
  else if ¬ sliceThere s sl then finishCmd u.num c.seq stSliceAbsent 0 s
  else if queueOwner s n ≠ (if sl = 0 then none else some sl) then finishCmd u.num c.seq stBadParam 0 s
  else if sl ≠ 0 ∧ tget? s.ten.pasids pasid ≠ some sl then finishCmd u.num c.seq stBadParam 0 s
  else
    let new : Queue := {
      num := n, state := .running, cplx := x, slice := sl,
      pasid := (if sl = 0 then none else some pasid), vector := vec, homePart := hp, log2 := lg, ring := ring }
    finishCmd u.num c.seq stOk 0 { s with
      cmd := { s.cmd with queues := tput s.cmd.queues n new },
      pwr := { s.pwr with eQueue := tset 0 s.pwr.eQueue n 0 } }

def execQueueCreate (q seq : Nat) (s : State) : Out := cmdOut 0x0104 q seq queueCreateS s

/-- The queue named by a command may be named by it: of its own slice, or from a manager queue (R400, R405). -/
def mayName (u v : Queue) : Bool := decide (u.slice = 0 ∨ u.slice = v.slice)

/-- QUEUE_DESTROY: the queue drains, packets not taken are discarded, and the command completes once every other
command of the queue has replied (R405, R406). A queue that destroys itself is removed by its last reply. -/
def queueDestroyS (u : Queue) (c : TakenCmd) (s : State) : State :=
  let n := par c 0 2
  match tget? s.cmd.queues n with
  | none => finishCmd u.num c.seq stBadParam 0 s
  | some v =>
    if n = 0 then finishCmd u.num c.seq stBadParam 0 s
    else if ¬ mayName u v then finishCmd u.num c.seq stNotPermitted 0 s
    else
      let s := setQueue n (fun v => { v with state := .draining, sealed := [] }) s
      let left := v.cmds.filter (fun x => !decide (n = u.num ∧ x.seq = c.seq))
      if ¬ left.isEmpty ∨ v.stopSeq.isSome then s
      else if n = u.num then finishCmd u.num c.seq stOk 0 s
      else finishCmd u.num c.seq stOk 0 { s with cmd := { s.cmd with queues := tdel s.cmd.queues n } }

def execQueueDestroy (q seq : Nat) (s : State) : Out := cmdOut 0x0105 q seq queueDestroyS s

/-- QUEUE_RESET: waits for the stopped queue's last reply, then restarts it at FIRST_SEQ (R400). [DEDUCED, log entry 54] -/
def queueResetS (u : Queue) (c : TakenCmd) (s : State) : State :=
  let n := par c 4 2
  match tget? s.cmd.queues n with
  | none => finishCmd u.num c.seq stBadParam 0 s
  | some v =>
    if n = 0 ∨ v.state ≠ .stopped then finishCmd u.num c.seq stBadParam 0 s
    else if ¬ mayName u v then finishCmd u.num c.seq stNotPermitted 0 s
    else if ¬ v.cmds.isEmpty ∨ v.stopSeq.isSome then s
    else finishCmd u.num c.seq stOk 0 (setQueue n (restartQueue (par c 0 4)) s)

def execQueueReset (q seq : Nat) (s : State) : Out := cmdOut 0x0106 q seq queueResetS s

/-! ### Fault batches -/

/-- Transfer reads device memory. -/
def readsX : XKind → Bool
  | .copyIn => true
  | .gather => true
  | .fetch => true
  | _ => false

/-- ACCESS of a transfer's fault record. -/
def xAccess (f : Xfer) : Nat := match f.kind with
  | .scatterRed => 2
  | .semAdd => 3
  | k => if readsX k then 0 else 1

/-- A stalled access at a station and address is recorded in one of the records, with its ACCESS (R373). -/
def recorded (rs : List FaultRec) (n a access : Nat) : Bool :=
  rs.any (fun r => decide (r.station = stnId n ∧ r.address / 65536 = a / 65536 ∧ r.access = access))

/-- ACCESS of a semaphore descriptor's fault record. -/
def semAccess (d : List Byte) : Nat := if bits (field d 0 2) 11 4 = 6 then 4 else 3

/-- A SEM_WAIT or SEM_RELEASE descriptor stalled on an access recorded in `rs`. -/
def semStalled (rs : List FaultRec) (n : Nat) (x : Stn) (i : Nat) (w : Work) : Bool :=
  let d := nth [] x.descs i
  decide (w.count = 3 ∧ w.st = .wait) && recorded rs n (field d 8 8) (semAccess d)

/-- A group stalled on an access recorded in `rs`: its waiting code is 10, with 4 · address + 3. -/
def grpStalled (rs : List FaultRec) (n : Nat) (g : GroupSt) : Bool :=
  match g.waiting with
  | some (10, v) => decide (v % 4 = 3) && recorded rs n (v / 4) 4
  | _ => false

/-- A station's stalled accesses recorded in `rs` translate again (R376): pieces of transfers, ray slots, and the
semaphore accesses of descriptors (a Work's count is 0 not sent, 1 sent, 3 stalled) and groups (waiting code 10, with
4 · address + the same). -/
def retryStn (rs : List FaultRec) (n : Nat) (x : Stn) : Stn :=
  { x with
    xfers := x.xfers.map (fun f => { f with pieces := f.pieces.map (fun p =>
      if p.st = 3 ∧ recorded rs n p.addr (xAccess f) then { p with st := 0 } else p) }),
    works := tmap x.works (fun i w => if semStalled rs n x i w then { w with count := 0 } else w),
    groups := tmap x.groups (fun _ g => match g.waiting with
      | some (10, v) => if grpStalled rs n g then { g with waiting := some (10, v / 4 * 4) } else g
      | _ => g),
    rg := { x.rg with rays := tmap x.rg.rays (fun _ r =>
      match r.stalled with
      | some a => if recorded rs n a 0 then { r with stalled := none } else r
      | none => r) } }

/-- The accesses of a station that `retryStn` lets try again. -/
def retriesOf (rs : List FaultRec) (n : Nat) (x : Stn) : List Retry :=
  x.xfers.flatMap (fun f => (f.pieces.zipIdx.filter (fun e => decide (e.1.st = 3) && recorded rs n e.1.addr (xAccess f))).map
    (fun e => Retry.piece n f.id e.2)) ++
  (if x.works.any (fun e => semStalled rs n x e.1 e.2) then [Retry.sem n] else []) ++
  (x.groups.filter (fun e => grpStalled rs n e.2)).map (fun e => Retry.semGrp n e.1) ++
  (x.rg.rays.filter (fun e => match e.2.stalled with
    | some a => recorded rs n a 0
    | none => false)).map (fun e => Retry.slot n e.1)

/-- FAULT_RESUME (R376): RETRY resolves the batch and every earlier one, and its reply follows the first retry of each access; or KILL takes the context to rung 1. [DEDUCED, log entry 53] -/
def faultResumeS (u : Queue) (c : TakenCmd) (s : State) : State :=
  let b := par c 0 4
  let act := par c 4 1
  match ctxOf s c.ctx with
  | none => finishCmd u.num c.seq stBadParam 0 s
  | some x =>
    if x.dead then finishCmd u.num c.seq stContextDead 0 s
    else if 1 < act then finishCmd u.num c.seq stBadParam 0 s
    else if ¬ x.unresolved.any (fun y => decide (y.seq = b)) then finishCmd u.num c.seq stBadBatch 0 s
    else if act = 1 then finishCmd u.num c.seq stOk 0 (rung1Start c.ctx rcReset [] s)
    else
      let rs := (x.unresolved.filter (fun y => decide (y.seq ≤ b))).flatMap (·.recs)
      let s := setCtx c.ctx (fun x => { x with unresolved := x.unresolved.filter (fun y => decide (b < y.seq)) }) s
      let again := (s.sch.stns.filter (fun e => decide (e.2.ctx = c.ctx))).flatMap (fun e => retriesOf rs e.1 e.2)
      finishCmd u.num c.seq stOk 0 (setCmd u.num c.seq (fun y => { y with retries := again }) { s with sch := { s.sch with
        stns := tmap s.sch.stns (fun n y => if y.ctx = c.ctx then retryStn rs n y else y) } })

def execFaultResume (q seq : Nat) (s : State) : Out := cmdOut 0x0107 q seq faultResumeS s

end Sys2Proof.Machine
end

