-- ==== Sys2Proof/Machine/ExtOps.lean ====
section
/-! DEFINITION. Commands on extents, pins, apertures, inbound windows and arrival counters (R262-R264,
R285-R288, R351, R359-R369, R377-R380, R405, R406, R571, R575). -/

namespace Sys2Proof.Machine

/-! ### Status codes of sealed sets (R584) -/

def stSetInUse : Nat := 0x0080
def stSetAbsent : Nat := 0x0081
def stSetMsgBad : Nat := 0x0082
def stBundleBad : Nat := 0x0083
def stNotInSet : Nat := 0x0084
def stBundleAuth : Nat := 0x0085
def stSealLoaded : Nat := 0x0086
def stSealPolicy : Nat := 0x0087
def stDebugUnlocked : Nat := 0x0088
def stSpdmBad : Nat := 0x0089

/-! ### Ranges of a context (R360, R503) -/

/-- A valid outbound window's mapping: first address and bytes. -/
def owinRange (w : OWin) : Nat × Nat := (w.base * 65536, w.len * 65536)

/-- What a context maps: extents, own and shared, and outbound mappings. -/
def ctxRanges (s : State) (c : Nat) : List (Nat × Nat) :=
  (s.xt.maps.filter (fun m => decide (m.ctx = c))).map (fun m =>
    (m.start, ((tget? s.xt.extents m.num).map (·.length)).getD 0)) ++
  (s.rbx.owins.filter (fun e => decide (e.2.owner = c) && e.2.valid)).map (fun e => owinRange e.2)

/-- Two byte ranges overlap. -/
def overlaps (a : Nat) (n : Nat) (r : Nat × Nat) : Bool := decide (a < r.1 + r.2 ∧ r.1 < a + n)

/-- Address and length of a mapping are those of R358 and R359. -/
def mapRangeOk (a n : Nat) : Bool :=
  decide (a % 65536 = 0 ∧ n % 65536 = 0 ∧ 65536 ≤ a ∧ 65536 ≤ n ∧ n ≤ 1374389534720 ∧ a + n ≤ 0xFFFFF00000000)

/-- R360's rows for a new mapping of `n` bytes at `a` in context `c`. -/
def mapRefusal (s : State) (c a n : Nat) : Option Nat :=
  if (ctxRanges s c).any (overlaps a n) then some stExtentOverlap
  else if 4096 ≤ (ctxRanges s c).length then some stExtentLimit
  else none

/-! ### EXT_CREATE (R359-R363) -/

/-- The stack takes new extents: in service, its partition not fenced. -/
def stackFit (s : State) (k : Nat) : Bool := stackInService s k && !decide (stackPart k ∈ s.seam.fenced)

/-- Stacks that a placement names and that are in service, ascending (R262, R284). -/
def stackList (s : State) (placement place : Nat) : List Nat :=
  (if placement = 0 then [2 * place, 2 * place + 1] else if placement = 1 then List.range 20 else [place]).filter (stackFit s)

/-- 4 KiB units of an extent of `u` units that fall on entry `k` of a list of `n` stacks (R263). -/
def shareUnits (placement n u k : Nat) : Nat :=
  if placement = 1 then u / n + (if (k + n - u / n % n) % n < u % n then 1 else 0)
  else u / n

/-- Granules of data on each stack of a list. [DEDUCED, log entry 89] -/
def shareGrans (placement u : Nat) (ks : List Nat) : List Nat :=
  (List.range ks.length).map (fun i => ceilDiv (shareUnits placement ks.length u i) 16)

/-- Takes data and tag granules on each stack: (stack, data granules, tag granules); none where a stack has too few. [DEDUCED, log entry 89] -/
def takeShares (s : State) (tags : Bool) : List (Nat × Nat) → List Nat → Option (List (Nat × List Nat × List Nat) × List Nat)
  | [], h => some ([], h)
  | (k, n) :: r, h =>
    let t := if tags then ceilDiv n 16 else 0
    match takeGrans s k (n + t) [] h with
    | none => none
    | some (gs, h) =>
      match takeShares s tags r h with
      | none => none
      | some (l, h) => some ((k, gs.take n, gs.drop n) :: l, h)

/-- Extent numbers carried by requests not yet answered (R367). -/
def liveNums (s : State) : List Nat :=
  (s.home.lines.flatMap (fun e => (e.2.held ++ e.2.merge).map (fun h => (reqOf h).handle) ++ e.2.batch.map (fun b => b.1.handle)) ++
    s.home.ordered.flatMap (fun e => e.2.stored.map (fun m => m.1.handle)) ++
    s.home.waiters.flatMap (fun e => e.2.map (fun w => w.r.handle)) ++
    s.home.resend.map (fun h => (reqOf h).handle) ++ s.home.later.map (fun h => (reqOf h.1).handle)).map (· % 2 ^ 24)

/-- The extent number for a hint: the first free one from it. -/
def pickNum (s : State) (hint : Nat) : Nat :=
  let used := tkeys s.xt.extents ++ liveNums s
  let n := lowestFree used (used.length + 1) (hint % 2 ^ 24)
  if n < 2 ^ 24 then n else lowestFree used (used.length + 1) 0

/-- Fields of the record outside R359's ranges and R361's combinations. -/
def recordOk (c : TakenCmd) : Bool :=
  let pl := par c 20 1
  let wh := par c 21 1
  let at_ := par c 22 2
  let rw_ := par c 26 1
  mapRangeOk (par c 0 8) (par c 8 8) && decide (pl ≤ 2) &&
  decide (if pl = 0 then wh ≤ 9 else if pl = 1 then wh = 0 else wh ≤ 19) &&
  decide (at_ < 128 ∧ par c 24 2 ≤ 4095) && zeroAt c.pkt 51 1 && zeroAt c.pkt 58 30 &&
  (!attrSealed at_ || attrReadOnly at_) && (attrSealed at_ || decide (par c 28 2 = 0)) &&
  (if attrReplica at_ then attrReadOnly at_ && decide (pl ≠ 1 ∧ rw_ ≠ wh ∧ rw_ ≤ (if pl = 0 then 9 else 19))
   else decide (rw_ = 0))

/-- Lines that hold a byte of `n` bytes at offset `f` of an extent, as line keys. -/
def extLines (x : Extent) (f n : Nat) : List Nat :=
  (List.range (n / 128)).filterMap (fun i => (locate x (f + 128 * i)).map (fun p => lkey p.1 (p.2 / 128)))

/-- Pins of a line. -/
def pinsOf (s : State) (key : Nat) : List Nat := tget [] s.home.pins key

/-- Two lines share a set of one stack's Crust cache. -/
def sameSet (a b : Nat) : Bool := decide (a / 2 ^ 29 = b / 2 ^ 29 ∧ setOf (a % 2 ^ 29) = setOf (b % 2 ^ 29))

/-- The pin check of R287 over every stack that the lines touch, for slice `n`. -/
def pinCheck (s : State) (n : Nat) (keys : List Nat) : Nat :=
  let fresh := keys.filter (fun k => (pinsOf s k).isEmpty)
  let mine := keys.filter (fun k => !decide (n ∈ pinsOf s k))
  let held := (s.home.pins.filter (fun e => !e.2.isEmpty)).map (·.1)
  let own := (s.home.pins.filter (fun e => decide (n ∈ e.2))).map (·.1)
  let quota := ((tget? s.ten.slices n).map (fun sl => sl.pinMib * 8192)).getD 0
  if fresh.any (fun k => decide (12 < ((held ++ fresh).filter (sameSet k)).length)) then stPinCap
  else if n ≠ 0 ∧ mine.any (fun k => decide (quota < ((own ++ mine).filter (fun j => decide (j / 2 ^ 29 = k / 2 ^ 29))).length)) then
    stPinQuota
  else stPinOk

/-- Pins lines for a slice. [DEDUCED, log entry 89] -/
def addPins (n : Nat) (keys : List Nat) (s : State) : State :=
  { s with home := { s.home with pins := keys.foldl (fun t k => tmod [] t k (insKey n)) s.home.pins } }

/-- Releases a slice's pins of lines. [DEDUCED, log entry 89] -/
def dropPins (n : Nat) (keys : List Nat) (s : State) : State :=
  { s with home := { s.home with
      pins := keys.foldl (fun t k => tmod [] t k (fun l => l.filter (fun m => !decide (m = n)))) s.home.pins } }

/-- The set a slice holds under a number. -/
def setOwned (s : State) (n set : Nat) : Option SealedSet :=
  match tget? s.sec.sets set with
  | some x => if x.slice = n then some x else none
  | none => none

/-- The extent of an EXT_CREATE record on stacks taken. -/
def newExtent (c : TakenCmd) (gen : Nat) (main rep : List (Nat × List Nat × List Nat)) : Extent :=
  { gen := gen, length := par c 8 8, placement := par c 20 1, place := par c 21 1,
    attr := par c 22 2 - (if bitOf (par c 22 2) 5 then 32 else 0),
    sharedSet := par c 24 2, replicaWhere := par c 26 1, sealSet := par c 28 2, owner := par c 30 2, slice := par c 32 2,
    stks := main.map (·.1), grans := main.map (·.2.1),
    tagGrans := (main ++ rep).flatMap (fun e => e.2.2.map (fun g => (e.1, g))),
    repStacks := rep.map (·.1), repGrans := rep.map (·.2.1), loaded := [], damaged := false, withdrawn := false,
    repaired := 0, damagedAt := 0 }

/-- Stack and granule counts of the data, and of the replica where there is one. -/
def createShares (s : State) (c : TakenCmd) : List (Nat × Nat) × List (Nat × Nat) :=
  let u := par c 8 8 / 4096
  let pl := par c 20 1
  let ks := stackList s pl (par c 21 1)
  let rs := if attrReplica (par c 22 2) then stackList s pl (par c 26 1) else []
  (ks.zip (shareGrans pl u ks), rs.zip (shareGrans pl u rs))

/-- EXT_CREATE once its granules are taken: pins, set and the record. -/
def extPlace (u : Queue) (c : TakenCmd) (h : AllocHint) (main rep : List (Nat × List Nat × List Nat)) (s : State) : State :=
  let n := par c 32 2
  let num := pickNum s h.num
  let gen := match tget? s.xt.gens num with
    | some g => (g + 1) % 256
    | none => 0
  let x := newExtent c gen main rep
  let keys := if attrPinned x.attr then extLines x 0 x.length else []
  let chk := if attrPinned x.attr then pinCheck s n keys else stPinOk
  if chk ≠ stPinOk then finishCmd u.num c.seq chk 0 s
  else if attrSealed x.attr ∧ (setOwned s n x.sealSet).isNone then finishCmd u.num c.seq stSetAbsent 0 s
  else
    let s := addPins n keys s
    finishCmd u.num c.seq stOk (handleOf num x) { s with xt := { s.xt with
      extents := tput s.xt.extents num x, gens := tput s.xt.gens num gen,
      maps := s.xt.maps ++ [⟨x.owner, par c 0 8, num, false⟩] } }

/-- EXT_CREATE, with R360's refusals in the order of its table. -/
def extCreateS (h : AllocHint) (u : Queue) (c : TakenCmd) (s : State) : State :=
  let n := par c 32 2
  let own := par c 30 2
  let tags := attrSealed (par c 22 2) || attrIntegrity (par c 22 2)
  let sh := createShares s c
  let charge := sumNat ((sh.1 ++ sh.2).map (fun e => e.2 + (if tags then ceilDiv e.2 16 else 0)))
  let fin := fun st => finishCmd u.num c.seq st 0 s
  if ¬ recordOk c ∨ (ctxOf s own).isNone ∨ ctxSlice s own ≠ n then fin stBadExtent
  else if ((ctxOf s own).map (·.dead)).getD false then fin stContextDead
  else
    match mapRefusal s own (par c 0 8) (par c 8 8) with
    | some st => fin st
    | none =>
      if sh.1.isEmpty ∨ (attrReplica (par c 22 2) ∧ sh.2.isEmpty) then fin stHomeUnavailable
      else if quotaGrans s n < usedQuota s n + charge then fin stMemQuota
      else
        match takeShares s tags sh.1 h.grans with
        | none => fin stStackFull
        | some (main, hints) =>
          match takeShares s tags sh.2 hints with
          | none => fin stStackFull
          | some (rep, _) => extPlace u c h main rep s

def execExtCreate (q seq : Nat) (h : AllocHint) (s : State) : Out := cmdOut 0x0201 q seq (extCreateS h) s

/-! ### EXT_DESTROY, EXT_SHARE, EXT_UNMAP, EXT_QUERY (R366, R367, R406) -/

/-- The extent that a command's handle names; the Crumb region is the device's own. -/
def cmdExtent (s : State) (h : Nat) : Option (Nat × Extent) :=
  match extByHandle s h with
  | some (n, x) => if s.err.regionExt = some n then none else some (n, x)
  | none => none

/-- EXT_DESTROY. -/
def extDestroyS (u : Queue) (c : TakenCmd) (s : State) : State :=
  match cmdExtent s (par c 0 4) with
  | some (num, x) => finishCmd u.num c.seq stOk 0 (destroyNow num x s)
  | none => finishCmd u.num c.seq stBadExtent 0 s

def execExtDestroy (q seq : Nat) (s : State) : Out := cmdOut 0x0202 q seq extDestroyS s

/-- The digest of a Recipe's bytes. -/
def recipeDigest (r : Recipe) : List Byte := (List.range 48).map (Config.sha384 r.bytes)

/-- Sealed sets whose extents a context maps (R575). -/
def ctxSets (s : State) (c : Nat) : List Nat :=
  ((s.xt.maps.filter (fun m => decide (m.ctx = c))).filterMap (fun m =>
    match tget? s.xt.extents m.num with
    | some x => if attrSealed x.attr then some x.sealSet else none
    | none => none)).eraseDups

/-- A Recipe is permitted by each of a list of sets (R575). -/
def recipePermitted (s : State) (r : Recipe) (sets : List Nat) : Bool :=
  sets.all (fun n => match tget? s.sec.sets n with
    | some x => decide (recipeDigest r ∈ x.recipes)
    | none => false)

/-- A running launch of the context uses a Recipe that some set does not permit. -/
def shareBreaks (s : State) (c : Nat) (sets : List Nat) : Bool :=
  s.sch.launches.any (fun e => decide (e.2.ctx = c) &&
    (match tget? s.sch.recipes e.2.recipe with
     | some r => !recipePermitted s r sets
     | none => false))

/-- Stations drop their copies of an extent's lines, and install none that they await (R277, R307). -/
def dropCopies (x : Extent) (s : State) : State :=
  let keys := extLines x 0 x.length
  let hit := fun (c a : Nat) => ((translate s c a).map (fun p => decide (lkey p.stack p.line ∈ keys))).getD false
  { s with sch := { s.sch with stns := tmap s.sch.stns (fun _ n => { n with
      cache := n.cache.filter (fun e => !decide (e.1 ∈ keys)),
      pend := n.pend.map (fun e => if e.1 ∈ keys then (e.1, e.2.1, true) else e),
      rg := { n.rg with miss := tmap n.rg.miss (fun _ m => if hit n.ctx m.1 then (m.1, m.2.1, true) else m) } }) } }

/-- EXT_SHARE (R363, R406); a mapping through which the extent becomes writable ends the copies of its lines first (R277). [DEDUCED, log entry 18] -/
def extShareS (u : Queue) (c : TakenCmd) (s : State) : State :=
  let a := par c 0 8
  let t := par c 12 2
  let fin := fun st => finishCmd u.num c.seq st 0 s
  match ctxOf s t with
  | none => fin stBadParam
  | some tc =>
    if tc.dead then fin stContextDead
    else
      match cmdExtent s (par c 8 4) with
      | none => fin stBadExtent
      | some (num, x) =>
        if x.sharedSet = 0 ∨ s.xt.maps.any (fun m => decide (m.ctx = t ∧ m.num = num)) then fin stBadParam
        else if ¬ mapRangeOk a x.length then fin stBadExtent
        else
          match mapRefusal s t a x.length with
          | some st => fin st
          | none =>
            if attrSealed x.attr ∧ shareBreaks s t (insKey x.sealSet (ctxSets s t)) then fin stSealPolicy
            else
              let s := if readOnlyFor x t then s else dropCopies x s
              finishCmd u.num c.seq stOk 0 { s with xt := { s.xt with maps := s.xt.maps ++ [⟨t, a, num, true⟩] } }

def execExtShare (q seq : Nat) (s : State) : Out := cmdOut 0x0203 q seq extShareS s

/-- EXT_UNMAP. -/
def extUnmapS (u : Queue) (c : TakenCmd) (s : State) : State :=
  match s.xt.maps.find? (fun m => decide (m.ctx = par c 8 2 ∧ m.start = par c 0 8)) with
  | some m => finishCmd u.num c.seq stOk 0 (unmap m s)
  | none => finishCmd u.num c.seq stBadParam 0 s

def execExtUnmap (q seq : Nat) (s : State) : Out := cmdOut 0x0204 q seq extUnmapS s

/-- The extent record of a mapping (R359), DAMAGED included. -/
def recordBytes (start num : Nat) (x : Extent) : List Byte :=
  layout 64 [(0, leBytes 8 start), (8, leBytes 8 x.length), (16, leBytes 4 (handleOf num x)), (20, leBytes 1 x.placement),
    (21, leBytes 1 x.place), (22, leBytes 2 (x.attr + (if x.damaged then 32 else 0))), (24, leBytes 2 x.sharedSet),
    (26, leBytes 1 x.replicaWhere), (28, leBytes 2 x.sealSet), (30, leBytes 2 x.owner), (32, leBytes 2 x.slice)]

/-- EXT_QUERY. -/
def extQueryS (u : Queue) (c : TakenCmd) (s : State) : State :=
  match findMap s c.ctx (par c 0 8) with
  | some (m, x) => finishCmd u.num c.seq stOk (handleOf m.num x) (hostWrite u.pasid (par c 8 8) (recordBytes m.start m.num x) s)
  | none => finishCmd u.num c.seq stNoExtent 0 s

def execExtQuery (q seq : Nat) (s : State) : Out := cmdOut 0x0205 q seq extQueryS s

/-! ### PIN and UNPIN (R285-R288, R406) -/

/-- The range of a pin command lies in the extent. -/
def pinRangeOk (x : Extent) (f cnt : Nat) : Bool := decide (f % 65536 = 0 ∧ cnt ≠ 0 ∧ f + 65536 * cnt ≤ x.length)

/-- Copy engines of a Crust die (R257). A COPY or FILL runs whole in its command. [DESIGN CHOICE, log entry 132] -/
def copyEngines : Nat := 2

/-- Fills lines that are not in the Crust cache of a home that answers (R285). -/
def preload (keys : List Nat) (s : State) : State :=
  keys.foldl (fun s k => if (hline s k).cached || homeDown s (k / 2 ^ 29) then s else installLine (k / 2 ^ 29) (k % 2 ^ 29) false s) s

/-- Context of the command that a preload belongs to. -/
def preloadCtx (s : State) (p : Nat × Nat × List Nat) : Nat :=
  (((tget? s.cmd.queues p.1).bind (fun u => u.cmds.find? (fun c => decide (c.seq = p.2.1)))).map (·.ctx)).getD 0

/-- Inserts a preload behind those served no later than it (R412, R424). -/
def insPreload (s : State) (p : Nat × Nat × List Nat) : List (Nat × Nat × List Nat) → List (Nat × Nat × List Nat)
  | [] => [p]
  | q :: r => if ctxBefore s (preloadCtx s q) (preloadCtx s p) then q :: insPreload s p r else p :: q :: r

/-- The lines that running preloads, in the order they are served, fill next: of each Crust die, the first of as many preloads
as it has copy engines. [DESIGN CHOICE, log entry 132] -/
def preloadNext (l : List (Nat × Nat × List Nat)) : List Nat :=
  let dies := (l.flatMap (fun p => p.2.2.map (· / 2 ^ 29))).eraseDups
  dies.flatMap (fun d => (l.filterMap (fun p => p.2.2.find? (fun k => decide (k / 2 ^ 29 = d)))).take copyEngines)

/-- Preloads go on by a line on each copy engine; those of commands that are gone end (R537 and R641 pause them). [DESIGN CHOICE, log entry 132] -/
def preloadTick (s : State) : State :=
  let live := s.home.preloads.filter (fun p =>
    ((tget? s.cmd.queues p.1).map (fun u => u.cmds.any (fun c => decide (c.seq = p.2.1)))).getD false)
  if issueHeld s then s
  else
    let now := preloadNext (live.foldr (insPreload s) [])
    let left := live.map (fun p => (p.1, p.2.1, p.2.2.filter (fun k => !decide (k ∈ now))))
    let moved := live.filter (fun p => p.2.2.any (fun k => decide (k ∈ now)))
    moved.foldl (fun s p => markBound p.1 p.2.1 s)
      (preload now { s with home := { s.home with preloads := left.filter (fun p => !p.2.2.isEmpty) } })

/-- An unpin stops the preloads that run on the dies it reaches (R288). [DESIGN CHOICE, log entry 132] -/
def stopPreloads (keys : List Nat) (s : State) : State :=
  let dies := keys.map (· / 2 ^ 29)
  let left := s.home.preloads.map (fun p => (p.1, p.2.1, p.2.2.filter (fun k => !decide (k / 2 ^ 29 ∈ dies))))
  { s with home := { s.home with preloads := left.filter (fun p => !p.2.2.isEmpty) } }

/-- PIN: checked on every stack before anything is pinned, then all or none; with PRELOAD its lines are then filled, and the
reply follows (R406). -/
def pinS (u : Queue) (c : TakenCmd) (s : State) : State :=
  let f := par c 0 8
  let cnt := par c 8 4
  match ctxOf s c.ctx, cmdExtent s (par c 12 4) with
  | none, _ => finishCmd u.num c.seq stBadParam 0 s
  | some _, none => finishCmd u.num c.seq stBadExtent 0 s
  | some cx, some (_, x) =>
    if ¬ pinRangeOk x f cnt ∨ 1 < par c 16 1 then finishCmd u.num c.seq stBadParam 0 s
    else
      let keys := extLines x f (65536 * cnt)
      let chk := pinCheck s cx.slice keys
      if chk ≠ stPinOk then finishCmd u.num c.seq chk 0 s
      else
        let s := addPins cx.slice keys s
        let cold := keys.filter (fun k => !(hline s k).cached)
        finishCmd u.num c.seq stPinOk 0 (if par c 16 1 = 1 ∧ ¬ cold.isEmpty then
          { s with home := { s.home with preloads := s.home.preloads ++ [(u.num, c.seq, cold)] } } else s)

def execPin (q seq : Nat) (s : State) : Out := cmdOut 0x0206 q seq pinS s

/-- UNPIN: releases the slice's own pins only. -/
def unpinS (u : Queue) (c : TakenCmd) (s : State) : State :=
  let f := par c 0 8
  let cnt := par c 8 4
  match ctxOf s c.ctx, cmdExtent s (par c 12 4) with
  | none, _ => finishCmd u.num c.seq stBadParam 0 s
  | some _, none => finishCmd u.num c.seq stBadExtent 0 s
  | some cx, some (_, x) =>
    if ¬ pinRangeOk x f cnt then finishCmd u.num c.seq stBadParam 0 s
    else
      let keys := extLines x f (65536 * cnt)
      finishCmd u.num c.seq stOk 0 (stopPreloads keys (dropPins cx.slice keys s))

def execUnpin (q seq : Nat) (s : State) : Out := cmdOut 0x0207 q seq unpinS s

/-! ### APERTURE_SET (R368, R369, R406) -/

/-- Aperture pages of BAR4. -/
def apPages (s : State) : Nat := 2 ^ (s.pci.bar4Log2 - 16)

/-- APERTURE_SET: entries of PAGES pages from PAGE, or their removal with VALID clear. -/
def apertureSetS (u : Queue) (c : TakenCmd) (s : State) : State :=
  let a := par c 0 8
  let page := par c 8 4
  let cnt := par c 12 4
  let t := par c 16 2
  let r := par c 18 1
  let fin := fun st => finishCmd u.num c.seq st 0 s
  match ctxOf s t with
  | none => fin stBadParam
  | some tc =>
    if tc.dead then fin stContextDead
    else if a % 65536 ≠ 0 ∨ 7 < r ∨ apPages s < page + cnt then fin stBadParam
    else if bitOf r 2 then
      let exts := (List.range cnt).map (fun i => (findMap s t (a + 65536 * i)).map (·.2))
      if exts.any (·.isNone) then fin stNoExtent
      else if exts.any (fun e => (e.map (fun x => attrSealed x.attr)).getD false) then fin stSealed
      else if bitOf r 1 ∧ exts.any (fun e => (e.map (fun x => readOnlyFor x t)).getD false) then fin stBadParam
      else finishCmd u.num c.seq stOk 0 { s with xt := { s.xt with
        apertures := (List.range cnt).foldl (fun m i =>
          tput m (page + i) ⟨t, a + 65536 * i, bitOf r 0, bitOf r 1⟩) s.xt.apertures } }
    else finishCmd u.num c.seq stOk 0 { s with xt := { s.xt with
      apertures := s.xt.apertures.filter (fun e => !decide (page ≤ e.1 ∧ e.1 < page + cnt)) } }

def execApertureSet (q seq : Nat) (s : State) : Out := cmdOut 0x0208 q seq apertureSetS s

/-! ### WINDOW_SET and COUNTER_RESET (R351, R377, R378, R406, R441) -/

/-- A window table entry as read from the host. -/
def winEntry (bs : List Byte) : WinEntry :=
  ⟨field bs 0 8, field bs 8 8, field bs 16 8, field bs 24 1, field bs 26 2⟩

/-- R378's limits on an entry's fields. [DEDUCED, log entry 90] -/
def winEntryOk (bs : List Byte) : Bool :=
  let e := winEntry bs
  decide (e.off % 65536 = 0 ∧ e.off < 2 ^ 44 ∧ e.len % 65536 = 0 ∧ e.len ≠ 0 ∧ e.addr % 65536 = 0 ∧ e.rights < 16 ∧
    (e.peer ≤ 4095 ∨ e.peer = 0xFFFF)) && zeroAt bs 25 1 && zeroAt bs 28 4

/-- No two entries of a table overlap. -/
def winDisjoint : List WinEntry → Bool
  | [] => true
  | e :: r => !r.any (fun f => overlaps e.off e.len (f.off, f.len)) && winDisjoint r

/-- The entry's device range lies within one extent of the owner. [DEDUCED, log entry 19] -/
def winMapped (s : State) (c : Nat) (e : WinEntry) : Bool :=
  match findMap s c e.addr with
  | some (m, x) => decide (e.addr + e.len ≤ m.start + x.length)
  | none => false

/-- Windows owned by contexts of a slice, one of them left out. -/
def sliceWindows (s : State) (n w : Nat) : Nat :=
  (s.xt.windows.filter (fun e => decide (e.1 ≠ w ∧ ctxSlice s e.2.owner = n))).length

/-- Windows that a slice may own: its quota, and for slice 0 what tenant quotas leave (R438). [DEDUCED, log entry 90] -/
def windowQuota (s : State) (n : Nat) : Nat :=
  if n = 0 then 256 - sumNat (s.ten.slices.map (fun e => if e.1 = 0 then 0 else e.2.windows))
  else ((tget? s.ten.slices n).map (·.windows)).getD 0

/-- WINDOW_SET: the table replaces the window's; ENTRIES 0 frees the window. [DEDUCED, log entry 90] -/
def windowSetS (u : Queue) (c : TakenCmd) (s : State) : State :=
  let w := par c 8 2
  let own := par c 10 2
  let cnt := par c 14 1
  let raw := (List.range cnt).map (fun i => hostRead s u.pasid (par c 0 8 + 32 * i) 32)
  let es := raw.map winEntry
  let fin := fun st => finishCmd u.num c.seq st 0 s
  match ctxOf s own with
  | none => fin stBadParam
  | some oc =>
    if 255 < w ∨ 64 < cnt ∨ ¬ raw.all winEntryOk ∨ ¬ winDisjoint es then fin stBadParam
    else if oc.dead then fin stContextDead
    else if cnt = 0 then
      finishCmd u.num c.seq stOk 0 { s with xt := { s.xt with windows := tdel s.xt.windows w } }
    else if ¬ es.all (winMapped s own) then fin stNoExtent
    else if windowQuota s oc.slice ≤ sliceWindows s oc.slice w then fin stQuotaFull
    else finishCmd u.num c.seq stOk 0 { s with xt := { s.xt with windows := tput s.xt.windows w ⟨own, par c 12 2, es⟩ } }

def execWindowSet (q seq : Nat) (s : State) : Out := cmdOut 0x0209 q seq windowSetS s

/-- COUNTER_RESET: counters of the mask become 0; only the window's owner may name them. -/
def counterResetS (u : Queue) (c : TakenCmd) (s : State) : State :=
  let w := par c 0 2
  match tget? s.xt.windows w with
  | some x =>
    if x.owner ≠ c.ctx then finishCmd u.num c.seq stBadParam 0 s
    else finishCmd u.num c.seq stOk 0 { s with xt := { s.xt with
      counters := (bitsSet 16 (par c 2 2)).foldl (fun t i => tset 0 t (16 * w + i) 0) s.xt.counters } }
  | none => finishCmd u.num c.seq stBadParam 0 s

def execCounterReset (q seq : Nat) (s : State) : Out := cmdOut 0x020A q seq counterResetS s

end Sys2Proof.Machine
end

