-- ==== Sys2Proof/Machine/Recipes.lean ====
section
/-! DEFINITION. Recipes: their binary layout (R60-R70, R193-R196), the load checks of R87 and
the commands RECIPE_LOAD and RECIPE_UNLOAD (R406). -/

namespace Sys2Proof.Machine

/-! ### Device memory as a command reads and writes it -/

/-- Some line of the range is blocked, has accepted reductions still to be applied, or holds a write or reduction not yet
placed (R292, R301, R330): a command's access waits. -/
def ctxBusy (s : State) (c a n : Nat) : Bool :=
  (linesOf a n).any (fun e => match translate s c e.1 with
    | some p =>
      let l := hline s (lkey p.stack p.line)
      decide (l.st = .bl) || !l.batch.isEmpty || l.held.any (fun h => !isRead h)
    | none => false)

/-- The status with which a command's read of a device range is refused: the arrival counters and read-only
extents are BAD_PARAM for a command (R371, R404), then NO_EXTENT (R372), an unavailable home, poison (R404). [DEDUCED, log entry 19] -/
def ctxReadRefusal (s : State) (c a n : Nat) (who : Agent) : Option Nat :=
  if inCounters a ∨ inCounters (a + n - 1) then some stBadParam
  else if ¬ rangeMapped s c a n then some stNoExtent
  else if ctxUnavailable s c a n who then some stHomeUnavailable
  else if ctxPoisoned s c a n then some stPoisoned
  else none

/-! ### Kinds -/

/-- Scratchpad bytes of a station kind and split (R91, R192, R229); none for LK and pass-through. -/
def scratchBytes (kind split : Nat) : Nat :=
  if kind = 1 then nth 1048576 [2097152, 1835008, 1572864, 1048576] split
  else if kind = 2 ∨ kind = 3 then nth 262144 [1048576, 786432, 524288, 262144] split
  else 0

/-- Lines of the station cache (R91, R192, R229, R276). [DESIGN CHOICE, log entry 117] -/
def cacheLines (kind split : Nat) : Nat :=
  if kind = 1 then nth 0 [0, 2048, 4096, 8192] split
  else if kind = 2 ∨ kind = 3 then nth 0 [0, 2048, 4096, 6144] split
  else 0

/-! ### SH_CONFIG (R188, R193-R195) -/

def shNreg (cfg : Nat) : Nat := 8 * bits cfg 5 0
def shGroups (cfg : Nat) : Nat := bits cfg 12 6
def shWindow (cfg : Nat) : Nat := bits cfg 22 13 * 1024

/-- Resident groups of core `c`. -/
def coreGroups (n c : Nat) : Nat := n / 4 + (if c < n % 4 then 1 else 0)

/-- Resident groups, ascending. -/
def residents (cfg : Nat) : List Nat :=
  (List.range 4).flatMap (fun c => (List.range (coreGroups (shGroups cfg) c)).map (fun i => 16 * c + i))

/-- R195's limits on a Shader Station's configuration. -/
def shConfigOk (cfg split : Nat) : Bool :=
  decide (1 ≤ bits cfg 5 0 ∧ bits cfg 5 0 ≤ 32 ∧ 1 ≤ shGroups cfg ∧ shGroups cfg ≤ 64 ∧
    coreGroups (shGroups cfg) 0 * shNreg cfg ≤ 512 ∧ shGroups cfg * shWindow cfg ≤ scratchBytes 2 split)

/-! ### Layout (R60-R70) -/

/-- Offset and size of section `i` (R62). -/
def secOff (r : List Byte) (i : Nat) : Nat := field r (64 + 8 * i) 4
def secSize (r : List Byte) (i : Nat) : Nat := field r (68 + 8 * i) 4

def rFootW (r : List Byte) : Nat := field r 16 1
def rFootH (r : List Byte) : Nat := field r 17 1
def rPeriod (r : List Byte) : Nat := field r 18 1
def rStations (r : List Byte) : Nat := field r 20 2
def rStreams (r : List Byte) : Nat := field r 22 2
def rRests (r : List Byte) : Nat := field r 24 2
def rLives (r : List Byte) : Nat := field r 26 2

/-- Kind byte of footprint cell (x, y). -/
def footKind (r : List Byte) (x y : Nat) : Nat := field r (secOff r 0 + y * rFootW r + x) 1

/-- Claimed cells in row-major order, as (x, y). -/
def claimed (r : List Byte) : List (Nat × Nat) :=
  ((List.range (rFootH r)).flatMap (fun y => (List.range (rFootW r)).map (fun x => (x, y)))).filter
    (fun p => decide (footKind r p.1 p.2 ≠ 0))

/-- Offsets of the station, stream, rest-point and live-set entries. -/
def stnOff (r : List Byte) (i : Nat) : Nat := secOff r 1 + 32 * i
def strOff (r : List Byte) (i : Nat) : Nat := secOff r 4 + 32 * i
def restOff (r : List Byte) (i : Nat) : Nat := secOff r 5 + 16 * i
def liveOff (r : List Byte) (i : Nat) : Nat := secOff r 6 + 16 * i

/-- Kind code of station entry `i`. -/
def cellKind (r : List Byte) (i : Nat) : Nat := field r (stnOff r i + 2) 1

/-- A descriptor's header fields (R66). -/
def dLen (d : List Byte) : Nat := field d 0 1 % 16
def dOp (d : List Byte) : Nat := bits (field d 0 2) 11 4
def dRestAfter (d : List Byte) : Bool := bitOf (field d 1 1) 4
def dRestId (d : List Byte) : Nat := field d 2 1

/-- The whole descriptors at the front of a list, cut by their LEN fields: (offset in the list, bytes). -/
def cutDescs : Nat → Nat → List Byte → List (Nat × List Byte)
  | 0, _, _ => []
  | n + 1, o, bs =>
    let l := dLen bs * 64
    if bs.isEmpty ∨ l = 0 ∨ 512 < l ∨ bs.length < l then [] else (o, bs.take l) :: cutDescs n (o + l) (bs.drop l)

/-- Bytes of station entry `i`'s descriptor list. -/
def descBytes (r : List Byte) (i : Nat) : List Byte :=
  (r.drop (secOff r 2 + field r (stnOff r i + 4) 4)).take (field r (stnOff r i + 8) 4)

/-- Descriptors of station entry `i`, with their offsets in its list. -/
def descList (r : List Byte) (i : Nat) : List (Nat × List Byte) :=
  cutDescs (field r (stnOff r i + 8) 4 / 64) 0 (descBytes r i)

/-- Bytes of the whole descriptors at the front of a station's list: all of it where every descriptor is whole. -/
def wholeBytes (r : List Byte) (i : Nat) : Nat := sumNat ((descList r i).map (fun d => d.2.length))

/-- Offset in the Recipe of descriptor `d` of station entry `i`. -/
def descAt (r : List Byte) (i : Nat) (d : Nat × List Byte) : Nat := secOff r 2 + field r (stnOff r i + 4) 4 + d.1

/-- A station entry (R65). -/
def stnEntry (r : List Byte) (i : Nat) : StnEntry :=
  let o := stnOff r i
  let code := (r.drop (secOff r 3 + field r (o + 12) 4)).take (field r (o + 16) 4)
  { fx := field r o 1, fy := field r (o + 1) 1, kind := field r (o + 2) 1, split := field r (o + 3) 1,
    descs := (descList r i).map (·.2), code := (List.range (code.length / 8)).map (fun k => field code (8 * k) 8),
    shConfig := field r (o + 20) 4 }

/-- A stream entry (R67). -/
def strEntry (r : List Byte) (i : Nat) : StreamEntry :=
  let o := strOff r i
  { srcCell := field r o 1, srcPort := field r (o + 1) 1, sinkCell := field r (o + 2) 1, sinkPort := field r (o + 3) 1,
    hops := field r (o + 4) 1, route := field r (o + 8) 8, slotMask := field r (o + 16) 2, phaseMask := field r (o + 24) 8 }

def restEntry (r : List Byte) (i : Nat) : RestEntry :=
  let o := restOff r i
  ⟨field r o 1, field r (o + 2) 2, field r (o + 4) 2, field r (o + 8) 4, field r (o + 12) 4⟩

def liveEntry (r : List Byte) (i : Nat) : LiveEntry :=
  let o := liveOff r i
  ⟨field r o 1, field r (o + 1) 1, field r (o + 4) (if field r (o + 1) 1 = 4 then 8 else if field r (o + 1) 1 = 2 then 2 else 4),
    if field r (o + 1) 1 = 4 ∨ field r (o + 1) 1 = 2 then 0 else field r (o + 8) 4⟩

/-- The Recipe that a binary holds. -/
def parseRecipe (c : Nat) (r : List Byte) : Recipe :=
  { ctx := c, bytes := r, footW := rFootW r, footH := rFootH r, period := rPeriod r,
    foot := (List.range (rFootH r * rFootW r)).map (fun i => field r (secOff r 0 + i) 1),
    stations := (List.range (rStations r)).map (stnEntry r), streams := (List.range (rStreams r)).map (strEntry r),
    rests := (List.range (rRests r)).map (restEntry r), lives := (List.range (rLives r)).map (liveEntry r),
    startBound := field r 28 4, checked := false }

/-! ### Routes (R57, R67, R68) -/

/-- Direction of link `i` of a route: 0 north, 1 east, 2 south, 3 west. -/
def routeDir (route i : Nat) : Nat := route / 4 ^ i % 4

/-- The cell across a link in a direction, none past the footprint's edge. -/
def cellNext (w h : Nat) (p : Nat × Nat) (d : Nat) : Option (Nat × Nat) :=
  if d = 0 then (if p.2 = 0 then none else some (p.1, p.2 - 1))
  else if d = 1 then (if p.1 + 1 < w then some (p.1 + 1, p.2) else none)
  else if d = 2 then (if p.2 + 1 < h then some (p.1, p.2 + 1) else none)
  else if p.1 = 0 then none else some (p.1 - 1, p.2)

/-- Cells a route visits from its source, the source first; shorter than HOPS + 1 where it leaves the footprint. -/
def routeCells (w h route : Nat) : Nat → Nat → Nat × Nat → List (Nat × Nat)
  | 0, _, p => [p]
  | n + 1, i, p =>
    match cellNext w h p (routeDir route i) with
    | some q => p :: routeCells w h route n (i + 1) q
    | none => [p]

/-- Links of a stream at origin column `x0`: (cell, direction, phase shift) (R57). -/
def streamLinks (x0 w h : Nat) (st : StreamEntry) (src : Nat × Nat) : List ((Nat × Nat) × Nat × Nat) :=
  let cells := routeCells w h st.route st.hops 0 src
  let crosses := fun i : Nat =>
    let d := routeDir st.route i
    let x := x0 + (nth (0, 0) cells i).1
    (d = 1 && x = 6) || (d = 3 && x = 7)
  (List.range (cells.length - 1)).map (fun i =>
    (nth (0, 0) cells i, routeDir st.route i, i + ((List.range i).filter crosses).length))

/-- Phases of a mask shifted by `k` modulo P. -/
def shiftPhases (mask p k : Nat) : List Nat := (bitsSet 64 mask).map (fun i => (i + k) % p)

/-- Two streams occupy the same direction of one link in one slot and phase (R58). -/
def streamsClash (x0 w h p : Nat) (a b : StreamEntry × (Nat × Nat)) : Bool :=
  decide (a.1.slotMask &&& b.1.slotMask ≠ 0) &&
  (streamLinks x0 w h a.1 a.2).any (fun e => (streamLinks x0 w h b.1 b.2).any (fun f =>
    decide (e.1 = f.1 ∧ e.2.1 = f.2.1) &&
    (shiftPhases a.1.phaseMask p e.2.2).any (fun x => decide (x ∈ shiftPhases b.1.phaseMask p f.2.2))))

/-- The footprint's kinds match the station grid at origin column `x0` in some row (R87). -/
def columnFits (r : List Byte) (x0 : Nat) : Bool :=
  decide (x0 + rFootW r ≤ 14) && (List.range (13 - rFootH r)).any (fun y0 => (claimed r).all (fun p =>
    decide (footKind r p.1 p.2 = 5 ∨ footKind r p.1 p.2 = kindAt (y0 + p.2) (x0 + p.1))))

/-! ### Load checks (R87): each row gives the offsets of the fields that fail it -/

/-- Offset `o` where the condition fails. -/
def need (b : Bool) (o : Nat) : List Nat := if b then [] else [o]

/-- Size that a section's count gives it; none for DESCRIPTORS and SHADER_CODE. -/
def secWant (r : List Byte) (i : Nat) : Option Nat :=
  nth none [some (rFootW r * rFootH r), some (32 * rStations r), none, none, some (32 * rStreams r),
    some (16 * rRests r), some (16 * rLives r), some 0] i

/-- Section checks: size, alignment, bounds and overlap with an earlier section. Of two sections that overlap, the later
entry's OFFSET is taken to fail. An unused section's OFFSET is held to R60's alignment and to TOTAL_SIZE; of no bytes, it
overlaps neither the header nor a section. [DESIGN CHOICE, log entry 128] -/
def secFails (r : List Byte) (size i : Nat) : List Nat :=
  let o := secOff r i
  let n := secSize r i
  let clash := (List.range i).any (fun j => decide (secSize r j ≠ 0) && overlaps o n (secOff r j, secSize r j))
  need ((secWant r i).all (fun w => decide (w = n))) (68 + 8 * i) ++
  need (decide (o % 64 = 0 ∧ o ≤ size ∧ (n ≠ 0 → 128 ≤ o)) && !(decide (n ≠ 0) && clash)) (64 + 8 * i) ++
  need (decide (n = 0 ∨ o + n ≤ size)) (68 + 8 * i)

/-- Bytes a live-set entry's type uses after byte 4. -/
def liveUses (ty : Nat) : Nat := if ty = 1 ∨ ty = 3 ∨ ty = 4 then 8 else if ty = 2 then 2 else 0

/-- Row 1: header fields, section bounds and reserved fields, those of descriptor headers (R66) and of SH_CONFIG (R193)
among them (BAD_RECIPE). -/
def headFails (r : List Byte) (size : Nat) : List Nat :=
  need (decide (field r 0 4 = 0x5043524B)) 0 ++ need (decide (field r 4 2 = 1)) 4 ++ need (zeroAt r 6 2) 6 ++
  need (decide (field r 8 4 = size ∧ size % 64 = 0 ∧ size ≤ 67108864)) 8 ++
  need (decide (field r 12 4 = crc32c (r.take 12 ++ zeros 4 ++ r.drop 16))) 12 ++
  need (decide (1 ≤ rFootW r ∧ rFootW r ≤ 14)) 16 ++ need (decide (1 ≤ rFootH r ∧ rFootH r ≤ 12)) 17 ++
  need (decide (1 ≤ rPeriod r ∧ rPeriod r ≤ 64)) 18 ++ need (zeroAt r 19 1) 19 ++
  need (decide (1 ≤ rStations r ∧ rStations r ≤ 168)) 20 ++ need (decide (rStreams r ≤ 1024)) 22 ++
  need (decide (rRests r ≤ 255)) 24 ++ need (decide (rLives r ≤ 8192)) 26 ++ need (decide (1 ≤ field r 28 4)) 28 ++
  need (zeroAt r 36 28) 36 ++ (List.range 8).flatMap (secFails r size) ++
  (List.range (rStations r)).flatMap (fun i =>
    need (zeroAt r (stnOff r i + 24) 8) (stnOff r i + 24) ++
    need (decide (cellKind r i = 2 → field r (stnOff r i + 20) 4 < 2 ^ 23)) (stnOff r i + 22) ++
    (descList r i).flatMap (fun d =>
      need (decide (field d.2 1 1 / 32 = 0)) (descAt r i d + 1) ++ need (zeroAt d.2 3 1) (descAt r i d + 3))) ++
  (List.range (rStreams r)).flatMap (fun i =>
    need (zeroAt r (strOff r i + 5) 3) (strOff r i + 5) ++ need (zeroAt r (strOff r i + 18) 6) (strOff r i + 18)) ++
  (List.range (rRests r)).flatMap (fun i =>
    need (zeroAt r (restOff r i + 1) 1) (restOff r i + 1) ++ need (zeroAt r (restOff r i + 6) 2) (restOff r i + 6)) ++
  (List.range (rLives r)).flatMap (fun i =>
    let u := liveUses (field r (liveOff r i + 1) 1)
    need (zeroAt r (liveOff r i + 2) 2) (liveOff r i + 2) ++ need (zeroAt r (liveOff r i + 4 + u) (12 - u)) (liveOff r i + 4 + u))

/-- Row 2: footprint kinds, station entries, ranges and descriptor lists (BAD_FOOTPRINT). -/
def footFails (r : List Byte) : List Nat :=
  let cells := claimed r
  (List.range (rFootW r * rFootH r)).flatMap (fun i => need (decide (field r (secOff r 0 + i) 1 ≤ 5)) (secOff r 0 + i)) ++
  need (decide (cells.length = rStations r)) 20 ++
  (List.range (rStations r)).flatMap (fun i =>
    let o := stnOff r i
    let p := nth (0, 0) cells i
    let k := footKind r p.1 p.2
    let sh := decide (k = 2)
    let df := field r (o + 4) 4
    let db := field r (o + 8) 4
    let cf := field r (o + 12) 4
    let cb := field r (o + 16) 4
    need (decide (field r o 1 = p.1)) o ++ need (decide (field r (o + 1) 1 = p.2)) (o + 1) ++
    need (decide (field r (o + 2) 1 = k)) (o + 2) ++
    need (decide (field r (o + 3) 1 ≤ (if k = 4 ∨ k = 5 then 0 else 3))) (o + 3) ++
    need (decide (df % 64 = 0 ∧ df ≤ secSize r 2)) (o + 4) ++
    need (decide (db % 64 = 0 ∧ df + db ≤ secSize r 2 ∧ (k = 5 → db = 0))) (o + 8) ++
    need (decide (if k = 2 then cf % 256 = 0 ∧ cf ≤ secSize r 3 else cf = 0)) (o + 12) ++
    need (decide (if k = 2 then cb % 8 = 0 ∧ cb ≤ 65536 ∧ cf + cb ≤ secSize r 3 else cb = 0)) (o + 16) ++
    need (if sh then shConfigOk (field r (o + 20) 4) (field r (o + 3) 1) else decide (field r (o + 20) 4 = 0)) (o + 20) ++
    need (decide (wholeBytes r i = (descBytes r i).length)) (secOff r 2 + df + wholeBytes r i))

/-- A stream's ends are ports or engines valid for their cells' kinds (R47, R67). -/
def srcPortOk (k p : Nat) : Bool := decide ((1 ≤ k ∧ k ≤ 3 ∧ p ≤ 7) ∨ (k = 4 ∧ 8 ≤ p ∧ p ≤ 11))
def sinkPortOk (k p : Nat) : Bool := decide ((1 ≤ k ∧ k ≤ 3 ∧ p ≤ 7) ∨ (k = 4 ∧ 12 ≤ p ∧ p ≤ 15))

/-- Earlier stream ends at the same port or engine as (cell, port). -/
def endsBefore (r : List Byte) (i cell port : Nat) : Nat :=
  sumNat ((List.range i).map (fun j =>
    b2n (decide (field r (strOff r j) 1 = cell ∧ field r (strOff r j + 1) 1 = port)) +
    b2n (decide (field r (strOff r j + 2) 1 = cell ∧ field r (strOff r j + 3) 1 = port))))

/-- R48: a port has one stream, an engine 16. -/
def portRoom (n port : Nat) : Bool := decide (n < (if port < 8 then 1 else 16))

/-- Place of a station entry's cell. -/
def cellPos (r : List Byte) (i : Nat) : Nat × Nat := (field r (stnOff r i) 1, field r (stnOff r i + 1) 1)

/-- Row 3: routes and endpoints (BAD_ROUTE). Of two ends of streams at one port the later entry's PORT is taken to fail, and
set bits of ROUTE past HOPS links (R67) are taken as a fault of the route. [DESIGN CHOICE, log entry 128] -/
def routeFails (r : List Byte) : List Nat :=
  (List.range (rStreams r)).flatMap (fun i =>
    let o := strOff r i
    let e := strEntry r i
    let cells := routeCells (rFootW r) (rFootH r) e.route e.hops 0 (cellPos r e.srcCell)
    let twice := decide (e.srcCell = e.sinkCell ∧ e.srcPort = e.sinkPort)
    need (decide (e.srcCell < rStations r)) o ++
    need (srcPortOk (cellKind r e.srcCell) e.srcPort && portRoom (endsBefore r i e.srcCell e.srcPort) e.srcPort) (o + 1) ++
    need (decide (e.sinkCell < rStations r)) (o + 2) ++
    need (sinkPortOk (cellKind r e.sinkCell) e.sinkPort && portRoom (endsBefore r i e.sinkCell e.sinkPort) e.sinkPort && !twice) (o + 3) ++
    need (decide (1 ≤ e.hops ∧ e.hops ≤ 32)) (o + 4) ++
    need (decide (e.route / 4 ^ e.hops = 0 ∧ cells.length = e.hops + 1 ∧ cells.getLast? = some (cellPos r e.sinkCell)) &&
      cells.all (fun p => decide (footKind r p.1 p.2 ≠ 0))) (o + 8))

/-- Row 4: slots, phases and R58 at every origin column where the footprint can land (SLOT_CONFLICT). Of two streams that
clash the later entry's SLOT_MASK is taken to fail. [DESIGN CHOICE, log entry 128] -/
def slotFails (r : List Byte) : List Nat :=
  let cols := (List.range 14).filter (columnFits r)
  let es := (List.range (rStreams r)).map (fun i => (strEntry r i, cellPos r (strEntry r i).srcCell))
  (List.range (rStreams r)).flatMap (fun i =>
    let e := nth ((strEntry r i), (0, 0)) es i
    let clash := cols.any (fun x => (es.take i).any (fun f => streamsClash x (rFootW r) (rFootH r) (rPeriod r) f e))
    need (!bitOf e.1.slotMask 0 && !clash) (strOff r i + 16) ++
    need (decide (e.1.phaseMask < 2 ^ rPeriod r)) (strOff r i + 24))

/-- Bytes a live-set entry counts (R70, R196, R251). -/
def liveSize (cfg : Nat) (e : LiveEntry) : Nat :=
  if e.ty = 1 ∨ e.ty = 3 then e.b
  else if e.ty = 2 then 16384 * popCount 16 e.a
  else if e.ty = 4 then popCount 64 e.a * (128 * shNreg cfg + 256)
  else 401408

/-- A live-set range of `n` bytes of a store: OFFSET and LENGTH are multiples of 64 within it (R70). -/
def rangeFails (e : LiveEntry) (n o : Nat) : List Nat :=
  need (decide (e.a % 64 = 0 ∧ e.a ≤ n)) (o + 4) ++ need (decide (e.b % 64 = 0 ∧ (e.a ≤ n → e.a + e.b ≤ n))) (o + 8)

/-- Fields of a live-set entry at offset `o` that are not valid for its station (R70, R196). -/
def liveFails (r : List Byte) (e : LiveEntry) (o : Nat) : List Nat :=
  let k := cellKind r e.cell
  let split := field r (stnOff r e.cell + 3) 1
  let cfg := field r (stnOff r e.cell + 20) 4
  if rStations r ≤ e.cell then [o]
  else if e.ty = 1 then need (decide (1 ≤ k ∧ k ≤ 3)) (o + 1) ++ rangeFails e (scratchBytes k split) o
  else if e.ty = 2 then need (decide (k = 1)) (o + 1)
  else if e.ty = 3 then need (decide (k = 1)) (o + 1) ++ rangeFails e 65536 o
  else if e.ty = 4 then need (decide (k = 2)) (o + 1) ++ need ((bitsSet 64 e.a).all (fun g => decide (g ∈ residents cfg))) (o + 4)
  else if e.ty = 5 then need (decide (k = 3)) (o + 1)
  else [o + 1]

/-- Row 5: rest points, descriptor headers and live sets (BAD_REST). A RUN_BOUND of 0 (R69) is taken as a fault of its rest
point. [DESIGN CHOICE, log entry 128] -/
def restFails (r : List Byte) : List Nat :=
  let rests := (List.range (rRests r)).map (restEntry r)
  let lives := (List.range (rLives r)).map (liveEntry r)
  (List.range (rRests r)).flatMap (fun i =>
    let o := restOff r i
    let e := restEntry r i
    let size := sumNat (((lives.drop e.liveFirst).take e.liveCount).map (fun l => liveSize (field r (stnOff r l.cell + 20) 4) l))
    need (decide (e.id ≠ 0 ∧ (rests.take i).all (fun f => decide (f.id < e.id)))) o ++
    need (decide (e.liveFirst ≤ rLives r)) (o + 2) ++ need (decide (e.liveFirst + e.liveCount ≤ rLives r)) (o + 4) ++
    need (decide (1 ≤ e.runBound)) (o + 8) ++ need (decide (e.liveBytes = size)) (o + 12)) ++
  (List.range (rStations r)).flatMap (fun i => (descList r i).flatMap (fun d =>
    let o := descAt r i d
    need (!(dRestAfter d.2 && decide (cellKind r i = 2))) (o + 1) ++
    need (if dRestAfter d.2 then rests.any (fun e => decide (e.id = dRestId d.2)) else decide (dRestId d.2 = 0)) (o + 2))) ++
  (List.range (rLives r)).flatMap (fun i => liveFails r (liveEntry r i) (liveOff r i))

/-- R87: the first row that fails, with its status and the lowest failing offset; none for a sound Recipe. -/
def recipeFault (r : List Byte) (size : Nat) : Option (Nat × Nat) :=
  let low := fun l : List Nat => l.foldl min (l.headD 0)
  let h := headFails r size
  if ¬ h.isEmpty then some (stBadRecipe, low h)
  else
    let f := footFails r
    if ¬ f.isEmpty then some (stBadFootprint, low f)
    else
      let t := routeFails r
      if ¬ t.isEmpty then some (stBadRoute, low t)
      else
        let l := slotFails r
        if ¬ l.isEmpty then some (stSlotConflict, low l)
        else
          let e := restFails r
          if e.isEmpty then none else some (stBadRest, low e)

/-! ### Commands -/

/-- The loaded Recipe that a context holds under an ID. -/
def recipeOf (s : State) (c id : Nat) : Option (Nat × Recipe) :=
  match (ctxOf s c).bind (fun x => tget? x.recipes id) with
  | some k => (tget? s.sch.recipes k).map (fun r => (k, r))
  | none => none

/-- RECIPE_LOAD (R87, R406). It waits while accepted reductions of its source are still to be applied. -/
def recipeLoadS (u : Queue) (c : TakenCmd) (s : State) : State :=
  let src := par c 0 8
  let n := par c 8 4
  let fin := fun st => finishCmd u.num c.seq st 0 s
  match ctxOf s c.ctx with
  | none => fin stBadParam
  | some x =>
    if n = 0 ∨ n % 64 ≠ 0 ∨ 67108864 < n then fin stBadParam
    else if 256 ≤ x.recipes.length then fin stRecipeLimit
    else
      match ctxReadRefusal s c.ctx src n (.cmd u.num c.seq) with
      | some st => fin st
      | none =>
        if ctxBusy s c.ctx src n then s
        else
          let r := ctxRead s c.ctx src n
          match recipeFault r n with
          | some (st, o) => finishCmd u.num c.seq st o s
          | none =>
            let id := lowestFree (tkeys x.recipes) 257 1
            let k := s.sch.nextKey
            let s := setCtx c.ctx (fun x => { x with recipes := tput x.recipes id k }) s
            finishCmd u.num c.seq stOk id { s with sch := { s.sch with
              recipes := tput s.sch.recipes k (parseRecipe c.ctx r), nextKey := k + 1 } }

def execRecipeLoad (q seq : Nat) (s : State) : Out := cmdOut 0x0301 q seq recipeLoadS s

/-- RECIPE_UNLOAD: refused with BUSY while a launch of the Recipe runs. -/
def recipeUnloadS (u : Queue) (c : TakenCmd) (s : State) : State :=
  let id := par c 0 2
  match recipeOf s c.ctx id with
  | none => finishCmd u.num c.seq stBadParam 0 s
  | some (k, _) =>
    if s.sch.launches.any (fun e => decide (e.2.recipe = k)) then finishCmd u.num c.seq stBusy 0 s
    else
      let s := setCtx c.ctx (fun x => { x with recipes := tdel x.recipes id }) s
      finishCmd u.num c.seq stOk 0 { s with sch := { s.sch with recipes := tdel s.sch.recipes k } }

def execRecipeUnload (q seq : Nat) (s : State) : Out := cmdOut 0x0303 q seq recipeUnloadS s

end Sys2Proof.Machine
end

