-- ==== Sys2Proof/Machine/RoutePlan.lean ====
section
/-! DEFINITION. Route plans of the Piper (R154-R159): layout, role references and the checks made when the last
launch of a plan is placed. -/

namespace Sys2Proof.Machine

/-! ### Header fields (R156) -/

def plLaunches (p : List Byte) : Nat := field p 4 1
def plTopK (p : List Byte) : Nat := field p 5 1
def plExperts (p : List Byte) : Nat := field p 6 2
def plGateMode (p : List Byte) : Nat := field p 8 1
def plPolicy (p : List Byte) : Nat := field p 9 1
def plOverSpill (p : List Byte) : Bool := bitOf (plPolicy p) 0
def plCapSplit (p : List Byte) : Bool := bitOf (plPolicy p) 1
def plCombineSum (p : List Byte) : Bool := bitOf (plPolicy p) 2
def plInFmt (p : List Byte) : Nat := field p 10 1
def plOutFmt (p : List Byte) : Nat := field p 11 1
def plInElems (p : List Byte) : Nat := field p 12 2
def plOutElems (p : List Byte) : Nat := field p 14 2
def plTokens (p : List Byte) : Nat := field p 16 4
def plCapacity (p : List Byte) : Nat := field p 20 4
def plRouters (p : List Byte) : Nat := field p 24 2
def plTimeoutMs (p : List Byte) : Nat := field p 26 2
def plDispatchSem (p : List Byte) : Nat := field p 32 8
def plCombineBase (p : List Byte) : Nat := field p 40 8
def plCombineSem (p : List Byte) : Nat := field p 48 8
def plSpillBase (p : List Byte) : Nat := field p 56 8
def plSpillCap (p : List Byte) : Nat := field p 64 4
def plLoadBase (p : List Byte) : Nat := field p 72 8

/-- IN_PITCH, OUT_PITCH, BLOCKS, SLOT_BYTES and LOGIT_PITCH. -/
def plInPitch (p : List Byte) : Nat := roundUp (rowBytes (plInFmt p) (plInElems p)) 64
def plOutPitch (p : List Byte) : Nat := roundUp (rowBytes (plOutFmt p) (plOutElems p)) 64
def plBlocks (p : List Byte) : Nat := ceilDiv (plCapacity p) 64
def plSlotBytes (p : List Byte) : Nat := 64 * plInPitch p + 512
def plLogitPitch (p : List Byte) : Nat := roundUp (plExperts p * 4) 64

/-- Bytes of a plan. -/
def planSize (p : List Byte) : Nat := 128 + 32 * plRouters p + 128 * plExperts p

/-! ### Entries (R157, R158) -/

def rtOff (r : Nat) : Nat := 128 + 32 * r
def exOff (p : List Byte) (e : Nat) : Nat := 128 + 32 * plRouters p + 128 * e

def rtRole (p : List Byte) (r : Nat) : Nat := field p (rtOff r) 4
def rtRing (p : List Byte) (r : Nat) : Nat := field p (rtOff r + 4) 1
def rtBiasVreg (p : List Byte) (r : Nat) : Nat := field p (rtOff r + 5) 1
def rtBiasOn (p : List Byte) (r : Nat) : Nat := field p (rtOff r + 6) 1
def rtLogits (p : List Byte) (r : Nat) : Nat := field p (rtOff r + 8) 4
def rtTokens (p : List Byte) (r : Nat) : Nat := field p (rtOff r + 12) 4
def rtFirst (p : List Byte) (r : Nat) : Nat := field p (rtOff r + 16) 4
def rtCount (p : List Byte) (r : Nat) : Nat := field p (rtOff r + 20) 4

def exKind (p : List Byte) (e : Nat) : Nat := field p (exOff p e) 1
def exDests (p : List Byte) (e : Nat) : Nat := field p (exOff p e + 1) 1
def exRet (p : List Byte) (e : Nat) : Nat := field p (exOff p e + 2) 1
def exSlots (p : List Byte) (e : Nat) : Nat := field p (exOff p e + 3) 1
def exGateVreg (p : List Byte) (e : Nat) : Nat := field p (exOff p e + 4) 1
def exRx (p : List Byte) (e : Nat) : Nat := field p (exOff p e + 8) 4
def exArrive (p : List Byte) (e : Nat) : Nat := field p (exOff p e + 16) 8
def exResultSem (p : List Byte) (e : Nat) : Nat := field p (exOff p e + 24) 8
def exResultBase (p : List Byte) (e : Nat) : Nat := field p (exOff p e + 32) 8
def exPacker (p : List Byte) (e : Nat) : Nat := field p (exOff p e + 40) 4
def exWindow (p : List Byte) (e : Nat) : Nat := field p (exOff p e + 44) 2
def exResultWindow (p : List Byte) (e : Nat) : Nat := field p (exOff p e + 46) 2
def exWindowOff (p : List Byte) (e : Nat) : Nat := field p (exOff p e + 48) 8
def exCounter (p : List Byte) (e : Nat) : Nat := field p (exOff p e + 56) 1
def exDest (p : List Byte) (e i : Nat) : Nat := field p (exOff p e + 64 + 4 * i) 4

/-- Experts whose KIND is not 0. -/
def liveExperts (p : List Byte) : List Nat := (List.range (plExperts p)).filter (fun e => decide (exKind p e ≠ 0))

/-! ### Roles (R155) -/

/-- The station that a role reference names in a plan held by `ls`: launch number, cell index and instance. -/
def roleStn (s : State) (ls : List Nat) (role : Nat) : Option Nat :=
  match ls[role % 256]? with
  | none => none
  | some k => (s.sch.stns.find? (fun e =>
      decide (e.2.launch = k ∧ e.2.cell = role / 256 % 256 ∧ e.2.inst = role / 65536))).map (·.1)

/-- The launch and station entry that a role reference names, placed or saved: launch number, cell index and instance. -/
def roleEntry (s : State) (ls : List Nat) (role : Nat) : Option (Launch × StnEntry) :=
  match (ls[role % 256]?).bind (fun k => tget? s.sch.launches k) with
  | none => none
  | some l =>
    if l.count ≤ role / 65536 then none
    else ((tget? s.sch.recipes l.recipe).bind (fun r => r.stations[role / 256 % 256]?)).map (fun e => (l, e))

/-- The role reference names an MX station of the plan's launches. -/
def roleOk (s : State) (ls : List Nat) (role : Nat) : Bool :=
  ((roleEntry s ls role).map (fun e => decide (e.2.kind = 1))).getD false

/-- Bytes `lo` to `lo + n` lie in the scratchpad part of a role's station. -/
def roleRange (s : State) (ls : List Nat) (role lo n : Nat) : Bool :=
  ((roleEntry s ls role).map (fun e => decide (lo + n ≤ scratchBytes e.2.kind e.2.split))).getD false

/-- Die of a role's station: the one that its instance has, or had when it was last placed. -/
def roleDie (s : State) (ls : List Nat) (role : Nat) : Nat :=
  ((roleEntry s ls role).bind (fun e => (e.1.insts[role / 65536]?).map (·.part))).getD 0

/-! ### Checks (R159) -/

/-- Header fields in their ranges. -/
def plHeaderOk (p : List Byte) : Bool :=
  let fmtOk := fun c : Nat => decide (1 ≤ c ∧ c ≤ 10)
  decide (field p 0 4 = 0x5052524B ∧ 1 ≤ plLaunches p ∧ plLaunches p ≤ 4 ∧ 1 ≤ plTopK p ∧ plTopK p ≤ 8 ∧
    1 ≤ plExperts p ∧ plExperts p ≤ 256 ∧ plGateMode p < 8 ∧ plPolicy p < 8) &&
  fmtOk (plInFmt p) && fmtOk (plOutFmt p) && (!plCombineSum p || decide (plOutFmt p = 8 ∨ plOutFmt p = 10)) &&
  decide (32 ≤ plInElems p ∧ plInElems p ≤ 16384 ∧ plInElems p % 32 = 0 ∧
    32 ≤ plOutElems p ∧ plOutElems p ≤ 16384 ∧ plOutElems p % 32 = 0 ∧ 1 ≤ plTokens p ∧ plTokens p ≤ 16777216 ∧
    1 ≤ plCapacity p ∧ plCapacity p ≤ 65536 ∧ 1 ≤ plRouters p ∧ plRouters p ≤ 256 ∧
    1 ≤ plTimeoutMs p ∧ plTimeoutMs p ≤ 60000 ∧ plSpillCap p ≤ 1048576) &&
  zeroAt p 28 4 && zeroAt p 68 4 && zeroAt p 80 48 && (plOverSpill p || decide (plSpillBase p = 0)) &&
  decide (plDispatchSem p % 8 = 0 ∧ plCombineSem p % 8 = 0 ∧ plTopK p ≤ (liveExperts p).length)

/-- Router entries in their ranges, their tokens disjoint and TOKENS in all. -/
def plRoutersOk (s : State) (ls : List Nat) (p : List Byte) : Bool :=
  let rs := List.range (plRouters p)
  rs.all (fun r =>
    decide (1 ≤ rtRing p r ∧ rtRing p r ≤ 4 ∧ rtBiasOn p r ≤ 1) && zeroAt p (rtOff r + 7) 1 && zeroAt p (rtOff r + 24) 8 &&
    roleOk s ls (rtRole p r) && roleRange s ls (rtRole p r) (rtLogits p r) (rtRing p r * 64 * plLogitPitch p) &&
    roleRange s ls (rtRole p r) (rtTokens p r) (rtRing p r * 64 * plInPitch p) &&
    (List.range r).all (fun q => decide (rtRole p q ≠ rtRole p r) &&
      !overlaps (rtFirst p r) (rtCount p r) (rtFirst p q, rtCount p q))) &&
  decide (sumNat (rs.map (rtCount p)) = plTokens p)

/-- Expert entries in their ranges. -/
def plExpertsOk (s : State) (ls : List Nat) (p : List Byte) : Bool :=
  (List.range (plExperts p)).all (fun e =>
    let k := exKind p e
    let n := exDests p e
    decide (k ≤ 2 ∧ (if k = 1 then 1 ≤ n ∧ n ≤ 8 else n = 0) ∧ (if k = 1 then exRet p e < n else exRet p e = 0)) &&
    decide (1 ≤ exSlots p e ∧ exSlots p e ≤ 4 ∧ exCounter p e ≤ 15) && decide (k = 2 ∨ exPacker p e = 0) &&
    decide (exArrive p e % 8 = 0 ∧ exResultSem p e % 8 = 0) &&
    decide (k ≠ 2 ∨ (exWindow p e ≤ 4095 ∧ exResultWindow p e ≤ 255)) &&
    zeroAt p (exOff p e + 5) 3 && zeroAt p (exOff p e + 12) 4 && zeroAt p (exOff p e + 57) 7 &&
    zeroAt p (exOff p e + 96) 32 && zeroAt p (exOff p e + 64 + 4 * n) (32 - 4 * n) &&
    (List.range n).all (fun i => roleOk s ls (exDest p e i) &&
      roleRange s ls (exDest p e i) (exRx p e) (exSlots p e * plSlotBytes p)) &&
    (decide (k ≠ 2) || roleOk s ls (exPacker p e)))

/-- R159 on a plan read from memory, held by the launches `ls`. -/
def planOk (s : State) (ls : List Nat) (p : List Byte) : Bool :=
  plHeaderOk p && plRoutersOk s ls p && plExpertsOk s ls p

/-- The plan's bytes lie within one extent of the context, 64-byte aligned. -/
def planMapped (s : State) (c a n : Nat) : Bool :=
  decide (a % 64 = 0) &&
  (match findMap s c a with
   | some (m, x) => decide (a + n ≤ m.start + x.length)
   | none => false)

/-- The plan of a context at an address: key and record. -/
def planAt (s : State) (c a : Nat) : Option (Nat × Plan) :=
  s.pip.plans.find? (fun e => decide (e.2.ctx = c ∧ e.2.addr = a))

/-- A counter's value (R377). -/
def counterVal (s : State) (w c : Nat) : Nat := tget 0 s.xt.counters (16 * w + c)

/-- A release is a hand-over of the plan: by a router to DISPATCH_SEM, or of 1 by a returner to its RESULT_SEM (R160, R174). [DEDUCED, log entry 86] -/
def isHandOver (s : State) (ls : List Nat) (p : List Byte) (n a v : Nat) : Bool :=
  (decide (a = plDispatchSem p) && (List.range (plRouters p)).any (fun r => decide (roleStn s ls (rtRole p r) = some n))) ||
  (decide (v = 1) && (List.range (plExperts p)).any (fun e =>
    decide (exKind p e = 1 ∧ exResultSem p e = a ∧ roleStn s ls (exDest p e (exRet p e)) = some n)))

/-- An activated plan: its bytes, the hand-overs among the releases made before, and the result counters' values now
(R154, R179). -/
def activate (s : State) (p : List Byte) (pl : Plan) : Plan :=
  { pl with
    bytes := some p,
    waiting := pl.waiting.filter (fun e => isHandOver s pl.launches p e.1 e.2.1 e.2.2),
    base := (liveExperts p).foldl (fun t e =>
      if exKind p e = 2 then tset 0 t e (counterVal s (exResultWindow p e) (exCounter p e)) else t) [] }

/-- A launch whose stations are claimed joins its route plan; none where R159 refuses it. -/
def joinPlan (k c a : Nat) (s : State) : Option State :=
  let head := ctxRead s c a 128
  let n := plLaunches head
  let cur := planAt s c a
  let ls := ((cur.map (fun e => e.2.launches)).getD []) ++ [k]
  let key := (cur.map (·.1)).getD (lowestFree (tkeys s.pip.plans) (s.pip.plans.length + 1) 1)
  let pl : Plan := ((cur.map (·.2)).getD { ctx := c, addr := a, launches := [], total := n, bytes := none })
  if ¬ planMapped s c a 128 ∨ n = 0 ∨ 4 < n ∨ pl.total ≠ n ∨ n < ls.length then none
  else
    let put := fun pl : Plan => some { s with pip := { s.pip with plans := tput s.pip.plans key { pl with launches := ls } } }
    if ls.length < n then put pl
    else
      let p := ctxRead s c a (planSize head)
      if planMapped s c a (planSize head) ∧ planOk s ls p then put (activate s p { pl with launches := ls }) else none

end Sys2Proof.Machine
end

