-- ==== Sys2Proof/Machine/Sched.lean ====
section
/-! DEFINITION. Scheduling (R77-R81, R409-R430): launches and their placement, service counts and time slices,
victims, overrun, rest points, saving and restoring, completion, histograms and telemetry (R140, R146, R407). -/

namespace Sys2Proof.Machine

/-! ### Guards -/

/-- Acts only while the module is up and neither TRAY_STOP_N nor the brake has stopped stations and engines (R537, R641). [DESIGN CHOICE, log entry 4] -/
def ifRun (f : State → State) (s : State) : Out :=
  .next (if s.pwr.phase = .ready ∧ ¬ issueHeld s then f s else s)

/-- Acts on a taken command of opcode `op` that has not started (a LAUNCH asks for placement so). -/
def cmdTaken (op q seq : Nat) (f : Queue → TakenCmd → State → State) (s : State) : State :=
  match tget? s.cmd.queues q with
  | none => s
  | some u =>
    match u.cmds.find? (fun c => decide (c.seq = seq)) with
    | none => s
    | some c => if c.op = op ∧ c.phase = .taken then f u c s else s

/-! ### Placement (R77-R81) -/

/-- Claimed cells of a Recipe: (column, row, kind). -/
def footCells (r : Recipe) : List (Nat × Nat × Nat) := r.stations.map (fun e => (e.fx, e.fy, e.kind))

/-- A station belongs to the slice and may be used for placement: not being taken away (R451). -/
def inSlice (s : State) (n stn : Nat) : Bool :=
  bitOf (sliceMask s n (stnPart stn)) (stn % 168) &&
  !decide (stn ∈ ((tget? s.ten.slices n).map (·.leaving)).getD [])

/-- A footprint fits at an origin where every claimed cell lies on a station that `ok` and is of its kind. -/
def fitsAt (ok : Nat → Bool) (cells : List (Nat × Nat × Nat)) (p y x : Nat) : Bool :=
  cells.all (fun c =>
    let n := stnAt p (y + c.2.1) (x + c.1)
    ok n && decide (c.2.2 = 5 ∨ stnKind n = c.2.2))

/-- Stations of a footprint at an origin. -/
def footStns (cells : List (Nat × Nat × Nat)) (o : Nat × Nat × Nat) : List Nat :=
  cells.map (fun c => stnAt o.1 (o.2.1 + c.2.1) (o.2.2 + c.1))

/-- Every origin in scan order (R78): partitions from the home partition, rows from the north, columns from the west. -/
def origins (r : Recipe) (home : Nat) : List (Nat × Nat × Nat) :=
  (List.range 10).flatMap (fun k => (List.range (13 - r.footH)).flatMap (fun y =>
    (List.range (15 - r.footW)).map (fun x => ((home + k) % 10, y, x))))

/-- Places `n` instances one after another by first fit; none where one does not fit. -/
def placeGo (ok : Nat → Bool) (r : Recipe) (home : Nat) : Nat → List Nat → Option (List (Nat × Nat × Nat))
  | 0, _ => some []
  | n + 1, taken =>
    match (origins r home).find? (fun o => fitsAt (fun m => ok m && !decide (m ∈ taken)) (footCells r) o.1 o.2.1 o.2.2) with
    | none => none
    | some o => (placeGo ok r home n (footStns (footCells r) o ++ taken)).map (o :: ·)

/-- `place` of R78 for a launch, with the stations of some launches counted free. A fenced partition takes none. [DEDUCED, log entry 115] -/
def placeFor (s : State) (l : Launch) (r : Recipe) (freed : List Nat) : Option (List (Nat × Nat × Nat)) :=
  placeGo (fun m => inSlice s l.slice m && !decide (stnPart m ∈ s.seam.fenced) &&
    (match stnOf s m with
     | some x => decide (x.launch ∈ freed)
     | none => true)) r l.homePart l.count []

/-- The instances would fit with every station of the slice free (R80). -/
def everFits (s : State) (l : Launch) (r : Recipe) : Bool :=
  (placeGo (fun m => inSlice s l.slice m && !decide (stnPart m ∈ s.seam.absent)) r l.homePart l.count []).isSome

/-- A pre-empted launch's positions: still of the slice, and all free (R423). -/
def oldStns (l : Launch) (r : Recipe) : List Nat :=
  (l.insts.filter (fun i => decide (i.ph ≠ .complete))).flatMap (fun i => footStns (footCells r) (i.part, i.y, i.x))
def oldInSlice (s : State) (l : Launch) (r : Recipe) : Bool := (oldStns l r).all (inSlice s l.slice)
def oldFree (s : State) (l : Launch) (r : Recipe) (freed : List Nat) : Bool :=
  (oldStns l r).all (fun n => !decide (stnPart n ∈ s.seam.fenced) &&
    (match stnOf s n with
     | some x => decide (x.launch ∈ freed)
     | none => true))

/-- A waiting launch can be placed with some launches' stations counted free. -/
def canPlace (s : State) (l : Launch) (freed : List Nat) : Bool :=
  match tget? s.sch.recipes l.recipe with
  | none => false
  | some r =>
    if l.ph = .preempted ∧ oldInSlice s l r then oldFree s l r freed
    else if l.ph = .preempted then
      (placeFor s { l with count := (l.insts.filter (fun i => decide (i.ph ≠ .complete))).length } r freed).isSome
    else (placeFor s l r freed).isSome

/-! ### Order of contexts (R409, R412) -/

/-- Stations that a context's launches hold. -/
def heldStations (s : State) (c : Nat) : Nat := (s.sch.stns.filter (fun e => decide (e.2.ctx = c))).length

/-- The launch waits for placement. -/
def waits (l : Launch) : Bool := decide (l.ph = .waiting ∨ l.ph = .preempted)

/-- Launch `a` is tried for placement before `b` (R77). [DEDUCED, log entry 23] -/
def before (s : State) (a b : Launch) : Bool :=
  let ca := ctxClass s a.ctx
  let cb := ctxClass s b.ctx
  let sa := ctxService s a.ctx
  let sb := ctxService s b.ctx
  decide (ca < cb ∨ (ca = cb ∧ (sa < sb ∨ (sa = sb ∧ a.order < b.order))))

/-- R591: a context suspended by damage places no launch. -/
def damageHeld (s : State) (c : Nat) : Bool :=
  match ctxOf s c with
  | some x => (x.unresolved ++ x.waiting.map (·.1)).any (fun b => b.recs.any (fun r => decide (r.cause = 5)))
  | none => false

/-! ### Victims (R411, R416, R417) -/

/-- Inserts by R417's order: class, greatest first, then service count, highest first; equals keep their order. -/
def insVictim (s : State) (e : Nat × Launch) : List (Nat × Launch) → List (Nat × Launch)
  | [] => [e]
  | f :: r =>
    let a := ctxClass s e.2.ctx
    let b := ctxClass s f.2.ctx
    if b < a ∨ (a = b ∧ ctxService s f.2.ctx < ctxService s e.2.ctx) then e :: f :: r else f :: insVictim s e r

/-- Candidates for a waiting launch: running launches of its slice of a greater class, and those of its own class
whose context's time slice has ended with a higher service count. -/
def candidates (s : State) (w : Launch) : List (Nat × Launch) :=
  let ls := s.sch.launches.filter (fun e => decide (e.2.slice = w.slice ∧ (e.2.ph = .running ∨ e.2.ph = .leaving)) &&
    (decide (ctxClass s w.ctx < ctxClass s e.2.ctx) ||
     (decide (ctxClass s w.ctx = ctxClass s e.2.ctx ∧ ctxService s w.ctx < ctxService s e.2.ctx) &&
      ((ctxOf s e.2.ctx).map (·.sliceEnded)).getD false)))
  ls.foldr (insVictim s) []

/-- Adds candidates until the launch fits. -/
def growVictims (s : State) (w : Launch) : List (Nat × Launch) → List Nat → List Nat
  | [], v => v
  | e :: r, v => if canPlace s w v then v else growVictims s w r (v ++ [e.1])

/-- Drops victims that were not needed, last chosen first. -/
def pruneVictims (s : State) (w : Launch) (v : List Nat) : List Nat :=
  v.reverse.foldl (fun l k => if canPlace s w (l.filter (fun x => !decide (x = k))) then l.filter (fun x => !decide (x = k)) else l) v

/-- choose_victims of R417: none where the launch keeps waiting. [DEDUCED, log entry 23] -/
def chooseVictims (s : State) (w : Launch) : Option (List Nat) :=
  let v := growVictims s w (candidates s w) []
  if canPlace s w v then some (pruneVictims s w v) else none

/-- Stations of an instance that mark rest points, with their numbers. -/
def instStns (s : State) (k i : Nat) : List (Nat × Stn) :=
  s.sch.stns.filter (fun e => decide (e.2.launch = k ∧ e.2.inst = i ∧ e.2.kind ≠ 5))

/-- A station's descriptor list has ended. -/
def listEnded (x : Stn) : Bool := decide (x.descs.length ≤ x.next) && x.works.isEmpty && x.runIdx.isNone

/-- The rest point that every station of the instance but the pass-through ones has marked (R71). -/
def allMarked (s : State) (k i : Nat) : Option Nat :=
  match instStns s k i with
  | [] => none
  | e :: r => if e.2.marked ≠ 0 ∧ r.all (fun f => decide (f.2.marked = e.2.marked)) then some e.2.marked else none

/-- Partition held for a retraining window (R473). -/
def heldForRetrain (s : State) (p : Nat) : Bool :=
  match s.seam.holding with
  | some l => if l < 45 then decide ((linkEnds l).1 = p ∨ (linkEnds l).2 = p) else decide (stackPart (l - 256) = p)
  | none => false

/-- A retraining window waits for an instance of the context to hold (R473). -/
def retrainOut (s : State) (c : Nat) : Bool :=
  s.sch.launches.any (fun e => decide (e.2.ctx = c) && e.2.insts.any (fun i =>
    i.placed && decide (i.ph = .running) && heldForRetrain s i.part))

/-- The overrun of a context ends once every instance of its leaving launches, and every one that a retraining window
waits for, has reached its rest point or completed; one caused by the end of a time slice is debited (R419, R421, R473). [DEDUCED, log entry 24] -/
def endOverrun (c : Nat) (s : State) : State :=
  let out := s.sch.launches.any (fun e => decide (e.2.ctx = c ∧ e.2.ph = .leaving) &&
    e.2.insts.any (fun i => decide (i.ph = .running ∨ i.ph = .resting)))
  if out ∨ retrainOut s c then s
  else setCtx c (fun x => match x.overrun with
    | some us => { x with overrun := none, overrunDebits := false, debit := x.debit + (if x.overrunDebits then us else 0) }
    | none => x) s

/-- Asks for the pre-emption of launch `k` to make way for `w` (R418, R419): overrun begins, and an instance at a
rest point switches at once and adds no overrun (R422), unless a fault has taken its context to rung 1 (R86). -/
def requestPreempt (w : Nat) (debits : Bool) (k : Nat) (s : State) : State :=
  match tget? s.sch.launches k with
  | none => s
  | some l =>
    let s := setLaunch k (fun l => { l with
      ph := .leaving, victimOf := l.victimOf ++ [w],
      insts := l.insts.zipIdx.map (fun e => match allMarked s k e.2 with
        | some id => if e.1.ph = .resting ∧ ¬ batchOpen s l.ctx ∧ ¬ ctxStopping s l.ctx then { e.1 with ph := .saving, rest := id } else e.1
        | none => e.1) }) s
    let s := mergeFlags (fun _ y => decide (y.launch = k) && ((instOf s k y.inst).any (fun i => decide (i.ph = .saving)))) s
    if l.ph = .leaving then s
    else endOverrun l.ctx (setCtx l.ctx (fun x => { x with
      overrun := some (x.overrun.getD 0), overrunDebits := x.overrunDebits || debits }) s)

/-- A launch that waits and cannot be placed chooses its victims (R417). -/
def seekVictims (k : Nat) (s : State) : State :=
  match tget? s.sch.launches k with
  | none => s
  | some w =>
    if ¬ waits w ∨ canPlace s w [] then s
    else
      match chooseVictims s w with
      | none => s
      | some vs => vs.foldl (fun s v =>
          let same := match tget? s.sch.launches v with
            | some l => decide (ctxClass s l.ctx = ctxClass s w.ctx)
            | none => false
          requestPreempt k same v s) s

/-- An instance of a launch being pre-empted has begun to save. -/
def saveBegun (l : Launch) : Bool := l.insts.any (fun i => decide (i.ph = .saving ∨ i.ph = .saved))

/-- A waiting launch is withdrawn or placed elsewhere: launches that only made way for it go on, unless one of
their instances has begun to save; a time slice that had ended thus ends without a switch, and another begins (R415, R422). -/
def withdraw (w : Nat) (s : State) : State :=
  let drop := fun l : Launch =>
    if l.ph = .leaving then { l with victimOf := l.victimOf.filter (fun x => !decide (x = w)) } else l
  let s := { s with sch := { s.sch with launches := tmap s.sch.launches (fun _ l => drop l) } }
  s.sch.launches.foldl (fun s e =>
    if e.2.ph = .leaving ∧ e.2.victimOf.isEmpty ∧ ¬ saveBegun e.2 then
      let s := setLaunch e.1 (fun l => { l with ph := .running }) s
      if s.sch.launches.any (fun f => decide (f.2.ctx = e.2.ctx ∧ f.2.ph = .leaving)) ∨ retrainOut s e.2.ctx then s
      else setCtx e.2.ctx (fun x => { x with
        overrun := none, overrunDebits := false, sliceEnded := false,
        sliceAt := if x.sliceEnded then some (refOf s (ctxDie s e.2.ctx)) else x.sliceAt }) s
    else s) s

/-- Stations were released: waiting launches choose again, in the order of R77 of their arrival (R417). -/
def stationsFreed (s : State) : State :=
  ((s.sch.launches.filter (fun e => waits e.2)).map (·.1)).foldl (fun s k => seekVictims k s) s

/-! ### LAUNCH (R79-R81, R405, R406, R425, R575) -/

/-- Save-area granules of one instance: the largest LIVE_BYTES and 64 KiB of station records. -/
def saveAreaGrans (r : Recipe) : Nat := ceilDiv (maxNat (r.rests.map (·.liveBytes)) + 65536) 65536

/-- The lowest slot that any stream owns. -/
def lowestSlot (r : Recipe) : Nat :=
  ((r.streams.flatMap (fun e => bitsSet 16 e.slotMask)).foldl min 16)

/-- The context's service count when it starts to wait without stations (R414). -/
def raiseService (c : Nat) (s : State) : State :=
  if heldStations s c ≠ 0 then s
  else
    let peers := s.ten.ctxs.filter (fun e => decide (e.1 ≠ c ∧ e.2.slice = ctxSlice s c ∧ ctxClass s e.1 = ctxClass s c ∧ heldStations s e.1 ≠ 0))
    match peers.map (fun e => e.2.service) with
    | [] => s
    | a :: l => setCtx c (fun x => { x with service := max x.service (l.foldl min a) }) s

/-- A LAUNCH that passes its checks: its save areas are charged and it asks for placement. -/
def launchAsk (u : Queue) (c : TakenCmd) (k : Nat) (r : Recipe) (s : State) : State :=
  let fin := fun st => finishCmd u.num c.seq st 0 s
  let d := par c 28 1
  let l : Launch := {
    q := u.num, seq := c.seq, ctx := c.ctx, slice := ctxSlice s c.ctx, recipe := k, recipeId := par c 24 2,
    d := (if d = 0 then 3 else d), count := par c 26 2, plan := par c 0 8, hist := par c 8 8, telem := par c 16 8,
    homePart := u.homePart, noWait := bitOf c.flags 2, ph := .waiting, order := s.sch.order + 1, insts := [],
    saveGrans := saveAreaGrans r, victimOf := [] }
  if lowestSlot r ≤ l.d then fin stSlotConflict
  else if quotaGrans s l.slice < usedQuota s l.slice + l.saveGrans * l.count then fin stMemQuota
  else if ¬ everFits s l r then fin stPlaceNoFit
  else if l.noWait ∧ ¬ canPlace s l [] then fin stPlaceNoFit
  else
    let key := s.sch.nextKey
    let s := { s with sch := { s.sch with
      launches := tput s.sch.launches key l, nextKey := key + 1, order := s.sch.order + 1 } }
    seekVictims key (if canPlace s l [] then s else raiseService c.ctx s)

/-- LAUNCH, once taken. -/
def launchS (u : Queue) (c : TakenCmd) (s : State) : State :=
  let d := par c 28 1
  let fin := fun st => finishCmd u.num c.seq st 0 s
  if (launchOf s u.num c.seq).isSome then s
  else
    match recipeOf s c.ctx (par c 24 2) with
    | none => fin stBadParam
    | some (k, r) =>
      if par c 26 2 = 0 ∨ par c 8 8 % 64 ≠ 0 ∨ d = 1 ∨ 8 < d then fin stBadParam
      else if ¬ recipePermitted s r (ctxSets s c.ctx) then fin stSealPolicy
      else launchAsk u c k r s

def execLaunch (q seq : Nat) (s : State) : Out := ifUp (cmdTaken 0x0304 q seq launchS) s

/-! ### PLACEMENT -/

/-- Stacks for a save area on partition `p`: its own, then the other partitions' nearest first (R425). -/
def areaStacks (p i : Nat) : List Nat :=
  let near := (List.range 6).flatMap (fun h => (List.range 10).filter (fun q => decide (q ≠ p ∧ hops p q = h)))
  [2 * p + i % 2, 2 * p + (1 - i % 2)] ++ near.flatMap (fun q => [2 * q, 2 * q + 1])

/-- Takes `n` save-area granules for an instance on partition `p`. -/
def takeArea (s : State) (p : Nat) : Nat → List (Nat × Nat) → List Nat → List (Nat × Nat)
  | 0, acc, _ => acc
  | n + 1, acc, hints =>
    let got := (areaStacks p n).findSome? (fun k =>
      if stackFit s k then (pickGran s k ((acc.filter (fun e => decide (e.1 = k))).map (·.2)) (hints.headD 0)).map (fun g => (k, g)) else none)
    takeArea s p n (match got with
      | some e => acc ++ [e]
      | none => acc) hints.tail

/-- A station as an instance starts on it. -/
def freshStn (k i ci : Nat) (l : Launch) (r : Recipe) (e : StnEntry) (isSealed : Bool) : Stn :=
  { launch := k, inst := i, cell := ci, ctx := l.ctx, kind := e.kind, split := e.split, descs := e.descs, code := e.code,
    shConfig := e.shConfig, bound := r.startBound, isSealed := isSealed }

/-- Claims the stations of instance `i` at an origin. -/
def claimInst (k i : Nat) (l : Launch) (r : Recipe) (o : Nat × Nat × Nat) (old : Tbl Stn) (s : State) : State :=
  let sl := !(ctxSets s l.ctx).isEmpty
  { s with sch := { s.sch with
    stns := r.stations.zipIdx.foldl (fun t e =>
      tput t (stnAt o.1 (o.2.1 + e.1.fy) (o.2.2 + e.1.fx))
        ((tget? old e.2).getD (freshStn k i e.2 l r e.1 sl))) s.sch.stns } }

/-- A context that comes to hold stations, having `held` none before, begins a time slice (R415). -/
def beginSlice (c held : Nat) (s : State) : State :=
  setCtx c (fun x => if x.sliceAt.isSome ∧ held ≠ 0 then x else { x with sliceAt := some (refOf s (ctxDie s c)), sliceEnded := false }) s

/-- First placement of a launch at the origins found (R78, R154, R159, R425). -/
def placeFirst (k : Nat) (l : Launch) (r : Recipe) (os : List (Nat × Nat × Nat)) (hints : List Nat) (s : State) : State :=
  let s1 := os.zipIdx.foldl (fun s e => claimInst k e.2 l r e.1 [] s) s
  let s1 := setLaunch k (fun l => { l with ph := .placed, insts := os.map (fun o => ({ part := o.1, y := o.2.1, x := o.2.2 } : Inst)) }) s1
  let joined := if l.plan = 0 then some s1 else joinPlan k l.ctx l.plan s1
  match joined with
  | none =>
    withdraw k (finishCmd l.q l.seq stBadPiperPlan 0 { s with sch := { s.sch with launches := tdel s.sch.launches k } })
  | some s2 =>
    let s2 := beginSlice l.ctx (heldStations s l.ctx) s2
    os.zipIdx.foldl (fun s e => setInst k e.2 (fun i => { i with
      area := takeArea s e.1.1 l.saveGrans [] (hints.drop (e.2 * l.saveGrans)) }) s) s2

/-- A pre-empted launch resumes at its old positions, or at new ones (R423). Its instances restore. -/
def placeAgain (k : Nat) (l : Launch) (r : Recipe) (os : List (Nat × Nat × Nat)) (s : State) : State :=
  let idx := (l.insts.zipIdx.filter (fun e => decide (e.1.ph ≠ .complete))).map (·.2)
  let s1 := (idx.zip os).foldl (fun s e =>
    let old := ((instOf s k e.1).map (·.saved)).getD []
    setInst k e.1 (fun i => { i with part := e.2.1, y := e.2.2.1, x := e.2.2.2, ph := .restoring, placed := true })
      (claimInst k e.1 l r e.2 old s)) s
  beginSlice l.ctx (heldStations s l.ctx) (setLaunch k (fun l => { l with ph := .running }) s1)

/-- PLACEMENT of a launch: it is the first by R77 that can be placed now. -/
def placementS (k : Nat) (hints : List Nat) (s : State) : State :=
  match tget? s.sch.launches k with
  | none => s
  | some l =>
    match tget? s.sch.recipes l.recipe with
    | none => s
    | some r =>
      let ahead := s.sch.launches.any (fun e => decide (e.1 ≠ k) && waits e.2 && before s e.2 l && canPlace s e.2 [] && !damageHeld s e.2.ctx)
      if ¬ waits l ∨ ahead ∨ damageHeld s l.ctx ∨ ¬ canPlace s l [] then s
      else
        let live := l.insts.filter (fun i => decide (i.ph ≠ .complete))
        if l.ph = .waiting then
          (match placeFor s l r [] with
           | some os => withdraw k (placeFirst k l r os hints s)
           | none => s)
        else if oldInSlice s l r then withdraw k (placeAgain k l r (live.map (fun i => (i.part, i.y, i.x))) s)
        else
          match placeFor s { l with count := live.length } r [] with
          | some os => withdraw k (placeAgain k l r os s)
          | none => s

def execPlacement (launch : Nat) (grans : List Nat) (s : State) : Out := ifUp (placementS launch grans) s

/-! ### Service counts, time slices, overrun (R413-R421) -/

/-- TSLICE and GRACE of a slice in ms (R415, R654). -/
def tsliceMs (s : State) (n : Nat) : Nat :=
  let t := if n = 0 then 20 else ((tget? s.ten.slices n).map (·.tsliceMs)).getD 0
  if t = 0 then 20 else t
def graceMs (s : State) (n : Nat) : Nat :=
  let t := if n = 0 then 2 else ((tget? s.ten.slices n).map (·.graceMs)).getD 0
  if t = 0 then 2 else t

/-- One microsecond of a context: its service count, and its overrun unless counting stops (R413, R419, R538, R641). -/
def serviceCtx (c : Nat) (s : State) : State :=
  let n := heldStations s c
  let open? := batchOpen s c
  let hold := decide (s.pwr.brake) || s.pin.trayStop
  setCtx c (fun x =>
    let t := x.carry + n * 10000
    { x with
      service := (x.service + t / x.weight) % 2 ^ 64, carry := t % x.weight,
      sliceAt := if n = 0 then none else x.sliceAt,
      overrun := if open? || hold then x.overrun else x.overrun.map (· + 1) }) s

/-- SERVICE_TICK: a microsecond of a control complex has passed (R413). [DESIGN CHOICE, log entry 2] -/
def serviceTickS (cplx : Nat) (s : State) : State :=
  (s.ten.ctxs.filter (fun e => decide (e.2.cplx = cplx) && !e.2.dead)).foldl (fun s e => serviceCtx e.1 s) s

def execServiceTick (cplx : Nat) (s : State) : Out := ifUp (serviceTickS cplx) s

/-- TIME_SLICE_END: a context whose slice has run TSLICE, less its debit, gives way to a launch of its class with a
lower service count that needs its stations; otherwise a new slice begins (R415, R416, R421). -/
def timeSliceEndS (c : Nat) (s : State) : State :=
  match ctxOf s c with
  | none => s
  | some x =>
    match x.sliceAt with
    | none => s
    | some t =>
      let full := tsliceMs s x.slice * 1000
      let len := max 1000 (full - x.debit)
      let now := refOf s (ctxDie s c)
      if x.sliceEnded ∨ now - t < len * refUs then s
      else
        let s1 := setCtx c (fun x => { x with sliceEnded := true, debit := x.debit - (full - len) }) s
        let ws := s1.sch.launches.filter (fun e => waits e.2 &&
          decide (e.2.slice = x.slice ∧ e.2.ctx ≠ c ∧ ctxClass s e.2.ctx = ctxClass s c ∧ ctxService s e.2.ctx < x.service))
        let hit := ws.find? (fun e => match chooseVictims s1 e.2 with
          | some vs => vs.any (fun v => ((tget? s1.sch.launches v).map (fun l => decide (l.ctx = c))).getD false)
          | none => false)
        match hit with
        | some _ => stationsFreed s1
        | none => setCtx c (fun x => { x with sliceEnded := false, sliceAt := some now }) s1

def execTimeSliceEnd (ctx : Nat) (s : State) : Out := ifUp (timeSliceEndS ctx) s

/-- OVERRUN_KILL (R420): a context whose overrun has passed GRACE goes to rung 1. [DEDUCED, log entry 24; DEDUCED, log entry 111] -/
def overrunKillS (c : Nat) (s : State) : State :=
  match ctxOf s c with
  | none => s
  | some x =>
    match x.overrun with
    | none => s
    | some us =>
      if us ≤ graceMs s x.slice * 1000 ∨ x.dead ∨ s.pwr.brake then s
      else rung1Start c rcRest [] (raise (ctxDie s c) 0x0010 c x.slice us (graceMs s x.slice * 1000) 0 s)

def execOverrunKill (ctx : Nat) (s : State) : Out := ifUp (overrunKillS ctx) s

/-! ### Rest points (R71-R76, R374, R376, R422) -/

/-- Every explicit copy of the instance's stations is complete. -/
def copiesDone (s : State) (k i : Nat) : Bool :=
  (instStns s k i).all (fun e => e.2.xfers.all (fun x => decide (x.kind ≠ .copyIn ∧ x.kind ≠ .copyOut)))

/-- A stream that holds flits, if one does. -/
def fullStream (i : Inst) : Option Nat :=
  match i.flight with
  | e :: _ => some e.1
  | [] => (i.bufs.find? (fun e => !e.2.isEmpty)).map (·.1)

/-- Every stream is empty with all its credits at its source. -/
def streamsEmpty (i : Inst) : Bool := (fullStream i).isNone && i.returning.isEmpty && i.credits.all (fun e => decide (e.2 = 32))

/-- Role references of a plan (R155). -/
def planRoles (p : List Byte) : List Nat :=
  (List.range (plRouters p)).map (rtRole p) ++
  (List.range (plExperts p)).flatMap (fun e =>
    (List.range (exDests p e)).map (exDest p e) ++ (if exKind p e = 2 then [exPacker p e] else []))

/-- An instance of a launch holds a role of the plan. -/
def holdsRole (pl : Plan) (p : List Byte) (k i : Nat) : Bool :=
  (planRoles p).any (fun r => decide (pl.launches[r % 256]? = some k ∧ r / 65536 = i))

/-- A release of the instance that may be a hand-over waits for the Piper. -/
def handsWait (s : State) (pl : Plan) (k i : Nat) : Bool := pl.waiting.any (fun h => (instStns s k i).any (fun e => decide (e.1 = h.1)))

/-- The Piper holds a row, block or result of a plan in which the instance holds a role, or a hand-over of the instance
(R184). -/
def piperHolds (s : State) (k i : Nat) : Bool :=
  s.pip.plans.any (fun e => match e.2.bytes with
    | some p => holdsRole e.2 p k i &&
      (!e.2.waiting.isEmpty || !e.2.owed.isEmpty ||
       e.2.experts.any (fun x => !x.2.transit.isEmpty || !x.2.cur.isEmpty || !x.2.ready.isEmpty || !x.2.out.isEmpty))
    | none => handsWait s e.2 k i)

/-- Damage records owed to a context reach it at its instance's rest point (R591). -/
def payDamage (c : Nat) (s : State) : State :=
  let owed := ((ctxOf s c).map (·.owedDamage)).getD []
  owed.foldl (fun s r => addFault c r s) (setCtx c (fun x => { x with owedDamage := [] }) s)

/-- RUN_BOUND of a rest point of a Recipe. -/
def runBoundOf (r : Recipe) (id : Nat) : Nat := ((r.rests.find? (fun e => decide (e.id = id))).map (·.runBound)).getD r.startBound

/-- A spanning instance has rested since the halves of its die came to one frequency (R476). -/
def seamRested (k i p : Nat) (s : State) : State :=
  if (halfClk s (2 * p)).point ≠ (halfClk s (2 * p + 1)).point ∨ p ∉ s.seam.credit then s
  else seamFollow p { s with seam := { s.seam with spanning := s.seam.spanning.filter (fun e => !decide (e = (k, i))) } }

/-- An instance leaves rest point `id`: its stations go on with a fresh stretch. -/
def leaveRest (k i id : Nat) (r : Recipe) (s : State) : State :=
  let s := setInst k i (fun x => { x with ph := .running, rest := id }) s
  { s with sch := { s.sch with stns := tmap s.sch.stns (fun _ x =>
      if x.launch = k ∧ x.inst = i then
        { x with
          marked := 0, lastRest := id, stretch := 0, bound := runBoundOf r id,
          groups := tmap x.groups (fun _ g => match g.waiting with
            | some (w, _) => if w = 9 then { g with waiting := none } else g
            | none => g) }
      else x) } }

/-- REST_POINT_REACHED: with every station at one rest point, copies done and streams empty the instance reaches it,
unless a fault batch of its context is open; it then saves, holds for a retraining window, or continues. Flits left
in a stream are the fault REST_NOT_EMPTY (R82). An instance of a context that a fault has taken to rung 1 reaches nothing
more (R86). -/
def restReachedS (k i : Nat) (s : State) : State :=
  match tget? s.sch.launches k, instOf s k i with
  | some l, some x =>
    if ¬ (x.ph = .running ∨ x.ph = .resting) ∨ l.ph = .placed ∨ ¬ copiesDone s k i ∨ ctxStopping s l.ctx then s
    else
      match allMarked s k i, tget? s.sch.recipes l.recipe with
      | some id, some r =>
        (match fullStream x with
         | some st =>
           let sink := (r.streams[st]?).map (·.sinkCell)
           match (instStns s k i).find? (fun e => decide (some e.2.cell = sink)) with
           | some e => stationFault e.1 stRestNotEmpty 1 st 0 0 0 s
           | none => s
         | none =>
           if ¬ streamsEmpty x ∨ piperHolds s k i then s
           else
             let s := triggerBatch l.ctx 1 (payDamage l.ctx s)
             if batchOpen s l.ctx then setInst k i (fun x => { x with ph := .resting }) s
             else
               let s := seamRested k i x.part (mergeFlags (fun _ y => decide (y.launch = k ∧ y.inst = i)) s)
               if l.ph = .leaving then endOverrun l.ctx (setInst k i (fun x => { x with ph := .saving, rest := id }) s)
               else if heldForRetrain s x.part then endOverrun l.ctx (setInst k i (fun x => { x with ph := .resting, rest := id }) s)
               else leaveRest k i id r s)
      | _, _ => s
  | _, _ => s

def execRestPointReached (launch inst : Nat) (s : State) : Out := ifUp (restReachedS launch inst) s

/-! ### Saving and restoring (R76, R418, R425-R428) -/

/-- Live-set entries of a rest point for one cell. -/
def livesOf (r : Recipe) (id cell : Nat) : List LiveEntry :=
  match r.rests.find? (fun e => decide (e.id = id)) with
  | some e => ((r.lives.drop e.liveFirst).take e.liveCount).filter (fun l => decide (l.cell = cell))
  | none => []

/-- A key lies in a range that a live entry of a type names. -/
def liveHas (ls : List LiveEntry) (ty key : Nat) : Bool := ls.any (fun e => decide (e.ty = ty ∧ e.a ≤ key ∧ key < e.a + e.b))

/-- A station restored from its live set: what the set names bit for bit, everything else zero; its place in its
lists, flags, histograms and counters are its station record (R76, R425). A thread group not named counts as ended, so a RUN
of which none is named is over; locks are free and station semaphores zero (R199, R218, R220, R224). -/
def liveStn (r : Recipe) (id : Nat) (x : Stn) : Stn :=
  let ls := livesOf r id x.cell
  let named := fun g : Nat => ls.any (fun e => decide (e.ty = 4) && bitOf e.a g)
  let done := x.runIdx.isSome && !x.groups.any (fun e => named e.1 && !e.2.ended)
  { x with
    runIdx := if done then none else x.runIdx,
    works := if done then tmap x.works (fun i w => if some i = x.runIdx then { w with st := .fin } else w) else x.works,
    ls := tfilter x.ls (fun a _ => liveHas ls 1 a),
    acc := tfilter x.acc (fun a _ => ls.any (fun e => decide (e.ty = 2) && bitOf e.a (a / 4096))),
    vreg := tfilter x.vreg (fun a _ => liveHas ls 3 (4 * a)),
    groups := tmap x.groups (fun g v => if named g then v else { ended := true }),
    locks := [], sems := [], meets := [],
    rg := if ls.any (fun e => decide (e.ty = 5)) then { x.rg with miss := [] } else {},
    xcache := [], cache := [], pend := [], xfers := [], marked := 0, lastRest := id, stretch := 0,
    bound := runBoundOf r id }

/-- A launch whose instances have all been saved or are complete, some saved, waits for placement again; a context left without
stations so begins to wait (R414, R418, R423). -/
def settle (k : Nat) (s : State) : State :=
  match tget? s.sch.launches k with
  | none => s
  | some l =>
    if l.insts.all (fun y => decide (y.ph = .saved ∨ y.ph = .complete)) ∧ l.insts.any (fun y => decide (y.ph = .saved)) then
      raiseService l.ctx (setLaunch k (fun l => { l with ph := .preempted, victimOf := [], order := s.sch.order + 1 })
        { s with sch := { s.sch with order := s.sch.order + 1 } })
    else s

/-- Groups that waited at their rest point go on. -/
def wakeRest (x : Stn) : Stn :=
  { x with groups := tmap x.groups (fun _ g => match g.waiting with
      | some (w, _) => if w = 9 then { g with waiting := none } else g
      | none => g) }

/-- SAVE_DONE: the instance's live set is in its save area and its stations are free. A context that rung 1 takes saves
nothing (R86, R598). -/
def saveDoneS (k i : Nat) (s : State) : State :=
  match tget? s.sch.launches k, instOf s k i with
  | some l, some x =>
    if ctxStopping s l.ctx then s
    else match x.ph, tget? s.sch.recipes l.recipe with
    | .saving, some r =>
      let mine := s.sch.stns.filter (fun e => decide (e.2.launch = k ∧ e.2.inst = i))
      let kept : Tbl Stn := mine.foldl (fun t e => tput t e.2.cell (wakeRest (liveStn r x.rest e.2))) []
      let s := setInst k i (fun y => { y with ph := .saved, placed := false, saved := kept, credits := [], returning := [] }) s
      let s := freeStations (fun y => decide (y.launch = k ∧ y.inst = i)) s
      stationsFreed (settle k s)
    | _, _ => s
  | _, _ => s

def execSaveDone (launch inst : Nat) (s : State) : Out := ifUp (saveDoneS launch inst) s

/-- A line of the save area reads as poison. -/
def areaPoisoned (s : State) (i : Inst) : Bool :=
  s.mem.poison.any (fun p => i.area.any (fun e => decide (e = (p / 2 ^ 29, p % 2 ^ 29 / 512)))) ||
  i.area.any (fun e => decide (usableGrans s e.1 ≤ e.2))

/-- RESTORE_DONE: the instance goes on from its rest point; a poisoned save area takes the context to rung 1 (R428). -/
def restoreDoneS (k i : Nat) (s : State) : State :=
  match tget? s.sch.launches k, instOf s k i with
  | some l, some x =>
    if x.ph ≠ .restoring ∨ ctxStopping s l.ctx then s
    else if areaPoisoned s x then rung1Start l.ctx rcRest [] s
    else setInst k i (fun y => { y with ph := .running, saved := [] }) s
  | _, _ => s

def execRestoreDone (launch inst : Nat) (s : State) : Out := ifUp (restoreDoneS launch inst) s

/-! ### Completion (R140, R145-R148, R407) -/

/-- A station entry of the telemetry record. [DESIGN CHOICE, log entry 98] -/
def telemStn (n : Nat) (x : Stn) : List Byte :=
  layout 64 ([(0, leBytes 2 (stnId n)), (2, leBytes 1 x.kind), (4, leBytes 2 x.inst)] ++
    (List.range 14).map (fun i => (8 + 4 * i, leBytes 4 (min 4294967295 (tget 0 x.stalls i / 25)))))

/-- A stream entry of the telemetry record. [DESIGN CHOICE, log entry 98] -/
def telemStream (i st : Nat) (x : Inst) : List Byte :=
  layout 32 ([(0, leBytes 2 st), (2, leBytes 2 i)] ++
    (List.range 5).map (fun j => (4 + 4 * j, leBytes 4 (min 4294967295 (tget 0 x.stalls (8 * st + j) / 25)))))

/-- Adds a completed instance's histograms and telemetry to its launch. -/
def gather (k i : Nat) (s : State) : State :=
  let mine := s.sch.stns.filter (fun e => decide (e.2.launch = k ∧ e.2.inst = i))
  let streams := ((((tget? s.sch.launches k).bind (fun l => tget? s.sch.recipes l.recipe)).map (fun r => r.streams.length)).getD 0)
  match instOf s k i with
  | none => s
  | some x =>
    setLaunch k (fun l => { l with
      hists := mine.foldl (fun t e => e.2.hist.foldl (fun t b => tmod 0 t b.1 (· + b.2)) t) l.hists,
      histStns := mine.foldl (fun t e => ((e.2.hist.map (fun b => b.1 / 64)).eraseDups).foldl (fun t h => tmod 0 t h (· + 1)) t) l.histStns,
      telemStns := l.telemStns ++ mine.map (fun e => telemStn e.1 e.2),
      telemStreams := l.telemStreams ++ (List.range streams).map (fun st => telemStream i st x) }) s

/-- INSTANCE_COMPLETE: every station's list has ended, its copies are complete and the Piper holds nothing of it; flags merge and
the stations are freed. [DEDUCED, log entry 86] -/
def instanceCompleteS (k i : Nat) (s : State) : State :=
  match tget? s.sch.launches k, instOf s k i with
  | some l, some x =>
    if x.ph ≠ .running ∨ l.ph = .placed ∨ ¬ (instStns s k i).all (fun e => listEnded e.2 && e.2.xfers.isEmpty && !e.2.stopped) ∨
        ctxStopping s l.ctx ∨ piperHolds s k i then s
    else
      let s := triggerBatch l.ctx 1 (payDamage l.ctx s)
      let s := mergeFlags (fun _ y => decide (y.launch = k ∧ y.inst = i)) s
      let s := gather k i s
      let s := freeStations (fun y => decide (y.launch = k ∧ y.inst = i)) (setInst k i (fun y => { y with ph := .complete, placed := false }) s)
      let all := ((tget? s.sch.launches k).map (fun l => l.insts.all (fun y => decide (y.ph = .complete)))).getD false
      stationsFreed (seamRested k i x.part (endOverrun l.ctx (if all then markBound l.q l.seq s else settle k s)))
  | _, _ => s

def execInstanceComplete (launch inst : Nat) (s : State) : Out := ifRun (instanceCompleteS launch inst) s

/-- A histogram record (R147). -/
def histRecord (s : State) (l : Launch) (d h : Nat) : List Byte :=
  let bins := (List.range 64).map (fun b => tget 0 l.hists (64 * h + b))
  layout 64 [(0, leBytes 4 0x0C02), (4, leBytes 1 h), (5, leBytes 1 d), (6, leBytes 2 (tget 0 l.histStns h)),
    (8, leBytes 8 (sumNat bins)), (16, leBytes 8 (refOf s d))] ++ bins.flatMap (leBytes 8)

/-- The telemetry record (R407). -/
def telemRecord (s : State) (l : Launch) (d energy : Nat) : List Byte :=
  layout 64 [(0, leBytes 4 0x0C08), (4, leBytes 2 l.ctx), (6, leBytes 1 d), (8, leBytes 8 (refOf s d)), (16, leBytes 8 energy),
    (24, leBytes 4 l.telemStns.length), (28, leBytes 4 l.telemStreams.length)] ++
  l.telemStns.flatMap id ++ l.telemStreams.flatMap id

/-- Ranges that a completing launch writes: (address, bytes). -/
def launchWrites (s : State) (l : Launch) (d energy : Nat) : List (Nat × List Byte) :=
  (if l.hist = 0 then [] else
    ((l.hists.map (fun e => e.1 / 64)).eraseDups).map (fun h => (l.hist + 576 * (h - 1), histRecord s l d h))) ++
  (if l.telem = 0 then [] else [(l.telem, telemRecord s l d energy)])

/-- LAUNCH_COMPLETE: the last instance is complete; histograms and telemetry are written, and the launch's command
completes with the instances placed. -/
def launchCompleteS (k : Nat) (s : State) : State :=
  match tget? s.sch.launches k with
  | none => s
  | some l =>
    if l.insts.isEmpty ∨ ¬ l.insts.all (fun i => decide (i.ph = .complete)) then s
    else
      let u := (tget? s.cmd.queues l.q).getD {}
      let d := cplxDie u.cplx
      let energy := ((u.cmds.find? (fun c => decide (c.seq = l.seq))).map (·.used)).getD 0
      let ws := launchWrites s l d energy
      let bad := ws.findSome? (fun w => match ctxReadRefusal s l.ctx w.1 w.2.length (.cmd l.q l.seq) with
        | some st => if st = stPoisoned then none else some st
        | none => none)
      let s := withdraw k (dropLaunch k s)
      match bad with
      | some st => finishCmd l.q l.seq st 0 s
      | none =>
        let s := ws.foldl (fun s w => ctxWrite l.ctx w.1 w.2 (.cmd l.q l.seq) s) s
        finishCmd l.q l.seq stOk l.count s

def execLaunchComplete (launch : Nat) (s : State) : Out := ifUp (launchCompleteS launch) s

end Sys2Proof.Machine
end

