-- ==== Sys2Proof/Machine/CopyCmds.lean ====
section
/-! DEFINITION. COPY, FILL, SEM_WAIT, SEM_RELEASE and FLUSH commands (R314, R335, R347, R405, R406, R576, R588). -/

namespace Sys2Proof.Machine

/-! ### Writes of a command -/

/-- The device range touches a sealed extent. -/
def touchesSealed (s : State) (c a n : Nat) : Bool :=
  s.xt.maps.any (fun m => decide (m.ctx = c) &&
    (match tget? s.xt.extents m.num with
     | some x => attrSealed x.attr && overlaps a n (m.start, x.length)
     | none => false))

/-- The range touches an extent that is read-only for the context; a COPY from a manager queue may write into one
that is DAMAGED (R592). -/
def touchesReadOnly (s : State) (c a n : Nat) (repair : Bool) : Bool :=
  s.xt.maps.any (fun m => decide (m.ctx = c) &&
    (match tget? s.xt.extents m.num with
     | some x => readOnlyFor x c && overlaps a n (m.start, x.length) && !(repair && x.damaged)
     | none => false))

/-- The status with which a command's write of a device range is refused. -/
def ctxWriteRefusal (s : State) (c a n : Nat) (repair : Bool) (who : Agent) : Option Nat :=
  if inCounters a ∨ inCounters (a + n - 1) then some stBadParam
  else if ¬ rangeMapped s c a n then some stNoExtent
  else if touchesSealed s c a n then some stSealed
  else if touchesReadOnly s c a n repair then some stBadParam
  else if ctxUnavailable s c a n who then some stHomeUnavailable
  else none

/-! ### COPY and FILL -/

/-- Bytes of the source, all-ones for sealed bytes and, towards the host, for poisoned lines (R576, R588). -/
def copySource (s : State) (c a n : Nat) (toHost : Bool) : List Byte :=
  (List.range n).map (fun i =>
    match findMap s c (a + i) with
    | none => 0
    | some (_, x) =>
      if attrSealed x.attr then 0xFF
      else
        match translate s c (a + i) with
        | none => 0
        | some p => if toHost && linePoisoned s p.stack p.line then 0xFF else memByte s p.stack (p.line * 128 + p.off))

/-- Destination offsets that come from a poisoned line which is not sealed. -/
def poisonOffsets (s : State) (c a n : Nat) : List Nat :=
  (List.range n).filter (fun i =>
    match findMap s c (a + i), translate s c (a + i) with
    | some (_, x), some p => !attrSealed x.attr && linePoisoned s p.stack p.line
    | _, _ => false)

/-- A Crust copy engine writes the poison mark into each destination line that receives a poisoned byte. -/
def poisonDest (c a : Nat) (offs : List Nat) (s : State) : State :=
  offs.foldl (fun s i => match translate s c (a + i) with
    | some p => poisonHome p.stack p.line s
    | none => s) s

/-- A copy whose ranges are admissible: data moves, and the command completes. -/
def copyMove (u : Queue) (c : TakenCmd) (src dst n spaces : Nat) (s : State) : State :=
  let hs := bitOf spaces 0
  let hd := bitOf spaces 1
  let data := if hs then hostRead s u.pasid src n else copySource s c.ctx src n hd
  let bad := if hs then [] else poisonOffsets s c.ctx src n
  let st := if ¬ hs ∧ (¬ bad.isEmpty ∨ touchesSealed s c.ctx src n) then stPoisoned else stOk
  let s := if hd then hostWrite u.pasid dst data s
    else poisonDest c.ctx dst bad (ctxWrite c.ctx dst data (.cmd u.num c.seq) s)
  markBound u.num c.seq (finishCmd u.num c.seq st 0 s)

/-- The copy runs on a host DMA engine: a host address is its source or destination (R406). -/
def copyOnHost (c : TakenCmd) : Bool :=
  if c.op = 0x0401 then decide (par c 24 1 ≠ 0) else decide (c.op = 0x0402 ∧ par c 24 1 = 1)

/-- A started copy that no reduction of its source holds back. -/
def copyReady (s : State) (c : TakenCmd) : Bool :=
  decide (c.phase = .started) && decide (c.op = 0x0401 ∨ c.op = 0x0402) &&
    !(decide (c.op = 0x0401) && !bitOf (par c 24 1) 0 && ctxBusy s c.ctx (par c 0 8) (par c 16 8))

/-- Another queued copy of the same kind of engine comes first in R412's order. -/
def copyCmdAhead (s : State) (c : TakenCmd) : Bool :=
  s.cmd.queues.any (fun e => e.2.cmds.any (fun x =>
    (copyOnHost x == copyOnHost c) && ctxBefore s x.ctx c.ctx && copyReady s x))

/-- COPY (R406). It waits while accepted reductions of its source are still to be applied. -/
def copyS (u : Queue) (c : TakenCmd) (s : State) : State :=
  let src := par c 0 8
  let dst := par c 8 8
  let n := par c 16 8
  let sp := par c 24 1
  let who := Agent.cmd u.num c.seq
  if n % 64 ≠ 0 ∨ n < 64 ∨ 2 ^ 40 < n ∨ 3 < sp ∨ (ctxOf s c.ctx).isNone then finishCmd u.num c.seq stBadParam 0 s
  else
    let r1 := if bitOf sp 0 then none else ctxReadRefusal s c.ctx src n who
    let r2 := if bitOf sp 1 then none else ctxWriteRefusal s c.ctx dst n (decide (u.slice = 0)) who
    match (if r1 = some stPoisoned then none else r1), r2 with
    | some st, _ => finishCmd u.num c.seq st 0 s
    | none, some st => finishCmd u.num c.seq st 0 s
    | none, none => if (¬ bitOf sp 0 ∧ ctxBusy s c.ctx src n) ∨ copyCmdAhead s c then s else copyMove u c src dst n sp s

def execCopy (q seq : Nat) (s : State) : Out :=
  if issueHeld s then .next s else cmdOut 0x0401 q seq copyS s

/-- FILL (R406): the 8-byte pattern repeated from the first byte. -/
def fillS (u : Queue) (c : TakenCmd) (s : State) : State :=
  let dst := par c 0 8
  let n := par c 8 8
  let sp := par c 24 1
  let data := (List.replicate (n / 8) (leBytes 8 (par c 16 8))).flatMap id
  if n % 64 ≠ 0 ∨ n < 64 ∨ 2 ^ 40 < n ∨ 1 < sp ∨ (ctxOf s c.ctx).isNone then finishCmd u.num c.seq stBadParam 0 s
  else if copyCmdAhead s c then s
  else if sp = 1 then finishCmd u.num c.seq stOk 0 (hostWrite u.pasid dst data s)
  else
    match ctxWriteRefusal s c.ctx dst n false (.cmd u.num c.seq) with
    | some st => finishCmd u.num c.seq st 0 s
    | none => markBound u.num c.seq (finishCmd u.num c.seq stOk 0 (ctxWrite c.ctx dst data (.cmd u.num c.seq) s))

def execFillCommand (q seq : Nat) (s : State) : Out :=
  if issueHeld s then .next s else cmdOut 0x0402 q seq fillS s

/-! ### Semaphores -/

/-- A counter of the arrival-counter region: window and counter (R377). -/
def counterAt (a : Nat) : Nat × Nat := (a % 32768 / 128, a % 128 / 8)

/-- The port die that holds a window's counters. -/
def counterUnit (w : Nat) : Nat := if w < 128 then 20 else 21

/-- A context may wait on a counter: it owns the window. -/
def counterOwned (s : State) (c a : Nat) : Bool :=
  match tget? s.xt.windows (counterAt a).1 with
  | some w => decide (w.owner = c)
  | none => false

/-- A wait on an arrival counter: answered at once where the value is reached, else recorded in the port die's
table of 1,024 entries, else SEM_RETRY (R314, R315, R377). -/
def counterWait (r : Req) (w c val : Nat) (s : State) : State :=
  let unit := counterUnit w
  let ws := tget [] s.home.waiters unit
  if signedOf 64 val ≤ signedOf 64 (counterVal s w c) then sendMsg (.semOk r stOk) s
  else if ws.length < 1024 then
    { s with home := { s.home with waiters := tset [] s.home.waiters unit (ws ++ [⟨r, 8 * c, val⟩]) } }
  else sendMsg (.semRetry r (8 * c) val) s

/-- A counter's wait as a request to its port die. -/
def counterReq (a ctx : Nat) (who : Agent) : Req := ⟨counterUnit (counterAt a).1, (counterAt a).1, ctx, 0, who⟩

/-- A request of the command is under way: sent, held, or registered as a waiter. -/
def cmdAsked (s : State) (q seq : Nat) : Bool :=
  cmdOutstanding s q seq || s.home.waiters.any (fun e => e.2.any (fun w => decide (w.r.who = .cmd q seq)))

/-- SEM_WAIT command: an acquire at device scope; SEM_OK completes it. -/
def semWaitCmdS (u : Queue) (c : TakenCmd) (s : State) : State :=
  let a := par c 0 8
  let v := par c 8 8
  let who := Agent.cmd u.num c.seq
  let fin := fun st => finishCmd u.num c.seq st 0 s
  if cmdAsked s u.num c.seq then s
  else if a % 8 ≠ 0 ∨ (ctxOf s c.ctx).isNone then fin stBadParam
  else if inCounters a then
    if counterOwned s c.ctx a then counterWait (counterReq a c.ctx who) (counterAt a).1 (counterAt a).2 v s else fin stBadParam
  else
    match translate s c.ctx a with
    | none => fin stNoExtent
    | some p =>
      if ¬ homeAnswers s p.stack who then fin stHomeUnavailable
      else homeRequest (.semWait ⟨p.stack, p.line, c.ctx, p.handle, who⟩ p.off v) s

def execSemWaitCommand (q seq : Nat) (s : State) : Out := cmdOut 0x0501 q seq semWaitCmdS s

/-- Drops what a command waits for at the homes. -/
def dropCmdWaits (q seq : Nat) (s : State) : State :=
  { s with home := { s.home with
      waiters := tmap s.home.waiters (fun _ ws => ws.filter (fun w => !decide (w.r.who = .cmd q seq))),
      lines := tmap s.home.lines (fun _ l => { l with held := l.held.filter (fun h => !decide ((reqOf h).who = .cmd q seq)) }),
      later := s.home.later.filter (fun h => !decide ((reqOf h.1).who = .cmd q seq)),
      net := s.home.net.filter (fun m => !msgOf q seq m) } }

/-- SEM_WAIT_TIMEOUT: TIMEOUT_MS has passed on the control complex's counter. -/
def semTimeoutS (u : Queue) (c : TakenCmd) (s : State) : State :=
  let ms := par c 16 4
  if ms = 0 ∨ refOf s (cplxDie u.cplx) - c.startAt < ms * refMs then s
  else finishCmd u.num c.seq stTimeout 0 (dropCmdWaits u.num c.seq s)

def execSemWaitTimeout (q seq : Nat) (s : State) : Out := cmdOut 0x0501 q seq semTimeoutS s

/-- SEM_RELEASE command: every earlier command of the queue has replied (R406); the add goes to its home, and its
acknowledgement completes the command. -/
def semReleaseCmdS (u : Queue) (c : TakenCmd) (s : State) : State :=
  let a := par c 0 8
  let who := Agent.cmd u.num c.seq
  let fin := fun st => finishCmd u.num c.seq st 0 s
  if cmdAsked s u.num c.seq then s
  else if a % 8 ≠ 0 ∨ 3 < par c 16 1 ∨ (ctxOf s c.ctx).isNone then fin stBadParam
  else
    match ctxWriteRefusal s c.ctx a 8 false who with
    | some st => if st = stSealed then fin stBadParam else fin st
    | none =>
      match translate s c.ctx a with
      | none => fin stNoExtent
      | some p => homeRequest (semAddReq p.stack p.line p.off c.ctx p.handle (par c 8 8) who) s

def execSemReleaseCommand (q seq : Nat) (s : State) : Out := cmdOut 0x0502 q seq semReleaseCmdS s

/-! ### FLUSH -/

/-- FLUSH: every dirty byte of the host range goes back to host memory from both host write caches (R347). -/
def flushS (u : Queue) (c : TakenCmd) (s : State) : State :=
  let a := par c 0 8
  let n := par c 8 8
  let lo := hkey u.pasid a
  finishCmd u.num c.seq stOk 0 (writeBack (fun k => decide (lo ≤ k ∧ k < lo + n)) s)

def execFlush (q seq : Nat) (s : State) : Out := cmdOut 0x0601 q seq flushS s

end Sys2Proof.Machine
end

