-- ==== Sys2Proof/Machine/SliceCmds.lean ====
section
/-! DEFINITION. Slices (R437-R457, R654): quota records, manager pages, resizing, PASIDs and dirty logging. -/

namespace Sys2Proof.Machine

/-! ### Quota records (R438, R439) -/

/-- Station mask that a quota record grants on a partition. -/
def qMask (r : List Byte) (p : Nat) : Nat := field r (64 + 24 * p) 21

/-- The stations a record grants, by partition. -/
def qStations (r : List Byte) : Tbl Nat := (List.range 10).foldl (fun t p => tset 0 t p (qMask r p)) []

/-- Fields in range and reserved fields zero. -/
def quotaOk (r : List Byte) (n : Nat) : Bool :=
  decide (field r 0 4 = 0x0C0A ∧ field r 4 2 = n ∧ field r 6 2 ≤ 2047 ∧ 1 ≤ field r 8 2 ∧ field r 8 2 ≤ 1023 ∧
    1 ≤ field r 10 2 ∧ field r 8 2 + field r 10 2 ≤ 1024 ∧ field r 12 2 ≤ 256 ∧ 1 ≤ field r 14 2 ∧ field r 14 2 ≤ 4095 ∧
    field r 16 2 ≤ 1000 ∧ field r 18 2 ≤ 100 ∧ field r 32 4 ≤ 72) &&
  zeroAt r 48 16 && (List.range 10).all (fun p => zeroAt r (64 + 24 * p + 21) 3) && zeroAt r 304 208

/-- Other tenant slices. -/
def otherSlices (s : State) (n : Nat) : List (Nat × Slice) := s.ten.slices.filter (fun e => decide (e.1 ≠ n ∧ e.1 ≠ 0))

/-- A station granted, or the queue range, belongs to another tenant slice. -/
def quotaTaken (s : State) (r : List Byte) (n : Nat) : Bool :=
  (otherSlices s n).any (fun e =>
    (List.range 10).any (fun p => decide (qMask r p &&& tget 0 e.2.stations p ≠ 0)) ||
    overlaps (field r 8 2) (field r 10 2) (e.2.queueFirst, e.2.queueCount))

/-- Windows, memory or pins of all tenant slices would pass what the device has. [DEDUCED, log entry 112] -/
def quotaOver (s : State) (r : List Byte) (n : Nat) : Bool :=
  let os := otherSlices s n
  decide (256 < field r 12 2 + sumNat (os.map (fun e => e.2.windows)) ∨
    totalGrans s < 16 * (field r 24 8 + sumNat (os.map (fun e => e.2.memMib))) ∨
    72 < field r 32 4 + sumNat (os.map (fun e => e.2.pinMib)))

/-- Lines a slice pins on a stack. -/
def slicePins (s : State) (n k : Nat) : Nat :=
  (s.home.pins.filter (fun e => decide (e.1 / 2 ^ 29 = k ∧ n ∈ e.2))).length

/-- The slice holds more than the record would give it. Stations are drained instead (R451). [DEDUCED, log entry 112] -/
def quotaInUse (s : State) (r : List Byte) (n : Nat) : Bool :=
  decide (field r 24 8 * 16 < usedQuota s n ∨ field r 14 2 < (sliceCtxs s n).length ∨ field r 12 2 < sliceWindows s n 256) ||
  (List.range 20).any (fun k => decide (field r 32 4 * 8192 < slicePins s n k)) ||
  s.cmd.queues.any (fun e => decide (e.2.slice = n ∧ ¬ (field r 8 2 ≤ e.1 ∧ e.1 < field r 8 2 + field r 10 2)))

/-- A station granted lies on an absent partition (R462). -/
def quotaAbsent (s : State) (r : List Byte) : Bool := s.seam.absent.any (fun p => decide (qMask r p ≠ 0))

/-- A resize or destruction of the slice, begun by another command, has not replied. -/
def sliceBusy (s : State) (n q seq : Nat) : Bool :=
  (match tget? s.ten.slices n with
   | some sl => decide (sl.resizing.isSome ∧ sl.resizing ≠ some (q, seq))
   | none => false) ||
  s.cmd.queues.any (fun e => e.2.cmds.any (fun c =>
    (decide (c.op = 0x0803 ∧ par c 0 2 = n) && decide (c.phase = .started)) ||
    (decide ((c.op = 0x0802 ∧ par c 8 2 = n) ∨ (c.op = 0x0803 ∧ par c 0 2 = n)) && c.admitted &&
    (match c.phase with
     | .done _ _ => true
     | _ => false))))

/-- The slice record that a quota record makes. -/
def sliceOf (r : List Byte) (page : Nat) : Slice :=
  { vector := field r 6 2, queueFirst := field r 8 2, queueCount := field r 10 2, windows := field r 12 2,
    contexts := field r 14 2, tsliceMs := field r 16 2, graceMs := field r 18 2, latTarget := field r 20 4,
    memMib := field r 24 8, pinMib := field r 32 4, energyUj := field r 36 4, memBwFloor := field r 40 4,
    rbxBwFloor := field r 44 4, stations := qStations r, record := r, page := page }

/-- The record's bytes as the command reads them. -/
def readQuota (s : State) (u : Queue) (c : TakenCmd) : List Byte := hostRead s u.pasid (par c 0 8) 512

/-! ### SLICE_CREATE (R437-R439, R445, R564) -/

/-- The page as the device writes it at creation: zeros, header and record (R445). -/
def pageInit (n : Nat) (r : List Byte) : List Byte :=
  layout 16384 [(0, leBytes 4 0x50474D4B), (4, leBytes 2 n), (6, leBytes 2 1), (0x200, r)]

/-- SLICE_CREATE. [DEDUCED, log entry 112] -/
def sliceCreateS (u : Queue) (c : TakenCmd) (s : State) : State :=
  let n := par c 16 2
  let page := par c 8 8
  let r := readQuota s u c
  let fin := fun st => finishCmd u.num c.seq st 0 s
  if 127 < n ∨ page % 4096 ≠ 0 then fin stBadParam
  else if sliceThere s n then fin stSliceExists
  else if ¬ quotaOk r n then fin stBadQuota
  else if quotaTaken s r n then fin stStationsTaken
  else if quotaOver s r n then fin stOvercommit
  else if quotaAbsent s r then fin stStationsAbsent
  else finishCmd u.num c.seq stOk 0 (hostPost none page (pageInit n r) { s with
    ten := { s.ten with slices := tput s.ten.slices n (sliceOf r page) },
    sec := { s.sec with keys := insKey n s.sec.keys } })

def execSliceCreate (q seq : Nat) (s : State) : Out := cmdOut 0x0801 q seq sliceCreateS s

/-! ### SLICE_RESIZE (R450-R452) -/

/-- Stations named by a table of masks. -/
def maskStns (t : Tbl Nat) : List Nat := t.flatMap (fun e => (bitsSet 168 e.2).map (fun i => 168 * e.1 + i))

/-- The masks of two tables together. -/
def maskUnion (a b : Tbl Nat) : Tbl Nat := b.foldl (fun t e => tmod 0 t e.1 (fun m => m ||| e.2)) a

/-- Launches that hold a station being taken away. -/
def holdsLeaving (s : State) (gone : List Nat) : List Nat :=
  ((s.sch.stns.filter (fun e => decide (e.1 ∈ gone))).map (fun e => e.2.launch)).eraseDups

/-- The new record is in force, with the stations it takes away still held; the page shows it. -/
def resizeBegin (u : Queue) (c : TakenCmd) (n : Nat) (sl : Slice) (r : List Byte) (s : State) : State :=
  let gone := (maskStns sl.stations).filter (fun m => decide (m ∉ maskStns (qStations r)))
  let new : Slice := { sliceOf r sl.page with
    stations := maskUnion sl.stations (qStations r), evHead := sl.evHead, evLost := sl.evLost, leaving := gone,
    resizing := (some (u.num, c.seq)), dirtyOn := sl.dirtyOn, dirty := sl.dirty, hostlog := sl.hostlog,
    hostlogOver := sl.hostlogOver }
  hostPost none (sl.page + 0x200) r { s with
    ten := { s.ten with slices := tput s.ten.slices n new },
    pwr := { s.pwr with grants := s.pwr.grants.filter (fun e => !decide (e.1 / 16 = n)) } }

/-- Once no launch holds a station being taken away, the stations pass to slice 0 and the command completes;
until then every running launch that holds one is pre-empted. -/
def resizeDrain (u : Queue) (c : TakenCmd) (n : Nat) (s : State) : State :=
  match tget? s.ten.slices n with
  | none => s
  | some sl =>
    let ks := holdsLeaving s sl.leaving
    if ¬ ks.isEmpty then
      ks.foldl (fun s k => match tget? s.sch.launches k with
        | some l => if l.ph = .running then requestPreempt 0 false k s else s
        | none => s) s
    else
      let st := qStations sl.record
      let s := setSlice n (fun sl => { sl with stations := st, leaving := [], resizing := none }) s
      finishCmd u.num c.seq stOk 0 (raiseSlice pd0 0x0018 0 n (b2n (!sl.leaving.isEmpty)) (maskStns st).length 0 (stationsFreed s))

/-- SLICE_RESIZE. [DEDUCED, log entry 112] -/
def sliceResizeS (u : Queue) (c : TakenCmd) (s : State) : State :=
  let n := par c 8 2
  let r := readQuota s u c
  let fin := fun st => finishCmd u.num c.seq st 0 s
  let mine := ((tget? s.ten.slices n).map (fun sl => decide (sl.resizing = some (u.num, c.seq)))).getD false
  if mine then resizeDrain u c n s
  else if n = 0 ∨ 127 < n then fin stBadParam
  else if ¬ quotaOk r n then fin stBadQuota
  else if quotaTaken s r n then fin stStationsTaken
  else if quotaOver s r n then fin stOvercommit
  else if (tget? s.ten.slices n).isSome ∧ quotaInUse s r n then fin stQuotaInUse
  else if sliceBusy s n u.num c.seq then fin stBusy
  else
    match tget? s.ten.slices n with
    | none => fin stSliceAbsent
    | some sl => if quotaAbsent s r then fin stStationsAbsent else resizeDrain u c n (resizeBegin u c n sl r s)

def execSliceResize (q seq : Nat) (s : State) : Out := cmdOut 0x0802 q seq sliceResizeS s

/-! ### SLICE_DESTROY (R453) -/

/-- An extent or a window is charged to the slice. -/
def sliceUsed (s : State) (n : Nat) : Bool :=
  s.xt.extents.any (fun e => decide (e.2.slice = n)) || decide (0 < sliceWindows s n 256)

/-- A slice's queues drain: packets not taken are discarded. -/
def drainQueues (n : Nat) (s : State) : State :=
  { s with cmd := { s.cmd with
      queues := tmap s.cmd.queues (fun _ u => if u.slice = n then { u with state := .draining, sealed := [] } else u) } }

/-- Contexts, queues, sets, PASIDs, key and quotas of a slice are gone. -/
def sliceErase (n : Nat) (s : State) : State :=
  let s := { s with
    ten := { slices := tdel s.ten.slices n,
             ctxs := s.ten.ctxs.filter (fun e => !decide (e.1 ≠ 0 ∧ e.2.slice = n)),
             pasids := s.ten.pasids.filter (fun e => !decide (e.2 = n)) },
    cmd := { s.cmd with queues := s.cmd.queues.filter (fun e => !decide (e.2.slice = n)) },
    sec := { s.sec with
      sets := s.sec.sets.filter (fun e => !decide (e.2.slice = n)),
      keys := s.sec.keys.filter (fun k => !decide (k = n)) },
    pwr := { s.pwr with
      grants := s.pwr.grants.filter (fun e => !decide (e.1 / 16 = n)),
      remaining := s.pwr.remaining.filter (fun e => !decide (e.1 / 16 = n)),
      budget := s.pwr.budget.filter (fun e => !decide (e.1 / 16 = n)),
      breaches := s.pwr.breaches.filter (fun e => !decide (e.1 / 16 = n)) } }
  stationsFreed s

/-- SLICE_DESTROY: its contexts go through rung 1 first, and its queues' taken commands reply. -/
def sliceDestroyS (u : Queue) (c : TakenCmd) (s : State) : State :=
  let n := par c 0 2
  let fin := fun st => finishCmd u.num c.seq st 0 s
  if n = 0 ∨ 127 < n then fin stBadParam
  else if (tget? s.ten.slices n).isNone then fin stSliceAbsent
  else if sliceUsed s n then fin stSliceNotEmpty
  else
    let s := (sliceCtxs s n).foldl (fun s k => rung1Start k rcReset [] s) s
    let s := drainQueues n s
    if (sliceCtxs s n).any (fun k => !((ctxOf s k).map (·.dead)).getD true || (rungReq? s 1 k).isSome) ∨
        s.cmd.queues.any (fun e => decide (e.2.slice = n) && (!e.2.cmds.isEmpty || e.2.stopSeq.isSome)) then s
    else finishCmd u.num c.seq stOk 0 (sliceErase n s)

def execSliceDestroy (q seq : Nat) (s : State) : Out := cmdOut 0x0803 q seq sliceDestroyS s

/-! ### SLICE_PASID (R442) -/

/-- SLICE_PASID. -/
def slicePasidS (u : Queue) (c : TakenCmd) (s : State) : State :=
  let p := par c 0 4
  let n := par c 4 2
  let op := par c 6 1
  let fin := fun st => finishCmd u.num c.seq st 0 s
  if n = 0 ∨ 127 < n ∨ 1 < op ∨ 2 ^ 20 ≤ p then fin stBadParam
  else if (tget? s.ten.slices n).isNone then fin stSliceAbsent
  else
    let cur := tget? s.ten.pasids p
    if op = 0 then
      if cur = some n then fin stOk
      else if cur.isSome then fin stPasidInUse
      else if 16 ≤ (s.ten.pasids.filter (fun e => decide (e.2 = n))).length ∨ 1024 ≤ s.ten.pasids.length then fin stPasidLimit
      else finishCmd u.num c.seq stOk 0 { s with ten := { s.ten with pasids := tput s.ten.pasids p n } }
    else if cur ≠ some n then fin stBadParam
    else if s.cmd.queues.any (fun e => decide (e.2.pasid = some p)) then fin stBusy
    else finishCmd u.num c.seq stOk 0 { s with ten := { s.ten with pasids := tdel s.ten.pasids p } }

def execSlicePasid (q seq : Nat) (s : State) : Out := cmdOut 0x0804 q seq slicePasidS s

/-! ### DIRTY_LOG (R454-R457) -/

/-- Data granules charged to a slice, as stack·2^20 + granule. -/
def sliceGrans (s : State) (n : Nat) : List Nat :=
  (s.xt.extents.filter (fun e => decide (e.2.slice = n))).foldl (fun l e =>
    (e.2.stks.zip e.2.grans).foldl (fun l p => p.2.foldl (fun l g => insKey (p.1 * 1048576 + g) l) l) l) []

/-- A slice's record, made for slice 0 when it first logs: slice 0 has no quota record (R654). -/
def logRecord (s : State) (n : Nat) : Slice := (tget? s.ten.slices n).getD (sliceOf (zeros 512) 0)

/-- Owner entry of a granule: HANDLE, and the granule's index within the extent's data, counted through its stacks
in list order. -/
def ownerEntry (s : State) (key : Nat) : List Byte :=
  match granOwner s (key / 1048576) (key % 1048576) with
  | some (num, x, _, i, j) => leBytes 4 (handleOf num x) ++ leBytes 4 (sumNat ((x.grans.take i).map (·.length)) + j)
  | none => zeros 8

/-- Reports one granule: its bit and its owner entry. -/
def reportGran (pasid : Option Nat) (bitmap key : Nat) (s : State) : State :=
  let b := (hostRead s pasid (bitmap + key / 8) 1).headD 0
  let s := hostWrite pasid (bitmap + key / 8) [b ||| BitVec.ofNat 8 (2 ^ (key % 8))] s
  hostWrite pasid (bitmap + 0x280000 + 8 * key) (ownerEntry s key) s

/-- Appends the pages logged to the host log at HOSTLOG; past CAPACITY, OVERFLOW (R457). -/
def reportPages (pasid : Option Nat) (at_ n : Nat) (s : State) : State :=
  match tget? s.ten.slices n with
  | none => s
  | some sl =>
    let cap := leNat (hostRead s pasid at_ 4)
    let w := leNat (hostRead s pasid (at_ + 4) 4)
    let now := sl.hostlog.take (cap - w)
    let full := decide (now.length < sl.hostlog.length)
    let bytes := now.flatMap (fun e => leBytes 8 e.1 ++ leBytes 4 e.2 ++ zeros 4)
    let s := if now.isEmpty then s else hostWrite pasid (at_ + 4) (leBytes 4 (w + now.length)) (hostWrite pasid (at_ + 64 + 16 * w) bytes s)
    let s := if sl.hostlogOver || full then hostWrite pasid (at_ + 8) [1] s else s
    let s := if full && !sl.hostlogOver then raiseSlice pd0 0x001A 0 n (w + now.length) 0 0 s else s
    setSlice n (fun sl => { sl with hostlog := [], hostlogOver := sl.hostlogOver || full }) s

/-- DIRTY_LOG: 1 starts, 2 harvests, 0 stops. Starting clears the host log, WRITTEN and OVERFLOW of its header too (R454, R457).
[DEDUCED, log entry 112] -/
def dirtyLogS (u : Queue) (c : TakenCmd) (s : State) : State :=
  let bitmap := par c 0 8
  let n := par c 16 2
  let en := par c 18 1
  let fin := fun st => finishCmd u.num c.seq st 0 s
  if 2 < en ∨ bitmap % 4096 ≠ 0 ∨ 127 < n then fin stBadParam
  else if ¬ sliceThere s n then fin stSliceAbsent
  else
    let sl := logRecord s n
    if en = 1 then
      let new := { sl with dirtyOn := true, dirty := sliceGrans s n, hostlog := [], hostlogOver := false }
      finishCmd u.num c.seq stOk 0 (hostWrite u.pasid (par c 8 8 + 4) (zeros 5) { s with ten := { s.ten with slices := tput s.ten.slices n new } })
    else if en = 0 then
      finishCmd u.num c.seq stOk 0 { s with ten := { s.ten with slices := tput s.ten.slices n { sl with dirtyOn := false } } }
    else
      let now := sl.dirty.take 65536
      let s := { s with ten := { s.ten with slices := tput s.ten.slices n { sl with dirty := sl.dirty.drop 65536 } } }
      let s := now.foldl (fun s k => reportGran u.pasid bitmap k s) s
      finishCmd u.num c.seq stOk (sl.dirty.length - 65536) (reportPages u.pasid (par c 8 8) n s)

def execDirtyLog (q seq : Nat) (s : State) : Out := cmdOut 0x0805 q seq dirtyLogS s

end Sys2Proof.Machine
end

