-- ==== Sys2Proof/Machine/SecurityCmds.lean ====
section
/-! DEFINITION. Attestation and sealed sets (R560-R582): SPDM, SET_KEY, BUNDLE_IMPORT and SET_DESTROY. -/

namespace Sys2Proof.Machine

/-- The module's device hash (R556). -/
def deviceHash : List Byte := (List.range 48).map Config.deviceHash

/-! ### SPDM (R557, R560-R562) -/

/-- The ordering code LKM-K20-A (R1). -/
def orderingCode : List Byte := [0x4C, 0x4B, 0x4D, 0x2D, 0x4B, 0x32, 0x30, 0x2D, 0x41]

/-- SPDM certificate slots 0-7: slot 0 holds the module's chain, the others nothing (R557). -/
def certSlots : List (List (List Byte)) :=
  [Config.rootCert, Config.midCert, Config.identityCert deviceHash orderingCode cfgSerial] :: List.replicate 7 []

/-- The measurement blocks of R562, with their indices; numbers lie little-endian in their own width. [DESIGN CHOICE, log entry 101] -/
def measurements (s : State) : List (Nat × List Byte) :=
  [(1, (List.range 48).map (Config.sha384 Config.bootRom)),
   (2, s.sec.digest ++ leBytes 2 s.sec.svn),
   (3, leBytes 2 (max Config.svnFloor s.sec.svnFloor)),
   (4, leBytes 1 (b2n s.sec.unlocked)),
   (5, leBytes 8 idRev),
   (6, leBytes 1 s.pwr.origin),
   (7, leBytes 1 s.sec.sets.length ++ s.sec.sets.flatMap (fun e => e.2.setId))]

/-- The response to a request on the connection as it stands. -/
def spdmAnswer (s : State) (req : List Byte) : List Byte := Config.spdmResponse certSlots (measurements s) s.sec.spdmLog req

/-- One SPDM request on the device's one connection. -/
def spdmRun (req : List Byte) (s : State) : State :=
  { s with sec := { s.sec with spdmLog := s.sec.spdmLog ++ [req], spdmOut := spdmAnswer s req } }

/-- SPDM: a request that no message of R561 begins (none is shorter than 4 bytes) or whose response RESP_MAX does not
allow is SPDM_BAD. -/
def spdmS (u : Queue) (c : TakenCmd) (s : State) : State :=
  let req := hostRead s u.pasid (par c 0 8) (par c 16 4)
  let resp := spdmAnswer s req
  if par c 16 4 < 4 ∨ resp.isEmpty ∨ par c 20 4 < resp.length then finishCmd u.num c.seq stSpdmBad 0 s
  else finishCmd u.num c.seq stOk resp.length (hostWrite u.pasid (par c 8 8) resp (spdmRun req s))

def execSpdm (q seq : Nat) (s : State) : Out := cmdOut 0x0901 q seq spdmS s

/-! ### SET_KEY (R568-R570, R582) -/

/-- Fields of a SET_KEY message in range, and addressed to this device. -/
def setMsgOk (m : List Byte) : Bool :=
  let n := field m 6 1
  decide (field m 0 4 = 0x54534B48 ∧ field m 4 2 = 1 ∧ 1 ≤ n ∧ n ≤ 16) && zeroAt m 7 1 && zeroAt m 228 4 &&
  decide ((m.drop 72).take 48 = deviceHash) && zeroAt m (232 + 48 * n) (768 - 48 * n)

/-- CONFIRM (R570): "confirm" and the device hash under the set key. -/
def confirmOf (key : List Byte) : List Byte :=
  (List.range 16).map (Config.hmac key ([0x63, 0x6F, 0x6E, 0x66, 0x69, 0x72, 0x6D] ++ deviceHash))

/-- SET_KEY. [DEDUCED, log entry 113] -/
def setKeyS (u : Queue) (c : TakenCmd) (s : State) : State :=
  let n := par c 16 2
  let m := hostRead s u.pasid (par c 0 8) 1048
  let fin := fun st => finishCmd u.num c.seq st 0 s
  if s.sec.unlocked then fin stDebugUnlocked
  else if n = 0 ∨ 255 < n then fin stBadParam
  else if ¬ setMsgOk m then fin stSetMsgBad
  else
    match Config.setKey m with
    | none => fin stSetMsgBad
    | some key =>
      if (tget? s.sec.sets n).isSome then fin stSetInUse
      else
        let new : SealedSet := {
          slice := u.slice, setId := (m.drop 8).take 16, listHash := (m.drop 24).take 48,
          recipes := (List.range (field m 6 1)).map (fun i => (m.drop (232 + 48 * i)).take 48), key := key }
        let resp := layout 128 [(0, leBytes 4 0x0C0C), (4, leBytes 2 n), (16, new.setId), (32, deviceHash), (80, confirmOf key)]
        finishCmd u.num c.seq stOk 0 (hostWrite u.pasid (par c 8 8) resp { s with
          sec := { s.sec with sets := tput s.sec.sets n new } })

def execSetKey (q seq : Nat) (s : State) : Out := cmdOut 0x0902 q seq setKeyS s

/-! ### BUNDLE_IMPORT (R572-R574) -/

/-- Bytes of a bundle before its payload. -/
def bundleHead (n : Nat) : Nat := roundUp (256 + 48 * n) 64

/-- MAGIC, FORMAT, ranges, reserved fields, SET_ID and LIST_HASH of a bundle's header, with its device list. -/
def bundleOk (x : SealedSet) (h list : List Byte) : Bool :=
  decide (field h 0 4 = 0x44424B48 ∧ field h 4 2 = 1) && zeroAt h 6 2 && zeroAt h 74 6 && zeroAt h 108 4 && zeroAt h 152 8 &&
  zeroAt h 176 80 && decide (field h 80 8 % 65536 = 0 ∧ field h 88 8 % 65536 = 0 ∧ 65536 ≤ field h 88 8 ∧ field h 88 8 ≤ 68719411200) &&
  decide ((h.drop 8).take 16 = x.setId ∧ (h.drop 24).take 48 = x.listHash ∧ (List.range 48).map (Config.sha384 list) = x.listHash)

/-- Device hashes of a bundle's list. -/
def listHas (list : List Byte) (n : Nat) : Bool :=
  (List.range n).any (fun i => decide ((list.drop (48 * i)).take 48 = deviceHash))

/-- Writes payload bytes into an extent at a byte offset, line by line at their homes, replica included. -/
def putPayload (x : Extent) (off : Nat) (bs : List Byte) (s : State) : State :=
  (List.range (bs.length / 128)).foldl (fun s i =>
    match locate x (off + 128 * i) with
    | some (k, a) => writeLine k (a / 128) (2 ^ 128 - 1) ((bs.drop (128 * i)).take 128) s
    | none => s) s

/-- 64 KiB ranges of a byte range of an extent. -/
def rangeGrans (off n : Nat) : List Nat := (List.range (n / 65536)).map (fun i => off / 65536 + i)

/-- A home of the range is out of service. -/
def rangeDown (s : State) (x : Extent) (off n : Nat) : Bool :=
  (List.range (n / 4096)).any (fun i => match locate x (off + 4096 * i) with
    | some (k, _) => homeDown s k
    | none => true)

/-- The import of a bundle that passed its checks: decrypted, and marked loaded once the tag verifies. [DEDUCED, log entry 113] -/
def importRun (u : Queue) (c : TakenCmd) (num : Nat) (x : Extent) (off n : Nat) (bkey_ h list payload : List Byte) (s : State) : State :=
  match Config.gcm bkey_ ((h.drop 96).take 12) (h.take 160 ++ list) payload ((h.drop 160).take 16) with
  | some plain =>
    let s := putPayload x off plain s
    let add := fun y : Extent => { y with loaded := (rangeGrans off n).foldl (fun l g => insKey g l) y.loaded }
    finishCmd u.num c.seq stOk 0 { s with xt := { s.xt with extents := tupd s.xt.extents num add } }
  | none =>
    let s := putPayload x off (zeros n) s
    finishCmd u.num c.seq stBundleAuth 0
      (raise (cplxDie u.cplx) 0x0041 c.ctx u.slice (par c 12 2) (handleOf num x) off s)

/-- BUNDLE_IMPORT, with R573's checks in order. [DEDUCED, log entry 113] -/
def bundleImportS (u : Queue) (c : TakenCmd) (s : State) : State :=
  let a := par c 0 8
  let set := par c 12 2
  let who := Agent.cmd u.num c.seq
  let fin := fun st => finishCmd u.num c.seq st 0 s
  match setOwned s u.slice set, findMap s c.ctx a with
  | none, _ => fin stSetAbsent
  | some _, none => fin (if inCounters a then stBadParam else stNoExtent)
  | some x, some (m, src) =>
    let room := m.start + src.length - a
    let h := ctxRead s c.ctx a 256
    let cnt := field h 72 2
    let off := field h 80 8
    let n := field h 88 8
    let list := ctxRead s c.ctx (a + 256) (48 * cnt)
    if room < 256 then fin stBundleBad
    else
      match ctxReadRefusal s c.ctx a 256 who with
      | some st => fin st
      | none =>
        if ctxBusy s c.ctx a (min room (bundleHead cnt + n)) then s
        else if cnt = 0 ∨ 4096 < cnt ∨ room < bundleHead cnt + n ∨ ¬ bundleOk x h list then fin stBundleBad
        else if ¬ listHas list cnt then fin stNotInSet
        else
          match cmdExtent s (par c 8 4) with
          | none => fin stBadParam
          | some (num, e) =>
            if ¬ attrSealed e.attr ∨ e.sealSet ≠ set ∨ e.length < off + n then fin stBadParam
            else if (rangeGrans off n).any (fun g => decide (g ∈ e.loaded)) then fin stSealLoaded
            else
              match Config.unwrap x.key ((h.drop 112).take 40) with
              | none => fin stBundleAuth
              | some bk_ =>
                match ctxReadRefusal s c.ctx a (bundleHead cnt + n) who with
                | some st => fin st
                | none =>
                  if rangeDown s e off n then fin stHomeUnavailable
                  else importRun u c num e off n bk_ h list (ctxRead s c.ctx (a + bundleHead cnt) n) s

def execBundleImport (q seq : Nat) (s : State) : Out :=
  if issueHeld s then .next s else cmdOut 0x0903 q seq bundleImportS s

/-! ### SET_DESTROY (R578) -/

/-- Extents of a sealed set. -/
def setExtents (s : State) (set : Nat) : List (Nat × Extent) :=
  s.xt.extents.filter (fun e => attrSealed e.2.attr && decide (e.2.sealSet = set))

/-- Sealed contexts of a set: living contexts that map one of its extents. -/
def setCtxs (s : State) (set : Nat) : List Nat :=
  (((setExtents s set).flatMap (fun e => ctxsMapping s e.1)).eraseDups).filter (fun c =>
    decide (c ≠ 0) && !((ctxOf s c).map (·.dead)).getD true)

/-- SET_DESTROY: rung 1 of the set's contexts, its extents destroyed and zeroed, and its key erased. -/
def setDestroyS (u : Queue) (c : TakenCmd) (s : State) : State :=
  let set := par c 0 2
  match setOwned s u.slice set with
  | none => finishCmd u.num c.seq stSetAbsent 0 s
  | some _ =>
    let s := (setCtxs s set).foldl (fun s k => rung1Start k rcReset [] s) s
    if ¬ (setCtxs s set).isEmpty then s
    else
      let s := (setExtents s set).foldl (fun s e => destroyNow e.1 e.2 s) s
      if s.xt.freeing.any (fun e => decide (e.2.2 = u.slice)) then s
      else finishCmd u.num c.seq stOk 0 { s with sec := { s.sec with sets := tdel s.sec.sets set } }

def execSetDestroy (q seq : Nat) (s : State) : Out := cmdOut 0x0904 q seq setDestroyS s

end Sys2Proof.Machine
end

