-- ==== Sys2Proof/Machine/Access.lean ====
section
/-! DEFINITION. A station's accesses to device memory: translation through its extent cache (R364-R366), pieces of
transfers and their order (R330), what a refused request does to its requester (R371, R372, R481), and packets sent
through outbound windows (R502-R508, R515, R516). -/

namespace Sys2Proof.Machine

/-! ### Translation at a station -/

/-- An extent-cache entry translates an address: the handle names an extent mapped there. -/
def entryHits (s : State) (x : Stn) (a : Nat) (e : Nat × Nat × Nat) : Bool :=
  decide (e.1 = x.ctx ∧ e.2.2 ≤ a) &&
    (match extByHandle s e.2.1 with
     | some (_, y) => decide (a < e.2.2 + y.length)
     | none => false)

/-- The place of an address through the station's extent cache; none where the cache has no entry for it. -/
def xlate (s : State) (x : Stn) (a : Nat) : Option Place :=
  match x.xcache.find? (entryHits s x a) with
  | none => none
  | some e =>
    match extByHandle s e.2.1 with
    | none => none
    | some (_, y) =>
      (locate y (a - e.2.2)).map (fun p => ⟨p.1, p.2 / 128, p.2 % 128, e.2.1, readOnlyFor y x.ctx⟩)

/-- A use of an entry makes it the most recent. -/
def touchX (n a : Nat) (s : State) : State :=
  setStn n (fun x =>
    match x.xcache.find? (entryHits s x a) with
    | some e => { x with xcache := e :: x.xcache.filter (fun f => !decide (f = e)) }
    | none => x) s

/-- Puts an entry into the extent cache of 32 entries. -/
def addX (n : Nat) (e : Nat × Nat × Nat) (s : State) : State :=
  setStn n (fun x => { x with xcache := (e :: x.xcache.filter (fun f => !decide (f = e))).take 32 }) s

/-! ### Outbound mappings (R502, R503) -/

/-- The valid outbound window of a context whose mapping holds an address: its number. -/
def owinAt (s : State) (c a : Nat) : Option (Nat × OWin) :=
  s.rbx.owins.find? (fun e => e.2.valid && decide (e.2.owner = c) &&
    decide ((owinRange e.2).1 ≤ a ∧ a < (owinRange e.2).1 + (owinRange e.2).2))

/-- The valid outbound window of any owner whose mapping holds an address. -/
def owinAny (s : State) (a : Nat) : Option (Nat × OWin) :=
  s.rbx.owins.find? (fun e => e.2.valid && decide ((owinRange e.2).1 ≤ a ∧ a < (owinRange e.2).1 + (owinRange e.2).2))

/-- Remote offset of an address. -/
def remoteOff (w : OWin) (a : Nat) : Nat := w.remote + (a - (owinRange w).1)

/-- The address lies in the mapping's counter page. -/
def inCounterPage (w : OWin) (a : Nat) : Bool := decide ((owinRange w).1 + (owinRange w).2 ≤ a + 65536)

/-! ### Pieces of transfers -/

/-- Bytes of a contiguous range from `a` that one access takes: within a line, or within 4 KiB of a remote offset. -/
def accessLen (s : State) (c a n : Nat) : Nat :=
  match owinAt s c a with
  | some (_, w) => min n (4096 - remoteOff w a % 4096)
  | none => min n (128 - a % 128)

/-- Cuts a contiguous range of device memory into pieces; `loc` is its first byte's local offset. -/
def cutRange (s : State) (c : Nat) : Nat → Nat → Nat → Nat → List XPiece
  | 0, _, _, _ => []
  | fuel + 1, a, n, loc =>
    if n = 0 then []
    else
      let l := accessLen s c a n
      ⟨a, loc, l, 0⟩ :: cutRange s c fuel (a + l) (n - l) (loc + l)

/-- A transfer of a station and one of its pieces. -/
def pieceOf (x : Stn) (xid k : Nat) : Option (Xfer × XPiece) :=
  match x.xfers.find? (fun f => decide (f.id = xid)) with
  | some f => (f.pieces[k]?).map (fun p => (f, p))
  | none => none

/-- Sets where a piece stands. -/
def setPiece (n xid k st : Nat) (s : State) : State :=
  setStn n (fun x => { x with xfers := x.xfers.map (fun f =>
    if f.id = xid then { f with pieces := f.pieces.zipIdx.map (fun e => if e.2 = k then { e.1 with st := st } else e.1) } else f) }) s

/-- AGENT and INDEX of a transfer's fault record (R373). -/
def xAgent (f : Xfer) : Nat × Nat :=
  match f.grp with
  | some (g, _) => (if f.kind = .semAdd then 0 else 2, g)
  | none => (match f.kind with
    | .fetch => (1, f.desc)
    | .store => (1, f.desc)
    | _ => (0, f.desc))

/-- A translation fault of a piece: a record, and the piece stalls (R372). -/
def pieceFault (n : Nat) (f : Xfer) (p : XPiece) (k cause : Nat) (s : State) : State :=
  setPiece n f.id k 3 (stationXlate n cause p.addr (xAccess f) (xAgent f).1 (xAgent f).2 p.len s)

/-- INDEX_KIND and INDEX of a transfer's station fault. -/
def xIndex (f : Xfer) : Nat × Nat := match f.grp with
  | some (g, _) => (2, g)
  | none => (0, f.desc)

/-- The semaphore descriptor in progress at a station: its index and work. -/
def semWorkOf (x : Stn) : Option (Nat × Work) :=
  x.works.find? (fun e => decide (e.2.st = .wait) && decide (dOp (nth [] x.descs e.1) = 6 ∨ dOp (nth [] x.descs e.1) = 7))

/-- A station fault of the agent behind a request, with its descriptor, group or slot as INDEX. -/
def agentFault (who : Agent) (code detail : Nat) (s : State) : State :=
  match who with
  | .xfer n xid k =>
    (match (stnOf s n).bind (fun x => pieceOf x xid k) with
     | some (f, p) => stationFault n code (xIndex f).1 (xIndex f).2 (if f.kind = .semAdd then p.loc else 0) p.addr detail s
     | none => s)
  | .sem n =>
    (match (stnOf s n).bind (fun x => (semWorkOf x).map (fun w => (x, w))) with
     | some (x, (i, _)) => stationFault n code 0 i 0 (field (nth [] x.descs i) 8 8) detail s
     | none => s)
  | .semGrp n g =>
    (match (stnOf s n).bind (fun x => tget? x.groups g) with
     | some y =>
       (match y.waiting with
        | some (10, v) => stationFault n code 2 g y.pc (v / 4) detail s
        | _ => stationFault n code 2 g y.pc 0 detail s)
     | none => s)
  | .missReg n r =>
    (match (stnOf s n).bind (fun x => tget? x.rg.miss r) with
     | some (_, ws, _) => stationFault n code 3 (ws.headD 0) 0 0 detail s
     | none => s)
  | _ => s

/-- A semaphore access of a descriptor or group moves to state `v`: 0 not sent, 1 sent, 3 stalled. -/
def setSem (who : Agent) (v : Nat) (s : State) : State :=
  match who with
  | .sem n => setStn n (fun x => { x with works := tmap x.works (fun i w =>
      if w.st = .wait ∧ (dOp (nth [] x.descs i) = 6 ∨ dOp (nth [] x.descs i) = 7) then { w with count := v } else w) }) s
  | .semGrp n g => setStn n (fun x => { x with groups := tupd x.groups g (fun y =>
      match y.waiting with
      | some (10, a) => { y with waiting := some (10, a / 4 * 4 + v) }
      | _ => y) }) s
  | _ => s

/-- A semaphore access is complete: its descriptor's effect is done, its group goes on, or the add of an MSEMR that has gone
on leaves (R111, R222, R336). -/
def semDone (who : Agent) (s : State) : State :=
  match who with
  | .sem n => setStn n (fun x => { x with works := tmap x.works (fun i w =>
      if w.st = .wait ∧ (dOp (nth [] x.descs i) = 6 ∨ dOp (nth [] x.descs i) = 7) then { w with st := .fin } else w) }) s
  | .semGrp n g => setStn n (fun x => { x with groups := tupd x.groups g (fun y =>
      match y.waiting with
      | some (10, _) => { y with waiting := none, pc := y.pc + 8 }
      | _ => y) }) s
  | .xfer n xid _ => setStn n (fun x => { x with xfers := x.xfers.filter (fun f => !decide (f.id = xid ∧ f.kind = .semAdd)) }) s
  | _ => s

/-! ### Refused requests (R357, R366, R372, R481) -/

/-- The extent that a request's handle names is read-only for its context. -/
def roReq (s : State) (r : Req) : Bool :=
  match extByHandle s r.handle with
  | some (_, x) => readOnlyFor x r.ctx
  | none => false

/-- The same line in the extent's replica, where there is one. -/
def replicaReq (s : State) (r : Req) : Option Req :=
  (replicaLine s r.stack r.line).map (fun p => { r with stack := p.1, line := p.2 })

/-- The request with another place. -/
def moveReq (h : HReq) (r : Req) : HReq :=
  match h with
  | .gets _ => .gets r
  | .getu _ => .getu r
  | .getr _ => .getr r
  | .getc _ => .getc r
  | .write _ m d => .write r m d
  | .red _ o => .red r o
  | .semWait _ o v => .semWait r o v

/-- The oldest request of a station for a line of its cache: the reads that wait for it, and whether the line was invalidated
meanwhile (R307). -/
def pendOf (x : Stn) (key : Nat) : Option (List Req × Bool) := (x.pend.find? (fun e => decide (e.1 = key))).map (·.2)

/-- The oldest request of a station for a line of its cache is over. -/
def dropPend (key : Nat) (x : Stn) : Stn := { x with pend := x.pend.eraseP (fun e => decide (e.1 = key)) }

/-- Reads that wait for the oldest request of a line for a station cache. -/
def pendReaders (s : State) (n key : Nat) : List Req := (((stnOf s n).bind (fun x => pendOf x key)).map (·.1)).getD []

/-- A request ends HOME_UNAVAILABLE at its requester (R481). -/
def endUnavailable (h : HReq) (s : State) : State :=
  let r := reqOf h
  match r.who with
  | .cache n =>
    let ws := pendReaders s n (lkey r.stack r.line)
    ws.foldl (fun s w => agentFault w.who stHomeUnavailable 0 s)
      (setStn n (dropPend (lkey r.stack r.line)) s)
  | .cmd q seq => finishCmd q seq stHomeUnavailable 0 s
  | who => agentFault who stHomeUnavailable 0 s

/-- A request whose home is unavailable: to the replica, sent again while that is for a time, or ended (R481). -/
def unavailable (h : HReq) (s : State) : State :=
  let r := reqOf h
  let wr : Bool := match h with
    | .write _ _ _ => true
    | .red _ _ => true
    | _ => false
  if wr = true ∨ ¬ roReq s r then endUnavailable h s
  else
    match replicaReq s r with
    | some r2 =>
      if isRead h ∧ homeAnswers s r2.stack r.who then homeRequest (moveReq h r2) s
      else if (cruOf s r.stack).mapped then endUnavailable h s
      else { s with home := { s.home with resend := s.home.resend ++ [h] } }
    | none =>
      if (cruOf s r.stack).mapped then endUnavailable h s
      else { s with home := { s.home with resend := s.home.resend ++ [h] } }

/-- NOT_OWNER at the requester: a translation fault with cause 3, and its agent stalls (R371, R372). -/
def refusedOwner (r : Req) (s : State) : State :=
  match r.who with
  | .cache n =>
    (pendReaders s n (lkey r.stack r.line)).foldl (fun s w => match w.who with
      | .xfer n xid k => (match (stnOf s n).bind (fun x => pieceOf x xid k) with
        | some (f, p) => pieceFault n f p k 3 s
        | none => s)
      | _ => s) (setStn n (dropPend (lkey r.stack r.line)) s)
  | .xfer n xid k =>
    (match (stnOf s n).bind (fun x => pieceOf x xid k) with
     | some (f, p) => pieceFault n f p k 3 s
     | none => s)
  | .sem n =>
    (match (stnOf s n).bind (fun x => (semWorkOf x).map (fun w => (x, w))) with
     | some (x, (i, _)) =>
       setSem r.who 3 (stationXlate n 3 (field (nth [] x.descs i) 8 8) (if dOp (nth [] x.descs i) = 6 then 4 else 3) 0 i 8 s)
     | none => s)
  | .semGrp n g =>
    (match (stnOf s n).bind (fun x => tget? x.groups g) with
     | some y =>
       (match y.waiting with
        | some (10, v) => setSem r.who 3 (stationXlate n 3 (v / 4) 4 0 g 8 s)
        | _ => s)
     | none => s)
  | .cmd q seq => finishCmd q seq stNotOwner 0 s
  | _ => s

/-- A request leaves its agent: refusals that the home makes at once reach the requester at once. -/
def sendReq (h : HReq) (s : State) : State :=
  match homeRefuses s (reqOf h) with
  | some st => if st = stHomeUnavailable then unavailable h s else if st = stNotOwner then refusedOwner (reqOf h) s else homeRequest h s
  | none => homeRequest h s

/-! ### Riberex: sending (R493, R494, R504-R508) -/

/-- A port. -/
def portOf (s : State) (p : Nat) : RPort := tget {} s.rbx.ports p

/-- Changes a port. -/
def setPort (p : Nat) (f : RPort → RPort) (s : State) : State :=
  { s with rbx := { s.rbx with ports := tmod {} s.rbx.ports p f } }

/-- A port is FULL or HALF. -/
def portUp (s : State) (p : Nat) : Bool := decide (2 ≤ (portOf s p).st)

/-- Port die of a port (R487). -/
def portDie (p : Nat) : Nat := if p < 12 then pd0 else pd1

/-- Virtual channel of a packet type (R499). -/
def vcOf (ty : Nat) : Nat := if ty = 0x20 then 2 else if ty = 0x10 ∨ ty = 0x11 then 1 else 0

/-- Flits of a packet: its header and data, 240 bytes each (R491). -/
def pktFlits (p : Pkt) : Nat := ceilDiv (32 + p.data.length) 240

/-- The port of a list with the most request credits, the lower number at a tie. -/
def mostCredits (s : State) : List Nat → Option Nat
  | [] => none
  | p :: r =>
    match mostCredits s r with
    | none => some p
    | some q => if nth 0 (portOf s q).credits 0 ≤ nth 0 (portOf s p).credits 0 then some p else some q

/-- The port that a packet of an outbound window takes (R506), none where no port of PORT_MASK is up. -/
def choosePort (s : State) (mask off : Nat) : Option Nat :=
  let all := bitsSet 24 mask
  let both := all.any (fun p => decide (p < 12)) && all.any (fun p => decide (12 ≤ p))
  let want := if both && bitOf off 12 then pd1 else if both then pd0 else if all.any (fun p => decide (p < 12)) then pd0 else pd1
  let up := all.filter (portUp s)
  match mostCredits s (up.filter (fun p => decide (portDie p = want))) with
  | some p => some p
  | none => mostCredits s up

/-- A port can send a flit of channel `vc` now: a credit, and room in its replay buffer (R493, R494). -/
def flitRoom (u : RPort) (vc : Nat) : Bool := decide (1 ≤ nth 0 u.credits vc ∧ u.replay.length < 512)

/-- A packet of channel `vc` can start at a port: its flits follow one another, so no other of the channel is under way. -/
def rbxRoom (s : State) (p vc : Nat) : Bool := flitRoom (portOf s p) vc && !(portOf s p).cur.any (fun e => decide (e.1 = vc))

/-- A port sends a flit of channel `vc`. -/
def flitOut (vc : Nat) (u : RPort) : RPort :=
  { u with credits := putNth u.credits vc (nth 0 u.credits vc - 1), txSeq := (u.txSeq + 1) % 4096, replay := u.replay ++ [(u.txSeq, vc, 0)] }

/-- A port sends what it can of the packets that have started: an express packet's flits first, then another's from where it
stopped (R497). A packet is sent with its last flit. -/
def drainPort (p : Nat) : Nat → State → State
  | 0, s => s
  | fuel + 1, s =>
    let u := portOf s p
    let ready := u.cur.filter (fun e => flitRoom u e.1)
    match (ready.find? (fun e => decide (e.1 = 2))).or ready.head? with
    | none => s
    | some (vc, k, left) =>
      if left ≤ 1 then
        drainPort p fuel (setPort p (fun u => flitOut vc { u with cur := u.cur.erase (vc, k, left) })
          { s with rbx := { s.rbx with sent := s.rbx.sent ++ [(p, k)] } })
      else
        drainPort p fuel (setPort p (fun u => flitOut vc { u with
          cur := u.cur.map (fun e => if e = (vc, k, left) then (vc, k, left - 1) else e) }) s)

/-- Flits that the packets under way at a port have left. -/
def flitsLeft (s : State) (p : Nat) : Nat := sumNat ((portOf s p).cur.map (fun e => e.2.2))

/-- Starts a packet at a port: its flits leave as the port's credits allow. -/
def emitPkt (p : Nat) (k : Pkt) (s : State) : State :=
  let s := setPort p (fun u => { u with cur := u.cur ++ [(vcOf k.ptype, k, pktFlits k)] }) s
  drainPort p (flitsLeft s p) s

/-- Station behind an agent. -/
def agentStn : Agent → Option Nat
  | .cache n => some n
  | .xfer n _ _ => some n
  | .missReg n _ => some n
  | .sem n => some n
  | .semGrp n _ => some n
  | _ => none

/-- Outstanding requests of a station, and of a port die. -/
def stnOutstanding (s : State) (n : Nat) : Nat := (s.rbx.out.filter (fun q => decide (agentStn q.who = some n))).length
def dieOutstanding (s : State) (d : Nat) : Nat := (s.rbx.out.filter (fun q => decide (q.die = d))).length

/-- RBX_EXPIRED, at most once per millisecond of a port die: requests expired, window and device of the first. -/
def expiredEvent (d w dev : Nat) (s : State) : State :=
  let n := tget 0 s.rbx.expCount d + 1
  let due := match tget? s.rbx.expAt d with
    | none => true
    | some t => decide (refMs ≤ refOf s d - t)
  if due then
    raise d 0x002B 0 0 n w dev { s with rbx := { s.rbx with expAt := tput s.rbx.expAt d (refOf s d), expCount := tset 0 s.rbx.expCount d 0 } }
  else { s with rbx := { s.rbx with expCount := tset 0 s.rbx.expCount d n } }

/-- An outbound request expires (R515, R516): counted, and REMOTE_LOST at its station, but for Piper traffic (R180). -/
def expireReq (q : RReq) (s : State) : State :=
  let s := { s with rbx := { s.rbx with
    out := s.rbx.out.filter (fun x => !decide (x.tag = q.tag)), expired := satAdd (2 ^ 32 - 1) s.rbx.expired 1 } }
  let s := expiredEvent q.die q.owin q.pkt.dst s
  match q.piper with
  | some _ => s
  | none => agentFault q.who stRemoteLost 0 s

/-- Sends one unsent request if a port takes it; a request with no port left expires at once (R515). -/
def trySend (q : RReq) (s : State) : State :=
  match choosePort s ((tget {} s.rbx.owins q.owin).portMask) q.pkt.offset with
  | none => expireReq q s
  | some p =>
    if rbxRoom s p (vcOf q.pkt.ptype) then
      let s := emitPkt p q.pkt s
      if q.pkt.ptype = 0x20 then semDone q.who { s with rbx := { s.rbx with out := s.rbx.out.filter (fun x => !decide (x.tag = q.tag)) } }
      else { s with rbx := { s.rbx with out := s.rbx.out.map (fun x =>
        if x.tag = q.tag then { x with die := portDie p, port := some p, since := refOf s (portDie p) } else x) } }
    else s

/-- The port that an answer to a device takes: its peer's port in direct mode, else the one with most response credits. -/
def answerPort (s : State) (dst : Nat) : Option Nat :=
  if s.rbx.mode = 1 then
    let n := s.rbx.groupSize
    let p := (dst + n - s.rbx.deviceNum % n - 1) % n
    if n ≠ 0 ∧ p < 24 ∧ portUp s p then some p else none
  else (List.range 24).find? (fun p => portUp s p && (List.range 24).all (fun q =>
    !portUp s q || decide (nth 0 (portOf s q).credits 1 ≤ nth 0 (portOf s p).credits 1)))

/-- Sends the oldest answer owed, where its port has credits. -/
def sendAnswer (s : State) : State :=
  match s.rbx.answers with
  | [] => s
  | k :: r =>
    match answerPort s k.dst with
    | some p => if rbxRoom s p 1 then emitPkt p k { s with rbx := { s.rbx with answers := r } } else s
    | none => s

/-- Sends what waits for credits: express packets, the packets that have started, answers in order, then requests (R497). -/
def pumpRbx (s : State) : State :=
  let s := (s.rbx.out.filter (fun q => q.port.isNone && decide (vcOf q.pkt.ptype = 2))).foldl (fun s q => trySend q s) s
  let s := (List.range 24).foldl (fun s p => drainPort p (flitsLeft s p) s) s
  let s := (List.range s.rbx.answers.length).foldl (fun s _ => sendAnswer s) s
  (s.rbx.out.filter (fun q => q.port.isNone)).foldl (fun s q => trySend q s) s

/-- A new outbound request of an agent: recorded with a tag, and sent when a port takes it. -/
def openReq (w : Nat) (pkt : Pkt) (who : Agent) (piper : Option (Nat × Nat × Nat)) (s : State) : State :=
  let t := s.rbx.nextTag
  let q : RReq := { tag := t, die := (if bitOf pkt.offset 12 then pd1 else pd0), port := none, owin := w,
                    pkt := { pkt with tag := t }, who := who, since := refOf s pd0, piper := piper }
  trySend q { s with rbx := { s.rbx with out := s.rbx.out ++ [q], nextTag := (t + 1) % 2 ^ 32 } }

/-- A packet of an outbound window. -/
def owinPkt (s : State) (w : OWin) (ty op off len mask counter : Nat) (data : List Byte) : Pkt :=
  { ptype := ty, op := op, src := s.rbx.deviceNum, dst := w.destDev, window := w.destWindow, counter := counter,
    offset := off, length := len, status := 0, tag := 0, mask := mask, reservedOk := true, data := data }

/-- A station may open another request: fewer than 256 of its own, and 16,384 at the die (R507). -/
def mayOpen (s : State) (n off : Nat) : Bool :=
  decide (stnOutstanding s n < 256 ∧ dieOutstanding s (if bitOf off 12 then pd1 else pd0) < 16384)

/-! ### Local store -/

/-- Bytes of a station's local store. -/
def lsRead (x : Stn) (o n : Nat) : List Byte := (List.range n).map (fun i => tget 0 x.ls (o + i))

/-- Writes bytes into a station's local store. -/
def lsPut (o : Nat) (bs : List Byte) (x : Stn) : Stn :=
  { x with ls := (bs.zipIdx).foldl (fun t e => tset 0 t (o + e.2) e.1) x.ls }

/-- A range lies in the station's scratchpad part. -/
def inScratch (x : Stn) (o n : Nat) : Bool := decide (o + n ≤ scratchBytes x.kind x.split)

end Sys2Proof.Machine
end

