-- ==== Sys2Proof/Machine/GroupOps.lean ====
section
/-! DEFINITION. Thread groups of a Shader Station: instruction fields, active lanes, registers and predicates
(R188, R200-R203, R211). -/

namespace Sys2Proof.Machine

/-- Fields of an instruction word (R200). -/
def insOf (w : Nat) : ShIns :=
  { pred := BitVec.ofNat 3 (bits w 53 51), pneg := bitOf w 50, form := BitVec.ofNat 2 (bits w 49 48),
    dst := BitVec.ofNat 8 (bits w 47 40), sa := BitVec.ofNat 8 (bits w 39 32), low := BitVec.ofNat 32 (bits w 31 0) }

def insDst (w : ShIns) : Nat := w.dst.toNat
def insSa (w : ShIns) : Nat := w.sa.toNat
def insSb (w : ShIns) : Nat := bits w.low.toNat 31 24
def insSc (w : ShIns) : Nat := bits w.low.toNat 23 16
def insMod (w : ShIns) : Nat := bits w.low.toNat 15 0
def insImm (w : ShIns) : Nat := w.low.toNat

/-- Predicate `p` as a mask of threads; p7 is always true (R201). -/
def predMask (y : GroupSt) (p : Nat) : Nat := if p = 7 then 2 ^ 32 - 1 else (tget 0 y.preds p).toNat

/-- Threads in which an instruction's guard is true. -/
def guardMask (y : GroupSt) (w : ShIns) : Nat :=
  let p := predMask y w.pred.toNat
  if w.pneg then 2 ^ 32 - 1 - p else p

/-- Active threads, and those in which a guarded instruction acts. [DEDUCED, log entry 67] -/
def activeLanes (y : GroupSt) : List Nat := bitsSet 32 y.mask.toNat
/-- The active threads whose guard is true. [DEDUCED, log entry 67] -/
def actLanes (y : GroupSt) (w : ShIns) : List Nat := (activeLanes y).filter (fun t => bitOf (guardMask y w) t)

/-- Register `r` of thread `t`. -/
def greg (y : GroupSt) (r t : Nat) : Word := tget 0 y.regs (32 * r + t)

/-- Writes register `r` of thread `t`. -/
def setReg (r t : Nat) (v : Word) (y : GroupSt) : GroupSt := { y with regs := tset 0 y.regs (32 * r + t) v }

/-- Writes predicate `p` of thread `t`; writes to p7 are ignored. -/
def setPred (p t : Nat) (b : Bool) (y : GroupSt) : GroupSt :=
  if p = 7 then y
  else { y with preds := tset 0 y.preds p (BitVec.ofNat 32 (putBits (tget 0 y.preds p).toNat t t (b2n b))) }

/-- A value that is the same for the whole group: register `r` of the lowest-numbered thread of a list (R203). [DEDUCED, log entry 67] -/
def uniform (y : GroupSt) (ts : List Nat) (r : Nat) : Word := greg y r (ts.headD 0)

/-- The 64-bit value in registers `r` and `r` + 1. [DEDUCED, log entry 67] -/
def uniform64 (y : GroupSt) (ts : List Nat) (r : Nat) : Nat :=
  (uniform y ts r).toNat + 2 ^ 32 * (uniform y ts (r + 1)).toNat

/-- Changes a group of a station. -/
def setGrp (n g : Nat) (f : GroupSt → GroupSt) (s : State) : State :=
  setStn n (fun x => { x with groups := tupd x.groups g f }) s

/-- Code word at a group's program counter. [DEDUCED, log entry 68] -/
def codeAt (x : Stn) (y : GroupSt) : Option Nat := x.code[y.pc / 8]?

/-- A device-memory semaphore access: it is a release, address, value, scope, and where it stands (0 not sent, 1 sent,
3 stalled). -/
structure SemAcc where
  release : Bool
  addr : Nat
  val : Nat
  scope : Nat
  st : Nat
deriving DecidableEq, Repr

/-- The semaphore access that an agent waits for: a SEM_WAIT or SEM_RELEASE descriptor in progress, or an MSEMW or MSEMR
at which a group is held (R111, R222). -/
def semAcc (s : State) : Agent → Option SemAcc
  | .sem n =>
    match (stnOf s n).bind (fun x => (semWorkOf x).map (fun w => (nth [] x.descs w.1, w.2))) with
    | some (d, w) => some ⟨decide (dOp d = 7), field d 8 8, field d 16 8, field d 24 1, w.count⟩
    | none => none
  | .semGrp n g =>
    match (stnOf s n).bind (fun x => (tget? x.groups g).bind (fun y => (codeAt x y).map (fun c => (y, c)))) with
    | some (y, c) =>
      (match y.waiting with
       | some (10, v) =>
         let w := insOf c
         let ts := activeLanes y
         some ⟨decide (bits c 59 54 = 1), v / 4, uniform64 y ts (insSb w), insMod w % 4, v % 4⟩
       | _ => none)
    | none => none
  | _ => none

end Sys2Proof.Machine
end

