-- ==== Sys2Proof/Machine/Order.lean ====
section
/-! DEFINITION. The order of a station's accesses (R330, R332): what holds back an access, what a release waits for (R334, R335),
the turns of an engine (R275), and the layout of a FETCH's or STORE's region (R272, R273). -/

namespace Sys2Proof.Machine

/-- A station issues accesses: its instance runs and nothing has stopped it. -/
def stnLive (s : State) (x : Stn) : Bool :=
  !x.stopped && !ctxStopping s x.ctx &&
  (match tget? s.sch.launches x.launch, instOf s x.launch x.inst with
   | some l, some i => decide ((l.ph = .running ∨ l.ph = .leaving) ∧ i.ph = .running)
   | _, _ => false)

/-- A live station's record. -/
def liveOf (s : State) (n : Nat) : Option Stn := (stnOf s n).bind (fun x => if stnLive s x then some x else none)

/-- An agent has a request at a home, or an answer of a home on its way. -/
def homeAsked (s : State) (a : Agent) : Bool :=
  s.home.net.any (fun m => match m with
    | .fill _ _ _ _ rs => rs.any (fun r => decide (r.who = a))
    | .wrAck r _ => decide (r.who = a)
    | .redAck r _ => decide (r.who = a)
    | .semOk r _ => decide (r.who = a)
    | .semRetry r _ _ => decide (r.who = a)
    | .retry r _ => decide (r.who = a)
    | .refuse r _ => decide (r.who = a)) ||
  s.home.lines.any (fun e => (e.2.held ++ e.2.merge).any (fun h => decide ((reqOf h).who = a)) ||
    e.2.batch.any (fun b => decide (b.1.who = a))) ||
  s.home.resend.any (fun h => decide ((reqOf h).who = a)) || s.home.later.any (fun h => decide ((reqOf h.1).who = a))

/-- An agent has a request on its way, at a home or at another device. -/
def asked (s : State) (a : Agent) : Bool := homeAsked s a || s.rbx.out.any (fun q => decide (q.who = a))

/-! ### The region of a FETCH or STORE (R272, R273) -/

def fsStream (d : List Byte) : Nat := field d 8 2
def fsFmt (d : List Byte) : Nat := field d 10 1
def fsRows (d : List Byte) : Nat := field d 24 4
def fsCols (d : List Byte) : Nat := field d 28 4
def fsAddr (d : List Byte) (pass : Nat) : Nat := field d 16 8 + field d 36 4 * pass
def fsRowBytes (d : List Byte) : Nat := rowBytes (fsFmt d) (fsCols d)

/-- Tiles of the region, and first row and column of tile `t` in TILE_ORDER. -/
def fsTiles (d : List Byte) : Nat := ceilDiv (fsRows d) (field d 12 1) * ceilDiv (fsCols d) (field d 13 1)
def fsTile (d : List Byte) (t : Nat) : Nat × Nat :=
  let nr := ceilDiv (fsRows d) (field d 12 1)
  let nc := ceilDiv (fsCols d) (field d 13 1)
  let p := if field d 11 1 = 0 then (t / nc, t % nc) else (t % nr, t / nr)
  (p.1 * field d 12 1, p.2 * field d 13 1)

/-- Rows and elements of tile `t`. -/
def fsDim (d : List Byte) (t : Nat) : Nat × Nat :=
  let p := fsTile d t
  (min (field d 12 1) (fsRows d - p.1), min (field d 13 1) (fsCols d - p.2))

/-- Where an engine's transfer keeps the region, by its number. -/
def fsBase (f : Xfer) : Nat := f.id * 2 ^ 40

/-- The transfer of a FETCH or STORE. -/
def fsXfer (x : Stn) (i : Nat) : Option Xfer :=
  x.xfers.find? (fun f => decide (f.desc = i ∧ f.grp = none ∧ (f.kind = .fetch ∨ f.kind = .store)))

/-- Byte ranges of a memory row that elements [c, c + w) take: their bytes, and their block scales. -/
def fsRanges (d : List Byte) (c w : Nat) : List (Nat × Nat) :=
  let b := fmtBits (fsFmt d)
  [(b * c / 8, ceilDiv (b * (c + w)) 8 - b * c / 8)] ++
  (if isMx (fsFmt d) then [(elemBytes b (fsCols d) + c / 32, ceilDiv w 32)] else [])

/-- Tile `t` of a region takes bytes of a line. -/
def fsTouches (d : List Byte) (pass t line : Nat) : Bool :=
  let p := fsTile d t
  let m := fsDim d t
  (List.range m.1).any (fun r => (fsRanges d p.2 m.2).any (fun g =>
    let a := fsAddr d pass + (p.1 + r) * field d 32 4 + g.1
    decide (a < 128 * line + 128 ∧ 128 * line < a + g.2)))

/-! ### What holds back an access (R330, R332) -/

/-- A transfer whose pieces are accesses to memory: no stream-port operation, and no semaphore add. -/
def movesMem (f : Xfer) : Bool := decide (f.kind ≠ .precv ∧ f.kind ≠ .psend ∧ f.kind ≠ .semAdd)

/-- An earlier access holds back a later one of its line until it is accepted; a read holds back a read until it has gone, so
that the two are served in order. [DEDUCED, log entry 93] -/
def pieceHolds (g : Xfer) (q : XPiece) (rd : Bool) : Bool :=
  if rd && readsX g.kind then decide (q.st = 0 ∨ q.st = 3) else decide (q.st ≠ 2)

/-- A piece of a transfer before `id`, or before piece `k` of it, holds back an access of the line. -/
def earlierHolds (x : Stn) (line id k : Nat) (rd : Bool) : Bool :=
  x.xfers.any (fun g => movesMem g && decide (g.id ≤ id) &&
    (if g.id = id then g.pieces.take k else g.pieces).any (fun q => decide (q.addr / 128 = line) && pieceHolds g q rd))

/-- A STORE before transfer `id` has still to take in a tile of the line. -/
def storeAhead (x : Stn) (line id : Nat) : Bool :=
  x.xfers.any (fun g => decide (g.kind = .store ∧ g.id < id) &&
    (match tget? x.works g.desc with
     | some w =>
       let d := nth [] x.descs g.desc
       (List.range (fsTiles d)).any (fun t => decide (w.count ≤ t) && fsTouches d (nth 0 w.passes 0) t line)
     | none => false))

/-- A group waits at an MSEMR. -/
def atMsemr (x : Stn) (y : GroupSt) : Bool := ((codeAt x y).map (fun c => decide (bits c 63 54 = 0x201))).getD false

/-- A semaphore add of the station, issued before transfer `id`, is not accepted at the line: a SEM_RELEASE in progress, an
MSEMR that has not sent its add, or one whose add is on its way. -/
def addAhead (x : Stn) (line id : Nat) : Bool :=
  x.works.any (fun e => decide (e.2.st = .wait ∧ e.2.rows ≤ id ∧ dOp (nth [] x.descs e.1) = 7 ∧ field (nth [] x.descs e.1) 8 8 / 128 = line)) ||
  x.groups.any (fun e => match e.2.waiting with
    | some (10, v) => atMsemr x e.2 && decide (e.2.mark ≤ id ∧ v / 512 = line)
    | _ => false) ||
  x.xfers.any (fun g => decide (g.kind = .semAdd ∧ g.lo ≤ id) && g.pieces.any (fun q => decide (q.addr / 128 = line)))

/-- A GETR of an RG station for the line has gone to its home and is not answered. -/
def getrAhead (s : State) (n : Nat) (x : Stn) (line : Nat) : Bool :=
  x.rg.miss.any (fun m => decide (m.2.1 / 128 = line) && asked s (.missReg n m.1))

/-- An earlier access of the station to the piece's line holds it back (R330). [DEDUCED, log entry 93] -/
def heldBack (s : State) (n : Nat) (x : Stn) (f : Xfer) (p : XPiece) (k : Nat) : Bool :=
  earlierHolds x (p.addr / 128) f.id k (readsX f.kind) || storeAhead x (p.addr / 128) f.id || addAhead x (p.addr / 128) f.id ||
    (!readsX f.kind && getrAhead s n x (p.addr / 128))

/-- An earlier write of the station to the line holds back an access that goes out now: a GETR. -/
def writeHeld (x : Stn) (line id : Nat) : Bool :=
  x.xfers.any (fun g => movesMem g && !readsX g.kind && decide (g.id < id) &&
    g.pieces.any (fun q => decide (q.addr / 128 = line ∧ q.st ≠ 2))) || storeAhead x line id || addAhead x line id

/-- Number of the station's next transfer when a semaphore access of it was issued. -/
def semMark (s : State) : Agent → Nat
  | .sem n => (((stnOf s n).bind semWorkOf).map (fun e => e.2.rows)).getD 0
  | .semGrp n g => (((stnOf s n).bind (fun x => tget? x.groups g)).map (·.mark)).getD 0
  | _ => 0

/-- An earlier access of the station to the line of a semaphore access holds it back (R330). -/
def semHeld (x : Stn) (mark a : Nat) : Bool :=
  x.xfers.any (fun g => movesMem g && decide (g.id < mark) &&
    g.pieces.any (fun q => decide (q.addr / 128 = a / 128 ∧ q.st ≠ 2))) || storeAhead x (a / 128) mark ||
  x.xfers.any (fun g => decide (g.kind = .semAdd ∧ g.lo ≤ mark) && g.pieces.any (fun q => decide (q.addr / 128 = a / 128)))

/-! ### Step 1 of a release (R334, R335) -/

/-- A piece's access goes through an outbound mapping. -/
def remotePiece (s : State) (x : Stn) (p : XPiece) : Bool := (owinAt s x.ctx p.addr).isSome

/-- An access of a transfer lets a release at a scope go: a read has completed; a write, reduction or add is visible there
(R334, R335, R507). -/
def pieceVisible (s : State) (x : Stn) (scope : Nat) (f : Xfer) (p : XPiece) : Bool :=
  if readsX f.kind then decide (p.st = 2)
  else if f.kind = .precv then true
  else if f.kind = .psend then decide (p.st = 2)
  else if scope = 0 then decide (p.st = 1 ∨ p.st = 2)
  else if remotePiece s x p then decide ((p.st = 1 ∧ scope ≠ 3) ∨ p.st = 2)
  else decide (p.st = 2)

/-- Step 1 of a release of a station at a scope: every read that the station issued before it has completed, and every write,
reduction and semaphore add before it is visible there, a STORE's to the last tile (R334, R335). [DEDUCED, log entry 93] -/
def releaseReady (s : State) (x : Stn) (scope mark : Nat) : Bool :=
  x.xfers.all (fun f => decide (mark ≤ (if f.kind = .semAdd then f.lo else f.id)) || (f.pieces.all (pieceVisible s x scope f) &&
    (decide (f.kind ≠ .store) || (match tget? x.works f.desc with
      | some w => decide (fsTiles (nth [] x.descs f.desc) ≤ w.count)
      | none => true)))) &&
  !x.groups.any (fun e => match e.2.waiting with
    | some (10, _) => atMsemr x e.2 && decide (e.2.mark < mark)
    | _ => false)

/-! ### Engines (R275) -/

/-- An explicit copy. -/
def isCopy (f : Xfer) : Bool := decide (f.kind = .copyIn ∨ f.kind = .copyOut)

/-- An earlier copy queued on the copy's engine has a piece still to issue (R275). -/
def copyAhead (s : State) (f : Xfer) : Bool :=
  isCopy f && s.sch.stns.any (fun e => e.2.xfers.any (fun g =>
    isCopy g && decide (g.eng = f.eng ∧ g.id < f.id) && g.pieces.any (fun p => decide (p.st = 0))))

/-- A piece may go as far as its own station is concerned: it has a place, and nothing earlier holds it back. -/
def pieceFree (s : State) (n : Nat) (x : Stn) (f : Xfer) (p : XPiece) (k : Nat) : Bool :=
  decide (p.st = 0) && !heldBack s n x f p k && ((xlate s x p.addr).isSome || (owinAt s x.ctx p.addr).isSome)

/-- The engine of a transfer served the transfer's kind last, copy or stream, and has a line of the other kind to serve: it
alternates between them, one line at a time (R275). -/
def otherTurn (s : State) (f : Xfer) : Bool :=
  decide (f.eng ≠ 0 ∧ tget 0 s.sch.engLast f.eng = (if isCopy f then 1 else 2)) &&
  s.sch.stns.any (fun e => stnLive s e.2 && e.2.xfers.any (fun g =>
    decide (g.eng = f.eng) && (isCopy g != isCopy f) && !copyAhead s g &&
      g.pieces.zipIdx.any (fun q => pieceFree s e.1 e.2 g q.1 q.2)))

/-- The transfer's engine has other work first. -/
def engineHeld (s : State) (f : Xfer) : Bool := copyAhead s f || otherTurn s f

/-- A transfer's engine has served a line of it. -/
def noteEngine (f : Xfer) (s : State) : State :=
  if f.eng = 0 then s
  else { s with sch := { s.sch with engLast := tset 0 s.sch.engLast f.eng (if isCopy f then 1 else 2) } }

end Sys2Proof.Machine
end

