-- ==== Sys2Proof/Machine/Coherence.lean ====
section
/-! DEFINITION. Requests to the homes and what the homes do with them: reads, writes, reductions and semaphore waits
(R292-R315), invalidation rounds (R300-R302), stack data and its errors (R278-R281, R566, R590), reduction units,
ordered sequences, write batches, scrubbing and the thrash monitor (R269, R280, R289, R316-R323). -/

namespace Sys2Proof.Machine

/-! ### Requests of stations -/

/-- Indices of the unissued pieces of a transfer on the line of piece `k` (one request serves them, R207), where `k` is
the first of them. -/
def groupOf (f : Xfer) (p : XPiece) (k : Nat) : List Nat :=
  let l := (f.pieces.zipIdx.filter (fun e => decide (e.1.st = 0 ∧ e.1.addr / 128 = p.addr / 128))).map (·.2)
  if l.head? = some k then l else []

/-- Pieces of a transfer by index. -/
def piecesAt (f : Xfer) (l : List Nat) : List XPiece := l.filterMap (fun k => f.pieces[k]?)

/-- Sets where several pieces of a transfer stand. -/
def setPieces (n xid : Nat) (l : List Nat) (st : Nat) (s : State) : State := l.foldl (fun s k => setPiece n xid k st s) s

/-- Bytes that have reached a piece go to their local offset, and the piece is finished. -/
def servePiece (n xid k : Nat) (p : XPiece) (bs : List Byte) (s : State) : State :=
  setPiece n xid k 2 (setStn n (lsPut p.loc bs) s)

/-- Serves pieces that lie on one line from its bytes. -/
def serveLinePieces (n xid : Nat) (l : List Nat) (line : List Byte) (s : State) : State :=
  l.foldl (fun s k => match (stnOf s n).bind (fun x => pieceOf x xid k) with
    | some (_, p) => servePiece n xid k p ((line.drop (p.addr % 128)).take p.len) s
    | none => s) s

/-- A request names the place to which the station's translation takes an address. -/
def placeIs (s : State) (x : Stn) (a : Nat) (r : Req) : Bool :=
  match xlate s x a with
  | some p => decide (p.stack = r.stack ∧ p.line = r.line ∧ p.handle = r.handle ∧ r.ctx = x.ctx)
  | none => false

/-- The address lies in an extent that is read-only for the station's context, as its extent cache has it. -/
def placeRo (s : State) (x : Stn) (a : Nat) : Bool := ((xlate s x a).map (·.ro)).getD false

/-- Unissued reads of a station that want the line of a request through its station cache, in order, up to the first that
something holds back or that is stalled: (transfer, piece). -/
def cacheReaders (s : State) (x : Stn) (r : Req) : List (Nat × Nat) :=
  ((((x.xfers.filter (fun f => readsX f.kind)).flatMap (fun f => f.pieces.zipIdx.map (fun e => (f, e.1, e.2)))).filter (fun e =>
    decide (e.2.1.st = 0 ∨ e.2.1.st = 3) && placeIs s x e.2.1.addr r && placeRo s x e.2.1.addr &&
      (owinAt s x.ctx e.2.1.addr).isNone)).takeWhile (fun e =>
    decide (e.2.1.st = 0) && !writeHeld x (e.2.1.addr / 128) e.1.id && !engineHeld s e.1)).map (fun e => (e.1.id, e.2.2))

/-- Reads wait for the request of a line for the station cache that is on its way: the youngest one. -/
def joinPend (key : Nat) (ws : List Req) (x : Stn) : Stn :=
  { x with pend := (x.pend.reverse.foldl (fun (a : Bool × List (Nat × List Req × Bool)) e =>
    if e.1 = key ∧ ¬ a.1 then (true, (e.1, e.2.1 ++ ws, e.2.2) :: a.2) else (a.1, e :: a.2)) (false, [])).2 }

/-- A request of the station for the line is on its way, and no INV has passed it (R307). -/
def pendGood (x : Stn) (key : Nat) : Bool := x.pend.any (fun e => decide (e.1 = key ∧ e.2.2 = false))

/-- The engines of transfers have served a line each. -/
def noteEngines (x : Stn) (ids : List Nat) (s : State) : State :=
  (x.xfers.filter (fun f => decide (f.id ∈ ids))).foldl (fun s f => noteEngine f s) s

/-- GETS of a station: reads of a line it holds are served from its cache, most recent use first; otherwise they wait for the
line, which is requested unless it is on its way and not invalidated since (R276, R294, R307). -/
def getsStn (n : Nat) (r : Req) (s : State) : State :=
  match liveOf s n with
  | none => s
  | some x =>
    let rs := cacheReaders s x r
    let key := lkey r.stack r.line
    if rs.isEmpty ∨ cacheLines x.kind x.split = 0 then s
    else
      match x.cache.find? (fun e => decide (e.1 = key)) with
      | some e =>
        let s := setStn n (fun x => { x with cache := e :: x.cache.filter (fun c => !decide (c.1 = key)) }) s
        rs.foldl (fun s q => serveLinePieces n q.1 [q.2] e.2 s) (noteEngines x (rs.map (·.1)) s)
      | none =>
        let ws := rs.map (fun q => { r with who := .xfer n q.1 q.2 })
        let s := rs.foldl (fun s q => setPiece n q.1 q.2 1 s) (noteEngines x (rs.map (·.1)) s)
        if pendGood x key then setStn n (joinPend key ws) s
        else sendReq (.gets { r with who := .cache n }) (setStn n (fun x => { x with pend := x.pend ++ [(key, ws, false)] }) s)

/-- An agent that is no station: its requests are taken as they come. -/
def freeAgent (s : State) : Agent → Bool
  | .core d => decide (d = pd0 ∨ d = pd1)
  | .cmd q seq => ((tget? s.cmd.queues q).bind (fun u => u.cmds.find? (fun c => decide (c.seq = seq ∧ c.phase = .started)))).isSome
  | .rbx w _ _ => (tget? s.xt.windows w).isSome
  | .bar4 => true
  | _ => false

def getsS (r : Req) (s : State) : State :=
  match r.who with
  | .cache n => getsStn n r s
  | _ => s

/-- GETS. -/
def execGets (r : Req) (s : State) : Out := ifRun (getsS r) s

/-- The READ packet of a piece in an outbound mapping, where its port die and station may open one (R504-R507). -/
def remoteRead (n : Nat) (f : Xfer) (p : XPiece) (k : Nat) (w : Nat × OWin) (s : State) : State :=
  let off := remoteOff w.2 p.addr
  if inCounterPage w.2 p.addr then agentFault (.xfer n f.id k) stRemoteOp 0 s
  else if ¬ mayOpen s n off then s
  else setPiece n f.id k 1 (openReq w.1 (owinPkt s w.2 0x02 0 off p.len 0 0 []) (.xfer n f.id k) none s)

/-- An uncached read of a piece: an arrival counter read by its window's owner, a remote read, or a request to the home
(R299, R371, R377, R504). -/
def getuStn (n xid k : Nat) (r : Req) (s : State) : State :=
  match (liveOf s n).bind (fun x => (pieceOf x xid k).map (fun e => (x, e))) with
  | none => s
  | some (x, f, p) =>
    let g := groupOf f p k
    if p.st ≠ 0 ∨ ¬ readsX f.kind ∨ heldBack s n x f p k ∨ engineHeld s f then s
    else if inCounters p.addr then
      if counterOwned s x.ctx p.addr then
        let c := counterAt p.addr
        let line := (List.range 16).flatMap (fun i => leBytes 8 (counterVal s c.1 i))
        servePiece n xid k p ((line.drop (p.addr % 128)).take p.len) s
      else pieceFault n f p k 4 s
    else
      match owinAt s x.ctx p.addr with
      | some w => remoteRead n f p k w (noteEngine f s)
      | none =>
        if g.isEmpty ∨ ¬ placeIs s x p.addr r ∨ (placeRo s x p.addr ∧ cacheLines x.kind x.split ≠ 0) then s
        else sendReq (.getu r) (touchX n p.addr (setPieces n xid g 1 (noteEngine f s)))

def getuS (r : Req) (s : State) : State :=
  match r.who with
  | .xfer n xid k => getuStn n xid k r s
  | a => if freeAgent s a then sendReq (.getu r) s else s

/-- GETU. -/
def execGetu (r : Req) (s : State) : Out := ifRun (getuS r) s

/-- Ray slots, points or bags that wait on a miss register stall on a translation fault each, and the register is free
(R249, R372). -/
def missFault (n m a cause : Nat) (ws : List Nat) (s : State) : State :=
  ws.foldl (fun s w => setStn n (fun x => { x with rg := { x.rg with
      rays := tupd x.rg.rays w (fun r => { r with stalled := some a, waitLine := none }) } })
    (stationXlate n cause a 0 3 w 128 s))
    (setStn n (fun x => { x with rg := { x.rg with miss := tdel x.rg.miss m } }) s)

/-- GETR of an RG miss register that waits for its line and has not asked for it, once the station's earlier writes of the
line are accepted: to the home; an arrival counter is a
translation fault, and an outbound mapping the fault REMOTE_OP (R247, R371, R504). -/
def getrS (r : Req) (s : State) : State :=
  match r.who with
  | .missReg n m =>
    (match (liveOf s n).bind (fun x => (tget? x.rg.miss m).map (fun e => (x, e))) with
     | some (x, a, ws, _) =>
       if asked s r.who ∨ writeHeld x (a / 128) s.sch.xseq then s
       else if inCounters a then missFault n m a 4 ws s
       else
         (match owinAt s x.ctx a with
          | some _ => agentFault r.who stRemoteOp 0 s
          | none => if placeIs s x a r then sendReq (.getr r) (touchX n a s) else s)
     | none => s)
  | _ => s

/-- GETR. -/
def execGetr (r : Req) (s : State) : Out := ifRun (getrS r) s

/-- GETC of a control core: answered for it alone (R306). -/
def getcS (r : Req) (s : State) : State :=
  match r.who with
  | .core d => if freeAgent s (.core d) then sendReq (.getc r) s else s
  | _ => s

/-- GETC. -/
def execGetc (r : Req) (s : State) : Out := ifUp (getcS r) s

/-- Byte mask and data of a line that pieces write. -/
def pieceMask (ps : List XPiece) : Nat := maskOf (ps.flatMap (fun p => (List.range p.len).map (fun i => p.addr % 128 + i)))
def pieceData (x : Stn) (ps : List XPiece) : List Byte :=
  ps.foldl (fun l p => l.take (p.addr % 128) ++ lsRead x p.loc p.len ++ l.drop (p.addr % 128 + p.len)) (zeros 128)

/-- A WRITE of pieces: to the home, or as packets through an outbound mapping; a counter or a read-only extent is a
translation fault (R299, R371, R377, R504). -/
def writeStn (n xid k : Nat) (r : Req) (mask : Nat) (data : List Byte) (s : State) : State :=
  match (liveOf s n).bind (fun x => (pieceOf x xid k).map (fun e => (x, e))) with
  | none => s
  | some (x, f, p) =>
    let g := groupOf f p k
    let ps := piecesAt f g
    if p.st ≠ 0 ∨ ¬ (f.kind = .copyOut ∨ f.kind = .scatter ∨ f.kind = .store) ∨ heldBack s n x f p k ∨ engineHeld s f then s
    else if inCounters p.addr then pieceFault n f p k 4 s
    else
      match owinAt s x.ctx p.addr with
      | some w =>
        let off := remoteOff w.2 p.addr
        if inCounterPage w.2 p.addr then agentFault (.xfer n xid k) stRemoteOp 0 s
        else if ¬ mayOpen s n off then s
        else setPiece n xid k 1 (openReq w.1 (owinPkt s w.2 0x01 0 off p.len 0 w.2.counter (lsRead x p.loc p.len))
          (.xfer n xid k) none (noteEngine f s))
      | none =>
        if g.isEmpty ∨ ¬ placeIs s x p.addr r then s
        else if placeRo s x p.addr then pieceFault n f p k 2 s
        else if mask ≠ pieceMask ps ∨ data ≠ pieceData x ps then s
        else sendReq (.write r mask data) (touchX n p.addr (setPieces n xid g 1 (noteEngine f s)))

def writeS (r : Req) (mask : Nat) (data : List Byte) (s : State) : State :=
  match r.who with
  | .xfer n xid k => writeStn n xid k r mask data s
  | a => if freeAgent s a then sendReq (.write r mask data) s else s

/-- WRITE. -/
def execWrite (r : Req) (mask : Nat) (data : List Byte) (s : State) : Out := ifRun (writeS r mask data) s

/-- Of the pieces of a group, those whose address no earlier one of the group has. -/
def firstUses (f : Xfer) (g : List Nat) : List Nat :=
  (g.foldl (fun (acc : List Nat × List Nat) k =>
    match f.pieces[k]? with
    | some p => if p.addr ∈ acc.2 then acc else (acc.1 ++ [k], acc.2 ++ [p.addr])
    | none => acc) ([], [])).1

/-- The reduction that pieces of a scatter-reduce ask of their line. -/
def pieceRed (x : Stn) (f : Xfer) (ps : List XPiece) : RedOp :=
  let w := redBytes f.redTy
  { op := f.redOp, ty := f.redTy,
    mask := maskOf (ps.flatMap (fun p => (List.range (p.len / w)).map (fun i => p.addr % 128 / w + i))),
    data := pieceData x ps, ordered := false, seq := 0, count := 0 }

/-- The add of an MSEMR that was refused goes out again. [DEDUCED, log entry 93] -/
def addAgain (n xid : Nat) (f : Xfer) (p : XPiece) (r : Req) (o : RedOp) (x : Stn) (s : State) : State :=
  if p.st ≠ 0 then s
  else
    match owinAt s x.ctx p.addr, xlate s x p.addr with
    | none, some q =>
      let h := semAddReq q.stack q.line q.off x.ctx q.handle f.hi (.xfer n xid 0)
      if h ≠ .red r o then s
      else if q.ro then pieceFault n f p 0 2 s
      else sendReq h (touchX n p.addr (setPiece n xid 0 1 s))
    | _, _ => s

/-- A RED of pieces of a scatter-reduce. -/
def redStn (n xid k : Nat) (r : Req) (o : RedOp) (s : State) : State :=
  match (liveOf s n).bind (fun x => (pieceOf x xid k).map (fun e => (x, e))) with
  | none => s
  | some (x, f, p) =>
    if f.kind = .semAdd then addAgain n xid f p r o x s
    else
    let g := firstUses f (groupOf f p k)
    let ps := piecesAt f g
    let own := pieceRed x f ps
    if p.st ≠ 0 ∨ f.kind ≠ .scatterRed ∨ heldBack s n x f p k ∨ g.isEmpty then s
    else if inCounters p.addr then pieceFault n f p k 4 s
    else
      match owinAt s x.ctx p.addr with
      | some w =>
        let off := remoteOff w.2 p.addr / 128 * 128
        if inCounterPage w.2 p.addr then agentFault (.xfer n xid k) stRemoteOp 0 s
        else if ¬ mayOpen s n off then s
        else setPieces n xid g 1 (openReq w.1 (owinPkt s w.2 0x03 (f.redOp + 4 * f.redTy) off 128 own.mask w.2.counter own.data)
          (.xfer n xid k) none s)
      | none =>
        if ¬ placeIs s x p.addr r then s
        else if placeRo s x p.addr then pieceFault n f p k 2 s
        else if o ≠ own then s
        else sendReq (.red r o) (touchX n p.addr (setPieces n xid g 1 s))

/-! ### Semaphores of stations (R111, R222, R334, R335, R504) -/

/-- A translation fault of a semaphore access. -/
def semXlate (who : Agent) (n cause : Nat) (q : SemAcc) (s : State) : State :=
  let i := match who with
    | .semGrp _ g => g
    | .sem _ => (((stnOf s n).bind semWorkOf).map (·.1)).getD 0
    | _ => 0
  setSem who 3 (stationXlate n cause q.addr (if q.release then 3 else 4) 0 i 8 s)

/-- The station of a semaphore agent. -/
def semStn : Agent → Option Nat
  | .sem n => some n
  | .semGrp n _ => some n
  | _ => none

/-- A station's release at a semaphore that a route plan of its launch names, or may name, waits for the Piper (R154, R160,
R174). [DEDUCED, log entry 86] -/
def noteRelease (n : Nat) (x : Stn) (a v : Nat) (s : State) : State :=
  { s with pip := { s.pip with plans := tmap s.pip.plans (fun _ pl =>
      if pl.ctx = x.ctx ∧ x.launch ∈ pl.launches then
        (match pl.bytes with
         | some p => if isHandOver s pl.launches p n a v then { pl with waiting := pl.waiting ++ [(n, a, v)] } else pl
         | none => { pl with waiting := pl.waiting ++ [(n, a, v)] })
      else pl) } }

/-- The add of a group's MSEMR, as a transfer of its station (R222). -/
def semXfer (s : State) (x : Stn) (n g : Nat) (q : SemAcc) : Xfer :=
  { id := s.sch.xseq, kind := .semAdd, desc := g, grp := some (g, 0), lo := semMark s (.semGrp n g), hi := q.val, eng := 0,
    pieces := [⟨q.addr, ((tget? x.groups g).map (·.pc)).getD 0, 8, 1⟩] }

/-- The add of a release goes out: a group goes on from its MSEMR, and the add is a transfer of the station until it is
answered (R336). -/
def semLeaves (who : Agent) (q : SemAcc) (s : State) : State :=
  match who with
  | .semGrp n g =>
    setStn n (fun x => { x with
      xfers := x.xfers ++ [semXfer s x n g q],
      groups := tupd x.groups g (fun y => { y with waiting := none, pc := y.pc + 8 }) })
      { s with sch := { s.sch with xseq := s.sch.xseq + 1 } }
  | who => setSem who 1 s

/-- The agent behind an add that has gone out. -/
def addAgent (s : State) : Agent → Agent
  | .semGrp n _ => .xfer n s.sch.xseq 0
  | who => who

/-- The packet of a release's add through an outbound mapping: a BARRIER for an arrival counter, else a SEM_ADD; none where the
mapping takes no such add (R504, R506). -/
def addPkt (s : State) (w : OWin) (a v : Nat) : Option Pkt :=
  let inPage := a + 65536 - ((owinRange w).1 + (owinRange w).2)
  if inCounterPage w a then
    if v = 1 ∧ inPage < 128 then some (owinPkt s w 0x20 0 0 0 0 (inPage / 8) []) else none
  else some (owinPkt s w 0x04 0 (remoteOff w a) 8 0 w.counter (leBytes 8 v))

/-- A release through outbound window `w`: the packet of its add leaves, unless the window turns the
access away or the port has no room. -/
def relWindow (who : Agent) (n : Nat) (q : SemAcc) (w : Nat × OWin) (s : State) : State :=
  match addPkt s w.2 q.addr q.val with
  | none => agentFault who stRemoteOp 0 s
  | some k =>
    if k.ptype ≠ 0x20 ∧ ¬ mayOpen s n k.offset then s
    else openReq w.1 k (addAgent s who) none (semLeaves who q s)

/-- A release to a line of this device: its RED leaves where it is the request `r o`; a mapping
that may not be written is XLATE_PERM. -/
def relHome (who : Agent) (n : Nat) (x : Stn) (q : SemAcc) (r : Req) (o : RedOp) (s : State) : State :=
  match xlate s x q.addr with
  | none => s
  | some p =>
    if semAddReq p.stack p.line p.off x.ctx p.handle q.val who ≠ .red r o then s
    else if p.ro then semXlate who n 2 q s
    else sendReq (semAddReq p.stack p.line p.off x.ctx p.handle q.val (addAgent s who))
      (semLeaves who q (touchX n q.addr (noteRelease n x q.addr q.val s)))

/-- A release of a station: once what its scope asks of earlier accesses holds, its add goes to the home, or as a SEM_ADD or
BARRIER through an outbound mapping (R335). [DEDUCED, log entry 93] -/
def semRelStn (who : Agent) (r : Req) (o : RedOp) (s : State) : State :=
  match (semStn who).bind (fun n => (liveOf s n).bind (fun x => (semAcc s who).map (fun q => (n, x, q)))) with
  | none => s
  | some (n, x, q) =>
    if q.st ≠ 0 ∨ ¬ q.release ∨ ¬ releaseReady s x q.scope (semMark s who) ∨ semHeld x (semMark s who) q.addr then s
    else if inCounters q.addr then semXlate who n 4 q s
    else
      match owinAt s x.ctx q.addr with
      | some w => relWindow who n q w s
      | none => relHome who n x q r o s

/-- A wait of a station: to the home, or to the port die that holds an arrival counter. -/
def semWaitStn (who : Agent) (r : Req) (off val : Nat) (s : State) : State :=
  match (semStn who).bind (fun n => (liveOf s n).bind (fun x => (semAcc s who).map (fun q => (n, x, q)))) with
  | none => s
  | some (n, x, q) =>
    if q.st ≠ 0 ∨ q.release ∨ semHeld x (semMark s who) q.addr then s
    else if inCounters q.addr then
      if counterOwned s x.ctx q.addr then
        counterWait (counterReq q.addr x.ctx who) (counterAt q.addr).1 (counterAt q.addr).2 q.val (setSem who 1 s)
      else semXlate who n 4 q s
    else if (owinAt s x.ctx q.addr).isSome then agentFault who stRemoteOp 0 s
    else if ¬ placeIs s x q.addr r ∨ off ≠ q.addr % 128 ∨ val ≠ q.val then s
    else sendReq (.semWait r off val) (setSem who 1 (touchX n q.addr s))

def redS (r : Req) (o : RedOp) (s : State) : State :=
  match r.who with
  | .xfer n xid k => redStn n xid k r o s
  | .sem n => semRelStn (.sem n) r o s
  | .semGrp n g => semRelStn (.semGrp n g) r o s
  | a => if freeAgent s a then sendReq (.red r o) s else s

/-- RED. -/
def execRed (r : Req) (o : RedOp) (s : State) : Out := ifRun (redS r o) s

def homeSemWaitS (r : Req) (off val : Nat) (s : State) : State :=
  match r.who with
  | .sem n => semWaitStn (.sem n) r off val s
  | .semGrp n g => semWaitStn (.semGrp n g) r off val s
  | a => if freeAgent s a ∧ off % 8 = 0 ∧ off < 128 then sendReq (.semWait r off val) s else s

/-- HOME_SEM_WAIT. -/
def execHomeSemWait (r : Req) (off val : Nat) (s : State) : Out := ifRun (homeSemWaitS r off val) s

/-! ### Invalidation rounds (R300-R302, R307) -/

/-- Stations of a partition in the sharer groups of a mask. -/
def groupStns (p mask : Nat) : List Nat :=
  (List.range 168).filterMap (fun i => if bitOf mask (i / 8) then some (168 * p + i) else none)

/-- INV: the fan-out station multicasts it to every station of the marked groups. [DEDUCED, log entry 120] -/
def invS (k line p : Nat) (s : State) : State :=
  let key := lkey k line
  if (key, p) ∉ s.home.invs then s
  else { s with home := { s.home with
    invs := s.home.invs.filter (fun e => !decide (e = (key, p))), fanned := s.home.fanned ++ [(key, p)],
    drops := s.home.drops ++ (groupStns p (tget 0 (hline s key).sharers p)).map (fun n => (key, n)) } }

def execInv (stack line part : Nat) (s : State) : Out := ifUp (invS stack line part) s

/-- A station drops a line it holds; a request for it still outstanding will not install it (R248, R307). [DEDUCED, log entry 120] -/
def dropLine (key : Nat) (s : State) (x : Stn) : Stn :=
  let at_ := fun a : Nat => ((xlate s x a).map (fun p => decide (lkey p.stack p.line = key))).getD false
  { x with
    cache := x.cache.filter (fun c => !decide (c.1 = key)),
    pend := x.pend.map (fun e => if e.1 = key then (e.1, e.2.1, true) else e),
    rg := { x.rg with miss := tmap x.rg.miss (fun _ m => if at_ m.1 then (m.1, m.2.1, true) else m) } }

/-- INV_DROP: a station of a marked group answers, whether or not it held the line. [DEDUCED, log entry 120] -/
def invDropS (n k line : Nat) (s : State) : State :=
  let key := lkey k line
  if (key, n) ∉ s.home.drops then s
  else setStn n (dropLine key s) { s with home := { s.home with drops := s.home.drops.filter (fun e => !decide (e = (key, n))) } }

def execInvDrop (stn stack line : Nat) (s : State) : Out := ifUp (invDropS stn stack line) s

/-- PART_ACK: every station of the marked groups has answered its fan-out station. [DEDUCED, log entry 120] -/
def partAckS (k line p : Nat) (s : State) : State :=
  let key := lkey k line
  if (key, p) ∈ s.home.fanned ∧ ¬ s.home.drops.any (fun e => decide (e.1 = key ∧ stnPart e.2 = p)) then partAck k line p s
  else s

def execPartAck (stack line part : Nat) (s : State) : Out := ifUp (partAckS stack line part) s

/-! ### The stack (R269, R278-R281, R289, R566, R590) -/

/-- The Crust die works: its stack is not mapped out and its clock runs. -/
def crustWorks (s : State) (k : Nat) : Bool := decide (k < 20) && !(cruOf s k).mapped && !decide (crustDie k ∈ s.clk.lost)

/-- A channel becomes pending map-out (R281). [DEDUCED, log entry 45] -/
def pendChannel (k c : Nat) (s : State) : State :=
  if bitOf (cruOf s k).chPending c then s
  else raise (crustDie k) 0x0001 0 0 k c 0 (setCru k (fun u => { u with chPending := u.chPending ||| 2 ^ c }) s)

/-- A channel's count of uncorrectable errors against UE_THRESH. A channel already out does not become pending by its
count. -/
def checkThresh (k c : Nat) (s : State) : State :=
  let u := cruOf s k
  if u.ueThresh ≠ 0 ∧ u.ueThresh ≤ tget 0 u.uncorr c ∧ c ∉ u.chOut then pendChannel k c s else s

/-- The line's extent keeps a MAC of each line (R566). [DESIGN CHOICE, log entry 8] -/
def hasMac (s : State) (k line : Nat) : Option Nat :=
  match granOwner s k (line / 512) with
  | some (num, x, _, _, _) => if attrIntegrity x.attr || attrSealed x.attr then some (handleOf num x) else none
  | none => none

/-- What a read from the stack finds (R279, R567). [DESIGN CHOICE, log entry 8] -/
def eccVerdict (k line : Nat) (e : Ecc) (s : State) : State :=
  let c := chanOf (cruOf s k).chOut line
  match e with
  | .clean => s
  | .symbols 0 => s
  | .symbols 1 => setCru k (fun u => { u with corr := tmod 0 u.corr c (fun v => satAdd (2 ^ 32 - 1) v 1) }) s
  | .symbols _ =>
    checkThresh k c (poisonHome k line (setCru k (fun u => { u with uncorr := tmod 0 u.uncorr c (fun v => satAdd 65535 v 1) }) s))
  | .macMismatch =>
    match hasMac s k line with
    | none => s
    | some h =>
      raise (crustDie k) 0x0040 0 0 k (line * 128) h (poisonHome k line { s with sec := { s.sec with
        integFails := satAdd (2 ^ 32 - 1) s.sec.integFails 1 } })

/-- STACK_DATA_ARRIVAL: the data of a line whose fill is pending comes, and the line goes on (R303, R305); with every way of its
set pinned or held it waits for a way (R318). [DESIGN CHOICE, log entry 8] -/
def stackDataS (k line : Nat) (e : Ecc) (s : State) : State :=
  let key := lkey k line
  if (hline s key).st ≠ .fp ∨ (hline s key).ready ∨ ¬ crustWorks s k then s
  else
    let s := if key ∈ s.mem.poison then s else eccVerdict k line e s
    goLine key (setLine key (fun h => { h with ready := true }) s)

def execStackDataArrival (stack line : Nat) (e : Ecc) (s : State) : Out := ifUp (stackDataS stack line e) s

/-- REPLICA_REPAIR of a line of an extent, by its index there: the replica's line is written whole to its place, unless it
is poisoned as well, when the repair stops and the extent's contexts are suspended (R590, R591). -/
def replicaRepairS (handle i : Nat) (s : State) : State :=
  match extByHandle s handle with
  | none => s
  | some (num, x) =>
    match locate x (128 * i), locateRep x (128 * i) with
    | some (k, a), some (k2, a2) =>
      let line := a / 128
      let told := (ctxsMapping s num).any (fun c => match ctxOf s c with
        | some y => (y.owedDamage ++ (y.openBatch.toList ++ y.waiting.map (·.1) ++ y.unresolved).flatMap (·.recs)).any (fun r =>
            decide (r.cause = 5 ∧ r.address = addrIn s c num (128 * i)))
        | none => false)
      if lkey k line ∉ s.mem.poison ∨ ¬ attrReadOnly x.attr ∨ ¬ attrReplica x.attr ∨ homeDown s k ∨ lineBusy (hline s (lkey k line)) then s
      else if linePoisoned s k2 (a2 / 128) then
        if told then s else dropPoisoned (suspendCtxs num k (128 * i) (if attrSealed x.attr then unloadSealed num x s else s))
      else if homeDown s k2 then s
      else installLine k line true (putWhole k line (2 ^ 128 - 1) (lineBytes s k2 (a2 / 128)) s)
    | _, _ => s

def execReplicaRepair (handle line : Nat) (s : State) : Out := ifUp (replicaRepairS handle line) s

/-- REDUCTION_APPLY: the reduction unit applies the oldest accepted reduction of a line. -/
def execReductionApply (stack line : Nat) (s : State) : Out :=
  ifUp (fun s => guardS (crustWorks s stack) (applyRed stack line) s) s

/-- HOLD_END: a line with nothing left to apply stops being held. -/
def holdEndS (k line : Nat) (s : State) : State :=
  let key := lkey k line
  if (hline s key).isHeld ∧ (hline s key).batch.isEmpty then
    goLine key (setLine key (fun h => { h with isHeld := false, closed := false }) s)
  else s

def execHoldEnd (stack line : Nat) (s : State) : Out := ifUp (holdEndS stack line) s

/-- ORDER_TIMEOUT: an open ordered sequence has applied nothing for TIMEOUT_MS (R323). [DESIGN CHOICE, log entry 92] -/
def orderTimeoutS (k line : Nat) (s : State) : State :=
  let key := lkey k line
  match orderedOf s key with
  | none => s
  | some q =>
    if refOf s (crustDie k) - q.since < (cruOf s k).orderMs * refMs then s
    else
      let s := raise (crustDie k) 0x0003 0 0 (line * 128) q.next 0 (flushOrdered key q s)
      setCru k (fun c => { c with timeouts := satAdd 65535 c.timeouts 1 }) s

def execOrderTimeout (stack line : Nat) (s : State) : Out := ifUp (orderTimeoutS stack line) s

/-- WRITE_BATCH_DRAIN: a batch of a channel's held writes goes to the stack. [DESIGN CHOICE, log entry 7] -/
def drainS (k c : Nat) (s : State) : State :=
  setCru k (fun u => { u with wrHeld := tmod [] u.wrHeld c (fun l => l.drop u.wrBatch) }) s

def execWriteBatchDrain (stack channel : Nat) (s : State) : Out :=
  ifUp (fun s => guardS (crustWorks s stack) (drainS stack channel) s) s

/-- A scrub pass of a stack has read every line, so the next begins with its period, on the die's REF counter (R280). -/
def scrubOver (s : State) (k : Nat) : Bool := decide (usableGrans s k * 512 ≤ (cruOf s k).scrubDone.length)
/-- The period of the current scrub pass is over. -/
def scrubDue (s : State) (k : Nat) : Bool :=
  decide ((cruOf s k).scrubH * (3600000 * refMs) ≤ refOf s (crustDie k) - (cruOf s k).scrubAt)

/-- SCRUB_READ: patrol scrubbing reads a line, each once in a pass; the pass ends with the last line of the usable space, and
the next begins a period after it began (R280). [DESIGN CHOICE, log entry 8] -/
def scrubS (k line : Nat) (e : Ecc) (s : State) : State :=
  let u := cruOf s k
  if ¬ u.scrubOn ∨ ¬ crustWorks s k ∨ withdrawn s k line ∨ usableGrans s k * 512 ≤ line then s
  else if line ∈ u.scrubDone ∧ ¬ (scrubOver s k ∧ scrubDue s k) then s
  else
    let s := if lkey k line ∈ s.mem.poison then s else eccVerdict k line e s
    let fresh := scrubOver s k && scrubDue s k
    setCru k (fun u =>
      let done := line :: (if fresh then [] else u.scrubDone)
      { u with
        scrubDone := done, scrubAt := if fresh then refOf s (crustDie k) else u.scrubAt,
        scrubPasses := if usableGrans s k * 512 ≤ done.length then (u.scrubPasses + 1) % 2 ^ 32 else u.scrubPasses }) s

def execScrubRead (stack line : Nat) (e : Ecc) (s : State) : Out := ifUp (scrubS stack line e) s

/-- A thrash record (R290). [DEDUCED, log entry 91] -/
def thrashBytes (s : State) (k n misses : Nat) : List Byte :=
  layout 64 [(0, leBytes 4 0x0C04), (4, leBytes 2 n), (6, leBytes 1 (crustDie k)), (8, leBytes 8 (refOf s (crustDie k))),
    (16, leBytes 4 misses), (20, leBytes 4 (cruOf s k).thrThresh), (24, leBytes 4 (slicePins s n k)),
    (28, leBytes 4 (((tget? s.ten.slices n).map (fun sl => sl.pinMib * 8192)).getD 0))]

/-- The 1 ms window of a die's REF counter that a slice's misses are counted in has passed (R289). -/
def windowOver (s : State) (k n : Nat) : Bool := decide (tget 0 (cruOf s k).missWin n < refOf s (crustDie k) / refMs)

/-- THRASH_WINDOW: a 1 ms window of a slice's misses ends (R289). [DEDUCED, log entry 91] -/
def thrashS (k n : Nat) (s : State) : State :=
  let u := cruOf s k
  if ¬ windowOver s k n then s
  else
  let m := tget 0 u.misses n
  let q := tget 0 u.silent n
  let s := setCru k (fun u => { u with
    misses := tset 0 u.misses n 0, silent := tset 0 u.silent n (q - (refOf s (crustDie k) / refMs - tget 0 u.missWin n)), missWin := tset 0 u.missWin n (refOf s (crustDie k) / refMs) }) s
  if u.thrEnable ∧ u.thrThresh ≤ m ∧ q = 0 then
    raiseRec ⟨thrashBytes s k n m, some n⟩ (setCru k (fun u => { u with silent := tset 0 u.silent n 99 }) s)
  else s

def execThrashWindow (stack slice : Nat) (s : State) : Out :=
  ifUp (fun s => guardS (crustWorks s stack) (thrashS stack slice) s) s

end Sys2Proof.Machine
end

