-- ==== Sys2Proof/Machine/Faults.lean ====
section
/-! DEFINITION. Extent walks and stale handles (R364-R366), delivery of fault batches (R374, R375), the BAR4 aperture
(R349, R368-R370), write-back of the host write caches (R346) and zeroing of freed granules (R598). -/

namespace Sys2Proof.Machine

/-! ### Translation misses -/

/-- Unissued pieces at an address that a fault record would name by AGENT and INDEX: (transfer, index). -/
def walkPieces (x : Stn) (a agent index : Nat) : List (Xfer × XPiece × Nat) :=
  x.xfers.flatMap (fun f =>
    if xAgent f = (agent, index) then
      (f.pieces.zipIdx.filter (fun e => decide (e.1.st = 0 ∧ e.1.addr = a))).map (fun e => (f, e.1, e.2))
    else [])

/-- Semaphore accesses not sent that name an address. -/
def walkSems (s : State) (n : Nat) (x : Stn) (a agent index : Nat) : List Agent :=
  ((semWorkOf x).toList.filterMap (fun w => if agent = 0 ∧ index = w.1 then some (Agent.sem n) else none) ++
    (tkeys x.groups).filterMap (fun g => if agent = 0 ∧ index = g then some (Agent.semGrp n g) else none)).filter (fun w =>
      match semAcc s w with
      | some q => decide (q.addr = a ∧ q.st = 0)
      | none => false)

/-- Miss registers that wait for a line at an address: (register, waiters). -/
def walkMisses (s : State) (n : Nat) (x : Stn) (a : Nat) : List (Nat × List Nat) :=
  (x.rg.miss.filter (fun m => decide (m.2.1 = a) && !asked s (.missReg n m.1))).map (fun m => (m.1, m.2.2.1))

/-- EXTENT_WALK: an access that finds no entry in the station's extent cache is resolved by the walker: the extent's entry
is put in the cache, or every such access of the agent named faults with NO_EXTENT (R364, R365, R371). -/
def extentWalkS (n c a agent index : Nat) (s : State) : State :=
  match liveOf s n with
  | none => s
  | some x =>
    let ps := walkPieces x a agent index
    let ws := walkSems s n x a agent index
    let ms := if agent = 3 then (walkMisses s n x a).filter (fun m => decide (index ∈ m.2)) else []
    if x.ctx ≠ c ∨ (xlate s x a).isSome ∨ inCounters a ∨ (owinAt s c a).isSome ∨ (ps.isEmpty ∧ ws.isEmpty ∧ ms.isEmpty) then s
    else
      match findMap s c a with
      | some (m, y) => addX n (c, handleOf m.num y, m.start) s
      | none =>
        let s := ps.foldl (fun s e => pieceFault n e.1 e.2.1 e.2.2 1 s) s
        let s := ws.foldl (fun s w => match semAcc s w with
          | some q => semXlate w n 1 q s
          | none => s) s
        ms.foldl (fun s m => missFault n m.1 a 1 m.2 s) s

/-- EXTENT_WALK. -/
def execExtentWalk (stn ctx addr _access agent index _len : Nat) (s : State) : Out :=
  ifRun (extentWalkS stn ctx addr agent index) s

/-- Device address that a request of a station's agent stands for. -/
def agentAddr (s : State) : Agent → Option Nat
  | .xfer n x k => ((stnOf s n).bind (fun y => pieceOf y x k)).map (fun e => e.2.addr)
  | .missReg n m => ((stnOf s n).bind (fun y => tget? y.rg.miss m)).map (·.1)
  | .cache _ => none
  | w => (semAcc s w).map (·.addr)

/-- The request starts again: its pieces, wait or line are unsent. -/
def unsend (r : Req) (s : State) : State :=
  match r.who with
  | .cache n =>
    let key := lkey r.stack r.line
    let s1 := (pendReaders s n key).foldl (fun s w => match w.who with
      | .xfer n xid k => setPiece n xid k 0 s
      | _ => s) s
    setStn n (dropPend key) s1
  | .xfer n xid k =>
    (match (stnOf s n).bind (fun x => pieceOf x xid k) with
     | some (f, p) =>
       setPieces n xid ((f.pieces.zipIdx.filter (fun e => decide (e.1.st = 1 ∧ e.1.addr / 128 = p.addr / 128))).map (·.2)) 0 s
     | none => s)
  | w => setSem w 0 s

/-- A refusal for a stale handle that concerns a station and an address of a context. -/
def staleFor (s : State) (n c a : Nat) : Msg → Bool
  | .refuse r st => decide (st = stStale ∧ r.ctx = c ∧ agentStn r.who = some n) &&
    (match r.who with
     | .cache _ => (pendReaders s n (lkey r.stack r.line)).any (fun w => decide (agentAddr s w.who = some a))
     | w => decide (agentAddr s w = some a))
  | _ => false

/-- STALE_EXTENT reaches a station: it drops the cache entry and translates again (R366). -/
def staleExtentS (n c a : Nat) (s : State) : State :=
  match s.home.net.find? (staleFor s n c a) with
  | some (.refuse r st) =>
    let s1 := { s with home := { s.home with net := s.home.net.erase (.refuse r st) } }
    setStn n (fun x => { x with xcache := x.xcache.filter (fun e => !decide (e.2.1 = r.handle)) }) (unsend r s1)
  | _ => s

def execStaleExtent (stn ctx addr : Nat) (s : State) : Out := ifUp (staleExtentS stn ctx addr) s

/-! ### Fault batches -/

/-- Entries of the fault ring. -/
def ringLen (s : State) : Nat := 2 ^ s.xt.ringLog2

/-- The fault ring has room for a batch of `n` records and its header, with one entry left free before TAIL. -/
def faultRoom (s : State) (n : Nat) : Bool :=
  decide (n + 1 ≤ (s.xt.tail % ringLen s + ringLen s - s.xt.head % ringLen s - 1) % ringLen s)

/-- Header of a batch (R375). -/
def batchHeader (s : State) (c trig : Nat) (b : Batch) : List Byte :=
  let d := ctxDie s c
  layout 64 [(0, leBytes 4 0x0C06), (4, leBytes 2 c), (6, leBytes 1 d), (7, leBytes 1 trig), (8, leBytes 8 (refOf s d)),
    (16, leBytes 4 b.seq), (20, leBytes 2 b.recs.length)]

/-- Writes entries to the fault ring from HEAD on; the ring wraps at its end. -/
def putRing (es : List (List Byte)) (s : State) : State :=
  es.zipIdx.foldl (fun s e => hostPost none (s.xt.ringBase + 64 * ((s.xt.head + e.2) % ringLen s)) e.1 s) s

/-- FAULT_BATCH_DELIVERY: the oldest triggered batch of a context is written, HEAD advances and the vector is raised; it
waits while the ring is disabled or lacks room. [DESIGN CHOICE, log entry 9] -/
def faultDeliveryS (c : Nat) (s : State) : State :=
  match ctxOf s c with
  | none => s
  | some x =>
    match x.waiting with
    | [] => s
    | (b, trig) :: rest =>
      if ¬ s.xt.ringEnable ∨ ¬ faultRoom s b.recs.length then s
      else
        let s1 := putRing (batchHeader s c trig b :: b.recs.map (faultBytes c b.seq)) s
        let s2 := setCtx c (fun x => { x with waiting := rest, unresolved := x.unresolved ++ [b] }) { s1 with xt := { s1.xt with
          head := (s.xt.head + b.recs.length + 1) % ringLen s, delivered := satAdd (2 ^ 32 - 1) s.xt.delivered 1 } }
        raiseMsix s.xt.ringVec s2

def execFaultBatchDelivery (ctx : Nat) (s : State) : Out := ifUp (faultDeliveryS ctx) s

/-! ### BAR4 -/

/-- A refused BAR4 access or a read of poison is counted, and the first in each 1 ms raises APERTURE_MISS (R370). -/
def apCount (page : Nat) (poison : Bool) (s : State) : State :=
  let n := s.xt.apSince + 1
  let due := match s.xt.apMissAt with
    | none => true
    | some t => decide (refMs ≤ refOf s pd0 - t)
  let xt := { s.xt with
    apMisses := if poison then s.xt.apMisses else satAdd (2 ^ 32 - 1) s.xt.apMisses 1,
    apPoisoned := if poison then satAdd (2 ^ 32 - 1) s.xt.apPoisoned 1 else s.xt.apPoisoned }
  if due then raise pd0 0x0004 0 0 page n 0 { s with xt := { xt with apMissAt := some (refOf s pd0), apSince := 0 } }
  else { s with xt := { xt with apSince := n } }

/-- The aperture entry that serves an access of `n` bytes at a BAR4 offset, and the device address: the access is of at most
4 KiB, within one page, of an entry with the right, of an extent that the entry's context owns and whose homes answer. [DEDUCED, log entry 94] -/
def apServe (s : State) (off n : Nat) (wr : Bool) : Option (Nat × Nat) :=
  if n = 0 ∨ 4096 < n ∨ off / 65536 ≠ (off + n - 1) / 65536 then none
  else
    match tget? s.xt.apertures (off / 65536) with
    | none => none
    | some e =>
      let a := e.addr + off % 65536
      match findMap s e.ctx a with
      | none => none
      | some (_, x) =>
        if (if wr then e.wr else e.rd) && !attrSealed x.attr && !(wr && readOnlyFor x e.ctx) && inOwnerSet s x e.ctx &&
            !ctxUnavailable s e.ctx a n .bar4 then some (e.ctx, a) else none

/-- A completion with data of all-ones. [PRESUMED, log entry 11] -/
def onesBack (n : Nat) (poison : Bool) (s : State) : State :=
  { s with pci := { s.pci with rdData := List.replicate n 0xFF, rdPoison := poison } }

/-- BAR4_READ. The read waits while a line it touches is blocked or has reductions to apply. [DEDUCED, log entry 94] -/
def bar4ReadS (off n : Nat) (s : State) : State :=
  if ¬ busUp s then onesBack n false s
  else
    match apServe s off n false with
    | none => apCount (off / 65536) false (onesBack n false s)
    | some (c, a) =>
      if ctxBusy s c a n then s
      else if ctxPoisoned s c a n then apCount (off / 65536) true (onesBack n true s)
      else { s with pci := { s.pci with rdData := ctxRead s c a n, rdPoison := false } }

/-- BAR4_READ: an unpowered module or one before READY answers all-ones or nothing of its own. -/
def execBar4Read (off len : Nat) (s : State) : Out :=
  .next (if s.pwr.phase = .ready then bar4ReadS off len s else onesBack len false s)

/-- BAR4_WRITE: the bytes go to the homes of their lines, or are discarded and counted. [DEDUCED, log entry 94] -/
def bar4WriteS (off : Nat) (data : List Byte) (s : State) : State :=
  if ¬ busUp s ∨ data.isEmpty then s
  else
    match apServe s off data.length true with
    | none => apCount (off / 65536) false s
    | some (c, a) => ctxWrite c a data .bar4 s

def execBar4Write (off : Nat) (data : List Byte) (s : State) : Out := ifUp (bar4WriteS off data) s

/-- BAR4_RESIZE: a change of the BAR's size invalidates every aperture entry (R368). -/
def bar4ResizeS (k : Nat) (s : State) : State :=
  if ¬ (s.pci.active ∧ s.pci.linkUp) ∨ k < 30 ∨ 36 < k ∨ k = s.pci.bar4Log2 then s
  else { s with pci := { s.pci with bar4Log2 := k }, xt := { s.xt with apertures := [] } }

def execBar4Resize (log2 : Nat) (s : State) : Out := ifUp (bar4ResizeS log2) s

/-! ### Host write caches and freed granules -/

/-- HOST_WC_WRITEBACK: a host write cache writes dirty bytes that it holds back to host memory. -/
def execHostWcWriteback (die : Nat) (keys : List Nat) (s : State) : Out :=
  ifUp (fun s => guardS (s.pci.active && s.pci.linkUp) (writeBack (fun k => decide (k ∈ keys ∧ wcDie k = die))) s) s

/-- FREED_GRANULE_ZEROED: the granule holds zeros, and returns to its slice's quota and its stack. -/
def freedZeroedS (k g : Nat) (s : State) : State :=
  match s.xt.freeing.find? (fun e => decide (e.1 = k ∧ e.2.1 = g)) with
  | none => s
  | some e => zeroGran k g { s with xt := { s.xt with freeing := s.xt.freeing.erase e } }

def execFreedGranuleZeroed (stack granule : Nat) (s : State) : Out := ifUp (freedZeroedS stack granule) s

end Sys2Proof.Machine
end

