-- ==== Sys2Proof/Machine/Matrix.lean ====
section
/-! DEFINITION. The arithmetic of the Matrix Station: operands and tiles (R99, R102, R127), sums of exact products,
widened, sparse and skipped operands (R103, R118, R119, R141-R153), epilogue chains (R114-R117) and results (R133-R135). -/

namespace Sys2Proof.Machine

/-! ### Operand entries (R99) -/

/-- An operand entry. -/
structure Opnd where
  src : Nat
  fmt : Nat
  ord : Nat
  off : Nat
  pitch : Nat
  stride : Nat
deriving DecidableEq, Repr

/-- The operand entry at an offset of a descriptor (R99). [DEDUCED, log entry 78] -/
def opndAt (d : List Byte) (o : Nat) : Opnd :=
  ⟨field d o 1, field d (o + 1) 1, field d (o + 2) 1, field d (o + 4) 4, field d (o + 8) 4, field d (o + 12) 4⟩

/-- The entry with its STRIDE added for a pass of the innermost LOOP. -/
def opndOn (d : List Byte) (o pass : Nat) : Opnd :=
  let e := opndAt d o
  { e with off := e.off + e.stride * pass, fmt := if e.src = 9 then 0x0A else e.fmt }

/-- Fields of an entry are in range: where its source may be, `acc` accumulator tiles and `none` no operand. -/
def opndOk (d : List Byte) (o : Nat) (acc absent : Bool) : Bool :=
  let e := opndAt d o
  zeroAt d (o + 3) 1 && decide (e.ord ≤ 1) &&
  (decide (e.src ≤ 8) || (acc && decide (e.src = 9)) || (absent && decide (e.src = 0xFF))) &&
  (decide (7 < e.src) || decide (e.off = 0 ∧ e.pitch = 0)) &&
  (decide (e.src ≠ 8) || decide (e.off % 64 = 0 ∧ e.pitch % 64 = 0)) &&
  (decide (8 < e.src) || decide (1 ≤ e.fmt ∧ e.fmt ≤ 0x0C))

/-- Stored rows and elements per stored row of a logical R × C operand. -/
def stoRows (e : Opnd) (r c : Nat) : Nat := if e.ord = 0 then r else c
def stoLen (e : Opnd) (r c : Nat) : Nat := if e.ord = 0 then c else r

/-- Bytes of scratchpad from the first to past the last of an operand. -/
def opndSpan (e : Opnd) (r c : Nat) : Nat := (stoRows e r c - 1) * e.pitch + rowBytes e.fmt (stoLen e r c)

/-- Tiles of an R × C matrix. -/
def tilesOf (r c : Nat) : Nat := ceilDiv r 64 * ceilDiv c 64

/-- Code of the first condition that holds, 0 for none. -/
def firstOf (l : List (Bool × Nat)) : Nat := ((l.find? (fun e => e.1)).map (·.2)).getD 0

/-- Fault of an operand's range: rows that overlap, a range past the scratchpad part, tiles past 15 (R123, R127). -/
def opndFault (x : Stn) (e : Opnd) (r c : Nat) : Nat :=
  firstOf [(decide (e.src = 8 ∧ e.pitch < rowBytes e.fmt (stoLen e r c)), stBadDesc),
    (decide (e.src = 8) && !inScratch x e.off (opndSpan e r c), stLocalRange),
    (decide (e.src = 9 ∧ 16 < e.off + tilesOf r c), stAccRange)]

/-! ### Tiles on a stream (R45, R102) -/

/-- Rows and elements per row of tile `t` as stored, for a logical R × C operand whose tiles come by K-block along the
columns where `kc`, else row-major. -/
def tileDim (e : Opnd) (r c : Nat) (kc : Bool) (t : Nat) : Nat × Nat :=
  let nr := ceilDiv r 64
  let nc := ceilDiv c 64
  let ti := if kc then t % nr else t / nc
  let tj := if kc then t / nr else t % nc
  let h := min 64 (r - 64 * ti)
  let w := min 64 (c - 64 * tj)
  if e.ord = 0 then (h, w) else (w, h)

def tileDims (e : Opnd) (r c : Nat) (kc : Bool) : List (Nat × Nat) := (List.range (tilesOf r c)).map (tileDim e r c kc)

/-- Flits of a tile. -/
def tileFlits (fmt : Nat) (d : Nat × Nat) : Nat := ceilDiv (d.1 * rowBytes fmt d.2) 512

/-- Cuts a tile's bytes into flits. -/
def flitsOf (fmt : Nat) (d : Nat × Nat) (bs : List Byte) : List Flit :=
  (List.range (ceilDiv bs.length 512)).map (fun i =>
    let p := (bs.drop (512 * i)).take 512
    ⟨fmt, d.1, d.2, i, p ++ zeros (512 - p.length)⟩)

/-- The shape and place that flit number `i` of a sequence of tiles must have. -/
def flitWant (fmt : Nat) : List (Nat × Nat) → Nat → Option (Nat × Nat × Nat)
  | [], _ => none
  | d :: r, i => if i < tileFlits fmt d then some (d.1, d.2, i) else flitWant fmt r (i - tileFlits fmt d)

/-- A flit is what a sink descriptor declares; a flit that no tile descriptor sent matches any format. [DEDUCED, log entry 77] -/
def flitMatches (fmt : Nat) (w : Nat × Nat × Nat) (f : Flit) : Bool :=
  decide (f.fmt = 0 ∨ (f.fmt = fmt ∧ f.rows = w.1 ∧ f.cols = w.2.1 ∧ f.idx = w.2.2))

/-- Bytes of each tile of a sequence, from its flits. -/
def cutTiles (fmt : Nat) : List (Nat × Nat) → List Flit → List (List Byte)
  | [], _ => []
  | d :: r, fs => ((fs.take (tileFlits fmt d)).flatMap (·.data)) :: cutTiles fmt r (fs.drop (tileFlits fmt d))

/-! ### Reading elements -/

/-- An element's value and the flags of reading it: a subnormal of a format that the mode applies to is flushed; signalling
NaNs are those of binary32, bfloat16 and binary16. -/
def readElem (flush : Bool) (fmt : Nat) (bs : List Byte) (n i : Nat) : FV × Nat :=
  if flushes fmt then readF flush (fmtOf fmt) (rowElem bs 0 (fmtBits fmt) i)
  else
    match rowValue bs 0 fmt n i with
    | .nan _ => (.nan false, 0)
    | v => (v, 0)

/-- Stored row and element of a logical place, and their bytes: accumulator tiles aside. -/
def opndRow (x : Stn) (tiles : List (List Byte)) (e : Opnd) (r c : Nat) (kc : Bool) (i j : Nat) : List Byte × Nat × Nat :=
  if e.src = 8 then
    let n := stoLen e r c
    (lsRead x (e.off + (if e.ord = 0 then i else j) * e.pitch) (rowBytes e.fmt n), n, if e.ord = 0 then j else i)
  else
    let t := if kc then j / 64 * ceilDiv r 64 + i / 64 else i / 64 * ceilDiv c 64 + j / 64
    let d := tileDim e r c kc t
    let rb := rowBytes e.fmt d.2
    let sr := if e.ord = 0 then i % 64 else j % 64
    ((((tiles[t]?).getD []).drop (sr * rb)).take rb, d.2, if e.ord = 0 then j % 64 else i % 64)

/-- Element (i, j) of accumulator tiles from `t0` holding R × C. -/
def accAt (x : Stn) (t0 c i j : Nat) : Word :=
  tget 0 x.acc ((t0 + i / 64 * ceilDiv c 64 + j / 64) * 4096 + 64 * (i % 64) + j % 64)

/-- Element (i, j) of an operand. The tiles of an accumulator operand are row-major whatever ORDER its entry names. [DESIGN CHOICE, log entry 129] -/
def opndElem (flush : Bool) (x : Stn) (tiles : List (List Byte)) (e : Opnd) (r c : Nat) (kc : Bool) (i j : Nat) : FV × Nat :=
  if e.src = 9 then readF flush fF32 (accAt x e.off c i j).toNat
  else
    let b := opndRow x tiles e r c kc i j
    readElem flush e.fmt b.1 b.2.1 b.2.2

/-- Per-tensor scale of an FP8 operand, none where it is refused (R129). -/
def tensorScale (w : Nat) : Option FV :=
  match decF fF32 w with
  | .fin s m e => if m = 0 then some (.fin false 1 0) else if s ∨ isSub fF32 w then none else some (.fin s m e)
  | _ => none

/-- A value with a scale, exact. -/
def scaledBy (sc v : FV) : FV := (mulV v sc).1

/-! ### Matrix descriptors: fields (R97, R98, R104) -/

def mxM (d : List Byte) : Nat := field d 8 2
def mxN (d : List Byte) : Nat := field d 10 2
def mxK (d : List Byte) : Nat := field d 12 4
def mxAcc (d : List Byte) : Nat := field d 16 1
def mxEpi (d : List Byte) : Nat := field d 17 1
def mxHist (d : List Byte) : Nat := field d 18 1
def mxWiden (d : List Byte) : Nat := field d 19 1
def mxWidenTo (d : List Byte) : Nat := field d 20 1
def mxMetaOff (d : List Byte) : Nat := field d 88 4
def mxSieveOff (d : List Byte) : Nat := field d 92 4
def mxWidenOff (d : List Byte) : Nat := field d 96 4
def mxSeed (d : List Byte) : Nat := field d 100 4
def mxScaleA (d : List Byte) : Nat := field d 104 4
def mxScaleB (d : List Byte) : Nat := field d 108 4
def mxFlags (d : List Byte) : Nat := field d 4 4
def mxSparseA (d : List Byte) : Bool := bitOf (mxFlags d) 0
def mxSparseB (d : List Byte) : Bool := bitOf (mxFlags d) 1
def mxSieve (d : List Byte) : Bool := bitOf (mxFlags d) 2
def mxKeep (d : List Byte) : Bool := bitOf (mxFlags d) 3
def mxNoOut (d : List Byte) : Bool := bitOf (mxFlags d) 4
def mxRound (d : List Byte) : Nat := bits (mxFlags d) 6 5

/-- CONV_PARAMS. -/
def cvKH (d : List Byte) : Nat := field d 112 1
def cvKW (d : List Byte) : Nat := field d 113 1
def cvSV (d : List Byte) : Nat := field d 114 1 % 16
def cvSH (d : List Byte) : Nat := field d 114 1 / 16
def cvDV (d : List Byte) : Nat := field d 115 1 % 16
def cvDH (d : List Byte) : Nat := field d 115 1 / 16
def cvInH (d : List Byte) : Nat := field d 116 2
def cvInW (d : List Byte) : Nat := field d 118 2
def cvC (d : List Byte) : Nat := field d 120 2
def cvOutW (d : List Byte) : Nat := field d 122 2

/-- Epilogue step `i`: code, ARG, IMM. -/
def epiStep (d : List Byte) (i : Nat) : Nat × Nat × Nat :=
  (field d (128 + 8 * i) 1, field d (130 + 8 * i) 2, field d (132 + 8 * i) 4)
def epiSteps (d : List Byte) : List (Nat × Nat × Nat) := (List.range (mxEpi d)).map (epiStep d)

/-! ### Sparse and skipped operands (R118, R119, R149-R153) -/

/-- Metadata entry of group `g` of row `r` along K. -/
def metaAt (x : Stn) (off k r g : Nat) : Nat :=
  field (lsRead x (off + r * roundUp (ceilDiv k 8) 64 + g / 2) 1) 0 1 / 16 ^ (g % 2) % 16

/-- Some entry of the metadata of `rows` rows names one position twice. -/
def metaBad (x : Stn) (off k rows : Nat) : Bool :=
  (List.range rows).any (fun r => (List.range (k / 4)).any (fun g =>
    let e := metaAt x off k r g
    decide (e % 4 = e / 4)))

/-- Stored index of logical position `k` of row `r` of a sparse operand, none where it is not stored. [DEDUCED, log entry 76] -/
def sparseAt (x : Stn) (off kk r k : Nat) : Option Nat :=
  let e := metaAt x off kk r (k / 4)
  if e % 4 = k % 4 then some (2 * (k / 4)) else if e / 4 = k % 4 then some (2 * (k / 4) + 1) else none

/-- Sieve map fields. -/
def svRows (x : Stn) (o : Nat) : Nat := field (lsRead x o 16) 0 2
def svCols (x : Stn) (o : Nat) : Nat := field (lsRead x o 16) 2 2
def svFlags (x : Stn) (o : Nat) : Nat := field (lsRead x o 16) 4 1
def svPitch (x : Stn) (o : Nat) : Nat := field (lsRead x o 16) 8 4
def svScale (x : Stn) (o : Nat) : Nat := field (lsRead x o 16) 12 4

/-- Fault of a Sieve map of an M × K operand (R149, R150). -/
def sieveFault (x : Stn) (o m k : Nat) : Nat :=
  let r := svRows x o
  let c := svCols x o
  let f := svFlags x o
  firstOf [(decide (o % 64 ≠ 0), stBadDesc), (!inScratch x o 64, stLocalRange),
    (decide (r < ceilDiv m 32 ∨ c < ceilDiv k 32 ∨ 1 < f ∨ svPitch x o % 8 ≠ 0 ∨ svPitch x o < ceilDiv c 8 ∨
      svScale x o % 64 ≠ 0 ∨ (f = 0 ∧ svScale x o ≠ 0)) || !zeroAt (lsRead x o 64) 5 3 || !zeroAt (lsRead x o 64) 16 48, stBadDesc),
    (!inScratch x o (64 + r * svPitch x o) || (decide (f = 1) && !inScratch x o (svScale x o + r * c)), stLocalRange)]

/-- Block (i, j) is occupied. -/
def sieveOn (x : Stn) (o i j : Nat) : Bool :=
  bitOf (field (lsRead x (o + 64 + i * svPitch x o + j / 8) 1) 0 1) (j % 8)

/-- Scale of block (i, j). [DEDUCED, log entry 76] -/
def sieveScale (x : Stn) (o i j : Nat) (v : FV) : FV :=
  if svFlags x o = 0 then v
  else
    match scaleV (field (lsRead x (o + svScale x o + i * svCols x o + j) 1) 0 1), v with
    | none, _ => .nan false
    | some k, .fin s m e => .fin s m (e + k)
    | some _, v => v

/-! ### Widening (R103, R141-R144) -/

/-- Group size of WIDEN 2 to 4, and groups along K. -/
def widenGroup (w : Nat) : Nat := 8 * 2 ^ w
def widenGroups (d : List Byte) : Nat := ceilDiv (mxK d) (widenGroup (mxWiden d))

/-- A group entry: bfloat16 scale, zero point, reserved byte. -/
def widenEntry (x : Stn) (d : List Byte) (n k : Nat) : List Byte :=
  lsRead x (mxWidenOff d + 4 * (n * widenGroups d + k / widenGroup (mxWiden d))) 4

/-- The widened pattern, in WIDEN_TO, of an INT element (k, n), and the flags of its steps. [DEDUCED, log entry 76] -/
def widened (flush : Bool) (x : Stn) (d : List Byte) (fmt k n raw : Nat) : Nat × Nat :=
  let w := if mxWidenTo d = 8 then 2 else 1
  if mxWiden d = 1 then (field (lsRead x (mxWidenOff d + w * raw) w) 0 w, 0)
  else
    let e := widenEntry x d n k
    let v := intV (signedOf (fmtBits fmt) raw - signedOf 8 (field e 2 1))
    let sc := convF flush 8 0x0A none (field e 0 2)
    let p := mul32 flush (BitVec.ofNat 32 (packV fF32 none v).1) (BitVec.ofNat 32 sc.1)
    let r := convF flush 0x0A (mxWidenTo d) none p.1.toNat
    (r.1, sc.2 ||| p.2 ||| r.2)

/-- Bytes of the expansion table or of the group entries. -/
def widenBytes (d : List Byte) (fmt : Nat) : Nat :=
  if mxWiden d = 1 then (if mxWidenTo d = 8 then 2 else 1) * 2 ^ fmtBits fmt else 4 * mxN d * widenGroups d

/-- A group entry of the descriptor is refused: a non-zero reserved byte, or a zero point out of range for INT4 (R143). -/
def widenBad (x : Stn) (d : List Byte) (fmt : Nat) : Bool :=
  decide (2 ≤ mxWiden d) && (List.range (mxN d * widenGroups d)).any (fun i =>
    let e := lsRead x (mxWidenOff d + 4 * i) 4
    let z := signedOf 8 (field e 2 1)
    decide (field e 3 1 ≠ 0 ∨ (fmt = 0x0B ∧ (z < -8 ∨ 7 < z))))

/-! ### Array operands -/

/-- Columns of A and rows of B as stored: half of K where sparse. -/
def mxKA (d : List Byte) : Nat := if mxSparseA d then mxK d / 2 else mxK d
def mxKB (d : List Byte) : Nat := if mxSparseB d then mxK d / 2 else mxK d

/-- The pixel row, and element, of stored element `k` of lowered row `m` of a CONV (R104, R105); none outside the image. -/
def convTap (d : List Byte) (c m k : Nat) : Option (Nat × Nat) :=
  let t := k / c
  let y := m / cvOutW d * cvSV d + t / cvKW d * cvDV d
  let z := m % cvOutW d * cvSH d + t % cvKW d * cvDH d
  if y < cvInH d ∧ z < cvInW d then some (y * cvInW d + z, k % c) else none

/-- Stored element (m, k) of A. The image of a CONV is read as rows of pixels whatever ORDER its entry names. [DESIGN CHOICE, log entry 129] -/
def aStored (flush conv : Bool) (x : Stn) (tiles : List (List Byte)) (d : List Byte) (e : Opnd) (m k : Nat) : FV × Nat :=
  if conv then
    let c := if mxSparseA d then cvC d / 2 else cvC d
    match convTap d c m k with
    | none => (.fin false 0 0, 0)
    | some (p, i) => readElem flush e.fmt (lsRead x (e.off + p * e.pitch) (rowBytes e.fmt c)) c i
  else opndElem flush x tiles e (mxM d) (mxKA d) true m k

/-- Value of A at logical (m, k), none where there is no product: not stored, or in an empty block. -/
def aValue (flush conv : Bool) (x : Stn) (tiles : List (List Byte)) (d : List Byte) (e : Opnd) (m k : Nat) : Option (FV × Nat) :=
  let st := if mxSparseA d then sparseAt x (mxMetaOff d) (mxK d) m k else some k
  if mxSieve d ∧ ¬ sieveOn x (mxSieveOff d) (m / 32) (k / 32) then none
  else
    st.map (fun i =>
      let v := aStored flush conv x tiles d e m i
      let v1 := if isFp8 e.fmt then scaledBy ((tensorScale (mxScaleA d)).getD (.fin false 1 0)) v.1 else v.1
      (if mxSieve d then sieveScale x (mxSieveOff d) (m / 32) (k / 32) v1 else v1, v.2))

/-- Value of B at logical (k, n), none where it is not stored. -/
def bValue (flush : Bool) (x : Stn) (tiles : List (List Byte)) (d : List Byte) (e : Opnd) (k n : Nat) : Option (FV × Nat) :=
  let st := if mxSparseB d then sparseAt x (mxMetaOff d) (mxK d) n k else some k
  st.map (fun i =>
    let v : FV × Nat :=
      if mxWiden d = 0 then opndElem flush x tiles e (mxKB d) (mxN d) false i n
      else
        let b := opndRow x tiles e (mxKB d) (mxN d) false i n
        let p := widened flush x d e.fmt k n (rowElem b.1 0 (fmtBits e.fmt) b.2.2)
        let r := if mxWidenTo d = 8 then readF flush fBf16 p.1 else (decF (fmtOf (mxWidenTo d)) p.1, 0)
        (r.1, r.2 ||| p.2)
    if isFp8 (if mxWiden d = 0 then e.fmt else mxWidenTo d) then
      (scaledBy ((tensorScale (mxScaleB d)).getD (.fin false 1 0)) v.1, v.2)
    else v)

/-! ### Products -/

/-- A matrix of binary32 patterns, by rows, with flags. -/
abbrev Mat := List (List Word)

def matMap (m : Mat) (f : Nat → Nat → Word → Word × Nat) : Mat × Nat :=
  let g := m.zipIdx.map (fun r => r.1.zipIdx.map (fun e => f r.2 e.2 e.1))
  (g.map (fun r => r.map (·.1)), g.foldl (fun a r => r.foldl (fun a e => a ||| e.2) a) 0)

/-- Builds an R × C matrix. -/
def matOf (r c : Nat) (f : Nat → Nat → Word × Nat) : Mat × Nat :=
  let g := (List.range r).map (fun i => (List.range c).map (f i))
  (g.map (fun r => r.map (·.1)), g.foldl (fun a r => r.foldl (fun a e => a ||| e.2) a) 0)

/-- Elements of a matrix. -/
def matAt (m : Mat) (i j : Nat) : Word := ((m[i]?).getD []).getD j 0

/-- Products of one output element with the flags of reading their factors, and whether every factor is a binary32 value. -/
def prodTerms (k : Nat) (a b : Nat → Option (FV × Nat)) : List FV × Nat × Bool :=
  let ps := (List.range k).filterMap (fun i => match a i, b i with
    | some u, some v => some (u, v)
    | _, _ => none)
  (ps.map (fun p => (mulV p.1.1 p.2.1).1), ps.foldl (fun f p => f ||| p.1.2 ||| p.2.2) 0,
    ps.all (fun p => fits32 p.1.1 && fits32 p.2.1))

/-- Products and sums of a MATMUL, CONV or ATTN_SCORE: from zero or the tiles' contents, with the addend C. -/
def matProduct (flush conv : Bool) (x : Stn) (d : List Byte) (pass : Nat) (ta tb tc : List (List Byte)) : Mat × Nat :=
  let ea := opndOn d 24 pass
  let eb := opndOn d 40 pass
  let ec := opndOn d 56 pass
  matOf (mxM d) (mxN d) (fun i j =>
    let p := prodTerms (mxK d) (aValue flush conv x ta d ea i) (fun k => bValue flush x tb d eb k j)
    let z : FV × Nat := if mxKeep d then readF flush fF32 (accAt x (mxAcc d) (mxN d) i j).toNat else (.fin false 0 0, 0)
    let c : Option (FV × Nat) := if ec.src = 0xFF then none else some (opndElem flush x tc ec (mxM d) (mxN d) false i j)
    let s := sumOf flush p.2.2 (z.1 :: ((c.map (·.1)).toList ++ p.1))
    (s.1, s.2 ||| p.2.1 ||| z.2 ||| ((c.map (·.2)).getD 0)))

/-! ### Epilogue chains (R114-R117) -/

/-- Vector register element. -/
def vregAt (x : Stn) (reg i : Nat) : Word := tget 0 x.vreg (64 * reg + i)

/-- Exact value of step code 0x08-0x0C of a value that is not NaN. -/
def epiValue (code : Nat) (v : FV) : FV × Nat :=
  if code = 8 then geluV v
  else if code = 9 then siluV v
  else if code = 0x0A then (sigmoidV v, 0)
  else if code = 0x0B then (tanhV v, 0)
  else (expV v, 0)

/-- Step code 0x08-0x0C of an element: NaN gives NaN; a value that binary32 holds is exact, any other within two units in
the last place. [DESIGN CHOICE, log entry 72] -/
def epiApply (flush : Bool) (code : Nat) (w : Word) : Word × Nat :=
  let x := readF flush fF32 w.toNat
  match x.1 with
  | .nan sig => (0x7FC00000#32, flagIf sig fInvalid)
  | v =>
    let r := epiValue code v
    let y := deliver flush true (twoUlp r.1) r.1 (Config.epiFn code w)
    (y.1, y.2 ||| r.2 ||| x.2)

/-! ### RMSNORM and LAYERNORM -/

/-- A row as integers times 2^base: the numerators over `den` and the mean square, or the variance, that a norm divides by. -/
structure NormRow where
  nums : List FV
  den : FV
  /-- largest magnitude that enters a numerator -/
  big : FV
  /-- the sum of squares stays well within binary32 -/
  inRange : Bool
deriving DecidableEq, Repr

/-- Numerators and divisor before IMM of a row of finite values: the elements over their root mean square, or centred over
their standard deviation. [DESIGN CHOICE, log entry 72] -/
def normRow (layer : Bool) (vs : List FV) : NormRow :=
  let base := sumBase vs
  let ms := sumMults vs
  let n := vs.length
  let s1 : Int := if layer then ms.foldl (· + ·) 0 else 0
  let s2 := sumNat (ms.map (fun m => m.natAbs * m.natAbs))
  let sq := n * s2 - s1.natAbs * s1.natAbs
  let lg : Int := (ilog2 s2 : Int) + 2 * base
  ⟨ms.map (fun m => let c := m * n - s1
      (divV (.fin (decide (c < 0)) c.natAbs base) (.fin false n 0)).1),
    (sqrtV (divV (.fin false sq (2 * base)) (.fin false (n * n) 0)).1).1,
    .fin false (ms.foldl (fun a m => max a m.natAbs) 0) base,
    decide (s2 = 0 ∨ (-100 < lg ∧ lg < 125))⟩

/-- How far an element may lie from its exact value: the roundings of a sum over the row, of the mean, the root, the
addition of IMM and the division. [DESIGN CHOICE, log entry 72] -/
def normTol (n : Nat) (big rms imm den : FV) : FV :=
  let mag := fun v : FV => gapV v (.fin false 0 0)
  let q := (divV big (mag den)).1
  let k := (divV (addV rms (mag imm)).1 (mag den)).1
  (addV (mulV (mulV (.fin false (n + 16) (-21)) q).1 k).1 (.fin false 4 (-149))).1

/-- RMSNORM or LAYERNORM of a row: element by element the quotient by the root mean square, or standard deviation, plus
IMM. An infinity or a NaN enters under R130; where the squares leave the range of binary32 the values are the hardware's. [DESIGN CHOICE, log entry 72] -/
def normOf (flush layer : Bool) (code : Nat) (imm : Word) (row : List Word) : List (Word × Nat) :=
  let xs := row.map (fun w => readF flush fF32 w.toNat)
  let z := readF flush fF32 imm.toNat
  let fl := xs.foldl (fun a x => a ||| x.2 ||| flagIf (decide (x.1 = .nan true)) fInvalid) z.2
  let isInf := fun v : FV => match v with
    | .inf _ => true
    | _ => false
  if xs.any (fun x => isNanV x.1) || isNanV z.1 then row.map (fun _ => (0x7FC00000#32, fl))
  else if xs.any (fun x => isInf x.1) then
    xs.map (fun x =>
      let v := if layer then (FV.nan false, fInvalid) else divV x.1 (addV (.inf false) z.1).1
      (BitVec.ofNat 32 (packV fF32 none v.1).1, v.2 ||| fl))
  else
    let r := normRow layer (xs.map (·.1))
    let den := addV r.den z.1
    r.nums.zipIdx.map (fun e =>
      let v := divV e.1 den.1
      let raw := Config.unstated code (BitVec.ofNat 32 e.2 :: imm :: row)
      let y := if r.inRange then deliver flush true (normTol row.length r.big r.den z.1 den.1) v.1 raw
        else if isNanV (decF fF32 raw.toNat) then (0x7FC00000#32, fInvalid)
        else
          let p := writeF flush fF32 (raw.toNat, deliverFlags v.1 raw)
          (BitVec.ofNat 32 p.1, p.2)
      (y.1, y.2 ||| v.2 ||| den.2 ||| fl))

/-- Key and query numbers of an element under the loop counters: the innermost LOOP steps through key blocks, the next one
through query blocks. -/
def causalMasked (passes : List Nat) (m n i j : Nat) : Bool :=
  decide (m * nth 0 passes 1 + i < n * nth 0 passes 0 + j)

/-- Bytes of a row of a MASK bitmap. -/
def maskPitch (n : Nat) : Nat := roundUp (ceilDiv n 8) 64

/-- One epilogue step on an M × N result. [DEDUCED, log entry 73] -/
def epiRun (flush : Bool) (x : Stn) (m n : Nat) (passes : List Nat) (w : Mat) (st : Nat × Nat × Nat) : Mat × Nat :=
  let imm := BitVec.ofNat 32 st.2.2
  let arg := st.2.1
  let mag := imm &&& 0x7FFFFFFF#32
  if st.1 = 1 then matMap w (fun _ _ v => mul32 flush v imm)
  else if st.1 = 2 then matMap w (fun _ j v => add32 flush v (vregAt x (arg + j / 64) (j % 64)))
  else if st.1 = 3 then matMap w (fun i _ v => mul32 flush v (vregAt x (arg + i / 64) (i % 64)))
  else if st.1 = 4 then matMap w (fun i j v => add32 flush v (accAt x arg n i j))
  else if st.1 = 5 then matMap w (fun i j v => mul32 flush v (accAt x arg n i j))
  else if st.1 = 6 then matMap w (fun _ _ v => ext32 flush true v 0)
  else if st.1 = 7 then matMap w (fun _ _ v =>
    let a := ext32 flush true v (mag ||| 0x80000000#32)
    let b := ext32 flush false a.1 mag
    (b.1, a.2 ||| b.2))
  else if st.1 ≤ 0x0C then matMap w (fun _ _ v => epiApply flush st.1 v)
  else if st.1 ≤ 0x0E then
    let rows := w.map (normOf flush (decide (st.1 = 0x0E)) st.1 imm)
    (rows.map (fun r => r.map (·.1)), rows.foldl (fun a r => r.foldl (fun a e => a ||| e.2) a) 0)
  else matMap w (fun i j v =>
    let hit := if arg = 0 then causalMasked passes m n i j
      else bitOf (field (lsRead x (st.2.2 + i * maskPitch n + j / 8) 1) 0 1) (j % 8)
    (if hit then 0xFF800000#32 else v, 0))

/-- The chain of a descriptor. -/
def epiChain (flush : Bool) (x : Stn) (d : List Byte) (m n : Nat) (passes : List Nat) (w : Mat) : Mat × Nat :=
  (epiSteps d).foldl (fun a st => let r := epiRun flush x m n passes a.1 st; (r.1, a.2 ||| r.2)) (w, 0)

/-! ### Results (R127, R133-R135, R145) -/

/-- Cuts a list into runs of 32. -/
def runs32 {α : Type} : Nat → List α → List (List α)
  | 0, _ => []
  | n + 1, l => if l.isEmpty then [] else l.take 32 :: runs32 n (l.drop 32)

/-- A row of binary32 values in a format, with the random bits of each where rounding is stochastic; and flags. -/
def encodeRow (flush : Bool) (fmt : Nat) (vs : List (Word × Option Nat)) : List Byte × Nat :=
  if isMx fmt then
    let bl := (runs32 vs.length vs).map (fun b => toMxBlock fmt (b.map (fun v => decF fF32 v.1.toNat)) (b.map (·.2)))
    (packRow (fmtBits fmt) (bl.flatMap (fun b => b.2.1)) ++ bl.map (fun b => BitVec.ofNat 8 b.1), bl.foldl (fun a b => a ||| b.2.2) 0)
  else
    let es := vs.map (fun v => convF flush 0x0A fmt v.2 v.1.toNat)
    (packRow (fmtBits fmt) (es.map (·.1)), es.foldl (fun a e => a ||| e.2) 0)

/-- Stored rows `rs` × elements `cs` of a result as bytes, one list a row. -/
def encodeRows (flush : Bool) (e : Opnd) (w : Mat) (draw : Nat → Nat → Option Nat) (r0 c0 r c : Nat) : List (List Byte × Nat) :=
  let el := fun i j => (matAt w (r0 + i) (c0 + j), draw (r0 + i) (c0 + j))
  (List.range (stoRows e r c)).map (fun a => encodeRow flush e.fmt ((List.range (stoLen e r c)).map (fun b =>
    if e.ord = 0 then el a b else el b a)))

/-- Random bits of each element where ROUND is 1. -/
def drawOf (round seed n iter i j : Nat) : Option Nat :=
  if round = 1 then some (srBits seed (i / 64 * ceilDiv n 64 + j / 64 + 256 * iter) (64 * (i % 64) + j % 64)) else none

/-- Writes an M × N result: to scratchpad, or as flits for a stream port; with the flags of its conversion. -/
def emitMat (flush : Bool) (e : Opnd) (m n round seed iter : Nat) (w : Mat) (x : Stn) : Stn × List (Nat × Flit) × Nat :=
  let draw := drawOf round seed n iter
  if e.src = 8 then
    let rows := encodeRows flush e w draw 0 0 m n
    (rows.zipIdx.foldl (fun x r => lsPut (e.off + r.2 * e.pitch) r.1.1 x) x, [], rows.foldl (fun a r => a ||| r.2) 0)
  else
    let ts := (List.range (tilesOf m n)).map (fun t =>
      let r0 := t / ceilDiv n 64 * 64
      let c0 := t % ceilDiv n 64 * 64
      (tileDim e m n false t, encodeRows flush e w draw r0 c0 (min 64 (m - r0)) (min 64 (n - c0))))
    (x, ts.flatMap (fun t => (flitsOf e.fmt t.1 (t.2.flatMap (·.1))).map (fun f => (e.src, f))),
      ts.foldl (fun a t => t.2.foldl (fun a r => a ||| r.2) a) 0)

/-- Counts a result's exponents in a histogram slot. -/
def countHist (slot : Nat) (w : Mat) (x : Stn) : Stn :=
  if slot = 0 then x
  else { x with hist := w.foldl (fun t r => r.foldl (fun t v => tmod 0 t (64 * slot + histBin v) (· + 1)) t) x.hist }

/-- Puts an M × N matrix into accumulator tiles; an edge tile keeps its other elements. -/
def putAcc (t0 n : Nat) (w : Mat) (x : Stn) : Stn :=
  { x with acc := w.zipIdx.foldl (fun t r => r.1.zipIdx.foldl (fun t e =>
      tset 0 t ((t0 + r.2 / 64 * ceilDiv n 64 + e.2 / 64) * 4096 + 64 * (r.2 % 64) + e.2 % 64) e.1) t) x.acc }

/-- Sets flags of a station: the five where the descriptor collects them, FLUSH alone otherwise (R117). -/
def mxFlag (all : Bool) (fl : Nat) (x : Stn) : Stn := { x with flags := x.flags ||| (if all then fl % 32 else fl &&& fFlush) }

/-- The end of a MATMUL-shaped descriptor: epilogue, then the tiles or OUT. [DEDUCED, log entry 74] -/
def mxFinish (flush all keepSums : Bool) (d : List Byte) (m n : Nat) (passes : List Nat) (w : Mat) (fl : Nat) (x : Stn) :
    Stn × List (Nat × Flit) :=
  let r := epiChain flush x d m n passes w
  if mxNoOut d then (mxFlag all (fl ||| r.2) (putAcc (mxAcc d) n r.1 x), [])
  else
    let x := if keepSums then putAcc (mxAcc d) n w x else x
    let o := emitMat flush (opndOn d 72 (nth 0 passes 0)) m n (mxRound d) (mxSeed d) (nth 0 passes 0) r.1 x
    (mxFlag all (fl ||| r.2 ||| o.2.2) (countHist (mxHist d) r.1 o.1), o.2.1)

/-! ### Descriptors' effects -/

/-- MATMUL, CONV and ATTN_SCORE. The accumulator tiles hold the sums where a result leaves through OUT. -/
def runMatmul (flush conv : Bool) (d : List Byte) (passes : List Nat) (ta tb tc : List (List Byte)) (x : Stn) :
    Stn × List (Nat × Flit) :=
  let p := matProduct flush conv x d (nth 0 passes 0) ta tb tc
  mxFinish flush false true d (mxM d) (mxN d) passes p.1 p.2 x

/-- ELTWISE (R109). [DEDUCED, log entry 74] -/
def runEltwise (flush : Bool) (d : List Byte) (passes : List Nat) (ta : List (List Byte)) (x : Stn) : Stn × List (Nat × Flit) :=
  let e := opndOn d 24 (nth 0 passes 0)
  let w := matOf (mxM d) (mxN d) (fun i j =>
    let v := opndElem flush x ta e (mxM d) (mxN d) false i j
    let s := if isFp8 e.fmt then scaledBy ((tensorScale (mxScaleA d)).getD (.fin false 1 0)) v.1 else v.1
    let p := writeF flush fF32 (packV fF32 none s)
    (BitVec.ofNat 32 p.1, p.2 ||| v.2))
  mxFinish flush true false d (mxM d) (mxN d) passes w.1 w.2 x

/-- One result of REDUCE over a list of values: 0 sum, 1 maximum, 2 minimum, 3 sum of squares (R110). [DEDUCED, log entry 73] -/
def reduceOf (flush : Bool) (op : Nat) (vs : List Word) : Word × Nat :=
  let val := fun w : Word => readF flush fF32 w.toNat
  let sum := fun l : List Word =>
    let s := sumV flush (l.map (fun v => (val v).1))
    (s.1, l.foldl (fun a v => a ||| (val v).2) s.2)
  if op = 1 ∨ op = 2 then
    match vs with
    | [] => (0, 0)
    | a :: r => r.foldl (fun acc v => let y := ext32 flush (op = 1) acc.1 v; (y.1, acc.2 ||| y.2)) (a, 0)
  else if op = 0 then sum vs
  else
    let sq := vs.map (fun v => mul32 flush v v)
    let s := sum (sq.map (·.1))
    (s.1, sq.foldl (fun a v => a ||| v.2) s.2)

/-- REDUCE: its source's elements in binary32, FP8 unscaled, then the results into vector registers from DEST. -/
def runReduce (flush : Bool) (d : List Byte) (pass : Nat) (ta : List (List Byte)) (x : Stn) : Stn :=
  let e := opndOn d 8 pass
  let m := field d 24 2
  let n := field d 26 2
  let w := matOf m n (fun i j =>
    let v := opndElem flush x ta e m n false i j
    let p := writeF flush fF32 (packV fF32 none v.1)
    (BitVec.ofNat 32 p.1, v.2 ||| p.2))
  let op := field d 28 1
  let rs : List (Word × Nat) :=
    if field d 29 1 = 0 then w.1.map (reduceOf flush op)
    else if field d 29 1 = 1 then (List.range n).map (fun j => reduceOf flush op (w.1.map (fun r => r.getD j 0)))
    else [reduceOf flush op (w.1.flatMap id)]
  mxFlag true (rs.foldl (fun a r => a ||| r.2) w.2)
    { x with vreg := rs.zipIdx.foldl (fun t r => tset 0 t (64 * field d 30 1 + r.2) r.1.1) x.vreg }

/-! ### Attention (R106-R108) -/

/-- Index of the nearest descriptor before `i` with OP `op`. -/
def descBefore (x : Stn) (op : Nat) : Nat → Option Nat
  | 0 => none
  | i + 1 => if dOp (nth [] x.descs i) = op then some i else descBefore x op i

/-- Rows and head dimension of an ATTN_PV: those of the ATTN_SCORE before it in the list. [DEDUCED, log entry 75] -/
def attnRows (x : Stn) (i : Nat) : Nat := match descBefore x 0x12 i with
  | some j => mxM (nth [] x.descs j)
  | none => Config.openField 0 (nth [] x.descs i) % 64 + 1
/-- Head dimension of the ATTN_PV before a descriptor. [DEDUCED, log entry 75] -/
def attnCols (x : Stn) (i : Nat) : Nat := match descBefore x 0x12 i with
  | some j => mxK (nth [] x.descs j)
  | none => Config.openField 1 (nth [] x.descs i) % 256 + 1

/-- exp of a difference of two scores: a masked score, and a row whose scores are all masked, give zero (R107).[DESIGN CHOICE, log entry 72] -/
def expDiff (flush : Bool) (a b : Word) : Word × Nat :=
  if a = 0xFF800000#32 then (0, 0)
  else
    let t := add32 flush a (b ^^^ 0x80000000#32)
    let y := epiApply flush 0x0C t.1
    (y.1, t.2 ||| y.2)

/-- Row `r` of P in P_FMT as values, blocks of 32 keys scaled where the format has scales. -/
def probRow (flush : Bool) (fmt round seed iter r : Nat) (ps : List Word) : List FV × Nat :=
  let e := encodeRow flush fmt (ps.zipIdx.map (fun p => (p.1, drawOf round seed 64 iter r p.2)))
  ((List.range ps.length).map (fun i => (readElem flush fmt e.1 ps.length i).1), e.2)

/-- ATTN_PV on a block of 64 keys. [DEDUCED, log entry 75] -/
def runAttnPv (flush : Bool) (i : Nat) (d : List Byte) (passes : List Nat) (tv : List (List Byte)) (x : Stn) : Stn :=
  let rows := attnRows x i
  let cols := attnCols x i
  let first := decide (field d 13 1 = 1)
  let vm := field d 10 1
  let vs := field d 11 1
  let fmt := field d 12 1
  let ev := opndOn d 16 (nth 0 passes 0)
  let step := fun (y : Stn) (r : Nat) =>
    let old := if first then 0xFF800000#32 else vregAt x vm r
    let sc := (List.range 64).map (fun j => accAt x (field d 8 1) 64 r j)
    let m := sc.foldl (fun a v => let q := ext32 flush true a.1 v; (q.1, a.2 ||| q.2)) (old, 0)
    let al : Word × Nat := if old = 0xFF800000#32 ∧ m.1 = 0xFF800000#32 then (0x3F800000#32, 0) else expDiff flush old m.1
    let ps := sc.map (fun v => expDiff flush v m.1)
    let pr := probRow flush fmt (mxRound d) (field d 32 4) (nth 0 passes 0) r (ps.map (·.1))
    let s0 : Word × Nat := if first then (0, 0) else mul32 flush (vregAt x vs r) al.1
    let sum := sumV flush (decF fF32 s0.1.toNat :: pr.1)
    let os := (List.range cols).map (fun c =>
      let o0 : Word × Nat := if first then (0, 0) else mul32 flush (accAt x (field d 9 1) cols r c) al.1
      let t := prodTerms 64 (fun k => (pr.1[k]?).map (fun v => (v, 0))) (fun k => some (opndElem flush x tv ev 64 cols false k c))
      let z := sumOf flush t.2.2 (decF fF32 o0.1.toNat :: t.1)
      (z.1, z.2 ||| o0.2 ||| t.2.1))
    let fl := os.foldl (fun a o => a ||| o.2) (m.2 ||| al.2 ||| pr.2 ||| s0.2 ||| sum.2 ||| ps.foldl (fun a p => a ||| p.2) 0)
    mxFlag false fl { y with
      vreg := tset 0 (tset 0 y.vreg (64 * vm + r) m.1) (64 * vs + r) sum.1,
      acc := os.zipIdx.foldl (fun t o => tset 0 t ((field d 9 1 + o.2 / 64) * 4096 + 64 * r + o.2 % 64) o.1.1) y.acc }
  (List.range rows).foldl step x

/-- Vector register of the row sums of an ATTN_FINAL: that of the ATTN_PV before it in the list. -/
def attnSum (x : Stn) (i : Nat) : Nat := match descBefore x 0x13 i with
  | some j => field (nth [] x.descs j) 11 1
  | none => Config.openField 2 (nth [] x.descs i) % 256

/-- ATTN_FINAL: O from ACC_FIRST over the row sums, its epilogue, OUT; a row whose scores were all masked is zero. [DEDUCED, log entry 75] -/
def runAttnFinal (flush : Bool) (i : Nat) (d : List Byte) (passes : List Nat) (x : Stn) : Stn × List (Nat × Flit) :=
  let m := mxM d
  let n := mxN d
  let isZero := fun w : Word => decide (w &&& 0x7FFFFFFF#32 = 0)
  let masked := fun r : Nat => isZero (vregAt x (attnSum x i) r) && (List.range n).all (fun c => isZero (accAt x (mxAcc d) n r c))
  let w := matOf m n (fun r c =>
    if masked r then (0, 0) else div32 flush (accAt x (mxAcc d) n r c) (vregAt x (attnSum x i) r))
  let e := epiChain flush x d m n passes w.1
  let out := e.1.zipIdx.map (fun r => if masked r.2 then r.1.map (fun _ => 0#32) else r.1)
  if mxNoOut d then (mxFlag true (w.2 ||| e.2) (putAcc (mxAcc d) n out x), [])
  else
    let o := emitMat flush (opndOn d 72 (nth 0 passes 0)) m n (mxRound d) (mxSeed d) (nth 0 passes 0) out x
    (mxFlag true (w.2 ||| e.2 ||| o.2.2) (countHist (mxHist d) out o.1), o.2.1)

end Sys2Proof.Machine
end

