-- ==== Sys2Proof/Machine/Descriptors.lean ====
section
/-! DEFINITION. Descriptor lists of stations: loops (R111, R112), what a station refuses (R82, R95, R101, R105, R110, R123,
R197, R230, R236, R243, R245, R271, R272), hazards (R96), starting and completing, and the ends of streams (R48, R51). -/

namespace Sys2Proof.Machine

/-! ### Streams of a station (R47, R48, R67) -/

/-- Stream entries of a launch's Recipe. -/
def streamsOf (s : State) (k : Nat) : List StreamEntry :=
  (((tget? s.sch.launches k).bind (fun l => tget? s.sch.recipes l.recipe)).map (·.streams)).getD []

/-- The stream whose sink is a port of a station, and the one whose source it is. -/
def sinkStream (s : State) (x : Stn) (p : Nat) : Option Nat :=
  let l := streamsOf s x.launch
  let i := l.findIdx (fun e => decide (e.sinkCell = x.cell ∧ e.sinkPort = p))
  if i < l.length then some i else none
def sourceStream (s : State) (x : Stn) (p : Nat) : Option Nat :=
  let l := streamsOf s x.launch
  let i := l.findIdx (fun e => decide (e.srcCell = x.cell ∧ e.srcPort = p))
  if i < l.length then some i else none

/-- A stream number whose source, or sink, is an engine of a station (R272). -/
def engineStream (s : State) (x : Stn) (n : Nat) (source : Bool) : Bool :=
  match (streamsOf s x.launch)[n]? with
  | some e => if source then decide (e.srcCell = x.cell ∧ 8 ≤ e.srcPort) else decide (e.sinkCell = x.cell ∧ 12 ≤ e.sinkPort)
  | none => false

/-- Where a flit leaves: a stream port below 16, or 16 plus a stream's number for an engine. -/
def outStream (s : State) (x : Stn) (p : Nat) : Option Nat := if p < 16 then sourceStream s x p else some (p - 16)
def inStream (s : State) (x : Stn) (p : Nat) : Option Nat := if p < 16 then sinkStream s x p else some (p - 16)

/-- Flits in a stream's receive buffer. -/
def bufOf (s : State) (x : Stn) (st : Nat) : List Flit := ((instOf s x.launch x.inst).map (fun i => tget [] i.bufs st)).getD []

/-- Consumes the oldest flit of a stream: its credit goes back in the express slot (R51). -/
def popFlit (x : Stn) (st : Nat) (s : State) : State :=
  setInst x.launch x.inst (fun i => { i with
    bufs := tset [] i.bufs st ((tget [] i.bufs st).drop 1), returning := tmod 0 i.returning st (· + 1) }) s

/-- Sends a flit into a stream that holds a credit. -/
def pushFlit (x : Stn) (st : Nat) (f : Flit) (s : State) : State :=
  setInst x.launch x.inst (fun i => { i with
    credits := tset 32 i.credits st (tget 32 i.credits st - 1), flight := i.flight ++ [(st, 0, f)] }) s

/-- Credits a source holds. -/
def creditsOf (s : State) (x : Stn) (st : Nat) : Nat := ((instOf s x.launch x.inst).map (fun i => tget 32 i.credits st)).getD 0

/-! ### Loops (R111, R112) -/

def lpCount (d : List Byte) : Nat := field d 8 4
def lpBack (d : List Byte) : Nat := field d 12 2

/-- Descriptor `j` is a LOOP whose body holds descriptor `i`. -/
def inBody (x : Stn) (j i : Nat) : Bool :=
  let d := nth [] x.descs j
  decide (dOp d = 1 ∧ lpBack d ≤ j ∧ j - lpBack d ≤ i ∧ i < j)

/-- LOOPs that enclose a descriptor, innermost first. -/
def enclosing (x : Stn) (i : Nat) : List Nat := (List.range x.descs.length).filter (fun j => inBody x j i)

/-- Passes of those LOOPs. [DEDUCED, log entry 78] -/
def passesOf (x : Stn) (i : Nat) : List Nat := (enclosing x i).map (fun j => tget 0 x.loops j)

/-- R112: depth, overlap and reach of a station's LOOPs. -/
def loopsBad (x : Stn) (j : Nat) : Bool :=
  let d := nth [] x.descs j
  decide (lpCount d < 1 ∨ 16777216 < lpCount d ∨ lpBack d < 1 ∨ 4095 < lpBack d ∨ j < lpBack d ∨ 3 < (enclosing x j).length) ||
  (enclosing x j).any (fun a => decide (j - lpBack d < a - lpBack (nth [] x.descs a))) ||
  (List.range x.descs.length).any (fun b => inBody x j b && decide (dOp (nth [] x.descs b) = 1 ∧
    (b < lpBack (nth [] x.descs b) ∨ b - lpBack (nth [] x.descs b) < j - lpBack d)))

/-! ### What a station refuses -/

/-- OPs that some row of the opcode table starts. -/
def rowOps : List Nat := [1, 2, 3, 4, 5, 6, 7, 0x10, 0x11, 0x12, 0x13, 0x14, 0x20, 0x21, 0x30, 0x40, 0x41, 0x42, 0x50, 0x51]

/-- OPs that a station kind accepts (R95, R197, R230, R271). -/
def kindOps (kind : Nat) : List Nat :=
  if kind = 1 then [1, 2, 3, 4, 5, 6, 7, 0x10, 0x11, 0x12, 0x13, 0x14, 0x20, 0x21]
  else if kind = 2 then [1, 4, 5, 6, 7, 0x30]
  else if kind = 3 then [1, 4, 5, 6, 7, 0x40, 0x41, 0x42]
  else [1, 6, 7, 0x50, 0x51]

/-- Header fault (R66): reserved bits, REST_ID, an OP of another kind. [DEDUCED, log entry 77] -/
def headBad (x : Stn) (d : List Byte) : Bool :=
  decide (field d 1 1 / 32 ≠ 0 ∨ field d 3 1 ≠ 0 ∨ (dRestAfter d = true ↔ dRestId d = 0) ∨ dOp d ∉ kindOps x.kind)

/-- A descriptor of one unit has no flags and zero in the bytes that its OP does not use. -/
def unitBad (d : List Byte) (used : List (Nat × Nat)) : Bool :=
  decide (dLen d ≠ 1 ∨ mxFlags d ≠ 0) ||
  (List.range' 8 56).any (fun i => !used.any (fun u => decide (u.1 ≤ i ∧ i < u.1 + u.2)) && decide (field d i 1 ≠ 0))

/-- A port has no stream in the direction wanted. -/
def noSink (s : State) (x : Stn) (p : Nat) : Bool := (sinkStream s x p).isNone
def noSource (s : State) (x : Stn) (p : Nat) : Bool := (sourceStream s x p).isNone

/-- RECV and SEND fields (R111). -/
def rsPort (d : List Byte) : Nat := field d 8 1
def rsFmt (d : List Byte) : Nat := field d 9 1
def rsTiles (d : List Byte) : Nat := field d 12 4
def rsPitch (d : List Byte) : Nat := field d 20 4
def rsOff (d : List Byte) (pass : Nat) : Nat := field d 16 4 + field d 24 4 * pass

/-- Faults of RECV and SEND (R111). [DEDUCED, log entry 77] -/
def rsFault (s : State) (x : Stn) (d : List Byte) (pass : Nat) : Nat :=
  let rb := rowBytes (rsFmt d) 64
  firstOf [(unitBad d [(8, 2), (12, 16)] || decide (7 < rsPort d ∨ rsFmt d < 1 ∨ 0x0C < rsFmt d ∨ field d 16 4 % 64 ≠ 0 ∨ rsPitch d % 64 ≠ 0 ∨
      (dOp d = 3 ∧ rsPitch d < rb)), stBadDesc),
    (if dOp d = 2 then noSink s x (rsPort d) else noSource s x (rsPort d), stStreamPort),
    (decide (rsTiles d ≠ 0) && !inScratch x (rsOff d pass) (if dOp d = 2 then 1 else (64 * rsTiles d - 1) * rsPitch d + rb), stLocalRange)]

/-- COPY_IN and COPY_OUT fields (R111, R113): a PITCH of 0 means rows back to back. -/
def cpAddr (d : List Byte) : Nat := field d 8 8
def cpRows (d : List Byte) : Nat := field d 16 4
def cpRowBytes (d : List Byte) : Nat := field d 20 4
def cpMemPitch (d : List Byte) : Nat := if field d 24 4 = 0 then cpRowBytes d else field d 24 4
def cpPitch (d : List Byte) : Nat := if field d 32 4 = 0 then cpRowBytes d else field d 32 4
def cpOff (d : List Byte) (pass : Nat) : Nat := field d 28 4 + field d 36 4 * pass
/-- Bytes of local store that a COPY_IN or COPY_OUT spans. [DEDUCED, log entry 77] -/
def cpSpan (d : List Byte) : Nat := if cpRows d = 0 then 0 else (cpRows d - 1) * cpPitch d + cpRowBytes d

def cpFault (x : Stn) (d : List Byte) (pass : Nat) : Nat :=
  firstOf [(unitBad d [(8, 32)] || decide (2 ^ 52 ≤ cpAddr d ∨ cpRowBytes d % 64 ≠ 0 ∨ 16777216 < cpRowBytes d ∨
      field d 28 4 % 64 ≠ 0 ∨ field d 32 4 % 64 ≠ 0), stBadDesc),
    (!inScratch x (cpOff d pass) (cpSpan d), stLocalRange)]

/-- SEM_WAIT and SEM_RELEASE (R111). -/
def smBad (d : List Byte) : Bool := unitBad d [(8, 17)] || decide (field d 8 8 % 8 ≠ 0 ∨ 2 ^ 52 ≤ field d 8 8 ∨ 3 < field d 24 1)

/-- Epilogue steps with a reserved code or field (R114, R115, R653). -/
def stepBad (d : List Byte) (i : Nat) : Bool :=
  let e := epiStep d i
  decide (e.1 < 1 ∨ 0x0F < e.1 ∨ field d (129 + 8 * i) 1 ≠ 0 ∨ (e.1 ∉ [2, 3, 4, 5, 0x0F] ∧ e.2.1 ≠ 0) ∨
    (¬ (e.1 ∈ [1, 7, 0x0D, 0x0E] ∨ (e.1 = 0x0F ∧ e.2.1 = 1)) ∧ e.2.2 ≠ 0) ∨ (e.1 = 0x0F ∧ (1 < e.2.1 ∨ e.2.2 % 64 ≠ 0)))

/-- Range fault of a step on an M × N result. -/
def stepFault (x : Stn) (m n : Nat) (e : Nat × Nat × Nat) : Nat :=
  firstOf [(decide (e.1 = 2 ∧ 256 < e.2.1 + ceilDiv n 64) || decide (e.1 = 3 ∧ 256 < e.2.1 + ceilDiv m 64), stVregRange),
    (decide ((e.1 = 4 ∨ e.1 = 5) ∧ 16 < e.2.1 + tilesOf m n), stAccRange),
    (decide (e.1 = 0x0F ∧ e.2.1 = 1) && !inScratch x e.2.2 (m * maskPitch n), stLocalRange)]

/-- The first code of a list that is not 0. -/
def firstCode (l : List Nat) : Nat := (l.find? (fun c => decide (c ≠ 0))).getD 0

/-- Parts common to the descriptors of MATMUL's layout: LEN, header fields, epilogue, ROUND and OUT; a byte between the last
epilogue step and LEN must be zero. [DESIGN CHOICE, log entry 129] -/
def mxCommon (s : State) (x : Stn) (d : List Byte) (pass flags : Nat) : Nat :=
  let n := mxEpi d
  let m := mxM d
  let c := mxN d
  let o := opndOn d 72 pass
  firstCode [firstOf [
    (decide (32 < n ∨ dLen d ≠ 2 + ceilDiv (8 * n) 64 ∨ mxFlags d &&& flags ≠ mxFlags d ∨ 1 < mxRound d ∨ m < 1 ∨ 1024 < m ∨
      c < 1 ∨ 1024 < c ∨ 63 < mxHist d) || !zeroAt d 21 3 || !zeroAt d (128 + 8 * n) (64 * dLen d - 128 - 8 * n) ||
      (List.range n).any (stepBad d), stBadDesc),
    (decide (15 < mxAcc d), stAccRange)],
    firstCode ((epiSteps d).map (stepFault x m c)),
    firstOf [(decide (mxRound d = 1 ∧ (field d 73 1 < 4 ∨ 8 < field d 73 1)) || !zeroAt d 75 1, stBadDesc)],
    if mxNoOut d then 0
    else firstCode [firstOf [(!opndOk d 72 false false || decide (0x0A < o.fmt), stBadDesc)],
      opndFault x o m c, firstOf [(decide (o.src ≤ 7) && noSource s x o.src, stStreamPort)]]]

/-- A per-tensor scale is refused, or set for an operand that is not FP8 (R97, R129). [DEDUCED, log entry 76] -/
def scaleBad (fp8 : Bool) (w : Nat) : Bool := if fp8 then (tensorScale w).isNone else decide (w ≠ 0)

/-- An operand that comes from a stream port without a stream. -/
def streamFault (s : State) (x : Stn) (e : Opnd) : Nat := firstOf [(decide (e.src ≤ 7) && noSink s x e.src, stStreamPort)]

/-- CONV_PARAMS and K of a CONV (R104, R105). -/
def convBad (d : List Byte) : Bool :=
  let out := fun v lo hi : Nat => decide (v < lo ∨ hi < v)
  decide ((opndAt d 24).src ≠ 8 ∨ mxK d ≠ cvKH d * cvKW d * cvC d ∨ cvC d % 32 ≠ 0 ∨ cvC d = 0 ∨ cvOutW d = 0) ||
  out (cvKH d) 1 7 || out (cvKW d) 1 7 || out (cvSV d) 1 4 || out (cvSH d) 1 4 || out (cvDV d) 1 4 || out (cvDH d) 1 4 ||
  !zeroAt d 124 4

/-- MATMUL, CONV and ATTN_SCORE: formats, shapes and flags (R101, R105, R106, R128). -/
def mmBad (d : List Byte) (op : Nat) : Bool :=
  let a := opndAt d 24
  let b := opndAt d 40
  let c := opndAt d 56
  let k := mxK d
  let w := mxWiden d
  let int := decide (b.fmt = 0x0B ∨ b.fmt = 0x0C)
  !opndOk d 24 false false || !opndOk d 40 false false || !opndOk d 56 true true ||
  decide (16 < mxAcc d + tilesOf (mxM d) (mxN d) ∨ k < 1 ∨ 1048576 < k ∨ ((isMx a.fmt ∨ isMx b.fmt) ∧ k % 32 ≠ 0) ∨
    ((mxSparseA d ∨ mxSparseB d) ∧ k % 4 ≠ 0) ∨ (mxSparseA d ∧ mxSparseB d) ∨ (mxSieve d ∧ mxSparseA d)) ||
  decide (9 < a.fmt ∨ b.fmt = 0x0A ∨ (int = true ↔ w = 0) ∨ 4 < w ∨ (w = 0 ∧ mxWidenTo d ≠ 0) ∨
    (w ≠ 0 ∧ mxWidenTo d ≠ 6 ∧ mxWidenTo d ≠ 8) ∨ (w = 1 ∧ mxWidenOff d % 64 ≠ 0)) ||
  decide ((isMx a.fmt ∧ a.ord ≠ 0) ∨ (isMx b.fmt ∧ b.ord ≠ 1) ∨ (c.src ≤ 8 ∧ c.fmt ≠ 0x0A)) ||
  scaleBad (isFp8 a.fmt) (mxScaleA d) || scaleBad (isFp8 (if w = 0 then b.fmt else mxWidenTo d)) (mxScaleB d) ||
  (if op = 0x11 then convBad d else !zeroAt d 112 16) ||
  (decide (op = 0x12) && decide (mxNoOut d = false ∨ mxEpi d = 0 ∨ (epiStep d 0).1 ≠ 1 ∨ 64 < mxM d ∨ mxN d ≠ 64 ∨ 256 < k ∨ b.ord ≠ 1))

/-- Metadata rows of a sparse operand. -/
def metaRows (d : List Byte) : Nat := if mxSparseA d then mxM d else mxN d
def metaSpan (d : List Byte) : Nat := metaRows d * roundUp (ceilDiv (mxK d) 8) 64

/-- Image of a CONV as an operand of one pixel a row. -/
def convImage (d : List Byte) (pass : Nat) : Opnd × Nat × Nat :=
  (opndOn d 24 pass, cvInH d * cvInW d, if mxSparseA d then cvC d / 2 else cvC d)

/-- Faults of MATMUL, CONV and ATTN_SCORE, in their ranges and their tables. [DEDUCED, log entry 73; DEDUCED, log entry 74] -/
def mmFault (s : State) (x : Stn) (d : List Byte) (pass : Nat) : Nat :=
  let op := dOp d
  let a := opndOn d 24 pass
  let b := opndOn d 40 pass
  let c := opndOn d 56 pass
  let img := convImage d pass
  firstCode [firstOf [(mmBad d op, stBadDesc)], mxCommon s x d pass 0x7F,
    if op = 0x11 then opndFault x img.1 img.2.1 img.2.2 else opndFault x a (mxM d) (mxKA d),
    opndFault x b (mxKB d) (mxN d), if c.src = 0xFF then 0 else opndFault x c (mxM d) (mxN d),
    streamFault s x a, streamFault s x b, streamFault s x c,
    firstOf [((mxSparseA d || mxSparseB d) && !inScratch x (mxMetaOff d) (metaSpan d), stLocalRange),
      (decide (mxWiden d ≠ 0) && !inScratch x (mxWidenOff d) (widenBytes d b.fmt), stLocalRange)],
    if mxSieve d then sieveFault x (mxSieveOff d) (mxM d) (mxK d) else 0,
    firstOf [(widenBad x d b.fmt, stBadDesc),
      ((mxSparseA d || mxSparseB d) && metaBad x (mxMetaOff d) (mxK d) (metaRows d), stSparseMeta)]]

/-- ELTWISE (R109); ACC_KEEP is accepted and does nothing. [DEDUCED, log entry 73; DEDUCED, log entry 74; DESIGN CHOICE, log entry 129] -/
def elFault (s : State) (x : Stn) (d : List Byte) (pass : Nat) : Nat :=
  let a := opndOn d 24 pass
  firstCode [firstOf [(!opndOk d 24 true false || decide (a.fmt = 0x0B ∨ a.fmt = 0x0C ∨ mxK d ≠ 0 ∨ mxWiden d ≠ 0 ∨ mxWidenTo d ≠ 0) ||
      !zeroAt d 40 32 || !zeroAt d 112 16 || scaleBad (isFp8 a.fmt) (mxScaleA d) || decide (mxScaleB d ≠ 0), stBadDesc)],
    mxCommon s x d pass 0x78, opndFault x a (mxM d) (mxN d), streamFault s x a,
    firstOf [(mxNoOut d && decide (16 < mxAcc d + tilesOf (mxM d) (mxN d)), stAccRange)]]

/-- REDUCE (R110). -/
def rdCount (d : List Byte) : Nat := nth 1 [field d 24 2, field d 26 2, 1] (field d 29 1)
def rdFault (s : State) (x : Stn) (d : List Byte) (pass : Nat) : Nat :=
  let a := opndOn d 8 pass
  let m := field d 24 2
  let n := field d 26 2
  firstCode [firstOf [(!opndOk d 8 true false || decide (dLen d ≠ 2 ∨ mxFlags d ≠ 0 ∨ a.fmt = 0x0B ∨ a.fmt = 0x0C ∨ m < 1 ∨ 1024 < m ∨
      n < 1 ∨ 1024 < n ∨ 3 < field d 28 1 ∨ 2 < field d 29 1) || !zeroAt d 31 97, stBadDesc)],
    opndFault x a m n, streamFault s x a, firstOf [(decide (256 < field d 30 1 + ceilDiv (rdCount d) 64), stVregRange)]]

/-- ATTN_PV (R107). -/
def pvFault (s : State) (x : Stn) (i : Nat) (d : List Byte) (pass : Nat) : Nat :=
  let v := opndOn d 16 pass
  firstCode [firstOf [(!opndOk d 16 false false || decide (dLen d ≠ 2 ∨ mxFlags d &&& 0x20 ≠ mxFlags d ∨ field d 12 1 ∉ [4, 6, 8] ∨
      1 < field d 13 1 ∨ 9 < v.fmt) || !zeroAt d 14 2 || !zeroAt d 36 92, stBadDesc),
    (decide (15 < field d 8 1 ∨ 16 < field d 9 1 + ceilDiv (attnCols x i) 64), stAccRange)],
    opndFault x v 64 (attnCols x i), streamFault s x v]

/-- ATTN_FINAL (R108): it reads none of K, A, B, C, WIDEN and the fields that go with them, and asks no value of them; a flag
other than NO_OUT and ROUND is refused. [DESIGN CHOICE, log entry 129] -/
def afFault (s : State) (x : Stn) (d : List Byte) (pass : Nat) : Nat :=
  firstCode [mxCommon s x d pass 0x70, firstOf [(decide (16 < mxAcc d + tilesOf (mxM d) (mxN d)), stAccRange)]]

/-- RUN (R198). -/
def runBad (x : Stn) (d : List Byte) : Bool :=
  unitBad d [(8, 4), (16, 32)] || decide (field d 8 4 % 8 ≠ 0 ∨ 8 * x.code.length ≤ field d 8 4)

/-- TRACE (R236). -/
def trFault (s : State) (x : Stn) (d : List Byte) : Nat :=
  let inP := field d 24 1
  let outP := field d 25 1
  let u := field d 26 1
  firstOf [(unitBad d [(8, 42)] || decide (field d 8 8 % 128 ≠ 0 ∨ field d 16 8 % 64 ≠ 0 ∨ 32 < u ∨ field d 28 4 = 0 ∨
      field d 32 4 % 64 ≠ 0 ∨ field d 36 4 % 64 ≠ 0 ∨ (field d 27 1 = 0 ∧ field d 44 4 ≠ 0) ∨ (field d 27 1 ≠ 0 ∧ field d 44 4 = 0)), stBadDesc),
    ((bitsSet 8 inP).any (noSink s x) || (bitsSet 8 outP).any (noSource s x), stStreamPort),
    ((decide (inP = 0) && !inScratch x (field d 32 4) (3072 * field d 28 4)) ||
      (decide (outP = 0) && !inScratch x (field d 36 4) (2048 * field d 28 4)) ||
      (decide (u ≠ 0) && !inScratch x (field d 40 4) (2048 * 32 * u)), stLocalRange)]

/-- Level entry `l` of a GATHER_HASH: table address, resolution, log2 of its size (R244). -/
def lvEntry (x : Stn) (d : List Byte) (l : Nat) : List Byte := lsRead x (field d 28 4 + 16 * l) 16

/-- GATHER_HASH (R243, R244). -/
def ghFault (s : State) (x : Stn) (d : List Byte) : Nat :=
  let pts := field d 8 4
  let lv := field d 13 1
  let ft := field d 14 1
  let src := field d 16 1
  let dst := field d 17 1
  firstOf [(unitBad d [(8, 10), (20, 12)] || decide (pts < 1 ∨ 16777216 < pts ∨ field d 12 1 ∉ [2, 3] ∨ lv < 1 ∨ 16 < lv ∨ ft ∉ [1, 2, 4, 8] ∨
      64 < lv * ft ∨ field d 15 1 ∉ [8, 9] ∨ 8 < src ∨ 8 < dst ∨ field d 20 4 % 64 ≠ 0 ∨ field d 24 4 % 64 ≠ 0), stBadDesc),
    ((decide (src < 8) && noSink s x src) || (decide (dst < 8) && noSource s x dst), stStreamPort),
    ((decide (src = 8) && !inScratch x (field d 20 4) (16 * pts)) || (decide (dst = 8) && !inScratch x (field d 24 4) (pts * lv * ft * 2)) ||
      !inScratch x (field d 28 4) (16 * lv), stLocalRange),
    ((List.range lv).any (fun l =>
      let e := lvEntry x d l
      decide (field e 0 8 % 64 ≠ 0 ∨ field e 8 4 < 1 ∨ 1048576 < field e 8 4 ∨ field e 12 1 < 10 ∨ 24 < field e 12 1 ∨ field e 13 3 ≠ 0)), stBadDesc)]

/-- GATHER_EMBED (R245). -/
def geFault (s : State) (x : Stn) (d : List Byte) : Nat :=
  let bags := field d 8 4
  let n := field d 14 1
  let b := field d 15 1
  let dst := field d 20 1
  let w := fmtBits (field d 21 1) / 8
  firstOf [(unitBad d [(8, 14), (24, 16)] || decide (bags < 1 ∨ 16777216 < bags ∨ 2 < field d 12 1 ∨ field d 13 1 ∉ [8, 9, 0x0A] ∨ n < 1 ∨
      64 < n ∨ b < 1 ∨ 64 < b ∨ (field d 12 1 = 0 ∧ b ≠ 1) ∨ field d 16 4 % 64 ≠ 0 ∨ 8 < dst ∨ field d 21 1 ∉ [8, 9, 0x0A] ∨ field d 24 4 % 64 ≠ 0 ∨
      field d 28 4 % 4 ≠ 0 ∨ field d 28 4 < n * w ∨ field d 32 8 % 4 ≠ 0), stBadDesc),
    (decide (dst < 8) && noSource s x dst, stStreamPort),
    (!inScratch x (field d 16 4) (4 * bags * b) ||
      (decide (dst = 8) && !inScratch x (field d 24 4) (bags * n * (fmtBits (field d 13 1) / 8))), stLocalRange)]

/-- FETCH and STORE (R272). -/
def fsFault (s : State) (x : Stn) (d : List Byte) : Nat :=
  let f := field d 10 1
  let r := field d 12 1
  let c := field d 13 1
  firstOf [(unitBad d [(8, 6), (16, 24)] || decide (f < 1 ∨ 0x0C < f ∨ (dOp d = 0x51 ∧ 0x0A < f) ∨ 1 < field d 11 1 ∨ r < 1 ∨ 64 < r ∨ c < 1 ∨
      64 < c ∨ (isMx f ∧ (c % 32 ≠ 0 ∨ field d 28 4 % 32 ≠ 0)) ∨ field d 32 4 % 64 ≠ 0 ∨ field d 32 4 < rowBytes f (field d 28 4)), stBadDesc),
    (!engineStream s x (field d 8 2) (decide (dOp d = 0x50)), stStreamPort)]

/-- The station fault that descriptor `i` raises when the station runs it, 0 for none. -/
def descFault (s : State) (x : Stn) (i : Nat) : Nat :=
  let d := nth [] x.descs i
  let pass := nth 0 (passesOf x i) 0
  let op := dOp d
  if headBad x d then stBadDesc
  else if op = 1 then (if unitBad d [(8, 6)] || loopsBad x i then stBadDesc else 0)
  else if op = 2 ∨ op = 3 then rsFault s x d pass
  else if op = 4 ∨ op = 5 then cpFault x d pass
  else if op = 6 ∨ op = 7 then (if smBad d then stBadDesc else 0)
  else if op = 0x10 ∨ op = 0x11 ∨ op = 0x12 then mmFault s x d pass
  else if op = 0x13 then pvFault s x i d pass
  else if op = 0x14 then afFault s x d pass
  else if op = 0x20 then elFault s x d pass
  else if op = 0x21 then rdFault s x d pass
  else if op = 0x30 then (if runBad x d then stBadDesc else 0)
  else if op = 0x40 then trFault s x d
  else if op = 0x41 then ghFault s x d
  else if op = 0x42 then geFault s x d
  else fsFault s x d

/-! ### Hazards (R96) -/

/-- A range that a descriptor uses: kind (0 scratchpad, 1 accumulator tiles, 2 vector registers), written, first, count. -/
abbrev Use := Nat × Bool × Nat × Nat

/-- Uses of an operand entry. -/
def opndUse (e : Opnd) (r c : Nat) (wr : Bool) : List Use :=
  if e.src = 8 then [(0, wr, e.off, opndSpan e r c)] else if e.src = 9 then [(1, wr, e.off, tilesOf r c)] else []

/-- Uses of epilogue steps. -/
def epiUse (d : List Byte) (m n : Nat) : List Use :=
  (epiSteps d).flatMap (fun e =>
    if e.1 = 2 then [(2, false, e.2.1, ceilDiv n 64)] else if e.1 = 3 then [(2, false, e.2.1, ceilDiv m 64)]
    else if e.1 = 4 ∨ e.1 = 5 then [(1, false, e.2.1, tilesOf m n)]
    else if e.1 = 0x0F ∧ e.2.1 = 1 then [(0, false, e.2.2, m * maskPitch n)] else [])

/-- Uses of the OUT of MATMUL's layout. -/
def outUse (d : List Byte) (pass : Nat) : List Use := if mxNoOut d then [] else opndUse (opndOn d 72 pass) (mxM d) (mxN d) true

/-- What descriptor `i` reads and writes on a pass. -/
def usesOf (x : Stn) (i pass : Nat) : List Use :=
  let d := nth [] x.descs i
  let op := dOp d
  let m := mxM d
  let n := mxN d
  if op = 2 then [(0, true, rsOff d pass, 64 * rsTiles d * rsPitch d)]
  else if op = 3 then [(0, false, rsOff d pass, 64 * rsTiles d * rsPitch d)]
  else if op = 4 ∨ op = 5 then [(0, decide (op = 4), cpOff d pass, cpSpan d)]
  else if op = 0x10 ∨ op = 0x11 ∨ op = 0x12 then
    (if op = 0x11 then opndUse (convImage d pass).1 (convImage d pass).2.1 (convImage d pass).2.2 false
     else opndUse (opndOn d 24 pass) m (mxKA d) false) ++
    opndUse (opndOn d 40 pass) (mxKB d) n false ++ opndUse (opndOn d 56 pass) m n false ++ outUse d pass ++ epiUse d m n ++
    [(1, true, mxAcc d, tilesOf m n)] ++ (if mxSparseA d || mxSparseB d then [(0, false, mxMetaOff d, metaSpan d)] else []) ++
    (if mxSieve d then [(0, false, mxSieveOff d, 64 + svRows x (mxSieveOff d) * svPitch x (mxSieveOff d)),
      (0, false, mxSieveOff d + svScale x (mxSieveOff d), svRows x (mxSieveOff d) * svCols x (mxSieveOff d))] else []) ++
    (if mxWiden d ≠ 0 then [(0, false, mxWidenOff d, widenBytes d (opndAt d 40).fmt)] else [])
  else if op = 0x13 then
    [(1, false, field d 8 1, 1), (1, true, field d 9 1, ceilDiv (attnCols x i) 64), (2, true, field d 10 1, 1), (2, true, field d 11 1, 1)] ++
    opndUse (opndOn d 16 pass) 64 (attnCols x i) false
  else if op = 0x14 then
    [(1, mxNoOut d, mxAcc d, tilesOf m n), (2, false, attnSum x i, 1)] ++ outUse d pass ++ epiUse d m n
  else if op = 0x20 then
    opndUse (opndOn d 24 pass) m n false ++ outUse d pass ++ epiUse d m n ++ (if mxNoOut d then [(1, true, mxAcc d, tilesOf m n)] else [])
  else if op = 0x21 then opndUse (opndOn d 8 pass) (field d 24 2) (field d 26 2) false ++ [(2, true, field d 30 1, ceilDiv (rdCount d) 64)]
  else []

/-- Two uses conflict: they overlap and one of them writes. [DEDUCED, log entry 79] -/
def usesClash (a b : Use) : Bool :=
  decide (a.1 = b.1 ∧ a.2.2.1 < b.2.2.1 + b.2.2.2 ∧ b.2.2.1 < a.2.2.1 + a.2.2.2) && (a.2.1 || b.2.1)

/-- Descriptor `i` must wait for one in progress, or for an explicit copy, which counts as a write of its range. [DEDUCED, log entry 79] -/
def hazard (x : Stn) (i : Nat) : Bool :=
  let us := usesOf x i (nth 0 (passesOf x i) 0)
  x.works.any (fun w => (usesOf x w.1 (nth 0 w.2.passes 0)).any (fun b => us.any (fun a => usesClash a b))) ||
  x.xfers.any (fun f => isCopy f && us.any (fun a => usesClash a (0, true, f.lo, f.hi - f.lo)))

/-- The bytes of a plan: as the Piper read them, or as they stand before it does. -/
def planBytes (s : State) (pl : Plan) : List Byte :=
  match pl.bytes with
  | some p => p
  | none => ctxRead s pl.ctx pl.addr (planSize (ctxRead s pl.ctx pl.addr 128))

/-- Hand-overs of a station to a semaphore that the Piper has not read: those waiting, and the SEM_RELEASE that makes the next
while its add has not gone out. -/
def handsOut (n : Nat) (x : Stn) (pl : Plan) (a : Nat) : Nat :=
  (pl.waiting.filter (fun h => decide (h.1 = n ∧ h.2.1 = a))).length +
  (x.works.filter (fun w => decide (w.2.st = .wait ∧ w.2.count ≠ 1 ∧ dOp (nth [] x.descs w.1) = 7 ∧ field (nth [] x.descs w.1) 8 8 = a))).length

/-- Scratchpad ranges of a station that hand-overs not yet read count as readers of (R161): slots from the next to be read. -/
def handUses (s : State) (n : Nat) (x : Stn) : List Use :=
  s.pip.plans.flatMap (fun e =>
    let p := planBytes s e.2
    let w := handsOut n x e.2 (plDispatchSem p)
    if w = 0 then []
    else (List.range (plRouters p)).flatMap (fun r =>
      if roleStn s e.2.launches (rtRole p r) = some n then
        (List.range w).flatMap (fun i =>
          let k := (tget 0 e.2.slots r + i) % rtRing p r
          [(0, false, rtLogits p r + k * 64 * plLogitPitch p, 64 * plLogitPitch p),
           (0, false, rtTokens p r + k * 64 * plInPitch p, 64 * plInPitch p)])
      else []))

/-- Descriptor `i` would write a range that a hand-over still reads. -/
def handHeld (s : State) (n : Nat) (x : Stn) (i : Nat) : Bool :=
  let us := usesOf x i (nth 0 (passesOf x i) 0)
  (handUses s n x).any (fun b => us.any (fun a => usesClash a b))

/-! ### Starting and completing -/

/-- OPs that run alone: everything before them complete, nothing starting while they run (R199, R231). [DEDUCED, log entry 79] -/
def runsAlone (op : Nat) : Bool := decide (op = 0x30 ∨ op = 0x40 ∨ op = 0x41 ∨ op = 0x42)

/-- The station may start its next descriptor `i` now: it is not held at a rest point, no descriptor with REST_AFTER, no
semaphore wait and none that runs alone is in progress, and its own earlier pass is done; one that runs alone, or two
semaphore descriptors, wait for those before (R71, R96, R111, R199, R231). [DEDUCED, log entry 79] -/
def mayStart (x : Stn) (i : Nat) : Bool :=
  let op := dOp (nth [] x.descs i)
  let sem := decide (op = 6 ∨ op = 7)
  decide (x.marked = 0) && (tget? x.works i).isNone &&
  !x.works.any (fun w =>
    let d := nth [] x.descs w.1
    dRestAfter d || decide (dOp d = 6) || runsAlone (dOp d) || (sem && decide (dOp d = 7))) &&
  (!runsAlone op || (x.works.isEmpty && (decide (op = 0x30) || !x.xfers.any isCopy))) && !hazard x i

/-- Marks a rest point: a station of the instance that has marked another makes it REST_MISMATCH (R72), whose record names
the descriptor or thread group that marks (R84). [DEDUCED, log entry 96] -/
def markRest (n id ik idx co : Nat) (s : State) : State :=
  match stnOf s n with
  | none => s
  | some x =>
    if (instStns s x.launch x.inst).any (fun e => decide (e.1 ≠ n ∧ e.2.marked ≠ 0 ∧ e.2.marked ≠ id)) then
      stationFault n stRestMismatch ik idx co 0 0 s
    else setStn n (fun x => { x with marked := id }) s

/-- Starts descriptor `i`: it joins those in progress. -/
def beginWork (n i : Nat) (w : Work) (s : State) : State :=
  setStn n (fun x => { x with
    works := tput x.works i { w with ord := x.started, passes := passesOf x i }, started := x.started + 1, next := i + 1 }) s

/-- Runs the next descriptor of a live station where it has OP `op` and may start: its fault, or `f`. A descriptor whose OP no
row starts has no meaning but its BAD_DESC, which whatever comes to start the station's next descriptor raises. -/
def startIf (op n : Nat) (f : Nat → List Byte → Stn → State → State) (s : State) : State :=
  match liveOf s n with
  | none => s
  | some x =>
    match x.descs[x.next]? with
    | none => s
    | some d =>
      if (dOp d ≠ op ∧ dOp d ∈ rowOps) ∨ ¬ mayStart x x.next ∨ handHeld s n x x.next then s
      else
        let c := descFault s x x.next
        if c ≠ 0 then stationFault n c 0 x.next 0 0 0 s else f x.next d x s

/-- A descriptor's meaning: acts while the module is up and stations issue. -/
def descOut (op n : Nat) (f : Nat → List Byte → Stn → State → State) (s : State) : Out := ifRun (startIf op n f) s

/-- DESCRIPTOR_COMPLETE: a descriptor whose effect is complete ends; one with REST_AFTER once nothing before it is in
progress, and it marks its rest point (R66, R71). -/
def descCompleteS (n i : Nat) (s : State) : State :=
  match liveOf s n with
  | none => s
  | some x =>
    match tget? x.works i with
    | none => s
    | some w =>
      let d := nth [] x.descs i
      if w.st ≠ .fin ∨ ¬ w.outs.isEmpty ∨ (dRestAfter d ∧ x.works.any (fun e => decide (e.2.ord < w.ord))) then s
      else
        let s := setStn n (fun x => { x with works := tdel x.works i }) s
        if dRestAfter d then markRest n (dRestId d) 0 i 0 s else s

/-- DESCRIPTOR_COMPLETE. -/
def execDescriptorComplete (stn idx : Nat) (s : State) : Out := ifRun (descCompleteS stn idx) s

/-- LOOP: one more pass of its body, or the end of its last pass; LOOPs inside its body start again. One with REST_AFTER
marks its rest point when it completes. -/
def loopGo (n : Nat) (i : Nat) (d : List Byte) (x : Stn) (s : State) : State :=
  let inner := fun l : Tbl Nat => tfilter l (fun k _ => !inBody x i k)
  if tget 0 x.loops i + 1 < lpCount d then
    setStn n (fun x => { x with loops := tput (inner x.loops) i (tget 0 x.loops i + 1), next := i - lpBack d }) s
  else if dRestAfter d ∧ ¬ x.works.isEmpty then s
  else
    let s := setStn n (fun x => { x with loops := tdel (inner x.loops) i, next := i + 1 }) s
    if dRestAfter d then markRest n (dRestId d) 0 i 0 s else s

/-- LOOP. -/
def execLoop (stn : Nat) (s : State) : Out := descOut 1 stn (loopGo stn) s

/-- STATION_FAULT: a fault that the station's hardware reports (R82-R84, R123, R253 and the other kinds' tables). [DESIGN CHOICE, log entry 95] -/
def execStationFault (f : FaultIn) (s : State) : Out :=
  ifUp (fun s => guardS (decide (stStreamPort ≤ f.code ∧ f.code ≤ stRemoteRefused) && ((stnOf s f.stn).map (stnLive s)).getD false)
    (stationFault f.stn f.code f.indexKind f.index f.codeOffset f.address f.detail) s) s

/-! ### Explicit copies (R113, R274, R275) -/

/-- Engine of a copy: the nearest Link Station of the station's half, its fetch or store engine with the fewest copies. [DESIGN CHOICE, log entry 80] -/
def copiesOn (s : State) (eng : Nat) : Nat :=
  sumNat (s.sch.stns.map (fun e => (e.2.xfers.filter (fun f => isCopy f && decide (f.eng = eng))).length))

/-- The engine of a list with the fewest open transfers, the first at a tie. [DESIGN CHOICE, log entry 80] -/
def leastOf (s : State) : List Nat → Option Nat
  | [] => none
  | a :: r =>
    match leastOf s r with
    | none => some a
    | some b => if copiesOn s a ≤ copiesOn s b then some a else some b

/-- The Link Station that serves a station's copies: the nearest of its half with a bundle in service (R274, R470); the half's
Link Stations are those that land one Crust die (R28). Where none has one, the nearest of all. [DESIGN CHOICE, log entry 80] -/
def copyLink (s : State) (n : Nat) : Option Nat :=
  match nearest n (landingUp s (stnHalf n)) with
  | some l => some l
  | none => nearest n (landing (stnHalf n))

/-- The engine that serves a transfer of a station: 8-11 of its Link Station fetch, 12-15 store (R48). [DESIGN CHOICE, log entry 80] -/
def engineFor (s : State) (n : Nat) (fetch : Bool) : Nat :=
  match copyLink s n with
  | some l => (leastOf s ((List.range 4).map (fun e => 16 * l + (if fetch then 8 else 12) + e))).getD 0
  | none => 0

/-- Rows of a piece of at most 16 MiB. -/
def rowsPer (rb : Nat) : Nat := if rb = 0 then 1 else 16777216 / rb

/-- Issues the pieces of a copy from row `r` on, each on an engine of its own choice. -/
def issuePieces (n i : Nat) (d : List Byte) (pass : Nat) (kind : XKind) : Nat → Nat → State → State
  | 0, _, s => s
  | fuel + 1, r, s =>
    if cpRows d ≤ r then s
    else
      match stnOf s n with
      | none => s
      | some x =>
        let m := min (rowsPer (cpRowBytes d)) (cpRows d - r)
        let o := cpOff d pass
        let lo := o + r * cpPitch d
        let f : Xfer := {
          id := s.sch.xseq, kind := kind, desc := i, grp := none,
          pieces := (List.range m).flatMap (fun j => cutRange s x.ctx (cpRowBytes d + 1) (cpAddr d + (r + j) * cpMemPitch d) (cpRowBytes d) (lo + j * cpPitch d)),
          lo := lo, hi := lo + (m - 1) * cpPitch d + cpRowBytes d, eng := engineFor s n (decide (kind = .copyIn)) }
        let s1 := setStn n (fun x => { x with xfers := x.xfers ++ [f] }) { s with sch := { s.sch with xseq := s.sch.xseq + 1 } }
        issuePieces n i d pass kind fuel (r + m) s1

/-- COPY_IN and COPY_OUT: the descriptor completes when its last piece is issued. -/
def copyGo (n : Nat) (kind : XKind) (i : Nat) (d : List Byte) (x : Stn) (s : State) : State :=
  beginWork n i { st := .fin } (issuePieces n i d (nth 0 (passesOf x i) 0) kind (cpRows d + 1) 0 s)

/-- COPY_IN. -/
def execCopyIn (stn : Nat) (s : State) : Out := descOut 4 stn (copyGo stn .copyIn) s

/-- COPY_OUT. -/
def execCopyOut (stn : Nat) (s : State) : Out := descOut 5 stn (copyGo stn .copyOut) s

/-- EXPLICIT_COPY_DONE: every byte of a copy, or piece, is in the scratchpad or accepted at its home. -/
def copyDoneS (n k : Nat) (s : State) : State :=
  match stnOf s n with
  | none => s
  | some x =>
    match x.xfers.find? (fun f => decide (f.id = k) && isCopy f) with
    | some f => if f.pieces.all (fun p => decide (p.st = 2)) then setStn n (fun x => { x with xfers := x.xfers.erase f }) s else s
    | none => s

/-- EXPLICIT_COPY_DONE. -/
def execExplicitCopyDone (stn x : Nat) (s : State) : Out := ifUp (copyDoneS stn x) s

/-! ### Semaphore descriptors (R111, R334, R337) -/

/-- SEM_WAIT: the station waits until the semaphore reaches the value. -/
def execSemWait (stn : Nat) (s : State) : Out := descOut 6 stn (fun i _ _ s => beginWork stn i { st := .wait, rows := s.sch.xseq } s) s

/-- SEM_RELEASE: the add goes out once the station's earlier accesses are as its scope asks. -/
def execSemRelease (stn : Nat) (s : State) : Out := descOut 7 stn (fun i _ _ s => beginWork stn i { st := .wait, rows := s.sch.xseq } s) s

/-! ### Work in progress -/

/-- Changes a descriptor in progress. -/
def setWork (n i : Nat) (f : Work → Work) (s : State) : State := setStn n (fun x => { x with works := tupd x.works i f }) s

/-- A descriptor in progress of a station. -/
def workOf (s : State) (n i : Nat) : Option Work := (stnOf s n).bind (fun x => tget? x.works i)

/-- Sends what a descriptor has to send, in order, while its streams hold credits (R51). -/
def sendWork (n i : Nat) (s : State) : State :=
  match stnOf s n, workOf s n i with
  | some x, some w =>
    let r := w.outs.foldl (fun (a : State × List (Nat × Flit)) o =>
      match outStream a.1 x o.1 with
      | some st => if creditsOf a.1 x st = 0 ∨ a.2.any (fun e => decide (e.1 = o.1)) then (a.1, a.2 ++ [o]) else (pushFlit x st o.2 a.1, a.2)
      | none => a) (s, [])
    setWork n i (fun w => { w with outs := r.2 }) r.1
  | _, _ => s

end Sys2Proof.Machine
end

