-- ==== Sys2Proof/Machine/Ray.lean ====
section
/-! DEFINITION. The Ray-and-Gather Station: hierarchy traversal (R232-R241), gathers (R243-R246), miss registers
(R247-R249) and its rest points (R250). -/

namespace Sys2Proof.Machine

/-! ### Exact geometry -/

/-- A finite value as a rational. -/
def ratV : FV → Option Rat
  | .fin s m e =>
    let v : Rat := if 0 ≤ e then ((m * 2 ^ e.toNat : Nat) : Rat) else (m : Rat) / ((2 ^ (-e).toNat : Nat) : Rat)
    some (if s then -v else v)
  | _ => none

/-- A finite binary32 pattern as a rational, as flush mode reads it (R136). -/
def ratOf (flush : Bool) (w : Word) : Option Rat := ratV (readF flush fF32 w.toNat).1

/-- A rational as a value to 64 bits, with the rest as a sticky bit. -/
def ratFV (q : Rat) : FV := (divV (.fin (decide (q < 0)) q.num.natAbs 0) (.fin false q.den 0)).1

/-- The magnitude of a rational. -/
def ratAbs (q : Rat) : Rat := if q < 0 then -q else q

/-- The largest binary32 value not above a rational. -/
def floor32 (q : Rat) : Word :=
  let p := (packV fF32 none (ratFV q)).1
  let w := BitVec.ofNat 32 p
  match ratOf false w with
  | none => if q < 0 then 0xFF800000#32 else 0x7F7FFFFF#32
  | some v =>
    if v ≤ q then w
    else if p = 0 ∨ p = 2 ^ 31 then 0x80000001#32
    else if p < 2 ^ 31 then BitVec.ofNat 32 (p - 1)
    else BitVec.ofNat 32 (p + 1)

/-- The steps of a computation in binary32 stay within this share of the magnitudes that enter it. [DEDUCED, log entry 81] -/
def raySlack : Rat := 1 / 262144

/-- Some pattern is a subnormal that flush mode reads as zero (R138). -/
def anySub (flush : Bool) (ws : List Word) : Bool := flush && ws.any (fun w => isSub fF32 w.toNat)

/-- Word `i` of a record. -/
def wordAt (bs : List Byte) (o : Nat) : Word := BitVec.ofNat 32 (field bs o 4)

/-- a ≤ b as numbers, for values that are not NaN. -/
def leW (a b : Word) : Bool := let x := decF fF32 a.toNat; let y := decF fF32 b.toNat; ltV x y || eqV x y
/-- a < b as numbers. -/
def ltW (a b : Word) : Bool := let x := decF fF32 a.toNat; let y := decF fF32 b.toNat; ltV x y && !eqV x y
/-- A pattern is NaN. -/
def nanW (a : Word) : Bool := isNanV (decF fF32 a.toNat)

/-! ### Ray records (R235) -/

def ryOrg (r : List Byte) (a : Nat) : Word := wordAt r (4 * a)
def ryDir (r : List Byte) (a : Nat) : Word := wordAt r (16 + 4 * a)
def ryTmin (r : List Byte) : Word := wordAt r 12
def ryTmax (r : List Byte) : Word := wordAt r 28
def ryMask (r : List Byte) : Nat := field r 40 1
def ryFlags (r : List Byte) : Nat := field r 41 1

/-- A reserved bit of a ray record is set. -/
def rayBad (r : List Byte) : Bool := decide (ryFlags r / 8 % 16 ≠ 0) || !zeroAt r 42 6

/-- The words of a ray that a test reads. -/
def rayWords (r : List Byte) : List Word := (List.range 8).map (fun i => wordAt r (4 * i))

/-- A pattern as flush mode writes it. -/
def flushW (flush : Bool) (w : Word) : Word := BitVec.ofNat 32 (writeF flush fF32 (w.toNat, 0)).1

/-- A ray that misses without traversal: zero direction, a NaN, or TMIN past TMAX. -/
def rayIdle (flush : Bool) (r : List Byte) : Bool :=
  (List.range 3).all (fun a => decide (ratOf flush (ryDir r a) = some 0)) ||
  (List.range 3).any (fun a => nanW (ryOrg r a) || nanW (ryDir r a)) || nanW (ryTmin r) || nanW (ryTmax r) ||
  ltW (flushW flush (ryTmax r)) (flushW flush (ryTmin r))

/-! ### Nodes (R232, R233) -/

def ndValid (d : List Byte) (c : Nat) : Bool := bitOf (field d 15 1) c
def ndMeta (d : List Byte) (c : Nat) : Nat := field d (24 + c) 1
def ndLeaf (d : List Byte) (c : Nat) : Bool := bitOf (ndMeta d c) 7
def ndCount (d : List Byte) (c : Nat) : Nat := ndMeta d c % 16
def ndLo (d : List Byte) (c a : Nat) : Nat := field d (40 + 6 * c + a) 1
def ndHi (d : List Byte) (c a : Nat) : Nat := field d (43 + 6 * c + a) 1

/-- R233 and the reserved bits of a node. -/
def nodeBad (d : List Byte) : Bool :=
  !zeroAt d 88 40 ||
  (List.range 8).any (fun c =>
    decide (ndMeta d c / 16 % 8 ≠ 0 ∨ (ndLeaf d c = false ∧ ndCount d c ≠ 0)) ||
    (ndValid d c && ((ndLeaf d c && decide (ndCount d c = 0 ∨ 8 < ndCount d c)) ||
      (List.range 3).any (fun a => decide (ndHi d c a < ndLo d c a)))))

/-- Node index of internal child `c`, and first triangle of leaf `c`. -/
def ndChild (d : List Byte) (c : Nat) : Nat :=
  field d 16 4 + ((List.range c).filter (fun j => ndValid d j && !ndLeaf d j)).length
def ndTri (d : List Byte) (c : Nat) : Nat :=
  field d 20 4 + sumNat (((List.range c).filter (fun j => ndValid d j && ndLeaf d j)).map (ndCount d))

/-- Bound of a child's box on an axis, exactly. -/
def boxBound (flush : Bool) (d : List Byte) (a q : Nat) : Option Rat :=
  (ratOf flush (wordAt d (4 * a))).map (fun o =>
    let e := signedOf 8 (field d (12 + a) 1)
    o + (if 0 ≤ e then ((q * 2 ^ e.toNat : Nat) : Rat) else (q : Rat) / ((2 ^ (-e).toNat : Nat) : Rat)))

/-- What a box test computes with on an axis: origin, direction, bounds; none where one is not finite. -/
def boxAxis (flush : Bool) (r d : List Byte) (c a : Nat) : Option (Rat × Rat × Rat × Rat) :=
  match ratOf flush (ryOrg r a), ratOf flush (ryDir r a), boxBound flush d a (ndLo d c a), boxBound flush d a (ndHi d c a) with
  | some o, some v, some lo, some hi => some (o, v, lo, hi)
  | _, _, _, _ => none

/-- The interval of a ray in the slab of an axis, widened outward by a share `k` of the magnitudes: none where it misses. -/
def slab (k : Rat) (i : Rat × Option Rat) (x : Rat × Rat × Rat × Rat) : Option (Rat × Option Rat) :=
  let o := x.1
  let v := x.2.1
  let lo := x.2.2.1
  let hi := x.2.2.2
  if v = 0 then (if lo ≤ o ∧ o ≤ hi then some i else none)
  else
    let a := (lo - o) / v
    let b := (hi - o) / v
    let w := k * (ratAbs lo + ratAbs hi + ratAbs o) / ratAbs v
    let near := max i.1 (min a b - w)
    let far := match i.2 with
      | some t => min t (max a b + w)
      | none => max a b + w
    if near ≤ far then some (near, some far) else none

/-- The ray's interval within child `c`'s box, widened by a share `k`; none where it misses. -/
def inBox (k : Rat) (t : Rat × Option Rat) (axes : List (Rat × Rat × Rat × Rat)) : Option (Rat × Option Rat) :=
  axes.foldl (fun i x => i.bind (fun i => slab k i x)) (some t)

/-- Distance of the entry into a child's box, where the ray visits it. Rounding is outward: a box that the exact ray meets
is never skipped, and its distance is never above the exact one (R238); a box that the ray misses by more than the slack is
not visited, nor is a distance further below. Within that the test is the hardware's. [DEDUCED, log entry 81] -/
def boxEntry (flush : Bool) (r : List Byte) (tmax : Word) (d : List Byte) (c : Nat) : Option Word :=
  let args := rayWords r ++ [tmax] ++ (List.range 3).map (fun a => wordAt d (4 * a)) ++
    (List.range 3).flatMap (fun a => [BitVec.ofNat 32 (field d (12 + a) 1), BitVec.ofNat 32 (ndLo d c a), BitVec.ofNat 32 (ndHi d c a)])
  let axes := (List.range 3).filterMap (boxAxis flush r d c)
  match ratOf flush (ryTmin r), ratOf flush tmax, axes.length with
  | some t0, t1, 3 =>
    if t1.isNone ∧ tmax ≠ 0x7F800000#32 then Config.boxTest args
    else
      match inBox raySlack (t0, t1) axes with
      | none => none
      | some wide =>
        let hw := Config.boxTest args
        let exact := inBox 0 (t0, t1) axes
        let top := match exact with
          | some i => i.1
          | none => wide.1
        let ok := match hw.bind (ratOf false) with
          | some q => decide (wide.1 ≤ q ∧ q ≤ top)
          | none => false
        if ok then hw else if exact.isSome ∨ hw.isSome then some (floor32 top) else none
  | _, _, _ => Config.boxTest args

/-- Children of a node that a ray visits, nearest first: (distance, child). -/
def insNear (e : Word × Nat) : List (Word × Nat) → List (Word × Nat)
  | [] => [e]
  | f :: r => if ltW e.1 f.1 then e :: f :: r else f :: insNear e r

def visitOrder (flush : Bool) (r : List Byte) (tmax : Word) (d : List Byte) : List (Word × Nat) :=
  (List.range 8).foldl (fun l c =>
    if ndValid d c && decide (ryMask r &&& field d (32 + c) 1 ≠ 0) then
      (match boxEntry flush r tmax d c with
       | some t => insNear (t, c) l
       | none => l)
    else l) []

/-- A child as a stack entry, and what visiting it puts in hand. -/
def entryOf (d : List Byte) (e : Word × Nat) : Bool × Nat × Nat :=
  if ndLeaf d e.2 then (true, 16 * ndTri d e.2 + ndCount d e.2, e.1.toNat) else (false, ndChild d e.2, e.1.toNat)
def visit (e : Bool × Nat × Nat) : List (Bool × Nat) :=
  if e.1 then (List.range (e.2.1 % 16)).map (fun i => (true, e.2.1 / 16 + i)) else [(false, e.2.1)]

/-! ### Triangles (R234, R237) -/

def triBad (t : List Byte) : Bool := decide (4 ≤ field t 43 1) || !zeroAt t 44 4

/-- A vector, and its dot and cross products. -/
abbrev Vec3 := Rat × Rat × Rat
def vSub (a b : Vec3) : Vec3 := (a.1 - b.1, a.2.1 - b.2.1, a.2.2 - b.2.2)
def vDot (a b : Vec3) : Rat := a.1 * b.1 + a.2.1 * b.2.1 + a.2.2 * b.2.2
def vCross (a b : Vec3) : Vec3 :=
  (a.2.1 * b.2.2 - a.2.2 * b.2.1, a.2.2 * b.1 - a.1 * b.2.2, a.1 * b.2.1 - a.2.1 * b.1)

/-- Three words as a vector; none where one is not finite. -/
def vecAt (flush : Bool) (bs : List Byte) (o : Nat) : Option Vec3 :=
  match ratOf flush (wordAt bs o), ratOf flush (wordAt bs (o + 4)), ratOf flush (wordAt bs (o + 8)) with
  | some x, some y, some z => some (x, y, z)
  | _, _, _ => none

/-- The magnitudes of a vector, which bound what a product of it rounds. -/
def vMag (a : Vec3) : Rat := ratAbs a.1 + ratAbs a.2.1 + ratAbs a.2.2

/-- A triangle's test against a ray, exactly. -/
structure TriExact where
  /-- the dot product of the direction with (V1 − V0) × (V2 − V0), negative where front-facing (R234) -/
  det : Rat
  /-- distance and barycentrics of the plane's point, where the ray is not parallel to it -/
  t : Rat
  u : Rat
  v : Rat
  /-- bound of the magnitudes that enter them, over the determinant -/
  mag : Rat

/-- None where a value is not finite. [DEDUCED, log entry 81] -/
def triExact (flush : Bool) (r t : List Byte) : Option TriExact :=
  match vecAt flush r 0, vecAt flush r 16, vecAt flush t 0, vecAt flush t 12, vecAt flush t 24 with
  | some o, some dir, some a, some b, some c =>
    let e1 := vSub b a
    let e2 := vSub c a
    let n := vCross e1 e2
    let det := vDot dir n
    let w := vSub a o
    let p := vCross dir e2
    -- det of (dir, e2, e1) is −dir · n
    let k := -det
    let m := (vMag o + vMag a + vMag b + vMag c) * (vMag o + vMag a + vMag b + vMag c)
    some ⟨det, vDot w n / det, -(vDot w p) / k, -(vDot dir (vCross w e1)) / k,
      m * (vMag o + vMag a + vMag b + vMag c + vMag dir) / ratAbs det⟩
  | _, _, _, _, _ => none

/-- The triangle is front-facing to the ray. -/
def frontFacing (flush : Bool) (r t : List Byte) : Bool :=
  match triExact flush r t with
  | some e => decide (e.det < 0)
  | none => decide (Config.openField 5 (r ++ t) % 2 = 1)

/-- Where a ray hits a triangle: the closed triangle, exactly, so no ray slips between two that share an edge; distance and
barycentrics as binary32 steps may leave them. [DEDUCED, log entry 81] -/
def triPoint (flush : Bool) (r t : List Byte) : Option (Word × Word × Word) :=
  let hw := Config.triTest (rayWords r ++ (List.range 9).map (fun i => wordAt t (4 * i)))
  match triExact flush r t with
  | none => hw
  | some e =>
    if e.det = 0 ∨ e.u < 0 ∨ e.v < 0 ∨ 1 < e.u + e.v then none
    else
      let raw := hw.getD (0, 0, 0)
      let tol := ratFV (raySlack * e.mag * (1 + ratAbs e.t + e.u + e.v))
      let out := fun (q : Rat) (w : Word) => (deliver flush false tol (ratFV q) w).1
      some (out e.t raw.1, out e.u raw.2.1, out e.v raw.2.2)

/-- A hit of triangle `j`, where the test and the ray accept one. [DEDUCED, log entry 81] -/
def triHit (flush : Bool) (r : List Byte) (tmax : Word) (t : List Byte) (j : Nat) : Option RayHit :=
  let front := frontFacing flush r t
  let culled := !bitOf (field t 43 1) 0 && ((bitOf (ryFlags r) 1 && !front) || (bitOf (ryFlags r) 2 && front))
  if culled then none
  else
    match triPoint flush r t with
    | none => none
    | some (d, u, v) =>
      if nanW d ∨ ¬ leW (flushW flush (ryTmin r)) d ∨ ¬ leW d tmax then none
      else some ⟨j, d, u, v, field t 36 4, field t 40 3, (if bitOf (field t 43 1) 1 then 2 else 1) + (if front then 0 else 4)⟩

/-- The closest hit after another one: at equal distances the lower triangle index stays. -/
def closer (old : Option RayHit) (h : RayHit) : RayHit :=
  match old with
  | some o => if ltW h.t o.t ∨ h.tri < o.tri then h else o
  | none => h

/-! ### Results (R239, R240) -/

/-- Bytes of an open value. [DESIGN CHOICE, log entry 82] -/
def openBytes (case_ : Nat) (key : List Byte) (n : Nat) : List Byte := leBytes n (Config.openField case_ key)

/-- A result record: a hit, a miss, or a poisoned ray. What the table leaves open on a miss or poison is the hardware's. [DESIGN CHOICE, log entry 82] -/
def resultOf (r : RaySt) : List Byte :=
  let pay := (r.ray.drop 32).take 8
  if r.poisoned then openBytes 6 r.ray 23 ++ [3] ++ pay
  else
    match r.hit with
    | some h => leBytes 4 h.t.toNat ++ leBytes 4 h.u.toNat ++ leBytes 4 h.v.toNat ++ leBytes 4 h.tri ++ leBytes 4 h.prim ++
        leBytes 3 h.geom ++ [BitVec.ofNat 8 h.kind] ++ pay
    | none => leBytes 4 (ryTmax r.ray).toNat ++ zeros 8 ++ openBytes 7 r.ray 11 ++ [0] ++ pay

/-- A record that completes a partial batch. -/
def emptyResult (key : List Byte) : List Byte := openBytes 8 key 23 ++ [0x80] ++ openBytes 9 key 8

/-! ### Station state -/

/-- Changes the RG state of a station. -/
def setRg (n : Nat) (f : RgSt → RgSt) (s : State) : State := setStn n (fun x => { x with rg := f x.rg }) s
def setRay (n k : Nat) (f : RaySt → RaySt) (s : State) : State := setRg n (fun g => { g with rays := tupd g.rays k f }) s

/-- The descriptor that runs alone at an RG station: its index and bytes. -/
def rgDesc (x : Stn) : Option (Nat × List Byte) :=
  (x.works.find? (fun w => decide (0x40 ≤ dOp (nth [] x.descs w.1)))).map (fun w => (w.1, nth [] x.descs w.1))

/-- A station's reads flushed a subnormal: its FLUSH flag (R138). -/
def rgFlag (n : Nat) (fl : Nat) (s : State) : State := setStn n (mxFlag false fl) s

/-- A line of the station cache is used: it becomes the most recent (R276). -/
def cacheTouch (key : Nat) (x : Stn) : Stn :=
  match x.cache.find? (fun e => decide (e.1 = key)) with
  | some e => { x with cache := e :: x.cache.filter (fun f => !decide (f.1 = key)) }
  | none => x

/-- A line from the station cache. -/
def cachedLine (s : State) (x : Stn) (a : Nat) : Option (List Byte) :=
  match xlate s x a with
  | some p => (x.cache.find? (fun e => decide (e.1 = lkey p.stack p.line))).map (·.2)
  | none => none

/-- A slot's read of a line that the cache lacks: it joins the register that holds the line, or takes a free one; with the
waiter list full, or no register free, it waits (R247, R248). -/
def rgRequest (n k a : Nat) (s : State) : State :=
  match stnOf s n with
  | none => s
  | some x =>
    let wait := setRay n k (fun r => { r with waitLine := some a })
    match x.rg.miss.find? (fun m => decide (m.2.1 = a ∧ m.2.2.2 = false)) with
    | some (m, _, ws, _) =>
      if ws.length < 16 then
        wait (setRg n (fun g => { g with miss := tput g.miss m (a, ws ++ [k], false) }) s)
      else s
    | none =>
      if x.rg.miss.length < 256 then
        wait (setRg n (fun g => { g with miss := tput g.miss (lowestFree (tkeys g.miss) 256 0) (a, [k], false) }) s)
      else s

/-- A slot reads a line: at once from the cache, or through a miss register. -/
def rgRead (n k a : Nat) (s : State) : State :=
  match (stnOf s n).bind (fun x => (cachedLine s x a).map (fun b => (x, b))) with
  | some (x, b) =>
    let s := match xlate s x a with
      | some p => setStn n (cacheTouch (lkey p.stack p.line)) s
      | none => s
    setRay n k (fun r => { r with got := r.got ++ [(a, b)] }) s
  | none => rgRequest n k a s

/-- The station cache holds a line. -/
def cacheHas (s : State) (n a : Nat) : Bool := ((stnOf s n).bind (fun x => cachedLine s x a)).isSome

/-- Lines that `len` bytes at an address touch. -/
def linesFrom (a len : Nat) : List Nat := (List.range ((a + len - 1) / 128 - a / 128 + 1)).map (fun i => (a / 128 + i) * 128)

/-- Bytes at an address from the lines gathered. -/
def gotBytes (got : List (Nat × List Byte)) (a len : Nat) : List Byte :=
  (List.range len).map (fun i =>
    nth 0 (((got.find? (fun e => decide (e.1 = (a + i) / 128 * 128))).map (·.2)).getD []) ((a + i) % 128))

/-- The first line that is still to be gathered. -/
def lacks (got : List (Nat × List Byte)) (l : List Nat) : Option Nat := l.find? (fun a => !got.any (fun e => decide (e.1 = a)))

/-! ### Traversal (R237, R241) -/

/-- Address and bytes of a node or triangle. -/
def itemAddr (d : List Byte) (e : Bool × Nat) : Nat × Nat :=
  if e.1 then (field d 16 8 + 48 * e.2, 48) else (field d 8 8 + 128 * e.2, 128)

/-- A ray ends: its result joins the batch, and its slot is free. -/
def endRay (n k : Nat) (s : State) : State :=
  setRg n (fun g => match tget? g.rays k with
    | some r => { g with rays := tdel g.rays k, results := g.results ++ [resultOf r] }
    | none => g) s

/-- Moves the oldest entries of a full stack to the spill area, whose bytes are the station's own (R241). [DESIGN CHOICE, log entry 83] -/
def spillRay (n k units off : Nat) (s : State) : State :=
  match (stnOf s n).bind (fun x => tget? x.rg.rays k) with
  | none => s
  | some r =>
    if 24 + r.spilled < r.todo.length then
      let o := off + k * 32 * units + 4 * r.spilled
      let bs := (List.range 8).flatMap (fun i => leBytes 4 (Config.freeValue (s.clk.free + i)).toNat)
      setRay n k (fun r => { r with spilled := r.spilled + 8 })
        (setStn n (lsPut o bs) { s with clk := { s.clk with free := s.clk.free + 8 } })
    else setRay n k (fun r => { r with spilled := if r.todo.length ≤ r.spilled then r.spilled - 8 else r.spilled }) s

/-- A visited node: its children join the stack, nearest in hand. -/
def stepNode (n k : Nat) (d nd : List Byte) (i : Nat) (r : RaySt) (s : State) : State :=
  let flush := ((stnOf s n).map (stnFlush s)).getD false
  let s := rgFlag n (flagIf (anySub flush (rayWords r.ray ++ (List.range 3).map (fun a => wordAt nd (4 * a)))) fFlush) s
  let es := (visitOrder flush r.ray r.tmax nd).map (entryOf nd)
  let todo := es.drop 1 ++ r.todo
  let u := field d 26 1
  if nodeBad nd then stationFault n stBvhNode 3 k 0 (itemAddr d (false, i)).1 0 s
  else if 24 + 8 * u < todo.length then stationFault n stRayStack 3 k 0 0 0 s
  else
    spillRay n k u (field d 40 4) (setRay n k (fun r => { r with
      cur := ((es.head?).map visit).getD [], todo := todo, got := [] }) s)

/-- A visited triangle. -/
def stepTri (n k : Nat) (d t : List Byte) (j : Nat) (r : RaySt) (s : State) : State :=
  if triBad t then stationFault n stBvhNode 3 k 0 (itemAddr d (true, j)).1 0 s
  else
    let flush := ((stnOf s n).map (stnFlush s)).getD false
    let hit := triHit flush r.ray r.tmax t j
    let s := rgFlag n (flagIf (anySub flush (rayWords r.ray ++ (List.range 9).map (fun i => wordAt t (4 * i)))) fFlush) s
    match hit with
    | none => setRay n k (fun r => { r with cur := r.cur.drop 1, got := [] }) s
    | some h =>
      let s := setRay n k (fun r => { r with cur := r.cur.drop 1, got := [], hit := some (closer r.hit h), tmax := (closer r.hit h).t }) s
      if bitOf (ryFlags r.ray) 0 then endRay n k s else s

/-- One step of a ray; false where it waits or has ended. -/
def stepRay (n k : Nat) (d : List Byte) (s : State) : State × Bool :=
  match (stnOf s n).bind (fun x => if x.stopped then none else tget? x.rg.rays k) with
  | none => (s, false)
  | some r =>
    if r.poisoned then (endRay n k s, false)
    else if r.waitLine.isSome ∨ r.stalled.isSome then (s, false)
    else
      match r.cur with
      | [] =>
        (match r.todo with
         | [] => (endRay n k s, false)
         | e :: rest =>
           let take := ltW (BitVec.ofNat 32 e.2.2) r.tmax
           (setRay n k (fun r => { r with
              todo := rest, cur := (if take then visit e else []), got := [],
              spilled := (if rest.length ≤ r.spilled then r.spilled - 8 else r.spilled) }) s, true))
      | e :: _ =>
        let ad := itemAddr d e
        match lacks r.got (linesFrom ad.1 ad.2) with
        | some a => (rgRead n k a s, cacheHas s n a)
        | none =>
          let b := gotBytes r.got ad.1 ad.2
          (if e.1 then stepTri n k d b e.2 r s else stepNode n k d b e.2 r s, true)

/-! ### Points and bags (R243-R246) -/

/-- A coordinate held to 0 to 1; a NaN reads as 0. -/
def clampUnit (flush : Bool) (w : Word) : Word × Nat :=
  if nanW w then (0, 0)
  else
    let a := ext32 flush true w 0
    let b := ext32 flush false a.1 0x3F800000#32
    (b.1, a.2 ||| b.2)

/-- Cell, weight and flags of a coordinate at a level, in binary32 (R244). -/
def levelCell (flush : Bool) (res : Nat) (w : Word) : Nat × Word × Nat :=
  let x := clampUnit flush w
  let p := mul32 flush x.1 (BitVec.ofNat 32 (packV fF32 none (intV res)).1)
  let f := ((truncV (decF fF32 p.1.toNat)).getD 0).toNat
  let i := min f (res - 1)
  let q := add32 flush p.1 (BitVec.ofNat 32 (packV fF32 none (intV (-(i : Int)))).1)
  (i, q.1, x.2 ||| p.2 ||| q.2)

/-- Table index of a corner. -/
def cornerIndex (res lg dims : Nat) (v : List Nat) : Nat :=
  let a := nth 0 v 0
  let b := nth 0 v 1
  let c := if dims = 3 then nth 0 v 2 else 0
  if (res + 1) ^ dims ≤ 2 ^ lg then a + (res + 1) * (b + (res + 1) * c)
  else
    let w := fun n : Nat => BitVec.ofNat 32 n
    (w a ^^^ (w b * 0x9E3779B1#32) ^^^ (w c * 0x85EBCA77#32)).toNat % 2 ^ lg

/-- Corners of a level of a point: entry address and the weights of each axis; and the flags of the level. -/
def corners (flush : Bool) (x : Stn) (d pt : List Byte) (l : Nat) : List (Nat × List Word) × Nat :=
  let e := lvEntry x d l
  let dims := field d 12 1
  let res := field e 8 4
  let cs := (List.range dims).map (fun a => levelCell flush res (wordAt pt (4 * a)))
  ((List.range (2 ^ dims)).map (fun c =>
    (field e 0 8 + cornerIndex res (field e 12 1) dims (cs.zipIdx.map (fun p => p.1.1 + b2n (bitOf c p.2))) * (field d 14 1 * 2),
     cs.zipIdx.map (fun p => if bitOf c p.2 then p.1.2.1 else (add32 flush 0x3F800000#32 (p.1.2.1 ^^^ 0x80000000#32)).1))),
   cs.foldl (fun a p => a ||| p.2.2) 0)

/-- The product of a corner's weights in axis order, and its flags. -/
def weightOf (flush : Bool) (ws : List Word) : Word × Nat :=
  match ws with
  | [] => (0x3F800000#32, 0)
  | w :: r => r.foldl (fun a v => let p := mul32 flush a.1 v; (p.1, a.2 ||| p.2)) (w, 0)

/-- One feature of a level: corner by corner the entry times the product of the weights, added in binary32, each step rounded
as the procedure writes it (R244). [DEDUCED, log entry 84] -/
def levelFeature (flush : Bool) (fmt f : Nat) (got : List (Nat × List Byte)) (cs : List (Nat × List Word)) : Word × Nat :=
  cs.foldl (fun (a : Word × Nat) c =>
    let v := readElem flush fmt (gotBytes got (c.1 + 2 * f) 2) 1 0
    let w := weightOf flush c.2
    let t := op32 flush (mulV v.1 (decF fF32 w.1.toNat)) v.2
    let z := add32 flush a.1 t.1
    (z.1, a.2 ||| w.2 ||| t.2 ||| z.2)) (0#32, 0)

/-- Output row of a point: its features level by level (R244); and its flags. [DEDUCED, log entry 84] -/
def pointRow (flush : Bool) (x : Stn) (d : List Byte) (r : RaySt) : List Byte × Nat :=
  let ft := field d 14 1
  let fmt := field d 15 1
  let ls := (List.range (field d 13 1)).map (fun l =>
    let cs := corners flush x d r.ray l
    let fs := (List.range ft).map (fun f =>
      let sum := levelFeature flush fmt f r.got cs.1
      let o := convF flush 0x0A fmt none sum.1.toNat
      (leBytes 2 o.1, sum.2 ||| o.2))
    (fs.flatMap (·.1), fs.foldl (fun a f => a ||| f.2) cs.2))
  (ls.flatMap (·.1), ls.foldl (fun a l => a ||| l.2) 0)

/-- Rows of a bag: their table addresses, index 0xFFFF_FFFF skipped (R245). -/
def bagRows (x : Stn) (d : List Byte) (i : Nat) : List Nat :=
  let b := field d 15 1
  ((List.range b).map (fun j => field (lsRead x (field d 16 4 + 4 * (i * b + j)) 4) 0 4)).filterMap (fun v =>
    if v = 0xFFFFFFFF then none else some (field d 32 8 + v * field d 28 4))

/-- Output row of a bag, and its flags. [DEDUCED, log entry 84] -/
def bagRow (flush : Bool) (x : Stn) (d : List Byte) (r : RaySt) : List Byte × Nat :=
  let tf := field d 21 1
  let w := fmtBits tf / 8
  let of := field d 13 1
  let rows := bagRows x d r.idx
  let es := (List.range (field d 14 1)).map (fun j =>
    let vs := rows.map (fun a => readElem flush tf (gotBytes r.got (a + w * j) w) 1 0)
    let s := sumV flush (vs.map (·.1))
    let m := if field d 12 1 = 2 ∧ rows.length ≠ 0 then div32 flush s.1 (BitVec.ofNat 32 (packV fF32 none (intV rows.length)).1) else (s.1, 0)
    let o := convF flush 0x0A of none m.1.toNat
    (leBytes (fmtBits of / 8) o.1, vs.foldl (fun a v => a ||| v.2) (s.2 ||| m.2 ||| o.2)))
  (es.flatMap (·.1), es.foldl (fun a e => a ||| e.2) 0)

/-- Lines that a point or bag reads. -/
def gatherLines (flush : Bool) (x : Stn) (d : List Byte) (r : RaySt) : List Nat :=
  if dOp d = 0x41 then
    ((List.range (field d 13 1)).flatMap (fun l => (corners flush x d r.ray l).1.flatMap (fun c => linesFrom c.1 (field d 14 1 * 2)))).eraseDups
  else ((bagRows x d r.idx).flatMap (fun a => linesFrom a (field d 14 1 * (fmtBits (field d 21 1) / 8)))).eraseDups

/-- Elements of an output row, their format and bytes each. -/
def outElems (d : List Byte) : Nat × Nat × Nat :=
  if dOp d = 0x41 then (field d 13 1 * field d 14 1, field d 15 1, 2) else (field d 14 1, field d 13 1, fmtBits (field d 13 1) / 8)

/-- Output row of a finished point or bag, NaN throughout where a fill was poisoned (R249); and its flags. -/
def gatherRow (flush : Bool) (x : Stn) (d : List Byte) (r : RaySt) : List Byte × Nat :=
  let e := outElems d
  if r.poisoned then ((List.range e.1).flatMap (fun _ => leBytes e.2.2 (canonNan (fmtOf e.2.1))), 0)
  else if dOp d = 0x41 then pointRow flush x d r
  else bagRow flush x d r

/-- One step of a point or bag. -/
def stepPoint (n k : Nat) (d : List Byte) (s : State) : State × Bool :=
  match (stnOf s n).bind (fun x => if x.stopped then none else (tget? x.rg.rays k).map (fun r => (x, r))) with
  | none => (s, false)
  | some (x, r) =>
    if r.done ∨ (¬ r.poisoned ∧ (r.waitLine.isSome ∨ r.stalled.isSome)) then (s, false)
    else
      let row := gatherRow (stnFlush s x) x d r
      let fin := (setRay n k (fun r => { r with done := true, todo := [], got := [] })
        (setRg n (fun g => { g with outQ := tput g.outQ r.idx row.1 }) (rgFlag n row.2 s)), false)
      if r.poisoned then fin
      else
        match r.todo with
        | [] => fin
        | e :: rest =>
          if (lacks r.got [e.2.1]).isNone then (setRay n k (fun r => { r with todo := rest }) s, true)
          else (rgRead n k e.2.1 s, cacheHas s n e.2.1)

/-! ### Driving the slots -/

/-- Steps one slot until it waits, ends or is complete. -/
def runSlot (n k : Nat) (d : List Byte) : Nat → State → State
  | 0, s => s
  | fuel + 1, s =>
    let r := if dOp d = 0x40 then stepRay n k d s else stepPoint n k d s
    if r.2 then runSlot n k d fuel r.1 else r.1

/-- The port of OUT_PORTS that holds the most credits, the lower port first on a tie; none where no port holds one (R240). -/
def outPort (s : State) (x : Stn) (ports : List Nat) : Option Nat :=
  let cr := fun p : Nat => ((sourceStream s x p).map (creditsOf s x)).getD 0
  let best := ports.foldl (fun b p => if cr b < cr p then p else b) (nth 0 ports 0)
  if cr best = 0 then none else some best

/-- A full or ending batch of results leaves: to a port of OUT_PORTS, or to scratchpad (R240). It waits while no port holds a
credit, and until the batch before it has left. -/
def leaveBatch (n i : Nat) (d : List Byte) (s : State) : State :=
  match stnOf s n, workOf s n i with
  | some x, some w =>
    let bs := (x.rg.results.take 64).flatMap id
    let bytes := bs ++ (List.range (64 - min 64 x.rg.results.length)).flatMap (fun _ => emptyResult bs)
    let s1 := setRg n (fun g => { g with results := g.results.drop 64, outNext := g.outNext + 1 }) s
    let ports := bitsSet 8 (field d 25 1)
    if ports.isEmpty then
      let o := field d 36 4 + 2048 * x.rg.outNext
      if inScratch x o 2048 then setStn n (lsPut o bytes) s1 else stationFault n stLocalRange 0 i 0 o 0 s
    else if ¬ w.outs.isEmpty then s
    else
      match outPort s x ports with
      | none => s
      | some p =>
        sendWork n i (setWork n i (fun w => { w with
          outs := (List.range 4).map (fun j => (p, ⟨0, 0, 0, j, (bytes.drop (512 * j)).take 512⟩)) }) s1)
  | _, _ => s

/-- Lowest free slots of the 2,048. -/
def freeSlots (x : Stn) (n : Nat) : List Nat :=
  ((List.range 2048).filter (fun k => (tget? x.rg.rays k).isNone)).take n

/-- The tile of gather output that is next has left: its slots are free (R246). -/
def freeTile (n t : Nat) (ks : List Nat) (s : State) : State :=
  setRg n (fun g => { g with
    outNext := t + 1, outQ := tfilter g.outQ (fun k _ => decide (k ∉ ks)), rays := tfilter g.rays (fun _ r => decide (r.idx ∉ ks)) }) s

/-- Tiles of gather output that are complete leave in order, each once the one before has left; its points or bags hold their
slots until it has (R246). -/
def gatherOut (n i : Nat) (d : List Byte) : Nat → State → State
  | 0, s => s
  | fuel + 1, s =>
    match stnOf s n, workOf s n i with
    | some x, some w =>
      let tot := field d 8 4
      let t := x.rg.outNext
      let m := min 64 (tot - 64 * t)
      let ks := (List.range m).map (fun j => 64 * t + j)
      if m = 0 ∨ ¬ ks.all (fun k => (tget? x.rg.outQ k).isSome) then s
      else
        let e := outElems d
        let bytes := ks.flatMap (fun k => (tget? x.rg.outQ k).getD [])
        let dst := if dOp d = 0x41 then field d 17 1 else field d 20 1
        if dst = 8 then
          gatherOut n i d fuel (freeTile n t ks (setStn n (lsPut (field d 24 4 + 64 * t * (e.1 * e.2.2)) bytes) s))
        else
          let s1 := if w.rows ≤ t then
            setWork n i (fun w => { w with rows := t + 1, outs := (flitsOf e.2.1 (m, e.1) bytes).map (fun f => (dst, f)) }) s else s
          let s2 := sendWork n i s1
          if ((workOf s2 n i).map (fun w => w.outs.isEmpty)).getD false then gatherOut n i d fuel (freeTile n t ks s2) else s2
    | _, _ => s

/-- Points taken at once: up to 64, from two flits of a stream or from scratchpad; none where they are not ready. [DEDUCED, log entry 84] -/
def takePoints (s : State) (x : Stn) (d : List Byte) : Option (List (List Byte) × Option Nat) :=
  let m := min 64 (field d 8 4 - x.rg.inNext)
  if m = 0 ∨ (freeSlots x m).length < m then none
  else if dOp d = 0x42 then some ((List.range m).map (fun _ => []), none)
  else if field d 16 1 = 8 then some ((List.range m).map (fun j => lsRead x (field d 20 4 + 16 * (x.rg.inNext + j)) 16), none)
  else
    match sinkStream s x (field d 16 1) with
    | none => none
    | some st =>
      let fs := bufOf s x st
      if fs.length < 2 then none
      else
        let bs := (fs.take 2).flatMap (·.data)
        some ((List.range m).map (fun j => (bs.drop (16 * j)).take 16), some st)

/-- Takes every group of points or bags that is ready. -/
def gatherIn (n : Nat) (d : List Byte) : Nat → State → State
  | 0, s => s
  | fuel + 1, s =>
    match stnOf s n with
    | none => s
    | some x =>
      match takePoints s x d with
      | none => s
      | some (ps, st) =>
        let base := x.rg.inNext
        if dOp d = 0x41 ∧ ps.any (fun p => !zeroAt p 12 4 || (decide (field d 12 1 = 2) && !zeroAt p 8 4)) then
          stationFault n stRayRecord 3 ((freeSlots x 1).headD 0) 0 0 0 s
        else
          let s1 := match st with
            | some st => popFlit x st (popFlit x st s)
            | none => s
          let add := fun (t : Tbl RaySt) (e : (List Byte × Nat) × Nat) =>
            let r : RaySt := { ray := e.1.1, todo := [], tmax := 0, hit := none, waitLine := none, poisoned := false, spilled := 0, idx := base + e.1.2 }
            tput t e.2 { r with todo := (gatherLines (stnFlush s x) x d r).map (fun a => (false, a, 0)) }
          gatherIn n d fuel (setRg n (fun g => { g with
            inNext := base + ps.length, rays := (ps.zipIdx.zip (freeSlots x ps.length)).foldl add g.rays }) s1)

/-- TRACE: full batches leave, and a partial one at a rest point or once the last ray has ended. -/
def traceOut (n i : Nat) (d : List Byte) : Nat → State → State
  | 0, s => s
  | fuel + 1, s =>
    match stnOf s n with
    | none => s
    | some x =>
      let last := decide (x.rg.batches = field d 28 4) && x.rg.rays.isEmpty
      if x.stopped ∨ x.rg.results.isEmpty ∨ ¬ (64 ≤ x.rg.results.length ∨ x.rg.resting = 1 ∨ last = true) then s
      else
        let s1 := leaveBatch n i d s
        if ((stnOf s1 n).map (fun y => decide (y.rg.outNext = x.rg.outNext))).getD true then s1 else traceOut n i d fuel s1

/-- The rest point within a TRACE: results sent, no miss register outstanding (R250). -/
def traceRest (n i : Nat) (d : List Byte) (s : State) : State :=
  match stnOf s n, workOf s n i with
  | some x, some w =>
    if x.rg.resting = 1 ∧ x.rg.results.isEmpty ∧ x.rg.miss.isEmpty ∧ w.outs.isEmpty ∧ ¬ x.stopped then
      markRest n (field d 27 1) 0 i 0 (setRg n (fun g => { g with resting := 2 }) s)
    else if x.rg.resting = 2 ∧ x.marked = 0 then setRg n (fun g => { g with resting := 0 }) s
    else s
  | _, _ => s

/-- The effect of the descriptor is complete. -/
def rgDone (x : Stn) (d : List Byte) (w : Work) : Bool :=
  w.outs.isEmpty && x.rg.rays.isEmpty && x.rg.results.isEmpty && x.rg.outQ.isEmpty && decide (x.rg.resting = 0) &&
  (if dOp d = 0x40 then decide (x.rg.batches = field d 28 4) else decide (field d 8 4 ≤ x.rg.inNext))

/-- One round of an RG station: intake, every slot as far as it goes, output. -/
def rgRound (n i : Nat) (d : List Byte) (s : State) : State :=
  let held := ((stnOf s n).map (fun x => decide (x.rg.resting ≠ 0 ∨ x.marked ≠ 0))).getD true
  let s := if dOp d = 0x40 then s else gatherIn n d 33 s
  let s := if held then s
    else ((((stnOf s n).map (fun x => tkeys x.rg.rays)).getD [])).foldl (fun s k => runSlot n k d 1000000 s) s
  if dOp d = 0x40 then traceOut n i d 64 s else gatherOut n i d 33 s

/-- Rounds until none lets another tile leave: a gather takes points again into the slots that a tile has freed. -/
def rgRounds (n i : Nat) (d : List Byte) : Nat → State → State
  | 0, s => s
  | fuel + 1, s =>
    let out := fun s : State => ((stnOf s n).map (fun x => x.rg.outNext)).getD 0
    let s1 := rgRound n i d s
    if dOp d = 0x40 ∨ out s1 = out s then s1 else rgRounds n i d fuel s1

/-- Drives an RG station as far as its data goes. -/
def rgPump (n : Nat) (s : State) : State :=
  match (liveOf s n).bind rgDesc with
  | none => s
  | some (i, d) =>
    let s := if dOp d = 0x40 then traceRest n i d (sendWork n i s) else s
    let s := rgRounds n i d 262145 s
    let s := sendWork n i s
    let s := if dOp d = 0x40 then traceRest n i d s else s
    match stnOf s n, workOf s n i with
    | some x, some w => if rgDone x d w then setWork n i (fun w => { w with st := .fin }) s else s
    | _, _ => s

/-- Starts a TRACE or a gather. -/
def rgGo (n i : Nat) (_d : List Byte) (_x : Stn) (s : State) : State :=
  rgPump n (beginWork n i {} (setRg n (fun _ => {}) s))

/-- TRACE. -/
def execTrace (stn : Nat) (s : State) : Out := descOut 0x40 stn (rgGo stn) s

/-- GATHER_HASH. -/
def execGatherHash (stn : Nat) (s : State) : Out := descOut 0x41 stn (rgGo stn) s

/-- GATHER_EMBED. -/
def execGatherEmbed (stn : Nat) (s : State) : Out := descOut 0x42 stn (rgGo stn) s

/-- A batch of 64 ray records that a TRACE can take: the lowest port of IN_PORTS that holds one, or scratchpad. -/
def nextBatch (s : State) (x : Stn) (d : List Byte) : Option (List Byte × Option Nat) :=
  let ports := bitsSet 8 (field d 24 1)
  if ports.isEmpty then some (lsRead x (field d 32 4 + 3072 * x.rg.batches) 3072, none)
  else
    match ports.find? (fun p => match sinkStream s x p with
      | some st => decide (6 ≤ (bufOf s x st).length)
      | none => false) with
    | some p => (sinkStream s x p).map (fun st => (((bufOf s x st).take 6).flatMap (·.data), some st))
    | none => none

/-- Puts a ray record in a slot; an EMPTY record is discarded, and a ray that cannot hit ends at once. -/
def putRay (flush : Bool) (n : Nat) (s : State) (e : List Byte × Nat) : State :=
  if bitOf (ryFlags e.1) 7 then s
  else
    let r : RaySt := { ray := e.1, todo := [], cur := if rayIdle flush e.1 then [] else [(false, 0)], tmax := flushW flush (ryTmax e.1), hit := none,
                       waitLine := none, poisoned := false, spilled := 0 }
    setRg n (fun g => { g with rays := tput g.rays e.2 r }) s

/-- RAY_BATCH_TAKE: a TRACE takes a whole batch into 64 free slots; a rest point falls due after each MID_REST_EVERY
batches. -/
def batchTakeS (n : Nat) (s : State) : State :=
  let s := rgPump n s
  match (liveOf s n).bind (fun x => (rgDesc x).map (fun e => (x, e))) with
  | none => s
  | some (x, i, d) =>
    if dOp d ≠ 0x40 ∨ field d 28 4 ≤ x.rg.batches ∨ x.rg.resting ≠ 0 ∨ x.marked ≠ 0 ∨ (freeSlots x 64).length < 64 then s
    else
      match nextBatch s x d with
      | none => s
      | some (bs, st) =>
        let recs := (List.range 64).map (fun j => (bs.drop (48 * j)).take 48)
        let slots := freeSlots x 64
        match (recs.zip slots).find? (fun e => rayBad e.1) with
        | some e => stationFault n stRayRecord 3 e.2 0 0 0 s
        | none =>
          let s := match st with
            | some st => (List.range 6).foldl (fun s _ => popFlit x st s) s
            | none => s
          let s := (recs.zip slots).foldl (putRay (stnFlush s x) n) s
          let due := decide (field d 27 1 ≠ 0 ∧ (x.rg.batches + 1) % field d 44 4 = 0)
          rgPump n (setWork n i id (setRg n (fun g => { g with batches := g.batches + 1, resting := if due then 1 else g.resting }) s))

def execRayBatchTake (stn : Nat) (s : State) : Out := ifRun (batchTakeS stn) s

/-- RESULT_BATCH_FLUSH: FLUSH_CYCLES have passed since a partial batch's first record, and it leaves. -/
def batchFlushS (n : Nat) (s : State) : State :=
  match (liveOf s n).bind (fun x => (rgDesc x).map (fun e => (x, e))) with
  | none => s
  | some (x, i, d) =>
    if dOp d ≠ 0x40 ∨ field d 48 2 = 0 ∨ x.rg.results.isEmpty then s else rgPump n (leaveBatch n i d (sendWork n i s))

def execResultBatchFlush (stn : Nat) (s : State) : Out := ifRun (batchFlushS stn) s

/-! ### Miss registers (R247-R249) -/

/-- Installs a line in a station cache as its most recent: 8 ways a set; not a line poisoned, or of a station without a
cache (R276). [DESIGN CHOICE, log entry 117] -/
def cacheInstall (key : Nat) (line : List Byte) (x : Stn) : Stn :=
  let sets := cacheLines x.kind x.split / 8
  if sets = 0 then x
  else
    let rest := x.cache.filter (fun e => !decide (e.1 = key))
    let same := rest.filter (fun e => decide (e.1 % sets = key % sets))
    let drop := if same.length < 8 then none else same.getLast?
    { x with cache := (key, line) :: rest.filter (fun e => !decide (some e = drop)) }

/-- A line reaches a miss register: every waiter has it in the order of joining, it is installed where it is read-only for
the context and not invalidated, and the register is free. -/
def serveMiss (n m : Nat) (line : List Byte) (poison : Bool) (s : State) : State :=
  match (stnOf s n).bind (fun x => (tget? x.rg.miss m).map (fun e => (x, e))) with
  | none => s
  | some (x, a, ws, inval) =>
    let s := setRg n (fun g => { g with miss := tdel g.miss m }) s
    let s := ws.foldl (fun s k => setRay n k (fun r =>
      if r.waitLine = some a then { r with waitLine := none, poisoned := r.poisoned || poison, got := r.got ++ [(a, line)] } else r) s) s
    let s := match xlate s x a with
      | some p => if p.ro ∧ ¬ inval ∧ ¬ poison then setStn n (cacheInstall (lkey p.stack p.line) line) s else s
      | none => s
    rgPump n s

/-- MISS_FILL: the fill on its way to a miss register arrives. -/
def missFillS (n m : Nat) (s : State) : State :=
  let mine := fun r : Req => decide (r.who = .missReg n m)
  match s.home.net.find? (fun g => match g with
    | .fill _ _ _ _ rs => rs.any mine
    | _ => false) with
  | some (.fill k l data poison rs) =>
    let old : Msg := .fill k l data poison rs
    let left := rs.filter (fun r => !mine r)
    let net := if left.isEmpty then s.home.net.erase old
      else s.home.net.map (fun g => if g = old then .fill k l data poison left else g)
    serveMiss n m data poison { s with home := { s.home with net := net } }
  | _ => s

def execMissFill (stn reg : Nat) (s : State) : Out := ifUp (missFillS stn reg) s

end Sys2Proof.Machine
end

