-- ==== Sys2Proof/Machine/Streams.lean ====
section
/-! DEFINITION. Streams and the descriptors that tiles pass through: flits and credits (R45-R51, R57), RECV and SEND (R111),
the matrix descriptors' intake and results (R97-R110), FETCH and STORE (R271-R275). -/

namespace Sys2Proof.Machine

/-! ### What a descriptor takes in -/

/-- A tile operand of a descriptor: its place among the feeds, stream port, format and tiles in order. -/
structure Feed where
  slot : Nat
  port : Nat
  fmt : Nat
  dims : List (Nat × Nat)

/-- The feed of an operand entry, where it is a stream. -/
def feedOf (slot : Nat) (e : Opnd) (r c : Nat) (kc : Bool) : List Feed :=
  if e.src ≤ 7 then [⟨slot, e.src, e.fmt, tileDims e r c kc⟩] else []

/-- Stream operands of descriptor `i`: A by K-block and then M-tile, B by K-block and then N-tile, others row-major. -/
def feedsOf (x : Stn) (i : Nat) : List Feed :=
  let d := nth [] x.descs i
  let op := dOp d
  if op = 0x10 ∨ op = 0x11 ∨ op = 0x12 then
    feedOf 0 (opndAt d 24) (mxM d) (mxKA d) true ++ feedOf 1 (opndAt d 40) (mxKB d) (mxN d) false ++
      feedOf 2 (opndAt d 56) (mxM d) (mxN d) false
  else if op = 0x13 then feedOf 0 (opndAt d 16) 64 (attnCols x i) false
  else if op = 0x20 then feedOf 0 (opndAt d 24) (mxM d) (mxN d) false
  else if op = 0x21 then feedOf 0 (opndAt d 8) (field d 24 2) (field d 26 2) false
  else []

/-- Flits of a feed. -/
def feedLen (f : Feed) : Nat := sumNat (f.dims.map (tileFlits f.fmt))

/-- A feed is whole. -/
def feedFull (w : Work) (f : Feed) : Bool := decide (feedLen f ≤ (tget [] w.feeds f.slot).length)

/-- Takes flits for a feed while it lacks some and its buffer holds some; one of another format or shape is STREAM_FORMAT. -/
def takeFeed (n i : Nat) (f : Feed) : Nat → State → State
  | 0, s => s
  | fuel + 1, s =>
    match stnOf s n, workOf s n i with
    | some x, some w =>
      (match (sinkStream s x f.port).map (fun st => (st, bufOf s x st)) with
       | some (st, fl :: _) =>
         if feedFull w f ∨ x.stopped then s
         else
           (match flitWant f.fmt f.dims (tget [] w.feeds f.slot).length with
            | some want =>
              if flitMatches f.fmt want fl then
                takeFeed n i f fuel (popFlit x st (setWork n i (fun w => { w with
                  feeds := tput w.feeds f.slot (tget [] w.feeds f.slot ++ [fl]) }) s))
              else stationFault n stStreamFormat 1 st 0 0 0 s
            | none => s)
       | _ => s)
    | _, _ => s

/-- Tiles of a feed, once whole. -/
def feedTiles (x : Stn) (i : Nat) (w : Work) (slot : Nat) : List (List Byte) :=
  match (feedsOf x i).find? (fun f => decide (f.slot = slot)) with
  | some f => cutTiles f.fmt f.dims (tget [] w.feeds slot)
  | none => []

/-- The effect of a matrix descriptor whose operands are all there: its station, and flits to send. -/
def mxEffect (flush : Bool) (x : Stn) (i : Nat) (w : Work) : Stn × List (Nat × Flit) :=
  let d := nth [] x.descs i
  let op := dOp d
  let t := feedTiles x i w
  if op = 0x10 ∨ op = 0x12 then runMatmul flush false d w.passes (t 0) (t 1) (t 2) x
  else if op = 0x11 then runMatmul flush true d w.passes (t 0) (t 1) (t 2) x
  else if op = 0x13 then (runAttnPv flush i d w.passes (t 0) x, [])
  else if op = 0x14 then runAttnFinal flush i d w.passes x
  else if op = 0x20 then runEltwise flush d w.passes (t 0) x
  else (runReduce flush d (nth 0 w.passes 0) (t 0) x, [])

/-- A matrix descriptor in progress: intake, then its effect once, then its results leave. -/
def mxStep (n i : Nat) (noIn : List Nat) (canSend : Bool) (s : State) : State :=
  match stnOf s n with
  | none => s
  | some x =>
    let fs := feedsOf x i
    let s := fs.foldl (fun s f => if f.port ∈ noIn then s else takeFeed n i f 40 s) s
    match stnOf s n, workOf s n i with
    | some x, some w =>
      if x.stopped then s
      else
        let s := if w.count = 0 ∧ fs.all (feedFull w) then
          let r := mxEffect (stnFlush s x) x i w
          setStn n (fun _ => { r.1 with works := tupd x.works i (fun w => { w with count := 1, feeds := [], outs := r.2 }) }) s
          else s
        let s := if canSend then sendWork n i s else s
        setWork n i (fun w => if w.count = 1 ∧ w.outs.isEmpty then { w with st := .fin } else w) s
    | _, _ => s

/-! ### RECV and SEND -/

/-- Places a whole tile of a RECV, its rows after those placed before; a PITCH below the rows' size is BAD_DESC. [DEDUCED, log entry 78] -/
def placeTile (n i : Nat) (d : List Byte) (w : Work) (fs : List Flit) (s : State) : State :=
  match stnOf s n with
  | none => s
  | some x =>
    let fmt := rsFmt d
    let raw := decide (((fs.head?).map (·.fmt)).getD 0 = 0)
    let rows := if raw then 64 else ((fs.head?).map (·.rows)).getD 0
    let cols := if raw then 64 else ((fs.head?).map (·.cols)).getD 0
    let rb := rowBytes fmt cols
    let o := rsOff d (nth 0 w.passes 0) + w.rows * rsPitch d
    let bs := fs.flatMap (·.data)
    if rsPitch d < rb then stationFault n stBadDesc 0 i 0 0 0 s
    else if ¬ inScratch x o ((rows - 1) * rsPitch d + rb) then stationFault n stLocalRange 0 i 0 o 0 s
    else
      setWork n i (fun w => { w with feeds := [], count := w.count + 1, rows := w.rows + rows })
        (setStn n (fun x => (List.range rows).foldl (fun x r => lsPut (o + r * rsPitch d) ((bs.drop (r * rb)).take rb) x) x) s)

/-- Flits of the tile that a RECV is taking in. -/
def recvWant (fmt : Nat) (fs : List Flit) : Nat :=
  match fs with
  | f :: _ => if f.fmt = 0 then tileFlits fmt (64, 64) else tileFlits f.fmt (f.rows, f.cols)
  | [] => 0

/-- A RECV in progress. -/
def recvStep (n i : Nat) : Nat → State → State
  | 0, s => s
  | fuel + 1, s =>
    match stnOf s n, workOf s n i with
    | some x, some w =>
      let d := nth [] x.descs i
      if x.stopped then s
      else if rsTiles d ≤ w.count then setWork n i (fun w => { w with st := .fin }) s
      else
        (match (sinkStream s x (rsPort d)).map (fun st => (st, bufOf s x st)) with
         | some (st, f :: _) =>
           let cur := tget [] w.feeds 0
           let same : Bool := match cur with
             | g :: _ => decide (f.fmt = g.fmt ∧ f.rows = g.rows ∧ f.cols = g.cols ∧ (f.fmt = 0 ∨ f.idx = cur.length))
             | [] => decide (f.fmt = 0 ∨ (f.fmt = rsFmt d ∧ f.idx = 0))
           if ¬ same then stationFault n stStreamFormat 1 st 0 0 0 s
           else
             let fs := cur ++ [f]
             let s1 := popFlit x st s
             let s2 := if recvWant (rsFmt d) fs ≤ fs.length then placeTile n i d w fs s1
               else setWork n i (fun w => { w with feeds := tput w.feeds 0 fs }) s1
             recvStep n i fuel s2
         | _ => s)
    | _, _ => s

/-- Bytes of tile `t` of a SEND: 64 rows of 64 elements, rows PITCH apart. [DEDUCED, log entry 78] -/
def sendTile (x : Stn) (d : List Byte) (pass t : Nat) : List Byte :=
  (List.range 64).flatMap (fun r => lsRead x (rsOff d pass + (64 * t + r) * rsPitch d) (rowBytes (rsFmt d) 64))

/-- A SEND in progress. -/
def sendStep (n i : Nat) : Nat → State → State
  | 0, s => s
  | fuel + 1, s =>
    let s := sendWork n i s
    match stnOf s n, workOf s n i with
    | some x, some w =>
      let d := nth [] x.descs i
      if x.stopped ∨ ¬ w.outs.isEmpty then s
      else if rsTiles d ≤ w.count then setWork n i (fun w => { w with st := .fin }) s
      else
        let fl := (flitsOf (rsFmt d) (64, 64) (sendTile x d (nth 0 w.passes 0) w.count)).map (fun f => (rsPort d, f))
        sendStep n i fuel (setWork n i (fun w => { w with outs := fl, count := w.count + 1 }) s)
    | _, _ => s

/-! ### FETCH and STORE (R272, R273) -/

/-- The bytes of tile `t` that a FETCH needs are there. -/
def fetchReady (d : List Byte) (f : Xfer) (t : Nat) : Bool :=
  let p := fsTile d t
  let m := fsDim d t
  let rb := fsRowBytes d
  f.pieces.all (fun q => decide (q.st = 2) ||
    !((List.range m.1).any (fun r => (fsRanges d p.2 m.2).any (fun g =>
      let lo := fsBase f + (p.1 + r) * rb + g.1
      decide (q.loc < lo + g.2 ∧ lo < q.loc + q.len)))))

/-- Bytes of tile `t`, each row laid out for its own elements (R127, R273). -/
def fetchTile (x : Stn) (d : List Byte) (f : Xfer) (t : Nat) : List Byte :=
  let p := fsTile d t
  let m := fsDim d t
  let rb := fsRowBytes d
  let b := fmtBits (fsFmt d)
  (List.range m.1).flatMap (fun r =>
    let row := lsRead x (fsBase f + (p.1 + r) * rb) rb
    packRow b ((List.range m.2).map (fun j => rowElem row 0 b (p.2 + j))) ++
    (if isMx (fsFmt d) then (row.drop (elemBytes b (fsCols d) + p.2 / 32)).take (ceilDiv m.2 32) else []))

/-- Drops an engine's transfer and what it kept. -/
def dropFs (n : Nat) (f : Xfer) (s : State) : State :=
  setStn n (fun x => { x with xfers := x.xfers.erase f, ls := tfilter x.ls (fun a _ => decide (a / 2 ^ 40 ≠ f.id)) }) s

/-- A FETCH in progress: its tiles leave in order as their data comes. -/
def fetchStep (n i : Nat) : Nat → State → State
  | 0, s => s
  | fuel + 1, s =>
    let s := sendWork n i s
    match stnOf s n, workOf s n i with
    | some x, some w =>
      let d := nth [] x.descs i
      (match fsXfer x i with
       | none => s
       | some f =>
         if x.stopped ∨ ¬ w.outs.isEmpty then s
         else if fsTiles d ≤ w.count then setWork n i (fun w => { w with st := .fin }) (dropFs n f s)
         else if fetchReady d f w.count then
           let fl := (flitsOf (fsFmt d) (fsDim d w.count) (fetchTile x d f w.count)).map (fun u => (16 + fsStream d, u))
           fetchStep n i fuel (setWork n i (fun w => { w with outs := fl, count := w.count + 1 }) s)
         else s)
    | _, _ => s

/-- A whole tile of a STORE: its rows go to the engine's buffer, and their bytes become pieces to write. -/
def storeTile (n i : Nat) (d : List Byte) (w : Work) (fs : List Flit) (f : Xfer) (s : State) : State :=
  match stnOf s n with
  | none => s
  | some x =>
    let p := fsTile d w.count
    let m := fsDim d w.count
    let rb := fsRowBytes d
    let tb := rowBytes (fsFmt d) m.2
    let bs := fs.flatMap (·.data)
    let parts := (List.range m.1).flatMap (fun r =>
      let src := (bs.drop (r * tb)).take tb
      let gs := fsRanges d p.2 m.2
      gs.zipIdx.map (fun g =>
        let at_ := if g.2 = 0 then 0 else elemBytes (fmtBits (fsFmt d)) m.2
        (fsAddr d (nth 0 w.passes 0) + (p.1 + r) * field d 32 4 + g.1.1, fsBase f + (p.1 + r) * rb + g.1.1, (src.drop at_).take g.1.2)))
    let pcs := parts.flatMap (fun q => cutRange s x.ctx (q.2.2.length + 1) q.1 q.2.2.length q.2.1)
    setWork n i (fun w => { w with feeds := [], count := w.count + 1 })
      (setStn n (fun x =>
        let y := parts.foldl (fun y q => lsPut q.2.1 q.2.2 y) x
        { y with xfers := y.xfers.map (fun g => if g = f then { g with pieces := g.pieces ++ pcs } else g) }) s)

/-- A STORE in progress: it takes its tiles in, and completes when every home has accepted its writes. -/
def storeStep (n i : Nat) (take : Bool) : Nat → State → State
  | 0, s => s
  | fuel + 1, s =>
    match stnOf s n, workOf s n i with
    | some x, some w =>
      let d := nth [] x.descs i
      (match fsXfer x i with
       | none => s
       | some f =>
         if x.stopped then s
         else if fsTiles d ≤ w.count then
           (if f.pieces.all (fun p => decide (p.st = 2)) then setWork n i (fun w => { w with st := .fin }) (dropFs n f s) else s)
         else if ¬ take then s
         else
           (match bufOf s x (fsStream d) with
            | fl :: _ =>
              let cur := tget [] w.feeds 0
              let m := fsDim d w.count
              if ¬ flitMatches (fsFmt d) (m.1, m.2, cur.length) fl then stationFault n stStreamFormat 1 (fsStream d) 0 0 0 s
              else
                let fs := cur ++ [fl]
                let s1 := popFlit x (fsStream d) s
                let s2 := if tileFlits (fsFmt d) m ≤ fs.length then storeTile n i d w fs f s1
                  else setWork n i (fun w => { w with feeds := tput w.feeds 0 fs }) s1
                storeStep n i take fuel s2
            | [] => s))
    | _, _ => s

/-! ### PRECV and PSEND of a Shader Station (R210) -/

/-- An operation of a group ends: its counter goes down (R208). -/
def endXfer (n : Nat) (f : Xfer) (s : State) : State :=
  setStn n (fun x => { x with
    xfers := x.xfers.filter (fun q => !decide (q.id = f.id)),
    groups := (match f.grp with
      | some (g, c) => tupd x.groups g (fun y => { y with counters := putNth y.counters c (nth 0 y.counters c - 1) })
      | none => x.groups) }) s

/-- One flit of a stream-port operation: piece `k`, the next to move. -/
def portFlit (n : Nat) (f : Xfer) (k : Nat) (p : XPiece) (s : State) : Option State :=
  match stnOf s n with
  | none => none
  | some x =>
    if f.kind = .precv then
      match (sinkStream s x f.desc).map (fun st => (st, bufOf s x st)) with
      | some (st, fl :: _) => some (setPiece n f.id k 2 (setStn n (lsPut p.loc (fl.data.take 512)) (popFlit x st s)))
      | _ => none
    else
      match sourceStream s x f.desc with
      | some st =>
        if creditsOf s x st = 0 then none
        else some (setPiece n f.id k 2 (pushFlit x st ⟨0, 0, 0, 0, lsRead x p.loc 512⟩ s))
      | none => none

/-- The oldest unfinished operation of each port moves as many flits as it can; those on one port finish in issue order. -/
def portStep (n id : Nat) : Nat → State → State
  | 0, s => s
  | fuel + 1, s =>
    match (stnOf s n).bind (fun x => x.xfers.find? (fun f => decide (f.id = id))) with
    | none => s
    | some f =>
      match f.pieces.zipIdx.find? (fun e => decide (e.1.st ≠ 2)) with
      | none => endXfer n f s
      | some (p, k) =>
        match portFlit n f k p s with
        | some s1 => portStep n id fuel s1
        | none => s

/-- An older operation on the same port is unfinished. -/
def portHeld (x : Stn) (f : Xfer) : Bool :=
  x.xfers.any (fun g => decide ((g.kind = .precv ∨ g.kind = .psend) ∧ g.kind = f.kind ∧ g.desc = f.desc ∧ g.id < f.id))

/-- Stream-port operations of a Shader Station, oldest first. -/
def portPump (n : Nat) (s : State) : State :=
  (((stnOf s n).map (·.xfers)).getD []).foldl (fun s f =>
    if (f.kind = .precv ∨ f.kind = .psend) ∧ !(((stnOf s n).map (fun x => portHeld x f)).getD true) then
      portStep n f.id (f.pieces.length + 1) s
    else s) s

/-! ### The pump: a station's descriptors in progress go as far as their flits and credits let them -/

/-- Ports, or engines, that a descriptor takes flits from, and sends into. -/
def takesFrom (s : State) (x : Stn) (i : Nat) (w : Work) : List Nat :=
  let d := nth [] x.descs i
  if dOp d = 2 then [rsPort d]
  else if dOp d = 0x51 then (((streamsOf s x.launch)[fsStream d]?).map (·.sinkPort)).toList
  else if w.count = 0 then (feedsOf x i).map (·.port) else []
def sendsTo (s : State) (x : Stn) (i : Nat) : List Nat :=
  let d := nth [] x.descs i
  if dOp d = 3 then [rsPort d]
  else if dOp d = 0x50 then (((streamsOf s x.launch)[fsStream d]?).map (·.srcPort)).toList
  else if dOp d ∈ [0x10, 0x11, 0x14, 0x20] ∧ ¬ mxNoOut d ∧ (opndAt d 72).src ≤ 7 then [(opndAt d 72).src]
  else []

/-- Works of a station in the order of starting. -/
def insWork (e : Nat × Work) : List (Nat × Work) → List (Nat × Work)
  | [] => [e]
  | f :: r => if e.2.ord < f.2.ord then e :: f :: r else f :: insWork e r
def worksInOrder (x : Stn) : List (Nat × Work) := x.works.foldl (fun l e => insWork e l) []

/-- One descriptor goes on; it takes from no port that an earlier one takes from, and sends into none that one sends into. -/
def stepWork (n i op : Nat) (noIn : List Nat) (inOk outOk : Bool) (s : State) : State :=
  if op = 2 then (if inOk then recvStep n i 40 s else s)
  else if op = 3 then (if outOk then sendStep n i 40 s else s)
  else if op = 0x50 then (if outOk then fetchStep n i 40 s else s)
  else if op = 0x51 then storeStep n i inOk 40 s
  else if op = 4 ∨ op = 5 ∨ op = 6 ∨ op = 7 ∨ op = 0x30 then s
  else mxStep n i noIn outOk s

def pumpWorks (n : Nat) : List (Nat × Work) → List Nat → List Nat → State → State
  | [], _, _, s => s
  | e :: r, noIn, noOut, s =>
    match stnOf s n with
    | none => s
    | some x =>
      if x.stopped then s
      else
        let outs := sendsTo s x e.1
        let ins := takesFrom s x e.1 e.2
        let s1 := stepWork n e.1 (dOp (nth [] x.descs e.1)) noIn (ins.all (fun p => decide (p ∉ noIn))) (outs.all (fun p => decide (p ∉ noOut))) s
        match (stnOf s1 n).bind (fun y => (tget? y.works e.1).map (fun w => (y, w))) with
        | some (y, w) =>
          if w.st = .fin then pumpWorks n r noIn noOut s1 else pumpWorks n r (noIn ++ takesFrom s1 y e.1 w) (noOut ++ outs) s1
        | none => pumpWorks n r noIn noOut s1

/-- A station goes on as far as it can; one that TRAY_STOP_N or the brake has stopped keeps its state (R537, R641). -/
def pump (n : Nat) (s : State) : State :=
  match liveOf s n with
  | none => s
  | some x => if issueHeld s then s else if x.kind = 3 then rgPump n s else if x.kind = 2 then portPump n s else pumpWorks n (worksInOrder x) [] [] s

/-! ### Commands -/

/-- A tile descriptor starts: it joins those in progress and takes what is there. -/
def tileGo (n i : Nat) (_d : List Byte) (_x : Stn) (s : State) : State := pump n (beginWork n i {} s)

/-- RECV. -/
def execRecv (stn : Nat) (s : State) : Out := descOut 2 stn (tileGo stn) s
/-- SEND. -/
def execSend (stn : Nat) (s : State) : Out := descOut 3 stn (tileGo stn) s
/-- MATMUL. -/
def execMatmul (stn : Nat) (s : State) : Out := descOut 0x10 stn (tileGo stn) s
/-- CONV. -/
def execConv (stn : Nat) (s : State) : Out := descOut 0x11 stn (tileGo stn) s
/-- ATTN_SCORE. -/
def execAttnScore (stn : Nat) (s : State) : Out := descOut 0x12 stn (tileGo stn) s
/-- ATTN_PV. -/
def execAttnPv (stn : Nat) (s : State) : Out := descOut 0x13 stn (tileGo stn) s
/-- ATTN_FINAL. -/
def execAttnFinal (stn : Nat) (s : State) : Out := descOut 0x14 stn (tileGo stn) s
/-- ELTWISE. -/
def execEltwise (stn : Nat) (s : State) : Out := descOut 0x20 stn (tileGo stn) s
/-- REDUCE. -/
def execReduce (stn : Nat) (s : State) : Out := descOut 0x21 stn (tileGo stn) s

/-- A FETCH or STORE starts: its transfer, whose pieces a FETCH knows at once. -/
def fsGo (n : Nat) (kind : XKind) (i : Nat) (d : List Byte) (x : Stn) (s : State) : State :=
  let id := s.sch.xseq
  let rb := fsRowBytes d
  let a := fsAddr d (nth 0 (passesOf x i) 0)
  let ps := if kind = .fetch then (List.range (fsRows d)).flatMap (fun r => cutRange s x.ctx (rb + 1) (a + r * field d 32 4) rb (id * 2 ^ 40 + r * rb)) else []
  let eng := (((streamsOf s x.launch)[fsStream d]?).map (fun e => 16 * n + (if kind = .fetch then e.srcPort else e.sinkPort))).getD 0
  let f : Xfer := { id := id, kind := kind, desc := i, grp := none, pieces := ps, lo := 0, hi := 0, eng := eng }
  pump n (beginWork n i {} (setStn n (fun x => { x with xfers := x.xfers ++ [f] }) { s with sch := { s.sch with xseq := id + 1 } }))

/-- FETCH. -/
def execFetch (stn : Nat) (s : State) : Out := descOut 0x50 stn (fsGo stn .fetch) s
/-- STORE. -/
def execStore (stn : Nat) (s : State) : Out := descOut 0x51 stn (fsGo stn .store) s

/-- The station of an instance's cell. -/
def stnAtCell (s : State) (k i cell : Nat) : Option Nat :=
  (s.sch.stns.find? (fun e => decide (e.2.launch = k ∧ e.2.inst = i ∧ e.2.cell = cell))).map (·.1)

/-! ### The half-die seam (R474, R475) -/

/-- Places of a seam link's queue of a class in one direction: 0 timetabled, 1 dynamic, 2 express traffic (R474). -/
def seamPlaces (cls : Nat) : Nat := nth 0 [16, 8, 4] cls

/-- The half-die seam link that link `h` of a stream's route is, in an instance: 24·die + 2·row + direction, 0 east and 1 west;
none where it crosses no seam (R27, R474). -/
def seamLinkAt (s : State) (k i st h : Nat) : Option Nat :=
  match tget? s.sch.launches k, instOf s k i, (streamsOf s k)[st]? with
  | some l, some x, some e =>
    match tget? s.sch.recipes l.recipe with
    | some r =>
      let c := r.stations[e.srcCell]?
      let p := (routeCells r.footW r.footH e.route e.hops 0 ((c.map (fun c => (c.fx, c.fy))).getD (0, 0)))[h]?
      (match p with
       | some q =>
         if routeDir e.route h = 1 ∧ x.x + q.1 = 6 then some (24 * x.part + 2 * (x.y + q.2))
         else if routeDir e.route h = 3 ∧ x.x + q.1 = 7 then some (24 * x.part + 2 * (x.y + q.2) + 1)
         else none
       | none => none)
    | none => none
  | _, _, _ => none

/-- Timetabled flits in a seam link's queue: those that have crossed it and have not been forwarded. [DESIGN CHOICE, log entry 131] -/
def seamHeld (s : State) (q : Nat) : Nat :=
  sumNat (s.sch.launches.map (fun e => sumNat (e.2.insts.zipIdx.map (fun i =>
    (i.1.flight.filter (fun f => decide (1 ≤ f.2.1 ∧ seamLinkAt s e.1 i.2 f.1 (f.2.1 - 1) = some q))).length))))

/-- Credits that a sending station holds for a seam link's queue: its places less the flits in it, whose credits come back as
the receiving station forwards them (R474). Dynamic and express messages cross within a command of the model, so their queues
are empty between commands. [DESIGN CHOICE, log entry 131] -/
def seamCredits (s : State) (q cls : Nat) : Nat := seamPlaces cls - (if cls = 0 then seamHeld s q else 0)

/-- A flit may cross link `h` of its stream's route: any but a seam link whose timetabled queue is full (R475). [DESIGN CHOICE, log entry 131] -/
def mayCross (s : State) (k i st h : Nat) : Bool :=
  match seamLinkAt s k i st h with
  | some q => decide (seamCredits s q 0 ≠ 0)
  | none => true

/-- Position among an instance's flits in flight of the `k`-th flit of a stream, oldest first. -/
def flightAt (fl : List (Nat × Nat × Flit)) (st k : Nat) : Option Nat :=
  ((fl.zipIdx.filter (fun e => decide (e.1.1 = st)))[k]?).map (·.2)

/-- FLIT_ARRIVAL: a flit crosses one more link of its route, never past an older flit of its stream, and a seam link only with a
credit of its queue; at the last it is written at the sink (R46, R57, R474, R475). -/
def flitArrivalS (k i st m : Nat) (s : State) : State :=
  match instOf s k i, (streamsOf s k)[st]? with
  | some x, some e =>
    (match flightAt x.flight st m with
     | none => s
     | some p =>
       match x.flight[p]? with
       | none => s
       | some (_, h, f) =>
         if (x.flight.take p).any (fun g => decide (g.1 = st ∧ g.2.1 ≤ h)) || !mayCross s k i st h then s
         else if e.hops ≤ h + 1 then
           let s1 := setInst k i (fun x => { x with flight := x.flight.eraseIdx p, bufs := tput x.bufs st (tget [] x.bufs st ++ [f]) }) s
           (match stnAtCell s k i e.sinkCell with
            | some n => pump n s1
            | none => s1)
         else setInst k i (fun x => { x with flight := x.flight.set p (st, h + 1, f) }) s)
  | _, _ => s

def execFlitArrival (launch inst stream k : Nat) (s : State) : Out := ifRun (flitArrivalS launch inst stream k) s

/-- CREDIT_RETURN: a credit on its way back reaches its source. -/
def creditReturnS (k i st : Nat) (s : State) : State :=
  match instOf s k i, (streamsOf s k)[st]? with
  | some x, some e =>
    if tget 0 x.returning st = 0 then s
    else
      let s1 := setInst k i (fun x => { x with
        returning := tset 0 x.returning st (tget 0 x.returning st - 1), credits := tset 32 x.credits st (tget 32 x.credits st + 1) }) s
      (match stnAtCell s k i e.srcCell with
       | some n => pump n s1
       | none => s1)
  | _, _ => s

def execCreditReturn (launch inst stream : Nat) (s : State) : Out := ifRun (creditReturnS launch inst stream) s

end Sys2Proof.Machine
end

