-- ==== Sys2Proof/Machine/Shader.lean ====
section
/-! DEFINITION. Shader Stations: RUN and the arithmetic, special-function, conversion and move instructions
(R188-R190, R197-R204, R213-R216). -/

namespace Sys2Proof.Machine

/-! ### Running an instruction -/

/-- Registers per thread of a station. -/
def nregOf (x : Stn) : Nat := shNreg x.shConfig

/-- The group goes on to its next instruction. -/
def nextPc (y : GroupSt) : GroupSt := { y with pc := y.pc + 8, waiting := none }

/-- A thread group's fault: its number as INDEX, its instruction's offset, and an address or offset (R84, R226). [DEDUCED, log entry 68] -/
def grpFault (u : Grp) (y : GroupSt) (code addr : Nat) (s : State) : State := stationFault u.stn code 2 u.g y.pc addr 0 s

/-- The group holds at its instruction for a reason of R225, with a value. [DESIGN CHOICE, log entry 69] -/
def holdGrp (u : Grp) (why v : Nat) (s : State) : State := setGrp u.stn u.g (fun y => { y with waiting := some (why, v) }) s

/-- Operations of each class; the classes from 0xC on have none (R202). -/
def classOps : List Nat := [16, 6, 8, 5, 10, 2, 3, 5, 3, 2, 7, 3]

/-- A code word's CLASS and OP are those of an instruction (R202). -/
def insKnown (c : Nat) : Bool := decide (bits c 59 54 < nth 0 classOps (bits c 63 60))

/-- Runs the instruction of class `cls` and operation `op` at a group's program counter, where a RUN is in progress, the
group has not ended and is not held at a REST, and the code there is that instruction. Code of another CLASS or OP than an
instruction's is ILLEGAL_INSN, whichever instruction is asked for (R202). -/
def shGo (cls op : Nat) (u : Grp) (w : ShIns) (f : Stn → GroupSt → State → State) (s : State) : State :=
  match (liveOf s u.stn).bind (fun x => (tget? x.groups u.g).map (fun y => (x, y))) with
  | none => s
  | some (x, y) =>
    let rested : Bool := match y.waiting with
      | some (9, _) => true
      | _ => false
    if x.runIdx.isNone ∨ y.ended ∨ rested then s
    else
      match codeAt x y with
      | none => s
      | some c => if ¬ insKnown c then grpFault u y stIllegalInsn 0 s else if c = shWord cls op w then f x y s else s

/-- An instruction's meaning with its checks: a form the operation has, field values it has, and registers below NREG
(R202, R203). [DEDUCED, log entry 68] -/
def shOut (cls op : Nat) (form : Bool) (fieldsOk : Bool) (regs : List Nat) (u : Grp) (w : ShIns)
    (f : Stn → GroupSt → State → State) (s : State) : Out :=
  ifRun (shGo cls op u w (fun x y s =>
    if ¬ form ∨ ¬ fieldsOk then grpFault u y stIllegalInsn 0 s
    else if regs.any (fun r => decide (nregOf x ≤ r)) then grpFault u y stRegRange 0 s
    else f x y s)) s

def form0 (w : ShIns) : Bool := decide (w.form = 0)
def form1 (w : ShIns) : Bool := decide (w.form = 1)
def form01 (w : ShIns) : Bool := form0 w || form1 w

/-- Changes a group at its instruction's end. -/
def stepGrp (u : Grp) (f : GroupSt → GroupSt) (s : State) : State := setGrp u.stn u.g (fun y => nextPc (f y)) s

/-- Register SB, or the immediate in its place (R202). -/
def opB (w : ShIns) (y : GroupSt) (t : Nat) : Word := if w.form = 1 then w.low else greg y (insSb w) t
/-- The register that operand B names, where it names one. -/
def regB (w : ShIns) : List Nat := if w.form = 1 then [] else [insSb w]

/-- The instruction as bytes, for a field that its form lacks. [DESIGN CHOICE, log entry 62] -/
def insKeyOf (w : ShIns) : List Byte := leBytes 8 (shWord 0 0 w)
/-- A modifier that FORM 0 holds in MOD, and FORM 1 has no place for. [DESIGN CHOICE, log entry 62] -/
def modSel (w : ShIns) (hi lo : Nat) : Nat :=
  if w.form = 0 then bits (insMod w) hi lo else Config.openField 10 (insKeyOf w) % 2 ^ (hi + 1 - lo)
/-- The third source of FORM 0. [DESIGN CHOICE, log entry 62] -/
def opC (w : ShIns) (y : GroupSt) (t : Nat) : Word :=
  if w.form = 0 then greg y (insSc w) t else Config.unstated 11 [w.low, BitVec.ofNat 32 t]
def regC (w : ShIns) : List Nat := if w.form = 0 then [insSc w] else []

/-- A value of `n` low bits in a register whose other bits are open. [DEDUCED, log entry 65] -/
def openHigh (tag n v : Nat) (ops : List Word) : Word :=
  BitVec.ofNat 32 (v % 2 ^ n + (Config.unstated tag ops).toNat / 2 ^ n * 2 ^ n)

/-- Writes register DST in each active guarded lane. -/
def laneWrite (w : ShIns) (f : GroupSt → Nat → Word) (y : GroupSt) : GroupSt :=
  (actLanes y w).foldl (fun z t => setReg (insDst w) t (f y t) z) y

/-- Writes predicate DST[2:0] in each active guarded lane. -/
def lanePred (w : ShIns) (f : GroupSt → Nat → Bool) (y : GroupSt) : GroupSt :=
  (actLanes y w).foldl (fun z t => setPred (insDst w % 8) t (f y t) z) y

/-! ### RUN (R198, R199) -/

/-- A group as a RUN starts it. [DEDUCED, log entry 70] -/
def freshGroup (d : List Byte) : GroupSt :=
  { pc := field d 8 4,
    regs := (List.range 8).foldl (fun t r => (List.range 32).foldl (fun t i => tset 0 t (32 * r + i) (BitVec.ofNat 32 (field d (16 + 4 * r) 4))) t) [] }

/-- A RUN starts every resident group; operations left from an earlier RUN count on none of its counters. [DEDUCED, log entry 70] -/
def runGo (n i : Nat) (d : List Byte) (_x : Stn) (s : State) : State :=
  setStn n (fun x => { x with
    runIdx := some i, meets := [],
    xfers := x.xfers.map (fun f => { f with grp := f.grp.map (fun e => (e.1, 4)) }),
    groups := (residents x.shConfig).foldl (fun t g => tput t g (freshGroup d)) [] }) (beginWork n i {} s)

/-- RUN. -/
def execRun (stn : Nat) (s : State) : Out := descOut 0x30 stn (runGo stn) s

/-! ### INT (R202) -/

/-- An integer operation of SA and B, without flags. -/
def intOut (op : Nat) (u : Grp) (w : ShIns) (regs : List Nat) (f : GroupSt → Nat → Word → Word → Word) (s : State) : Out :=
  shOut 0 op (form01 w) true (insDst w :: insSa w :: regs) u w (fun _ _ s =>
    stepGrp u (laneWrite w (fun y t => f y t (greg y (insSa w) t) (opB w y t))) s) s

/-- IADD. -/
def execIadd (u : Grp) (w : ShIns) (s : State) : Out := intOut 0 u w (regB w) (fun _ _ a b => a + b) s
/-- ISUB. -/
def execIsub (u : Grp) (w : ShIns) (s : State) : Out := intOut 1 u w (regB w) (fun _ _ a b => a - b) s
/-- IMUL: the low 32 bits. -/
def execImul (u : Grp) (w : ShIns) (s : State) : Out := intOut 2 u w (regB w) (fun _ _ a b => a * b) s
/-- IMULADD: SA × SB + SC. -/
def execImuladd (u : Grp) (w : ShIns) (s : State) : Out :=
  intOut 3 u w (regB w ++ regC w) (fun y t a b => a * b + opC w y t) s
/-- IMIN, of signed integers. [DEDUCED, log entry 60] -/
def execImin (u : Grp) (w : ShIns) (s : State) : Out := intOut 4 u w (regB w) (fun _ _ a b => if a.toInt ≤ b.toInt then a else b) s
/-- IMAX, of signed integers. [DEDUCED, log entry 60] -/
def execImax (u : Grp) (w : ShIns) (s : State) : Out := intOut 5 u w (regB w) (fun _ _ a b => if b.toInt ≤ a.toInt then a else b) s
/-- AND. -/
def execAnd (u : Grp) (w : ShIns) (s : State) : Out := intOut 6 u w (regB w) (fun _ _ a b => a &&& b) s
/-- OR. -/
def execOr (u : Grp) (w : ShIns) (s : State) : Out := intOut 7 u w (regB w) (fun _ _ a b => a ||| b) s
/-- XOR. -/
def execXor (u : Grp) (w : ShIns) (s : State) : Out := intOut 8 u w (regB w) (fun _ _ a b => a ^^^ b) s
/-- NOT of SA. -/
def execNot (u : Grp) (w : ShIns) (s : State) : Out := intOut 9 u w [] (fun _ _ a _ => ~~~ a) s
/-- SHL; the spec states no result for a shift of 32 or more. [DESIGN CHOICE, log entry 61] -/
def execShl (u : Grp) (w : ShIns) (s : State) : Out :=
  intOut 0x0A u w (regB w) (fun _ _ a b => if b.toNat < 32 then a <<< b.toNat else Config.unstated 12 [a, b]) s
/-- SHR, logical. [DESIGN CHOICE, log entry 61] -/
def execShr (u : Grp) (w : ShIns) (s : State) : Out :=
  intOut 0x0B u w (regB w) (fun _ _ a b => if b.toNat < 32 then a >>> b.toNat else Config.unstated 13 [a, b]) s
/-- SHRA, arithmetic. -/
def execShra (u : Grp) (w : ShIns) (s : State) : Out :=
  intOut 0x0C u w (regB w) (fun _ _ a b => if b.toNat < 32 then a.sshiftRight b.toNat else Config.unstated 14 [a, b]) s
/-- BITCNT of SA. -/
def execBitcnt (u : Grp) (w : ShIns) (s : State) : Out :=
  intOut 0x0D u w [] (fun _ _ a _ => BitVec.ofNat 32 (popCount 32 a.toNat)) s
/-- Leading zeros of a word, 32 of zero. -/
def leadZeros (a : Word) : Nat := if a = 0 then 32 else 31 - ilog2 a.toNat
/-- LEADZ of SA. -/
def execLeadz (u : Grp) (w : ShIns) (s : State) : Out :=
  intOut 0x0E u w [] (fun _ _ a _ => BitVec.ofNat 32 (leadZeros a)) s

/-- A test of an order: 0 equal, 1 not equal, 2 below, 3 at most, 4 above, 5 at least; none for 6 and 7. -/
def testOf (t : Nat) (lt eq : Bool) : Option Bool :=
  if t = 0 then some eq else if t = 1 then some !eq else if t = 2 then some lt else if t = 3 then some (lt || eq)
  else if t = 4 then some !(lt || eq) else if t = 5 then some !lt else none

/-- The predicate that ICMP finds. -/
def icmpVal (w : ShIns) (a b : Word) : Bool :=
  let lt := if bitOf (modSel w 3 0) 3 then decide (a.toNat < b.toNat) else decide (a.toInt < b.toInt)
  (testOf (modSel w 3 0 % 8) lt (decide (a = b))).getD (bitOf (Config.unstated 15 [a, b]).toNat 0)

/-- ICMP. -/
def execIcmp (u : Grp) (w : ShIns) (s : State) : Out :=
  shOut 0 0x0F (form01 w) true (insSa w :: regB w) u w (fun _ _ s =>
    stepGrp u (lanePred w (fun y t => icmpVal w (greg y (insSa w) t) (opB w y t))) s) s

/-! ### FP (R202, R204) -/

/-- A modifier of the FP class; FORM 1 carries none. -/
def fpMod (w : ShIns) (i : Nat) : Bool := decide (w.form = 0) && bitOf (insMod w) i

/-- An operand with its absolute value, and then its negation, taken. [DEDUCED, log entry 63] -/
def signMod (neg abs : Bool) (a : Word) : Word :=
  let b := if abs then a &&& 0x7FFFFFFF#32 else a
  if neg then b ^^^ 0x80000000#32 else b

def fpA (w : ShIns) (y : GroupSt) (t : Nat) : Word := signMod (fpMod w 0) (fpMod w 2) (greg y (insSa w) t)
def fpB (w : ShIns) (y : GroupSt) (t : Nat) : Word := signMod (fpMod w 1) (fpMod w 3) (opB w y t)

/-- Flags that an operation sets over the lanes it acts in. -/
def laneFlags (w : ShIns) (y : GroupSt) (f : Nat → Nat) : Nat := (actLanes y w).foldl (fun a t => a ||| f t) 0

/-- An operation that gives each lane a result and flags. -/
def flagOut (cls op : Nat) (form ok : Bool) (regs : List Nat) (u : Grp) (w : ShIns)
    (f : Bool → GroupSt → Nat → Word × Nat) (s : State) : Out :=
  shOut cls op form ok (insDst w :: regs) u w (fun x y s =>
    let fl := stnFlush s x
    stepGrp u (laneWrite w (fun y t => (f fl y t).1)) (addFlags u.stn (laneFlags w y (fun t => (f fl y t).2)) s)) s

/-- FADD. -/
def execFadd (u : Grp) (w : ShIns) (s : State) : Out :=
  flagOut 1 0 (form01 w) true (insSa w :: regB w) u w (fun fl y t => add32 fl (fpA w y t) (fpB w y t)) s
/-- FMUL. -/
def execFmul (u : Grp) (w : ShIns) (s : State) : Out :=
  flagOut 1 1 (form01 w) true (insSa w :: regB w) u w (fun fl y t => mul32 fl (fpA w y t) (fpB w y t)) s
/-- FMULADD: SA × SB + SC, rounded once. -/
def execFmuladd (u : Grp) (w : ShIns) (s : State) : Out :=
  flagOut 1 2 (form01 w) true (insSa w :: (regB w ++ regC w)) u w (fun fl y t => fma32 fl (fpA w y t) (fpB w y t) (opC w y t)) s
/-- FMIN. -/
def execFmin (u : Grp) (w : ShIns) (s : State) : Out :=
  flagOut 1 3 (form01 w) true (insSa w :: regB w) u w (fun fl y t => ext32 fl false (fpA w y t) (fpB w y t)) s
/-- FMAX. -/
def execFmax (u : Grp) (w : ShIns) (s : State) : Out :=
  flagOut 1 4 (form01 w) true (insSa w :: regB w) u w (fun fl y t => ext32 fl true (fpA w y t) (fpB w y t)) s

/-- The predicate that FCMP finds, and its flags: a NaN gives false for every test but 1. -/
def fcmpVal (flush : Bool) (test : Nat) (a b : Word) : Bool × Nat :=
  let x := readF flush fF32 a.toNat
  let z := readF flush fF32 b.toNat
  let sig := fun v : FV => match v with
    | .nan g => flagIf g fInvalid
    | _ => 0
  let fl := x.2 ||| z.2 ||| sig x.1 ||| sig z.1
  let eq := eqV x.1 z.1
  if 5 < test then (bitOf (Config.unstated 16 [a, b]).toNat 0, fl)
  else if isNanV x.1 || isNanV z.1 then (decide (test = 1), fl)
  else ((testOf test (ltV x.1 z.1 && !eq) eq).getD false, fl)

/-- FCMP. -/
def execFcmp (u : Grp) (w : ShIns) (s : State) : Out :=
  shOut 1 5 (form01 w) true (insSa w :: regB w) u w (fun x y s =>
    let fl := stnFlush s x
    let r := fun (y : GroupSt) (t : Nat) => fcmpVal fl (modSel w 6 4) (fpA w y t) (fpB w y t)
    stepGrp u (lanePred w (fun y t => (r y t).1)) (addFlags u.stn (laneFlags w y (fun t => (r y t).2)) s)) s

/-! ### SFU (R204) -/

/-- Exact value of special function `code` of a value that is not NaN: 0 reciprocal, 1 reciprocal root, 2 root, 3 EXP2,
4 LOG2, 5 SIN, 6 COS, 7 TANH; none where the spec states no result. [DEDUCED, log entry 64] -/
def sfuExact (code : Nat) (v : FV) : Option (FV × Nat) :=
  if code = 0 then some (divV (.fin false 1 0) v)
  else if code = 1 then
    let q := sqrtV v
    some (if isNanV q.1 then q else divV (.fin false 1 0) q.1)
  else if code = 2 then some (sqrtV v)
  else if code = 3 then some (exp2V v, 0)
  else if code = 7 then some (tanhV v, 0)
  else
    match v with
    | .fin neg m e =>
      if code = 4 then (if m = 0 ∨ neg then none else some (log2V m e, 0))
      else some (trigV (decide (code = 6)) neg m e, 0)
    | .inf neg => if code = 4 ∧ ¬ neg then some (.inf false, 0) else none
    | .nan _ => none

/-- A special function of a word: within two units in the last place of its exact value, SIN and COS within 2^−21 (R204);
which value is the hardware's, as is one that the spec does not state. [DEDUCED, log entry 64] -/
def sfuVal (flush : Bool) (code : Nat) (a : Word) : Word × Nat :=
  let x := readF flush fF32 a.toNat
  let raw := Config.sfu code a
  match x.1 with
  | .nan sig => (BitVec.ofNat 32 (canonNan fF32), flagIf sig fInvalid)
  | v =>
    match sfuExact code v with
    | some r =>
      let y := deliver flush false (if code = 5 ∨ code = 6 then .fin false 1 (-21) else twoUlp r.1) r.1 raw
      (y.1, y.2 ||| r.2 ||| x.2)
    | none =>
      if isNanV (decF fF32 raw.toNat) then (BitVec.ofNat 32 (canonNan fF32), fInvalid ||| x.2)
      else
        let p := writeF flush fF32 (raw.toNat, Config.fnFlags code a % 16 / 2 * 2)
        (BitVec.ofNat 32 p.1, p.2 ||| x.2)

/-- A special function of SA. -/
def sfuOut (code : Nat) (u : Grp) (w : ShIns) (s : State) : Out :=
  flagOut 2 code (form0 w) true [insSa w] u w (fun fl y t => sfuVal fl code (greg y (insSa w) t)) s

/-- RCP. -/
def execRcp (u : Grp) (w : ShIns) (s : State) : Out := sfuOut 0 u w s
/-- RSQRT. -/
def execRsqrt (u : Grp) (w : ShIns) (s : State) : Out := sfuOut 1 u w s
/-- SQRT. -/
def execSqrt (u : Grp) (w : ShIns) (s : State) : Out := sfuOut 2 u w s
/-- EXP2. -/
def execExp2 (u : Grp) (w : ShIns) (s : State) : Out := sfuOut 3 u w s
/-- LOG2. -/
def execLog2 (u : Grp) (w : ShIns) (s : State) : Out := sfuOut 4 u w s
/-- SIN. -/
def execSin (u : Grp) (w : ShIns) (s : State) : Out := sfuOut 5 u w s
/-- COS. -/
def execCos (u : Grp) (w : ShIns) (s : State) : Out := sfuOut 6 u w s
/-- TANH. -/
def execTanh (u : Grp) (w : ShIns) (s : State) : Out := sfuOut 7 u w s

/-! ### CONV (R131, R132, R202, R204) -/

/-- A value rounded to an integer, ties to even, and whether it changed. [DEDUCED, log entry 63] -/
def roundInt : FV → Option (Int × Bool)
  | .fin s m e =>
    let r : Nat × Bool := if 0 ≤ e then (m * 2 ^ e.toNat, false) else roundShift m (-e).toNat none
    some (if s then -(r.1 : Int) else r.1, r.2)
  | _ => none

/-- FTOI of a binary32; the spec states no result for a NaN, an infinity or a value outside 32 bits. -/
def ftoiVal (flush : Bool) (a : Word) : Word × Nat :=
  let x := readF flush fF32 a.toNat
  let sig : Nat := match x.1 with
    | .nan g => flagIf g fInvalid
    | _ => 0
  match roundInt x.1 with
  | some (i, lost) =>
    if -(2 ^ 31 : Int) ≤ i ∧ i < 2 ^ 31 then (BitVec.ofInt 32 i, x.2 ||| flagIf lost fInexact)
    else (Config.unstated 17 [a], x.2 ||| Config.fnFlags 17 a % 16)
  | none => (Config.unstated 17 [a], sig ||| Config.fnFlags 17 a % 16)

/-- FTOI. -/
def execFtoi (u : Grp) (w : ShIns) (s : State) : Out :=
  flagOut 3 0 (form0 w) true [insSa w] u w (fun fl y t => ftoiVal fl (greg y (insSa w) t)) s

/-- ITOF of a signed integer. -/
def execItof (u : Grp) (w : ShIns) (s : State) : Out :=
  flagOut 3 1 (form0 w) true [insSa w] u w (fun fl y t => op32 fl (intV (greg y (insSa w) t).toInt, 0) 0) s

/-- FCVT: the low bits of SA to the low bits of DST; the bits above are open. [DEDUCED, log entry 65] -/
def fcvtVal (flush : Bool) (src dst : Nat) (a : Word) : Word × Nat :=
  let r := convF flush src dst none (a.toNat % 2 ^ fmtBits src)
  (openHigh 18 (fmtBits dst) r.1 [a, BitVec.ofNat 32 dst], r.2)

/-- FCVT. [DEDUCED, log entry 65] -/
def execFcvt (u : Grp) (w : ShIns) (s : State) : Out :=
  let src := insMod w % 256
  let dst := insMod w / 256
  flagOut 3 2 (form0 w) (decide (6 ≤ src ∧ src ≤ 0x0A ∧ 6 ≤ dst ∧ dst ≤ 0x0A)) [insSa w] u w
    (fun fl y t => fcvtVal fl src dst (greg y (insSa w) t)) s

/-- PACK2: one register from two values, in a layout the spec does not state. -/
def execPack2 (u : Grp) (w : ShIns) (s : State) : Out :=
  flagOut 3 3 (form0 w) true [insSa w, insSb w] u w (fun _ y t =>
    (Config.unstated 19 [greg y (insSa w) t, greg y (insSb w) t, BitVec.ofNat 32 (insMod w)], 0)) s

/-- UNPACK2: two registers, DST and DST + 1, from the two values that one holds. -/
def execUnpack2 (u : Grp) (w : ShIns) (s : State) : Out :=
  shOut 3 4 (form0 w) true [insDst w, insDst w + 1, insSa w] u w (fun _ _ s =>
    stepGrp u (fun y => (actLanes y w).foldl (fun z t =>
      let v := fun k : Nat => Config.unstated 20 [greg y (insSa w) t, BitVec.ofNat 32 (insMod w), BitVec.ofNat 32 k]
      setReg (insDst w + 1) t (v 1) (setReg (insDst w) t (v 0) z)) y) s) s

/-! ### MOVE (R202) -/

/-- A move into DST of a value of each lane. -/
def moveOut (op : Nat) (regs : List Nat) (u : Grp) (w : ShIns) (f : GroupSt → Nat → Word) (s : State) : Out :=
  shOut 4 op (form01 w) true (insDst w :: regs) u w (fun _ _ s => stepGrp u (laneWrite w f) s) s

/-- MOV of SA. -/
def execMov (u : Grp) (w : ShIns) (s : State) : Out := moveOut 0 [insSa w] u w (fun y t => greg y (insSa w) t) s
/-- MOVI of the immediate, or of SB in whose place it stands. [DEDUCED, log entry 63] -/
def execMovi (u : Grp) (w : ShIns) (s : State) : Out := moveOut 1 (regB w) u w (fun y t => opB w y t) s
/-- SEL: SA where predicate MOD[2:0] is true, else SB. [DEDUCED, log entry 63] -/
def execSel (u : Grp) (w : ShIns) (s : State) : Out :=
  moveOut 2 (insSa w :: regB w) u w (fun y t => if bitOf (predMask y (modSel w 2 0)) t then greg y (insSa w) t else opB w y t) s
/-- THREADNO. -/
def execThreadno (u : Grp) (w : ShIns) (s : State) : Out := moveOut 3 [] u w (fun _ t => BitVec.ofNat 32 t) s
/-- GROUPNO. -/
def execGroupno (u : Grp) (w : ShIns) (s : State) : Out := moveOut 4 [] u w (fun _ _ => BitVec.ofNat 32 u.g) s
/-- STATIONNO: the station identifier (R25). -/
def execStationno (u : Grp) (w : ShIns) (s : State) : Out := moveOut 5 [] u w (fun _ _ => BitVec.ofNat 32 (stnId u.stn)) s
/-- LANEGET: register SA as lane SB holds it; the spec states no result for a lane of 32 or more. -/
def execLaneget (u : Grp) (w : ShIns) (s : State) : Out :=
  moveOut 6 (insSa w :: regB w) u w (fun y t =>
    let l := opB w y t
    if l.toNat < 32 then greg y (insSa w) l.toNat else Config.unstated 21 [greg y (insSa w) t, l]) s

/-- The mode of a LANEPOLL: 0 any, 1 all, 2 mask; code 3 is one of them, unstated. -/
def pollMode (w : ShIns) : Nat :=
  let m := modSel w 1 0
  if m = 3 then Config.openField 12 (insKeyOf w) % 3 else m

/-- LANEPOLL: predicate SA[2:0] over the active lanes. -/
def execLanepoll (u : Grp) (w : ShIns) (s : State) : Out :=
  shOut 4 7 (form01 w) true (if pollMode w = 2 then [insDst w] else []) u w (fun _ y s =>
    let p := predMask y (insSa w % 8)
    let ls := activeLanes y
    let v : Bool := if pollMode w = 0 then ls.any (bitOf p) else ls.all (bitOf p)
    if pollMode w = 2 then stepGrp u (laneWrite w (fun _ _ => BitVec.ofNat 32 (maskOf (ls.filter (bitOf p))))) s
    else stepGrp u (lanePred w (fun _ _ => v)) s) s

/-- The predicates of a thread as bits [7:0]. -/
def predBits (y : GroupSt) (t : Nat) : Nat := maskOf ((List.range 8).filter (fun p => bitOf (predMask y p) t))

/-- PSAVE: p0-p7 into bits [7:0] of DST; the bits above are open. -/
def execPsave (u : Grp) (w : ShIns) (s : State) : Out :=
  moveOut 8 [] u w (fun y t => openHigh 22 8 (predBits y t) [greg y (insDst w) t, BitVec.ofNat 32 (predBits y t)]) s

/-- PLOAD: bits [6:0] of SA into p0-p6. -/
def execPload (u : Grp) (w : ShIns) (s : State) : Out :=
  shOut 4 9 (form01 w) true [insSa w] u w (fun _ _ s =>
    stepGrp u (fun y => (actLanes y w).foldl (fun z t =>
      (List.range 7).foldl (fun z p => setPred p t (bitOf (greg y (insSa w) t).toNat p) z) z) y) s) s

end Sys2Proof.Machine
end

