-- ==== Sys2Proof/Machine/ShaderMem.lean ====
section
/-! DEFINITION. Shader Stations: local-store access, group-matrix instructions, divergence, gather descriptors, stream
ports, locks, semaphores, barriers and rest points (R194, R203, R205-R224). -/

namespace Sys2Proof.Machine

/-! ### Local store (R194, R205) -/

/-- Position of a group among the resident groups. -/
def groupPos (x : Stn) (g : Nat) : Nat := (residents x.shConfig).findIdx (fun h => decide (h = g))

/-- First byte and length of a group's private window, or of the shared region. -/
def regionOf (x : Stn) (g : Nat) (priv : Bool) : Nat × Nat :=
  let size := scratchBytes x.kind x.split
  if priv then (size - (groupPos x g + 1) * shWindow x.shConfig, shWindow x.shConfig)
  else (0, size - shGroups x.shConfig * shWindow x.shConfig)

/-- Local-store byte of an access of `n` bytes at an offset of a region, none where it leaves the region or is not
naturally aligned. -/
def regionAt (x : Stn) (g : Nat) (priv : Bool) (o : Int) (n : Nat) : Option Nat :=
  let r := regionOf x g priv
  if o < 0 then none
  else if o.toNat % n ≠ 0 ∨ r.2 < o.toNat + n then none else some (r.1 + o.toNat)

/-- Bytes that lanes write together: one that several lanes write differently holds the byte of one of them. -/
def putAll (k : Nat) (bs : List (Nat × Byte)) (x : Stn) : Stn :=
  { x with ls := bs.foldl (fun t e =>
      let c := (bs.filter (fun q => decide (q.1 = e.1))).map (·.2)
      let pick := (Config.unstated 30 [Config.freeValue k, BitVec.ofNat 32 e.1]).toNat % c.length
      tset 0 t e.1 (nth 0 c pick)) x.ls }

/-- A store of lanes, each a list of bytes at an address; it draws one open choice. [DEDUCED, log entry 66] -/
def storeLanes (n : Nat) (l : List (Nat × List Byte)) (s : State) : State :=
  setStn n (putAll s.clk.free (l.flatMap (fun e => e.2.zipIdx.map (fun b => (e.1 + b.2, b.1)))))
    { s with clk := { s.clk with free := s.clk.free + 1 } }

/-- LD and ST fields: size in bytes, private, signed byte offset. [DEDUCED, log entry 66] -/
def ldSize (w : ShIns) : Nat := 2 ^ bits (insImm w) 2 0
def ldPriv (w : ShIns) : Bool := bitOf (insImm w) 3
def ldOff (w : ShIns) : Int := signedOf 24 (bits (insImm w) 31 8)
def ldRegs (w : ShIns) : Nat := if ldSize w ≤ 4 then 1 else ldSize w / 4
/-- Byte address of a thread's LD or ST in its region; none outside it. [DEDUCED, log entry 66] -/
def ldAddr (x : Stn) (g : Nat) (w : ShIns) (y : GroupSt) (t : Nat) : Option Nat :=
  regionAt x g (ldPriv w) ((greg y (insSa w) t).toNat + ldOff w) (ldSize w)

/-- The lowest lane whose access is refused, and its offset. -/
def badLane (x : Stn) (g : Nat) (w : ShIns) (y : GroupSt) : Option Nat :=
  ((actLanes y w).find? (fun t => (ldAddr x g w y t).isNone)).map (fun t => ((greg y (insSa w) t).toNat + ldOff w).toNat)

/-- Registers that a load of bytes fills from DST: bits above a load of 1 or 2 bytes are open. -/
def loadWords (w : ShIns) (bs : List Byte) : List Word :=
  if ldSize w < 4 then [openHigh 31 (8 * ldSize w) (leNat bs) [BitVec.ofNat 32 (leNat bs), w.low]]
  else (List.range (ldRegs w)).map (fun k => BitVec.ofNat 32 (field bs (4 * k) 4))

/-- LD. -/
def execLd (u : Grp) (w : ShIns) (s : State) : Out :=
  shOut 5 0 (form1 w) (decide (bits (insImm w) 2 0 ≤ 4)) (insSa w :: (List.range (ldRegs w)).map (insDst w + ·)) u w
    (fun x y s =>
      match badLane x u.g w y with
      | some o => grpFault u y stLocalRange o s
      | none => stepGrp u (fun y => (actLanes y w).foldl (fun z t =>
          let bs := lsRead x ((ldAddr x u.g w y t).getD 0) (ldSize w)
          ((loadWords w bs).zipIdx).foldl (fun z e => setReg (insDst w + e.2) t e.1 z) z) y) s) s

/-- ST: register DST and those after it. -/
def execSt (u : Grp) (w : ShIns) (s : State) : Out :=
  shOut 5 1 (form1 w) (decide (bits (insImm w) 2 0 ≤ 4)) (insSa w :: (List.range (ldRegs w)).map (insDst w + ·)) u w
    (fun x y s =>
      match badLane x u.g w y with
      | some o => grpFault u y stLocalRange o s
      | none => stepGrp u id (storeLanes u.stn ((actLanes y w).map (fun t =>
          ((ldAddr x u.g w y t).getD 0,
           ((List.range (ldRegs w)).flatMap (fun k => leBytes 4 (greg y (insDst w + k) t).toNat)).take (ldSize w)))) s)) s

/-! ### Group matrices (R213-R216) -/

/-- Row and column of the elements that a register of a thread holds, low half first: A, B or C/D. -/
def gmElems (sel t j : Nat) : List (Nat × Nat) :=
  let h := t / 16
  if sel = 0 then [(t % 16, 8 * h + 2 * j), (t % 16, 8 * h + 2 * j + 1)]
  else if sel = 1 then [(8 * h + 2 * j, t % 16), (8 * h + 2 * j + 1, t % 16)]
  else [(t % 16, 8 * h + j)]
def gmRegs (sel : Nat) : Nat := if sel = 2 then 8 else 4
def gmBytes (sel : Nat) : Nat := if sel = 2 then 4 else 2

/-- The element (row, column) of A or B, or of C, as the group's registers hold it; an inactive thread's reads as zero. -/
def gmElem (y : GroupSt) (ls : List Nat) (sel base r c : Nat) : Nat :=
  let t := if sel = 1 then c + 16 * (r / 8) else r + 16 * (c / 8)
  let k := if sel = 1 then r % 8 else c % 8
  if t ∉ ls then 0
  else if sel = 2 then (greg y (base + k) t).toNat
  else (greg y (base + k / 2) t).toNat / 2 ^ (16 * (k % 2)) % 65536

/-- D[m][n]: C plus the exact products in ascending k, a binary32 rounding after each addition; and flags. -/
def gmDot (flush : Bool) (f : Fmt) (y : GroupSt) (ls : List Nat) (a b c m n : Nat) : Word × Nat :=
  (List.range 16).foldl (fun (acc : Word × Nat) k =>
    let p := readF flush f (gmElem y ls 0 a m k)
    let q := readF flush f (gmElem y ls 1 b k n)
    let z := readF flush fF32 acc.1.toNat
    let pr := mulV p.1 q.1
    let sm := addV pr.1 z.1
    let r := op32 flush (sm.1, pr.2 ||| sm.2) (p.2 ||| q.2 ||| z.2)
    (r.1, acc.2 ||| r.2)) (BitVec.ofNat 32 (gmElem y ls 2 c m n), 0)

/-- GMAC. [DEDUCED, log entry 66] -/
def execGmac (u : Grp) (w : ShIns) (s : State) : Out :=
  shOut 6 0 (form0 w) (decide (insSa w % 4 = 0 ∧ insSb w % 4 = 0 ∧ insSc w % 8 = 0 ∧ insDst w % 8 = 0))
    [insSa w + 3, insSb w + 3, insSc w + 7, insDst w + 7] u w
    (fun x y s =>
      let ls := actLanes y w
      let f := if bitOf (insMod w) 0 then fF16 else fBf16
      let el := ls.flatMap (fun t => (List.range 8).map (fun j =>
        (t, j, gmDot (stnFlush s x) f y ls (insSa w) (insSb w) (insSc w) (t % 16) (8 * (t / 16) + j))))
      let s1 := addFlags u.stn (el.foldl (fun a e => a ||| e.2.2.2) 0) s
      let s2 := if ls.length = 32 then s1 else setStn u.stn (fun x => { x with shStatus := x.shStatus ||| 1 }) s1
      stepGrp u (fun y => el.foldl (fun z e => setReg (insDst w + e.2.1) e.1 e.2.2.1 z) y) s2) s

def gmSel (w : ShIns) : Nat := bits (insImm w) 17 16
def gmPitch (w : ShIns) : Nat := bits (insImm w) 15 0
def gmPriv (w : ShIns) : Bool := bitOf (insImm w) 18

/-- Bytes of one access: a row pair of A or an element of C is a word, elements of B lie in two rows. -/
def gmAccess (w : ShIns) : Nat := if gmSel w = 1 then 2 else 4

/-- Local-store byte of an element. -/
def gmAddr (x : Stn) (g : Nat) (w : ShIns) (o r c : Nat) : Option Nat :=
  let e := o + r * gmPitch w + c * gmBytes (gmSel w)
  let n := gmAccess w
  (regionAt x g (gmPriv w) (e / n * n : Nat) n).bind (fun a => if (o + r * gmPitch w) % n = 0 then some (a + e % n) else none)

/-- An element of the operand that some acting thread cannot reach. -/
def gmBad (x : Stn) (g : Nat) (w : ShIns) (ls : List Nat) (o : Nat) : Bool :=
  ls.any (fun t => (List.range (gmRegs (gmSel w))).any (fun j =>
    (gmElems (gmSel w) t j).any (fun e => (gmAddr x g w o e.1 e.2).isNone)))

/-- The checks of GMLOAD and GMSTORE, and the offset that the group gives. -/
def gmOut (op : Nat) (u : Grp) (w : ShIns) (f : Stn → GroupSt → Nat → State → State) (s : State) : Out :=
  shOut 6 op (form1 w) (decide (gmSel w ≤ 2 ∧ insDst w % gmRegs (gmSel w) = 0)) [insSa w, insDst w + gmRegs (gmSel w) - 1] u w
    (fun x y s =>
      let o := (uniform y (activeLanes y) (insSa w)).toNat
      if gmBad x u.g w (actLanes y w) o then grpFault u y stLocalRange o s else f x y o s) s

/-- GMLOAD. -/
def execGmload (u : Grp) (w : ShIns) (s : State) : Out :=
  gmOut 1 u w (fun x _ o s =>
    stepGrp u (fun y => (actLanes y w).foldl (fun z t =>
      (List.range (gmRegs (gmSel w))).foldl (fun z j =>
        let bs := (gmElems (gmSel w) t j).flatMap (fun e => lsRead x ((gmAddr x u.g w o e.1 e.2).getD 0) (gmBytes (gmSel w)))
        setReg (insDst w + j) t (BitVec.ofNat 32 (leNat bs)) z) z) y) s) s

/-- GMSTORE of the operand in registers DST and those after it. -/
def execGmstore (u : Grp) (w : ShIns) (s : State) : Out :=
  gmOut 2 u w (fun x y o s =>
    stepGrp u id (storeLanes u.stn ((actLanes y w).flatMap (fun t => (List.range (gmRegs (gmSel w))).flatMap (fun j =>
      let bs := leBytes 4 (greg y (insDst w + j) t).toNat
      (gmElems (gmSel w) t j).zipIdx.map (fun e =>
        ((gmAddr x u.g w o e.1.1 e.1.2).getD 0, (bs.drop (2 * e.2)).take (gmBytes (gmSel w))))))) s)) s

/-! ### Branches and the mask stack (R202, R203, R211, R212) -/

def brTarget (w : ShIns) : Nat := 8 * bits (insImm w) 15 0
def brJoin (w : ShIns) : Nat := 8 * bits (insImm w) 31 16
def brLevels (w : ShIns) : Nat := insDst w % 16

/-- PRED p7 with PNEG clear. -/
def noGuard (w : ShIns) : Bool := decide (w.pred = 7) && !w.pneg

/-- A branch's meaning: fields it does not use are zero, and its target and join point lie in the code. [DEDUCED, log entry 68] -/
def brOut (op : Nat) (ok : Bool) (points : List Nat) (u : Grp) (w : ShIns) (f : Stn → GroupSt → State → State) (s : State) : Out :=
  shOut 7 op (form1 w) (ok && decide (w.sa = 0)) [] u w (fun x y s =>
    if points.any (fun p => decide (8 * x.code.length ≤ p)) then grpFault u y stCodeRange 0 s else f x y s) s

/-- Sets a group. -/
def putGrp (u : Grp) (y : GroupSt) (s : State) : State := setGrp u.stn u.g (fun _ => y) s

/-- Resumes the next path with lanes left; none where the stack runs out. -/
def popPath (y : GroupSt) : List (Nat × BitVec 32) → Option GroupSt
  | [] => none
  | (pc, m) :: r => if m = 0 then popPath y r else some { y with pc := pc, mask := m, stack := r, waiting := none }

/-- JOIN of R211, from a group. -/
def joinGrp (u : Grp) (y : GroupSt) (s : State) : State :=
  match popPath y y.stack with
  | some z => putGrp u z s
  | none => grpFault u y stMaskUnderflow 0 s

/-- Lanes in which a branch's guard is true. -/
def guardLanes (y : GroupSt) (w : ShIns) : BitVec 32 := BitVec.ofNat 32 (guardMask y w)

/-- JUMP: its guard must agree over the active lanes. -/
def execJump (u : Grp) (w : ShIns) (s : State) : Out :=
  brOut 0 (decide (w.dst = 0 ∧ brJoin w = 0)) [brTarget w] u w (fun _ y s =>
    let p := y.mask &&& guardLanes y w
    if p = y.mask then putGrp u { y with pc := brTarget w, waiting := none } s
    else if p = 0 then putGrp u (nextPc y) s
    else grpFault u y stBranchDiverged 0 s) s

/-- SPLIT. -/
def execSplit (u : Grp) (w : ShIns) (s : State) : Out :=
  brOut 1 (decide (w.dst = 0)) [brTarget w, brJoin w] u w (fun _ y s =>
    if 16 < y.stack.length + 2 then grpFault u y stMaskOverflow 0 s
    else
      let p := guardLanes y w
      let z := { y with
        pc := brTarget w, mask := y.mask &&& p, waiting := none,
        stack := (y.pc + 8, y.mask &&& ~~~p) :: (brJoin w, y.mask) :: y.stack }
      if z.mask = 0 then joinGrp u z s else putGrp u z s) s

/-- JOIN. -/
def execJoin (u : Grp) (w : ShIns) (s : State) : Out :=
  brOut 2 (decide (w.dst = 0 ∧ w.low = 0) && noGuard w) [] u w (fun _ y s => joinGrp u y s) s

/-- LOOPIN. -/
def execLoopin (u : Grp) (w : ShIns) (s : State) : Out :=
  brOut 3 (decide (w.dst = 0 ∧ brTarget w = 0) && noGuard w) [brJoin w] u w (fun _ y s =>
    if 16 < y.stack.length + 1 then grpFault u y stMaskOverflow 0 s
    else putGrp u (nextPc { y with stack := (brJoin w, y.mask) :: y.stack }) s) s

/-- Removes lanes from the masks of a stack's top entries. -/
def dropLanes (gone : BitVec 32) (st : List (Nat × BitVec 32)) : List (Nat × BitVec 32) := st.map (fun e => (e.1, e.2 &&& ~~~gone))

/-- LEAVE: lanes in p leave the loop, and the SPLIT levels open inside it. -/
def leaveGrp (w : ShIns) (y : GroupSt) : GroupSt :=
  let gone := y.mask &&& guardLanes y w
  let k := 2 * brLevels w
  { y with mask := y.mask &&& ~~~gone, stack := dropLanes gone (y.stack.take k) ++ y.stack.drop k }

/-- LEAVE. -/
def execLeave (u : Grp) (w : ShIns) (s : State) : Out :=
  brOut 4 (decide (w.low = 0 ∧ insDst w ≤ 8)) [] u w (fun _ y s =>
    let z := leaveGrp w y
    if z.mask = 0 then joinGrp u z s else putGrp u (nextPc z) s) s

/-! ### Gather descriptors (R206-R209) -/

/-- A group's counter. -/
def ctrOf (y : GroupSt) (c : Nat) : Nat := nth 0 y.counters c

/-- A group takes an operation on a counter. -/
def takeCtr (u : Grp) (c : Nat) (s : State) : State :=
  stepGrp u (fun y => { y with counters := putNth y.counters c (ctrOf y c + 1) }) s

/-- Fields of a gather descriptor. -/
def gdElem (d : List Byte) : Nat := 4 * field d 1 1
def gdCount (d : List Byte) : Nat := field d 4 2
def gdIndex (d : List Byte) : Nat := field d 20 4
def gdData (d : List Byte) : Nat := field d 24 4

/-- Device address of element `j`. -/
def gdAddr (x : Stn) (d : List Byte) (j : Nat) : Nat :=
  if field d 6 1 = 0 then field d 8 8 + leNat (lsRead x (gdIndex d + 4 * j) 4) * field d 16 4
  else leNat (lsRead x (gdIndex d + 8 * j) 8)

/-- GATHER_DESC of a descriptor (R206). -/
def gdBad (x : Stn) (d : List Byte) : Bool :=
  let k := field d 0 1
  decide (k < 1 ∨ 3 < k ∨ field d 1 1 < 1 ∨ 128 < field d 1 1 ∨ gdCount d < 1 ∨ 2048 < gdCount d ∨ 1 < field d 6 1 ∨ field d 7 1 ≠ 0 ∨
    field d 16 4 % 4 ≠ 0 ∨ gdIndex d % 8 ≠ 0 ∨ gdData d % 64 ≠ 0 ∨ (field d 6 1 = 1 ∧ field d 8 8 ≠ 0) ∨
    (k = 3 ∧ (2 < field d 2 1 ∨ 2 < field d 3 1 ∨ field d 1 1 ≠ 1)) ∨ (k ≠ 3 ∧ field d 2 2 ≠ 0)) ||
  !zeroAt d 28 36 || !inScratch x (gdIndex d) (gdCount d * (if field d 6 1 = 0 then 4 else 8)) ||
  !inScratch x (gdData d) (gdCount d * gdElem d) ||
  (List.range (gdCount d)).any (fun j => decide (gdAddr x d j % 4 ≠ 0))

/-- The transfer of a gather descriptor. -/
def gdXfer (s : State) (x : Stn) (g c : Nat) (d : List Byte) : Xfer :=
  { id := s.sch.xseq, kind := (if field d 0 1 = 1 then .gather else if field d 0 1 = 2 then .scatter else .scatterRed), desc := 0,
    grp := some (g, c), lo := 0, hi := 0, eng := 0, redOp := field d 2 1, redTy := field d 3 1,
    pieces := (List.range (gdCount d)).flatMap (fun j =>
      cutRange s x.ctx (gdElem d + 1) (gdAddr x d j) (gdElem d) (gdData d + j * gdElem d)) }

/-- Adds a transfer to a station. -/
def addXfer (n : Nat) (f : Xfer) (s : State) : State :=
  setStn n (fun x => { x with xfers := x.xfers ++ [f] }) { s with sch := { s.sch with xseq := s.sch.xseq + 1 } }

/-- ISSUE: the descriptor at SA goes to the gather engine on counter IMM[1:0]; a full counter holds it. -/
def execIssue (u : Grp) (w : ShIns) (s : State) : Out :=
  let c := insImm w % 4
  shOut 8 0 (form1 w) true [insSa w] u w (fun x y s =>
    let o := (uniform y (activeLanes y) (insSa w)).toNat
    if (actLanes y w).isEmpty then stepGrp u id s
    else if 15 ≤ ctrOf y c then holdGrp u 4 c s
    else
      let d := lsRead x o 64
      if ¬ inScratch x o 64 ∨ gdBad x d then grpFault u y stGatherDesc o s
      else takeCtr u c (addXfer u.stn (gdXfer s x u.g c d) s)) s

/-- GATHER_DONE: every element of a gather is in the scratchpad, or every home has accepted a scatter's writes. [DEDUCED, log entry 70] -/
def gatherDoneS (n k : Nat) (s : State) : State :=
  match (stnOf s n).bind (fun x => x.xfers.find? (fun f =>
    decide (f.id = k ∧ (f.kind = .gather ∨ f.kind = .scatter ∨ f.kind = .scatterRed)))) with
  | some f => if f.pieces.all (fun p => decide (p.st = 2)) then endXfer n f s else s
  | none => s

/-- GATHER_DONE. -/
def execGatherDone (stn x : Nat) (s : State) : Out := ifUp (gatherDoneS stn x) s

/-! ### Device-memory semaphores (R222) -/

/-- MSEMR and MSEMW: the group holds until its add has gone out, or its wait is over. -/
def msemOut (op : Nat) (u : Grp) (w : ShIns) (s : State) : Out :=
  shOut 8 op (form0 w) true [insSa w + 1, insSb w + 1] u w (fun _ y s =>
    let a := uniform64 y (activeLanes y) (insSa w)
    let held : Bool := match y.waiting with
      | some (10, _) => true
      | _ => false
    if held then s
    else if (actLanes y w).isEmpty then stepGrp u id s
    else if a % 8 ≠ 0 ∨ 2 ^ 52 ≤ a then grpFault u y stBadDesc a s
    else setGrp u.stn u.g (fun y => { y with waiting := some (10, 4 * a), mark := s.sch.xseq }) s) s

/-- MSEMR. -/
def execMsemr (u : Grp) (w : ShIns) (s : State) : Out := msemOut 1 u w s
/-- MSEMW. -/
def execMsemw (u : Grp) (w : ShIns) (s : State) : Out := msemOut 2 u w s

/-! ### Stream ports (R210) -/

/-- PRECV and PSEND: flits to or from the scratchpad at SA, on a counter. -/
def portOut (op : Nat) (u : Grp) (w : ShIns) (s : State) : Out :=
  let p := bits (insImm w) 2 0
  let c := bits (insImm w) 5 4
  let k := bits (insImm w) 31 16
  shOut 9 op (form1 w) true [insSa w] u w (fun x y s =>
    let o := (uniform y (activeLanes y) (insSa w)).toNat
    if (actLanes y w).isEmpty then stepGrp u id s
    else if (if op = 0 then noSink s x p else noSource s x p) then grpFault u y stStreamPort 0 s
    else if ¬ inScratch x o (512 * k) then grpFault u y stLocalRange o s
    else if 15 ≤ ctrOf y c then holdGrp u 4 c s
    else
      let f : Xfer := {
        id := s.sch.xseq, kind := (if op = 0 then .precv else .psend), desc := p, grp := some (u.g, c),
        pieces := (List.range k).map (fun i => ⟨o + 512 * i, o + 512 * i, 512, 0⟩), lo := 0, hi := 0, eng := 0 }
      portPump u.stn (takeCtr u c (addXfer u.stn f s))) s

/-- PRECV. -/
def execPrecv (u : Grp) (w : ShIns) (s : State) : Out := portOut 0 u w s
/-- PSEND. -/
def execPsend (u : Grp) (w : ShIns) (s : State) : Out := portOut 1 u w s

/-! ### Synchronisation in a station (R208, R218-R221) -/

/-- Resident groups that have not ended. -/
def liveGroups (x : Stn) : List Nat := (x.groups.filter (fun e => !e.2.ended)).map (·.1)

/-- WAIT: until counter IMM[1:0] is at most IMM[7:4]. [DESIGN CHOICE, log entry 69] -/
def execWait (u : Grp) (w : ShIns) (s : State) : Out :=
  shOut 0x0A 0 (form1 w) true [] u w (fun _ y s =>
    let c := insImm w % 4
    if ctrOf y c ≤ bits (insImm w) 7 4 then stepGrp u id s else holdGrp u 4 c s) s

/-- Barriers at which every group that has not ended has arrived let their groups go on. -/
def openMeets (n : Nat) (s : State) : State :=
  setStn n (fun x =>
    let live := liveGroups x
    let full := (x.meets.filter (fun e => !e.2.isEmpty && live.all (fun g => decide (g ∈ e.2)))).map (·.1)
    { x with
      meets := tfilter x.meets (fun b _ => !decide (b ∈ full)),
      groups := tmap x.groups (fun _ y => match y.waiting with
        | some (7, b) => if b ∈ full then nextPc y else y
        | _ => y) }) s

/-- MEET at barrier IMM[2:0]. -/
def execMeet (u : Grp) (w : ShIns) (s : State) : Out :=
  shOut 0x0A 1 (form1 w) true [] u w (fun x _ s =>
    let b := insImm w % 8
    if u.g ∈ tget [] x.meets b then s
    else openMeets u.stn (holdGrp u 7 b (setStn u.stn (fun x => { x with meets := tput x.meets b (tget [] x.meets b ++ [u.g]) }) s))) s

/-- SEMA: adds signed IMM[31:16] to station semaphore IMM[3:0]. -/
def execSema (u : Grp) (w : ShIns) (s : State) : Out :=
  shOut 0x0A 2 (form1 w) true [] u w (fun _ _ s =>
    let k := insImm w % 16
    stepGrp u id (setStn u.stn (fun x => { x with
      sems := tmod 0 x.sems k (fun v => wrapInt 32 (signedOf 32 v + signedOf 16 (bits (insImm w) 31 16))) }) s)) s

/-- SWAIT: until station semaphore IMM[3:0] is at least SA, as signed values. [DESIGN CHOICE, log entry 69] -/
def execSwait (u : Grp) (w : ShIns) (s : State) : Out :=
  shOut 0x0A 3 (form1 w) true [insSa w] u w (fun x y s =>
    let k := insImm w % 16
    if (uniform y (activeLanes y) (insSa w)).toInt ≤ signedOf 32 (tget 0 x.sems k) then stepGrp u id s else holdGrp u 6 k s) s

/-- Writes a result code to DST in every active thread. -/
def lockCode (u : Grp) (w : ShIns) (v : Nat) (s : State) : State :=
  stepGrp u (fun y => (activeLanes y).foldl (fun z t => setReg (insDst w) t (BitVec.ofNat 32 v) z) y) s

/-- Changes a lock. -/
def setLock (n k : Nat) (v : Option Nat × List Nat) (s : State) : State :=
  setStn n (fun x => { x with locks := tset (none, []) x.locks k v }) s

/-- LOCK: takes a free lock, waits in line for another group's, or answers SELF_HELD. A waiter to which the lock has
passed has it ACQUIRED. [DESIGN CHOICE, log entry 69] -/
def execLock (u : Grp) (w : ShIns) (s : State) : Out :=
  shOut 0x0A 4 (form1 w) true [insDst w] u w (fun x y s =>
    let k := insImm w % 32
    let l := tget (none, []) x.locks k
    match l.1 with
    | none => lockCode u w 0 (setLock u.stn k (some u.g, l.2) s)
    | some h =>
      if h = u.g then lockCode u w (if y.waiting = some (5, k) then 0 else 1) s
      else if u.g ∈ l.2 then s
      else holdGrp u 5 k (setLock u.stn k (some h, l.2 ++ [u.g]) s)) s

/-- TRYLOCK. -/
def execTrylock (u : Grp) (w : ShIns) (s : State) : Out :=
  shOut 0x0A 5 (form1 w) true [insDst w] u w (fun x _ s =>
    let k := insImm w % 32
    let l := tget (none, []) x.locks k
    match l.1 with
    | none => lockCode u w 0 (setLock u.stn k (some u.g, l.2) s)
    | some h => lockCode u w (if h = u.g then 1 else 2) s) s

/-- UNLOCK: the lock passes to the waiter that has waited longest. -/
def execShaderUnlock (u : Grp) (w : ShIns) (s : State) : Out :=
  shOut 0x0A 6 (form1 w) true [] u w (fun x y s =>
    let k := insImm w % 32
    let l := tget (none, []) x.locks k
    if l.1 ≠ some u.g then grpFault u y stLockOwner 0 s
    else stepGrp u id (setLock u.stn k (l.2.head?, l.2.drop 1) s)) s

/-! ### Control (R211, R219, R223) -/

/-- NOP. -/
def execNop (u : Grp) (w : ShIns) (s : State) : Out := shOut 0x0B 0 (form1 w) true [] u w (fun _ _ s => stepGrp u id s) s

/-- The group holds a lock. -/
def holdsLock (x : Stn) (g : Nat) : Bool := x.locks.any (fun e => decide (e.2.1 = some g))

/-- Rest points at which groups that have not ended are held. -/
def restIds (x : Stn) : List Nat :=
  x.groups.filterMap (fun e => match e.2.waiting with
    | some (9, r) => if e.2.ended then none else some r
    | _ => none)

/-- The station marks a rest point once every group that has not ended is held there; groups held at different ones
are REST_MISMATCH. `co` is the byte offset of the instruction that brings it about (R84). -/
def shRest (u : Grp) (co : Nat) (s : State) : State :=
  match stnOf s u.stn with
  | none => s
  | some x =>
    match restIds x with
    | [] => s
    | r :: l =>
      if l.any (fun q => decide (q ≠ r)) then stationFault u.stn stRestMismatch 2 u.g co 0 0 s
      else if l.length + 1 = (liveGroups x).length then markRest u.stn r 2 u.g co s
      else s

/-- An add of a group that has gone on from its MSEMR is to be sent again. [DEDUCED, log entry 93] -/
def semUnsent (x : Stn) (g : Nat) : Bool :=
  x.xfers.any (fun f => decide (f.kind = .semAdd ∧ f.desc = g) && f.pieces.any (fun p => decide (p.st ≠ 1)))

/-- REST: waits for the group's counters, then holds the group at rest point IMM[7:0]. -/
def execRest (u : Grp) (w : ShIns) (s : State) : Out :=
  shOut 0x0B 1 (form1 w) true [] u w (fun x y s =>
    if holdsLock x u.g then grpFault u y stLockHeld 0 s
    else if y.counters.any (fun c => decide (c ≠ 0)) || semUnsent x u.g then holdGrp u 8 (insImm w % 256) s
    else shRest u y.pc (holdGrp u 9 (insImm w % 256) (stepGrp u id s))) s

/-- The RUN in progress completes once every group has ended. -/
def endRun (n : Nat) (s : State) : State :=
  match stnOf s n with
  | none => s
  | some x =>
    match x.runIdx with
    | none => s
    | some i =>
      if (liveGroups x).isEmpty then setWork n i (fun w => { w with st := .fin }) (setStn n (fun x => { x with runIdx := none }) s) else s

/-- END: the active lanes finish; the group goes on where lanes are left, and has ended where none are. -/
def endLanes (y : GroupSt) : GroupSt :=
  match popPath y (dropLanes y.mask y.stack) with
  | some z => z
  | none => { y with mask := 0, stack := [], waiting := none, ended := true }

/-- END. -/
def execFinish (u : Grp) (w : ShIns) (s : State) : Out :=
  shOut 0x0B 2 (form1 w) true [] u w (fun x y s =>
    if holdsLock x u.g then grpFault u y stLockHeld 0 s
    else
      let z := endLanes y
      let s1 := putGrp u z s
      if z.ended then endRun u.stn (shRest u y.pc (openMeets u.stn s1)) else s1) s

end Sys2Proof.Machine
end

