-- ==== Sys2Proof/Machine/Check.lean ====
section
/-! DEFINITION. The Recipe checker (R88, R89, R227): the rest-point order, live sets, bounds, streams and shader code of a
loaded Recipe, and the command RECIPE_CHECK. -/

namespace Sys2Proof.Machine

/-! ### Descriptors in the order a station runs them -/

/-- A station of a Recipe as it would begin. -/
def checkStn (e : Nat × StnEntry) : Stn :=
  { launch := 0, inst := 0, cell := e.1, ctx := 0, kind := e.2.kind, split := e.2.split, descs := e.2.descs, code := e.2.code,
    shConfig := e.2.shConfig }

/-- Stations of a Recipe with their cell indices, without its pass-through cells. -/
def checkStns (r : Recipe) : List Stn :=
  (r.stations.zipIdx.map (fun e => checkStn (e.2, e.1))).filter (fun x => decide (x.kind ≠ 5))

/-- Descriptors in the order they complete, with LOOPs run (R111, R112): index, pass of the innermost LOOP. A LOOP stands
where it completes. -/
def runOrder : Nat → Stn → Nat → List (Nat × Nat)
  | 0, _, _ => []
  | fuel + 1, x, i =>
    match x.descs[i]? with
    | none => []
    | some d =>
      if dOp d = 1 ∧ tget 0 x.loops i + 1 < lpCount d then
        runOrder fuel { x with loops := tset 0 x.loops i (tget 0 x.loops i + 1) } (i - lpBack d)
      else (i, nth 0 (passesOf x i) 0) :: runOrder fuel (if dOp d = 1 then { x with loops := tdel x.loops i } else x) (i + 1)

/-- Everything a station runs. -/
def runAll (x : Stn) : List (Nat × Nat) := runOrder (2 ^ 100) x 0

/-- Rest points that a descriptor itself marks: within a TRACE (R250), and after it (R66). -/
def marksOf (d : List Byte) : List Nat :=
  (if dOp d = 0x40 ∧ field d 27 1 ≠ 0 then List.replicate (field d 28 4 / field d 44 4) (field d 27 1) else []) ++
  (if dRestAfter d then [dRestId d] else [])

/-- DETAIL of a finding: cell index, and stream or descriptor number (R406). -/
def findAt (cell n : Nat) : Nat := cell % 256 * 65536 + n % 65536

/-! ### CHECK_SHADER (R227) -/

/-- A point of a path through shader code: where it stands, its mask stack, the locks it has taken, and those that a
TRYLOCK may have taken. A stack entry is a program counter and what its mask may be: 0 a fall-through's, which may be empty;
1 a join point's, which holds every lane of the active mask; 2 empty. [DESIGN CHOICE, log entry 97] -/
structure ChkPt where
  pc : Nat
  stack : List (Nat × Nat) := []
  held : Nat := 0
  tried : Nat := 0
deriving DecidableEq, Repr

/-- What may follow a point: points of the same path, a rest point with the point after it, whether the group may end, and
whether a finding is there. -/
structure ChkOut where
  next : List ChkPt := []
  rest : Option (Nat × ChkPt) := none
  ends : Bool := false
  bad : Bool := false

/-- The registers that an instruction names, and whether its form and fields are those of R202 and R213. -/
def insShape (cls op : Nat) (w : ShIns) : Bool × List Nat :=
  let d := insDst w
  let a := insSa w
  if cls = 0 then
    (form01 w, if op = 0x0F then a :: regB w else d :: a :: (if op = 9 ∨ op = 0x0D ∨ op = 0x0E then [] else if op = 3 then regB w ++ regC w else regB w))
  else if cls = 1 then (form01 w, if op = 5 then a :: regB w else d :: a :: (if op = 2 then regB w ++ regC w else regB w))
  else if cls = 2 then (form0 w, [d, a])
  else if cls = 3 then
    (form0 w && (decide (op ≠ 2) || decide (6 ≤ insMod w % 256 ∧ insMod w % 256 ≤ 0x0A ∧ 6 ≤ insMod w / 256 ∧ insMod w / 256 ≤ 0x0A)),
     if op = 3 then [d, a, insSb w] else if op = 4 then [d, d + 1, a] else [d, a])
  else if cls = 4 then
    (form01 w, if op = 0 then [d, a] else if op = 1 then d :: regB w else if op = 2 ∨ op = 6 then d :: a :: regB w
      else if op = 7 then (if pollMode w = 2 then [d] else []) else if op = 9 then [a] else [d])
  else if cls = 5 then (form1 w && decide (bits (insImm w) 2 0 ≤ 4), a :: (List.range (ldRegs w)).map (d + ·))
  else if cls = 6 then
    (if op = 0 then
       (form0 w && decide (a % 4 = 0 ∧ insSb w % 4 = 0 ∧ insSc w % 8 = 0 ∧ d % 8 = 0), [a + 3, insSb w + 3, insSc w + 7, d + 7])
     else (form1 w && decide (gmSel w ≤ 2 ∧ d % gmRegs (gmSel w) = 0), [a, d + gmRegs (gmSel w) - 1]))
  else if cls = 7 then
    (form1 w && decide (a = 0) &&
      (if op = 0 then decide (d = 0 ∧ brJoin w = 0) else if op = 1 then decide (d = 0)
       else if op = 2 then decide (d = 0 ∧ w.low = 0) && noGuard w
       else if op = 3 then decide (d = 0 ∧ brTarget w = 0) && noGuard w else decide (w.low = 0 ∧ d ≤ 8)), [])
  else if cls = 8 then (if op = 0 then (form1 w, [a]) else (form0 w, [a + 1, insSb w + 1]))
  else if cls = 9 then (form1 w, [a])
  else if cls = 10 then (form1 w, if op = 3 then [a] else if op = 4 ∨ op = 5 then [d] else [])
  else (form1 w, [])

/-- A code word that raises ILLEGAL_INSN, REG_RANGE or CODE_RANGE, or uses a port that no stream of the station has. -/
def insBad (x : Stn) (ports : List Nat) (c : Nat) : Bool :=
  let w := insOf c
  let cls := bits c 63 60
  let op := bits c 59 54
  let e := insShape cls op w
  let far := fun p : Nat => decide (8 * x.code.length ≤ p)
  !insKnown c || !e.1 || e.2.any (fun r => decide (nregOf x ≤ r)) ||
  (decide (cls = 7 ∧ op ≤ 1) && far (brTarget w)) || (decide (cls = 7 ∧ (op = 1 ∨ op = 3)) && far (brJoin w)) ||
  (decide (cls = 9) && decide (bits (insImm w) 2 0 ∉ ports))

/-- A guard that no data decides: p7 is always true (R201). -/
def guardKnown (w : ShIns) : Option Bool := if w.pred = 7 then some !w.pneg else none

/-- Points at which JOIN may resume, where any of the top `n` entries may have lost its lanes. -/
def resumesAt (p : ChkPt) : Nat → List (Nat × Nat) → List ChkPt
  | _, [] => []
  | n, (pc, k) :: r =>
    if k = 2 then resumesAt p (n - 1) r
    else if k = 1 ∧ n = 0 then [{ p with pc := pc, stack := r }]
    else { p with pc := pc, stack := r } :: resumesAt p (n - 1) r

/-- JOIN may empty the stack. -/
def runsDry : Nat → List (Nat × Nat) → Bool
  | _, [] => true
  | n, (_, k) :: r => (decide (k ≠ 1) || decide (n ≠ 0)) && runsDry (n - 1) r

/-- One instruction of a path. [DESIGN CHOICE, log entry 97] -/
def chkStep (x : Stn) (ports : List Nat) (p : ChkPt) : ChkOut :=
  match x.code[p.pc / 8]? with
  | none => {}
  | some c =>
    let w := insOf c
    let g := guardKnown w
    let on := { p with pc := p.pc + 8 }
    let k := 2 ^ (insImm w % 32)
    let is := fun cls op : Nat => decide (bits c 63 60 = cls ∧ bits c 59 54 = op)
    if insBad x ports c then { bad := true }
    else if is 7 0 then
      { next := (if g = some false then [] else [{ p with pc := brTarget w }]) ++ (if g = some true then [] else [on]) }
    else if is 7 1 then
      let out := (brJoin w, 1) :: p.stack
      if 16 < p.stack.length + 2 then { bad := true }
      else
        { next := (if g = some false then [] else [{ p with pc := brTarget w, stack := (p.pc + 8, if g = some true then 2 else 0) :: out }]) ++
            (if g = some true then [] else [{ on with stack := out }]) }
    else if is 7 2 then { next := resumesAt p 0 p.stack, bad := runsDry 0 p.stack }
    else if is 7 3 then
      if 16 < p.stack.length + 1 then { bad := true } else { next := [{ on with stack := (brJoin w, 1) :: p.stack }] }
    else if is 7 4 then
      let l := 2 * brLevels w
      { next := (if g = some true then [] else [on]) ++ (if g = some false then [] else resumesAt p l p.stack),
        bad := g ≠ some false && runsDry l p.stack }
    else if is 10 4 then { next := [{ on with held := p.held ||| k, tried := p.tried &&& (p.tried ^^^ k) }] }
    else if is 10 5 then { next := [if p.held &&& k = 0 then { on with tried := p.tried ||| k } else on] }
    else if is 10 6 then
      if (p.held ||| p.tried) &&& k = 0 then { bad := true }
      else { next := [{ on with held := p.held &&& (p.held ^^^ k), tried := p.tried &&& (p.tried ^^^ k) }] }
    else if is 11 1 then
      if p.held = 0 then { rest := some (insImm w % 256, { on with tried := 0 }) } else { bad := true }
    else if is 11 2 then
      if p.held = 0 then { next := resumesAt p p.stack.length p.stack, ends := true } else { bad := true }
    else { next := [on] }

/-- Points that a walk reaches from those to do, each once. -/
def walk {α : Type} [DecidableEq α] (next : α → List α) : Nat → List α → List α → List α
  | 0, _, seen => seen
  | _ + 1, [], seen => seen
  | fuel + 1, p :: todo, seen =>
    if p ∈ seen then walk next fuel todo seen else walk next fuel (next p ++ todo) (p :: seen)

/-- Stream ports of a cell that are an end of a stream. -/
def portsOfCell (r : Recipe) (cell : Nat) : List Nat :=
  r.streams.flatMap (fun e => (if e.srcCell = cell then [e.srcPort] else []) ++ (if e.sinkCell = cell then [e.sinkPort] else []))

/-- A path from the ENTRY of a RUN meets a finding. -/
def runFinds (r : Recipe) (x : Stn) (d : List Byte) : Bool :=
  let f := chkStep x (portsOfCell r x.cell)
  (walk (fun p => if (f p).bad then [] else (f p).next ++ ((f p).rest.map (·.2)).toList) (2 ^ 400) [⟨field d 8 4, [], 0, 0⟩] []).any
    (fun p => (f p).bad)

/-- CHECK_SHADER: the first RUN of the first station whose code breaks a rule. -/
def checkShader (r : Recipe) : Option Nat :=
  ((checkStns r).filter (fun x => decide (x.kind = 2))).findSome? (fun x =>
    (x.descs.zipIdx.find? (fun e => decide (dOp e.1 = 0x30) && runFinds r x e.1)).map (fun e => findAt x.cell e.2))

/-! ### CHECK_REST_ORDER -/

/-- Rest points that a descriptor list marks, in order: (REST_ID, descriptor). -/
def restSeq (x : Stn) : List (Nat × Nat) :=
  (runAll x).flatMap (fun e => (marksOf (nth [] x.descs e.1)).map (fun k => (k, e.1)))

/-- Where a second sequence of rest points departs from the first: the descriptor there. [DEDUCED, log entry 96] -/
def restDiffers : List (Nat × Nat) → List (Nat × Nat) → Option Nat
  | [], [] => none
  | _ :: _, [] => some 0
  | [], b :: _ => some b.2
  | a :: r, b :: t => if a.1 = b.1 then restDiffers r t else some b.2

/-- Where a station stands among the rest points it may mark: items of its list gone by, and the point of the code of a RUN
that is in progress. -/
abbrev RestPt := Nat × Option ChkPt

/-- The items of a station's list that bear on rest points: a mark with its number, or a RUN (none) with its index. -/
def restItems (x : Stn) : List (Option Nat × Nat) :=
  (runAll x).flatMap (fun e =>
    let d := nth [] x.descs e.1
    if dOp d = 0x30 then [(none, e.1)] else (marksOf d).map (fun k => (some k, e.1)))

/-- Where a station may go without a mark, and the mark it makes next. A RUN ends, or goes on to the next rest point, as the
group that is left last does. [DESIGN CHOICE, log entry 97] -/
def restMoves (x : Stn) (items : List (Option Nat × Nat)) (q : RestPt) : List RestPt × Option (Nat × RestPt) :=
  match q.2 with
  | some p =>
    let o := chkStep x (List.range 8) p
    (o.next.map (fun z => (q.1, some z)) ++ (if o.ends then [(q.1 + 1, none)] else []),
     o.rest.map (fun e => (e.1, (q.1, some e.2))))
  | none =>
    match items[q.1]? with
    | none => ([], none)
    | some (some k, _) => ([], some (k, (q.1 + 1, none)))
    | some (none, i) => ([(q.1, some ⟨field (nth [] x.descs i) 8 4, [], 0, 0⟩)], none)

/-- The station stands at a fault of its code. -/
def restBad (x : Stn) (q : RestPt) : Bool := (q.2.map (fun p => (chkStep x (List.range 8) p).bad)).getD false

/-- Some run of two stations marks one sequence of rest points in both, up to a fault of shader code where it meets one. -/
def restAgree (x y : Stn) : Bool :=
  let ix := restItems x
  let iy := restItems y
  (walk (fun e : RestPt × RestPt =>
    let a := restMoves x ix e.1
    let b := restMoves y iy e.2
    a.1.map (fun z => (z, e.2)) ++ b.1.map (fun z => (e.1, z)) ++
      (match a.2, b.2 with
       | some m, some n => if m.1 = n.1 then [(m.2, n.2)] else []
       | _, _ => [])) (2 ^ 400) [((0, none), (0, none))] []).any
    (fun e => decide (e = ((ix.length, none), (iy.length, none))) || restBad x e.1 || restBad y e.2)

/-- CHECK_REST_ORDER: the first station whose sequence departs from that of the first station whose descriptors alone mark. [DESIGN CHOICE, log entry 97] -/
def checkRestOrder (r : Recipe) : Option Nat :=
  let l := checkStns r
  match l.find? (fun x => decide (x.kind ≠ 2)) <|> l.head? with
  | none => none
  | some a => l.findSome? (fun b =>
      if a.cell = b.cell then none
      else if a.kind ≠ 2 ∧ b.kind ≠ 2 then (restDiffers (restSeq a) (restSeq b)).map (findAt b.cell)
      else if restAgree a b then none
      else some (findAt b.cell (((restItems b).head?.map (·.2)).getD 0)))

/-! ### CHECK_LIVE_SET -/

/-- Rows of `len` bytes, `pitch` apart, of the scratchpad. -/
def rowUses (wr : Bool) (off pitch n len : Nat) : List Use := (List.range n).map (fun i => (0, wr, off + i * pitch, len))

/-- Rows of an operand entry in the scratchpad, or its accumulator tiles. -/
def opndRows (e : Opnd) (r c : Nat) (wr : Bool) : List Use :=
  if e.src = 8 then rowUses wr e.off e.pitch (stoRows e r c) (rowBytes e.fmt (stoLen e r c)) else opndUse e r c wr

/-- What a descriptor reads and writes of the station's stores on a pass, reads first. -/
def checkUses (x : Stn) (i pass : Nat) : List Use :=
  let d := nth [] x.descs i
  let op := dOp d
  let m := mxM d
  let n := mxN d
  let o := if mxNoOut d then [] else opndRows (opndOn d 72 pass) m n true
  let acc := fun wr : Bool => [((1, wr, mxAcc d, tilesOf m n) : Use)]
  if op = 2 ∨ op = 3 then rowUses (decide (op = 2)) (rsOff d pass) (rsPitch d) (64 * rsTiles d) (rowBytes (rsFmt d) 64)
  else if op = 4 ∨ op = 5 then rowUses (decide (op = 4)) (cpOff d pass) (cpPitch d) (cpRows d) (cpRowBytes d)
  else if op = 0x10 ∨ op = 0x11 ∨ op = 0x12 then
    (if op = 0x11 then opndRows (convImage d pass).1 (convImage d pass).2.1 (convImage d pass).2.2 false
     else opndRows (opndOn d 24 pass) m (mxKA d) false) ++
    opndRows (opndOn d 40 pass) (mxKB d) n false ++ opndRows (opndOn d 56 pass) m n false ++ epiUse d m n ++
    (if mxSparseA d || mxSparseB d then [(0, false, mxMetaOff d, metaSpan d)] else []) ++
    (if mxWiden d ≠ 0 then [(0, false, mxWidenOff d, widenBytes d (opndAt d 40).fmt)] else []) ++
    (if mxKeep d then acc false else []) ++ acc true ++ o
  else if op = 0x13 then
    let tiles := [((1, true, field d 9 1, ceilDiv (attnCols x i) 64) : Use), (2, true, field d 10 1, 1), (2, true, field d 11 1, 1)]
    opndRows (opndOn d 16 pass) 64 (attnCols x i) false ++ [(1, false, field d 8 1, 1)] ++
      (if field d 13 1 = 1 then [] else tiles.map (fun u => (u.1, false, u.2.2))) ++ tiles
  else if op = 0x14 then
    acc false ++ [(2, false, attnSum x i, 1)] ++ epiUse d m n ++ (if mxNoOut d then acc true else []) ++ o
  else if op = 0x20 then
    opndRows (opndOn d 24 pass) m n false ++ epiUse d m n ++ (if mxNoOut d then acc true else []) ++ o
  else if op = 0x21 then
    opndRows (opndOn d 8 pass) (field d 24 2) (field d 26 2) false ++ [(2, true, field d 30 1, ceilDiv (rdCount d) 64)]
  else if op = 0x40 then
    (if field d 24 1 = 0 then [(0, false, field d 32 4, 3072 * field d 28 4)] else []) ++
      (if field d 25 1 = 0 then [(0, true, field d 36 4, 2048 * field d 28 4)] else [])
  else if op = 0x41 then
    (if field d 16 1 = 8 then [(0, false, field d 20 4, 16 * field d 8 4)] else []) ++ [(0, false, field d 28 4, 16 * field d 13 1)] ++
      (if field d 17 1 = 8 then [(0, true, field d 24 4, field d 8 4 * field d 13 1 * field d 14 1 * 2)] else [])
  else if op = 0x42 then
    [(0, false, field d 16 4, 4 * field d 8 4 * field d 15 1)] ++
      (if field d 20 1 = 8 then [(0, true, field d 24 4, field d 8 4 * field d 14 1 * (fmtBits (field d 13 1) / 8))] else [])
  else []

/-- A range that a later descriptor reads: kind, first, end, and that descriptor. -/
abbrev Need := Nat × Nat × Nat × Nat

/-- A need without the range [a, b) of its kind. -/
def cutNeed (k a b : Nat) (u : Need) : List Need :=
  if u.1 ≠ k ∨ b ≤ u.2.1 ∨ u.2.2.1 ≤ a then [u]
  else (if u.2.1 < a then [(u.1, u.2.1, a, u.2.2.2)] else []) ++ (if b < u.2.2.1 then [(u.1, b, u.2.2.1, u.2.2.2)] else [])

/-- Needs without a list of ranges (kind, first, end). -/
def cutNeeds (l : List (Nat × Nat × Nat)) (us : List Need) : List Need :=
  l.foldl (fun us g => us.flatMap (cutNeed g.1 g.2.1 g.2.2)) us

/-- Ranges of a cell that a rest point's live set names (R70): vector registers are 256 bytes each. -/
def liveRanges (r : Recipe) (cell k : Nat) : List (Nat × Nat × Nat) :=
  (r.rests.filter (fun e => decide (e.id = k))).flatMap (fun e =>
    ((r.lives.drop e.liveFirst).take e.liveCount).flatMap (fun v =>
      if v.cell ≠ cell then []
      else if v.ty = 1 then [(0, v.a, v.a + v.b)]
      else if v.ty = 2 then (bitsSet 16 v.a).map (fun t => (1, t, t + 1))
      else if v.ty = 3 then [(2, ceilDiv v.a 256, (v.a + v.b) / 256)]
      else []))

/-- Goes back through a station's descriptors from the last: needs of what follows, and the earliest need that a rest point
neither holds live nor leaves to be written. -/
def liveBack (r : Recipe) (x : Stn) : List (Nat × Nat) → List Need × Option Need
  | [] => ([], none)
  | e :: l =>
    let t := liveBack r x l
    let us := checkUses x e.1 e.2
    let late := (marksOf (nth [] x.descs e.1)).findSome? (fun k => (cutNeeds (liveRanges r x.cell k) t.1).head?)
    let rest := cutNeeds ((us.filter (fun u => u.2.1)).map (fun u => (u.1, u.2.2.1, u.2.2.1 + u.2.2.2))) t.1
    ((us.filter (fun u => !u.2.1 && decide (u.2.2.2 ≠ 0))).map (fun u => (u.1, u.2.2.1, u.2.2.1 + u.2.2.2, e.1)) ++ rest, late <|> t.2)

/-- CHECK_LIVE_SET of stations whose reads their descriptors alone give. [DESIGN CHOICE, log entry 97] -/
def checkLive (r : Recipe) : Option Nat :=
  ((checkStns r).filter (fun x => decide (x.kind = 1 ∨ x.kind = 3))).findSome? (fun x =>
    (liveBack r x (runAll x)).2.map (fun u => findAt x.cell u.2.2.2))

/-! ### CHECK_BOUND -/

/-- Half cycles that the array takes for each step of K of one output tile (R120, R121): 1 where q is 2, 2 where it is 1,
4 where it is half. -/
def halfCycles (a b : Nat) : Nat :=
  if a = 1 ∧ b = 1 then 1 else if a ∈ [8, 9] ∨ b ∈ [8, 9] then 4 else 2

/-- ARITH cycles that the array takes for a descriptor, with nothing waited for. A slab that the Sieve skips takes none (R119). -/
def arrayCycles (x : Stn) (i : Nat) : Nat :=
  let d := nth [] x.descs i
  let op := dOp d
  let wide := if mxWiden d = 0 then (opndAt d 40).fmt else mxWidenTo d
  if (op = 0x10 ∨ op = 0x11 ∨ op = 0x12) ∧ ¬ mxSieve d then
    tilesOf (mxM d) (mxN d) * ceilDiv (mxK d * halfCycles (opndAt d 24).fmt wide) (if mxSparseA d || mxSparseB d then 4 else 2)
  else if op = 0x13 then ceilDiv (attnCols x i) 64 * ceilDiv (64 * halfCycles (field d 12 1) (opndAt d 16).fmt) 2
  else 0

/-- What a descriptor takes from streams and then sends: (stream, flits). -/
def chkFlows (r : Recipe) (x : Stn) (i : Nat) : List (Nat × Nat) × List (Nat × Nat) :=
  let d := nth [] x.descs i
  let op := dOp d
  let find := fun (p : StreamEntry → Bool) => (r.streams.findIdx? p).toList
  let into := fun (q n : Nat) => (find (fun e => decide (e.sinkCell = x.cell ∧ e.sinkPort = q))).map (fun s => (s, n))
  let outOf := fun (q n : Nat) => (find (fun e => decide (e.srcCell = x.cell ∧ e.srcPort = q))).map (fun s => (s, n))
  if op = 2 then (into (rsPort d) (rsTiles d * tileFlits (rsFmt d) (64, 64)), [])
  else if op = 3 then ([], outOf (rsPort d) (rsTiles d * tileFlits (rsFmt d) (64, 64)))
  else if op = 0x50 ∨ op = 0x51 then
    let f := [(fsStream d, sumNat ((List.range (fsTiles d)).map (fun t => tileFlits (fsFmt d) (fsDim d t))))]
    if op = 0x50 then ([], f) else (f, [])
  else
    ((feedsOf x i).flatMap (fun f => into f.port (feedLen f)),
     if op ∈ [0x10, 0x11, 0x14, 0x20] ∧ ¬ mxNoOut d ∧ (opndAt d 72).src ≤ 7 then
       outOf (opndAt d 72).src (sumNat ((tileDims (opndAt d 72) (mxM d) (mxN d) false).map (tileFlits (opndAt d 72).fmt)))
     else [])

/-- Cycles from a stream's first of `n` flits to its last in its own slots and phases (R52, R56, R57). -/
def streamCycles (r : Recipe) (st n : Nat) : Nat :=
  match r.streams[st]? with
  | some e => (n - 1) / (popCount 16 e.slotMask * popCount 64 e.phaseMask) * (16 * r.period)
  | none => 0

/-- A station's stretches: the rest point left (0 at the start) and the descriptors run, in order. -/
def stretchesOf (x : Stn) : Nat → List Nat → List (Nat × Nat) → List (Nat × List Nat)
  | k, acc, [] => [(k, acc.reverse)]
  | k, acc, e :: l =>
    match marksOf (nth [] x.descs e.1) with
    | [] => stretchesOf x k (e.1 :: acc) l
    | q :: qs => (k, (e.1 :: acc).reverse) :: ((q :: qs).dropLast.map (fun z => (z, []))) ++ stretchesOf x ((q :: qs).getLastD q) [] l

/-- The least cycles of a stretch at a station: those of its array, and those of each stream's flits. -/
def stretchCycles (r : Recipe) (x : Stn) (ds : List Nat) : Nat :=
  let flows := ds.flatMap (fun i => (chkFlows r x i).2)
  ((List.range r.streams.length).map (fun st =>
    streamCycles r st (sumNat ((flows.filter (fun f => decide (f.1 = st))).map (·.2))))).foldl max (sumNat (ds.map (arrayCycles x)))

/-- CHECK_BOUND: the first station with a stretch that cannot end within its bound, and the stretch's first descriptor.
[DESIGN CHOICE, log entry 97] -/
def checkBound (r : Recipe) : Option Nat :=
  (checkStns r).findSome? (fun x =>
    ((stretchesOf x 0 [] (runAll x)).find? (fun e =>
      decide (((if e.1 = 0 then some r.startBound else (r.rests.find? (fun q => decide (q.id = e.1))).map (·.runBound)).getD (2 ^ 32))
        < stretchCycles r x e.2))).map (fun e => findAt x.cell (e.2.headD 0)))

/-! ### CHECK_DEADLOCK -/

/-- A station of a run without memory: what it has still to start, and what it has begun, with the flits that each descriptor
has still to take and then to send, by stream. -/
structure DlStn where
  x : Stn
  todo : List (Nat × Nat)
  act : List (Nat × List (Nat × Nat) × List (Nat × Nat)) := []
deriving DecidableEq

/-- Streams with an end at a station whose use of its ports its descriptors do not give: it never makes the other end wait. -/
def freeEnd (r : Recipe) (st : Nat) (source : Bool) : Bool :=
  match r.streams[st]? with
  | some e => ((r.stations[if source then e.srcCell else e.sinkCell]?).map (fun c => decide (c.kind = 2 ∨ c.kind = 3))).getD true
  | none => true

/-- Moves the flits that can move of one list; `bufs` holds each stream's flits, and `used` the streams that an earlier
descriptor of the station still waits on. -/
def dlMove (r : Recipe) (take : Bool) (used : List Nat) : List (Nat × Nat) → Tbl Nat → List (Nat × Nat) × Tbl Nat
  | [], bufs => ([], bufs)
  | (st, n) :: l, bufs =>
    let b := tget 0 bufs st
    let k := if st ∈ used then 0 else if freeEnd r st take then n else min n (if take then b else 32 - b)
    let t := dlMove r take used l (if freeEnd r st take then bufs else tput bufs st (if take then b - k else b + k))
    ((st, n - k) :: t.1, t.2)

/-- Nothing of a list is left. -/
def dlDone (l : List (Nat × Nat)) : Bool := l.all (fun e => decide (e.2 = 0))

/-- Moves the flits of a station's descriptors, in the order they began. -/
def dlAct (r : Recipe) : List Nat → List (Nat × List (Nat × Nat) × List (Nat × Nat)) → Tbl Nat →
    List (Nat × List (Nat × Nat) × List (Nat × Nat)) × Tbl Nat
  | _, [], bufs => ([], bufs)
  | used, (i, ins, outs) :: l, bufs =>
    let a := dlMove r true used ins bufs
    let b := if dlDone a.1 then dlMove r false used outs a.2 else (outs, a.2)
    let t := dlAct r (used ++ (ins ++ outs).map (·.1)) l b.2
    ((i, a.1, b.1) :: t.1, t.2)

/-- Ends what is done, marking its rest point, and begins the next descriptor where R96 and R231 let it. -/
def dlStart (r : Recipe) (e : DlStn) : DlStn :=
  let fin := e.act.filter (fun a => dlDone a.2.1 && dlDone a.2.2)
  let act := e.act.filter (fun a => !(dlDone a.2.1 && dlDone a.2.2))
  let x := { e.x with
    works := tfilter e.x.works (fun i _ => act.any (fun a => decide (a.1 = i))),
    marked := fin.foldl (fun m a => ((marksOf (nth [] e.x.descs a.1)).getLast?).getD m) e.x.marked }
  match e.todo with
  | [] => { e with x := x, act := act }
  | (i, pass) :: l =>
    if mayStart x i then
      { x := { x with works := tput x.works i { passes := [pass] } }, todo := l, act := act ++ [(i, chkFlows r x i)] }
    else { e with x := x, act := act }

/-- One round over the stations; a rest point that every station has marked lets them go on. -/
def dlRound (r : Recipe) (l : List DlStn) (bufs : Tbl Nat) : List DlStn × Tbl Nat :=
  let t := l.foldl (fun (a : List DlStn × Tbl Nat) e =>
    let m := dlAct r [] e.act a.2
    (a.1 ++ [dlStart r { e with act := m.1 }], m.2)) ([], bufs)
  if t.1.all (fun e => decide (e.x.marked ≠ 0) || (e.todo.isEmpty && e.act.isEmpty)) then
    (t.1.map (fun e => { e with x := { e.x with marked := 0 } }), t.2)
  else t

/-- The run until nothing changes. -/
def dlRun (r : Recipe) : Nat → List DlStn → Tbl Nat → List DlStn
  | 0, l, _ => l
  | fuel + 1, l, bufs =>
    let t := dlRound r l bufs
    if t.1 = l ∧ t.2 = bufs then l else dlRun r fuel t.1 t.2

/-- Streams that a station waits on, with the cell at their other end. -/
def dlWaits (r : Recipe) (e : DlStn) : List (Nat × Nat) :=
  if e.x.marked ≠ 0 then []
  else e.act.flatMap (fun a =>
    let l := if dlDone a.2.1 then a.2.2 else a.2.1
    (l.filter (fun f => decide (f.2 ≠ 0))).filterMap (fun f =>
      (r.streams[f.1]?).map (fun s => (f.1, if dlDone a.2.1 then s.sinkCell else s.srcCell))))

/-- Stations that wait on one another: those whose waits lead nowhere else are left out, one after another. -/
def dlCycle (r : Recipe) (l : List DlStn) : Nat → List Nat → List Nat
  | 0, c => c
  | n + 1, c => dlCycle r l n (c.filter (fun k => l.any (fun e => decide (e.x.cell = k) && (dlWaits r e).any (fun w => decide (w.2 ∈ c)))))

/-- CHECK_DEADLOCK: the first station, and its stream, of those that wait on one another where the run stands still. [DESIGN CHOICE, log entry 97] -/
def checkDeadlock (r : Recipe) : Option Nat :=
  let l := dlRun r (2 ^ 100) (((checkStns r).filter (fun x => decide (x.kind = 1 ∨ x.kind = 4))).map (fun x => { x := x, todo := runAll x })) []
  let c := dlCycle r l l.length (l.map (·.x.cell))
  (l.find? (fun e => decide (e.x.cell ∈ c))).map (fun e =>
    findAt e.x.cell ((((dlWaits r e).find? (fun w => decide (w.2 ∈ c))).map (·.1)).getD 0))

/-! ### The command -/

/-- The checker's first finding in the order of R88's table: status and DETAIL. [DESIGN CHOICE, log entry 97] -/
def checkFinding (r : Recipe) : Option (Nat × Nat) :=
  [checkDeadlock, checkRestOrder, checkLive, checkBound, checkShader].zipIdx.findSome? (fun e =>
    (e.1 r).map (fun d => (stCheckDeadlock + e.2, d)))

/-- RECIPE_CHECK (R88, R89): the checker's first finding, or CHECK_OK and the checked mark. -/
def recipeCheckS (u : Queue) (c : TakenCmd) (s : State) : State :=
  match recipeOf s c.ctx (par c 0 2) with
  | none => finishCmd u.num c.seq stBadParam 0 s
  | some (k, r) =>
    match checkFinding r with
    | some (st, d) => finishCmd u.num c.seq st d s
    | none => finishCmd u.num c.seq stCheckOk 0 { s with sch := { s.sch with
        recipes := tput s.sch.recipes k { r with checked := true } } }

def execRecipeCheck (q seq : Nat) (s : State) : Out := cmdOut 0x0302 q seq recipeCheckS s

end Sys2Proof.Machine
end

