-- ==== Sys2Proof/Machine/Piper.lean ====
section
/-! DEFINITION. The Piper (R160-R184): hand-overs, selection and claims, delivery of blocks, results and the combine
buffer, the load record. -/

namespace Sys2Proof.Machine

/-! ### Plans -/

/-- Changes a plan, and an expert's record in it. -/
def setPlan (k : Nat) (f : Plan → Plan) (s : State) : State := { s with pip := { s.pip with plans := tupd s.pip.plans k f } }
def setExpert (k e : Nat) (f : PExpert → PExpert) (s : State) : State :=
  setPlan k (fun pl => { pl with experts := tput pl.experts e (f (tget {} pl.experts e)) }) s
def expertOf (s : State) (k e : Nat) : PExpert := ((tget? s.pip.plans k).map (fun pl => tget {} pl.experts e)).getD {}

/-- An activated plan and its bytes. -/
def livePlan (s : State) (k : Nat) : Option (Plan × List Byte) :=
  (tget? s.pip.plans k).bind (fun pl => pl.bytes.map (fun p => (pl, p)))

/-- The station of a role. -/
def roleOf (s : State) (pl : Plan) (role : Nat) : Option Nat := roleStn s pl.launches role

/-! ### Selection (R162, R163) -/

/-- Score `a` ranks above score `b`: a NaN below every number. -/
def ranksAbove (a b : Word) : Bool :=
  let x := decF fF32 a.toNat
  let y := decF fF32 b.toNat
  if isNanV x then false else if isNanV y then true else ltV y x && !eqV y x

/-- The best expert of a list of (expert, score), the first of equals. -/
def bestOf : List (Nat × Word) → Option (Nat × Word)
  | [] => none
  | a :: r =>
    match bestOf r with
    | none => some a
    | some b => if ranksAbove b.2 a.2 then some b else some a

/-- The `n` highest, in rank order. -/
def chooseTop : Nat → List (Nat × Word) → List Nat
  | 0, _ => []
  | n + 1, l =>
    match bestOf l with
    | none => []
    | some b => b.1 :: chooseTop n (l.filter (fun e => !decide (e.1 = b.1)))

/-- Logit of expert `e` for row `i` of ring slot `k` of router `r`, and its selection bias. -/
def logitOf (x : Stn) (p : List Byte) (r k i e : Nat) : Word :=
  BitVec.ofNat 32 (leNat (lsRead x (rtLogits p r + (k * 64 + i) * plLogitPitch p + 4 * e) 4))
def biasOf (x : Stn) (p : List Byte) (r e : Nat) : Word := tget 0 x.vreg (64 * rtBiasVreg p r + e)

/-- Experts of a row in rank order. -/
def chosenOf (flush : Bool) (x : Stn) (p : List Byte) (r k i : Nat) : List Nat :=
  chooseTop (plTopK p) ((liveExperts p).map (fun e =>
    let l := logitOf x p r k i e
    (e, if rtBiasOn p r = 1 then (add32 flush l (biasOf x p r e)).1 else l)))

/-- Softmax gate of logit `l` among a list of logits: e^l over the sum of their exponentials, each taken below the largest.
[DESIGN CHOICE, log entry 72] -/
def softGate (flush : Bool) (among : List Word) (l : Word) : Word :=
  let v := fun w : Word => (readF flush fF32 w.toNat).1
  let top := among.foldl (fun a w => if isNanV a || isNanV (v w) then .nan false else if ltV a (v w) then v w else a) (FV.inf true)
  let ex := fun w : Word => expV (addV (v w) (negV top)).1
  let q := (divV (ex l) (among.foldl (fun a w => (addV a (ex w)).1) (.fin false 0 0))).1
  (deliver flush true (mulV (gapV q (.fin false 0 0)) (.fin false (among.length + 16) (-21))).1 q (Config.unstated 40 (l :: among))).1

/-- Gates of the chosen experts, in rank order: the softmax or sigmoid that the mode names, within the roundings of its steps;
NORMALISE divides by their binary32 sum, whose order is open past two. [DESIGN CHOICE, log entry 72; DESIGN CHOICE, log entry 85] -/
def gatesOf (flush : Bool) (x : Stn) (p : List Byte) (r k i : Nat) (es : List Nat) : List Word :=
  let m := plGateMode p % 4
  let lg := logitOf x p r k i
  let among := if m = 0 then es.map lg else (liveExperts p).map lg
  let val := fun w : Word => (readF flush fF32 w.toNat).1
  let g := es.map (fun e =>
    if m = 3 then 0x3F800000#32
    else if m = 2 then
      let v := sigmoidV (val (lg e))
      (deliver flush true (twoUlp v) v (Config.unstated 41 [lg e])).1
    else softGate flush among (lg e))
  if bitOf (plGateMode p) 2 ∧ (m = 1 ∨ m = 2) then
    let sum := (sumV flush (g.map val)).1
    g.map (fun v => (div32 flush v sum).1)
  else g

/-! ### The combine buffer (R175-R177, R182) -/

/-- Address of a pair's row under R175. -/
def pairAddr (p : List Byte) (t j : Nat) : Nat :=
  if plCombineSum p then plCombineBase p + t * plOutPitch p else plCombineBase p + (t * plTopK p + j) * plOutPitch p

/-- Bytes of a result row. -/
def outRowBytes (p : List Byte) : Nat := rowBytes (plOutFmt p) (plOutElems p)

/-- Reductions of a row of bytes into the combine row, one a line: ordered, with the rank as SEQ; `live` false adds nothing. [DEDUCED, log entry 87] -/
def sumRow (k c : Nat) (p : List Byte) (t j : Nat) (live : Bool) (row : List Byte) (s : State) : State :=
  (linesOf (pairAddr p t j) (outRowBytes p)).foldl (fun s e =>
    match translate s c e.1 with
    | none => s
    | some q =>
      let ty := if plOutFmt p = 0x0A then 0 else 1
      let w := redBytes ty
      let mask := if live then maskOf ((List.range (e.2.2 / w)).map (fun i => q.off / w + i)) else 0
      let o : RedOp := { op := 0, ty := ty, mask := mask, ordered := true, seq := j, count := plTopK p,
                         data := zeros q.off ++ (row.drop e.2.1).take e.2.2 ++ zeros (128 - q.off - e.2.2) }
      homeRequest (.red ⟨q.stack, q.line, c, q.handle, .piper k⟩ o) s) s

/-- Places the result row of a pair. [DEDUCED, log entry 87] -/
def placeRow (k c : Nat) (p : List Byte) (t j : Nat) (row : List Byte) (s : State) : State :=
  if plCombineSum p then sumRow k c p t j true row s else ctxWrite c (pairAddr p t j) row (.piper k) s

/-- A dropped, spilled or lost pair: zeros, or nothing added (R176). [DEDUCED, log entry 87] -/
def placeNone (k c : Nat) (p : List Byte) (t j : Nat) (s : State) : State :=
  if plCombineSum p then sumRow k c p t j false (zeros (outRowBytes p)) s
  else ctxWrite c (pairAddr p t j) (zeros (outRowBytes p)) (.piper k) s

/-- Adds to a semaphore of the plan's context. -/
def piperAdd (c a v : Nat) (s : State) : State :=
  match translate s c a with
  | none => s
  | some p => homeRequest (semAddReq p.stack p.line p.off c p.handle v (.core pd0)) s

/-- The load record (R182), by the die of router 0. -/
def loadRecord (s : State) (pl : Plan) (p : List Byte) : List Byte :=
  let d := roleDie s pl.launches (rtRole p 0)
  layout 64 [(0, leBytes 4 0x0C03), (4, leBytes 2 (plExperts p)), (6, leBytes 1 d), (8, leBytes 4 (plTokens p)),
    (12, leBytes 4 pl.unserved), (16, leBytes 8 (refOf s d)), (24, leBytes 4 pl.spillUsed), (28, leBytes 4 pl.spillFull),
    (32, leBytes 4 pl.lost)] ++
  (List.range (plExperts p)).flatMap (fun e =>
    let x := tget {} pl.experts e
    leBytes 4 x.claimed ++ leBytes 4 x.accepted ++ leBytes 4 x.dropped ++ leBytes 4 x.spilled)

/-- The adds owed to COMBINE_SEM go out once every row placed before is accepted; the load record goes before the last. [DEDUCED, log entry 87] -/
def payCombine (k : Nat) (pl : Plan) (p : List Byte) (s : State) : State :=
  pl.owed.foldl (fun s v => setPlan k (fun pl => { pl with combined := pl.combined + v }) (piperAdd pl.ctx (plCombineSem p) v s))
    (setPlan k (fun pl => { pl with owed := [] }) s)

def piperFlush (k : Nat) (s : State) : State :=
  match livePlan s k with
  | none => s
  | some (pl, p) =>
    if pl.owed.isEmpty ∨ homeAsked s (.piper k) then s
    else if pl.combined + sumNat pl.owed < plTokens p * plTopK p ∨ pl.recorded then payCombine k pl p s
    else
      let s1 := setPlan k (fun pl => { pl with recorded := true }) (ctxWrite pl.ctx (plLoadBase p) (loadRecord s pl p) (.piper k) s)
      if homeAsked s1 (.piper k) then s1 else payCombine k pl p s1

/-- Owes an add to COMBINE_SEM. -/
def owe (k v : Nat) (s : State) : State := if v = 0 then s else setPlan k (fun pl => { pl with owed := pl.owed ++ [v] }) s

/-! ### Claims (R165-R168) -/

/-- Rows an expert accepts from a router, and those granted so far. -/
def quotaOf (p : List Byte) (r : Nat) : Nat :=
  if plCapSplit p then plCapacity p / plRouters p + (if r < plCapacity p % plRouters p then 1 else 0) else plCapacity p
def grantedTo (p : List Byte) (x : PExpert) (r : Nat) : Nat := if plCapSplit p then tget 0 x.quota r else x.accepted

/-- A spill entry (R168). -/
def spillBytes (p : List Byte) (t e j : Nat) (gate : Word) (row : List Byte) : List Byte :=
  layout 64 [(0, leBytes 4 t), (4, leBytes 2 e), (6, leBytes 1 j), (8, leBytes 4 gate.toNat), (16, leBytes 8 (pairAddr p t j))] ++ row

/-- A claim that is refused: dropped or spilled, when the pair counts at once. A token all of whose claims are refused is
unserved (R167, R168, R176, R182). -/
def refuseClaim (k c : Nat) (p : List Byte) (t e j : Nat) (gate : Word) (row : List Byte) (s : State) : State :=
  let used := ((tget? s.pip.plans k).map (·.spillUsed)).getD 0
  let spill := plOverSpill p && decide (used < plSpillCap p)
  let s := if spill then
      setPlan k (fun pl => { pl with spillUsed := pl.spillUsed + 1 })
        (setExpert k e (fun x => { x with spilled := x.spilled + 1 })
          (ctxWrite c (plSpillBase p + used * (64 + plInPitch p)) (spillBytes p t e j gate row) (.piper k) s))
    else
      setPlan k (fun pl => { pl with spillFull := pl.spillFull + b2n (plOverSpill p) })
        (setExpert k e (fun x => { x with dropped := x.dropped + 1 }) s)
  let s := setPlan k (fun pl => { pl with
    refused := tmod 0 pl.refused t (· + 1), unserved := pl.unserved + b2n (decide (tget 0 pl.refused t + 1 = plTopK p)) }) s
  owe k 1 (placeNone k c p t j s)

/-- A claim: under CAP_SPLIT 1 the router grants it against its quota, or refuses it; under CAP_SPLIT 0 it goes to the packer,
which does (R165). -/
def claim (k c : Nat) (p : List Byte) (r t e j : Nat) (gate : Word) (row : List Byte) (s : State) : State :=
  let s := setExpert k e (fun x => { x with claimed := x.claimed + 1 }) s
  let x := expertOf s k e
  if ¬ plCapSplit p then setExpert k e (fun x => { x with transit := x.transit ++ [(t, j, gate, row)] }) s
  else if grantedTo p x r < quotaOf p r then
    setExpert k e (fun x => { x with
      accepted := x.accepted + 1, quota := tput x.quota r (tget 0 x.quota r + 1), transit := x.transit ++ [(t, j, gate, row)] }) s
  else refuseClaim k c p t e j gate row s

/-! ### Blocks (R169-R173) -/

/-- Every router has made its last hand-over. -/
def routersDone (pl : Plan) (p : List Byte) : Bool :=
  (List.range (plRouters p)).all (fun r => decide (rtCount p r ≤ tget 0 pl.tokens r))

/-- Blocks of an expert made so far. -/
def blocksMade (x : PExpert) : Nat := x.delivered + x.ready.length

/-- A block of rows, with empty rows to 64. -/
def mkBlock (rows : List (Nat × Nat × Word × List Byte)) : PBlock :=
  ⟨rows.map some ++ List.replicate (64 - rows.length) none⟩

/-- With every claim arrived the current block is complete, and an on-device expert gets empty blocks up to BLOCKS. -/
def closeBlocks (k e : Nat) (s : State) : State :=
  match livePlan s k with
  | none => s
  | some (pl, p) =>
    let x := tget {} pl.experts e
    if ¬ routersDone pl p ∨ ¬ x.transit.isEmpty then s
    else
      let s := if x.cur.isEmpty then s else setExpert k e (fun x => { x with ready := x.ready ++ [mkBlock x.cur], cur := [] }) s
      if exKind p e = 1 then
        setExpert k e (fun x => { x with ready := x.ready ++ List.replicate (plBlocks p - blocksMade x) (mkBlock []) }) s
      else s

/-! ### Hand-overs (R160, R161) -/

/-- The router whose station this is. -/
def routerOf (s : State) (pl : Plan) (p : List Byte) (n : Nat) : Option Nat :=
  (List.range (plRouters p)).find? (fun r => decide (roleOf s pl (rtRole p r) = some n))

/-- One token of a hand-over: its claims in rank order. -/
def handToken (k c : Nat) (flush : Bool) (x : Stn) (p : List Byte) (r slot i t : Nat) (s : State) : State :=
  let es := chosenOf flush x p r slot i
  let gs := gatesOf flush x p r slot i es
  let row := lsRead x (rtTokens p r + (slot * 64 + i) * plInPitch p) (plInPitch p)
  (es.zip gs).zipIdx.foldl (fun s e => claim k c p r t e.1.1 e.2 e.1.2 row s) s

/-- Reads the slot that a router hands over. -/
def takeSlot (k : Nat) (pl : Plan) (p : List Byte) (n r v : Nat) (x : Stn) (s : State) : State :=
  let slot := tget 0 pl.slots r % rtRing p r
  let t0 := rtFirst p r + tget 0 pl.tokens r
  let s := (List.range v).foldl (fun s i => handToken k pl.ctx (stnFlush s x) x p r slot i (t0 + i) s) s
  let s := setPlan k (fun pl => { pl with
    slots := tput pl.slots r (tget 0 pl.slots r + 1), tokens := tput pl.tokens r (tget 0 pl.tokens r + v) }) s
  pump n (piperFlush k ((List.range (plExperts p)).foldl (fun s e => if exKind p e = 0 then s else closeBlocks k e s) s))

/-- The oldest hand-over of a station to a plan's DISPATCH_SEM: plan and value. [DEDUCED, log entry 86] -/
def nextHandOver (s : State) (n : Nat) : Option (Nat × Plan × List Byte × Nat) :=
  (s.pip.plans.filterMap (fun e => e.2.bytes.bind (fun p =>
    (e.2.waiting.find? (fun h => decide (h.1 = n ∧ h.2.1 = plDispatchSem p))).map (fun h => (e.1, e.2, p, h.2.2))))).head?

/-- HAND_OVER: the Piper takes the ring slot of a router's oldest hand-over; a wrong VALUE is PIPER_COUNT (R183). [DEDUCED, log entry 86] -/
def handOverS (n : Nat) (s : State) : State :=
  match nextHandOver s n with
  | none => s
  | some (k, pl, p, v) =>
    match routerOf s pl p n, stnOf s n with
    | some r, some x =>
      let s1 := setPlan k (fun pl => { pl with waiting := pl.waiting.erase (n, plDispatchSem p, v) }) s
      let sofar := tget 0 pl.tokens r
      if v < 1 ∨ 64 < v ∨ rtCount p r < sofar + v ∨ (v < 64 ∧ sofar + v ≠ rtCount p r) then
        stationFault n stPiperCount 4 r 0 pl.addr 0 s1
      else takeSlot k pl p n r v x s1
    | _, _ => s

def execHandOver (stn : Nat) (s : State) : Out := ifUp (handOverS stn) s

/-! ### Packers and delivery -/

/-- Role reference of an expert's packer: its first destination, or its PACKER (R155). -/
def packerRole (p : List Byte) (e : Nat) : Nat := if exKind p e = 1 then exDest p e 0 else exPacker p e

/-- A row takes the next free row of an expert's current block. -/
def joinBlock (row : Nat × Nat × Word × List Byte) (x : PExpert) : PExpert :=
  let cur := x.cur ++ [row]
  if 64 ≤ cur.length then { x with ready := x.ready ++ [mkBlock cur], cur := [] } else { x with cur := cur }

/-- TOKEN_ROW_ARRIVAL: the `i`-th row on its way to an expert's packer takes the next free row of the current block. Under
CAP_SPLIT 0 the packer grants its claim, while the expert has capacity, or refuses it (R165, R166). -/
def rowArrivalS (k e i : Nat) (s : State) : State :=
  match livePlan s k with
  | none => s
  | some (pl, p) =>
    match (tget {} pl.experts e).transit[i]?, roleOf s pl (packerRole p e) with
    | some row, some _ =>
      let s := setExpert k e (fun x => { x with transit := x.transit.eraseIdx i }) s
      let s :=
        if plCapSplit p then setExpert k e (joinBlock row) s
        else if (expertOf s k e).accepted < plCapacity p then setExpert k e (fun x => joinBlock row { x with accepted := x.accepted + 1 }) s
        else refuseClaim k pl.ctx p row.1 e row.2.1 row.2.2.1 row.2.2.2 s
      piperFlush k (closeBlocks k e s)
    | _, _ => s

def execTokenRowArrival (plan expert k : Nat) (s : State) : Out := ifUp (rowArrivalS plan expert k) s

/-- Tag of a row (R171). -/
def tagBytes (r : Option (Nat × Nat × Word × List Byte)) : List Byte :=
  match r with
  | some (t, j, g, _) => leBytes 4 (t % 2 ^ 24 + j % 8 * 2 ^ 24) ++ leBytes 4 g.toNat
  | none => leBytes 4 (2 ^ 31) ++ leBytes 4 0

/-- Bytes of a delivery slot: 64 rows and their tags. -/
def slotBytes (p : List Byte) (b : PBlock) : List Byte :=
  b.rows.flatMap (fun r => match r with
    | some (_, _, _, row) => row
    | none => zeros (plInPitch p)) ++ b.rows.flatMap tagBytes

/-- Gates of a block's rows. -/
def slotGates (b : PBlock) : List Word := b.rows.map (fun r => match r with
  | some (_, _, g, _) => g
  | none => 0)

/-- Writes a block to one destination's slot and vector register, and raises its arrival semaphore. -/
def deliverTo (pl : Plan) (p : List Byte) (e slot i : Nat) (b : PBlock) (s : State) : State :=
  match roleOf s pl (exDest p e i) with
  | none => s
  | some n =>
    let s := setStn n (fun x =>
      let y := lsPut (exRx p e + slot * plSlotBytes p) (slotBytes p b) x
      { y with vreg := (slotGates b).zipIdx.foldl (fun t g => tset 0 t (64 * (exGateVreg p e + slot) + g.2) g.1) y.vreg }) s
    piperAdd pl.ctx (exArrive p e + 8 * i) 1 s

/-- Sends a block through the expert's outbound window, in packets of at most 4 KiB (R179). [DEDUCED, log entry 88] -/
def sendBlock (k e slot blk : Nat) (pl : Plan) (p : List Byte) (b : PBlock) (s : State) : State :=
  match tget? s.rbx.owins (exWindow p e) with
  | none => s
  | some w =>
    if ¬ w.valid ∨ w.owner ≠ pl.ctx then s
    else
      let bs := slotBytes p b
      let off := w.remote + exWindowOff p e + slot * plSlotBytes p
      (List.range (ceilDiv bs.length 4096 + 1)).foldl (fun s i =>
        let a := max off ((off / 4096 + i) * 4096)
        let z := min (off + bs.length) ((off / 4096 + i + 1) * 4096)
        if z ≤ a then s
        else openReq (exWindow p e) (owinPkt s w 0x01 0 a (z - a) 0 w.counter ((bs.drop (a - off)).take (z - a)))
          (.piper k) (some (k, e, blk)) s) s

/-- Die of a remote expert's packer. -/
def packerDie (s : State) (pl : Plan) (p : List Byte) (e : Nat) : Nat := roleDie s pl.launches (exPacker p e)

/-- The stations that a delivery needs hold their places: every destination, or the packer. -/
def placedFor (s : State) (pl : Plan) (p : List Byte) (e : Nat) : Bool :=
  if exKind p e = 1 then (List.range (exDests p e)).all (fun i => (roleOf s pl (exDest p e i)).isSome)
  else (roleOf s pl (exPacker p e)).isSome

/-- The slot of block `b` is free: the results of block `b` − RX_SLOTS are back, or lost (R173). -/
def slotFree (p : List Byte) (e : Nat) (x : PExpert) : Bool :=
  if exKind p e = 1 then decide (x.delivered < x.returned + exSlots p e)
  else x.out.all (fun o => decide (o.1 + exSlots p e ≠ x.delivered))

/-- BLOCK_DELIVERY: an expert's oldest complete block goes to its slot at every destination, or to the remote device; it waits
while a station of those has been saved away. -/
def blockDeliveryS (k e : Nat) (s : State) : State :=
  match livePlan s k with
  | none => s
  | some (pl, p) =>
    let x := tget {} pl.experts e
    match x.ready with
    | [] => s
    | b :: rest =>
      if ¬ slotFree p e x ∨ ¬ placedFor s pl p e then s
      else
        let slot := x.delivered % exSlots p e
        let now := refOf s (packerDie s pl p e)
        let s := setExpert k e (fun x => { x with
          ready := rest, delivered := x.delivered + 1, out := if exKind p e = 2 then x.out ++ [(x.delivered, b, now)] else x.out }) s
        if exKind p e = 1 then (List.range (exDests p e)).foldl (fun s i => deliverTo pl p e slot i b s) s
        else sendBlock k e slot x.delivered pl p b s

def execBlockDelivery (plan expert : Nat) (s : State) : Out := ifUp (blockDeliveryS plan expert) s

/-! ### Results (R174-R177, R179) -/

/-- Places the non-empty rows of a result block: tags, and where its rows begin in device memory. -/
def placeBlock (k : Nat) (pl : Plan) (p : List Byte) (tags : List Byte) (base : Nat) (s : State) : State :=
  let live := (List.range 64).filter (fun i => !bitOf (field tags (8 * i) 4) 31)
  let rows := live.map (fun i => (field tags (8 * i) 4, ctxRead s pl.ctx (base + i * plOutPitch p) (outRowBytes p)))
  let s := rows.foldl (fun s r => placeRow k pl.ctx p (r.1 % 2 ^ 24) (bits r.1 26 24) r.2 s) s
  piperFlush k (owe k live.length s)

/-- Result hand-over of an on-device expert: the returner's station, its tags, and the slot freed. -/
def resultLocal (k e : Nat) (pl : Plan) (p : List Byte) (s : State) : State :=
  match roleOf s pl (exDest p e (exRet p e)) with
  | none => s
  | some n =>
    if (n, exResultSem p e, 1) ∉ pl.waiting then s
    else
      let x := tget {} pl.experts e
      let slot := x.returned % exSlots p e
      let base := exResultBase p e + slot * 64 * plOutPitch p
      if x.delivered ≤ x.returned then stationFault n stPiperResult 4 e 0 pl.addr 0 s
      else if ctxBusy s pl.ctx base (64 * plOutPitch p) then s
      else
        let tags := ((stnOf s n).map (fun y => lsRead y (exRx p e + slot * plSlotBytes p + 64 * plInPitch p) 512)).getD []
        placeBlock k pl p tags base (setExpert k e (fun x => { x with returned := x.returned + 1 })
          (setPlan k (fun pl => { pl with waiting := pl.waiting.erase (n, exResultSem p e, 1) }) s))

/-- Bytes of a remote result block. -/
def remoteBlock (p : List Byte) : Nat := 64 * plOutPitch p + 512

/-- Bytes counted on an expert's result counter since the plan was activated. -/
def resultCount (s : State) (pl : Plan) (p : List Byte) (e : Nat) : Nat :=
  (counterVal s (exResultWindow p e) (exCounter p e) + 2 ^ 64 - tget 0 pl.base e) % 2 ^ 64

/-- Results of the oldest block out at a remote expert, once its counter has risen far enough. -/
def resultRemote (k e : Nat) (pl : Plan) (p : List Byte) (s : State) : State :=
  let x := tget {} pl.experts e
  match x.out with
  | [] => s
  | (b, blk, since) :: rest =>
    let base := exResultBase p e + b % exSlots p e * remoteBlock p
    if resultCount s pl p e < (b + 1) * remoteBlock p ∨ ctxBusy s pl.ctx base (remoteBlock p) then s
    else
      let tags := ctxRead s pl.ctx (base + 64 * plOutPitch p) 512
      placeBlock k pl p tags base (setExpert k e (fun x => { x with
        out := x.out.erase (b, blk, since), returned := if rest.isEmpty then x.delivered else x.returned }) s)

/-- RESULT_HAND_OVER: an expert's oldest result block is placed and its slot freed. -/
def resultHandOverS (k e : Nat) (s : State) : State :=
  match livePlan s k with
  | none => s
  | some (pl, p) => if exKind p e = 1 then resultLocal k e pl p s else if exKind p e = 2 then resultRemote k e pl p s else s

def execResultHandOver (plan expert : Nat) (s : State) : Out := ifUp (resultHandOverS plan expert) s

/-- A block sent to a remote expert is lost: zeros or nothing for its rows, which count as complete, and the event (R180). [DEDUCED, log entry 88] -/
def loseBlock (k e : Nat) (o : Nat × PBlock × Nat) (s : State) : State :=
  match livePlan s k with
  | none => s
  | some (pl, p) =>
    let rows := o.2.1.rows.filterMap id
    let s := rows.foldl (fun s r => placeNone k pl.ctx p r.1 r.2.1 s) s
    let s := setExpert k e (fun x => { x with out := x.out.erase o }) (setPlan k (fun pl => { pl with lost := pl.lost + rows.length }) s)
    let s := raise (packerDie s pl p e) 0x0002 pl.ctx (ctxSlice s pl.ctx) e o.1 0 s
    piperFlush k (owe k rows.length s)

/-- PIPER_REMOTE_LOST: RET_TIMEOUT_MS has passed since the block was sent, and its results have not arrived. [DEDUCED, log entry 88] -/
def remoteLostS (k e b : Nat) (s : State) : State :=
  match livePlan s k with
  | none => s
  | some (pl, p) =>
    match (tget {} pl.experts e).out.find? (fun o => decide (o.1 = b)) with
    | none => s
    | some o =>
      if refOf s (packerDie s pl p e) - o.2.2 < plTimeoutMs p * refMs ∨ (b + 1) * remoteBlock p ≤ resultCount s pl p e then s
      else loseBlock k e o s

def execPiperRemoteLost (plan expert block : Nat) (s : State) : Out := ifUp (remoteLostS plan expert block) s

/-- A refusal of one of a block's packets: the block is lost (R180, R508). [DEDUCED, log entry 88] -/
def refuseBlock (k e b : Nat) (s : State) : State :=
  match (expertOf s k e).out.find? (fun o => decide (o.1 = b)) with
  | some o => loseBlock k e o s
  | none => s

end Sys2Proof.Machine
end

