-- ==== Sys2Proof/Machine/Deliver.lean ====
section
/-! DEFINITION. Answers of the homes reach their requesters: FILL, WR_ACK, RED_ACK, SEM_OK, SEM_RETRY and RETRY
(R301-R323), with poison acting as R588 gives. Each row names a message on its way by its place in the fabric's list. -/

namespace Sys2Proof.Machine

/-- Takes message `k` off the fabric. -/
def takeMsg (k : Nat) (s : State) : State := { s with home := { s.home with net := s.home.net.eraseIdx k } }

/-- Pieces of a transfer that one request serves: issued, and on the line of piece `k`. -/
def servedBy (f : Xfer) (p : XPiece) : List Nat :=
  (f.pieces.zipIdx.filter (fun e => decide (e.1.st = 1 ∧ e.1.addr / 128 = p.addr / 128))).map (·.2)

/-- A read of poison: DAMAGED where the extent is read-only for the context, else the station fault POISONED (R588). -/
def poisonedRead (n : Nat) (x : Stn) (f : Xfer) (p : XPiece) (k : Nat) (s : State) : State :=
  if placeRo s x p.addr then pieceFault n f p k 5 s else agentFault (.xfer n f.id k) stPoisoned 0 s

/-- A FILL serves the pieces of a transfer that asked for the line. -/
def fillXfer (n xid k : Nat) (data : List Byte) (poison : Bool) (s : State) : State :=
  match (stnOf s n).bind (fun x => (pieceOf x xid k).map (fun e => (x, e))) with
  | none => s
  | some (x, f, p) =>
    if poison then
      (servedBy f p).foldl (fun s j => match f.pieces[j]? with
        | some q => poisonedRead n x f q j s
        | none => s) s
    else pump n (serveLinePieces n xid (servedBy f p) data s)

/-- A FILL for a station cache: the reads that wait are served in order, and the line is installed unless it is poisoned
or was invalidated meanwhile (R307, R308). -/
def fillCache (n key : Nat) (data : List Byte) (poison : Bool) (s : State) : State :=
  match (stnOf s n).bind (fun x => pendOf x key) with
  | none => s
  | some (ws, inval) =>
    let s1 := setStn n (dropPend key) s
    let s2 := ws.foldl (fun s w => match w.who with
      | .xfer _ xid k =>
        (match (stnOf s n).bind (fun x => pieceOf x xid k) with
         | some (f, p) => if poison then pieceFault n f p k 5 s else serveLinePieces n xid [k] data s
         | none => s)
      | _ => s) s1
    pump n (if poison || inval then s2 else setStn n (cacheInstall key data) s2)

/-- What a FILL does at one of its requesters. -/
def fillOne (data : List Byte) (poison : Bool) (r : Req) (s : State) : State :=
  match r.who with
  | .cache n => fillCache n (lkey r.stack r.line) data poison s
  | .xfer n xid k => fillXfer n xid k data poison s
  | .missReg n m => serveMiss n m data poison s
  | .rbx _ _ _ => pumpRbx (inbAnswer r (if poison then 7 else 0) data s)
  | _ => s

def fillMsgS (k : Nat) (s : State) : State :=
  match s.home.net[k]? with
  | some (.fill _ _ data poison rs) => rs.foldl (fun s r => fillOne data poison r s) (takeMsg k s)
  | _ => s

/-- FILL. -/
def execFill (k : Nat) (s : State) : Out := ifUp (fillMsgS k) s

/-- The pieces behind an acknowledged write or reduction are finished, and the add of an MSEMR is done. -/
def ackXfer (n xid k : Nat) (s : State) : State :=
  match (stnOf s n).bind (fun x => pieceOf x xid k) with
  | some (f, p) => pump n (if f.kind = .semAdd then semDone (.xfer n xid k) s else setPieces n xid (servedBy f p) 2 s)
  | none => s

def wrAckS (k : Nat) (s : State) : State :=
  match s.home.net[k]? with
  | some (.wrAck r st) =>
    let s1 := takeMsg k s
    (match r.who with
     | .xfer n xid j => if st = stOk then ackXfer n xid j s1 else agentFault r.who st 0 s1
     | .rbx _ _ _ => pumpRbx (inbAnswer r (if st = stOk then 0 else 6) [] s1)
     | .piper p => piperFlush p s1
     | .cmd q seq => if st = stOk then markBound q seq s1 else finishCmd q seq st 0 s1
     | _ => s1)
  | _ => s

/-- WR_ACK. -/
def execWrAck (k : Nat) (s : State) : Out := ifUp (wrAckS k) s

/-- The station of a semaphore access still belongs to the request's context. -/
def semOwn (s : State) (r : Req) : Bool :=
  match (semStn r.who).bind (stnOf s) with
  | some x => decide (x.ctx = r.ctx)
  | none => false

def redAckS (k : Nat) (s : State) : State :=
  match s.home.net[k]? with
  | some (.redAck r st) =>
    let s1 := takeMsg k s
    (match r.who with
     | .xfer n xid j => if st = stRedSeq then agentFault r.who stRedSeq 0 s1 else ackXfer n xid j s1
     | .sem n => if semOwn s r then pump n (semDone r.who s1) else s1
     | .semGrp n _ => if semOwn s r then pump n (semDone r.who s1) else s1
     | .cmd q seq => finishCmd q seq st 0 s1
     | .rbx _ _ _ => pumpRbx (inbAnswer r (if st = stOk then 0 else 7) [] s1)
     | .piper p => piperFlush p s1
     | _ => s1)
  | _ => s

/-- RED_ACK. -/
def execRedAck (k : Nat) (s : State) : Out := ifUp (redAckS k) s

def semOkS (k : Nat) (s : State) : State :=
  match s.home.net[k]? with
  | some (.semOk r st) =>
    let s1 := takeMsg k s
    (match r.who with
     | .sem n => if ¬ semOwn s r then s1 else if st = stOk then pump n (semDone r.who s1) else agentFault r.who st 0 s1
     | .semGrp n _ => if ¬ semOwn s r then s1 else if st = stOk then pump n (semDone r.who s1) else agentFault r.who st 0 s1
     | .cmd q seq => finishCmd q seq st 0 s1
     | _ => s1)
  | _ => s

/-- SEM_OK. -/
def execSemOk (k : Nat) (s : State) : Out := ifUp (semOkS k) s

/-- SEM_RETRY: the requester asks again no sooner than 1 µs later (R315). -/
def semRetryS (k : Nat) (s : State) : State :=
  match s.home.net[k]? with
  | some (.semRetry r off val) => sendLater (.semWait r off val) (takeMsg k s)
  | _ => s

def execSemRetry (k : Nat) (s : State) : Out := ifUp (semRetryS k) s

/-- RETRY: the requester sends the ordered reduction again no sooner than 1 µs later (R321). -/
def retryS (k : Nat) (s : State) : State :=
  match s.home.net[k]? with
  | some (.retry r o) => sendLater (.red r o) (takeMsg k s)
  | _ => s

def execRetry (k : Nat) (s : State) : Out := ifUp (retryS k) s

end Sys2Proof.Machine
end

