-- ==== Sys2Proof/Machine/Riberex.lean ====
section
/-! DEFINITION. The Riberex fabric: flits, acknowledgement and replay (R491-R495), ports going down and training
(R510-R515), inbound packets (R350, R351, R379, R498-R501), responses and expiry (R508, R516), and the registers of ports
and outbound windows that act when written (R503, R509, R514, R519). -/

namespace Sys2Proof.Machine

/-! ### Ports -/

/-- Ports that a mode uses (R510). [DEDUCED, log entry 105] -/
def modePorts (mode n : Nat) : List Nat :=
  if mode = 1 then List.range (min 24 (n - 1)) else if mode = 2 then List.range 24 else []

/-- A port loses its link: replay buffer, credits and sequence start again (R515). -/
def clearPort (u : RPort) : RPort :=
  { u with replay := [], cur := [], credits := [512, 512, 32], rxUsed := [0, 0, 0], txSeq := 0, rxSeq := 0, acked := 0xFFF, nakSent := false }

/-- Requests not sent that no port up can carry expire at once (R515): how many, and the state after. -/
def expireStuck (s : State) : Nat × State :=
  (s.rbx.out.filter (fun q => q.port.isNone)).foldl (fun (a : Nat × State) q =>
    match choosePort a.2 ((tget {} a.2.rbx.owins q.owin).portMask) q.pkt.offset with
    | none => (a.1 + 1, expireReq q a.2)
    | some _ => a) (0, s)

/-- A port leaves FULL or HALF for state `st` with a cause: RBX_PORT_DOWN, and unsent requests move or expire. [DEDUCED, log entry 102] -/
def portLeave (p st cause : Nat) (s : State) : State :=
  let r := expireStuck (setPort p (fun u => { clearPort u with st := st, cause := cause }) s)
  pumpRbx (raise (portDie p) 0x0028 0 0 p cause r.1 r.2)

/-- A port that is up goes DOWN, and retrains at once (R514). [DEDUCED, log entry 102] -/
def portDown (p cause : Nat) (s : State) : State := if portUp s p then portLeave p 1 cause s else s

/-- Flits up to ACK_SEQ leave the replay buffer. -/
def ackFlits (p ack : Nat) (s : State) : State :=
  setPort p (fun u =>
    let i := u.replay.findIdx (fun e => decide (e.1 = ack))
    { u with acked := ack, replay := if i < u.replay.length then u.replay.drop (i + 1) else u.replay }) s

/-- A NAK: the flits after ACK_SEQ are replayed; one that has been replayed 8 times takes the port DOWN (R494). [DEDUCED, log entry 102] -/
def nakPort (p ack : Nat) (s : State) : State :=
  let s1 := ackFlits p ack s
  let u := portOf s1 p
  if u.replay.any (fun e => decide (8 ≤ e.2.2)) then portDown p 3 s1
  else setPort p (fun u => { u with
    replay := u.replay.map (fun e => (e.1, e.2.1, e.2.2 + 1)), replays := satAdd 65535 u.replays u.replay.length }) s1

/-- Credits returned for the three channels. -/
def addCredits (cs : List Nat) (u : RPort) : RPort :=
  { u with credits := (List.range 3).map (fun i => min (nth 0 [512, 512, 32] i) (nth 0 u.credits i + nth 0 cs i % 256)) }

/-- The receiver takes a flit whose CRC is good: the next in sequence is kept, another is answered with a NAK. An idle
flit carries the next sequence number and takes no buffer. [DEDUCED, log entry 102] -/
def takeFlit (p : Nat) (f : RFlit) (s : State) : State :=
  if f.seq ≠ (portOf s p).rxSeq then setPort p (fun u => { u with nakSent := true }) s
  else if 3 ≤ f.vc then setPort p (fun u => { u with nakSent := false }) s
  else setPort p (fun u => { u with
    nakSent := false, rxSeq := (u.rxSeq + 1) % 4096, rxUsed := putNth u.rxUsed f.vc (nth 0 u.rxUsed f.vc + 1) }) s

/-- A port hears its peer (R492). -/
def heard (p : Nat) (s : State) : State := setPort p (fun u => { u with heardAt := refOf s (portDie p) }) s

/-- A flit that arrives at a port. -/
def flitGo (p : Nat) (f : RFlit) (s : State) : State :=
  if ¬ f.crcOk then
    setPort p (fun u => { u with uncorrectable := satAdd 65535 u.uncorrectable 1, nakSent := true }) s
  else
    let s1 := setPort p (addCredits f.credits) (ackFlits p f.ackSeq s)
    let s2 := if f.nak then nakPort p f.ackSeq s1 else s1
    pumpRbx (if portUp s2 p then takeFlit p f s2 else s2)

def flitS (p : Nat) (f : RFlit) (s : State) : State := if portUp s p then flitGo p f (heard p s) else s

/-- RBX_FLIT. -/
def execRbxFlit (port : Nat) (f : RFlit) (s : State) : Out := ifUp (fun s => guardS (decide (port < 24)) (flitS port f) s) s

/-- RBX_NAK. -/
def execRbxNak (port ackSeq : Nat) (s : State) : Out :=
  ifUp (fun s => guardS (decide (port < 24) && portUp s port) (fun s => pumpRbx (nakPort port (ackSeq % 4096) s)) s) s

/-- The port has heard no flit for IDLE_US microseconds of its die (R492). -/
def portSilent (s : State) (p : Nat) : Bool := decide (s.rbx.idleUs * refUs ≤ refOf s (portDie p) - (portOf s p).heardAt)

/-- IDLE_TIMEOUT. -/
def execIdleTimeout (port : Nat) (s : State) : Out :=
  ifUp (fun s => guardS (decide (port < 24) && portSilent s port) (portDown port 4) s) s

/-- RBX_LOSS_OF_LOCK. -/
def execRbxLossOfLock (port _lane : Nat) (s : State) : Out := ifUp (fun s => guardS (decide (port < 24)) (portDown port 2) s) s

/-- Width that training gives: FULL with 8 lanes, else HALF on lanes 0-3 or 4-7, else DOWN (R513, R514). -/
def widthOf (halfOnly : Bool) (lanes : Nat) : Nat :=
  if lanes % 256 = 255 ∧ halfOnly = false then 2 else if lanes % 16 = 15 ∨ lanes / 16 % 16 = 15 then 3 else 0

/-- The peer that the cabling rule of direct mode gives a port (R510). -/
def peerWanted (s : State) (p : Nat) : Nat := (s.rbx.deviceNum + p + 1) % s.rbx.groupSize

/-- A training port fails. [DEDUCED, log entry 105] -/
def trainFail (p cause lanes peer : Nat) (s : State) : State :=
  raise (portDie p) 0x0028 0 0 p cause 0 (setPort p (fun u => { clearPort u with st := 0, cause := cause, lanesOk := lanes, peer := peer }) s)

/-- RBX_PORT_UP: a training port ends FULL, HALF or DOWN (R511, R513). [DEDUCED, log entry 105] -/
def portUpS (p lanes peer us : Nat) (s : State) : State :=
  let u := portOf s p
  let w := widthOf u.halfOnly lanes
  if u.st ≠ 1 then s
  else if w = 0 then trainFail p 6 (lanes % 256) (peer % 4096) s
  else if s.rbx.mode = 1 ∧ peer ≠ peerWanted s p then
    raise (portDie p) 0x002A 0 0 p (peerWanted s p) peer (trainFail p 5 (lanes % 256) (peer % 4096) s)
  else
    pumpRbx (raise (portDie p) 0x0029 0 0 p w us (setPort p (fun u => { clearPort u with
      st := w, lanesOk := lanes % 256, peer := peer % 4096, halfOnly := decide (w = 3), heardAt := refOf s (portDie p) }) s))

def execRbxPortUp (port lanesOk peer us : Nat) (s : State) : Out := ifUp (portUpS port lanesOk peer us) s

/-! ### Registers of the ports -/

/-- RBX_MODE_SET: a write of RBX_CFG (R519). [DEDUCED, log entry 105] -/
def modeWrite (v : Nat) (s : State) : State :=
  let m := bits v 17 16
  let old := s.rbx.mode
  let r := if old = 0 then { s.rbx with deviceNum := bits v 11 0, groupSize := bits v 28 24 } else s.rbx
  let s1 := { s with rbx := { r with mode := if m = 3 then old else m } }
  let now := s1.rbx.mode
  if old = 0 ∧ now ≠ 0 then (modePorts now s1.rbx.groupSize).foldl (fun s p => setPort p (fun u => { clearPort u with st := 1, cause := 0 }) s) s1
  else if old ≠ 0 ∧ now = 0 then
    (List.range 24).foldl (fun s p =>
      if portUp s p then portLeave p 0 1 s else setPort p (fun u => { clearPort u with st := 0, cause := 1 }) s) s1
  else s1

/-- RBX_RETRAIN: a port of the mode trains again at full width (R514, R519). -/
def retrainWrite (p : Nat) (s : State) : State :=
  if p ∉ modePorts s.rbx.mode s.rbx.groupSize then s
  else
    let s1 := setPort p (fun u => { u with halfOnly := false }) s
    if portUp s1 p then portDown p 0 s1 else setPort p (fun u => { clearPort u with st := 1 }) s1

/-! ### Outbound windows -/

/-- Why a mapping may not be put in force: 2 a field out of range, 3 owner dead or absent, 1 overlap or limit (R503). [DEDUCED, log entry 104] -/
def owinError (s : State) (w : OWin) : Nat :=
  let g := owinRange w
  let alive : Bool := match ctxOf s w.owner with
    | some c => !c.dead
    | none => false
  if w.len < 2 ∨ 2 ^ 28 ≤ w.len ∨ w.remote % 65536 ≠ 0 ∨ g.1 < 65536 ∨ 0xFFFFF00000000 < g.1 + g.2 then 2
  else if ¬ alive then 3
  else if (mapRefusal s w.owner g.1 g.2).isSome then 1 else 0

/-- Puts an outbound window's registers. -/
def putOwin (n : Nat) (x : OWin) (s : State) : State :=
  { s with rbx := { s.rbx with owins := tset {} s.rbx.owins n x } }

/-- A write of RBX_OWINw_BASE: OWNER and BASE take the values written, and VALID is set where the mapping they give breaks
no condition, other mappings being as they are (R503, R509). [DEDUCED, log entry 104] -/
def owinBaseWrite (n v : Nat) (s : State) : State :=
  let w := tget {} s.rbx.owins n
  let x := { w with valid := false, owner := bits v 15 4, base := bits v 51 16 }
  let e := owinError (putOwin n x s) x
  if w.busy ∨ 4096 ≤ n then s
  else if bitOf v 0 then putOwin n (if e = 0 then { x with valid := true, err := 0 } else { x with err := e }) s
  else putOwin n x s

/-! ### Inbound packets -/

/-- Receive buffers of a channel that a packet has left are freed, port by port. -/
def freeRx (vc n : Nat) (s : State) : State :=
  ((List.range 24).foldl (fun (a : Nat × State) p =>
    let k := min a.1 (nth 0 (portOf a.2 p).rxUsed vc)
    if k = 0 then a else (a.1 - k, setPort p (fun u => { u with rxUsed := putNth u.rxUsed vc (nth 0 u.rxUsed vc - k) }) a.2)) (n, s)).2

/-- Data bytes that a packet's type and LENGTH bring. -/
def dataLen (p : Pkt) : Nat := if p.ptype = 2 then 0 else p.length

/-- LENGTH and OFFSET are those of the request's type (R499). -/
def shapeOk (p : Pkt) : Bool :=
  if p.ptype = 1 ∨ p.ptype = 2 then decide (4 ≤ p.length ∧ p.length ≤ 4096 ∧ p.length % 4 = 0 ∧ p.offset % 4096 + p.length ≤ 4096)
  else if p.ptype = 3 then decide (p.length = 128 ∧ p.offset % 128 = 0)
  else if p.ptype = 4 then decide (p.length = 8 ∧ p.offset % 8 = 0)
  else decide (p.ptype = 0x20 ∧ p.length = 0 ∧ p.offset = 0)

/-- OP and MASK are those of the type. [DEDUCED, log entry 103] -/
def opOk (p : Pkt) : Bool :=
  if p.ptype = 3 then decide (p.op < 16 ∧ p.op % 4 ≤ 2 ∧ p.op / 4 ≤ 2 ∧ p.mask < (if p.op / 4 = 1 then 2 ^ 64 else 2 ^ 32))
  else decide (p.op = 0 ∧ p.mask = 0)

/-- No field of a request is out of range and no reserved field is set (R499). -/
def requestOk (p : Pkt) : Bool :=
  p.reservedOk && shapeOk p && opOk p &&
    decide (p.src < 4096 ∧ p.dst < 4096 ∧ p.window < 256 ∧ p.counter < 16 ∧ p.offset < 2 ^ 44 ∧ p.status = 0 ∧ p.data.length = dataLen p)

/-- The right a request needs: a bit of RIGHTS (R378). -/
def rightBit (ty : Nat) : Nat := if ty = 1 then 0 else if ty = 2 then 1 else if ty = 3 then 2 else 3

/-- An entry accepts packets from a device. -/
def peerOk (e : WinEntry) (src : Nat) : Bool := decide (e.peer = src ∨ e.peer = 0xFFFF)

/-- The home of some line of a range is unavailable to the fabric, and a context owns the range. -/
def notOwned (s : State) (c a : Nat) : Bool :=
  match findMap s c a with
  | some (_, x) => !inOwnerSet s x c
  | none => false

/-- STATUS of a request and the device address it goes to (R379, R500); 0 where it is accepted. [DEDUCED, log entry 103] -/
def inbCheck (s : State) (p : Pkt) : Nat × Nat :=
  if ¬ requestOk p then (1, 0)
  else
    match tget? s.xt.windows p.window with
    | none => (8, 0)
    | some w =>
      match w.entries.find? (fun e => decide (e.off ≤ p.offset ∧ p.offset + p.length ≤ e.off + e.len)) with
      | none => (1, 0)
      | some e =>
        let a := e.addr + (p.offset - e.off)
        let ro : Bool := match findMap s w.owner a with
          | some (_, x) => readOnlyFor x w.owner
          | none => false
        let st :=
          if ¬ bitOf e.rights (rightBit p.ptype) then 2
          else if ¬ peerOk e p.src then 3
          else if ¬ rangeMapped s w.owner a p.length ∨ (ro = true ∧ p.ptype ≠ 2) then 4
          else if notOwned s w.owner a then 5
          else if ctxUnavailable s w.owner a p.length (.rbx p.window p.src p.tag) then 6 else 0
        (st, a)

/-- Counts a refusal against a window; an unavailable home discards no packet of the window's own (R379, R519). [DEDUCED, log entry 103] -/
def countRefused (w st : Nat) (s : State) : State :=
  if st = 6 then s
  else { s with rbx := { s.rbx with
    refused := tmod 0 s.rbx.refused w (fun v => satAdd (2 ^ 32 - 1) v 1), lastStatus := tset 0 s.rbx.lastStatus w st } }

/-- Lines of an accepted request: place, and where their bytes stand in its data. -/
def inbLines (s : State) (c a n : Nat) : List (Place × Nat × Nat) :=
  (linesOf a n).filterMap (fun e => (translate s c e.1).map (fun p => (p, e.2.1, e.2.2)))

/-- An accepted request begins its accesses. -/
def inbBegin (p : Pkt) (c a : Nat) (s : State) : State :=
  let ls := inbLines s c a p.length
  let who := Agent.rbx p.window p.src p.tag
  let e : InPkt := { pkt := p, left := ls.map (fun l => (l.1.stack, l.1.line)),
                     parts := ls.map (fun l => (l.1.stack, l.1.line, l.1.off, l.2.2, l.2.1)), data := zeros p.length }
  let s1 := { s with rbx := { s.rbx with inb := s.rbx.inb ++ [e] } }
  if p.ptype = 1 then ctxWrite c a p.data who s1
  else
    ls.foldl (fun s l =>
      let r : Req := ⟨l.1.stack, l.1.line, c, l.1.handle, who⟩
      if p.ptype = 2 then homeRequest (.getu r) s
      else if p.ptype = 3 then homeRequest (.red r ⟨p.op % 4, p.op / 4, p.mask, p.data, false, 0, 0⟩) s
      else homeRequest (semAddReq l.1.stack l.1.line l.1.off c l.1.handle (leNat p.data) who) s) s1

/-- A request packet is checked as a whole, and refused whole or carried out (R379, R500). -/
def inbound (p : Pkt) (s : State) : State :=
  let s1 := freeRx (vcOf p.ptype) (pktFlits p) s
  let k := inbCheck s1 p
  match k.1, tget? s1.xt.windows p.window with
  | 0, some w => pumpRbx (inbBegin p w.owner k.2 s1)
  | st, _ => pumpRbx { countRefused p.window st s1 with rbx := { (countRefused p.window st s1).rbx with
      answers := s1.rbx.answers ++ [answerPkt s1 p st []] } }

/-- Some port is up. -/
def anyPort (s : State) : Bool := (List.range 24).any (portUp s)

/-- The packet types of R499. -/
def pktTypes : List Nat := [1, 2, 3, 4, 0x10, 0x11, 0x20]

/-- An inbound packet of the row's type acts while some port is up. -/
def inbIf (ty : Nat) (f : Pkt → State → State) (p : Pkt) (s : State) : State :=
  if p.ptype = ty ∧ anyPort s then f p s else s

/-- RBX_WRITE. A packet of no known TYPE is discarded and counted (R499). -/
def writePktS (p : Pkt) (s : State) : State :=
  if anyPort s ∧ p.ptype ∉ pktTypes then countRefused p.window 1 s else inbIf 1 inbound p s

def execRbxWrite (p : Pkt) (s : State) : Out := ifUp (writePktS p) s
/-- RBX_READ. -/
def execRbxRead (p : Pkt) (s : State) : Out := ifUp (inbIf 2 inbound p) s
/-- RBX_RED. -/
def execRbxRed (p : Pkt) (s : State) : Out := ifUp (inbIf 3 inbound p) s
/-- RBX_SEM_ADD. -/
def execRbxSemAdd (p : Pkt) (s : State) : Out := ifUp (inbIf 4 inbound p) s

/-- RBX_BARRIER: counts 1 on a counter in packet mode where an entry of the window accepts the sender (R501). [DEDUCED, log entry 103] -/
def barrierS (p : Pkt) (s : State) : State :=
  let s1 := freeRx 2 (pktFlits p) s
  if ¬ requestOk p then countRefused p.window 1 s1
  else
    match tget? s1.xt.windows p.window with
    | some w => if w.entries.any (fun e => peerOk e p.src) then arriveCount p.window p.counter 0 s1 else countRefused p.window 3 s1
    | none => countRefused p.window 3 s1

def execRbxBarrier (p : Pkt) (s : State) : Out := ifUp (inbIf 0x20 barrierS p) s

/-! ### Responses -/

/-- A response's fields are in range. -/
def responseOk (p : Pkt) : Bool :=
  p.reservedOk && decide (p.op = 0 ∧ p.mask = 0 ∧ p.src < 4096 ∧ p.dst < 4096 ∧ p.window < 256 ∧ p.counter < 16 ∧
    p.offset < 2 ^ 44 ∧ p.status ≤ 8 ∧ p.data.length = p.length ∧ (p.ptype = 0x10 ∨ p.status ≠ 0 → p.length = 0))

/-- The sent request that a response answers. -/
def answered (s : State) (p : Pkt) : Option RReq :=
  s.rbx.out.find? (fun q => decide (q.tag = p.tag ∧ q.port ≠ none ∧ (q.pkt.ptype = 2 ↔ p.ptype = 0x11)) &&
    (decide (p.ptype = 0x10 ∨ p.status ≠ 0) || decide (p.length = q.pkt.length)))

/-- A response that meets no request is discarded and counted late (R516). -/
def lateResponse (s : State) : State := { s with rbx := { s.rbx with late := satAdd (2 ^ 32 - 1) s.rbx.late 1 } }

/-- A remote access is acknowledged: its piece, every piece of its line for a reduction, or its semaphore access. -/
def ackRemote (q : RReq) (s : State) : State :=
  match q.who with
  | .xfer n xid k => if q.pkt.ptype = 3 ∨ q.pkt.ptype = 4 then ackXfer n xid k s else pump n (setPiece n xid k 2 s)
  | .sem n => pump n (semDone q.who s)
  | .semGrp n _ => pump n (semDone q.who s)
  | _ => s

/-- The data of a remote read arrives. -/
def readRemote (q : RReq) (data : List Byte) (s : State) : State :=
  match q.who with
  | .xfer n xid k =>
    (match (stnOf s n).bind (fun x => pieceOf x xid k) with
     | some (_, p) => pump n (servePiece n xid k p data s)
     | none => s)
  | _ => s

/-- A response reaches the port die (R508). -/
def response (p : Pkt) (s : State) : State :=
  let s1 := freeRx 1 (pktFlits p) s
  if ¬ responseOk p then countRefused p.window 1 s1
  else
    match answered s1 p with
    | none => lateResponse s1
    | some q =>
      let s2 := { s1 with rbx := { s1.rbx with out := s1.rbx.out.filter (fun x => !decide (x.tag = q.tag)) } }
      pumpRbx (match q.piper with
        | some (k, e, b) => if p.status = 0 then s2 else refuseBlock k e b s2
        | none =>
          if p.status = 0 then (if p.ptype = 0x11 then readRemote q p.data s2 else ackRemote q s2)
          else if p.ptype = 0x11 ∧ p.status = 7 then agentFault q.who stPoisoned 0 s2
          else agentFault q.who stRemoteRefused p.status s2)

/-- RBX_ACK. -/
def execRbxAck (p : Pkt) (s : State) : Out := ifUp (inbIf 0x10 response p) s
/-- RBX_READ_DATA. -/
def execRbxReadData (p : Pkt) (s : State) : Out := ifUp (inbIf 0x11 response p) s

/-- REQUEST_EXPIRY: a sent request has waited ACK_US microseconds of its port die (R516). -/
def expiryS (tag : Nat) (s : State) : State :=
  match s.rbx.out.find? (fun q => decide (q.tag = tag ∧ q.port ≠ none)) with
  | none => s
  | some q => if refOf s q.die - q.since < s.rbx.ackUs * refUs then s else pumpRbx (expireReq q s)

def execRequestExpiry (tag : Nat) (s : State) : Out := ifUp (expiryS tag) s

end Sys2Proof.Machine
end

