-- ==== Sys2Proof/Machine/PowerOps.lean ====
section
/-! DEFINITION. Power and heat: input stops (R521, R522), the 10 µs power sample (R531, R539-R541), powered
hours (R543), the 100 µs thermal sample (R548), budget windows (R526-R530) and boost steps (R535, R536). -/

namespace Sys2Proof.Machine

/-- What a loss of power leaves: the queue of commands, the host's memory, flash and fuses, the calibration
set, powered hours, and nothing else (R522, R544, R551, R596). [DEDUCED, log entry 121; DESIGN CHOICE, log entry 122] -/
def losePower (ph : Phase) (s : State) : State :=
  { State.reset with
    pending := s.pending,
    host := { mem := s.host.mem, dirty := [] },
    clk := { free := s.clk.free },
    pwr := { phase := ph, hours := s.pwr.hours, writes := s.pwr.writes,
             origin := if s.pwr.calNext.isSome then 1 else s.pwr.origin,
             cal := s.pwr.calNext.getD s.pwr.cal },
    pin := { perst := s.pin.perst, pwrbrk := s.pin.pwrbrk, trayStop := s.pin.trayStop, addr := s.pin.addr,
             thermtrip := decide (ph = .offTrip) },
    sec := { svnFloor := s.sec.svnFloor, nonceNo := s.sec.nonceNo, imageA := s.sec.imageA, imageB := s.sec.imageB } }

/-- The module's regulators are on. -/
def powered (s : State) : Bool :=
  match s.pwr.phase with
  | .off => false
  | .offOver => false
  | .offTrip => false
  | _ => true

/-- UNDERVOLTAGE_STOP: the regulators turn off; below 44 V every wait for the input to fall ends, and
THERMTRIP_N is released (R522, R549). -/
def execUndervoltageStop (s : State) : Out := .next (losePower .off s)

/-- OVERVOLTAGE_STOP: the regulators turn off until the input has fallen below 44 V (R522). A module that
waits after a trip goes on holding THERMTRIP_N. -/
def execOvervoltageStop (s : State) : Out :=
  .next (match s.pwr.phase with
    | .offTrip => s
    | _ => losePower .offOver s)

/-! ### Power sample -/

/-- INPUT_RANGE, at most once per second (R552). [DEDUCED, log entry 22] -/
def inputRange (v : Nat) (s : State) : State :=
  let low := decide (4400 ≤ v ∧ v < 4600)
  let high := decide (5900 < v ∧ v ≤ 6000)
  let due := match s.pwr.inputAt with
    | none => true
    | some t => decide (1000 * refMs ≤ refOf s pd0 - t)
  if (low || high) && due then
    raise pd0 0x0036 0 0 v (b2n high) 0 { s with pwr := { s.pwr with inputAt := some (refOf s pd0) } }
  else s

/-- ALERT_N follows the input range and the temperature alert (R643). -/
def driveAlert (s : State) : State :=
  { s with pin := { s.pin with
      alert := s.pwr.alertOn || s.pwr.inputOut } }

/-- A running command's measured energy grows by `e` µJ on partition `p`; what passes its estimate is debited
from its slice there (R531). -/
def measure (p q seq e : Nat) (s : State) : State :=
  match (tget? s.cmd.queues q).bind (fun u => (u.cmds.find? (fun c => decide (c.seq = seq))).map (fun c => (u, c))) with
  | none => s
  | some (u, c) =>
    let past := max (c.used + e) c.energy - max c.used c.energy
    let key := bk (chargedSlice s u c) p
    let s := setCmd q seq (fun c => { c with used := c.used + e }) s
    if (grantOf s (key / 16) p).isSome then
      { s with pwr := { s.pwr with remaining := tmod 0 s.pwr.remaining key (· - (past : Int)) } }
    else s

/-- Attributes `e` µJ of partition `p` to command (q, seq) of a context: to the context, to the queue that took the command, and
to what the command has drawn (R531, R541). -/
def attribute_ (p q seq c e : Nat) (s : State) : State :=
  measure p q seq e { s with pwr := { s.pwr with
    eCtx := tmod 0 s.pwr.eCtx c (· + e), eQueue := tmod 0 s.pwr.eQueue q (· + e) } }

/-- Shares of a sample: queue, sequence number, context and µJ. The active part goes in proportion to the activity counts, the
base draw in proportion to the stations that each launch holds (R541). -/
def sampleShares (s : State) (p : Nat) (m : PartSample) : List (Nat × Nat × Nat × Nat) :=
  let acts := sumNat (m.acts.map (fun a => a.2.2.2))
  m.acts.map (fun a => (a.1, a.2.1, a.2.2.1, if acts = 0 then 0 else m.active * a.2.2.2 / acts)) ++
    s.sch.launches.map (fun l => (l.2.q, l.2.seq, l.2.ctx, (m.total - m.active) * launchStations s l.1 p / 168))

/-- Attributes one partition's sample; what no context is given falls to context 0 (R541). -/
def shareSample (p : Nat) (m : PartSample) (s : State) : State :=
  let shares := sampleShares s p m
  let given := sumNat (shares.map (fun a => a.2.2.2))
  let s := shares.foldl (fun s a => attribute_ p a.1 a.2.1 a.2.2.1 a.2.2.2 s) s
  { s with pwr := { s.pwr with
      eCtx := tmod 0 s.pwr.eCtx 0 (· + (m.total - given)), ePart := tmod 0 s.pwr.ePart p (· + m.total) } }

/-- POWER_SAMPLE. -/
def powerSampleS (m : PowerIn) (s : State) : State :=
  let s := { s with pwr := { s.pwr with
    volts := m.volts, inputOut := decide (m.volts < 4600 ∨ 5900 < m.volts), amps := m.amps, mean1ms := m.mean1ms, mean10ms := m.mean10ms, port10ms := m.port10ms,
    eIn := s.pwr.eIn + m.inUj, ePort := s.pwr.ePort + m.portUj, eCtx := tmod 0 s.pwr.eCtx 0 (· + m.portUj) } }
  let s := (m.parts.take 10).zipIdx.foldl (fun s e => shareSample e.2 e.1 s) s
  driveAlert (inputRange m.volts s)

def execPowerSample (m : PowerIn) (s : State) : Out := ifUp (powerSampleS m) s

/-- POWERED_HOUR (R543). -/
def execPoweredHour (s : State) : Out :=
  .next (if powered s then { s with pwr := { s.pwr with hours := s.pwr.hours + 1 } } else s)

/-! ### Heat (R548) -/

/-- Throttle: begins at 95 °C with THERMAL_THROTTLE, and ends below 93 °C; while a compute die is at 95 °C or
above, its hotter half goes down a point, and in fixed-frequency mode, which the brake suspends, both halves together (R535, R538, R548). [DEDUCED, log entry 27] -/
def throttle (die tj : Nat) (hot : Nat) (s : State) : State :=
  if 95 ≤ tj then
    let s := { s with pwr := { s.pwr with throttled := insKey die s.pwr.throttled } }
    if die < 10 then
      if tget 1 s.pwr.mode die = 1 ∧ ¬ s.pwr.brake then
        let s := fixedBroken die 1 s
        raise die 0x0034 0 0 die tj (halfClk s (2 * die)).point s
      else
        let w := (halfClk s (2 * die)).point
        let e := (halfClk s (2 * die + 1)).point
        let s := if hot = 0 then moveHalves die (w - 1) e s else moveHalves die w (e - 1) s
        raise die 0x0034 0 0 die tj (halfClk s (2 * die + hot)).point s
    else raise die 0x0034 0 0 die tj 50 s
  else if tj < 93 then
    { s with pwr := { s.pwr with throttled := s.pwr.throttled.filter (fun d => !decide (d = die)) } }
  else s

/-- The half whose point is higher stands for the hotter one (R548 does not give per-half sensors). [DEDUCED, log entry 27] -/
def hotterHalf (s : State) (p : Nat) : Nat :=
  if (halfClk s (2 * p)).point < (halfClk s (2 * p + 1)).point then 1 else 0

/-- Every die's last junction sample is below 98 °C. -/
def allCool (s : State) : Bool := allDies.all (fun d => decide (tget 0 s.pwr.tj d < 98))

/-- Alert: a die's from 100 °C until below 98 °C, with a platform event message on the sideband; ALERT_N stays asserted until
every die is below 98 °C (R548, R649). [DEDUCED, log entry 27] -/
def alertLevel (die tj : Nat) (s : State) : State :=
  if 100 ≤ tj then
    let s := if die ∈ s.pwr.alerting then s
      else raise die 0x0035 0 0 die tj 0 { s with pin := { s.pin with platform := s.pin.platform ++ [.thermal die tj] } }
    driveAlert { s with pwr := { s.pwr with alerting := insKey die s.pwr.alerting, alertOn := true } }
  else if tj < 98 then
    driveAlert { s with pwr := { s.pwr with
      alerting := s.pwr.alerting.filter (fun d => !decide (d = die)), alertOn := s.pwr.alertOn && !allCool s } }
  else s

/-- THERMAL_SAMPLE of a die. At 115 °C the module trips: THERMTRIP_N, regulators off, nothing saved. [DEDUCED, log entry 27] -/
def thermalSampleS (die tj : Nat) (s : State) : State :=
  if die ∉ allDies then s
  else
    let s := { s with pwr := { s.pwr with
      tj := tset 0 s.pwr.tj die tj, tmax := tmod 0 s.pwr.tmax die (max tj) } }
    if 115 ≤ tj then losePower .offTrip s
    else alertLevel die tj (throttle die tj (hotterHalf s die) s)

def execThermalSample (die tj : Nat) (s : State) : Out :=
  .next (if powered s then thermalSampleS die tj s else s)

/-! ### Budget windows (R526-R530) -/

/-- Refills one slice's budget at a window start: unused budget does not carry over, debt is repaid first. -/
def refill (p n b : Nat) (s : State) : State :=
  let key := bk n p
  let rem := tget 0 s.pwr.remaining key
  { s with pwr := { s.pwr with
      remaining := tset 0 s.pwr.remaining key (if 0 ≤ rem then (b : Int) else rem + b),
      budget := tset 0 s.pwr.budget key b } }

/-- BUDGET_WINDOW of partition `p`, with its measured base draw and the port dies' mean draw. -/
def budgetWindowS (p baseW portW : Nat) (s : State) : State :=
  if 10 ≤ p ∨ p ∈ s.seam.fenced then s
  else
    let g := partBudget s portW - baseW * 1000
    let sum := grantSum s p
    let ns := grantees s p
    let s := { s with pwr := { s.pwr with
      mode := tput s.pwr.mode p s.pwr.modeSel, portRes := portReserve portW,
      grantMw := tset 0 s.pwr.grantMw p g, baseW := tset 0 s.pwr.baseW p baseW,
      pool := tset 0 s.pwr.pool p (g - sum) } }
    let s := ns.foldl (fun s n =>
      let gr := (grantOf s n p).getD 0
      updateBreach p ns.length n gr (effBudget gr sum g) (refill p n (effBudget gr sum g) s)) s
    let s := endBreaches p ns s
    if tget 1 s.pwr.mode p = 1 ∧ ¬ s.pwr.brake ∧ effCap s < s.pwr.mean10ms then fixedBroken p 0 s else s

def execBudgetWindow (part baseW portW : Nat) (s : State) : Out := ifUp (budgetWindowS part baseW portW) s

/-! ### Boost steps (R535, R536) -/

/-- Admitted estimates running on a half, µJ: each started command's shares on its partition, in proportion to the stations
that its launch holds there on the half; a command that holds no station runs on neither half (R536). [DESIGN CHOICE, log entry 127] -/
def halfLoad (s : State) (h : Nat) : Nat :=
  sumNat (s.cmd.queues.flatMap (fun e => (e.2.cmds.filter (fun c => decide (c.phase = .started))).map (fun c =>
    match launchOf s e.1 c.seq with
    | some (k, _) =>
      let all := launchStations s k (h / 2)
      let mine := (s.sch.stns.filter (fun x => decide (x.2.launch = k ∧ stnHalf x.1 = h))).length
      sumNat ((c.shares.filter (fun x => decide (x.1 % 16 = h / 2))).map (fun x => x.2 * mine)) / max 1 all
    | none => 0)))

/-- A half's share of its partition's budget `b`: in proportion to the admitted estimates running on each half, and at
least 20% (R27, R536). With no estimate on either half each has half of it. [DESIGN CHOICE, log entry 127] -/
def halfShare (s : State) (b h : Nat) : Nat :=
  let mine := halfLoad s h
  let all := mine + halfLoad s (2 * (h / 2) + (1 - h % 2))
  if all = 0 then b / 2 else min (b - b / 5) (max (b / 5) (b * mine / all))

/-- The planner of partition `p` sets the power caps of its halves (R27, R536). -/
def setHalfCaps (p : Nat) (s : State) : State :=
  let b := tget 0 s.pwr.grantMw p + tget 0 s.pwr.baseW p * 1000
  { s with pwr := { s.pwr with
      halfMw := tset 0 (tset 0 s.pwr.halfMw (2 * p) (halfShare s b (2 * p))) (2 * p + 1) (halfShare s b (2 * p + 1)) } }

/-- Highest point the planner may choose now: points 13-15 only below 85 °C (R536). -/
def topPoint (s : State) (p : Nat) : Nat := if tget 0 s.pwr.tj p < 85 then 15 else 12

/-- The planner restarts what the brake stopped (R537). [DESIGN CHOICE, log entry 34] -/
def restartHalves (s : State) : State := { s with pwr := { s.pwr with braked := false } }

/-- BOOST_STEP: in boost mode each half moves one point towards the planner's choice; in fixed-frequency mode
both halves go down together while the cap or a throttle level needs it, and return to point 12 together. The points a
planner predicts are the command's operands; the caps it predicts them under are set beside them. After the brake has stopped the
stations and engines, the first step restarts them. [DESIGN CHOICE, log entry 34; DEDUCED, log entry 52] -/
def boostStepS (p west east : Nat) (s : State) : State :=
  if 10 ≤ p ∨ p ∈ s.seam.fenced then s
  else if tget 1 s.pwr.mode p = 1 ∧ ¬ s.pwr.brake then
    if effCap s < s.pwr.mean10ms then fixedBroken p 0 s
    else if partThrottled s p then seamFollow p s
    else moveHalves p 12 12 s
  else
    let cut := fun t h => if partThrottled s p then min t (halfClk s h).point else min t (topPoint s p)
    restartHalves (setHalfCaps p (moveHalves p (cut west (2 * p)) (cut east (2 * p + 1)) s))

def execBoostStep (part west east : Nat) (s : State) : Out := ifUp (boostStepS part west east) s

/-! ### Commands of the manager -/

/-- BUDGET_SET (R527): replaces a slice's grant on the partitions of a mask. [DEDUCED, log entry 20] -/
def budgetSetS (u : Queue) (c : TakenCmd) (s : State) : State :=
  let uj := par c 0 4
  let n := par c 4 2
  let mask := par c 6 2
  if 404000 < uj ∨ n = 0 ∨ 127 < n ∨ 1024 ≤ mask then finishCmd u.num c.seq stBadParam 0 s
  else if (tget? s.ten.slices n).isNone then finishCmd u.num c.seq stSliceAbsent 0 s
  else
    finishCmd u.num c.seq stOk 0 { s with pwr := { s.pwr with
      grants := (bitsSet 10 mask).foldl (fun t p => tput t (bk n p) uj) s.pwr.grants } }

def execBudgetSet (q seq : Nat) (s : State) : Out := cmdOut 0x0701 q seq budgetSetS s

/-- CAP_SET (R524); during the brake the cap is stored and takes effect on release (R538). -/
def capSetS (u : Queue) (c : TakenCmd) (s : State) : State :=
  let w := par c 0 2
  if w < 1500 ∨ 4400 < w then finishCmd u.num c.seq stCapRange 0 s
  else if s.pwr.brake then finishCmd u.num c.seq stOk 0 { s with pwr := { s.pwr with capStored := some w } }
  else finishCmd u.num c.seq stOk 0 { s with pwr := { s.pwr with cap := w } }

def execCapSet (q seq : Nat) (s : State) : Out := cmdOut 0x0702 q seq capSetS s

/-- MODE_SET (R532): in force at each partition's next window start. -/
def modeSetS (u : Queue) (c : TakenCmd) (s : State) : State :=
  if 1 < par c 0 1 then finishCmd u.num c.seq stBadParam 0 s
  else finishCmd u.num c.seq stOk 0 { s with pwr := { s.pwr with modeSel := par c 0 1 } }

def execModeSet (q seq : Nat) (s : State) : Out := cmdOut 0x0703 q seq modeSetS s

/-- An energy entry (R542). -/
def energyEntry (id kind e : Nat) : List Byte := layout 16 [(0, leBytes 2 id), (2, leBytes 1 kind), (8, leBytes 8 e)]

/-- Entries that a SCOPE selects. -/
def energyEntries (s : State) (u : Queue) (c : TakenCmd) (scope : Nat) : List (List Byte) :=
  if scope = 0 then [energyEntry c.ctx 0 (tget 0 s.pwr.eCtx c.ctx)]
  else if scope = 1 then
    (s.cmd.queues.filter (fun e => decide (e.2.slice = u.slice))).map (fun e => energyEntry e.1 1 (tget 0 s.pwr.eQueue e.1))
  else (List.range 10).map (fun p => energyEntry p 2 (tget 0 s.pwr.ePart p)) ++
    [energyEntry 0 3 s.pwr.ePort, energyEntry 0 4 s.pwr.eIn]

/-- ENERGY_READ (R542). -/
def energyReadS (u : Queue) (c : TakenCmd) (s : State) : State :=
  let out := par c 0 8
  let scope := par c 8 1
  if 2 < scope then finishCmd u.num c.seq stBadParam 0 s
  else if scope = 2 ∧ u.slice ≠ 0 then finishCmd u.num c.seq stNotPermitted 0 s
  else
    let es := energyEntries s u c scope
    let d := cplxDie u.cplx
    let hdr := layout 64 [(0, leBytes 4 0x0C0B), (4, leBytes 2 es.length), (6, leBytes 1 d), (8, leBytes 8 (refOf s d))]
    let rec_ := hdr ++ es.flatMap id
    finishCmd u.num c.seq stOk rec_.length (hostWrite u.pasid out rec_ s)

def execEnergyRead (q seq : Nat) (s : State) : Out := cmdOut 0x0C02 q seq energyReadS s

/-! ### Calibration set (R543-R547) -/

/-- Bytes of the factory set: the layout of R544 over values the spec leaves to the factory. -/
def factorySet (hours writes : Nat) : List Byte :=
  let vf := (List.range 20).flatMap (fun h => (List.range 16).flatMap (fun k =>
    let v := Config.factoryVolt h k
    let g := Config.factoryGb h k
    leBytes 2 (if k ≤ 12 then 600 + v % 451 else if v = 0 then 0 else 600 + v % 451) ++ leBytes 1 g ++ leBytes 1 (g / 256)))
  let body := fun crc : Nat =>
    leBytes 4 0x4C414B43 ++ leBytes 2 1 ++ leBytes 1 0 ++ leBytes 1 0 ++ leBytes 4 77824 ++ leBytes 4 crc ++
    leBytes 4 hours ++ leBytes 4 writes ++ zeros 40 ++
    (List.range 20).flatMap (fun k => leBytes 4 (Config.factoryMask k)) ++ zeros 112 ++ vf ++
    (List.range 76288).map Config.factoryTrim
  body (crc32c (body 0))

/-- A set's bytes with the module's own powered hours and write count. -/
def ownCounts (hours writes : Nat) (cal : List Byte) : List Byte :=
  let b := cal.take 12 ++ leBytes 4 0 ++ leBytes 4 hours ++ leBytes 4 writes ++ cal.drop 24
  b.take 12 ++ leBytes 4 (crc32c b) ++ b.drop 16

/-- The stored set: the one written last, else the factory's. [DEDUCED, log entry 121] -/
def storedSet (s : State) : List Byte :=
  let cal := s.pwr.calNext.getD s.pwr.cal
  if cal.isEmpty then factorySet s.pwr.hours s.pwr.writes else ownCounts s.pwr.hours s.pwr.writes cal

/-- Forced map-out mask of a stack in the set in force (R281, R544); the built-in set forces none. -/
def forcedMask (s : State) (k : Nat) : Nat :=
  if s.pwr.calDefault then 0
  else if s.pwr.cal.isEmpty then Config.factoryMask k % 2 ^ 32
  else field s.pwr.cal (64 + 4 * k) 4

/-- CAL_READ (R546); refused while the built-in set is in force (R630). -/
def calReadS (u : Queue) (c : TakenCmd) (s : State) : State :=
  if s.pwr.calDefault then finishCmd u.num c.seq stCalBad 0 s
  else if par c 8 4 < 77824 then finishCmd u.num c.seq stBadParam 0 s
  else finishCmd u.num c.seq stOk 77824 (hostWrite u.pasid (par c 0 8) (storedSet s) s)

def execCalRead (q seq : Nat) (s : State) : Out := cmdOut 0x0B01 q seq calReadS s

/-- A voltage/frequency entry meets R545: an enabled voltage of 600-1,050 mV, and points 0-12 enabled. -/
def vfOk (cal : List Byte) (h k : Nat) : Bool :=
  let v := field cal (256 + 64 * h + 4 * k) 2
  decide ((600 ≤ v ∧ v ≤ 1050) ∨ (v = 0 ∧ 12 < k))

/-- R547's checks on a set: size, MAGIC, FORMAT, CRC, reserved fields and R545. [DEDUCED, log entry 121] -/
def calValid (cal : List Byte) : Bool :=
  decide (cal.length = 77824 ∧ field cal 0 4 = 0x4C414B43 ∧ field cal 4 2 = 1 ∧ field cal 8 4 = 77824) &&
  decide (field cal 12 4 = crc32c (cal.take 12 ++ zeros 4 ++ cal.drop 16)) &&
  zeroAt cal 7 1 && zeroAt cal 24 40 && zeroAt cal 144 112 &&
  (List.range 20).all (fun h => (List.range 16).all (vfOk cal h))

/-- CAL_WRITE (R547). [DEDUCED, log entry 121] -/
def calWriteS (u : Queue) (c : TakenCmd) (s : State) : State :=
  let cal := hostRead s u.pasid (par c 0 8) 77824
  if 10000 ≤ s.pwr.writes then finishCmd u.num c.seq stCalWorn 0 s
  else if par c 8 4 ≠ 77824 ∨ ¬ calValid cal then finishCmd u.num c.seq stCalBad 0 s
  else
    let w := s.pwr.writes + 1
    let set1 := cal.take 6 ++ [1] ++ cal.drop 7
    finishCmd u.num c.seq stOk 0 (raise pd0 0x0037 0 0 w 0 0
      { s with pwr := { s.pwr with writes := w, calNext := some set1 } })

def execCalWrite (q seq : Nat) (s : State) : Out := cmdOut 0x0B02 q seq calWriteS s

end Sys2Proof.Machine
end

