-- ==== Sys2Proof/Machine/Startup.lean ====
section
/-! DEFINITION. Start-up: straps (R459-R462), training of bundles (R467, R469), channels (R281, R282), clock
correlation (R40-R42), Uhlug images (R558, R559), boot status (R630) and READY (R622). -/

namespace Sys2Proof.Machine

/-! ### Straps (R459, R460) -/

/-- A word with its parity bit. -/
def withParity (w : Nat) : Nat := w + 2 ^ 15 * (popCount 15 w % 2)

/-- The strap word of a die's place on the floor plan. -/
def strapOf (d : Nat) : Nat :=
  if d < 10 then withParity (d + 2 ^ 8 * (d / 5) + 2 ^ 9 * (d % 5))
  else if d < 0x30 then
    let n := d - 0x10
    let p := n / 2
    withParity (d + 2 ^ 6 + 2 ^ 8 * (p / 5) + 2 ^ 9 * (p % 5) + 2 ^ 12 * (n % 2))
  else withParity (d + 2 ^ 7 + 2 ^ 12 * (d - 0x30))

/-- R460's checks of a strap word. -/
def strapOk (w : Nat) : Bool :=
  let num := bits w 5 0
  let row := bits w 8 8
  let col := bits w 11 9
  let side := bits w 12 12
  decide (popCount 16 w % 2 = 0 ∧ bits w 14 13 = 0) &&
    (match bits w 7 6 with
     | 0 => decide (num = 5 * row + col)
     | 1 => decide (num = 0x10 + 2 * (5 * row + col) + side)
     | 2 => decide (num = 0x30 + side)
     | _ => false)

/-- The word a die reads. -/
def strapRead (straps : List (Nat × Nat)) (d : Nat) : Nat :=
  ((straps.find? (fun e => decide (e.1 = d))).map (·.2)).getD (strapOf d)

/-! ### Bundles (R461, R466, R467) -/

/-- A bundle after training with the failing lanes of a mask. -/
def trained (old : Bundle) (mask : Nat) : Bundle :=
  let n := popCount 18 mask
  { old with
    st := if n ≤ 2 then 1 else if n = 3 then 2 else 3,
    spares := 2 - n, failed := n,
    lastLane := if n = 0 then 31 else maxNat (bitsSet 18 mask) }

/-- Failing lanes of a bundle. -/
def lanesOf (l : List (Nat × Nat × Nat)) (link b : Nat) : Nat :=
  ((l.find? (fun e => decide (e.1 = link ∧ e.2.1 = b))).map (·.2.2)).getD 0

/-- The word that a bundle receives where it is not the expected one: an explicit one, or a wrong strap word
of an end. -/
def wrongWord (straps : List (Nat × Nat)) (words : List (Nat × Nat × Nat)) (link b : Nat) : Option (Nat × Nat) :=
  match words.find? (fun e => decide (e.1 = link ∧ e.2.1 = b)) with
  | some e => if e.2.2 = strapOf (linkEnds link).2 then none else some (strapOf (linkEnds link).2, e.2.2)
  | none =>
    let a := (linkEnds link).1
    let z := (linkEnds link).2
    if strapRead straps z ≠ strapOf z then some (strapOf z, strapRead straps z)
    else if strapRead straps a ≠ strapOf a then some (strapOf a, strapRead straps a)
    else none

/-- Trains one bundle: OUT where an end is held in reset or receives an unexpected word. -/
def trainBundle (straps : List (Nat × Nat)) (lanes words : List (Nat × Nat × Nat)) (link b : Nat) (s : State) : State :=
  let key := link * 16 + b
  let old := tget {} s.seam.bundles key
  let held := fun d => !strapOk (strapRead straps d)
  let e := linkEnds link
  let new := if held e.1 || held e.2 || (wrongWord straps words link b).isSome then { old with st := 3 }
    else trained old (lanesOf lanes link b)
  { s with seam := { s.seam with bundles := tput s.seam.bundles key new } }

/-- Trains every bundle of a link; IDENTITY_MISMATCH where every bundle receives an unexpected word (R461). Each
training starts a new watch of the link (R472). [DESIGN CHOICE, log entry 38] -/
def trainLink (straps : List (Nat × Nat)) (lanes words : List (Nat × Nat × Nat)) (link : Nat) (s : State) : State :=
  let bs := List.range (linkBundles link)
  let s := bs.foldl (fun s b => trainBundle straps lanes words link b s) s
  let s := { s with seam := { s.seam with watch := tset {} s.seam.watch link {} } }
  let ends := linkEnds link
  if strapOk (strapRead straps ends.1) && strapOk (strapRead straps ends.2) &&
      bs.all (fun b => (wrongWord straps words link b).isSome) then
    let w := (wrongWord straps words link 0).getD (0, 0)
    raise pd0 0x0024 0 0 link w.1 w.2 s
  else s

/-- Links at a partition: its Crust links and those that end at its compute die. -/
def partLinks (p : Nat) : List Nat :=
  (List.range 45).filter (fun l => decide ((linkEnds l).1 = p ∨ (linkEnds l).2 = p))

/-- A partition's compute die is held in reset or has no seam link in service (R462). -/
def partAbsent (s : State) (straps : List (Nat × Nat)) (p : Nat) : Bool :=
  !strapOk (strapRead straps p) || !(partLinks p).any (linkUp s)

/-! ### Channels (R281, R282) -/

/-- Channels of a stack that go out: more than four in all map the whole stack out. [DEDUCED, log entry 108] -/
def outChannels (cs : List Nat) (c : Cru) : Cru :=
  let out := c.chOut ++ (cs.filter (fun x => decide (x ∉ c.chOut)))
  { c with chOut := out.take 4, mapped := c.mapped || decide (4 < out.length),
           chPending := c.chPending &&& (2 ^ 32 - 1 ^^^ maskOf cs) }

/-- Channels mapped out at start-up: failed training and the forced mask, in ascending order. -/
def bootChannels (s : State) (b : BootIn) (k : Nat) : List Nat :=
  (List.range 32).filter (fun c => decide ((k, c) ∈ b.chFail) || bitOf (forcedMask s k) c)

/-- Starts one stack: maps out its channels, or the stack whole where its Crust die is held in reset, trains
none of its bundles, or lies on an absent partition (R462). [DESIGN CHOICE, log entry 38] -/
def bootStack (b : BootIn) (k : Nat) (s : State) : State :=
  let out := bootChannels s b k
  let s := (bitsSet 32 (forcedMask s k)).foldl (fun s c => raise (crustDie k) 0x0001 0 0 k c 0 s) s
  let gone := !strapOk (strapRead b.straps (crustDie k)) || !linkUp s k || partAbsent s b.straps (stackPart k)
  setCru k (fun c => { outChannels out c with
    mapped := (outChannels out c).mapped || gone,
    bundles := min 15 (linkInService s k) }) s

/-! ### Clock correlation (R40-R42, R628) -/

/-- STATE of a die in a record: 1 fenced, held in reset or without clock, 2 mapped out, 0 sampled. A Crust die that is both
fenced and mapped out shows 1. A die that no bundle joins to the ring or its partition shows 0 and its count, unless it is
fenced: R41 gives no state for it. [DESIGN CHOICE, log entry 124] -/
def corrState (s : State) (d : Nat) : Nat :=
  if d ∈ s.clk.lost ∨ tget 0 s.seam.dieState d = 3 then 1
  else
    match diePart d with
    | none => 0
    | some p =>
      if p ∈ s.seam.fenced then 1
      else if 0x10 ≤ d ∧ (cruOf s (d - 0x10)).mapped then 2
      else 0

/-- A clock-correlation record of a marker that left when the counters stood at `at0`, with error bounds for the dies in
ascending order, each at most 120 ns. UNCERT_NS of a sampled die for which no bound is given, as in the record of start-up,
is 120, and of a die not sampled 0: R41 gives only the bound. [DESIGN CHOICE, log entry 124] -/
def corrRecord (s : State) (at0 : Tbl Nat) (uncert : List Nat) : List Byte :=
  leBytes 4 0x0C01 ++ leBytes 4 s.clk.corrSeq ++ leBytes 8 (tget 0 at0 pd0) ++ zeros 48 ++
  allDies.zipIdx.flatMap (fun e =>
    let st := corrState s e.1
    leBytes 1 e.1 ++ leBytes 1 (dieKind e.1) ++ leBytes 1 st ++ zeros 1 ++
    leBytes 2 (if st = 0 then min 120 (uncert.getD e.2 120) else 0) ++ zeros 2 ++
    leBytes 8 (if st = 0 then tget 0 at0 e.1 else 0))

/-- PD0 makes the next record, of a marker that left at the counts `at0`, and places it in ID_CLOCK_REC (R628). -/
def makeRecord (at0 : Tbl Nat) (uncert : List Nat) (s : State) : State :=
  { s with clk := { s.clk with record := corrRecord s at0 uncert, corrSeq := s.clk.corrSeq + 1 } }

/-- A marker leaves PD0 for the commands of `ws` (R40, R42). [DESIGN CHOICE, log entry 125] -/
def markerLeaves (ws : List (Nat × Nat)) (s : State) : State :=
  { s with clk := { s.clk with marker := some s.clk.ref, corrWait := ws, corrNext := [] } }

/-- A command that waits for a marker gets record number `n`: the record at the address it names, and its reply. -/
def corrAnswer (n q seq : Nat) (s : State) : State :=
  match (tget? s.cmd.queues q).bind (fun u => (u.cmds.find? (fun c => decide (c.seq = seq))).map (fun c => (u, c))) with
  | some (u, c) =>
    if c.op = 0x0C01 ∧ c.phase = .started then finishCmd q seq stOk n (hostWrite u.pasid (par c 0 8) s.clk.record s) else s
  | none => s

/-- The marker in flight has reached every die: the record is made and answers the commands that waited for it, and a marker
leaves for those that came meanwhile (R42). [DESIGN CHOICE, log entry 125] -/
def markerBack (at0 : Tbl Nat) (uncert : List Nat) (s : State) : State :=
  let s1 := s.clk.corrWait.foldl (fun t w => corrAnswer s.clk.corrSeq w.1 w.2 t) (makeRecord at0 uncert s)
  if s.clk.corrNext = [] then { s1 with clk := { s1.clk with marker := none, corrWait := [] } }
  else markerLeaves s.clk.corrNext s1

/-- CLOCK_CORR (R40-R42): with no marker in flight one leaves for the command; a command that comes while one is in flight
waits for the next; and for a command that waits already, the marker in flight comes back. [DESIGN CHOICE, log entry 125] -/
def clockCorrS (uncert : List Nat) (u : Queue) (c : TakenCmd) (s : State) : State :=
  match s.clk.marker with
  | none => markerLeaves [(u.num, c.seq)] s
  | some at0 =>
    if (u.num, c.seq) ∈ s.clk.corrWait ++ s.clk.corrNext then markerBack at0 uncert s
    else { s with clk := { s.clk with corrNext := s.clk.corrNext ++ [(u.num, c.seq)] } }

def execClockCorr (q seq : Nat) (uncert : List Nat) (s : State) : Out :=
  cmdOut 0x0C01 q seq (clockCorrS uncert) s

/-! ### Uhlug images (R558, R559) -/

/-- SVN and FLOOR of an image. -/
def imgSvn (i : Image) : Nat := field i.bytes 6 2
def imgFloor (i : Image) : Nat := field i.bytes 8 2

/-- Lowest SVN that may boot: fused at the factory, and raised since. -/
def floorNow (s : State) : Nat := max Config.svnFloor s.sec.svnFloor

/-- The boot ROM's checks of an image: header, signature, digest of the code, and SVN. -/
def imageValid (s : State) (i : Image) : Bool :=
  let code := i.bytes.drop 256
  decide (256 ≤ i.bytes.length ∧ field i.bytes 0 4 = 0x47554855 ∧ field i.bytes 4 2 = 1 ∧ 1 ≤ imgSvn i) &&
  zeroAt i.bytes 10 6 && zeroAt i.bytes 168 88 && decide (field i.bytes 16 8 = code.length) &&
  decide ((List.range 48).map (Config.sha384 code) = (i.bytes.drop 24).take 48) &&
  Config.fwSigOk (i.bytes.take 168) && decide (floorNow s ≤ imgSvn i)

/-- The slots whose images are valid, the one to boot first at the front: the higher SVN, A when equal. -/
def bootOrder (s : State) : List Bool :=
  let a := imageValid s s.sec.imageA
  let b := imageValid s s.sec.imageB
  if a ∧ b then (if imgSvn s.sec.imageA < imgSvn s.sec.imageB then [true, false] else [false, true])
  else if a then [false] else if b then [true] else []

/-- Image of a slot. -/
def slotImage (s : State) (slot : Bool) : Image := if slot then s.sec.imageB else s.sec.imageA

/-! ### Boot status (R630, R631) -/

/-- Sets ID_BOOT's status fields; a change of STATUS sends a platform event message (R649). -/
def bootReport (stage status die : Nat) (s : State) : State :=
  { s with
    pin := { s.pin with platform := s.pin.platform ++ (if s.idr.status = status then [] else [.boot status]) },
    idr := { s.idr with
      stage := stage, status := status, die := die, elapsedMs := min 65535 (refOf s pd0 / refMs) } }

/-- A boot halt: FAULT_N asserted, nothing but the ID_ registers and the sideband served (R631). -/
def bootHalt (status die : Nat) (s : State) : State :=
  bootReport 15 status die { s with
    pwr := { s.pwr with phase := .halted }, pin := { s.pin with fault := true }, cmd := { s.cmd with ready := false } }

/-- Lowest die concerned by a degraded start: an absent partition's, a stack's or channel's, a bundle's (R630). -/
def degradedDie (s : State) : Option Nat :=
  allDies.find? (fun d =>
    (decide (d < 10) && decide (d ∈ s.seam.absent)) ||
    (decide (0x10 ≤ d ∧ d < 0x30) && ((cruOf s (d - 0x10)).mapped || !(cruOf s (d - 0x10)).chOut.isEmpty)) ||
    (List.range 45).any (fun l => decide ((linkEnds l).1 = d ∨ (linkEnds l).2 = d) &&
      (List.range (linkBundles l)).any (fun b => decide ((bundleOf s l b).st = 3))))

/-- The Crumb region (R607): an 8 MiB manager extent, pinned-stack on the lowest-numbered stack in service. [DESIGN CHOICE, log entry 42] -/
def crumbExtent (gen k : Nat) (grans : List Nat) : Extent :=
  { gen := gen, length := 8388608, placement := 2, place := k, attr := 0, sharedSet := 0, replicaWhere := 0,
    sealSet := 0, owner := 0, slice := 0, stks := [k], grans := [grans], tagGrans := [], repStacks := [],
    repGrans := [], loaded := [], damaged := false, withdrawn := false, repaired := 0, damagedAt := 0 }

/-- Places the Crumb region on a stack, where it has room. [DESIGN CHOICE, log entry 42] -/
def placeCrumb (k : Nat) (s : State) : State :=
  match takeGrans s k 128 [] [] with
  | some (gs, _) => { s with
      xt := { s.xt with extents := tput s.xt.extents 0 (crumbExtent (tget 0 s.xt.gens 0) k gs) },
      err := { s.err with regionExt := some 0 } }
  | none => s

/-- Stacks in service, lowest first. -/
def stacksUp (s : State) : List Nat :=
  (List.range 20).filter (fun k => stackInService s k && !decide (stackPart k ∈ s.seam.fenced))

/-- Uhlug reaches READY: manager key, Crumb region, queue 0, SVN floor (R622 step 10); a rung 4 under way is complete (R600). [DEDUCED, log entry 59] -/
def reachReady (slot : Bool) (s : State) : State :=
  let i := slotImage s slot
  let st := if s.pwr.calDefault then (0x02, 0x30)
    else match degradedDie s with
      | some d => (0x01, d)
      | none => (0x00, 0x3F)
  let s := if s.err.regionExt.isSome then s
    else match stacksUp s with
      | k :: _ => placeCrumb k s
      | [] => s
  let s := match rungReq? s 4 0 with
    | some q => endRung q s
    | none => s
  bootReport 11 st.1 st.2 { s with
    pwr := { s.pwr with phase := .ready },
    pin := { s.pin with fault := false },
    idr := { s.idr with readyCount := refOf s pd0 },
    sec := { s.sec with
      svn := imgSvn i, digest := (i.bytes.drop 24).take 48, slot := slot, svnFloor := max s.sec.svnFloor (imgFloor i),
      keys := insKey 0 s.sec.keys, tried := [] },
    cmd := { s.cmd with ready := true, queues := tput s.cmd.queues 0 { state := .running } } }

/-- Starts Uhlug from the valid images not yet tried (R559, R630). [DESIGN CHOICE, log entry 3] -/
def startUhlug (ready pd1Answers : Bool) (s : State) : State :=
  match bootOrder s with
  | [] => bootHalt 0x10 pd0 s
  | order =>
    match order.filter (fun x => decide (x ∉ s.sec.tried)) with
    | [] => bootHalt 0x11 pd0 s
    | slot :: _ =>
      let s := { s with sec := { s.sec with tried := s.sec.tried ++ [slot] } }
      if ¬ ready then bootReport 10 0 0x3F { s with pwr := { s.pwr with phase := .starting } }
      else if ¬ pd1Answers then bootHalt 0x12 pd1 s
      else reachReady slot s

/-- Every partition's part in a start: absent ones are fenced with PARTITION_FENCED (R462, R485). -/
def bootParts (straps : List (Nat × Nat)) (s : State) : State :=
  let gone := (List.range 10).filter (partAbsent s straps)
  let s := { s with seam := { s.seam with
    absent := gone, fenced := gone,
    straps := allDies.foldl (fun t d => tset 0 t d (strapRead straps d)) [],
    dieState := allDies.foldl (fun t d => tset 0 t d
      (if !strapOk (strapRead straps d) then 3
       else match diePart d with
         | some p => if p ∈ gone then 2 else 0
         | none => 0)) [] } }
  gone.foldl (fun s p => raise pd0 0x0022 0 0 p 2 0 s) s

/-- Start-up from step 4 of R622: fuses and memories, calibration, training, stacks, record 0, Uhlug. [DEDUCED, log entry 37; DESIGN CHOICE, log entry 38] -/
def bootFrom4 (b : BootIn) (s : State) : State :=
  let s := advanceRef b.elapsed { s with
    pin := { s.pin with perst := b.perst, pwrbrk := b.pwrbrk, trayStop := b.trayStop, fault := false },
    pwr := { s.pwr with brake := b.pwrbrk, braked := false, calDefault := !b.calOk },
    pci := { s.pci with active := !b.perst, linkUp := !b.perst && b.linkTrains } }
  if ¬ b.fuseOk then bootHalt 0x14 pd0 s
  else
    match b.memFail with
    | some d => bootHalt 0x15 d s
    | none =>
      let s := (List.range 45).foldl (fun s l => trainLink b.straps b.lanes b.words l s) s
      let s := bootParts b.straps s
      let s := (List.range 20).foldl (fun s k => bootStack b k s) s
      let s := makeRecord s.clk.ref [] { s with clk := { s.clk with corrSeq := 0 } }
      if ¬ strapOk (strapRead b.straps pd1) ∨ (¬ linkUp s 38 ∧ ¬ linkUp s 39) then bootHalt 0x12 pd1 s
      else if s.seam.absent.length = 10 then bootHalt 0x13 0x3F s
      else startUhlug b.imageReady b.pd1Answers { s with sec := { s.sec with tried := [] } }

/-- POWER_ON (R522, R622): only a module that is off starts. A PD0 that fails its strap check leaves the power
sequencer to assert FAULT_N and TRAY_CYCLE_N (R632). [DESIGN CHOICE, log entry 3; DESIGN CHOICE, log entry 38; DEDUCED, log entry 50] -/
def powerOnS (b : BootIn) (s : State) : State :=
  match s.pwr.phase with
  | .off =>
    let s := losePower .starting s
    let s := { s with pin := { s.pin with addr := b.addr % 4 } }
    if ¬ strapOk (strapRead b.straps pd0) then
      { s with pwr := { s.pwr with phase := .held }, pin := { s.pin with fault := true, trayCycle := true } }
    else bootFrom4 b s
  | _ => s

def execPowerOn (b : BootIn) (s : State) : Out := .next (powerOnS b s)

/-- IMAGE_FAULT: the boot ROM tries the other valid image, or halts (R630). -/
def execImageFault (ready pd1 : Bool) (s : State) : Out :=
  .next (match s.pwr.phase with
    | .starting => startUhlug ready pd1 s
    | _ => s)

end Sys2Proof.Machine
end

