-- ==== Sys2Proof/Machine/Seams.lean ====
section
/-! DEFINITION. Seam links in operation: lanes lost (R468), the watch under load and retraining windows (R472, R473),
clocks lost and partitions fenced (R478-R481), and a Crust die's clock coming back (R291, R480). -/

namespace Sys2Proof.Machine

/-- A partition's instances hold for a retraining window of link `l` (R473). -/
def holdsFor (l p : Nat) : Bool :=
  if l < 45 then decide ((linkEnds l).1 = p ∨ (linkEnds l).2 = p) else decide (stackPart (l - 256) = p)

/-! ### Bundles in operation -/

/-- Changes a bundle. -/
def setBundle (l b : Nat) (f : Bundle → Bundle) (s : State) : State :=
  { s with seam := { s.seam with bundles := tmod {} s.seam.bundles (l * 16 + b) f } }

/-- CRU_STATUS.BUNDLES follows a Crust link. -/
def countBundles (l : Nat) (s : State) : State :=
  if l < 20 then setCru l (fun c => { c with bundles := min 15 (linkInService s l) }) s else s

/-- A compute die left with no link in service has rung 3 (R593). -/
def linkWatch (l : Nat) (s : State) : State :=
  [(linkEnds l).1, (linkEnds l).2].foldl (fun s d =>
    if d < 10 ∧ d ∉ s.seam.fenced ∧ ¬ (partLinks d).any (linkUp s) then startRung 3 d rcLink [] s else s) s

/-- A bundle goes to state `st`, with SEAM_DEGRADED. -/
def degrade (l b st : Nat) (f : Bundle → Bundle) (s : State) : State :=
  linkWatch l (countBundles l (raise pd0 0x0020 0 0 l b st (setBundle l b (fun u => { f u with st := st }) s)))

/-- SEAM_LANE_LOSS: the bundle goes OUT at once, until a retraining window. -/
def laneLossS (l b lane : Nat) (s : State) : State :=
  let u := bundleOf s l b
  if 45 ≤ l ∨ linkBundles l ≤ b ∨ 17 < lane ∨ ¬ (u.st = 1 ∨ u.st = 2) then s
  else degrade l b 3 (fun u => { u with was := u.st, lastLane := lane }) s

def execSeamLaneLoss (link bundle lane : Nat) (s : State) : Out := ifUp (laneLossS link bundle lane) s

/-- SEAM_RETRY: a flit is sent again. -/
def seamRetryS (l b : Nat) (s : State) : State :=
  if 45 ≤ l ∨ linkBundles l ≤ b then s else setBundle l b (fun u => { u with retries := satAdd 65535 u.retries 1 }) s

def execSeamRetry (link bundle : Nat) (s : State) : Out := ifUp (seamRetryS link bundle) s

/-! ### The watch under load (R472) -/

/-- State of a bundle with `n` failing lanes (R467). [DEDUCED, log entry 106] -/
def ladder (n : Nat) : Nat := if n ≤ 2 then 1 else if n = 3 then 2 else 3

/-- The bundle with the most retries of a link, the lowest at a tie. [DEDUCED, log entry 106] -/
def mostRetries (s : State) (l : Nat) : Nat :=
  (List.range (linkBundles l)).foldl (fun a b => if (bundleOf s l a).retries < (bundleOf s l b).retries then b else a) 0

/-- The bundle with the most retries has its worst lane declared failing; which lane that is, the hardware finds. [DEDUCED, log entry 106] -/
def worstLane (l : Nat) (s : State) : State :=
  let b := mostRetries s l
  let u := bundleOf s l b
  let lane := (Config.freeValue s.clk.free).toNat % 18
  let n := u.failed + 1
  let st := max u.st (ladder n)
  let new := fun u : Bundle => { u with failed := n, spares := 2 - n, lastLane := lane }
  let s1 := { s with clk := { s.clk with free := s.clk.free + 1 } }
  if st = u.st then setBundle l b new s1 else degrade l b st new s1

/-- A link becomes pending retraining; after two retrainings in a watch the worst lane goes instead (R473). -/
def pendLink (l : Nat) (s : State) : State :=
  if 2 ≤ (tget {} s.seam.watch l).retrains then worstLane l s
  else { s with seam := { s.seam with pendLinks := insKey l s.seam.pendLinks } }

/-- Corrected symbols of a window. -/
def addCorrected (l : Nat) (cs : List Nat) (s : State) : State :=
  (List.range (linkBundles l)).foldl (fun s b =>
    setBundle l b (fun u => { u with corrected := satAdd (2 ^ 32 - 1) u.corrected (nth 0 cs b) }) s) s

/-- LOAD_WINDOW: a 1 ms window ends; in a watched window at high load the counts meet their thresholds. -/
def loadWindowS (l : Nat) (w : LoadIn) (s : State) : State :=
  if 45 ≤ l then s
  else
    let s1 := addCorrected l w.corrected s
    let v := tget {} s.seam.watch l
    if ¬ w.high ∨ s.seam.watchMin * 60000 ≤ v.windows then s1
    else
      let s2 := { s1 with seam := { s1.seam with watch := tset {} s1.seam.watch l { v with windows := v.windows + 1 } } }
      let bad := (List.range (linkBundles l)).any (fun b =>
        decide (s.seam.retryThresh < nth 0 w.retries b ∨ s.seam.corrThresh < nth 0 w.corrected b))
      let s3 := if bad then pendLink l s2 else s2
      if l < 20 ∧ w.chCorrected.any (fun c => decide (s.seam.hbmThresh < c)) then
        { s3 with seam := { s3.seam with pendTrims := insKey l s3.seam.pendTrims } }
      else s3

def execLoadWindow (link : Nat) (w : LoadIn) (s : State) : Out := ifUp (loadWindowS link w) s

/-! ### Retraining windows (R473) -/

/-- A link, or 256 + stack for a stack's trims, is pending. -/
def isPending (s : State) (l : Nat) : Bool := if l < 256 then decide (l ∈ s.seam.pendLinks) else decide (l - 256 ∈ s.seam.pendTrims)

/-- A bundle retrained under load: never wider than before. -/
def retrained (mask : Nat) (u : Bundle) : Bundle :=
  let base := if u.was ≠ 0 then u.was else u.st
  let n := max u.failed (popCount 18 mask)
  { u with st := max base (ladder n), spares := 2 - n, failed := n, was := 0,
           lastLane := if mask = 0 then u.lastLane else maxNat (bitsSet 18 mask) }

/-- Retrains every bundle of a link. -/
def retrainLink (l : Nat) (t : TrainIn) (s : State) : State :=
  let s1 := (List.range (linkBundles l)).foldl (fun s b =>
    let u := bundleOf s l b
    let v := retrained (lanesOf t.lanes l b) u
    let base := if u.was ≠ 0 then u.was else u.st
    let s := setBundle l b (fun _ => v) s
    if base < v.st then raise pd0 0x0020 0 0 l b v.st s else s) s
  let v := tget {} s1.seam.watch l
  let s2 := { s1 with seam := { s1.seam with
    pendLinks := s1.seam.pendLinks.filter (fun x => !decide (x = l)),
    watch := tset {} s1.seam.watch l { v with retrains := min 2 (v.retrains + 1) } } }
  linkWatch l (countBundles l s2)

/-- Held instances go on from their rest points (step 5). -/
def releaseHeld (l : Nat) (s : State) : State :=
  s.sch.launches.foldl (fun s e =>
    e.2.insts.zipIdx.foldl (fun s i =>
      match allMarked s e.1 i.2, tget? s.sch.recipes e.2.recipe with
      | some id, some r =>
        if i.1.ph = .resting ∧ holdsFor l i.1.part ∧ ¬ batchOpen s e.2.ctx then
          leaveRest e.1 i.2 id r (mergeFlags (fun _ y => decide (y.launch = e.1 ∧ y.inst = i.2)) s) else s
      | _, _ => s) s) s

/-- The retraining itself, once the instances hold. -/
def retrainGo (l : Nat) (t : TrainIn) (s : State) : State :=
  let s1 := if l < 256 then retrainLink l t s
    else { s with seam := { s.seam with pendTrims := s.seam.pendTrims.filter (fun x => !decide (x = l - 256)) } }
  let link := if l < 256 then l else l - 256
  releaseHeld l (raise pd0 0x0021 0 0 l (linkInService s1 link) t.us { s1 with seam := { s1.seam with holding := none } })

/-- Contexts that a retraining window waits for. -/
def heldUp (s : State) : List Nat := ((s.sch.launches.map (fun e => e.2.ctx)).eraseDups).filter (retrainOut s)

/-- RETRAINING_WINDOW: a pending link or stack's trims. The first time it asks the instances of the affected partitions to
hold; once every one holds or is complete, it retrains and restores the routes. A ring segment waits for none. [DEDUCED, log entry 106] -/
def retrainingS (l : Nat) (t : TrainIn) (s : State) : State :=
  let ring := decide (33 ≤ l ∧ l < 45)
  if ¬ isPending s l ∨ ¬ (s.seam.holding = none ∨ s.seam.holding = some l) then s
  else if ring then retrainGo l t s
  else
    let s1 := { s with seam := { s.seam with holding := some l } }
    if heldUp s1 = [] then retrainGo l t s1
    else if s.seam.holding = some l then s
    else (heldUp s1).foldl (fun s c => setCtx c (fun x => { x with overrun := some (x.overrun.getD 0) }) s) s1

def execRetrainingWindow (link : Nat) (t : TrainIn) (s : State) : Out := ifUp (retrainingS link t) s

/-! ### Fences (R478, R479) -/

/-- Stacks of a partition. -/
def partStacks (p : Nat) : List Nat := [2 * p, 2 * p + 1]

/-- A line, by its key, is homed on a partition. -/
def homedOn (p key : Nat) : Bool := decide (stackPart (key / 2 ^ 29) = p)

/-- Requests that the homes of a partition have not answered: those held, merged, accepted and owed an acknowledgement,
and semaphore waiters. -/
def homeRequests (s : State) (p : Nat) : List HReq :=
  (s.home.lines.filter (fun e => homedOn p e.1)).flatMap (fun e =>
    e.2.merge ++ e.2.held ++ e.2.batch.map (fun b => HReq.red b.1 b.2) ++
    e.2.owed.filterMap (fun m => match m with
      | .wrAck r _ => some (HReq.write r 0 [])
      | .redAck r _ => some (HReq.write r 0 [])
      | _ => none)) ++
  (s.home.ordered.filter (fun e => homedOn p e.1)).flatMap (fun e => e.2.stored.map (fun m => HReq.red m.1 m.2)) ++
  (partStacks p).flatMap (fun k => (tget [] s.home.waiters k).map (fun w => HReq.semWait w.r w.off w.val))

/-- A context touches a partition (R478). -/
def touches (s : State) (p c : Nat) : Bool :=
  s.sch.stns.any (fun e => decide (e.2.ctx = c ∧ stnPart e.1 = p)) ||
  s.xt.maps.any (fun m => decide (m.ctx = c) && (match tget? s.xt.extents m.num with
    | some x => !readOnlyFor x c && (partStacks p).any (fun k => !(extGrans x k).isEmpty)
    | none => false)) ||
  (homeRequests s p).any (fun h => decide ((reqOf h).ctx = c))

/-- Living tenant contexts that touch a partition. -/
def touching (s : State) (p : Nat) : List Nat :=
  ((s.ten.ctxs.filter (fun e => decide (e.1 ≠ 0) && !e.2.dead)).map (·.1)).filter (touches s p)

/-- A request's home is gone: HOME_UNAVAILABLE (R479 step 3, R481, R500). [DEDUCED, log entry 107] -/
def homeGone (h : HReq) (s : State) : State :=
  match (reqOf h).who with
  | .rbx _ _ _ => inbAnswer (reqOf h) 6 [] s
  | _ => unavailable h s

/-- What the homes of a partition still had to do is gone. [DEDUCED, log entry 107] -/
def emptyHomes (p : Nat) (s : State) : State :=
  { s with home := { s.home with
    lines := tmap s.home.lines (fun key l => if homedOn p key then
      { l with st := .ns, await := [], owed := [], waitDir := false, recallFor := [], ready := false, held := [], merge := [], batch := [],
               isHeld := false, closed := false } else l),
    ordered := s.home.ordered.filter (fun e => !homedOn p e.1),
    cru := tmap s.home.cru (fun k u => if stackPart k = p then { u with wayWait := [] } else u),
    waiters := s.home.waiters.filter (fun e => !decide (e.1 ∈ partStacks p)),
    invs := s.home.invs.filter (fun e => !homedOn p e.1),
    fanned := s.home.fanned.filter (fun e => !homedOn p e.1),
    drops := s.home.drops.filter (fun e => !homedOn p e.1),
    preloads := (s.home.preloads.map (fun e => (e.1, e.2.1, e.2.2.filter (fun k => !homedOn p k)))).filter (fun e => !e.2.2.isEmpty) } }

/-- Every station drops the lines it caches that are homed on a partition, and installs none on its way (step 4). -/
def dropHomed (p : Nat) (s : State) : State :=
  let clean := fun x : Stn =>
    let at_ := fun a : Nat => ((xlate s x a).map (fun q => decide (stackPart q.stack = p))).getD false
    { x with
      cache := x.cache.filter (fun e => !homedOn p e.1),
      pend := tmap x.pend (fun key e => if homedOn p key then (e.1, true) else e),
      rg := { x.rg with miss := tmap x.rg.miss (fun _ m => if at_ m.1 then (m.1, m.2.1, true) else m) } }
  { s with sch := { s.sch with stns := tmap s.sch.stns (fun _ x => clean x) } }

/-- Homes elsewhere count the partition as having acknowledged (step 5). [DEDUCED, log entry 107] -/
def ackFor (p : Nat) (s : State) : State :=
  (s.home.lines.filter (fun e => decide (p ∈ e.2.await) && !homedOn p e.1)).foldl (fun s e =>
    partAck (e.1 / 2 ^ 29) (e.1 % 2 ^ 29) p s) s

/-- A line's entry keeps no sharer of a partition; one that is left without sharers is free. -/
def clearSharers (p key : Nat) (s : State) : State :=
  let s := setLine key (fun h => { h with sharers := tdel h.sharers p }) s
  if (hline s key).st = .sh ∧ (hline s key).sharers.isEmpty then
    setLine key (fun h => { h with st := .ns }) (dropDir (key / 2 ^ 29) (key % 2 ^ 29) s)
  else s

/-- The homes clear a fenced partition's sharer bits from every entry (R302). [DEDUCED, log entry 107] -/
def forgetPart (p : Nat) (s : State) : State :=
  ((s.home.lines.filter (fun e => (tget? e.2.sharers p).isSome)).map (·.1)).foldl (fun s key => clearSharers p key s) s

/-- Dies of a partition. -/
def partDies (p : Nat) : List Nat := [p, crustDie (2 * p), crustDie (2 * p + 1)]

/-- The state SEAM_DIEn_ID shows of a partition's dies. -/
def setDies (p st : Nat) (s : State) : State :=
  { s with seam := { s.seam with dieState := (partDies p).foldl (fun t d => tset 0 t d st) s.seam.dieState } }

/-- Slices that hold stations on a partition, with how many (R438). -/
def holders (s : State) (p : Nat) : List (Nat × Nat) :=
  (s.ten.slices.map (fun e => (e.1, popCount 168 (tget 0 e.2.stations p)))).filter (fun e => decide (e.2 ≠ 0))

/-- The stations of a fenced partition are lost to the slices that hold them: a breach begins for each (R435, R436). [DESIGN CHOICE, log entry 51] -/
def loseStations (p : Nat) (s : State) : State :=
  (holders s p).foldl (fun s e => lossBreach 1 p e.1 0 e.2 0 0
    { s with seam := { s.seam with lostStns := tput s.seam.lostStns (e.1 * 16 + p) e.2 } }) s

/-- The partition has rejoined `us` microseconds after its fence: the breaches end for the slices that still exist. -/
def regainStations (p us : Nat) (s : State) : State :=
  let mine := s.seam.lostStns.filter (fun e => decide (e.1 % 16 = p))
  mine.foldl (fun s e => if (tget? s.ten.slices (e.1 / 16)).isSome then lossBreach 1 p (e.1 / 16) 2 e.2 e.2 us s else s)
    { s with seam := { s.seam with lostStns := tfilter s.seam.lostStns (fun k _ => !decide (k % 16 = p)) } }

/-- A fence takes effect, once (R479). [DEDUCED, log entry 22] -/
def fenceS (p : Nat) (s : State) : State :=
  if p ∉ s.seam.fenced ∨ p ∈ s.seam.absent ∨ (tget? s.seam.fencedAt p).isSome then s
  else
    let cs := touching s p
    let lost := (partDies p).any (fun d => decide (d ∈ s.clk.lost))
    let s1 := setDies p 1 { s with seam := { s.seam with fencedAt := tput s.seam.fencedAt p (refOf s pd0) } }
    let s2 := cs.foldl (fun s c => rung1Start c rcLink [] s) s1
    let hs := homeRequests s2 p
    let s3 := hs.foldl (fun s h => homeGone h s) (emptyHomes p s2)
    let s4 := (tkeys s3.pip.plans).foldl (fun s k => piperFlush k s) (forgetPart p (ackFor p (dropHomed p s3)))
    raise pd0 0x0022 0 0 p (b2n lost) cs.length (pumpRbx (loseStations p s4))

/-- PARTITION_FENCED. -/
def execPartitionFenced (part : Nat) (s : State) : Out := ifUp (fenceS part) s

/-- The Crumb region lies on a partition. [DESIGN CHOICE, log entry 42] -/
def regionOn (s : State) (p : Nat) : Bool :=
  match s.err.regionExt.bind (tget? s.xt.extents) with
  | some x => x.stks.any (fun k => decide (stackPart k = p))
  | none => false

/-- DIE_CLOCK_LOSS: a compute or Crust die's partition is fenced and has rung 3; PD1 takes the device to rung 4, PD0 the
module to rung 5 (R479, R586, R595). Samples held on the partition are lost (R607). -/
def clockLossS (d : Nat) (s : State) : State :=
  if d ∉ allDies ∨ d ∈ s.clk.lost then s
  else
    let s1 := { s with clk := { s.clk with lost := insKey d s.clk.lost } }
    match diePart d with
    | some p =>
      let s2 := if regionOn s1 p then { s1 with err := { s1.err with region := [], lost := s1.err.lost || !s1.err.region.isEmpty } } else s1
      startRung 3 p rcLink [] { s2 with seam := { s2.seam with fenced := insKey p s2.seam.fenced } }
    | none =>
      let r := if d = pd0 then 5 else 4
      let s2 := raise pd0 0x0051 0 0 d 3 r { s1 with err := { s1.err with fatal := satAdd 255 s1.err.fatal 1 } }
      startRung r 0 rcFatal [] s2

def execDieClockLoss (die : Nat) (s : State) : Out := ifUp (clockLossS die) s

/-- Extents with the DAMAGED mark. -/
def damagedExts (s : State) : Nat := (s.xt.extents.filter (fun e => e.2.damaged)).length

/-- Counts the extents that `f` marks DAMAGED against a partition's fence (R484). -/
def countDamage (p : Nat) (f : State → State) (s : State) : State :=
  let n := damagedExts s
  let s1 := f s
  { s1 with seam := { s1.seam with fenceDamage := tmod 0 s1.seam.fenceDamage p (· + (damagedExts s1 - n)) } }

/-- Poisons every line of a granule that satisfies `q`. -/
def poisonGran (k g : Nat) (q : Nat → Bool) (s : State) : State :=
  (List.range 512).foldl (fun s i => if q (512 * g + i) then poisonHome k (512 * g + i) s else s) s

/-- Extents that some context may write, by number. -/
def writableExts (s : State) : List (Nat × Extent) := s.xt.extents.filter (fun e => !attrReadOnly e.2.attr)

/-- CRUST_CLOCK_RETURN, during the rung 3 of its partition: the register block restarts, and every line of every granule of
a writable extent on the stack takes the poison mark (R291, R480). [DEDUCED, log entry 107] -/
def crustReturnS (d : Nat) (s : State) : State :=
  match diePart d with
  | none => s
  | some p =>
    let k := d - 0x10
    if d < 0x10 ∨ d ∉ s.clk.lost ∨ (rungReq? s 3 p).isNone then s
    else
      let s1 := setCru k (fun _ => {})
        { s with clk := { s.clk with lost := s.clk.lost.filter (fun x => !decide (x = d)) } }
      countDamage p (fun s => (writableExts s).foldl (fun s e =>
        (extGrans e.2 k).foldl (fun s g => poisonGran k g (fun _ => true) s) s) s) s1

def execCrustClockReturn (die : Nat) (s : State) : Out := ifUp (crustReturnS die) s

/-- HOME_UNAVAILABLE_RESEND: a request waiting for its home is sent again, a stopped station's once it issues again (R481,
R537, R641). -/
def resendS (k : Nat) (s : State) : State :=
  match s.home.resend[k]? with
  | none => s
  | some h =>
    if issueHeld s && (agentPart (reqOf h).who).isSome then s
    else sendReq h { s with home := { s.home with resend := s.home.resend.eraseIdx k } }

def execHomeUnavailableResend (k : Nat) (s : State) : Out := ifUp (resendS k) s

end Sys2Proof.Machine
end

