-- ==== Sys2Proof/Machine/Stalls.lean ====
section
/-! DEFINITION. Stalls: what each station and stream waits for, as far as the model holds the wait, and the counters of the
waits (R82, R85, R122, R225, R252). -/

namespace Sys2Proof.Machine

/-- Positions of a station's and a stream's stall codes in telemetry (R407). -/
abbrev mxOperandWait : Nat := 0
abbrev mxAccWait : Nat := 1
abbrev mxHazard : Nat := 4
abbrev mxSemWait : Nat := 5
abbrev rgMissFull : Nat := 0
abbrev rgWaiterFull : Nat := 1
abbrev rgSlotWait : Nat := 2
abbrev rgOrderWait : Nat := 3
abbrev rgSemWait : Nat := 4
abbrev shNoGroup : Nat := 8

/-- Position `i` where the condition holds. -/
def stallIf (c : Bool) (i : Nat) : List Nat := if c then [i] else []

/-- A SEM_WAIT has not seen its value, or a SEM_RELEASE waits in step 1 of R335. -/
def semStall (x : Stn) : Bool :=
  x.works.any (fun e => decide (e.2.st = .wait) &&
    (decide (dOp (nth [] x.descs e.1) = 6) || (decide (dOp (nth [] x.descs e.1) = 7 ∧ e.2.count = 0))))

/-- The station's next descriptor waits for one in progress, or for a copy (R96); with `acc`, for an accumulator tile whose
results have not been sent. -/
def hazardStall (x : Stn) (acc : Bool) : Bool :=
  let us := usesOf x x.next (nth 0 (passesOf x x.next) 0)
  let onAcc := x.works.any (fun w => decide (w.2.count = 1) &&
    (usesOf x w.1 (nth 0 w.2.passes 0)).any (fun b => us.any (fun a => decide (a.1 = 1) && usesClash a b)))
  decide (x.next < x.descs.length ∧ x.marked = 0) && (if acc then onAcc else hazard x x.next && !onAcc)

/-- A matrix descriptor lacks a tile that its stream port has not received. -/
def operandStall (x : Stn) : Bool :=
  x.works.any (fun e => decide (0x10 ≤ dOp (nth [] x.descs e.1) ∧ dOp (nth [] x.descs e.1) ≤ 0x21 ∧ e.2.st = .run ∧ e.2.count = 0) &&
    (feedsOf x e.1).any (fun f => !feedFull e.2 f))

/-- Stalls of a Matrix Station (R122). EPI_WAIT and LS_BANK are contention within a cycle. [DESIGN CHOICE, log entry 130] -/
def mxStalls (x : Stn) : List Nat :=
  stallIf (operandStall x) mxOperandWait ++ stallIf (hazardStall x true) mxAccWait ++ stallIf (hazardStall x false) mxHazard ++
    stallIf (semStall x) mxSemWait

/-- Position of the reason a group waits for: a LOCK, SWAIT, MSEMW or MSEMR, MEET, counter or REST (R225). -/
def reasonAt (w : Nat) : Nat := if w = 10 ∨ w = 6 then 5 else if w = 4 ∨ w = 8 then 3 else if w = 5 then 4 else if w = 7 then 6 else 7

/-- The stall of a core: none while a group of it has nothing to wait for; else the reason of its first group (R225). The spec's
group is the one that issued least recently. [DESIGN CHOICE, log entry 130] -/
def coreStall (x : Stn) (core : Nat) : List Nat :=
  let live := x.groups.filter (fun e => decide (e.1 / 16 = core) && !e.2.ended)
  match live with
  | [] => [shNoGroup]
  | _ => if live.any (fun e => e.2.waiting.isNone) then [] else (live.head?.bind (fun e => e.2.waiting)).toList.map (fun w => reasonAt w.1)

/-- Stalls of a Shader Station: of each core that runs a RUN's groups. DEP_WAIT, BANK and LS_BANK are contention within a cycle. -/
def shStalls (x : Stn) : List Nat :=
  if x.runIdx.isNone then stallIf (semStall x) (reasonAt 6) else (List.range 4).flatMap (coreStall x)

/-- A slot of an RG station wants a line and stands in no miss register: every slot has gone as far as it can (R248). -/
def slotBlocked (x : Stn) : Bool :=
  decide (x.rg.resting = 0 ∧ x.marked = 0) && x.rg.rays.any (fun e => !e.2.done && e.2.waitLine.isNone && e.2.stalled.isNone)

/-- Stalls of an RG station (R252). -/
def rgStalls (s : State) (x : Stn) : List Nat :=
  let d := ((rgDesc x).map (·.2)).getD []
  let batch := decide (dOp d = 0x40 ∧ (freeSlots x 64).length < 64) &&
    (bitsSet 8 (field d 24 1)).any (fun p => ((sinkStream s x p).map (fun st => decide (4 ≤ (bufOf s x st).length))).getD false)
  stallIf (slotBlocked x && decide (256 ≤ x.rg.miss.length)) rgMissFull ++
  stallIf (slotBlocked x && x.rg.miss.any (fun m => decide (16 ≤ m.2.2.1.length))) rgWaiterFull ++
  stallIf batch rgSlotWait ++
  stallIf (decide (dOp d ≠ 0x40) && x.rg.outQ.any (fun e => decide (64 * x.rg.outNext + 63 < e.1))) rgOrderWait ++
  stallIf (semStall x) rgSemWait

/-- Stalls of a station, by position in its kind's telemetry. -/
def stnStalls (s : State) (x : Stn) : List Nat :=
  if x.stopped then [] else if x.kind = 1 then mxStalls x else if x.kind = 2 then shStalls x else if x.kind = 3 then rgStalls s x else []

/-- The station of an instance that holds a cell. -/
def cellStn (s : State) (k i cell : Nat) : Option Stn := (stnAtCell s k i cell).bind (stnOf s)

/-- A descriptor in progress at the source of stream `st` has a flit for it. -/
def sourceReady (s : State) (x : Stn) (st : Nat) : Bool :=
  x.works.any (fun e => e.2.outs.any (fun o => decide (outStream s x o.1 = some st))) ||
  x.xfers.any (fun f => decide (f.kind = .psend ∧ sourceStream s x f.desc = some st) && f.pieces.any (fun p => decide (p.st = 0)))

/-- Transfers of a FETCH or STORE of stream `st` in progress at a station. -/
def engineXfers (x : Stn) (st : Nat) : List Xfer :=
  x.xfers.filter (fun f => decide (f.kind = .fetch ∨ f.kind = .store) && decide (fsStream (nth [] x.descs f.desc) = st))

/-- Stalls of a stream of an instance, by their row of R82. A stream whose source has no flit ready stalls only in its own slots. [DESIGN CHOICE, log entry 130] -/
def streamStalls (s : State) (k i st : Nat) (e : StreamEntry) : List Nat :=
  let src := cellStn s k i e.srcCell
  let snk := cellStn s k i e.sinkCell
  let held := (instOf s k i).map (fun x => tget 32 x.credits st)
  let ready := (src.map (fun x => sourceReady s x st)).getD false
  let on := fun f : Xfer → Bool => (src.toList ++ snk.toList).any (fun x => (engineXfers x st).any f)
  stallIf (!ready) 0 ++ stallIf (ready && decide (held = some 0)) 1 ++
  stallIf ((src.toList.any (fun x => (engineXfers x st).any (fun f => decide (f.kind = .fetch) && f.pieces.any (fun p => decide (p.st = 1)))))) 2 ++
  stallIf (on (fun f => f.pieces.any (fun p => decide (p.st = 3)))) 3 ++
  stallIf (((instOf s k i).map (fun x => decide (x.part ∈ s.seam.credit) &&
    x.flight.any (fun f => decide (f.1 = st) && !mayCross s k i st f.2.1))).getD false) 4

/-- The station can do nothing now but wait: nothing of its own is done and unreported, its next descriptor may not start, and
each of its groups waits or has ended (R374). [DESIGN CHOICE, log entry 95] -/
def stnWaits (s : State) (n : Nat) (x : Stn) : Bool :=
  x.works.all (fun w => decide (w.2.st ≠ .fin)) &&
  (decide (x.descs.length ≤ x.next) || !mayStart x x.next || handHeld s n x x.next) &&
  (x.runIdx.isNone || x.groups.all (fun g => g.2.ended || g.2.waiting.isSome))

/-- ALL_STALLED: the open batch of a context holds a record, and every station of its running instances has waited for at
least 1,024 ARITH cycles of its own (R374). [DESIGN CHOICE, log entry 95] -/
def allStalledS (c : Nat) (s : State) : State :=
  let mine := s.sch.stns.filter (fun e => decide (e.2.ctx = c ∧ e.2.kind ≠ 5) &&
    ((instOf s e.2.launch e.2.inst).map (fun i => decide (i.ph ≠ .complete))).getD false)
  if mine.all (fun e => decide (1024 * 25 ≤ e.2.waited) && stnWaits s e.1 e.2) then triggerBatch c 2 s else s

/-- ALL_STALLED. [DESIGN CHOICE, log entry 95] -/
def execAllStalled (ctx : Nat) (s : State) : Out :=
  ifUp (fun s => guardS (ctxRunning s ctx) (allStalledS ctx) s) s

/-- Adds `n` units to the counters at positions. -/
def bumpAll (n : Nat) (ps : List Nat) (t : Tbl Nat) : Tbl Nat := ps.foldl (fun t p => tmod 0 t p (· + n)) t

end Sys2Proof.Machine
end

