-- ==== Sys2Proof/Machine/Crumb.lean ====
section
/-! DEFINITION. Crumb samples: what a rung of 2 or higher records of its stations (R604-R606), where samples go (R607),
CRUMB_READ and CRASH_BUFFER_SET (R608). -/

namespace Sys2Proof.Machine

/-- The descriptor a station is at: the oldest in progress, else the next to start. -/
def curDesc (x : Stn) : Nat := ((worksInOrder x).head?.map (·.1)).getD x.next

/-- The stall a station is in, where the model holds the wait: the first position of its kind's telemetry that it counts under,
plus 1; 0 none (R606). [DESIGN CHOICE, log entry 41] -/
def stallOf (s : State) (x : Stn) : Nat := ((stnStalls s x).map (· + 1)).foldl (fun a i => if a = 0 ∨ i < a then i else a) 0

/-- Credits held at, and flits buffered at, stream ports 0-7. [DESIGN CHOICE, log entry 41] -/
def portCredits (s : State) (x : Stn) (p : Nat) : Nat :=
  match sourceStream s x p with
  | some st => creditsOf s x st
  | none => 0
def portFlits (s : State) (x : Stn) (p : Nat) : Nat :=
  match sinkStream s x p with
  | some st => (bufOf s x st).length
  | none => 0

/-- Accumulator tiles that descriptors in progress use. -/
def busyTiles (x : Stn) : Nat :=
  maskOf ((List.range 16).filter (fun t => x.works.any (fun w =>
    (usesOf x w.1 (nth 0 w.2.passes 0)).any (fun u => decide (u.1 = 1 ∧ u.2.2.1 ≤ t ∧ t < u.2.2.1 + u.2.2.2)))))

/-- State of a group, 0-4. -/
def groupState (x : Stn) (g : Nat) : Nat × Nat × Nat :=
  match tget? x.groups g with
  | none => (0, 0, 0)
  | some y => (y.pc / 8, y.stack.length,
      if y.ended then 4
      else match y.waiting with
        | some (w, _) => if w = 8 ∨ w = 9 then 3 else 2
        | none => 1)

/-- KIND_STATE, 192 bytes. [DESIGN CHOICE, log entry 41] -/
def kindState (s : State) (n : Nat) (x : Stn) : List Byte :=
  if x.kind = 1 then
    layout 192 ([(16, leBytes 2 (busyTiles x))] ++ (List.range 4).map (fun i => (4 * i, leBytes 4 (nth 0 (passesOf x (curDesc x)) i))))
  else if x.kind = 2 then
    (List.range 64).flatMap (fun g => let v := groupState x g
      leBytes 2 v.1 ++ leBytes 1 (v.2.1 % 16 + 16 * v.2.2))
  else if x.kind = 3 then
    layout 192 [(0, leBytes 2 x.rg.rays.length), (2, leBytes 2 x.rg.miss.length), (4, leBytes 4 x.rg.batches)]
  else layout 192 ((List.range 8).map (fun e => (2 * e, leBytes 2 (copiesOn s (16 * n + 8 + e)))))

/-- LOCAL and ACC0: all-ones of a station sealed, zero where the kind has none (R577, R606). -/
def localPart (n : Nat) (x : Stn) : List Byte :=
  (if stnKind n = 4 then zeros 4096 else if x.isSealed then List.replicate 4096 0xFF else lsRead x 0 4096) ++
  (if stnKind n ≠ 1 then zeros 16384 else if x.isSealed then List.replicate 16384 0xFF
   else (List.range 4096).flatMap (fun i => leBytes 4 (tget 0 x.acc i).toNat))

/-- A station answers sampling: its die has its clock, and the ring reaches it. -/
def answers (s : State) (n : Nat) : Bool := !decide (stnPart n ∈ s.clk.lost) && ringOk s (stnPart n)

/-- The entry of a station that a launch holds. -/
def heldEntry (s : State) (n : Nat) (x : Stn) : List Byte :=
  layout 256 ([(0, leBytes 2 (stnId n)), (2, leBytes 1 (stnKind n)), (3, leBytes 1 (2 * b2n x.isSealed)), (4, leBytes 2 x.ctx),
    (6, leBytes 2 x.inst), (8, leBytes 8 (refOf s (stnPart n))), (16, leBytes 4 x.flags),
    (20, leBytes 4 (if x.kind = 2 then x.shStatus else 0)), (24, leBytes 4 (curDesc x)),
    (28, leBytes 1 (if x.marked = 0 then x.lastRest else x.marked)), (29, leBytes 1 (stallOf s x)), (30, leBytes 2 x.fault),
    (32, leBytes 4 (x.stretch / 25))] ++
    (List.range 8).map (fun p => (36 + p, leBytes 1 (portCredits s x p))) ++
    (List.range 8).map (fun p => (44 + p, leBytes 1 (portFlits s x p))) ++ [(64, kindState s n x)]) ++ localPart n x

/-- The entry of any station, 20,736 bytes. [DESIGN CHOICE, log entry 41] -/
def crumbEntry (s : State) (n : Nat) : List Byte :=
  if ¬ answers s n then layout 20736 [(0, leBytes 2 (stnId n)), (2, leBytes 1 (stnKind n)), (3, leBytes 1 1)]
  else
    match stnOf s n with
    | some x => heldEntry s n x
    | none => layout 20736 [(0, leBytes 2 (stnId n)), (2, leBytes 1 (stnKind n)), (8, leBytes 8 (refOf s (stnPart n)))]

/-- Stations that a rung samples (R604). -/
def sampled (s : State) (rung target : Nat) : List Nat :=
  if rung = 2 then (stnOfId target).toList
  else if rung = 3 then (List.range 168).map (fun i => 168 * target + i)
  else ((List.range 10).filter (fun p => decide (p ∉ s.seam.fenced))).flatMap (fun p => (List.range 168).map (fun i => 168 * p + i))

/-- A sample: its header and entries (R605). -/
def sampleBytes (s : State) (q : RungReq) (flags : Nat) (es : List (List Byte)) : List Byte :=
  layout 64 [(0, leBytes 4 0x0C0D), (4, leBytes 1 q.rung), (5, leBytes 1 q.cause), (6, leBytes 1 pd0), (7, leBytes 1 flags),
    (8, leBytes 8 (refOf s pd0)), (16, leBytes 4 s.err.crumbSeq), (20, leBytes 2 q.target), (22, leBytes 2 es.length),
    (24, leBytes 4 (64 + 20736 * es.length))] ++ es.flatten

/-- Bytes held in the Crumb region. -/
def regionUsed (s : State) : Nat := sumNat (s.err.region.map (·.length))

/-- Size of the Crumb region. -/
def regionSize : Nat := 8388608

/-- The sample goes to the host's crash buffer where it fits and the link works. -/
def sampleToHost (q : RungReq) (es : List (List Byte)) (s : State) : State :=
  let bs := sampleBytes s q 0 es
  raise pd0 0x004E 0 0 s.err.crumbSeq (regionUsed s) 0
    (hostPost none (s.err.bufBase + s.err.bufUsed) bs { s with err := { s.err with bufUsed := s.err.bufUsed + bs.length } })

/-- Otherwise to the region, cut to the entries that fit; dropped where none fits. -/
def sampleToRegion (q : RungReq) (es : List (List Byte)) (s : State) : State :=
  let k := min es.length ((regionSize - regionUsed s - 64) / 20736)
  if k = 0 ∨ s.err.regionExt.isNone then
    raise pd0 0x004E 0 0 s.err.crumbSeq (regionUsed s) 2 { s with err := { s.err with dropped := satAdd 65535 s.err.dropped 1 } }
  else
    let s1 := { s with err := { s.err with region := s.err.region ++ [sampleBytes s q (2 + b2n (decide (k < es.length))) (es.take k)] } }
    raise pd0 0x004E 0 0 s.err.crumbSeq (regionUsed s1) 1 s1

/-- A rung takes its Crumb sample (R604, R607). [DESIGN CHOICE, log entry 42] -/
def takeSample (q : RungReq) (s : State) : State :=
  let es := (sampled s q.rung q.target).map (crumbEntry s)
  let fits := decide (s.err.bufUsed + 64 + 20736 * es.length ≤ s.err.bufSize) && s.pci.active && s.pci.linkUp
  let s1 := if fits then sampleToHost q es s else sampleToRegion q es s
  { s1 with err := { s1.err with crumbSeq := (s.err.crumbSeq + 1) % 2 ^ 32 } }

/-- Samples, oldest first, that fit in `n` bytes. -/
def samplesFit : Nat → List (List Byte) → List (List Byte)
  | _, [] => []
  | n, b :: r => if b.length ≤ n then b :: samplesFit (n - b.length) r else []

/-- CRUMB_READ. -/
def crumbReadS (u : Queue) (c : TakenCmd) (s : State) : State :=
  match s.err.region with
  | [] => finishCmd u.num c.seq stCrumbNone 0 s
  | b :: _ =>
    if par c 8 4 < b.length then finishCmd u.num c.seq stBadParam 0 s
    else
      let bs := samplesFit (par c 8 4) s.err.region
      finishCmd u.num c.seq stOk bs.flatten.length
        (hostWrite u.pasid (par c 0 8) bs.flatten { s with err := { s.err with region := s.err.region.drop bs.length } })

def execCrumbRead (q seq : Nat) (s : State) : Out := cmdOut 0x0A02 q seq crumbReadS s

/-- CRASH_BUFFER_SET: the buffer starts empty; SIZE 0 names none. -/
def crashBufferS (u : Queue) (c : TakenCmd) (s : State) : State :=
  finishCmd u.num c.seq stOk 0 { s with err := { s.err with bufBase := par c 0 8, bufSize := par c 8 4, bufUsed := 0 } }

def execCrashBufferSet (q seq : Nat) (s : State) : Out := cmdOut 0x0A03 q seq crashBufferS s

end Sys2Proof.Machine
end

