-- ==== Sys2Proof/Machine/Rungs.lean ====
section
/-! DEFINITION. Watchdogs (R593-R595), fatal errors and errors of station stores (R586, R587), and the reset ladder: the
RESET command, rungs 1 to 5, escalation, and a partition's return (R484, R596-R603). -/

namespace Sys2Proof.Machine

/-! ### Rungs 1 and 2 -/

/-- Rung 1 of a context; launches that made way for its waiting ones go on, and the stations it frees are offered (R422). -/
def killRung (c : Nat) (s : State) : State :=
  if (rungReq? s 1 c).isNone then s
  else stationsFreed ((ctxLaunches s c).foldl (fun s k => withdraw k s) (runRung1 c s))

/-- A wider rung is still to return a station that this context's rung 1 waits for (R597). [DEDUCED, log entry 30] -/
def rung1Waits (s : State) (c : Nat) : Bool :=
  s.err.rungs.any (fun q => decide (q.rung = 2 ∧ q.cause = rcEscalation) &&
    (match (stnOfId q.target).bind (stnOf s) with
     | some x => decide (x.ctx = c)
     | none => false))

/-- RUNG_1. [DEDUCED, log entry 30] -/
def execRung1 (ctx : Nat) (s : State) : Out := ifUp (fun s => guardS (!rung1Waits s ctx) (killRung ctx) s) s

/-- A rung takes a context whole: its rung 1 starts, unless one has, and runs. A launch of context 0, which is never killed,
ends with KILLED. [DEDUCED, log entry 55] -/
def takeCtx (c cause n : Nat) (s : State) : State :=
  if c ≠ 0 then killRung c (rung1Start c cause [] s)
  else
    match (stnOf s n).bind (fun x => (tget? s.sch.launches x.launch).map (fun l => (x.launch, l))) with
    | some (k, l) => stationsFreed (withdraw k (dropLaunch k (finishCmd l.q l.seq stKilled 0 s)))
    | none => s

/-- The RESET commands that wait for a rung reply OK with the rung reached. -/
def replyRung (q : RungReq) (s : State) : State := q.cmds.foldl (fun s w => finishCmd w.1 w.2 stOk q.rung s) s

/-- RUNG_2: one station is sampled and cleared, with every context that has an instance there. -/
def rung2S (t : Nat) (s : State) : State :=
  match rungReq? s 2 t, stnOfId t with
  | some q, some n =>
    let s1 := takeSample q s
    let s2 := match stnOf s1 n with
      | some x => takeCtx x.ctx q.cause n s1
      | none => s1
    replyRung q (endRung q s2)
  | _, _ => s

def execRung2 (stn : Nat) (s : State) : Out := ifUp (rung2S stn) s

/-! ### Map-outs (R282, R283, R470) -/

/-- Extents holding a granule of a stack's withdrawn range are damaged for good. -/
def markWithdrawn (k : Nat) (s : State) : State :=
  (s.xt.extents.filter (fun e => (extGranList e.2).any (fun g => decide (g.1 = k ∧ usableGrans s k ≤ g.2)))).foldl (fun s e =>
    let s1 := { s with xt := { s.xt with extents := tupd s.xt.extents e.1 (fun x => { x with withdrawn := true }) } }
    match tget? s1.xt.extents e.1 with
    | some x => if x.damaged then s1 else dropPoisoned (damageExtent e.1 x k 0 0 s1)
    | none => s1) s

/-- Pending channels of a stack are mapped out: lines that move off them take the poison mark, those of save areas and of granules
not yet zeroed among them, and a withdrawn range damages its extents. A stack with no bundle in service is mapped out whole. [DEDUCED, log entry 108] -/
def mapOutGo (k : Nat) (s : State) : State :=
  let u := cruOf s k
  let new := bitsSet 32 u.chPending
  if ¬ linkUp s k ∧ ¬ u.mapped then setCru k (fun c => { c with mapped := true }) s
  else if u.mapped ∨ new = [] then s
  else
    let s1 := setCru k (outChannels new) s
    if (cruOf s1 k).mapped then s1
    else
      let hit := fun l : Nat => decide (chanOf u.chOut l ∈ new ∧ l < usableGrans s1 k * 512)
      markWithdrawn k ((usedGrans s k).foldl (fun s g => poisonGran k g hit s) s1)

/-- Granules charged to a slice that lie in withdrawn ranges. -/
def withdrawnGrans (s : State) (n : Nat) : Nat :=
  sumNat ((s.xt.extents.filter (fun e => decide (e.2.slice = n))).map (fun e =>
    ((extGranList e.2).filter (fun g => decide (usableGrans s g.1 ≤ g.2))).length))

/-- A map-out of stack `k` takes memory from under a slice's quota: a breach begins or changes, in whole MiB lost
(R435, R436, R439). [DESIGN CHOICE, log entry 51] -/
def memoryLoss (k : Nat) (s0 s : State) : State :=
  s.ten.slices.foldl (fun s e =>
    let was := withdrawnGrans s0 e.1
    let now := withdrawnGrans s e.1
    if e.1 ≠ 0 ∧ was < now then lossBreach 2 (stackPart k) e.1 (b2n (decide (was ≠ 0))) e.2.memMib (e.2.memMib - ceilDiv now 16) 0 s else s) s

/-- The map-outs of a stack, and the breaches that the memory lost makes. [DEDUCED, log entry 108] -/
def mapOutStack (k : Nat) (s : State) : State := memoryLoss k s (mapOutGo k s)

/-! ### Rung 3 -/

/-- The Crumb region leaves a partition that is about to be reset, for the lowest stack in service elsewhere (R607). -/
def moveRegion (p : Nat) (s : State) : State :=
  if ¬ regionOn s p then s
  else
    match (stacksUp s).filter (fun k => decide (stackPart k ≠ p)) with
    | k :: _ =>
      let s1 := placeCrumb k { s with xt := { s.xt with extents := tdel s.xt.extents 0 } }
      if (tget? s1.xt.extents 0).isSome then s1 else s
    | [] => s

/-- Dirty lines of a stack whose Crust die has its clock take the poison mark (R479 step 7). -/
def poisonDirty (k : Nat) (s : State) : State :=
  if crustDie k ∈ s.clk.lost then s
  else (s.home.lines.filter (fun e => decide (e.1 / 2 ^ 29 = k) && e.2.dirty)).foldl (fun s e => poisonHome k (e.1 % 2 ^ 29) s) s

/-- A partition's homes start empty: lines, directories, waiter tables and ordered tables (R596). -/
def clearHomes (p : Nat) (s : State) : State :=
  let s1 := { s with home := { s.home with
    lines := s.home.lines.filter (fun e => !homedOn p e.1),
    ordered := s.home.ordered.filter (fun e => !homedOn p e.1),
    waiters := s.home.waiters.filter (fun e => !decide (e.1 ∈ partStacks p)) } }
  (partStacks p).foldl (fun s k => setCru k (fun c => { c with ways := [], plru := [], dirOrder := [], wrHeld := [] }) s) s1

/-- A partition is reset: fenced, sampled, its contexts killed, its homes emptied, its map-outs carried out and its links
trained. It rejoins by PARTITION_RESTORED. [DEDUCED, log entry 58] -/
def rung3Go (p : Nat) (t : TrainIn) (q : RungReq) (s : State) : State :=
  let s1 := fenceS p (takeSample q (moveRegion p s))
  let s2 := countDamage p (fun s => (partStacks p).foldl (fun s k => poisonDirty k s) s) s1
  let s3 := (touching s2 p).foldl (fun s c => takeCtx c q.cause 0 s) s2
  let s4 := ((List.range 168).map (fun i => 168 * p + i)).foldl (fun s n => match stnOf s n with
    | some x => takeCtx x.ctx q.cause n s
    | none => s) s3
  let s5 := (s4.err.rungs.filter (fun r => decide (r.rung = 1) && touches s4 p r.target)).foldl (fun s r => killRung r.target s) s4
  let s6 := (partLinks p).foldl (fun s l => trainLink s.seam.straps t.lanes t.words l s) (clearHomes p s5)
  let s7 := (partLinks p).foldl (fun s l => countBundles l s) s6
  let s8 := (partStacks p).foldl (fun s k => mapOutStack k s) s7
  { s8 with
    clk := { s8.clk with lost := s8.clk.lost.filter (fun d => !decide (d = p)) },
    seam := { s8.seam with retrained := insKey p s8.seam.retrained } }

/-- RUNG_3, once for each request. -/
def rung3S (p : Nat) (t : TrainIn) (s : State) : State :=
  match rungReq? s 3 p with
  | some q => if p ∈ s.seam.retrained ∨ p ∈ s.seam.absent ∨ 9 < p then s else rung3Go p t q s
  | none => s

def execRung3 (part : Nat) (t : TrainIn) (s : State) : Out := ifUp (rung3S part t) s

/-- PARTITION_RESTORED: a partition whose training is complete and whose dies have their clocks rejoins (R484). [DEDUCED, log entry 22; DEDUCED, log entry 29] -/
def restoredS (p : Nat) (s : State) : State :=
  match rungReq? s 3 p with
  | none => s
  | some q =>
    if p ∉ s.seam.retrained ∨ partAbsent s s.seam.straps p ∨ (partDies p).any (fun d => decide (d ∈ s.clk.lost)) then s
    else
      let us := (refOf s pd0 - tget (refOf s pd0) s.seam.fencedAt p) / refUs
      let s1 := raise pd0 0x0023 0 0 p us (tget 0 s.seam.fenceDamage p) s
      let s2 := setDies p 0 { s1 with seam := { s1.seam with
        fenced := s1.seam.fenced.filter (fun x => !decide (x = p)), retrained := s1.seam.retrained.filter (fun x => !decide (x = p)),
        fencedAt := tdel s1.seam.fencedAt p, fenceDamage := tdel s1.seam.fenceDamage p } }
      stationsFreed (replyRung q (endRung q (regainStations p us s2)))

def execPartitionRestored (part : Nat) (s : State) : Out := ifUp (restoredS part) s

/-! ### Rungs 4 and 5 -/

/-- Dirty bytes of the host write caches are lost: HOSTWC_LOST counts the 64-byte fragments that held any (R620). [DEDUCED, log entry 35] -/
def discardDirty (s : State) : State :=
  { s with
    host := { s.host with dirty := [] },
    idr := { s.idr with hostwcLost := satAdd 65535 s.idr.hostwcLost ((s.host.dirty.map (fun e => e.1 / 64)).eraseDups).length } }

/-- Memory after rung 4: every granule fresh but the Crumb region's; an unlock zeroes that too (R581, R600). [DEDUCED, log entry 40] -/
def freshMem (s : State) : DevMem :=
  match s.err.regionExt.bind (tget? s.xt.extents) with
  | some x =>
    if s.sec.unlocking then {}
    else
      let keep := fun k g : Nat => (findGran x.stks x.grans k g).isSome
      { cells := s.mem.cells.filter (fun e => keep (e.1 / 2 ^ 36) (e.1 % 2 ^ 36 / 65536)),
        poison := s.mem.poison.filter (fun p => keep (p / 2 ^ 29) (p % 2 ^ 29 / 512)) }
  | none => {}

/-- Security state after rung 4 (R564, R581, R596). [DEDUCED, log entry 40] -/
def sec4 (c : Sec) : Sec :=
  { c with
    sets := [], keys := c.keys.filter (fun k => decide (k = 0)), token := [], integFails := 0,
    unlocked := c.unlocked || c.unlocking, unlocking := false }

/-- What rung 4 clears and keeps (R17, R596). [DEDUCED, log entry 28; DEDUCED, log entry 29; DEDUCED, log entry 40; DEDUCED, log entry 59] -/
def rung4Reset (s : State) : State :=
  let region := match s.err.regionExt.bind (fun n => (tget? s.xt.extents n).map (fun x => (n, x))) with
    | some e => [e]
    | none => []
  { s with
    cmd := { evLost := s.cmd.evq.length },
    clk := { s.clk with marker := none, corrWait := [], corrNext := [] },
    ten := {},
    xt := { extents := region, gens := s.xt.gens },
    mem := freshMem s,
    home := { cru := tmap s.home.cru (fun _ c => { c with ways := [], plru := [], dirOrder := [], wrHeld := [], misses := [], silent := [] }) },
    seam := { s.seam with
      highPct := 50, watchMin := 10, retryThresh := 16, hbmThresh := 64, corrThresh := 65536, lostStns := [], holding := none, spanning := [],
      credit := s.seam.credit.filter (fun p => decide ((halfClk s (2 * p)).point ≠ (halfClk s (2 * p + 1)).point)),
      bundles := tmap s.seam.bundles (fun _ b => { b with corrected := 0, retries := 0 }) },
    rbx := {},
    sch := { nextKey := s.sch.nextKey, order := s.sch.order, xseq := s.sch.xseq },
    pip := {},
    sec := sec4 s.sec,
    err := { s.err with
      graceDiv := 4, graceMin := 65536, cmdMs := 10, homeUs := 1000, corrected := 0, poisoned := 0, stationUe := 0,
      region := if s.sec.unlocking then [] else s.err.region },
    pwr := { s.pwr with eQueue := [], eCtx := [], grants := [], remaining := [], budget := [], breaches := [], delayed := [] } }

/-- RUNG_4: samples, writes the host's bytes back where the link works, resets the device, carries out map-outs and starts
Uhlug again (R596, R600). [DEDUCED, log entry 35; DEDUCED, log entry 59] -/
def rung4S (b : BootIn) (s : State) : State :=
  match rungReq? s 4 0 with
  | none => s
  | some q =>
    let s1 := takeSample q s
    let s2 := if s1.pci.active && s1.pci.linkUp then writeBack (fun _ => true) s1 else discardDirty s1
    let unl := s2.sec.unlocking
    let s3 := rung4Reset s2
    let s4 := if unl then raise pd0 0x0042 0 0 s2.sec.unlockNonce 0 0 s3 else s3
    let s5 := advanceRef b.elapsed ((List.range 20).foldl (fun s k => mapOutStack k s) s4)
    let s6 := { s5 with
      clk := { s5.clk with lost := if b.pd1Answers then s5.clk.lost.filter (fun d => !decide (d = pd1)) else s5.clk.lost },
      sec := { s5.sec with tried := [] } }
    startUhlug b.imageReady b.pd1Answers s6

def execRung4 (b : BootIn) (s : State) : Out := ifUp (rung4S b) s

/-- The module is held until its input is lost, in SMBus mode and with every DBG_OBS_SEL zero (R601, R643, R647, R648). [DEDUCED, log entry 31] -/
def holdModule (s : State) : State :=
  { s with
    pwr := { s.pwr with phase := .held }, cmd := { s.cmd with ready := false },
    pin := { s.pin with fault := true, trayCycle := true, i3c := false, dynAddr := none, obs := [] } }

/-- RUNG_5. -/
def rung5S (s : State) : State :=
  match rungReq? s 5 0 with
  | some q => holdModule (takeSample q s)
  | none => s

def execRung5 (s : State) : Out := ifUp rung5S s

/-! ### Escalation (R597) -/

/-- The rung that takes over from one past 50 ms: for rung 1 by its hung part, a station, 2,000 + the partition of a Crust
engine, or anything else for a port-die engine. -/
def nextRung (s : State) (r t hung : Nat) : Option (Nat × Nat) :=
  if r = 1 then
    (if hung < 1680 then (if ((stnOf s hung).map (fun x => decide (x.ctx = t))).getD false then some (2, stnId hung) else none)
     else if 2000 ≤ hung ∧ hung < 2010 then some (3, hung - 2000) else some (4, 0))
  else if r = 2 then some (3, t / 4096)
  else if r = 3 then some (4, 0)
  else if r = 4 then some (5, 0) else none

/-- RUNG_ESCALATED. The commands that wait for the narrower rung wait for the wider one. [DEDUCED, log entry 58] -/
def escalatedS (r t hung : Nat) (s : State) : State :=
  match rungReq? s r t, nextRung s r t hung with
  | some q, some w =>
    if refOf s q.die - q.since < 50 * refMs then s
    else
      let s1 := raise q.die 0x004D (if r = 1 then t else 0) 0 r t w.1 { s with err := { s.err with
        escalations := satAdd 255 s.err.escalations 1,
        rungs := s.err.rungs.map (fun x => if x.rung = r ∧ x.target = t then { x with cmds := [] } else x) } }
      startRung w.1 w.2 rcEscalation q.cmds s1
  | _, _ => s

def execRungEscalated (rung target hung : Nat) (s : State) : Out := ifUp (escalatedS rung target hung) s

/-! ### RESET (R603) -/

/-- The target exists: a tenant context, a station or a partition that is not absent, or zero. [DEDUCED, log entry 29; DEDUCED, log entry 55] -/
def resetTarget (s : State) (r t : Nat) : Bool :=
  if r = 1 then decide (t ≠ 0) && (tget? s.ten.ctxs t).isSome
  else if r = 2 then (match stnOfId t with
    | some n => !decide (stnPart n ∈ s.seam.absent)
    | none => false)
  else if r = 3 then decide (t ≤ 9 ∧ t ∉ s.seam.absent)
  else decide (t = 0)

/-- RESET. It waits for the rung it starts; rung 1 of a context already dead is complete. [DEDUCED, log entry 55] -/
def resetS (u : Queue) (c : TakenCmd) (s : State) : State :=
  let t := par c 0 2
  let r := par c 2 1
  if r = 0 ∨ 5 < r then finishCmd u.num c.seq stBadParam 0 s
  else if r = 2 ∧ (stnOfId t).isNone then finishCmd u.num c.seq stBadStation 0 s
  else if ¬ resetTarget s r t then finishCmd u.num c.seq stResetTarget 0 s
  else if s.err.rungs.any (fun q => decide ((u.num, c.seq) ∈ q.cmds)) then s
  else if r = 1 ∧ ((ctxOf s t).map (·.dead)).getD false ∧ (rungReq? s 1 t).isNone then finishCmd u.num c.seq stOk 1 s
  else startRung r t rcReset [(u.num, c.seq)] s

def execReset (q seq : Nat) (s : State) : Out := cmdOut 0x0A01 q seq resetS s

/-! ### Watchdogs -/

/-- WD_REST: a station's stretch has passed its bound by more than the grace (R593, R594). -/
def wdRestS (n : Nat) (s : State) : State :=
  match stnOf s n with
  | none => s
  | some x =>
    let grace := max (x.bound / max 1 s.err.graceDiv) s.err.graceMin
    if ¬ stnLive s x ∨ x.stretch / 25 ≤ x.bound + grace then s
    else rung1Start x.ctx rcRest [] (raise (ctxDie s x.ctx) 0x0048 x.ctx (ctxSlice s x.ctx) x.ctx (stnId n) (x.stretch / 25) s)

def execWdRest (stn : Nat) (s : State) : Out := ifUp (wdRestS stn) s

/-- Microseconds that `n` bytes add at 1 ms per GiB, and at `k` µs per MiB. -/
def perGib (n : Nat) : Nat := ceilDiv (n * 1000) (2 ^ 30)
def perMib (k n : Nat) : Nat := ceilDiv (n * k) (2 ^ 20)

/-- Length of the extent a command names at a parameter. -/
def extLen (s : State) (h : Nat) : Nat := ((extByHandle s h).map (fun e => e.2.length)).getD 0

/-- How a command is watched: not at all, by progress, or by its bound in µs (R405). -/
inductive WdBound where
  | none
  | progress
  | us (n : Nat)
  /-- as `us`, from the moment the bound begins, which may not have come -/
  | later (n : Nat)
deriving DecidableEq, Repr

/-- Bounds that depend on the parameters. [DEDUCED, log entry 57] -/
def sizedBound (s : State) (c : TakenCmd) : WdBound :=
  if c.op = 0x0202 then .us (2000 + perGib (extLen s (par c 0 4)))
  else if c.op = 0x0206 then (if par c 16 1 = 0 then .us 200 else .progress)
  else if c.op = 0x0301 then .us (5000 + perMib 1000 (par c 8 4))
  else if c.op = 0x0302 then
    .us (perMib 20000 (((((ctxOf s c.ctx).bind (fun x => tget? x.recipes (par c 0 2))).bind (tget? s.sch.recipes)).map (fun r => r.bytes.length)).getD 0))
  else if c.op = 0x0501 then (if par c 16 4 = 0 then .none else .us (par c 16 4 * 1000))
  else if c.op = 0x0802 then (if s.ten.slices.any (fun e => e.2.resizing.isSome && !e.2.leaving.isEmpty) then .none else .us 1000)
  else if c.op = 0x0903 then .us (5000 + perGib (extLen s (par c 8 4)))
  else if c.op = 0x0904 then .us (2000 + perGib (sumNat ((setExtents s (par c 0 2)).map (fun e => e.2.length))))
  else .none

/-- R405's bounds. [DEDUCED, log entry 56; DEDUCED, log entry 57] -/
def wdBound (s : State) (c : TakenCmd) : WdBound :=
  let fixed : List (Nat × Nat) := [(0x0101, 100), (0x0102, 50000), (0x0103, 10), (0x0104, 100), (0x0201, 200), (0x0203, 200),
    (0x0204, 100), (0x0205, 20), (0x0207, 100), (0x0208, 100), (0x0209, 100), (0x020A, 20), (0x0303, 50), (0x0502, 20),
    (0x0601, 1000), (0x0701, 1000), (0x0702, 1000), (0x0703, 1000), (0x0801, 1000), (0x0803, 50000), (0x0804, 100),
    (0x0805, 1000), (0x0901, 10000), (0x0902, 10000), (0x0A02, 10000), (0x0A03, 100), (0x0B01, 100000), (0x0B02, 100000),
    (0x0C01, 1000), (0x0C02, 100)]
  match fixed.find? (fun e => decide (e.1 = c.op)) with
  | some e => .us e.2
  | none =>
    if c.op = 0x0304 then .later 100
    else if c.op = 0x0105 then .later 100
    else if c.op = 0x0106 then .later 20
    else if c.op = 0x0401 ∨ c.op = 0x0402 then .progress
    else sizedBound s c

/-- A queue that a QUEUE_DESTROY or QUEUE_RESET names has replies to make. -/
def namedBusy (s : State) (q : Nat) (c : TakenCmd) : Bool :=
  let n := if c.op = 0x0105 then par c 0 2 else par c 4 2
  match tget? s.cmd.queues n with
  | some v => v.cmds.any (fun x => !decide (n = q ∧ x.seq = c.seq)) || v.stopSeq.isSome
  | none => false

/-- REF counts that the command watchdog has counted past its bound, with the margin to come, if it watches the command. [DEDUCED, log entry 56] -/
def wdLate (s : State) (q : Nat) (u : Queue) (c : TakenCmd) : Bool :=
  let now := refOf s (cplxDie u.cplx)
  let past := fun start us : Nat => decide (us * refUs + s.err.cmdMs * refMs < now - start - c.paused)
  match wdBound s c with
  | .none => false
  | .us n => past c.startAt n
  | .progress => past (c.boundAt.getD c.startAt) 0
  | .later n => (match c.boundAt with
    | some t => past t n
    | none => decide (c.op ≠ 0x0304) && !namedBusy s q c && past c.startAt n)

/-- Partition of the Crust copy engine that serves a command, if one does: the home of its device destination, else of
its source; for a pin preload the extent's first stack. -/
def copyPart (s : State) (c : TakenCmd) : Option Nat :=
  let at_ := fun a : Nat => (translate s c.ctx a).map (fun p => stackPart p.stack)
  if c.op = 0x0401 then
    (if ¬ bitOf (par c 24 1) 1 then at_ (par c 8 8) else if ¬ bitOf (par c 24 1) 0 then at_ (par c 0 8) else none)
  else if c.op = 0x0402 then (if par c 24 1 = 0 then at_ (par c 0 8) else none)
  else if c.op = 0x0206 then ((extByHandle s (par c 12 4)).bind (fun e => e.2.stks.head?)).map stackPart
  else none

/-- A command that has started and not replied. -/
def startedCmd (c : TakenCmd) : Bool := match c.phase with
  | .taken => false
  | _ => true

/-- WD_COMMAND: the oldest started, unreplied command of a queue is late; the watchdog does not count while TRAY_STOP_N is asserted (R593, R595, R641). [DEDUCED, log entry 56] -/
def wdCommandS (q : Nat) (s : State) : State :=
  match (tget? s.cmd.queues q).bind (fun u => (u.cmds.find? startedCmd).map (fun c => (u, c))) with
  | none => s
  | some (u, c) =>
    if s.pin.trayStop ∨ ¬ wdLate s q u c ∨ c.op = 0x0A01 ∨ (c.ctx ≠ 0 ∧ ctxStopping s c.ctx) then s
    else
      let s1 := raise (cplxDie u.cplx) 0x0049 c.ctx (ctxSlice s c.ctx) q c.seq c.op s
      if c.ctx ≠ 0 then rung1Start c.ctx rcCommand [] s1
      else
        let s2 := finishCmd q c.seq stTimeout 0 s1
        match copyPart s c with
        | some p => startRung 3 p rcCommand [] s2
        | none => startRung 4 0 rcCommand [] s2

def execWdCommand (q : Nat) (s : State) : Out := ifUp (wdCommandS q) s

/-- WD_HOME: a line has stayed blocked for HOME_US; each partition whose PART_ACK is missing has rung 3. -/
def wdHomeS (k line : Nat) (s : State) : State :=
  let h := hline s (lkey k line)
  if h.st ≠ .bl ∨ h.await.isEmpty ∨ refOf s (crustDie k) - h.blockedAt < s.err.homeUs * refUs then s
  else
    h.await.foldl (fun s p => startRung 3 p rcHome [] s) (raise (crustDie k) 0x004A 0 0 k (line * 128) (maskOf h.await) s)

def execWdHome (stack line : Nat) (s : State) : Out := ifUp (wdHomeS stack line) s

/-- CONTROL_COMPLEX_WATCHDOG: the other complex reports a core or the taking of packets hung for 1 ms. -/
def execControlComplexWatchdog (cplx : Nat) (s : State) : Out :=
  ifUp (fun s => guardS (decide (cplx < 2)) (startRung 4 0 rcControl []) s) s

/-- POWER_SEQUENCER_WATCHDOG: PD0's heartbeat is missing; before READY there is no rung to record (R593, R632). -/
def execPowerSequencerWatchdog (s : State) : Out :=
  .next (match s.pwr.phase with
    | .ready => startRung 5 0 rcControl [] s
    | .starting => holdModule s
    | .halted => holdModule s
    | _ => s)

/-! ### Errors (R586, R587) -/

/-- STATION_UE: a station cache drops the line, which is fetched again as a miss; any other store faults. -/
def stationUeS (n : Nat) (line : Option (Nat × Nat)) (s : State) : State :=
  if nStations ≤ n then s
  else
    let s1 := { s with err := { s.err with stationUe := satAdd 65535 s.err.stationUe 1 } }
    match line with
    | some (k, l) => setStn n (fun x => { x with cache := x.cache.filter (fun e => !decide (e.1 = lkey k l)) }) s1
    | none => stationFault n stPoisoned 0 0 0 0 0 s1

def execStationUe (stn : Nat) (cacheLine : Option (Nat × Nat)) (s : State) : Out := ifUp (stationUeS stn cacheLine) s

/-- FATAL_ERROR of a port die: 0 control core, 1 host write cache, 2 Huazen core. -/
def fatalS (die source : Nat) (s : State) : State :=
  if ¬ (die = pd0 ∨ die = pd1) ∨ 2 < source then s
  else startRung 4 0 rcFatal [] (raise pd0 0x0051 0 0 die source 4 { s with err := { s.err with fatal := satAdd 255 s.err.fatal 1 } })

def execFatalError (die source : Nat) (s : State) : Out := ifUp (fatalS die source) s

end Sys2Proof.Machine
end

