-- ==== Sys2Proof/Machine/Registers.lean ====
section
/-! DEFINITION. BAR0 (R12-R17, R625, R652): every register's value, what a read clears, and what a write does. A register of
64 bits stands at an aligned 8 bytes; two registers of 32 bits share such 8 bytes (R15). -/

namespace Sys2Proof.Machine

/-! ### Words and accesses -/

/-- The word whose fields are given as (lowest bit, width, value); bits of no field are reserved and zero (R16). -/
def word (l : List (Nat × Nat × Nat)) : Nat := sumNat (l.map (fun f => f.2.2 % 2 ^ f.2.1 * 2 ^ f.1))

/-- An access to an aligned 8 bytes: which halves it covers. -/
structure Cov where
  lo : Bool
  hi : Bool
deriving DecidableEq, Repr

/-- The access covers bits `h` down to `l` (R15). -/
def covers (c : Cov) (h l : Nat) : Bool := (c.lo || decide (32 ≤ l)) && (c.hi || decide (h < 32))

/-- The old word with the covered halves replaced by those of `v` (R15). -/
def merge (c : Cov) (old v : Nat) : Nat :=
  (if c.lo then v % 2 ^ 32 else old % 2 ^ 32) + 2 ^ 32 * (if c.hi then v / 2 ^ 32 % 2 ^ 32 else old / 2 ^ 32 % 2 ^ 32)

/-- `a` where `a` lies in a range, else what stood before: a write outside the range is ignored. [DESIGN CHOICE, log entry 44] -/
def inRange (lo hi a old : Nat) : Nat := if lo ≤ a ∧ a ≤ hi then a else old

/-- 0 where the access reads and clears bits `h` down to `l` whole, else the value (R15, R17). -/
def rc (c : Cov) (h l v : Nat) : Nat := if covers c h l then 0 else v

/-! ### ID_ registers and MSI-X (R618, R627) -/

/-- Dword `i` of the MSI-X table; dword 3 of an entry holds the mask bit. [PRESUMED, log entry 12] -/
def tableDword (s : State) (i : Nat) : Nat :=
  if i % 4 = 3 then tget 0 s.pci.table (4 * i) / 2 * 2 % 2 ^ 32 + b2n (decide (i / 4 ∉ s.pci.unmasked)) else tget 0 s.pci.table (4 * i) % 2 ^ 32

/-- The word at an offset below 0x1_8100. -/
def idVal (s : State) (o : Nat) : Nat :=
  if o = 0x00 then idRev
  else if o = 0x08 then
    word [(0, 4, s.idr.stage), (8, 8, s.idr.status), (16, 6, s.idr.die), (32, 16, s.idr.elapsedMs), (48, 16, s.idr.hostwcLost)]
  else if o = 0x10 then cfgSerial
  else if o = 0x18 then s.idr.readyCount % 2 ^ 64
  else if 0x100 ≤ o ∧ o < 0x340 then field s.clk.record (o - 0x100) 8
  else if 0x10000 ≤ o ∧ o < 0x18000 then tableDword s ((o - 0x10000) / 4) + 2 ^ 32 * tableDword s ((o - 0x10000) / 4 + 1)
  else if 0x18000 ≤ o ∧ o < 0x18100 then
    maskOf ((List.range 64).filter (fun i => decide ((o - 0x18000) * 8 + i ∈ s.pci.pba)))
  else 0

/-- Unmasks vector `v`: a pending bit delivers one message (R618). [PRESUMED, log entry 12] -/
def unmaskVector (v : Nat) (s : State) : State :=
  let s1 := { s with pci := { s.pci with unmasked := insKey v s.pci.unmasked } }
  if v ∈ s1.pci.pba ∧ ¬ s1.pci.functionMask then
    { s1 with pci := { s1.pci with pba := s1.pci.pba.filter (fun x => !decide (x = v)), msix := s1.pci.msix ++ [v] } }
  else s1

/-- Clears the function mask: every unmasked pending vector delivers one message (R618). -/
def unmaskFunction (s : State) : State :=
  let s1 := { s with pci := { s.pci with functionMask := false } }
  let due := s1.pci.pba.filter (fun v => decide (v ∈ s1.pci.unmasked))
  { s1 with pci := { s1.pci with pba := s1.pci.pba.filter (fun v => !decide (v ∈ s1.pci.unmasked)), msix := s1.pci.msix ++ due } }

/-- Writes one dword of the MSI-X table. [PRESUMED, log entry 12] -/
def tableWrite (i v : Nat) (s : State) : State :=
  let s1 := { s with pci := { s.pci with table := tset 0 s.pci.table (4 * i) (v % 2 ^ 32) } }
  if i % 4 ≠ 3 then s1
  else if bitOf v 0 then { s1 with pci := { s1.pci with unmasked := s1.pci.unmasked.filter (fun x => !decide (x = i / 4)) } }
  else unmaskVector (i / 4) s1

def idWrite (o : Nat) (c : Cov) (v : Nat) (s : State) : State :=
  if o = 0x08 then { s with idr := { s.idr with hostwcLost := bits (merge c (idVal s o) v) 63 48 } }
  else if 0x10000 ≤ o ∧ o < 0x18000 then
    let i := (o - 0x10000) / 4
    let s1 := if c.lo then tableWrite i (v % 2 ^ 32) s else s
    if c.hi then tableWrite (i + 1) (v / 2 ^ 32) s1 else s1
  else s

/-! ### CMD_ registers (R408) -/

/-- CMD_Qn_STATE.STATE. -/
def qcode : QState → Nat
  | .free => 0
  | .running => 1
  | .stopped => 2
  | .draining => 3

def cmdVal (s : State) (o : Nat) : Nat :=
  let q := tget {} s.cmd.queues ((o - 0x1000) / 16)
  if o = 0x00 then
    word [(0, 1, b2n s.cmd.ready), (16, 11, s.cmd.queues.length),
      (32, 11, (s.cmd.queues.filter (fun e => decide (e.2.state = .stopped))).length), (48, 16, s.cmd.orphan)]
  else if o = 0x08 then s.cmd.q0ring / 4096 % 2 ^ 52 * 4096
  else if o = 0x10 then word [(0, 5, s.cmd.q0log2), (16, 11, s.cmd.q0vec), (31, 1, b2n s.cmd.q0enable)]
  else if o = 0x18 then s.cmd.evBase / 4096 % 2 ^ 52 * 4096
  else if o = 0x20 then word [(0, 5, s.cmd.evLog2), (16, 11, s.cmd.evVec), (31, 1, b2n s.cmd.evEnable)]
  else if o = 0x28 then word [(0, 20, s.cmd.evHead)]
  else if o = 0x30 then word [(0, 20, s.cmd.evTail)]
  else if o = 0x38 then word [(0, 32, s.cmd.evLost), (32, 32, s.cmd.evDelivered)]
  else if 0x1000 ≤ o ∧ o < 0x5000 ∧ o % 16 = 0 then word [(0, 32, q.next), (32, 32, creditOf q)]
  else if 0x1000 ≤ o ∧ o < 0x5000 then
    word [(0, 2, qcode q.state), (2, 1, q.cplx), (16, 16, q.stopCause), (32, 16, q.stale)]
  else 0

/-- RESTART restarts a stopped queue 0 at sequence 0, once its last reply has been written (R400). [DEDUCED, log entry 43] -/
def q0Restart (s : State) : State :=
  match tget? s.cmd.queues 0 with
  | some u =>
    if u.state ≠ .stopped then s
    else if u.cmds.isEmpty ∧ u.stopSeq = none then setQueue 0 (restartQueue 0) s
    else { s with cmd := { s.cmd with q0restart := true } }
  | none => s

/-- CMD_Q0_CFG. ENABLE set from 0 starts queue 0 at sequence 0 (R408). [DEDUCED, log entry 16; DEDUCED, log entry 43] -/
def q0CfgWrite (c : Cov) (v : Nat) (s : State) : State :=
  let w := merge c (cmdVal s 0x10) v
  let s1 := { s with cmd := { s.cmd with
    q0log2 := inRange 8 16 (bits w 4 0) s.cmd.q0log2, q0vec := bits w 26 16, q0enable := bitOf w 31 } }
  let s2 := if !s.cmd.q0enable && bitOf w 31 then setQueue 0 (restartQueue 0) s1 else s1
  if covers c 32 32 && bitOf v 32 then q0Restart s2 else s2

def cmdWrite (o : Nat) (c : Cov) (v : Nat) (s : State) : State :=
  let w := merge c (cmdVal s o) v
  if o = 0x08 then { s with cmd := { s.cmd with q0ring := w / 4096 * 4096 } }
  else if o = 0x10 then q0CfgWrite c v s
  else if o = 0x18 then { s with cmd := { s.cmd with evBase := w / 4096 * 4096 } }
  else if o = 0x20 then { s with cmd := { s.cmd with
    evLog2 := inRange 12 20 (bits w 4 0) s.cmd.evLog2, evVec := bits w 26 16, evEnable := bitOf w 31 } }
  else if o = 0x30 then { s with cmd := { s.cmd with evTail := bits w 19 0 } }
  else s

def cmdClear (o : Nat) (c : Cov) (s : State) : State :=
  if o = 0x00 then { s with cmd := { s.cmd with orphan := rc c 63 48 s.cmd.orphan } }
  else if o = 0x38 then { s with cmd := { s.cmd with evLost := rc c 31 0 s.cmd.evLost, evDelivered := rc c 63 32 s.cmd.evDelivered } }
  else if 0x1000 ≤ o ∧ o < 0x5000 ∧ o % 16 = 8 then
    setQueue ((o - 0x1000) / 16) (fun u => { u with stale := rc c 47 32 u.stale }) s
  else s

/-! ### XT_ registers (R380) -/

/-- Batches that wait undelivered, and whether one waits for room in an enabled ring. [DEDUCED, log entry 47] -/
def waitingBatches (s : State) : Nat := sumNat (s.ten.ctxs.map (fun e => e.2.waiting.length))
/-- A batch waits for room in an enabled fault ring. [DEDUCED, log entry 47] -/
def ringFull (s : State) : Bool :=
  s.xt.ringEnable && s.ten.ctxs.any (fun e => e.2.waiting.any (fun b => !faultRoom s b.1.recs.length))

/-- XT_ registers (R380). [DEDUCED, log entry 47] -/
def xtVal (s : State) (o : Nat) : Nat :=
  if o = 0x00 then
    word [(0, 12, (s.ten.ctxs.filter (fun e => decide (e.1 ≠ 0))).length), (16, 9, s.xt.windows.length), (32, 32, s.xt.maps.length)]
  else if o = 0x08 then s.xt.ringBase / 4096 % 2 ^ 52 * 4096
  else if o = 0x10 then word [(0, 5, s.xt.ringLog2), (16, 11, s.xt.ringVec), (31, 1, b2n s.xt.ringEnable)]
  else if o = 0x18 then word [(0, 20, s.xt.head)]
  else if o = 0x20 then word [(0, 20, s.xt.tail)]
  else if o = 0x28 then word [(0, 1, b2n (ringFull s)), (16, 12, min 4095 (waitingBatches s)), (32, 32, s.xt.delivered)]
  else if o = 0x30 then word [(0, 6, s.pci.bar4Log2), (32, 32, s.xt.apertures.length)]
  else if o = 0x38 then word [(0, 32, s.xt.apMisses), (32, 32, s.xt.apPoisoned)]
  else 0

def xtWrite (o : Nat) (c : Cov) (v : Nat) (s : State) : State :=
  let w := merge c (xtVal s o) v
  if o = 0x08 then { s with xt := { s.xt with ringBase := w / 4096 * 4096 } }
  else if o = 0x10 then { s with xt := { s.xt with
    ringLog2 := inRange 12 20 (bits w 4 0) s.xt.ringLog2, ringVec := bits w 26 16, ringEnable := bitOf w 31 } }
  else if o = 0x20 then { s with xt := { s.xt with tail := bits w 19 0 } }
  else s

def xtClear (o : Nat) (c : Cov) (s : State) : State :=
  if o = 0x28 then { s with xt := { s.xt with delivered := rc c 63 32 s.xt.delivered } }
  else if o = 0x38 then { s with xt := { s.xt with apMisses := rc c 31 0 s.xt.apMisses, apPoisoned := rc c 63 32 s.xt.apPoisoned } }
  else s

/-! ### SEAM_ registers (R486) -/

/-- A bundle in service, counted under a fence as OUT. [DEDUCED, log entry 46] -/
def bundlesIn (s : State) (l st : Nat) : Nat :=
  let gone := [(linkEnds l).1, (linkEnds l).2].any (fun d => match diePart d with
    | some p => decide (p ∈ s.seam.fenced)
    | none => false)
  ((List.range (linkBundles l)).filter (fun b =>
    let x := (bundleOf s l b).st
    if gone then decide (st = 3) && decide (x ≠ 0) else decide (x = st))).length

/-- SEAM_ registers (R486). [DEDUCED, log entry 46] -/
def seamVal (s : State) (o : Nat) : Nat :=
  let d := (o - 0x100) / 8
  let l := (o - 0x1000) / 8
  let e := o - 0x2000
  let u := bundleOf s (e / 128) (e % 128 / 8)
  if o = 0x00 then word [(0, 10, maskOf s.seam.fenced), (16, 10, maskOf s.seam.credit), (32, 10, maskOf s.seam.absent)]
  else if o = 0x08 then word [(0, 8, s.seam.highPct), (8, 8, s.seam.watchMin), (16, 16, s.seam.retryThresh), (32, 16, s.seam.hbmThresh)]
  else if o = 0x10 then word [(0, 32, s.seam.corrThresh)]
  else if o = 0x18 then word [(0, 45, maskOf s.seam.pendLinks)]
  else if o = 0x28 then word [(0, 20, maskOf s.seam.pendTrims)]
  else if 0x100 ≤ o ∧ o < 0x300 ∧ d ∈ allDies then word [(0, 16, tget 0 s.seam.straps d), (16, 2, tget 0 s.seam.dieState d)]
  else if 0x1000 ≤ o ∧ l < 45 then
    word ((List.range (linkBundles l)).map (fun b => (2 * b, 2, (bundleOf s l b).st)) ++
      [(32, 4, bundlesIn s l 1), (36, 4, bundlesIn s l 2), (40, 4, bundlesIn s l 3), (44, 2, (tget {} s.seam.watch l).retrains)])
  else if 0x2000 ≤ o ∧ e / 128 < 45 ∧ e % 128 / 8 < linkBundles (e / 128) then
    word [(0, 32, u.corrected), (32, 16, u.retries), (48, 2, u.spares), (50, 5, u.lastLane)]
  else 0

def seamWrite (o : Nat) (c : Cov) (v : Nat) (s : State) : State :=
  let w := merge c (seamVal s o) v
  if o = 0x08 then { s with seam := { s.seam with
    highPct := inRange 1 100 (bits w 7 0) s.seam.highPct, watchMin := bits w 15 8, retryThresh := bits w 31 16,
    hbmThresh := bits w 47 32 } }
  else if o = 0x10 then { s with seam := { s.seam with corrThresh := bits w 31 0 } }
  else if o = 0x20 ∧ c.lo then (if bits v 5 0 < 45 then pendLink (bits v 5 0) s else s)
  else s

def seamClear (o : Nat) (c : Cov) (s : State) : State :=
  let e := o - 0x2000
  if 0x2000 ≤ o ∧ e / 128 < 45 ∧ e % 128 / 8 < linkBundles (e / 128) then
    setBundle (e / 128) (e % 128 / 8) (fun u => { u with corrected := rc c 31 0 u.corrected, retries := rc c 47 32 u.retries }) s
  else s

/-! ### RBX_ registers (R519) -/

def owinVal (x : OWin) (r : Nat) : Nat :=
  if r = 0 then word [(0, 1, b2n x.valid), (1, 1, b2n x.busy), (2, 2, x.err), (4, 12, x.owner), (16, 36, x.base)]
  else if r = 8 then word [(0, 28, x.len)]
  else if r = 16 then word [(0, 44, x.remote), (44, 8, x.destWindow), (52, 4, x.counter)]
  else word [(0, 12, x.destDev), (16, 24, x.portMask)]

def rbxVal (s : State) (o : Nat) : Nat :=
  let n := (o - 0x100) / 16
  let u := portOf s n
  let w := (o - 0x800) / 8
  if o = 0x00 then word [(0, 12, s.rbx.deviceNum), (16, 2, s.rbx.mode), (24, 5, s.rbx.groupSize)]
  else if o = 0x08 then word [(0, 20, s.rbx.ackUs), (32, 16, s.rbx.idleUs)]
  else if o = 0x10 then
    word [(0, 24, maskOf ((List.range 24).filter (portUp s))),
      (32, 24, maskOf ((List.range 24).filter (fun p => decide ((portOf s p).st = 3))))]
  else if o = 0x20 then word [(0, 32, s.rbx.late), (32, 32, s.rbx.expired)]
  else if 0x100 ≤ o ∧ n < 24 ∧ o % 16 = 0 then word [(0, 2, u.st), (4, 4, u.cause), (8, 8, u.lanesOk), (16, 12, u.peer)]
  else if 0x100 ≤ o ∧ n < 24 then word [(0, 32, u.corrected), (32, 16, u.uncorrectable), (48, 16, u.replays)]
  else if 0x800 ≤ o ∧ w < 256 then word [(0, 32, tget 0 s.rbx.refused w), (32, 8, tget 0 s.rbx.lastStatus w)]
  else if 0x10000 ≤ o ∧ o < 0x30000 then owinVal (tget {} s.rbx.owins ((o - 0x10000) / 32)) (o % 32)
  else 0

/-- RBX_OWINw_LEN, DEST and ROUTE: ignored while VALID or BUSY is 1 (R509). -/
def owinWrite (n r w : Nat) (s : State) : State :=
  let x := tget {} s.rbx.owins n
  if r = 0 then owinBaseWrite n w s
  else if x.valid ∨ x.busy then s
  else
    let y := if r = 8 then { x with len := bits w 27 0 }
      else if r = 16 then { x with remote := bits w 43 0, destWindow := bits w 51 44, counter := bits w 55 52 }
      else { x with destDev := bits w 11 0, portMask := bits w 39 16 }
    { s with rbx := { s.rbx with owins := tset {} s.rbx.owins n y } }

/-- A write of an RBX_ register (R519). [DESIGN CHOICE, log entry 44] -/
def rbxWrite (o : Nat) (c : Cov) (v : Nat) (s : State) : State :=
  let w := merge c (rbxVal s o) v
  if o = 0x00 ∧ c.lo then modeWrite w s
  else if o = 0x08 then { s with rbx := { s.rbx with
    ackUs := inRange 10 1000000 (bits w 19 0) s.rbx.ackUs, idleUs := bits w 47 32 } }
  else if o = 0x18 ∧ c.lo then (if bits v 4 0 < 24 then retrainWrite (bits v 4 0) s else s)
  else if 0x10000 ≤ o ∧ o < 0x30000 then owinWrite ((o - 0x10000) / 32) (o % 32) w s
  else s

def rbxClear (o : Nat) (c : Cov) (s : State) : State :=
  let n := (o - 0x100) / 16
  let w := (o - 0x800) / 8
  if o = 0x20 then { s with rbx := { s.rbx with late := rc c 31 0 s.rbx.late, expired := rc c 63 32 s.rbx.expired } }
  else if 0x100 ≤ o ∧ n < 24 ∧ o % 16 = 8 then
    setPort n (fun u => { u with
      corrected := rc c 31 0 u.corrected, uncorrectable := rc c 47 32 u.uncorrectable, replays := rc c 63 48 u.replays }) s
  else if 0x800 ≤ o ∧ w < 256 then
    { s with rbx := { s.rbx with refused := tset 0 s.rbx.refused w (rc c 31 0 (tget 0 s.rbx.refused w)) } }
  else s

/-! ### PWR_ registers (R554) -/

def pwrVal (s : State) (o : Nat) : Nat :=
  let p := (o - 0x100) / 16
  let h := (o - 0x200) / 8
  let d := (o - 0x300) / 8
  let k := halfClk s h
  if o = 0x00 then
    word [(0, 1, s.pwr.modeSel), (1, 1, b2n s.pwr.brake), (2, 1, b2n (!s.pwr.throttled.isEmpty)), (3, 1, b2n s.pwr.alertOn),
      (16, 16, s.pwr.cap), (32, 16, min 65535 s.pwr.mean1ms), (48, 16, min 65535 s.pwr.portRes)]
  else if o = 0x08 then word [(0, 16, s.pwr.volts), (16, 16, s.pwr.amps)]
  else if o = 0x10 then s.pwr.eIn % 2 ^ 64
  else if o = 0x18 then word [(0, 4, s.pwr.borrow)]
  else if o = 0x20 then word [(0, 32, s.pwr.hours), (32, 16, s.pwr.writes), (48, 1, s.pwr.origin)]
  else if 0x100 ≤ o ∧ p < 10 ∧ o % 16 = 0 then tget 0 s.pwr.ePart p % 2 ^ 64
  else if 0x100 ≤ o ∧ p < 10 then word [(0, 32, tget 0 s.pwr.grantMw p), (32, 16, tget 0 s.pwr.baseW p)]
  else if 0x200 ≤ o ∧ h < 20 then word [(0, 4, k.point), (4, 12, pointMhz k.point), (16, 11, k.volt)]
  else if 0x300 ≤ o ∧ o < 0x500 ∧ d ∈ allDies then word [(0, 8, tget 0 s.pwr.tj d), (8, 8, tget 0 s.pwr.tmax d)]
  else 0

def pwrWrite (o : Nat) (c : Cov) (v : Nat) (s : State) : State :=
  if o = 0x18 then { s with pwr := { s.pwr with borrow := bits (merge c (pwrVal s o) v) 3 0 } } else s

def pwrClear (o : Nat) (c : Cov) (s : State) : State :=
  let d := (o - 0x300) / 8
  if 0x300 ≤ o ∧ o < 0x500 ∧ d ∈ allDies then
    { s with pwr := { s.pwr with tmax := tset 0 s.pwr.tmax d (rc c 15 8 (tget 0 s.pwr.tmax d)) } }
  else s

/-! ### SEC_ registers and the debug token (R580-R585) -/

/-- The nonce for the next debug token. [DEDUCED, log entry 39] -/
def nonceNow (s : State) : Nat := Config.nonce s.sec.nonceNo % 2 ^ 64

def secVal (s : State) (o : Nat) : Nat :=
  if o = 0x00 then
    word [(0, 1, b2n s.sec.unlocked), (1, 3, s.sec.dbgResult), (8, 8, s.sec.sets.length), (16, 16, s.sec.svn),
      (32, 16, max Config.svnFloor s.sec.svnFloor), (48, 1, b2n s.sec.slot), (49, 1, b2n s.pci.ide)]
  else if 0x08 ≤ o ∧ o < 0x38 then leNat ((List.range 8).map (fun i => Config.deviceHash (o - 8 + i)))
  else if o = 0x40 then word [(0, 32, s.sec.integFails)]
  else if o = 0x48 then nonceNow s
  else 0

/-- The debug token as written, 256 bytes. -/
def tokenBytes (s : State) : List Byte := (List.range 256).map (tget 0 s.sec.token)

/-- DBG_RESULT of an unlock attempt (R580, R581). [DEDUCED, log entry 39] -/
def unlockResult (s : State) : Nat :=
  let t := tokenBytes s
  if !s.sec.sets.isEmpty then 2
  else if !(decide (t.take 48 = (List.range 48).map Config.deviceHash) && zeroAt t 56 104 && Config.dbgSigOk t) then 3
  else if field t 48 8 ≠ nonceNow s then 4
  else 1

/-- UNLOCK: each attempt draws a new nonce; a valid one starts rung 4, which zeroes memory and unlocks (R581). [DEDUCED, log entry 39] -/
def unlockS (s : State) : State :=
  let r := unlockResult s
  let s1 := { s with sec := { s.sec with
    dbgResult := r, nonceNo := s.sec.nonceNo + 1, unlocking := s.sec.unlocking || decide (r = 1),
    unlockNonce := if r = 1 then nonceNow s else s.sec.unlockNonce } }
  if r = 1 then startRung 4 0 rcReset [] s1 else s1

/-- A write of 8 bytes to SEC_DBG_TOKEN or of UNLOCK; the check of a token is made while Uhlug is up. -/
def secWrite (o : Nat) (c : Cov) (v : Nat) (s : State) : State :=
  if 0x100 ≤ o ∧ o < 0x200 ∧ c.lo ∧ c.hi then
    { s with sec := { s.sec with token := (leBytes 8 v).zipIdx.foldl (fun t b => tset 0 t (o - 0x100 + b.2) b.1) s.sec.token } }
  else if o = 0x50 ∧ c.lo ∧ bitOf v 0 ∧ s.pwr.phase = .ready then unlockS s
  else s

def secClear (o : Nat) (c : Cov) (s : State) : State :=
  if o = 0x40 then { s with sec := { s.sec with integFails := rc c 31 0 s.sec.integFails } } else s

/-! ### DBG_ registers (R613, R647, R650) -/

/-- Value of a DBG_ register. [DESIGN CHOICE, log entry 135] -/
def dbgVal (s : State) (o : Nat) : Nat :=
  let b := tget {} s.pin.obs ((o - 0x100) / 8)
  if o = 0x00 then
    word [(0, 1, b2n s.err.active), (1, 3, s.err.rung), (4, 4, s.err.cause), (8, 16, s.err.target), (24, 8, s.err.escalations),
      (32, 16, s.err.durationUs)]
  else if o = 0x08 then word [(0, 4, s.err.graceDiv), (4, 20, s.err.graceMin), (32, 16, s.err.cmdMs), (48, 16, s.err.homeUs)]
  else if o = 0x10 then word [(0, 16, s.err.corrected), (16, 16, s.err.poisoned), (32, 16, s.err.stationUe), (48, 8, s.err.fatal)]
  else if o = 0x18 then word [(0, 24, regionUsed s), (24, 1, b2n s.err.lost), (32, 16, s.err.region.length), (48, 16, s.err.dropped)]
  else if o = 0x20 then word [(0, 32, s.err.bufUsed), (32, 32, s.err.bufSize)]
  else if o = 0x28 then
    word [(0, 1, b2n s.pin.perst), (1, 1, b2n s.pin.pwrbrk), (2, 1, b2n s.pin.trayStop), (4, 1, b2n s.pin.perstChat),
      (5, 1, b2n s.pin.pwrbrkChat), (6, 1, b2n s.pin.stopChat), (8, 1, b2n s.pin.thermtrip), (9, 1, b2n s.pin.alert),
      (10, 1, b2n s.pin.fault), (11, 1, b2n s.pin.trayCycle), (16, 2, s.pin.addr), (18, 1, b2n s.pin.i3c)]
  else if 0x100 ≤ o ∧ o < 0x140 then word [(0, 6, b.die), (8, 8, b.group), (16, 8, b.index), (31, 1, b2n b.enable)]
  else 0

/-- A W1C bit after a write (R17). -/
def w1c (c : Cov) (i v : Nat) (old : Bool) : Bool := old && !(covers c i i && bitOf v i)

def dbgWrite (o : Nat) (c : Cov) (v : Nat) (s : State) : State :=
  let w := merge c (dbgVal s o) v
  if o = 0x00 then { s with err := { s.err with
    rung := bits w 3 1, cause := bits w 7 4, target := bits w 23 8, escalations := bits w 31 24, durationUs := bits w 47 32 } }
  else if o = 0x08 then { s with err := { s.err with
    graceDiv := inRange 1 15 (bits w 3 0) s.err.graceDiv, graceMin := bits w 23 4,
    cmdMs := inRange 1 65535 (bits w 47 32) s.err.cmdMs, homeUs := inRange 100 65535 (bits w 63 48) s.err.homeUs } }
  else if o = 0x10 then { s with err := { s.err with fatal := bits w 55 48 } }
  else if o = 0x18 then { s with err := { s.err with lost := w1c c 24 v s.err.lost } }
  else if o = 0x28 then { s with pin := { s.pin with
    perstChat := w1c c 4 v s.pin.perstChat, pwrbrkChat := w1c c 5 v s.pin.pwrbrkChat, stopChat := w1c c 6 v s.pin.stopChat } }
  else if 0x100 ≤ o ∧ o < 0x140 ∧ s.sec.unlocked then
    let x : ObsSel := { die := bits w 5 0, group := bits w 15 8, index := bits w 23 16, enable := bitOf w 31 }
    { s with pin := { s.pin with obs := tset {} s.pin.obs ((o - 0x100) / 8) x } }
  else s

def dbgClear (o : Nat) (c : Cov) (s : State) : State :=
  if o = 0x10 then { s with err := { s.err with
    corrected := rc c 15 0 s.err.corrected, poisoned := rc c 31 16 s.err.poisoned, stationUe := rc c 47 32 s.err.stationUe } }
  else if o = 0x18 then { s with err := { s.err with dropped := rc c 63 48 s.err.dropped } }
  else s

/-! ### CRU_ registers (R291, R325) -/

/-- STATE of CRU_STATUS. -/
def cruState (s : State) (k : Nat) : Nat :=
  let u := cruOf s k
  if stackPart k ∈ s.seam.fenced then 3
  else if u.mapped then 2
  else if ¬ u.chOut.isEmpty ∨ u.bundles < 15 then 1 else 0

/-- Pinned lines of a stack, and the most in one set. -/
def pinnedLines (s : State) (k : Nat) : List Nat := (s.home.pins.filter (fun e => decide (e.1 / 2 ^ 29 = k ∧ e.2 ≠ []))).map (·.1)
def maxPinned (s : State) (k : Nat) : Nat :=
  maxNat ((pinnedLines s k).map (fun a => ((pinnedLines s k).filter (sameSet a)).length))

def cruVal (s : State) (k o : Nat) : Nat :=
  let u := cruOf s k
  let n := (o - 0x100) / 8
  if stackPart k ∈ s.seam.fenced then (if o = 0 then 3 else 0)
  else if o = 0x00 then word [(0, 2, cruState s k), (8, 4, u.bundles), (16, 3, u.chOut.length), (32, 32, usableGrans s k)]
  else if o = 0x08 then word [(0, 32, maskOf u.chOut), (32, 32, u.chPending)]
  else if o = 0x10 then word [(0, 16, u.ueThresh), (32, 6, u.wrBatch)]
  else if o = 0x18 then word [(0, 32, (pinnedLines s k).length), (32, 4, maxPinned s k)]
  else if o = 0x20 then word [(0, 32, u.thrThresh), (32, 1, b2n u.thrEnable)]
  else if o = 0x28 then word [(0, 16, u.scrubH), (16, 1, b2n u.scrubOn), (32, 32, u.scrubPasses)]
  else if o = 0x30 then word [(0, 16, u.orderMs)]
  else if o = 0x38 then word [(0, 19, u.dirOrder.length), (32, 14, orderUsed s k), (48, 13, (tget [] s.home.waiters k).length)]
  else if o = 0x40 then word [(0, 16, u.recalls), (16, 16, u.closes), (32, 16, u.retries), (48, 16, u.timeouts)]
  else if 0x100 ≤ o ∧ n < 32 then word [(0, 32, tget 0 u.corr n), (32, 16, tget 0 u.uncorr n)]
  else 0

/-- CRU_CH_MAP.PENDING: a bit set from 0 makes its channel pending with CHANNEL_PENDING, a bit cleared cancels (R281). [DEDUCED, log entry 45] -/
def pendingSet (k m : Nat) (s : State) : State :=
  let s1 := setCru k (fun u => { u with chPending := u.chPending &&& m }) s
  (bitsSet 32 m).foldl (fun s c => pendChannel k c s) s1

/-- A write of a CRU_ register (R291). [DEDUCED, log entry 45] -/
def cruWrite (k o : Nat) (c : Cov) (v : Nat) (s : State) : State :=
  let w := merge c (cruVal s k o) v
  let n := (o - 0x100) / 8
  if stackPart k ∈ s.seam.fenced then s
  else if o = 0x08 then (if c.hi then pendingSet k (bits w 63 32) s else s)
  else if o = 0x10 then
    let s1 := setCru k (fun u => { u with ueThresh := bits w 15 0, wrBatch := inRange 8 32 (bits w 37 32) u.wrBatch }) s
    if c.lo then (List.range 32).foldl (fun s n => checkThresh k n s) s1 else s1
  else if o = 0x20 then setCru k (fun u => { u with thrThresh := bits w 31 0, thrEnable := bitOf w 32 }) s
  else if o = 0x28 then setCru k (fun u => { u with scrubH := inRange 1 8760 (bits w 15 0) u.scrubH, scrubOn := bitOf w 16 }) s
  else if o = 0x30 then setCru k (fun u => { u with orderMs := inRange 1 60000 (bits w 15 0) u.orderMs }) s
  else if 0x100 ≤ o ∧ n < 32 ∧ c.hi then
    checkThresh k n (setCru k (fun u => { u with uncorr := tset 0 u.uncorr n (bits w 47 32) }) s)
  else s

def cruClear (k o : Nat) (c : Cov) (s : State) : State :=
  let n := (o - 0x100) / 8
  if stackPart k ∈ s.seam.fenced then s
  else if o = 0x40 then setCru k (fun u => { u with
    recalls := rc c 15 0 u.recalls, closes := rc c 31 16 u.closes, retries := rc c 47 32 u.retries, timeouts := rc c 63 48 u.timeouts }) s
  else if 0x100 ≤ o ∧ n < 32 then setCru k (fun u => { u with corr := tset 0 u.corr n (rc c 31 0 (tget 0 u.corr n)) }) s
  else s

/-! ### The whole of BAR0 (R652) -/

/-- The value of the aligned 8 bytes at a BAR0 offset; zero where no register stands (R14). -/
def regVal (s : State) (o : Nat) : Nat :=
  let b := o / 2 ^ 20
  let r := o % 2 ^ 20
  if o < 0x18100 then idVal s o
  else if b = 5 then cmdVal s r
  else if b = 6 then xtVal s r
  else if b = 7 then seamVal s r
  else if b = 8 then rbxVal s r
  else if b = 9 then pwrVal s r
  else if b = 10 then secVal s r
  else if b = 11 then dbgVal s r
  else if 0x1000000 ≤ o ∧ o < 0x1050000 then cruVal s (r / 0x4000) (r % 0x4000)
  else 0

/-- What a write does to the registers in the aligned 8 bytes. -/
def regWrite (o : Nat) (c : Cov) (v : Nat) (s : State) : State :=
  let b := o / 2 ^ 20
  let r := o % 2 ^ 20
  if o < 0x18100 then idWrite o c v s
  else if b = 5 then cmdWrite r c v s
  else if b = 6 then xtWrite r c v s
  else if b = 7 then seamWrite r c v s
  else if b = 8 then rbxWrite r c v s
  else if b = 9 then pwrWrite r c v s
  else if b = 10 then secWrite r c v s
  else if b = 11 then dbgWrite r c v s
  else if 0x1000000 ≤ o ∧ o < 0x1050000 then cruWrite (r / 0x4000) (r % 0x4000) c v s
  else s

/-- What a read clears in the aligned 8 bytes: RC fields that it covers whole (R15, R17). -/
def regClear (o : Nat) (c : Cov) (s : State) : State :=
  let b := o / 2 ^ 20
  let r := o % 2 ^ 20
  if b = 5 then cmdClear r c s
  else if b = 6 then xtClear r c s
  else if b = 7 then seamClear r c s
  else if b = 8 then rbxClear r c s
  else if b = 9 then pwrClear r c s
  else if b = 10 then secClear r c s
  else if b = 11 then dbgClear r c s
  else if 0x1000000 ≤ o ∧ o < 0x1050000 then cruClear (r / 0x4000) (r % 0x4000) c s
  else s

/-- An access of the form R12 allows, inside BAR0. -/
def accessOk (off size : Nat) : Bool := decide ((size = 4 ∨ size = 8) ∧ off % size = 0 ∧ off + size ≤ 2 ^ 25)

/-- The halves that an access covers. -/
def covOf (off size : Nat) : Cov := ⟨decide (size = 8 ∨ off % 8 = 0), decide (size = 8 ∨ off % 8 = 4)⟩

/-- A register at the offset is served: all of BAR0 once READY has been reached, and before it and in a boot halt the ID_
registers and MSI-X (R625, R631); the held module serves reads alone (R601). -/
def served (s : State) (off : Nat) (wr : Bool) : Bool :=
  match s.pwr.phase with
  | .ready => true
  | .held => !wr
  | .starting => decide (off < 0x18100)
  | .halted => decide (off < 0x18100)
  | _ => false

/-- A host read of BAR0. [PRESUMED, log entry 11; DEDUCED, log entry 31] -/
def barRead (off size : Nat) (s : State) : State :=
  if ¬ busUp s ∨ ¬ accessOk off size then onesBack size false s
  else
    let o := off / 8 * 8
    let v := if served s off false then regVal s o else 0
    let s1 := if served s off false then regClear o (covOf off size) s else s
    { s1 with pci := { s1.pci with rdData := leBytes size (if off % 8 = 4 then v / 2 ^ 32 else v), rdPoison := false } }

/-- A host write of BAR0. [PRESUMED, log entry 11; DEDUCED, log entry 31] -/
def barWrite (off size val : Nat) (s : State) : State :=
  if ¬ busUp s ∨ ¬ accessOk off size ∨ ¬ served s off true then s
  else regWrite (off / 8 * 8) (covOf off size) (if off % 8 = 4 then val % 2 ^ 32 * 2 ^ 32 else val % 2 ^ (8 * size)) s

/-! ### The commands -/

/-- REGISTER_WRITE. -/
def execRegisterWrite (off size val : Nat) (s : State) : Out := .next (barWrite off size val s)

/-- READ_CLEAR. -/
def execReadClear (off size : Nat) (s : State) : Out := .next (barRead off size s)

/-- Q0_ENABLE: a write of CMD_Q0_CFG's low half with ENABLE 1. [DEDUCED, log entry 43] -/
def execQ0Enable (val : Nat) (s : State) : Out := .next (barWrite 0x500010 4 (putBits val 31 31 1) s)

/-- Q0_RESTART: a write of RESTART. [DEDUCED, log entry 43] -/
def execQ0Restart (s : State) : Out := .next (barWrite 0x500014 4 1 s)

/-- FAULT_TAIL_WRITE. -/
def execFaultTailWrite (val : Nat) (s : State) : Out := .next (barWrite 0x600020 8 val s)

/-- EVENT_TAIL_WRITE. -/
def execEventTailWrite (val : Nat) (s : State) : Out := .next (barWrite 0x500030 8 val s)

/-- PENDING_WRITE: the upper half of a stack's CRU_CH_MAP. -/
def execPendingWrite (stack mask : Nat) (s : State) : Out :=
  .next (if stack < 20 then barWrite (0x1000000 + 0x4000 * stack + 0x0C) 4 mask s else s)

/-- UE_THRESH_WRITE: UE_THRESH of a stack, or a channel's UNCORRECTABLE count. -/
def execUeThreshWrite (stack : Nat) (channel : Option Nat) (val : Nat) (s : State) : Out :=
  .next (if 20 ≤ stack then s
    else match channel with
      | none => barWrite (0x1000000 + 0x4000 * stack + 0x10) 4 val s
      | some c => if c < 32 then barWrite (0x1000000 + 0x4000 * stack + 0x104 + 8 * c) 4 val s else s)

/-- SEAM_RETRAIN_REQ. -/
def execSeamRetrainReq (link : Nat) (s : State) : Out := .next (barWrite 0x700020 4 link s)

/-- RBX_MODE_SET: a write of RBX_CFG. -/
def execRbxModeSet (val : Nat) (s : State) : Out := .next (barWrite 0x800000 8 val s)

/-- RBX_RETRAIN. -/
def execRbxRetrain (port : Nat) (s : State) : Out := .next (barWrite 0x800018 4 port s)

/-- OWIN_VALID_SET: a write of RBX_OWINw_BASE with VALID 1. -/
def execOwinValidSet (w val : Nat) (s : State) : Out :=
  .next (if w < 4096 then barWrite (0x810000 + 32 * w) 8 (putBits val 0 0 1) s else s)

/-- OWIN_VALID_CLEAR: VALID written 0, the other fields as they are. -/
def execOwinValidClear (w : Nat) (s : State) : Out :=
  .next (if w < 4096 then barWrite (0x810000 + 32 * w) 8 (putBits (owinVal (tget {} s.rbx.owins w) 0) 0 0 0) s else s)

/-- UNLOCK: a write of 1 to SEC_DBG_CTRL.UNLOCK. -/
def execUnlock (s : State) : Out := .next (barWrite 0xA00050 8 1 s)

/-- FAULT_RING_ENABLE: a write of XT_FAULT_RING_CFG with ENABLE 1. -/
def execFaultRingEnable (val : Nat) (s : State) : Out := .next (barWrite 0x600010 8 (putBits val 31 31 1) s)

/-- MSIX_UNMASK of a vector, or of the function mask for 2,048. -/
def execMsixUnmask (vector : Nat) (s : State) : Out :=
  .next (if ¬ (s.pci.active ∧ s.pci.linkUp) then s
    else if vector = 2048 then unmaskFunction s
    else if vector < 2048 ∧ ¬ s.pci.d3hot then
      tableWrite (4 * vector + 3) (tableDword s (4 * vector + 3) / 2 * 2) s
    else s)

end Sys2Proof.Machine
end

