-- ==== Sys2Proof/Machine/Pins.lean ====
section
/-! DEFINITION. Sideband inputs (R636-R642), PERST_N and the PCIe link (R619, R620, R624, R626), the management sideband
(R648, R649), DOE (R560, R563) and JTAG (R646). -/

namespace Sys2Proof.Machine

/-! ### The brake and the tray stop -/

/-- Raises an event of PD0 once Uhlug is up. [DEDUCED, log entry 33] -/
def raiseUp (ev a0 a1 : Nat) (s : State) : State := if s.pwr.phase = .ready then raise pd0 ev 0 0 a0 a1 0 s else s

/-- PWRBRK_N is taken as asserted: the brake is in force, and stations and engines stop until the planner restarts them (R537). [DEDUCED, log entry 33; DESIGN CHOICE, log entry 34] -/
def brakeOn (watts : Nat) (s : State) : State :=
  if s.pin.pwrbrk then s
  else
    let s1 := { s with pin := { s.pin with pwrbrk := true } }
    if ¬ powered s then s1
    else raiseUp 0x0032 watts 0 { s1 with pwr := { s1.pwr with brake := true, braked := decide (s.pwr.phase = .ready), brakeAt := refOf s pd0 } }

/-- PWRBRK_N is taken as deasserted: a CAP_SET stored meanwhile takes effect, and what the brake stopped restarts (R537, R538). [DESIGN CHOICE, log entry 34] -/
def brakeOff (s : State) : State :=
  if ¬ s.pin.pwrbrk then s
  else
    let s1 := { s with pin := { s.pin with pwrbrk := false } }
    if ¬ powered s then s1
    else raiseUp 0x0033 ((refOf s pd0 - s.pwr.brakeAt) / refUs) 0
      { s1 with pwr := { s1.pwr with brake := false, braked := false, cap := s1.pwr.capStored.getD s1.pwr.cap, capStored := none } }

/-- TRAY_STOP_N is taken as asserted (R641); `chat` says whether by chatter. [DEDUCED, log entry 33] -/
def stopOn (watts : Nat) (chat : Bool) (s : State) : State :=
  if s.pin.trayStop then s
  else
    let s1 := { s with pin := { s.pin with trayStop := true, stopAt := refOf s pd0 } }
    if ¬ powered s then s1 else raiseUp 0x0058 watts (b2n chat) s1

/-- The command watchdog has not counted while TRAY_STOP_N was asserted (R641). -/
def pauseCmds (s : State) : State :=
  { s with cmd := { s.cmd with queues := tmap s.cmd.queues (fun _ u => { u with cmds := u.cmds.map (fun c =>
      { c with paused := c.paused + min (refOf s pd0 - s.pin.stopAt) (refOf s (cplxDie u.cplx) - c.boundAt.getD c.startAt) }) }) } }

/-- TRAY_STOP_N is taken as deasserted: stations, engines and the command watchdog resume (R641). -/
def stopOff (s : State) : State :=
  if ¬ s.pin.trayStop then s
  else
    let s1 := { s with pin := { s.pin with trayStop := false } }
    if ¬ powered s then s1 else raiseUp 0x0059 ((refOf s pd0 - s.pin.stopAt) / refUs) 0 (pauseCmds s1)

/-- SIDEBAND_CHATTER of an input, at most once per second (R651). [DEDUCED, log entry 49] -/
def chatEvent (input episodes : Nat) (s : State) : State :=
  let due : Bool := match tget? s.pin.chatAt input with
    | none => true
    | some t => decide (1000 * refMs ≤ refOf s pd0 - t)
  if due ∧ s.pwr.phase = .ready then
    raise pd0 0x005A 0 0 input episodes 0 { s with pin := { s.pin with chatAt := tput s.pin.chatAt input (refOf s pd0) } }
  else s

/-- A power input (1) or stop input (2) chatters: it is taken as asserted and its bit is set (R639). [DEDUCED, log entry 33; DEDUCED, log entry 49] -/
def chatterS (input episodes watts : Nat) (s : State) : State :=
  if ¬ powered s then s
  else if input = 1 then chatEvent 1 episodes (brakeOn watts { s with pin := { s.pin with pwrbrkChat := true } })
  else if input = 2 then chatEvent 2 episodes (stopOn watts true { s with pin := { s.pin with stopChat := true } })
  else s

def execPwrbrkAssert (watts : Nat) (s : State) : Out := .next (brakeOn watts s)

def execPwrbrkRelease (s : State) : Out := .next (brakeOff s)

def execSidebandChatter (input episodes watts : Nat) (s : State) : Out := .next (chatterS input episodes watts s)

def execTrayStopOn (watts : Nat) (s : State) : Out := .next (stopOn watts false s)

def execTrayStopOff (s : State) : Out := .next (stopOff s)

/-! ### The endpoint, its link and PERST_N -/

/-- Reset of the endpoint's configuration space, its MSI-X structures and the link IDE stream. A change of BAR4's size
invalidates every aperture entry (R368, R626). [PRESUMED, log entry 13] -/
def configReset (s : State) : State :=
  { s with
    pci := { s.pci with functionMask := false, unmasked := [], pba := [], table := [], bar4Log2 := 36, ide := false, d3hot := false },
    xt := if s.pci.bar4Log2 = 36 then s.xt else { s.xt with apertures := [] } }

/-- Rung 4 for a cause of R620: the dirty bytes of the host write caches are discarded. [DEDUCED, log entry 32; DEDUCED, log entry 35] -/
def linkRung (s : State) : State := startRung 4 0 rcLink [] (discardDirty s)

/-- Restart of start-up from step 4 in a boot halt, with the sideband inputs as they stand (R631). [DEDUCED, log entry 37] -/
def haltRestart (b : BootIn) (s : State) : State :=
  bootFrom4 { b with perst := false, pwrbrk := s.pin.pwrbrk, trayStop := s.pin.trayStop } s

/-- PERST_N is taken as asserted (R626). [DEDUCED, log entry 37] -/
def perstOn (s : State) : State :=
  if s.pin.perst then s
  else
    let s1 := { s with pin := { s.pin with perst := true } }
    let s2 := configReset { s1 with pci := { s1.pci with active := false, linkUp := false } }
    match s.pwr.phase with
    | .starting => s2
    | .halted => { s2 with pin := { s2.pin with perstHalt := true } }
    | .ready => linkRung s2
    | _ => s1

/-- PERST_N is taken as deasserted: the endpoint leaves reset and trains its link (R624); a halt that saw the assertion
starts again (R626). [DEDUCED, log entry 37] -/
def perstOff (b : BootIn) (s : State) : State :=
  if ¬ s.pin.perst then s
  else
    let s1 := { s with pin := { s.pin with perst := false, perstHalt := false } }
    let s2 := { s1 with pci := { s1.pci with active := true, linkUp := b.linkTrains } }
    match s.pwr.phase with
    | .starting => s2
    | .ready => s2
    | .halted => if s.pin.perstHalt then haltRestart b s1 else s2
    | _ => s1

def execPerstAssert (s : State) : Out := .next (perstOn s)

def execPerstDeassert (b : BootIn) (s : State) : Out := .next (perstOff b s)

/-- PERST_CHATTER: the level accepted last stays; PERST_CHAT is set (R640). -/
def execPerstChatter (episodes : Nat) (s : State) : Out :=
  .next (if powered s then chatEvent 0 episodes { s with pin := { s.pin with perstChat := true } } else s)

/-- The data link goes down: rung 4; the link retrains at once (R620). -/
def linkDownS (s : State) : State :=
  if ¬ (s.pci.active ∧ s.pci.linkUp) then s
  else if s.pwr.phase = .ready then linkRung s else s

def execLinkDown (s : State) : Out := .next (linkDownS s)

/-- Hot Reset or Link Disable: as PERST_N asserted and, with the link's training, deasserted (R620). -/
def hotResetS (b : BootIn) (s : State) : State :=
  if ¬ (s.pci.active ∧ s.pci.linkUp) then s
  else
    let s1 := configReset { s with pci := { s.pci with linkUp := b.linkTrains } }
    match s.pwr.phase with
    | .starting => s1
    | .halted => haltRestart b s1
    | .ready => linkRung s1
    | _ => s

def execHotReset (b : BootIn) (s : State) : Out := .next (hotResetS b s)

/-- Function Level Reset: configuration space is cleared, and rung 4 runs; in a halt, start-up restarts (R600, R620, R631). -/
def flrS (b : BootIn) (s : State) : State :=
  if ¬ (s.pci.active ∧ s.pci.linkUp) then s
  else
    match s.pwr.phase with
    | .starting => configReset s
    | .halted => haltRestart { b with linkTrains := true } (configReset s)
    | .ready => linkRung (configReset s)
    | _ => s

def execFunctionLevelReset (b : BootIn) (s : State) : Out := .next (flrS b s)

/-- D3HOT_ENTRY: Uhlug stops taking packets, and configuration requests alone are served (R619). -/
def execD3hotEntry (s : State) : Out :=
  .next (if busUp s then { s with pci := { s.pci with d3hot := true } } else s)

/-- D0_RETURN: the function's configuration is reset and rung 4 runs (R619). [DEDUCED, log entry 32] -/
def d0ReturnS (s : State) : State :=
  if ¬ s.pci.d3hot then s
  else
    let s1 := configReset s
    if s.pwr.phase = .ready then startRung 4 0 rcLink [] s1 else s1

def execD0Return (s : State) : Out := .next (d0ReturnS s)

/-! ### DOE, the management sideband and JTAG -/

/-- DOE_SPDM: an SPDM or Secured SPDM object through the mailbox; IDE_KM messages of a session set up and start the link
IDE stream (R560, R563). -/
def doeS (req : List Byte) (s : State) : State :=
  if ¬ (s.pci.active ∧ s.pci.linkUp) then s
  else
    let ide := Config.spdmIde s.sec.spdmLog req
    let s1 := spdmRun req s
    { s1 with pci := { s1.pci with ide := s1.pci.ide || ide } }

def execDoeSpdm (req : List Byte) (s : State) : Out := ifUp (doeS req) s

/-- The sideband answers: powered, and not under R632. [DEDUCED, log entry 50] -/
def sidebandUp (s : State) : Bool := powered s && !(decide (s.pwr.phase = .held) && decide (s.idr.stage = 0))

/-- A numeric sensor (R649): 0 voltage, 1 current, 2 power, 3 energy, 16 + d the temperature of die d. [PRESUMED, log entry 36] -/
def sensor (s : State) (n : Nat) : Nat :=
  if n = 0 then s.pwr.volts
  else if n = 1 then s.pwr.amps
  else if n = 2 then s.pwr.mean1ms
  else if n = 3 then s.pwr.eIn % 2 ^ 64
  else if 16 ≤ n ∧ n - 16 ∈ allDies then tget 0 s.pwr.tj (n - 16)
  else 0

/-- MCTP_MESSAGE: a sensor is read, or a firmware image is written into its flash slot (R559, R649). [PRESUMED, log entry 36] -/
def mctpS (m : Mctp) (s : State) : State :=
  if ¬ sidebandUp s then s
  else
    match m with
    | .sensor n => { s with pin := { s.pin with mctpOut := sensor s n } }
    | .image false bs => { s with sec := { s.sec with imageA := ⟨bs⟩ }, pin := { s.pin with mctpOut := 0 } }
    | .image true bs => { s with sec := { s.sec with imageB := ⟨bs⟩ }, pin := { s.pin with mctpOut := 0 } }

def execMctpMessage (m : Mctp) (s : State) : Out := .next (mctpS m s)

/-- DYNAMIC_ADDRESS: SETDASA or ENTDAA enters I3C mode (R648). -/
def execDynamicAddress (addr : Nat) (s : State) : Out :=
  .next (if sidebandUp s then { s with pin := { s.pin with i3c := true, dynAddr := some (addr % 128) } } else s)

/-- The value that a TAP instruction shifts out: the IDCODE, the pins as sampled (a free value), an SEC_DBG_ register, or the
bypass register's 0 (R580, R646). [PRESUMED, log entry 48] -/
def jtagOut (j : Jtag) (s : State) : State :=
  match j with
  | .idcode => { s with pin := { s.pin with tdo := 0x14B2074F } }
  | .samplePreload =>
    { s with pin := { s.pin with tdo := (Config.freeValue s.clk.free).toNat }, clk := { s.clk with free := s.clk.free + 1 } }
  | .secDbg off none =>
    { s with pin := { s.pin with tdo := if 0x48 ≤ off ∧ off < 0x200 ∧ off % 8 = 0 then secVal s off else 0 } }
  | .secDbg off (some v) =>
    let s1 := { s with pin := { s.pin with tdo := 0 } }
    if 0x48 ≤ off ∧ off < 0x200 ∧ off % 8 = 0 then secWrite off ⟨true, true⟩ (v % 2 ^ 64) s1 else s1
  | _ => { s with pin := { s.pin with tdo := 0 } }

/-- EXTEST holds the PCIe link down, as R620; the link trains again under the next instruction (R646). [PRESUMED, log entry 48] -/
def jtagLink (j : Jtag) (s : State) : State :=
  if j = .extest then
    (if s.pci.active ∧ s.pci.linkUp then
      let s1 := { s with pci := { s.pci with linkUp := false } }
      if s.pwr.phase = .ready then linkRung s1 else s1
     else s)
  else if s.pin.jtag = some .extest then { s with pci := { s.pci with linkUp := s.pci.active } }
  else s

/-- JTAG_INSTRUCTION: the TAP answers while the module is powered. [PRESUMED, log entry 48] -/
def jtagS (j : Jtag) (s : State) : State :=
  if ¬ powered s then s
  else
    let s1 := jtagOut j (jtagLink j s)
    { s1 with pin := { s1.pin with jtag := some j } }

def execJtagInstruction (ir : Jtag) (s : State) : Out := .next (jtagS ir s)

end Sys2Proof.Machine
end

