-- ==== Sys2Proof/Machine/Dispatch.lean ====
section
/-! DEFINITION. What each command does: one arm per constructor, each a direct call of its meaning. -/

namespace Sys2Proof.Machine

/-- A command's effect on everything but the queue of waiting commands. [DESIGN CHOICE, log entry 1] -/
def exec (i : Instr) (s : State) : Host.Outcome State Fault Refusal :=
  match i with
  | .powerOn b => Sys2Proof.Machine.execPowerOn b s
  | .imageFault ready pd1 => Sys2Proof.Machine.execImageFault ready pd1 s
  | .undervoltageStop => Sys2Proof.Machine.execUndervoltageStop s
  | .overvoltageStop => Sys2Proof.Machine.execOvervoltageStop s
  | .powerSample m => Sys2Proof.Machine.execPowerSample m s
  | .poweredHour => Sys2Proof.Machine.execPoweredHour s
  | .thermalSample die tj => Sys2Proof.Machine.execThermalSample die tj s
  | .budgetWindow part baseW portW => Sys2Proof.Machine.execBudgetWindow part baseW portW s
  | .boostStep part west east => Sys2Proof.Machine.execBoostStep part west east s
  | .pwrbrkAssert watts => Sys2Proof.Machine.execPwrbrkAssert watts s
  | .pwrbrkRelease => Sys2Proof.Machine.execPwrbrkRelease s
  | .sidebandChatter input episodes watts => Sys2Proof.Machine.execSidebandChatter input episodes watts s
  | .trayStopOn watts => Sys2Proof.Machine.execTrayStopOn watts s
  | .trayStopOff => Sys2Proof.Machine.execTrayStopOff s
  | .perstAssert => Sys2Proof.Machine.execPerstAssert s
  | .perstDeassert b => Sys2Proof.Machine.execPerstDeassert b s
  | .perstChatter episodes => Sys2Proof.Machine.execPerstChatter episodes s
  | .linkDown => Sys2Proof.Machine.execLinkDown s
  | .hotReset b => Sys2Proof.Machine.execHotReset b s
  | .functionLevelReset b => Sys2Proof.Machine.execFunctionLevelReset b s
  | .d3hotEntry => Sys2Proof.Machine.execD3hotEntry s
  | .d0Return => Sys2Proof.Machine.execD0Return s
  | .doeSpdm req => Sys2Proof.Machine.execDoeSpdm req s
  | .mctpMessage m => Sys2Proof.Machine.execMctpMessage m s
  | .dynamicAddress addr => Sys2Proof.Machine.execDynamicAddress addr s
  | .jtagInstruction ir => Sys2Proof.Machine.execJtagInstruction ir s
  | .registerWrite off size val => Sys2Proof.Machine.execRegisterWrite off size val s
  | .readClear off size => Sys2Proof.Machine.execReadClear off size s
  | .q0Enable val => Sys2Proof.Machine.execQ0Enable val s
  | .q0Restart => Sys2Proof.Machine.execQ0Restart s
  | .faultTailWrite val => Sys2Proof.Machine.execFaultTailWrite val s
  | .eventTailWrite val => Sys2Proof.Machine.execEventTailWrite val s
  | .pendingWrite stack mask => Sys2Proof.Machine.execPendingWrite stack mask s
  | .ueThreshWrite stack channel val => Sys2Proof.Machine.execUeThreshWrite stack channel val s
  | .seamRetrainReq link => Sys2Proof.Machine.execSeamRetrainReq link s
  | .rbxModeSet val => Sys2Proof.Machine.execRbxModeSet val s
  | .rbxRetrain port => Sys2Proof.Machine.execRbxRetrain port s
  | .owinValidSet w val => Sys2Proof.Machine.execOwinValidSet w val s
  | .owinValidClear w => Sys2Proof.Machine.execOwinValidClear w s
  | .unlock => Sys2Proof.Machine.execUnlock s
  | .bar2Write off data => Sys2Proof.Machine.execBar2Write off data s
  | .sealWord off val => Sys2Proof.Machine.execSealWord off val s
  | .takePacket q => Sys2Proof.Machine.execTakePacket q s
  | .commandStart q seq => Sys2Proof.Machine.execCommandStart q seq s
  | .reply q seq => Sys2Proof.Machine.execReply q seq s
  | .eventRecord => Sys2Proof.Machine.execEventRecord s
  | .ctxCreate q seq => Sys2Proof.Machine.execCtxCreate q seq s
  | .ctxDestroy q seq => Sys2Proof.Machine.execCtxDestroy q seq s
  | .ctxFlags q seq => Sys2Proof.Machine.execCtxFlags q seq s
  | .queueCreate q seq => Sys2Proof.Machine.execQueueCreate q seq s
  | .queueDestroy q seq => Sys2Proof.Machine.execQueueDestroy q seq s
  | .queueReset q seq => Sys2Proof.Machine.execQueueReset q seq s
  | .faultResume q seq => Sys2Proof.Machine.execFaultResume q seq s
  | .extCreate q seq h => Sys2Proof.Machine.execExtCreate q seq h s
  | .extDestroy q seq => Sys2Proof.Machine.execExtDestroy q seq s
  | .extShare q seq => Sys2Proof.Machine.execExtShare q seq s
  | .extUnmap q seq => Sys2Proof.Machine.execExtUnmap q seq s
  | .extQuery q seq => Sys2Proof.Machine.execExtQuery q seq s
  | .pin q seq => Sys2Proof.Machine.execPin q seq s
  | .unpin q seq => Sys2Proof.Machine.execUnpin q seq s
  | .apertureSet q seq => Sys2Proof.Machine.execApertureSet q seq s
  | .windowSet q seq => Sys2Proof.Machine.execWindowSet q seq s
  | .counterReset q seq => Sys2Proof.Machine.execCounterReset q seq s
  | .recipeLoad q seq => Sys2Proof.Machine.execRecipeLoad q seq s
  | .recipeCheck q seq => Sys2Proof.Machine.execRecipeCheck q seq s
  | .recipeUnload q seq => Sys2Proof.Machine.execRecipeUnload q seq s
  | .launch q seq => Sys2Proof.Machine.execLaunch q seq s
  | .copy q seq => Sys2Proof.Machine.execCopy q seq s
  | .fillCommand q seq => Sys2Proof.Machine.execFillCommand q seq s
  | .semWaitCommand q seq => Sys2Proof.Machine.execSemWaitCommand q seq s
  | .semWaitTimeout q seq => Sys2Proof.Machine.execSemWaitTimeout q seq s
  | .semReleaseCommand q seq => Sys2Proof.Machine.execSemReleaseCommand q seq s
  | .flush q seq => Sys2Proof.Machine.execFlush q seq s
  | .budgetSet q seq => Sys2Proof.Machine.execBudgetSet q seq s
  | .capSet q seq => Sys2Proof.Machine.execCapSet q seq s
  | .modeSet q seq => Sys2Proof.Machine.execModeSet q seq s
  | .sliceCreate q seq => Sys2Proof.Machine.execSliceCreate q seq s
  | .sliceResize q seq => Sys2Proof.Machine.execSliceResize q seq s
  | .sliceDestroy q seq => Sys2Proof.Machine.execSliceDestroy q seq s
  | .slicePasid q seq => Sys2Proof.Machine.execSlicePasid q seq s
  | .dirtyLog q seq => Sys2Proof.Machine.execDirtyLog q seq s
  | .spdm q seq => Sys2Proof.Machine.execSpdm q seq s
  | .setKey q seq => Sys2Proof.Machine.execSetKey q seq s
  | .bundleImport q seq => Sys2Proof.Machine.execBundleImport q seq s
  | .setDestroy q seq => Sys2Proof.Machine.execSetDestroy q seq s
  | .reset q seq => Sys2Proof.Machine.execReset q seq s
  | .crumbRead q seq => Sys2Proof.Machine.execCrumbRead q seq s
  | .crashBufferSet q seq => Sys2Proof.Machine.execCrashBufferSet q seq s
  | .calRead q seq => Sys2Proof.Machine.execCalRead q seq s
  | .calWrite q seq => Sys2Proof.Machine.execCalWrite q seq s
  | .clockCorr q seq uncert => Sys2Proof.Machine.execClockCorr q seq uncert s
  | .energyRead q seq => Sys2Proof.Machine.execEnergyRead q seq s
  | .serviceTick cplx => Sys2Proof.Machine.execServiceTick cplx s
  | .timeSliceEnd ctx => Sys2Proof.Machine.execTimeSliceEnd ctx s
  | .placement launch grans => Sys2Proof.Machine.execPlacement launch grans s
  | .overrunKill ctx => Sys2Proof.Machine.execOverrunKill ctx s
  | .restPointReached launch inst => Sys2Proof.Machine.execRestPointReached launch inst s
  | .saveDone launch inst => Sys2Proof.Machine.execSaveDone launch inst s
  | .restoreDone launch inst => Sys2Proof.Machine.execRestoreDone launch inst s
  | .instanceComplete launch inst => Sys2Proof.Machine.execInstanceComplete launch inst s
  | .launchComplete launch => Sys2Proof.Machine.execLaunchComplete launch s
  | .flitArrival launch inst stream k => Sys2Proof.Machine.execFlitArrival launch inst stream k s
  | .creditReturn launch inst stream => Sys2Proof.Machine.execCreditReturn launch inst stream s
  | .descriptorComplete stn idx => Sys2Proof.Machine.execDescriptorComplete stn idx s
  | .stationFault f => Sys2Proof.Machine.execStationFault f s
  | .loop stn => Sys2Proof.Machine.execLoop stn s
  | .recv stn => Sys2Proof.Machine.execRecv stn s
  | .send stn => Sys2Proof.Machine.execSend stn s
  | .copyIn stn => Sys2Proof.Machine.execCopyIn stn s
  | .copyOut stn => Sys2Proof.Machine.execCopyOut stn s
  | .explicitCopyDone stn x => Sys2Proof.Machine.execExplicitCopyDone stn x s
  | .semWait stn => Sys2Proof.Machine.execSemWait stn s
  | .semRelease stn => Sys2Proof.Machine.execSemRelease stn s
  | .matmul stn => Sys2Proof.Machine.execMatmul stn s
  | .conv stn => Sys2Proof.Machine.execConv stn s
  | .attnScore stn => Sys2Proof.Machine.execAttnScore stn s
  | .attnPv stn => Sys2Proof.Machine.execAttnPv stn s
  | .attnFinal stn => Sys2Proof.Machine.execAttnFinal stn s
  | .eltwise stn => Sys2Proof.Machine.execEltwise stn s
  | .reduce stn => Sys2Proof.Machine.execReduce stn s
  | .run stn => Sys2Proof.Machine.execRun stn s
  | .iadd u w => Sys2Proof.Machine.execIadd u w s
  | .isub u w => Sys2Proof.Machine.execIsub u w s
  | .imul u w => Sys2Proof.Machine.execImul u w s
  | .imuladd u w => Sys2Proof.Machine.execImuladd u w s
  | .imin u w => Sys2Proof.Machine.execImin u w s
  | .imax u w => Sys2Proof.Machine.execImax u w s
  | .and u w => Sys2Proof.Machine.execAnd u w s
  | .or u w => Sys2Proof.Machine.execOr u w s
  | .xor u w => Sys2Proof.Machine.execXor u w s
  | .not u w => Sys2Proof.Machine.execNot u w s
  | .shl u w => Sys2Proof.Machine.execShl u w s
  | .shr u w => Sys2Proof.Machine.execShr u w s
  | .shra u w => Sys2Proof.Machine.execShra u w s
  | .bitcnt u w => Sys2Proof.Machine.execBitcnt u w s
  | .leadz u w => Sys2Proof.Machine.execLeadz u w s
  | .icmp u w => Sys2Proof.Machine.execIcmp u w s
  | .fadd u w => Sys2Proof.Machine.execFadd u w s
  | .fmul u w => Sys2Proof.Machine.execFmul u w s
  | .fmuladd u w => Sys2Proof.Machine.execFmuladd u w s
  | .fmin u w => Sys2Proof.Machine.execFmin u w s
  | .fmax u w => Sys2Proof.Machine.execFmax u w s
  | .fcmp u w => Sys2Proof.Machine.execFcmp u w s
  | .rcp u w => Sys2Proof.Machine.execRcp u w s
  | .rsqrt u w => Sys2Proof.Machine.execRsqrt u w s
  | .sqrt u w => Sys2Proof.Machine.execSqrt u w s
  | .exp2 u w => Sys2Proof.Machine.execExp2 u w s
  | .log2 u w => Sys2Proof.Machine.execLog2 u w s
  | .sin u w => Sys2Proof.Machine.execSin u w s
  | .cos u w => Sys2Proof.Machine.execCos u w s
  | .tanh u w => Sys2Proof.Machine.execTanh u w s
  | .ftoi u w => Sys2Proof.Machine.execFtoi u w s
  | .itof u w => Sys2Proof.Machine.execItof u w s
  | .fcvt u w => Sys2Proof.Machine.execFcvt u w s
  | .pack2 u w => Sys2Proof.Machine.execPack2 u w s
  | .unpack2 u w => Sys2Proof.Machine.execUnpack2 u w s
  | .mov u w => Sys2Proof.Machine.execMov u w s
  | .movi u w => Sys2Proof.Machine.execMovi u w s
  | .sel u w => Sys2Proof.Machine.execSel u w s
  | .threadno u w => Sys2Proof.Machine.execThreadno u w s
  | .groupno u w => Sys2Proof.Machine.execGroupno u w s
  | .stationno u w => Sys2Proof.Machine.execStationno u w s
  | .laneget u w => Sys2Proof.Machine.execLaneget u w s
  | .lanepoll u w => Sys2Proof.Machine.execLanepoll u w s
  | .psave u w => Sys2Proof.Machine.execPsave u w s
  | .pload u w => Sys2Proof.Machine.execPload u w s
  | .ld u w => Sys2Proof.Machine.execLd u w s
  | .st u w => Sys2Proof.Machine.execSt u w s
  | .gmac u w => Sys2Proof.Machine.execGmac u w s
  | .gmload u w => Sys2Proof.Machine.execGmload u w s
  | .gmstore u w => Sys2Proof.Machine.execGmstore u w s
  | .jump u w => Sys2Proof.Machine.execJump u w s
  | .split u w => Sys2Proof.Machine.execSplit u w s
  | .join u w => Sys2Proof.Machine.execJoin u w s
  | .loopin u w => Sys2Proof.Machine.execLoopin u w s
  | .leave u w => Sys2Proof.Machine.execLeave u w s
  | .issue u w => Sys2Proof.Machine.execIssue u w s
  | .gatherDone stn x => Sys2Proof.Machine.execGatherDone stn x s
  | .msemr u w => Sys2Proof.Machine.execMsemr u w s
  | .msemw u w => Sys2Proof.Machine.execMsemw u w s
  | .precv u w => Sys2Proof.Machine.execPrecv u w s
  | .psend u w => Sys2Proof.Machine.execPsend u w s
  | .wait u w => Sys2Proof.Machine.execWait u w s
  | .meet u w => Sys2Proof.Machine.execMeet u w s
  | .sema u w => Sys2Proof.Machine.execSema u w s
  | .swait u w => Sys2Proof.Machine.execSwait u w s
  | .lock u w => Sys2Proof.Machine.execLock u w s
  | .trylock u w => Sys2Proof.Machine.execTrylock u w s
  | .nop u w => Sys2Proof.Machine.execNop u w s
  | .rest u w => Sys2Proof.Machine.execRest u w s
  | .finish u w => Sys2Proof.Machine.execFinish u w s
  | .trace stn => Sys2Proof.Machine.execTrace stn s
  | .rayBatchTake stn => Sys2Proof.Machine.execRayBatchTake stn s
  | .resultBatchFlush stn => Sys2Proof.Machine.execResultBatchFlush stn s
  | .gatherHash stn => Sys2Proof.Machine.execGatherHash stn s
  | .gatherEmbed stn => Sys2Proof.Machine.execGatherEmbed stn s
  | .missFill stn reg => Sys2Proof.Machine.execMissFill stn reg s
  | .fetch stn => Sys2Proof.Machine.execFetch stn s
  | .store stn => Sys2Proof.Machine.execStore stn s
  | .handOver stn => Sys2Proof.Machine.execHandOver stn s
  | .tokenRowArrival plan expert k => Sys2Proof.Machine.execTokenRowArrival plan expert k s
  | .blockDelivery plan expert => Sys2Proof.Machine.execBlockDelivery plan expert s
  | .resultHandOver plan expert => Sys2Proof.Machine.execResultHandOver plan expert s
  | .piperRemoteLost plan expert block => Sys2Proof.Machine.execPiperRemoteLost plan expert block s
  | .gets r => Sys2Proof.Machine.execGets r s
  | .getu r => Sys2Proof.Machine.execGetu r s
  | .getr r => Sys2Proof.Machine.execGetr r s
  | .getc r => Sys2Proof.Machine.execGetc r s
  | .write r mask data => Sys2Proof.Machine.execWrite r mask data s
  | .red r o => Sys2Proof.Machine.execRed r o s
  | .homeSemWait r off val => Sys2Proof.Machine.execHomeSemWait r off val s
  | .inv stack line part => Sys2Proof.Machine.execInv stack line part s
  | .invDrop stn stack line => Sys2Proof.Machine.execInvDrop stn stack line s
  | .partAck stack line part => Sys2Proof.Machine.execPartAck stack line part s
  | .stackDataArrival stack line e => Sys2Proof.Machine.execStackDataArrival stack line e s
  | .replicaRepair handle line => Sys2Proof.Machine.execReplicaRepair handle line s
  | .fill k => Sys2Proof.Machine.execFill k s
  | .wrAck k => Sys2Proof.Machine.execWrAck k s
  | .redAck k => Sys2Proof.Machine.execRedAck k s
  | .semOk k => Sys2Proof.Machine.execSemOk k s
  | .semRetry k => Sys2Proof.Machine.execSemRetry k s
  | .retry k => Sys2Proof.Machine.execRetry k s
  | .reductionApply stack line => Sys2Proof.Machine.execReductionApply stack line s
  | .holdEnd stack line => Sys2Proof.Machine.execHoldEnd stack line s
  | .orderTimeout stack line => Sys2Proof.Machine.execOrderTimeout stack line s
  | .writeBatchDrain stack channel => Sys2Proof.Machine.execWriteBatchDrain stack channel s
  | .scrubRead stack line e => Sys2Proof.Machine.execScrubRead stack line e s
  | .thrashWindow stack slice => Sys2Proof.Machine.execThrashWindow stack slice s
  | .extentWalk stn ctx addr access agent index len => Sys2Proof.Machine.execExtentWalk stn ctx addr access agent index len s
  | .staleExtent stn ctx addr => Sys2Proof.Machine.execStaleExtent stn ctx addr s
  | .allStalled ctx => Sys2Proof.Machine.execAllStalled ctx s
  | .faultBatchDelivery ctx => Sys2Proof.Machine.execFaultBatchDelivery ctx s
  | .bar4Read off len => Sys2Proof.Machine.execBar4Read off len s
  | .bar4Write off data => Sys2Proof.Machine.execBar4Write off data s
  | .hostWcWriteback die keys => Sys2Proof.Machine.execHostWcWriteback die keys s
  | .rbxFlit port f => Sys2Proof.Machine.execRbxFlit port f s
  | .rbxNak port ackSeq => Sys2Proof.Machine.execRbxNak port ackSeq s
  | .idleTimeout port => Sys2Proof.Machine.execIdleTimeout port s
  | .rbxLossOfLock port lane => Sys2Proof.Machine.execRbxLossOfLock port lane s
  | .rbxPortUp port lanesOk peer us => Sys2Proof.Machine.execRbxPortUp port lanesOk peer us s
  | .rbxWrite p => Sys2Proof.Machine.execRbxWrite p s
  | .rbxRead p => Sys2Proof.Machine.execRbxRead p s
  | .rbxRed p => Sys2Proof.Machine.execRbxRed p s
  | .rbxSemAdd p => Sys2Proof.Machine.execRbxSemAdd p s
  | .rbxBarrier p => Sys2Proof.Machine.execRbxBarrier p s
  | .rbxAck p => Sys2Proof.Machine.execRbxAck p s
  | .rbxReadData p => Sys2Proof.Machine.execRbxReadData p s
  | .requestExpiry tag => Sys2Proof.Machine.execRequestExpiry tag s
  | .seamLaneLoss link bundle lane => Sys2Proof.Machine.execSeamLaneLoss link bundle lane s
  | .loadWindow link w => Sys2Proof.Machine.execLoadWindow link w s
  | .retrainingWindow link t => Sys2Proof.Machine.execRetrainingWindow link t s
  | .dieClockLoss die => Sys2Proof.Machine.execDieClockLoss die s
  | .partitionFenced part => Sys2Proof.Machine.execPartitionFenced part s
  | .crustClockReturn die => Sys2Proof.Machine.execCrustClockReturn die s
  | .partitionRestored part => Sys2Proof.Machine.execPartitionRestored part s
  | .homeUnavailableResend k => Sys2Proof.Machine.execHomeUnavailableResend k s
  | .wdRest stn => Sys2Proof.Machine.execWdRest stn s
  | .wdCommand q => Sys2Proof.Machine.execWdCommand q s
  | .wdHome stack line => Sys2Proof.Machine.execWdHome stack line s
  | .controlComplexWatchdog cplx => Sys2Proof.Machine.execControlComplexWatchdog cplx s
  | .powerSequencerWatchdog => Sys2Proof.Machine.execPowerSequencerWatchdog s
  | .stationUe stn cacheLine => Sys2Proof.Machine.execStationUe stn cacheLine s
  | .fatalError die source => Sys2Proof.Machine.execFatalError die source s
  | .rung1 ctx => Sys2Proof.Machine.execRung1 ctx s
  | .rung2 stn => Sys2Proof.Machine.execRung2 stn s
  | .rung3 part t => Sys2Proof.Machine.execRung3 part t s
  | .rung4 b => Sys2Proof.Machine.execRung4 b s
  | .rung5 => Sys2Proof.Machine.execRung5 s
  | .rungEscalated rung target hung => Sys2Proof.Machine.execRungEscalated rung target hung s
  | .shaderUnlock u w => Sys2Proof.Machine.execShaderUnlock u w s
  | .msixUnmask vector => Sys2Proof.Machine.execMsixUnmask vector s
  | .bar4Resize log2 => Sys2Proof.Machine.execBar4Resize log2 s
  | .faultRingEnable val => Sys2Proof.Machine.execFaultRingEnable val s
  | .seamRetry link bundle => Sys2Proof.Machine.execSeamRetry link bundle s
  | .freedGranuleZeroed stack granule => Sys2Proof.Machine.execFreedGranuleZeroed stack granule s

end Sys2Proof.Machine
end

