-- ==== Sys2Proof/Machine/Tick.lean ====
section
/-! DEFINITION. One tick of the 25 MHz reference clock (R36, R38): what time alone does to the device. -/

namespace Sys2Proof.Machine

/-- ARITH cycles of a station in one REF count, in units of 1/25 cycle: its frequency in MHz; in credit mode a
station of a spanning instance counts cycles of the slower half (R73, R477). [DESIGN CHOICE, log entry 2; DEDUCED, log entry 52] -/
def tickCycles (s : State) (n : Nat) (x : Stn) : Nat :=
  let h := 2 * stnPart n
  if stnPart n ∈ s.seam.credit ∧ (x.launch, x.inst) ∈ spanners s (stnPart n) then
    min (pointMhz (halfClk s h).point) (pointMhz (halfClk s (h + 1)).point)
  else stnMhz s n

/-- Rest-point counting goes on at a station: its launch has been admitted and its instance runs, no fault batch of its context is open, its
context resends no request, the brake and TRAY_STOP_N are released, and no retraining holds its requests (R74, R481,
R537, R594, R642). -/
def counts (s : State) (n : Nat) (x : Stn) : Bool :=
  !x.stopped && !s.pwr.brake && !s.pin.trayStop && !batchOpen s x.ctx &&
  !s.home.resend.any (fun h => decide ((reqOf h).ctx = x.ctx)) &&
  (match s.seam.holding with
   | some l => !holdsFor l (stnPart n)
   | none => true) &&
  (match tget? s.sch.launches x.launch, instOf s x.launch x.inst with
   | some l, some i => decide (l.ph ≠ .waiting ∧ l.ph ≠ .placed ∧ i.ph = .running)
   | _, _ => false)

/-- The stall counters of stations and streams that run (R85), and how long each station has only waited (R374). A stream counts the cycles of its source's half. -/
def stallTick (s : State) : State :=
  { s with sch := { s.sch with
    stns := tmap s.sch.stns (fun n x => { x with
      stalls := if stnLive s x then bumpAll (tickCycles s n x) (stnStalls s x) x.stalls else x.stalls,
      waited := if stnWaits s n x then x.waited + tickCycles s n x else 0 }),
    launches := tmap s.sch.launches (fun k l => { l with insts := l.insts.zipIdx.map (fun e =>
      if (l.ph = .running ∨ l.ph = .leaving) ∧ e.1.ph = .running then
        { e.1 with stalls := (streamsOf s k).zipIdx.foldl (fun t q =>
          match stnAtCell s k e.2 q.1.srcCell with
          | some n => bumpAll (stnMhz s n) ((streamStalls s k e.2 q.2 q.1).map (fun r => 8 * q.2 + r)) t
          | none => t) e.1.stalls }
      else e.1) }) } }

/-- Requests answered SEM_RETRY or RETRY whose time has come are sent again, those of stopped stations once they issue again
(R315, R321, R537, R641). -/
def sendDue (s : State) : State :=
  let due := (laterDue s).filter (fun e => !(issueHeld s && (agentPart (reqOf e.1).who).isSome))
  due.foldl (fun s e => sendReq e.1 s) { s with home := { s.home with later := s.home.later.filter (fun e => !decide (e ∈ due)) } }

/-- Every station goes on as far as it can. -/
def pumpAll (s : State) : State := (tkeys s.sch.stns).foldl (fun s n => pump n s) s

/-- One count of every reference counter that has its clock; the stretch and stall counts of running stations; what waits for
time or for an event that no command of its own brings goes on. [DESIGN CHOICE, log entry 2] -/
def refTick (s : State) : State :=
  match s.pwr.phase with
  | .off => s
  | .offOver => s
  | .offTrip => s
  | _ =>
    pumpAll (preloadTick (sendDue (advanceRef 1 (stallTick { s with sch := { s.sch with
      stns := tmap s.sch.stns (fun n x => if counts s n x then { x with stretch := x.stretch + tickCycles s n x } else x) } }))))

end Sys2Proof.Machine
end

