-- ==== Sys2Proof/Machine/Step.lean ====
section
/-! DEFINITION. One step: the command at the front of the queue, or one tick of the reference clock where no
command waits. -/

namespace Sys2Proof.Machine

/-- Takes the command at the front of the queue and runs it on the rest; with an empty queue the device's
reference clock ticks once. [DESIGN CHOICE, log entry 1; DESIGN CHOICE, log entry 2] -/
def step (s : State) : Host.Outcome State Fault Refusal :=
  match s.pending with
  | [] => .next (refTick s)
  | c :: r => exec c { s with pending := r }

/-- `s` with the command that a word spells at the front of its queue; `s` where the word spells none. [DESIGN CHOICE, log entry 3] -/
def State.withFetchWord (s : State) (nbits w : Nat) : State :=
  match Sys2Proof.decodeTableWord nbits w with
  | some c => { s with pending := c :: s.pending }
  | none => s

end Sys2Proof.Machine
end

