-- ==== Sys2Proof/Safety.lean ====
section
/-! DEFINITION. The terms of the statements: what counts as a safe run, when the device takes up commands, and the limits
that registers and stored values keep. -/

namespace Sys2Proof.Machine

/-- An outcome that goes on. -/
def goesOn : Host.Outcome State Fault Refusal → Bool
  | .next _ => true
  | .fault _ => false
  | .refused _ => false

/-- A list of keys rises strictly. -/
def rising : List Nat → Bool
  | [] => true
  | [_] => true
  | a :: b :: r => decide (a < b) && rising (b :: r)

/-- The canonical form of device memory: addresses strictly rising, no byte listed that reads as an unlisted one, poison
marks strictly rising. -/
def Memory.wf (m : DevMem) : Bool := twf 0 m.cells && rising m.poison

/-- The canonical form of host memory and of the host write caches. -/
def HostMem.wf (h : HostMem) : Bool := twf 0 h.mem && tsorted h.dirty

/-- The queue of waiting commands and every stored value for which the spec gives a range that is narrower than its field. -/
structure Limits where
  queue : List Instr
  cap : Nat
  capStored : Option Nat
  modeSel : Nat
  q0log2 : Nat
  evLog2 : Nat
  ringLog2 : Nat
  highPct : Nat
  rbxMode : Nat
  ackUs : Nat
  idleUs : Nat
  graceDiv : Nat
  cmdMs : Nat
  homeUs : Nat
  bar4Log2 : Nat
deriving DecidableEq, Repr

/-- The limited values of a state. -/
def limits (s : State) : Limits :=
  { queue := s.pending, cap := s.pwr.cap, capStored := s.pwr.capStored, modeSel := s.pwr.modeSel, q0log2 := s.cmd.q0log2,
    evLog2 := s.cmd.evLog2, ringLog2 := s.xt.ringLog2, highPct := s.seam.highPct, rbxMode := s.rbx.mode, ackUs := s.rbx.ackUs,
    idleUs := s.rbx.idleUs, graceDiv := s.err.graceDiv, cmdMs := s.err.cmdMs, homeUs := s.err.homeUs,
    bar4Log2 := s.pci.bar4Log2 }

/-- Each limited value lies in the range that the spec gives it (R368, R380, R408, R486, R519, R524, R554, R613). -/
def Limits.ok (l : Limits) : Prop :=
  (1500 ≤ l.cap ∧ l.cap ≤ 4400) ∧ (∀ w, l.capStored = some w → 1500 ≤ w ∧ w ≤ 4400) ∧ l.modeSel ≤ 1 ∧
  (8 ≤ l.q0log2 ∧ l.q0log2 ≤ 16) ∧ (12 ≤ l.evLog2 ∧ l.evLog2 ≤ 20) ∧ (12 ≤ l.ringLog2 ∧ l.ringLog2 ≤ 20) ∧
  (1 ≤ l.highPct ∧ l.highPct ≤ 100) ∧ l.rbxMode ≤ 2 ∧ (10 ≤ l.ackUs ∧ l.ackUs ≤ 1000000) ∧ l.idleUs ≤ 65535 ∧
  (1 ≤ l.graceDiv ∧ l.graceDiv ≤ 15) ∧ (1 ≤ l.cmdMs ∧ l.cmdMs ≤ 65535) ∧ (100 ≤ l.homeUs ∧ l.homeUs ≤ 65535) ∧
  (30 ≤ l.bar4Log2 ∧ l.bar4Log2 ≤ 36)

/-- The invariant that every step keeps. -/
def State.inLimits (s : State) : Prop := (limits s).ok

/-! ### Where a command acts -/

/-- Command `seq` of queue `q`, of opcode `op`, has started and waits for its meaning (R391). -/
abbrev Started (s : State) (q seq op : Nat) (u : Queue) (c : TakenCmd) : Prop :=
  s.pwr.phase = .ready ∧ tget? s.cmd.queues q = some u ∧ u.cmds.find? (fun c => decide (c.seq = seq)) = some c ∧
  c.op = op ∧ c.phase = .started ∧ u.num = q

/-- Group `u` runs the instruction of class `cls` and operation `op` with fields `w` next: its station is live with record
`x`, a RUN is in progress, the group's record is `y`, it has not ended and is not held at a rest point (R188, R200). -/
abbrev AtIns (s : State) (u : Grp) (cls op : Nat) (w : ShIns) (x : Stn) (y : GroupSt) : Prop :=
  s.pwr.phase = .ready ∧ issueHeld s = false ∧ liveOf s u.stn = some x ∧ tget? x.groups u.g = some y ∧
  x.runIdx.isSome = true ∧ y.ended = false ∧ y.waiting.map (·.1) ≠ some 9 ∧ codeAt x y = some (shWord cls op w)

/-- The group goes on to the next instruction and keeps its mask, mask stack and counters. -/
def StepsOn (y z : GroupSt) : Prop :=
  z.pc = y.pc + 8 ∧ z.waiting = none ∧ z.mask = y.mask ∧ z.stack = y.stack ∧ z.counters = y.counters ∧ z.ended = y.ended

/-- The effect of an instruction that writes register DST in every active lane whose guard is true, a value of `P`, and no
other register or predicate (R201). -/
def LaneEff (w : ShIns) (y z : GroupSt) (P : Nat → Word → Prop) : Prop :=
  StepsOn y z ∧ z.preds = y.preds ∧
  (∀ t ∈ actLanes y w, P t (greg z (insDst w) t)) ∧
  (∀ r t, t < 32 → ¬ (r = insDst w ∧ t ∈ actLanes y w) → greg z r t = greg y r t)

/-- The effect of an instruction that writes predicate DST[2:0] in every active lane whose guard is true, a value of `P`, and
no other register or predicate. -/
def PredEff (w : ShIns) (y z : GroupSt) (P : Nat → Bool → Prop) : Prop :=
  StepsOn y z ∧ z.regs = y.regs ∧
  (∀ t ∈ actLanes y w, insDst w % 8 ≠ 7 → P t (bitOf (predMask z (insDst w % 8)) t)) ∧
  (∀ p t, p < 8 → t < 32 → ¬ (p ≠ 7 ∧ p = insDst w % 8 ∧ t ∈ actLanes y w) → bitOf (predMask z p) t = bitOf (predMask y p) t)

/-- The next descriptor `d` of station `n`, with record `x`, has OP `op`, may start, and is in order (R71, R96). -/
abbrev DescReady (s : State) (n op : Nat) (x : Stn) (d : List Byte) : Prop :=
  s.pwr.phase = .ready ∧ issueHeld s = false ∧ liveOf s n = some x ∧ x.descs[x.next]? = some d ∧ dOp d = op ∧
  mayStart x x.next = true ∧ handHeld s n x x.next = false ∧ descFault s x x.next = 0

/-- Wherever a group runs the instruction, in one of the forms and with the registers of `regs` below NREG, it completes
with the effect `Eff`, and raises in the station's sticky flags exactly `fl`; nothing else of the state changes. -/
def Completes (cls op : Nat) (i : Grp → ShIns → Instr) (forms : List (BitVec 2)) (regs : ShIns → List Nat)
    (fl : Bool → ShIns → GroupSt → Nat) (Eff : Bool → Grp → ShIns → GroupSt → GroupSt → Prop) : Prop :=
  ∀ s u w x y, AtIns s u cls op w x y → w.form ∈ forms → (∀ r ∈ regs w, r < nregOf x) →
    ∃ z, exec (i u w) s = .next (putGrp u z (addFlags u.stn (fl (stnFlush s x) w y) s)) ∧ Eff (stnFlush s x) u w y z

/-- The effect of an instruction that writes registers DST up to DST + n - 1 in every active lane whose guard is true, register
DST + k a value of `P` at `k`, and no other register or predicate. -/
def LanesEff (w : ShIns) (n : Nat) (y z : GroupSt) (P : Nat → Nat → Word → Prop) : Prop :=
  StepsOn y z ∧ z.preds = y.preds ∧
  (∀ t ∈ actLanes y w, ∀ k < n, P k t (greg z (insDst w + k) t)) ∧
  (∀ r t, t < 32 → ¬ (insDst w ≤ r ∧ r < insDst w + n ∧ t ∈ actLanes y w) → greg z r t = greg y r t)

/-- The group has stored the bytes of `l` (address, byte) in the local store and goes on: each address that one value is
stored to holds it, each address stored to with several values holds an open one, and every other byte of the local store,
and the rest of the state but the model's own count of open choices, is as before. -/
def LocalStored (s : State) (u : Grp) (x : Stn) (y : GroupSt) (l : List (Nat × Byte)) (t : State) : Prop :=
  ∃ ls, t = putGrp u (nextPc y) (setStn u.stn (fun x => { x with ls := ls }) { s with clk := { s.clk with free := s.clk.free + 1 } }) ∧
    (∀ a, (∀ e ∈ l, e.1 ≠ a) → tget 0 ls a = tget 0 x.ls a) ∧
    ∀ e ∈ l, (∀ e' ∈ l, e'.1 = e.1 → e'.2 = e.2) → tget 0 ls e.1 = e.2

/-- Uhlug is up and the host bus reaches BAR0 (R12, R625). -/
abbrev BarUp (s : State) : Prop := s.pwr.phase = .ready ∧ busUp s = true

/-- From `s` to `t` one event record of these fields is raised, and no other (R401). -/
def Raised (s t : State) (die ev ctx slice a0 a1 a2 : Nat) : Prop :=
  t.cmd.evq = s.cmd.evq ++ [⟨eventBytes die ev (refOf s die) ctx slice a0 a1 a2, none⟩]

/-- Port `p` is in state `st` with nothing sent, nothing to replay, full credits, empty buffers and sequence numbers from 0 (R515). -/
def PortCleared (s : State) (p st : Nat) : Prop :=
  (portOf s p).st = st ∧ (portOf s p).replay = [] ∧ (portOf s p).cur = [] ∧ (portOf s p).credits = [512, 512, 32] ∧ (portOf s p).rxUsed = [0, 0, 0] ∧
    (portOf s p).txSeq = 0 ∧ (portOf s p).rxSeq = 0 ∧ (portOf s p).acked = 0xFFF ∧ (portOf s p).nakSent = false

/-- `r` is what ACK_SEQ `ack` leaves of a replay buffer: what stands after the first flit of that number, or all of it (R494). -/
def LeftAfter (l : List (Nat × Nat × Nat)) (ack : Nat) (r : List (Nat × Nat × Nat)) : Prop :=
  (l = r ∧ ∀ e ∈ l, e.1 ≠ ack) ∨ ∃ k e, l = k ++ e :: r ∧ e.1 = ack ∧ ∀ x ∈ k, x.1 ≠ ack

/-- Rung `r` on target `g` is requested with a cause, and is the one rung that is; rungs 4 and 5 stop Uhlug taking packets
and assert FAULT_N, rung 5 TRAY_CYCLE_N too (R596, R601, R613, R643). -/
def RungSet (s t : State) (r g cause : Nat) (cmds : List (Nat × Nat)) : Prop :=
  t.err.rungs = [⟨r, g, cause, cmds, refOf s (rungDie s r g), rungDie s r g⟩] ∧ t.err.rung = r ∧ t.err.cause = cause ∧ t.err.target = g ∧
  (2 ≤ r → t.err.active = true) ∧ (4 ≤ r → t.cmd.ready = false ∧ t.pin.fault = true) ∧ (r = 5 → t.pin.trayCycle = true)

/-- No chatter event of sideband input `i` has been raised in the last second (R651). -/
def chatDue (s : State) (i : Nat) : Prop := ∀ c, tget? s.pin.chatAt i = some c → 25000000 ≤ refOf s pd0 - c

/-- The loss of the PCIe link begins rung 4 with the link's cause: the dirty bytes of the host write caches are discarded and
counted by 64-byte fragments, and host and device memory stay as they are (R620). -/
def LinkLost (s t : State) : Prop :=
  RungSet s t 4 0 rcLink [] ∧ t.host.dirty = [] ∧ t.host.mem = s.host.mem ∧
  t.idr.hostwcLost = min 65535 (s.idr.hostwcLost + ((s.host.dirty.map (fun e => e.1 / 64)).eraseDups).length) ∧ t.mem = s.mem

/-- The function's configuration, its MSI-X structures and the link's IDE stream are as after reset (R618, R626, R368). -/
def CfgReset (t : State) : Prop :=
  t.pci.functionMask = false ∧ t.pci.unmasked = [] ∧ t.pci.pba = [] ∧ t.pci.table = [] ∧ t.pci.bar4Log2 = 36 ∧ t.pci.ide = false ∧
  t.pci.d3hot = false

/-- Command `seq` of queue `q` has completed with a status and DETAIL; REPLY writes its reply. -/
def Replies (t : State) (q seq st d : Nat) : Prop :=
  ∃ v c, tget? t.cmd.queues q = some v ∧ v.cmds.find? (fun c => decide (c.seq = seq)) = some c ∧ c.phase = .done st d

/-- What a loss of power leaves in phase `ph`: every die's state is that of reset, and host memory, the powered hours, the
calibration writes, flash and the SVN floor stay; bytes still in the host write caches are lost (R522, R544, R558). -/
def PowerLost (s t : State) (ph : Phase) : Prop :=
  t.pwr.phase = ph ∧ t.pin.thermtrip = decide (ph = .offTrip) ∧ t.mem = {} ∧ t.home = {} ∧ t.ten = {} ∧ t.xt = {} ∧ t.sch = {} ∧
  t.pip = {} ∧ t.rbx = {} ∧ t.seam = {} ∧ t.cmd = {} ∧ t.err = {} ∧ t.pci = {} ∧ t.sec.sets = [] ∧ t.sec.keys = [] ∧
  t.sec.unlocked = false ∧ t.host.mem = s.host.mem ∧ t.host.dirty = [] ∧ t.pwr.hours = s.pwr.hours ∧ t.pwr.writes = s.pwr.writes ∧
  t.sec.imageA = s.sec.imageA ∧ t.sec.imageB = s.sec.imageB ∧ t.sec.svnFloor = s.sec.svnFloor

/-- The module has reached READY with the image of `slot` (R559, R622). -/
def Ready (s t : State) (slot : Bool) : Prop :=
  t.pwr.phase = .ready ∧ t.idr.stage = 11 ∧ t.cmd.ready = true ∧ t.pin.fault = false ∧ t.sec.slot = slot ∧
  t.sec.svn = imgSvn (slotImage s slot) ∧ t.sec.svnFloor = max s.sec.svnFloor (imgFloor (slotImage s slot)) ∧ t.sec.tried = [] ∧
  ∃ u, tget? t.cmd.queues 0 = some u ∧ u.state = .running

/-- The boot has halted with a status and die (R630, R631). -/
def Halted (t : State) (status die : Nat) : Prop :=
  t.pwr.phase = .halted ∧ t.idr.stage = 15 ∧ t.idr.status = status ∧ t.idr.die = die ∧ t.pin.fault = true ∧ t.cmd.ready = false

/-- The state with slice `k`'s record `x`, and nothing else changed. -/
def putSlice (k : Nat) (x : Slice) (s : State) : State := { s with ten := { s.ten with slices := tput s.ten.slices k x } }

/-- The commands that run a station's next descriptor, each with its OP (R111, R198, R236, R243, R245, R271). -/
def descCmds (n : Nat) : List (Nat × Instr) :=
  [(1, .loop n), (2, .recv n), (3, .send n), (4, .copyIn n), (5, .copyOut n), (6, .semWait n), (7, .semRelease n), (0x10, .matmul n),
   (0x11, .conv n), (0x12, .attnScore n), (0x13, .attnPv n), (0x14, .attnFinal n), (0x20, .eltwise n), (0x21, .reduce n), (0x30, .run n),
   (0x40, .trace n), (0x41, .gatherHash n), (0x42, .gatherEmbed n), (0x50, .fetch n), (0x51, .store n)]

/-- Descriptor `i` of station `n` has started and stands at `st`: it is in progress and the station goes on after it. -/
def Begun (t : State) (n i : Nat) (x y : Stn) (st : WorkSt) : Prop :=
  stnOf t n = some y ∧ y.next = i + 1 ∧ y.started = x.started + 1 ∧ y.descs = x.descs ∧
  ∃ w, tget? y.works i = some w ∧ w.st = st ∧ w.ord = x.started ∧ w.passes = passesOf x i

/-- Nothing at a line, or in its set of the Crust cache, could go on by itself: no fill of the set waits for a way or has its
data, no stored member of an ordered sequence is due, and the line owes no recall. -/
def settled (s : State) (k line : Nat) : Bool :=
  (waitersOf s k line).isEmpty && (waysOf s k line).all (fun w => decide (w = 0) || !fillReady s (lkey k (w - 1))) &&
  (hline s (lkey k line)).recallFor.isEmpty &&
  (match orderedOf s (lkey k line) with
   | some q => !q.stored.any (fun e => decide (e.2.seq = q.next))
   | none => true)

/-- The home refuses nothing of a request, and its line holds none before it, is not withdrawn and is at rest (R283, R292, R303). -/
abbrev HomeHears (s : State) (r : Req) : Prop :=
  homeRefuses s r = none ∧ (hline s (lkey r.stack r.line)).held = [] ∧ withdrawn s r.stack r.line = false ∧ r.line < 2 ^ 29 ∧
  settled s r.stack r.line = true

/-- The home takes a request at once: its line is not busy either. -/
abbrev HomeTakes (s : State) (r : Req) : Prop := HomeHears s r ∧ lineBusy (hline s (lkey r.stack r.line)) = false

/-- The line waits for its data from the stack, with a request that goes on when it comes. -/
def Fills (s t : State) (r : Req) (h : HReq) : Prop :=
  t.mem = s.mem ∧ t.home.net = s.home.net ∧ (hline t (lkey r.stack r.line)).st = .fp ∧ (hline t (lkey r.stack r.line)).held = [h]

/-- Piece `k` of transfer `xid` of station `n` stands at `st`. -/
def PieceAt (s : State) (n xid k st : Nat) : Prop := ∃ y f p, stnOf s n = some y ∧ pieceOf y xid k = some (f, p) ∧ p.st = st

/-- Piece `k` of transfer `f` of station `n`, live with record `x`, may be issued now (R207, R275, R330). -/
abbrev MayIssue (s : State) (n xid k : Nat) (x : Stn) (f : Xfer) (p : XPiece) : Prop :=
  s.pwr.phase = .ready ∧ issueHeld s = false ∧ liveOf s n = some x ∧ pieceOf x xid k = some (f, p) ∧ p.st = 0 ∧
  heldBack s n x f p k = false ∧ engineHeld s f = false

/-- Queue `q`, which was `u`, has stopped with a cause and the offending sequence number, and its event is raised (R398). -/
def QueueStops (s t : State) (q : Nat) (u : Queue) (cause n : Nat) : Prop :=
  ∃ v, tget? t.cmd.queues q = some v ∧ v.state = .stopped ∧ v.stopCause = cause ∧ v.stopSeq = some n ∧ v.sealed = [] ∧ v.cmds = u.cmds ∧
    Raised s t (cplxDie u.cplx) 0x0005 0 u.slice q cause 0

/-- No sticky flag. -/
def noFlags (_ : Bool) (_ : ShIns) (_ : GroupSt) : Nat := 0

end Sys2Proof.Machine
end

