-- ==== Sys2Proof/WellFormed.lean ====
section
/-! DEFINITION. Well-formed commands: every operand that names a place or a record of the device names one the
device has (R20-R25, R188, R355, R377, R381, R463, R502). A meaning also meets an ill-formed command, which
changes nothing. -/

namespace Sys2Proof

/-- A station number (R43). -/
def wfStn (n : Nat) : Bool := decide (n < 1680)
/-- A station identifier (R25, R26): the target of rung 2 (R603). -/
def wfStnId (i : Nat) : Bool := decide (i / 4096 ≤ 9 ∧ i / 256 % 16 ≤ 11 ∧ i / 16 % 16 ≤ 13 ∧ i % 16 = 0)
/-- A thread group of a station (R188). -/
def wfGrp (u : Grp) : Bool := wfStn u.stn && decide (u.g < 64)
/-- A queue number (R381). -/
def wfQueue (q : Nat) : Bool := decide (q < 1024)
/-- A stack and one of its 2^29 lines (R20, R256). -/
def wfLine (k l : Nat) : Bool := decide (k < 20 ∧ l < 2 ^ 29)
/-- A context identifier (R355). -/
def wfCtx (c : Nat) : Bool := decide (c < 4096)
/-- A partition (R19). -/
def wfPart (p : Nat) : Bool := decide (p < 10)
/-- A die number (R23). -/
def wfDie (d : Nat) : Bool := decide (d < 10 ∨ (16 ≤ d ∧ d < 36) ∨ d = 48 ∨ d = 49)
/-- A seam link (R463). -/
def wfLink (l : Nat) : Bool := decide (l < 45)
/-- A Riberex port (R487). -/
def wfPort (p : Nat) : Bool := decide (p < 24)
/-- A line request. -/
def wfReq (r : Req) : Bool := wfLine r.stack r.line && wfCtx r.ctx
/-- Bytes of a line (R299). -/
def wfData (d : List Byte) : Bool := decide (d.length = 128)

/-- The checks on each command's operands. -/
def wellFormed : Instr → Bool
  | .thermalSample d _ => wfDie d
  | .budgetWindow p _ _ | .boostStep p _ _ => wfPart p
  | .sidebandChatter i _ _ => decide (i < 3)
  | .dynamicAddress a => decide (a < 128)
  | .registerWrite off size val => decide ((size = 4 ∨ size = 8) ∧ off % size = 0 ∧ val < 2 ^ (8 * size))
  | .readClear off size => decide ((size = 4 ∨ size = 8) ∧ off % size = 0)
  | .pendingWrite k m => decide (k < 20 ∧ m < 2 ^ 32)
  | .ueThreshWrite k _ _ => decide (k < 20)
  | .seamRetrainReq l => wfLink l
  | .rbxRetrain p | .idleTimeout p | .rbxLossOfLock p _ | .rbxPortUp p _ _ _ | .rbxFlit p _ | .rbxNak p _ => wfPort p
  | .owinValidSet w _ | .owinValidClear w => decide (w < 4096)
  | .takePacket q | .commandStart q _ | .reply q _ | .wdCommand q => wfQueue q
  | .ctxCreate q _ | .ctxDestroy q _ | .ctxFlags q _ | .queueCreate q _ | .queueDestroy q _ | .queueReset q _
  | .faultResume q _ | .extCreate q _ _ | .extDestroy q _ | .extShare q _ | .extUnmap q _ | .extQuery q _
  | .pin q _ | .unpin q _ | .apertureSet q _ | .windowSet q _ | .counterReset q _ | .recipeLoad q _
  | .recipeCheck q _ | .recipeUnload q _ | .launch q _ | .copy q _ | .fillCommand q _ | .semWaitCommand q _
  | .semWaitTimeout q _ | .semReleaseCommand q _ | .flush q _ | .budgetSet q _ | .capSet q _ | .modeSet q _
  | .sliceCreate q _ | .sliceResize q _ | .sliceDestroy q _ | .slicePasid q _ | .dirtyLog q _ | .spdm q _
  | .setKey q _ | .bundleImport q _ | .setDestroy q _ | .reset q _ | .crumbRead q _ | .crashBufferSet q _
  | .calRead q _ | .calWrite q _ | .clockCorr q _ _ | .energyRead q _ => wfQueue q
  | .serviceTick c | .controlComplexWatchdog c => decide (c < 2)
  | .timeSliceEnd c | .overrunKill c | .allStalled c | .faultBatchDelivery c | .rung1 c => wfCtx c
  | .descriptorComplete n _ | .loop n | .recv n | .send n | .copyIn n | .copyOut n | .explicitCopyDone n _
  | .semWait n | .semRelease n | .matmul n | .conv n | .attnScore n | .attnPv n | .attnFinal n | .eltwise n
  | .reduce n | .run n | .gatherDone n _ | .trace n | .rayBatchTake n | .resultBatchFlush n | .gatherHash n
  | .gatherEmbed n | .missFill n _ | .fetch n | .store n | .handOver n | .wdRest n | .stationUe n _ => wfStn n
  | .rung2 i => wfStnId i
  | .stationFault f => wfStn f.stn
  | .extentWalk n c a _ _ _ _ => wfStn n && wfCtx c && decide (a < 2 ^ 52)
  | .staleExtent n c a => wfStn n && wfCtx c && decide (a < 2 ^ 52)
  | .iadd u _ | .isub u _ | .imul u _ | .imuladd u _ | .imin u _ | .imax u _ | .and u _ | .or u _ | .xor u _
  | .not u _ | .shl u _ | .shr u _ | .shra u _ | .bitcnt u _ | .leadz u _ | .icmp u _ | .fadd u _ | .fmul u _
  | .fmuladd u _ | .fmin u _ | .fmax u _ | .fcmp u _ | .rcp u _ | .rsqrt u _ | .sqrt u _ | .exp2 u _ | .log2 u _
  | .sin u _ | .cos u _ | .tanh u _ | .ftoi u _ | .itof u _ | .fcvt u _ | .pack2 u _ | .unpack2 u _ | .mov u _
  | .movi u _ | .sel u _ | .threadno u _ | .groupno u _ | .stationno u _ | .laneget u _ | .lanepoll u _
  | .psave u _ | .pload u _ | .ld u _ | .st u _ | .gmac u _ | .gmload u _ | .gmstore u _ | .jump u _ | .split u _
  | .join u _ | .loopin u _ | .leave u _ | .issue u _ | .msemr u _ | .msemw u _ | .precv u _ | .psend u _
  | .wait u _ | .meet u _ | .sema u _ | .swait u _ | .lock u _ | .trylock u _ | .nop u _ | .rest u _
  | .finish u _ | .shaderUnlock u _ => wfGrp u
  | .gets r | .getu r | .getr r | .getc r => wfReq r
  | .write r m d => wfReq r && wfData d && decide (m < 2 ^ 128)
  | .red r o => wfReq r && wfData o.data
  | .homeSemWait r off _ => wfReq r && decide (off % 8 = 0 ∧ off < 128)
  | .inv k l p | .partAck k l p => wfLine k l && wfPart p
  | .invDrop n k l => wfStn n && wfLine k l
  | .stackDataArrival k l _ | .scrubRead k l _ | .reductionApply k l | .holdEnd k l | .orderTimeout k l
  | .wdHome k l => wfLine k l
  | .writeBatchDrain k c => decide (k < 20 ∧ c < 32)
  | .thrashWindow k _ => decide (k < 20)
  | .hostWcWriteback d _ => decide (d = 48 ∨ d = 49)
  | .seamLaneLoss l b n => wfLink l && decide (b < 15 ∧ n < 18)
  | .loadWindow l _ => wfLink l
  | .retrainingWindow l _ => wfLink l || decide (256 ≤ l ∧ l < 276)
  | .seamRetry l b => wfLink l && decide (b < 15)
  | .dieClockLoss d | .fatalError d _ => wfDie d
  | .partitionFenced p | .partitionRestored p | .rung3 p _ => wfPart p
  | .crustClockReturn d => decide (16 ≤ d ∧ d < 36)
  | .msixUnmask v => decide (v ≤ 2048)
  | .freedGranuleZeroed k g => decide (k < 20 ∧ g < 2 ^ 20)
  | .powerOn _ | .imageFault _ _ | .undervoltageStop | .overvoltageStop | .powerSample _ | .poweredHour
  | .pwrbrkAssert _ | .pwrbrkRelease | .trayStopOn _ | .trayStopOff | .perstAssert | .perstDeassert _
  | .perstChatter _ | .linkDown | .hotReset _ | .functionLevelReset _ | .d3hotEntry | .d0Return | .doeSpdm _
  | .mctpMessage _ | .jtagInstruction _ | .q0Enable _ | .q0Restart | .faultTailWrite _ | .eventTailWrite _
  | .rbxModeSet _ | .unlock | .bar2Write _ _ | .sealWord _ _ | .eventRecord | .placement _ _
  | .restPointReached _ _ | .saveDone _ _ | .restoreDone _ _ | .instanceComplete _ _ | .launchComplete _
  | .flitArrival _ _ _ _ | .creditReturn _ _ _ | .tokenRowArrival _ _ _ | .blockDelivery _ _
  | .resultHandOver _ _ | .piperRemoteLost _ _ _ | .replicaRepair _ _ | .fill _ | .wrAck _ | .redAck _ | .semOk _
  | .semRetry _ | .retry _ | .bar4Read _ _ | .bar4Write _ _ | .rbxWrite _ | .rbxRead _ | .rbxRed _ | .rbxSemAdd _
  | .rbxBarrier _ | .rbxAck _ | .rbxReadData _ | .requestExpiry _ | .homeUnavailableResend _
  | .powerSequencerWatchdog | .rung4 _ | .rung5 | .rungEscalated _ _ _ | .bar4Resize _ | .faultRingEnable _ => true

end Sys2Proof
end

