-- ==== Sys2Proof/Certificates/Slice0/Obligations.lean ====
section
/-! DEFINITION. Statements for the provers, each a proposition about the model's step or its meanings. -/

open Sys2Proof Sys2Proof.Machine

/-- A step with command `c` at the front of the queue is `exec` of `c` on the state with the queue's rest. -/
def Obligations.StepRunsTheFrontCommand : Prop :=
  ∀ (s : State) (c : Instr) (r : List Instr), s.pending = c :: r →
    step s = exec c { s with pending := r }

/-- The tier 3 invariant: from any state in which the limited values lie in their ranges, a step answers a next state in which they still do, and it takes exactly the front command off the queue. -/
def Obligations.EveryStepKeepsTheLimits : Prop :=
  ∀ s : State, s.inLimits → ∃ t, step s = .next t ∧ t.inLimits ∧ t.pending = s.pending.tail

/-- The reset state meets the limits, and its memories are in canonical form. -/
def Obligations.ResetIsInLimits : Prop :=
  State.reset.inLimits ∧ Memory.wf State.reset.mem = true ∧ HostMem.wf State.reset.host = true

/-- No command changes the queue or stops the model, and each keeps device and host memory in canonical form. -/
def Obligations.CommandsKeepTheQueueAndTheMemoryForm : Prop :=
  ∀ (c : Instr) (s : State), ∃ t, exec c s = .next t ∧ t.pending = s.pending ∧
      (Memory.wf s.mem = true → Memory.wf t.mem = true) ∧ (HostMem.wf s.host = true → HostMem.wf t.host = true)

/-- With no command waiting a step is one reference tick (design choice); every clocked die counts its REF within 50 ppm of 25 MHz. -/
def Obligations.AnIdleStepIsOneReferenceTick : Prop :=
  (∀ s : State, s.pending = [] → step s = .next (refTick s) ∧
      ((s.pwr.phase = .off ∨ s.pwr.phase = .offOver ∨ s.pwr.phase = .offTrip) → refTick s = s)) ∧
    (∀ (s : State) (n d : Nat), d ∈ allDies →
      refOf (advanceRef n s) d = (if d ∈ s.clk.lost then refOf s d
        else (refOf s d + (refCounts d (s.clk.ticks + n) - refCounts d s.clk.ticks)) % 2 ^ 64) ∧
      (advanceRef n s).clk.ticks = s.clk.ticks + n) ∧
    ∀ d n, n * 999950 < (refCounts d n + 1) * 1000000 ∧ refCounts d n * 1000000 ≤ n * 1000050

/-- IADD, ISUB, IMUL, IMULADD, IMIN and IMAX complete and write DST in the acting lanes only. -/
def Obligations.IntegerArithmeticLanes : Prop :=
  Completes 0 0 .iadd [0, 1] (fun w => insDst w :: insSa w :: regB w) noFlags (fun _ _ w y z => LaneEff w y z (fun t v => v = greg y (insSa w) t + opB w y t)) ∧
  Completes 0 1 .isub [0, 1] (fun w => insDst w :: insSa w :: regB w) noFlags (fun _ _ w y z => LaneEff w y z (fun t v => v = greg y (insSa w) t - opB w y t)) ∧
  Completes 0 2 .imul [0, 1] (fun w => insDst w :: insSa w :: regB w) noFlags (fun _ _ w y z => LaneEff w y z (fun t v => v = greg y (insSa w) t * opB w y t)) ∧
  Completes 0 3 .imuladd [0, 1] (fun w => insDst w :: insSa w :: (regB w ++ regC w)) noFlags (fun _ _ w y z => LaneEff w y z (fun t v => w.form = 0 → v = greg y (insSa w) t * opB w y t + greg y (insSc w) t)) ∧
  Completes 0 4 .imin [0, 1] (fun w => insDst w :: insSa w :: regB w) noFlags (fun _ _ w y z => LaneEff w y z (fun t v => v = if (greg y (insSa w) t).toInt ≤ (opB w y t).toInt then greg y (insSa w) t else opB w y t)) ∧
  Completes 0 5 .imax [0, 1] (fun w => insDst w :: insSa w :: regB w) noFlags (fun _ _ w y z => LaneEff w y z (fun t v => v = if (opB w y t).toInt ≤ (greg y (insSa w) t).toInt then greg y (insSa w) t else opB w y t))

/-- AND, OR, XOR, NOT, SHL, SHR, SHRA, BITCNT and LEADZ complete and write DST in the acting lanes only. -/
def Obligations.LogicAndShiftLanes : Prop :=
  Completes 0 6 .and [0, 1] (fun w => insDst w :: insSa w :: regB w) noFlags (fun _ _ w y z => LaneEff w y z (fun t v => v = greg y (insSa w) t &&& opB w y t)) ∧
  Completes 0 7 .or [0, 1] (fun w => insDst w :: insSa w :: regB w) noFlags (fun _ _ w y z => LaneEff w y z (fun t v => v = greg y (insSa w) t ||| opB w y t)) ∧
  Completes 0 8 .xor [0, 1] (fun w => insDst w :: insSa w :: regB w) noFlags (fun _ _ w y z => LaneEff w y z (fun t v => v = greg y (insSa w) t ^^^ opB w y t)) ∧
  Completes 0 9 .not [0, 1] (fun w => [insDst w, insSa w]) noFlags (fun _ _ w y z => LaneEff w y z (fun t v => v = ~~~ (greg y (insSa w) t))) ∧
  Completes 0 0x0A .shl [0, 1] (fun w => insDst w :: insSa w :: regB w) noFlags (fun _ _ w y z => LaneEff w y z (fun t v => (opB w y t).toNat < 32 → v = greg y (insSa w) t <<< (opB w y t).toNat)) ∧
  Completes 0 0x0B .shr [0, 1] (fun w => insDst w :: insSa w :: regB w) noFlags (fun _ _ w y z => LaneEff w y z (fun t v => (opB w y t).toNat < 32 → v = greg y (insSa w) t >>> (opB w y t).toNat)) ∧
  Completes 0 0x0C .shra [0, 1] (fun w => insDst w :: insSa w :: regB w) noFlags (fun _ _ w y z => LaneEff w y z (fun t v => (opB w y t).toNat < 32 → v = (greg y (insSa w) t).sshiftRight (opB w y t).toNat)) ∧
  Completes 0 0x0D .bitcnt [0, 1] (fun w => [insDst w, insSa w]) noFlags (fun _ _ w y z => LaneEff w y z (fun t v => v.toNat = ((List.range 32).filter (fun i => (greg y (insSa w) t).getLsbD i)).length)) ∧
  Completes 0 0x0E .leadz [0, 1] (fun w => [insDst w, insSa w]) noFlags (fun _ _ w y z => LaneEff w y z (fun t v => v.toNat ≤ 32 ∧ ∀ n, n < 32 → (n < v.toNat ↔ ∀ i, i ≤ n → (greg y (insSa w) t).getLsbD (31 - i) = false)))

/-- FADD, FMUL, FMULADD, FMIN and FMAX complete, write DST in the acting lanes, and set the station's sticky flags only. -/
def Obligations.FloatLanes : Prop :=
  Completes 1 0 .fadd [0, 1] (fun w => insDst w :: insSa w :: regB w) (fun fl w y => laneFlags w y (fun t => (add32 fl (fpA w y t) (fpB w y t)).2)) (fun fl _ w y z => LaneEff w y z (fun t v => v = (add32 fl (fpA w y t) (fpB w y t)).1)) ∧
  Completes 1 1 .fmul [0, 1] (fun w => insDst w :: insSa w :: regB w) (fun fl w y => laneFlags w y (fun t => (mul32 fl (fpA w y t) (fpB w y t)).2)) (fun fl _ w y z => LaneEff w y z (fun t v => v = (mul32 fl (fpA w y t) (fpB w y t)).1)) ∧
  Completes 1 2 .fmuladd [0, 1] (fun w => insDst w :: insSa w :: (regB w ++ regC w)) (fun fl w y => laneFlags w y (fun t => (fma32 fl (fpA w y t) (fpB w y t) (opC w y t)).2)) (fun fl _ w y z => LaneEff w y z (fun t v => v = (fma32 fl (fpA w y t) (fpB w y t) (opC w y t)).1)) ∧
  Completes 1 3 .fmin [0, 1] (fun w => insDst w :: insSa w :: regB w) (fun fl w y => laneFlags w y (fun t => (ext32 fl false (fpA w y t) (fpB w y t)).2)) (fun fl _ w y z => LaneEff w y z (fun t v => v = (ext32 fl false (fpA w y t) (fpB w y t)).1)) ∧
  Completes 1 4 .fmax [0, 1] (fun w => insDst w :: insSa w :: regB w) (fun fl w y => laneFlags w y (fun t => (ext32 fl true (fpA w y t) (fpB w y t)).2)) (fun fl _ w y z => LaneEff w y z (fun t v => v = (ext32 fl true (fpA w y t) (fpB w y t)).1))

/-- RCP, RSQRT, SQRT, EXP2, LOG2, SIN, COS and TANH complete in FORM 0 and write DST in the acting lanes. -/
def Obligations.SpecialFunctionLanes : Prop :=
  Completes 2 0 .rcp [0] (fun w => [insDst w, insSa w]) (fun fl w y => laneFlags w y (fun t => (sfuVal fl 0 (greg y (insSa w) t)).2)) (fun fl _ w y z => LaneEff w y z (fun t v => v = (sfuVal fl 0 (greg y (insSa w) t)).1)) ∧
  Completes 2 1 .rsqrt [0] (fun w => [insDst w, insSa w]) (fun fl w y => laneFlags w y (fun t => (sfuVal fl 1 (greg y (insSa w) t)).2)) (fun fl _ w y z => LaneEff w y z (fun t v => v = (sfuVal fl 1 (greg y (insSa w) t)).1)) ∧
  Completes 2 2 .sqrt [0] (fun w => [insDst w, insSa w]) (fun fl w y => laneFlags w y (fun t => (sfuVal fl 2 (greg y (insSa w) t)).2)) (fun fl _ w y z => LaneEff w y z (fun t v => v = (sfuVal fl 2 (greg y (insSa w) t)).1)) ∧
  Completes 2 3 .exp2 [0] (fun w => [insDst w, insSa w]) (fun fl w y => laneFlags w y (fun t => (sfuVal fl 3 (greg y (insSa w) t)).2)) (fun fl _ w y z => LaneEff w y z (fun t v => v = (sfuVal fl 3 (greg y (insSa w) t)).1)) ∧
  Completes 2 4 .log2 [0] (fun w => [insDst w, insSa w]) (fun fl w y => laneFlags w y (fun t => (sfuVal fl 4 (greg y (insSa w) t)).2)) (fun fl _ w y z => LaneEff w y z (fun t v => v = (sfuVal fl 4 (greg y (insSa w) t)).1)) ∧
  Completes 2 5 .sin [0] (fun w => [insDst w, insSa w]) (fun fl w y => laneFlags w y (fun t => (sfuVal fl 5 (greg y (insSa w) t)).2)) (fun fl _ w y z => LaneEff w y z (fun t v => v = (sfuVal fl 5 (greg y (insSa w) t)).1)) ∧
  Completes 2 6 .cos [0] (fun w => [insDst w, insSa w]) (fun fl w y => laneFlags w y (fun t => (sfuVal fl 6 (greg y (insSa w) t)).2)) (fun fl _ w y z => LaneEff w y z (fun t v => v = (sfuVal fl 6 (greg y (insSa w) t)).1)) ∧
  Completes 2 7 .tanh [0] (fun w => [insDst w, insSa w]) (fun fl w y => laneFlags w y (fun t => (sfuVal fl 7 (greg y (insSa w) t)).2)) (fun fl _ w y z => LaneEff w y z (fun t v => v = (sfuVal fl 7 (greg y (insSa w) t)).1)) ∧
  (∀ flush code a, code < 8 → isNanV (decF fF32 a.toNat) = true → (sfuVal flush code a).1 = 0x7FC00000)

/-- FTOI, ITOF, FCVT, PACK2 and UNPACK2 complete in FORM 0 and write their registers in the acting lanes. -/
def Obligations.ConversionLanes : Prop :=
  Completes 3 0 .ftoi [0] (fun w => [insDst w, insSa w]) (fun fl w y => laneFlags w y (fun t => (ftoiVal fl (greg y (insSa w) t)).2)) (fun fl _ w y z => LaneEff w y z (fun t v => v = (ftoiVal fl (greg y (insSa w) t)).1)) ∧
  Completes 3 1 .itof [0] (fun w => [insDst w, insSa w]) (fun fl w y => laneFlags w y (fun t => (op32 fl (intV (greg y (insSa w) t).toInt, 0) 0).2)) (fun fl _ w y z => LaneEff w y z (fun t v => v = (op32 fl (intV (greg y (insSa w) t).toInt, 0) 0).1)) ∧
  (∀ s u w x y, AtIns s u 3 2 w x y → w.form = 0 → insDst w < nregOf x → insSa w < nregOf x →
    6 ≤ insMod w % 256 ∧ insMod w % 256 ≤ 0x0A ∧ 6 ≤ insMod w / 256 ∧ insMod w / 256 ≤ 0x0A →
    ∃ z, exec (.fcvt u w) s = .next (putGrp u z (addFlags u.stn (laneFlags w y (fun t =>
        (convF (stnFlush s x) (insMod w % 256) (insMod w / 256) none ((greg y (insSa w) t).toNat % 2 ^ fmtBits (insMod w % 256))).2)) s)) ∧
      LaneEff w y z (fun t v => v.toNat % 2 ^ fmtBits (insMod w / 256) =
        (convF (stnFlush s x) (insMod w % 256) (insMod w / 256) none ((greg y (insSa w) t).toNat % 2 ^ fmtBits (insMod w % 256))).1 %
          2 ^ fmtBits (insMod w / 256))) ∧
  Completes 3 3 .pack2 [0] (fun w => [insDst w, insSa w, insSb w]) noFlags (fun _ _ w y z => LaneEff w y z (fun _ _ => True)) ∧
  Completes 3 4 .unpack2 [0] (fun w => [insDst w, insDst w + 1, insSa w]) noFlags (fun _ _ w y z => LanesEff w 2 y z (fun _ _ _ => True))

/-- MOV, MOVI, SEL, THREADNO, GROUPNO, STATIONNO and LANEGET complete and write DST in the acting lanes. -/
def Obligations.MoveLanes : Prop :=
  Completes 4 0 .mov [0, 1] (fun w => [insDst w, insSa w]) noFlags (fun _ _ w y z => LaneEff w y z (fun t v => v = greg y (insSa w) t)) ∧
  Completes 4 1 .movi [0, 1] (fun w => insDst w :: regB w) noFlags (fun _ _ w y z => LaneEff w y z (fun t v => v = opB w y t)) ∧
  Completes 4 2 .sel [0, 1] (fun w => insDst w :: insSa w :: regB w) noFlags (fun _ _ w y z => LaneEff w y z (fun t v => w.form = 0 → v = if bitOf (predMask y (insMod w % 8)) t then greg y (insSa w) t else opB w y t)) ∧
  Completes 4 3 .threadno [0, 1] (fun w => [insDst w]) noFlags (fun _ _ w y z => LaneEff w y z (fun t v => v = BitVec.ofNat 32 t)) ∧
  Completes 4 4 .groupno [0, 1] (fun w => [insDst w]) noFlags (fun _ u w y z => LaneEff w y z (fun _ v => v = BitVec.ofNat 32 u.g)) ∧
  Completes 4 5 .stationno [0, 1] (fun w => [insDst w]) noFlags (fun _ u w y z => LaneEff w y z (fun _ v => v = BitVec.ofNat 32 (stnId u.stn))) ∧
  Completes 4 6 .laneget [0, 1] (fun w => insDst w :: insSa w :: regB w) noFlags (fun _ _ w y z => LaneEff w y z (fun t v => (opB w y t).toNat < 32 → v = greg y (insSa w) (opB w y t).toNat))

/-- ICMP, FCMP, LANEPOLL, PSAVE and PLOAD complete and write their predicate or register in the acting lanes only. -/
def Obligations.ComparisonsAndPredicateMoves : Prop :=
  Completes 0 0x0F .icmp [0] (fun w => insSa w :: regB w) noFlags (fun _ _ w y z => PredEff w y z (fun t v =>
    insMod w % 8 < 6 → v = (let a := greg y (insSa w) t; let b := opB w y t
      let lt := if bitOf (insMod w) 3 then decide (a.toNat < b.toNat) else decide (a.toInt < b.toInt)
      (testOf (insMod w % 8) lt (decide (a = b))).getD false))) ∧
  Completes 1 5 .fcmp [0, 1] (fun w => insSa w :: regB w)
    (fun fl w y => laneFlags w y (fun t => (fcmpVal fl (modSel w 6 4) (fpA w y t) (fpB w y t)).2))
    (fun fl _ w y z => PredEff w y z (fun t v => v = (fcmpVal fl (modSel w 6 4) (fpA w y t) (fpB w y t)).1)) ∧
  Completes 4 7 .lanepoll [0] (fun w => if insMod w % 4 = 2 then [insDst w] else []) noFlags (fun _ _ w y z =>
    (insMod w % 4 = 0 → PredEff w y z (fun _ v => v = (activeLanes y).any (bitOf (predMask y (insSa w % 8))))) ∧
    (insMod w % 4 = 1 → PredEff w y z (fun _ v => v = (activeLanes y).all (bitOf (predMask y (insSa w % 8))))) ∧
    (insMod w % 4 = 2 → LaneEff w y z (fun _ v =>
      v = BitVec.ofNat 32 (maskOf ((activeLanes y).filter (bitOf (predMask y (insSa w % 8)))))))) ∧
  Completes 4 8 .psave [0, 1] (fun w => [insDst w]) noFlags (fun _ _ w y z => LaneEff w y z (fun t v =>
    v.toNat % 256 = maskOf ((List.range 8).filter (fun p => bitOf (predMask y p) t)) % 256)) ∧
  Completes 4 9 .pload [0, 1] (fun w => [insSa w]) noFlags (fun _ _ w y z => StepsOn y z ∧ z.regs = y.regs ∧
    ∀ p t, p < 7 → t < 32 → bitOf (predMask z p) t =
      if t ∈ actLanes y w then bitOf (greg y (insSa w) t).toNat p else bitOf (predMask y p) t)

/-- LD and ST complete where every acting lane's access is aligned and in its region, and touch only their registers or bytes. -/
def Obligations.LocalStoreAccess : Prop :=
  (∀ s u w x y, AtIns s u 5 0 w x y → w.form = 1 → bits (insImm w) 2 0 ≤ 4 → insSa w < nregOf x →
    (∀ k < ldRegs w, insDst w + k < nregOf x) → (∀ t ∈ actLanes y w, (ldAddr x u.g w y t).isSome) →
    ∃ z, exec (.ld u w) s = .next (putGrp u z s) ∧ LanesEff w (ldRegs w) y z (fun k t v =>
      let bs := lsRead x ((ldAddr x u.g w y t).getD 0) (ldSize w)
      if ldSize w < 4 then v.toNat % 2 ^ (8 * ldSize w) = leNat bs else v = BitVec.ofNat 32 (field bs (4 * k) 4))) ∧
  (∀ s u w x y, AtIns s u 5 1 w x y → w.form = 1 → bits (insImm w) 2 0 ≤ 4 → insSa w < nregOf x →
    (∀ k < ldRegs w, insDst w + k < nregOf x) → (∀ t ∈ actLanes y w, (ldAddr x u.g w y t).isSome) →
    ∃ t', exec (.st u w) s = .next t' ∧ LocalStored s u x y ((actLanes y w).flatMap (fun t =>
      (((List.range (ldRegs w)).flatMap (fun k => leBytes 4 (greg y (insDst w + k) t).toNat)).take (ldSize w)).zipIdx.map
        (fun b => ((ldAddr x u.g w y t).getD 0 + b.2, b.1)))) t') ∧
  (∀ s u w x y, AtIns s u 5 0 w x y → w.form = 1 → bits (insImm w) 2 0 ≤ 4 → insSa w < nregOf x →
    (∀ k < ldRegs w, insDst w + k < nregOf x) → ∀ o, badLane x u.g w y = some o →
    exec (.ld u w) s = .next (stationFault u.stn stLocalRange 2 u.g y.pc o 0 s)) ∧
  (∀ s u w x y, AtIns s u 5 1 w x y → w.form = 1 → bits (insImm w) 2 0 ≤ 4 → insSa w < nregOf x →
    (∀ k < ldRegs w, insDst w + k < nregOf x) → ∀ o, badLane x u.g w y = some o →
    exec (.st u w) s = .next (stationFault u.stn stLocalRange 2 u.g y.pc o 0 s))

/-- GMAC, GMLOAD and GMSTORE complete where their operands are in order, and touch only their registers or bytes. -/
def Obligations.GroupMatrixInstructions : Prop :=
  (∀ s u w x y, AtIns s u 6 0 w x y → w.form = 0 →
    insSa w % 4 = 0 ∧ insSb w % 4 = 0 ∧ insSc w % 8 = 0 ∧ insDst w % 8 = 0 →
    insSa w + 3 < nregOf x ∧ insSb w + 3 < nregOf x ∧ insSc w + 7 < nregOf x ∧ insDst w + 7 < nregOf x →
    ∃ z fl, fl = ((actLanes y w).flatMap (fun t => (List.range 8).map (fun j => (gmDot (stnFlush s x)
        (if bitOf (insMod w) 0 then fF16 else fBf16) y (actLanes y w) (insSa w) (insSb w) (insSc w) (t % 16) (8 * (t / 16) + j)).2))).foldl
          (fun a b => a ||| b) 0 ∧
      exec (.gmac u w) s = .next (putGrp u z (if (actLanes y w).length = 32 then addFlags u.stn fl s
        else setStn u.stn (fun x => { x with shStatus := x.shStatus ||| 1 }) (addFlags u.stn fl s))) ∧
      LanesEff w 8 y z (fun j t v => v = (gmDot (stnFlush s x) (if bitOf (insMod w) 0 then fF16 else fBf16) y (actLanes y w)
        (insSa w) (insSb w) (insSc w) (t % 16) (8 * (t / 16) + j)).1)) ∧
  (∀ s u w x y, AtIns s u 6 1 w x y → w.form = 1 → gmSel w ≤ 2 ∧ insDst w % gmRegs (gmSel w) = 0 →
    insSa w < nregOf x ∧ insDst w + gmRegs (gmSel w) - 1 < nregOf x →
    gmBad x u.g w (actLanes y w) (uniform y (activeLanes y) (insSa w)).toNat = false →
    ∃ z, exec (.gmload u w) s = .next (putGrp u z s) ∧ LanesEff w (gmRegs (gmSel w)) y z (fun j t v =>
      v = BitVec.ofNat 32 (leNat ((gmElems (gmSel w) t j).flatMap (fun e =>
        lsRead x ((gmAddr x u.g w (uniform y (activeLanes y) (insSa w)).toNat e.1 e.2).getD 0) (gmBytes (gmSel w))))))) ∧
  (∀ s u w x y, AtIns s u 6 2 w x y → w.form = 1 → gmSel w ≤ 2 ∧ insDst w % gmRegs (gmSel w) = 0 →
    insSa w < nregOf x ∧ insDst w + gmRegs (gmSel w) - 1 < nregOf x →
    gmBad x u.g w (actLanes y w) (uniform y (activeLanes y) (insSa w)).toNat = false →
    ∃ t', exec (.gmstore u w) s = .next t' ∧ LocalStored s u x y
      (((actLanes y w).flatMap (fun t => (List.range (gmRegs (gmSel w))).flatMap (fun j =>
        (gmElems (gmSel w) t j).zipIdx.map (fun e =>
          ((gmAddr x u.g w (uniform y (activeLanes y) (insSa w)).toNat e.1.1 e.1.2).getD 0,
           ((leBytes 4 (greg y (insDst w + j) t).toNat).drop (2 * e.2)).take (gmBytes (gmSel w))))))).flatMap
        (fun e => e.2.zipIdx.map (fun b => (e.1 + b.2, b.1)))) t')

/-- JUMP, SPLIT, JOIN, LOOPIN and LEAVE complete: the program counter, mask and mask stack that each gives the group. -/
def Obligations.BranchesAndTheMaskStack : Prop :=
  (∀ s u w x y, AtIns s u 7 0 w x y → w.form = 1 → w.sa = 0 → w.dst = 0 ∧ brJoin w = 0 → brTarget w < 8 * x.code.length →
    (y.mask &&& guardLanes y w = y.mask → exec (.jump u w) s = .next (putGrp u { y with pc := brTarget w, waiting := none } s)) ∧
    (y.mask &&& guardLanes y w = 0 → y.mask ≠ 0 → exec (.jump u w) s = .next (putGrp u { y with pc := y.pc + 8, waiting := none } s))) ∧
  (∀ s u w x y, AtIns s u 7 1 w x y → w.form = 1 → w.sa = 0 → w.dst = 0 → brTarget w < 8 * x.code.length ∧ brJoin w < 8 * x.code.length →
    (y.stack.length ≤ 14 → y.mask &&& guardLanes y w ≠ 0 → exec (.split u w) s = .next (putGrp u { y with
      pc := brTarget w, mask := y.mask &&& guardLanes y w, waiting := none,
      stack := (y.pc + 8, y.mask &&& ~~~(guardLanes y w)) :: (brJoin w, y.mask) :: y.stack } s)) ∧
    (14 < y.stack.length → exec (.split u w) s = .next (stationFault u.stn stMaskOverflow 2 u.g y.pc 0 0 s))) ∧
  (∀ s u w x y, AtIns s u 7 2 w x y → w.form = 1 → w.sa = 0 → w.dst = 0 ∧ w.low = 0 → noGuard w = true → ∀ l pc m r, y.stack = l ++ (pc, m) :: r →
    (∀ e ∈ l, e.2 = 0) → m ≠ 0 → exec (.join u w) s = .next (putGrp u { y with pc := pc, mask := m, stack := r, waiting := none } s)) ∧
  (∀ s u w x y, AtIns s u 7 3 w x y → w.form = 1 → w.sa = 0 → w.dst = 0 ∧ brTarget w = 0 → noGuard w = true → brJoin w < 8 * x.code.length → y.stack.length ≤ 15 →
    exec (.loopin u w) s = .next (putGrp u { y with pc := y.pc + 8, waiting := none, stack := (brJoin w, y.mask) :: y.stack } s)) ∧
  (∀ s u w x y, AtIns s u 7 4 w x y → w.form = 1 → w.sa = 0 → w.low = 0 ∧ insDst w ≤ 8 → y.mask &&& ~~~(guardLanes y w) ≠ 0 →
    exec (.leave u w) s = .next (putGrp u { y with
      pc := y.pc + 8, waiting := none, mask := y.mask &&& ~~~(guardLanes y w),
      stack := (y.stack.take (2 * insDst w)).map (fun e => (e.1, e.2 &&& ~~~(y.mask &&& guardLanes y w))) ++
        y.stack.drop (2 * insDst w) } s))

/-- ISSUE, MSEMR, MSEMW, PRECV and PSEND complete and start what they name, and GATHER_DONE ends a gather whose elements are all done. -/
def Obligations.GatherIssueAndCompletion : Prop :=
  (∀ s u w x y, AtIns s u 8 0 w x y → w.form = 1 → insSa w < nregOf x → actLanes y w ≠ [] →
    inScratch x (uniform y (activeLanes y) (insSa w)).toNat 64 = true →
    gdBad x (lsRead x (uniform y (activeLanes y) (insSa w)).toNat 64) = false →
    (ctrOf y (insImm w % 4) < 15 → exec (.issue u w) s = .next (takeCtr u (insImm w % 4)
      (addXfer u.stn (gdXfer s x u.g (insImm w % 4) (lsRead x (uniform y (activeLanes y) (insSa w)).toNat 64)) s))) ∧
    (15 ≤ ctrOf y (insImm w % 4) → exec (.issue u w) s = .next (putGrp u { y with waiting := some (4, insImm w % 4) } s))) ∧
  (∀ s n k x f, s.pwr.phase = .ready → stnOf s n = some x → f ∈ x.xfers → f.id = k →
    f.kind = .gather ∨ f.kind = .scatter ∨ f.kind = .scatterRed → (∀ g ∈ x.xfers, g.id = k → g = f) →
    (∀ p ∈ f.pieces, p.st = 2) → exec (.gatherDone n k) s = .next (endXfer n f s)) ∧
  (∀ s u w x y (op : Nat), (op = 1 ∨ op = 2) → AtIns s u 8 op w x y → w.form = 0 → insSa w + 1 < nregOf x → insSb w + 1 < nregOf x →
    actLanes y w ≠ [] → y.waiting.map (·.1) ≠ some 10 →
    uniform64 y (activeLanes y) (insSa w) % 8 = 0 → uniform64 y (activeLanes y) (insSa w) < 2 ^ 52 →
    exec (if op = 1 then .msemr u w else .msemw u w) s =
      .next (putGrp u { y with waiting := some (10, 4 * uniform64 y (activeLanes y) (insSa w)), mark := s.sch.xseq } s) ∧
    semAcc (putGrp u { y with waiting := some (10, 4 * uniform64 y (activeLanes y) (insSa w)), mark := s.sch.xseq } s) (.semGrp u.stn u.g) =
      some ⟨decide (op = 1), uniform64 y (activeLanes y) (insSa w), uniform64 y (activeLanes y) (insSb w), insMod w % 4, 0⟩) ∧
  (∀ s u w x y (op : Nat), (op = 0 ∨ op = 1) → AtIns s u 9 op w x y → w.form = 1 → insSa w < nregOf x → actLanes y w ≠ [] →
    (if op = 0 then noSink s x (bits (insImm w) 2 0) else noSource s x (bits (insImm w) 2 0)) = false →
    inScratch x (uniform y (activeLanes y) (insSa w)).toNat (512 * bits (insImm w) 31 16) = true → ctrOf y (bits (insImm w) 5 4) < 15 →
    exec (if op = 0 then .precv u w else .psend u w) s = .next (portPump u.stn (takeCtr u (bits (insImm w) 5 4) (addXfer u.stn
      { id := s.sch.xseq, kind := if op = 0 then .precv else .psend, desc := bits (insImm w) 2 0, grp := some (u.g, bits (insImm w) 5 4),
        pieces := (List.range (bits (insImm w) 31 16)).map (fun i =>
          ⟨(uniform y (activeLanes y) (insSa w)).toNat + 512 * i, (uniform y (activeLanes y) (insSa w)).toNat + 512 * i, 512, 0⟩),
        lo := 0, hi := 0, eng := 0 } s)))) ∧
  (∀ s u w x y, actLanes y w = [] →
    (AtIns s u 8 0 w x y → w.form = 1 → insSa w < nregOf x → exec (.issue u w) s = .next (putGrp u (nextPc y) s)) ∧
    (AtIns s u 9 0 w x y → w.form = 1 → insSa w < nregOf x → exec (.precv u w) s = .next (putGrp u (nextPc y) s)) ∧
    (AtIns s u 9 1 w x y → w.form = 1 → insSa w < nregOf x → exec (.psend u w) s = .next (putGrp u (nextPc y) s)))

/-- WAIT, MEET, SEMA, SWAIT, LOCK, TRYLOCK and UNLOCK complete: counters, barriers, semaphores and locks of a station. -/
def Obligations.StationSynchronisation : Prop :=
  (∀ s u w x y, AtIns s u 0x0A 0 w x y → w.form = 1 → 
    (ctrOf y (insImm w % 4) ≤ bits (insImm w) 7 4 → exec (.wait u w) s = .next (putGrp u { y with pc := y.pc + 8, waiting := none } s)) ∧
    (bits (insImm w) 7 4 < ctrOf y (insImm w % 4) → exec (.wait u w) s = .next (putGrp u { y with waiting := some (4, insImm w % 4) } s))) ∧
  (∀ s u w x y, AtIns s u 0x0A 1 w x y → w.form = 1 → u.g ∉ tget [] x.meets (insImm w % 8) →
    exec (.meet u w) s = .next (openMeets u.stn (putGrp u { y with waiting := some (7, insImm w % 8) }
      (setStn u.stn (fun x => { x with meets := tput x.meets (insImm w % 8) (tget [] x.meets (insImm w % 8) ++ [u.g]) }) s)))) ∧
  (∀ s u w x y, AtIns s u 0x0A 2 w x y → w.form = 1 → 
    exec (.sema u w) s = .next (putGrp u { y with pc := y.pc + 8, waiting := none } (setStn u.stn (fun x => { x with
      sems := tset 0 x.sems (insImm w % 16)
        (wrapInt 32 (signedOf 32 (tget 0 x.sems (insImm w % 16)) + signedOf 16 (bits (insImm w) 31 16))) }) s))) ∧
  (∀ s u w x y, AtIns s u 0x0A 3 w x y → w.form = 1 → insSa w < nregOf x →
    ((uniform y (activeLanes y) (insSa w)).toInt ≤ signedOf 32 (tget 0 x.sems (insImm w % 16)) →
      exec (.swait u w) s = .next (putGrp u { y with pc := y.pc + 8, waiting := none } s)) ∧
    (signedOf 32 (tget 0 x.sems (insImm w % 16)) < (uniform y (activeLanes y) (insSa w)).toInt →
      exec (.swait u w) s = .next (putGrp u { y with waiting := some (6, insImm w % 16) } s))) ∧
  (∀ s u w x y, AtIns s u 0x0A 4 w x y → w.form = 1 → insDst w < nregOf x → ∀ o l, tget (none, []) x.locks (insImm w % 32) = (o, l) →
    (o = none → exec (.lock u w) s = .next (lockCode u w 0 (setLock u.stn (insImm w % 32) (some u.g, l) s))) ∧
    (o = some u.g → y.waiting ≠ some (5, insImm w % 32) → exec (.lock u w) s = .next (lockCode u w 1 s)) ∧
    (∀ h, o = some h → h ≠ u.g → u.g ∉ l → exec (.lock u w) s =
      .next (holdGrp u 5 (insImm w % 32) (setLock u.stn (insImm w % 32) (some h, l ++ [u.g]) s)))) ∧
  (∀ s u w x y, AtIns s u 0x0A 5 w x y → w.form = 1 → insDst w < nregOf x → ∀ o l, tget (none, []) x.locks (insImm w % 32) = (o, l) →
    (o = none → exec (.trylock u w) s = .next (lockCode u w 0 (setLock u.stn (insImm w % 32) (some u.g, l) s))) ∧
    (o = some u.g → exec (.trylock u w) s = .next (lockCode u w 1 s)) ∧
    (∀ h, o = some h → h ≠ u.g → exec (.trylock u w) s = .next (lockCode u w 2 s))) ∧
  (∀ s u w x y, AtIns s u 0x0A 6 w x y → w.form = 1 → ∀ o l, tget (none, []) x.locks (insImm w % 32) = (o, l) →
    (o = some u.g → exec (.shaderUnlock u w) s =
      .next (putGrp u { y with pc := y.pc + 8, waiting := none } (setLock u.stn (insImm w % 32) (l.head?, l.drop 1) s))) ∧
    (o ≠ some u.g → exec (.shaderUnlock u w) s = .next (stationFault u.stn stLockOwner 2 u.g y.pc 0 0 s)))

/-- NOP, REST, END and RUN complete: the group goes on, is held at its rest point, ends its lanes, or starts afresh. -/
def Obligations.ShaderControl : Prop :=
  (∀ s u w x y, AtIns s u 0x0B 0 w x y → w.form = 1 → exec (.nop u w) s = .next (putGrp u { y with pc := y.pc + 8, waiting := none } s)) ∧
  (∀ s u w x y, AtIns s u 0x0B 1 w x y → w.form = 1 →
    (holdsLock x u.g = false → (∀ c ∈ y.counters, c = 0) → semUnsent x u.g = false → exec (.rest u w) s =
      .next (shRest u y.pc (putGrp u { y with pc := y.pc + 8, waiting := some (9, insImm w % 256) } s))) ∧
    (holdsLock x u.g = false → (∃ c ∈ y.counters, c ≠ 0) ∨ semUnsent x u.g = true → exec (.rest u w) s =
      .next (putGrp u { y with waiting := some (8, insImm w % 256) } s)) ∧
    (holdsLock x u.g = true → exec (.rest u w) s = .next (stationFault u.stn stLockHeld 2 u.g y.pc 0 0 s))) ∧
  (∀ s u w x y, AtIns s u 0x0B 2 w x y → w.form = 1 → holdsLock x u.g = false →
    (∀ z, popPath y (dropLanes y.mask y.stack) = some z → z.ended = false → exec (.finish u w) s = .next (putGrp u z s)) ∧
    (popPath y (dropLanes y.mask y.stack) = none → exec (.finish u w) s = .next (endRun u.stn (shRest u y.pc (openMeets u.stn
      (putGrp u { y with mask := 0, stack := [], waiting := none, ended := true } s)))))) ∧
  (∀ s u w x y, AtIns s u 0x0B 2 w x y → w.form = 1 → holdsLock x u.g = true →
    exec (.finish u w) s = .next (stationFault u.stn stLockHeld 2 u.g y.pc 0 0 s)) ∧
  (∀ s n x d, DescReady s n 0x30 x d → exec (.run n) s = .next (setStn n (fun y => { y with
      runIdx := some x.next, meets := [],
      xfers := y.xfers.map (fun f => { f with grp := f.grp.map (fun e => (e.1, 4)) }),
      groups := (residents y.shConfig).foldl (fun t g => tput t g (freshGroup d)) [] }) (beginWork n x.next {} s)))

/-- A BAR0 access of any form but an aligned 4 or 8 bytes reads all-ones, and a write of it is discarded, at all times. -/
def Obligations.AccessesOfAnyOtherFormAreTurnedAway : Prop :=
  ∀ (s : State) (off size : Nat), ¬ ((size = 4 ∨ size = 8) ∧ off % size = 0 ∧ off + size ≤ 2 ^ 25) →
    exec (.readClear off size) s = .next { s with pci := { s.pci with rdData := List.replicate size 0xFF, rdPoison := false } } ∧
    ∀ v, exec (.registerWrite off size v) s = .next s

/-- A write of a BAR0 configuration register stores its fields, ignores a value out of range, and changes nothing else. -/
def Obligations.RegisterWritesStoreTheirFields : Prop :=
  ∀ (s : State) (v : Nat), BarUp s → v < 2 ^ 64 →
    exec (.registerWrite 0x500018 8 v) s = .next { s with cmd := { s.cmd with evBase := bits v 63 12 * 4096 } } ∧
    exec (.registerWrite 0x500020 8 v) s = .next { s with cmd := { s.cmd with
      evLog2 := if 12 ≤ bits v 4 0 ∧ bits v 4 0 ≤ 20 then bits v 4 0 else s.cmd.evLog2,
      evVec := bits v 26 16, evEnable := bitOf v 31 } } ∧
    exec (.registerWrite 0x600008 8 v) s = .next { s with xt := { s.xt with ringBase := bits v 63 12 * 4096 } } ∧
    exec (.registerWrite 0x700008 8 v) s = .next { s with seam := { s.seam with
      highPct := if 1 ≤ bits v 7 0 ∧ bits v 7 0 ≤ 100 then bits v 7 0 else s.seam.highPct,
      watchMin := bits v 15 8, retryThresh := bits v 31 16, hbmThresh := bits v 47 32 } } ∧
    exec (.registerWrite 0x700010 4 v) s = .next { s with seam := { s.seam with corrThresh := bits v 31 0 } } ∧
    exec (.registerWrite 0x900018 8 v) s = .next { s with pwr := { s.pwr with borrow := bits v 3 0 } } ∧
    exec (.registerWrite 0xB00008 8 v) s = .next { s with err := { s.err with
      graceDiv := if 1 ≤ bits v 3 0 ∧ bits v 3 0 ≤ 15 then bits v 3 0 else s.err.graceDiv, graceMin := bits v 23 4,
      cmdMs := if 1 ≤ bits v 47 32 ∧ bits v 47 32 ≤ 65535 then bits v 47 32 else s.err.cmdMs,
      homeUs := if 100 ≤ bits v 63 48 ∧ bits v 63 48 ≤ 65535 then bits v 63 48 else s.err.homeUs } } ∧
    (∃ t, exec (.registerWrite 0xB00008 4 v) s = .next t ∧ t.err.graceMin = bits v 23 4 ∧
      (1 ≤ s.err.cmdMs ∧ s.err.cmdMs ≤ 65535 → t.err.cmdMs = s.err.cmdMs) ∧
      (100 ≤ s.err.homeUs ∧ s.err.homeUs ≤ 65535 → t.err.homeUs = s.err.homeUs)) ∧
    exec (.registerWrite 0x800008 8 v) s = .next { s with rbx := { s.rbx with
      ackUs := if 10 ≤ bits v 19 0 ∧ bits v 19 0 ≤ 1000000 then bits v 19 0 else s.rbx.ackUs, idleUs := bits v 47 32 } } ∧
    ∀ k < 20, k / 2 ∉ s.seam.fenced →
      exec (.registerWrite (0x1000020 + 0x4000 * k) 8 v) s =
        .next (setCru k (fun u => { u with thrThresh := bits v 31 0, thrEnable := bitOf v 32 }) s) ∧
      exec (.registerWrite (0x1000028 + 0x4000 * k) 8 v) s =
        .next (setCru k (fun u => { u with
          scrubH := if 1 ≤ bits v 15 0 ∧ bits v 15 0 ≤ 8760 then bits v 15 0 else u.scrubH, scrubOn := bitOf v 16 }) s) ∧
      exec (.registerWrite (0x1000030 + 0x4000 * k) 4 v) s =
        .next (setCru k (fun u => { u with
          orderMs := if 1 ≤ bits v 15 0 ∧ bits v 15 0 ≤ 60000 then bits v 15 0 else u.orderMs }) s)

/-- A BAR0 read returns the register, and clears the read-to-clear fields it covers whole and nothing else. -/
def Obligations.RegisterReadsAnswerAndClear : Prop :=
  (∀ s off, BarUp s → off + 8 ≤ 2 ^ 25 → off % 8 = 0 →
      (∃ t, exec (.readClear off 8) s = .next t ∧ t.pci.rdData = leBytes 8 (regVal s off) ∧ t.pci.rdPoison = false) ∧
      (∃ t, exec (.readClear off 4) s = .next t ∧ t.pci.rdData = leBytes 4 (regVal s off) ∧ t.pci.rdPoison = false) ∧
      (∃ t, exec (.readClear (off + 4) 4) s = .next t ∧ t.pci.rdData = leBytes 4 (regVal s off / 2 ^ 32) ∧ t.pci.rdPoison = false)) ∧
    (∀ s, BarUp s →
      exec (.readClear 0x500038 8) s = .next { s with
        cmd := { s.cmd with evLost := 0, evDelivered := 0 },
        pci := { s.pci with rdData := leBytes 8 (s.cmd.evLost % 2 ^ 32 + 2 ^ 32 * (s.cmd.evDelivered % 2 ^ 32)), rdPoison := false } } ∧
      exec (.readClear 0x50003C 4) s = .next { s with
        cmd := { s.cmd with evDelivered := 0 },
        pci := { s.pci with rdData := leBytes 4 (s.cmd.evDelivered % 2 ^ 32), rdPoison := false } } ∧
      exec (.readClear 0x600028 4) s = .next { s with
        pci := { s.pci with rdData := leBytes 4 (regVal s 0x600028), rdPoison := false } } ∧
      exec (.readClear 0x60002C 4) s = .next { s with
        xt := { s.xt with delivered := 0 },
        pci := { s.pci with rdData := leBytes 4 (s.xt.delivered % 2 ^ 32), rdPoison := false } } ∧
      exec (.readClear 0x800020 8) s = .next { s with
        rbx := { s.rbx with late := 0, expired := 0 },
        pci := { s.pci with rdData := leBytes 8 (s.rbx.late % 2 ^ 32 + 2 ^ 32 * (s.rbx.expired % 2 ^ 32)), rdPoison := false } } ∧
      exec (.readClear 0xA00040 8) s = .next { s with
        sec := { s.sec with integFails := 0 },
        pci := { s.pci with rdData := leBytes 8 (s.sec.integFails % 2 ^ 32), rdPoison := false } } ∧
      exec (.readClear 0xB00010 8) s = .next { s with
        err := { s.err with corrected := 0, poisoned := 0, stationUe := 0 },
        pci := { s.pci with
          rdData := leBytes 8 (s.err.corrected % 2 ^ 16 + 2 ^ 16 * (s.err.poisoned % 2 ^ 16) + 2 ^ 32 * (s.err.stationUe % 2 ^ 16) +
            2 ^ 48 * (s.err.fatal % 2 ^ 8)), rdPoison := false } }) ∧
    (∀ s off, busUp s = false →
      exec (.readClear off 8) s = .next { s with pci := { s.pci with rdData := List.replicate 8 0xFF, rdPoison := false } }) ∧
    (∀ s off, busUp s = true → (s.pwr.phase = .starting ∨ s.pwr.phase = .halted) → 0x18100 ≤ off → off + 8 ≤ 2 ^ 25 → off % 8 = 0 →
      exec (.readClear off 8) s = .next { s with pci := { s.pci with rdData := leBytes 8 0, rdPoison := false } })

/-- The tails, ring enables and queue 0 controls: what each register write of its own command does. -/
def Obligations.RingAndQueueZeroRegisters : Prop :=
  (∀ s v, BarUp s →
      exec (.eventTailWrite v) s = .next { s with cmd := { s.cmd with evTail := bits v 19 0 } } ∧
      exec (.faultTailWrite v) s = .next { s with xt := { s.xt with tail := bits v 19 0 } }) ∧
    (∀ s v, BarUp s → v < 2 ^ 31 →
      exec (.faultRingEnable v) s = .next { s with xt := { s.xt with
        ringLog2 := if 12 ≤ bits v 4 0 ∧ bits v 4 0 ≤ 20 then bits v 4 0 else s.xt.ringLog2, ringVec := bits v 26 16, ringEnable := true } } ∧
      ∃ t, exec (.q0Enable v) s = .next t ∧ t.cmd.q0enable = true ∧ t.cmd.q0vec = bits v 26 16 ∧
        t.cmd.q0log2 = (if 8 ≤ bits v 4 0 ∧ bits v 4 0 ≤ 16 then bits v 4 0 else s.cmd.q0log2) ∧
        (s.cmd.q0enable = true → t.cmd.queues = s.cmd.queues) ∧
        (∀ u, s.cmd.q0enable = false → tget? s.cmd.queues 0 = some u → ∃ w, tget? t.cmd.queues 0 = some w ∧
          w.state = .running ∧ w.next = 0 ∧ w.stopCause = 0 ∧ w.sealed = [] ∧ w.ring = u.ring ∧ w.cmds = u.cmds) ∧
        (∀ q, q ≠ 0 → tget? t.cmd.queues q = tget? s.cmd.queues q) ∧
        t = { s with cmd := { s.cmd with q0log2 := t.cmd.q0log2, q0vec := t.cmd.q0vec, q0enable := true, queues := t.cmd.queues } }) ∧
    (∀ s u, BarUp s → s.cmd.q0enable = true → 8 ≤ s.cmd.q0log2 ∧ s.cmd.q0log2 ≤ 16 → s.cmd.q0vec < 2048 → tget? s.cmd.queues 0 = some u →
      (u.state = .stopped → u.cmds = [] → u.stopSeq = none → ∃ t w, exec .q0Restart s = .next t ∧ tget? t.cmd.queues 0 = some w ∧
        w.state = .running ∧ w.next = 0 ∧ w.stopCause = 0 ∧ w.sealed = [] ∧
        t = { s with cmd := { s.cmd with queues := t.cmd.queues } } ∧ ∀ q, q ≠ 0 → tget? t.cmd.queues q = tget? s.cmd.queues q) ∧
      (u.state ≠ .stopped → exec .q0Restart s = .next s)) ∧
    (∀ s v, s.pci.active = true → s.pci.linkUp = true → s.pci.d3hot = false → s.pci.functionMask = false → v < 2048 →
      ∃ t, exec (.msixUnmask v) s = .next t ∧ v ∈ t.pci.unmasked ∧ v ∉ t.pci.pba ∧
        t.pci.msix = s.pci.msix ++ (if v ∈ s.pci.pba then [v] else []) ∧
        (∀ u, u ≠ v → (u ∈ t.pci.unmasked ↔ u ∈ s.pci.unmasked) ∧ (u ∈ t.pci.pba ↔ u ∈ s.pci.pba)))

/-- The trigger registers: pending channels, seam and Riberex retraining, MODE, outbound windows and UNLOCK. -/
def Obligations.LinkWindowAndChannelRegisters : Prop :=
  (∀ s k m, BarUp s → k < 20 → k / 2 ∉ s.seam.fenced → m < 2 ^ 32 → ∃ t, exec (.pendingWrite k m) s = .next t ∧
      t = setCru k (fun u => { u with chPending := m }) { s with cmd := t.cmd } ∧
      t.cmd = { s.cmd with evq := s.cmd.evq ++ ((bitsSet 32 m).filter (fun c => !bitOf (cruOf s k).chPending c)).map (fun c =>
        ⟨eventBytes (crustDie k) 0x0001 (refOf s (crustDie k)) 0 0 k c 0, none⟩) }) ∧
    (∀ s k v, BarUp s → k < 20 → k / 2 ∉ s.seam.fenced → v < 2 ^ 16 →
      (∃ t, exec (.ueThreshWrite k none v) s = .next t ∧ (cruOf t k).ueThresh = v ∧ (cruOf t k).uncorr = (cruOf s k).uncorr ∧
        ∀ c < 32, bitOf (cruOf t k).chPending c = (bitOf (cruOf s k).chPending c ||
          decide (v ≠ 0 ∧ v ≤ tget 0 (cruOf s k).uncorr c ∧ c ∉ (cruOf s k).chOut))) ∧
      (∀ c < 32, ∃ t, exec (.ueThreshWrite k (some c) v) s = .next t ∧ tget 0 (cruOf t k).uncorr c = v ∧
        (∀ d, d ≠ c → tget 0 (cruOf t k).uncorr d = tget 0 (cruOf s k).uncorr d) ∧
        ∀ d < 32, bitOf (cruOf t k).chPending d = (bitOf (cruOf s k).chPending d ||
          decide (d = c ∧ (cruOf s k).ueThresh ≠ 0 ∧ (cruOf s k).ueThresh ≤ v ∧ c ∉ (cruOf s k).chOut)))) ∧
    (∀ s l, BarUp s → l < 45 → (tget {} s.seam.watch l).retrains < 2 →
      exec (.seamRetrainReq l) s = .next { s with seam := { s.seam with pendLinks := insKey l s.seam.pendLinks } }) ∧
    (∀ s v, BarUp s → (s.rbx.mode = 1 ∨ s.rbx.mode = 2) →
      (bits v 17 16 = 3 ∨ bits v 17 16 = s.rbx.mode → exec (.rbxModeSet v) s = .next s) ∧
      (bits v 17 16 = 0 → ∃ t, exec (.rbxModeSet v) s = .next t ∧ t.rbx.mode = 0 ∧ t.rbx.deviceNum = s.rbx.deviceNum ∧
        t.rbx.groupSize = s.rbx.groupSize ∧ ∀ p < 24, (portOf t p).st = 0 ∧ (portOf t p).cause = 1)) ∧
    (∀ s v, BarUp s → s.rbx.mode = 0 →
      ((bits v 17 16 = 0 ∨ bits v 17 16 = 3) →
        exec (.rbxModeSet v) s = .next { s with rbx := { s.rbx with deviceNum := bits v 11 0, groupSize := bits v 28 24 } }) ∧
      ((bits v 17 16 = 1 ∨ bits v 17 16 = 2) → ∃ t, exec (.rbxModeSet v) s = .next t ∧
        t = { s with rbx := { s.rbx with
          mode := bits v 17 16, deviceNum := bits v 11 0, groupSize := bits v 28 24, ports := t.rbx.ports } } ∧
        (∀ p ∈ modePorts (bits v 17 16) (bits v 28 24), (portOf t p).st = 1 ∧ (portOf t p).cause = 0) ∧
        (∀ p, p ∉ modePorts (bits v 17 16) (bits v 28 24) → portOf t p = portOf s p))) ∧
    (∀ s p, BarUp s → p < 24 → p ∉ modePorts s.rbx.mode s.rbx.groupSize → exec (.rbxRetrain p) s = .next s) ∧
    (∀ s p, BarUp s → p < 24 → p ∈ modePorts s.rbx.mode s.rbx.groupSize → (portOf s p).st = 0 →
      ∃ t, exec (.rbxRetrain p) s = .next t ∧ (portOf t p).st = 1 ∧ (portOf t p).halfOnly = false ∧
        t = { s with rbx := { s.rbx with ports := t.rbx.ports } } ∧ ∀ j, j ≠ p → portOf t j = portOf s j) ∧
    (∀ s w v x, BarUp s → w < 4096 → v < 2 ^ 52 → (tget {} s.rbx.owins w).busy = false →
      x = { tget {} s.rbx.owins w with valid := false, owner := bits v 15 4, base := bits v 51 16 } →
      exec (.owinValidSet w v) s = .next (putOwin w (if owinError (putOwin w x s) x = 0 then { x with valid := true, err := 0 }
        else { x with err := owinError (putOwin w x s) x }) s) ∧
      (x.len < 2 → owinError (putOwin w x s) x = 2)) ∧
    (∀ s w, BarUp s → w < 4096 → (tget {} s.rbx.owins w).busy = false →
      (tget {} s.rbx.owins w).owner < 4096 → (tget {} s.rbx.owins w).base < 2 ^ 36 →
      exec (.owinValidClear w) s = .next (putOwin w { tget {} s.rbx.owins w with valid := false } s)) ∧
    (∀ s, BarUp s → (s.sec.sets ≠ [] → unlockResult s = 2) ∧
      (unlockResult s ≠ 1 → exec .unlock s = .next { s with sec := { s.sec with dbgResult := unlockResult s, nonceNo := s.sec.nonceNo + 1 } }) ∧
      (unlockResult s = 1 → s.err.rungs = [] → ∃ t, exec .unlock s = .next t ∧ RungSet s t 4 0 rcReset [] ∧
        t.sec = { s.sec with dbgResult := 1, nonceNo := s.sec.nonceNo + 1, unlocking := true, unlockNonce := nonceNow s }))

/-- The registers after reset hold the values the spec gives. -/
def Obligations.RegistersAfterReset : Prop :=
  regVal State.reset 0x000000 = 0x114B20 ∧ regVal State.reset 0x000008 = 0x3F0000 ∧
    regVal State.reset 0x500000 = 0 ∧ regVal State.reset 0x500010 = 8 ∧ regVal State.reset 0x500020 = 12 ∧
    regVal State.reset 0x600010 = 12 ∧ regVal State.reset 0x600030 = 36 ∧
    regVal State.reset 0x700008 = 50 + 10 * 2 ^ 8 + 16 * 2 ^ 16 + 64 * 2 ^ 32 ∧ regVal State.reset 0x700010 = 65536 ∧
    regVal State.reset 0x800000 = 0 ∧ regVal State.reset 0x800008 = 2000 + 100 * 2 ^ 32 ∧
    (∀ p < 24, regVal State.reset (0x800100 + 16 * p) = 1 * 2 ^ 4) ∧
    regVal State.reset 0x900000 = 1 + 4400 * 2 ^ 16 ∧ regVal State.reset 0x900018 = 4 ∧
    (∀ h < 20, regVal State.reset (0x900200 + 8 * h) = 12 + 940 * 2 ^ 4) ∧
    regVal State.reset 0xB00000 = 0 ∧ regVal State.reset 0xB00008 = 4 + 65536 * 2 ^ 4 + 10 * 2 ^ 32 + 1000 * 2 ^ 48 ∧
    ∀ k < 20, bits (regVal State.reset (0x1000000 + 0x4000 * k)) 18 0 = 15 * 2 ^ 8 ∧
      regVal State.reset (0x1000010 + 0x4000 * k) = 8 + 16 * 2 ^ 32 ∧ regVal State.reset (0x1000020 + 0x4000 * k) = 262144 ∧
      regVal State.reset (0x1000028 + 0x4000 * k) = 24 + 2 ^ 16 ∧ regVal State.reset (0x1000030 + 0x4000 * k) = 10

/-- The effective cap is the lower of CAP_W and, under the brake, 1,200 W. -/
def Obligations.TheEffectiveCap : Prop :=
  ∀ s : State, (s.pwr.brake = false → effCap s = s.pwr.cap) ∧ (s.pwr.brake = true → effCap s = min s.pwr.cap 1200)

/-- Power-on to READY or a halt, a fault of the started image, and the two stops of the input supply. -/
def Obligations.SupplyStopsAndStartUp : Prop :=
  (∀ s b, s.pwr.phase = .off → b.straps = [] → b.lanes = [] → b.words = [] → b.fuseOk = true → b.memFail = none →
      b.imageReady = true → b.pd1Answers = true → ∃ t, exec (.powerOn b) s = .next t ∧
      (∀ slot r, bootOrder s = slot :: r → Ready s t slot) ∧ (bootOrder s = [] → Halted t 0x10 0x30)) ∧
    (∀ s b, s.pwr.phase = .off → strapOk (strapRead b.straps pd0) = false → ∃ t, exec (.powerOn b) s = .next t ∧
      t.pwr.phase = .held ∧ t.pin.fault = true ∧ t.pin.trayCycle = true) ∧
    (∀ s b, s.pwr.phase = .off → strapOk (strapRead b.straps pd0) = true →
      (b.fuseOk = false → ∃ t, exec (.powerOn b) s = .next t ∧ Halted t 0x14 0x30) ∧
      (∀ d, b.fuseOk = true → b.memFail = some d → ∃ t, exec (.powerOn b) s = .next t ∧ Halted t 0x15 d)) ∧
    (∀ s b, s.pwr.phase ≠ .off → exec (.powerOn b) s = .next s) ∧
    (∀ s slot l, s.pwr.phase = .starting → (bootOrder s).filter (fun x => decide (x ∉ s.sec.tried)) = slot :: l →
      (∃ t, exec (.imageFault true true) s = .next t ∧ Ready s t slot) ∧
      (∃ t, exec (.imageFault true false) s = .next t ∧ Halted t 0x12 0x31) ∧
      (∀ p, ∃ t, exec (.imageFault false p) s = .next t ∧ t.pwr.phase = .starting ∧ t.sec.tried = s.sec.tried ++ [slot])) ∧
    (∀ s r p, s.pwr.phase = .starting → (∀ x ∈ bootOrder s, x ∈ s.sec.tried) → ∃ t, exec (.imageFault r p) s = .next t ∧
      Halted t (if bootOrder s = [] then 0x10 else 0x11) 0x30) ∧
    (∀ s r p, s.pwr.phase ≠ .starting → exec (.imageFault r p) s = .next s) ∧
    (∀ s, ∃ t, exec .undervoltageStop s = .next t ∧ PowerLost s t .off) ∧
    (∀ s, s.pwr.phase ≠ .offTrip → ∃ t, exec .overvoltageStop s = .next t ∧ PowerLost s t .offOver) ∧
    (∀ s, s.pwr.phase = .offTrip → exec .overvoltageStop s = .next s)

/-- The power sample, the powered hour and the thermal sample: registers, energy, alerts, throttle and trip. -/
def Obligations.SamplesHoursAndHeat : Prop :=
  (∀ s m, s.pwr.phase = .ready → ∃ t, exec (.powerSample m) s = .next t ∧
      t.pwr.volts = m.volts ∧ t.pwr.amps = m.amps ∧ t.pwr.mean1ms = m.mean1ms ∧ t.pwr.mean10ms = m.mean10ms ∧ t.pwr.port10ms = m.port10ms ∧
      t.pwr.eIn = s.pwr.eIn + m.inUj ∧ t.pwr.ePort = s.pwr.ePort + m.portUj ∧
      (∀ p < 10, tget 0 t.pwr.ePart p = tget 0 s.pwr.ePart p + ((m.parts[p]?).map (·.total)).getD 0) ∧
      (t.pin.alert = true ↔ s.pwr.alertOn = true ∨ m.volts < 4600 ∨ 5900 < m.volts) ∧
      t.mem = s.mem ∧ t.xt = s.xt ∧ t.sch = s.sch) ∧
    (∀ s, powered s = true → exec .poweredHour s = .next { s with pwr := { s.pwr with hours := s.pwr.hours + 1 } }) ∧
    (∀ s d j, powered s = true → d ∈ allDies → j < 93 → ∃ t, exec (.thermalSample d j) s = .next t ∧
      tget 0 t.pwr.tj d = j ∧ tget 0 t.pwr.tmax d = max j (tget 0 s.pwr.tmax d) ∧ d ∉ t.pwr.throttled ∧ d ∉ t.pwr.alerting ∧
      (∀ e, e ≠ d → (e ∈ t.pwr.throttled ↔ e ∈ s.pwr.throttled) ∧ (e ∈ t.pwr.alerting ↔ e ∈ s.pwr.alerting) ∧
        tget 0 t.pwr.tj e = tget 0 s.pwr.tj e ∧ tget 0 t.pwr.tmax e = tget 0 s.pwr.tmax e) ∧
      t.pwr.alertOn = (s.pwr.alertOn && allDies.all (fun e => decide (e = d ∨ tget 0 s.pwr.tj e < 98))) ∧
      t.pwr.halves = s.pwr.halves ∧ t.cmd = s.cmd ∧ t.mem = s.mem) ∧
    (∀ s d j, powered s = true → d ∈ allDies → 10 ≤ d → 95 ≤ j → j < 98 → ∃ t, exec (.thermalSample d j) s = .next t ∧
      tget 0 t.pwr.tj d = j ∧ d ∈ t.pwr.throttled ∧ Raised s t d 0x0034 0 0 d j 50 ∧ t.pwr.halves = s.pwr.halves) ∧
    (∀ s d j, powered s = true → d < 10 → tget 1 s.pwr.mode d ≠ 1 → 95 ≤ j → j < 98 → ∃ t, exec (.thermalSample d j) s = .next t ∧
      tget 0 t.pwr.tj d = j ∧ d ∈ t.pwr.throttled ∧
      (∀ h, h = (if (halfClk s (2 * d)).point < (halfClk s (2 * d + 1)).point then 2 * d + 1 else 2 * d) → 1 ≤ (halfClk s h).point →
        pointVolt s h ((halfClk s h).point - 1) ≠ 0 →
        (halfClk t h).point = (halfClk s h).point - 1 ∧ Raised s t d 0x0034 0 0 d j ((halfClk s h).point - 1))) ∧
    (∀ s d j, powered s = true → d ∈ allDies → 100 ≤ j → j < 115 → ∃ t, exec (.thermalSample d j) s = .next t ∧
      tget 0 t.pwr.tj d = j ∧ d ∈ t.pwr.throttled ∧ d ∈ t.pwr.alerting ∧ t.pin.alert = true ∧
      t.pin.platform = s.pin.platform ++ (if d ∈ s.pwr.alerting then [] else [.thermal d j])) ∧
    (∀ s d j, powered s = true → d ∈ allDies → 115 ≤ j → ∃ t, exec (.thermalSample d j) s = .next t ∧ PowerLost s t .offTrip) ∧
    (∀ s d j, d ∉ allDies ∨ powered s = false → exec (.thermalSample d j) s = .next s)

/-- A budget window sets mode, reserve and budgets; a boost step moves each half-die at most one point to its target. -/
def Obligations.BudgetWindowsAndClockPoints : Prop :=
  (∀ s p b w, s.pwr.phase = .ready → p < 10 → p ∉ s.seam.fenced → ∃ t, exec (.budgetWindow p b w) s = .next t ∧
      tget? t.pwr.mode p = some s.pwr.modeSel ∧ t.pwr.portRes = max 60 (min 300 ((w + 9) / 10 * 10)) ∧
      tget 0 t.pwr.baseW p = b ∧
      tget 0 t.pwr.grantMw p =
        min 404000 ((effCap s * 950 - max 60 (min 300 ((w + 9) / 10 * 10)) * 1000) / (liveParts s).length) - b * 1000 ∧
      (∀ n g, grantOf s n p = some g → n ∈ grantees s p → grantSum s p ≤ tget 0 t.pwr.grantMw p → 0 ≤ tget 0 s.pwr.remaining (bk n p) →
        tget 0 t.pwr.remaining (bk n p) = (g : Int)) ∧
      t.mem = s.mem ∧ t.xt = s.xt ∧ t.sch = s.sch ∧ t.home = s.home) ∧
    (∀ s p w e, s.pwr.phase = .ready → p < 10 → p ∉ s.seam.fenced → tget 1 s.pwr.mode p = 0 → partThrottled s p = false →
      (∀ h k, k ≤ 12 → pointVolt s h k ≠ 0) → w ≤ 12 → e ≤ 12 → (halfClk s (2 * p)).point ≤ 12 → (halfClk s (2 * p + 1)).point ≤ 12 →
      ∃ t, exec (.boostStep p w e) s = .next t ∧
        (halfClk t (2 * p)).point = (if (halfClk s (2 * p)).point < w then (halfClk s (2 * p)).point + 1
          else if w < (halfClk s (2 * p)).point then (halfClk s (2 * p)).point - 1 else w) ∧
        (halfClk t (2 * p + 1)).point = (if (halfClk s (2 * p + 1)).point < e then (halfClk s (2 * p + 1)).point + 1
          else if e < (halfClk s (2 * p + 1)).point then (halfClk s (2 * p + 1)).point - 1 else e) ∧
        (halfClk t (2 * p)).volt = pointVolt s (2 * p) (halfClk t (2 * p)).point ∧
        (∀ h, h ≠ 2 * p → h ≠ 2 * p + 1 → halfClk t h = halfClk s h) ∧
        t = { s with pwr := { s.pwr with halves := t.pwr.halves, halfMw := t.pwr.halfMw, braked := false },
                     seam := { s.seam with credit := t.seam.credit, spanning := t.seam.spanning } }) ∧
    (∀ s p a c, s.pwr.phase = .ready → p ∈ s.seam.fenced →
      exec (.budgetWindow p a c) s = .next s ∧ exec (.boostStep p a c) s = .next s)

/-- The brake, the tray stop and chattering inputs: levels, events and the stored cap. -/
def Obligations.SidebandInputs : Prop :=
  ∀ (s : State) (w n : Nat), s.pwr.phase = .ready →
    (s.pin.pwrbrk = false → exec (.pwrbrkAssert w) s = .next (raise pd0 0x0032 0 0 w 0 0 { s with
      pin := { s.pin with pwrbrk := true }, pwr := { s.pwr with brake := true, braked := true, brakeAt := refOf s pd0 } })) ∧
    (s.pin.pwrbrk = true → exec (.pwrbrkAssert w) s = .next s) ∧
    (s.pin.pwrbrk = true → exec .pwrbrkRelease s = .next (raise pd0 0x0033 0 0 ((refOf s pd0 - s.pwr.brakeAt) / 25) 0 0 { s with
      pin := { s.pin with pwrbrk := false },
      pwr := { s.pwr with brake := false, braked := false, cap := s.pwr.capStored.getD s.pwr.cap, capStored := none } })) ∧
    (s.pin.pwrbrk = false → exec .pwrbrkRelease s = .next s) ∧
    (s.pin.trayStop = false → exec (.trayStopOn w) s = .next (raise pd0 0x0058 0 0 w 0 0 { s with
      pin := { s.pin with trayStop := true, stopAt := refOf s pd0 } })) ∧
    (s.pin.trayStop = true → exec (.trayStopOn w) s = .next s) ∧
    (s.pin.trayStop = true → exec .trayStopOff s = .next (raise pd0 0x0059 0 0 ((refOf s pd0 - s.pin.stopAt) / 25) 0 0 (pauseCmds { s with
      pin := { s.pin with trayStop := false } }))) ∧
    (s.pin.trayStop = false → exec .trayStopOff s = .next s) ∧
    (chatDue s 1 →
      (s.pin.pwrbrk = true → exec (.sidebandChatter 1 n w) s = .next (raise pd0 0x005A 0 0 1 n 0 { s with
        pin := { s.pin with pwrbrkChat := true, chatAt := tput s.pin.chatAt 1 (refOf s pd0) } })) ∧
      (s.pin.pwrbrk = false → exec (.sidebandChatter 1 n w) s =
        .next (raise pd0 0x005A 0 0 1 n 0 (raise pd0 0x0032 0 0 w 0 0 { s with
          pin := { s.pin with pwrbrk := true, pwrbrkChat := true, chatAt := tput s.pin.chatAt 1 (refOf s pd0) },
          pwr := { s.pwr with brake := true, braked := true, brakeAt := refOf s pd0 } })))) ∧
    (¬ chatDue s 1 →
      (s.pin.pwrbrk = true → exec (.sidebandChatter 1 n w) s = .next { s with pin := { s.pin with pwrbrkChat := true } }) ∧
      (s.pin.pwrbrk = false → exec (.sidebandChatter 1 n w) s = .next (raise pd0 0x0032 0 0 w 0 0 { s with
        pin := { s.pin with pwrbrk := true, pwrbrkChat := true },
        pwr := { s.pwr with brake := true, braked := true, brakeAt := refOf s pd0 } }))) ∧
    (chatDue s 2 →
      (s.pin.trayStop = true → exec (.sidebandChatter 2 n w) s = .next (raise pd0 0x005A 0 0 2 n 0 { s with
        pin := { s.pin with stopChat := true, chatAt := tput s.pin.chatAt 2 (refOf s pd0) } })) ∧
      (s.pin.trayStop = false → exec (.sidebandChatter 2 n w) s =
        .next (raise pd0 0x005A 0 0 2 n 0 (raise pd0 0x0058 0 0 w 1 0 { s with
          pin := { s.pin with trayStop := true, stopAt := refOf s pd0, stopChat := true,
                              chatAt := tput s.pin.chatAt 2 (refOf s pd0) } })))) ∧
    (¬ chatDue s 2 →
      (s.pin.trayStop = true → exec (.sidebandChatter 2 n w) s = .next { s with pin := { s.pin with stopChat := true } }) ∧
      (s.pin.trayStop = false → exec (.sidebandChatter 2 n w) s = .next (raise pd0 0x0058 0 0 w 1 0 { s with
        pin := { s.pin with trayStop := true, stopAt := refOf s pd0, stopChat := true } }))) ∧
    (chatDue s 0 → exec (.perstChatter n) s = .next (raise pd0 0x005A 0 0 0 n 0 { s with
      pin := { s.pin with perstChat := true, chatAt := tput s.pin.chatAt 0 (refOf s pd0) } })) ∧
    (¬ chatDue s 0 → exec (.perstChatter n) s = .next { s with pin := { s.pin with perstChat := true } })

/-- PERST_N, link down, hot reset, FLR and the D3hot states: configuration reset, dirty bytes lost and rung 4 begun. -/
def Obligations.LinkAndFunctionResets : Prop :=
  (∀ s, s.pwr.phase = .ready → s.pin.perst = false → s.err.rungs = [] → ∃ t, exec .perstAssert s = .next t ∧
      LinkLost s t ∧ CfgReset t ∧ t.pin.perst = true ∧ t.pci.active = false ∧ t.pci.linkUp = false) ∧
    (∀ s, s.pin.perst = true → exec .perstAssert s = .next s) ∧
    (∀ s b, s.pwr.phase = .ready → s.pin.perst = true → exec (.perstDeassert b) s = .next { s with
      pin := { s.pin with perst := false, perstHalt := false }, pci := { s.pci with active := true, linkUp := b.linkTrains } }) ∧
    (∀ s b, s.pwr.phase = .ready → s.pci.active = true → s.pci.linkUp = true → s.err.rungs = [] →
      (∃ t, exec .linkDown s = .next t ∧ LinkLost s t ∧ t.pci = s.pci) ∧
      (∃ t, exec (.hotReset b) s = .next t ∧ LinkLost s t ∧ CfgReset t ∧ t.pci.active = true ∧ t.pci.linkUp = b.linkTrains) ∧
      (∃ t, exec (.functionLevelReset b) s = .next t ∧ LinkLost s t ∧ CfgReset t ∧ t.pci.active = true ∧ t.pci.linkUp = true)) ∧
    (∀ s b, s.pci.active = false ∨ s.pci.linkUp = false →
      exec .linkDown s = .next s ∧ exec (.hotReset b) s = .next s ∧ exec (.functionLevelReset b) s = .next s) ∧
    (∀ s, busUp s = true → exec .d3hotEntry s = .next { s with pci := { s.pci with d3hot := true } }) ∧
    (∀ s, s.pwr.phase = .ready → s.pci.d3hot = true → s.err.rungs = [] → ∃ t, exec .d0Return s = .next t ∧
      RungSet s t 4 0 rcLink [] ∧ CfgReset t ∧ t.host = s.host ∧ t.mem = s.mem) ∧
    (∀ s, s.pci.d3hot = false → exec .d0Return s = .next s) ∧
    (∀ s k, s.pwr.phase = .ready → s.pci.active = true → s.pci.linkUp = true →
      (30 ≤ k → k ≤ 36 → k ≠ s.pci.bar4Log2 → exec (.bar4Resize k) s = .next { s with
        pci := { s.pci with bar4Log2 := k }, xt := { s.xt with apertures := [] } }) ∧
      (k < 30 ∨ 36 < k ∨ k = s.pci.bar4Log2 → exec (.bar4Resize k) s = .next s))

/-- SPDM over DOE, MCTP messages, the dynamic address and the JTAG instructions. -/
def Obligations.ManagementSidebandAndJtag : Prop :=
  (∀ s r, s.pwr.phase = .ready → s.pci.active = true → s.pci.linkUp = true → exec (.doeSpdm r) s = .next { s with
      sec := { s.sec with
        spdmLog := s.sec.spdmLog ++ [r]
        spdmOut := Config.spdmResponse certSlots (measurements s) s.sec.spdmLog r },
      pci := { s.pci with ide := s.pci.ide || Config.spdmIde s.sec.spdmLog r } }) ∧
    (∀ s b a, sidebandUp s = true →
      exec (.mctpMessage (.sensor 0)) s = .next { s with pin := { s.pin with mctpOut := s.pwr.volts } } ∧
      exec (.mctpMessage (.sensor 1)) s = .next { s with pin := { s.pin with mctpOut := s.pwr.amps } } ∧
      exec (.mctpMessage (.sensor 2)) s = .next { s with pin := { s.pin with mctpOut := s.pwr.mean1ms } } ∧
      exec (.mctpMessage (.sensor 3)) s = .next { s with pin := { s.pin with mctpOut := s.pwr.eIn % 2 ^ 64 } } ∧
      (∀ d ∈ allDies, exec (.mctpMessage (.sensor (16 + d))) s = .next { s with pin := { s.pin with mctpOut := tget 0 s.pwr.tj d } }) ∧
      (∀ n, 4 ≤ n → (∀ d ∈ allDies, n ≠ 16 + d) → exec (.mctpMessage (.sensor n)) s = .next { s with pin := { s.pin with mctpOut := 0 } }) ∧
      exec (.mctpMessage (.image false b)) s = .next { s with sec := { s.sec with imageA := ⟨b⟩ }, pin := { s.pin with mctpOut := 0 } } ∧
      exec (.mctpMessage (.image true b)) s = .next { s with sec := { s.sec with imageB := ⟨b⟩ }, pin := { s.pin with mctpOut := 0 } } ∧
      exec (.dynamicAddress a) s = .next { s with pin := { s.pin with i3c := true, dynAddr := some (a % 128) } }) ∧
    (∀ s, powered s = true → s.pin.jtag ≠ some .extest →
      exec (.jtagInstruction .idcode) s = .next { s with pin := { s.pin with tdo := 0x14B2074F, jtag := some .idcode } } ∧
      exec (.jtagInstruction .bypass) s = .next { s with pin := { s.pin with tdo := 0, jtag := some .bypass } } ∧
      (∀ i, exec (.jtagInstruction (.other i)) s = .next { s with pin := { s.pin with tdo := 0, jtag := some (.other i) } }) ∧
      (∀ o, 0x48 ≤ o → o < 0x200 → o % 8 = 0 → exec (.jtagInstruction (.secDbg o none)) s = .next { s with
        pin := { s.pin with tdo := secVal s o, jtag := some (.secDbg o none) } }) ∧
      (∀ o v, 0x48 ≤ o → o < 0x200 → o % 8 = 0 → ∃ t, exec (.jtagInstruction (.secDbg o (some v))) s = .next t ∧
        t.sec = (secWrite o ⟨true, true⟩ (v % 2 ^ 64) s).sec ∧ t.pin.tdo = 0 ∧ t.pin.jtag = some (.secDbg o (some v)) ∧ t.pci = s.pci) ∧
      (∃ v, exec (.jtagInstruction .samplePreload) s = .next { s with
        pin := { s.pin with tdo := v, jtag := some .samplePreload }, clk := { s.clk with free := s.clk.free + 1 } })) ∧
    (∀ s, s.pwr.phase = .ready → s.pci.active = true → s.pci.linkUp = true → s.err.rungs = [] →
      ∃ t, exec (.jtagInstruction .extest) s = .next t ∧ LinkLost s t ∧ t.pci.linkUp = false ∧ t.pin.jtag = some .extest) ∧
    (∀ s, powered s = true → s.pin.jtag = some .extest → exec (.jtagInstruction .bypass) s = .next { s with
      pin := { s.pin with tdo := 0, jtag := some .bypass }, pci := { s.pci with linkUp := s.pci.active } })

/-- BAR2 writes, seal words, taking and starting: when a packet is committed, taken and started, and what that changes. -/
def Obligations.PostingTakingAndStarting : Prop :=
  (∀ s off d, s.pwr.phase = .ready → busUp s = true → off + d.length ≤ 2 ^ 26 →
      (tget? s.cmd.queues (off / 65536) = none →
        exec (.bar2Write off d) s = .next { s with cmd := { s.cmd with orphan := min 65535 (s.cmd.orphan + 1) } }) ∧
      ((tget? s.cmd.queues (off / 65536)).isSome → ∃ t, exec (.bar2Write off d) s = .next t ∧
        (∀ i < d.length, tget 0 t.cmd.window (off + i) = nth 0 d i) ∧
        (∀ a, (a < off ∨ off + d.length ≤ a) → tget 0 t.cmd.window a = tget 0 s.cmd.window a) ∧
        (d.length < 8 → t = { s with cmd := { s.cmd with window := t.cmd.window } }))) ∧
    (∀ s q u j n l m, s.pwr.phase = .ready → busUp s = true → q < 1024 → j < 128 → tget? s.cmd.queues q = some u → queueOn s q u = true →
      n < 2 ^ 32 → 1 ≤ l → l ≤ 8 → m < 2 ^ 16 →
      ∃ t, exec (.sealWord (q * 65536 + j * 512 + 64 * l - 8) (n + 2 ^ 32 * l + 2 ^ 48 * m)) s = .next t ∧
        (∀ k, k ≠ q → tget? t.cmd.queues k = tget? s.cmd.queues k) ∧ t.mem = s.mem ∧
        (if n % 128 ≠ j then QueueStops s t q u 0x0011 n
         else if 2 ^ 31 ≤ seqDiff n u.next then tget? t.cmd.queues q = some { u with stale := min 65535 (u.stale + 1) } ∧ t.cmd.evq = s.cmd.evq
         else if 128 ≤ seqDiff n (creditOf u) then QueueStops s t q u 0x0012 n
         else if m ≠ 0x5EA1 then QueueStops s t q u 0x0010 n
         else tget? t.cmd.queues q = some { u with sealed := u.sealed.filter (fun e => !decide (e.1 = n)) ++ [(n, l)] } ∧ t.cmd.evq = s.cmd.evq)) ∧
    (∀ s q u n l p, s.pwr.phase = .ready → s.cmd.ready = true → s.pci.d3hot = false → tget? s.cmd.queues q = some u → queueOn s q u = true →
      (∀ c ∈ u.cmds, c.phase ≠ .taken) → bar4Pending s = false → u.sealed.find? (fun e => decide (e.1 = u.next)) = some (n, l) →
      p = windowBytes s (q * 65536 + n % 128 * 512) (64 * l) →
      ((field p 0 4 ≠ n ∨ field p 6 1 ≠ l) → ∃ t, exec (.takePacket q) s = .next t ∧ QueueStops s t q u 0x0010 n) ∧
      (field p 0 4 = n → field p 6 1 = l →
      ∃ t v c, exec (.takePacket q) s = .next t ∧ tget? t.cmd.queues q = some v ∧ v.next = (n + 1) % 2 ^ 32 ∧ v.cmds = u.cmds ++ [c] ∧
        c.seq = n ∧ c.op = field p 4 2 ∧ c.flags = field p 7 1 ∧ c.energy = field p 8 4 ∧ c.ctx = field p 12 2 ∧ c.tag = field p 16 8 ∧ c.pkt = p ∧
        c.phase = (match packetRefusal s u p l with
          | some st => .done st 0
          | none => .taken) ∧
        (∀ j, j ≠ q → tget? t.cmd.queues j = tget? s.cmd.queues j) ∧ t = { s with cmd := { s.cmd with queues := t.cmd.queues } })) ∧
    (∀ s q u c n, s.pwr.phase = .ready → tget? s.cmd.queues q = some u → u.cmds.find? (fun c => decide (c.seq = n)) = some c →
      (s.pin.trayStop = true → exec (.commandStart q n) s = .next s) ∧
      (s.pin.trayStop = false → readyToAdmit s q u c = true → admitAhead s c.ctx (admitPart u (sharesOf s q u c)) = false →
        (admits s (sharesOf s q u c) (admitPart u (sharesOf s q u c)) = false → fixedHold s (admitPart u (sharesOf s q u c)) = false →
          exec (.commandStart q n) s = .next s) ∧
        (admits s (sharesOf s q u c) (admitPart u (sharesOf s q u c)) = true →
          ∃ t v d, exec (.commandStart q n) s = .next t ∧ tget? t.cmd.queues q = some v ∧
          v.cmds.find? (fun c => decide (c.seq = n)) = some d ∧ d.phase = .started ∧ d.admitted = true ∧ d.startAt = refOf s (cplxDie u.cplx) ∧
          d.shares = sharesOf s q u c ∧ d.pkt = c.pkt ∧ d.op = c.op ∧ t.mem = s.mem ∧ t.ten = s.ten ∧
          (launchOf s q n = none → t.sch = s.sch) ∧
          (∀ k l, launchOf s q n = some (k, l) → l.ph = .placed → (tget? t.sch.launches k).map (·.ph) = some .running))))

/-- A reply is written once at the ring's next entry, with its fields and phase; an event record is written or counted lost. -/
def Obligations.RepliesAndEventRecords : Prop :=
  (∀ s q u c n, s.pwr.phase = .ready → tget? s.cmd.queues q = some u → u.cmds.find? (fun c => decide (c.seq = n)) = some c →
      (cmdOutstanding s q n = true ∨ oldEntriesUsed s c = true ∨ c.retries.any (untried s) = true ∨ ∀ st d, c.phase ≠ .done st d) → exec (.reply q n) s = .next s) ∧
    (∀ s q u c n st d, s.pwr.phase = .ready → tget? s.cmd.queues q = some u → u.cmds.find? (fun c => decide (c.seq = n)) = some c →
      c.phase = .done st d → c.op ≠ 0x0105 → cmdOutstanding s q n = false → oldEntriesUsed s c = false → c.retries.any (untried s) = false → s.pci.functionMask = false → (ringOf s q u).2.2 ∈ s.pci.unmasked →
      n < 2 ^ 32 → st < 2 ^ 16 → d < 2 ^ 32 →
      ∃ t v b, exec (.reply q n) s = .next t ∧ tget? t.cmd.queues q = some v ∧ v.cmds.map (fun x => (x.seq, x.op, x.phase)) = (u.cmds.filter (fun x => !decide (x.seq = n))).map (fun x => (x.seq, x.op, x.phase)) ∧
        v.replies = u.replies + 1 ∧ b.length = 32 ∧
        (∀ i < 32, tget 0 t.host.mem (hkey u.pasid ((ringOf s q u).1 + 32 * (u.replies % 2 ^ (ringOf s q u).2.1) + i)) = nth 0 b i) ∧
        field b 0 4 = n ∧ field b 4 2 = st ∧ field b 6 1 = 1 - u.replies / 2 ^ (ringOf s q u).2.1 % 2 ∧ field b 7 1 = cplxDie u.cplx ∧
        field b 8 8 = c.tag % 2 ^ 64 ∧ field b 16 4 = creditOf v % 2 ^ 32 ∧ field b 20 4 = d ∧ field b 24 8 = refOf s (cplxDie u.cplx) % 2 ^ 64 ∧
        t.pci.msix = s.pci.msix ++ (if bitOf c.flags 1 then [(ringOf s q u).2.2] else []) ∧ t.mem = s.mem ∧ t.xt = s.xt ∧ t.sch = s.sch) ∧
    (∀ s, s.pwr.phase = .ready → s.cmd.evq = [] → exec .eventRecord s = .next s) ∧
    (∀ s r l, s.pwr.phase = .ready → s.cmd.evq = r :: l → r.slice = none →
      (evRoom s = false → exec .eventRecord s = .next { s with
        cmd := { s.cmd with evq := l, evLost := min (2 ^ 32 - 1) (s.cmd.evLost + 1) } }) ∧
      (evRoom s = true → s.pci.functionMask = false → s.cmd.evVec ∈ s.pci.unmasked → ∃ t, exec .eventRecord s = .next t ∧
        (∀ i < r.bytes.length, r.bytes.length ≤ 2 ^ 64 → tget 0 t.host.mem (hkey none (s.cmd.evBase + 64 * s.cmd.evHead + i)) = nth 0 r.bytes i) ∧
        t.cmd.evq = l ∧ t.cmd.evHead = (s.cmd.evHead + 1) % 2 ^ s.cmd.evLog2 ∧ t.cmd.evDelivered = min (2 ^ 32 - 1) (s.cmd.evDelivered + 1) ∧
        t.cmd.evLost = s.cmd.evLost ∧ t.pci.msix = s.pci.msix ++ [s.cmd.evVec] ∧ t.host.dirty = s.host.dirty ∧ t.mem = s.mem))

/-- CTX_CREATE to FAULT_RESUME: contexts and queues made, flagged, stopped and removed, and fault batches resolved. -/
def Obligations.ContextAndQueueCommands : Prop :=
  (∀ s q n u c, Started s q n 0x0101 u c → sliceThere s (par c 0 2) = true →
      (∀ sl, par c 0 2 ≠ 0 → tget? s.ten.slices (par c 0 2) = some sl → (sliceCtxs s (par c 0 2)).length < sl.contexts) → par c 2 1 ≤ 3 → 1 ≤ par c 4 2 → par c 4 2 ≤ 10000 → par c 3 1 ≤ 1 → par c 6 1 ≤ 1 →
      (tenantCtxs s).length < 4095 → ∃ t i, exec (.ctxCreate q n) s = .next t ∧ Replies t q n 0 i ∧ 1 ≤ i ∧ tget? s.ten.ctxs i = none ∧
        (∀ j, 1 ≤ j → j < i → (tget? s.ten.ctxs j).isSome) ∧
        tget? t.ten.ctxs i = some { slice := par c 0 2, cls := par c 2 1, weight := par c 4 2, flush := decide (par c 3 1 = 1), cplx := par c 6 1 } ∧
        (∀ j, j ≠ i → tget? t.ten.ctxs j = tget? s.ten.ctxs j) ∧ tget 0 t.pwr.eCtx i = 0 ∧ t.mem = s.mem ∧ t.xt = s.xt) ∧
    (∀ s q n u c x, Started s q n 0x0102 u c → c.ctx ≠ 0 → tget? s.ten.ctxs c.ctx = some x →
      (x.dead = false → s.err.rungs = [] → ∃ t, exec (.ctxDestroy q n) s = .next t ∧ RungSet s t 1 c.ctx 0 [] ∧ t.ten = s.ten ∧ t.mem = s.mem) ∧
      (x.dead = true → rungReq? s 1 c.ctx = none →
        exec (.ctxDestroy q n) s = .next (finishCmd q n 0 0 { s with ten := { s.ten with ctxs := tdel s.ten.ctxs c.ctx } }))) ∧
    (∀ s q n u c x, Started s q n 0x0103 u c → ctxOf s c.ctx = some x →
      exec (.ctxFlags q n) s = .next (finishCmd q n 0 (x.flags % 32 + 256 * (x.shStatus % 2))
        (setCtx c.ctx (fun x => { x with flags := 0, shStatus := 0 }) s))) ∧
    (∀ s q n u c k, Started s q n 0x0104 u c → k = par c 12 2 → tget? s.cmd.queues k = none → 1 ≤ k → k ≤ 1023 → 8 ≤ par c 20 1 →
      par c 20 1 ≤ 16 → par c 19 1 ≤ 1 → par c 18 1 ≤ 9 → par c 16 2 ≤ 2047 → par c 0 8 % 32 = 0 → sliceThere s (par c 14 2) = true →
      queueOwner s k = (if par c 14 2 = 0 then none else some (par c 14 2)) → (par c 14 2 ≠ 0 → tget? s.ten.pasids (par c 8 4) = some (par c 14 2)) →
      exec (.queueCreate q n) s = .next (finishCmd q n 0 0 { s with
        cmd := { s.cmd with queues := tput s.cmd.queues k { num := k, state := .running, cplx := par c 19 1, slice := par c 14 2, pasid := if par c 14 2 = 0 then none else some (par c 8 4), vector := par c 16 2, homePart := par c 18 1, log2 := par c 20 1, ring := par c 0 8 } },
        pwr := { s.pwr with eQueue := tset 0 s.pwr.eQueue k 0 } })) ∧
    (∀ s q n u c k v, Started s q n 0x0105 u c → k = par c 0 2 → k ≠ 0 → k ≠ q → u.slice = 0 → tget? s.cmd.queues k = some v → v.cmds = [] → v.stopSeq = none →
      ∃ t, exec (.queueDestroy q n) s = .next t ∧ Replies t q n 0 0 ∧ tget? t.cmd.queues k = none ∧ t.mem = s.mem ∧
        ∀ j, j ≠ k → j ≠ q → tget? t.cmd.queues j = tget? s.cmd.queues j) ∧
    (∀ s q n u c, Started s q n 0x0105 u c → par c 0 2 = q → q ≠ 0 → ∃ t v, exec (.queueDestroy q n) s = .next t ∧ tget? t.cmd.queues q = some v ∧
      v.state = .draining ∧ v.sealed = [] ∧ t.mem = s.mem ∧ ((∀ x ∈ u.cmds, x.seq = n) → u.stopSeq = none → Replies t q n 0 0)) ∧
    (∀ s q n u c k v, Started s q n 0x0106 u c → k = par c 4 2 → k ≠ 0 → u.slice = 0 → tget? s.cmd.queues k = some v → v.state = .stopped →
      v.cmds = [] → v.stopSeq = none → ∃ t w, exec (.queueReset q n) s = .next t ∧ Replies t q n 0 0 ∧ tget? t.cmd.queues k = some w ∧
        w.state = .running ∧ w.next = par c 0 4 % 2 ^ 32 ∧ w.stopCause = 0 ∧ w.sealed = [] ∧ w.replies = 0 ∧ w.ring = v.ring) ∧
    (∀ s q n u c x, Started s q n 0x0107 u c → ctxOf s c.ctx = some x → x.dead = false → par c 4 1 ≤ 1 →
      ((∀ y ∈ x.unresolved, y.seq ≠ par c 0 4) → exec (.faultResume q n) s = .next (finishCmd q n 0x0022 0 s)) ∧
      (par c 4 1 = 1 → (∃ y ∈ x.unresolved, y.seq = par c 0 4) → c.ctx ≠ 0 → s.err.rungs = [] →
        ∃ t, exec (.faultResume q n) s = .next t ∧ Replies t q n 0 0 ∧ RungSet s t 1 c.ctx 0 [] ∧ t.ten = s.ten ∧ t.mem = s.mem) ∧
      (par c 4 1 = 0 → (∃ y ∈ x.unresolved, y.seq = par c 0 4) → ∃ t z, exec (.faultResume q n) s = .next t ∧ Replies t q n 0 0 ∧ ctxOf t c.ctx = some z ∧
        z.unresolved = x.unresolved.filter (fun y => decide (par c 0 4 < y.seq)) ∧ z.waiting = x.waiting ∧ t.mem = s.mem ∧ t.err = s.err))

/-- EXT_CREATE, EXT_SHARE, EXT_UNMAP, EXT_QUERY, EXT_DESTROY: refusals in order, the record made or removed, and memory zeroed. -/
def Obligations.ExtentCommands : Prop :=
  (∀ s q n h u c o main r1 rep r2, Started s q n 0x0201 u c → recordOk c = true → ctxOf s (par c 30 2) = some o → o.dead = false →
      o.slice = par c 32 2 → mapRefusal s (par c 30 2) (par c 0 8) (par c 8 8) = none → (createShares s c).1 ≠ [] →
      (attrReplica (par c 22 2) = true → (createShares s c).2 ≠ []) →
      sumNat (((createShares s c).1 ++ (createShares s c).2).map (fun e => e.2 +
        (if (attrSealed (par c 22 2) || attrIntegrity (par c 22 2)) = true then ceilDiv e.2 16 else 0))) + usedQuota s (par c 32 2) ≤ quotaGrans s (par c 32 2) →
      takeShares s (attrSealed (par c 22 2) || attrIntegrity (par c 22 2)) (createShares s c).1 h.grans = some (main, r1) →
      takeShares s (attrSealed (par c 22 2) || attrIntegrity (par c 22 2)) (createShares s c).2 r1 = some (rep, r2) →
      (attrPinned (par c 22 2) = true → pinCheck s (par c 32 2) (extLines (newExtent c 0 main rep) 0 (par c 8 8)) = 2) →
      (attrSealed (par c 22 2) = true → (setOwned s (par c 32 2) (par c 28 2)).isSome) →
      ∃ t num g, exec (.extCreate q n h) s = .next t ∧ tget? s.xt.extents num = none ∧
        g = (match tget? s.xt.gens num with
          | some g => (g + 1) % 256
          | none => 0) ∧
        t.xt = { s.xt with extents := tput s.xt.extents num (newExtent c g main rep), gens := tput s.xt.gens num g, maps := s.xt.maps ++ [⟨par c 30 2, par c 0 8, num, false⟩] } ∧
        Replies t q n 0 (handleOf num (newExtent c g main rep)) ∧ t.mem = s.mem ∧ t.ten = s.ten ∧ t.sch = s.sch) ∧
    (∀ s q n h u c st, Started s q n 0x0201 u c →
      (if recordOk c = false ∨ ctxOf s (par c 30 2) = none ∨ ctxSlice s (par c 30 2) ≠ par c 32 2 then some 0x0030
       else if (∃ o, ctxOf s (par c 30 2) = some o ∧ o.dead = true) then some 0x0021
       else if (mapRefusal s (par c 30 2) (par c 0 8) (par c 8 8)).isSome then mapRefusal s (par c 30 2) (par c 0 8) (par c 8 8)
       else if (createShares s c).1 = [] ∨ (attrReplica (par c 22 2) = true ∧ (createShares s c).2 = []) then some 0x0039
       else if quotaGrans s (par c 32 2) < usedQuota s (par c 32 2) + sumNat (((createShares s c).1 ++ (createShares s c).2).map (fun e => e.2 +
        (if (attrSealed (par c 22 2) || attrIntegrity (par c 22 2)) = true then ceilDiv e.2 16 else 0))) then some 0x0033
       else match takeShares s (attrSealed (par c 22 2) || attrIntegrity (par c 22 2)) (createShares s c).1 h.grans with
        | none => some 0x003B
        | some r => if takeShares s (attrSealed (par c 22 2) || attrIntegrity (par c 22 2)) (createShares s c).2 r.2 = none then some 0x003B else none) = some st →
      exec (.extCreate q n h) s = .next (finishCmd q n st 0 s)) ∧
    (∀ s q n u c tc num x, Started s q n 0x0203 u c → ctxOf s (par c 12 2) = some tc → tc.dead = false → cmdExtent s (par c 8 4) = some (num, x) →
      x.sharedSet ≠ 0 → (∀ m ∈ s.xt.maps, ¬ (m.ctx = par c 12 2 ∧ m.num = num)) → mapRangeOk (par c 0 8) x.length = true →
      mapRefusal s (par c 12 2) (par c 0 8) x.length = none →
      (attrSealed x.attr = false ∨ shareBreaks s (par c 12 2) (insKey x.sealSet (ctxSets s (par c 12 2))) = false) →
      ∃ t, exec (.extShare q n) s = .next t ∧ Replies t q n 0 0 ∧ t.xt = { s.xt with maps := s.xt.maps ++ [⟨par c 12 2, par c 0 8, num, true⟩] } ∧
        t.mem = s.mem ∧ t.ten = s.ten ∧ t.home = s.home ∧ (readOnlyFor x (par c 12 2) = true → t.sch = s.sch) ∧
        (readOnlyFor x (par c 12 2) = false → ∀ k y, tget? t.sch.stns k = some y → ∀ e ∈ y.cache, e.1 ∉ extLines x 0 x.length)) ∧
    (∀ s q n u c m x, Started s q n 0x0204 u c → s.xt.maps.find? (fun m => decide (m.ctx = par c 8 2 ∧ m.start = par c 0 8)) = some m →
      tget? s.xt.extents m.num = some x → ∃ t, exec (.extUnmap q n) s = .next t ∧ Replies t q n 0 0 ∧ t.xt = { s.xt with maps := s.xt.maps.filter (fun y => !decide (y = m)) } ∧
        t.mem = s.mem ∧ (∀ k y, tget? t.sch.stns k = some y → ∀ e ∈ y.xcache, ¬ (e.2.1 = handleOf m.num x ∧ e.1 = m.ctx)) ∧
        t = { s with xt := t.xt, cmd := t.cmd, sch := { s.sch with stns := t.sch.stns } }) ∧
    (∀ s q n u c, Started s q n 0x0205 u c →
      (findMap s c.ctx (par c 0 8) = none → exec (.extQuery q n) s = .next (finishCmd q n 0x0034 0 s)) ∧
      (∀ m x, findMap s c.ctx (par c 0 8) = some (m, x) → ∃ b, exec (.extQuery q n) s = .next (finishCmd q n 0 (handleOf m.num x) (hostWrite u.pasid (par c 8 8) b s)) ∧
        b.length = 64 ∧ field b 0 8 = m.start % 2 ^ 64 ∧ field b 8 8 = x.length % 2 ^ 64 ∧ field b 16 4 = handleOf m.num x ∧ field b 20 1 = x.placement % 256 ∧
        field b 21 1 = x.place % 256 ∧ field b 22 2 = (x.attr + (if x.damaged then 32 else 0)) % 65536 ∧
        field b 26 1 = x.replicaWhere % 256 ∧ field b 24 2 = x.sharedSet % 65536 ∧ field b 28 2 = x.sealSet % 65536 ∧ field b 30 2 = x.owner % 65536 ∧ field b 32 2 = x.slice % 65536)) ∧
    (∀ s q n u c num x, Started s q n 0x0202 u c → cmdExtent s (par c 0 4) = some (num, x) →
      ∃ t, exec (.extDestroy q n) s = .next t ∧ Replies t q n 0 0 ∧ tget? t.xt.extents num = none ∧ (∀ m ∈ t.xt.maps, m.num ≠ num ∧ m ∈ s.xt.maps) ∧
        (∀ j, j ≠ num → tget? t.xt.extents j = tget? s.xt.extents j) ∧
        (∀ k a, (k, a / 65536) ∈ extGranList x → a < 2 ^ 36 → tget 0 t.mem.cells (k * 2 ^ 36 + a) = 0 ∧ (k * 2 ^ 29 + a / 128) ∉ t.mem.poison) ∧
        (∀ k a, (k, a / 65536) ∉ extGranList x → a < 2 ^ 36 → tget 0 t.mem.cells (k * 2 ^ 36 + a) = tget 0 s.mem.cells (k * 2 ^ 36 + a)))

/-- PIN, UNPIN, APERTURE_SET, WINDOW_SET and COUNTER_RESET: refusals, and what each changes. -/
def Obligations.PinApertureWindowAndCounterCommands : Prop :=
  (∀ s q n u c cx num x, Started s q n 0x0206 u c → ctxOf s c.ctx = some cx → cmdExtent s (par c 12 4) = some (num, x) → par c 16 1 ≤ 1 →
      (pinRangeOk x (par c 0 8) (par c 8 4) = false → exec (.pin q n) s = .next (finishCmd q n 0x0015 0 s)) ∧
      (pinRangeOk x (par c 0 8) (par c 8 4) = true →
        (∀ st, pinCheck s cx.slice (extLines x (par c 0 8) (65536 * par c 8 4)) = st → st ≠ 2 → exec (.pin q n) s = .next (finishCmd q n st 0 s)) ∧
        (pinCheck s cx.slice (extLines x (par c 0 8) (65536 * par c 8 4)) = 2 → par c 16 1 = 0 → ∃ p, exec (.pin q n) s = .next (finishCmd q n 2 0 { s with home := { s.home with pins := p } }) ∧
          (∀ k sl, sl ∈ tget [] p k ↔ sl ∈ tget [] s.home.pins k ∨ (sl = cx.slice ∧ k ∈ extLines x (par c 0 8) (65536 * par c 8 4)))) ∧
        (pinCheck s cx.slice (extLines x (par c 0 8) (65536 * par c 8 4)) = 2 → par c 16 1 = 1 → ∃ p l, exec (.pin q n) s = .next (finishCmd q n 2 0 { s with home := { s.home with pins := p, preloads := l } }) ∧
          (∀ k sl, sl ∈ tget [] p k ↔ sl ∈ tget [] s.home.pins k ∨ (sl = cx.slice ∧ k ∈ extLines x (par c 0 8) (65536 * par c 8 4))) ∧
          ((∀ k ∈ extLines x (par c 0 8) (65536 * par c 8 4), (hline s k).cached = true) → l = s.home.preloads) ∧
          ((∃ k ∈ extLines x (par c 0 8) (65536 * par c 8 4), (hline s k).cached = false) →
            l = s.home.preloads ++ [(q, n, (extLines x (par c 0 8) (65536 * par c 8 4)).filter (fun k => !(hline s k).cached))])))) ∧
    (∀ s q n u c cx num x, Started s q n 0x0207 u c → ctxOf s c.ctx = some cx → cmdExtent s (par c 12 4) = some (num, x) →
      (pinRangeOk x (par c 0 8) (par c 8 4) = false → exec (.unpin q n) s = .next (finishCmd q n 0x0015 0 s)) ∧
      (pinRangeOk x (par c 0 8) (par c 8 4) = true → ∃ p l, exec (.unpin q n) s = .next (finishCmd q n 0 0 { s with home := { s.home with pins := p, preloads := l } }) ∧
        (∀ k sl, (sl ∈ tget [] p k ↔
          sl ∈ tget [] s.home.pins k ∧ ¬ (sl = cx.slice ∧ k ∈ extLines x (par c 0 8) (65536 * par c 8 4)))) ∧
        ∀ e ∈ l, ∀ k ∈ e.2.2, ∀ j ∈ extLines x (par c 0 8) (65536 * par c 8 4), k / 2 ^ 29 ≠ j / 2 ^ 29)) ∧
    (∀ s q n u c tc, Started s q n 0x0208 u c → ctxOf s (par c 16 2) = some tc → tc.dead = false → par c 0 8 % 65536 = 0 → par c 18 1 ≤ 7 →
      par c 8 4 + par c 12 4 ≤ 2 ^ (s.pci.bar4Log2 - 16) →
      (bitOf (par c 18 1) 2 = false → ∃ ap, exec (.apertureSet q n) s = .next (finishCmd q n 0 0 { s with xt := { s.xt with apertures := ap } }) ∧
        ∀ e, e ∈ ap ↔ e ∈ s.xt.apertures ∧ ¬ (par c 8 4 ≤ e.1 ∧ e.1 < par c 8 4 + par c 12 4)) ∧
      (bitOf (par c 18 1) 2 = true → (∃ i < par c 12 4, findMap s (par c 16 2) (par c 0 8 + 65536 * i) = none) → exec (.apertureSet q n) s = .next (finishCmd q n 0x0034 0 s)) ∧
      (bitOf (par c 18 1) 2 = true → (∀ i < par c 12 4, (findMap s (par c 16 2) (par c 0 8 + 65536 * i)).isSome) →
        ((∃ i < par c 12 4, ∃ m x, findMap s (par c 16 2) (par c 0 8 + 65536 * i) = some (m, x) ∧ attrSealed x.attr = true) →
          exec (.apertureSet q n) s = .next (finishCmd q n 0x0038 0 s)) ∧
        ((∀ i < par c 12 4, ∀ m x, findMap s (par c 16 2) (par c 0 8 + 65536 * i) = some (m, x) → attrSealed x.attr = false ∧
            (bitOf (par c 18 1) 1 = true → readOnlyFor x (par c 16 2) = false)) → ∃ ap, exec (.apertureSet q n) s = .next (finishCmd q n 0 0 { s with xt := { s.xt with apertures := ap } }) ∧
          (∀ i < par c 12 4, tget? ap (par c 8 4 + i) = some ⟨par c 16 2, par c 0 8 + 65536 * i, bitOf (par c 18 1) 0, bitOf (par c 18 1) 1⟩) ∧
          ∀ k, k < par c 8 4 ∨ par c 8 4 + par c 12 4 ≤ k → tget? ap k = tget? s.xt.apertures k))) ∧
    (∀ s q n u c oc es, Started s q n 0x0209 u c → ctxOf s (par c 10 2) = some oc → par c 8 2 ≤ 255 → par c 14 1 ≤ 64 →
      (∀ i < par c 14 1, winEntryOk (hostRead s u.pasid (par c 0 8 + 32 * i) 32) = true) →
      es = (List.range (par c 14 1)).map (fun i => winEntry (hostRead s u.pasid (par c 0 8 + 32 * i) 32)) → winDisjoint es = true →
      (oc.dead = true → exec (.windowSet q n) s = .next (finishCmd q n 0x0021 0 s)) ∧
      (oc.dead = false → par c 14 1 = 0 → exec (.windowSet q n) s = .next (finishCmd q n 0 0 { s with xt := { s.xt with windows := tdel s.xt.windows (par c 8 2) } })) ∧
      (oc.dead = false → par c 14 1 ≠ 0 → (∃ e ∈ es, winMapped s (par c 10 2) e = false) → exec (.windowSet q n) s = .next (finishCmd q n 0x0034 0 s)) ∧
      (oc.dead = false → par c 14 1 ≠ 0 → (∀ e ∈ es, winMapped s (par c 10 2) e = true) → exec (.windowSet q n) s = .next (
        if windowQuota s oc.slice ≤ sliceWindows s oc.slice (par c 8 2) then finishCmd q n 0x0077 0 s
        else finishCmd q n 0 0 { s with xt := { s.xt with windows := tput s.xt.windows (par c 8 2) ⟨par c 10 2, par c 12 2, es⟩ } }))) ∧
    (∀ s q n u c, Started s q n 0x020A u c →
      ((∀ w, tget? s.xt.windows (par c 0 2) = some w → w.owner ≠ c.ctx) → exec (.counterReset q n) s = .next (finishCmd q n 0x0015 0 s)) ∧
      (∀ w, tget? s.xt.windows (par c 0 2) = some w → w.owner = c.ctx → ∃ k, exec (.counterReset q n) s = .next (finishCmd q n 0 0 { s with xt := { s.xt with counters := k } }) ∧
        (∀ i < 16, tget 0 k (16 * par c 0 2 + i) = if bitOf (par c 2 2) i then 0 else tget 0 s.xt.counters (16 * par c 0 2 + i)) ∧
        ∀ j, j / 16 ≠ par c 0 2 → tget 0 k j = tget 0 s.xt.counters j))

/-- RECIPE_LOAD, RECIPE_CHECK, RECIPE_UNLOAD and LAUNCH: the checks, what is stored, and the launch that asks for placement. -/
def Obligations.RecipeAndLaunchCommands : Prop :=
  (∀ s q n u c x, Started s q n 0x0301 u c → ctxOf s c.ctx = some x → par c 8 4 ≠ 0 → par c 8 4 % 64 = 0 → par c 8 4 ≤ 67108864 →
      (256 ≤ x.recipes.length → exec (.recipeLoad q n) s = .next (finishCmd q n 0x0046 0 s)) ∧
      (x.recipes.length < 256 → ctxReadRefusal s c.ctx (par c 0 8) (par c 8 4) (.cmd q n) = none → ctxBusy s c.ctx (par c 0 8) (par c 8 4) = false →
        (∀ st o, recipeFault (ctxRead s c.ctx (par c 0 8) (par c 8 4)) (par c 8 4) = some (st, o) →
          exec (.recipeLoad q n) s = .next (finishCmd q n st o s)) ∧
        (recipeFault (ctxRead s c.ctx (par c 0 8) (par c 8 4)) (par c 8 4) = none → ∃ t i y, exec (.recipeLoad q n) s = .next t ∧ Replies t q n 0 i ∧
          1 ≤ i ∧ tget? x.recipes i = none ∧ (∀ j, 1 ≤ j → j < i → (tget? x.recipes j).isSome) ∧
          ctxOf t c.ctx = some { x with recipes := y } ∧ tget? y i = some s.sch.nextKey ∧ (∀ j, j ≠ i → tget? y j = tget? x.recipes j) ∧
          tget? t.sch.recipes s.sch.nextKey = some (parseRecipe c.ctx (ctxRead s c.ctx (par c 0 8) (par c 8 4))) ∧
          (∀ k, k ≠ s.sch.nextKey → tget? t.sch.recipes k = tget? s.sch.recipes k) ∧ t.sch.launches = s.sch.launches ∧ t.mem = s.mem))) ∧
    (∀ s q n u c k r, Started s q n 0x0302 u c → recipeOf s c.ctx (par c 0 2) = some (k, r) → 
      (∀ d, checkDeadlock r = some d → exec (.recipeCheck q n) s = .next (finishCmd q n 0x0050 d s)) ∧
      (∀ d, checkDeadlock r = none → checkRestOrder r = some d → exec (.recipeCheck q n) s = .next (finishCmd q n 0x0051 d s)) ∧
      (∀ d, checkDeadlock r = none → checkRestOrder r = none → checkLive r = some d → exec (.recipeCheck q n) s = .next (finishCmd q n 0x0052 d s)) ∧
      (∀ d, checkDeadlock r = none → checkRestOrder r = none → checkLive r = none → checkBound r = some d →
        exec (.recipeCheck q n) s = .next (finishCmd q n 0x0053 d s)) ∧
      (∀ d, checkDeadlock r = none → checkRestOrder r = none → checkLive r = none → checkBound r = none → checkShader r = some d →
        exec (.recipeCheck q n) s = .next (finishCmd q n 0x0054 d s)) ∧
      (checkDeadlock r = none → checkRestOrder r = none → checkLive r = none → checkBound r = none → checkShader r = none →
        exec (.recipeCheck q n) s = .next (finishCmd q n 1 0 { s with sch := { s.sch with recipes := tput s.sch.recipes k { r with checked := true } } }))) ∧
    (∀ s q n u c k r, Started s q n 0x0303 u c → recipeOf s c.ctx (par c 0 2) = some (k, r) →
      ((∃ e ∈ s.sch.launches, e.2.recipe = k) → exec (.recipeUnload q n) s = .next (finishCmd q n 0x0018 0 s)) ∧
      ((∀ e ∈ s.sch.launches, e.2.recipe ≠ k) → ∃ t, exec (.recipeUnload q n) s = .next t ∧ Replies t q n 0 0 ∧ recipeOf t c.ctx (par c 0 2) = none ∧
        tget? t.sch.recipes k = none ∧ (∀ j, j ≠ k → tget? t.sch.recipes j = tget? s.sch.recipes j) ∧
        (∀ i, i ≠ par c 0 2 → (ctxOf t c.ctx).bind (fun x => tget? x.recipes i) = (ctxOf s c.ctx).bind (fun x => tget? x.recipes i)) ∧
        t.mem = s.mem ∧ t.sch.launches = s.sch.launches)) ∧
    (∀ s q n u c k r, s.pwr.phase = .ready → tget? s.cmd.queues q = some u → u.num = q → u.cmds.find? (fun c => decide (c.seq = n)) = some c → c.op = 0x0304 →
      c.phase = .taken → launchOf s q n = none → recipeOf s c.ctx (par c 24 2) = some (k, r) →
      (par c 26 2 = 0 ∨ par c 8 8 % 64 ≠ 0 ∨ par c 28 1 = 1 ∨ 8 < par c 28 1 → exec (.launch q n) s = .next (finishCmd q n 0x0015 0 s)) ∧
      (par c 26 2 ≠ 0 → par c 8 8 % 64 = 0 → par c 28 1 ≠ 1 → par c 28 1 ≤ 8 →
        (recipePermitted s r (ctxSets s c.ctx) = false → exec (.launch q n) s = .next (finishCmd q n 0x0087 0 s)) ∧
        (recipePermitted s r (ctxSets s c.ctx) = true → ∀ l : Launch, l = { q := q, seq := n, ctx := c.ctx, slice := ctxSlice s c.ctx, recipe := k, recipeId := par c 24 2, d := (if par c 28 1 = 0 then 3 else par c 28 1), count := par c 26 2, plan := par c 0 8, hist := par c 8 8, telem := par c 16 8, homePart := u.homePart, noWait := bitOf c.flags 2, ph := .waiting, order := s.sch.order + 1, insts := [], saveGrans := saveAreaGrans r, victimOf := [] } →
          exec (.launch q n) s = .next (
            if lowestSlot r ≤ l.d then finishCmd q n 0x0043 0 s
            else if quotaGrans s l.slice < usedQuota s l.slice + saveAreaGrans r * par c 26 2 then finishCmd q n 0x0033 0 s
            else if everFits s l r = false then finishCmd q n 0x0047 0 s
            else if canPlace s l [] = true then { s with sch := { s.sch with launches := tput s.sch.launches s.sch.nextKey l, nextKey := s.sch.nextKey + 1, order := s.sch.order + 1 } }
            else if bitOf c.flags 2 then finishCmd q n 0x0047 0 s
            else seekVictims s.sch.nextKey (raiseService c.ctx { s with sch := { s.sch with launches := tput s.sch.launches s.sch.nextKey l, nextKey := s.sch.nextKey + 1, order := s.sch.order + 1 } })))))

/-- COPY, FILL, SEM_WAIT with its timeout, SEM_RELEASE and FLUSH: refusals, the bytes moved, and the requests sent. -/
def Obligations.CopyFillSemaphoreAndFlushCommands : Prop :=
  (∀ s q n u c, Started s q n 0x0401 u c → issueHeld s = false →
      (par c 16 8 % 64 ≠ 0 ∨ par c 16 8 < 64 ∨ 2 ^ 40 < par c 16 8 ∨ 3 < par c 24 1 ∨ ctxOf s c.ctx = none → exec (.copy q n) s = .next (finishCmd q n 0x0015 0 s)) ∧
      (par c 16 8 % 64 = 0 → 64 ≤ par c 16 8 → par c 16 8 ≤ 2 ^ 40 → par c 24 1 ≤ 3 → (ctxOf s c.ctx).isSome →
        (bitOf (par c 24 1) 0 = false → ∀ st, ctxReadRefusal s c.ctx (par c 0 8) (par c 16 8) (.cmd q n) = some st → st ≠ 0x3A → exec (.copy q n) s = .next (finishCmd q n st 0 s)) ∧
        (bitOf (par c 24 1) 0 = true → bitOf (par c 24 1) 1 = false → ∀ st, ctxWriteRefusal s c.ctx (par c 8 8) (par c 16 8) (decide (u.slice = 0)) (.cmd q n) = some st →
          exec (.copy q n) s = .next (finishCmd q n st 0 s)) ∧
        (∀ data bad st, copyCmdAhead s c = false → (bitOf (par c 24 1) 0 = true ∨ ((ctxReadRefusal s c.ctx (par c 0 8) (par c 16 8) (.cmd q n) = none ∨ ctxReadRefusal s c.ctx (par c 0 8) (par c 16 8) (.cmd q n) = some 0x3A) ∧ ctxBusy s c.ctx (par c 0 8) (par c 16 8) = false)) →
          data = (if bitOf (par c 24 1) 0 = true then hostRead s u.pasid (par c 0 8) (par c 16 8) else copySource s c.ctx (par c 0 8) (par c 16 8) (bitOf (par c 24 1) 1)) →
          bad = (if bitOf (par c 24 1) 0 = true then [] else poisonOffsets s c.ctx (par c 0 8) (par c 16 8)) →
          st = (if bitOf (par c 24 1) 0 = false ∧ (bad ≠ [] ∨ touchesSealed s c.ctx (par c 0 8) (par c 16 8) = true) then 0x3A else 0) →
          (bitOf (par c 24 1) 1 = true → ∃ t, exec (.copy q n) s = .next t ∧ Replies t q n st 0 ∧ t.mem = s.mem ∧ t.home = s.home ∧
            (HostMem.wf s.host = true → ∀ i < par c 16 8, hostByte t (hkey u.pasid (par c 8 8 + i)) = nth 0 data i)) ∧
          (bitOf (par c 24 1) 1 = false → ctxWriteRefusal s c.ctx (par c 8 8) (par c 16 8) (decide (u.slice = 0)) (.cmd q n) = none →
            exec (.copy q n) s = .next (markBound q n (finishCmd q n st 0 (poisonDest c.ctx (par c 8 8) bad (ctxWrite c.ctx (par c 8 8) data (.cmd q n) s)))))))) ∧
    (∀ s q n u c, Started s q n 0x0402 u c → issueHeld s = false →
      (par c 8 8 % 64 ≠ 0 ∨ par c 8 8 < 64 ∨ 2 ^ 40 < par c 8 8 ∨ 1 < par c 24 1 ∨ ctxOf s c.ctx = none → exec (.fillCommand q n) s = .next (finishCmd q n 0x0015 0 s)) ∧
      (par c 8 8 % 64 = 0 → 64 ≤ par c 8 8 → par c 8 8 ≤ 2 ^ 40 → (ctxOf s c.ctx).isSome → copyCmdAhead s c = false →
        (par c 24 1 = 1 → ∃ t, exec (.fillCommand q n) s = .next t ∧ Replies t q n 0 0 ∧ t.mem = s.mem ∧ t.home = s.home ∧
          (HostMem.wf s.host = true → ∀ i < par c 8 8, hostByte t (hkey u.pasid (par c 0 8 + i)) = nth 0 (leBytes 8 (par c 16 8)) (i % 8))) ∧
        (par c 24 1 = 0 →
          (∀ st, ctxWriteRefusal s c.ctx (par c 0 8) (par c 8 8) false (.cmd q n) = some st → exec (.fillCommand q n) s = .next (finishCmd q n st 0 s)) ∧
          (ctxWriteRefusal s c.ctx (par c 0 8) (par c 8 8) false (.cmd q n) = none → ∃ d, d.length = par c 8 8 ∧ (∀ i < par c 8 8, nth 0 d i = nth 0 (leBytes 8 (par c 16 8)) (i % 8)) ∧
            exec (.fillCommand q n) s = .next (markBound q n (finishCmd q n 0 0 (ctxWrite c.ctx (par c 0 8) d (.cmd q n) s))))))) ∧
    (∀ s q n u c, Started s q n 0x0501 u c → cmdAsked s q n = false →
      (par c 0 8 % 8 ≠ 0 ∨ ctxOf s c.ctx = none → exec (.semWaitCommand q n) s = .next (finishCmd q n 0x0015 0 s)) ∧
      (par c 0 8 % 8 = 0 → (ctxOf s c.ctx).isSome →
        (inCounters (par c 0 8) = true → counterOwned s c.ctx (par c 0 8) = false → exec (.semWaitCommand q n) s = .next (finishCmd q n 0x0015 0 s)) ∧
        (∀ w k r, inCounters (par c 0 8) = true → counterOwned s c.ctx (par c 0 8) = true → (w, k) = counterAt (par c 0 8) → r = counterReq (par c 0 8) c.ctx (.cmd q n) →
          (signedOf 64 (par c 8 8) ≤ signedOf 64 (counterVal s w k) → exec (.semWaitCommand q n) s = .next { s with home := { s.home with net := s.home.net ++ [.semOk r 0] } }) ∧
          (signedOf 64 (counterVal s w k) < signedOf 64 (par c 8 8) → (tget [] s.home.waiters (counterUnit w)).length < 1024 → ∃ ws,
            exec (.semWaitCommand q n) s = .next { s with home := { s.home with waiters := ws } } ∧ tget [] ws (counterUnit w) = tget [] s.home.waiters (counterUnit w) ++ [⟨r, 8 * k, par c 8 8⟩] ∧
            ∀ j, j ≠ counterUnit w → tget [] ws j = tget [] s.home.waiters j) ∧
          (signedOf 64 (counterVal s w k) < signedOf 64 (par c 8 8) → 1024 ≤ (tget [] s.home.waiters (counterUnit w)).length →
            exec (.semWaitCommand q n) s = .next { s with home := { s.home with net := s.home.net ++ [.semRetry r (8 * k) (par c 8 8)] } })) ∧
        (inCounters (par c 0 8) = false →
          (translate s c.ctx (par c 0 8) = none → exec (.semWaitCommand q n) s = .next (finishCmd q n 0x0034 0 s)) ∧
          (∀ p, translate s c.ctx (par c 0 8) = some p →
            (homeAnswers s p.stack (.cmd q n) = false → exec (.semWaitCommand q n) s = .next (finishCmd q n 0x0039 0 s)) ∧
            (homeAnswers s p.stack (.cmd q n) = true → exec (.semWaitCommand q n) s = .next (homeRequest (.semWait ⟨p.stack, p.line, c.ctx, p.handle, .cmd q n⟩ p.off (par c 8 8)) s)))))) ∧
    (∀ s q n u c, Started s q n 0x0501 u c →
      (par c 16 4 = 0 ∨ refOf s (cplxDie u.cplx) - c.startAt < par c 16 4 * 25000 → exec (.semWaitTimeout q n) s = .next s) ∧
      (par c 16 4 ≠ 0 → par c 16 4 * 25000 ≤ refOf s (cplxDie u.cplx) - c.startAt → ∃ t, exec (.semWaitTimeout q n) s = .next t ∧ Replies t q n 0x0019 0 ∧
        (∀ k, tget [] t.home.waiters k = (tget [] s.home.waiters k).filter (fun w => !decide (w.r.who = .cmd q n))) ∧
        (∀ h ∈ t.home.later, (reqOf h.1).who ≠ .cmd q n) ∧ t.mem = s.mem ∧ t.ten = s.ten ∧ t.sch = s.sch)) ∧
    (∀ s q n u c, Started s q n 0x0502 u c → cmdAsked s q n = false →
      (par c 0 8 % 8 ≠ 0 ∨ 3 < par c 16 1 ∨ ctxOf s c.ctx = none → exec (.semReleaseCommand q n) s = .next (finishCmd q n 0x0015 0 s)) ∧
      (∀ st, par c 0 8 % 8 = 0 → par c 16 1 ≤ 3 → (ctxOf s c.ctx).isSome → ctxWriteRefusal s c.ctx (par c 0 8) 8 false (.cmd q n) = some st →
        exec (.semReleaseCommand q n) s = .next (finishCmd q n (if st = 0x38 then 0x15 else st) 0 s)) ∧
      (∀ p, par c 0 8 % 8 = 0 → par c 16 1 ≤ 3 → (ctxOf s c.ctx).isSome → ctxWriteRefusal s c.ctx (par c 0 8) 8 false (.cmd q n) = none → translate s c.ctx (par c 0 8) = some p →
        exec (.semReleaseCommand q n) s = .next (homeRequest (semAddReq p.stack p.line p.off c.ctx p.handle (par c 8 8) (.cmd q n)) s))) ∧
    (∀ s q n u c, Started s q n 0x0601 u c → ∃ t, exec (.flush q n) s = .next t ∧ Replies t q n 0 0 ∧ t.mem = s.mem ∧ t.home = s.home ∧ ∀ k,
      (hkey u.pasid (par c 0 8) ≤ k ∧ k < hkey u.pasid (par c 0 8) + par c 8 8 → tget? t.host.dirty k = none ∧
        ((tget? s.host.dirty k).isSome → (k, tget 0 t.host.mem k) ∈ s.host.dirty) ∧ (tget? s.host.dirty k = none → tget 0 t.host.mem k = tget 0 s.host.mem k)) ∧
      (¬ (hkey u.pasid (par c 0 8) ≤ k ∧ k < hkey u.pasid (par c 0 8) + par c 8 8) → tget? t.host.dirty k = tget? s.host.dirty k ∧ tget 0 t.host.mem k = tget 0 s.host.mem k))

/-- BUDGET_SET, CAP_SET, MODE_SET, ENERGY_READ and CLOCK_CORR: every range check, and what each stores or writes. -/
def Obligations.PlannerEnergyAndClockCommands : Prop :=
  (∀ s q n u c, Started s q n 0x0702 u c →
      exec (.capSet q n) s = .next (
        if par c 0 2 < 1500 ∨ 4400 < par c 0 2 then finishCmd q n 0x0060 0 s
        else if s.pwr.brake then finishCmd q n 0 0 { s with pwr := { s.pwr with capStored := some (par c 0 2) } }
        else finishCmd q n 0 0 { s with pwr := { s.pwr with cap := par c 0 2 } })) ∧
    (∀ s q n u c, Started s q n 0x0703 u c →
      exec (.modeSet q n) s = .next (
        if 1 < par c 0 1 then finishCmd q n 0x0015 0 s
        else finishCmd q n 0 0 { s with pwr := { s.pwr with modeSel := par c 0 1 } })) ∧
    (∀ s q n u c, Started s q n 0x0701 u c →
      (404000 < par c 0 4 ∨ par c 4 2 = 0 ∨ 127 < par c 4 2 ∨ 1024 ≤ par c 6 2 → exec (.budgetSet q n) s = .next (finishCmd q n 0x0015 0 s)) ∧
      (par c 0 4 ≤ 404000 → par c 4 2 ≠ 0 → par c 4 2 ≤ 127 → par c 6 2 < 1024 → (tget? s.ten.slices (par c 4 2)).isSome →
        ∃ g, exec (.budgetSet q n) s = .next (finishCmd q n 0 0 { s with pwr := { s.pwr with grants := g } }) ∧
          ∀ k, tget? g k = if k / 16 = par c 4 2 ∧ k % 16 < 10 ∧ bitOf (par c 6 2) (k % 16) = true then some (par c 0 4)
            else tget? s.pwr.grants k)) ∧
    (∀ s q n u c, Started s q n 0x0C02 u c →
      (2 < par c 8 1 → exec (.energyRead q n) s = .next (finishCmd q n 0x0015 0 s)) ∧
      (par c 8 1 = 0 → ∃ r, exec (.energyRead q n) s = .next (finishCmd q n 0 80 (hostWrite u.pasid (par c 0 8) r s)) ∧ r.length = 80 ∧
        field r 0 4 = 0x0C0B ∧ field r 4 2 = 1 ∧ field r 64 2 = c.ctx % 65536 ∧ field r 66 1 = 0 ∧ field r 72 8 = tget 0 s.pwr.eCtx c.ctx % 2 ^ 64) ∧
      (∀ l, par c 8 1 = 1 → l = s.cmd.queues.filter (fun e => decide (e.2.slice = u.slice)) → ∃ r,
        exec (.energyRead q n) s = .next (finishCmd q n 0 (64 + 16 * l.length) (hostWrite u.pasid (par c 0 8) r s)) ∧ r.length = 64 + 16 * l.length ∧
        field r 0 4 = 0x0C0B ∧ field r 4 2 = l.length % 65536 ∧
        (∀ i e, l[i]? = some e → field r (64 + 16 * i) 2 = e.1 % 65536 ∧ field r (66 + 16 * i) 1 = 1 ∧ field r (72 + 16 * i) 8 = tget 0 s.pwr.eQueue e.1 % 2 ^ 64)) ∧
      (par c 8 1 = 2 → u.slice ≠ 0 → exec (.energyRead q n) s = .next (finishCmd q n 0x0016 0 s)) ∧
      (par c 8 1 = 2 → u.slice = 0 → ∃ r, exec (.energyRead q n) s = .next (finishCmd q n 0 256 (hostWrite u.pasid (par c 0 8) r s)) ∧ r.length = 256 ∧
        field r 0 4 = 0x0C0B ∧ field r 4 2 = 12 ∧ field r 6 1 = cplxDie u.cplx ∧ field r 8 8 = refOf s (cplxDie u.cplx) % 2 ^ 64 ∧
        (∀ p < 10, field r (72 + 16 * p) 8 = tget 0 s.pwr.ePart p % 2 ^ 64) ∧
        field r 232 8 = s.pwr.ePort % 2 ^ 64 ∧ field r 248 8 = s.pwr.eIn % 2 ^ 64)) ∧
    (∀ s q n l u c, Started s q n 0x0C01 u c →
      (s.clk.marker = none → exec (.clockCorr q n l) s = .next { s with clk := { s.clk with marker := some s.clk.ref, corrWait := [(q, n)], corrNext := [] } }) ∧
      (∀ m, s.clk.marker = some m → (q, n) ∉ s.clk.corrWait ++ s.clk.corrNext →
        exec (.clockCorr q n l) s = .next { s with clk := { s.clk with corrNext := s.clk.corrNext ++ [(q, n)] } }) ∧
      (∀ m, s.clk.marker = some m → s.clk.corrWait = [(q, n)] → s.clk.corrNext = [] → ∃ t r, exec (.clockCorr q n l) s = .next t ∧
        Replies t q n 0 s.clk.corrSeq ∧ t.clk = { s.clk with record := r, corrSeq := s.clk.corrSeq + 1, marker := none, corrWait := [] } ∧ t.mem = s.mem ∧
        r.length = 576 ∧ field r 0 4 = 0x0C01 ∧ field r 4 4 = s.clk.corrSeq % 2 ^ 32 ∧ field r 8 8 = tget 0 m pd0 % 2 ^ 64 ∧
        (∀ i < 32, field r (64 + 16 * i) 1 = nth 0 allDies i ∧ field r (66 + 16 * i) 1 = corrState s (nth 0 allDies i) ∧
          field r (68 + 16 * i) 2 ≤ 120 ∧ (corrState s (nth 0 allDies i) = 0 → field r (72 + 16 * i) 8 = tget 0 m (nth 0 allDies i) % 2 ^ 64))))

/-- CAL_READ and CAL_WRITE: what is refused, and that a valid set is stored, counted, and takes effect later. -/
def Obligations.CalibrationCommands : Prop :=
  (∀ s q n u c, Started s q n 0x0B01 u c → exec (.calRead q n) s = .next (
      if s.pwr.calDefault then finishCmd q n 0x0061 0 s
      else if par c 8 4 < 77824 then finishCmd q n 0x0015 0 s
      else finishCmd q n 0 77824 (hostWrite u.pasid (par c 0 8) (storedSet s) s))) ∧
    (∀ s q n u c, Started s q n 0x0B02 u c →
      (10000 ≤ s.pwr.writes → exec (.calWrite q n) s = .next (finishCmd q n 0x0062 0 s)) ∧
      (s.pwr.writes < 10000 → par c 8 4 ≠ 77824 → exec (.calWrite q n) s = .next (finishCmd q n 0x0061 0 s)) ∧
      (s.pwr.writes < 10000 → par c 8 4 = 77824 → ∃ t, exec (.calWrite q n) s = .next t ∧
        (calValid (hostRead s u.pasid (par c 0 8) 77824) = false → t = finishCmd q n 0x0061 0 s) ∧
        (calValid (hostRead s u.pasid (par c 0 8) 77824) = true → Replies t q n 0 0 ∧
          t.pwr.writes = s.pwr.writes + 1 ∧ t.pwr.cal = s.pwr.cal ∧ Raised s t pd0 0x0037 0 0 (s.pwr.writes + 1) 0 0 ∧
          (∃ w, t.pwr.calNext = some w ∧ w.length = 77824 ∧ w[6]? = some 1 ∧ ∀ i, i ≠ 6 → w[i]? = (hostRead s u.pasid (par c 0 8) 77824)[i]?)) ∧
        t.mem = s.mem ∧ t.host = s.host ∧ t.pwr.cap = s.pwr.cap))

/-- SLICE_CREATE, SLICE_RESIZE, SLICE_DESTROY, SLICE_PASID and DIRTY_LOG: what each makes, changes and takes away. -/
def Obligations.SliceCommandsTakeEffect : Prop :=
  (∀ s q n u c k r, Started s q n 0x0801 u c → k = par c 16 2 → r = hostRead s u.pasid (par c 0 8) 512 → k ≤ 127 → par c 8 8 % 4096 = 0 →
      sliceThere s k = false → quotaOk r k = true → quotaTaken s r k = false → quotaOver s r k = false → quotaAbsent s r = false →
      exec (.sliceCreate q n) s = .next (finishCmd q n 0 0 (hostPost none (par c 8 8) (pageInit k r) { s with
        ten := { s.ten with slices := tput s.ten.slices k (sliceOf r (par c 8 8)) },
        sec := { s.sec with keys := insKey k s.sec.keys } }))) ∧
    (∀ s q n u c k r sl, Started s q n 0x0802 u c → k = par c 8 2 → r = hostRead s u.pasid (par c 0 8) 512 → 1 ≤ k → k ≤ 127 →
      tget? s.ten.slices k = some sl → sl.resizing = none → quotaOk r k = true → quotaTaken s r k = false → quotaOver s r k = false →
      quotaInUse s r k = false → sliceBusy s k q n = false → quotaAbsent s r = false →
      holdsLeaving s ((maskStns sl.stations).filter (fun m => decide (m ∉ maskStns (qStations r)))) = [] →
      ∃ t sl', exec (.sliceResize q n) s = .next t ∧ Replies t q n 0 0 ∧ tget? t.ten.slices k = some sl' ∧ sl'.record = r ∧
        sl'.stations = qStations r ∧ sl'.memMib = field r 24 8 ∧ sl'.contexts = field r 14 2 ∧ sl'.leaving = [] ∧ sl'.resizing = none ∧
        sl'.page = sl.page ∧ sl'.evHead = sl.evHead ∧ (∀ j, j ≠ k → tget? t.ten.slices j = tget? s.ten.slices j) ∧ t.xt = s.xt ∧ t.mem = s.mem) ∧
    (∀ s q n u c k, Started s q n 0x0803 u c → k = par c 0 2 → 1 ≤ k → k ≤ 127 → (tget? s.ten.slices k).isSome → sliceUsed s k = false →
      sliceCtxs s k = [] → u.slice ≠ k → (∀ e ∈ s.cmd.queues, e.2.slice = k → e.2.cmds = [] ∧ e.2.stopSeq = none) →
      ∃ t, exec (.sliceDestroy q n) s = .next t ∧ Replies t q n 0 0 ∧ tget? t.ten.slices k = none ∧ k ∉ t.sec.keys ∧
        (∀ e ∈ t.cmd.queues, e.2.slice ≠ k) ∧ (∀ e ∈ t.ten.pasids, e.2 ≠ k) ∧ (∀ e ∈ t.sec.sets, e.2.slice ≠ k) ∧
        t.xt = s.xt ∧ t.mem = s.mem) ∧
    (∀ s q n u c, Started s q n 0x0804 u c → 1 ≤ par c 4 2 → par c 4 2 ≤ 127 → par c 0 4 < 2 ^ 20 → (tget? s.ten.slices (par c 4 2)).isSome →
      (par c 6 1 = 0 → tget? s.ten.pasids (par c 0 4) = none →
        (s.ten.pasids.filter (fun e => decide (e.2 = par c 4 2))).length < 16 → s.ten.pasids.length < 1024 →
        exec (.slicePasid q n) s = .next (finishCmd q n 0 0 { s with
          ten := { s.ten with pasids := tput s.ten.pasids (par c 0 4) (par c 4 2) } })) ∧
      (par c 6 1 = 1 → tget? s.ten.pasids (par c 0 4) = some (par c 4 2) → (∀ e ∈ s.cmd.queues, e.2.pasid ≠ some (par c 0 4)) →
        exec (.slicePasid q n) s = .next (finishCmd q n 0 0 { s with ten := { s.ten with pasids := tdel s.ten.pasids (par c 0 4) } }))) ∧
    (∀ s q n u c k sl, Started s q n 0x0805 u c → k = par c 16 2 → par c 0 8 % 4096 = 0 → 1 ≤ k → k ≤ 127 → tget? s.ten.slices k = some sl →
      (par c 18 1 = 1 → exec (.dirtyLog q n) s = .next (finishCmd q n 0 0 (hostWrite u.pasid (par c 8 8 + 4) (zeros 5) (putSlice k
        { sl with dirtyOn := true, dirty := sliceGrans s k, hostlog := [], hostlogOver := false } s)))) ∧
      (par c 18 1 = 0 → exec (.dirtyLog q n) s = .next (finishCmd q n 0 0 (putSlice k { sl with dirtyOn := false } s))) ∧
      (par c 18 1 = 2 → ∃ t, exec (.dirtyLog q n) s = .next t ∧ Replies t q n 0 (sl.dirty.length - 65536) ∧
        (∃ x, tget? t.ten.slices k = some x ∧ x.dirty = sl.dirty.drop 65536 ∧ x.hostlog = [])))

/-- SPDM, SET_KEY, SET_DESTROY, BUNDLE_IMPORT, RESET, CRUMB_READ and CRASH_BUFFER_SET: their checks and effects. -/
def Obligations.SecurityAndResetCommands : Prop :=
  (∀ s q n u c r, Started s q n 0x0901 u c → r = spdmAnswer s (hostRead s u.pasid (par c 0 8) (par c 16 4)) →
      exec (.spdm q n) s = .next (
        if par c 16 4 < 4 ∨ r = [] ∨ par c 20 4 < r.length then finishCmd q n 0x0089 0 s
        else finishCmd q n 0 r.length (hostWrite u.pasid (par c 8 8) r
          { s with sec := { s.sec with spdmLog := s.sec.spdmLog ++ [hostRead s u.pasid (par c 0 8) (par c 16 4)], spdmOut := r } }))) ∧
    (∀ s q n u c, Started s q n 0x0902 u c →
      (s.sec.unlocked = true → exec (.setKey q n) s = .next (finishCmd q n 0x0088 0 s)) ∧
      (s.sec.unlocked = false → 1 ≤ par c 16 2 → par c 16 2 ≤ 255 → setMsgOk (hostRead s u.pasid (par c 0 8) 1048) = false →
        exec (.setKey q n) s = .next (finishCmd q n 0x0082 0 s)) ∧
      (∀ m, m = hostRead s u.pasid (par c 0 8) 1048 → s.sec.unlocked = false → 1 ≤ par c 16 2 → par c 16 2 ≤ 255 → setMsgOk m = true →
        ∃ t, exec (.setKey q n) s = .next t ∧
        match Config.setKey m with
        | none => t = finishCmd q n 0x0082 0 s
        | some key => if (tget? s.sec.sets (par c 16 2)).isSome then t = finishCmd q n 0x0080 0 s
          else Replies t q n 0 0 ∧ t.mem = s.mem ∧ ∃ x, tget? t.sec.sets (par c 16 2) = some x ∧ x.key = key ∧ x.slice = u.slice ∧
            x.setId = (m.drop 8).take 16 ∧ x.listHash = (m.drop 24).take 48 ∧ x.recipes.length = field m 6 1 ∧
            ∀ j, j ≠ par c 16 2 → tget? t.sec.sets j = tget? s.sec.sets j)) ∧
    (∀ s q n u c, Started s q n 0x0903 u c → issueHeld s = false →
      (setOwned s u.slice (par c 12 2) = none → exec (.bundleImport q n) s = .next (finishCmd q n 0x0081 0 s)) ∧
      (∀ x m y num e a h cnt off len list, setOwned s u.slice (par c 12 2) = some x → a = par c 0 8 → findMap s c.ctx a = some (m, y) → h = ctxRead s c.ctx a 256 →
        cnt = field h 72 2 → off = field h 80 8 → len = field h 88 8 → list = ctxRead s c.ctx (a + 256) (48 * cnt) → 1 ≤ cnt → cnt ≤ 4096 →
        256 ≤ m.start + y.length - a → bundleHead cnt + len ≤ m.start + y.length - a → ctxReadRefusal s c.ctx a 256 (.cmd q n) = none →
        ctxReadRefusal s c.ctx a (bundleHead cnt + len) (.cmd q n) = none → ctxBusy s c.ctx a (min (m.start + y.length - a) (bundleHead cnt + len)) = false →
        cmdExtent s (par c 8 4) = some (num, e) → attrSealed e.attr = true → e.sealSet = par c 12 2 → off + len ≤ e.length → (∀ g ∈ rangeGrans off len, g ∉ e.loaded) →
        rangeDown s e off len = false → ∃ t, exec (.bundleImport q n) s = .next t ∧
          if bundleOk x h list = false then Replies t q n 0x0083 0 ∧ t.mem = s.mem
          else if listHas list cnt = false then Replies t q n 0x0084 0 ∧ t.mem = s.mem
          else match Config.unwrap x.key ((h.drop 112).take 40) with
            | none => Replies t q n 0x0085 0 ∧ t.mem = s.mem
            | some key => match Config.gcm key ((h.drop 96).take 12) (h.take 160 ++ list) (ctxRead s c.ctx (a + bundleHead cnt) len) ((h.drop 160).take 16) with
              | none => Replies t q n 0x0085 0 ∧ t.mem = (putPayload e off (zeros len) s).mem ∧ t.cmd.evq.length = s.cmd.evq.length + 1
              | some plain => Replies t q n 0 0 ∧ t.mem = (putPayload e off plain s).mem ∧ ∀ z, tget? (putPayload e off plain s).xt.extents num = some z →
                  ∃ w, tget? t.xt.extents num = some w ∧ (∀ g, g ∈ w.loaded ↔ g ∈ z.loaded ∨ g ∈ rangeGrans off len) ∧ w.length = z.length ∧ w.attr = z.attr)) ∧
    (∀ s q n u c x, Started s q n 0x0904 u c → tget? s.sec.sets (par c 0 2) = some x → x.slice = u.slice → setExtents s (par c 0 2) = [] →
      (∀ e ∈ s.xt.freeing, e.2.2 ≠ u.slice) →
      exec (.setDestroy q n) s = .next (finishCmd q n 0 0 { s with sec := { s.sec with sets := tdel s.sec.sets (par c 0 2) } })) ∧
    (∀ s q n u c, Started s q n 0x0A01 u c →
      (par c 2 1 = 0 ∨ 5 < par c 2 1 → exec (.reset q n) s = .next (finishCmd q n 0x0015 0 s)) ∧
      (par c 2 1 = 2 → stnOfId (par c 0 2) = none → exec (.reset q n) s = .next (finishCmd q n 0x0045 0 s)) ∧
      (1 ≤ par c 2 1 → par c 2 1 ≤ 5 → (par c 2 1 = 2 → stnOfId (par c 0 2) ≠ none) → resetTarget s (par c 2 1) (par c 0 2) = false →
        exec (.reset q n) s = .next (finishCmd q n 0x0090 0 s)) ∧
      (1 ≤ par c 2 1 → par c 2 1 ≤ 5 → resetTarget s (par c 2 1) (par c 0 2) = true → s.err.rungs = [] →
        (∀ x, par c 2 1 = 1 → ctxOf s (par c 0 2) = some x → x.dead = true → exec (.reset q n) s = .next (finishCmd q n 0 1 s)) ∧
        ((par c 2 1 = 1 → ∃ x, ctxOf s (par c 0 2) = some x ∧ x.dead = false) →
        ∃ t, exec (.reset q n) s = .next t ∧ RungSet s t (par c 2 1) (par c 0 2) 0 [(q, n)] ∧
          Raised s t (rungDie s (par c 2 1) (par c 0 2)) 0x004B (if par c 2 1 = 1 then par c 0 2 else 0) 0 (par c 2 1) (par c 0 2) 0 ∧
          t.mem = s.mem ∧ t.ten = s.ten ∧ t.sch = s.sch))) ∧
    (∀ s q n u c, Started s q n 0x0A02 u c →
      (s.err.region = [] → exec (.crumbRead q n) s = .next (finishCmd q n 0x0091 0 s)) ∧
      (∀ a r, s.err.region = a :: r → par c 8 4 < a.length → exec (.crumbRead q n) s = .next (finishCmd q n 0x0015 0 s)) ∧
      (∀ a r, s.err.region = a :: r → a.length ≤ par c 8 4 → ∃ k, 1 ≤ k ∧ (s.err.region.take k).flatten.length ≤ par c 8 4 ∧
        (∀ b, s.err.region[k]? = some b → par c 8 4 < (s.err.region.take k).flatten.length + b.length) ∧
        exec (.crumbRead q n) s = .next (finishCmd q n 0 (s.err.region.take k).flatten.length
          (hostWrite u.pasid (par c 0 8) (s.err.region.take k).flatten { s with err := { s.err with region := s.err.region.drop k } })))) ∧
    (∀ s q n u c, Started s q n 0x0A03 u c → exec (.crashBufferSet q n) s =
      .next (finishCmd q n 0 0 { s with err := { s.err with bufBase := par c 0 8, bufSize := par c 8 4, bufUsed := 0 } }))

/-- Service counts, time slices, overrun and placement: what each event changes, and when it changes nothing. -/
def Obligations.SchedulingEvents : Prop :=
  (∀ s k, s.pwr.phase = .ready → ∃ t, exec (.serviceTick k) s = .next t ∧ t = { s with ten := { s.ten with ctxs := t.ten.ctxs } } ∧
      ∀ c x, s.ten.ctxs.filter (fun e => decide (e.1 = c)) = [(c, x)] → tget? t.ten.ctxs c = some (if x.cplx = k ∧ x.dead = false then { x with
          service := (x.service + (x.carry + heldStations s c * 10000) / x.weight) % 2 ^ 64, carry := (x.carry + heldStations s c * 10000) % x.weight,
          sliceAt := (if heldStations s c = 0 then none else x.sliceAt),
          overrun := (if (batchOpen s c || s.pwr.brake || s.pin.trayStop) = true then x.overrun else x.overrun.map (· + 1)) } else x)) ∧
    (∀ s c x b, s.pwr.phase = .ready → ctxOf s c = some x → x.sliceAt = some b →
      (x.sliceEnded = true ∨ refOf s (ctxDie s c) - b < max 1000 (tsliceMs s x.slice * 1000 - x.debit) * 25 → exec (.timeSliceEnd c) s = .next s) ∧
      (x.sliceEnded = false → max 1000 (tsliceMs s x.slice * 1000 - x.debit) * 25 ≤ refOf s (ctxDie s c) - b →
        (∀ e ∈ s.sch.launches, waits e.2 = true → ¬ (e.2.slice = x.slice ∧ e.2.ctx ≠ c ∧ ctxClass s e.2.ctx = ctxClass s c ∧ ctxService s e.2.ctx < x.service)) →
        ∃ t, exec (.timeSliceEnd c) s = .next t ∧ t = { s with ten := { s.ten with ctxs := t.ten.ctxs } } ∧
          ctxOf t c = some { x with debit := x.debit - (tsliceMs s x.slice * 1000 - max 1000 (tsliceMs s x.slice * 1000 - x.debit)), sliceEnded := false, sliceAt := some (refOf s (ctxDie s c)) } ∧
          ∀ j, j ≠ c → ctxOf t j = ctxOf s j) ∧
      (∀ s1 e vs v l, x.sliceEnded = false → max 1000 (tsliceMs s x.slice * 1000 - x.debit) * 25 ≤ refOf s (ctxDie s c) - b →
        s1 = setCtx c (fun x => { x with sliceEnded := true, debit := x.debit - (tsliceMs s x.slice * 1000 - max 1000 (tsliceMs s x.slice * 1000 - x.debit)) }) s →
        e ∈ s.sch.launches → waits e.2 = true → e.2.slice = x.slice → e.2.ctx ≠ c → ctxClass s e.2.ctx = ctxClass s c → ctxService s e.2.ctx < x.service →
        chooseVictims s1 e.2 = some vs → v ∈ vs → tget? s.sch.launches v = some l → l.ctx = c →
        ∃ t y, exec (.timeSliceEnd c) s = .next t ∧ ctxOf t c = some y ∧ y.sliceEnded = true ∧ t.mem = s.mem)) ∧
    (∀ s c x us, s.pwr.phase = .ready → ctxOf s c = some x → x.overrun = some us →
      (us ≤ graceMs s x.slice * 1000 ∨ x.dead = true ∨ s.pwr.brake = true → exec (.overrunKill c) s = .next s) ∧
      (graceMs s x.slice * 1000 < us → x.dead = false → s.pwr.brake = false → c ≠ 0 → s.err.rungs = [] → ∃ t, exec (.overrunKill c) s = .next t ∧
        t.cmd.evq = s.cmd.evq ++ [⟨eventBytes (ctxDie s c) 0x0010 (refOf s (ctxDie s c)) c x.slice us (graceMs s x.slice * 1000) 0, none⟩,
          ⟨eventBytes (ctxDie s c) 0x004B (refOf s (ctxDie s c)) c 0 1 c 1, none⟩] ∧ RungSet s t 1 c 1 [] ∧ t.mem = s.mem ∧ t.sch = s.sch ∧ t.ten = s.ten)) ∧
    (∀ s k l r h, s.pwr.phase = .ready → tget? s.sch.launches k = some l → tget? s.sch.recipes l.recipe = some r →
      (waits l = false ∨ damageHeld s l.ctx = true ∨ canPlace s l [] = false ∨
        (∃ e ∈ s.sch.launches, e.1 ≠ k ∧ waits e.2 = true ∧ before s e.2 l = true ∧ canPlace s e.2 [] = true ∧ damageHeld s e.2.ctx = false) →
        exec (.placement k h) s = .next s) ∧
      (waits l = true → damageHeld s l.ctx = false →
        (∀ e ∈ s.sch.launches, e.1 ≠ k → waits e.2 = true → before s e.2 l = true → canPlace s e.2 [] = true → damageHeld s e.2.ctx = true) →
        (∀ os, l.ph = .waiting → l.plan = 0 → placeFor s l r [] = some os → r.footW ≤ 14 → r.footH ≤ 12 → (∀ e ∈ r.stations, e.fx < r.footW ∧ e.fy < r.footH) →
          (r.stations.map (fun e => (e.fx, e.fy))).Nodup → ∃ t l', exec (.placement k h) s = .next t ∧ os.length = l.count ∧ tget? t.sch.launches k = some l' ∧
            l'.ph = .placed ∧ l'.insts.map (fun i => (i.part, i.y, i.x)) = os ∧ (∀ i ∈ l'.insts, i.ph = .running ∧ i.placed = true) ∧ t.mem = s.mem ∧
            (∀ i o ci e, os[i]? = some o → r.stations[ci]? = some e → ∃ x, tget? t.sch.stns (stnAt o.1 (o.2.1 + e.fy) (o.2.2 + e.fx)) = some x ∧
              x.launch = k ∧ x.inst = i ∧ x.cell = ci ∧ x.ctx = l.ctx ∧ x.kind = e.kind ∧ x.descs = e.descs ∧ x.next = 0 ∧ x.works = [] ∧ x.ls = [] ∧ x.bound = r.startBound)) ∧
        (l.ph = .preempted → oldInSlice s l r = true → oldFree s l r [] = true → ∃ t l', exec (.placement k h) s = .next t ∧ tget? t.sch.launches k = some l' ∧
          l'.ph = .running ∧ t.mem = s.mem ∧ (∀ (i : Nat) (y : Inst), l.insts[i]? = some y → l'.insts[i]? = some (if y.ph = .complete then y else { y with ph := .restoring, placed := true })))))

/-- Rest points, saving, restoring and completing: which stations go on, what is kept, and when a launch replies. -/
def Obligations.RestPointsSavingAndCompletion : Prop :=
  (∀ s k i l x, s.pwr.phase = .ready → tget? s.sch.launches k = some l → instOf s k i = some x → (x.ph = .running ∨ x.ph = .resting) → l.ph ≠ .placed → copiesDone s k i = true → ctxStopping s l.ctx = false →
      (allMarked s k i = none → exec (.restPointReached k i) s = .next s) ∧
      (∀ id r, allMarked s k i = some id → tget? s.sch.recipes l.recipe = some r →
        (∀ st n y, fullStream x = some st → (instStns s k i).find? (fun e => decide (some e.2.cell = (r.streams[st]?).map (·.sinkCell))) = some (n, y) →
          exec (.restPointReached k i) s = .next (stationFault n 0x00A2 1 st 0 0 0 s)) ∧
        (streamsEmpty x = true → piperHolds s k i = false → batchOpen s l.ctx = false → ((ctxOf s l.ctx).map (·.owedDamage)).getD [] = [] →
          (l.ph = .leaving → ∃ t, exec (.restPointReached k i) s = .next t ∧ instOf t k i = some { x with ph := .saving, rest := id } ∧ t.mem = s.mem) ∧
          (l.ph = .running → heldForRetrain s x.part = true → ∃ t, exec (.restPointReached k i) s = .next t ∧ instOf t k i = some { x with ph := .resting, rest := id } ∧ t.mem = s.mem) ∧
          (l.ph = .running → heldForRetrain s x.part = false → ∃ t, exec (.restPointReached k i) s = .next t ∧ instOf t k i = some { x with ph := .running, rest := id } ∧ t.mem = s.mem ∧
            ∀ n y, tget? s.sch.stns n = some y → y.launch = k → y.inst = i → ∃ z, tget? t.sch.stns n = some z ∧ z.marked = 0 ∧ z.lastRest = id ∧ z.stretch = 0 ∧
              z.bound = runBoundOf r id ∧ z.next = y.next ∧ z.ls = y.ls ∧ z.acc = y.acc ∧ z.works = y.works ∧ z.descs = y.descs)))) ∧
    (∀ s k i l x r, s.pwr.phase = .ready → tget? s.sch.launches k = some l → instOf s k i = some x → x.ph = .saving → tget? s.sch.recipes l.recipe = some r → ctxStopping s l.ctx = false →
      ∃ t w l', exec (.saveDone k i) s = .next t ∧ instOf t k i = some w ∧ w.ph = .saved ∧ w.placed = false ∧ t.mem = s.mem ∧
        t.sch.stns.map (fun e => (e.1, e.2.launch, e.2.inst, e.2.descs, e.2.next, e.2.ls)) = (s.sch.stns.filter (fun e => !decide (e.2.launch = k ∧ e.2.inst = i))).map (fun e => (e.1, e.2.launch, e.2.inst, e.2.descs, e.2.next, e.2.ls)) ∧
        (∀ n y, (n, y) ∈ s.sch.stns → y.launch = k → y.inst = i → (∀ e ∈ s.sch.stns, e.2.launch = k → e.2.inst = i → e.2.cell = y.cell → e = (n, y)) →
          ∃ z, tget? w.saved y.cell = some z ∧ z.next = y.next ∧ z.hist = y.hist ∧ z.lastRest = x.rest ∧
            ∀ a, tget 0 z.ls a = if liveHas (livesOf r x.rest y.cell) 1 a then tget 0 y.ls a else 0) ∧
        tget? t.sch.launches k = some l' ∧ ((∀ (j : Nat) (y : Inst), l.insts[j]? = some y → j = i ∨ y.ph = .saved ∨ y.ph = .complete) → l'.ph = .preempted)) ∧
    (∀ s k i l x, s.pwr.phase = .ready → tget? s.sch.launches k = some l → instOf s k i = some x → x.ph = .restoring → ctxStopping s l.ctx = false →
      (areaPoisoned s x = true → exec (.restoreDone k i) s = .next (rung1Start l.ctx 1 [] s)) ∧
      (areaPoisoned s x = false → ∃ t, exec (.restoreDone k i) s = .next t ∧ instOf t k i = some { x with ph := .running, saved := [] } ∧
        t = { s with sch := { s.sch with launches := t.sch.launches } } ∧ ∀ j, j ≠ k → tget? t.sch.launches j = tget? s.sch.launches j)) ∧
    (∀ s k i l x, s.pwr.phase = .ready → issueHeld s = false → tget? s.sch.launches k = some l → instOf s k i = some x → x.ph = .running → l.ph ≠ .placed →
      (∀ e ∈ instStns s k i, listEnded e.2 = true ∧ e.2.xfers = [] ∧ e.2.stopped = false) → ctxStopping s l.ctx = false → piperHolds s k i = false →
      ∃ t l', exec (.instanceComplete k i) s = .next t ∧ instOf t k i = some { x with ph := .complete, placed := false } ∧ t.mem = s.mem ∧
        t.sch.stns.map (fun e => (e.1, e.2.launch, e.2.inst, e.2.descs, e.2.next, e.2.ls)) = (s.sch.stns.filter (fun e => !decide (e.2.launch = k ∧ e.2.inst = i))).map (fun e => (e.1, e.2.launch, e.2.inst, e.2.descs, e.2.next, e.2.ls)) ∧ tget? t.sch.launches k = some l' ∧
        ∀ b, tget 0 l'.hists b = tget 0 l.hists b + sumNat ((s.sch.stns.filter (fun e => decide (e.2.launch = k ∧ e.2.inst = i))).map (fun e =>
          sumNat ((e.2.hist.filter (fun h => decide (h.1 = b))).map (·.2))))) ∧
    (∀ s k l, s.pwr.phase = .ready → tget? s.sch.launches k = some l →
      (l.insts = [] ∨ (∃ i ∈ l.insts, i.ph ≠ .complete) → exec (.launchComplete k) s = .next s) ∧
      (∀ u c ws, l.insts ≠ [] → (∀ i ∈ l.insts, i.ph = .complete) → tget? s.cmd.queues l.q = some u → u.cmds.find? (fun c => decide (c.seq = l.seq)) = some c →
        ws = launchWrites s l (cplxDie u.cplx) c.used →
        (∀ e ∈ ws, ctxReadRefusal s l.ctx e.1 e.2.length (.cmd l.q l.seq) = none ∨ ctxReadRefusal s l.ctx e.1 e.2.length (.cmd l.q l.seq) = some 0x3A) →
        ∃ t b, exec (.launchComplete k) s = .next t ∧ t = finishCmd l.q l.seq 0 l.count (ws.foldl (fun s w => ctxWrite l.ctx w.1 w.2 (.cmd l.q l.seq) s) b) ∧ b.mem = s.mem ∧
          tget? b.sch.launches k = none ∧ (∀ n z, (n, z) ∈ b.sch.stns ↔ (n, z) ∈ s.sch.stns ∧ z.launch ≠ k) ∧
          (l.hist = 0 → l.telem = 0 → ws = [] ∧ Replies t l.q l.seq 0 l.count)))

/-- Descriptors: when none starts, when one faults, and LOOP, COPY_IN, COPY_OUT, SEM_WAIT, SEM_RELEASE, completion and reported faults. -/
def Obligations.DescriptorsStartWaitOrFault : Prop :=
  (∀ s n, ∀ p ∈ descCmds n, (issueHeld s = true ∨ liveOf s n = none → exec p.2 s = .next s) ∧
      (∀ x, liveOf s n = some x → (∀ d, x.descs[x.next]? = some d → (dOp d ≠ p.1 ∧ dOp d ∈ rowOps) ∨ mayStart x x.next = false ∨ handHeld s n x x.next = true) → exec p.2 s = .next s) ∧
      (∀ x d, s.pwr.phase = .ready → issueHeld s = false → liveOf s n = some x → x.descs[x.next]? = some d → dOp d = p.1 ∨ dOp d ∉ rowOps → mayStart x x.next = true →
        handHeld s n x x.next = false → (dOp d ∉ rowOps → descFault s x x.next = 0xA5) ∧
        (descFault s x x.next ≠ 0 → exec p.2 s = .next (stationFault n (descFault s x x.next) 0 x.next 0 0 0 s)))) ∧
    (∀ s n x d, DescReady s n 1 x d →
      (tget 0 x.loops x.next + 1 < lpCount d → ∃ l, exec (.loop n) s = .next (setStn n (fun x => { x with loops := l, next := x.next - lpBack d }) s) ∧
        tget 0 l x.next = tget 0 x.loops x.next + 1 ∧ ∀ k, k ≠ x.next → tget 0 l k = if inBody x x.next k then 0 else tget 0 x.loops k) ∧
      (lpCount d ≤ tget 0 x.loops x.next + 1 → dRestAfter d = true → x.works ≠ [] → exec (.loop n) s = .next s) ∧
      (lpCount d ≤ tget 0 x.loops x.next + 1 → dRestAfter d = false ∨ (x.works = [] ∧ ∀ e ∈ instStns s x.launch x.inst, e.1 = n ∨ e.2.marked = 0 ∨ e.2.marked = dRestId d) →
        ∃ t y, exec (.loop n) s = .next t ∧ stnOf t n = some y ∧ y.next = x.next + 1 ∧ y.works = x.works ∧ y.xfers = x.xfers ∧ y.ls = x.ls ∧ t.mem = s.mem ∧
        y.marked = (if dRestAfter d then dRestId d else x.marked) ∧ tget 0 y.loops x.next = 0 ∧ (∀ k, k ≠ x.next → tget 0 y.loops k = if inBody x x.next k then 0 else tget 0 x.loops k) ∧
        ∀ m, m ≠ n → stnOf t m = stnOf s m)) ∧
    (∀ s n x d kind op cmd, (op, kind, cmd) ∈ ([(4, .copyIn, .copyIn n), (5, .copyOut, .copyOut n)] : List (Nat × XKind × Instr)) → DescReady s n op x d →
      ∃ t y fs, exec cmd s = .next t ∧ Begun t n x.next x y .fin ∧ y.xfers = x.xfers ++ fs ∧ fs.length = ceilDiv (cpRows d) (rowsPer (cpRowBytes d)) ∧
        t.sch.xseq = s.sch.xseq + fs.length ∧ y.ls = x.ls ∧ y.acc = x.acc ∧ t.mem = s.mem ∧ t.home = s.home ∧ (∀ m, m ≠ n → stnOf t m = stnOf s m) ∧
        ∀ j f, fs[j]? = some f → f.id = s.sch.xseq + j ∧ f.kind = kind ∧ f.desc = x.next ∧ f.grp = none ∧ (∀ p ∈ f.pieces, p.st = 0) ∧
          f.lo = cpOff d (nth 0 (passesOf x x.next) 0) + j * rowsPer (cpRowBytes d) * cpPitch d ∧
          f.hi = f.lo + (min (rowsPer (cpRowBytes d)) (cpRows d - j * rowsPer (cpRowBytes d)) - 1) * cpPitch d + cpRowBytes d) ∧
    (∀ s n x d op cmd, (op, cmd) ∈ ([(6, .semWait n), (7, .semRelease n)] : List (Nat × Instr)) → DescReady s n op x d →
      ∃ t y, exec cmd s = .next t ∧ Begun t n x.next x y .wait ∧ y.xfers = x.xfers ∧ y.ls = x.ls ∧ y.loops = x.loops ∧ y.marked = x.marked ∧
        (∀ i, i ≠ x.next → tget? y.works i = tget? x.works i) ∧ (∀ m, m ≠ n → stnOf t m = stnOf s m) ∧ t.mem = s.mem ∧ t.home = s.home ∧ t.rbx = s.rbx) ∧
    (∀ s n k x f, s.pwr.phase = .ready → stnOf s n = some x → x.xfers.find? (fun f => decide (f.id = k) && isCopy f) = some f →
      ((∃ p ∈ f.pieces, p.st ≠ 2) → exec (.explicitCopyDone n k) s = .next s) ∧
      ((∀ p ∈ f.pieces, p.st = 2) → exec (.explicitCopyDone n k) s = .next (setStn n (fun x => { x with xfers := x.xfers.erase f }) s))) ∧
    (∀ s n i x w, s.pwr.phase = .ready → issueHeld s = false → liveOf s n = some x → tget? x.works i = some w →
      (w.st ≠ .fin ∨ w.outs ≠ [] → exec (.descriptorComplete n i) s = .next s) ∧
      (w.st = .fin → w.outs = [] → dRestAfter (nth [] x.descs i) = false →
        exec (.descriptorComplete n i) s = .next (setStn n (fun x => { x with works := tdel x.works i }) s)) ∧
      (dRestAfter (nth [] x.descs i) = true → (∃ e ∈ x.works, e.2.ord < w.ord) → exec (.descriptorComplete n i) s = .next s) ∧
      (w.st = .fin → w.outs = [] → dRestAfter (nth [] x.descs i) = true → (∀ e ∈ x.works, w.ord ≤ e.2.ord) →
        (∃ e ∈ instStns s x.launch x.inst, e.1 ≠ n ∧ e.2.marked ≠ 0 ∧ e.2.marked ≠ dRestId (nth [] x.descs i)) →
        exec (.descriptorComplete n i) s = .next (stationFault n 0xA3 0 i 0 0 0 (setStn n (fun x => { x with works := tdel x.works i }) s))) ∧
      (w.st = .fin → w.outs = [] → dRestAfter (nth [] x.descs i) = true → (∀ e ∈ x.works, w.ord ≤ e.2.ord) →
        (∀ e ∈ instStns s x.launch x.inst, e.1 = n ∨ e.2.marked = 0 ∨ e.2.marked = dRestId (nth [] x.descs i)) →
        ∃ t y, exec (.descriptorComplete n i) s = .next t ∧ stnOf t n = some y ∧ y = { x with works := tdel x.works i, marked := dRestId (nth [] x.descs i) } ∧
          (∀ m, m ≠ n → stnOf t m = stnOf s m) ∧ t.mem = s.mem)) ∧
    (∀ s f x, s.pwr.phase = .ready → stnOf s f.stn = some x →
      (f.code < 0xA0 ∨ 0xBA < f.code ∨ stnLive s x = false → exec (.stationFault f) s = .next s) ∧
      (0xA0 ≤ f.code → f.code ≤ 0xBA → stnLive s x = true → s.err.rungs = [] → ∃ t b r, exec (.stationFault f) s = .next t ∧
        b.length = 64 ∧ field b 0 4 = 0x0C0E ∧ field b 4 2 = x.ctx % 65536 ∧ field b 8 8 = refOf s (stnPart f.stn) % 2 ^ 64 ∧ field b 16 2 = f.code ∧
        field b 18 2 = stnId f.stn % 65536 ∧ field b 22 1 = f.indexKind % 256 ∧ field b 24 4 = f.index % 2 ^ 32 ∧ field b 32 8 = f.address % 2 ^ 64 ∧
        field b 40 8 = f.detail % 2 ^ 64 ∧ r = flushEvents { s with cmd := { s.cmd with evq := s.cmd.evq ++ [⟨b, some (ctxSlice s x.ctx)⟩] } } ∧
        t.host = r.host ∧ t.pci = r.pci ∧ t.ten = r.ten ∧ t.mem = s.mem ∧ (∀ m y, stnOf t m = some y → y.ctx = x.ctx → y.stopped = true) ∧
        (∀ m y, stnOf s m = some y → y.ctx ≠ x.ctx → stnOf t m = some y) ∧ (x.ctx = 0 → t.err = s.err ∧ t.cmd = r.cmd) ∧
        (x.ctx ≠ 0 → RungSet s t 1 x.ctx 1 [] ∧
          t.cmd.evq = r.cmd.evq ++ [⟨eventBytes (ctxDie s x.ctx) 0x004B (refOf s (ctxDie s x.ctx)) x.ctx 0 1 x.ctx 1, none⟩])))

/-- FLIT_ARRIVAL, CREDIT_RETURN, RECV, SEND, FETCH and STORE: flits, credits, rows and transfers. -/
def Obligations.StreamsAndTileDescriptors : Prop :=
  (∀ s k i st m x e p h f, s.pwr.phase = .ready → issueHeld s = false → instOf s k i = some x → (streamsOf s k)[st]? = some e →
      flightAt x.flight st m = some p → x.flight[p]? = some (st, h, f) →
      ((∃ g ∈ x.flight.take p, g.1 = st ∧ g.2.1 ≤ h) ∨ mayCross s k i st h = false → exec (.flitArrival k i st m) s = .next s) ∧
      ((∀ g ∈ x.flight.take p, g.1 = st → h < g.2.1) → mayCross s k i st h = true →
        (h + 1 < e.hops → ∃ t, exec (.flitArrival k i st m) s = .next t ∧ instOf t k i = some { x with flight := x.flight.set p (st, h + 1, f) } ∧ t.sch.stns = s.sch.stns ∧ t.mem = s.mem) ∧
        (e.hops ≤ h + 1 → ∃ r, instOf r k i = some { x with flight := x.flight.eraseIdx p, bufs := tput x.bufs st (tget [] x.bufs st ++ [f]) } ∧ r = { s with sch := { s.sch with launches := r.sch.launches } } ∧
          exec (.flitArrival k i st m) s = .next (match stnAtCell s k i e.sinkCell with
            | some n => pump n r
            | none => r)))) ∧
    (∀ s k i st x e, s.pwr.phase = .ready → issueHeld s = false → instOf s k i = some x → (streamsOf s k)[st]? = some e →
      (tget 0 x.returning st = 0 → exec (.creditReturn k i st) s = .next s) ∧
      (tget 0 x.returning st ≠ 0 → ∃ r y, instOf r k i = some y ∧ tget 32 y.credits st = tget 32 x.credits st + 1 ∧ tget 0 y.returning st = tget 0 x.returning st - 1 ∧
        y.flight = x.flight ∧ y.bufs = x.bufs ∧ (∀ j, j ≠ st → tget 32 y.credits j = tget 32 x.credits j ∧ tget 0 y.returning j = tget 0 x.returning j) ∧
        r = { s with sch := { s.sch with launches := r.sch.launches } } ∧ exec (.creditReturn k i st) s = .next (match stnAtCell s k i e.srcCell with
          | some n => pump n r
          | none => r))) ∧
    (∀ s n x d st, DescReady s n 2 x d → x.works = [] → sinkStream s x (rsPort d) = some st →
      (rsTiles d = 0 → ∃ t y, exec (.recv n) s = .next t ∧ Begun t n x.next x y .fin ∧ y.ls = x.ls ∧ y.acc = x.acc ∧ t.mem = s.mem ∧ t.sch.launches = s.sch.launches) ∧
      (rsTiles d ≠ 0 → bufOf s x st = [] → exec (.recv n) s = .next (beginWork n x.next {} s)) ∧
      (∀ f rb o, rsTiles d = 1 → bufOf s x st = [f] → f.fmt = rsFmt d → f.idx = 0 → tileFlits f.fmt (f.rows, f.cols) = 1 → rb = rowBytes f.fmt f.cols →
        o = rsOff d (nth 0 (passesOf x x.next) 0) → rb ≤ rsPitch d → f.rows * rb ≤ f.data.length → inScratch x o ((f.rows - 1) * rsPitch d + rb) = true →
        ∃ t y i, exec (.recv n) s = .next t ∧ Begun t n x.next x y .fin ∧ t.mem = s.mem ∧ y.acc = x.acc ∧
          (∀ r < f.rows, ∀ b < rb, tget 0 y.ls (o + r * rsPitch d + b) = nth 0 f.data (r * rb + b)) ∧
          (∀ a, (∀ r < f.rows, ¬ (o + r * rsPitch d ≤ a ∧ a < o + r * rsPitch d + rb)) → tget 0 y.ls a = tget 0 x.ls a) ∧
          instOf t x.launch x.inst = some i ∧ tget [] i.bufs st = [] ∧ (∀ i0, instOf s x.launch x.inst = some i0 → tget 0 i.returning st = tget 0 i0.returning st + 1))) ∧
    (∀ s n x d st i0 fl c, DescReady s n 3 x d → x.works = [] → sourceStream s x (rsPort d) = some st → instOf s x.launch x.inst = some i0 → c = tget 32 i0.credits st →
      (rsTiles d = 0 → ∃ t y, exec (.send n) s = .next t ∧ Begun t n x.next x y .fin ∧ y.ls = x.ls ∧ t.mem = s.mem ∧ t.sch.launches = s.sch.launches) ∧
      (rsTiles d = 1 → fl = flitsOf (rsFmt d) (64, 64) (sendTile x d (nth 0 (passesOf x x.next) 0) 0) → ∃ t y i, exec (.send n) s = .next t ∧
        Begun t n x.next x y (if fl.length ≤ c then .fin else .run) ∧ y.ls = x.ls ∧ y.acc = x.acc ∧ t.mem = s.mem ∧ instOf t x.launch x.inst = some i ∧
        i.flight = i0.flight ++ (fl.take c).map (fun f => (st, 0, f)) ∧ tget 32 i.credits st = c - fl.length ∧ (∀ j, j ≠ st → tget 32 i.credits j = tget 32 i0.credits j) ∧
        i.bufs = i0.bufs ∧ i.returning = i0.returning)) ∧
    (∀ s n x d, DescReady s n 0x50 x d → x.works = [] → fsXfer x x.next = none →
      (fsTiles d = 0 → ∃ t y, exec (.fetch n) s = .next t ∧ Begun t n x.next x y .fin ∧ y.xfers = x.xfers ∧ t.mem = s.mem) ∧
      (1 ≤ fsRows d → 1 ≤ fsCols d → ∃ t y f, exec (.fetch n) s = .next t ∧ Begun t n x.next x y .run ∧ y.xfers = x.xfers ++ [f] ∧ f.id = s.sch.xseq ∧
        f.kind = .fetch ∧ f.desc = x.next ∧ f.grp = none ∧ f.pieces ≠ [] ∧ (∀ p ∈ f.pieces, p.st = 0) ∧
        (∀ e, (streamsOf s x.launch)[fsStream d]? = some e → f.eng = 16 * n + e.srcPort) ∧ t.sch.xseq = s.sch.xseq + 1 ∧ y.ls = x.ls ∧ t.mem = s.mem)) ∧
    (∀ s n x d, DescReady s n 0x51 x d → x.works = [] → fsXfer x x.next = none →
      (fsTiles d = 0 → ∃ t y, exec (.store n) s = .next t ∧ Begun t n x.next x y .fin ∧ y.xfers = x.xfers ∧ t.mem = s.mem) ∧
      (fsTiles d ≠ 0 → bufOf s x (fsStream d) = [] → ∃ t y f, exec (.store n) s = .next t ∧ Begun t n x.next x y .run ∧ y.xfers = x.xfers ++ [f] ∧ f.id = s.sch.xseq ∧
        f.kind = .store ∧ f.desc = x.next ∧ f.grp = none ∧ f.pieces = [] ∧ (∀ e, (streamsOf s x.launch)[fsStream d]? = some e → f.eng = 16 * n + e.sinkPort) ∧
        t.sch.xseq = s.sch.xseq + 1 ∧ y.ls = x.ls ∧ t.mem = s.mem))

/-- The seven matrix descriptors: sums of products, element-wise results, reductions and attention blocks, element by element. -/
def Obligations.MatrixDescriptorsCompute : Prop :=
  ∀ s n x d op cmd r pass flush, (op, cmd) ∈ ([(0x10, .matmul n), (0x11, .conv n), (0x12, .attnScore n), (0x13, .attnPv n), (0x14, .attnFinal n), (0x20, .eltwise n), (0x21, .reduce n)] : List (Nat × Instr)) →
    DescReady s n op x d → x.works = [] → r = mxEffect (stnFlush s x) x x.next { passes := passesOf x x.next } → pass = nth 0 (passesOf x x.next) 0 → flush = stnFlush s x →
    ((∃ f ∈ feedsOf x x.next, 0 < feedLen f) → (∀ f ∈ feedsOf x x.next, ∀ st, sinkStream s x f.port = some st → bufOf s x st = []) →
      ∃ t y, exec cmd s = .next t ∧ Begun t n x.next x y .run ∧ y.ls = x.ls ∧ y.acc = x.acc ∧ y.vreg = x.vreg ∧ y.flags = x.flags ∧ t.mem = s.mem) ∧
    (feedsOf x x.next = [] → ∃ t y, exec cmd s = .next t ∧ stnOf t n = some y ∧ y.next = x.next + 1 ∧ y.ls = r.1.ls ∧ y.acc = r.1.acc ∧ y.vreg = r.1.vreg ∧ y.flags = r.1.flags ∧
      y.hist = r.1.hist ∧ t.mem = s.mem ∧ (r.2 = [] → Begun t n x.next x y .fin) ∧
      (op = 0x10 ∨ op = 0x11 ∨ op = 0x12 → mxNoOut d = true → ∀ i < mxM d, ∀ j < mxN d, ∀ p z c v,
        p = prodTerms (mxK d) (aValue flush (decide (op = 0x11)) x [] d (opndOn d 24 pass) i) (fun k => bValue flush x [] d (opndOn d 40 pass) k j) →
        z = (if mxKeep d = true then (readF flush fF32 (accAt x (mxAcc d) (mxN d) i j).toNat).1 else .fin false 0 0) →
        c = (if (opndOn d 56 pass).src = 0xFF then [] else [(opndElem flush x [] (opndOn d 56 pass) (mxM d) (mxN d) false i j).1]) →
        v = (sumOf flush p.2.2 (z :: (c ++ p.1))).1 →
        (mxEpi d = 0 → accAt y (mxAcc d) (mxN d) i j = v) ∧
        (mxEpi d = 1 → (epiStep d 0).1 = 1 → accAt y (mxAcc d) (mxN d) i j = (mul32 flush v (BitVec.ofNat 32 (epiStep d 0).2.2)).1)) ∧
      (op = 0x20 → mxNoOut d = true → mxEpi d = 0 → ∀ i < mxM d, ∀ j < mxN d, ∀ v, v = (opndElem flush x [] (opndOn d 24 pass) (mxM d) (mxN d) false i j).1 →
        accAt y (mxAcc d) (mxN d) i j = BitVec.ofNat 32 (writeF flush fF32 (packV fF32 none
          (if isFp8 (opndOn d 24 pass).fmt = true then scaledBy ((tensorScale (mxScaleA d)).getD (.fin false 1 0)) v else v))).1) ∧
      (op = 0x21 → ∀ e : Nat → Nat → Word, (∀ i j, e i j = BitVec.ofNat 32 (writeF flush fF32 (packV fF32 none (opndElem flush x [] (opndOn d 8 pass) (field d 24 2) (field d 26 2) false i j).1)).1) →
        (field d 29 1 = 0 → ∀ i < field d 24 2, vregAt y (field d 30 1) i = (reduceOf flush (field d 28 1) ((List.range (field d 26 2)).map (e i))).1) ∧
        (field d 29 1 = 1 → ∀ j < field d 26 2, vregAt y (field d 30 1) j = (reduceOf flush (field d 28 1) ((List.range (field d 24 2)).map (fun i => e i j))).1) ∧
        (field d 29 1 = 2 → vregAt y (field d 30 1) 0 = (reduceOf flush (field d 28 1) ((List.range (field d 24 2)).flatMap (fun i => (List.range (field d 26 2)).map (e i)))).1)) ∧
      (op = 0x13 → field d 10 1 ≠ field d 11 1 → attnRows x x.next ≤ 64 → ∀ i < attnRows x x.next, vregAt y (field d 10 1) i =
        ((List.range 64).foldl (fun a j => (ext32 flush true a (accAt x (field d 8 1) 64 i j)).1) (if field d 13 1 = 1 then 0xFF800000#32 else vregAt x (field d 10 1) i))) ∧
      (op = 0x14 → mxNoOut d = true → mxEpi d = 0 → ∀ i < mxM d, ∀ j < mxN d,
        (vregAt x (attnSum x x.next) i &&& 0x7FFFFFFF#32 ≠ 0 → accAt y (mxAcc d) (mxN d) i j = (div32 flush (accAt x (mxAcc d) (mxN d) i j) (vregAt x (attnSum x x.next) i)).1) ∧
        (vregAt x (attnSum x x.next) i &&& 0x7FFFFFFF#32 = 0 → (∀ c < mxN d, accAt x (mxAcc d) (mxN d) i c &&& 0x7FFFFFFF#32 = 0) → accAt y (mxAcc d) (mxN d) i j = 0#32)))

/-- TRACE, RAY_BATCH_TAKE, RESULT_BATCH_FLUSH, GATHER_HASH, GATHER_EMBED and MISS_FILL: slots, records, rows and fills. -/
def Obligations.RayAndGatherStation : Prop :=
  (∀ s n x d, DescReady s n 0x40 x d → ∃ t y, exec (.trace n) s = .next t ∧ Begun t n x.next x y .run ∧ y.rg = {} ∧ y.ls = x.ls ∧ t.mem = s.mem ∧ t.home = s.home) ∧
    (∀ s s0 n x i d flush, s0.pwr.phase = .ready → issueHeld s0 = false → s = rgPump n s0 → liveOf s n = some x → rgDesc x = some (i, d) → flush = stnFlush s x →
      (dOp d ≠ 0x40 ∨ field d 28 4 ≤ x.rg.batches ∨ x.rg.resting ≠ 0 ∨ x.marked ≠ 0 ∨ (freeSlots x 64).length < 64 ∨ nextBatch s x d = none → exec (.rayBatchTake n) s0 = .next s) ∧
      (∀ bs st recs, dOp d = 0x40 → x.rg.batches < field d 28 4 → x.rg.resting = 0 → x.marked = 0 → (freeSlots x 64).length = 64 → nextBatch s x d = some (bs, st) →
        recs = (List.range 64).map (fun j => (bs.drop (48 * j)).take 48) →
        (∀ (j : Nat) e (k : Nat), recs[j]? = some e → (freeSlots x 64)[j]? = some k → rayBad e = true → (∀ (i : Nat), i < j → ∀ e, recs[i]? = some e → rayBad e = false) →
          exec (.rayBatchTake n) s0 = .next (stationFault n 0xB4 3 k 0 0 0 s)) ∧
        ((∀ e ∈ recs, rayBad e = false) → ∃ r y, exec (.rayBatchTake n) s0 = .next (rgPump n r) ∧ stnOf r n = some y ∧ y.rg.batches = x.rg.batches + 1 ∧
          (y.rg.resting = 1 ↔ field d 27 1 ≠ 0 ∧ (x.rg.batches + 1) % field d 44 4 = 0) ∧
          (∀ (j : Nat) e (k : Nat), recs[j]? = some e → (freeSlots x 64)[j]? = some k → (bitOf (ryFlags e) 7 = true → tget? y.rg.rays k = none) ∧
            (bitOf (ryFlags e) 7 = false → ∃ z, tget? y.rg.rays k = some z ∧ z.ray = e ∧ z.cur = (if rayIdle flush e = true then [] else [(false, 0)]) ∧
              z.tmax = flushW flush (ryTmax e) ∧ z.hit = none ∧ z.todo = [] ∧ z.waitLine = none ∧ z.poisoned = false)) ∧
          (∀ k z, tget? x.rg.rays k = some z → tget? y.rg.rays k = some z) ∧ (∀ k, st = some k → bufOf r y k = (bufOf s x k).drop 6) ∧ y.ls = x.ls ∧ r.mem = s.mem))) ∧
    (∀ s n x i d, s.pwr.phase = .ready → issueHeld s = false → liveOf s n = some x → rgDesc x = some (i, d) →
      (dOp d ≠ 0x40 ∨ field d 48 2 = 0 ∨ x.rg.results = [] → exec (.resultBatchFlush n) s = .next s) ∧
      (dOp d = 0x40 → field d 48 2 ≠ 0 → x.rg.results ≠ [] → x.rg.results.length < 64 → (∀ r ∈ x.rg.results, r.length = 32) → field d 25 1 = 0 →
        inScratch x (field d 36 4 + 2048 * x.rg.outNext) 2048 = true → ∃ r y, exec (.resultBatchFlush n) s = .next (rgPump n r) ∧ stnOf r n = some y ∧ y.rg.results = [] ∧
          y.rg.outNext = x.rg.outNext + 1 ∧ y.rg.rays = x.rg.rays ∧ r.mem = s.mem ∧
          (∀ (j : Nat) e, x.rg.results[j]? = some e → ∀ b < 32, tget 0 y.ls (field d 36 4 + 2048 * x.rg.outNext + 32 * j + b) = nth 0 e b) ∧
          (∀ j < 64, x.rg.results.length ≤ j → tget 0 y.ls (field d 36 4 + 2048 * x.rg.outNext + 32 * j + 23) = 0x80) ∧
          (∀ a, (a < field d 36 4 + 2048 * x.rg.outNext ∨ field d 36 4 + 2048 * x.rg.outNext + 2048 ≤ a) → tget 0 y.ls a = tget 0 x.ls a))) ∧
    (∀ s n x d, DescReady s n 0x41 x d → (∃ t y w, exec (.gatherHash n) s = .next t ∧ stnOf t n = some y ∧ y.next = x.next + 1 ∧ y.started = x.started + 1 ∧ tget? y.works x.next = some w) ∧
      (∀ st, field d 16 1 ≠ 8 → sinkStream s x (field d 16 1) = some st → (bufOf s x st).length < 2 →
        ∃ t y, exec (.gatherHash n) s = .next t ∧ Begun t n x.next x y .run ∧ y.rg = {} ∧ y.ls = x.ls ∧ t.mem = s.mem)) ∧
    (∀ s n x d, DescReady s n 0x42 x d → (∃ t y w, exec (.gatherEmbed n) s = .next t ∧ stnOf t n = some y ∧ y.next = x.next + 1 ∧ y.started = x.started + 1 ∧ tget? y.works x.next = some w) ∧
      (field d 8 4 = 1 → field d 20 1 = 8 → (∀ j < field d 15 1, field (lsRead x (field d 16 4 + 4 * j) 4) 0 4 = 0xFFFFFFFF) →
        ∃ t y, exec (.gatherEmbed n) s = .next t ∧ Begun t n x.next x y .fin ∧ t.mem = s.mem ∧
          (∀ b < field d 14 1 * (fmtBits (field d 13 1) / 8), tget 0 y.ls (field d 24 4 + b) = 0) ∧
          (∀ a, (a < field d 24 4 ∨ field d 24 4 + field d 14 1 * (fmtBits (field d 13 1) / 8) ≤ a) → tget 0 y.ls a = tget 0 x.ls a))) ∧
    (∀ s n m, s.pwr.phase = .ready →
      ((∀ g ∈ s.home.net, ∀ k l data poison rs, g = .fill k l data poison rs → ∀ r ∈ rs, r.who ≠ .missReg n m) → exec (.missFill n m) s = .next s) ∧
      (∀ x k l data poison r a ws inval, stnOf s n = some x → r.who = .missReg n m → tget? x.rg.miss m = some (a, ws, inval) →
        s.home.net.find? (fun g => match g with
          | .fill _ _ _ _ rs => rs.any (fun r => decide (r.who = .missReg n m))
          | _ => false) = some (.fill k l data poison [r]) →
        ∃ b y, exec (.missFill n m) s = .next (rgPump n b) ∧ stnOf b n = some y ∧ tget? y.rg.miss m = none ∧ b.home.net = s.home.net.erase (.fill k l data poison [r]) ∧ b.mem = s.mem ∧
          (∀ j, j ≠ m → tget? y.rg.miss j = tget? x.rg.miss j) ∧ ∀ j z, tget? x.rg.rays j = some z → tget? y.rg.rays j = some (if j ∈ ws ∧ z.waitLine = some a then
            { z with waitLine := none, poisoned := z.poisoned || poison, got := z.got ++ [(a, data)] } else z)))

/-- HAND_OVER, TOKEN_ROW_ARRIVAL, BLOCK_DELIVERY, RESULT_HAND_OVER and PIPER_REMOTE_LOST: claims, blocks, slots, results and losses. -/
def Obligations.PiperHandOversBlocksAndResults : Prop :=
  (∀ s n k pl p v r x, s.pwr.phase = .ready → nextHandOver s n = some (k, pl, p, v) → tget? s.pip.plans k = some pl → routerOf s pl p n = some r → stnOf s n = some x →
      ((v < 1 ∨ 64 < v ∨ rtCount p r < tget 0 pl.tokens r + v ∨ (v < 64 ∧ tget 0 pl.tokens r + v ≠ rtCount p r)) →
        exec (.handOver n) s = .next (stationFault n 0xB5 4 r 0 pl.addr 0 (setPlan k (fun q => { q with waiting := pl.waiting.erase (n, plDispatchSem p, v) }) s))) ∧
      (1 ≤ v → v ≤ 64 → tget 0 pl.tokens r + v ≤ rtCount p r → (v < 64 → tget 0 pl.tokens r + v = rtCount p r) →
        ∃ b q, exec (.handOver n) s = .next (pump n (piperFlush k ((List.range (plExperts p)).foldl (fun s e => if exKind p e = 0 then s else closeBlocks k e s) b))) ∧
          tget? b.pip.plans k = some q ∧ q.waiting = pl.waiting.erase (n, plDispatchSem p, v) ∧ tget 0 q.slots r = tget 0 pl.slots r + 1 ∧
          tget 0 q.tokens r = tget 0 pl.tokens r + v ∧ (∀ j, j ≠ r → tget 0 q.slots j = tget 0 pl.slots j ∧ tget 0 q.tokens j = tget 0 pl.tokens j) ∧
          (∀ e, (tget {} q.experts e).claimed = (tget {} pl.experts e).claimed +
            ((List.range v).filter (fun i => decide (e ∈ chosenOf (stnFlush s x) x p r (tget 0 pl.slots r % rtRing p r) i))).length) ∧
          (plCapSplit p = false → ∀ e, (tget {} q.experts e).transit.length + (tget {} pl.experts e).claimed = (tget {} pl.experts e).transit.length + (tget {} q.experts e).claimed ∧
            (tget {} q.experts e).accepted = (tget {} pl.experts e).accepted ∧ (tget {} q.experts e).dropped = (tget {} pl.experts e).dropped ∧
            (tget {} q.experts e).spilled = (tget {} pl.experts e).spilled) ∧
          (plCapSplit p = true → ∀ e, (tget {} q.experts e).accepted + (tget {} q.experts e).dropped + (tget {} q.experts e).spilled + (tget {} pl.experts e).claimed =
            (tget {} pl.experts e).accepted + (tget {} pl.experts e).dropped + (tget {} pl.experts e).spilled + (tget {} q.experts e).claimed ∧
            (tget {} q.experts e).transit.length + (tget {} pl.experts e).accepted = (tget {} pl.experts e).transit.length + (tget {} q.experts e).accepted ∧
            (grantedTo p (tget {} pl.experts e) r ≤ quotaOf p r → grantedTo p (tget {} q.experts e) r ≤ quotaOf p r)) ∧
          (∀ j, j ≠ k → tget? b.pip.plans j = tget? s.pip.plans j))) ∧
    (∀ s n, s.pwr.phase = .ready → (nextHandOver s n = none ∨ stnOf s n = none ∨ ∃ k pl p v, nextHandOver s n = some (k, pl, p, v) ∧ routerOf s pl p n = none) →
      exec (.handOver n) s = .next s) ∧
    (∀ s k e i pl p x, s.pwr.phase = .ready → livePlan s k = some (pl, p) → x = tget {} pl.experts e →
      (x.transit[i]? = none ∨ roleOf s pl (packerRole p e) = none → exec (.tokenRowArrival k e i) s = .next s) ∧
      (∀ row, x.transit[i]? = some row → roleOf s pl (packerRole p e) ≠ none → ∃ b y q, exec (.tokenRowArrival k e i) s = .next (piperFlush k b) ∧ expertOf b k e = y ∧
        tget? b.pip.plans k = some q ∧ y.transit = x.transit.eraseIdx i ∧ y.delivered = x.delivered ∧ y.claimed = x.claimed ∧ (∀ j, j ≠ e → expertOf b k j = expertOf s k j) ∧
        (plCapSplit p = true ∨ x.accepted < plCapacity p →
          ((x.cur.length < 63 ∧ (routersDone pl p = false ∨ x.transit.length ≠ 1)) → y.cur = x.cur ++ [row] ∧ y.ready = x.ready) ∧
          (x.cur.length = 63 → (routersDone pl p = false ∨ x.transit.length ≠ 1) → y.cur = [] ∧ y.ready = x.ready ++ [mkBlock (x.cur ++ [row])]) ∧
          (routersDone pl p = true → x.transit.length = 1 → y.cur = [] ∧ y.ready = x.ready ++ [mkBlock (x.cur ++ [row])] ++
            (if exKind p e = 1 then List.replicate (plBlocks p - (x.delivered + x.ready.length + 1)) (mkBlock []) else [])) ∧
          y.accepted = x.accepted + (if plCapSplit p then 0 else 1) ∧ y.dropped = x.dropped ∧ y.spilled = x.spilled ∧ q.owed = pl.owed ∧ { b with pip := s.pip } = s) ∧
        (plCapSplit p = false → plCapacity p ≤ x.accepted → y.accepted = x.accepted ∧ q.owed = pl.owed ++ [1] ∧
          ((routersDone pl p = false ∨ x.transit.length ≠ 1) → y.cur = x.cur ∧ y.ready = x.ready) ∧
          (plOverSpill p = true → pl.spillUsed < plSpillCap p → y.spilled = x.spilled + 1 ∧ y.dropped = x.dropped ∧ q.spillUsed = pl.spillUsed + 1) ∧
          (plOverSpill p = false ∨ plSpillCap p ≤ pl.spillUsed → y.spilled = x.spilled ∧ y.dropped = x.dropped + 1 ∧ q.spillUsed = pl.spillUsed)))) ∧
    (∀ s k e pl p, s.pwr.phase = .ready → livePlan s k = some (pl, p) →
      ((tget {} pl.experts e).ready = [] ∨ slotFree p e (tget {} pl.experts e) = false ∨ placedFor s pl p e = false → exec (.blockDelivery k e) s = .next s) ∧
      (∀ b rest slot, (tget {} pl.experts e).ready = b :: rest → slotFree p e (tget {} pl.experts e) = true → placedFor s pl p e = true → slot = (tget {} pl.experts e).delivered % exSlots p e →
        (exKind p e = 1 → ∃ t, exec (.blockDelivery k e) s = .next t ∧ (expertOf t k e).ready = rest ∧ (expertOf t k e).delivered = (tget {} pl.experts e).delivered + 1 ∧
          (expertOf t k e).out = (tget {} pl.experts e).out ∧
          (∀ i < exDests p e, ∀ n y, roleOf s pl (exDest p e i) = some n → stnOf s n = some y → ∃ z, stnOf t n = some z ∧
            (∀ j < (slotBytes p b).length, tget 0 z.ls (exRx p e + slot * plSlotBytes p + j) = nth 0 (slotBytes p b) j) ∧
            (∀ j < b.rows.length, tget 0 z.vreg (64 * (exGateVreg p e + slot) + j) = nth 0 (slotGates b) j) ∧
            (∀ a, (a < exRx p e + slot * plSlotBytes p ∨ exRx p e + slot * plSlotBytes p + (slotBytes p b).length ≤ a) → tget 0 z.ls a = tget 0 y.ls a)) ∧
          (∀ n, (∀ i < exDests p e, roleOf s pl (exDest p e i) ≠ some n) → stnOf t n = stnOf s n)) ∧
        (exKind p e = 2 → ∃ t, exec (.blockDelivery k e) s = .next t ∧ (expertOf t k e).ready = rest ∧ (expertOf t k e).delivered = (tget {} pl.experts e).delivered + 1 ∧
          (expertOf t k e).out = (tget {} pl.experts e).out ++ [((tget {} pl.experts e).delivered, b, refOf s (packerDie s pl p e))] ∧
          ((∀ w, tget? s.rbx.owins (exWindow p e) = some w → w.valid = false ∨ w.owner ≠ pl.ctx) → { t with pip := s.pip } = s)))) ∧
    (∀ s k e pl p, s.pwr.phase = .ready → livePlan s k = some (pl, p) →
      (∀ n, exKind p e = 1 → roleOf s pl (exDest p e (exRet p e)) = some n →
        ((n, exResultSem p e, 1) ∉ pl.waiting → exec (.resultHandOver k e) s = .next s) ∧
        (∀ base, base = exResultBase p e + (tget {} pl.experts e).returned % exSlots p e * 64 * plOutPitch p → (tget {} pl.experts e).returned < (tget {} pl.experts e).delivered →
          ctxBusy s pl.ctx base (64 * plOutPitch p) = true → exec (.resultHandOver k e) s = .next s) ∧
        ((n, exResultSem p e, 1) ∈ pl.waiting → (tget {} pl.experts e).delivered ≤ (tget {} pl.experts e).returned →
          exec (.resultHandOver k e) s = .next (stationFault n 0xB6 4 e 0 pl.addr 0 s)) ∧
        (∀ y slot, (n, exResultSem p e, 1) ∈ pl.waiting → (tget {} pl.experts e).returned < (tget {} pl.experts e).delivered → stnOf s n = some y →
          slot = (tget {} pl.experts e).returned % exSlots p e → ctxBusy s pl.ctx (exResultBase p e + slot * 64 * plOutPitch p) (64 * plOutPitch p) = false →
          ∃ b q, exec (.resultHandOver k e) s = .next (placeBlock k pl p (lsRead y (exRx p e + slot * plSlotBytes p + 64 * plInPitch p) 512)
              (exResultBase p e + slot * 64 * plOutPitch p) b) ∧ tget? b.pip.plans k = some q ∧ q.waiting = pl.waiting.erase (n, exResultSem p e, 1) ∧
            (tget {} q.experts e).returned = (tget {} pl.experts e).returned + 1 ∧ (∀ j, j ≠ e → tget {} q.experts j = tget {} pl.experts j) ∧ { b with pip := s.pip } = s)) ∧
      (∀ o rest, exKind p e = 2 → (tget {} pl.experts e).out = o :: rest →
        (resultCount s pl p e < (o.1 + 1) * remoteBlock p ∨ ctxBusy s pl.ctx (exResultBase p e + o.1 % exSlots p e * remoteBlock p) (remoteBlock p) = true →
          exec (.resultHandOver k e) s = .next s) ∧
        ((o.1 + 1) * remoteBlock p ≤ resultCount s pl p e → ctxBusy s pl.ctx (exResultBase p e + o.1 % exSlots p e * remoteBlock p) (remoteBlock p) = false →
          ∃ b, exec (.resultHandOver k e) s = .next (placeBlock k pl p (ctxRead s pl.ctx (exResultBase p e + o.1 % exSlots p e * remoteBlock p + 64 * plOutPitch p) 512)
              (exResultBase p e + o.1 % exSlots p e * remoteBlock p) b) ∧ (expertOf b k e).out = rest ∧ { b with pip := s.pip } = s))) ∧
    (∀ s k e i pl p o, s.pwr.phase = .ready → livePlan s k = some (pl, p) → (tget {} pl.experts e).out.find? (fun o => decide (o.1 = i)) = some o →
      (refOf s (packerDie s pl p e) - o.2.2 < plTimeoutMs p * refMs ∨ (i + 1) * remoteBlock p ≤ resultCount s pl p e → exec (.piperRemoteLost k e i) s = .next s) ∧
      (plTimeoutMs p * refMs ≤ refOf s (packerDie s pl p e) - o.2.2 → resultCount s pl p e < (i + 1) * remoteBlock p → ∃ b q, exec (.piperRemoteLost k e i) s = .next (piperFlush k (owe k (o.2.1.rows.filterMap id).length b)) ∧
        tget? b.pip.plans k = some q ∧ (tget {} q.experts e).out = (tget {} pl.experts e).out.erase o ∧ q.lost = pl.lost + (o.2.1.rows.filterMap id).length ∧
        ⟨eventBytes (packerDie s pl p e) 0x0002 (refOf s (packerDie s pl p e)) pl.ctx (ctxSlice s pl.ctx) e i 0, none⟩ ∈ b.cmd.evq))

/-- GETS, GETU, GETR, GETC, WRITE, RED and HOME_SEM_WAIT: what stations send, and what a home does with a request. -/
def Obligations.RequestsToTheHomes : Prop :=
  (∀ s n r x key rs, s.pwr.phase = .ready → issueHeld s = false → liveOf s n = some x → r.who = .cache n → key = lkey r.stack r.line → rs = cacheReaders s x r →
      rs ≠ [] → cacheLines x.kind x.split ≠ 0 → (∀ q ∈ rs, (pieceOf x q.1 q.2).isSome = true) →
      (∀ e, x.cache.find? (fun e => decide (e.1 = key)) = some e →
        ∃ t y, exec (.gets r) s = .next t ∧ stnOf t n = some y ∧ y.cache.head? = some e ∧ (∀ q ∈ rs, PieceAt t n q.1 q.2 2) ∧ t.home = s.home ∧ t.mem = s.mem ∧
          (∀ q f p, rs = [q] → pieceOf x q.1 q.2 = some (f, p) → p.addr % 128 + p.len ≤ 128 → e.2.length = 128 →
            (∀ b < p.len, tget 0 y.ls (p.loc + b) = nth 0 e.2 (p.addr % 128 + b)) ∧ ∀ a, (a < p.loc ∨ p.loc + p.len ≤ a) → tget 0 y.ls a = tget 0 x.ls a)) ∧
      (∀ ws, x.cache.find? (fun e => decide (e.1 = key)) = none → ws = rs.map (fun q => { r with who := .xfer n q.1 q.2 }) →
        (pendGood x key = false → ∃ b y, exec (.gets r) s = .next (sendReq (.gets r) b) ∧ stnOf b n = some y ∧ y.pend = x.pend ++ [(key, ws, false)] ∧
          (∀ q ∈ rs, PieceAt b n q.1 q.2 1) ∧ b.home = s.home ∧ b.mem = s.mem) ∧
        (∀ l l' ws0 i, pendGood x key = true → x.pend = l ++ [(key, ws0, i)] ++ l' → (∀ e ∈ l', e.1 ≠ key) → ∃ t y, exec (.gets r) s = .next t ∧ stnOf t n = some y ∧
          y.pend = l ++ [(key, ws0 ++ ws, i)] ++ l' ∧ (∀ q ∈ rs, PieceAt t n q.1 q.2 1) ∧ t.home = s.home ∧ t.mem = s.mem))) ∧
    (∀ s n xid k r x f p, MayIssue s n xid k x f p → r.who = .xfer n xid k →
      (readsX f.kind = true → inCounters p.addr = true → (counterOwned s x.ctx p.addr = false → exec (.getu r) s = .next (pieceFault n f p k 4 s)) ∧
        (counterOwned s x.ctx p.addr = true → ∃ t y, exec (.getu r) s = .next t ∧ stnOf t n = some y ∧
          PieceAt t n xid k 2 ∧ t.home = s.home ∧ (p.addr % 128 + p.len ≤ 128 → ∀ b < p.len,
            tget 0 y.ls (p.loc + b) = nth 0 (leBytes 8 (counterVal s (counterAt p.addr).1 ((p.addr % 128 + b) / 8))) ((p.addr % 128 + b) % 8)))) ∧
      (∀ w, inCounters p.addr = false → owinAt s x.ctx p.addr = some w → inCounterPage w.2 p.addr = false →
        (readsX f.kind = true → mayOpen s n (remoteOff w.2 p.addr) = true → ∃ b, { b with sch := s.sch } = s ∧ exec (.getu r) s =
          .next (setPiece n xid k 1 (openReq w.1 (owinPkt s w.2 0x02 0 (remoteOff w.2 p.addr) p.len 0 0 []) (.xfer n xid k) none b))) ∧
        (∀ m d, f.kind ∈ [.copyOut, .scatter, .store] → mayOpen s n (remoteOff w.2 p.addr) = true → ∃ b, { b with sch := s.sch } = s ∧ exec (.write r m d) s =
          .next (setPiece n xid k 1 (openReq w.1 (owinPkt s w.2 0x01 0 (remoteOff w.2 p.addr) p.len 0 w.2.counter (lsRead x p.loc p.len)) (.xfer n xid k) none b)))) ∧
      (owinAt s x.ctx p.addr = none → inCounters p.addr = false → placeIs s x p.addr r = true → groupOf f p k ≠ [] →
        (readsX f.kind = true → (placeRo s x p.addr = false ∨ cacheLines x.kind x.split = 0) → ∃ b, exec (.getu r) s = .next (sendReq (.getu r) b) ∧
          (∀ j ∈ groupOf f p k, PieceAt b n xid j 1) ∧ b.home = s.home ∧ b.mem = s.mem) ∧
        (f.kind ∈ [.copyOut, .scatter, .store] → placeRo s x p.addr = true → exec (.write r (pieceMask (piecesAt f (groupOf f p k))) (pieceData x (piecesAt f (groupOf f p k)))) s =
          .next (pieceFault n f p k 2 s)) ∧
        (f.kind ∈ [.copyOut, .scatter, .store] → placeRo s x p.addr = false → ∃ b,
          exec (.write r (pieceMask (piecesAt f (groupOf f p k))) (pieceData x (piecesAt f (groupOf f p k)))) s =
            .next (sendReq (.write r (pieceMask (piecesAt f (groupOf f p k))) (pieceData x (piecesAt f (groupOf f p k)))) b) ∧
          (∀ j ∈ groupOf f p k, PieceAt b n xid j 1) ∧ b.home = s.home ∧ b.mem = s.mem) ∧
        (f.kind = .scatterRed → placeRo s x p.addr = false → ∃ b,
          exec (.red r (pieceRed x f (piecesAt f (firstUses f (groupOf f p k))))) s = .next (sendReq (.red r (pieceRed x f (piecesAt f (firstUses f (groupOf f p k))))) b) ∧
          (∀ j ∈ firstUses f (groupOf f p k), PieceAt b n xid j 1) ∧ b.home = s.home ∧ b.mem = s.mem))) ∧
    (∀ s n m r x a ws inval, s.pwr.phase = .ready → issueHeld s = false → liveOf s n = some x → r.who = .missReg n m → tget? x.rg.miss m = some (a, ws, inval) →
      (asked s r.who = true ∨ writeHeld x (a / 128) s.sch.xseq = true → exec (.getr r) s = .next s) ∧
      (asked s r.who = false → writeHeld x (a / 128) s.sch.xseq = false →
        (inCounters a = true → exec (.getr r) s = .next (missFault n m a 4 ws s)) ∧
        (inCounters a = false → owinAt s x.ctx a ≠ none → exec (.getr r) s = .next (agentFault r.who 0xB9 0 s)) ∧
        (inCounters a = false → owinAt s x.ctx a = none → placeIs s x a r = true → ∃ b, exec (.getr r) s = .next (sendReq (.getr r) b) ∧
          b.home = s.home ∧ b.mem = s.mem ∧ stnOf b n = some { x with xcache := ((stnOf b n).map (·.xcache)).getD [] }))) ∧
    (∀ s r, s.pwr.phase = .ready → issueHeld s = false → freeAgent s r.who = true → ∀ p ∈ [(Instr.getu r, HReq.getu r), (.getc r, .getc r)],
      (p.1 = .getc r → ∃ d, r.who = .core d) →
      (homeRefuses s r = some 0x10000 → exec p.1 s = .next (sendMsg (.refuse r 0x10000) s)) ∧
      (HomeHears s r → lineBusy (hline s (lkey r.stack r.line)) = true → (hline s (lkey r.stack r.line)).st ≠ .fp → ∃ t, exec p.1 s = .next t ∧ t.mem = s.mem ∧ t.home.net = s.home.net ∧
        (hline t (lkey r.stack r.line)).held = [p.2] ∧ (hline t (lkey r.stack r.line)).st = (hline s (lkey r.stack r.line)).st ∧ (hline t (lkey r.stack r.line)).batch = (hline s (lkey r.stack r.line)).batch) ∧
      (HomeTakes s r → (hline s (lkey r.stack r.line)).cached = true → ∃ t, exec p.1 s = .next t ∧ t.mem = s.mem ∧
        (repairSource s r.stack r.line = none → t.home.net = s.home.net ++ [.fill r.stack r.line (lineBytes s r.stack r.line) (linePoisoned s r.stack r.line) [r]]) ∧
        (∀ k l, repairSource s r.stack r.line = some (k, l) → t.home.net = s.home.net ++ [.fill r.stack r.line (lineBytes s k l) false [r]])) ∧
      (HomeTakes s r → (hline s (lkey r.stack r.line)).cached = false → ∃ t, exec p.1 s = .next t ∧ t.mem = s.mem ∧ t.home.net = s.home.net ∧
        (hline t (lkey r.stack r.line)).st = .fp ∧ (hline t (lkey r.stack r.line)).merge = [p.2])) ∧
    (∀ s r m d, s.pwr.phase = .ready → issueHeld s = false → freeAgent s r.who = true → HomeTakes s r → replicaLine s r.stack r.line = none →
      ((hline s (lkey r.stack r.line)).cached = false → m ≠ 2 ^ 128 - 1 → ∃ t, exec (.write r m d) s = .next t ∧ Fills s t r (.write r m d)) ∧
      ((hline s (lkey r.stack r.line)).cached = true ∨ (m = 2 ^ 128 - 1 ∧ (wayFor s r.stack r.line).isSome = true) → ∃ t, exec (.write r m d) s = .next t ∧
        (∀ i < 128, memByte t r.stack (r.line * 128 + i) = if bitOf m i then nth 0 d i else memByte s r.stack (r.line * 128 + i)) ∧
        (∀ k a, a < 2 ^ 36 → (k ≠ r.stack ∨ a / 128 ≠ r.line) → memByte t k a = memByte s k a) ∧
        ((hline s (lkey r.stack r.line)).sharers = [] → t.home.net = s.home.net ++ [.wrAck r 0]) ∧
        ((∃ e ∈ (hline s (lkey r.stack r.line)).sharers, e.1 ∉ s.seam.fenced) → t.home.net = s.home.net ∧ (hline t (lkey r.stack r.line)).st = .bl ∧
          (hline t (lkey r.stack r.line)).owed = [.wrAck r 0] ∧ ∀ e ∈ (hline s (lkey r.stack r.line)).sharers, e.1 ∉ s.seam.fenced →
            e.1 ∈ (hline t (lkey r.stack r.line)).await ∧ (lkey r.stack r.line, e.1) ∈ t.home.invs))) ∧
    (∀ s r o, s.pwr.phase = .ready → issueHeld s = false → freeAgent s r.who = true → HomeHears s r →
      (redAccepts (hline s (lkey r.stack r.line)) = false → ∃ t, exec (.red r o) s = .next t ∧ t.mem = s.mem ∧ t.home.net = s.home.net ∧
        (hline t (lkey r.stack r.line)).held = [.red r o] ∧ (hline t (lkey r.stack r.line)).batch = (hline s (lkey r.stack r.line)).batch) ∧
      (redAccepts (hline s (lkey r.stack r.line)) = true → o.ordered = false ∨ (o.count = 1 ∧ o.seq = 0 ∧ orderedOf s (lkey r.stack r.line) = none) →
        ((hline s (lkey r.stack r.line)).cached = false → ∃ t, exec (.red r o) s = .next t ∧ Fills s t r (.red r o)) ∧
        ((hline s (lkey r.stack r.line)).cached = true → ∃ t, exec (.red r o) s = .next t ∧ (hline t (lkey r.stack r.line)).isHeld = true ∧
          (hline t (lkey r.stack r.line)).batch = (hline s (lkey r.stack r.line)).batch ++ [(r, o)] ∧ t.home.net = s.home.net ∧ t.mem = s.mem ∧
          ((∃ e ∈ (hline s (lkey r.stack r.line)).sharers, e.1 ∉ s.seam.fenced) → (hline t (lkey r.stack r.line)).st = .bl))) ∧
      (redAccepts (hline s (lkey r.stack r.line)) = true → o.ordered = true → o.count ≤ o.seq → ∃ t, exec (.red r o) s = .next t ∧
        t.home.net = s.home.net ++ [.redAck r 0xB7] ∧ t.mem = s.mem ∧ t.home.ordered = s.home.ordered) ∧
      (redAccepts (hline s (lkey r.stack r.line)) = true → o.ordered = true → o.seq < o.count → o.seq ≠ 0 → orderedOf s (lkey r.stack r.line) = none → orderUsed s r.stack < 8192 →
        (orderStored s r.stack < 4096 → ∃ t, exec (.red r o) s = .next t ∧ orderedOf t (lkey r.stack r.line) = some ⟨o.count, 0, [(r, o)], refOf s (crustDie r.stack)⟩ ∧
          t.home.net = s.home.net ∧ t.mem = s.mem) ∧
        (4096 ≤ orderStored s r.stack → ∃ t, exec (.red r o) s = .next t ∧ t.home.net = s.home.net ++ [.retry r o] ∧ t.home.ordered = s.home.ordered ∧ t.mem = s.mem))) ∧
    (∀ s who n x q r o p, s.pwr.phase = .ready → issueHeld s = false → who ∈ [Agent.sem n] ++ (List.range 64).map (Agent.semGrp n) → r.who = who → liveOf s n = some x →
      semAcc s who = some q → q.st = 0 → inCounters q.addr = false → owinAt s x.ctx q.addr = none → xlate s x q.addr = some p → semHeld x (semMark s who) q.addr = false →
      (q.release = true → releaseReady s x q.scope (semMark s who) = true → .red r o = semAddReq p.stack p.line p.off x.ctx p.handle q.val who →
        (p.ro = true → exec (.red r o) s = .next (semXlate who n 2 q s)) ∧
        (p.ro = false → who = .sem n → ∃ b, exec (.red r o) s = .next (sendReq (.red r o) b) ∧ semAcc b who = some { q with st := 1 } ∧ b.home = s.home ∧ b.mem = s.mem) ∧
        (∀ g z, p.ro = false → who = .semGrp n g → tget? x.groups g = some z → ∃ b y f,
          exec (.red r o) s = .next (sendReq (semAddReq p.stack p.line p.off x.ctx p.handle q.val (.xfer n s.sch.xseq 0)) b) ∧ stnOf b n = some y ∧
          tget? y.groups g = some { z with waiting := none, pc := z.pc + 8 } ∧ y.xfers = x.xfers ++ [f] ∧ f.id = s.sch.xseq ∧ f.kind = .semAdd ∧ b.home = s.home ∧ b.mem = s.mem)) ∧
      (q.release = false → placeIs s x q.addr r = true → ∃ b, exec (.homeSemWait r (q.addr % 128) q.val) s = .next (sendReq (.semWait r (q.addr % 128) q.val) b) ∧
        semAcc b who = some { q with st := 1 } ∧ b.home = s.home ∧ b.mem = s.mem)) ∧
    (∀ s r off val, s.pwr.phase = .ready → issueHeld s = false → freeAgent s r.who = true → HomeTakes s r → off % 8 = 0 → off < 128 →
      (linePoisoned s r.stack r.line = true → ∃ t, exec (.homeSemWait r off val) s = .next t ∧ t.home.net = s.home.net ++ [.semOk r 0x3A] ∧ t.mem = s.mem) ∧
      (linePoisoned s r.stack r.line = false → signedOf 64 val ≤ signedOf 64 (field (lineBytes s r.stack r.line) off 8) →
        ∃ t, exec (.homeSemWait r off val) s = .next t ∧ t.home.net = s.home.net ++ [.semOk r 0] ∧ t.mem = s.mem ∧ t.home.waiters = s.home.waiters) ∧
      (linePoisoned s r.stack r.line = false → signedOf 64 (field (lineBytes s r.stack r.line) off 8) < signedOf 64 val →
        ((tget [] s.home.waiters r.stack).length < 4096 → ∃ t, exec (.homeSemWait r off val) s = .next t ∧ t.home.net = s.home.net ∧
          tget [] t.home.waiters r.stack = tget [] s.home.waiters r.stack ++ [⟨r, off, val⟩] ∧ t.mem = s.mem) ∧
        (4096 ≤ (tget [] s.home.waiters r.stack).length → ∃ t, exec (.homeSemWait r off val) s = .next t ∧ t.home.net = s.home.net ++ [.semRetry r off val] ∧
          t.home.waiters = s.home.waiters ∧ (cruOf t r.stack).retries = min 65535 ((cruOf s r.stack).retries + 1) ∧ t.mem = s.mem)))

/-- INV, INV_DROP and PART_ACK: an invalidation fans out, stations drop the line, and the round ends with the last partition. -/
def Obligations.InvalidationRounds : Prop :=
  (∀ s k l p, s.pwr.phase = .ready →
      ((lkey k l, p) ∉ s.home.invs → exec (.inv k l p) s = .next s) ∧
      ((lkey k l, p) ∈ s.home.invs → ∃ t, exec (.inv k l p) s = .next t ∧ { t with home := s.home } = s ∧ (lkey k l, p) ∉ t.home.invs ∧ (lkey k l, p) ∈ t.home.fanned ∧
        (∀ e, e ≠ (lkey k l, p) → (e ∈ t.home.invs ↔ e ∈ s.home.invs)) ∧ t.home.lines = s.home.lines ∧ t.home.net = s.home.net ∧
        (∀ key n, (key, n) ∈ t.home.drops ↔ (key, n) ∈ s.home.drops ∨
          (key = lkey k l ∧ n / 168 = p ∧ bitOf (tget 0 (hline s (lkey k l)).sharers p) (n % 168 / 8) = true)))) ∧
    (∀ s n k l, s.pwr.phase = .ready →
      ((lkey k l, n) ∉ s.home.drops → exec (.invDrop n k l) s = .next s) ∧
      (∀ x, (lkey k l, n) ∈ s.home.drops → stnOf s n = some x → ∃ t y, exec (.invDrop n k l) s = .next t ∧ stnOf t n = some y ∧
        y.cache = x.cache.filter (fun c => !decide (c.1 = lkey k l)) ∧ y.pend = x.pend.map (fun e => if e.1 = lkey k l then (e.1, e.2.1, true) else e) ∧ y.ls = x.ls ∧ y.xfers = x.xfers ∧ t.mem = s.mem ∧
        (∀ e, e ∈ t.home.drops ↔ e ∈ s.home.drops ∧ e ≠ (lkey k l, n)) ∧ { t.home with drops := s.home.drops } = s.home ∧
        (∀ m a ws i p, tget? x.rg.miss m = some (a, ws, i) → xlate s x a = some p → tget? y.rg.miss m = some (a, ws, i || decide (lkey p.stack p.line = lkey k l))))) ∧
    (∀ s k l p, s.pwr.phase = .ready →
      ((lkey k l, p) ∉ s.home.fanned ∨ (∃ n, (lkey k l, n) ∈ s.home.drops ∧ n / 168 = p) → exec (.partAck k l p) s = .next s) ∧
      ((lkey k l, p) ∈ s.home.fanned → (∀ n, (lkey k l, n) ∈ s.home.drops → n / 168 ≠ p) → (hline s (lkey k l)).st = .bl → (hline s (lkey k l)).held = [] → settled s k l = true → l < 2 ^ 29 →
        ((∃ q ∈ (hline s (lkey k l)).await, q ≠ p) → ∃ t, exec (.partAck k l p) s = .next t ∧ (hline t (lkey k l)).st = .bl ∧
          (hline t (lkey k l)).await = (hline s (lkey k l)).await.filter (fun q => !decide (q = p)) ∧ t.home.net = s.home.net ∧ t.mem = s.mem) ∧
        ((∀ q ∈ (hline s (lkey k l)).await, q = p) → ∃ t, exec (.partAck k l p) s = .next t ∧ (hline t (lkey k l)).st = .ns ∧
          (hline t (lkey k l)).sharers = [] ∧ (hline t (lkey k l)).await = [] ∧ (∀ m ∈ (hline s (lkey k l)).owed, m ∈ t.home.net) ∧ (tget [] s.home.waiters k = [] → t.home.net = s.home.net ++ (hline s (lkey k l)).owed) ∧
          (linePoisoned s k l = false → ∀ w ∈ tget [] s.home.waiters k, ∀ j < 16, w.r.stack = k → w.r.line = l → w.off = 8 * j →
            signedOf 64 w.val ≤ signedOf 64 (field (lineBytes s k l) (8 * j) 8) → .semOk w.r 0 ∈ t.home.net) ∧ (lkey k l, p) ∉ t.home.fanned ∧ t.mem = s.mem)))

/-- FILL, WR_ACK, RED_ACK, SEM_OK, SEM_RETRY and RETRY: what an answer of a home does at the agent that asked. -/
def Obligations.HomeAnswersReachTheirAgents : Prop :=
  (∀ s k, s.pwr.phase = .ready → s.home.net[k]? = none → ∀ i ∈ [Instr.fill k, .wrAck k, .redAck k, .semOk k, .semRetry k, .retry k], exec i s = .next s) ∧
    (∀ s k c l data poison r, s.pwr.phase = .ready → s.home.net[k]? = some (.fill c l data poison [r]) →
      (r.who ∈ [.bar4, .core 48, .core 49] → exec (.fill k) s = .next (takeMsg k s)) ∧
      (∀ w src tag, r.who = .rbx w src tag → exec (.fill k) s = .next (pumpRbx (inbAnswer r (if poison then 7 else 0) data (takeMsg k s)))) ∧
      (∀ n xid j x f p, r.who = .xfer n xid j → stnOf s n = some x → pieceOf x xid j = some (f, p) →
        (poison = true → servedBy f p = [j] → f.id = xid → exec (.fill k) s = .next (if placeRo s x p.addr then pieceFault n f p j 5 (takeMsg k s)
          else agentFault (.xfer n xid j) 0x3A 0 (takeMsg k s))) ∧
        (poison = false → ∃ b y, exec (.fill k) s = .next (pump n b) ∧ stnOf b n = some y ∧ (∀ i ∈ servedBy f p, PieceAt b n xid i 2) ∧
          b.home = { s.home with net := s.home.net.eraseIdx k } ∧ b.mem = s.mem ∧
          (servedBy f p = [j] → p.addr % 128 + p.len ≤ 128 → data.length = 128 → (∀ i < p.len, tget 0 y.ls (p.loc + i) = nth 0 data (p.addr % 128 + i)) ∧
            ∀ a, (a < p.loc ∨ p.loc + p.len ≤ a) → tget 0 y.ls a = tget 0 x.ls a))) ∧
      (∀ n m, r.who = .missReg n m → exec (.fill k) s = .next (serveMiss n m data poison (takeMsg k s))) ∧
      (∀ n x ws inval, r.who = .cache n → stnOf s n = some x → pendOf x (lkey r.stack r.line) = some (ws, inval) →
        (∀ w xid j f p, poison = true → ws = [w] → w.who = .xfer n xid j → pieceOf x xid j = some (f, p) →
          exec (.fill k) s = .next (pump n (pieceFault n f p j 5 (setStn n (dropPend (lkey r.stack r.line)) (takeMsg k s))))) ∧
        (poison = false → (∀ w ∈ ws, ∃ xid j, w.who = .xfer n xid j ∧ (pieceOf x xid j).isSome = true) →
          ∃ b y, exec (.fill k) s = .next (pump n b) ∧ stnOf b n = some y ∧ y.pend = (dropPend (lkey r.stack r.line) x).pend ∧ (inval = true → y.cache = x.cache) ∧
            (inval = false → 8 ≤ cacheLines x.kind x.split → y.cache.head? = some (lkey r.stack r.line, data)) ∧
            (∀ w ∈ ws, ∀ xid j, w.who = .xfer n xid j → PieceAt b n xid j 2) ∧ b.home = { s.home with net := s.home.net.eraseIdx k } ∧ b.mem = s.mem))) ∧
    (∀ s k r st, s.pwr.phase = .ready → ∀ p ∈ [(Instr.wrAck k, Msg.wrAck r st), (.redAck k, .redAck r st)], s.home.net[k]? = some p.2 →
      (r.who ∈ [.bar4, .core 48, .core 49] → exec p.1 s = .next (takeMsg k s)) ∧
      (∀ w src tag, r.who = .rbx w src tag → exec p.1 s = .next (pumpRbx (inbAnswer r (if st = 0 then 0 else if p.1 = .wrAck k then 6 else 7) [] (takeMsg k s)))) ∧
      (∀ j, r.who = .piper j → exec p.1 s = .next (piperFlush j (takeMsg k s))) ∧
      (∀ q seq, r.who = .cmd q seq → exec p.1 s = .next (if p.1 = .wrAck k ∧ st = 0 then markBound q seq (takeMsg k s) else finishCmd q seq st 0 (takeMsg k s))) ∧
      (∀ n xid j x f q, r.who = .xfer n xid j → stnOf s n = some x → pieceOf x xid j = some (f, q) →
        (st = 0xB7 → exec p.1 s = .next (agentFault (.xfer n xid j) 0xB7 0 (takeMsg k s))) ∧
        (st = 0 → ∃ b y, exec p.1 s = .next (pump n b) ∧ stnOf b n = some y ∧ b.home = { s.home with net := s.home.net.eraseIdx k } ∧ b.mem = s.mem ∧ y.ls = x.ls ∧
          (f.kind ≠ .semAdd → ∀ i ∈ servedBy f q, PieceAt b n xid i 2) ∧
          (f.kind = .semAdd → y.xfers = x.xfers.filter (fun g => !decide (g.id = xid ∧ g.kind = .semAdd)))))) ∧
    (∀ s k r st n, s.pwr.phase = .ready → ∀ p ∈ [(Instr.redAck k, Msg.redAck r st), (.semOk k, .semOk r st)], s.home.net[k]? = some p.2 →
      (∀ q seq, r.who = .cmd q seq → exec p.1 s = .next (finishCmd q seq st 0 (takeMsg k s))) ∧
      (r.who ∈ [Agent.sem n] ++ (List.range 64).map (Agent.semGrp n) →
      (semOwn s r = false → exec p.1 s = .next (takeMsg k s)) ∧
      (semOwn s r = true → p.1 = .semOk k → st ≠ 0 → exec p.1 s = .next (agentFault r.who st 0 (takeMsg k s))) ∧
      (∀ x, semOwn s r = true → st = 0 → stnOf s n = some x → ∃ b y, exec p.1 s = .next (pump n b) ∧ stnOf b n = some y ∧ b.home = { s.home with net := s.home.net.eraseIdx k } ∧
        b.mem = s.mem ∧ y.ls = x.ls ∧
        (∀ i w, r.who = .sem n → tget? x.works i = some w → tget? y.works i = some (if w.st = .wait ∧ dOp (nth [] x.descs i) ∈ [6, 7] then { w with st := .fin } else w)) ∧
        (∀ g z v, r.who = .semGrp n g → tget? x.groups g = some z → z.waiting = some (10, v) → tget? y.groups g = some { z with waiting := none, pc := z.pc + 8 })))) ∧
    (∀ s k, s.pwr.phase = .ready → ∀ m i h, (m, i, h) ∈ ((s.home.net[k]?).toList.filterMap (fun m => match m with
        | .semRetry r off val => some (m, Instr.semRetry k, HReq.semWait r off val)
        | .retry r o => some (m, Instr.retry k, HReq.red r o)
        | _ => none)) → ∃ t, exec i s = .next t ∧ t.home.net = s.home.net.eraseIdx k ∧ t.home.later = s.home.later ++ [(h, refOf s (agentDie s (reqOf h).who) + 25)] ∧
          { t with home := s.home } = s)

/-- STACK_DATA_ARRIVAL, REPLICA_REPAIR, REDUCTION_APPLY, HOLD_END, ORDER_TIMEOUT, WRITE_BATCH_DRAIN, SCRUB_READ, THRASH_WINDOW and FREED_GRANULE_ZEROED. -/
def Obligations.HomeWorkOnItsLines : Prop :=
  (∀ s k l e, s.pwr.phase = .ready →
      ((hline s (lkey k l)).st ≠ .fp ∨ (hline s (lkey k l)).ready = true ∨ crustWorks s k = false → exec (.stackDataArrival k l e) s = .next s) ∧
      ((hline s (lkey k l)).st = .fp → (hline s (lkey k l)).ready = false → crustWorks s k = true → settled s k l = true → l < 2 ^ 29 → (hline s (lkey k l)).held = [] →
        (∀ h, e = .clean → (hline s (lkey k l)).waitDir = false → (hline s (lkey k l)).merge = [h] → repairSource s k l = none → sharerOf h = none ∨ needsRecall s k l = none →
          ((wayFor s k l).isSome = true → ∃ t, exec (.stackDataArrival k l e) s = .next t ∧ t.mem = s.mem ∧
            t.home.net = s.home.net ++ [.fill k l (lineBytes s k l) (linePoisoned s k l) [reqOf h]] ∧ (hline t (lkey k l)).cached = true ∧
            (hline t (lkey k l)).merge = [] ∧ (hline t (lkey k l)).st ∈ [.ns, .sh]) ∧
          (wayFor s k l = none → (∀ w ∈ heldWays s k l, (hline s (lkey k (w - 1))).batch ≠ []) → ∃ t, exec (.stackDataArrival k l e) s = .next t ∧ t.mem = s.mem ∧
            t.home.net = s.home.net ∧ (hline t (lkey k l)).st = .fp ∧ (hline t (lkey k l)).ready = true ∧ l ∈ (cruOf t k).wayWait ∧
            (cruOf t k).closes = min 65535 ((cruOf s k).closes + 1) ∧ ∀ w ∈ heldWays s k l, (hline t (lkey k (w - 1))).closed = true)) ∧
        (e = .symbols 1 → lkey k l ∉ s.mem.poison → ∃ t, exec (.stackDataArrival k l e) s = .next t ∧ t.mem = s.mem ∧
          tget 0 (cruOf t k).corr (chanOf (cruOf s k).chOut l) = min (2 ^ 32 - 1) (tget 0 (cruOf s k).corr (chanOf (cruOf s k).chOut l) + 1)) ∧
        (∀ n, 2 ≤ n → e = .symbols n → lkey k l ∉ s.mem.poison → ∃ t, exec (.stackDataArrival k l e) s = .next t ∧ linePoisoned t k l = true ∧
          tget 0 (cruOf t k).uncorr (chanOf (cruOf s k).chOut l) = min 65535 (tget 0 (cruOf s k).uncorr (chanOf (cruOf s k).chOut l) + 1)) ∧
        (∀ h, hasMac s k l = some h → e = .macMismatch → lkey k l ∉ s.mem.poison → ∃ t, exec (.stackDataArrival k l e) s = .next t ∧ linePoisoned t k l = true ∧
          t.sec.integFails = min (2 ^ 32 - 1) (s.sec.integFails + 1) ∧ ∃ r ∈ t.cmd.evq, field r.bytes 4 2 = 0x0040))) ∧
    (∀ s h i num x k a k2 a2, s.pwr.phase = .ready → extByHandle s h = some (num, x) → locate x (128 * i) = some (k, a) → locateRep x (128 * i) = some (k2, a2) →
      (lkey k (a / 128) ∉ s.mem.poison → exec (.replicaRepair h i) s = .next s) ∧
      (lkey k (a / 128) ∈ s.mem.poison → attrReadOnly x.attr = true → attrReplica x.attr = true → homeDown s k = false → homeDown s k2 = false →
        lineBusy (hline s (lkey k (a / 128))) = false → linePoisoned s k2 (a2 / 128) = false → ∃ t, exec (.replicaRepair h i) s = .next t ∧ lkey k (a / 128) ∉ t.mem.poison ∧
          (∀ j < 128, memByte t k (a / 128 * 128 + j) = memByte s k2 (a2 / 128 * 128 + j)) ∧ t.home.net = s.home.net)) ∧
    (∀ s k l, s.pwr.phase = .ready →
      (crustWorks s k = false ∨ (hline s (lkey k l)).batch = [] → exec (.reductionApply k l) s = .next s) ∧
      (∀ r o rest, crustWorks s k = true → (hline s (lkey k l)).batch = (r, o) :: rest → (hline s (lkey k l)).held = [] → (hline s (lkey k l)).st ≠ .fp → settled s k l = true → l < 2 ^ 29 →
        (linePoisoned s k l = true → (hline s (lkey k l)).st ≠ .bl → ∃ t, exec (.reductionApply k l) s = .next t ∧ t.mem = s.mem ∧ (hline t (lkey k l)).batch = rest ∧
          t.home.net = s.home.net ++ [.redAck r 0x3A]) ∧
        (linePoisoned s k l = false → ∃ t, exec (.reductionApply k l) s = .next t ∧ (hline t (lkey k l)).batch = rest ∧ (hline t (lkey k l)).dirty = true ∧
          (∀ j < 128 / redBytes o.ty, field (lineBytes t k l) (j * redBytes o.ty) (redBytes o.ty) = if bitOf o.mask j = true then
            redElem o.op o.ty (field (lineBytes s k l) (j * redBytes o.ty) (redBytes o.ty)) (field o.data (j * redBytes o.ty) (redBytes o.ty)) % 256 ^ redBytes o.ty
            else field (lineBytes s k l) (j * redBytes o.ty) (redBytes o.ty)) ∧
          (∀ c a, a < 2 ^ 36 → (c ≠ k ∨ a / 128 ≠ l) → memByte t c a = memByte s c a) ∧ t.mem.poison = s.mem.poison ∧
          ((hline s (lkey k l)).st = .bl → t.home.net = s.home.net ∧ (hline t (lkey k l)).owed = (hline s (lkey k l)).owed ++ [.redAck r 0]) ∧
          ((hline s (lkey k l)).st ≠ .bl → o.ty ≠ 3 → t.home.net = s.home.net ++ [.redAck r 0]) ∧
          ((hline s (lkey k l)).st ≠ .bl → o.ty = 3 → .redAck r 0 ∈ t.home.net ∧
            ∀ w ∈ tget [] s.home.waiters k, ∀ j < 16, w.r.stack = k → w.r.line = l → w.off = 8 * j → bitOf o.mask j = true →
            signedOf 64 w.val ≤ signedOf 64 (field (lineBytes t k l) (8 * j) 8) → .semOk w.r 0 ∈ t.home.net)))) ∧
    (∀ s k l, s.pwr.phase = .ready →
      ((hline s (lkey k l)).isHeld = false ∨ (hline s (lkey k l)).batch ≠ [] → exec (.holdEnd k l) s = .next s) ∧
      ((hline s (lkey k l)).isHeld = true → (hline s (lkey k l)).batch = [] → (hline s (lkey k l)).held = [] → (hline s (lkey k l)).st ≠ .fp → settled s k l = true → l < 2 ^ 29 →
        ∃ t, exec (.holdEnd k l) s = .next t ∧ hline t (lkey k l) = { hline s (lkey k l) with isHeld := false, closed := false } ∧
          (∀ j, j ≠ lkey k l → (hline t j).held = (hline s j).held ∧ (hline t j).batch = (hline s j).batch ∧ (hline t j).isHeld = (hline s j).isHeld) ∧ t.mem = s.mem ∧ t.home.net = s.home.net)) ∧
    (∀ s k l q ms, s.pwr.phase = .ready → orderedOf s (lkey k l) = some q → ms = (List.range q.count).filterMap (fun i => q.stored.find? (fun e => decide (e.2.seq = i))) →
      (refOf s (crustDie k) - q.since < (cruOf s k).orderMs * refMs → exec (.orderTimeout k l) s = .next s) ∧
      ((cruOf s k).orderMs * refMs ≤ refOf s (crustDie k) - q.since → redAccepts (hline s (lkey k l)) = true → (hline s (lkey k l)).cached = true → (hline s (lkey k l)).sharers = [] →
        (hline s (lkey k l)).held = [] → settled s k l = true → l < 2 ^ 29 → (hline s (lkey k l)).batch.length + ms.length ≤ 32 →
        ∃ t, exec (.orderTimeout k l) s = .next t ∧ orderedOf t (lkey k l) = none ∧
        (hline t (lkey k l)).batch = (hline s (lkey k l)).batch ++ ms.map (fun e => (e.1, { e.2 with ordered := false })) ∧
        (cruOf t k).timeouts = min 65535 ((cruOf s k).timeouts + 1) ∧ Raised s t (crustDie k) 0x0003 0 0 (l * 128) q.next 0 ∧ t.mem = s.mem)) ∧
    (∀ s k c, s.pwr.phase = .ready → (crustWorks s k = false → exec (.writeBatchDrain k c) s = .next s) ∧
      (crustWorks s k = true → ∃ t, exec (.writeBatchDrain k c) s = .next t ∧ t.mem = s.mem ∧
        tget [] (cruOf t k).wrHeld c = (tget [] (cruOf s k).wrHeld c).drop (cruOf s k).wrBatch ∧ (∀ j, j ≠ c → tget [] (cruOf t k).wrHeld j = tget [] (cruOf s k).wrHeld j) ∧
        (∀ j, j ≠ k → cruOf t j = cruOf s j))) ∧
    (∀ s k l e fresh, s.pwr.phase = .ready → fresh = (scrubOver s k && scrubDue s k) →
      ((cruOf s k).scrubOn = false ∨ crustWorks s k = false ∨ withdrawn s k l = true ∨ usableGrans s k * 512 ≤ l ∨ (l ∈ (cruOf s k).scrubDone ∧ fresh = false) →
        exec (.scrubRead k l e) s = .next s) ∧
      ((cruOf s k).scrubOn = true → crustWorks s k = true → withdrawn s k l = false → l < usableGrans s k * 512 → l ∉ (cruOf s k).scrubDone ∨ fresh = true →
        ∃ t done, exec (.scrubRead k l e) s = .next t ∧ done = l :: (if fresh then [] else (cruOf s k).scrubDone) ∧ (cruOf t k).scrubDone = done ∧
        (cruOf t k).scrubAt = (if fresh then refOf s (crustDie k) else (cruOf s k).scrubAt) ∧
        (usableGrans s k * 512 ≤ done.length → (cruOf t k).scrubPasses = ((cruOf s k).scrubPasses + 1) % 2 ^ 32) ∧
        (done.length < usableGrans s k * 512 → (cruOf t k).scrubPasses = (cruOf s k).scrubPasses) ∧
        (e = .clean ∨ lkey k l ∈ s.mem.poison → t.mem = s.mem ∧ (cruOf t k).corr = (cruOf s k).corr ∧ t.cmd.evq = s.cmd.evq) ∧
        (e = .symbols 1 → lkey k l ∉ s.mem.poison → t.mem = s.mem ∧
          tget 0 (cruOf t k).corr (chanOf (cruOf s k).chOut l) = min (2 ^ 32 - 1) (tget 0 (cruOf s k).corr (chanOf (cruOf s k).chOut l) + 1)) ∧
        (∀ n, 2 ≤ n → e = .symbols n → lkey k l ∉ s.mem.poison → linePoisoned t k l = true))) ∧
    (∀ s k n u now, s.pwr.phase = .ready → u = cruOf s k → now = refOf s (crustDie k) / 25000 →
      (crustWorks s k = false ∨ now ≤ tget 0 u.missWin n → exec (.thrashWindow k n) s = .next s) ∧
      (crustWorks s k = true → tget 0 u.missWin n < now → ∃ t, exec (.thrashWindow k n) s = .next t ∧ tget 0 (cruOf t k).misses n = 0 ∧ tget 0 (cruOf t k).missWin n = now ∧ t.mem = s.mem ∧
        (u.thrEnable = true → u.thrThresh ≤ tget 0 u.misses n → tget 0 u.silent n = 0 →
          t.cmd.evq = s.cmd.evq ++ [⟨thrashBytes s k n (tget 0 u.misses n), some n⟩] ∧ tget 0 (cruOf t k).silent n = 99) ∧
        (u.thrEnable = false ∨ tget 0 u.misses n < u.thrThresh ∨ tget 0 u.silent n ≠ 0 →
          t.cmd.evq = s.cmd.evq ∧ tget 0 (cruOf t k).silent n = tget 0 u.silent n - (now - tget 0 u.missWin n)))) ∧
    (∀ s k g, s.pwr.phase = .ready →
      ((∀ e ∈ s.xt.freeing, ¬ (e.1 = k ∧ e.2.1 = g)) → exec (.freedGranuleZeroed k g) s = .next s) ∧
      (∀ e, s.xt.freeing.find? (fun e => decide (e.1 = k ∧ e.2.1 = g)) = some e → g < 2 ^ 20 → ∃ t, exec (.freedGranuleZeroed k g) s = .next t ∧ t.xt.freeing = s.xt.freeing.erase e ∧
        (∀ a < 65536, memByte t k (g * 65536 + a) = 0) ∧ (∀ c a, a < 2 ^ 36 → (c ≠ k ∨ a / 65536 ≠ g) → memByte t c a = memByte s c a) ∧ t.home = s.home))

/-- EXTENT_WALK, STALE_EXTENT, ALL_STALLED, FAULT_BATCH_DELIVERY, BAR4_READ, BAR4_WRITE and HOST_WC_WRITEBACK. -/
def Obligations.TranslationMissesFaultBatchesAndTheAperture : Prop :=
  (∀ s n x a g i acc len, s.pwr.phase = .ready → issueHeld s = false → liveOf s n = some x → xlate s x a = none → inCounters a = false → owinAt s x.ctx a = none →
      (walkPieces x a g i = [] → walkSems s n x a g i = [] → (g = 3 → ∀ m ∈ walkMisses s n x a, i ∉ m.2) → exec (.extentWalk n x.ctx a acc g i len) s = .next s) ∧
      (walkPieces x a g i ≠ [] ∨ walkSems s n x a g i ≠ [] ∨ (g = 3 ∧ ∃ m ∈ walkMisses s n x a, i ∈ m.2) → ∀ m y, findMap s x.ctx a = some (m, y) → ∃ t z,
        exec (.extentWalk n x.ctx a acc g i len) s = .next t ∧ stnOf t n = some z ∧ z.xcache.head? = some (x.ctx, handleOf m.num y, m.start) ∧ z.xcache.length ≤ 32 ∧
        { z with xcache := x.xcache } = x ∧ t.home = s.home ∧ t.mem = s.mem ∧ (∀ j, j ≠ n → stnOf t j = stnOf s j)) ∧
      (∀ f p k, walkPieces x a g i = [(f, p, k)] → walkSems s n x a g i = [] → g ≠ 3 → findMap s x.ctx a = none →
        exec (.extentWalk n x.ctx a acc g i len) s = .next (pieceFault n f p k 1 s)) ∧
      (∀ m ws, walkPieces x a 3 i = [] → walkSems s n x a 3 i = [] → walkMisses s n x a = [(m, ws)] → i ∈ ws → findMap s x.ctx a = none →
        exec (.extentWalk n x.ctx a acc 3 i len) s = .next (missFault n m a 1 ws s))) ∧
    (∀ s n c a, s.pwr.phase = .ready →
      ((∀ m ∈ s.home.net, staleFor s n c a m = false) → exec (.staleExtent n c a) s = .next s) ∧
      (∀ r st xid k x f p, s.home.net.find? (staleFor s n c a) = some (.refuse r st) → r.who = .xfer n xid k → stnOf s n = some x → pieceOf x xid k = some (f, p) → ∃ t y,
        exec (.staleExtent n c a) s = .next t ∧ stnOf t n = some y ∧ y.xcache = x.xcache.filter (fun e => !decide (e.2.1 = r.handle)) ∧
        (∀ j ∈ servedBy f p, PieceAt t n xid j 0) ∧ t.home = { s.home with net := s.home.net.erase (.refuse r st) } ∧ t.mem = s.mem)) ∧
    (∀ s c x b, s.pwr.phase = .ready → ctxOf s c = some x → x.openBatch = some b → b.recs ≠ [] →
      (ctxRunning s c = false ∨ (∃ e ∈ s.sch.stns, e.2.ctx = c ∧ e.2.kind ≠ 5 ∧ (∃ i, instOf s e.2.launch e.2.inst = some i ∧ i.ph ≠ .complete) ∧
        (e.2.waited < 25600 ∨ stnWaits s e.1 e.2 = false)) → exec (.allStalled c) s = .next s) ∧
      (ctxRunning s c = true → (∀ e ∈ s.sch.stns, e.2.ctx = c → e.2.kind ≠ 5 → ∀ i, instOf s e.2.launch e.2.inst = some i → i.ph ≠ .complete →
        25600 ≤ e.2.waited ∧ stnWaits s e.1 e.2 = true) → ∃ t, exec (.allStalled c) s = .next t ∧ ctxOf t c = some { x with openBatch := none, waiting := x.waiting ++ [(b, 2)] } ∧
        { t with ten := s.ten } = s ∧ ∀ d, d ≠ c → ctxOf t d = ctxOf s d)) ∧
    (∀ s c x b trig rest, s.pwr.phase = .ready → ctxOf s c = some x → x.waiting = (b, trig) :: rest →
      (s.xt.ringEnable = false ∨ faultRoom s b.recs.length = false → exec (.faultBatchDelivery c) s = .next s) ∧
      (s.xt.ringEnable = true → faultRoom s b.recs.length = true → ∃ r, exec (.faultBatchDelivery c) s = .next (raiseMsix s.xt.ringVec r) ∧
        r.xt.head = (s.xt.head + b.recs.length + 1) % ringLen s ∧ r.xt.delivered = min (2 ^ 32 - 1) (s.xt.delivered + 1) ∧
        ctxOf r c = some { x with waiting := rest, unresolved := x.unresolved ++ [b] } ∧ r.mem = s.mem ∧
        (s.xt.ringLog2 ≤ 20 → ∀ (i : Nat) bs, (batchHeader s c trig b :: b.recs.map (faultBytes c b.seq))[i]? = some bs → ∀ j < 64,
          tget 0 r.host.mem (hkey none (s.xt.ringBase + 64 * ((s.xt.head + i) % ringLen s) + j)) = nth 0 bs j))) ∧
    (∀ s off n, (s.pwr.phase ≠ .ready ∨ busUp s = false → exec (.bar4Read off n) s = .next (onesBack n false s)) ∧
      (BarUp s → apServe s off n false = none → ∃ t, exec (.bar4Read off n) s = .next t ∧ t.pci.rdData = List.replicate n 0xFF ∧
        t.xt.apMisses = min (2 ^ 32 - 1) (s.xt.apMisses + 1) ∧ t.mem = s.mem) ∧
      (BarUp s → ∀ c a, apServe s off n false = some (c, a) → (ctxBusy s c a n = true → exec (.bar4Read off n) s = .next s) ∧
        (ctxBusy s c a n = false → ctxPoisoned s c a n = true → ∃ t, exec (.bar4Read off n) s = .next t ∧ t.pci.rdData = List.replicate n 0xFF ∧ t.pci.rdPoison = true ∧
          t.xt.apPoisoned = min (2 ^ 32 - 1) (s.xt.apPoisoned + 1) ∧ t.mem = s.mem) ∧
        (ctxBusy s c a n = false → ctxPoisoned s c a n = false → ∃ t, exec (.bar4Read off n) s = .next t ∧ t.pci.rdData = ctxRead s c a n ∧ { t with pci := s.pci } = s))) ∧
    (∀ s off d, s.pwr.phase = .ready →
      (busUp s = false ∨ d = [] → exec (.bar4Write off d) s = .next s) ∧
      (busUp s = true → d ≠ [] → apServe s off d.length true = none → ∃ t, exec (.bar4Write off d) s = .next t ∧
        t.xt.apMisses = min (2 ^ 32 - 1) (s.xt.apMisses + 1) ∧ t.mem = s.mem ∧ t.home = s.home) ∧
      (∀ c a p, busUp s = true → d ≠ [] → apServe s off d.length true = some (c, a) → a % 128 + d.length ≤ 128 → translate s c a = some p → p.off = a % 128 → p.line < 2 ^ 29 →
        HomeTakes s ⟨p.stack, p.line, c, p.handle, .bar4⟩ → (hline s (lkey p.stack p.line)).cached = true ∨ d.length = 128 → wayFor s p.stack p.line ≠ none →
        replicaLine s p.stack p.line = none → ∃ t, exec (.bar4Write off d) s = .next t ∧ (∀ j < d.length, memByte t p.stack (p.line * 128 + p.off + j) = nth 0 d j) ∧
          (∀ k b, b < 2 ^ 36 → (k ≠ p.stack ∨ b < p.line * 128 + p.off ∨ p.line * 128 + p.off + d.length ≤ b) → memByte t k b = memByte s k b)) ∧
      (∀ c a p, busUp s = true → d ≠ [] → apServe s off d.length true = some (c, a) → a % 128 + d.length ≤ 128 → d.length < 128 → translate s c a = some p → p.off = a % 128 →
        HomeTakes s ⟨p.stack, p.line, c, p.handle, .bar4⟩ → (hline s (lkey p.stack p.line)).cached = false →
        ∃ t m l, exec (.bar4Write off d) s = .next t ∧ Fills s t ⟨p.stack, p.line, c, p.handle, .bar4⟩ (.write ⟨p.stack, p.line, c, p.handle, .bar4⟩ m l)) ∧
      (∀ c a, busUp s = true → d ≠ [] → apServe s off d.length true = some (c, a) → exec (.bar4Write off d) s = .next (ctxWrite c a d .bar4 s))) ∧
    (∀ s die keys, s.pwr.phase = .ready →
      (s.pci.active = false ∨ s.pci.linkUp = false → exec (.hostWcWriteback die keys) s = .next s) ∧
      (s.pci.active = true → s.pci.linkUp = true → HostMem.wf s.host = true → ∃ t, exec (.hostWcWriteback die keys) s = .next t ∧ { t with host := s.host } = s ∧
        (∀ k, hostByte t k = hostByte s k) ∧
        (∀ k, k ∈ keys → wcDie k = die → tget? t.host.dirty k = none ∧ ∀ b, tget? s.host.dirty k = some b → tget 0 t.host.mem k = b) ∧
        (∀ k, k ∉ keys ∨ wcDie k ≠ die → tget? t.host.dirty k = tget? s.host.dirty k ∧ tget 0 t.host.mem k = tget 0 s.host.mem k)))

/-- RBX_FLIT, RBX_NAK, IDLE_TIMEOUT, RBX_LOSS_OF_LOCK and RBX_PORT_UP: sequence, replay, credits, and ports going down and coming up. -/
def Obligations.RiberexPorts : Prop :=
  (∀ s p f r, s.pwr.phase = .ready → LeftAfter (portOf s p).replay f.ackSeq r → (f.nak = true → ∀ e ∈ r, e.1 ≠ f.ackSeq) →
      (24 ≤ p ∨ portUp s p = false → exec (.rbxFlit p f) s = .next s) ∧
      (p < 24 → portUp s p = true → f.crcOk = false → ∃ t, exec (.rbxFlit p f) s = .next t ∧ (∀ j, j ≠ p → portOf t j = portOf s j) ∧
        portOf t p = { portOf s p with heardAt := refOf s (portDie p), uncorrectable := min 65535 ((portOf s p).uncorrectable + 1), nakSent := true } ∧ t = { s with rbx := { s.rbx with ports := t.rbx.ports } }) ∧
      (p < 24 → portUp s p = true → f.crcOk = true → f.nak = false ∨ (∀ e ∈ r, e.2.2 < 8) → ∃ b v, exec (.rbxFlit p f) s = .next (pumpRbx b) ∧ portOf b p = v ∧
        v.acked = f.ackSeq ∧ v.heardAt = refOf s (portDie p) ∧ (∀ i < 3, nth 0 v.credits i = min (nth 0 [512, 512, 32] i) (nth 0 (portOf s p).credits i + nth 0 f.credits i % 256)) ∧
        (f.nak = false → v.replay = r ∧ v.replays = (portOf s p).replays) ∧
        (f.nak = true → v.replay = r.map (fun e => (e.1, e.2.1, e.2.2 + 1)) ∧ v.replays = min 65535 ((portOf s p).replays + r.length)) ∧ v.st = (portOf s p).st ∧ v.txSeq = (portOf s p).txSeq ∧
        (f.seq ≠ (portOf s p).rxSeq → v.nakSent = true ∧ v.rxSeq = (portOf s p).rxSeq ∧ v.rxUsed = (portOf s p).rxUsed) ∧
        (f.seq = (portOf s p).rxSeq → 3 ≤ f.vc → v.nakSent = false ∧ v.rxSeq = (portOf s p).rxSeq ∧ v.rxUsed = (portOf s p).rxUsed) ∧
        (f.seq = (portOf s p).rxSeq → f.vc < 3 → (portOf s p).rxUsed.length = 3 → v.nakSent = false ∧ v.rxSeq = ((portOf s p).rxSeq + 1) % 4096 ∧
          ∀ i < 3, nth 0 v.rxUsed i = nth 0 (portOf s p).rxUsed i + (if i = f.vc then 1 else 0)) ∧
        (∀ j, j ≠ p → portOf b j = portOf s j) ∧ { b with rbx := s.rbx } = s) ∧
      (p < 24 → portUp s p = true → f.crcOk = true → f.nak = true → (∃ e ∈ r, 8 ≤ e.2.2) → ∃ b n,
        exec (.rbxFlit p f) s = .next (pumpRbx b) ∧ (portOf b p).cause = 3 ∧ PortCleared b p 1 ∧ ⟨eventBytes (portDie p) 0x0028 (refOf s (portDie p)) 0 0 p 3 n, none⟩ ∈ b.cmd.evq)) ∧
    (∀ s p a r, s.pwr.phase = .ready → LeftAfter (portOf s p).replay (a % 4096) r →
      (24 ≤ p ∨ portUp s p = false → exec (.rbxNak p a) s = .next s) ∧
      (p < 24 → portUp s p = true → (∀ e ∈ r, e.2.2 < 8) → ∃ b, exec (.rbxNak p a) s = .next (pumpRbx b) ∧
        portOf b p = { portOf s p with acked := a % 4096, replay := r.map (fun e => (e.1, e.2.1, e.2.2 + 1)), replays := min 65535 ((portOf s p).replays + r.length) } ∧ { b with rbx := s.rbx } = s) ∧
      (p < 24 → portUp s p = true → (∃ e ∈ r, 8 ≤ e.2.2) → ∃ b n, exec (.rbxNak p a) s = .next (pumpRbx b) ∧
        (portOf b p).cause = 3 ∧ PortCleared b p 1 ∧ ⟨eventBytes (portDie p) 0x0028 (refOf s (portDie p)) 0 0 p 3 n, none⟩ ∈ b.cmd.evq)) ∧
    (∀ s p, s.pwr.phase = .ready → ∀ q ∈ [(Instr.idleTimeout p, 4), (.rbxLossOfLock p 0, 2), (.rbxLossOfLock p 7, 2)],
      (24 ≤ p ∨ portUp s p = false ∨ (q.2 = 4 ∧ refOf s (portDie p) - (portOf s p).heardAt < s.rbx.idleUs * 25) → exec q.1 s = .next s) ∧
      (p < 24 → portUp s p = true → q.2 = 2 ∨ s.rbx.idleUs * 25 ≤ refOf s (portDie p) - (portOf s p).heardAt → ∃ b n, exec q.1 s = .next (pumpRbx b) ∧
        (portOf b p).cause = q.2 ∧ PortCleared b p 1 ∧ (∀ j, j ≠ p → portOf b j = portOf s j) ∧
        ⟨eventBytes (portDie p) 0x0028 (refOf s (portDie p)) 0 0 p q.2 n, none⟩ ∈ b.cmd.evq ∧ b.mem = s.mem)) ∧
    (∀ s p lanes peer us, s.pwr.phase = .ready →
      ((portOf s p).st ≠ 1 → exec (.rbxPortUp p lanes peer us) s = .next s) ∧
      ((portOf s p).st = 1 → lanes % 16 ≠ 15 → lanes / 16 % 16 ≠ 15 → ∃ t, exec (.rbxPortUp p lanes peer us) s = .next t ∧ (portOf t p).st = 0 ∧ (portOf t p).cause = 6 ∧
        Raised s t (portDie p) 0x0028 0 0 p 6 0 ∧ (∀ j, j ≠ p → portOf t j = portOf s j)) ∧
      ((portOf s p).st = 1 → (lanes % 16 = 15 ∨ lanes / 16 % 16 = 15) → s.rbx.mode = 1 → peer ≠ (s.rbx.deviceNum + p + 1) % s.rbx.groupSize → ∃ t,
        exec (.rbxPortUp p lanes peer us) s = .next t ∧ (portOf t p).st = 0 ∧ (portOf t p).cause = 5 ∧
        ⟨eventBytes (portDie p) 0x002A (refOf s (portDie p)) 0 0 p ((s.rbx.deviceNum + p + 1) % s.rbx.groupSize) peer, none⟩ ∈ t.cmd.evq) ∧
      ((portOf s p).st = 1 → (lanes % 16 = 15 ∨ lanes / 16 % 16 = 15) → (s.rbx.mode ≠ 1 ∨ peer = (s.rbx.deviceNum + p + 1) % s.rbx.groupSize) → ∃ b w,
        exec (.rbxPortUp p lanes peer us) s = .next (pumpRbx b) ∧ w = (if lanes % 256 = 255 ∧ (portOf s p).halfOnly = false then 2 else 3) ∧ (portOf b p).st = w ∧
        (portOf b p).lanesOk = lanes % 256 ∧ (portOf b p).peer = peer % 4096 ∧ (portOf b p).credits = [512, 512, 32] ∧ (portOf b p).replay = [] ∧
        ((portOf b p).halfOnly = true ↔ w = 3) ∧ Raised s b (portDie p) 0x0029 0 0 p w us ∧ (∀ j, j ≠ p → portOf b j = portOf s j)))

/-- RBX_WRITE, RBX_READ, RBX_RED, RBX_SEM_ADD, RBX_BARRIER, RBX_ACK, RBX_READ_DATA and REQUEST_EXPIRY: packets in, answers and losses. -/
def Obligations.RiberexPackets : Prop :=
  (∀ s p ty i, s.pwr.phase = .ready → (i, ty) ∈ [(Instr.rbxWrite p, 1), (.rbxRead p, 2), (.rbxRed p, 3), (.rbxSemAdd p, 4), (.rbxBarrier p, 0x20), (.rbxAck p, 0x10), (.rbxReadData p, 0x11)] →
      (anyPort s = false ∨ (p.ptype ≠ ty ∧ p.ptype ∈ pktTypes) → exec i s = .next s) ∧
      (ty ∈ [1, 2, 3, 4] → anyPort s = true → p.ptype = ty →
        ((inbCheck s p).1 ≠ 0 → ∃ b, exec i s = .next (pumpRbx b) ∧ b.rbx.answers = s.rbx.answers ++ [answerPkt s p (inbCheck s p).1 []] ∧ { b with rbx := s.rbx } = s ∧
          ((inbCheck s p).1 ≠ 6 → tget 0 b.rbx.refused p.window = min (2 ^ 32 - 1) (tget 0 s.rbx.refused p.window + 1) ∧ tget 0 b.rbx.lastStatus p.window = (inbCheck s p).1) ∧
          ((inbCheck s p).1 = 6 → b.rbx.refused = s.rbx.refused) ∧ b.rbx.inb = s.rbx.inb) ∧
        (∀ w, (inbCheck s p).1 = 0 → tget? s.xt.windows p.window = some w → ∃ b, exec i s = .next (pumpRbx (inbBegin p w.owner (inbCheck s p).2 b)) ∧ { b with rbx := s.rbx } = s ∧
          b.rbx.inb = s.rbx.inb ∧ b.rbx.answers = s.rbx.answers ∧ b.rbx.refused = s.rbx.refused))) ∧
    (∀ s p w q, s.pwr.phase = .ready → anyPort s = true → p.ptype = 1 → (inbCheck s p).1 = 0 → tget? s.xt.windows p.window = some w → (inbCheck s p).2 % 128 + p.length ≤ 128 →
      translate s w.owner (inbCheck s p).2 = some q → q.off = (inbCheck s p).2 % 128 → q.line < 2 ^ 29 → HomeTakes s ⟨q.stack, q.line, w.owner, q.handle, .rbx p.window p.src p.tag⟩ →
      (hline s (lkey q.stack q.line)).cached = true ∨ p.length = 128 → wayFor s q.stack q.line ≠ none → replicaLine s q.stack q.line = none → ∃ t, exec (.rbxWrite p) s = .next t ∧
        (∀ j < p.length, memByte t q.stack (q.line * 128 + q.off + j) = nth 0 p.data j) ∧
        (∀ k b, b < 2 ^ 36 → (k ≠ q.stack ∨ b < q.line * 128 + q.off ∨ q.line * 128 + q.off + p.length ≤ b) → memByte t k b = memByte s k b)) ∧
    (∀ s p w q, s.pwr.phase = .ready → anyPort s = true → p.ptype = 1 → (inbCheck s p).1 = 0 → tget? s.xt.windows p.window = some w → (inbCheck s p).2 % 128 + p.length ≤ 128 → p.length < 128 →
      translate s w.owner (inbCheck s p).2 = some q → q.off = (inbCheck s p).2 % 128 → HomeTakes s ⟨q.stack, q.line, w.owner, q.handle, .rbx p.window p.src p.tag⟩ →
      (hline s (lkey q.stack q.line)).cached = false → ∃ t m l, exec (.rbxWrite p) s = .next (pumpRbx t) ∧
        Fills s t ⟨q.stack, q.line, w.owner, q.handle, .rbx p.window p.src p.tag⟩ (.write ⟨q.stack, q.line, w.owner, q.handle, .rbx p.window p.src p.tag⟩ m l)) ∧
    (∀ s p, s.pwr.phase = .ready → anyPort s = true → p.ptype ∉ pktTypes → exec (.rbxWrite p) s = .next (countRefused p.window 1 s)) ∧
    (∀ s p, s.pwr.phase = .ready → anyPort s = true → p.ptype = 0x20 →
      (requestOk p = false → ∃ t, exec (.rbxBarrier p) s = .next t ∧ tget 0 t.rbx.lastStatus p.window = 1 ∧ { t with rbx := s.rbx } = s) ∧
      (requestOk p = true → (∀ w, tget? s.xt.windows p.window = some w → ∀ e ∈ w.entries, peerOk e p.src = false) → ∃ t, exec (.rbxBarrier p) s = .next t ∧
        tget 0 t.rbx.lastStatus p.window = 3 ∧ tget 0 t.rbx.refused p.window = min (2 ^ 32 - 1) (tget 0 s.rbx.refused p.window + 1) ∧ { t with rbx := s.rbx } = s) ∧
      (∀ w e, requestOk p = true → tget? s.xt.windows p.window = some w → e ∈ w.entries → peerOk e p.src = true → ∃ t, exec (.rbxBarrier p) s = .next t ∧
        counterVal t p.window p.counter = (counterVal s p.window p.counter + (if bitOf w.counterMode p.counter then 1 else 0)) % 2 ^ 64 ∧ t.mem = s.mem ∧
        t.rbx.refused = s.rbx.refused ∧ (∀ v c, v < 256 → c < 16 → (v ≠ p.window ∨ c ≠ p.counter) → counterVal t v c = counterVal s v c))) ∧
    (∀ s p i, s.pwr.phase = .ready → anyPort s = true → (i, p.ptype) ∈ [(Instr.rbxAck p, 0x10), (.rbxReadData p, 0x11)] →
      (responseOk p = false → ∃ t, exec i s = .next t ∧ tget 0 t.rbx.lastStatus p.window = 1 ∧ { t with rbx := s.rbx } = s ∧ t.rbx.out = s.rbx.out) ∧
      (responseOk p = true → answered s p = none → ∃ t, exec i s = .next t ∧ t.rbx.late = min (2 ^ 32 - 1) (s.rbx.late + 1) ∧ { t with rbx := s.rbx } = s ∧ t.rbx.out = s.rbx.out) ∧
      (∀ q k e l, responseOk p = true → answered s p = some q → q.piper = some (k, e, l) → ∃ b, exec i s = .next (pumpRbx (if p.status = 0 then b else refuseBlock k e l b)) ∧
        (∀ x ∈ b.rbx.out, x.tag ≠ p.tag) ∧ { b with rbx := s.rbx } = s) ∧
      (∀ q, responseOk p = true → answered s p = some q → q.piper = none →
        (p.status ≠ 0 → ∃ b, exec i s = .next (pumpRbx (agentFault q.who (if p.ptype = 0x11 ∧ p.status = 7 then 0x3A else 0xBA) (if p.ptype = 0x11 ∧ p.status = 7 then 0 else p.status) b)) ∧
          (∀ x ∈ b.rbx.out, x.tag ≠ p.tag) ∧ { b with rbx := s.rbx } = s) ∧
        (∀ n xid k x f y, p.status = 0 → q.who = .xfer n xid k → stnOf s n = some x → pieceOf x xid k = some (f, y) →
          (p.ptype = 0x10 → q.pkt.ptype ≠ 3 → q.pkt.ptype ≠ 4 → ∃ b, exec i s = .next (pumpRbx (pump n b)) ∧ PieceAt b n xid k 2 ∧ (∀ z ∈ b.rbx.out, z.tag ≠ p.tag) ∧ b.mem = s.mem) ∧
          (p.ptype = 0x10 → q.pkt.ptype = 3 ∨ q.pkt.ptype = 4 → f.kind ≠ .semAdd → ∃ b, exec i s = .next (pumpRbx (pump n b)) ∧ (∀ j ∈ servedBy f y, PieceAt b n xid j 2) ∧
            (∀ z ∈ b.rbx.out, z.tag ≠ p.tag) ∧ b.mem = s.mem) ∧
          (p.ptype = 0x10 → q.pkt.ptype = 3 ∨ q.pkt.ptype = 4 → f.kind = .semAdd → ∃ b z, exec i s = .next (pumpRbx (pump n b)) ∧ stnOf b n = some z ∧
            (∀ g ∈ z.xfers, g.id ≠ xid ∨ g.kind ≠ .semAdd) ∧ (∀ g ∈ x.xfers, g.id ≠ xid → g ∈ z.xfers) ∧ (∀ z ∈ b.rbx.out, z.tag ≠ p.tag) ∧ b.mem = s.mem) ∧
          (p.ptype = 0x11 → ∃ b z, exec i s = .next (pumpRbx (pump n b)) ∧ stnOf b n = some z ∧ PieceAt b n xid k 2 ∧ (∀ j < p.data.length, tget 0 z.ls (y.loc + j) = nth 0 p.data j) ∧
            (∀ a, (a < y.loc ∨ y.loc + p.data.length ≤ a) → tget 0 z.ls a = tget 0 x.ls a) ∧ (∀ u ∈ b.rbx.out, u.tag ≠ p.tag) ∧ b.mem = s.mem)) ∧
        (∀ n, p.status = 0 → p.ptype = 0x10 → q.who ∈ [Agent.sem n] ++ (List.range 64).map (Agent.semGrp n) → ∃ b, exec i s = .next (pumpRbx (pump n (semDone q.who b))) ∧ (∀ u ∈ b.rbx.out, u.tag ≠ p.tag) ∧
          { b with rbx := s.rbx } = s))) ∧
    (∀ s tag, s.pwr.phase = .ready →
      ((∀ q ∈ s.rbx.out, q.tag = tag → q.port = none) → exec (.requestExpiry tag) s = .next s) ∧
      (∀ q, s.rbx.out.find? (fun q => decide (q.tag = tag ∧ q.port ≠ none)) = some q →
        (refOf s q.die - q.since < s.rbx.ackUs * refUs → exec (.requestExpiry tag) s = .next s) ∧
        (s.rbx.ackUs * refUs ≤ refOf s q.die - q.since → ∃ b, exec (.requestExpiry tag) s = .next (pumpRbx (match q.piper with
          | some _ => b
          | none => agentFault q.who 0xB8 0 b)) ∧ b.rbx.expired = min (2 ^ 32 - 1) (s.rbx.expired + 1) ∧ (∀ x ∈ b.rbx.out, x.tag ≠ tag) ∧ b.mem = s.mem ∧ b.sch = s.sch)))

/-- SEAM_LANE_LOSS to HOME_UNAVAILABLE_RESEND: bundles, load windows, retraining, clocks lost, fences, and partitions that rejoin. -/
def Obligations.SeamLinksClocksAndFences : Prop :=
  (∀ s l b lane, s.pwr.phase = .ready →
      (45 ≤ l ∨ linkBundles l ≤ b ∨ 17 < lane ∨ (bundleOf s l b).st ∉ [1, 2] → exec (.seamLaneLoss l b lane) s = .next s) ∧
      (l < 45 → b < linkBundles l → lane ≤ 17 → (bundleOf s l b).st ∈ [1, 2] → ∃ t, exec (.seamLaneLoss l b lane) s = .next t ∧
        bundleOf t l b = { bundleOf s l b with st := 3, was := (bundleOf s l b).st, lastLane := lane } ∧ (∀ j, j ≠ l * 16 + b → tget {} t.seam.bundles j = tget {} s.seam.bundles j) ∧
        ⟨eventBytes pd0 0x0020 (refOf s pd0) 0 0 l b 3, none⟩ ∈ t.cmd.evq ∧ t.mem = s.mem ∧
        (s.err.rungs = [] → ∀ d ∈ [(linkEnds l).1, (linkEnds l).2], d < 10 → (∀ k ∈ partLinks d, linkUp t k = false) → d ∈ t.seam.fenced))) ∧
    (∀ s l b, s.pwr.phase = .ready → l < 45 → b < linkBundles l → ∃ t, exec (.seamRetry l b) s = .next t ∧
      bundleOf t l b = { bundleOf s l b with retries := min 65535 ((bundleOf s l b).retries + 1) } ∧ (∀ j, j ≠ l * 16 + b → tget {} t.seam.bundles j = tget {} s.seam.bundles j) ∧
      { t with seam := s.seam } = s) ∧
    (∀ s l w, s.pwr.phase = .ready → (45 ≤ l → exec (.loadWindow l w) s = .next s) ∧
      (l < 45 → ∃ t, exec (.loadWindow l w) s = .next t ∧
        ((w.high = false ∨ s.seam.watchMin * 60000 ≤ (tget {} s.seam.watch l).windows) → t.seam.watch = s.seam.watch ∧ t.seam.pendLinks = s.seam.pendLinks ∧
          t.seam.pendTrims = s.seam.pendTrims ∧ ∀ b < linkBundles l, bundleOf t l b = { bundleOf s l b with corrected := min (2 ^ 32 - 1) ((bundleOf s l b).corrected + nth 0 w.corrected b) }) ∧
        (w.high = true → (tget {} s.seam.watch l).windows < s.seam.watchMin * 60000 → (tget {} t.seam.watch l).windows = (tget {} s.seam.watch l).windows + 1 ∧
          ((tget {} s.seam.watch l).retrains < 2 → ∀ b < linkBundles l, (s.seam.retryThresh < nth 0 w.retries b ∨ s.seam.corrThresh < nth 0 w.corrected b) → l ∈ t.seam.pendLinks) ∧
          ((∀ b < linkBundles l, nth 0 w.retries b ≤ s.seam.retryThresh ∧ nth 0 w.corrected b ≤ s.seam.corrThresh) → t.seam.pendLinks = s.seam.pendLinks) ∧
          (2 ≤ (tget {} s.seam.watch l).retrains → (∃ b < linkBundles l, s.seam.retryThresh < nth 0 w.retries b ∨ s.seam.corrThresh < nth 0 w.corrected b) →
            t.seam.pendLinks = s.seam.pendLinks ∧ ∃ b < linkBundles l, (∀ j < linkBundles l, (bundleOf s l j).retries ≤ (bundleOf s l b).retries) ∧
              (bundleOf t l b).failed = (bundleOf s l b).failed + 1 ∧ (bundleOf t l b).lastLane < 18 ∧ (bundleOf t l b).st = max (bundleOf s l b).st (ladder ((bundleOf s l b).failed + 1))) ∧
          (l < 20 → (∃ c ∈ w.chCorrected, s.seam.hbmThresh < c) → l ∈ t.seam.pendTrims)))) ∧
    (∀ s l v, s.pwr.phase = .ready →
      (isPending s l = false ∨ (s.seam.holding ≠ none ∧ s.seam.holding ≠ some l) → exec (.retrainingWindow l v) s = .next s) ∧
      (isPending s l = true → s.seam.holding = none ∨ s.seam.holding = some l → l < 45 → (33 ≤ l ∨ heldUp { s with seam := { s.seam with holding := some l } } = []) → ∃ b,
        exec (.retrainingWindow l v) s = .next (releaseHeld l b) ∧ l ∉ b.seam.pendLinks ∧ (tget {} b.seam.watch l).retrains = min 2 ((tget {} s.seam.watch l).retrains + 1) ∧ b.seam.holding = none ∧
        (∀ i < linkBundles l, bundleOf b l i = retrained (lanesOf v.lanes l i) (bundleOf s l i) ∧ (bundleOf b l i).was = 0 ∧
          (if (bundleOf s l i).was ≠ 0 then (bundleOf s l i).was else (bundleOf s l i).st) ≤ (bundleOf b l i).st) ∧
        ⟨eventBytes pd0 0x0021 (refOf s pd0) 0 0 l (linkInService b l) v.us, none⟩ ∈ b.cmd.evq ∧ b.mem = s.mem ∧ b.sch = s.sch) ∧
      (isPending s l = true → s.seam.holding = none ∨ s.seam.holding = some l → 256 ≤ l → heldUp { s with seam := { s.seam with holding := some l } } = [] → ∃ b,
        exec (.retrainingWindow l v) s = .next (releaseHeld l b) ∧ l - 256 ∉ b.seam.pendTrims ∧ b.seam.bundles = s.seam.bundles ∧ b.seam.holding = none ∧
        ⟨eventBytes pd0 0x0021 (refOf s pd0) 0 0 l (linkInService s (l - 256)) v.us, none⟩ ∈ b.cmd.evq ∧ b.mem = s.mem ∧ b.sch = s.sch) ∧
      (isPending s l = true → s.seam.holding = some l → ¬ (33 ≤ l ∧ l < 45) → heldUp s ≠ [] → exec (.retrainingWindow l v) s = .next s) ∧
      (isPending s l = true → s.seam.holding = none → ¬ (33 ≤ l ∧ l < 45) → heldUp { s with seam := { s.seam with holding := some l } } ≠ [] → ∃ t, exec (.retrainingWindow l v) s = .next t ∧
        t.seam.holding = some l ∧ isPending t l = true ∧ t.seam.bundles = s.seam.bundles ∧
        ∀ c ∈ heldUp { s with seam := { s.seam with holding := some l } }, ∀ x, ctxOf s c = some x → ((ctxOf t c).map (fun y => y.overrun.isSome)) = some true)) ∧
    (∀ s d, s.pwr.phase = .ready → (d ∈ s.clk.lost ∨ d ∉ allDies → exec (.dieClockLoss d) s = .next s) ∧
      (d ∉ s.clk.lost → s.err.rungs = [] → ∃ t, (d ∈ allDies → exec (.dieClockLoss d) s = .next t ∧ d ∈ t.clk.lost ∧ t.mem = s.mem) ∧
        (∀ p, d ∈ allDies → diePart d = some p → RungSet s t 3 p 7 [] ∧ p ∈ t.seam.fenced ∧ (regionOn s p = true → t.err.region = [])) ∧
        (d = pd1 → RungSet s t 4 0 6 [] ∧ t.err.fatal = min 255 (s.err.fatal + 1)) ∧ (d = pd0 → RungSet s t 5 0 6 [] ∧ t.err.fatal = min 255 (s.err.fatal + 1)))) ∧
    (∀ s p, s.pwr.phase = .ready →
      (p ∉ s.seam.fenced ∨ p ∈ s.seam.absent ∨ (tget? s.seam.fencedAt p).isSome = true → exec (.partitionFenced p) s = .next s) ∧
      (p ∈ s.seam.fenced → p ∉ s.seam.absent → tget? s.seam.fencedAt p = none → ∃ t, exec (.partitionFenced p) s = .next t ∧
        tget? t.seam.fencedAt p = some (refOf s pd0) ∧ (∀ d ∈ partDies p, tget 0 t.seam.dieState d = 1) ∧
        (∀ e ∈ t.home.lines, homedOn p e.1 = true → e.2.st = .ns ∧ e.2.held = [] ∧ e.2.merge = [] ∧ e.2.batch = [] ∧ e.2.owed = []) ∧
        (∀ n x, stnOf t n = some x → ∀ e ∈ x.cache, homedOn p e.1 = false) ∧ (s.err.rungs = [] → ∀ c ∈ touching s p, (rungReq? t 1 c).isSome = true) ∧
        ⟨eventBytes pd0 0x0022 (refOf s pd0) 0 0 p (b2n ((partDies p).any (fun d => decide (d ∈ s.clk.lost)))) (touching s p).length, none⟩ ∈ t.cmd.evq)) ∧
    (∀ s d p, s.pwr.phase = .ready → 0x10 ≤ d → diePart d = some p →
      (d ∉ s.clk.lost ∨ rungReq? s 3 p = none → exec (.crustClockReturn d) s = .next s) ∧
      (d ∈ s.clk.lost → (rungReq? s 3 p).isSome = true → ∃ t, exec (.crustClockReturn d) s = .next t ∧ d ∉ t.clk.lost ∧
        cruOf t (d - 0x10) = {} ∧
        ((∀ e ∈ s.xt.extents, attrSealed e.2.attr = false) → ∀ e ∈ s.xt.extents, attrReadOnly e.2.attr = false → ∀ g ∈ extGrans e.2 (d - 0x10), ∀ i < 512,
          lkey (d - 0x10) (512 * g + i) ∈ t.mem.poison) ∧ t.mem.cells = s.mem.cells)) ∧
    (∀ s p q, s.pwr.phase = .ready →
      (rungReq? s 3 p = none ∨ p ∉ s.seam.retrained ∨ partAbsent s s.seam.straps p = true ∨ (∃ d ∈ partDies p, d ∈ s.clk.lost) → exec (.partitionRestored p) s = .next s) ∧
      (rungReq? s 3 p = some q → p ∈ s.seam.retrained → partAbsent s s.seam.straps p = false → (∀ d ∈ partDies p, d ∉ s.clk.lost) → ∃ t, exec (.partitionRestored p) s = .next (stationsFreed t) ∧
        p ∉ t.seam.fenced ∧ p ∉ t.seam.retrained ∧ rungReq? t 3 p = none ∧ (∀ d ∈ partDies p, tget 0 t.seam.dieState d = 0) ∧
        ⟨eventBytes pd0 0x0023 (refOf s pd0) 0 0 p ((refOf s pd0 - tget (refOf s pd0) s.seam.fencedAt p) / refUs) (tget 0 s.seam.fenceDamage p), none⟩ ∈ t.cmd.evq ∧
        t.mem = s.mem)) ∧
    (∀ s k, s.pwr.phase = .ready → (s.home.resend[k]? = none → exec (.homeUnavailableResend k) s = .next s) ∧
      (∀ h, s.home.resend[k]? = some h → issueHeld s = true → agentPart (reqOf h).who ≠ none → exec (.homeUnavailableResend k) s = .next s) ∧
      (∀ h, s.home.resend[k]? = some h → issueHeld s = false ∨ agentPart (reqOf h).who = none → ∃ b, exec (.homeUnavailableResend k) s = .next (sendReq h b) ∧ b.home.resend = s.home.resend.eraseIdx k ∧
        b.home.net = s.home.net ∧ b.home.lines = s.home.lines ∧ { b with home := s.home } = s))

/-- Each watchdog and error past its limit starts the rung the spec names, with its event; below the limit nothing happens. -/
def Obligations.WatchdogsAndErrorsStartTheirRungs : Prop :=
  (∀ s n x y, s.pwr.phase = .ready → stnOf s n = some x → stnLive s x = true → x.ctx ≠ 0 → tget? s.ten.ctxs x.ctx = some y → y.dead = false → s.err.rungs = [] →
      (max (x.bound / max 1 s.err.graceDiv) s.err.graceMin + x.bound < x.stretch / 25 → ∃ t, exec (.wdRest n) s = .next t ∧
        RungSet s t 1 x.ctx 1 [] ∧ t.cmd.evq.length = s.cmd.evq.length + 2 ∧ t.sch = s.sch ∧ t.mem = s.mem ∧ t.ten = s.ten) ∧
      (x.stretch / 25 ≤ x.bound + max (x.bound / max 1 s.err.graceDiv) s.err.graceMin → exec (.wdRest n) s = .next s)) ∧
    (∀ s k l p, s.pwr.phase = .ready → (hline s (lkey k l)).st = .bl → (hline s (lkey k l)).await = [p] → s.err.rungs = [] →
      (s.err.homeUs * 25 ≤ refOf s (crustDie k) - (hline s (lkey k l)).blockedAt → ∃ t, exec (.wdHome k l) s = .next t ∧
        RungSet s t 3 p 3 [] ∧ p ∈ t.seam.fenced ∧ t.home = s.home ∧ t.mem = s.mem) ∧
      (refOf s (crustDie k) - (hline s (lkey k l)).blockedAt < s.err.homeUs * 25 → exec (.wdHome k l) s = .next s)) ∧
    (∀ s q u c, s.pwr.phase = .ready → tget? s.cmd.queues q = some u → u.cmds.find? startedCmd = some c → c.ctx = 0 → c.op ≠ 0x0A01 →
      (s.pin.trayStop = true → exec (.wdCommand q) s = .next s) ∧ (s.pin.trayStop = false → s.err.rungs = [] →
      (wdLate s q u c = true → copyPart s c = none → ∃ t, exec (.wdCommand q) s = .next t ∧ RungSet s t 4 0 2 [] ∧
        Replies t q c.seq 0x0019 0 ∧ t.mem = s.mem) ∧
      (wdLate s q u c = false → exec (.wdCommand q) s = .next s))) ∧
    (∀ s x, s.pwr.phase = .ready → s.err.rungs = [] → x < 2 → ∃ t, exec (.controlComplexWatchdog x) s = .next t ∧ RungSet s t 4 0 4 [] ∧
      Raised s t pd0 0x004B 0 0 4 0 4 ∧ t.mem = s.mem ∧ t.ten = s.ten) ∧
    (∀ s, (s.pwr.phase = .ready → s.err.rungs = [] → ∃ t, exec .powerSequencerWatchdog s = .next t ∧ RungSet s t 5 0 4 [] ∧ t.mem = s.mem) ∧
      (s.pwr.phase = .starting ∨ s.pwr.phase = .halted → ∃ t, exec .powerSequencerWatchdog s = .next t ∧ t.pwr.phase = .held ∧
        t.pin.fault = true ∧ t.pin.trayCycle = true)) ∧
    (∀ s d o, s.pwr.phase = .ready → s.err.rungs = [] → (d = 0x30 ∨ d = 0x31) → o ≤ 2 → ∃ t, exec (.fatalError d o) s = .next t ∧
      RungSet s t 4 0 6 [] ∧ t.err.fatal = min 255 (s.err.fatal + 1) ∧ t.cmd.evq.length = s.cmd.evq.length + 2 ∧ t.mem = s.mem) ∧
    (∀ s n k l x, s.pwr.phase = .ready → stnOf s n = some x → n < 1680 → ∃ t y, exec (.stationUe n (some (k, l))) s = .next t ∧
      t.err = { s.err with stationUe := min 65535 (s.err.stationUe + 1) } ∧ stnOf t n = some y ∧
      y = { x with cache := x.cache.filter (fun e => !decide (e.1 = lkey k l)) } ∧ t.mem = s.mem ∧ t.cmd = s.cmd ∧
      ∀ m, m ≠ n → stnOf t m = stnOf s m)

/-- Rungs 1 to 5: each, once requested, leaves its scope as the spec says, and without a request changes nothing. -/
def Obligations.RungsResetTheirScopes : Prop :=
  (∀ s c x, s.pwr.phase = .ready → c ≠ 0 → tget? s.ten.ctxs c = some x → (rungReq? s 1 c).isSome → rung1Waits s c = false →
      ∃ t y, exec (.rung1 c) s = .next t ∧ tget? t.ten.ctxs c = some y ∧ y.dead = true ∧ y.slice = x.slice ∧ y.recipes = [] ∧
        rungReq? t 1 c = none ∧ (∀ m ∈ t.xt.maps, m.ctx ≠ c) ∧ (∀ e ∈ t.xt.apertures, e.2.ctx ≠ c) ∧ (∀ e ∈ t.xt.windows, e.2.owner ≠ c) ∧
        (∀ e ∈ t.sch.launches, e.2.ctx ≠ c)) ∧
    (∀ s g n q, s.pwr.phase = .ready → stnOfId g = some n → stnOf s n = none → rungReq? s 2 g = some q →
      ∃ t, exec (.rung2 g) s = .next t ∧ rungReq? t 2 g = none ∧ t.mem = s.mem ∧ t.ten = s.ten ∧ t.sch = s.sch) ∧
    (∀ s p v q, s.pwr.phase = .ready → p < 10 → p ∈ s.seam.fenced → p ∉ s.seam.absent → p ∉ s.seam.retrained →
      rungReq? s 3 p = some q →
      ∃ t, exec (.rung3 p v) s = .next t ∧ p ∈ t.seam.fenced ∧ p ∈ t.seam.retrained ∧ (∀ e ∈ t.home.lines, stackPart (e.1 / 2 ^ 29) ≠ p) ∧
        (rungReq? t 3 p).isSome) ∧
    (∀ s b q, s.pwr.phase = .ready → rungReq? s 4 0 = some q → ∃ t, exec (.rung4 b) s = .next t ∧
      t.ten = {} ∧ t.xt.maps = [] ∧ t.xt.windows = [] ∧ t.xt.apertures = [] ∧ t.rbx = {} ∧ t.sch.launches = [] ∧ t.sch.stns = [] ∧ t.pip = {} ∧
      t.sec.sets = [] ∧ t.sec.unlocked = (s.sec.unlocked || s.sec.unlocking) ∧ t.sec.unlocking = false ∧ t.host.dirty = [] ∧
      t.home.lines = [] ∧ t.pwr.cap = s.pwr.cap ∧ t.pwr.halves = s.pwr.halves ∧ t.seam.fenced = s.seam.fenced ∧ t.pwr.hours = s.pwr.hours ∧
      (s.sec.unlocking = true → s.xt.extents = [] → t.mem = {}) ∧
      (bootOrder s = [] → t.pwr.phase = .halted ∧ t.idr.status = 0x10)) ∧
    (∀ s q, s.pwr.phase = .ready → rungReq? s 5 0 = some q → ∃ t, exec .rung5 s = .next t ∧ t.pwr.phase = .held ∧ t.pin.fault = true ∧
      t.pin.trayCycle = true ∧ t.cmd.ready = false ∧ t.pin.i3c = false ∧ t.pin.dynAddr = none ∧ t.mem = s.mem) ∧
    (∀ s g p v b, s.err.rungs = [] → exec (.rung1 g) s = .next s ∧ exec (.rung2 g) s = .next s ∧ exec (.rung3 p v) s = .next s ∧ exec (.rung4 b) s = .next s ∧
      exec .rung5 s = .next s)

/-- A rung past 50 ms escalates: counted, raised, its commands handed to the wider rung; before that nothing happens. -/
def Obligations.EscalationAfterFiftyMilliseconds : Prop :=
  (∀ s r g h q w, s.pwr.phase = .ready → s.err.rungs = [q] → q.rung = r → q.target = g →
    ((r = 2 ∧ w = (3, g / 4096)) ∨ (r = 3 ∧ w = (4, 0)) ∨ (r = 4 ∧ w = (5, 0))) →
    (refOf s q.die - q.since < 1250000 → exec (.rungEscalated r g h) s = .next s) ∧
    (1250000 ≤ refOf s q.die - q.since → ∃ t, exec (.rungEscalated r g h) s = .next t ∧
      t.err.escalations = min 255 (s.err.escalations + 1) ∧ RungSet s t w.1 w.2 5 q.cmds ∧
      t.cmd.evq = s.cmd.evq ++ [⟨eventBytes q.die 0x004D (refOf s q.die) 0 0 r g w.1, none⟩,
        ⟨eventBytes pd0 0x004B (refOf s pd0) 0 0 w.1 w.2 5, none⟩] ∧ t.mem = s.mem ∧ t.ten = s.ten ∧ t.sch = s.sch)) ∧
  (∀ s g h q, s.pwr.phase = .ready → s.err.rungs = [q] → q.rung = 1 → q.target = g →
    (h < 1680 → (∀ x, stnOf s h = some x → x.ctx ≠ g) → exec (.rungEscalated 1 g h) s = .next s) ∧
    (∀ w, (h < 1680 ∧ (∃ x, stnOf s h = some x ∧ x.ctx = g) ∧ w = (2, stnId h)) ∨ (2000 ≤ h ∧ h < 2010 ∧ w = (3, h - 2000)) ∨ ((1680 ≤ h ∧ h < 2000 ∨ 2010 ≤ h) ∧ w = (4, 0)) →
      (refOf s q.die - q.since < 1250000 → exec (.rungEscalated 1 g h) s = .next s) ∧
      (1250000 ≤ refOf s q.die - q.since → ∃ t, exec (.rungEscalated 1 g h) s = .next t ∧
        t.err.escalations = min 255 (s.err.escalations + 1) ∧ t.err.rungs = (if w.1 = 4 then [] else [{ q with cmds := [] }]) ++ [⟨w.1, w.2, 5, q.cmds, refOf s pd0, pd0⟩] ∧
        t.cmd.evq = s.cmd.evq ++ [⟨eventBytes q.die 0x004D (refOf s q.die) g 0 1 g w.1, none⟩,
          ⟨eventBytes pd0 0x004B (refOf s pd0) 0 0 w.1 w.2 5, none⟩] ∧ (w.1 = 3 → w.2 ∈ t.seam.fenced) ∧ t.mem = s.mem ∧ t.ten = s.ten ∧ t.sch = s.sch)))
end

