-- ==== Sys2Proof/Laws/LimitsShared.lean ====
section
/-! SUPPORT. What each function leaves of the limited values (`limits`): all of them, for every function named here: shared operations, memory, homes, contexts, the planner, start-up and the reference clock. -/

set_option maxRecDepth 4000

namespace Sys2Proof.Machine

@[simp] theorem limits_mk (p clk pwr pin pci host idr cmd ten xt mem home seam rbx sch pip sec err) :
    limits (State.mk p clk pwr pin pci host idr cmd ten xt mem home seam rbx sch pip sec err) =
      ⟨p, pwr.cap, pwr.capStored, pwr.modeSel, cmd.q0log2, cmd.evLog2, xt.ringLog2, seam.highPct, rbx.mode, rbx.ackUs, rbx.idleUs,
        err.graceDiv, err.cmdMs, err.homeUs, pci.bar4Log2⟩ := rfl

@[simp] theorem limits_eta (l : Limits) :
    (⟨l.queue, l.cap, l.capStored, l.modeSel, l.q0log2, l.evLog2, l.ringLog2, l.highPct, l.rbxMode, l.ackUs, l.idleUs, l.graceDiv,
      l.cmdMs, l.homeUs, l.bar4Log2⟩ : Limits) = l := rfl

theorem lim (s : State) :
    s.pending = (limits s).queue ∧ s.pwr.cap = (limits s).cap ∧ s.pwr.capStored = (limits s).capStored ∧
    s.pwr.modeSel = (limits s).modeSel ∧ s.cmd.q0log2 = (limits s).q0log2 ∧ s.cmd.evLog2 = (limits s).evLog2 ∧
    s.xt.ringLog2 = (limits s).ringLog2 ∧ s.seam.highPct = (limits s).highPct ∧ s.rbx.mode = (limits s).rbxMode ∧
    s.rbx.ackUs = (limits s).ackUs ∧ s.rbx.idleUs = (limits s).idleUs ∧ s.err.graceDiv = (limits s).graceDiv ∧
    s.err.cmdMs = (limits s).cmdMs ∧ s.err.homeUs = (limits s).homeUs ∧ s.pci.bar4Log2 = (limits s).bar4Log2 :=
  ⟨rfl, rfl, rfl, rfl, rfl, rfl, rfl, rfl, rfl, rfl, rfl, rfl, rfl, rfl, rfl⟩

@[simp] theorem limits_ite (c : Prop) [Decidable c] (a b : State) :
    limits (if c then a else b) = if c then limits a else limits b := apply_ite limits c a b

@[simp] theorem limits_foldl {α : Type} (g : State → α → State) (l : List α) (s : State)
    (h : ∀ s a, limits (g s a) = limits s) : limits (l.foldl g s) = limits s := by
  induction l generalizing s with
  | nil => rfl
  | cons a r ih => rw [List.foldl_cons, ih, h]

@[simp] theorem limits_elim {α : Type} (o : Option α) (s : State) (f : α → State) (h : ∀ a, limits (f a) = limits s) :
    limits (o.elim s f) = limits s := by cases o <;> simp [h]

theorem limits_ite_of {c : Prop} [Decidable c] {a b t : State} (h : limits a = limits t) (k : limits b = limits t) :
    limits (if c then a else b) = limits t := by
  split <;> assumption

/-- What an outcome leaves of the limited values. -/
def limitsO : Out → Option Limits
  | .next t => some (limits t)
  | .fault _ => none
  | .refused _ => none

@[simp] theorem limitsO_next (t : State) : limitsO (.next t) = some (limits t) := rfl

theorem limits_fold_fst {α β : Type} (g : State × β → α → State × β) (l : List α) (a : State × β)
    (h : ∀ a x, limits (g a x).1 = limits a.1) : limits (l.foldl g a).1 = limits a.1 := by
  induction l generalizing a with
  | nil => rfl
  | cons x r ih => rw [List.foldl_cons, ih, h]

theorem limits_fold_snd {α β : Type} (g : β × State → α → β × State) (l : List α) (a : β × State)
    (h : ∀ a x, limits (g a x).2 = limits a.2) : limits (l.foldl g a).2 = limits a.2 := by
  induction l generalizing a with
  | nil => rfl
  | cons x r ih => rw [List.foldl_cons, ih, h]

/-! ### Ops -/

@[simp] theorem limits_ifUp (f : State → State) (s : State) (h_f : ∀ a0, limits (f a0) = limits a0) :
    limitsO (ifUp f s) = some (limits s) := by unfold ifUp; (repeat' split) <;> simp_all [lim]
@[simp] theorem limits_guardS (c : Bool) (f : State → State) (s : State) (h_f : ∀ a0, limits (f a0) = limits a0) :
    limits (guardS c f s) = limits s := by unfold guardS; (repeat' split) <;> simp_all [lim]
@[simp] theorem limits_advanceRef (n : Nat) (s : State) :
    limits (advanceRef n s) = limits s := by unfold advanceRef; rfl
@[simp] theorem limits_raiseMsix (v : Nat) (s : State) :
    limits (raiseMsix v s) = limits s := by unfold raiseMsix; simp [lim]
@[simp] theorem limits_raiseRec (r : EvRec) (s : State) :
    limits (raiseRec r s) = limits s := by unfold raiseRec; rfl
@[simp] theorem limits_raise (die ev ctx slice a0 a1 a2 : Nat) (s : State) :
    limits (raise die ev ctx slice a0 a1 a2 s) = limits s := by unfold raise; rfl
@[simp] theorem limits_raiseSlice (die ev ctx slice a0 a1 a2 : Nat) (s : State) :
    limits (raiseSlice die ev ctx slice a0 a1 a2 s) = limits s := by unfold raiseSlice; rfl
@[simp] theorem limits_hostPost (pasid : Option Nat) (a : Nat) (bs : List Byte) (s : State) :
    limits (hostPost pasid a bs s) = limits s := by unfold hostPost; rfl
@[simp] theorem limits_writeBack (p : Nat → Bool) (s : State) :
    limits (writeBack p s) = limits s := by unfold writeBack; rfl
@[simp] theorem limits_logPage (pasid page : Nat) (n : Nat) (s : State) :
    limits (logPage pasid page n s) = limits s := by unfold logPage; (repeat' split) <;> simp_all [lim]
@[simp] theorem limits_logHost (pasid : Option Nat) (a n : Nat) (s : State) :
    limits (logHost pasid a n s) = limits s := by unfold logHost; (repeat' split) <;> simp_all [lim]
@[simp] theorem limits_wcTrim (d : Nat) (s : State) :
    limits (wcTrim d s) = limits s := by unfold wcTrim; simp [lim]
@[simp] theorem limits_hostWrite (pasid : Option Nat) (a : Nat) (bs : List Byte) (s : State) :
    limits (hostWrite pasid a bs s) = limits s := by unfold hostWrite; simp [lim]
@[simp] theorem limits_setCtx (c : Nat) (f : Ctx → Ctx) (s : State) :
    limits (setCtx c f s) = limits s := by unfold setCtx; (repeat' split) <;> simp_all [lim]
@[simp] theorem limits_setSlice (n : Nat) (f : Slice → Slice) (s : State) :
    limits (setSlice n f s) = limits s := by unfold setSlice; rfl
@[simp] theorem limits_startRung (r t cause : Nat) (cmds : List (Nat × Nat)) (s : State) :
    limits (startRung r t cause cmds s) = limits s := by unfold startRung; (repeat' split) <;> simp_all [lim]
@[simp] theorem limits_endRung (q : RungReq) (s : State) :
    limits (endRung q s) = limits s := by unfold endRung; rfl

/-! ### Events -/

theorem limits_pageEntry (n : Nat) (bs : List Byte) (s t : State) (h : pageEntry n bs s = some t) : limits t = limits s := by
  revert h; unfold pageEntry; (repeat' split) <;> intro h <;> simp at h <;> subst h <;> simp
@[simp] theorem limits_pageRecord (n : Nat) (bs : List Byte) (s : State) : limits (pageRecord n bs s) = limits s := by
  unfold pageRecord
  dsimp only
  split
  · rename_i h
    rw [limits_pageEntry _ _ _ _ h]
    split
    · rfl
    · split
      · rename_i h; simp [limits_pageEntry _ _ _ _ h]
      · rfl
  · rw [limits_setSlice]
    split
    · rfl
    · split
      · rename_i h; simp [limits_pageEntry _ _ _ _ h]
      · rfl
@[simp] theorem limits_eventRecordS (s : State) :
    limits (eventRecordS s) = limits s := by unfold eventRecordS; (repeat' split) <;> simp_all [lim]
@[simp] theorem limits_flushEvents  (s : State) :
    limits (flushEvents s) = limits s := by unfold flushEvents; simp [lim]

/-! ### Memory -/

@[simp] theorem limits_setCru (k : Nat) (f : Cru → Cru) (s : State) :
    limits (setCru k f s) = limits s := by unfold setCru; rfl
@[simp] theorem limits_dirtyMark (k g : Nat) (s : State) :
    limits (dirtyMark k g s) = limits s := by unfold dirtyMark; (repeat' split) <;> simp_all [lim]
@[simp] theorem limits_putLine (k line mask : Nat) (data : List Byte) (s : State) :
    limits (putLine k line mask data s) = limits s := by unfold putLine; rfl
@[simp] theorem limits_clearPoison (k line : Nat) (s : State) :
    limits (clearPoison k line s) = limits s := by unfold clearPoison; (repeat' split) <;> (try simp [lim]) <;> (repeat' (first | (apply limits_foldl; intro _ _) | split)) <;> simp_all [lim]
@[simp] theorem limits_putWhole (k line mask : Nat) (data : List Byte) (s : State) :
    limits (putWhole k line mask data s) = limits s := by unfold putWhole; simp [lim]
@[simp] theorem limits_writeLine (k line mask : Nat) (data : List Byte) (s : State) :
    limits (writeLine k line mask data s) = limits s := by unfold writeLine; (repeat' split) <;> (try simp [lim]) <;> (repeat' (first | (apply limits_foldl; intro _ _) | split)) <;> simp_all [lim]
@[simp] theorem limits_addFault (c : Nat) (r : FaultRec) (s : State) : limits (addFault c r s) = limits s := by simp [addFault]
@[simp] theorem limits_triggerBatch (c t : Nat) (s : State) : limits (triggerBatch c t s) = limits s := by simp [triggerBatch]
@[simp] theorem limits_suspendCtxs (num : Nat) (k off : Nat) (s : State) :
    limits (suspendCtxs num k off s) = limits s := by unfold suspendCtxs; simp [lim]
@[simp] theorem limits_unloadSealed (num : Nat) (x : Extent) (s : State) :
    limits (unloadSealed num x s) = limits s := by unfold unloadSealed; rfl
@[simp] theorem limits_damageExtent (num : Nat) (x : Extent) (k off line : Nat) (s : State) :
    limits (damageExtent num x k off line s) = limits s := by unfold damageExtent; simp [lim]
@[simp] theorem limits_poisonLine (k line : Nat) (s : State) :
    limits (poisonLine k line s) = limits s := by unfold poisonLine; (repeat' split) <;> (try simp [lim]) <;> (repeat' (first | (apply limits_foldl; intro _ _) | split)) <;> simp_all [lim]

/-! ### Home -/

@[simp] theorem limits_setLine (key : Nat) (f : HLine → HLine) (s : State) :
    limits (setLine key f s) = limits s := by unfold setLine; rfl
@[simp] theorem limits_sendMsg (m : Msg) (s : State) :
    limits (sendMsg m s) = limits s := by unfold sendMsg; rfl
@[simp] theorem limits_touchLine (k line : Nat) (s : State) :
    limits (touchLine k line s) = limits s := by unfold touchLine; simp [lim]
@[simp] theorem limits_evictLine (k line : Nat) (s : State) :
    limits (evictLine k line s) = limits s := by unfold evictLine; simp [lim]
@[simp] theorem limits_installLine (k line : Nat) (dirty : Bool) (s : State) :
    limits (installLine k line dirty s) = limits s := by unfold installLine; (repeat' split) <;> simp_all [lim]
@[simp] theorem limits_keepWay (k line : Nat) (s : State) :
    limits (keepWay k line s) = limits s := by unfold keepWay; (repeat' split) <;> simp_all [lim]
@[simp] theorem limits_setClosed (k line : Nat) (b : Bool) (s : State) :
    limits (setClosed k line b s) = limits s := by unfold setClosed; simp [lim]
@[simp] theorem limits_nextWays (k line fuel : Nat) (s : State) : limits (nextWays k line fuel s) = limits s := by
  induction fuel generalizing s with
  | zero => rfl
  | succ n ih =>
    unfold nextWays
    split
    · simp
    · split
      · simp [ih]
      · split <;> simp [ih]
@[simp] theorem limits_giveWays (k line : Nat) (s : State) :
    limits (giveWays k line s) = limits s := by unfold giveWays; simp [lim]
@[simp] theorem limits_wantWay (k line : Nat) (s : State) :
    limits (wantWay k line s) = limits s := by unfold wantWay; simp [lim]
@[simp] theorem limits_markSharer (k line n : Nat) (s : State) :
    limits (markSharer k line n s) = limits s := by unfold markSharer; simp [lim]
@[simp] theorem limits_dropDir (k line : Nat) (s : State) :
    limits (dropDir k line s) = limits s := by unfold dropDir; rfl
@[simp] theorem limits_answerReads (k line : Nat) (hs : List HReq) (s : State) :
    limits (answerReads k line hs s) = limits s := by unfold answerReads; simp [lim]
@[simp] theorem limits_startRound (k line : Nat) (owed : List Msg) (s : State) :
    limits (startRound k line owed s) = limits s := by unfold startRound; simp [lim]
@[simp] theorem limits_ackAfterRound (k line : Nat) (m : Msg) (s : State) :
    limits (ackAfterRound k line m s) = limits s := by unfold ackAfterRound; simp [lim]
@[simp] theorem limits_wakeWaiters (unit key off : Nat) (val : Int) (s : State) :
    limits (wakeWaiters unit key off val s) = limits s := by unfold wakeWaiters; simp [lim]
@[simp] theorem limits_dropWaiters (k line : Nat) (s : State) :
    limits (dropWaiters k line s) = limits s := by unfold dropWaiters; simp [lim]
@[simp] theorem limits_dropPoisoned  (s : State) :
    limits (dropPoisoned s) = limits s := by unfold dropPoisoned; simp [lim]
@[simp] theorem limits_poisonHome (k line : Nat) (s : State) :
    limits (poisonHome k line s) = limits s := by unfold poisonHome; simp [lim]
@[simp] theorem limits_sendLater (h : HReq) (s : State) :
    limits (sendLater h s) = limits s := by unfold sendLater; rfl
@[simp] theorem limits_holdReq (h : HReq) (s : State) :
    limits (holdReq h s) = limits s := by unfold holdReq; rfl
@[simp] theorem limits_holdFront (h : HReq) (s : State) :
    limits (holdFront h s) = limits s := by unfold holdFront; rfl
@[simp] theorem limits_beginRecall (k v : Nat) (s : State) :
    limits (beginRecall k v s) = limits s := by unfold beginRecall; simp [lim]
@[simp] theorem limits_startRecall (k line v : Nat) (s : State) :
    limits (startRecall k line v s) = limits s := by unfold startRecall; simp [lim]
@[simp] theorem limits_countMiss (k line ctx : Nat) (s : State) :
    limits (countMiss k line ctx s) = limits s := by unfold countMiss; simp [lim]
@[simp] theorem limits_openFill (k line ctx : Nat) (ready : Bool) (s : State) :
    limits (openFill k line ctx ready s) = limits s := by unfold openFill; (repeat' split) <;> (try simp [lim]) <;> (repeat' (first | (apply limits_foldl; intro _ _) | split)) <;> simp_all [lim]
@[simp] theorem limits_acceptRead (h : HReq) (s : State) :
    limits (acceptRead h s) = limits s := by unfold acceptRead; (repeat' split) <;> (repeat' first | (simp [lim]; done) | (refine Eq.trans (limits_foldl _ _ _ (fun _ _ => ?_)) ?_) | split | dsimp only)
@[simp] theorem limits_acceptWrite (r : Req) (mask : Nat) (data : List Byte) (s : State) :
    limits (acceptWrite r mask data s) = limits s := by unfold acceptWrite; simp [lim]
@[simp] theorem limits_joinBatch (r : Req) (o : RedOp) (s : State) :
    limits (joinBatch r o s) = limits s := by unfold joinBatch; simp [lim]
@[simp] theorem limits_acceptRed (r : Req) (o : RedOp) (s : State) :
    limits (acceptRed r o s) = limits s := by unfold acceptRed; simp [lim]
@[simp] theorem limits_acceptSemWait (r : Req) (off val : Nat) (s : State) :
    limits (acceptSemWait r off val s) = limits s := by unfold acceptSemWait; simp [lim]
@[simp] theorem limits_acceptStored (key n : Nat) (s : State) : limits (acceptStored key n s) = limits s := by
  induction n generalizing s with
  | zero => rfl
  | succ n ih => unfold acceptStored; (repeat' split) <;> simp [ih, lim]
@[simp] theorem limits_acceptOrdered (r : Req) (o : RedOp) (s : State) :
    limits (acceptOrdered r o s) = limits s := by unfold acceptOrdered; simp [lim]
@[simp] theorem limits_acceptReq (h : HReq) (s : State) :
    limits (acceptReq h s) = limits s := by unfold acceptReq; (repeat' split) <;> simp_all [lim]
@[simp] theorem limits_serveHeld (key n : Nat) (s : State) : limits (serveHeld key n s) = limits s := by
  induction n generalizing s with
  | zero => rfl
  | succ n ih => unfold serveHeld; (repeat' split) <;> simp [ih, lim]
@[simp] theorem limits_finishFill (k line : Nat) (s : State) :
    limits (finishFill k line s) = limits s := by unfold finishFill; dsimp only; (repeat' split) <;> simp [lim]
@[simp] theorem limits_serveLine (key : Nat) (s : State) :
    limits (serveLine key s) = limits s := by unfold serveLine; simp [lim]
@[simp] theorem limits_serveWays (k line : Nat) (s : State) :
    limits (serveWays k line s) = limits s := by unfold serveWays; (repeat' split) <;> simp_all [lim]
@[simp] theorem limits_goLine (key : Nat) (s : State) :
    limits (goLine key s) = limits s := by unfold goLine; simp [lim]
@[simp] theorem limits_homeRequest (h : HReq) (s : State) :
    limits (homeRequest h s) = limits s := by unfold homeRequest; dsimp only; (repeat' split) <;> simp [lim]
@[simp] theorem limits_wakeLine (k line : Nat) (s : State) :
    limits (wakeLine k line s) = limits s := by unfold wakeLine; simp [lim]
@[simp] theorem limits_endRound (k line : Nat) (s : State) :
    limits (endRound k line s) = limits s := by unfold endRound; (repeat' split) <;> (try simp [lim]) <;> (repeat' (first | (apply limits_foldl; intro _ _) | split)) <;> simp_all [lim]
@[simp] theorem limits_partAck (k line p : Nat) (s : State) :
    limits (partAck k line p s) = limits s := by unfold partAck; simp [lim]
@[simp] theorem limits_orderApplied (k key : Nat) (o : RedOp) (s : State) :
    limits (orderApplied k key o s) = limits s := by unfold orderApplied; (repeat' split) <;> simp_all [lim]
@[simp] theorem limits_applyRed (k line : Nat) (s : State) : limits (applyRed k line s) = limits s := by
  unfold applyRed
  dsimp only
  split
  · rfl
  · rw [limits_goLine]
    refine limits_ite_of ?_ ?_
    · rw [limits_giveWays]
      refine limits_ite_of (Eq.trans (limits_foldl _ _ _ (fun _ _ => by simp)) ?_) ?_ <;> (split <;> simp [lim])
    · refine limits_ite_of (Eq.trans (limits_foldl _ _ _ (fun _ _ => by simp)) ?_) ?_ <;> (split <;> simp [lim])
@[simp] theorem limits_flushOrdered (key : Nat) (q : Ordered) (s : State) :
    limits (flushOrdered key q s) = limits s := by unfold flushOrdered; simp [lim]
@[simp] theorem limits_ctxWrite (c a : Nat) (bs : List Byte) (who : Agent) (s : State) :
    limits (ctxWrite c a bs who s) = limits s := by unfold ctxWrite; (repeat' split) <;> (try simp [lim]) <;> (repeat' (first | (apply limits_foldl; intro _ _) | split)) <;> simp_all [lim]
@[simp] theorem limits_arriveCount (w c n : Nat) (s : State) :
    limits (arriveCount w c n s) = limits s := by unfold arriveCount; (repeat' split) <;> simp_all [lim]
@[simp] theorem limits_inbFinish (e : InPkt) (s : State) :
    limits (inbFinish e s) = limits s := by unfold inbFinish; simp [lim]
@[simp] theorem limits_inbAnswer (r : Req) (status : Nat) (line : List Byte) (s : State) :
    limits (inbAnswer r status line s) = limits s := by
  unfold inbAnswer
  dsimp only
  split
  · rfl
  · split
    · rw [limits_inbFinish]; rfl
    · rfl

/-! ### Context -/

@[simp] theorem limits_setStn (n : Nat) (f : Stn → Stn) (s : State) :
    limits (setStn n f s) = limits s := by unfold setStn; rfl
@[simp] theorem limits_setLaunch (k : Nat) (f : Launch → Launch) (s : State) :
    limits (setLaunch k f s) = limits s := by unfold setLaunch; rfl
@[simp] theorem limits_setInst (k i : Nat) (f : Inst → Inst) (s : State) :
    limits (setInst k i f s) = limits s := by unfold setInst; rfl
@[simp] theorem limits_addFlags (n fl : Nat) (s : State) :
    limits (addFlags n fl s) = limits s := by unfold addFlags; simp [lim]
@[simp] theorem limits_mergeFlags (p : Nat → Stn → Bool) (s : State) :
    limits (mergeFlags p s) = limits s := by unfold mergeFlags; simp [lim]
@[simp] theorem limits_rung1Start (c cause : Nat) (cmds : List (Nat × Nat)) (s : State) :
    limits (rung1Start c cause cmds s) = limits s := by unfold rung1Start; simp [lim]
@[simp] theorem limits_stopStations (c : Nat) (s : State) :
    limits (stopStations c s) = limits s := by unfold stopStations; rfl
@[simp] theorem limits_stationFault (n code ik idx co addr detail : Nat) (s : State) :
    limits (stationFault n code ik idx co addr detail s) = limits s := by unfold stationFault; (repeat' split) <;> simp_all [lim]
@[simp] theorem limits_stationXlate (n cause addr access agent index len : Nat) (s : State) :
    limits (stationXlate n cause addr access agent index len s) = limits s := by unfold stationXlate; (repeat' split) <;> simp_all [lim]
@[simp] theorem limits_retireLines (k : Nat) (grans : List Nat) (s : State) :
    limits (retireLines k grans s) = limits s := by unfold retireLines; (repeat' split) <;> (repeat' first | (simp [lim]; done) | (refine Eq.trans (limits_foldl _ _ _ (fun _ _ => ?_)) ?_) | split | dsimp only)
@[simp] theorem limits_zeroGran (k g : Nat) (s : State) :
    limits (zeroGran k g s) = limits s := by unfold zeroGran; rfl
@[simp] theorem limits_dropXcache (h : Nat) (c : Option Nat) (s : State) :
    limits (dropXcache h c s) = limits s := by unfold dropXcache; rfl
@[simp] theorem limits_unhookExtent (num : Nat) (x : Extent) (s : State) :
    limits (unhookExtent num x s) = limits s := by unfold unhookExtent; (repeat' split) <;> (repeat' first | (simp [lim]; done) | (refine Eq.trans (limits_foldl _ _ _ (fun _ _ => ?_)) ?_) | split | dsimp only)
@[simp] theorem limits_destroyLater (num : Nat) (x : Extent) (s : State) :
    limits (destroyLater num x s) = limits s := by unfold destroyLater; simp [lim]
@[simp] theorem limits_destroyNow (num : Nat) (x : Extent) (s : State) :
    limits (destroyNow num x s) = limits s := by unfold destroyNow; simp [lim]
@[simp] theorem limits_unmap (m : Mapping) (s : State) :
    limits (unmap m s) = limits s := by unfold unmap; (repeat' split) <;> (try simp [lim]) <;> (repeat' (first | (apply limits_foldl; intro _ _) | split)) <;> simp_all [lim]
@[simp] theorem limits_dropApertures (c : Nat) (s : State) :
    limits (dropApertures c s) = limits s := by unfold dropApertures; rfl
@[simp] theorem limits_dropWindows (c : Nat) (s : State) :
    limits (dropWindows c s) = limits s := by unfold dropWindows; rfl
@[simp] theorem limits_failOwins (c : Nat) (s : State) :
    limits (failOwins c s) = limits s := by unfold failOwins; rfl
@[simp] theorem limits_freeStations (p : Stn → Bool) (s : State) :
    limits (freeStations p s) = limits s := by unfold freeStations; rfl
@[simp] theorem limits_dropLaunch (k : Nat) (s : State) :
    limits (dropLaunch k s) = limits s := by unfold dropLaunch; rfl
@[simp] theorem limits_setQueue (q : Nat) (f : Queue → Queue) (s : State) :
    limits (setQueue q f s) = limits s := by unfold setQueue; rfl
@[simp] theorem limits_setCmd (q seq : Nat) (f : TakenCmd → TakenCmd) (s : State) :
    limits (setCmd q seq f s) = limits s := by unfold setCmd; rfl
@[simp] theorem limits_finishCmd (q seq st detail : Nat) (s : State) :
    limits (finishCmd q seq st detail s) = limits s := by unfold finishCmd; rfl
@[simp] theorem limits_markBound (q seq : Nat) (s : State) :
    limits (markBound q seq s) = limits s := by unfold markBound; rfl
@[simp] theorem limits_killCmds (c : Nat) (s : State) :
    limits (killCmds c s) = limits s := by unfold killCmds; rfl
@[simp] theorem limits_dropRequests (c : Nat) (s : State) :
    limits (dropRequests c s) = limits s := by unfold dropRequests; rfl
@[simp] theorem limits_killCtx (c : Nat) (s : State) :
    limits (killCtx c s) = limits s := by unfold killCtx; simp [lim]
@[simp] theorem limits_runRung1 (c : Nat) (s : State) :
    limits (runRung1 c s) = limits s := by unfold runRung1; (repeat' split) <;> simp_all [lim]

/-! ### Planner -/

@[simp] theorem limits_writeBreach (p n phase sharers granted received us : Nat) (s : State) :
    limits (writeBreach p n phase sharers granted received us s) = limits s := by unfold writeBreach; rfl
@[simp] theorem limits_lossBreach (resource p n phase granted received us : Nat) (s : State) :
    limits (lossBreach resource p n phase granted received us s) = limits s := by unfold lossBreach; rfl
@[simp] theorem limits_updateBreach (p sharers n granted received : Nat) (s : State) :
    limits (updateBreach p sharers n granted received s) = limits s := by unfold updateBreach; (repeat' split) <;> simp_all [lim]
@[simp] theorem limits_endBreaches (p : Nat) (ns : List Nat) (s : State) :
    limits (endBreaches p ns s) = limits s := by unfold endBreaches; simp [lim]
@[simp] theorem limits_debitShare (key e : Nat) (s : State) :
    limits (debitShare key e s) = limits s := by unfold debitShare; (repeat' split) <;> simp_all [lim]
@[simp] theorem limits_fixedDelay (p : Nat) (s : State) :
    limits (fixedDelay p s) = limits s := by unfold fixedDelay; simp [lim]
@[simp] theorem limits_creditBack (c : TakenCmd) (s : State) :
    limits (creditBack c s) = limits s := by unfold creditBack; simp [lim]
@[simp] theorem limits_putPoint (h k : Nat) (s : State) :
    limits (putPoint h k s) = limits s := by unfold putPoint; rfl
@[simp] theorem limits_seamFollow (p : Nat) (s : State) :
    limits (seamFollow p s) = limits s := by unfold seamFollow; simp [lim]
@[simp] theorem limits_moveHalves (p west east : Nat) (s : State) :
    limits (moveHalves p west east s) = limits s := by unfold moveHalves; simp [lim]
@[simp] theorem limits_fixedBroken (p cause : Nat) (s : State) :
    limits (fixedBroken p cause s) = limits s := by unfold fixedBroken; simp [lim]

/-! ### Operands -/

@[simp] theorem limits_cmdGo (op q seq : Nat) (f : Queue → TakenCmd → State → State) (s : State) (h_f : ∀ a0 a1 a2, limits (f a0 a1 a2) = limits a2) :
    limits (cmdGo op q seq f s) = limits s := by unfold cmdGo; (repeat' split) <;> simp_all [lim]
@[simp] theorem limits_cmdOut (op q seq : Nat) (f : Queue → TakenCmd → State → State) (s : State) (h_f : ∀ a0 a1 a2, limits (f a0 a1 a2) = limits a2) :
    limitsO (cmdOut op q seq f s) = some (limits s) := by unfold cmdOut; (repeat' split) <;> simp_all [lim]

/-! ### PowerOps -/

@[simp] theorem limits_inputRange (v : Nat) (s : State) :
    limits (inputRange v s) = limits s := by unfold inputRange; simp [lim]
@[simp] theorem limits_driveAlert (s : State) :
    limits (driveAlert s) = limits s := by unfold driveAlert; rfl
@[simp] theorem limits_measure (p q seq e : Nat) (s : State) :
    limits (measure p q seq e s) = limits s := by unfold measure; (repeat' split) <;> simp_all [lim]
@[simp] theorem limits_attribute_ (p q seq c e : Nat) (s : State) :
    limits (attribute_ p q seq c e s) = limits s := by unfold attribute_; simp [lim]
@[simp] theorem limits_shareSample (p : Nat) (m : PartSample) (s : State) :
    limits (shareSample p m s) = limits s := by unfold shareSample; simp [lim]
@[simp] theorem limits_powerSampleS (m : PowerIn) (s : State) :
    limits (powerSampleS m s) = limits s := by unfold powerSampleS; simp [lim]
theorem limits_execPowerSample (m : PowerIn) (s : State) :
    limitsO (execPowerSample m s) = some (limits s) := by unfold execPowerSample; simp [lim]
theorem limits_execPoweredHour (s : State) :
    limitsO (execPoweredHour s) = some (limits s) := by unfold execPoweredHour; simp [lim]
@[simp] theorem limits_throttle (die tj : Nat) (hot : Nat) (s : State) :
    limits (throttle die tj hot s) = limits s := by unfold throttle; simp [lim]
@[simp] theorem limits_alertLevel (die tj : Nat) (s : State) :
    limits (alertLevel die tj s) = limits s := by unfold alertLevel; simp [lim]
@[simp] theorem limits_refill (p n b : Nat) (s : State) :
    limits (refill p n b s) = limits s := by unfold refill; rfl
@[simp] theorem limits_budgetWindowS (p baseW portW : Nat) (s : State) :
    limits (budgetWindowS p baseW portW s) = limits s := by unfold budgetWindowS; simp [lim]
theorem limits_execBudgetWindow (part baseW portW : Nat) (s : State) :
    limitsO (execBudgetWindow part baseW portW s) = some (limits s) := by unfold execBudgetWindow; simp [lim]
@[simp] theorem limits_setHalfCaps (p : Nat) (s : State) :
    limits (setHalfCaps p s) = limits s := by unfold setHalfCaps; rfl
@[simp] theorem limits_restartHalves  (s : State) :
    limits (restartHalves s) = limits s := by unfold restartHalves; rfl
@[simp] theorem limits_boostStepS (p west east : Nat) (s : State) :
    limits (boostStepS p west east s) = limits s := by unfold boostStepS; simp [lim]
theorem limits_execBoostStep (part west east : Nat) (s : State) :
    limitsO (execBoostStep part west east s) = some (limits s) := by unfold execBoostStep; simp [lim]
@[simp] theorem limits_budgetSetS (u : Queue) (c : TakenCmd) (s : State) :
    limits (budgetSetS u c s) = limits s := by unfold budgetSetS; simp [lim]
theorem limits_execBudgetSet (q seq : Nat) (s : State) :
    limitsO (execBudgetSet q seq s) = some (limits s) := by unfold execBudgetSet; simp [lim]
@[simp] theorem limits_energyReadS (u : Queue) (c : TakenCmd) (s : State) :
    limits (energyReadS u c s) = limits s := by unfold energyReadS; simp [lim]
theorem limits_execEnergyRead (q seq : Nat) (s : State) :
    limitsO (execEnergyRead q seq s) = some (limits s) := by unfold execEnergyRead; simp [lim]
@[simp] theorem limits_calReadS (u : Queue) (c : TakenCmd) (s : State) :
    limits (calReadS u c s) = limits s := by unfold calReadS; simp [lim]
theorem limits_execCalRead (q seq : Nat) (s : State) :
    limitsO (execCalRead q seq s) = some (limits s) := by unfold execCalRead; simp [lim]
@[simp] theorem limits_calWriteS (u : Queue) (c : TakenCmd) (s : State) :
    limits (calWriteS u c s) = limits s := by unfold calWriteS; simp [lim]
theorem limits_execCalWrite (q seq : Nat) (s : State) :
    limitsO (execCalWrite q seq s) = some (limits s) := by unfold execCalWrite; simp [lim]

/-! ### Startup -/

@[simp] theorem limits_trainBundle (straps : List (Nat × Nat)) (lanes words : List (Nat × Nat × Nat)) (link b : Nat) (s : State) :
    limits (trainBundle straps lanes words link b s) = limits s := by unfold trainBundle; rfl
@[simp] theorem limits_trainLink (straps : List (Nat × Nat)) (lanes words : List (Nat × Nat × Nat)) (link : Nat) (s : State) :
    limits (trainLink straps lanes words link s) = limits s := by unfold trainLink; simp [lim]
@[simp] theorem limits_bootStack (b : BootIn) (k : Nat) (s : State) :
    limits (bootStack b k s) = limits s := by unfold bootStack; simp [lim]
@[simp] theorem limits_makeRecord (at0 : Tbl Nat) (uncert : List Nat) (s : State) :
    limits (makeRecord at0 uncert s) = limits s := by unfold makeRecord; rfl
@[simp] theorem limits_markerLeaves (ws : List (Nat × Nat)) (s : State) :
    limits (markerLeaves ws s) = limits s := by unfold markerLeaves; rfl
@[simp] theorem limits_corrAnswer (n q seq : Nat) (s : State) :
    limits (corrAnswer n q seq s) = limits s := by unfold corrAnswer; (repeat' split) <;> simp_all [lim]
@[simp] theorem limits_markerBack (at0 : Tbl Nat) (uncert : List Nat) (s : State) :
    limits (markerBack at0 uncert s) = limits s := by unfold markerBack; simp [lim]
@[simp] theorem limits_clockCorrS (uncert : List Nat) (u : Queue) (c : TakenCmd) (s : State) :
    limits (clockCorrS uncert u c s) = limits s := by unfold clockCorrS; (repeat' split) <;> simp_all [lim]
theorem limits_execClockCorr (q seq : Nat) (uncert : List Nat) (s : State) :
    limitsO (execClockCorr q seq uncert s) = some (limits s) := by unfold execClockCorr; simp [lim]
@[simp] theorem limits_bootReport (stage status die : Nat) (s : State) :
    limits (bootReport stage status die s) = limits s := by unfold bootReport; rfl
@[simp] theorem limits_bootHalt (status die : Nat) (s : State) :
    limits (bootHalt status die s) = limits s := by unfold bootHalt; rfl
@[simp] theorem limits_placeCrumb (k : Nat) (s : State) :
    limits (placeCrumb k s) = limits s := by unfold placeCrumb; (repeat' split) <;> simp_all [lim]
@[simp] theorem limits_reachReady (slot : Bool) (s : State) :
    limits (reachReady slot s) = limits s := by unfold reachReady; (repeat' split) <;> (try simp [lim]) <;> (repeat' (first | (apply limits_foldl; intro _ _) | split)) <;> simp_all [lim]
@[simp] theorem limits_startUhlug (ready pd1Answers : Bool) (s : State) :
    limits (startUhlug ready pd1Answers s) = limits s := by unfold startUhlug; (repeat' split) <;> simp_all [lim]
@[simp] theorem limits_bootParts (straps : List (Nat × Nat)) (s : State) :
    limits (bootParts straps s) = limits s := by unfold bootParts; simp [lim]
@[simp] theorem limits_bootFrom4 (b : BootIn) (s : State) :
    limits (bootFrom4 b s) = limits s := by unfold bootFrom4; (repeat' split) <;> simp_all [lim]
theorem limits_execImageFault (ready pd1 : Bool) (s : State) :
    limitsO (execImageFault ready pd1 s) = some (limits s) := by unfold execImageFault; (repeat' split) <;> simp_all [lim]

end Sys2Proof.Machine
end

