-- ==== Sys2Proof/Laws/LimitsCommands.lean ====
section
/-! SUPPORT. What each function leaves of the limited values (`limits`): all of them, for every function named here: the queues and the commands that packets carry. -/

set_option maxRecDepth 4000

namespace Sys2Proof.Machine

/-! ### Queues -/

@[simp] theorem limits_putWindow (off : Nat) (bs : List Byte) (s : State) :
    limits (putWindow off bs s) = limits s := by unfold putWindow; rfl
@[simp] theorem limits_stopQueue (q cause seq : Nat) (u : Queue) (s : State) :
    limits (stopQueue q cause seq u s) = limits s := by unfold stopQueue; rfl
@[simp] theorem limits_sealCheck (q slot w : Nat) (s : State) :
    limits (sealCheck q slot w s) = limits s := by unfold sealCheck; (repeat' split) <;> simp_all [lim]
@[simp] theorem limits_sealAt (off : Nat) (s : State) :
    limits (sealAt off s) = limits s := by unfold sealAt; simp [lim]
@[simp] theorem limits_bar2WriteS (off : Nat) (data : List Byte) (s : State) :
    limits (bar2WriteS off data s) = limits s := by unfold bar2WriteS; simp [lim]
theorem limits_execBar2Write (off : Nat) (data : List Byte) (s : State) :
    limitsO (execBar2Write off data s) = some (limits s) := by unfold execBar2Write; simp [lim]
theorem limits_execSealWord (off val : Nat) (s : State) :
    limitsO (execSealWord off val s) = some (limits s) := by unfold execSealWord; simp [lim]
@[simp] theorem limits_takePacketS (q : Nat) (s : State) :
    limits (takePacketS q s) = limits s := by unfold takePacketS; (repeat' split) <;> simp_all [lim]
theorem limits_execTakePacket (q : Nat) (s : State) :
    limitsO (execTakePacket q s) = some (limits s) := by unfold execTakePacket; simp [lim]
@[simp] theorem limits_startLaunch (q seq : Nat) (s : State) :
    limits (startLaunch q seq s) = limits s := by unfold startLaunch; (repeat' split) <;> simp_all [lim]
@[simp] theorem limits_commandStartS (q seq : Nat) (s : State) :
    limits (commandStartS q seq s) = limits s := by unfold commandStartS; (repeat' split) <;> simp_all [lim]
theorem limits_execCommandStart (q seq : Nat) (s : State) :
    limitsO (execCommandStart q seq s) = some (limits s) := by unfold execCommandStart; simp [lim]
@[simp] theorem limits_writeReply (q seq st tag credit detail : Nat) (s : State) :
    limits (writeReply q seq st tag credit detail s) = limits s := by unfold writeReply; (repeat' split) <;> simp_all [lim]
@[simp] theorem limits_markQueue (q : Nat) (s : State) :
    limits (markQueue q s) = limits s := by unfold markQueue; rfl
@[simp] theorem limits_replyCmd (q : Nat) (u : Queue) (c : TakenCmd) (st detail : Nat) (s : State) :
    limits (replyCmd q u c st detail s) = limits s := by unfold replyCmd; simp [lim]
@[simp] theorem limits_replyStopped (q : Nat) (u : Queue) (seq : Nat) (s : State) :
    limits (replyStopped q u seq s) = limits s := by unfold replyStopped; simp [lim]
@[simp] theorem limits_replyS (q seq : Nat) (s : State) :
    limits (replyS q seq s) = limits s := by unfold replyS; (repeat' split) <;> simp_all [lim]
theorem limits_execReply (q seq : Nat) (s : State) :
    limitsO (execReply q seq s) = some (limits s) := by unfold execReply; simp [lim]
theorem limits_execEventRecord (s : State) :
    limitsO (execEventRecord s) = some (limits s) := by unfold execEventRecord; simp [lim]

/-! ### CtxOps -/

@[simp] theorem limits_ctxCreateS (u : Queue) (c : TakenCmd) (s : State) :
    limits (ctxCreateS u c s) = limits s := by unfold ctxCreateS; (repeat' split) <;> (try simp [lim]) <;> (repeat' (first | (apply limits_foldl; intro _ _) | split)) <;> simp_all [lim]
theorem limits_execCtxCreate (q seq : Nat) (s : State) :
    limitsO (execCtxCreate q seq s) = some (limits s) := by unfold execCtxCreate; simp [lim]
@[simp] theorem limits_ctxDestroyS (u : Queue) (c : TakenCmd) (s : State) :
    limits (ctxDestroyS u c s) = limits s := by unfold ctxDestroyS; (repeat' split) <;> simp_all [lim]
theorem limits_execCtxDestroy (q seq : Nat) (s : State) :
    limitsO (execCtxDestroy q seq s) = some (limits s) := by unfold execCtxDestroy; simp [lim]
@[simp] theorem limits_ctxFlagsS (u : Queue) (c : TakenCmd) (s : State) :
    limits (ctxFlagsS u c s) = limits s := by unfold ctxFlagsS; (repeat' split) <;> simp_all [lim]
theorem limits_execCtxFlags (q seq : Nat) (s : State) :
    limitsO (execCtxFlags q seq s) = some (limits s) := by unfold execCtxFlags; simp [lim]
@[simp] theorem limits_queueCreateS (u : Queue) (c : TakenCmd) (s : State) :
    limits (queueCreateS u c s) = limits s := by unfold queueCreateS; simp [lim]
theorem limits_execQueueCreate (q seq : Nat) (s : State) :
    limitsO (execQueueCreate q seq s) = some (limits s) := by unfold execQueueCreate; simp [lim]
@[simp] theorem limits_queueDestroyS (u : Queue) (c : TakenCmd) (s : State) :
    limits (queueDestroyS u c s) = limits s := by unfold queueDestroyS; (repeat' split) <;> (try simp [lim]) <;> (repeat' (first | (apply limits_foldl; intro _ _) | split)) <;> simp_all [lim]
theorem limits_execQueueDestroy (q seq : Nat) (s : State) :
    limitsO (execQueueDestroy q seq s) = some (limits s) := by unfold execQueueDestroy; simp [lim]
@[simp] theorem limits_queueResetS (u : Queue) (c : TakenCmd) (s : State) :
    limits (queueResetS u c s) = limits s := by unfold queueResetS; (repeat' split) <;> (try simp [lim]) <;> (repeat' (first | (apply limits_foldl; intro _ _) | split)) <;> simp_all [lim]
theorem limits_execQueueReset (q seq : Nat) (s : State) :
    limitsO (execQueueReset q seq s) = some (limits s) := by unfold execQueueReset; simp [lim]
@[simp] theorem limits_faultResumeS (u : Queue) (c : TakenCmd) (s : State) :
    limits (faultResumeS u c s) = limits s := by unfold faultResumeS; (repeat' split) <;> simp_all [lim]
theorem limits_execFaultResume (q seq : Nat) (s : State) :
    limitsO (execFaultResume q seq s) = some (limits s) := by unfold execFaultResume; simp [lim]

/-! ### ExtOps -/

@[simp] theorem limits_addPins (n : Nat) (keys : List Nat) (s : State) :
    limits (addPins n keys s) = limits s := by unfold addPins; rfl
@[simp] theorem limits_dropPins (n : Nat) (keys : List Nat) (s : State) :
    limits (dropPins n keys s) = limits s := by unfold dropPins; rfl
@[simp] theorem limits_extPlace (u : Queue) (c : TakenCmd) (h : AllocHint) (main rep : List (Nat × List Nat × List Nat)) (s : State) :
    limits (extPlace u c h main rep s) = limits s := by unfold extPlace; simp [lim]
@[simp] theorem limits_extCreateS (h : AllocHint) (u : Queue) (c : TakenCmd) (s : State) :
    limits (extCreateS h u c s) = limits s := by unfold extCreateS; (repeat' split) <;> (try simp [lim]) <;> (repeat' (first | (apply limits_foldl; intro _ _) | split)) <;> simp_all [lim]
theorem limits_execExtCreate (q seq : Nat) (h : AllocHint) (s : State) :
    limitsO (execExtCreate q seq h s) = some (limits s) := by unfold execExtCreate; simp [lim]
@[simp] theorem limits_extDestroyS (u : Queue) (c : TakenCmd) (s : State) :
    limits (extDestroyS u c s) = limits s := by unfold extDestroyS; (repeat' split) <;> simp_all [lim]
theorem limits_execExtDestroy (q seq : Nat) (s : State) :
    limitsO (execExtDestroy q seq s) = some (limits s) := by unfold execExtDestroy; simp [lim]
@[simp] theorem limits_dropCopies (x : Extent) (s : State) :
    limits (dropCopies x s) = limits s := by unfold dropCopies; rfl
@[simp] theorem limits_extShareS (u : Queue) (c : TakenCmd) (s : State) :
    limits (extShareS u c s) = limits s := by unfold extShareS; (repeat' split) <;> (try simp [lim]) <;> (repeat' (first | (apply limits_foldl; intro _ _) | split)) <;> simp_all [lim]
theorem limits_execExtShare (q seq : Nat) (s : State) :
    limitsO (execExtShare q seq s) = some (limits s) := by unfold execExtShare; simp [lim]
@[simp] theorem limits_extUnmapS (u : Queue) (c : TakenCmd) (s : State) :
    limits (extUnmapS u c s) = limits s := by unfold extUnmapS; (repeat' split) <;> simp_all [lim]
theorem limits_execExtUnmap (q seq : Nat) (s : State) :
    limitsO (execExtUnmap q seq s) = some (limits s) := by unfold execExtUnmap; simp [lim]
@[simp] theorem limits_extQueryS (u : Queue) (c : TakenCmd) (s : State) :
    limits (extQueryS u c s) = limits s := by unfold extQueryS; (repeat' split) <;> simp_all [lim]
theorem limits_execExtQuery (q seq : Nat) (s : State) :
    limitsO (execExtQuery q seq s) = some (limits s) := by unfold execExtQuery; simp [lim]
@[simp] theorem limits_preload (keys : List Nat) (s : State) :
    limits (preload keys s) = limits s := by unfold preload; simp [lim]
@[simp] theorem limits_preloadTick  (s : State) :
    limits (preloadTick s) = limits s := by unfold preloadTick; simp [lim]
@[simp] theorem limits_stopPreloads (keys : List Nat) (s : State) :
    limits (stopPreloads keys s) = limits s := by unfold stopPreloads; rfl
@[simp] theorem limits_pinS (u : Queue) (c : TakenCmd) (s : State) :
    limits (pinS u c s) = limits s := by unfold pinS; (repeat' split) <;> simp_all [lim]
theorem limits_execPin (q seq : Nat) (s : State) :
    limitsO (execPin q seq s) = some (limits s) := by unfold execPin; simp [lim]
@[simp] theorem limits_unpinS (u : Queue) (c : TakenCmd) (s : State) :
    limits (unpinS u c s) = limits s := by unfold unpinS; (repeat' split) <;> simp_all [lim]
theorem limits_execUnpin (q seq : Nat) (s : State) :
    limitsO (execUnpin q seq s) = some (limits s) := by unfold execUnpin; simp [lim]
@[simp] theorem limits_apertureSetS (u : Queue) (c : TakenCmd) (s : State) :
    limits (apertureSetS u c s) = limits s := by unfold apertureSetS; (repeat' split) <;> (try simp [lim]) <;> (repeat' (first | (apply limits_foldl; intro _ _) | split)) <;> simp_all [lim]
theorem limits_execApertureSet (q seq : Nat) (s : State) :
    limitsO (execApertureSet q seq s) = some (limits s) := by unfold execApertureSet; simp [lim]
@[simp] theorem limits_windowSetS (u : Queue) (c : TakenCmd) (s : State) :
    limits (windowSetS u c s) = limits s := by unfold windowSetS; (repeat' split) <;> (try simp [lim]) <;> (repeat' (first | (apply limits_foldl; intro _ _) | split)) <;> simp_all [lim]
theorem limits_execWindowSet (q seq : Nat) (s : State) :
    limitsO (execWindowSet q seq s) = some (limits s) := by unfold execWindowSet; simp [lim]
@[simp] theorem limits_counterResetS (u : Queue) (c : TakenCmd) (s : State) :
    limits (counterResetS u c s) = limits s := by unfold counterResetS; (repeat' split) <;> (try simp [lim]) <;> (repeat' (first | (apply limits_foldl; intro _ _) | split)) <;> simp_all [lim]
theorem limits_execCounterReset (q seq : Nat) (s : State) :
    limitsO (execCounterReset q seq s) = some (limits s) := by unfold execCounterReset; simp [lim]

/-! ### Recipes -/

@[simp] theorem limits_recipeLoadS (u : Queue) (c : TakenCmd) (s : State) :
    limits (recipeLoadS u c s) = limits s := by unfold recipeLoadS; (repeat' split) <;> (try simp [lim]) <;> (repeat' (first | (apply limits_foldl; intro _ _) | split)) <;> simp_all [lim]
theorem limits_execRecipeLoad (q seq : Nat) (s : State) :
    limitsO (execRecipeLoad q seq s) = some (limits s) := by unfold execRecipeLoad; simp [lim]
@[simp] theorem limits_recipeUnloadS (u : Queue) (c : TakenCmd) (s : State) :
    limits (recipeUnloadS u c s) = limits s := by unfold recipeUnloadS; (repeat' split) <;> (try simp [lim]) <;> (repeat' (first | (apply limits_foldl; intro _ _) | split)) <;> simp_all [lim]
theorem limits_execRecipeUnload (q seq : Nat) (s : State) :
    limitsO (execRecipeUnload q seq s) = some (limits s) := by unfold execRecipeUnload; simp [lim]

/-! ### RoutePlan -/

theorem limits_joinPlan (k c a : Nat) (s t : State) (h : joinPlan k c a s = some t) : limits t = limits s := by
  revert h; unfold joinPlan; dsimp only; (repeat' split) <;> intro h <;> simp at h <;> subst h <;> simp [lim]

/-! ### Sched -/

@[simp] theorem limits_ifRun (f : State → State) (s : State) (h_f : ∀ a0, limits (f a0) = limits a0) :
    limitsO (ifRun f s) = some (limits s) := by unfold ifRun; (repeat' split) <;> simp_all [lim]
@[simp] theorem limits_cmdTaken (op q seq : Nat) (f : Queue → TakenCmd → State → State) (s : State) (h_f : ∀ a0 a1 a2, limits (f a0 a1 a2) = limits a2) :
    limits (cmdTaken op q seq f s) = limits s := by unfold cmdTaken; (repeat' split) <;> simp_all [lim]
@[simp] theorem limits_endOverrun (c : Nat) (s : State) :
    limits (endOverrun c s) = limits s := by unfold endOverrun; simp [lim]
@[simp] theorem limits_requestPreempt (w : Nat) (debits : Bool) (k : Nat) (s : State) :
    limits (requestPreempt w debits k s) = limits s := by unfold requestPreempt; (repeat' split) <;> simp_all [lim]
@[simp] theorem limits_seekVictims (k : Nat) (s : State) :
    limits (seekVictims k s) = limits s := by unfold seekVictims; (repeat' split) <;> simp_all [lim]
@[simp] theorem limits_withdraw (w : Nat) (s : State) :
    limits (withdraw w s) = limits s := by unfold withdraw; simp [lim]
@[simp] theorem limits_stationsFreed (s : State) :
    limits (stationsFreed s) = limits s := by unfold stationsFreed; simp [lim]
@[simp] theorem limits_raiseService (c : Nat) (s : State) :
    limits (raiseService c s) = limits s := by unfold raiseService; (repeat' split) <;> (try simp [lim]) <;> (repeat' (first | (apply limits_foldl; intro _ _) | split)) <;> simp_all [lim]
@[simp] theorem limits_launchAsk (u : Queue) (c : TakenCmd) (k : Nat) (r : Recipe) (s : State) :
    limits (launchAsk u c k r s) = limits s := by unfold launchAsk; simp [lim]
@[simp] theorem limits_launchS (u : Queue) (c : TakenCmd) (s : State) :
    limits (launchS u c s) = limits s := by unfold launchS; (repeat' split) <;> simp_all [lim]
theorem limits_execLaunch (q seq : Nat) (s : State) :
    limitsO (execLaunch q seq s) = some (limits s) := by unfold execLaunch; simp [lim]
@[simp] theorem limits_claimInst (k i : Nat) (l : Launch) (r : Recipe) (o : Nat × Nat × Nat) (old : Tbl Stn) (s : State) :
    limits (claimInst k i l r o old s) = limits s := by unfold claimInst; rfl
@[simp] theorem limits_beginSlice (c held : Nat) (s : State) :
    limits (beginSlice c held s) = limits s := by unfold beginSlice; simp [lim]
@[simp] theorem limits_placeFirst (k : Nat) (l : Launch) (r : Recipe) (os : List (Nat × Nat × Nat)) (hints : List Nat) (s : State) :
    limits (placeFirst k l r os hints s) = limits s := by
  unfold placeFirst
  dsimp only
  split
  · simp [lim]
  · rename_i h
    split at h
    · cases h; simp
    · simp [limits_joinPlan _ _ _ _ _ h]
@[simp] theorem limits_placeAgain (k : Nat) (l : Launch) (r : Recipe) (os : List (Nat × Nat × Nat)) (s : State) :
    limits (placeAgain k l r os s) = limits s := by unfold placeAgain; simp [lim]
@[simp] theorem limits_placementS (k : Nat) (hints : List Nat) (s : State) :
    limits (placementS k hints s) = limits s := by unfold placementS; (repeat' split) <;> (try simp [lim]) <;> (repeat' (first | (apply limits_foldl; intro _ _) | split)) <;> simp_all [lim]
theorem limits_execPlacement (launch : Nat) (grans : List Nat) (s : State) :
    limitsO (execPlacement launch grans s) = some (limits s) := by unfold execPlacement; simp [lim]
@[simp] theorem limits_serviceCtx (c : Nat) (s : State) :
    limits (serviceCtx c s) = limits s := by unfold serviceCtx; simp [lim]
@[simp] theorem limits_serviceTickS (cplx : Nat) (s : State) :
    limits (serviceTickS cplx s) = limits s := by unfold serviceTickS; simp [lim]
theorem limits_execServiceTick (cplx : Nat) (s : State) :
    limitsO (execServiceTick cplx s) = some (limits s) := by unfold execServiceTick; simp [lim]
@[simp] theorem limits_timeSliceEndS (c : Nat) (s : State) :
    limits (timeSliceEndS c s) = limits s := by unfold timeSliceEndS; dsimp only; (repeat' split) <;> simp [lim]
theorem limits_execTimeSliceEnd (ctx : Nat) (s : State) :
    limitsO (execTimeSliceEnd ctx s) = some (limits s) := by unfold execTimeSliceEnd; simp [lim]
@[simp] theorem limits_overrunKillS (c : Nat) (s : State) :
    limits (overrunKillS c s) = limits s := by unfold overrunKillS; (repeat' split) <;> simp_all [lim]
theorem limits_execOverrunKill (ctx : Nat) (s : State) :
    limitsO (execOverrunKill ctx s) = some (limits s) := by unfold execOverrunKill; simp [lim]
@[simp] theorem limits_payDamage (c : Nat) (s : State) :
    limits (payDamage c s) = limits s := by unfold payDamage; simp [lim]
@[simp] theorem limits_seamRested (k i p : Nat) (s : State) :
    limits (seamRested k i p s) = limits s := by unfold seamRested; simp [lim]
@[simp] theorem limits_leaveRest (k i id : Nat) (r : Recipe) (s : State) :
    limits (leaveRest k i id r s) = limits s := by unfold leaveRest; rfl
@[simp] theorem limits_restReachedS (k i : Nat) (s : State) :
    limits (restReachedS k i s) = limits s := by unfold restReachedS; (repeat' split) <;> (try simp [lim]) <;> (repeat' (first | (apply limits_foldl; intro _ _) | split)) <;> simp_all [lim]
theorem limits_execRestPointReached (launch inst : Nat) (s : State) :
    limitsO (execRestPointReached launch inst s) = some (limits s) := by unfold execRestPointReached; simp [lim]
@[simp] theorem limits_settle (k : Nat) (s : State) :
    limits (settle k s) = limits s := by unfold settle; (repeat' split) <;> simp_all [lim]
@[simp] theorem limits_saveDoneS (k i : Nat) (s : State) :
    limits (saveDoneS k i s) = limits s := by unfold saveDoneS; (repeat' split) <;> simp_all [lim]
theorem limits_execSaveDone (launch inst : Nat) (s : State) :
    limitsO (execSaveDone launch inst s) = some (limits s) := by unfold execSaveDone; simp [lim]
@[simp] theorem limits_restoreDoneS (k i : Nat) (s : State) :
    limits (restoreDoneS k i s) = limits s := by unfold restoreDoneS; (repeat' split) <;> simp_all [lim]
theorem limits_execRestoreDone (launch inst : Nat) (s : State) :
    limitsO (execRestoreDone launch inst s) = some (limits s) := by unfold execRestoreDone; simp [lim]
@[simp] theorem limits_gather (k i : Nat) (s : State) :
    limits (gather k i s) = limits s := by unfold gather; (repeat' split) <;> simp_all [lim]
@[simp] theorem limits_instanceCompleteS (k i : Nat) (s : State) :
    limits (instanceCompleteS k i s) = limits s := by unfold instanceCompleteS; (repeat' split) <;> simp_all [lim]
theorem limits_execInstanceComplete (launch inst : Nat) (s : State) :
    limitsO (execInstanceComplete launch inst s) = some (limits s) := by unfold execInstanceComplete; simp [lim]
@[simp] theorem limits_launchCompleteS (k : Nat) (s : State) :
    limits (launchCompleteS k s) = limits s := by unfold launchCompleteS; (repeat' split) <;> (try simp [lim]) <;> (repeat' (first | (apply limits_foldl; intro _ _) | split)) <;> simp_all [lim]
theorem limits_execLaunchComplete (launch : Nat) (s : State) :
    limitsO (execLaunchComplete launch s) = some (limits s) := by unfold execLaunchComplete; simp [lim]

/-! ### CopyCmds -/

@[simp] theorem limits_poisonDest (c a : Nat) (offs : List Nat) (s : State) :
    limits (poisonDest c a offs s) = limits s := by unfold poisonDest; (repeat' split) <;> (try simp [lim]) <;> (repeat' (first | (apply limits_foldl; intro _ _) | split)) <;> simp_all [lim]
@[simp] theorem limits_copyMove (u : Queue) (c : TakenCmd) (src dst n spaces : Nat) (s : State) :
    limits (copyMove u c src dst n spaces s) = limits s := by unfold copyMove; simp [lim]
@[simp] theorem limits_copyS (u : Queue) (c : TakenCmd) (s : State) :
    limits (copyS u c s) = limits s := by unfold copyS; (repeat' split) <;> (try simp [lim]) <;> (repeat' (first | (apply limits_foldl; intro _ _) | split)) <;> simp_all [lim]
theorem limits_execCopy (q seq : Nat) (s : State) :
    limitsO (execCopy q seq s) = some (limits s) := by unfold execCopy; (repeat' split) <;> simp_all [lim]
@[simp] theorem limits_fillS (u : Queue) (c : TakenCmd) (s : State) :
    limits (fillS u c s) = limits s := by unfold fillS; (repeat' split) <;> (try simp [lim]) <;> (repeat' (first | (apply limits_foldl; intro _ _) | split)) <;> simp_all [lim]
theorem limits_execFillCommand (q seq : Nat) (s : State) :
    limitsO (execFillCommand q seq s) = some (limits s) := by unfold execFillCommand; (repeat' split) <;> simp_all [lim]
@[simp] theorem limits_counterWait (r : Req) (w c val : Nat) (s : State) :
    limits (counterWait r w c val s) = limits s := by unfold counterWait; simp [lim]
@[simp] theorem limits_semWaitCmdS (u : Queue) (c : TakenCmd) (s : State) :
    limits (semWaitCmdS u c s) = limits s := by unfold semWaitCmdS; (repeat' split) <;> (try simp [lim]) <;> (repeat' (first | (apply limits_foldl; intro _ _) | split)) <;> simp_all [lim]
theorem limits_execSemWaitCommand (q seq : Nat) (s : State) :
    limitsO (execSemWaitCommand q seq s) = some (limits s) := by unfold execSemWaitCommand; simp [lim]
@[simp] theorem limits_dropCmdWaits (q seq : Nat) (s : State) :
    limits (dropCmdWaits q seq s) = limits s := by unfold dropCmdWaits; rfl
@[simp] theorem limits_semTimeoutS (u : Queue) (c : TakenCmd) (s : State) :
    limits (semTimeoutS u c s) = limits s := by unfold semTimeoutS; simp [lim]
theorem limits_execSemWaitTimeout (q seq : Nat) (s : State) :
    limitsO (execSemWaitTimeout q seq s) = some (limits s) := by unfold execSemWaitTimeout; simp [lim]
@[simp] theorem limits_semReleaseCmdS (u : Queue) (c : TakenCmd) (s : State) :
    limits (semReleaseCmdS u c s) = limits s := by unfold semReleaseCmdS; (repeat' split) <;> (try simp [lim]) <;> (repeat' (first | (apply limits_foldl; intro _ _) | split)) <;> simp_all [lim]
theorem limits_execSemReleaseCommand (q seq : Nat) (s : State) :
    limitsO (execSemReleaseCommand q seq s) = some (limits s) := by unfold execSemReleaseCommand; simp [lim]
@[simp] theorem limits_flushS (u : Queue) (c : TakenCmd) (s : State) :
    limits (flushS u c s) = limits s := by unfold flushS; rfl
theorem limits_execFlush (q seq : Nat) (s : State) :
    limitsO (execFlush q seq s) = some (limits s) := by unfold execFlush; simp [lim]

/-! ### SliceCmds -/

@[simp] theorem limits_sliceCreateS (u : Queue) (c : TakenCmd) (s : State) :
    limits (sliceCreateS u c s) = limits s := by unfold sliceCreateS; simp [lim]
theorem limits_execSliceCreate (q seq : Nat) (s : State) :
    limitsO (execSliceCreate q seq s) = some (limits s) := by unfold execSliceCreate; simp [lim]
@[simp] theorem limits_resizeBegin (u : Queue) (c : TakenCmd) (n : Nat) (sl : Slice) (r : List Byte) (s : State) :
    limits (resizeBegin u c n sl r s) = limits s := by unfold resizeBegin; rfl
@[simp] theorem limits_resizeDrain (u : Queue) (c : TakenCmd) (n : Nat) (s : State) : limits (resizeDrain u c n s) = limits s := by
  unfold resizeDrain
  split
  · rfl
  · dsimp only
    split
    · refine limits_foldl _ _ _ (fun s k => ?_)
      (repeat' split) <;> simp
    · simp
@[simp] theorem limits_sliceResizeS (u : Queue) (c : TakenCmd) (s : State) :
    limits (sliceResizeS u c s) = limits s := by unfold sliceResizeS; (repeat' split) <;> (try simp [lim]) <;> (repeat' (first | (apply limits_foldl; intro _ _) | split)) <;> simp_all [lim]
theorem limits_execSliceResize (q seq : Nat) (s : State) :
    limitsO (execSliceResize q seq s) = some (limits s) := by unfold execSliceResize; simp [lim]
@[simp] theorem limits_drainQueues (n : Nat) (s : State) :
    limits (drainQueues n s) = limits s := by unfold drainQueues; rfl
@[simp] theorem limits_sliceErase (n : Nat) (s : State) :
    limits (sliceErase n s) = limits s := by unfold sliceErase; simp [lim]
@[simp] theorem limits_sliceDestroyS (u : Queue) (c : TakenCmd) (s : State) :
    limits (sliceDestroyS u c s) = limits s := by unfold sliceDestroyS; simp [lim]
theorem limits_execSliceDestroy (q seq : Nat) (s : State) :
    limitsO (execSliceDestroy q seq s) = some (limits s) := by unfold execSliceDestroy; simp [lim]
@[simp] theorem limits_slicePasidS (u : Queue) (c : TakenCmd) (s : State) :
    limits (slicePasidS u c s) = limits s := by unfold slicePasidS; simp [lim]
theorem limits_execSlicePasid (q seq : Nat) (s : State) :
    limitsO (execSlicePasid q seq s) = some (limits s) := by unfold execSlicePasid; simp [lim]
@[simp] theorem limits_reportGran (pasid : Option Nat) (bitmap key : Nat) (s : State) :
    limits (reportGran pasid bitmap key s) = limits s := by unfold reportGran; simp [lim]
@[simp] theorem limits_reportPages (pasid : Option Nat) (at_ n : Nat) (s : State) :
    limits (reportPages pasid at_ n s) = limits s := by unfold reportPages; (repeat' split) <;> simp_all [lim]
@[simp] theorem limits_dirtyLogS (u : Queue) (c : TakenCmd) (s : State) :
    limits (dirtyLogS u c s) = limits s := by unfold dirtyLogS; simp [lim]
theorem limits_execDirtyLog (q seq : Nat) (s : State) :
    limitsO (execDirtyLog q seq s) = some (limits s) := by unfold execDirtyLog; simp [lim]

/-! ### SecurityCmds -/

@[simp] theorem limits_spdmRun (req : List Byte) (s : State) :
    limits (spdmRun req s) = limits s := by unfold spdmRun; rfl
@[simp] theorem limits_spdmS (u : Queue) (c : TakenCmd) (s : State) :
    limits (spdmS u c s) = limits s := by unfold spdmS; simp [lim]
theorem limits_execSpdm (q seq : Nat) (s : State) :
    limitsO (execSpdm q seq s) = some (limits s) := by unfold execSpdm; simp [lim]
@[simp] theorem limits_setKeyS (u : Queue) (c : TakenCmd) (s : State) :
    limits (setKeyS u c s) = limits s := by unfold setKeyS; (repeat' split) <;> (try simp [lim]) <;> (repeat' (first | (apply limits_foldl; intro _ _) | split)) <;> simp_all [lim]
theorem limits_execSetKey (q seq : Nat) (s : State) :
    limitsO (execSetKey q seq s) = some (limits s) := by unfold execSetKey; simp [lim]
@[simp] theorem limits_putPayload (x : Extent) (off : Nat) (bs : List Byte) (s : State) :
    limits (putPayload x off bs s) = limits s := by unfold putPayload; (repeat' split) <;> (try simp [lim]) <;> (repeat' (first | (apply limits_foldl; intro _ _) | split)) <;> simp_all [lim]
@[simp] theorem limits_importRun (u : Queue) (c : TakenCmd) (num : Nat) (x : Extent) (off n : Nat) (bkey_ h list payload : List Byte) (s : State) :
    limits (importRun u c num x off n bkey_ h list payload s) = limits s := by unfold importRun; (repeat' split) <;> simp_all [lim]
@[simp] theorem limits_bundleImportS (u : Queue) (c : TakenCmd) (s : State) :
    limits (bundleImportS u c s) = limits s := by
  unfold bundleImportS
  dsimp only
  repeat' split
  all_goals first | rfl | rw [limits_finishCmd] | rw [limits_importRun]
theorem limits_execBundleImport (q seq : Nat) (s : State) :
    limitsO (execBundleImport q seq s) = some (limits s) := by unfold execBundleImport; (repeat' split) <;> simp_all [lim]
@[simp] theorem limits_setDestroyS (u : Queue) (c : TakenCmd) (s : State) :
    limits (setDestroyS u c s) = limits s := by unfold setDestroyS; (repeat' split) <;> (try simp [lim]) <;> (repeat' (first | (apply limits_foldl; intro _ _) | split)) <;> simp_all [lim]
theorem limits_execSetDestroy (q seq : Nat) (s : State) :
    limitsO (execSetDestroy q seq s) = some (limits s) := by unfold execSetDestroy; simp [lim]

end Sys2Proof.Machine
end

