-- ==== Sys2Proof/Laws/LimitsStations.lean ====
section
/-! SUPPORT. What each function leaves of the limited values (`limits`): all of them, for every function named here: coherence, faults and the descriptors of stations. -/

set_option maxRecDepth 4000

namespace Sys2Proof.Machine

/-! ### Access -/

@[simp] theorem limits_touchX (n a : Nat) (s : State) :
    limits (touchX n a s) = limits s := by unfold touchX; rfl
@[simp] theorem limits_addX (n : Nat) (e : Nat × Nat × Nat) (s : State) :
    limits (addX n e s) = limits s := by unfold addX; rfl
@[simp] theorem limits_setPiece (n xid k st : Nat) (s : State) :
    limits (setPiece n xid k st s) = limits s := by unfold setPiece; rfl
@[simp] theorem limits_pieceFault (n : Nat) (f : Xfer) (p : XPiece) (k cause : Nat) (s : State) :
    limits (pieceFault n f p k cause s) = limits s := by unfold pieceFault; simp [lim]
@[simp] theorem limits_agentFault (who : Agent) (code detail : Nat) (s : State) :
    limits (agentFault who code detail s) = limits s := by unfold agentFault; (repeat' split) <;> simp_all [lim]
@[simp] theorem limits_setSem (who : Agent) (v : Nat) (s : State) :
    limits (setSem who v s) = limits s := by unfold setSem; (repeat' split) <;> simp_all [lim]
@[simp] theorem limits_semDone (who : Agent) (s : State) :
    limits (semDone who s) = limits s := by unfold semDone; (repeat' split) <;> simp_all [lim]
@[simp] theorem limits_endUnavailable (h : HReq) (s : State) :
    limits (endUnavailable h s) = limits s := by unfold endUnavailable; (repeat' split) <;> (try simp [lim]) <;> (repeat' (first | (apply limits_foldl; intro _ _) | split)) <;> simp_all [lim]
@[simp] theorem limits_unavailable (h : HReq) (s : State) :
    limits (unavailable h s) = limits s := by unfold unavailable; (repeat' split) <;> (try simp [lim]) <;> (repeat' (first | (apply limits_foldl; intro _ _) | split)) <;> simp_all [lim]
@[simp] theorem limits_refusedOwner (r : Req) (s : State) :
    limits (refusedOwner r s) = limits s := by unfold refusedOwner; (repeat' split) <;> (try simp [lim]) <;> (repeat' (first | (apply limits_foldl; intro _ _) | split)) <;> simp_all [lim]
@[simp] theorem limits_sendReq (h : HReq) (s : State) :
    limits (sendReq h s) = limits s := by unfold sendReq; (repeat' split) <;> simp_all [lim]
@[simp] theorem limits_setPort (p : Nat) (f : RPort → RPort) (s : State) :
    limits (setPort p f s) = limits s := by unfold setPort; rfl
@[simp] theorem limits_drainPort (p fuel : Nat) (s : State) : limits (drainPort p fuel s) = limits s := by
  induction fuel generalizing s with
  | zero => rfl
  | succ n ih =>
    unfold drainPort
    dsimp only
    split
    · rfl
    · split <;> simp [ih, lim]
@[simp] theorem limits_emitPkt (p : Nat) (k : Pkt) (s : State) :
    limits (emitPkt p k s) = limits s := by unfold emitPkt; simp [lim]
@[simp] theorem limits_expiredEvent (d w dev : Nat) (s : State) :
    limits (expiredEvent d w dev s) = limits s := by unfold expiredEvent; simp [lim]
@[simp] theorem limits_expireReq (q : RReq) (s : State) :
    limits (expireReq q s) = limits s := by unfold expireReq; (repeat' split) <;> simp_all [lim]
@[simp] theorem limits_trySend (q : RReq) (s : State) :
    limits (trySend q s) = limits s := by unfold trySend; (repeat' split) <;> simp_all [lim]
@[simp] theorem limits_sendAnswer (s : State) :
    limits (sendAnswer s) = limits s := by unfold sendAnswer; (repeat' split) <;> simp_all [lim]
@[simp] theorem limits_pumpRbx (s : State) :
    limits (pumpRbx s) = limits s := by unfold pumpRbx; simp [lim]
@[simp] theorem limits_openReq (w : Nat) (pkt : Pkt) (who : Agent) (piper : Option (Nat × Nat × Nat)) (s : State) :
    limits (openReq w pkt who piper s) = limits s := by unfold openReq; simp [lim]

/-! ### GroupOps -/

@[simp] theorem limits_setGrp (n g : Nat) (f : GroupSt → GroupSt) (s : State) :
    limits (setGrp n g f s) = limits s := by unfold setGrp; rfl

/-! ### Order -/

@[simp] theorem limits_noteEngine (f : Xfer) (s : State) :
    limits (noteEngine f s) = limits s := by unfold noteEngine; simp [lim]

/-! ### Coherence -/

@[simp] theorem limits_setPieces (n xid : Nat) (l : List Nat) (st : Nat) (s : State) :
    limits (setPieces n xid l st s) = limits s := by unfold setPieces; simp [lim]
@[simp] theorem limits_servePiece (n xid k : Nat) (p : XPiece) (bs : List Byte) (s : State) :
    limits (servePiece n xid k p bs s) = limits s := by unfold servePiece; rfl
@[simp] theorem limits_serveLinePieces (n xid : Nat) (l : List Nat) (line : List Byte) (s : State) :
    limits (serveLinePieces n xid l line s) = limits s := by unfold serveLinePieces; (repeat' split) <;> (try simp [lim]) <;> (repeat' (first | (apply limits_foldl; intro _ _) | split)) <;> simp_all [lim]
@[simp] theorem limits_noteEngines (x : Stn) (ids : List Nat) (s : State) :
    limits (noteEngines x ids s) = limits s := by unfold noteEngines; simp [lim]
@[simp] theorem limits_getsStn (n : Nat) (r : Req) (s : State) :
    limits (getsStn n r s) = limits s := by unfold getsStn; (repeat' split) <;> (try simp [lim]) <;> (repeat' (first | (apply limits_foldl; intro _ _) | split)) <;> simp_all [lim]
@[simp] theorem limits_getsS (r : Req) (s : State) :
    limits (getsS r s) = limits s := by unfold getsS; (repeat' split) <;> simp_all [lim]
theorem limits_execGets (r : Req) (s : State) :
    limitsO (execGets r s) = some (limits s) := by unfold execGets; simp [lim]
@[simp] theorem limits_remoteRead (n : Nat) (f : Xfer) (p : XPiece) (k : Nat) (w : Nat × OWin) (s : State) :
    limits (remoteRead n f p k w s) = limits s := by unfold remoteRead; simp [lim]
@[simp] theorem limits_getuStn (n xid k : Nat) (r : Req) (s : State) :
    limits (getuStn n xid k r s) = limits s := by unfold getuStn; (repeat' split) <;> simp_all [lim]
@[simp] theorem limits_getuS (r : Req) (s : State) :
    limits (getuS r s) = limits s := by unfold getuS; (repeat' split) <;> simp_all [lim]
theorem limits_execGetu (r : Req) (s : State) :
    limitsO (execGetu r s) = some (limits s) := by unfold execGetu; simp [lim]
@[simp] theorem limits_missFault (n m a cause : Nat) (ws : List Nat) (s : State) :
    limits (missFault n m a cause ws s) = limits s := by unfold missFault; simp [lim]
@[simp] theorem limits_getrS (r : Req) (s : State) :
    limits (getrS r s) = limits s := by unfold getrS; (repeat' split) <;> simp_all [lim]
theorem limits_execGetr (r : Req) (s : State) :
    limitsO (execGetr r s) = some (limits s) := by unfold execGetr; simp [lim]
@[simp] theorem limits_getcS (r : Req) (s : State) :
    limits (getcS r s) = limits s := by unfold getcS; (repeat' split) <;> simp_all [lim]
theorem limits_execGetc (r : Req) (s : State) :
    limitsO (execGetc r s) = some (limits s) := by unfold execGetc; simp [lim]
@[simp] theorem limits_writeStn (n xid k : Nat) (r : Req) (mask : Nat) (data : List Byte) (s : State) :
    limits (writeStn n xid k r mask data s) = limits s := by unfold writeStn; (repeat' split) <;> simp_all [lim]
@[simp] theorem limits_writeS (r : Req) (mask : Nat) (data : List Byte) (s : State) :
    limits (writeS r mask data s) = limits s := by unfold writeS; (repeat' split) <;> simp_all [lim]
theorem limits_execWrite (r : Req) (mask : Nat) (data : List Byte) (s : State) :
    limitsO (execWrite r mask data s) = some (limits s) := by unfold execWrite; simp [lim]
@[simp] theorem limits_addAgain (n xid : Nat) (f : Xfer) (p : XPiece) (r : Req) (o : RedOp) (x : Stn) (s : State) :
    limits (addAgain n xid f p r o x s) = limits s := by unfold addAgain; (repeat' split) <;> simp_all [lim]
@[simp] theorem limits_redStn (n xid k : Nat) (r : Req) (o : RedOp) (s : State) :
    limits (redStn n xid k r o s) = limits s := by unfold redStn; (repeat' split) <;> simp_all [lim]
@[simp] theorem limits_semXlate (who : Agent) (n cause : Nat) (q : SemAcc) (s : State) :
    limits (semXlate who n cause q s) = limits s := by unfold semXlate; simp [lim]
@[simp] theorem limits_noteRelease (n : Nat) (x : Stn) (a v : Nat) (s : State) :
    limits (noteRelease n x a v s) = limits s := by unfold noteRelease; rfl
@[simp] theorem limits_semLeaves (who : Agent) (q : SemAcc) (s : State) :
    limits (semLeaves who q s) = limits s := by unfold semLeaves; (repeat' split) <;> simp_all [lim]
@[simp] theorem limits_relWindow (who : Agent) (n : Nat) (q : SemAcc) (w : Nat × OWin) (s : State) :
    limits (relWindow who n q w s) = limits s := by
  unfold relWindow
  cases addPkt s w.2 q.addr q.val with
  | none => simp
  | some k =>
    dsimp only
    refine limits_ite_of rfl ?_
    simp
@[simp] theorem limits_relHome (who : Agent) (n : Nat) (x : Stn) (q : SemAcc) (r : Req) (o : RedOp) (s : State) :
    limits (relHome who n x q r o s) = limits s := by unfold relHome; (repeat' split) <;> simp_all [lim]
@[simp] theorem limits_semRelStn (who : Agent) (r : Req) (o : RedOp) (s : State) :
    limits (semRelStn who r o s) = limits s := by unfold semRelStn; (repeat' split) <;> simp_all [lim]
@[simp] theorem limits_semWaitStn (who : Agent) (r : Req) (off val : Nat) (s : State) :
    limits (semWaitStn who r off val s) = limits s := by unfold semWaitStn; (repeat' split) <;> simp_all [lim]
@[simp] theorem limits_redS (r : Req) (o : RedOp) (s : State) :
    limits (redS r o s) = limits s := by unfold redS; (repeat' split) <;> simp_all [lim]
theorem limits_execRed (r : Req) (o : RedOp) (s : State) :
    limitsO (execRed r o s) = some (limits s) := by unfold execRed; simp [lim]
@[simp] theorem limits_homeSemWaitS (r : Req) (off val : Nat) (s : State) :
    limits (homeSemWaitS r off val s) = limits s := by unfold homeSemWaitS; (repeat' split) <;> simp_all [lim]
theorem limits_execHomeSemWait (r : Req) (off val : Nat) (s : State) :
    limitsO (execHomeSemWait r off val s) = some (limits s) := by unfold execHomeSemWait; simp [lim]
@[simp] theorem limits_invS (k line p : Nat) (s : State) :
    limits (invS k line p s) = limits s := by unfold invS; simp [lim]
theorem limits_execInv (stack line part : Nat) (s : State) :
    limitsO (execInv stack line part s) = some (limits s) := by unfold execInv; simp [lim]
@[simp] theorem limits_invDropS (n k line : Nat) (s : State) :
    limits (invDropS n k line s) = limits s := by unfold invDropS; simp [lim]
theorem limits_execInvDrop (stn stack line : Nat) (s : State) :
    limitsO (execInvDrop stn stack line s) = some (limits s) := by unfold execInvDrop; simp [lim]
@[simp] theorem limits_partAckS (k line p : Nat) (s : State) :
    limits (partAckS k line p s) = limits s := by unfold partAckS; simp [lim]
theorem limits_execPartAck (stack line part : Nat) (s : State) :
    limitsO (execPartAck stack line part s) = some (limits s) := by unfold execPartAck; simp [lim]
@[simp] theorem limits_pendChannel (k c : Nat) (s : State) :
    limits (pendChannel k c s) = limits s := by unfold pendChannel; simp [lim]
@[simp] theorem limits_checkThresh (k c : Nat) (s : State) :
    limits (checkThresh k c s) = limits s := by unfold checkThresh; simp [lim]
@[simp] theorem limits_eccVerdict (k line : Nat) (e : Ecc) (s : State) :
    limits (eccVerdict k line e s) = limits s := by unfold eccVerdict; (repeat' split) <;> simp_all [lim]
@[simp] theorem limits_stackDataS (k line : Nat) (e : Ecc) (s : State) :
    limits (stackDataS k line e s) = limits s := by unfold stackDataS; simp [lim]
theorem limits_execStackDataArrival (stack line : Nat) (e : Ecc) (s : State) :
    limitsO (execStackDataArrival stack line e s) = some (limits s) := by unfold execStackDataArrival; simp [lim]
@[simp] theorem limits_replicaRepairS (handle i : Nat) (s : State) :
    limits (replicaRepairS handle i s) = limits s := by unfold replicaRepairS; (repeat' split) <;> simp_all [lim]
theorem limits_execReplicaRepair (handle line : Nat) (s : State) :
    limitsO (execReplicaRepair handle line s) = some (limits s) := by unfold execReplicaRepair; simp [lim]
theorem limits_execReductionApply (stack line : Nat) (s : State) :
    limitsO (execReductionApply stack line s) = some (limits s) := by unfold execReductionApply; simp [lim]
@[simp] theorem limits_holdEndS (k line : Nat) (s : State) :
    limits (holdEndS k line s) = limits s := by unfold holdEndS; simp [lim]
theorem limits_execHoldEnd (stack line : Nat) (s : State) :
    limitsO (execHoldEnd stack line s) = some (limits s) := by unfold execHoldEnd; simp [lim]
@[simp] theorem limits_orderTimeoutS (k line : Nat) (s : State) :
    limits (orderTimeoutS k line s) = limits s := by unfold orderTimeoutS; dsimp only; (repeat' split) <;> simp [lim]
theorem limits_execOrderTimeout (stack line : Nat) (s : State) :
    limitsO (execOrderTimeout stack line s) = some (limits s) := by unfold execOrderTimeout; simp [lim]
@[simp] theorem limits_drainS (k c : Nat) (s : State) :
    limits (drainS k c s) = limits s := by unfold drainS; rfl
theorem limits_execWriteBatchDrain (stack channel : Nat) (s : State) :
    limitsO (execWriteBatchDrain stack channel s) = some (limits s) := by unfold execWriteBatchDrain; simp [lim]
@[simp] theorem limits_scrubS (k line : Nat) (e : Ecc) (s : State) :
    limits (scrubS k line e s) = limits s := by unfold scrubS; simp [lim]
theorem limits_execScrubRead (stack line : Nat) (e : Ecc) (s : State) :
    limitsO (execScrubRead stack line e s) = some (limits s) := by unfold execScrubRead; simp [lim]
@[simp] theorem limits_thrashS (k n : Nat) (s : State) :
    limits (thrashS k n s) = limits s := by unfold thrashS; simp [lim]
theorem limits_execThrashWindow (stack slice : Nat) (s : State) :
    limitsO (execThrashWindow stack slice s) = some (limits s) := by unfold execThrashWindow; simp [lim]

/-! ### Faults -/

@[simp] theorem limits_extentWalkS (n c a agent index : Nat) (s : State) :
    limits (extentWalkS n c a agent index s) = limits s := by unfold extentWalkS; (repeat' split) <;> (repeat' first | (simp [lim]; done) | (refine Eq.trans (limits_foldl _ _ _ (fun _ _ => ?_)) ?_) | split | dsimp only)
theorem limits_execExtentWalk (stn ctx addr _access agent index _len : Nat) (s : State) :
    limitsO (execExtentWalk stn ctx addr _access agent index _len s) = some (limits s) := by unfold execExtentWalk; simp [lim]
@[simp] theorem limits_unsend (r : Req) (s : State) :
    limits (unsend r s) = limits s := by unfold unsend; (repeat' split) <;> (try simp [lim]) <;> (repeat' (first | (apply limits_foldl; intro _ _) | split)) <;> simp_all [lim]
@[simp] theorem limits_staleExtentS (n c a : Nat) (s : State) :
    limits (staleExtentS n c a s) = limits s := by unfold staleExtentS; (repeat' split) <;> simp_all [lim]
theorem limits_execStaleExtent (stn ctx addr : Nat) (s : State) :
    limitsO (execStaleExtent stn ctx addr s) = some (limits s) := by unfold execStaleExtent; simp [lim]
@[simp] theorem limits_putRing (es : List (List Byte)) (s : State) :
    limits (putRing es s) = limits s := by unfold putRing; simp [lim]
@[simp] theorem limits_faultDeliveryS (c : Nat) (s : State) :
    limits (faultDeliveryS c s) = limits s := by unfold faultDeliveryS; (repeat' split) <;> simp_all [lim]
theorem limits_execFaultBatchDelivery (ctx : Nat) (s : State) :
    limitsO (execFaultBatchDelivery ctx s) = some (limits s) := by unfold execFaultBatchDelivery; simp [lim]
@[simp] theorem limits_apCount (page : Nat) (poison : Bool) (s : State) :
    limits (apCount page poison s) = limits s := by unfold apCount; simp [lim]
@[simp] theorem limits_onesBack (n : Nat) (poison : Bool) (s : State) :
    limits (onesBack n poison s) = limits s := by unfold onesBack; rfl
@[simp] theorem limits_bar4ReadS (off n : Nat) (s : State) :
    limits (bar4ReadS off n s) = limits s := by unfold bar4ReadS; (repeat' split) <;> simp_all [lim]
theorem limits_execBar4Read (off len : Nat) (s : State) :
    limitsO (execBar4Read off len s) = some (limits s) := by unfold execBar4Read; simp [lim]
@[simp] theorem limits_bar4WriteS (off : Nat) (data : List Byte) (s : State) :
    limits (bar4WriteS off data s) = limits s := by unfold bar4WriteS; (repeat' split) <;> simp_all [lim]
theorem limits_execBar4Write (off : Nat) (data : List Byte) (s : State) :
    limitsO (execBar4Write off data s) = some (limits s) := by unfold execBar4Write; simp [lim]
theorem limits_execHostWcWriteback (die : Nat) (keys : List Nat) (s : State) :
    limitsO (execHostWcWriteback die keys s) = some (limits s) := by unfold execHostWcWriteback; simp [lim]
@[simp] theorem limits_freedZeroedS (k g : Nat) (s : State) :
    limits (freedZeroedS k g s) = limits s := by unfold freedZeroedS; (repeat' split) <;> simp_all [lim]
theorem limits_execFreedGranuleZeroed (stack granule : Nat) (s : State) :
    limitsO (execFreedGranuleZeroed stack granule s) = some (limits s) := by unfold execFreedGranuleZeroed; simp [lim]

/-! ### Descriptors -/

@[simp] theorem limits_popFlit (x : Stn) (st : Nat) (s : State) :
    limits (popFlit x st s) = limits s := by unfold popFlit; rfl
@[simp] theorem limits_pushFlit (x : Stn) (st : Nat) (f : Flit) (s : State) :
    limits (pushFlit x st f s) = limits s := by unfold pushFlit; rfl
@[simp] theorem limits_markRest (n id ik idx co : Nat) (s : State) :
    limits (markRest n id ik idx co s) = limits s := by unfold markRest; (repeat' split) <;> simp_all [lim]
@[simp] theorem limits_beginWork (n i : Nat) (w : Work) (s : State) :
    limits (beginWork n i w s) = limits s := by unfold beginWork; rfl
@[simp] theorem limits_startIf (op n : Nat) (f : Nat → List Byte → Stn → State → State) (s : State) (h_f : ∀ a0 a1 a2 a3, limits (f a0 a1 a2 a3) = limits a3) :
    limits (startIf op n f s) = limits s := by unfold startIf; (repeat' split) <;> simp_all [lim]
@[simp] theorem limits_descOut (op n : Nat) (f : Nat → List Byte → Stn → State → State) (s : State) (h_f : ∀ a0 a1 a2 a3, limits (f a0 a1 a2 a3) = limits a3) :
    limitsO (descOut op n f s) = some (limits s) := by unfold descOut; (repeat' split) <;> simp_all [lim]
@[simp] theorem limits_descCompleteS (n i : Nat) (s : State) :
    limits (descCompleteS n i s) = limits s := by unfold descCompleteS; (repeat' split) <;> simp_all [lim]
theorem limits_execDescriptorComplete (stn idx : Nat) (s : State) :
    limitsO (execDescriptorComplete stn idx s) = some (limits s) := by unfold execDescriptorComplete; simp [lim]
@[simp] theorem limits_loopGo (n : Nat) (i : Nat) (d : List Byte) (x : Stn) (s : State) :
    limits (loopGo n i d x s) = limits s := by unfold loopGo; simp [lim]
theorem limits_execLoop (stn : Nat) (s : State) :
    limitsO (execLoop stn s) = some (limits s) := by unfold execLoop; simp [lim]
theorem limits_execStationFault (f : FaultIn) (s : State) :
    limitsO (execStationFault f s) = some (limits s) := by unfold execStationFault; simp [lim]
@[simp] theorem limits_issuePieces (n i : Nat) (d : List Byte) (pass : Nat) (kind : XKind) (fuel r : Nat) (s : State) : limits (issuePieces n i d pass kind fuel r s) = limits s := by
  induction fuel generalizing r s with
  | zero => rfl
  | succ k ih => unfold issuePieces; (repeat' split) <;> (try simp [ih, lim]) <;> (repeat' split) <;> simp_all [lim]
@[simp] theorem limits_copyGo (n : Nat) (kind : XKind) (i : Nat) (d : List Byte) (x : Stn) (s : State) :
    limits (copyGo n kind i d x s) = limits s := by unfold copyGo; simp [lim]
theorem limits_execCopyIn (stn : Nat) (s : State) :
    limitsO (execCopyIn stn s) = some (limits s) := by unfold execCopyIn; simp [lim]
theorem limits_execCopyOut (stn : Nat) (s : State) :
    limitsO (execCopyOut stn s) = some (limits s) := by unfold execCopyOut; simp [lim]
@[simp] theorem limits_copyDoneS (n k : Nat) (s : State) :
    limits (copyDoneS n k s) = limits s := by unfold copyDoneS; (repeat' split) <;> simp_all [lim]
theorem limits_execExplicitCopyDone (stn x : Nat) (s : State) :
    limitsO (execExplicitCopyDone stn x s) = some (limits s) := by unfold execExplicitCopyDone; simp [lim]
theorem limits_execSemWait (stn : Nat) (s : State) :
    limitsO (execSemWait stn s) = some (limits s) := by unfold execSemWait; simp [lim]
theorem limits_execSemRelease (stn : Nat) (s : State) :
    limitsO (execSemRelease stn s) = some (limits s) := by unfold execSemRelease; simp [lim]
@[simp] theorem limits_setWork (n i : Nat) (f : Work → Work) (s : State) :
    limits (setWork n i f s) = limits s := by unfold setWork; rfl
@[simp] theorem limits_sendWork (n i : Nat) (s : State) : limits (sendWork n i s) = limits s := by
  unfold sendWork
  split
  · dsimp only
    simp only [limits_setWork]
    refine Eq.trans (limits_fold_fst _ _ _ (fun a o => ?_)) rfl
    (repeat' split) <;> simp
  · rfl

/-! ### Ray -/

@[simp] theorem limits_setRg (n : Nat) (f : RgSt → RgSt) (s : State) :
    limits (setRg n f s) = limits s := by unfold setRg; rfl
@[simp] theorem limits_setRay (n k : Nat) (f : RaySt → RaySt) (s : State) :
    limits (setRay n k f s) = limits s := by unfold setRay; rfl
@[simp] theorem limits_rgFlag (n : Nat) (fl : Nat) (s : State) :
    limits (rgFlag n fl s) = limits s := by unfold rgFlag; rfl
@[simp] theorem limits_rgRequest (n k a : Nat) (s : State) :
    limits (rgRequest n k a s) = limits s := by unfold rgRequest; (repeat' split) <;> simp_all [lim]
@[simp] theorem limits_rgRead (n k a : Nat) (s : State) :
    limits (rgRead n k a s) = limits s := by unfold rgRead; (repeat' split) <;> simp_all [lim]
@[simp] theorem limits_endRay (n k : Nat) (s : State) :
    limits (endRay n k s) = limits s := by unfold endRay; rfl
@[simp] theorem limits_spillRay (n k units off : Nat) (s : State) :
    limits (spillRay n k units off s) = limits s := by unfold spillRay; (repeat' split) <;> simp_all [lim]
@[simp] theorem limits_stepNode (n k : Nat) (d nd : List Byte) (i : Nat) (r : RaySt) (s : State) :
    limits (stepNode n k d nd i r s) = limits s := by unfold stepNode; simp [lim]
@[simp] theorem limits_stepTri (n k : Nat) (d t : List Byte) (j : Nat) (r : RaySt) (s : State) :
    limits (stepTri n k d t j r s) = limits s := by unfold stepTri; dsimp only; (repeat' split) <;> simp [lim]
@[simp] theorem limits_stepRay (n k : Nat) (d : List Byte) (s : State) : limits (stepRay n k d s).1 = limits s := by
  unfold stepRay; (repeat' split) <;> (try simp) <;> (repeat' split) <;> simp_all [lim]
@[simp] theorem limits_stepPoint (n k : Nat) (d : List Byte) (s : State) : limits (stepPoint n k d s).1 = limits s := by
  unfold stepPoint; (repeat' split) <;> (try simp) <;> (repeat' split) <;> simp_all [lim]
@[simp] theorem limits_runSlot (n k : Nat) (d : List Byte) (fuel : Nat) (s : State) : limits (runSlot n k d fuel s) = limits s := by
  induction fuel generalizing s with
  | zero => rfl
  | succ k ih => unfold runSlot; (repeat' split) <;> (try simp [ih, lim]) <;> (repeat' split) <;> simp_all [lim]
@[simp] theorem limits_leaveBatch (n i : Nat) (d : List Byte) (s : State) :
    limits (leaveBatch n i d s) = limits s := by unfold leaveBatch; dsimp only; (repeat' split) <;> simp [lim]
@[simp] theorem limits_freeTile (n t : Nat) (ks : List Nat) (s : State) :
    limits (freeTile n t ks s) = limits s := by unfold freeTile; rfl
@[simp] theorem limits_gatherOut (n i : Nat) (d : List Byte) (fuel : Nat) (s : State) : limits (gatherOut n i d fuel s) = limits s := by
  induction fuel generalizing s with
  | zero => rfl
  | succ k ih => unfold gatherOut; (repeat' split) <;> (try simp [ih, lim]) <;> (repeat' split) <;> simp_all [lim]
@[simp] theorem limits_gatherIn (n : Nat) (d : List Byte) (fuel : Nat) (s : State) : limits (gatherIn n d fuel s) = limits s := by
  induction fuel generalizing s with
  | zero => rfl
  | succ k ih => unfold gatherIn; (repeat' split) <;> (try simp [ih, lim]) <;> (repeat' split) <;> simp_all [lim]
@[simp] theorem limits_traceOut (n i : Nat) (d : List Byte) (fuel : Nat) (s : State) : limits (traceOut n i d fuel s) = limits s := by
  induction fuel generalizing s with
  | zero => rfl
  | succ k ih => unfold traceOut; (repeat' split) <;> (try simp [ih, lim]) <;> (repeat' split) <;> simp_all [lim]
@[simp] theorem limits_traceRest (n i : Nat) (d : List Byte) (s : State) :
    limits (traceRest n i d s) = limits s := by unfold traceRest; (repeat' split) <;> simp_all [lim]
@[simp] theorem limits_rgRound (n i : Nat) (d : List Byte) (s : State) :
    limits (rgRound n i d s) = limits s := by unfold rgRound; simp [lim]
@[simp] theorem limits_rgRounds (n i : Nat) (d : List Byte) (fuel : Nat) (s : State) : limits (rgRounds n i d fuel s) = limits s := by
  induction fuel generalizing s with
  | zero => rfl
  | succ k ih =>
    unfold rgRounds
    dsimp only
    split <;> simp [ih]
@[simp] theorem limits_rgPump (n : Nat) (s : State) : limits (rgPump n s) = limits s := by
  unfold rgPump
  split
  · rfl
  · rename_i i d h
    dsimp only
    split <;> (split <;> (repeat' split) <;> simp)
@[simp] theorem limits_rgGo (n i : Nat) (_d : List Byte) (_x : Stn) (s : State) :
    limits (rgGo n i _d _x s) = limits s := by unfold rgGo; simp [lim]
theorem limits_execTrace (stn : Nat) (s : State) :
    limitsO (execTrace stn s) = some (limits s) := by unfold execTrace; simp [lim]
theorem limits_execGatherHash (stn : Nat) (s : State) :
    limitsO (execGatherHash stn s) = some (limits s) := by unfold execGatherHash; simp [lim]
theorem limits_execGatherEmbed (stn : Nat) (s : State) :
    limitsO (execGatherEmbed stn s) = some (limits s) := by unfold execGatherEmbed; simp [lim]
@[simp] theorem limits_putRay (flush : Bool) (n : Nat) (s : State) (e : List Byte × Nat) : limits (putRay flush n s e) = limits s := by
  unfold putRay
  dsimp only
  split
  · rfl
  · simp
@[simp] theorem limits_batchTakeS (n : Nat) (s : State) : limits (batchTakeS n s) = limits s := by
  unfold batchTakeS
  dsimp only
  split
  · simp
  · split
    · simp
    · split
      · simp
      · split
        · simp
        · rw [limits_rgPump, limits_setWork, limits_setRg]
          refine Eq.trans (limits_foldl _ _ _ (fun s a => by simp)) ?_
          split
          · exact Eq.trans (limits_foldl _ _ _ (fun s _ => by simp)) (by simp)
          · simp
theorem limits_execRayBatchTake (stn : Nat) (s : State) :
    limitsO (execRayBatchTake stn s) = some (limits s) := by unfold execRayBatchTake; simp [lim]
@[simp] theorem limits_batchFlushS (n : Nat) (s : State) :
    limits (batchFlushS n s) = limits s := by unfold batchFlushS; (repeat' split) <;> simp_all [lim]
theorem limits_execResultBatchFlush (stn : Nat) (s : State) :
    limitsO (execResultBatchFlush stn s) = some (limits s) := by unfold execResultBatchFlush; simp [lim]
@[simp] theorem limits_serveMiss (n m : Nat) (line : List Byte) (poison : Bool) (s : State) :
    limits (serveMiss n m line poison s) = limits s := by unfold serveMiss; (repeat' split) <;> (try simp [lim]) <;> (repeat' (first | (apply limits_foldl; intro _ _) | split)) <;> simp_all [lim]
@[simp] theorem limits_missFillS (n m : Nat) (s : State) :
    limits (missFillS n m s) = limits s := by unfold missFillS; (repeat' split) <;> (try simp [lim]) <;> (repeat' (first | (apply limits_foldl; intro _ _) | split)) <;> simp_all [lim]
theorem limits_execMissFill (stn reg : Nat) (s : State) :
    limitsO (execMissFill stn reg s) = some (limits s) := by unfold execMissFill; simp [lim]

/-! ### Streams -/

@[simp] theorem limits_takeFeed (n i : Nat) (f : Feed) (fuel : Nat) (s : State) : limits (takeFeed n i f fuel s) = limits s := by
  induction fuel generalizing s with
  | zero => rfl
  | succ k ih => unfold takeFeed; (repeat' split) <;> (try simp [ih, lim]) <;> (repeat' split) <;> simp_all [lim]
@[simp] theorem limits_mxStep (n i : Nat) (noIn : List Nat) (canSend : Bool) (s : State) :
    limits (mxStep n i noIn canSend s) = limits s := by
  unfold mxStep
  split
  · rfl
  · dsimp only
    (repeat' split) <;> simp
@[simp] theorem limits_placeTile (n i : Nat) (d : List Byte) (w : Work) (fs : List Flit) (s : State) :
    limits (placeTile n i d w fs s) = limits s := by unfold placeTile; (repeat' split) <;> simp_all [lim]
@[simp] theorem limits_recvStep (n i fuel : Nat) (s : State) : limits (recvStep n i fuel s) = limits s := by
  induction fuel generalizing s with
  | zero => rfl
  | succ k ih => unfold recvStep; (repeat' split) <;> (try simp [ih, lim]) <;> (repeat' split) <;> simp_all [lim]
@[simp] theorem limits_sendStep (n i fuel : Nat) (s : State) : limits (sendStep n i fuel s) = limits s := by
  induction fuel generalizing s with
  | zero => rfl
  | succ k ih =>
    unfold sendStep
    dsimp only
    (repeat' split) <;> simp [ih]
@[simp] theorem limits_dropFs (n : Nat) (f : Xfer) (s : State) :
    limits (dropFs n f s) = limits s := by unfold dropFs; rfl
@[simp] theorem limits_fetchStep (n i fuel : Nat) (s : State) : limits (fetchStep n i fuel s) = limits s := by
  induction fuel generalizing s with
  | zero => rfl
  | succ k ih =>
    unfold fetchStep
    dsimp only
    (repeat' split) <;> simp [ih]
@[simp] theorem limits_storeTile (n i : Nat) (d : List Byte) (w : Work) (fs : List Flit) (f : Xfer) (s : State) :
    limits (storeTile n i d w fs f s) = limits s := by unfold storeTile; (repeat' split) <;> simp_all [lim]
@[simp] theorem limits_storeStep (n i : Nat) (take : Bool) (fuel : Nat) (s : State) : limits (storeStep n i take fuel s) = limits s := by
  induction fuel generalizing s with
  | zero => rfl
  | succ k ih => unfold storeStep; (repeat' split) <;> (try simp [ih, lim]) <;> (repeat' split) <;> simp_all [lim]
@[simp] theorem limits_endXfer (n : Nat) (f : Xfer) (s : State) :
    limits (endXfer n f s) = limits s := by unfold endXfer; rfl
theorem limits_portFlit (n : Nat) (f : Xfer) (k : Nat) (p : XPiece) (s t : State) (h : portFlit n f k p s = some t) :
    limits t = limits s := by
  revert h; unfold portFlit; (repeat' split) <;> intro h <;> simp at h <;> subst h <;> simp
@[simp] theorem limits_portStep (n id fuel : Nat) (s : State) : limits (portStep n id fuel s) = limits s := by
  induction fuel generalizing s with
  | zero => rfl
  | succ k ih =>
    unfold portStep
    (repeat' split) <;> try simp
    rename_i h
    rw [ih, limits_portFlit _ _ _ _ _ _ h]
@[simp] theorem limits_portPump (n : Nat) (s : State) :
    limits (portPump n s) = limits s := by unfold portPump; simp [lim]
@[simp] theorem limits_stepWork (n i op : Nat) (noIn : List Nat) (inOk outOk : Bool) (s : State) :
    limits (stepWork n i op noIn inOk outOk s) = limits s := by unfold stepWork; simp [lim]
@[simp] theorem limits_pumpWorks (n : Nat) (l : List (Nat × Work)) (a b : List Nat) (s : State) :
    limits (pumpWorks n l a b s) = limits s := by
  induction l generalizing a b s with
  | nil => rfl
  | cons e r ih =>
    unfold pumpWorks
    dsimp only
    (repeat' split) <;> simp [ih]
@[simp] theorem limits_pump (n : Nat) (s : State) :
    limits (pump n s) = limits s := by unfold pump; (repeat' split) <;> simp_all [lim]
@[simp] theorem limits_tileGo (n i : Nat) (_d : List Byte) (_x : Stn) (s : State) :
    limits (tileGo n i _d _x s) = limits s := by unfold tileGo; simp [lim]
theorem limits_execRecv (stn : Nat) (s : State) :
    limitsO (execRecv stn s) = some (limits s) := by unfold execRecv; simp [lim]
theorem limits_execSend (stn : Nat) (s : State) :
    limitsO (execSend stn s) = some (limits s) := by unfold execSend; simp [lim]
theorem limits_execMatmul (stn : Nat) (s : State) :
    limitsO (execMatmul stn s) = some (limits s) := by unfold execMatmul; simp [lim]
theorem limits_execConv (stn : Nat) (s : State) :
    limitsO (execConv stn s) = some (limits s) := by unfold execConv; simp [lim]
theorem limits_execAttnScore (stn : Nat) (s : State) :
    limitsO (execAttnScore stn s) = some (limits s) := by unfold execAttnScore; simp [lim]
theorem limits_execAttnPv (stn : Nat) (s : State) :
    limitsO (execAttnPv stn s) = some (limits s) := by unfold execAttnPv; simp [lim]
theorem limits_execAttnFinal (stn : Nat) (s : State) :
    limitsO (execAttnFinal stn s) = some (limits s) := by unfold execAttnFinal; simp [lim]
theorem limits_execEltwise (stn : Nat) (s : State) :
    limitsO (execEltwise stn s) = some (limits s) := by unfold execEltwise; simp [lim]
theorem limits_execReduce (stn : Nat) (s : State) :
    limitsO (execReduce stn s) = some (limits s) := by unfold execReduce; simp [lim]
@[simp] theorem limits_fsGo (n : Nat) (kind : XKind) (i : Nat) (d : List Byte) (x : Stn) (s : State) :
    limits (fsGo n kind i d x s) = limits s := by unfold fsGo; simp [lim]
theorem limits_execFetch (stn : Nat) (s : State) :
    limitsO (execFetch stn s) = some (limits s) := by unfold execFetch; simp [lim]
theorem limits_execStore (stn : Nat) (s : State) :
    limitsO (execStore stn s) = some (limits s) := by unfold execStore; simp [lim]
@[simp] theorem limits_flitArrivalS (k i st m : Nat) (s : State) :
    limits (flitArrivalS k i st m s) = limits s := by unfold flitArrivalS; (repeat' split) <;> simp_all [lim]
theorem limits_execFlitArrival (launch inst stream k : Nat) (s : State) :
    limitsO (execFlitArrival launch inst stream k s) = some (limits s) := by unfold execFlitArrival; simp [lim]
@[simp] theorem limits_creditReturnS (k i st : Nat) (s : State) :
    limits (creditReturnS k i st s) = limits s := by unfold creditReturnS; (repeat' split) <;> simp_all [lim]
theorem limits_execCreditReturn (launch inst stream : Nat) (s : State) :
    limitsO (execCreditReturn launch inst stream s) = some (limits s) := by unfold execCreditReturn; simp [lim]

end Sys2Proof.Machine
end

