-- ==== Sys2Proof/Laws/LimitsShader.lean ====
section
/-! SUPPORT. What each function leaves of the limited values (`limits`): all of them, for every function named here: the shader instructions. -/

set_option maxRecDepth 4000

namespace Sys2Proof.Machine

/-! ### Shader -/

@[simp] theorem limits_grpFault (u : Grp) (y : GroupSt) (code addr : Nat) (s : State) :
    limits (grpFault u y code addr s) = limits s := by unfold grpFault; simp [lim]
@[simp] theorem limits_holdGrp (u : Grp) (why v : Nat) (s : State) :
    limits (holdGrp u why v s) = limits s := by unfold holdGrp; rfl
@[simp] theorem limits_shGo (cls op : Nat) (u : Grp) (w : ShIns) (f : Stn → GroupSt → State → State) (s : State) (h_f : ∀ a0 a1 a2, limits (f a0 a1 a2) = limits a2) :
    limits (shGo cls op u w f s) = limits s := by unfold shGo; (repeat' split) <;> simp_all [lim]
@[simp] theorem limits_shOut (cls op : Nat) (form : Bool) (fieldsOk : Bool) (regs : List Nat) (u : Grp) (w : ShIns) (f : Stn → GroupSt → State → State) (s : State) (h_f : ∀ a0 a1 a2, limits (f a0 a1 a2) = limits a2) :
    limitsO (shOut cls op form fieldsOk regs u w f s) = some (limits s) := by unfold shOut; (repeat' split) <;> simp_all [lim]
@[simp] theorem limits_stepGrp (u : Grp) (f : GroupSt → GroupSt) (s : State) :
    limits (stepGrp u f s) = limits s := by unfold stepGrp; rfl
@[simp] theorem limits_runGo (n i : Nat) (d : List Byte) (_x : Stn) (s : State) :
    limits (runGo n i d _x s) = limits s := by unfold runGo; rfl
theorem limits_execRun (stn : Nat) (s : State) :
    limitsO (execRun stn s) = some (limits s) := by unfold execRun; simp [lim]
@[simp] theorem limits_intOut (op : Nat) (u : Grp) (w : ShIns) (regs : List Nat) (f : GroupSt → Nat → Word → Word → Word) (s : State) :
    limitsO (intOut op u w regs f s) = some (limits s) := by unfold intOut; simp [lim]
theorem limits_execIadd (u : Grp) (w : ShIns) (s : State) :
    limitsO (execIadd u w s) = some (limits s) := by unfold execIadd; simp [lim]
theorem limits_execIsub (u : Grp) (w : ShIns) (s : State) :
    limitsO (execIsub u w s) = some (limits s) := by unfold execIsub; simp [lim]
theorem limits_execImul (u : Grp) (w : ShIns) (s : State) :
    limitsO (execImul u w s) = some (limits s) := by unfold execImul; simp [lim]
theorem limits_execImuladd (u : Grp) (w : ShIns) (s : State) :
    limitsO (execImuladd u w s) = some (limits s) := by unfold execImuladd; simp [lim]
theorem limits_execImin (u : Grp) (w : ShIns) (s : State) :
    limitsO (execImin u w s) = some (limits s) := by unfold execImin; simp [lim]
theorem limits_execImax (u : Grp) (w : ShIns) (s : State) :
    limitsO (execImax u w s) = some (limits s) := by unfold execImax; simp [lim]
theorem limits_execAnd (u : Grp) (w : ShIns) (s : State) :
    limitsO (execAnd u w s) = some (limits s) := by unfold execAnd; simp [lim]
theorem limits_execOr (u : Grp) (w : ShIns) (s : State) :
    limitsO (execOr u w s) = some (limits s) := by unfold execOr; simp [lim]
theorem limits_execXor (u : Grp) (w : ShIns) (s : State) :
    limitsO (execXor u w s) = some (limits s) := by unfold execXor; simp [lim]
theorem limits_execNot (u : Grp) (w : ShIns) (s : State) :
    limitsO (execNot u w s) = some (limits s) := by unfold execNot; simp [lim]
theorem limits_execShl (u : Grp) (w : ShIns) (s : State) :
    limitsO (execShl u w s) = some (limits s) := by unfold execShl; simp [lim]
theorem limits_execShr (u : Grp) (w : ShIns) (s : State) :
    limitsO (execShr u w s) = some (limits s) := by unfold execShr; simp [lim]
theorem limits_execShra (u : Grp) (w : ShIns) (s : State) :
    limitsO (execShra u w s) = some (limits s) := by unfold execShra; simp [lim]
theorem limits_execBitcnt (u : Grp) (w : ShIns) (s : State) :
    limitsO (execBitcnt u w s) = some (limits s) := by unfold execBitcnt; simp [lim]
theorem limits_execLeadz (u : Grp) (w : ShIns) (s : State) :
    limitsO (execLeadz u w s) = some (limits s) := by unfold execLeadz; simp [lim]
theorem limits_execIcmp (u : Grp) (w : ShIns) (s : State) :
    limitsO (execIcmp u w s) = some (limits s) := by unfold execIcmp; simp [lim]
@[simp] theorem limits_flagOut (cls op : Nat) (form ok : Bool) (regs : List Nat) (u : Grp) (w : ShIns) (f : Bool → GroupSt → Nat → Word × Nat) (s : State) :
    limitsO (flagOut cls op form ok regs u w f s) = some (limits s) := by unfold flagOut; simp [lim]
theorem limits_execFadd (u : Grp) (w : ShIns) (s : State) :
    limitsO (execFadd u w s) = some (limits s) := by unfold execFadd; simp [lim]
theorem limits_execFmul (u : Grp) (w : ShIns) (s : State) :
    limitsO (execFmul u w s) = some (limits s) := by unfold execFmul; simp [lim]
theorem limits_execFmuladd (u : Grp) (w : ShIns) (s : State) :
    limitsO (execFmuladd u w s) = some (limits s) := by unfold execFmuladd; simp [lim]
theorem limits_execFmin (u : Grp) (w : ShIns) (s : State) :
    limitsO (execFmin u w s) = some (limits s) := by unfold execFmin; simp [lim]
theorem limits_execFmax (u : Grp) (w : ShIns) (s : State) :
    limitsO (execFmax u w s) = some (limits s) := by unfold execFmax; simp [lim]
theorem limits_execFcmp (u : Grp) (w : ShIns) (s : State) :
    limitsO (execFcmp u w s) = some (limits s) := by unfold execFcmp; simp [lim]
@[simp] theorem limits_sfuOut (code : Nat) (u : Grp) (w : ShIns) (s : State) :
    limitsO (sfuOut code u w s) = some (limits s) := by unfold sfuOut; simp [lim]
theorem limits_execRcp (u : Grp) (w : ShIns) (s : State) :
    limitsO (execRcp u w s) = some (limits s) := by unfold execRcp; simp [lim]
theorem limits_execRsqrt (u : Grp) (w : ShIns) (s : State) :
    limitsO (execRsqrt u w s) = some (limits s) := by unfold execRsqrt; simp [lim]
theorem limits_execSqrt (u : Grp) (w : ShIns) (s : State) :
    limitsO (execSqrt u w s) = some (limits s) := by unfold execSqrt; simp [lim]
theorem limits_execExp2 (u : Grp) (w : ShIns) (s : State) :
    limitsO (execExp2 u w s) = some (limits s) := by unfold execExp2; simp [lim]
theorem limits_execLog2 (u : Grp) (w : ShIns) (s : State) :
    limitsO (execLog2 u w s) = some (limits s) := by unfold execLog2; simp [lim]
theorem limits_execSin (u : Grp) (w : ShIns) (s : State) :
    limitsO (execSin u w s) = some (limits s) := by unfold execSin; simp [lim]
theorem limits_execCos (u : Grp) (w : ShIns) (s : State) :
    limitsO (execCos u w s) = some (limits s) := by unfold execCos; simp [lim]
theorem limits_execTanh (u : Grp) (w : ShIns) (s : State) :
    limitsO (execTanh u w s) = some (limits s) := by unfold execTanh; simp [lim]
theorem limits_execFtoi (u : Grp) (w : ShIns) (s : State) :
    limitsO (execFtoi u w s) = some (limits s) := by unfold execFtoi; simp [lim]
theorem limits_execItof (u : Grp) (w : ShIns) (s : State) :
    limitsO (execItof u w s) = some (limits s) := by unfold execItof; simp [lim]
theorem limits_execFcvt (u : Grp) (w : ShIns) (s : State) :
    limitsO (execFcvt u w s) = some (limits s) := by unfold execFcvt; simp [lim]
theorem limits_execPack2 (u : Grp) (w : ShIns) (s : State) :
    limitsO (execPack2 u w s) = some (limits s) := by unfold execPack2; simp [lim]
theorem limits_execUnpack2 (u : Grp) (w : ShIns) (s : State) :
    limitsO (execUnpack2 u w s) = some (limits s) := by unfold execUnpack2; simp [lim]
@[simp] theorem limits_moveOut (op : Nat) (regs : List Nat) (u : Grp) (w : ShIns) (f : GroupSt → Nat → Word) (s : State) :
    limitsO (moveOut op regs u w f s) = some (limits s) := by unfold moveOut; simp [lim]
theorem limits_execMov (u : Grp) (w : ShIns) (s : State) :
    limitsO (execMov u w s) = some (limits s) := by unfold execMov; simp [lim]
theorem limits_execMovi (u : Grp) (w : ShIns) (s : State) :
    limitsO (execMovi u w s) = some (limits s) := by unfold execMovi; simp [lim]
theorem limits_execSel (u : Grp) (w : ShIns) (s : State) :
    limitsO (execSel u w s) = some (limits s) := by unfold execSel; simp [lim]
theorem limits_execThreadno (u : Grp) (w : ShIns) (s : State) :
    limitsO (execThreadno u w s) = some (limits s) := by unfold execThreadno; simp [lim]
theorem limits_execGroupno (u : Grp) (w : ShIns) (s : State) :
    limitsO (execGroupno u w s) = some (limits s) := by unfold execGroupno; simp [lim]
theorem limits_execStationno (u : Grp) (w : ShIns) (s : State) :
    limitsO (execStationno u w s) = some (limits s) := by unfold execStationno; simp [lim]
theorem limits_execLaneget (u : Grp) (w : ShIns) (s : State) :
    limitsO (execLaneget u w s) = some (limits s) := by unfold execLaneget; simp [lim]
theorem limits_execLanepoll (u : Grp) (w : ShIns) (s : State) :
    limitsO (execLanepoll u w s) = some (limits s) := by unfold execLanepoll; simp [lim]
theorem limits_execPsave (u : Grp) (w : ShIns) (s : State) :
    limitsO (execPsave u w s) = some (limits s) := by unfold execPsave; simp [lim]
theorem limits_execPload (u : Grp) (w : ShIns) (s : State) :
    limitsO (execPload u w s) = some (limits s) := by unfold execPload; simp [lim]

/-! ### ShaderMem -/

@[simp] theorem limits_storeLanes (n : Nat) (l : List (Nat × List Byte)) (s : State) :
    limits (storeLanes n l s) = limits s := by unfold storeLanes; rfl
theorem limits_execLd (u : Grp) (w : ShIns) (s : State) : limitsO (execLd u w s) = some (limits s) := by
  unfold execLd
  refine limits_shOut _ _ _ _ _ _ _ _ _ (fun x y s => ?_)
  split <;> simp
theorem limits_execSt (u : Grp) (w : ShIns) (s : State) : limitsO (execSt u w s) = some (limits s) := by
  unfold execSt
  refine limits_shOut _ _ _ _ _ _ _ _ _ (fun x y s => ?_)
  split <;> simp
theorem limits_execGmac (u : Grp) (w : ShIns) (s : State) :
    limitsO (execGmac u w s) = some (limits s) := by unfold execGmac; simp [lim]
@[simp] theorem limits_gmOut (op : Nat) (u : Grp) (w : ShIns) (f : Stn → GroupSt → Nat → State → State) (s : State) (h_f : ∀ a0 a1 a2 a3, limits (f a0 a1 a2 a3) = limits a3) :
    limitsO (gmOut op u w f s) = some (limits s) := by unfold gmOut; (repeat' split) <;> simp_all [lim]
theorem limits_execGmload (u : Grp) (w : ShIns) (s : State) :
    limitsO (execGmload u w s) = some (limits s) := by unfold execGmload; simp [lim]
theorem limits_execGmstore (u : Grp) (w : ShIns) (s : State) :
    limitsO (execGmstore u w s) = some (limits s) := by unfold execGmstore; simp [lim]
@[simp] theorem limits_brOut (op : Nat) (ok : Bool) (points : List Nat) (u : Grp) (w : ShIns) (f : Stn → GroupSt → State → State) (s : State) (h_f : ∀ a0 a1 a2, limits (f a0 a1 a2) = limits a2) :
    limitsO (brOut op ok points u w f s) = some (limits s) := by unfold brOut; (repeat' split) <;> simp_all [lim]
@[simp] theorem limits_putGrp (u : Grp) (y : GroupSt) (s : State) :
    limits (putGrp u y s) = limits s := by unfold putGrp; rfl
@[simp] theorem limits_joinGrp (u : Grp) (y : GroupSt) (s : State) :
    limits (joinGrp u y s) = limits s := by unfold joinGrp; (repeat' split) <;> simp_all [lim]
theorem limits_execJump (u : Grp) (w : ShIns) (s : State) :
    limitsO (execJump u w s) = some (limits s) := by unfold execJump; simp [lim]
theorem limits_execSplit (u : Grp) (w : ShIns) (s : State) :
    limitsO (execSplit u w s) = some (limits s) := by unfold execSplit; simp [lim]
theorem limits_execJoin (u : Grp) (w : ShIns) (s : State) :
    limitsO (execJoin u w s) = some (limits s) := by unfold execJoin; simp [lim]
theorem limits_execLoopin (u : Grp) (w : ShIns) (s : State) :
    limitsO (execLoopin u w s) = some (limits s) := by unfold execLoopin; simp [lim]
theorem limits_execLeave (u : Grp) (w : ShIns) (s : State) :
    limitsO (execLeave u w s) = some (limits s) := by unfold execLeave; simp [lim]
@[simp] theorem limits_takeCtr (u : Grp) (c : Nat) (s : State) :
    limits (takeCtr u c s) = limits s := by unfold takeCtr; rfl
@[simp] theorem limits_addXfer (n : Nat) (f : Xfer) (s : State) :
    limits (addXfer n f s) = limits s := by unfold addXfer; rfl
theorem limits_execIssue (u : Grp) (w : ShIns) (s : State) :
    limitsO (execIssue u w s) = some (limits s) := by unfold execIssue; simp [lim]
@[simp] theorem limits_gatherDoneS (n k : Nat) (s : State) :
    limits (gatherDoneS n k s) = limits s := by unfold gatherDoneS; (repeat' split) <;> simp_all [lim]
theorem limits_execGatherDone (stn x : Nat) (s : State) :
    limitsO (execGatherDone stn x s) = some (limits s) := by unfold execGatherDone; simp [lim]
@[simp] theorem limits_msemOut (op : Nat) (u : Grp) (w : ShIns) (s : State) :
    limitsO (msemOut op u w s) = some (limits s) := by unfold msemOut; simp [lim]
theorem limits_execMsemr (u : Grp) (w : ShIns) (s : State) :
    limitsO (execMsemr u w s) = some (limits s) := by unfold execMsemr; simp [lim]
theorem limits_execMsemw (u : Grp) (w : ShIns) (s : State) :
    limitsO (execMsemw u w s) = some (limits s) := by unfold execMsemw; simp [lim]
@[simp] theorem limits_portOut (op : Nat) (u : Grp) (w : ShIns) (s : State) :
    limitsO (portOut op u w s) = some (limits s) := by unfold portOut; simp [lim]
theorem limits_execPrecv (u : Grp) (w : ShIns) (s : State) :
    limitsO (execPrecv u w s) = some (limits s) := by unfold execPrecv; simp [lim]
theorem limits_execPsend (u : Grp) (w : ShIns) (s : State) :
    limitsO (execPsend u w s) = some (limits s) := by unfold execPsend; simp [lim]
theorem limits_execWait (u : Grp) (w : ShIns) (s : State) :
    limitsO (execWait u w s) = some (limits s) := by unfold execWait; simp [lim]
@[simp] theorem limits_openMeets (n : Nat) (s : State) :
    limits (openMeets n s) = limits s := by unfold openMeets; rfl
theorem limits_execMeet (u : Grp) (w : ShIns) (s : State) :
    limitsO (execMeet u w s) = some (limits s) := by unfold execMeet; simp [lim]
theorem limits_execSema (u : Grp) (w : ShIns) (s : State) :
    limitsO (execSema u w s) = some (limits s) := by unfold execSema; simp [lim]
theorem limits_execSwait (u : Grp) (w : ShIns) (s : State) :
    limitsO (execSwait u w s) = some (limits s) := by unfold execSwait; simp [lim]
@[simp] theorem limits_lockCode (u : Grp) (w : ShIns) (v : Nat) (s : State) :
    limits (lockCode u w v s) = limits s := by unfold lockCode; rfl
@[simp] theorem limits_setLock (n k : Nat) (v : Option Nat × List Nat) (s : State) :
    limits (setLock n k v s) = limits s := by unfold setLock; rfl
theorem limits_execLock (u : Grp) (w : ShIns) (s : State) : limitsO (execLock u w s) = some (limits s) := by
  unfold execLock
  refine limits_shOut _ _ _ _ _ _ _ _ _ (fun x y s => ?_)
  dsimp only
  (repeat' split) <;> simp
theorem limits_execTrylock (u : Grp) (w : ShIns) (s : State) : limitsO (execTrylock u w s) = some (limits s) := by
  unfold execTrylock
  refine limits_shOut _ _ _ _ _ _ _ _ _ (fun x y s => ?_)
  dsimp only
  (repeat' split) <;> simp
theorem limits_execShaderUnlock (u : Grp) (w : ShIns) (s : State) :
    limitsO (execShaderUnlock u w s) = some (limits s) := by unfold execShaderUnlock; simp [lim]
theorem limits_execNop (u : Grp) (w : ShIns) (s : State) :
    limitsO (execNop u w s) = some (limits s) := by unfold execNop; simp [lim]
@[simp] theorem limits_shRest (u : Grp) (co : Nat) (s : State) : limits (shRest u co s) = limits s := by
  unfold shRest
  split
  · rfl
  · split
    · rfl
    · refine limits_ite_of ?_ (limits_ite_of ?_ ?_) <;> simp
theorem limits_execRest (u : Grp) (w : ShIns) (s : State) :
    limitsO (execRest u w s) = some (limits s) := by unfold execRest; simp [lim]
@[simp] theorem limits_endRun (n : Nat) (s : State) :
    limits (endRun n s) = limits s := by unfold endRun; (repeat' split) <;> simp_all [lim]
theorem limits_execFinish (u : Grp) (w : ShIns) (s : State) :
    limitsO (execFinish u w s) = some (limits s) := by unfold execFinish; simp [lim]

/-! ### Check -/

@[simp] theorem limits_recipeCheckS (u : Queue) (c : TakenCmd) (s : State) :
    limits (recipeCheckS u c s) = limits s := by unfold recipeCheckS; (repeat' split) <;> simp_all [lim]
theorem limits_execRecipeCheck (q seq : Nat) (s : State) :
    limitsO (execRecipeCheck q seq s) = some (limits s) := by unfold execRecipeCheck; simp [lim]

/-! ### Stalls -/

@[simp] theorem limits_allStalledS (c : Nat) (s : State) : limits (allStalledS c s) = limits s := by
  unfold allStalledS
  dsimp only
  refine limits_ite_of ?_ ?_ <;> simp
theorem limits_execAllStalled (ctx : Nat) (s : State) :
    limitsO (execAllStalled ctx s) = some (limits s) := by unfold execAllStalled; simp [lim]

end Sys2Proof.Machine
end

