-- ==== Sys2Proof/Laws/LimitsLinks.lean ====
section
/-! SUPPORT. What each function leaves of the limited values (`limits`): all of them, for every function named here: Piper, the deliveries, Riberex and the seams. -/

set_option maxRecDepth 4000

namespace Sys2Proof.Machine

/-! ### Piper -/

@[simp] theorem limits_setPlan (k : Nat) (f : Plan → Plan) (s : State) :
    limits (setPlan k f s) = limits s := by unfold setPlan; rfl
@[simp] theorem limits_setExpert (k e : Nat) (f : PExpert → PExpert) (s : State) :
    limits (setExpert k e f s) = limits s := by unfold setExpert; rfl
@[simp] theorem limits_sumRow (k c : Nat) (p : List Byte) (t j : Nat) (live : Bool) (row : List Byte) (s : State) :
    limits (sumRow k c p t j live row s) = limits s := by unfold sumRow; (repeat' split) <;> (try simp [lim]) <;> (repeat' (first | (apply limits_foldl; intro _ _) | split)) <;> simp_all [lim]
@[simp] theorem limits_placeRow (k c : Nat) (p : List Byte) (t j : Nat) (row : List Byte) (s : State) :
    limits (placeRow k c p t j row s) = limits s := by unfold placeRow; simp [lim]
@[simp] theorem limits_placeNone (k c : Nat) (p : List Byte) (t j : Nat) (s : State) :
    limits (placeNone k c p t j s) = limits s := by unfold placeNone; simp [lim]
@[simp] theorem limits_piperAdd (c a v : Nat) (s : State) :
    limits (piperAdd c a v s) = limits s := by unfold piperAdd; (repeat' split) <;> simp_all [lim]
@[simp] theorem limits_payCombine (k : Nat) (pl : Plan) (p : List Byte) (s : State) :
    limits (payCombine k pl p s) = limits s := by unfold payCombine; simp [lim]
@[simp] theorem limits_piperFlush (k : Nat) (s : State) :
    limits (piperFlush k s) = limits s := by unfold piperFlush; (repeat' split) <;> simp_all [lim]
@[simp] theorem limits_owe (k v : Nat) (s : State) :
    limits (owe k v s) = limits s := by unfold owe; simp [lim]
@[simp] theorem limits_refuseClaim (k c : Nat) (p : List Byte) (t e j : Nat) (gate : Word) (row : List Byte) (s : State) :
    limits (refuseClaim k c p t e j gate row s) = limits s := by unfold refuseClaim; simp [lim]
@[simp] theorem limits_claim (k c : Nat) (p : List Byte) (r t e j : Nat) (gate : Word) (row : List Byte) (s : State) :
    limits (claim k c p r t e j gate row s) = limits s := by unfold claim; dsimp only; (repeat' split) <;> simp
@[simp] theorem limits_closeBlocks (k e : Nat) (s : State) :
    limits (closeBlocks k e s) = limits s := by unfold closeBlocks; (repeat' split) <;> simp_all [lim]
@[simp] theorem limits_handToken (k c : Nat) (flush : Bool) (x : Stn) (p : List Byte) (r slot i t : Nat) (s : State) :
    limits (handToken k c flush x p r slot i t s) = limits s := by unfold handToken; simp [lim]
@[simp] theorem limits_takeSlot (k : Nat) (pl : Plan) (p : List Byte) (n r v : Nat) (x : Stn) (s : State) :
    limits (takeSlot k pl p n r v x s) = limits s := by unfold takeSlot; simp [lim]
@[simp] theorem limits_handOverS (n : Nat) (s : State) :
    limits (handOverS n s) = limits s := by unfold handOverS; (repeat' split) <;> simp_all [lim]
theorem limits_execHandOver (stn : Nat) (s : State) :
    limitsO (execHandOver stn s) = some (limits s) := by unfold execHandOver; simp [lim]
@[simp] theorem limits_rowArrivalS (k e i : Nat) (s : State) :
    limits (rowArrivalS k e i s) = limits s := by unfold rowArrivalS; (repeat' split) <;> simp_all [lim]
theorem limits_execTokenRowArrival (plan expert k : Nat) (s : State) :
    limitsO (execTokenRowArrival plan expert k s) = some (limits s) := by unfold execTokenRowArrival; simp [lim]
@[simp] theorem limits_deliverTo (pl : Plan) (p : List Byte) (e slot i : Nat) (b : PBlock) (s : State) :
    limits (deliverTo pl p e slot i b s) = limits s := by unfold deliverTo; (repeat' split) <;> simp_all [lim]
@[simp] theorem limits_sendBlock (k e slot blk : Nat) (pl : Plan) (p : List Byte) (b : PBlock) (s : State) :
    limits (sendBlock k e slot blk pl p b s) = limits s := by unfold sendBlock; (repeat' split) <;> simp_all [lim]
@[simp] theorem limits_blockDeliveryS (k e : Nat) (s : State) :
    limits (blockDeliveryS k e s) = limits s := by unfold blockDeliveryS; (repeat' split) <;> (try simp [lim]) <;> (repeat' (first | (apply limits_foldl; intro _ _) | split)) <;> simp_all [lim]
theorem limits_execBlockDelivery (plan expert : Nat) (s : State) :
    limitsO (execBlockDelivery plan expert s) = some (limits s) := by unfold execBlockDelivery; simp [lim]
@[simp] theorem limits_placeBlock (k : Nat) (pl : Plan) (p : List Byte) (tags : List Byte) (base : Nat) (s : State) :
    limits (placeBlock k pl p tags base s) = limits s := by unfold placeBlock; simp [lim]
@[simp] theorem limits_resultLocal (k e : Nat) (pl : Plan) (p : List Byte) (s : State) :
    limits (resultLocal k e pl p s) = limits s := by unfold resultLocal; (repeat' split) <;> simp_all [lim]
@[simp] theorem limits_resultRemote (k e : Nat) (pl : Plan) (p : List Byte) (s : State) :
    limits (resultRemote k e pl p s) = limits s := by unfold resultRemote; (repeat' split) <;> (try simp [lim]) <;> (repeat' (first | (apply limits_foldl; intro _ _) | split)) <;> simp_all [lim]
@[simp] theorem limits_resultHandOverS (k e : Nat) (s : State) :
    limits (resultHandOverS k e s) = limits s := by unfold resultHandOverS; (repeat' split) <;> simp_all [lim]
theorem limits_execResultHandOver (plan expert : Nat) (s : State) :
    limitsO (execResultHandOver plan expert s) = some (limits s) := by unfold execResultHandOver; simp [lim]
@[simp] theorem limits_loseBlock (k e : Nat) (o : Nat × PBlock × Nat) (s : State) :
    limits (loseBlock k e o s) = limits s := by unfold loseBlock; (repeat' split) <;> simp_all [lim]
@[simp] theorem limits_remoteLostS (k e b : Nat) (s : State) :
    limits (remoteLostS k e b s) = limits s := by unfold remoteLostS; (repeat' split) <;> simp_all [lim]
theorem limits_execPiperRemoteLost (plan expert block : Nat) (s : State) :
    limitsO (execPiperRemoteLost plan expert block s) = some (limits s) := by unfold execPiperRemoteLost; simp [lim]
@[simp] theorem limits_refuseBlock (k e b : Nat) (s : State) :
    limits (refuseBlock k e b s) = limits s := by unfold refuseBlock; (repeat' split) <;> simp_all [lim]

/-! ### Deliver -/

@[simp] theorem limits_takeMsg (k : Nat) (s : State) :
    limits (takeMsg k s) = limits s := by unfold takeMsg; rfl
@[simp] theorem limits_poisonedRead (n : Nat) (x : Stn) (f : Xfer) (p : XPiece) (k : Nat) (s : State) :
    limits (poisonedRead n x f p k s) = limits s := by unfold poisonedRead; simp [lim]
@[simp] theorem limits_fillXfer (n xid k : Nat) (data : List Byte) (poison : Bool) (s : State) :
    limits (fillXfer n xid k data poison s) = limits s := by
  unfold fillXfer
  split
  · rfl
  · split
    · refine limits_foldl _ _ _ (fun s j => ?_)
      split <;> simp
    · simp
@[simp] theorem limits_fillCache (n key : Nat) (data : List Byte) (poison : Bool) (s : State) :
    limits (fillCache n key data poison s) = limits s := by unfold fillCache; (repeat' split) <;> (try simp [lim]) <;> (repeat' (first | (apply limits_foldl; intro _ _) | split)) <;> simp_all [lim]
@[simp] theorem limits_fillOne (data : List Byte) (poison : Bool) (r : Req) (s : State) :
    limits (fillOne data poison r s) = limits s := by unfold fillOne; (repeat' split) <;> simp_all [lim]
@[simp] theorem limits_fillMsgS (k : Nat) (s : State) :
    limits (fillMsgS k s) = limits s := by unfold fillMsgS; (repeat' split) <;> simp_all [lim]
theorem limits_execFill (k : Nat) (s : State) :
    limitsO (execFill k s) = some (limits s) := by unfold execFill; simp [lim]
@[simp] theorem limits_ackXfer (n xid k : Nat) (s : State) :
    limits (ackXfer n xid k s) = limits s := by unfold ackXfer; (repeat' split) <;> simp_all [lim]
@[simp] theorem limits_wrAckS (k : Nat) (s : State) :
    limits (wrAckS k s) = limits s := by unfold wrAckS; (repeat' split) <;> simp_all [lim]
theorem limits_execWrAck (k : Nat) (s : State) :
    limitsO (execWrAck k s) = some (limits s) := by unfold execWrAck; simp [lim]
@[simp] theorem limits_redAckS (k : Nat) (s : State) :
    limits (redAckS k s) = limits s := by unfold redAckS; (repeat' split) <;> simp_all [lim]
theorem limits_execRedAck (k : Nat) (s : State) :
    limitsO (execRedAck k s) = some (limits s) := by unfold execRedAck; simp [lim]
@[simp] theorem limits_semOkS (k : Nat) (s : State) :
    limits (semOkS k s) = limits s := by unfold semOkS; (repeat' split) <;> simp_all [lim]
theorem limits_execSemOk (k : Nat) (s : State) :
    limitsO (execSemOk k s) = some (limits s) := by unfold execSemOk; simp [lim]
@[simp] theorem limits_semRetryS (k : Nat) (s : State) :
    limits (semRetryS k s) = limits s := by unfold semRetryS; (repeat' split) <;> simp_all [lim]
theorem limits_execSemRetry (k : Nat) (s : State) :
    limitsO (execSemRetry k s) = some (limits s) := by unfold execSemRetry; simp [lim]
@[simp] theorem limits_retryS (k : Nat) (s : State) :
    limits (retryS k s) = limits s := by unfold retryS; (repeat' split) <;> (try simp [lim]) <;> (repeat' (first | (apply limits_foldl; intro _ _) | split)) <;> simp_all [lim]
theorem limits_execRetry (k : Nat) (s : State) :
    limitsO (execRetry k s) = some (limits s) := by unfold execRetry; simp [lim]

/-! ### Riberex -/

@[simp] theorem limits_expireStuck (s : State) : limits (expireStuck s).2 = limits s := by
  unfold expireStuck
  refine limits_fold_snd _ _ (0, s) (fun a q => ?_)
  split <;> simp
@[simp] theorem limits_portLeave (p st cause : Nat) (s : State) :
    limits (portLeave p st cause s) = limits s := by unfold portLeave; simp [lim]
@[simp] theorem limits_portDown (p cause : Nat) (s : State) :
    limits (portDown p cause s) = limits s := by unfold portDown; simp [lim]
@[simp] theorem limits_ackFlits (p ack : Nat) (s : State) :
    limits (ackFlits p ack s) = limits s := by unfold ackFlits; rfl
@[simp] theorem limits_nakPort (p ack : Nat) (s : State) :
    limits (nakPort p ack s) = limits s := by unfold nakPort; simp [lim]
@[simp] theorem limits_takeFlit (p : Nat) (f : RFlit) (s : State) :
    limits (takeFlit p f s) = limits s := by unfold takeFlit; simp [lim]
@[simp] theorem limits_heard (p : Nat) (s : State) :
    limits (heard p s) = limits s := by unfold heard; rfl
@[simp] theorem limits_flitGo (p : Nat) (f : RFlit) (s : State) :
    limits (flitGo p f s) = limits s := by unfold flitGo; simp [lim]
@[simp] theorem limits_flitS (p : Nat) (f : RFlit) (s : State) :
    limits (flitS p f s) = limits s := by unfold flitS; simp [lim]
theorem limits_execRbxFlit (port : Nat) (f : RFlit) (s : State) :
    limitsO (execRbxFlit port f s) = some (limits s) := by unfold execRbxFlit; simp [lim]
theorem limits_execRbxNak (port ackSeq : Nat) (s : State) :
    limitsO (execRbxNak port ackSeq s) = some (limits s) := by unfold execRbxNak; simp [lim]
theorem limits_execIdleTimeout (port : Nat) (s : State) :
    limitsO (execIdleTimeout port s) = some (limits s) := by unfold execIdleTimeout; simp [lim]
theorem limits_execRbxLossOfLock (port _lane : Nat) (s : State) :
    limitsO (execRbxLossOfLock port _lane s) = some (limits s) := by unfold execRbxLossOfLock; simp [lim]
@[simp] theorem limits_trainFail (p cause lanes peer : Nat) (s : State) :
    limits (trainFail p cause lanes peer s) = limits s := by unfold trainFail; rfl
@[simp] theorem limits_portUpS (p lanes peer us : Nat) (s : State) :
    limits (portUpS p lanes peer us s) = limits s := by unfold portUpS; simp [lim]
theorem limits_execRbxPortUp (port lanesOk peer us : Nat) (s : State) :
    limitsO (execRbxPortUp port lanesOk peer us s) = some (limits s) := by unfold execRbxPortUp; simp [lim]
@[simp] theorem limits_retrainWrite (p : Nat) (s : State) :
    limits (retrainWrite p s) = limits s := by unfold retrainWrite; simp [lim]
@[simp] theorem limits_putOwin (n : Nat) (x : OWin) (s : State) :
    limits (putOwin n x s) = limits s := by unfold putOwin; rfl
@[simp] theorem limits_owinBaseWrite (n v : Nat) (s : State) :
    limits (owinBaseWrite n v s) = limits s := by unfold owinBaseWrite; simp [lim]
@[simp] theorem limits_freeRx (vc n : Nat) (s : State) : limits (freeRx vc n s) = limits s := by
  unfold freeRx
  refine limits_fold_snd _ _ (n, s) (fun a p => ?_)
  dsimp only
  split <;> simp
@[simp] theorem limits_countRefused (w st : Nat) (s : State) :
    limits (countRefused w st s) = limits s := by unfold countRefused; simp [lim]
@[simp] theorem limits_inbBegin (p : Pkt) (c a : Nat) (s : State) :
    limits (inbBegin p c a s) = limits s := by unfold inbBegin; simp [lim]
@[simp] theorem limits_inbound (p : Pkt) (s : State) :
    limits (inbound p s) = limits s := by unfold inbound; (repeat' split) <;> (repeat' first | (simp [lim]; done) | (refine Eq.trans (limits_foldl _ _ _ (fun _ _ => ?_)) ?_) | split | dsimp only)
@[simp] theorem limits_inbIf (ty : Nat) (f : Pkt → State → State) (p : Pkt) (s : State) (h_f : ∀ a0 a1, limits (f a0 a1) = limits a1) :
    limits (inbIf ty f p s) = limits s := by unfold inbIf; (repeat' split) <;> simp_all [lim]
@[simp] theorem limits_writePktS (p : Pkt) (s : State) :
    limits (writePktS p s) = limits s := by unfold writePktS; simp [lim]
theorem limits_execRbxWrite (p : Pkt) (s : State) :
    limitsO (execRbxWrite p s) = some (limits s) := by unfold execRbxWrite; simp [lim]
theorem limits_execRbxRead (p : Pkt) (s : State) :
    limitsO (execRbxRead p s) = some (limits s) := by unfold execRbxRead; simp [lim]
theorem limits_execRbxRed (p : Pkt) (s : State) :
    limitsO (execRbxRed p s) = some (limits s) := by unfold execRbxRed; simp [lim]
theorem limits_execRbxSemAdd (p : Pkt) (s : State) :
    limitsO (execRbxSemAdd p s) = some (limits s) := by unfold execRbxSemAdd; simp [lim]
@[simp] theorem limits_barrierS (p : Pkt) (s : State) : limits (barrierS p s) = limits s := by
  unfold barrierS
  dsimp only
  repeat' split
  all_goals (try rw [limits_countRefused]); (try rw [limits_arriveCount]); rw [limits_freeRx]
theorem limits_execRbxBarrier (p : Pkt) (s : State) :
    limitsO (execRbxBarrier p s) = some (limits s) := by unfold execRbxBarrier; simp [lim]
@[simp] theorem limits_lateResponse (s : State) :
    limits (lateResponse s) = limits s := by unfold lateResponse; rfl
@[simp] theorem limits_ackRemote (q : RReq) (s : State) :
    limits (ackRemote q s) = limits s := by unfold ackRemote; (repeat' split) <;> simp_all [lim]
@[simp] theorem limits_readRemote (q : RReq) (data : List Byte) (s : State) :
    limits (readRemote q data s) = limits s := by unfold readRemote; (repeat' split) <;> simp_all [lim]
@[simp] theorem limits_response (p : Pkt) (s : State) : limits (response p s) = limits s := by
  unfold response
  dsimp only
  split
  · simp
  · split
    · simp
    · rw [limits_pumpRbx]
      (repeat' split) <;> simp [lim]
theorem limits_execRbxAck (p : Pkt) (s : State) :
    limitsO (execRbxAck p s) = some (limits s) := by unfold execRbxAck; simp [lim]
theorem limits_execRbxReadData (p : Pkt) (s : State) :
    limitsO (execRbxReadData p s) = some (limits s) := by unfold execRbxReadData; simp [lim]
@[simp] theorem limits_expiryS (tag : Nat) (s : State) :
    limits (expiryS tag s) = limits s := by unfold expiryS; (repeat' split) <;> simp_all [lim]
theorem limits_execRequestExpiry (tag : Nat) (s : State) :
    limitsO (execRequestExpiry tag s) = some (limits s) := by unfold execRequestExpiry; simp [lim]

/-! ### Seams -/

@[simp] theorem limits_setBundle (l b : Nat) (f : Bundle → Bundle) (s : State) :
    limits (setBundle l b f s) = limits s := by unfold setBundle; rfl
@[simp] theorem limits_countBundles (l : Nat) (s : State) :
    limits (countBundles l s) = limits s := by unfold countBundles; simp [lim]
@[simp] theorem limits_linkWatch (l : Nat) (s : State) :
    limits (linkWatch l s) = limits s := by unfold linkWatch; simp [lim]
@[simp] theorem limits_degrade (l b st : Nat) (f : Bundle → Bundle) (s : State) :
    limits (degrade l b st f s) = limits s := by unfold degrade; simp [lim]
@[simp] theorem limits_laneLossS (l b lane : Nat) (s : State) :
    limits (laneLossS l b lane s) = limits s := by unfold laneLossS; simp [lim]
theorem limits_execSeamLaneLoss (link bundle lane : Nat) (s : State) :
    limitsO (execSeamLaneLoss link bundle lane s) = some (limits s) := by unfold execSeamLaneLoss; simp [lim]
@[simp] theorem limits_seamRetryS (l b : Nat) (s : State) :
    limits (seamRetryS l b s) = limits s := by unfold seamRetryS; simp [lim]
theorem limits_execSeamRetry (link bundle : Nat) (s : State) :
    limitsO (execSeamRetry link bundle s) = some (limits s) := by unfold execSeamRetry; simp [lim]
@[simp] theorem limits_worstLane (l : Nat) (s : State) :
    limits (worstLane l s) = limits s := by unfold worstLane; simp [lim]
@[simp] theorem limits_pendLink (l : Nat) (s : State) :
    limits (pendLink l s) = limits s := by unfold pendLink; simp [lim]
@[simp] theorem limits_addCorrected (l : Nat) (cs : List Nat) (s : State) :
    limits (addCorrected l cs s) = limits s := by unfold addCorrected; simp [lim]
@[simp] theorem limits_loadWindowS (l : Nat) (w : LoadIn) (s : State) :
    limits (loadWindowS l w s) = limits s := by unfold loadWindowS; simp [lim]
theorem limits_execLoadWindow (link : Nat) (w : LoadIn) (s : State) :
    limitsO (execLoadWindow link w s) = some (limits s) := by unfold execLoadWindow; simp [lim]
@[simp] theorem limits_retrainLink (l : Nat) (t : TrainIn) (s : State) :
    limits (retrainLink l t s) = limits s := by unfold retrainLink; simp [lim]
@[simp] theorem limits_releaseHeld (l : Nat) (s : State) :
    limits (releaseHeld l s) = limits s := by unfold releaseHeld; (repeat' split) <;> (try simp [lim]) <;> (repeat' (first | (apply limits_foldl; intro _ _) | split)) <;> simp_all [lim]
@[simp] theorem limits_retrainGo (l : Nat) (t : TrainIn) (s : State) :
    limits (retrainGo l t s) = limits s := by unfold retrainGo; simp [lim]
@[simp] theorem limits_retrainingS (l : Nat) (t : TrainIn) (s : State) :
    limits (retrainingS l t s) = limits s := by unfold retrainingS; simp [lim]
theorem limits_execRetrainingWindow (link : Nat) (t : TrainIn) (s : State) :
    limitsO (execRetrainingWindow link t s) = some (limits s) := by unfold execRetrainingWindow; simp [lim]
@[simp] theorem limits_homeGone (h : HReq) (s : State) :
    limits (homeGone h s) = limits s := by unfold homeGone; (repeat' split) <;> simp_all [lim]
@[simp] theorem limits_emptyHomes (p : Nat) (s : State) :
    limits (emptyHomes p s) = limits s := by unfold emptyHomes; rfl
@[simp] theorem limits_dropHomed (p : Nat) (s : State) :
    limits (dropHomed p s) = limits s := by unfold dropHomed; rfl
@[simp] theorem limits_ackFor (p : Nat) (s : State) :
    limits (ackFor p s) = limits s := by unfold ackFor; simp [lim]
@[simp] theorem limits_clearSharers (p key : Nat) (s : State) :
    limits (clearSharers p key s) = limits s := by unfold clearSharers; simp [lim]
@[simp] theorem limits_forgetPart (p : Nat) (s : State) :
    limits (forgetPart p s) = limits s := by unfold forgetPart; simp [lim]
@[simp] theorem limits_setDies (p st : Nat) (s : State) :
    limits (setDies p st s) = limits s := by unfold setDies; rfl
@[simp] theorem limits_loseStations (p : Nat) (s : State) :
    limits (loseStations p s) = limits s := by unfold loseStations; simp [lim]
@[simp] theorem limits_regainStations (p us : Nat) (s : State) :
    limits (regainStations p us s) = limits s := by unfold regainStations; simp [lim]
@[simp] theorem limits_fenceS (p : Nat) (s : State) :
    limits (fenceS p s) = limits s := by unfold fenceS; simp [lim]
theorem limits_execPartitionFenced (part : Nat) (s : State) :
    limitsO (execPartitionFenced part s) = some (limits s) := by unfold execPartitionFenced; simp [lim]
@[simp] theorem limits_clockLossS (d : Nat) (s : State) :
    limits (clockLossS d s) = limits s := by unfold clockLossS; (repeat' split) <;> simp_all [lim]
theorem limits_execDieClockLoss (die : Nat) (s : State) :
    limitsO (execDieClockLoss die s) = some (limits s) := by unfold execDieClockLoss; simp [lim]
@[simp] theorem limits_countDamage (p : Nat) (f : State → State) (s : State) (h : limits (f s) = limits s) :
    limits (countDamage p f s) = limits s := by
  unfold countDamage; simp [lim, h]
@[simp] theorem limits_poisonGran (k g : Nat) (q : Nat → Bool) (s : State) :
    limits (poisonGran k g q s) = limits s := by unfold poisonGran; simp [lim]
@[simp] theorem limits_crustReturnS (d : Nat) (s : State) :
    limits (crustReturnS d s) = limits s := by unfold crustReturnS; (repeat' split) <;> (repeat' first | (simp [lim]; done) | (refine Eq.trans (limits_foldl _ _ _ (fun _ _ => ?_)) ?_) | split | dsimp only)
theorem limits_execCrustClockReturn (die : Nat) (s : State) :
    limitsO (execCrustClockReturn die s) = some (limits s) := by unfold execCrustClockReturn; simp [lim]
@[simp] theorem limits_resendS (k : Nat) (s : State) :
    limits (resendS k s) = limits s := by unfold resendS; (repeat' split) <;> simp_all [lim]
theorem limits_execHomeUnavailableResend (k : Nat) (s : State) :
    limitsO (execHomeUnavailableResend k s) = some (limits s) := by unfold execHomeUnavailableResend; simp [lim]

end Sys2Proof.Machine
end

