-- ==== Sys2Proof/Laws/LimitsReset.lean ====
section
/-! SUPPORT. What each function leaves of the limited values (`limits`): all of them, for every function named here: Crumb, the rungs, the registers and the pins. -/

set_option maxRecDepth 4000

namespace Sys2Proof.Machine

/-! ### Crumb -/

@[simp] theorem limits_sampleToHost (q : RungReq) (es : List (List Byte)) (s : State) :
    limits (sampleToHost q es s) = limits s := by unfold sampleToHost; simp [lim]
@[simp] theorem limits_sampleToRegion (q : RungReq) (es : List (List Byte)) (s : State) :
    limits (sampleToRegion q es s) = limits s := by unfold sampleToRegion; simp [lim]
@[simp] theorem limits_takeSample (q : RungReq) (s : State) :
    limits (takeSample q s) = limits s := by unfold takeSample; simp [lim]
@[simp] theorem limits_crumbReadS (u : Queue) (c : TakenCmd) (s : State) :
    limits (crumbReadS u c s) = limits s := by unfold crumbReadS; (repeat' split) <;> simp_all [lim]
theorem limits_execCrumbRead (q seq : Nat) (s : State) :
    limitsO (execCrumbRead q seq s) = some (limits s) := by unfold execCrumbRead; simp [lim]
@[simp] theorem limits_crashBufferS (u : Queue) (c : TakenCmd) (s : State) :
    limits (crashBufferS u c s) = limits s := by unfold crashBufferS; rfl
theorem limits_execCrashBufferSet (q seq : Nat) (s : State) :
    limitsO (execCrashBufferSet q seq s) = some (limits s) := by unfold execCrashBufferSet; simp [lim]

/-! ### Tick -/

@[simp] theorem limits_stallTick  (s : State) :
    limits (stallTick s) = limits s := by unfold stallTick; rfl
@[simp] theorem limits_sendDue  (s : State) :
    limits (sendDue s) = limits s := by unfold sendDue; simp [lim]
@[simp] theorem limits_pumpAll  (s : State) :
    limits (pumpAll s) = limits s := by unfold pumpAll; simp [lim]
@[simp] theorem limits_refTick (s : State) :
    limits (refTick s) = limits s := by unfold refTick; (repeat' split) <;> simp_all [lim]

/-! ### Rungs -/

@[simp] theorem limits_killRung (c : Nat) (s : State) : limits (killRung c s) = limits s := by
  unfold killRung; split <;> simp
theorem limits_execRung1 (ctx : Nat) (s : State) :
    limitsO (execRung1 ctx s) = some (limits s) := by unfold execRung1; simp [lim]
@[simp] theorem limits_takeCtx (c cause n : Nat) (s : State) :
    limits (takeCtx c cause n s) = limits s := by unfold takeCtx; (repeat' split) <;> simp_all [lim]
@[simp] theorem limits_replyRung (q : RungReq) (s : State) :
    limits (replyRung q s) = limits s := by unfold replyRung; simp [lim]
@[simp] theorem limits_rung2S (t : Nat) (s : State) :
    limits (rung2S t s) = limits s := by unfold rung2S; (repeat' split) <;> (try simp [lim]) <;> (repeat' (first | (apply limits_foldl; intro _ _) | split)) <;> simp_all [lim]
theorem limits_execRung2 (stn : Nat) (s : State) :
    limitsO (execRung2 stn s) = some (limits s) := by unfold execRung2; simp [lim]
@[simp] theorem limits_markWithdrawn (k : Nat) (s : State) :
    limits (markWithdrawn k s) = limits s := by unfold markWithdrawn; (repeat' split) <;> (try simp [lim]) <;> (repeat' (first | (apply limits_foldl; intro _ _) | split)) <;> simp_all [lim]
@[simp] theorem limits_mapOutGo (k : Nat) (s : State) :
    limits (mapOutGo k s) = limits s := by unfold mapOutGo; simp [lim]
@[simp] theorem limits_memoryLoss (k : Nat) (s0 s : State) : limits (memoryLoss k s0 s) = limits s :=
  limits_foldl _ _ _ (fun s e => by dsimp only; split <;> simp)
@[simp] theorem limits_mapOutStack (k : Nat) (s : State) :
    limits (mapOutStack k s) = limits s := by unfold mapOutStack; simp [lim]
@[simp] theorem limits_moveRegion (p : Nat) (s : State) :
    limits (moveRegion p s) = limits s := by unfold moveRegion; (repeat' split) <;> simp_all [lim]
@[simp] theorem limits_poisonDirty (k : Nat) (s : State) :
    limits (poisonDirty k s) = limits s := by unfold poisonDirty; simp [lim]
@[simp] theorem limits_clearHomes (p : Nat) (s : State) :
    limits (clearHomes p s) = limits s := by unfold clearHomes; rfl
@[simp] theorem limits_rung3Go (p : Nat) (t : TrainIn) (q : RungReq) (s : State) :
    limits (rung3Go p t q s) = limits s := by
  unfold rung3Go
  dsimp only
  rw [limits_mk]
  simp only [lim, limits_eta]
  refine Eq.trans (limits_foldl _ _ _ (fun s _ => by simp)) ?_
  refine Eq.trans (limits_foldl _ _ _ (fun s _ => by simp)) ?_
  refine Eq.trans (limits_foldl _ _ _ (fun s _ => by simp)) ?_
  rw [limits_clearHomes]
  refine Eq.trans (limits_foldl _ _ _ (fun s _ => by simp)) ?_
  refine Eq.trans (limits_foldl _ _ _ (fun s _ => by split <;> simp)) ?_
  refine Eq.trans (limits_foldl _ _ _ (fun s _ => by simp)) ?_
  rw [limits_countDamage _ _ _ (limits_foldl _ _ _ (fun s _ => by simp))]
  simp
@[simp] theorem limits_rung3S (p : Nat) (t : TrainIn) (s : State) :
    limits (rung3S p t s) = limits s := by unfold rung3S; (repeat' split) <;> simp_all [lim]
theorem limits_execRung3 (part : Nat) (t : TrainIn) (s : State) :
    limitsO (execRung3 part t s) = some (limits s) := by unfold execRung3; simp [lim]
@[simp] theorem limits_restoredS (p : Nat) (s : State) :
    limits (restoredS p s) = limits s := by unfold restoredS; (repeat' split) <;> simp_all [lim]
theorem limits_execPartitionRestored (part : Nat) (s : State) :
    limitsO (execPartitionRestored part s) = some (limits s) := by unfold execPartitionRestored; simp [lim]
@[simp] theorem limits_discardDirty (s : State) :
    limits (discardDirty s) = limits s := by unfold discardDirty; rfl
@[simp] theorem limits_holdModule (s : State) :
    limits (holdModule s) = limits s := by unfold holdModule; rfl
@[simp] theorem limits_rung5S (s : State) :
    limits (rung5S s) = limits s := by unfold rung5S; (repeat' split) <;> simp_all [lim]
theorem limits_execRung5 (s : State) :
    limitsO (execRung5 s) = some (limits s) := by unfold execRung5; simp [lim]
@[simp] theorem limits_escalatedS (r t hung : Nat) (s : State) :
    limits (escalatedS r t hung s) = limits s := by unfold escalatedS; (repeat' split) <;> simp_all [lim]
theorem limits_execRungEscalated (rung target hung : Nat) (s : State) :
    limitsO (execRungEscalated rung target hung s) = some (limits s) := by unfold execRungEscalated; simp [lim]
@[simp] theorem limits_resetS (u : Queue) (c : TakenCmd) (s : State) :
    limits (resetS u c s) = limits s := by unfold resetS; simp [lim]
theorem limits_execReset (q seq : Nat) (s : State) :
    limitsO (execReset q seq s) = some (limits s) := by unfold execReset; simp [lim]
@[simp] theorem limits_wdRestS (n : Nat) (s : State) :
    limits (wdRestS n s) = limits s := by unfold wdRestS; (repeat' split) <;> simp_all [lim]
theorem limits_execWdRest (stn : Nat) (s : State) :
    limitsO (execWdRest stn s) = some (limits s) := by unfold execWdRest; simp [lim]
@[simp] theorem limits_wdCommandS (q : Nat) (s : State) :
    limits (wdCommandS q s) = limits s := by unfold wdCommandS; (repeat' split) <;> simp_all [lim]
theorem limits_execWdCommand (q : Nat) (s : State) :
    limitsO (execWdCommand q s) = some (limits s) := by unfold execWdCommand; simp [lim]
@[simp] theorem limits_wdHomeS (k line : Nat) (s : State) :
    limits (wdHomeS k line s) = limits s := by unfold wdHomeS; simp [lim]
theorem limits_execWdHome (stack line : Nat) (s : State) :
    limitsO (execWdHome stack line s) = some (limits s) := by unfold execWdHome; simp [lim]
theorem limits_execControlComplexWatchdog (cplx : Nat) (s : State) :
    limitsO (execControlComplexWatchdog cplx s) = some (limits s) := by unfold execControlComplexWatchdog; simp [lim]
theorem limits_execPowerSequencerWatchdog (s : State) :
    limitsO (execPowerSequencerWatchdog s) = some (limits s) := by unfold execPowerSequencerWatchdog; (repeat' split) <;> simp_all [lim]
@[simp] theorem limits_stationUeS (n : Nat) (line : Option (Nat × Nat)) (s : State) :
    limits (stationUeS n line s) = limits s := by unfold stationUeS; (repeat' split) <;> simp_all [lim]
theorem limits_execStationUe (stn : Nat) (cacheLine : Option (Nat × Nat)) (s : State) :
    limitsO (execStationUe stn cacheLine s) = some (limits s) := by unfold execStationUe; simp [lim]
@[simp] theorem limits_fatalS (die source : Nat) (s : State) :
    limits (fatalS die source s) = limits s := by unfold fatalS; simp [lim]
theorem limits_execFatalError (die source : Nat) (s : State) :
    limitsO (execFatalError die source s) = some (limits s) := by unfold execFatalError; simp [lim]

/-! ### Registers -/

@[simp] theorem limits_unmaskVector (v : Nat) (s : State) :
    limits (unmaskVector v s) = limits s := by unfold unmaskVector; simp [lim]
@[simp] theorem limits_unmaskFunction (s : State) :
    limits (unmaskFunction s) = limits s := by unfold unmaskFunction; rfl
@[simp] theorem limits_tableWrite (i v : Nat) (s : State) :
    limits (tableWrite i v s) = limits s := by unfold tableWrite; simp [lim]
@[simp] theorem limits_idWrite (o : Nat) (c : Cov) (v : Nat) (s : State) :
    limits (idWrite o c v s) = limits s := by unfold idWrite; simp [lim]
@[simp] theorem limits_q0Restart (s : State) :
    limits (q0Restart s) = limits s := by unfold q0Restart; (repeat' split) <;> simp_all [lim]
@[simp] theorem limits_cmdClear (o : Nat) (c : Cov) (s : State) :
    limits (cmdClear o c s) = limits s := by unfold cmdClear; simp [lim]
@[simp] theorem limits_xtClear (o : Nat) (c : Cov) (s : State) :
    limits (xtClear o c s) = limits s := by unfold xtClear; simp [lim]
@[simp] theorem limits_seamClear (o : Nat) (c : Cov) (s : State) :
    limits (seamClear o c s) = limits s := by unfold seamClear; simp [lim]
@[simp] theorem limits_owinWrite (n r w : Nat) (s : State) :
    limits (owinWrite n r w s) = limits s := by unfold owinWrite; simp [lim]
@[simp] theorem limits_rbxClear (o : Nat) (c : Cov) (s : State) :
    limits (rbxClear o c s) = limits s := by unfold rbxClear; simp [lim]
@[simp] theorem limits_pwrWrite (o : Nat) (c : Cov) (v : Nat) (s : State) :
    limits (pwrWrite o c v s) = limits s := by unfold pwrWrite; simp [lim]
@[simp] theorem limits_pwrClear (o : Nat) (c : Cov) (s : State) :
    limits (pwrClear o c s) = limits s := by unfold pwrClear; simp [lim]
@[simp] theorem limits_unlockS (s : State) :
    limits (unlockS s) = limits s := by unfold unlockS; simp [lim]
@[simp] theorem limits_secWrite (o : Nat) (c : Cov) (v : Nat) (s : State) :
    limits (secWrite o c v s) = limits s := by unfold secWrite; simp [lim]
@[simp] theorem limits_secClear (o : Nat) (c : Cov) (s : State) :
    limits (secClear o c s) = limits s := by unfold secClear; simp [lim]
@[simp] theorem limits_dbgClear (o : Nat) (c : Cov) (s : State) :
    limits (dbgClear o c s) = limits s := by unfold dbgClear; simp [lim]
@[simp] theorem limits_pendingSet (k m : Nat) (s : State) :
    limits (pendingSet k m s) = limits s := by unfold pendingSet; simp [lim]
@[simp] theorem limits_cruWrite (k o : Nat) (c : Cov) (v : Nat) (s : State) :
    limits (cruWrite k o c v s) = limits s := by unfold cruWrite; simp [lim]
@[simp] theorem limits_cruClear (k o : Nat) (c : Cov) (s : State) :
    limits (cruClear k o c s) = limits s := by unfold cruClear; simp [lim]
@[simp] theorem limits_regClear (o : Nat) (c : Cov) (s : State) :
    limits (regClear o c s) = limits s := by unfold regClear; simp [lim]
@[simp] theorem limits_barRead (off size : Nat) (s : State) :
    limits (barRead off size s) = limits s := by unfold barRead; simp [lim]
theorem limits_execReadClear (off size : Nat) (s : State) :
    limitsO (execReadClear off size s) = some (limits s) := by unfold execReadClear; simp [lim]
theorem limits_execMsixUnmask (vector : Nat) (s : State) :
    limitsO (execMsixUnmask vector s) = some (limits s) := by unfold execMsixUnmask; simp [lim]

/-! ### Pins -/

@[simp] theorem limits_raiseUp (ev a0 a1 : Nat) (s : State) :
    limits (raiseUp ev a0 a1 s) = limits s := by unfold raiseUp; simp [lim]
@[simp] theorem limits_brakeOn (watts : Nat) (s : State) :
    limits (brakeOn watts s) = limits s := by unfold brakeOn; simp [lim]
@[simp] theorem limits_stopOn (watts : Nat) (chat : Bool) (s : State) :
    limits (stopOn watts chat s) = limits s := by unfold stopOn; simp [lim]
@[simp] theorem limits_pauseCmds  (s : State) :
    limits (pauseCmds s) = limits s := by unfold pauseCmds; rfl
@[simp] theorem limits_stopOff (s : State) :
    limits (stopOff s) = limits s := by unfold stopOff; simp [lim]
@[simp] theorem limits_chatEvent (input episodes : Nat) (s : State) :
    limits (chatEvent input episodes s) = limits s := by unfold chatEvent; simp [lim]
@[simp] theorem limits_chatterS (input episodes watts : Nat) (s : State) :
    limits (chatterS input episodes watts s) = limits s := by unfold chatterS; simp [lim]
theorem limits_execPwrbrkAssert (watts : Nat) (s : State) :
    limitsO (execPwrbrkAssert watts s) = some (limits s) := by unfold execPwrbrkAssert; simp [lim]
theorem limits_execSidebandChatter (input episodes watts : Nat) (s : State) :
    limitsO (execSidebandChatter input episodes watts s) = some (limits s) := by unfold execSidebandChatter; simp [lim]
theorem limits_execTrayStopOn (watts : Nat) (s : State) :
    limitsO (execTrayStopOn watts s) = some (limits s) := by unfold execTrayStopOn; simp [lim]
theorem limits_execTrayStopOff (s : State) :
    limitsO (execTrayStopOff s) = some (limits s) := by unfold execTrayStopOff; simp [lim]
@[simp] theorem limits_linkRung (s : State) :
    limits (linkRung s) = limits s := by unfold linkRung; simp [lim]
@[simp] theorem limits_haltRestart (b : BootIn) (s : State) :
    limits (haltRestart b s) = limits s := by unfold haltRestart; simp [lim]
@[simp] theorem limits_perstOff (b : BootIn) (s : State) :
    limits (perstOff b s) = limits s := by unfold perstOff; (repeat' split) <;> simp_all [lim]
theorem limits_execPerstDeassert (b : BootIn) (s : State) :
    limitsO (execPerstDeassert b s) = some (limits s) := by unfold execPerstDeassert; simp [lim]
theorem limits_execPerstChatter (episodes : Nat) (s : State) :
    limitsO (execPerstChatter episodes s) = some (limits s) := by unfold execPerstChatter; simp [lim]
@[simp] theorem limits_linkDownS (s : State) :
    limits (linkDownS s) = limits s := by unfold linkDownS; simp [lim]
theorem limits_execLinkDown (s : State) :
    limitsO (execLinkDown s) = some (limits s) := by unfold execLinkDown; simp [lim]
theorem limits_execD3hotEntry (s : State) :
    limitsO (execD3hotEntry s) = some (limits s) := by unfold execD3hotEntry; simp [lim]
@[simp] theorem limits_doeS (req : List Byte) (s : State) :
    limits (doeS req s) = limits s := by unfold doeS; simp [lim]
theorem limits_execDoeSpdm (req : List Byte) (s : State) :
    limitsO (execDoeSpdm req s) = some (limits s) := by unfold execDoeSpdm; simp [lim]
@[simp] theorem limits_mctpS (m : Mctp) (s : State) :
    limits (mctpS m s) = limits s := by unfold mctpS; (repeat' split) <;> simp_all [lim]
theorem limits_execMctpMessage (m : Mctp) (s : State) :
    limitsO (execMctpMessage m s) = some (limits s) := by unfold execMctpMessage; simp [lim]
theorem limits_execDynamicAddress (addr : Nat) (s : State) :
    limitsO (execDynamicAddress addr s) = some (limits s) := by unfold execDynamicAddress; simp [lim]
@[simp] theorem limits_jtagOut (j : Jtag) (s : State) :
    limits (jtagOut j s) = limits s := by unfold jtagOut; (repeat' split) <;> simp_all [lim]
@[simp] theorem limits_jtagLink (j : Jtag) (s : State) :
    limits (jtagLink j s) = limits s := by unfold jtagLink; simp [lim]
@[simp] theorem limits_jtagS (j : Jtag) (s : State) :
    limits (jtagS j s) = limits s := by unfold jtagS; simp [lim]
theorem limits_execJtagInstruction (ir : Jtag) (s : State) :
    limitsO (execJtagInstruction ir s) = some (limits s) := by unfold execJtagInstruction; simp [lim]

end Sys2Proof.Machine
end

