-- ==== Sys2Proof/Laws/Keeps.lean ====
section
/-! SUPPORT. The functions that change a limited value keep it in its range, and leave the queue alone. -/

set_option maxRecDepth 4000

namespace Sys2Proof.Machine

/-- The queue is the same and the limits hold if they held before. -/
def Keeps (s t : State) : Prop := t.pending = s.pending ∧ (s.inLimits → t.inLimits)

theorem Keeps.refl (s : State) : Keeps s s := ⟨rfl, id⟩
theorem Keeps.trans {a b c : State} (h : Keeps a b) (k : Keeps b c) : Keeps a c := ⟨k.1.trans h.1, k.2 ∘ h.2⟩
theorem Keeps.of_eq {s t : State} (h : limits t = limits s) : Keeps s t :=
  ⟨congrArg Limits.queue h, fun k => by unfold State.inLimits; rw [h]; exact k⟩
theorem Keeps.then_eq {s t u : State} (h : Keeps s t) (e : limits u = limits t) : Keeps s u := h.trans (.of_eq e)
theorem Keeps.ite {s a b : State} {c : Prop} [Decidable c] (h : Keeps s a) (k : Keeps s b) : Keeps s (if c then a else b) := by
  split <;> assumption
theorem Keeps.fold {α : Type} {g : State → α → State} (h : ∀ s a, Keeps s (g s a)) (l : List α) (s : State) : Keeps s (l.foldl g s) := by
  induction l generalizing s with
  | nil => exact .refl s
  | cons a r ih => exact (h s a).trans (ih _)

theorem reset_inLimits : State.reset.inLimits := by
  unfold State.inLimits Limits.ok limits State.reset
  simp

theorem keeps_losePower (ph : Phase) (s : State) : Keeps s (losePower ph s) :=
  ⟨rfl, fun _ => by unfold State.inLimits Limits.ok limits losePower State.reset; simp⟩

theorem keeps_undervoltage (s : State) : Keeps s (losePower .off s) := keeps_losePower .off s

theorem keeps_overvoltage (s : State) :
    Keeps s (match s.pwr.phase with | .offTrip => s | _ => losePower .offOver s) := by
  split
  · exact .refl s
  · exact keeps_losePower _ s

theorem keeps_thermalSampleS (die tj : Nat) (s : State) : Keeps s (thermalSampleS die tj s) := by
  unfold thermalSampleS
  dsimp only
  split
  · exact .refl s
  · split
    · exact Keeps.trans (.of_eq rfl) (keeps_losePower .offTrip _)
    · exact .of_eq (by simp [lim])

theorem keeps_capSetS (u : Queue) (c : TakenCmd) (s : State) : Keeps s (capSetS u c s) := by
  unfold capSetS
  dsimp only
  split
  · exact .of_eq (by simp)
  · rename_i h
    split
    · refine Keeps.then_eq (t := { s with pwr := { s.pwr with capStored := some (par c 0 2) } }) ⟨rfl, fun k => ?_⟩ (by rw [limits_finishCmd])
      obtain ⟨a, b, d⟩ := k
      refine ⟨a, fun w e => ?_, d⟩
      cases e; omega
    · refine Keeps.then_eq (t := { s with pwr := { s.pwr with cap := par c 0 2 } }) ⟨rfl, fun k => ?_⟩ (by rw [limits_finishCmd])
      obtain ⟨a, b, d⟩ := k
      exact ⟨⟨by show 1500 ≤ par c 0 2; omega, by show par c 0 2 ≤ 4400; omega⟩, b, d⟩

theorem keeps_modeSetS (u : Queue) (c : TakenCmd) (s : State) : Keeps s (modeSetS u c s) := by
  unfold modeSetS
  split
  · exact .of_eq (by simp)
  · rename_i h
    refine Keeps.then_eq (t := { s with pwr := { s.pwr with modeSel := par c 0 1 } }) ⟨rfl, fun k => ?_⟩ (by rw [limits_finishCmd])
    obtain ⟨a, b, d, e⟩ := k
    exact ⟨a, b, by show par c 0 1 ≤ 1; omega, e⟩

theorem keeps_ifUp (f : State → State) (s : State) (h : ∀ s, Keeps s (f s)) : ∃ t, ifUp f s = .next t ∧ Keeps s t := by
  unfold ifUp
  split
  · exact ⟨_, rfl, h s⟩
  · exact ⟨_, rfl, .refl s⟩

theorem keeps_cmdOut (op q seq : Nat) (f : Queue → TakenCmd → State → State) (s : State) (h : ∀ u c s, Keeps s (f u c s)) :
    ∃ t, cmdOut op q seq f s = .next t ∧ Keeps s t := by
  unfold cmdOut
  refine keeps_ifUp _ s (fun s => ?_)
  unfold cmdGo
  (repeat' split) <;> first | exact .refl s | exact h _ _ _ | exact .of_eq (by simp)

theorem keeps_bootFrom4 (b : BootIn) (s : State) : Keeps s (bootFrom4 b s) := by
  refine .of_eq ?_
  simp

theorem keeps_powerOnS (b : BootIn) (s : State) : Keeps s (powerOnS b s) := by
  unfold powerOnS
  dsimp only
  split
  · refine (keeps_losePower .starting s).trans ?_
    split
    · exact .of_eq rfl
    · exact .of_eq (by simp [lim])
  · exact .refl s

theorem keeps_bar4ResizeS (k : Nat) (s : State) : Keeps s (bar4ResizeS k s) := by
  unfold bar4ResizeS
  split
  · exact .refl s
  · rename_i h
    refine ⟨rfl, fun l => ?_⟩
    obtain ⟨a1, a2, a3, a4, a5, a6, a7, a8, a9, a10, a11, a12, a13, a14⟩ := l
    refine ⟨a1, a2, a3, a4, a5, a6, a7, a8, a9, a10, a11, a12, a13, ?_⟩
    show 30 ≤ k ∧ k ≤ 36
    omega

theorem keeps_configReset (s : State) : Keeps s (configReset s) := by
  refine ⟨by unfold configReset; rfl, fun l => ?_⟩
  obtain ⟨a1, a2, a3, a4, a5, a6, a7, a8, a9, a10, a11, a12, a13, a14⟩ := l
  unfold State.inLimits configReset
  split
  · exact ⟨a1, a2, a3, a4, a5, a6, a7, a8, a9, a10, a11, a12, a13, by simp [limits]⟩
  · exact ⟨a1, a2, a3, a4, a5, a6, a7, a8, a9, a10, a11, a12, a13, by simp [limits]⟩

theorem keeps_rung4Reset (s : State) : Keeps s (rung4Reset s) := by
  refine ⟨rfl, fun l => ?_⟩
  obtain ⟨a1, a2, a3, a4, a5, a6, a7, a8, a9, a10, a11, a12, a13, a14⟩ := l
  exact ⟨a1, a2, a3, by simp [limits, rung4Reset], by simp [limits, rung4Reset], by simp [limits, rung4Reset],
    by simp [limits, rung4Reset], by simp [limits, rung4Reset], by simp [limits, rung4Reset], by simp [limits, rung4Reset],
    by simp [limits, rung4Reset], by simp [limits, rung4Reset], by simp [limits, rung4Reset], a14⟩

theorem keeps_rung4S (b : BootIn) (s : State) : Keeps s (rung4S b s) := by
  unfold rung4S
  split
  · exact .refl s
  · dsimp only
    rename_i q _
    have h1 : ∀ t, Keeps s t → Keeps s (rung4Reset t) := fun t h => h.trans (keeps_rung4Reset t)
    refine Keeps.then_eq (t := rung4Reset (if (takeSample q s).pci.active && (takeSample q s).pci.linkUp
      then writeBack (fun _ => true) (takeSample q s) else discardDirty (takeSample q s))) (h1 _ ?_) ?_
    · split <;> exact .of_eq (by simp)
    · rw [limits_startUhlug, limits_mk]
      simp only [lim, limits_eta]
      rw [limits_advanceRef]
      refine Eq.trans (limits_foldl _ _ _ (fun s _ => by simp)) ?_
      split <;> simp

theorem inRange_bounds (a b v old : Nat) (h : a ≤ old ∧ old ≤ b) : a ≤ inRange a b v old ∧ inRange a b v old ≤ b := by
  unfold inRange
  split <;> omega

theorem keeps_q0CfgWrite (c : Cov) (v : Nat) (s : State) : Keeps s (q0CfgWrite c v s) := by
  unfold q0CfgWrite
  dsimp only
  refine Keeps.then_eq (t := { s with cmd := { s.cmd with
    q0log2 := inRange 8 16 (bits (merge c (cmdVal s 0x10) v) 4 0) s.cmd.q0log2, q0vec := bits (merge c (cmdVal s 0x10) v) 26 16,
    q0enable := bitOf (merge c (cmdVal s 0x10) v) 31 } }) ⟨rfl, fun l => ?_⟩ ?_
  · obtain ⟨a1, a2, a3, a4, l⟩ := l
    exact ⟨a1, a2, a3, inRange_bounds _ _ _ _ a4, l⟩
  · (repeat' split) <;> simp

theorem keeps_cmdWrite (o : Nat) (c : Cov) (v : Nat) (s : State) : Keeps s (cmdWrite o c v s) := by
  unfold cmdWrite
  dsimp only
  refine .ite (.of_eq rfl) (.ite (keeps_q0CfgWrite c v s) (.ite (.of_eq rfl) (.ite ⟨rfl, fun l => ?_⟩ (.ite (.of_eq rfl) (.refl s)))))
  obtain ⟨a1, a2, a3, a4, a5, l⟩ := l
  exact ⟨a1, a2, a3, a4, inRange_bounds _ _ _ _ a5, l⟩

theorem keeps_xtWrite (o : Nat) (c : Cov) (v : Nat) (s : State) : Keeps s (xtWrite o c v s) := by
  unfold xtWrite
  dsimp only
  refine .ite (.of_eq rfl) (.ite ⟨rfl, fun l => ?_⟩ (.ite (.of_eq rfl) (.refl s)))
  obtain ⟨a1, a2, a3, a4, a5, a6, l⟩ := l
  exact ⟨a1, a2, a3, a4, a5, inRange_bounds _ _ _ _ a6, l⟩

theorem keeps_seamWrite (o : Nat) (c : Cov) (v : Nat) (s : State) : Keeps s (seamWrite o c v s) := by
  unfold seamWrite
  dsimp only
  refine .ite ⟨rfl, fun l => ?_⟩ (.ite (.of_eq rfl) (.ite (.ite (.of_eq (by simp)) (.refl s)) (.refl s)))
  obtain ⟨a1, a2, a3, a4, a5, a6, a7, l⟩ := l
  exact ⟨a1, a2, a3, a4, a5, a6, inRange_bounds _ _ _ _ a7, l⟩

theorem bits_le (w hi lo : Nat) : bits w hi lo ≤ 2 ^ (hi + 1 - lo) - 1 := by
  have h : bits w hi lo < 2 ^ (hi + 1 - lo) := by
    unfold bits
    exact Nat.mod_lt _ (Nat.two_pow_pos _)
  omega

theorem keeps_modeWrite (v : Nat) (s : State) : Keeps s (modeWrite v s) := by
  unfold modeWrite
  dsimp only
  have h : ∀ r : Rbx, r.mode = s.rbx.mode → r.ackUs = s.rbx.ackUs → r.idleUs = s.rbx.idleUs →
      Keeps s { s with rbx := { r with mode := if bits v 17 16 = 3 then s.rbx.mode else bits v 17 16 } } := by
    intro r e1 e2 e3
    refine ⟨rfl, fun l => ?_⟩
    obtain ⟨a1, a2, a3, a4, a5, a6, a7, a8, a9, a10, l⟩ := l
    refine ⟨a1, a2, a3, a4, a5, a6, a7, ?_, by simp only [limits, e2]; exact a9, by simp only [limits, e3]; exact a10, l⟩
    have b := bits_le v 17 16
    simp only [limits] at a8 ⊢
    split <;> omega
  refine Keeps.then_eq (h (if s.rbx.mode = 0 then { s.rbx with deviceNum := bits v 11 0, groupSize := bits v 28 24 } else s.rbx)
    (by split <;> rfl) (by split <;> rfl) (by split <;> rfl)) ?_
  exact limits_ite_of (limits_foldl _ _ _ (fun s p => by simp))
    (limits_ite_of (limits_foldl _ _ _ (fun s p => by split <;> simp)) rfl)

theorem keeps_rbxWrite (o : Nat) (c : Cov) (v : Nat) (s : State) : Keeps s (rbxWrite o c v s) := by
  unfold rbxWrite
  dsimp only
  refine .ite (keeps_modeWrite _ s) (.ite ⟨rfl, fun l => ?_⟩ (.ite (.ite (.of_eq (by simp)) (.refl s)) (.ite (.of_eq (by simp)) (.refl s))))
  obtain ⟨a1, a2, a3, a4, a5, a6, a7, a8, a9, a10, l⟩ := l
  exact ⟨a1, a2, a3, a4, a5, a6, a7, a8, inRange_bounds _ _ _ _ a9, bits_le _ 47 32, l⟩

theorem keeps_dbgWrite (o : Nat) (c : Cov) (v : Nat) (s : State) : Keeps s (dbgWrite o c v s) := by
  unfold dbgWrite
  dsimp only
  refine .ite (.of_eq rfl) (.ite ⟨rfl, fun l => ?_⟩ (.ite (.of_eq rfl) (.ite (.of_eq rfl) (.ite (.of_eq rfl) (.ite (.of_eq rfl) (.refl s))))))
  obtain ⟨a1, a2, a3, a4, a5, a6, a7, a8, a9, a10, a11, a12, a13, a14⟩ := l
  refine ⟨a1, a2, a3, a4, a5, a6, a7, a8, a9, a10, inRange_bounds _ _ _ _ a11, inRange_bounds _ _ _ _ a12, inRange_bounds _ _ _ _ a13, a14⟩

theorem keeps_regWrite (o : Nat) (c : Cov) (v : Nat) (s : State) : Keeps s (regWrite o c v s) := by
  unfold regWrite
  dsimp only
  exact .ite (.of_eq (by simp)) (.ite (keeps_cmdWrite _ _ _ s) (.ite (keeps_xtWrite _ _ _ s) (.ite (keeps_seamWrite _ _ _ s)
    (.ite (keeps_rbxWrite _ _ _ s) (.ite (.of_eq (by simp)) (.ite (.of_eq (by simp)) (.ite (keeps_dbgWrite _ _ _ s)
      (.ite (.of_eq (by simp)) (.refl s)))))))))

theorem keeps_barWrite (off size val : Nat) (s : State) : Keeps s (barWrite off size val s) := by
  unfold barWrite
  exact .ite (.refl s) (keeps_regWrite _ _ _ s)

theorem keeps_brakeOff (s : State) : Keeps s (brakeOff s) := by
  unfold brakeOff
  dsimp only
  split
  · exact .refl s
  · split
    · exact .of_eq rfl
    · refine Keeps.then_eq (t := { s with pwr := { s.pwr with cap := s.pwr.capStored.getD s.pwr.cap, capStored := none } })
        ⟨rfl, fun l => ?_⟩ (by rw [limits_raiseUp]; rfl)
      obtain ⟨a1, a2, l⟩ := l
      refine ⟨?_, fun w e => (by cases e), l⟩
      simp only [limits] at a1 a2 ⊢
      cases e : s.pwr.capStored with
      | none => exact a1
      | some w => exact a2 w e

theorem keeps_perstOn (s : State) : Keeps s (perstOn s) := by
  unfold perstOn
  dsimp only
  split
  · exact .refl s
  · have h : Keeps s (configReset { s with pin := { s.pin with perst := true }, pci := { s.pci with active := false, linkUp := false } }) :=
      Keeps.trans (.of_eq rfl) (keeps_configReset _)
    split
    · exact h
    · exact h.then_eq rfl
    · exact h.then_eq (by simp)
    · exact .of_eq rfl

theorem keeps_hotResetS (b : BootIn) (s : State) : Keeps s (hotResetS b s) := by
  unfold hotResetS
  dsimp only
  split
  · exact .refl s
  · have h : Keeps s (configReset { s with pci := { s.pci with linkUp := b.linkTrains } }) :=
      Keeps.trans (.of_eq rfl) (keeps_configReset _)
    split
    · exact h
    · exact h.then_eq (by simp)
    · exact h.then_eq (by simp)
    · exact .refl s

theorem keeps_flrS (b : BootIn) (s : State) : Keeps s (flrS b s) := by
  unfold flrS
  split
  · exact .refl s
  · split
    · exact keeps_configReset s
    · exact (keeps_configReset s).then_eq (by simp)
    · exact (keeps_configReset s).then_eq (by simp)
    · exact .refl s

theorem keeps_d0ReturnS (s : State) : Keeps s (d0ReturnS s) := by
  unfold d0ReturnS
  dsimp only
  split
  · exact .refl s
  · split
    · exact (keeps_configReset s).then_eq (by simp)
    · exact keeps_configReset s

end Sys2Proof.Machine
end

