-- ==== Sys2Proof/Laws/Tables.lean ====
section
/-! SUPPORT. Laws of the sparse tables: what a read after an update gives, and that updates keep the canonical form. -/

namespace Sys2Proof.Machine

variable {α : Type}

@[simp] theorem tget?_nil (k : Nat) : tget? ([] : Tbl α) k = none := rfl

@[simp] theorem tget_nil (d : α) (k : Nat) : tget d [] k = d := rfl

theorem tget?_cons (j : Nat) (v : α) (r : Tbl α) (k : Nat) :
    tget? ((j, v) :: r) k = if j = k then some v else tget? r k := rfl

@[simp] theorem tget?_tput (t : Tbl α) (k j : Nat) (v : α) :
    tget? (tput t k v) j = if k = j then some v else tget? t j := by
  induction t with
  | nil => rfl
  | cons e r ih =>
    obtain ⟨i, w⟩ := e
    simp only [tput]
    split
    · rfl
    · split
      · subst_vars
        simp only [tget?]
        split <;> rfl
      · simp only [tget?, ih]
        repeat' split
        all_goals first | rfl | omega

@[simp] theorem tget_tput (d : α) (t : Tbl α) (k j : Nat) (v : α) :
    tget d (tput t k v) j = if k = j then v else tget d t j := by
  simp only [tget, tget?_tput]
  split <;> rfl

@[simp] theorem tget?_tdel (t : Tbl α) (k j : Nat) :
    tget? (tdel t k) j = if k = j then none else tget? t j := by
  induction t with
  | nil => simp [tdel]
  | cons e r ih =>
    obtain ⟨i, w⟩ := e
    simp only [tdel]
    split
    · rw [ih]
      simp only [tget?]
      repeat' split
      all_goals first | rfl | omega
    · simp only [tget?, ih]
      repeat' split
      all_goals first | rfl | omega

/-- A default read after a write gives the value written, and no other key is touched. -/
@[simp] theorem tget_tset [DecidableEq α] (d : α) (t : Tbl α) (k j : Nat) (v : α) :
    tget d (tset d t k v) j = if k = j then v else tget d t j := by
  unfold tset
  split
  · subst_vars
    simp only [tget, tget?_tdel]
    split <;> rfl
  · exact tget_tput d t k j v

@[simp] theorem tget_tmod [DecidableEq α] (d : α) (t : Tbl α) (k j : Nat) (f : α → α) :
    tget d (tmod d t k f) j = if k = j then f (tget d t k) else tget d t j := by
  simp [tmod]

@[simp] theorem tget?_tupd (t : Tbl α) (k j : Nat) (f : α → α) :
    tget? (tupd t k f) j = if k = j then (tget? t k).map f else tget? t j := by
  induction t with
  | nil => simp [tupd]
  | cons e r ih =>
    obtain ⟨i, w⟩ := e
    simp only [tupd]
    split
    · subst_vars
      simp only [tget?]
      split <;> simp
    · simp only [tget?, ih]
      repeat' split
      all_goals first | rfl | omega

/-! ### The canonical form -/

/-- Every key of the table lies above `b`. -/
def tabove (b : Nat) (t : Tbl α) : Prop := ∀ e ∈ t, b < e.1

theorem tsorted_cons (j : Nat) (v : α) (r : Tbl α) (h : tabove j r) (hr : tsorted r = true) : tsorted ((j, v) :: r) = true := by
  cases r with
  | nil => rfl
  | cons e r =>
    simp only [tsorted, Bool.and_eq_true, decide_eq_true_eq]
    exact ⟨h e (by simp), hr⟩

theorem tsorted_tail (e : Nat × α) (r : Tbl α) (h : tsorted (e :: r) = true) : tabove e.1 r ∧ tsorted r = true := by
  induction r generalizing e with
  | nil => exact ⟨by simp [tabove], rfl⟩
  | cons a r ih =>
    simp only [tsorted, Bool.and_eq_true, decide_eq_true_eq] at h
    have k := ih a h.2
    refine ⟨fun x hx => ?_, h.2⟩
    rcases List.mem_cons.mp hx with rfl | hx
    · exact h.1
    · exact h.1.trans (k.1 x hx)

theorem tput_mem (t : Tbl α) (k : Nat) (v : α) (e : Nat × α) (h : e ∈ tput t k v) : e = (k, v) ∨ e ∈ t := by
  induction t with
  | nil => simpa [tput] using h
  | cons a r ih =>
    obtain ⟨j, w⟩ := a
    simp only [tput] at h
    split at h
    · simpa using h
    · split at h
      · rcases List.mem_cons.mp h with h | h
        · exact .inl h
        · exact .inr (List.mem_cons_of_mem _ h)
      · rcases List.mem_cons.mp h with h | h
        · exact .inr (by simp [h])
        · exact (ih h).imp id (List.mem_cons_of_mem _)

theorem tsorted_tput (t : Tbl α) (k : Nat) (v : α) (h : tsorted t = true) : tsorted (tput t k v) = true := by
  induction t with
  | nil => rfl
  | cons a r ih =>
    obtain ⟨j, w⟩ := a
    have ⟨h1, h2⟩ := tsorted_tail _ _ h
    simp only [tput]
    split
    · rename_i hlt
      refine tsorted_cons _ _ _ (fun e he => ?_) h
      rcases List.mem_cons.mp he with rfl | he
      · exact hlt
      · exact lt_trans hlt (h1 e he)
    · split
      · subst_vars
        exact tsorted_cons _ _ _ h1 h2
      · refine tsorted_cons _ _ _ (fun e he => ?_) (ih h2)
        rcases tput_mem _ _ _ _ he with rfl | he
        · show j < k
          omega
        · exact h1 e he

theorem tdel_mem (t : Tbl α) (k : Nat) (e : Nat × α) (h : e ∈ tdel t k) : e ∈ t := by
  induction t with
  | nil => simp [tdel] at h
  | cons a r ih =>
    obtain ⟨j, w⟩ := a
    simp only [tdel] at h
    split at h
    · exact List.mem_cons_of_mem _ (ih h)
    · rcases List.mem_cons.mp h with h | h
      · simp [h]
      · exact List.mem_cons_of_mem _ (ih h)

theorem tsorted_tdel (t : Tbl α) (k : Nat) (h : tsorted t = true) : tsorted (tdel t k) = true := by
  induction t with
  | nil => rfl
  | cons a r ih =>
    obtain ⟨j, w⟩ := a
    have ⟨h1, h2⟩ := tsorted_tail _ _ h
    simp only [tdel]
    split
    · exact ih h2
    · exact tsorted_cons _ _ _ (fun e he => h1 e (tdel_mem _ _ _ he)) (ih h2)

theorem twf_iff [DecidableEq α] (d : α) (t : Tbl α) : twf d t = true ↔ tsorted t = true ∧ ∀ e ∈ t, e.2 ≠ d := by
  simp [twf, List.all_eq_true]

/-- A write keeps the canonical form. -/
theorem twf_tset [DecidableEq α] (d : α) (t : Tbl α) (k : Nat) (v : α) (h : twf d t = true) : twf d (tset d t k v) = true := by
  rw [twf_iff] at h ⊢
  unfold tset
  split
  · exact ⟨tsorted_tdel t k h.1, fun e he => h.2 e (tdel_mem _ _ _ he)⟩
  · rename_i hv
    refine ⟨tsorted_tput t k v h.1, fun e he => ?_⟩
    rcases tput_mem _ _ _ _ he with rfl | he
    · exact hv
    · exact h.2 e he

theorem twf_tmod [DecidableEq α] (d : α) (t : Tbl α) (k : Nat) (f : α → α) (h : twf d t = true) : twf d (tmod d t k f) = true :=
  twf_tset d t k _ h

/-- A fold of writes keeps the canonical form. -/
theorem twf_foldl [DecidableEq α] {β : Type} (d : α) (g : Tbl α → β → Tbl α) (hg : ∀ t b, twf d t = true → twf d (g t b) = true)
    (l : List β) (t : Tbl α) (h : twf d t = true) : twf d (l.foldl g t) = true := by
  induction l generalizing t with
  | nil => exact h
  | cons b r ih => exact ih _ (hg t b h)

/-- Keeping only some entries keeps the canonical form. -/
theorem twf_filter [DecidableEq α] (d : α) (p : Nat × α → Bool) (t : Tbl α) (h : twf d t = true) : twf d (t.filter p) = true := by
  rw [twf_iff] at h ⊢
  refine ⟨?_, fun e he => h.2 e (List.mem_filter.mp he).1⟩
  have h1 := h.1
  clear h
  induction t with
  | nil => rfl
  | cons a r ih =>
    have ⟨k1, k2⟩ := tsorted_tail _ _ h1
    rw [List.filter_cons]
    split
    · exact tsorted_cons _ _ _ (fun e he => k1 e (List.mem_filter.mp he).1) (ih k2)
    · exact ih k2

end Sys2Proof.Machine
end

