-- ==== Sys2Proof/Laws/Memory.lean ====
section
/-! SUPPORT. Laws of memory: a read after a write, and that every memory operation keeps the canonical form. -/

namespace Sys2Proof.Machine

theorem rising_tail (a : Nat) (r : List Nat) (h : rising (a :: r) = true) : (∀ b ∈ r, a < b) ∧ rising r = true := by
  induction r generalizing a with
  | nil => exact ⟨by simp, rfl⟩
  | cons b r ih =>
    simp only [rising, Bool.and_eq_true, decide_eq_true_eq] at h
    have k := ih b h.2
    refine ⟨fun x hx => ?_, h.2⟩
    rcases List.mem_cons.mp hx with rfl | hx
    · exact h.1
    · exact h.1.trans (k.1 x hx)

theorem rising_cons (a : Nat) (r : List Nat) (h : ∀ b ∈ r, a < b) (hr : rising r = true) : rising (a :: r) = true := by
  cases r with
  | nil => rfl
  | cons b r =>
    simp only [rising, Bool.and_eq_true, decide_eq_true_eq]
    exact ⟨h b (by simp), hr⟩

theorem mem_insKey (k a : Nat) (l : List Nat) : a ∈ insKey k l ↔ a = k ∨ a ∈ l := by
  induction l with
  | nil => simp [insKey]
  | cons j r ih =>
    simp only [insKey]
    repeat' split
    · simp
    · subst_vars; simp
    · simp only [List.mem_cons, ih]
      tauto

theorem rising_insKey (k : Nat) (l : List Nat) (h : rising l = true) : rising (insKey k l) = true := by
  induction l with
  | nil => rfl
  | cons j r ih =>
    have ⟨h1, h2⟩ := rising_tail _ _ h
    simp only [insKey]
    repeat' split
    · rename_i hk
      refine rising_cons _ _ (fun b hb => ?_) h
      rcases List.mem_cons.mp hb with rfl | hb
      · exact hk
      · exact hk.trans (h1 b hb)
    · exact h
    · refine rising_cons _ _ (fun b hb => ?_) (ih h2)
      rcases (mem_insKey _ _ _).mp hb with rfl | hb
      · omega
      · exact h1 b hb

theorem rising_filter (p : Nat → Bool) (l : List Nat) (h : rising l = true) : rising (l.filter p) = true := by
  induction l with
  | nil => rfl
  | cons j r ih =>
    have ⟨h1, h2⟩ := rising_tail _ _ h
    rw [List.filter_cons]
    split
    · exact rising_cons _ _ (fun b hb => h1 b (List.mem_filter.mp hb).1) (ih h2)
    · exact ih h2

theorem Memory.wf_iff (m : DevMem) : Memory.wf m = true ↔ twf 0 m.cells = true ∧ rising m.poison = true := by
  simp [Memory.wf]

theorem HostMem.wf_iff (h : HostMem) : HostMem.wf h = true ↔ twf 0 h.mem = true ∧ tsorted h.dirty = true := by
  simp [HostMem.wf]

theorem Memory.wf_filter (m : DevMem) (p : Nat × Byte → Bool) (q : Nat → Bool) (h : Memory.wf m = true) :
    Memory.wf ⟨m.cells.filter p, m.poison.filter q⟩ = true := by
  rw [Memory.wf_iff] at h ⊢
  exact ⟨twf_filter 0 p _ h.1, rising_filter q _ h.2⟩

/-! ### Device memory -/

theorem reset_memory_wf : Memory.wf State.reset.mem = true ∧ HostMem.wf State.reset.host = true := by decide

theorem wf_putLine (k line mask : Nat) (data : List Byte) (s : State) (h : Memory.wf s.mem = true) :
    Memory.wf (putLine k line mask data s).mem = true := by
  rw [Memory.wf_iff] at h ⊢
  exact ⟨twf_foldl 0 _ (fun t i ht => twf_tset 0 t _ _ ht) _ _ h.1, h.2⟩

theorem wf_zeroGran (k g : Nat) (s : State) (h : Memory.wf s.mem = true) : Memory.wf (zeroGran k g s).mem = true :=
  Memory.wf_filter _ _ _ h

theorem wf_unloadSealed (num : Nat) (x : Extent) (s : State) (h : Memory.wf s.mem = true) :
    Memory.wf (unloadSealed num x s).mem = true :=
  Memory.wf_filter _ _ _ h

theorem wf_freshMem (s : State) (h : Memory.wf s.mem = true) : Memory.wf (freshMem s) = true := by
  unfold freshMem
  split
  · split
    · rfl
    · exact Memory.wf_filter _ _ _ h
  · rfl

theorem wf_clearPoison (k line : Nat) (s : State) (h : Memory.wf s.mem = true) :
    Memory.wf (clearPoison k line s).mem = true := by
  have g : Memory.wf ⟨s.mem.cells, s.mem.poison.filter (fun p => !decide (p = lkey k line))⟩ = true := by
    rw [Memory.wf_iff] at h ⊢
    exact ⟨h.1, rising_filter _ _ h.2⟩
  unfold clearPoison
  dsimp only
  split
  · split
    · split <;> exact g
    · exact g
  · exact h

theorem wf_putWhole (k line mask : Nat) (data : List Byte) (s : State) (h : Memory.wf s.mem = true) :
    Memory.wf (putWhole k line mask data s).mem = true := by
  unfold putWhole
  dsimp only
  split
  · exact wf_clearPoison _ _ _ (wf_putLine _ _ _ _ _ h)
  · exact wf_putLine _ _ _ _ _ h

/-- A new poison mark keeps the canonical form. -/
theorem wf_mark (k line : Nat) (m : DevMem) (h : Memory.wf m = true) :
    Memory.wf { m with poison := insKey (lkey k line) m.poison } = true := by
  rw [Memory.wf_iff] at h ⊢
  exact ⟨h.1, rising_insKey _ _ h.2⟩

/-! ### Host memory -/

theorem wf_hostPost (pasid : Option Nat) (a : Nat) (bs : List Byte) (s : State) (h : HostMem.wf s.host = true) :
    HostMem.wf (hostPost pasid a bs s).host = true := by
  rw [HostMem.wf_iff] at h ⊢
  exact ⟨twf_foldl 0 _ (fun t i ht => twf_tset 0 t _ _ ht) _ _ h.1, h.2⟩

theorem tsorted_filter {α : Type} (p : Nat × α → Bool) (t : Tbl α) (h : tsorted t = true) : tsorted (t.filter p) = true := by
  induction t with
  | nil => rfl
  | cons a r ih =>
    have ⟨k1, k2⟩ := tsorted_tail _ _ h
    rw [List.filter_cons]
    split
    · exact tsorted_cons _ _ _ (fun e he => k1 e (List.mem_filter.mp he).1) (ih k2)
    · exact ih k2

theorem wf_writeBack (p : Nat → Bool) (s : State) (h : HostMem.wf s.host = true) : HostMem.wf (writeBack p s).host = true := by
  rw [HostMem.wf_iff] at h ⊢
  exact ⟨twf_foldl 0 _ (fun t i ht => twf_tset 0 t _ _ ht) _ _ h.1, tsorted_filter _ _ h.2⟩

theorem tsorted_foldl_tput {α β : Type} (key : β → Nat) (val : β → α) (l : List β) (t : Tbl α) (h : tsorted t = true) :
    tsorted (l.foldl (fun m i => tput m (key i) (val i)) t) = true := by
  induction l generalizing t with
  | nil => exact h
  | cons b r ih => exact ih _ (tsorted_tput _ _ _ h)

/-- Logging a page leaves host memory alone. -/
@[simp] theorem logPage_host (pasid page n : Nat) (s : State) : (logPage pasid page n s).host = s.host := by
  unfold logPage raiseSlice raiseRec
  repeat' split
  all_goals rfl

theorem foldl_host {β : Type} (g : State → β → State) (hg : ∀ s b, (g s b).host = s.host) (l : List β) (s : State) :
    (l.foldl g s).host = s.host := by
  induction l generalizing s with
  | nil => rfl
  | cons b r ih => rw [List.foldl_cons, ih, hg]

@[simp] theorem logHost_host (pasid : Option Nat) (a n : Nat) (s : State) : (logHost pasid a n s).host = s.host := by
  unfold logHost
  split
  · rfl
  · exact foldl_host _ (fun s g => foldl_host _ (fun s k => logPage_host _ _ _ s) _ s) _ s

theorem wf_wcTrim (d : Nat) (s : State) (h : HostMem.wf s.host = true) : HostMem.wf (wcTrim d s).host = true := by
  unfold wcTrim
  split
  · exact wf_writeBack _ s h
  · exact h

theorem wf_hostWrite (pasid : Option Nat) (a : Nat) (bs : List Byte) (s : State) (h : HostMem.wf s.host = true) :
    HostMem.wf (hostWrite pasid a bs s).host = true := by
  unfold hostWrite
  rw [logHost_host]
  refine wf_wcTrim _ _ (wf_wcTrim _ _ ?_)
  rw [HostMem.wf_iff] at h ⊢
  exact ⟨h.1, tsorted_foldl_tput _ _ _ _ h.2⟩

/-! ### Reads after writes -/

theorem tget_foldl_tset {α : Type} [DecidableEq α] (d : α) (f : Nat → Nat) (v : Nat → α) (hf : ∀ i j, f i = f j → i = j)
    (l : List Nat) (hl : l.Nodup) (t : Tbl α) (j : Nat) :
    tget d (l.foldl (fun m i => tset d m (f i) (v i)) t) (f j) = if j ∈ l then v j else tget d t (f j) := by
  induction l generalizing t with
  | nil => simp
  | cons a r ih =>
    rw [List.foldl_cons, ih (List.nodup_cons.mp hl).2]
    have ha := (List.nodup_cons.mp hl).1
    by_cases h : j ∈ r
    · simp [h]
    · simp only [h, if_false, List.mem_cons, or_false, tget_tset]
      by_cases e : f a = f j
      · simp [hf _ _ e]
      · have : j ≠ a := fun q => e (by rw [q])
        simp [e, this]

theorem tget_foldl_tset_other {α : Type} [DecidableEq α] (d : α) (f : Nat → Nat) (v : Nat → α) (l : List Nat) (t : Tbl α) (k : Nat)
    (hk : ∀ i ∈ l, f i ≠ k) : tget d (l.foldl (fun m i => tset d m (f i) (v i)) t) k = tget d t k := by
  induction l generalizing t with
  | nil => rfl
  | cons a r ih =>
    rw [List.foldl_cons, ih _ (fun i hi => hk i (List.mem_cons_of_mem _ hi)), tget_tset, if_neg (hk a (by simp))]

/-- A byte of a line after a masked write of the line: the data where the mask names it, else as before. -/
theorem memByte_putLine (k line mask : Nat) (data : List Byte) (s : State) (i : Nat) :
    memByte (putLine k line mask data s) k (line * 128 + i) =
      if i ∈ bitsSet 128 mask then nth 0 data i else memByte s k (line * 128 + i) :=
  tget_foldl_tset 0 (fun i => bkey k (line * 128 + i)) (fun i => nth 0 data i)
    (fun a b h => by simp only [bkey] at h; omega) _ (List.Nodup.filter _ List.nodup_range) _ _

/-- Every other byte of device memory reads as before. -/
theorem memByte_putLine_other (k line mask : Nat) (data : List Byte) (s : State) (j a : Nat)
    (h : ∀ i < 128, bkey k (line * 128 + i) ≠ bkey j a) :
    memByte (putLine k line mask data s) j a = memByte s j a :=
  tget_foldl_tset_other 0 (fun i => bkey k (line * 128 + i)) (fun i => nth 0 data i) _ _ _
    (fun i hi => h i (by have := (List.mem_filter.mp hi).1; simpa using this))

end Sys2Proof.Machine
end

