-- ==== Sys2Proof/Laws/State.lean ====
section
/-! SUPPORT. Laws of the state: what each named update leaves unchanged, field by field, and what a read after it gives. -/

namespace Sys2Proof.Machine

/-! ### setQueue -/

@[simp] theorem setQueue_pending (q : Nat) (f : Queue → Queue) (s : State) : (setQueue q f s).pending = s.pending := rfl
@[simp] theorem setQueue_clk (q : Nat) (f : Queue → Queue) (s : State) : (setQueue q f s).clk = s.clk := rfl
@[simp] theorem setQueue_pwr (q : Nat) (f : Queue → Queue) (s : State) : (setQueue q f s).pwr = s.pwr := rfl
@[simp] theorem setQueue_pin (q : Nat) (f : Queue → Queue) (s : State) : (setQueue q f s).pin = s.pin := rfl
@[simp] theorem setQueue_pci (q : Nat) (f : Queue → Queue) (s : State) : (setQueue q f s).pci = s.pci := rfl
@[simp] theorem setQueue_host (q : Nat) (f : Queue → Queue) (s : State) : (setQueue q f s).host = s.host := rfl
@[simp] theorem setQueue_idr (q : Nat) (f : Queue → Queue) (s : State) : (setQueue q f s).idr = s.idr := rfl
@[simp] theorem setQueue_ten (q : Nat) (f : Queue → Queue) (s : State) : (setQueue q f s).ten = s.ten := rfl
@[simp] theorem setQueue_xt (q : Nat) (f : Queue → Queue) (s : State) : (setQueue q f s).xt = s.xt := rfl
@[simp] theorem setQueue_mem (q : Nat) (f : Queue → Queue) (s : State) : (setQueue q f s).mem = s.mem := rfl
@[simp] theorem setQueue_home (q : Nat) (f : Queue → Queue) (s : State) : (setQueue q f s).home = s.home := rfl
@[simp] theorem setQueue_seam (q : Nat) (f : Queue → Queue) (s : State) : (setQueue q f s).seam = s.seam := rfl
@[simp] theorem setQueue_rbx (q : Nat) (f : Queue → Queue) (s : State) : (setQueue q f s).rbx = s.rbx := rfl
@[simp] theorem setQueue_sch (q : Nat) (f : Queue → Queue) (s : State) : (setQueue q f s).sch = s.sch := rfl
@[simp] theorem setQueue_pip (q : Nat) (f : Queue → Queue) (s : State) : (setQueue q f s).pip = s.pip := rfl
@[simp] theorem setQueue_sec (q : Nat) (f : Queue → Queue) (s : State) : (setQueue q f s).sec = s.sec := rfl
@[simp] theorem setQueue_err (q : Nat) (f : Queue → Queue) (s : State) : (setQueue q f s).err = s.err := rfl

/-! ### setCmd -/

@[simp] theorem setCmd_pending (q seq : Nat) (f : TakenCmd → TakenCmd) (s : State) : (setCmd q seq f s).pending = s.pending := rfl
@[simp] theorem setCmd_clk (q seq : Nat) (f : TakenCmd → TakenCmd) (s : State) : (setCmd q seq f s).clk = s.clk := rfl
@[simp] theorem setCmd_pwr (q seq : Nat) (f : TakenCmd → TakenCmd) (s : State) : (setCmd q seq f s).pwr = s.pwr := rfl
@[simp] theorem setCmd_pin (q seq : Nat) (f : TakenCmd → TakenCmd) (s : State) : (setCmd q seq f s).pin = s.pin := rfl
@[simp] theorem setCmd_pci (q seq : Nat) (f : TakenCmd → TakenCmd) (s : State) : (setCmd q seq f s).pci = s.pci := rfl
@[simp] theorem setCmd_host (q seq : Nat) (f : TakenCmd → TakenCmd) (s : State) : (setCmd q seq f s).host = s.host := rfl
@[simp] theorem setCmd_idr (q seq : Nat) (f : TakenCmd → TakenCmd) (s : State) : (setCmd q seq f s).idr = s.idr := rfl
@[simp] theorem setCmd_ten (q seq : Nat) (f : TakenCmd → TakenCmd) (s : State) : (setCmd q seq f s).ten = s.ten := rfl
@[simp] theorem setCmd_xt (q seq : Nat) (f : TakenCmd → TakenCmd) (s : State) : (setCmd q seq f s).xt = s.xt := rfl
@[simp] theorem setCmd_mem (q seq : Nat) (f : TakenCmd → TakenCmd) (s : State) : (setCmd q seq f s).mem = s.mem := rfl
@[simp] theorem setCmd_home (q seq : Nat) (f : TakenCmd → TakenCmd) (s : State) : (setCmd q seq f s).home = s.home := rfl
@[simp] theorem setCmd_seam (q seq : Nat) (f : TakenCmd → TakenCmd) (s : State) : (setCmd q seq f s).seam = s.seam := rfl
@[simp] theorem setCmd_rbx (q seq : Nat) (f : TakenCmd → TakenCmd) (s : State) : (setCmd q seq f s).rbx = s.rbx := rfl
@[simp] theorem setCmd_sch (q seq : Nat) (f : TakenCmd → TakenCmd) (s : State) : (setCmd q seq f s).sch = s.sch := rfl
@[simp] theorem setCmd_pip (q seq : Nat) (f : TakenCmd → TakenCmd) (s : State) : (setCmd q seq f s).pip = s.pip := rfl
@[simp] theorem setCmd_sec (q seq : Nat) (f : TakenCmd → TakenCmd) (s : State) : (setCmd q seq f s).sec = s.sec := rfl
@[simp] theorem setCmd_err (q seq : Nat) (f : TakenCmd → TakenCmd) (s : State) : (setCmd q seq f s).err = s.err := rfl

/-! ### finishCmd -/

@[simp] theorem finishCmd_pending (q seq st detail : Nat) (s : State) : (finishCmd q seq st detail s).pending = s.pending := rfl
@[simp] theorem finishCmd_clk (q seq st detail : Nat) (s : State) : (finishCmd q seq st detail s).clk = s.clk := rfl
@[simp] theorem finishCmd_pwr (q seq st detail : Nat) (s : State) : (finishCmd q seq st detail s).pwr = s.pwr := rfl
@[simp] theorem finishCmd_pin (q seq st detail : Nat) (s : State) : (finishCmd q seq st detail s).pin = s.pin := rfl
@[simp] theorem finishCmd_pci (q seq st detail : Nat) (s : State) : (finishCmd q seq st detail s).pci = s.pci := rfl
@[simp] theorem finishCmd_host (q seq st detail : Nat) (s : State) : (finishCmd q seq st detail s).host = s.host := rfl
@[simp] theorem finishCmd_idr (q seq st detail : Nat) (s : State) : (finishCmd q seq st detail s).idr = s.idr := rfl
@[simp] theorem finishCmd_ten (q seq st detail : Nat) (s : State) : (finishCmd q seq st detail s).ten = s.ten := rfl
@[simp] theorem finishCmd_xt (q seq st detail : Nat) (s : State) : (finishCmd q seq st detail s).xt = s.xt := rfl
@[simp] theorem finishCmd_mem (q seq st detail : Nat) (s : State) : (finishCmd q seq st detail s).mem = s.mem := rfl
@[simp] theorem finishCmd_home (q seq st detail : Nat) (s : State) : (finishCmd q seq st detail s).home = s.home := rfl
@[simp] theorem finishCmd_seam (q seq st detail : Nat) (s : State) : (finishCmd q seq st detail s).seam = s.seam := rfl
@[simp] theorem finishCmd_rbx (q seq st detail : Nat) (s : State) : (finishCmd q seq st detail s).rbx = s.rbx := rfl
@[simp] theorem finishCmd_sch (q seq st detail : Nat) (s : State) : (finishCmd q seq st detail s).sch = s.sch := rfl
@[simp] theorem finishCmd_pip (q seq st detail : Nat) (s : State) : (finishCmd q seq st detail s).pip = s.pip := rfl
@[simp] theorem finishCmd_sec (q seq st detail : Nat) (s : State) : (finishCmd q seq st detail s).sec = s.sec := rfl
@[simp] theorem finishCmd_err (q seq st detail : Nat) (s : State) : (finishCmd q seq st detail s).err = s.err := rfl

/-! ### putWindow -/

@[simp] theorem putWindow_pending (off : Nat) (bs : List Byte) (s : State) : (putWindow off bs s).pending = s.pending := rfl
@[simp] theorem putWindow_clk (off : Nat) (bs : List Byte) (s : State) : (putWindow off bs s).clk = s.clk := rfl
@[simp] theorem putWindow_pwr (off : Nat) (bs : List Byte) (s : State) : (putWindow off bs s).pwr = s.pwr := rfl
@[simp] theorem putWindow_pin (off : Nat) (bs : List Byte) (s : State) : (putWindow off bs s).pin = s.pin := rfl
@[simp] theorem putWindow_pci (off : Nat) (bs : List Byte) (s : State) : (putWindow off bs s).pci = s.pci := rfl
@[simp] theorem putWindow_host (off : Nat) (bs : List Byte) (s : State) : (putWindow off bs s).host = s.host := rfl
@[simp] theorem putWindow_idr (off : Nat) (bs : List Byte) (s : State) : (putWindow off bs s).idr = s.idr := rfl
@[simp] theorem putWindow_ten (off : Nat) (bs : List Byte) (s : State) : (putWindow off bs s).ten = s.ten := rfl
@[simp] theorem putWindow_xt (off : Nat) (bs : List Byte) (s : State) : (putWindow off bs s).xt = s.xt := rfl
@[simp] theorem putWindow_mem (off : Nat) (bs : List Byte) (s : State) : (putWindow off bs s).mem = s.mem := rfl
@[simp] theorem putWindow_home (off : Nat) (bs : List Byte) (s : State) : (putWindow off bs s).home = s.home := rfl
@[simp] theorem putWindow_seam (off : Nat) (bs : List Byte) (s : State) : (putWindow off bs s).seam = s.seam := rfl
@[simp] theorem putWindow_rbx (off : Nat) (bs : List Byte) (s : State) : (putWindow off bs s).rbx = s.rbx := rfl
@[simp] theorem putWindow_sch (off : Nat) (bs : List Byte) (s : State) : (putWindow off bs s).sch = s.sch := rfl
@[simp] theorem putWindow_pip (off : Nat) (bs : List Byte) (s : State) : (putWindow off bs s).pip = s.pip := rfl
@[simp] theorem putWindow_sec (off : Nat) (bs : List Byte) (s : State) : (putWindow off bs s).sec = s.sec := rfl
@[simp] theorem putWindow_err (off : Nat) (bs : List Byte) (s : State) : (putWindow off bs s).err = s.err := rfl

/-! ### raiseRec -/

@[simp] theorem raiseRec_pending (r : EvRec) (s : State) : (raiseRec r s).pending = s.pending := rfl
@[simp] theorem raiseRec_clk (r : EvRec) (s : State) : (raiseRec r s).clk = s.clk := rfl
@[simp] theorem raiseRec_pwr (r : EvRec) (s : State) : (raiseRec r s).pwr = s.pwr := rfl
@[simp] theorem raiseRec_pin (r : EvRec) (s : State) : (raiseRec r s).pin = s.pin := rfl
@[simp] theorem raiseRec_pci (r : EvRec) (s : State) : (raiseRec r s).pci = s.pci := rfl
@[simp] theorem raiseRec_host (r : EvRec) (s : State) : (raiseRec r s).host = s.host := rfl
@[simp] theorem raiseRec_idr (r : EvRec) (s : State) : (raiseRec r s).idr = s.idr := rfl
@[simp] theorem raiseRec_ten (r : EvRec) (s : State) : (raiseRec r s).ten = s.ten := rfl
@[simp] theorem raiseRec_xt (r : EvRec) (s : State) : (raiseRec r s).xt = s.xt := rfl
@[simp] theorem raiseRec_mem (r : EvRec) (s : State) : (raiseRec r s).mem = s.mem := rfl
@[simp] theorem raiseRec_home (r : EvRec) (s : State) : (raiseRec r s).home = s.home := rfl
@[simp] theorem raiseRec_seam (r : EvRec) (s : State) : (raiseRec r s).seam = s.seam := rfl
@[simp] theorem raiseRec_rbx (r : EvRec) (s : State) : (raiseRec r s).rbx = s.rbx := rfl
@[simp] theorem raiseRec_sch (r : EvRec) (s : State) : (raiseRec r s).sch = s.sch := rfl
@[simp] theorem raiseRec_pip (r : EvRec) (s : State) : (raiseRec r s).pip = s.pip := rfl
@[simp] theorem raiseRec_sec (r : EvRec) (s : State) : (raiseRec r s).sec = s.sec := rfl
@[simp] theorem raiseRec_err (r : EvRec) (s : State) : (raiseRec r s).err = s.err := rfl

/-! ### raise -/

@[simp] theorem raise_pending (die ev ctx slice a0 a1 a2 : Nat) (s : State) : (raise die ev ctx slice a0 a1 a2 s).pending = s.pending := rfl
@[simp] theorem raise_clk (die ev ctx slice a0 a1 a2 : Nat) (s : State) : (raise die ev ctx slice a0 a1 a2 s).clk = s.clk := rfl
@[simp] theorem raise_pwr (die ev ctx slice a0 a1 a2 : Nat) (s : State) : (raise die ev ctx slice a0 a1 a2 s).pwr = s.pwr := rfl
@[simp] theorem raise_pin (die ev ctx slice a0 a1 a2 : Nat) (s : State) : (raise die ev ctx slice a0 a1 a2 s).pin = s.pin := rfl
@[simp] theorem raise_pci (die ev ctx slice a0 a1 a2 : Nat) (s : State) : (raise die ev ctx slice a0 a1 a2 s).pci = s.pci := rfl
@[simp] theorem raise_host (die ev ctx slice a0 a1 a2 : Nat) (s : State) : (raise die ev ctx slice a0 a1 a2 s).host = s.host := rfl
@[simp] theorem raise_idr (die ev ctx slice a0 a1 a2 : Nat) (s : State) : (raise die ev ctx slice a0 a1 a2 s).idr = s.idr := rfl
@[simp] theorem raise_ten (die ev ctx slice a0 a1 a2 : Nat) (s : State) : (raise die ev ctx slice a0 a1 a2 s).ten = s.ten := rfl
@[simp] theorem raise_xt (die ev ctx slice a0 a1 a2 : Nat) (s : State) : (raise die ev ctx slice a0 a1 a2 s).xt = s.xt := rfl
@[simp] theorem raise_mem (die ev ctx slice a0 a1 a2 : Nat) (s : State) : (raise die ev ctx slice a0 a1 a2 s).mem = s.mem := rfl
@[simp] theorem raise_home (die ev ctx slice a0 a1 a2 : Nat) (s : State) : (raise die ev ctx slice a0 a1 a2 s).home = s.home := rfl
@[simp] theorem raise_seam (die ev ctx slice a0 a1 a2 : Nat) (s : State) : (raise die ev ctx slice a0 a1 a2 s).seam = s.seam := rfl
@[simp] theorem raise_rbx (die ev ctx slice a0 a1 a2 : Nat) (s : State) : (raise die ev ctx slice a0 a1 a2 s).rbx = s.rbx := rfl
@[simp] theorem raise_sch (die ev ctx slice a0 a1 a2 : Nat) (s : State) : (raise die ev ctx slice a0 a1 a2 s).sch = s.sch := rfl
@[simp] theorem raise_pip (die ev ctx slice a0 a1 a2 : Nat) (s : State) : (raise die ev ctx slice a0 a1 a2 s).pip = s.pip := rfl
@[simp] theorem raise_sec (die ev ctx slice a0 a1 a2 : Nat) (s : State) : (raise die ev ctx slice a0 a1 a2 s).sec = s.sec := rfl
@[simp] theorem raise_err (die ev ctx slice a0 a1 a2 : Nat) (s : State) : (raise die ev ctx slice a0 a1 a2 s).err = s.err := rfl

/-! ### raiseSlice -/

@[simp] theorem raiseSlice_pending (die ev ctx slice a0 a1 a2 : Nat) (s : State) : (raiseSlice die ev ctx slice a0 a1 a2 s).pending = s.pending := rfl
@[simp] theorem raiseSlice_clk (die ev ctx slice a0 a1 a2 : Nat) (s : State) : (raiseSlice die ev ctx slice a0 a1 a2 s).clk = s.clk := rfl
@[simp] theorem raiseSlice_pwr (die ev ctx slice a0 a1 a2 : Nat) (s : State) : (raiseSlice die ev ctx slice a0 a1 a2 s).pwr = s.pwr := rfl
@[simp] theorem raiseSlice_pin (die ev ctx slice a0 a1 a2 : Nat) (s : State) : (raiseSlice die ev ctx slice a0 a1 a2 s).pin = s.pin := rfl
@[simp] theorem raiseSlice_pci (die ev ctx slice a0 a1 a2 : Nat) (s : State) : (raiseSlice die ev ctx slice a0 a1 a2 s).pci = s.pci := rfl
@[simp] theorem raiseSlice_host (die ev ctx slice a0 a1 a2 : Nat) (s : State) : (raiseSlice die ev ctx slice a0 a1 a2 s).host = s.host := rfl
@[simp] theorem raiseSlice_idr (die ev ctx slice a0 a1 a2 : Nat) (s : State) : (raiseSlice die ev ctx slice a0 a1 a2 s).idr = s.idr := rfl
@[simp] theorem raiseSlice_ten (die ev ctx slice a0 a1 a2 : Nat) (s : State) : (raiseSlice die ev ctx slice a0 a1 a2 s).ten = s.ten := rfl
@[simp] theorem raiseSlice_xt (die ev ctx slice a0 a1 a2 : Nat) (s : State) : (raiseSlice die ev ctx slice a0 a1 a2 s).xt = s.xt := rfl
@[simp] theorem raiseSlice_mem (die ev ctx slice a0 a1 a2 : Nat) (s : State) : (raiseSlice die ev ctx slice a0 a1 a2 s).mem = s.mem := rfl
@[simp] theorem raiseSlice_home (die ev ctx slice a0 a1 a2 : Nat) (s : State) : (raiseSlice die ev ctx slice a0 a1 a2 s).home = s.home := rfl
@[simp] theorem raiseSlice_seam (die ev ctx slice a0 a1 a2 : Nat) (s : State) : (raiseSlice die ev ctx slice a0 a1 a2 s).seam = s.seam := rfl
@[simp] theorem raiseSlice_rbx (die ev ctx slice a0 a1 a2 : Nat) (s : State) : (raiseSlice die ev ctx slice a0 a1 a2 s).rbx = s.rbx := rfl
@[simp] theorem raiseSlice_sch (die ev ctx slice a0 a1 a2 : Nat) (s : State) : (raiseSlice die ev ctx slice a0 a1 a2 s).sch = s.sch := rfl
@[simp] theorem raiseSlice_pip (die ev ctx slice a0 a1 a2 : Nat) (s : State) : (raiseSlice die ev ctx slice a0 a1 a2 s).pip = s.pip := rfl
@[simp] theorem raiseSlice_sec (die ev ctx slice a0 a1 a2 : Nat) (s : State) : (raiseSlice die ev ctx slice a0 a1 a2 s).sec = s.sec := rfl
@[simp] theorem raiseSlice_err (die ev ctx slice a0 a1 a2 : Nat) (s : State) : (raiseSlice die ev ctx slice a0 a1 a2 s).err = s.err := rfl

/-! ### setSlice -/

@[simp] theorem setSlice_pending (n : Nat) (f : Slice → Slice) (s : State) : (setSlice n f s).pending = s.pending := rfl
@[simp] theorem setSlice_clk (n : Nat) (f : Slice → Slice) (s : State) : (setSlice n f s).clk = s.clk := rfl
@[simp] theorem setSlice_pwr (n : Nat) (f : Slice → Slice) (s : State) : (setSlice n f s).pwr = s.pwr := rfl
@[simp] theorem setSlice_pin (n : Nat) (f : Slice → Slice) (s : State) : (setSlice n f s).pin = s.pin := rfl
@[simp] theorem setSlice_pci (n : Nat) (f : Slice → Slice) (s : State) : (setSlice n f s).pci = s.pci := rfl
@[simp] theorem setSlice_host (n : Nat) (f : Slice → Slice) (s : State) : (setSlice n f s).host = s.host := rfl
@[simp] theorem setSlice_idr (n : Nat) (f : Slice → Slice) (s : State) : (setSlice n f s).idr = s.idr := rfl
@[simp] theorem setSlice_cmd (n : Nat) (f : Slice → Slice) (s : State) : (setSlice n f s).cmd = s.cmd := rfl
@[simp] theorem setSlice_xt (n : Nat) (f : Slice → Slice) (s : State) : (setSlice n f s).xt = s.xt := rfl
@[simp] theorem setSlice_mem (n : Nat) (f : Slice → Slice) (s : State) : (setSlice n f s).mem = s.mem := rfl
@[simp] theorem setSlice_home (n : Nat) (f : Slice → Slice) (s : State) : (setSlice n f s).home = s.home := rfl
@[simp] theorem setSlice_seam (n : Nat) (f : Slice → Slice) (s : State) : (setSlice n f s).seam = s.seam := rfl
@[simp] theorem setSlice_rbx (n : Nat) (f : Slice → Slice) (s : State) : (setSlice n f s).rbx = s.rbx := rfl
@[simp] theorem setSlice_sch (n : Nat) (f : Slice → Slice) (s : State) : (setSlice n f s).sch = s.sch := rfl
@[simp] theorem setSlice_pip (n : Nat) (f : Slice → Slice) (s : State) : (setSlice n f s).pip = s.pip := rfl
@[simp] theorem setSlice_sec (n : Nat) (f : Slice → Slice) (s : State) : (setSlice n f s).sec = s.sec := rfl
@[simp] theorem setSlice_err (n : Nat) (f : Slice → Slice) (s : State) : (setSlice n f s).err = s.err := rfl

/-! ### setStn -/

@[simp] theorem setStn_pending (n : Nat) (f : Stn → Stn) (s : State) : (setStn n f s).pending = s.pending := rfl
@[simp] theorem setStn_clk (n : Nat) (f : Stn → Stn) (s : State) : (setStn n f s).clk = s.clk := rfl
@[simp] theorem setStn_pwr (n : Nat) (f : Stn → Stn) (s : State) : (setStn n f s).pwr = s.pwr := rfl
@[simp] theorem setStn_pin (n : Nat) (f : Stn → Stn) (s : State) : (setStn n f s).pin = s.pin := rfl
@[simp] theorem setStn_pci (n : Nat) (f : Stn → Stn) (s : State) : (setStn n f s).pci = s.pci := rfl
@[simp] theorem setStn_host (n : Nat) (f : Stn → Stn) (s : State) : (setStn n f s).host = s.host := rfl
@[simp] theorem setStn_idr (n : Nat) (f : Stn → Stn) (s : State) : (setStn n f s).idr = s.idr := rfl
@[simp] theorem setStn_cmd (n : Nat) (f : Stn → Stn) (s : State) : (setStn n f s).cmd = s.cmd := rfl
@[simp] theorem setStn_ten (n : Nat) (f : Stn → Stn) (s : State) : (setStn n f s).ten = s.ten := rfl
@[simp] theorem setStn_xt (n : Nat) (f : Stn → Stn) (s : State) : (setStn n f s).xt = s.xt := rfl
@[simp] theorem setStn_mem (n : Nat) (f : Stn → Stn) (s : State) : (setStn n f s).mem = s.mem := rfl
@[simp] theorem setStn_home (n : Nat) (f : Stn → Stn) (s : State) : (setStn n f s).home = s.home := rfl
@[simp] theorem setStn_seam (n : Nat) (f : Stn → Stn) (s : State) : (setStn n f s).seam = s.seam := rfl
@[simp] theorem setStn_rbx (n : Nat) (f : Stn → Stn) (s : State) : (setStn n f s).rbx = s.rbx := rfl
@[simp] theorem setStn_pip (n : Nat) (f : Stn → Stn) (s : State) : (setStn n f s).pip = s.pip := rfl
@[simp] theorem setStn_sec (n : Nat) (f : Stn → Stn) (s : State) : (setStn n f s).sec = s.sec := rfl
@[simp] theorem setStn_err (n : Nat) (f : Stn → Stn) (s : State) : (setStn n f s).err = s.err := rfl

/-! ### setWork -/

@[simp] theorem setWork_pending (n i : Nat) (f : Work → Work) (s : State) : (setWork n i f s).pending = s.pending := rfl
@[simp] theorem setWork_clk (n i : Nat) (f : Work → Work) (s : State) : (setWork n i f s).clk = s.clk := rfl
@[simp] theorem setWork_pwr (n i : Nat) (f : Work → Work) (s : State) : (setWork n i f s).pwr = s.pwr := rfl
@[simp] theorem setWork_pin (n i : Nat) (f : Work → Work) (s : State) : (setWork n i f s).pin = s.pin := rfl
@[simp] theorem setWork_pci (n i : Nat) (f : Work → Work) (s : State) : (setWork n i f s).pci = s.pci := rfl
@[simp] theorem setWork_host (n i : Nat) (f : Work → Work) (s : State) : (setWork n i f s).host = s.host := rfl
@[simp] theorem setWork_idr (n i : Nat) (f : Work → Work) (s : State) : (setWork n i f s).idr = s.idr := rfl
@[simp] theorem setWork_cmd (n i : Nat) (f : Work → Work) (s : State) : (setWork n i f s).cmd = s.cmd := rfl
@[simp] theorem setWork_ten (n i : Nat) (f : Work → Work) (s : State) : (setWork n i f s).ten = s.ten := rfl
@[simp] theorem setWork_xt (n i : Nat) (f : Work → Work) (s : State) : (setWork n i f s).xt = s.xt := rfl
@[simp] theorem setWork_mem (n i : Nat) (f : Work → Work) (s : State) : (setWork n i f s).mem = s.mem := rfl
@[simp] theorem setWork_home (n i : Nat) (f : Work → Work) (s : State) : (setWork n i f s).home = s.home := rfl
@[simp] theorem setWork_seam (n i : Nat) (f : Work → Work) (s : State) : (setWork n i f s).seam = s.seam := rfl
@[simp] theorem setWork_rbx (n i : Nat) (f : Work → Work) (s : State) : (setWork n i f s).rbx = s.rbx := rfl
@[simp] theorem setWork_pip (n i : Nat) (f : Work → Work) (s : State) : (setWork n i f s).pip = s.pip := rfl
@[simp] theorem setWork_sec (n i : Nat) (f : Work → Work) (s : State) : (setWork n i f s).sec = s.sec := rfl
@[simp] theorem setWork_err (n i : Nat) (f : Work → Work) (s : State) : (setWork n i f s).err = s.err := rfl

/-! ### setRg -/

@[simp] theorem setRg_pending (n : Nat) (f : RgSt → RgSt) (s : State) : (setRg n f s).pending = s.pending := rfl
@[simp] theorem setRg_clk (n : Nat) (f : RgSt → RgSt) (s : State) : (setRg n f s).clk = s.clk := rfl
@[simp] theorem setRg_pwr (n : Nat) (f : RgSt → RgSt) (s : State) : (setRg n f s).pwr = s.pwr := rfl
@[simp] theorem setRg_pin (n : Nat) (f : RgSt → RgSt) (s : State) : (setRg n f s).pin = s.pin := rfl
@[simp] theorem setRg_pci (n : Nat) (f : RgSt → RgSt) (s : State) : (setRg n f s).pci = s.pci := rfl
@[simp] theorem setRg_host (n : Nat) (f : RgSt → RgSt) (s : State) : (setRg n f s).host = s.host := rfl
@[simp] theorem setRg_idr (n : Nat) (f : RgSt → RgSt) (s : State) : (setRg n f s).idr = s.idr := rfl
@[simp] theorem setRg_cmd (n : Nat) (f : RgSt → RgSt) (s : State) : (setRg n f s).cmd = s.cmd := rfl
@[simp] theorem setRg_ten (n : Nat) (f : RgSt → RgSt) (s : State) : (setRg n f s).ten = s.ten := rfl
@[simp] theorem setRg_xt (n : Nat) (f : RgSt → RgSt) (s : State) : (setRg n f s).xt = s.xt := rfl
@[simp] theorem setRg_mem (n : Nat) (f : RgSt → RgSt) (s : State) : (setRg n f s).mem = s.mem := rfl
@[simp] theorem setRg_home (n : Nat) (f : RgSt → RgSt) (s : State) : (setRg n f s).home = s.home := rfl
@[simp] theorem setRg_seam (n : Nat) (f : RgSt → RgSt) (s : State) : (setRg n f s).seam = s.seam := rfl
@[simp] theorem setRg_rbx (n : Nat) (f : RgSt → RgSt) (s : State) : (setRg n f s).rbx = s.rbx := rfl
@[simp] theorem setRg_pip (n : Nat) (f : RgSt → RgSt) (s : State) : (setRg n f s).pip = s.pip := rfl
@[simp] theorem setRg_sec (n : Nat) (f : RgSt → RgSt) (s : State) : (setRg n f s).sec = s.sec := rfl
@[simp] theorem setRg_err (n : Nat) (f : RgSt → RgSt) (s : State) : (setRg n f s).err = s.err := rfl

/-! ### setGrp -/

@[simp] theorem setGrp_pending (n g : Nat) (f : GroupSt → GroupSt) (s : State) : (setGrp n g f s).pending = s.pending := rfl
@[simp] theorem setGrp_clk (n g : Nat) (f : GroupSt → GroupSt) (s : State) : (setGrp n g f s).clk = s.clk := rfl
@[simp] theorem setGrp_pwr (n g : Nat) (f : GroupSt → GroupSt) (s : State) : (setGrp n g f s).pwr = s.pwr := rfl
@[simp] theorem setGrp_pin (n g : Nat) (f : GroupSt → GroupSt) (s : State) : (setGrp n g f s).pin = s.pin := rfl
@[simp] theorem setGrp_pci (n g : Nat) (f : GroupSt → GroupSt) (s : State) : (setGrp n g f s).pci = s.pci := rfl
@[simp] theorem setGrp_host (n g : Nat) (f : GroupSt → GroupSt) (s : State) : (setGrp n g f s).host = s.host := rfl
@[simp] theorem setGrp_idr (n g : Nat) (f : GroupSt → GroupSt) (s : State) : (setGrp n g f s).idr = s.idr := rfl
@[simp] theorem setGrp_cmd (n g : Nat) (f : GroupSt → GroupSt) (s : State) : (setGrp n g f s).cmd = s.cmd := rfl
@[simp] theorem setGrp_ten (n g : Nat) (f : GroupSt → GroupSt) (s : State) : (setGrp n g f s).ten = s.ten := rfl
@[simp] theorem setGrp_xt (n g : Nat) (f : GroupSt → GroupSt) (s : State) : (setGrp n g f s).xt = s.xt := rfl
@[simp] theorem setGrp_mem (n g : Nat) (f : GroupSt → GroupSt) (s : State) : (setGrp n g f s).mem = s.mem := rfl
@[simp] theorem setGrp_home (n g : Nat) (f : GroupSt → GroupSt) (s : State) : (setGrp n g f s).home = s.home := rfl
@[simp] theorem setGrp_seam (n g : Nat) (f : GroupSt → GroupSt) (s : State) : (setGrp n g f s).seam = s.seam := rfl
@[simp] theorem setGrp_rbx (n g : Nat) (f : GroupSt → GroupSt) (s : State) : (setGrp n g f s).rbx = s.rbx := rfl
@[simp] theorem setGrp_pip (n g : Nat) (f : GroupSt → GroupSt) (s : State) : (setGrp n g f s).pip = s.pip := rfl
@[simp] theorem setGrp_sec (n g : Nat) (f : GroupSt → GroupSt) (s : State) : (setGrp n g f s).sec = s.sec := rfl
@[simp] theorem setGrp_err (n g : Nat) (f : GroupSt → GroupSt) (s : State) : (setGrp n g f s).err = s.err := rfl

/-! ### putGrp -/

@[simp] theorem putGrp_pending (u : Grp) (y : GroupSt) (s : State) : (putGrp u y s).pending = s.pending := rfl
@[simp] theorem putGrp_clk (u : Grp) (y : GroupSt) (s : State) : (putGrp u y s).clk = s.clk := rfl
@[simp] theorem putGrp_pwr (u : Grp) (y : GroupSt) (s : State) : (putGrp u y s).pwr = s.pwr := rfl
@[simp] theorem putGrp_pin (u : Grp) (y : GroupSt) (s : State) : (putGrp u y s).pin = s.pin := rfl
@[simp] theorem putGrp_pci (u : Grp) (y : GroupSt) (s : State) : (putGrp u y s).pci = s.pci := rfl
@[simp] theorem putGrp_host (u : Grp) (y : GroupSt) (s : State) : (putGrp u y s).host = s.host := rfl
@[simp] theorem putGrp_idr (u : Grp) (y : GroupSt) (s : State) : (putGrp u y s).idr = s.idr := rfl
@[simp] theorem putGrp_cmd (u : Grp) (y : GroupSt) (s : State) : (putGrp u y s).cmd = s.cmd := rfl
@[simp] theorem putGrp_ten (u : Grp) (y : GroupSt) (s : State) : (putGrp u y s).ten = s.ten := rfl
@[simp] theorem putGrp_xt (u : Grp) (y : GroupSt) (s : State) : (putGrp u y s).xt = s.xt := rfl
@[simp] theorem putGrp_mem (u : Grp) (y : GroupSt) (s : State) : (putGrp u y s).mem = s.mem := rfl
@[simp] theorem putGrp_home (u : Grp) (y : GroupSt) (s : State) : (putGrp u y s).home = s.home := rfl
@[simp] theorem putGrp_seam (u : Grp) (y : GroupSt) (s : State) : (putGrp u y s).seam = s.seam := rfl
@[simp] theorem putGrp_rbx (u : Grp) (y : GroupSt) (s : State) : (putGrp u y s).rbx = s.rbx := rfl
@[simp] theorem putGrp_pip (u : Grp) (y : GroupSt) (s : State) : (putGrp u y s).pip = s.pip := rfl
@[simp] theorem putGrp_sec (u : Grp) (y : GroupSt) (s : State) : (putGrp u y s).sec = s.sec := rfl
@[simp] theorem putGrp_err (u : Grp) (y : GroupSt) (s : State) : (putGrp u y s).err = s.err := rfl

/-! ### setLock -/

@[simp] theorem setLock_pending (n k : Nat) (v : Option Nat × List Nat) (s : State) : (setLock n k v s).pending = s.pending := rfl
@[simp] theorem setLock_clk (n k : Nat) (v : Option Nat × List Nat) (s : State) : (setLock n k v s).clk = s.clk := rfl
@[simp] theorem setLock_pwr (n k : Nat) (v : Option Nat × List Nat) (s : State) : (setLock n k v s).pwr = s.pwr := rfl
@[simp] theorem setLock_pin (n k : Nat) (v : Option Nat × List Nat) (s : State) : (setLock n k v s).pin = s.pin := rfl
@[simp] theorem setLock_pci (n k : Nat) (v : Option Nat × List Nat) (s : State) : (setLock n k v s).pci = s.pci := rfl
@[simp] theorem setLock_host (n k : Nat) (v : Option Nat × List Nat) (s : State) : (setLock n k v s).host = s.host := rfl
@[simp] theorem setLock_idr (n k : Nat) (v : Option Nat × List Nat) (s : State) : (setLock n k v s).idr = s.idr := rfl
@[simp] theorem setLock_cmd (n k : Nat) (v : Option Nat × List Nat) (s : State) : (setLock n k v s).cmd = s.cmd := rfl
@[simp] theorem setLock_ten (n k : Nat) (v : Option Nat × List Nat) (s : State) : (setLock n k v s).ten = s.ten := rfl
@[simp] theorem setLock_xt (n k : Nat) (v : Option Nat × List Nat) (s : State) : (setLock n k v s).xt = s.xt := rfl
@[simp] theorem setLock_mem (n k : Nat) (v : Option Nat × List Nat) (s : State) : (setLock n k v s).mem = s.mem := rfl
@[simp] theorem setLock_home (n k : Nat) (v : Option Nat × List Nat) (s : State) : (setLock n k v s).home = s.home := rfl
@[simp] theorem setLock_seam (n k : Nat) (v : Option Nat × List Nat) (s : State) : (setLock n k v s).seam = s.seam := rfl
@[simp] theorem setLock_rbx (n k : Nat) (v : Option Nat × List Nat) (s : State) : (setLock n k v s).rbx = s.rbx := rfl
@[simp] theorem setLock_pip (n k : Nat) (v : Option Nat × List Nat) (s : State) : (setLock n k v s).pip = s.pip := rfl
@[simp] theorem setLock_sec (n k : Nat) (v : Option Nat × List Nat) (s : State) : (setLock n k v s).sec = s.sec := rfl
@[simp] theorem setLock_err (n k : Nat) (v : Option Nat × List Nat) (s : State) : (setLock n k v s).err = s.err := rfl

/-! ### setLaunch -/

@[simp] theorem setLaunch_pending (k : Nat) (f : Launch → Launch) (s : State) : (setLaunch k f s).pending = s.pending := rfl
@[simp] theorem setLaunch_clk (k : Nat) (f : Launch → Launch) (s : State) : (setLaunch k f s).clk = s.clk := rfl
@[simp] theorem setLaunch_pwr (k : Nat) (f : Launch → Launch) (s : State) : (setLaunch k f s).pwr = s.pwr := rfl
@[simp] theorem setLaunch_pin (k : Nat) (f : Launch → Launch) (s : State) : (setLaunch k f s).pin = s.pin := rfl
@[simp] theorem setLaunch_pci (k : Nat) (f : Launch → Launch) (s : State) : (setLaunch k f s).pci = s.pci := rfl
@[simp] theorem setLaunch_host (k : Nat) (f : Launch → Launch) (s : State) : (setLaunch k f s).host = s.host := rfl
@[simp] theorem setLaunch_idr (k : Nat) (f : Launch → Launch) (s : State) : (setLaunch k f s).idr = s.idr := rfl
@[simp] theorem setLaunch_cmd (k : Nat) (f : Launch → Launch) (s : State) : (setLaunch k f s).cmd = s.cmd := rfl
@[simp] theorem setLaunch_ten (k : Nat) (f : Launch → Launch) (s : State) : (setLaunch k f s).ten = s.ten := rfl
@[simp] theorem setLaunch_xt (k : Nat) (f : Launch → Launch) (s : State) : (setLaunch k f s).xt = s.xt := rfl
@[simp] theorem setLaunch_mem (k : Nat) (f : Launch → Launch) (s : State) : (setLaunch k f s).mem = s.mem := rfl
@[simp] theorem setLaunch_home (k : Nat) (f : Launch → Launch) (s : State) : (setLaunch k f s).home = s.home := rfl
@[simp] theorem setLaunch_seam (k : Nat) (f : Launch → Launch) (s : State) : (setLaunch k f s).seam = s.seam := rfl
@[simp] theorem setLaunch_rbx (k : Nat) (f : Launch → Launch) (s : State) : (setLaunch k f s).rbx = s.rbx := rfl
@[simp] theorem setLaunch_pip (k : Nat) (f : Launch → Launch) (s : State) : (setLaunch k f s).pip = s.pip := rfl
@[simp] theorem setLaunch_sec (k : Nat) (f : Launch → Launch) (s : State) : (setLaunch k f s).sec = s.sec := rfl
@[simp] theorem setLaunch_err (k : Nat) (f : Launch → Launch) (s : State) : (setLaunch k f s).err = s.err := rfl

/-! ### setInst -/

@[simp] theorem setInst_pending (k i : Nat) (f : Inst → Inst) (s : State) : (setInst k i f s).pending = s.pending := rfl
@[simp] theorem setInst_clk (k i : Nat) (f : Inst → Inst) (s : State) : (setInst k i f s).clk = s.clk := rfl
@[simp] theorem setInst_pwr (k i : Nat) (f : Inst → Inst) (s : State) : (setInst k i f s).pwr = s.pwr := rfl
@[simp] theorem setInst_pin (k i : Nat) (f : Inst → Inst) (s : State) : (setInst k i f s).pin = s.pin := rfl
@[simp] theorem setInst_pci (k i : Nat) (f : Inst → Inst) (s : State) : (setInst k i f s).pci = s.pci := rfl
@[simp] theorem setInst_host (k i : Nat) (f : Inst → Inst) (s : State) : (setInst k i f s).host = s.host := rfl
@[simp] theorem setInst_idr (k i : Nat) (f : Inst → Inst) (s : State) : (setInst k i f s).idr = s.idr := rfl
@[simp] theorem setInst_cmd (k i : Nat) (f : Inst → Inst) (s : State) : (setInst k i f s).cmd = s.cmd := rfl
@[simp] theorem setInst_ten (k i : Nat) (f : Inst → Inst) (s : State) : (setInst k i f s).ten = s.ten := rfl
@[simp] theorem setInst_xt (k i : Nat) (f : Inst → Inst) (s : State) : (setInst k i f s).xt = s.xt := rfl
@[simp] theorem setInst_mem (k i : Nat) (f : Inst → Inst) (s : State) : (setInst k i f s).mem = s.mem := rfl
@[simp] theorem setInst_home (k i : Nat) (f : Inst → Inst) (s : State) : (setInst k i f s).home = s.home := rfl
@[simp] theorem setInst_seam (k i : Nat) (f : Inst → Inst) (s : State) : (setInst k i f s).seam = s.seam := rfl
@[simp] theorem setInst_rbx (k i : Nat) (f : Inst → Inst) (s : State) : (setInst k i f s).rbx = s.rbx := rfl
@[simp] theorem setInst_pip (k i : Nat) (f : Inst → Inst) (s : State) : (setInst k i f s).pip = s.pip := rfl
@[simp] theorem setInst_sec (k i : Nat) (f : Inst → Inst) (s : State) : (setInst k i f s).sec = s.sec := rfl
@[simp] theorem setInst_err (k i : Nat) (f : Inst → Inst) (s : State) : (setInst k i f s).err = s.err := rfl

/-! ### setCru -/

@[simp] theorem setCru_pending (k : Nat) (f : Cru → Cru) (s : State) : (setCru k f s).pending = s.pending := rfl
@[simp] theorem setCru_clk (k : Nat) (f : Cru → Cru) (s : State) : (setCru k f s).clk = s.clk := rfl
@[simp] theorem setCru_pwr (k : Nat) (f : Cru → Cru) (s : State) : (setCru k f s).pwr = s.pwr := rfl
@[simp] theorem setCru_pin (k : Nat) (f : Cru → Cru) (s : State) : (setCru k f s).pin = s.pin := rfl
@[simp] theorem setCru_pci (k : Nat) (f : Cru → Cru) (s : State) : (setCru k f s).pci = s.pci := rfl
@[simp] theorem setCru_host (k : Nat) (f : Cru → Cru) (s : State) : (setCru k f s).host = s.host := rfl
@[simp] theorem setCru_idr (k : Nat) (f : Cru → Cru) (s : State) : (setCru k f s).idr = s.idr := rfl
@[simp] theorem setCru_cmd (k : Nat) (f : Cru → Cru) (s : State) : (setCru k f s).cmd = s.cmd := rfl
@[simp] theorem setCru_ten (k : Nat) (f : Cru → Cru) (s : State) : (setCru k f s).ten = s.ten := rfl
@[simp] theorem setCru_xt (k : Nat) (f : Cru → Cru) (s : State) : (setCru k f s).xt = s.xt := rfl
@[simp] theorem setCru_mem (k : Nat) (f : Cru → Cru) (s : State) : (setCru k f s).mem = s.mem := rfl
@[simp] theorem setCru_seam (k : Nat) (f : Cru → Cru) (s : State) : (setCru k f s).seam = s.seam := rfl
@[simp] theorem setCru_rbx (k : Nat) (f : Cru → Cru) (s : State) : (setCru k f s).rbx = s.rbx := rfl
@[simp] theorem setCru_sch (k : Nat) (f : Cru → Cru) (s : State) : (setCru k f s).sch = s.sch := rfl
@[simp] theorem setCru_pip (k : Nat) (f : Cru → Cru) (s : State) : (setCru k f s).pip = s.pip := rfl
@[simp] theorem setCru_sec (k : Nat) (f : Cru → Cru) (s : State) : (setCru k f s).sec = s.sec := rfl
@[simp] theorem setCru_err (k : Nat) (f : Cru → Cru) (s : State) : (setCru k f s).err = s.err := rfl

/-! ### setLine -/

@[simp] theorem setLine_pending (key : Nat) (f : HLine → HLine) (s : State) : (setLine key f s).pending = s.pending := rfl
@[simp] theorem setLine_clk (key : Nat) (f : HLine → HLine) (s : State) : (setLine key f s).clk = s.clk := rfl
@[simp] theorem setLine_pwr (key : Nat) (f : HLine → HLine) (s : State) : (setLine key f s).pwr = s.pwr := rfl
@[simp] theorem setLine_pin (key : Nat) (f : HLine → HLine) (s : State) : (setLine key f s).pin = s.pin := rfl
@[simp] theorem setLine_pci (key : Nat) (f : HLine → HLine) (s : State) : (setLine key f s).pci = s.pci := rfl
@[simp] theorem setLine_host (key : Nat) (f : HLine → HLine) (s : State) : (setLine key f s).host = s.host := rfl
@[simp] theorem setLine_idr (key : Nat) (f : HLine → HLine) (s : State) : (setLine key f s).idr = s.idr := rfl
@[simp] theorem setLine_cmd (key : Nat) (f : HLine → HLine) (s : State) : (setLine key f s).cmd = s.cmd := rfl
@[simp] theorem setLine_ten (key : Nat) (f : HLine → HLine) (s : State) : (setLine key f s).ten = s.ten := rfl
@[simp] theorem setLine_xt (key : Nat) (f : HLine → HLine) (s : State) : (setLine key f s).xt = s.xt := rfl
@[simp] theorem setLine_mem (key : Nat) (f : HLine → HLine) (s : State) : (setLine key f s).mem = s.mem := rfl
@[simp] theorem setLine_seam (key : Nat) (f : HLine → HLine) (s : State) : (setLine key f s).seam = s.seam := rfl
@[simp] theorem setLine_rbx (key : Nat) (f : HLine → HLine) (s : State) : (setLine key f s).rbx = s.rbx := rfl
@[simp] theorem setLine_sch (key : Nat) (f : HLine → HLine) (s : State) : (setLine key f s).sch = s.sch := rfl
@[simp] theorem setLine_pip (key : Nat) (f : HLine → HLine) (s : State) : (setLine key f s).pip = s.pip := rfl
@[simp] theorem setLine_sec (key : Nat) (f : HLine → HLine) (s : State) : (setLine key f s).sec = s.sec := rfl
@[simp] theorem setLine_err (key : Nat) (f : HLine → HLine) (s : State) : (setLine key f s).err = s.err := rfl

/-! ### sendMsg -/

@[simp] theorem sendMsg_pending (m : Msg) (s : State) : (sendMsg m s).pending = s.pending := rfl
@[simp] theorem sendMsg_clk (m : Msg) (s : State) : (sendMsg m s).clk = s.clk := rfl
@[simp] theorem sendMsg_pwr (m : Msg) (s : State) : (sendMsg m s).pwr = s.pwr := rfl
@[simp] theorem sendMsg_pin (m : Msg) (s : State) : (sendMsg m s).pin = s.pin := rfl
@[simp] theorem sendMsg_pci (m : Msg) (s : State) : (sendMsg m s).pci = s.pci := rfl
@[simp] theorem sendMsg_host (m : Msg) (s : State) : (sendMsg m s).host = s.host := rfl
@[simp] theorem sendMsg_idr (m : Msg) (s : State) : (sendMsg m s).idr = s.idr := rfl
@[simp] theorem sendMsg_cmd (m : Msg) (s : State) : (sendMsg m s).cmd = s.cmd := rfl
@[simp] theorem sendMsg_ten (m : Msg) (s : State) : (sendMsg m s).ten = s.ten := rfl
@[simp] theorem sendMsg_xt (m : Msg) (s : State) : (sendMsg m s).xt = s.xt := rfl
@[simp] theorem sendMsg_mem (m : Msg) (s : State) : (sendMsg m s).mem = s.mem := rfl
@[simp] theorem sendMsg_seam (m : Msg) (s : State) : (sendMsg m s).seam = s.seam := rfl
@[simp] theorem sendMsg_rbx (m : Msg) (s : State) : (sendMsg m s).rbx = s.rbx := rfl
@[simp] theorem sendMsg_sch (m : Msg) (s : State) : (sendMsg m s).sch = s.sch := rfl
@[simp] theorem sendMsg_pip (m : Msg) (s : State) : (sendMsg m s).pip = s.pip := rfl
@[simp] theorem sendMsg_sec (m : Msg) (s : State) : (sendMsg m s).sec = s.sec := rfl
@[simp] theorem sendMsg_err (m : Msg) (s : State) : (sendMsg m s).err = s.err := rfl

/-! ### putLine -/

@[simp] theorem putLine_pending (k line mask : Nat) (data : List Byte) (s : State) : (putLine k line mask data s).pending = s.pending := rfl
@[simp] theorem putLine_clk (k line mask : Nat) (data : List Byte) (s : State) : (putLine k line mask data s).clk = s.clk := rfl
@[simp] theorem putLine_pwr (k line mask : Nat) (data : List Byte) (s : State) : (putLine k line mask data s).pwr = s.pwr := rfl
@[simp] theorem putLine_pin (k line mask : Nat) (data : List Byte) (s : State) : (putLine k line mask data s).pin = s.pin := rfl
@[simp] theorem putLine_pci (k line mask : Nat) (data : List Byte) (s : State) : (putLine k line mask data s).pci = s.pci := rfl
@[simp] theorem putLine_host (k line mask : Nat) (data : List Byte) (s : State) : (putLine k line mask data s).host = s.host := rfl
@[simp] theorem putLine_idr (k line mask : Nat) (data : List Byte) (s : State) : (putLine k line mask data s).idr = s.idr := rfl
@[simp] theorem putLine_cmd (k line mask : Nat) (data : List Byte) (s : State) : (putLine k line mask data s).cmd = s.cmd := rfl
@[simp] theorem putLine_ten (k line mask : Nat) (data : List Byte) (s : State) : (putLine k line mask data s).ten = s.ten := rfl
@[simp] theorem putLine_xt (k line mask : Nat) (data : List Byte) (s : State) : (putLine k line mask data s).xt = s.xt := rfl
@[simp] theorem putLine_home (k line mask : Nat) (data : List Byte) (s : State) : (putLine k line mask data s).home = s.home := rfl
@[simp] theorem putLine_seam (k line mask : Nat) (data : List Byte) (s : State) : (putLine k line mask data s).seam = s.seam := rfl
@[simp] theorem putLine_rbx (k line mask : Nat) (data : List Byte) (s : State) : (putLine k line mask data s).rbx = s.rbx := rfl
@[simp] theorem putLine_sch (k line mask : Nat) (data : List Byte) (s : State) : (putLine k line mask data s).sch = s.sch := rfl
@[simp] theorem putLine_pip (k line mask : Nat) (data : List Byte) (s : State) : (putLine k line mask data s).pip = s.pip := rfl
@[simp] theorem putLine_sec (k line mask : Nat) (data : List Byte) (s : State) : (putLine k line mask data s).sec = s.sec := rfl
@[simp] theorem putLine_err (k line mask : Nat) (data : List Byte) (s : State) : (putLine k line mask data s).err = s.err := rfl

/-! ### zeroGran -/

@[simp] theorem zeroGran_pending (k g : Nat) (s : State) : (zeroGran k g s).pending = s.pending := rfl
@[simp] theorem zeroGran_clk (k g : Nat) (s : State) : (zeroGran k g s).clk = s.clk := rfl
@[simp] theorem zeroGran_pwr (k g : Nat) (s : State) : (zeroGran k g s).pwr = s.pwr := rfl
@[simp] theorem zeroGran_pin (k g : Nat) (s : State) : (zeroGran k g s).pin = s.pin := rfl
@[simp] theorem zeroGran_pci (k g : Nat) (s : State) : (zeroGran k g s).pci = s.pci := rfl
@[simp] theorem zeroGran_host (k g : Nat) (s : State) : (zeroGran k g s).host = s.host := rfl
@[simp] theorem zeroGran_idr (k g : Nat) (s : State) : (zeroGran k g s).idr = s.idr := rfl
@[simp] theorem zeroGran_cmd (k g : Nat) (s : State) : (zeroGran k g s).cmd = s.cmd := rfl
@[simp] theorem zeroGran_ten (k g : Nat) (s : State) : (zeroGran k g s).ten = s.ten := rfl
@[simp] theorem zeroGran_xt (k g : Nat) (s : State) : (zeroGran k g s).xt = s.xt := rfl
@[simp] theorem zeroGran_home (k g : Nat) (s : State) : (zeroGran k g s).home = s.home := rfl
@[simp] theorem zeroGran_seam (k g : Nat) (s : State) : (zeroGran k g s).seam = s.seam := rfl
@[simp] theorem zeroGran_rbx (k g : Nat) (s : State) : (zeroGran k g s).rbx = s.rbx := rfl
@[simp] theorem zeroGran_sch (k g : Nat) (s : State) : (zeroGran k g s).sch = s.sch := rfl
@[simp] theorem zeroGran_pip (k g : Nat) (s : State) : (zeroGran k g s).pip = s.pip := rfl
@[simp] theorem zeroGran_sec (k g : Nat) (s : State) : (zeroGran k g s).sec = s.sec := rfl
@[simp] theorem zeroGran_err (k g : Nat) (s : State) : (zeroGran k g s).err = s.err := rfl

/-! ### setBundle -/

@[simp] theorem setBundle_pending (l b : Nat) (f : Bundle → Bundle) (s : State) : (setBundle l b f s).pending = s.pending := rfl
@[simp] theorem setBundle_clk (l b : Nat) (f : Bundle → Bundle) (s : State) : (setBundle l b f s).clk = s.clk := rfl
@[simp] theorem setBundle_pwr (l b : Nat) (f : Bundle → Bundle) (s : State) : (setBundle l b f s).pwr = s.pwr := rfl
@[simp] theorem setBundle_pin (l b : Nat) (f : Bundle → Bundle) (s : State) : (setBundle l b f s).pin = s.pin := rfl
@[simp] theorem setBundle_pci (l b : Nat) (f : Bundle → Bundle) (s : State) : (setBundle l b f s).pci = s.pci := rfl
@[simp] theorem setBundle_host (l b : Nat) (f : Bundle → Bundle) (s : State) : (setBundle l b f s).host = s.host := rfl
@[simp] theorem setBundle_idr (l b : Nat) (f : Bundle → Bundle) (s : State) : (setBundle l b f s).idr = s.idr := rfl
@[simp] theorem setBundle_cmd (l b : Nat) (f : Bundle → Bundle) (s : State) : (setBundle l b f s).cmd = s.cmd := rfl
@[simp] theorem setBundle_ten (l b : Nat) (f : Bundle → Bundle) (s : State) : (setBundle l b f s).ten = s.ten := rfl
@[simp] theorem setBundle_xt (l b : Nat) (f : Bundle → Bundle) (s : State) : (setBundle l b f s).xt = s.xt := rfl
@[simp] theorem setBundle_mem (l b : Nat) (f : Bundle → Bundle) (s : State) : (setBundle l b f s).mem = s.mem := rfl
@[simp] theorem setBundle_home (l b : Nat) (f : Bundle → Bundle) (s : State) : (setBundle l b f s).home = s.home := rfl
@[simp] theorem setBundle_rbx (l b : Nat) (f : Bundle → Bundle) (s : State) : (setBundle l b f s).rbx = s.rbx := rfl
@[simp] theorem setBundle_sch (l b : Nat) (f : Bundle → Bundle) (s : State) : (setBundle l b f s).sch = s.sch := rfl
@[simp] theorem setBundle_pip (l b : Nat) (f : Bundle → Bundle) (s : State) : (setBundle l b f s).pip = s.pip := rfl
@[simp] theorem setBundle_sec (l b : Nat) (f : Bundle → Bundle) (s : State) : (setBundle l b f s).sec = s.sec := rfl
@[simp] theorem setBundle_err (l b : Nat) (f : Bundle → Bundle) (s : State) : (setBundle l b f s).err = s.err := rfl

/-! ### setPort -/

@[simp] theorem setPort_pending (p : Nat) (f : RPort → RPort) (s : State) : (setPort p f s).pending = s.pending := rfl
@[simp] theorem setPort_clk (p : Nat) (f : RPort → RPort) (s : State) : (setPort p f s).clk = s.clk := rfl
@[simp] theorem setPort_pwr (p : Nat) (f : RPort → RPort) (s : State) : (setPort p f s).pwr = s.pwr := rfl
@[simp] theorem setPort_pin (p : Nat) (f : RPort → RPort) (s : State) : (setPort p f s).pin = s.pin := rfl
@[simp] theorem setPort_pci (p : Nat) (f : RPort → RPort) (s : State) : (setPort p f s).pci = s.pci := rfl
@[simp] theorem setPort_host (p : Nat) (f : RPort → RPort) (s : State) : (setPort p f s).host = s.host := rfl
@[simp] theorem setPort_idr (p : Nat) (f : RPort → RPort) (s : State) : (setPort p f s).idr = s.idr := rfl
@[simp] theorem setPort_cmd (p : Nat) (f : RPort → RPort) (s : State) : (setPort p f s).cmd = s.cmd := rfl
@[simp] theorem setPort_ten (p : Nat) (f : RPort → RPort) (s : State) : (setPort p f s).ten = s.ten := rfl
@[simp] theorem setPort_xt (p : Nat) (f : RPort → RPort) (s : State) : (setPort p f s).xt = s.xt := rfl
@[simp] theorem setPort_mem (p : Nat) (f : RPort → RPort) (s : State) : (setPort p f s).mem = s.mem := rfl
@[simp] theorem setPort_home (p : Nat) (f : RPort → RPort) (s : State) : (setPort p f s).home = s.home := rfl
@[simp] theorem setPort_seam (p : Nat) (f : RPort → RPort) (s : State) : (setPort p f s).seam = s.seam := rfl
@[simp] theorem setPort_sch (p : Nat) (f : RPort → RPort) (s : State) : (setPort p f s).sch = s.sch := rfl
@[simp] theorem setPort_pip (p : Nat) (f : RPort → RPort) (s : State) : (setPort p f s).pip = s.pip := rfl
@[simp] theorem setPort_sec (p : Nat) (f : RPort → RPort) (s : State) : (setPort p f s).sec = s.sec := rfl
@[simp] theorem setPort_err (p : Nat) (f : RPort → RPort) (s : State) : (setPort p f s).err = s.err := rfl

/-! ### setPlan -/

@[simp] theorem setPlan_pending (k : Nat) (f : Plan → Plan) (s : State) : (setPlan k f s).pending = s.pending := rfl
@[simp] theorem setPlan_clk (k : Nat) (f : Plan → Plan) (s : State) : (setPlan k f s).clk = s.clk := rfl
@[simp] theorem setPlan_pwr (k : Nat) (f : Plan → Plan) (s : State) : (setPlan k f s).pwr = s.pwr := rfl
@[simp] theorem setPlan_pin (k : Nat) (f : Plan → Plan) (s : State) : (setPlan k f s).pin = s.pin := rfl
@[simp] theorem setPlan_pci (k : Nat) (f : Plan → Plan) (s : State) : (setPlan k f s).pci = s.pci := rfl
@[simp] theorem setPlan_host (k : Nat) (f : Plan → Plan) (s : State) : (setPlan k f s).host = s.host := rfl
@[simp] theorem setPlan_idr (k : Nat) (f : Plan → Plan) (s : State) : (setPlan k f s).idr = s.idr := rfl
@[simp] theorem setPlan_cmd (k : Nat) (f : Plan → Plan) (s : State) : (setPlan k f s).cmd = s.cmd := rfl
@[simp] theorem setPlan_ten (k : Nat) (f : Plan → Plan) (s : State) : (setPlan k f s).ten = s.ten := rfl
@[simp] theorem setPlan_xt (k : Nat) (f : Plan → Plan) (s : State) : (setPlan k f s).xt = s.xt := rfl
@[simp] theorem setPlan_mem (k : Nat) (f : Plan → Plan) (s : State) : (setPlan k f s).mem = s.mem := rfl
@[simp] theorem setPlan_home (k : Nat) (f : Plan → Plan) (s : State) : (setPlan k f s).home = s.home := rfl
@[simp] theorem setPlan_seam (k : Nat) (f : Plan → Plan) (s : State) : (setPlan k f s).seam = s.seam := rfl
@[simp] theorem setPlan_rbx (k : Nat) (f : Plan → Plan) (s : State) : (setPlan k f s).rbx = s.rbx := rfl
@[simp] theorem setPlan_sch (k : Nat) (f : Plan → Plan) (s : State) : (setPlan k f s).sch = s.sch := rfl
@[simp] theorem setPlan_sec (k : Nat) (f : Plan → Plan) (s : State) : (setPlan k f s).sec = s.sec := rfl
@[simp] theorem setPlan_err (k : Nat) (f : Plan → Plan) (s : State) : (setPlan k f s).err = s.err := rfl

/-! ### setExpert -/

@[simp] theorem setExpert_pending (k e : Nat) (f : PExpert → PExpert) (s : State) : (setExpert k e f s).pending = s.pending := rfl
@[simp] theorem setExpert_clk (k e : Nat) (f : PExpert → PExpert) (s : State) : (setExpert k e f s).clk = s.clk := rfl
@[simp] theorem setExpert_pwr (k e : Nat) (f : PExpert → PExpert) (s : State) : (setExpert k e f s).pwr = s.pwr := rfl
@[simp] theorem setExpert_pin (k e : Nat) (f : PExpert → PExpert) (s : State) : (setExpert k e f s).pin = s.pin := rfl
@[simp] theorem setExpert_pci (k e : Nat) (f : PExpert → PExpert) (s : State) : (setExpert k e f s).pci = s.pci := rfl
@[simp] theorem setExpert_host (k e : Nat) (f : PExpert → PExpert) (s : State) : (setExpert k e f s).host = s.host := rfl
@[simp] theorem setExpert_idr (k e : Nat) (f : PExpert → PExpert) (s : State) : (setExpert k e f s).idr = s.idr := rfl
@[simp] theorem setExpert_cmd (k e : Nat) (f : PExpert → PExpert) (s : State) : (setExpert k e f s).cmd = s.cmd := rfl
@[simp] theorem setExpert_ten (k e : Nat) (f : PExpert → PExpert) (s : State) : (setExpert k e f s).ten = s.ten := rfl
@[simp] theorem setExpert_xt (k e : Nat) (f : PExpert → PExpert) (s : State) : (setExpert k e f s).xt = s.xt := rfl
@[simp] theorem setExpert_mem (k e : Nat) (f : PExpert → PExpert) (s : State) : (setExpert k e f s).mem = s.mem := rfl
@[simp] theorem setExpert_home (k e : Nat) (f : PExpert → PExpert) (s : State) : (setExpert k e f s).home = s.home := rfl
@[simp] theorem setExpert_seam (k e : Nat) (f : PExpert → PExpert) (s : State) : (setExpert k e f s).seam = s.seam := rfl
@[simp] theorem setExpert_rbx (k e : Nat) (f : PExpert → PExpert) (s : State) : (setExpert k e f s).rbx = s.rbx := rfl
@[simp] theorem setExpert_sch (k e : Nat) (f : PExpert → PExpert) (s : State) : (setExpert k e f s).sch = s.sch := rfl
@[simp] theorem setExpert_sec (k e : Nat) (f : PExpert → PExpert) (s : State) : (setExpert k e f s).sec = s.sec := rfl
@[simp] theorem setExpert_err (k e : Nat) (f : PExpert → PExpert) (s : State) : (setExpert k e f s).err = s.err := rfl

/-! ### hostPost -/

@[simp] theorem hostPost_pending (pasid : Option Nat) (a : Nat) (bs : List Byte) (s : State) : (hostPost pasid a bs s).pending = s.pending := rfl
@[simp] theorem hostPost_clk (pasid : Option Nat) (a : Nat) (bs : List Byte) (s : State) : (hostPost pasid a bs s).clk = s.clk := rfl
@[simp] theorem hostPost_pwr (pasid : Option Nat) (a : Nat) (bs : List Byte) (s : State) : (hostPost pasid a bs s).pwr = s.pwr := rfl
@[simp] theorem hostPost_pin (pasid : Option Nat) (a : Nat) (bs : List Byte) (s : State) : (hostPost pasid a bs s).pin = s.pin := rfl
@[simp] theorem hostPost_pci (pasid : Option Nat) (a : Nat) (bs : List Byte) (s : State) : (hostPost pasid a bs s).pci = s.pci := rfl
@[simp] theorem hostPost_idr (pasid : Option Nat) (a : Nat) (bs : List Byte) (s : State) : (hostPost pasid a bs s).idr = s.idr := rfl
@[simp] theorem hostPost_cmd (pasid : Option Nat) (a : Nat) (bs : List Byte) (s : State) : (hostPost pasid a bs s).cmd = s.cmd := rfl
@[simp] theorem hostPost_ten (pasid : Option Nat) (a : Nat) (bs : List Byte) (s : State) : (hostPost pasid a bs s).ten = s.ten := rfl
@[simp] theorem hostPost_xt (pasid : Option Nat) (a : Nat) (bs : List Byte) (s : State) : (hostPost pasid a bs s).xt = s.xt := rfl
@[simp] theorem hostPost_mem (pasid : Option Nat) (a : Nat) (bs : List Byte) (s : State) : (hostPost pasid a bs s).mem = s.mem := rfl
@[simp] theorem hostPost_home (pasid : Option Nat) (a : Nat) (bs : List Byte) (s : State) : (hostPost pasid a bs s).home = s.home := rfl
@[simp] theorem hostPost_seam (pasid : Option Nat) (a : Nat) (bs : List Byte) (s : State) : (hostPost pasid a bs s).seam = s.seam := rfl
@[simp] theorem hostPost_rbx (pasid : Option Nat) (a : Nat) (bs : List Byte) (s : State) : (hostPost pasid a bs s).rbx = s.rbx := rfl
@[simp] theorem hostPost_sch (pasid : Option Nat) (a : Nat) (bs : List Byte) (s : State) : (hostPost pasid a bs s).sch = s.sch := rfl
@[simp] theorem hostPost_pip (pasid : Option Nat) (a : Nat) (bs : List Byte) (s : State) : (hostPost pasid a bs s).pip = s.pip := rfl
@[simp] theorem hostPost_sec (pasid : Option Nat) (a : Nat) (bs : List Byte) (s : State) : (hostPost pasid a bs s).sec = s.sec := rfl
@[simp] theorem hostPost_err (pasid : Option Nat) (a : Nat) (bs : List Byte) (s : State) : (hostPost pasid a bs s).err = s.err := rfl

/-! ### writeBack -/

@[simp] theorem writeBack_pending (p : Nat → Bool) (s : State) : (writeBack p s).pending = s.pending := rfl
@[simp] theorem writeBack_clk (p : Nat → Bool) (s : State) : (writeBack p s).clk = s.clk := rfl
@[simp] theorem writeBack_pwr (p : Nat → Bool) (s : State) : (writeBack p s).pwr = s.pwr := rfl
@[simp] theorem writeBack_pin (p : Nat → Bool) (s : State) : (writeBack p s).pin = s.pin := rfl
@[simp] theorem writeBack_pci (p : Nat → Bool) (s : State) : (writeBack p s).pci = s.pci := rfl
@[simp] theorem writeBack_idr (p : Nat → Bool) (s : State) : (writeBack p s).idr = s.idr := rfl
@[simp] theorem writeBack_cmd (p : Nat → Bool) (s : State) : (writeBack p s).cmd = s.cmd := rfl
@[simp] theorem writeBack_ten (p : Nat → Bool) (s : State) : (writeBack p s).ten = s.ten := rfl
@[simp] theorem writeBack_xt (p : Nat → Bool) (s : State) : (writeBack p s).xt = s.xt := rfl
@[simp] theorem writeBack_mem (p : Nat → Bool) (s : State) : (writeBack p s).mem = s.mem := rfl
@[simp] theorem writeBack_home (p : Nat → Bool) (s : State) : (writeBack p s).home = s.home := rfl
@[simp] theorem writeBack_seam (p : Nat → Bool) (s : State) : (writeBack p s).seam = s.seam := rfl
@[simp] theorem writeBack_rbx (p : Nat → Bool) (s : State) : (writeBack p s).rbx = s.rbx := rfl
@[simp] theorem writeBack_sch (p : Nat → Bool) (s : State) : (writeBack p s).sch = s.sch := rfl
@[simp] theorem writeBack_pip (p : Nat → Bool) (s : State) : (writeBack p s).pip = s.pip := rfl
@[simp] theorem writeBack_sec (p : Nat → Bool) (s : State) : (writeBack p s).sec = s.sec := rfl
@[simp] theorem writeBack_err (p : Nat → Bool) (s : State) : (writeBack p s).err = s.err := rfl

/-! ### advanceRef -/

@[simp] theorem advanceRef_pending (n : Nat) (s : State) : (advanceRef n s).pending = s.pending := rfl
@[simp] theorem advanceRef_pwr (n : Nat) (s : State) : (advanceRef n s).pwr = s.pwr := rfl
@[simp] theorem advanceRef_pin (n : Nat) (s : State) : (advanceRef n s).pin = s.pin := rfl
@[simp] theorem advanceRef_pci (n : Nat) (s : State) : (advanceRef n s).pci = s.pci := rfl
@[simp] theorem advanceRef_host (n : Nat) (s : State) : (advanceRef n s).host = s.host := rfl
@[simp] theorem advanceRef_idr (n : Nat) (s : State) : (advanceRef n s).idr = s.idr := rfl
@[simp] theorem advanceRef_cmd (n : Nat) (s : State) : (advanceRef n s).cmd = s.cmd := rfl
@[simp] theorem advanceRef_ten (n : Nat) (s : State) : (advanceRef n s).ten = s.ten := rfl
@[simp] theorem advanceRef_xt (n : Nat) (s : State) : (advanceRef n s).xt = s.xt := rfl
@[simp] theorem advanceRef_mem (n : Nat) (s : State) : (advanceRef n s).mem = s.mem := rfl
@[simp] theorem advanceRef_home (n : Nat) (s : State) : (advanceRef n s).home = s.home := rfl
@[simp] theorem advanceRef_seam (n : Nat) (s : State) : (advanceRef n s).seam = s.seam := rfl
@[simp] theorem advanceRef_rbx (n : Nat) (s : State) : (advanceRef n s).rbx = s.rbx := rfl
@[simp] theorem advanceRef_sch (n : Nat) (s : State) : (advanceRef n s).sch = s.sch := rfl
@[simp] theorem advanceRef_pip (n : Nat) (s : State) : (advanceRef n s).pip = s.pip := rfl
@[simp] theorem advanceRef_sec (n : Nat) (s : State) : (advanceRef n s).sec = s.sec := rfl
@[simp] theorem advanceRef_err (n : Nat) (s : State) : (advanceRef n s).err = s.err := rfl

/-! ### setCtx and raiseMsix -/

@[simp] theorem setCtx_pending (c : Nat) (f : Ctx → Ctx) (s : State) : (setCtx c f s).pending = s.pending := by
  unfold setCtx; split <;> rfl
@[simp] theorem setCtx_clk (c : Nat) (f : Ctx → Ctx) (s : State) : (setCtx c f s).clk = s.clk := by
  unfold setCtx; split <;> rfl
@[simp] theorem setCtx_pwr (c : Nat) (f : Ctx → Ctx) (s : State) : (setCtx c f s).pwr = s.pwr := by
  unfold setCtx; split <;> rfl
@[simp] theorem setCtx_pin (c : Nat) (f : Ctx → Ctx) (s : State) : (setCtx c f s).pin = s.pin := by
  unfold setCtx; split <;> rfl
@[simp] theorem setCtx_pci (c : Nat) (f : Ctx → Ctx) (s : State) : (setCtx c f s).pci = s.pci := by
  unfold setCtx; split <;> rfl
@[simp] theorem setCtx_host (c : Nat) (f : Ctx → Ctx) (s : State) : (setCtx c f s).host = s.host := by
  unfold setCtx; split <;> rfl
@[simp] theorem setCtx_idr (c : Nat) (f : Ctx → Ctx) (s : State) : (setCtx c f s).idr = s.idr := by
  unfold setCtx; split <;> rfl
@[simp] theorem setCtx_cmd (c : Nat) (f : Ctx → Ctx) (s : State) : (setCtx c f s).cmd = s.cmd := by
  unfold setCtx; split <;> rfl
@[simp] theorem setCtx_xt (c : Nat) (f : Ctx → Ctx) (s : State) : (setCtx c f s).xt = s.xt := by
  unfold setCtx; split <;> rfl
@[simp] theorem setCtx_mem (c : Nat) (f : Ctx → Ctx) (s : State) : (setCtx c f s).mem = s.mem := by
  unfold setCtx; split <;> rfl
@[simp] theorem setCtx_home (c : Nat) (f : Ctx → Ctx) (s : State) : (setCtx c f s).home = s.home := by
  unfold setCtx; split <;> rfl
@[simp] theorem setCtx_seam (c : Nat) (f : Ctx → Ctx) (s : State) : (setCtx c f s).seam = s.seam := by
  unfold setCtx; split <;> rfl
@[simp] theorem setCtx_rbx (c : Nat) (f : Ctx → Ctx) (s : State) : (setCtx c f s).rbx = s.rbx := by
  unfold setCtx; split <;> rfl
@[simp] theorem setCtx_sch (c : Nat) (f : Ctx → Ctx) (s : State) : (setCtx c f s).sch = s.sch := by
  unfold setCtx; split <;> rfl
@[simp] theorem setCtx_pip (c : Nat) (f : Ctx → Ctx) (s : State) : (setCtx c f s).pip = s.pip := by
  unfold setCtx; split <;> rfl
@[simp] theorem setCtx_sec (c : Nat) (f : Ctx → Ctx) (s : State) : (setCtx c f s).sec = s.sec := by
  unfold setCtx; split <;> rfl
@[simp] theorem setCtx_err (c : Nat) (f : Ctx → Ctx) (s : State) : (setCtx c f s).err = s.err := by
  unfold setCtx; split <;> rfl
@[simp] theorem raiseMsix_pending (v : Nat) (s : State) : (raiseMsix v s).pending = s.pending := by
  unfold raiseMsix; split <;> rfl
@[simp] theorem raiseMsix_clk (v : Nat) (s : State) : (raiseMsix v s).clk = s.clk := by
  unfold raiseMsix; split <;> rfl
@[simp] theorem raiseMsix_pwr (v : Nat) (s : State) : (raiseMsix v s).pwr = s.pwr := by
  unfold raiseMsix; split <;> rfl
@[simp] theorem raiseMsix_pin (v : Nat) (s : State) : (raiseMsix v s).pin = s.pin := by
  unfold raiseMsix; split <;> rfl
@[simp] theorem raiseMsix_host (v : Nat) (s : State) : (raiseMsix v s).host = s.host := by
  unfold raiseMsix; split <;> rfl
@[simp] theorem raiseMsix_idr (v : Nat) (s : State) : (raiseMsix v s).idr = s.idr := by
  unfold raiseMsix; split <;> rfl
@[simp] theorem raiseMsix_cmd (v : Nat) (s : State) : (raiseMsix v s).cmd = s.cmd := by
  unfold raiseMsix; split <;> rfl
@[simp] theorem raiseMsix_ten (v : Nat) (s : State) : (raiseMsix v s).ten = s.ten := by
  unfold raiseMsix; split <;> rfl
@[simp] theorem raiseMsix_xt (v : Nat) (s : State) : (raiseMsix v s).xt = s.xt := by
  unfold raiseMsix; split <;> rfl
@[simp] theorem raiseMsix_mem (v : Nat) (s : State) : (raiseMsix v s).mem = s.mem := by
  unfold raiseMsix; split <;> rfl
@[simp] theorem raiseMsix_home (v : Nat) (s : State) : (raiseMsix v s).home = s.home := by
  unfold raiseMsix; split <;> rfl
@[simp] theorem raiseMsix_seam (v : Nat) (s : State) : (raiseMsix v s).seam = s.seam := by
  unfold raiseMsix; split <;> rfl
@[simp] theorem raiseMsix_rbx (v : Nat) (s : State) : (raiseMsix v s).rbx = s.rbx := by
  unfold raiseMsix; split <;> rfl
@[simp] theorem raiseMsix_sch (v : Nat) (s : State) : (raiseMsix v s).sch = s.sch := by
  unfold raiseMsix; split <;> rfl
@[simp] theorem raiseMsix_pip (v : Nat) (s : State) : (raiseMsix v s).pip = s.pip := by
  unfold raiseMsix; split <;> rfl
@[simp] theorem raiseMsix_sec (v : Nat) (s : State) : (raiseMsix v s).sec = s.sec := by
  unfold raiseMsix; split <;> rfl
@[simp] theorem raiseMsix_err (v : Nat) (s : State) : (raiseMsix v s).err = s.err := by
  unfold raiseMsix; split <;> rfl

/-! ### Reads after updates -/

theorem setQueue_queues (q j : Nat) (f : Queue → Queue) (s : State) :
    tget? (setQueue q f s).cmd.queues j = if q = j then (tget? s.cmd.queues q).map f else tget? s.cmd.queues j :=
  tget?_tupd ..
theorem setStn_stns (n j : Nat) (f : Stn → Stn) (s : State) :
    tget? (setStn n f s).sch.stns j = if n = j then (tget? s.sch.stns n).map f else tget? s.sch.stns j :=
  tget?_tupd ..
theorem setLaunch_launches (n j : Nat) (f : Launch → Launch) (s : State) :
    tget? (setLaunch n f s).sch.launches j = if n = j then (tget? s.sch.launches n).map f else tget? s.sch.launches j :=
  tget?_tupd ..
theorem setCru_cru (k j : Nat) (f : Cru → Cru) (s : State) :
    tget {} (setCru k f s).home.cru j = if k = j then f (tget {} s.home.cru k) else tget {} s.home.cru j :=
  tget_tmod ..
theorem setLine_lines (k j : Nat) (f : HLine → HLine) (s : State) :
    tget {} (setLine k f s).home.lines j = if k = j then f (tget {} s.home.lines k) else tget {} s.home.lines j :=
  tget_tmod ..
theorem setPort_ports (p j : Nat) (f : RPort → RPort) (s : State) :
    tget {} (setPort p f s).rbx.ports j = if p = j then f (tget {} s.rbx.ports p) else tget {} s.rbx.ports j :=
  tget_tmod ..
theorem setBundle_bundles (l b j : Nat) (f : Bundle → Bundle) (s : State) :
    tget {} (setBundle l b f s).seam.bundles j =
      if l * 16 + b = j then f (tget {} s.seam.bundles (l * 16 + b)) else tget {} s.seam.bundles j :=
  tget_tmod ..

end Sys2Proof.Machine
end

