-- ==== Sys2Proof/Laws/Ops.lean ====
section
/-! SUPPORT. What the shared operations do, each said once: where a command, a descriptor or an event acts, the reply of a
command, and a read of a record after its update. -/

namespace Sys2Proof.Machine

/-! ### Where commands act -/

theorem ifUp_ready {f : State → State} {s : State} (h : s.pwr.phase = .ready) : ifUp f s = .next (f s) := by simp [ifUp, h]

theorem ifUp_not {f : State → State} {s : State} (h : s.pwr.phase ≠ .ready) : ifUp f s = .next s := by simp [ifUp, h]

theorem ifRun_ready {f : State → State} {s : State} (h : s.pwr.phase = .ready) (t : issueHeld s = false) :
    ifRun f s = .next (f s) := by simp [ifRun, h, t]

theorem ifRun_not {f : State → State} {s : State} (h : s.pwr.phase ≠ .ready ∨ issueHeld s = true) : ifRun f s = .next s := by
  rcases h with h | h <;> simp [ifRun, h]

@[simp] theorem guardS_true (f : State → State) (s : State) : guardS true f s = f s := rfl

@[simp] theorem guardS_false (f : State → State) (s : State) : guardS false f s = s := rfl

/-- A started command runs its meaning (R391). -/
theorem cmdOut_started {s : State} {q n op : Nat} {u : Queue} {c : TakenCmd} (h : Started s q n op u c)
    (f : Queue → TakenCmd → State → State) : cmdOut op q n f s = .next (f u c s) := by
  obtain ⟨h1, h2, h3, h4, h5, _⟩ := h
  simp [cmdOut, cmdGo, ifUp_ready h1, h2, h3, h4, h5]

/-- A descriptor that may start runs its meaning (R71). -/
theorem descOut_ready {s : State} {n op : Nat} {x : Stn} {d : List Byte} (h : DescReady s n op x d)
    (f : Nat → List Byte → Stn → State → State) : descOut op n f s = .next (f x.next d x s) := by
  obtain ⟨h1, h2, h3, h4, h5, h6, h7, h8⟩ := h
  simp [descOut, startIf, ifRun_ready h1 h2, h3, h4, h5, h6, h7, h8]

/-! ### Replies and events -/

theorem find?_map_seq (l : List TakenCmd) (n : Nat) (f : TakenCmd → TakenCmd) (hf : ∀ c, (f c).seq = c.seq) (c : TakenCmd)
    (h : l.find? (fun c => decide (c.seq = n)) = some c) :
    (l.map (fun c => if c.seq = n then f c else c)).find? (fun c => decide (c.seq = n)) = some (f c) := by
  induction l with
  | nil => simp at h
  | cons a r ih =>
    by_cases e : a.seq = n
    · simp [e] at h
      subst h
      simp [e, hf]
    · simp [e] at h
      simp [e, ih h]

/-- A completed command holds its status and DETAIL for REPLY (R393). -/
theorem finishCmd_replies {s : State} {q n op : Nat} {u : Queue} {c : TakenCmd} (h : Started s q n op u c) (st d : Nat) :
    Replies (finishCmd q n st d s) q n st d := by
  obtain ⟨_, h2, h3, _⟩ := h
  refine ⟨{ u with cmds := u.cmds.map (fun c => if c.seq = n then { c with phase := .done st d } else c) }, { c with phase := .done st d }, ?_, ?_, rfl⟩
  · simp [finishCmd, setCmd, setQueue, tget?_tupd, h2]
  · exact find?_map_seq u.cmds n (fun c => { c with phase := .done st d }) (fun _ => rfl) c h3

theorem raise_raised (die ev ctx slice a0 a1 a2 : Nat) (s : State) : Raised s (raise die ev ctx slice a0 a1 a2 s) die ev ctx slice a0 a1 a2 := rfl

/-! ### A record after its update -/

@[simp] theorem stnOf_setStn (n m : Nat) (f : Stn → Stn) (s : State) :
    stnOf (setStn n f s) m = if n = m then (stnOf s n).map f else stnOf s m := by
  simp [stnOf, setStn, tget?_tupd]

@[simp] theorem hline_setLine (k j : Nat) (f : HLine → HLine) (s : State) :
    hline (setLine k f s) j = if k = j then f (hline s k) else hline s j := by
  simp [hline, setLine, tget_tmod]

@[simp] theorem cruOf_setCru (k j : Nat) (f : Cru → Cru) (s : State) :
    cruOf (setCru k f s) j = if k = j then f (cruOf s k) else cruOf s j := by
  simp [cruOf, setCru, tget_tmod]

@[simp] theorem portOf_setPort (p j : Nat) (f : RPort → RPort) (s : State) :
    portOf (setPort p f s) j = if p = j then f (portOf s p) else portOf s j := by
  simp [portOf, setPort, tget_tmod]

/-! ### Requests at a home -/

/-- A home that refuses nothing takes the request of an agent (R303). -/
theorem sendReq_home {h : HReq} {s : State} (e : homeRefuses s (reqOf h) = none) : sendReq h s = homeRequest h s := by
  simp [sendReq, e]

/-- Taking a message off the fabric touches the fabric alone. -/
theorem takeMsg_home (k : Nat) (s : State) : (takeMsg k s).home = { s.home with net := s.home.net.eraseIdx k } := rfl

end Sys2Proof.Machine
end

