-- ==== Sys2Proof/Laws/Shader.lean ====
section
/-! SUPPORT. Laws of shader instructions: where an instruction runs, and what writing a register or a predicate in every
acting lane does. -/

namespace Sys2Proof.Machine

/-! ### Updates of listed entries -/

theorem tupd_const {α : Type} (t : Tbl α) (k : Nat) (v : α) (f : α → α) (h : tget? t k = some v) :
    tupd t k f = tupd t k (fun _ => f v) := by
  induction t with
  | nil => rfl
  | cons e r ih =>
    obtain ⟨j, w⟩ := e
    simp only [tget?] at h
    simp only [tupd]
    split
    · rename_i hj
      simp only [hj, if_true, Option.some.injEq] at h
      subst h; rfl
    · rename_i hj
      simp only [hj, if_false] at h
      rw [ih h]

theorem setStn_congr (n : Nat) (f g : Stn → Stn) (s : State) (x : Stn) (h : stnOf s n = some x) (e : f x = g x) :
    setStn n f s = setStn n g s := by
  unfold setStn
  rw [tupd_const _ _ _ f h, tupd_const _ _ _ g h, e]

theorem liveOf_stnOf (s : State) (n : Nat) (x : Stn) (h : liveOf s n = some x) : stnOf s n = some x := by
  unfold liveOf at h
  cases e : stnOf s n with
  | none => simp [e] at h
  | some a =>
    simp only [e, Option.bind_some] at h
    split at h
    · exact h
    · cases h

/-- A step of a group whose record is known sets the group. -/
theorem stepGrp_eq (u : Grp) (f : GroupSt → GroupSt) (s : State) (x : Stn) (y : GroupSt)
    (hx : stnOf s u.stn = some x) (hy : tget? x.groups u.g = some y) : stepGrp u f s = putGrp u (nextPc (f y)) s := by
  unfold stepGrp putGrp setGrp
  exact setStn_congr _ _ _ _ _ hx (by rw [tupd_const _ _ _ _ hy])

theorem holdGrp_eq (u : Grp) (a b : Nat) (s : State) (x : Stn) (y : GroupSt)
    (hx : stnOf s u.stn = some x) (hy : tget? x.groups u.g = some y) :
    holdGrp u a b s = putGrp u { y with waiting := some (a, b) } s := by
  unfold holdGrp putGrp setGrp
  exact setStn_congr _ _ _ _ _ hx (by rw [tupd_const _ _ _ _ hy])

/-- Sticky flags leave the groups alone. -/
theorem addFlags_stn (n fl : Nat) (s : State) (x : Stn) (h : stnOf s n = some x) :
    ∃ x', stnOf (addFlags n fl s) n = some x' ∧ x'.groups = x.groups := by
  unfold addFlags
  split
  · exact ⟨x, h, rfl⟩
  · exact ⟨{ x with flags := x.flags ||| fl }, by
      show tget? (setStn n _ s).sch.stns n = _
      rw [setStn_stns, if_pos rfl, show tget? s.sch.stns n = some x from h]; rfl, rfl⟩

theorem stepGrp_flags (u : Grp) (f : GroupSt → GroupSt) (fl : Nat) (s : State) (x : Stn) (y : GroupSt)
    (hx : stnOf s u.stn = some x) (hy : tget? x.groups u.g = some y) :
    stepGrp u f (addFlags u.stn fl s) = putGrp u (nextPc (f y)) (addFlags u.stn fl s) := by
  obtain ⟨x', h, e⟩ := addFlags_stn u.stn fl s x hx
  exact stepGrp_eq u f _ x' y h (by rw [e]; exact hy)

/-! ### Where an instruction runs -/

theorem bits_top (a b hi lo : Nat) (hb : b < 2 ^ lo) : bits (a * 2 ^ lo + b) hi lo = a % 2 ^ (hi + 1 - lo) := by
  unfold bits
  congr 1
  rw [Nat.add_comm, Nat.add_mul_div_right _ _ (Nat.two_pow_pos lo), Nat.div_eq_of_lt hb, Nat.zero_add]

/-- The word of an instruction has its CLASS and OP. -/
theorem insKnown_shWord {cls op : Nat} (w : ShIns) (hc : cls < 16) (ho : op < 64) :
    insKnown (shWord cls op w) = decide (op < nth 0 classOps cls) := by
  have h1 := w.pred.isLt
  have h2 := w.form.isLt
  have h3 := w.dst.isLt
  have h4 := w.sa.isLt
  have h5 := w.low.isLt
  have h6 : b2n w.pneg ≤ 1 := by unfold b2n; split <;> omega
  have e : shWord cls op w = cls * 2 ^ 60 + (op * 2 ^ 54 + (w.pred.toNat * 2 ^ 51 + b2n w.pneg * 2 ^ 50 + w.form.toNat * 2 ^ 48 +
      w.dst.toNat * 2 ^ 40 + w.sa.toNat * 2 ^ 32 + w.low.toNat)) := by unfold shWord; omega
  have f : shWord cls op w = (cls * 64 + op) * 2 ^ 54 + (w.pred.toNat * 2 ^ 51 + b2n w.pneg * 2 ^ 50 + w.form.toNat * 2 ^ 48 +
      w.dst.toNat * 2 ^ 40 + w.sa.toNat * 2 ^ 32 + w.low.toNat) := by unfold shWord; omega
  unfold insKnown
  rw [show bits (shWord cls op w) 63 60 = cls by rw [e, bits_top _ _ _ _ (by omega)]; omega,
    show bits (shWord cls op w) 59 54 = op by rw [f, bits_top _ _ _ _ (by omega)]; omega]

theorem shGo_at {s : State} {u : Grp} {cls op : Nat} {w : ShIns} {x : Stn} {y : GroupSt} (h : AtIns s u cls op w x y)
    (f : Stn → GroupSt → State → State) (hk : cls < 16 ∧ op < 64 ∧ op < nth 0 classOps cls := by decide) :
    shGo cls op u w f s = f x y s := by
  obtain ⟨_, _, hl, hg, hr, he, hw, hc⟩ := h
  unfold shGo
  simp only [hl, Option.bind_some, hg, Option.map_some, hc, insKnown_shWord w hk.1 hk.2.1, hk.2.2, decide_true, not_true,
    if_false, if_true]
  have hn : x.runIdx.isNone = false := by cases e : x.runIdx <;> simp_all
  rw [if_neg]
  simp only [hn, he, not_or]
  refine ⟨by simp, by simp, ?_⟩
  cases e : y.waiting with
  | none => simp
  | some p =>
    obtain ⟨a, b⟩ := p
    rw [e] at hw
    by_cases ha : a = 9
    · subst ha; exact absurd rfl hw
    · split
      · rename_i r h2
        cases h2; exact absurd rfl ha
      · simp

/-- An instruction whose form, fields and registers are in order runs its own effect. -/
theorem shOut_at {s : State} {u : Grp} {cls op : Nat} {w : ShIns} {x : Stn} {y : GroupSt} (h : AtIns s u cls op w x y)
    {form ok : Bool} {regs : List Nat} (hf : form = true) (ho : ok = true) (hr : ∀ r ∈ regs, r < nregOf x)
    (f : Stn → GroupSt → State → State) (hk : cls < 16 ∧ op < 64 ∧ op < nth 0 classOps cls := by decide) :
    shOut cls op form ok regs u w f s = .next (f x y s) := by
  unfold shOut ifRun
  rw [if_pos ⟨h.1, by simp [h.2.1]⟩, shGo_at h _ hk]
  have : regs.any (fun r => decide (nregOf x ≤ r)) = false := by
    simp only [List.any_eq_false, decide_eq_true_eq, not_le]
    exact hr
  simp [hf, ho, this]

/-! ### Lanes -/

theorem actLanes_lt (y : GroupSt) (w : ShIns) (t : Nat) (h : t ∈ actLanes y w) : t < 32 := by
  have h1 := (List.mem_filter.mp h).1
  have h2 := (List.mem_filter.mp h1).1
  simpa using h2

@[simp] theorem greg_setReg (r t : Nat) (v : Word) (y : GroupSt) (q k : Nat) :
    greg (setReg r t v y) q k = if 32 * r + t = 32 * q + k then v else greg y q k := by
  simp [greg, setReg]

/-- Lanes written one after the other in a register each hold their own value, and no other register changes. -/
theorem foldl_setReg (r : Nat) (f : Nat → Word) (l : List Nat) (hl : ∀ t ∈ l, t < 32) (y : GroupSt) (q k : Nat) (hk : k < 32) :
    greg (l.foldl (fun z t => setReg r t (f t) z) y) q k = if q = r ∧ k ∈ l then f k else greg y q k := by
  induction l generalizing y with
  | nil => simp
  | cons a t ih =>
    rw [List.foldl_cons, ih (fun b hb => hl b (List.mem_cons_of_mem _ hb)), greg_setReg]
    have ha := hl a (by simp)
    by_cases h1 : q = r ∧ k ∈ t
    · simp [h1]
    · rw [if_neg h1]
      by_cases h2 : 32 * r + a = 32 * q + k
      · have : q = r ∧ k = a := by omega
        obtain ⟨rfl, rfl⟩ := this
        simp
      · rw [if_neg h2, if_neg]
        rintro ⟨rfl, hm⟩
        rcases List.mem_cons.mp hm with rfl | hm
        · exact h2 rfl
        · exact h1 ⟨rfl, hm⟩

/-- What writing one register in lanes leaves alone. -/
theorem foldl_setReg_frame (r : Nat → Nat) (f : Nat → Word) (l : List Nat) (y : GroupSt) :
    (l.foldl (fun z t => setReg (r t) t (f t) z) y) =
      { y with regs := (l.foldl (fun z t => setReg (r t) t (f t) z) y).regs } := by
  induction l generalizing y with
  | nil => rfl
  | cons a t ih => rw [List.foldl_cons, ih]; rfl

theorem laneWrite_eff (w : ShIns) (f : GroupSt → Nat → Word) (y : GroupSt) (P : Nat → Word → Prop)
    (h : ∀ t ∈ actLanes y w, P t (f y t)) : LaneEff w y (nextPc (laneWrite w f y)) P := by
  have e : laneWrite w f y = { y with regs := (laneWrite w f y).regs } :=
    foldl_setReg_frame (fun _ => insDst w) (f y) (actLanes y w) y
  have g : ∀ q k, k < 32 → greg (nextPc (laneWrite w f y)) q k = if q = insDst w ∧ k ∈ actLanes y w then f y k else greg y q k :=
    fun q k hk => foldl_setReg (insDst w) (f y) (actLanes y w) (fun t ht => actLanes_lt y w t ht) y q k hk
  refine ⟨?_, ?_, fun t ht => ?_, fun r t ht hn => ?_⟩
  · rw [e]; exact ⟨rfl, rfl, rfl, rfl, rfl, rfl⟩
  · rw [e]; rfl
  · rw [g _ _ (actLanes_lt y w t ht), if_pos ⟨rfl, ht⟩]; exact h t ht
  · rw [g _ _ ht, if_neg hn]

/-- Lanes written one after the other, each in the registers of a range, hold their own values. -/
theorem foldl_lanes (g : Nat → GroupSt → GroupSt) (d n : Nat) (f : Nat → Nat → Word)
    (hg : ∀ t z q k, t < 32 → k < 32 → greg (g t z) q k = if k = t ∧ d ≤ q ∧ q < d + n then f (q - d) t else greg z q k)
    (l : List Nat) (hl : ∀ t ∈ l, t < 32) (y : GroupSt) (q k : Nat) (hk : k < 32) :
    greg (l.foldl (fun z t => g t z) y) q k = if k ∈ l ∧ d ≤ q ∧ q < d + n then f (q - d) k else greg y q k := by
  induction l generalizing y with
  | nil => simp
  | cons a r ih =>
    rw [List.foldl_cons, ih (fun b hb => hl b (List.mem_cons_of_mem _ hb)), hg a y q k (hl a (by simp)) hk]
    by_cases h1 : k ∈ r ∧ d ≤ q ∧ q < d + n
    · rw [if_pos h1, if_pos ⟨List.mem_cons_of_mem _ h1.1, h1.2⟩]
    · rw [if_neg h1]
      by_cases h2 : k = a ∧ d ≤ q ∧ q < d + n
      · rw [if_pos h2, if_pos ⟨by simp [h2.1], h2.2⟩, h2.1]
      · rw [if_neg h2, if_neg]
        rintro ⟨h3, h4⟩
        rcases List.mem_cons.mp h3 with h3 | h3
        · exact h2 ⟨h3, h4⟩
        · exact h1 ⟨h3, h4⟩

theorem foldl_lanes_frame (g : Nat → GroupSt → GroupSt) (hg : ∀ t z, g t z = { z with regs := (g t z).regs }) (l : List Nat)
    (y : GroupSt) : l.foldl (fun z t => g t z) y = { y with regs := (l.foldl (fun z t => g t z) y).regs } := by
  induction l generalizing y with
  | nil => rfl
  | cons a r ih =>
    rw [List.foldl_cons, ih]
    conv_lhs => rw [hg a y]
    congr 1
    rw [← hg a y]

theorem lanes_eff (w : ShIns) (n : Nat) (g : Nat → GroupSt → GroupSt) (f : Nat → Nat → Word)
    (hf : ∀ t z, g t z = { z with regs := (g t z).regs })
    (hg : ∀ t z q k, t < 32 → k < 32 →
      greg (g t z) q k = if k = t ∧ insDst w ≤ q ∧ q < insDst w + n then f (q - insDst w) t else greg z q k)
    (y : GroupSt) (P : Nat → Nat → Word → Prop) (h : ∀ t ∈ actLanes y w, ∀ k < n, P k t (f k t)) :
    LanesEff w n y (nextPc ((actLanes y w).foldl (fun z t => g t z) y)) P := by
  have e := foldl_lanes_frame g hf (actLanes y w) y
  have v : ∀ q k, k < 32 → greg (nextPc ((actLanes y w).foldl (fun z t => g t z) y)) q k =
      if k ∈ actLanes y w ∧ insDst w ≤ q ∧ q < insDst w + n then f (q - insDst w) k else greg y q k :=
    fun q k hk => foldl_lanes g (insDst w) n f hg (actLanes y w) (fun t ht => actLanes_lt y w t ht) y q k hk
  refine ⟨?_, ?_, fun t ht k hk => ?_, fun r t ht hn => ?_⟩
  · rw [e]; exact ⟨rfl, rfl, rfl, rfl, rfl, rfl⟩
  · rw [e]; rfl
  · rw [v _ _ (actLanes_lt y w t ht), if_pos ⟨ht, by omega, by omega⟩, Nat.add_sub_cancel_left]
    exact h t ht k hk
  · rw [v _ _ ht, if_neg]
    rintro ⟨h1, h2, h3⟩
    exact hn ⟨h2, h3, h1⟩

/-- Words written to consecutive registers of one lane. -/
theorem foldl_words (d t n : Nat) (l : List Word) (z : GroupSt) (ht : t < 32) (q k : Nat) (hk : k < 32) :
    greg ((l.zipIdx n).foldl (fun z e => setReg (d + e.2) t e.1 z) z) q k =
      if k = t ∧ d + n ≤ q ∧ q < d + n + l.length then l.getD (q - d - n) 0 else greg z q k := by
  induction l generalizing n z with
  | nil => simp
  | cons a r ih =>
    rw [List.zipIdx_cons, List.foldl_cons, ih, greg_setReg]
    by_cases h1 : k = t ∧ d + (n + 1) ≤ q ∧ q < d + (n + 1) + r.length
    · rw [if_pos h1, if_pos ⟨h1.1, by omega, by simp only [List.length_cons]; omega⟩]
      have : q - d - n = q - d - (n + 1) + 1 := by omega
      rw [this, List.getD_cons_succ]
    · rw [if_neg h1]
      by_cases h2 : 32 * (d + n) + t = 32 * q + k
      · have : q = d + n ∧ k = t := by omega
        obtain ⟨rfl, rfl⟩ := this
        simp
      · rw [if_neg h2, if_neg]
        rintro ⟨rfl, h3, h4⟩
        simp only [List.length_cons] at h4
        by_cases h5 : q = d + n
        · subst h5; exact h2 rfl
        · exact h1 ⟨rfl, by omega, by omega⟩

theorem foldl_words_frame (d t n : Nat) (l : List Word) (z : GroupSt) :
    (l.zipIdx n).foldl (fun z e => setReg (d + e.2) t e.1 z) z =
      { z with regs := ((l.zipIdx n).foldl (fun z e => setReg (d + e.2) t e.1 z) z).regs } := by
  induction l generalizing n z with
  | nil => rfl
  | cons a r ih => rw [List.zipIdx_cons, List.foldl_cons, ih]; rfl

/-- Bytes that lanes store: an address with one value holds it, and no other byte changes. -/
theorem putAll_spec (k : Nat) (l : List (Nat × Byte)) (x : Stn) :
    (putAll k l x) = { x with ls := (putAll k l x).ls } ∧
    (∀ a, (∀ e ∈ l, e.1 ≠ a) → tget 0 (putAll k l x).ls a = tget 0 x.ls a) ∧
    ∀ e ∈ l, (∀ e' ∈ l, e'.1 = e.1 → e'.2 = e.2) → tget 0 (putAll k l x).ls e.1 = e.2 := by
  refine ⟨rfl, fun a ha => ?_, fun e he hu => ?_⟩
  · have : ∀ (m : List (Nat × Byte)) (v : Nat × Byte → Byte) (t : Tbl Byte), (∀ e ∈ m, e.1 ≠ a) →
        tget 0 (m.foldl (fun t e => tset 0 t e.1 (v e)) t) a = tget 0 t a := by
      intro m v
      induction m with
      | nil => intro t _; rfl
      | cons b r ih =>
        intro t h
        rw [List.foldl_cons, ih _ (fun e he => h e (List.mem_cons_of_mem _ he)), tget_tset, if_neg (h b (by simp))]
    exact this l _ x.ls ha
  · have hv : ∀ e' ∈ l, e'.1 = e.1 →
        nth 0 ((l.filter (fun q => decide (q.1 = e'.1))).map (·.2))
          ((Config.unstated 30 [Config.freeValue k, BitVec.ofNat 32 e'.1]).toNat %
            ((l.filter (fun q => decide (q.1 = e'.1))).map (·.2)).length) = e.2 := by
      intro e' he' h1
      generalize hc : (l.filter (fun q => decide (q.1 = e'.1))).map (·.2) = c
      have hpos : 0 < c.length := by
        rw [← hc, List.length_map]
        exact List.length_pos_of_mem (List.mem_filter.mpr ⟨he', by simp⟩)
      have hall : ∀ b ∈ c, b = e.2 := by
        rw [← hc]
        intro b hb
        obtain ⟨p, hp, rfl⟩ := List.mem_map.mp hb
        have := List.mem_filter.mp hp
        exact hu p this.1 ((by simpa using this.2 : p.1 = e'.1).trans h1)
      generalize Config.unstated 30 [Config.freeValue k, BitVec.ofNat 32 e'.1] = v
      have hi : v.toNat % c.length < c.length := Nat.mod_lt _ hpos
      unfold nth
      rw [List.getD_eq_getElem _ _ hi]
      exact hall _ (List.getElem_mem hi)
    have : ∀ (m : List (Nat × Byte)) (v : Nat × Byte → Byte) (t : Tbl Byte), (∀ q ∈ m, q.1 = e.1 → v q = e.2) →
        tget 0 (m.foldl (fun t q => tset 0 t q.1 (v q)) t) e.1 = if ∃ q ∈ m, q.1 = e.1 then e.2 else tget 0 t e.1 := by
      intro m v
      induction m with
      | nil => intro t _; simp
      | cons b r ih =>
        intro t h
        rw [List.foldl_cons, ih _ (fun q hq => h q (List.mem_cons_of_mem _ hq)), tget_tset]
        by_cases h1 : ∃ q ∈ r, q.1 = e.1
        · rw [if_pos h1, if_pos]
          obtain ⟨q, hq, hq1⟩ := h1
          exact ⟨q, List.mem_cons_of_mem _ hq, hq1⟩
        · rw [if_neg h1]
          by_cases h2 : b.1 = e.1
          · rw [if_pos h2, if_pos ⟨b, by simp, h2⟩]
            exact h b (by simp) h2
          · rw [if_neg h2, if_neg]
            rintro ⟨q, hq, hq1⟩
            rcases List.mem_cons.mp hq with rfl | hq
            · exact h2 hq1
            · exact h1 ⟨q, hq, hq1⟩
    have h := this l _ x.ls hv
    rw [if_pos ⟨e, he, rfl⟩] at h
    exact h

theorem putBits_testBit (v t : Nat) (b : Bool) (i : Nat) :
    (putBits v t t (b2n b)).testBit i = if i = t then b else v.testBit i := by
  have hb : b2n b % 2 ^ (t + 1 - t) = b2n b := by cases b <;> simp [b2n]
  have e1 : t + 1 - t = 1 := by omega
  unfold putBits bits
  rw [hb, e1]
  have hv : v = 2 ^ t * (2 * (v / 2 ^ (t + 1)) + v / 2 ^ t % 2) + v % 2 ^ t := by
    have h1 := Nat.div_add_mod v (2 ^ t)
    have h2 := Nat.div_add_mod (v / 2 ^ t) 2
    have h3 : v / 2 ^ t / 2 = v / 2 ^ (t + 1) := by rw [Nat.div_div_eq_div_mul, Nat.pow_succ]
    rw [← h3, h2, h1]
  have hw : v - v / 2 ^ t % 2 ^ 1 * 2 ^ t + b2n b * 2 ^ t = 2 ^ t * (2 * (v / 2 ^ (t + 1)) + b2n b) + v % 2 ^ t := by
    have : v - v / 2 ^ t % 2 ^ 1 * 2 ^ t = 2 ^ t * (2 * (v / 2 ^ (t + 1))) + v % 2 ^ t := by
      conv_lhs => rw [hv]
      rw [pow_one]
      have h4 : (2 ^ t * (2 * (v / 2 ^ (t + 1)) + v / 2 ^ t % 2) + v % 2 ^ t) / 2 ^ t % 2 = v / 2 ^ t % 2 := by rw [← hv]
      rw [h4, Nat.mul_add, Nat.mul_comm (v / 2 ^ t % 2) (2 ^ t)]
      omega
    rw [this, Nat.mul_add, Nat.mul_comm (b2n b) (2 ^ t)]
    omega
  have hlt : v % 2 ^ t < 2 ^ t := Nat.mod_lt _ (Nat.two_pow_pos t)
  rw [hw, Nat.testBit_two_pow_mul_add _ hlt]
  conv_rhs => rw [hv, Nat.testBit_two_pow_mul_add _ hlt]
  by_cases h1 : i < t
  · simp [h1, Nat.ne_of_lt h1]
  · simp only [h1, if_false]
    by_cases h2 : i = t
    · subst h2
      simp only [Nat.sub_self, if_true, Nat.testBit_zero]
      cases b <;> simp [b2n, Nat.add_mod]
    · simp only [h2, if_false]
      obtain ⟨j, hj⟩ : ∃ j, i - t = j + 1 := ⟨i - t - 1, by omega⟩
      rw [hj, Nat.testBit_succ, Nat.testBit_succ]
      congr 1
      have h5 : v / 2 ^ t % 2 < 2 := Nat.mod_lt _ (by decide)
      have h6 : b2n b < 2 := by cases b <;> simp [b2n]
      omega

theorem setPred_bit (p t : Nat) (b : Bool) (y : GroupSt) (q i : Nat) (hi : i < 32) :
    bitOf (predMask (setPred p t b y) q) i = if p ≠ 7 ∧ q = p ∧ i = t then b else bitOf (predMask y q) i := by
  unfold setPred
  split
  · subst_vars; simp
  · rename_i hp
    unfold predMask
    split
    · rename_i hq
      rw [if_neg]
      rintro ⟨_, rfl, _⟩
      exact hp hq
    · simp only [tget_tset]
      by_cases h : p = q
      · subst h
        simp only [if_true, bitOf, BitVec.toNat_ofNat, Nat.testBit_mod_two_pow, hi, decide_true, Bool.true_and, putBits_testBit,
          ne_eq, hp, not_false_eq_true, true_and]
      · have : ¬ (q = p) := fun e => h e.symm
        simp [h, this]

theorem setPred_regs (p t : Nat) (b : Bool) (y : GroupSt) : (setPred p t b y).regs = y.regs := by
  unfold setPred; split <;> rfl

theorem setPred_frame (p t : Nat) (b : Bool) (y : GroupSt) : setPred p t b y = { y with preds := (setPred p t b y).preds } := by
  unfold setPred; split <;> rfl

theorem foldl_setPred (p : Nat) (f : Nat → Bool) (l : List Nat) (y : GroupSt) (q i : Nat) (hi : i < 32) :
    bitOf (predMask (l.foldl (fun z t => setPred p t (f t) z) y) q) i =
      if p ≠ 7 ∧ q = p ∧ i ∈ l then f i else bitOf (predMask y q) i := by
  induction l generalizing y with
  | nil => simp
  | cons a t ih =>
    rw [List.foldl_cons, ih, setPred_bit _ _ _ _ _ _ hi]
    by_cases h1 : p ≠ 7 ∧ q = p ∧ i ∈ t
    · rw [if_pos h1, if_pos ⟨h1.1, h1.2.1, List.mem_cons_of_mem _ h1.2.2⟩]
    · rw [if_neg h1]
      by_cases h2 : p ≠ 7 ∧ q = p ∧ i = a
      · rw [if_pos h2, if_pos ⟨h2.1, h2.2.1, by simp [h2.2.2]⟩, h2.2.2]
      · rw [if_neg h2, if_neg]
        rintro ⟨h3, h4, h5⟩
        rcases List.mem_cons.mp h5 with h5 | h5
        · exact h2 ⟨h3, h4, h5⟩
        · exact h1 ⟨h3, h4, h5⟩

theorem foldl_setPred_frame (p : Nat) (f : Nat → Bool) (l : List Nat) (y : GroupSt) :
    (l.foldl (fun z t => setPred p t (f t) z) y) =
      { y with preds := (l.foldl (fun z t => setPred p t (f t) z) y).preds } := by
  induction l generalizing y with
  | nil => rfl
  | cons a t ih =>
    rw [List.foldl_cons, ih]
    congr 1 <;> (unfold setPred; split <;> rfl)

theorem lanePred_eff (w : ShIns) (f : GroupSt → Nat → Bool) (y : GroupSt) (P : Nat → Bool → Prop)
    (h : ∀ t ∈ actLanes y w, P t (f y t)) : PredEff w y (nextPc (lanePred w f y)) P := by
  have e : lanePred w f y = { y with preds := (lanePred w f y).preds } :=
    foldl_setPred_frame (insDst w % 8) (f y) (actLanes y w) y
  have g : ∀ q k, k < 32 → bitOf (predMask (nextPc (lanePred w f y)) q) k =
      if insDst w % 8 ≠ 7 ∧ q = insDst w % 8 ∧ k ∈ actLanes y w then f y k else bitOf (predMask y q) k :=
    fun q k hk => foldl_setPred (insDst w % 8) (f y) (actLanes y w) y q k hk
  refine ⟨?_, ?_, fun t ht hd => ?_, fun p t hp ht hn => ?_⟩
  · rw [e]; exact ⟨rfl, rfl, rfl, rfl, rfl, rfl⟩
  · rw [e]; rfl
  · rw [g _ _ (actLanes_lt y w t ht), if_pos ⟨hd, rfl, ht⟩]; exact h t ht
  · rw [g _ _ ht, if_neg]
    rintro ⟨h1, h2, h3⟩
    exact hn ⟨by rw [h2]; exact h1, h2, h3⟩

end Sys2Proof.Machine
end

