-- ==== Sys2Proof/Tests/Slice0.lean ====
section
/-! SUPPORT. Small checks of single steps, and for every statement with hypotheses a state and operands that meet them. Expected
results are the spec's own tables and worked examples. -/

namespace Sys2Proof.Tests

set_option Elab.async false

open Sys2Proof.Machine

theorem test_wf_station : wellFormed (.loop 1680) = false := by decide
theorem test_wf_group : wellFormed (.nop ⟨0, 64⟩ ⟨7, false, 0, 0, 0, 0⟩) = false := by decide
theorem test_wf_queue : wellFormed (.capSet 1024 0) = false := by decide
theorem test_wf_die : wellFormed (.thermalSample 10 90) = false := by decide
theorem test_wf_part : wellFormed (.boostStep 10 1 1) = false := by decide
theorem test_wf_line : wellFormed (.holdEnd 20 0) = false := by decide
theorem test_wf_ctx : wellFormed (.rung1 4096) = false := by decide
theorem test_wf_link : wellFormed (.seamRetrainReq 45) = false := by decide
theorem test_wf_port : wellFormed (.rbxRetrain 24) = false := by decide
theorem test_wf_data : wellFormed (.write ⟨0, 0, 1, 0, .bar4⟩ 1 [0]) = false := by decide
theorem test_wf_good : wellFormed (.seamRetrainReq 44) = true := by decide


/-! ### Small states -/

/-- A module that is up, with a living launch of the manager's context. -/
def upState : State := { pwr := { phase := .ready } }

/-- A command of opcode `op` and context `ctx` that has started on queue 1, with parameters (offset, bytes, value). -/
def cmdOf (op ctx : Nat) (ps : List (Nat × Nat × Nat)) : TakenCmd :=
  { seq := 5, op := op, flags := 0, energy := 0, ctx := ctx, tag := 0,
    pkt := layout 128 (ps.map (fun p => (24 + p.1, leBytes p.2.1 p.2.2))),
    phase := .started, admitted := true, shares := [], used := 0, startAt := 0 }

/-- Queue 1, of a slice, with that command. -/
def cmdQueue (slice op ctx : Nat) (ps : List (Nat × Nat × Nat)) : Queue :=
  { num := 1, state := .running, slice := slice, next := 6, cmds := [cmdOf op ctx ps] }

/-- A module that is up, with that command in progress on queue 1. -/
def cmdState (op ctx : Nat) (ps : List (Nat × Nat × Nat)) : State :=
  { upState with cmd := { upState.cmd with ready := true, queues := [(1, cmdQueue 0 op ctx ps)] } }

/-- Host memory that lists the given bytes, rising. -/
def hostOf (l : List (Nat × Nat)) (s : State) : State :=
  { s with host := { s.host with mem := l.map (fun e => (e.1, BitVec.ofNat 8 e.2)) } }

/-- The first bundle of every link in service, and so every link up. -/
def linksUp (s : State) : State :=
  { s with seam := { s.seam with bundles := (List.range 45).map (fun l => (16 * l, { st := 1 })) } }

theorem wit_front : ({ State.reset with pending := [.poweredHour] } : State).pending = .poweredHour :: [] := rfl

theorem wit_limits : State.reset.inLimits := by
  simp [State.inLimits, Limits.ok, limits, State.reset]

theorem wit_form : Memory.wf { cells := [(3, 1), (4, 2)], poison := [7, 9] } = true ∧ HostMem.wf { mem := [(3, 1)], dirty := [(3, 0), (5, 1)] } = true := by decide

theorem wit_idle : State.reset.pending = [] ∧ State.reset.pwr.phase = .off := ⟨rfl, rfl⟩
theorem wit_die : 3 ∈ allDies ∧ 3 ∉ State.reset.clk.lost := by decide

/-- Code of a station that runs one instruction. -/
def oneIns (cls op : Nat) (w : ShIns) : Stn :=
  { launch := 1, inst := 0, cell := 0, ctx := 0, kind := 2, split := 2, descs := [], code := [shWord cls op w],
    shConfig := 8 + 64, groups := [(0, {})], runIdx := some 0 }
/-- A running launch of the manager's context. -/
def runLaunch : Launch :=
  { q := 0, seq := 0, ctx := 0, slice := 0, recipe := 1, recipeId := 1, d := 1, count := 1, plan := 0, hist := 0, telem := 0,
    homePart := 0, noWait := false, ph := .running, order := 0, insts := [{ part := 0, y := 0, x := 1 }], saveGrans := 0, victimOf := [] }
/-- The launch runs on station 1 of partition 0. -/
def stnState (x : Stn) : State := { upState with sch := { launches := [(1, runLaunch)], stns := [(1, x)] } }
/-- Fields: no guard, FORM 0, registers 2, 3, 4 and 63 (the highest below NREG 64). -/
def wReg : ShIns := ⟨7, false, 0, 2, 3, 0x043F0000⟩
/-- FORM 1 with an immediate. -/
def wImm : ShIns := ⟨7, false, 1, 63, 3, 5⟩
/-- The station runs the instruction next. -/
def runsNext (cls op : Nat) (w : ShIns) : Prop := AtIns (stnState (oneIns cls op w)) ⟨1, 0⟩ cls op w (oneIns cls op w) {}
theorem wit_runs (cls op : Nat) (w : ShIns) : runsNext cls op w := ⟨rfl, rfl, rfl, rfl, rfl, rfl, nofun, rfl⟩
theorem wit_regs : ∀ r ∈ [insDst wReg, insSa wReg, insSb wReg, insSc wReg, insDst wImm, insSa wImm], r < nregOf (oneIns 0 0 wReg) := by
  decide

theorem wit_shift : (opB wImm {} 0).toNat < 32 := by decide

theorem wit_fp : wReg.form ∈ [(0 : BitVec 2), 1] ∧ wImm.form ∈ [(0 : BitVec 2), 1] ∧ actLanes {} wReg = List.range 32 := by decide

theorem wit_sfu : wReg.form ∈ [(0 : BitVec 2)] ∧ isNanV (decF fF32 (0x7F800001 : Word).toNat) = true := by decide

/-- FCVT from binary32 (code 0x0A) to bfloat16 (code 0x06). -/
def wCvt : ShIns := ⟨7, false, 0, 2, 3, 0x060A⟩
theorem wit_cvt : wCvt.form = 0 ∧ insDst wCvt < nregOf (oneIns 3 2 wCvt) ∧ insSa wCvt < nregOf (oneIns 3 2 wCvt) ∧
    6 ≤ insMod wCvt % 256 ∧ insMod wCvt % 256 ≤ 0x0A ∧ 6 ≤ insMod wCvt / 256 ∧ insMod wCvt / 256 ≤ 0x0A := by decide
theorem wit_cvt_runs : runsNext 3 2 wCvt := wit_runs 3 2 wCvt

theorem wit_move : (opB wImm {} 0).toNat < 32 ∧ wReg.form = 0 := by decide

theorem wit_pred : insMod wReg % 8 < 6 ∧ insMod wReg % 4 = 0 ∧ insDst wReg % 8 ≠ 7 := by decide

/-- LD and ST of 4 bytes in the shared region at offset 0 plus SA (register 3, zero). -/
def wLd : ShIns := ⟨7, false, 1, 2, 3, 2⟩
/-- The same of 4 bytes at offset 1: misaligned. -/
def wLdOdd : ShIns := ⟨7, false, 1, 2, 3, 0x102⟩
theorem wit_ld : wLd.form = 1 ∧ bits (insImm wLd) 2 0 ≤ 4 ∧ insSa wLd < nregOf (oneIns 5 0 wLd) ∧
    (∀ k < ldRegs wLd, insDst wLd + k < nregOf (oneIns 5 0 wLd)) ∧
    (∀ t ∈ actLanes {} wLd, (ldAddr (oneIns 5 0 wLd) 0 wLd {} t).isSome) ∧ badLane (oneIns 5 0 wLdOdd) 0 wLdOdd {} = some 1 ∧
    badLane (oneIns 5 1 wLdOdd) 0 wLdOdd {} = some 1 := by
  decide +kernel
theorem wit_ld_runs : runsNext 5 0 wLd ∧ runsNext 5 1 wLd ∧ runsNext 5 0 wLdOdd ∧ runsNext 5 1 wLdOdd :=
  ⟨wit_runs _ _ _, wit_runs _ _ _, wit_runs _ _ _, wit_runs _ _ _⟩

/-- GMAC on registers 0, 4, 8 and 16; GMLOAD and GMSTORE of operand A at pitch 32 (SA register 3, zero). -/
def wGmac : ShIns := ⟨7, false, 0, 16, 0, 0x04080000⟩
def wGm : ShIns := ⟨7, false, 1, 4, 3, 32⟩
theorem wit_gmac : wGmac.form = 0 ∧ (insSa wGmac % 4 = 0 ∧ insSb wGmac % 4 = 0 ∧ insSc wGmac % 8 = 0 ∧ insDst wGmac % 8 = 0) ∧
    insSa wGmac + 3 < 64 ∧ insSb wGmac + 3 < 64 ∧ insSc wGmac + 7 < 64 ∧ insDst wGmac + 7 < 64 ∧ nregOf (oneIns 6 0 wGmac) = 64 := by
  decide
theorem wit_gm : wGm.form = 1 ∧ gmSel wGm ≤ 2 ∧ insDst wGm % gmRegs (gmSel wGm) = 0 ∧ insSa wGm < nregOf (oneIns 6 1 wGm) ∧
    insDst wGm + gmRegs (gmSel wGm) - 1 < nregOf (oneIns 6 1 wGm) ∧
    gmBad (oneIns 6 1 wGm) 0 wGm (actLanes {} wGm) (uniform {} (activeLanes {}) (insSa wGm)).toNat = false := by decide +kernel
theorem wit_gm_runs : runsNext 6 0 wGmac ∧ runsNext 6 1 wGm ∧ runsNext 6 2 wGm := ⟨wit_runs _ _ _, wit_runs _ _ _, wit_runs _ _ _⟩

/-- Branches to the first instruction; SPLIT and LEAVE on predicate 0 complemented (true in every lane of a fresh group). -/
def wBr : ShIns := ⟨7, false, 1, 0, 0, 0⟩
def wBrNot : ShIns := ⟨0, true, 1, 0, 0, 0⟩
def wBrNone : ShIns := ⟨0, false, 1, 0, 0, 0⟩
theorem wit_branch : wBr.form = 1 ∧ wBr.sa = 0 ∧ wBr.dst = 0 ∧ wBr.low = 0 ∧ brJoin wBr = 0 ∧ brTarget wBr < 8 * (oneIns 7 0 wBr).code.length ∧
    noGuard wBr = true ∧ ({} : GroupSt).mask &&& guardLanes {} wBr = ({} : GroupSt).mask ∧
    ({} : GroupSt).mask &&& guardLanes {} wBrNone = 0 ∧ ({} : GroupSt).mask ≠ 0 ∧ ({} : GroupSt).mask &&& guardLanes {} wBrNot ≠ 0 ∧
    ({} : GroupSt).mask &&& ~~~(guardLanes {} wBrNone) ≠ 0 ∧ insDst wBr ≤ 8 := by decide
theorem wit_branch_runs : runsNext 7 0 wBr ∧ runsNext 7 0 wBrNone ∧ runsNext 7 1 wBrNot ∧ runsNext 7 3 wBr ∧ runsNext 7 4 wBrNone :=
  ⟨wit_runs _ _ _, wit_runs _ _ _, wit_runs _ _ _, wit_runs _ _ _, wit_runs _ _ _⟩
/-- The group stands at a JOIN with one path on its stack, or at a SPLIT with a full stack. -/
def stackStn (op : Nat) (w : ShIns) (l : List (Nat × BitVec 32)) : Stn := { oneIns 7 op w with groups := [(0, { stack := l })] }
theorem wit_stack (op : Nat) (w : ShIns) (l : List (Nat × BitVec 32)) :
    AtIns (stnState (stackStn op w l)) ⟨1, 0⟩ 7 op w (stackStn op w l) { stack := l } :=
  ⟨rfl, rfl, rfl, rfl, rfl, rfl, nofun, show codeAt (oneIns 7 op w) {} = _ from rfl⟩
theorem wit_stack_full : 14 < (List.replicate 15 ((0, 1) : Nat × BitVec 32)).length ∧ (1 : BitVec 32) ≠ 0 := by decide

/-- ISSUE of the descriptor at scratchpad byte 0: a gather (kind 1) of one element of 4 bytes, by addresses, to byte 128. -/
def wIssue : ShIns := ⟨7, false, 1, 0, 3, 0⟩
def issueStn : Stn :=
  { oneIns 8 0 wIssue with ls := [(0, 1), (1, 1), (4, 1), (16, 4), (20, 64), (24, 128)] }
def issueFull : Stn := { issueStn with groups := [(0, { counters := [15, 0, 0, 0] })] }
theorem wit_issue : AtIns (stnState issueStn) ⟨1, 0⟩ 8 0 wIssue issueStn {} ∧
    AtIns (stnState issueFull) ⟨1, 0⟩ 8 0 wIssue issueFull { counters := [15, 0, 0, 0] } :=
  ⟨⟨rfl, rfl, rfl, rfl, rfl, rfl, nofun, show codeAt (oneIns 8 0 wIssue) {} = _ from rfl⟩,
   ⟨rfl, rfl, rfl, rfl, rfl, rfl, nofun, show codeAt (oneIns 8 0 wIssue) {} = _ from rfl⟩⟩
theorem wit_issue_desc : wIssue.form = 1 ∧ insSa wIssue < nregOf issueStn ∧ actLanes {} wIssue ≠ [] ∧
    inScratch issueStn (uniform {} (activeLanes {}) (insSa wIssue)).toNat 64 = true ∧
    gdBad issueStn (lsRead issueStn (uniform {} (activeLanes {}) (insSa wIssue)).toNat 64) = false ∧
    ctrOf {} (insImm wIssue % 4) < 15 ∧ 15 ≤ ctrOf { counters := [15, 0, 0, 0] } (insImm wIssue % 4) := by decide +kernel
/-- A gather whose one piece is done. -/
def doneXfer : Xfer := { id := 7, kind := .gather, desc := 0, grp := some (0, 0), pieces := [⟨0, 0, 4, 2⟩], lo := 0, hi := 0, eng := 0 }
def gatherStn : Stn := { oneIns 8 0 wIssue with xfers := [doneXfer] }
theorem wit_gather : (stnState gatherStn).pwr.phase = .ready ∧ stnOf (stnState gatherStn) 1 = some gatherStn ∧
    doneXfer ∈ gatherStn.xfers ∧ (∀ g ∈ gatherStn.xfers, g.id = 7 → g = doneXfer) ∧ (∀ p ∈ doneXfer.pieces, p.st = 2) :=
  ⟨rfl, rfl, by simp [gatherStn], by simp [gatherStn], by decide⟩
theorem wit_msem : wReg.form = 0 ∧ insSa wReg + 1 < 64 ∧ insSb wReg + 1 < 64 ∧ actLanes {} wReg ≠ [] ∧
    uniform64 {} (activeLanes {}) (insSa wReg) % 8 = 0 ∧ uniform64 {} (activeLanes {}) (insSa wReg) < 2 ^ 52 := by decide
theorem wit_msem_runs : runsNext 8 1 wReg ∧ runsNext 8 2 wReg := ⟨wit_runs _ _ _, wit_runs _ _ _⟩

theorem wit_wait : wImm.form = 1 ∧ insDst wImm < nregOf (oneIns 10 4 wImm) ∧ insSa wImm < nregOf (oneIns 10 3 wImm) ∧
    ctrOf {} (insImm wImm % 4) ≤ bits (insImm wImm) 7 4 ∧ bits (insImm wImm) 7 4 < ctrOf { counters := [0, 1, 0, 0] } (insImm wImm % 4) ∧
    (0 : Nat) ∉ tget [] (oneIns 10 1 wImm).meets (insImm wImm % 8) ∧
    (uniform {} (activeLanes {}) (insSa wImm)).toInt ≤ signedOf 32 (tget 0 (oneIns 10 3 wImm).sems (insImm wImm % 16)) ∧
    signedOf 32 (tget 0 [(5, 0xFFFFFFFF)] (insImm wImm % 16)) < (uniform {} (activeLanes {}) (insSa wImm)).toInt := by decide
theorem wit_lock : tget (none, []) (oneIns 10 4 wImm).locks (insImm wImm % 32) = (none, []) ∧
    tget (none, []) [(5, ((some 0, []) : Option Nat × List Nat))] (insImm wImm % 32) = (some 0, []) ∧
    tget (none, []) [(5, ((some 1, []) : Option Nat × List Nat))] (insImm wImm % 32) = (some 1, []) := by decide
theorem wit_sync_runs (op : Nat) : runsNext 10 op wImm := wit_runs _ _ _
/-- The same with locks, semaphores or counters of the group given. -/
def syncStn (op : Nat) (l : Tbl (Option Nat × List Nat)) (m : Tbl Nat) (y : GroupSt) : Stn :=
  { oneIns 10 op wImm with locks := l, sems := m, groups := [(0, y)] }
theorem wit_sync (op : Nat) (l : Tbl (Option Nat × List Nat)) (m : Tbl Nat) :
    AtIns (stnState (syncStn op l m { counters := [0, 1, 0, 0] })) ⟨1, 0⟩ 10 op wImm (syncStn op l m { counters := [0, 1, 0, 0] })
      { counters := [0, 1, 0, 0] } :=
  ⟨rfl, rfl, rfl, rfl, rfl, rfl, nofun, show codeAt (oneIns 10 op wImm) {} = _ from rfl⟩

theorem wit_rest : wImm.form = 1 ∧ holdsLock (oneIns 11 1 wImm) 0 = false ∧ semUnsent (oneIns 11 1 wImm) 0 = false ∧ (∀ c ∈ ({} : GroupSt).counters, c = 0) ∧
    (∃ c ∈ ({ counters := [0, 1, 0, 0] } : GroupSt).counters, c ≠ 0) ∧
    holdsLock { oneIns 11 1 wImm with locks := [(0, (some 0, []))] } 0 = true ∧
    popPath {} (dropLanes ({} : GroupSt).mask ({} : GroupSt).stack) = none ∧
    popPath { mask := 1 } (dropLanes 1 [(8, 3)]) = some { pc := 8, mask := 2 } := by decide
theorem wit_ctrl (op : Nat) : runsNext 11 op wImm := wit_runs _ _ _

theorem wit_otherForm : ¬ ((2 = 4 ∨ 2 = 8) ∧ 0x500018 % 2 = 0 ∧ 0x500018 + 2 ≤ 2 ^ 25) := by decide
theorem wit_otherForm_misaligned : ¬ ((4 = 4 ∨ 4 = 8) ∧ 0x50001A % 4 = 0 ∧ 0x50001A + 4 ≤ 2 ^ 25) := by decide

/-- A module that is up with the host bus at BAR0. -/
def busState : State := { upState with pci := { upState.pci with active := true, linkUp := true } }

theorem wit_barUp : BarUp busState := by decide
theorem wit_cruWrite : (19 : Nat) < 20 ∧ 19 / 2 ∉ busState.seam.fenced := by decide
theorem wit_wdCfg : 1 ≤ busState.err.cmdMs ∧ busState.err.cmdMs ≤ 65535 ∧ 100 ≤ busState.err.homeUs ∧ busState.err.homeUs ≤ 65535 := by decide

/-- R15: a 4-byte write at offset 4 of a 64-bit register changes its upper half alone. -/
theorem test_half_write :
    (match exec (.registerWrite 0xB0000C 4 0x03E80014) busState with
     | .next t => (t.err.cmdMs, t.err.homeUs, t.err.graceDiv, t.err.graceMin)
     | _ => (0, 0, 0, 0)) = (20, 1000, 4, 65536) := by decide +kernel

theorem wit_readOff : 0x1FFFFF8 + 8 ≤ 2 ^ 25 ∧ 0x1FFFFF8 % 8 = 0 := by decide
theorem wit_busDown : busUp upState = false := rfl
theorem wit_halted : busUp { busState with pwr := { phase := .halted } } = true := rfl

def q0State (st : QState) (en : Bool) : State :=
  { busState with cmd := { busState.cmd with ready := true, q0enable := en, queues := [(0, { state := st, next := 7 })] } }

theorem wit_q0 : BarUp (q0State .stopped true) ∧ (q0State .stopped true).cmd.q0enable = true ∧
    8 ≤ (q0State .stopped true).cmd.q0log2 ∧ (q0State .stopped true).cmd.q0log2 ≤ 16 ∧ (q0State .stopped true).cmd.q0vec < 2048 ∧
    tget? (q0State .stopped true).cmd.queues 0 = some { state := .stopped, next := 7 } := by decide
theorem wit_q0_running : tget? (q0State .running true).cmd.queues 0 = some { state := .running, next := 7 } := rfl
theorem wit_q0_off : (q0State .free false).cmd.q0enable = false ∧ (tget? (q0State .free false).cmd.queues 0).isSome = true := by decide
theorem wit_msix : busState.pci.active = true ∧ busState.pci.linkUp = true ∧ busState.pci.d3hot = false ∧
    busState.pci.functionMask = false ∧ (2047 : Nat) < 2048 := by decide

/-- R618: a pending vector delivers one message when it is unmasked. -/
theorem test_unmask :
    (match exec (.msixUnmask 9) { busState with pci := { busState.pci with unmasked := [], pba := [9] } } with
     | .next t => (t.pci.unmasked, t.pci.pba, t.pci.msix)
     | _ => ([], [], [])) = ([9], [], [9]) := by decide +kernel

theorem wit_pendingWrite : BarUp busState ∧ (3 : Nat) < 20 ∧ 3 / 2 ∉ busState.seam.fenced := by decide
theorem wit_seamReq : (44 : Nat) < 45 ∧ (tget {} busState.seam.watch 44).retrains < 2 := by decide
def rbxState (m : Nat) : State := { busState with rbx := { busState.rbx with mode := m, groupSize := 2 } }
theorem wit_mode : BarUp (rbxState 1) ∧ ((rbxState 1).rbx.mode = 1 ∨ (rbxState 1).rbx.mode = 2) ∧
    (bits 0x30000 17 16 = 3 ∨ bits 0x30000 17 16 = (rbxState 1).rbx.mode) ∧ bits 0 17 16 = 0 := by decide
theorem wit_mode0 : BarUp (rbxState 0) ∧ (rbxState 0).rbx.mode = 0 ∧ (bits 0x2000123 17 16 = 0 ∨ bits 0x2000123 17 16 = 3) ∧
    (bits 0x2020123 17 16 = 1 ∨ bits 0x2020123 17 16 = 2) := by decide
theorem wit_retrain_out : (23 : Nat) < 24 ∧ 23 ∉ modePorts (rbxState 0).rbx.mode (rbxState 0).rbx.groupSize := by decide
theorem wit_retrain_in : (0 : Nat) ∈ modePorts (rbxState 1).rbx.mode (rbxState 1).rbx.groupSize ∧ (portOf (rbxState 1) 0).st = 0 := by decide
def owinState (n : Nat) : State := { busState with rbx := { busState.rbx with owins := [(5, { len := n })] } }
theorem wit_owin_ok : BarUp (owinState 2) ∧ (tget {} (owinState 2).rbx.owins 5).busy = false ∧
    owinError (putOwin 5 { tget {} (owinState 2).rbx.owins 5 with valid := false, owner := bits 0x10000 15 4, base := bits 0x10000 51 16 } (owinState 2))
      { tget {} (owinState 2).rbx.owins 5 with valid := false, owner := bits 0x10000 15 4, base := bits 0x10000 51 16 } = 0 := by
  decide +kernel
theorem wit_owin_len : (tget {} (owinState 1).rbx.owins 5).len < 2 ∧ (tget {} (owinState 1).rbx.owins 5).busy = false := by decide
theorem wit_unlock : (({ busState with sec := { busState.sec with sets := [(1, ⟨0, [], [], [], []⟩)] } } : State).sec.sets) ≠ [] ∧
    busState.err.rungs = [] := by decide
/-- A token of zeros unlocks a device whose hash and nonce are zero, where the debug key accepts its signature. -/
theorem wit_unlocks (h : ∀ i, Config.deviceHash i = 0) (n : Config.nonce 0 = 0) (g : Config.dbgSigOk (tokenBytes busState) = true) :
    unlockResult busState = 1 := by
  have e : tokenBytes busState = List.replicate 256 0 := by decide +kernel
  have k : (List.range 48).map Config.deviceHash = List.replicate 48 0 := by
    rw [List.map_congr_left (fun i _ => h i)]; rfl
  have z : zeroAt (List.replicate 256 (0 : Byte)) 56 104 = true := by decide +kernel
  have f : field (List.replicate 256 (0 : Byte)) 48 8 = 0 := by decide +kernel
  have m : nonceNow busState = 0 := by
    show Config.nonce 0 % 2 ^ 64 = 0
    rw [n, Nat.zero_mod]
  have w : busState.sec.sets.isEmpty = true := by decide
  rw [e] at g
  have t : (List.replicate 256 (0 : Byte)).take 48 = List.replicate 48 0 := by decide +kernel
  have q : (decide (List.replicate 48 (0 : Byte) = List.replicate 48 0) && true && true) = true := by simp only [decide_true, Bool.and_true]
  show (if !busState.sec.sets.isEmpty then 2 else if !(decide ((tokenBytes busState).take 48 = (List.range 48).map Config.deviceHash) && zeroAt (tokenBytes busState) 56 104 && Config.dbgSigOk (tokenBytes busState)) then 3 else if field (tokenBytes busState) 48 8 ≠ nonceNow busState then 4 else 1) = 1
  rw [e, k, z, f, m, g, w, t, q]
  rfl

theorem wit_brake : ({ upState with pwr := { upState.pwr with brake := true } } : State).pwr.brake = true ∧ upState.pwr.brake = false := by decide

def goodBoot : BootIn :=
  { straps := [], lanes := [], words := [], chFail := [], fuseOk := true, memFail := none, pd1Answers := true, imageReady := true,
    perst := false, pwrbrk := false, trayStop := false, addr := 2, linkTrains := true, calOk := true, elapsed := 50000 }
theorem wit_powerOn : State.reset.pwr.phase = .off ∧ goodBoot.straps = [] ∧ goodBoot.lanes = [] ∧ goodBoot.words = [] ∧
    goodBoot.fuseOk = true ∧ goodBoot.memFail = none ∧ goodBoot.imageReady = true ∧ goodBoot.pd1Answers = true ∧
    bootOrder State.reset = [] ∧ strapOk (strapRead goodBoot.straps pd0) = true := by decide +kernel
theorem wit_badStrap : strapOk (strapRead [(0x30, 0x0001)] pd0) = false := by decide +kernel
def startingState : State := { State.reset with pwr := { phase := .starting } }
theorem wit_imageFault : startingState.pwr.phase = .starting ∧ (∀ x ∈ bootOrder startingState, x ∈ startingState.sec.tried) := by
  have h : bootOrder startingState = [] := by decide +kernel
  rw [h]; exact ⟨rfl, by simp⟩
/-- An image without code: header of R558, SVN 65,535, FLOOR 0, the digest of no bytes, and a signature of zeros. -/
def anImage : Image :=
  ⟨leBytes 4 0x47554855 ++ leBytes 2 1 ++ leBytes 2 65535 ++ zeros 8 ++ zeros 8 ++ (List.range 48).map (Config.sha384 []) ++ zeros 184⟩
def imageState : State := { State.reset with pwr := { phase := .starting }, sec := { imageA := anImage } }
theorem anImage_len : anImage.bytes.length = 256 := by decide +kernel
/-- A valid image to boot, where the key accepts its signature and the fused floor admits its SVN. -/
theorem wit_valid (h : Config.fwSigOk (anImage.bytes.take 168) = true) (k : Config.svnFloor ≤ 65535) :
    bootOrder imageState = [false] ∧ (bootOrder imageState).filter (fun x => decide (x ∉ imageState.sec.tried)) = [false] := by
  have b : imageValid imageState ⟨[]⟩ = false := by decide +kernel
  have e : anImage.bytes.drop 256 = [] := List.drop_eq_nil_of_le (by rw [anImage_len])
  have a : imageValid imageState anImage = true := by
    unfold imageValid
    simp only [h, e, anImage_len, Bool.and_true, Bool.and_eq_true, decide_eq_true_eq]
    refine ⟨⟨⟨⟨⟨⟨by decide, by decide⟩, ?_⟩, ?_⟩, ?_⟩, ?_⟩, ?_⟩
    all_goals first
      | rfl
      | exact max_le k (by decide)
  have o : bootOrder imageState = [false] := by
    have a' : imageValid imageState imageState.sec.imageA = true := a
    have b' : imageValid imageState imageState.sec.imageB = false := b
    simp [bootOrder, a', b']
  rw [o]; exact ⟨rfl, by decide⟩
theorem wit_overvoltage : State.reset.pwr.phase ≠ .offTrip ∧
    ({ State.reset with pwr := { phase := .offTrip } } : State).pwr.phase = .offTrip := by decide

theorem wit_thermal : powered upState = true ∧ (9 : Nat) ∈ allDies ∧ (0x31 : Nat) ∈ allDies ∧ (10 : Nat) ≤ 0x31 ∧ (10 : Nat) ∉ allDies ∧
    tget 1 ({ upState with pwr := { upState.pwr with mode := [(3, 0)] } } : State).pwr.mode 3 ≠ 1 := by
  decide
theorem wit_heatPoint : 1 ≤ (halfClk upState 7).point ∧ pointVolt upState 7 ((halfClk upState 7).point - 1) ≠ 0 := by
  refine ⟨by decide, ?_⟩
  simp [pointVolt, vfEntry, halfClk, upState, tget, tget?]

/-- R548: at 115 °C the module trips. -/
theorem test_trip : (match exec (.thermalSample 3 115) upState with
    | .next t => (decide (t.pwr.phase = .offTrip), t.pin.thermtrip)
    | _ => (false, false)) = (true, true) := by decide +kernel
/-- R543: one full hour. -/
theorem test_hour : (match exec .poweredHour upState with
    | .next t => t.pwr.hours
    | _ => 0) = 1 := by decide

def boostState : State := { upState with pwr := { upState.pwr with mode := [(3, 0)], modeSel := 0 } }
theorem wit_boost : boostState.pwr.phase = .ready ∧ (3 : Nat) < 10 ∧ 3 ∉ boostState.seam.fenced ∧ tget 1 boostState.pwr.mode 3 = 0 ∧
    partThrottled boostState 3 = false ∧ (halfClk boostState 6).point ≤ 12 ∧ (halfClk boostState 7).point ≤ 12 := by decide
theorem wit_points : ∀ h k, k ≤ 12 → pointVolt boostState h k ≠ 0 := by
  intro h k hk
  simp only [pointVolt, vfEntry, boostState, upState]
  simp [hk]
theorem wit_fencedPart : (4 : Nat) ∈ ({ upState with seam := { upState.seam with fenced := [4] } } : State).seam.fenced := by decide
theorem wit_grant : grantOf { upState with pwr := { upState.pwr with grants := [(bk 5 0, 7)] } } 5 0 = some 7 := by decide

def pinState (b t : Bool) : State := { upState with pin := { upState.pin with pwrbrk := b, trayStop := t } }
theorem wit_pins : (pinState true false).pwr.phase = .ready ∧ (pinState true false).pin.pwrbrk = true ∧ (pinState true false).pin.trayStop = false ∧
    (pinState false true).pin.trayStop = true ∧ (pinState false true).pin.pwrbrk = false := by decide
theorem wit_chat : chatDue (pinState true false) 0 ∧ chatDue (pinState true false) 1 ∧ chatDue (pinState false true) 2 :=
  ⟨fun _ h => (by cases h), fun _ h => (by cases h), fun _ h => (by cases h)⟩
def chatState (i : Nat) : State := { upState with pin := { upState.pin with chatAt := [(i, 0)] } }
theorem wit_chatted : ¬ chatDue (chatState 0) 0 ∧ ¬ chatDue (chatState 1) 1 ∧ ¬ chatDue (chatState 2) 2 :=
  ⟨fun h => absurd (h 0 rfl) (by decide), fun h => absurd (h 0 rfl) (by decide), fun h => absurd (h 0 rfl) (by decide)⟩
/-- R651: a second and no more. -/
theorem wit_chatEnd : chatDue { chatState 1 with clk := { (chatState 1).clk with ref := [(0x30, 25000000)] } } 1 :=
  fun c h => (by have : c = 0 := (Option.some.inj h).symm
                 subst this; decide)

theorem wit_link : busState.pwr.phase = .ready ∧ busState.pin.perst = false ∧ busState.err.rungs = [] ∧ busState.pci.active = true ∧
    busState.pci.linkUp = true ∧ busUp busState = true ∧ busState.pci.bar4Log2 = 36 ∧ busState.pci.d3hot = false ∧
    upState.pci.linkUp = false := by decide
theorem wit_perstOff : ({ upState with pin := { upState.pin with perst := true } } : State).pin.perst = true := by decide
theorem wit_d3 : ({ busState with pci := { busState.pci with d3hot := true } } : State).pci.d3hot = true := by decide

theorem wit_sideband : sidebandUp busState = true ∧ powered busState = true ∧ busState.pin.jtag ≠ some .extest ∧ busState.err.rungs = [] ∧
    ({ busState with pin := { busState.pin with jtag := some .extest } } : State).pin.jtag = some .extest := by decide
theorem wit_sensor : ∀ d ∈ allDies, (7 : Nat) ≠ 16 + d := fun d _ => by omega

/-- R646: the IDCODE. -/
theorem test_idcode : (match exec (.jtagInstruction .idcode) upState with
    | .next t => t.pin.tdo
    | _ => 0) = 0x14B2074F := by decide +kernel

/-- Queue 3 of the manager, taking packets, with one sealed packet of 64 bytes at its first slot: opcode CTX_FLAGS, LEN 1. -/
def sealQueue : Queue := { num := 3, state := .running, sealed := [(0, 1)] }
def sealState : State :=
  { busState with cmd := { busState.cmd with ready := true, queues := [(3, sealQueue)], window := [(196612, 3), (196613, 1), (196614, 1)] } }
theorem wit_bar2 : sealState.pwr.phase = .ready ∧ busUp sealState = true ∧ ([1, 2, 3] : List Byte).length < 8 ∧ 3 * 65536 + 3 ≤ 2 ^ 26 ∧
    (tget? sealState.cmd.queues (3 * 65536 / 65536)).isSome ∧ tget? sealState.cmd.queues (4 * 65536 / 65536) = none := by decide
theorem wit_seal : (3 : Nat) < 1024 ∧ tget? sealState.cmd.queues 3 = some sealQueue ∧ queueOn sealState 3 sealQueue = true ∧
    seqDiff 127 sealQueue.next < 2 ^ 31 ∧ seqDiff 127 (creditOf sealQueue) < 128 ∧ 2 ^ 31 ≤ seqDiff 0xFFFFFFFF sealQueue.next ∧
    128 ≤ seqDiff 128 (creditOf sealQueue) ∧ seqDiff 128 sealQueue.next < 2 ^ 31 ∧ 128 % 128 ≠ 1 ∧ (0 : Nat) ≠ 0x5EA1 := by decide
theorem wit_take : sealState.cmd.ready = true ∧ sealState.pci.d3hot = false ∧ (∀ c ∈ sealQueue.cmds, c.phase ≠ .taken) ∧ bar4Pending sealState = false ∧
    sealQueue.sealed.find? (fun e => decide (e.1 = sealQueue.next)) = some (0, 1) ∧
    field (windowBytes sealState (3 * 65536 + 0 % 128 * 512) (64 * 1)) 0 4 = 0 ∧
    field (windowBytes sealState (3 * 65536 + 0 % 128 * 512) (64 * 1)) 6 1 = 1 := by decide +kernel
theorem wit_take_bad : field (windowBytes { sealState with cmd := { sealState.cmd with window := [(196608, 9)] } } (3 * 65536 + 0 % 128 * 512) (64 * 1)) 0 4 ≠ 0 := by decide +kernel
def takenCmd : TakenCmd := { cmdOf 0x0103 0 [] with phase := .taken, admitted := false }
def takenQueue : Queue := { num := 1, state := .running, next := 6, cmds := [takenCmd] }
def takenState : State := { upState with cmd := { upState.cmd with queues := [(1, takenQueue)] } }
theorem wit_start : tget? takenState.cmd.queues 1 = some takenQueue ∧ takenQueue.cmds.find? (fun c => decide (c.seq = 5)) = some takenCmd ∧
    takenState.pin.trayStop = false ∧ readyToAdmit takenState 1 takenQueue takenCmd = true ∧
    admitAhead takenState takenCmd.ctx (admitPart takenQueue (sharesOf takenState 1 takenQueue takenCmd)) = false ∧
    admits takenState (sharesOf takenState 1 takenQueue takenCmd) (admitPart takenQueue (sharesOf takenState 1 takenQueue takenCmd)) = true ∧
    launchOf takenState 1 5 = none := by decide +kernel
/-- A placed LAUNCH, taken on queue 1. -/
def placedCmd : TakenCmd := { takenCmd with op := 0x0304 }
def placedQueue : Queue := { takenQueue with cmds := [placedCmd] }
def placedLaunch : Launch :=
  { q := 1, seq := 5, ctx := 0, slice := 0, recipe := 0, recipeId := 0, d := 0, count := 1, plan := 0, hist := 0, telem := 0,
    homePart := 0, noWait := false, order := 0, ph := .placed, insts := [], saveGrans := 0, victimOf := [] }
def placedState : State :=
  { takenState with
    cmd := { takenState.cmd with queues := [(1, placedQueue)] }, sch := { takenState.sch with launches := [(0, placedLaunch)] } }
theorem wit_start_launch : placedQueue.cmds.find? (fun c => decide (c.seq = 5)) = some placedCmd ∧ readyToAdmit placedState 1 placedQueue placedCmd = true ∧
    admitAhead placedState placedCmd.ctx (admitPart placedQueue (sharesOf placedState 1 placedQueue placedCmd)) = false ∧
    admits placedState (sharesOf placedState 1 placedQueue placedCmd) (admitPart placedQueue (sharesOf placedState 1 placedQueue placedCmd)) = true ∧
    launchOf placedState 1 5 = some (0, placedLaunch) := by decide +kernel
/-- A partition in fixed-frequency mode whose mean input is at its cap holds the start back; so does a budget that is spent. -/
theorem wit_start_hold : fixedHold { takenState with pwr := { takenState.pwr with mode := [(0, 0)], remaining := [(16, -5)], mean1ms := 9000 } } 0 = false := by decide
theorem wit_start_stopped : ({ takenState with pin := { takenState.pin with trayStop := true } } : State).pin.trayStop = true := by decide

def doneCmd : TakenCmd := { cmdOf 0x0103 0 [] with phase := .done 0x0015 7, flags := 2 }
def doneQueue : Queue := { num := 1, state := .running, next := 6, ring := 0x8000, vector := 40, replies := 256, cmds := [doneCmd] }
def doneState : State := { upState with pci := { upState.pci with unmasked := [40] }, cmd := { upState.cmd with queues := [(1, doneQueue)] } }
theorem wit_reply : tget? doneState.cmd.queues 1 = some doneQueue ∧ doneQueue.cmds.find? (fun c => decide (c.seq = 5)) = some doneCmd ∧
    doneCmd.phase = .done 0x0015 7 ∧ doneCmd.op ≠ 0x0105 ∧ cmdOutstanding doneState 1 5 = false ∧ oldEntriesUsed doneState doneCmd = false ∧ doneCmd.retries.any (untried doneState) = false ∧ doneState.pci.functionMask = false ∧
    (ringOf doneState 1 doneQueue).2.2 ∈ doneState.pci.unmasked := by decide +kernel
theorem wit_reply_not : ∀ st d, (cmdOf 0x0103 0 []).phase ≠ .done st d := by intro st d h; cases h
def evState (en : Bool) : State :=
  { upState with pci := { upState.pci with unmasked := [0] }, cmd := { upState.cmd with evEnable := en, evTail := 8, evq := [⟨zeros 64, none⟩] } }
theorem wit_event : (evState true).pwr.phase = .ready ∧ evRoom (evState true) = true ∧ evRoom (evState false) = false ∧
    (evState true).pci.functionMask = false ∧ (evState true).cmd.evVec ∈ (evState true).pci.unmasked ∧ upState.cmd.evq = [] := by decide

/-- R394: the second pass of the ring has phase bit 0. -/
theorem test_phase : (match exec (.reply 1 5) doneState with
    | .next t => (tget 0 t.host.mem 0x8006, tget 0 t.host.mem 0x8004, t.pci.msix)
    | _ => (9, 9, [])) = (0, 0x15, [40]) := by decide +kernel

def ctxArgs : List (Nat × Nat × Nat) := [(2, 1, 3), (3, 1, 1), (4, 2, 10000), (6, 1, 1)]
theorem wit_ctxCreate : Started (cmdState 0x0101 0 ctxArgs) 1 5 0x0101 (cmdQueue 0 0x0101 0 ctxArgs) (cmdOf 0x0101 0 ctxArgs) ∧
    par (cmdOf 0x0101 0 ctxArgs) 0 2 = 0 ∧ par (cmdOf 0x0101 0 ctxArgs) 2 1 = 3 ∧ par (cmdOf 0x0101 0 ctxArgs) 4 2 = 10000 ∧
    par (cmdOf 0x0101 0 ctxArgs) 3 1 = 1 ∧ par (cmdOf 0x0101 0 ctxArgs) 6 1 = 1 ∧ (tenantCtxs (cmdState 0x0101 0 ctxArgs)).length < 4095 := by decide +kernel
def withCtx (x : Ctx) (s : State) : State := { s with ten := { s.ten with ctxs := [(7, x)] } }
theorem wit_ctxDestroy : Started (withCtx { slice := 0 } (cmdState 0x0102 7 [])) 1 5 0x0102 (cmdQueue 0 0x0102 7 []) (cmdOf 0x0102 7 []) ∧
    tget? (withCtx { slice := 0 } (cmdState 0x0102 7 [])).ten.ctxs 7 = some { slice := 0 } ∧ (cmdOf 0x0102 7 []).ctx = 7 ∧
    (cmdState 0x0102 7 []).err.rungs = [] ∧ rungReq? (withCtx { slice := 0, dead := true } (cmdState 0x0102 7 [])) 1 7 = none ∧ (cmdState 0x0107 7 [(0, 4, 1), (4, 1, 1)]).err.rungs = [] ∧
    par (cmdOf 0x0107 7 [(0, 4, 1), (4, 1, 1)]) 4 1 = 1 := by decide +kernel
theorem wit_ctxFlags : Started (cmdState 0x0103 0 []) 1 5 0x0103 (cmdQueue 0 0x0103 0 []) (cmdOf 0x0103 0 []) ∧
    (ctxOf (cmdState 0x0103 0 []) 0).isSome := by decide +kernel
def queueArgs : List (Nat × Nat × Nat) := [(0, 8, 0x8020), (12, 2, 1023), (16, 2, 2047), (18, 1, 9), (19, 1, 1), (20, 1, 16)]
theorem wit_queueCreate : Started (cmdState 0x0104 0 queueArgs) 1 5 0x0104 (cmdQueue 0 0x0104 0 queueArgs) (cmdOf 0x0104 0 queueArgs) ∧
    par (cmdOf 0x0104 0 queueArgs) 12 2 = 1023 ∧ tget? (cmdState 0x0104 0 queueArgs).cmd.queues 1023 = none ∧
    par (cmdOf 0x0104 0 queueArgs) 20 1 = 16 ∧ par (cmdOf 0x0104 0 queueArgs) 19 1 = 1 ∧ par (cmdOf 0x0104 0 queueArgs) 18 1 = 9 ∧
    par (cmdOf 0x0104 0 queueArgs) 16 2 = 2047 ∧ par (cmdOf 0x0104 0 queueArgs) 0 8 % 32 = 0 ∧ par (cmdOf 0x0104 0 queueArgs) 14 2 = 0 ∧
    queueOwner (cmdState 0x0104 0 queueArgs) 1023 = none ∧ sliceThere (cmdState 0x0104 0 queueArgs) 0 = true := by decide +kernel
def twoQueues (op : Nat) (ps : List (Nat × Nat × Nat)) (v : Queue) : State :=
  { cmdState op 0 ps with cmd := { (cmdState op 0 ps).cmd with queues := [(1, cmdQueue 0 op 0 ps), (2, v)] } }
theorem wit_queueDestroy : Started (twoQueues 0x0105 [(0, 2, 2)] { num := 2 }) 1 5 0x0105 (cmdQueue 0 0x0105 0 [(0, 2, 2)]) (cmdOf 0x0105 0 [(0, 2, 2)]) ∧
    par (cmdOf 0x0105 0 [(0, 2, 2)]) 0 2 = 2 ∧ tget? (twoQueues 0x0105 [(0, 2, 2)] { num := 2 }).cmd.queues 2 = some { num := 2 } := by decide +kernel
theorem wit_queueDestroy_self : Started (cmdState 0x0105 0 [(0, 2, 1)]) 1 5 0x0105 (cmdQueue 0 0x0105 0 [(0, 2, 1)]) (cmdOf 0x0105 0 [(0, 2, 1)]) ∧
    par (cmdOf 0x0105 0 [(0, 2, 1)]) 0 2 = 1 ∧ (∀ x ∈ (cmdQueue 0 0x0105 0 [(0, 2, 1)]).cmds, x.seq = 5) ∧
    (cmdQueue 0 0x0105 0 [(0, 2, 1)]).stopSeq = none := by decide +kernel
theorem wit_queueReset : Started (twoQueues 0x0106 [(4, 2, 2)] { num := 2, state := .stopped }) 1 5 0x0106 (cmdQueue 0 0x0106 0 [(4, 2, 2)])
      (cmdOf 0x0106 0 [(4, 2, 2)]) ∧ par (cmdOf 0x0106 0 [(4, 2, 2)]) 4 2 = 2 ∧
    tget? (twoQueues 0x0106 [(4, 2, 2)] { num := 2, state := .stopped }).cmd.queues 2 = some { num := 2, state := .stopped } := by decide +kernel
def faultCtx : Ctx := { slice := 0, unresolved := [⟨0, []⟩, ⟨1, []⟩] }
theorem wit_faultResume : Started (withCtx faultCtx (cmdState 0x0107 7 [(0, 4, 1)])) 1 5 0x0107 (cmdQueue 0 0x0107 7 [(0, 4, 1)]) (cmdOf 0x0107 7 [(0, 4, 1)]) ∧
    ctxOf (withCtx faultCtx (cmdState 0x0107 7 [(0, 4, 1)])) 7 = some faultCtx ∧ faultCtx.dead = false ∧ par (cmdOf 0x0107 7 [(0, 4, 1)]) 4 1 = 0 ∧
    (∃ y ∈ faultCtx.unresolved, y.seq = par (cmdOf 0x0107 7 [(0, 4, 1)]) 0 4) ∧
    (∀ y ∈ faultCtx.unresolved, y.seq ≠ par (cmdOf 0x0107 7 [(0, 4, 2)]) 0 4) := by decide +kernel

/-- An extent of one granule on stack 0, number 5, owned by context 0 and mapped there at 64 KiB. -/
def extA : Extent :=
  { gen := 0, length := 65536, placement := 2, place := 0, attr := 0, sharedSet := 9, replicaWhere := 0, sealSet := 0, owner := 0,
    slice := 0, stks := [0], grans := [[1]], tagGrans := [], repStacks := [], repGrans := [], loaded := [], damaged := false,
    withdrawn := false, repaired := 0, damagedAt := 0 }
def withExt (x : Extent) (s : State) : State :=
  { s with xt := { s.xt with extents := [(5, x)], gens := [(5, 0)], maps := [⟨0, 65536, 5, false⟩] } }
def createArgs : List (Nat × Nat × Nat) := [(0, 8, 65536), (8, 8, 131072), (20, 1, 2), (21, 1, 19), (22, 2, 0x08)]
theorem wit_extCreate : Started (cmdState 0x0201 0 createArgs) 1 5 0x0201 (cmdQueue 0 0x0201 0 createArgs) (cmdOf 0x0201 0 createArgs) ∧
    recordOk (cmdOf 0x0201 0 createArgs) = true ∧ (ctxOf (cmdState 0x0201 0 createArgs) 0) = some { slice := 0 } ∧
    mapRefusal (cmdState 0x0201 0 createArgs) 0 65536 131072 = none ∧
    createShares (cmdState 0x0201 0 createArgs) (cmdOf 0x0201 0 createArgs) = ([(19, 2)], []) := by decide +kernel
theorem wit_extCreate_quota : 2 + usedQuota (cmdState 0x0201 0 createArgs) 0 ≤ quotaGrans (cmdState 0x0201 0 createArgs) 0 := by decide +kernel
theorem wit_extCreate_shares : takeShares (cmdState 0x0201 0 createArgs) false [(19, 2)] [7] = some ([(19, [7, 0], [])], []) := by
  decide +kernel
theorem wit_extCreate_overlap : mapRefusal (withExt extA (cmdState 0x0201 0 createArgs)) 0 65536 131072 = some 0x0031 := by decide +kernel
theorem wit_extCreate_refusals : recordOk (cmdOf 0x0201 0 []) = false ∧ takeShares (setCru 19 (fun c => { c with mapped := true }) (cmdState 0x0201 0 createArgs)) false [(19, 1)] [7] = none ∧
    createShares { cmdState 0x0201 0 createArgs with seam := { (cmdState 0x0201 0 createArgs).seam with fenced := [9] } } (cmdOf 0x0201 0 createArgs) = ([], []) ∧
    quotaGrans (cmdState 0x0201 0 createArgs) 3 < usedQuota (cmdState 0x0201 0 createArgs) 3 + 2 := by decide +kernel
def shareArgs : List (Nat × Nat × Nat) := [(0, 8, 131072), (8, 4, 5), (12, 2, 7)]
def shareState : State := withExt extA (withCtx { slice := 0 } (cmdState 0x0203 0 shareArgs))
theorem wit_extShare : Started shareState 1 5 0x0203 (cmdQueue 0 0x0203 0 shareArgs) (cmdOf 0x0203 0 shareArgs) ∧
    ctxOf shareState 7 = some { slice := 0 } ∧ cmdExtent shareState 5 = some (5, extA) ∧ extA.sharedSet ≠ 0 ∧
    (∀ m ∈ shareState.xt.maps, ¬ (m.ctx = 7 ∧ m.num = 5)) ∧ mapRangeOk 131072 65536 = true ∧ mapRefusal shareState 7 131072 65536 = none ∧
    attrSealed extA.attr = false ∧ readOnlyFor extA 7 = false ∧ readOnlyFor { extA with attr := 1 } 7 = true := by decide +kernel
def extCmd (op : Nat) (ps : List (Nat × Nat × Nat)) : State := withExt extA (cmdState op 0 ps)
theorem wit_extUnmap : Started (extCmd 0x0204 [(0, 8, 65536)]) 1 5 0x0204 (cmdQueue 0 0x0204 0 [(0, 8, 65536)]) (cmdOf 0x0204 0 [(0, 8, 65536)]) ∧
    (extCmd 0x0204 [(0, 8, 65536)]).xt.maps.find? (fun m => decide (m.ctx = par (cmdOf 0x0204 0 [(0, 8, 65536)]) 8 2 ∧
      m.start = par (cmdOf 0x0204 0 [(0, 8, 65536)]) 0 8)) = some ⟨0, 65536, 5, false⟩ := by decide +kernel
theorem wit_extQuery : Started (extCmd 0x0205 [(0, 8, 131071)]) 1 5 0x0205 (cmdQueue 0 0x0205 0 [(0, 8, 131071)]) (cmdOf 0x0205 0 [(0, 8, 131071)]) ∧
    findMap (extCmd 0x0205 []) 0 131071 = some (⟨0, 65536, 5, false⟩, extA) ∧ findMap (extCmd 0x0205 []) 0 131072 = none := by decide +kernel
theorem wit_extDestroy : Started (extCmd 0x0202 [(0, 4, 5)]) 1 5 0x0202 (cmdQueue 0 0x0202 0 [(0, 4, 5)]) (cmdOf 0x0202 0 [(0, 4, 5)]) ∧
    cmdExtent (extCmd 0x0202 []) 5 = some (5, extA) ∧ extGranList extA = [(0, 1)] := by decide +kernel
/-- R367: the extent's granule is zeroed, the byte after it is not. -/
theorem test_destroy_zeroes : (match exec (.extDestroy 1 5) { extCmd 0x0202 [(0, 4, 5)] with mem := { cells := [(131071, 9), (131072, 8)] } } with
    | .next t => t.mem.cells
    | _ => []) = [(131072, 8)] := by decide +kernel

def pinArgs (n : Nat) : List (Nat × Nat × Nat) := [(8, 4, n), (12, 4, 5)]
theorem wit_pin : Started (extCmd 0x0206 (pinArgs 1)) 1 5 0x0206 (cmdQueue 0 0x0206 0 (pinArgs 1)) (cmdOf 0x0206 0 (pinArgs 1)) ∧
    ctxOf (extCmd 0x0206 (pinArgs 1)) 0 = some { slice := 0 } ∧ cmdExtent (extCmd 0x0206 (pinArgs 1)) 5 = some (5, extA) ∧
    pinRangeOk extA 0 1 = true ∧ pinRangeOk extA 0 2 = false ∧ pinRangeOk extA 0 0 = false := by decide +kernel
theorem wit_pin_check : (pinCheck (extCmd 0x0206 (pinArgs 1)) 0 [512 + 1]) = 2 := by decide +kernel
theorem wit_pin_preload : (hline (extCmd 0x0206 (pinArgs 1)) 512).cached = false ∧ par (cmdOf 0x0206 0 ((16, 1, 1) :: pinArgs 1)) 16 1 = 1 := by decide +kernel
theorem wit_unpin : Started (extCmd 0x0207 (pinArgs 1)) 1 5 0x0207 (cmdQueue 0 0x0207 0 (pinArgs 1)) (cmdOf 0x0207 0 (pinArgs 1)) ∧
    cmdExtent (extCmd 0x0207 (pinArgs 1)) 5 = some (5, extA) := by decide +kernel
def apArgs (n r : Nat) : List (Nat × Nat × Nat) := [(0, 8, 65536), (8, 4, 1048575), (12, 4, n), (18, 1, r)]
theorem wit_aperture : Started (extCmd 0x0208 (apArgs 1 7)) 1 5 0x0208 (cmdQueue 0 0x0208 0 (apArgs 1 7)) (cmdOf 0x0208 0 (apArgs 1 7)) ∧
    par (cmdOf 0x0208 0 (apArgs 1 7)) 8 4 + par (cmdOf 0x0208 0 (apArgs 1 7)) 12 4 ≤ 2 ^ ((extCmd 0x0208 (apArgs 1 7)).pci.bar4Log2 - 16) ∧
    (findMap (extCmd 0x0208 (apArgs 1 7)) 0 65536).isSome ∧ readOnlyFor extA 0 = false ∧ bitOf (par (cmdOf 0x0208 0 (apArgs 1 7)) 18 1) 2 = true ∧
    bitOf (par (cmdOf 0x0208 0 (apArgs 1 3)) 18 1) 2 = false ∧ findMap (extCmd 0x0208 (apArgs 1 7)) 0 131072 = none ∧
    attrSealed ({ extA with attr := 3 } : Extent).attr = true := by decide +kernel
def winArgs (n : Nat) : List (Nat × Nat × Nat) := [(0, 8, 0x1000), (8, 2, 255), (12, 2, 6), (14, 1, n)]
def winTable : List (Nat × Nat) := [(0x100A, 1), (0x1012, 1), (0x1018, 15), (0x101A, 0xFF), (0x101B, 0x0F)]
def winState (n : Nat) : State := hostOf winTable (extCmd 0x0209 (winArgs n))
theorem wit_window : Started (winState 1) 1 5 0x0209 (cmdQueue 0 0x0209 0 (winArgs 1)) (cmdOf 0x0209 0 (winArgs 1)) ∧
    winEntryOk (hostRead (winState 1) none 0x1000 32) = true ∧ winEntry (hostRead (winState 1) none 0x1000 32) = ⟨0, 65536, 65536, 15, 4095⟩ ∧
    winDisjoint [⟨0, 65536, 65536, 15, 4095⟩] = true ∧ winMapped (winState 1) 0 ⟨0, 65536, 65536, 15, 4095⟩ = true ∧
    winMapped (winState 1) 0 ⟨0, 131072, 65536, 15, 4095⟩ = false ∧ sliceWindows (winState 1) 0 255 < windowQuota (winState 1) 0 ∧
    par (cmdOf 0x0209 0 (winArgs 0)) 14 1 = 0 := by decide +kernel
def ctrArgs : List (Nat × Nat × Nat) := [(0, 2, 3), (2, 2, 0x8001)]
def ctrState (own : Nat) : State :=
  { cmdState 0x020A 0 ctrArgs with xt := { windows := [(3, ⟨own, 0, []⟩)], counters := [(48, 7), (49, 7), (63, 7), (64, 7)] } }
theorem wit_counter : Started (ctrState 0) 1 5 0x020A (cmdQueue 0 0x020A 0 ctrArgs) (cmdOf 0x020A 0 ctrArgs) ∧
    tget? (ctrState 0).xt.windows 3 = some ⟨0, 0, []⟩ ∧ tget? (ctrState 9).xt.windows 3 = some ⟨9, 0, []⟩ ∧ par (cmdOf 0x020A 0 ctrArgs) 0 2 = 3 := by
  decide +kernel
theorem test_counters : (match exec (.counterReset 1 5) (ctrState 0) with
    | .next t => t.xt.counters
    | _ => []) = [(49, 7), (64, 7)] := by decide +kernel

/-- A Recipe of one Matrix Station with an empty descriptor list: 256 bytes. -/
def tinyBody : List Byte :=
  layout 256 [(0, leBytes 4 0x5043524B), (4, leBytes 2 1), (8, leBytes 4 256), (16, [1, 1, 1]), (20, [1]), (28, [1]),
    (64, leBytes 4 128), (68, [1]), (72, leBytes 4 192), (76, [32]), (128, [1]), (194, [1])]
def tinyRecipe : List Byte := tinyBody.take 12 ++ leBytes 4 (crc32c tinyBody) ++ tinyBody.drop 16
theorem crc_lt (bs : List Byte) : crc32c bs < 2 ^ 32 := BitVec.isLt _
theorem tiny_crc : field tinyRecipe 12 4 = crc32c (tinyRecipe.take 12 ++ zeros 4 ++ tinyRecipe.drop 16) := by
  have h : tinyRecipe.take 12 ++ zeros 4 ++ tinyRecipe.drop 16 = tinyBody := by decide +kernel
  have g : ∀ v, v < 2 ^ 32 → field (tinyBody.take 12 ++ leBytes 4 v ++ tinyBody.drop 16) 12 4 = v := by
    intro v hv
    show (BitVec.ofNat 8 v).toNat + 256 * ((BitVec.ofNat 8 (v / 256)).toNat + 256 * ((BitVec.ofNat 8 (v / 256 / 256)).toNat +
      256 * ((BitVec.ofNat 8 (v / 256 / 256 / 256)).toNat + 256 * 0))) = v
    simp only [BitVec.toNat_ofNat]; omega
  rw [h]; exact g _ (crc_lt _)
theorem wit_recipe_sound : recipeFault tinyRecipe 256 = none := by
  unfold recipeFault headFails; rw [decide_eq_true tiny_crc]; decide +kernel
/-- R87: the lowest failing offset of the first failing row: a file of 128 bytes is not 256 bytes. -/
theorem test_recipe_magic : (recipeFault (zeros 128) 128).map (·.1) = some 0x0040 := by decide +kernel
/-- Device memory that lists `bs` from stack 0's granule 1 on, where `extA` lies. -/
def memOf (bs : List Byte) (s : State) : State :=
  { s with mem := { s.mem with cells := bs.zipIdx.map (fun e => (65536 + e.2, e.1)) } }
def loadArgs (n : Nat) : List (Nat × Nat × Nat) := [(0, 8, 65536), (8, 4, n)]
def loadState (n : Nat) : State := linksUp (memOf tinyRecipe (extCmd 0x0301 (loadArgs n)))
theorem wit_recipeLoad : Started (loadState 256) 1 5 0x0301 (cmdQueue 0 0x0301 0 (loadArgs 256)) (cmdOf 0x0301 0 (loadArgs 256)) ∧
    ctxOf (loadState 256) 0 = some { slice := 0 } ∧ ctxReadRefusal (loadState 256) 0 65536 256 (.cmd 1 5) = none ∧
    ctxBusy (loadState 256) 0 65536 256 = false ∧ par (cmdOf 0x0301 0 (loadArgs 256)) 8 4 = 256 := by decide +kernel
set_option maxRecDepth 20000 in
theorem wit_recipeLoad_read : ctxRead (loadState 256) 0 65536 256 = tinyRecipe := rfl
theorem wit_recipeLoad_bad : (recipeFault (ctxRead (extCmd 0x0301 (loadArgs 64)) 0 65536 64) 64).isSome = true := by decide +kernel
theorem wit_recipeLoad_full : ∃ x : Ctx, 256 ≤ x.recipes.length :=
  ⟨{ slice := 0, recipes := List.replicate 256 (1, 1) }, Nat.le_of_eq List.length_replicate.symm⟩
/-- A Recipe record of one Matrix Station without descriptors. -/
def tinyRec : Recipe :=
  { ctx := 0, bytes := [], footW := 1, footH := 1, period := 1, foot := [1], stations := [⟨0, 0, 1, 0, [], [], 0⟩], streams := [],
    rests := [], lives := [], startBound := 1, checked := false }
/-- That Recipe loaded in context 0 under ID 1, key 3. -/
def withRecipe (s : State) : State :=
  { s with ten := { s.ten with ctxs := [(0, { slice := 0, recipes := [(1, 3)] })] },
           sch := { s.sch with recipes := [(3, tinyRec)], nextKey := 4 } }
def recipeCmd (op : Nat) (ps : List (Nat × Nat × Nat)) : State := withRecipe (cmdState op 0 ps)
theorem wit_recipeCheck : Started (recipeCmd 0x0302 [(0, 2, 1)]) 1 5 0x0302 (cmdQueue 0 0x0302 0 [(0, 2, 1)]) (cmdOf 0x0302 0 [(0, 2, 1)]) ∧
    recipeOf (recipeCmd 0x0302 [(0, 2, 1)]) 0 1 = some (3, tinyRec) := by decide +kernel
theorem wit_check_ok : checkDeadlock tinyRec = none ∧ checkRestOrder tinyRec = none ∧ checkLive tinyRec = none ∧ checkBound tinyRec = none ∧
    checkShader tinyRec = none := by decide +kernel
/-- Shader code of one word whose CLASS is undefined (R202, R227). -/
theorem wit_check_found : (checkShader { tinyRec with stations := [⟨0, 0, 2, 0, [layout 64 [(0, [0x01, 0x03])]], [15 * 2 ^ 60], 0x10101⟩] }).isSome = true := by decide +kernel
theorem wit_recipeUnload : Started (recipeCmd 0x0303 [(0, 2, 1)]) 1 5 0x0303 (cmdQueue 0 0x0303 0 [(0, 2, 1)]) (cmdOf 0x0303 0 [(0, 2, 1)]) ∧
    recipeOf (recipeCmd 0x0303 [(0, 2, 1)]) 0 1 = some (3, tinyRec) ∧
    (∀ e ∈ (recipeCmd 0x0303 [(0, 2, 1)]).sch.launches, e.2.recipe ≠ 3) := by decide +kernel
/-- A taken LAUNCH of that Recipe, of COUNT instances. -/
def launchArgs (count : Nat) : List (Nat × Nat × Nat) := [(24, 2, 1), (26, 2, count)]
def launchCmd (count : Nat) : TakenCmd := { cmdOf 0x0304 0 (launchArgs count) with phase := .taken }
def launchQueue (count : Nat) : Queue := { num := 1, state := .running, next := 6, cmds := [launchCmd count] }
def launchState (count : Nat) : State :=
  withRecipe { upState with cmd := { upState.cmd with ready := true, queues := [(1, launchQueue count)] } }
/-- The launch record that it makes. -/
def tinyLaunch (count : Nat) : Launch :=
  { q := 1, seq := 5, ctx := 0, slice := 0, recipe := 3, recipeId := 1, d := 3, count := count, plan := 0, hist := 0, telem := 0,
    homePart := 0, noWait := false, ph := .waiting, order := 1, insts := [], saveGrans := 1, victimOf := [] }
theorem wit_launch : tget? (launchState 1).cmd.queues 1 = some (launchQueue 1) ∧
    (launchQueue 1).cmds.find? (fun c => decide (c.seq = 5)) = some (launchCmd 1) ∧ (launchCmd 1).op = 0x0304 ∧ (launchCmd 1).phase = .taken ∧
    launchOf (launchState 1) 1 5 = none ∧ recipeOf (launchState 1) 0 1 = some (3, tinyRec) ∧
    par (launchCmd 1) 26 2 = 1 ∧ par (launchCmd 1) 28 1 = 0 ∧ par (launchCmd 0) 26 2 = 0 ∧
    recipePermitted (launchState 1) tinyRec (ctxSets (launchState 1) 0) = true := by decide +kernel
theorem wit_launch_placed : canPlace (launchState 1) (tinyLaunch 1) [] = true ∧ everFits (launchState 1) (tinyLaunch 1) tinyRec = true := by
  decide +kernel
theorem wit_launch_sealed : ∃ s r, recipePermitted s r [1] = false := ⟨launchState 1, tinyRec, by decide⟩

def copyArgs (src dst n sp : Nat) : List (Nat × Nat × Nat) := [(0, 8, src), (8, 8, dst), (16, 8, n), (24, 1, sp)]
def copyState (src dst n sp : Nat) : State := linksUp (extCmd 0x0401 (copyArgs src dst n sp))
theorem wit_copy_toHost : Started (copyState 65536 0x2000 64 2) 1 5 0x0401 (cmdQueue 0 0x0401 0 (copyArgs 65536 0x2000 64 2))
      (cmdOf 0x0401 0 (copyArgs 65536 0x2000 64 2)) ∧ issueHeld (copyState 65536 0x2000 64 2) = false ∧
    (ctxOf (copyState 65536 0x2000 64 2) 0).isSome ∧ ctxReadRefusal (copyState 65536 0x2000 64 2) 0 65536 64 (.cmd 1 5) = none ∧
    ctxBusy (copyState 65536 0x2000 64 2) 0 65536 64 = false ∧ bitOf 2 0 = false ∧ bitOf 2 1 = true ∧
    HostMem.wf (copyState 65536 0x2000 64 2).host = true := by decide +kernel
theorem wit_copy_toDevice : Started (copyState 0x2000 65600 64 1) 1 5 0x0401 (cmdQueue 0 0x0401 0 (copyArgs 0x2000 65600 64 1))
      (cmdOf 0x0401 0 (copyArgs 0x2000 65600 64 1)) ∧ ctxWriteRefusal (copyState 0x2000 65600 64 1) 0 65600 64 true (.cmd 1 5) = none ∧
    bitOf 1 0 = true ∧ bitOf 1 1 = false := by decide +kernel
theorem wit_copy_ahead : copyCmdAhead (copyState 65536 0x2000 64 2) (cmdOf 0x0401 0 (copyArgs 65536 0x2000 64 2)) = false ∧
    copyCmdAhead (copyState 0x2000 65600 64 1) (cmdOf 0x0401 0 (copyArgs 0x2000 65600 64 1)) = false := by decide +kernel
theorem wit_copy_refused : ctxReadRefusal (copyState 0 0x2000 64 2) 0 0 64 (.cmd 1 5) = some 0x34 ∧
    ctxWriteRefusal (copyState 0x2000 0 64 1) 0 0 64 true (.cmd 1 5) = some 0x34 := by decide +kernel
def fillArgs (dst sp : Nat) : List (Nat × Nat × Nat) := [(0, 8, dst), (8, 8, 128), (16, 8, 0x0102030405060708), (24, 1, sp)]
def fillState (dst sp : Nat) : State := linksUp (extCmd 0x0402 (fillArgs dst sp))
theorem wit_fill_ahead : copyCmdAhead (linksUp (extCmd 0x0402 [(0, 8, 65536), (8, 8, 128), (16, 8, 0x0102030405060708)]))
    (cmdOf 0x0402 0 [(0, 8, 65536), (8, 8, 128), (16, 8, 0x0102030405060708)]) = false := by decide +kernel
theorem wit_fill : Started (fillState 65536 0) 1 5 0x0402 (cmdQueue 0 0x0402 0 (fillArgs 65536 0)) (cmdOf 0x0402 0 (fillArgs 65536 0)) ∧
    ctxWriteRefusal (fillState 65536 0) 0 65536 128 false (.cmd 1 5) = none ∧ ctxWriteRefusal (fillState 0 0) 0 0 128 false (.cmd 1 5) = some 0x34 ∧
    par (cmdOf 0x0402 0 (fillArgs 0 1)) 24 1 = 1 ∧ issueHeld (fillState 65536 0) = false := by decide +kernel
def semArgs (a v ms : Nat) : List (Nat × Nat × Nat) := [(0, 8, a), (8, 8, v), (16, 4, ms)]
def semState (a v ms : Nat) : State :=
  linksUp { extCmd 0x0501 (semArgs a v ms) with xt := { (extCmd 0x0501 (semArgs a v ms)).xt with windows := [(255, ⟨0, 0, []⟩)] } }
theorem wit_semWait : Started (semState 65544 1 0) 1 5 0x0501 (cmdQueue 0 0x0501 0 (semArgs 65544 1 0)) (cmdOf 0x0501 0 (semArgs 65544 1 0)) ∧
    cmdAsked (semState 65544 1 0) 1 5 = false ∧ (translate (semState 65544 1 0) 0 65544).isSome ∧ inCounters 65544 = false ∧
    homeAnswers (semState 65544 1 0) 0 (.cmd 1 5) = true ∧ homeAnswers upState 0 (.cmd 1 5) = false ∧ translate upState 0 65544 = none := by decide +kernel
theorem wit_semWait_counter : inCounters 0xFFFFFFFFFFFF8 = true ∧ counterAt 0xFFFFFFFFFFFF8 = (255, 15) ∧
    counterOwned (semState 0xFFFFFFFFFFFF8 1 0) 0 0xFFFFFFFFFFFF8 = true ∧ counterOwned upState 0 0xFFFFFFFFFFFF8 = false ∧
    signedOf 64 (counterVal (semState 0xFFFFFFFFFFFF8 1 0) 255 15) < signedOf 64 1 ∧
    signedOf 64 0 ≤ signedOf 64 (counterVal (semState 0xFFFFFFFFFFFF8 0 0) 255 15) := by decide +kernel
theorem wit_semTimeout : refOf { semState 65544 1 1 with clk := { upState.clk with ref := [(pd0, 25000)] } } (cplxDie 0) -
      (cmdOf 0x0501 0 (semArgs 65544 1 1)).startAt = 25000 ∧ par (cmdOf 0x0501 0 (semArgs 65544 1 1)) 16 4 = 1 := by decide +kernel
theorem wit_semRelease : Started (linksUp (extCmd 0x0502 (semArgs 65544 1 3))) 1 5 0x0502 (cmdQueue 0 0x0502 0 (semArgs 65544 1 3)) (cmdOf 0x0502 0 (semArgs 65544 1 3)) ∧
    ctxWriteRefusal (linksUp (extCmd 0x0502 (semArgs 65544 1 3))) 0 65544 8 false (.cmd 1 5) = none ∧ par (cmdOf 0x0502 0 (semArgs 65544 1 3)) 16 1 ≤ 3 := by decide +kernel
theorem wit_flush : Started (cmdState 0x0601 0 [(8, 8, 64)]) 1 5 0x0601 (cmdQueue 0 0x0601 0 [(8, 8, 64)]) (cmdOf 0x0601 0 [(8, 8, 64)]) := by decide +kernel
/-- R347: FLUSH of 64 bytes writes back the dirty byte at 3 and leaves the one at 64. -/
theorem test_flush : (match exec (.flush 1 5) { cmdState 0x0601 0 [(8, 8, 64)] with host := { dirty := [(3, 7), (64, 8)] } } with
    | .next t => (t.host.mem, t.host.dirty)
    | _ => ([], [])) = ([(3, 7)], [(64, 8)]) := by decide +kernel

theorem wit_capSet : Started (cmdState 0x0702 0 [(0, 2, 3000)]) 1 5 0x0702 (cmdQueue 0 0x0702 0 [(0, 2, 3000)]) (cmdOf 0x0702 0 [(0, 2, 3000)]) := by
  decide +kernel
theorem wit_modeSet : Started (cmdState 0x0703 0 [(0, 1, 1)]) 1 5 0x0703 (cmdQueue 0 0x0703 0 [(0, 1, 1)]) (cmdOf 0x0703 0 [(0, 1, 1)]) := by
  decide +kernel
def budgetArgs (n : Nat) : List (Nat × Nat × Nat) := [(0, 4, 404000), (4, 2, n), (6, 2, 0x3FF)]
def budgetState (n : Nat) : State :=
  { cmdState 0x0701 0 (budgetArgs n) with ten := { slices := [(127, sliceOf (zeros 512) 0)] } }
theorem wit_budgetSet : Started (budgetState 127) 1 5 0x0701 (cmdQueue 0 0x0701 0 (budgetArgs 127)) (cmdOf 0x0701 0 (budgetArgs 127)) ∧
    par (cmdOf 0x0701 0 (budgetArgs 127)) 0 4 ≤ 404000 ∧ par (cmdOf 0x0701 0 (budgetArgs 127)) 4 2 = 127 ∧
    par (cmdOf 0x0701 0 (budgetArgs 127)) 6 2 < 1024 ∧ (tget? (budgetState 127).ten.slices 127).isSome ∧
    par (cmdOf 0x0701 0 (budgetArgs 0)) 4 2 = 0 := by decide +kernel
theorem wit_energyRead : Started (cmdState 0x0C02 0 [(8, 1, 2)]) 1 5 0x0C02 (cmdQueue 0 0x0C02 0 [(8, 1, 2)]) (cmdOf 0x0C02 0 [(8, 1, 2)]) ∧
    par (cmdOf 0x0C02 0 [(8, 1, 2)]) 8 1 = 2 ∧ (cmdQueue 0 0x0C02 0 [(8, 1, 2)]).slice = 0 ∧ (cmdQueue 7 0x0C02 0 [(8, 1, 2)]).slice ≠ 0 ∧
    par (cmdOf 0x0C02 0 []) 8 1 = 0 ∧ par (cmdOf 0x0C02 0 [(8, 1, 1)]) 8 1 = 1 ∧ 2 < par (cmdOf 0x0C02 0 [(8, 1, 3)]) 8 1 := by decide +kernel
theorem wit_clockCorr : Started (cmdState 0x0C01 0 []) 1 5 0x0C01 (cmdQueue 0 0x0C01 0 []) (cmdOf 0x0C01 0 []) ∧ (cmdState 0x0C01 0 []).clk.marker = none ∧
    (1, 5) ∉ (cmdState 0x0C01 0 []).clk.corrWait ++ (cmdState 0x0C01 0 []).clk.corrNext := by decide +kernel

theorem wit_clockCorr_marker : (1, 5) ∈ ({ marker := some [], corrWait := [(1, 5)] } : Clk).corrWait ∧
    (1, 5) ∉ ({ marker := some [], corrWait := [(1, 4)] } : Clk).corrWait ++ ({ marker := some [], corrWait := [(1, 4)] } : Clk).corrNext := by decide

/-- R524: 4,401 W is outside the cap's range, 4,400 W is its upper end. -/
theorem test_cap : (match exec (.capSet 1 5) (cmdState 0x0702 0 [(0, 2, 4400)]) with
    | .next t => t.pwr.cap
    | _ => 0) = 4400 := by decide +kernel

theorem wit_calRead : Started (cmdState 0x0B01 0 [(8, 4, 77824)]) 1 5 0x0B01 (cmdQueue 0 0x0B01 0 [(8, 4, 77824)]) (cmdOf 0x0B01 0 [(8, 4, 77824)]) := by
  decide +kernel
theorem wit_calWorn : Started (cmdState 0x0B02 0 []) 1 5 0x0B02 (cmdQueue 0 0x0B02 0 []) (cmdOf 0x0B02 0 []) ∧
    par (cmdOf 0x0B02 0 []) 8 4 ≠ 77824 ∧ par (cmdOf 0x0B02 0 [(8, 4, 77824)]) 8 4 = 77824 ∧ upState.pwr.writes < 10000 ∧
    10000 ≤ ({ upState with pwr := { upState.pwr with writes := 10000 } } : State).pwr.writes := by decide +kernel

/-- The first 16 bytes of a calibration set with CRC field `v`, and the rest of its head: no forced mask, every point at 600 mV. -/
def calFirst (v : Nat) : List Byte := leBytes 4 0x4C414B43 ++ leBytes 2 1 ++ zeros 2 ++ leBytes 4 77824 ++ leBytes 4 v
def calRest : List Byte := zeros 240 ++ (List.range 320).flatMap (fun _ => leBytes 2 600 ++ zeros 2)
/-- The set: no trims. -/
def calSet (v : Nat) : List Byte := calFirst v ++ (calRest ++ zeros 76288)
/-- Its CRC, over the set with a zero CRC field. -/
def calCrc : Nat := crc32c (calSet 0)
def calState : State :=
  let s := cmdState 0x0B02 0 [(0, 8, 0x1000), (8, 4, 77824)]
  { s with host := { s.host with mem := (calSet calCrc).zipIdx.map (fun e => (0x1000 + e.2, e.1)) } }

theorem tget?_zipIdx (l : List Byte) (b k i : Nat) :
    tget? ((l.zipIdx k).map (fun e => (b + e.2, e.1))) (b + k + i) = l[i]? := by
  induction l generalizing k i with
  | nil => rfl
  | cons a r ih =>
    cases i with
    | zero => simp [tget?]
    | succ i =>
      have h : ¬ b + k = b + k + (i + 1) := by omega
      have e : b + k + (i + 1) = b + (k + 1) + i := by omega
      simp only [List.zipIdx_cons, List.map_cons, tget?, if_neg h, List.getElem?_cons_succ]
      rw [e]; exact ih (k + 1) i

theorem hostRead_zipIdx (l : List Byte) (b : Nat) (s : State) (hm : s.host.mem = l.zipIdx.map (fun e => (b + e.2, e.1)))
    (hd : s.host.dirty = []) (hb : b + l.length ≤ 2 ^ 64) : hostRead s none b l.length = l := by
  apply List.ext_getElem
  · simp [hostRead]
  · intro i h1 h2
    have hk : hkey none (b + i) = b + 0 + i := by
      show (b + i) % 2 ^ 64 = b + 0 + i
      rw [Nat.mod_eq_of_lt (by omega)]; omega
    have hg := tget?_zipIdx l b 0 i
    simp only [hostRead, List.getElem_map, List.getElem_range, hostByte, hd, hm, hk, tget, hg, tget?, Option.getD_none,
      List.getElem?_eq_getElem h2, Option.getD_some]

theorem calFirst_length (v : Nat) : (calFirst v).length = 16 := rfl
theorem calRest_length : calRest.length = 1520 := by decide +kernel
theorem calSet_length (v : Nat) : (calSet v).length = 77824 := by
  simp only [calSet, List.length_append, calFirst_length, calRest_length, zeros, List.length_replicate]
/-- Bytes 0 to 15 of the set. -/
theorem calSet_first (v o n : Nat) (h : o + n ≤ 16) : ((calSet v).drop o).take n = ((calFirst v).drop o).take n := by
  have l := calFirst_length v
  rw [calSet, List.drop_append_of_le_length (by omega), List.take_append_of_le_length (by rw [List.length_drop]; omega)]
/-- Bytes 16 to 1,535. -/
theorem calSet_mid (v o n : Nat) (h : o + n ≤ 1520) : ((calSet v).drop (16 + o)).take n = (calRest.drop o).take n := by
  have l := calFirst_length v
  have m := calRest_length
  rw [calSet, List.drop_append, List.drop_eq_nil_of_le (by omega), List.nil_append, l, Nat.add_sub_cancel_left,
    List.drop_append_of_le_length (by omega), List.take_append_of_le_length (by rw [List.length_drop]; omega)]
theorem calSet_zero (v : Nat) : (calSet v).take 12 ++ zeros 4 ++ (calSet v).drop 16 = calSet 0 := by
  have l := calFirst_length v
  have p := calSet_first v 0 12 (by omega)
  simp only [List.drop_zero] at p
  have d : (calSet v).drop 16 = calRest ++ zeros 76288 := by
    rw [calSet, List.drop_append, List.drop_eq_nil_of_le (by omega), List.nil_append, l, Nat.sub_self, List.drop_zero]
  rw [p, d, calSet]
  rfl
theorem calSet_crc (v : Nat) (hv : v < 2 ^ 32) : field (calSet v) 12 4 = v := by
  rw [field, calSet_first v 12 4 (by omega)]
  show leNat (leBytes 4 v) = v
  simp [leNat, leBytes]; omega
theorem calSet_rest (v : Nat) : (field (calSet v) 0 4 = 0x4C414B43 ∧ field (calSet v) 4 2 = 1 ∧ field (calSet v) 8 4 = 77824) ∧
    zeroAt (calSet v) 7 1 = true ∧ zeroAt (calSet v) 24 40 = true ∧ zeroAt (calSet v) 144 112 = true := by
  simp only [field, zeroAt]
  rw [calSet_first v 0 4 (by omega), calSet_first v 4 2 (by omega), calSet_first v 8 4 (by omega), calSet_first v 7 1 (by omega),
    calSet_mid v 8 40 (by omega), calSet_mid v 128 112 (by omega)]
  exact ⟨by simp [calFirst, leBytes, zeros, leNat], by simp [calFirst, leBytes, zeros], by decide +kernel, by decide +kernel⟩
theorem calRest_vf : (List.range 320).all (fun i => decide (leNat ((calRest.drop (240 + 4 * i)).take 2) = 600)) = true := by
  decide +kernel
theorem calSet_vf (v : Nat) : (List.range 20).all (fun h => (List.range 16).all (vfOk (calSet v) h)) = true := by
  have p := calRest_vf
  simp only [List.all_eq_true, List.mem_range, decide_eq_true_eq] at p ⊢
  intro h hh k hk
  have q : field (calSet v) (256 + 64 * h + 4 * k) 2 = 600 := by
    have e : 256 + 64 * h + 4 * k = 16 + (240 + 4 * (16 * h + k)) := by omega
    rw [field, e, calSet_mid v _ 2 (by omega)]; exact p _ (by omega)
  simp [vfOk, q]

theorem wit_calWrite : hostRead calState none 0x1000 77824 = calSet calCrc ∧ calValid (calSet calCrc) = true := by
  constructor
  · have h := hostRead_zipIdx (calSet calCrc) 0x1000 calState rfl rfl (by rw [calSet_length]; decide)
    rwa [calSet_length] at h
  · have h := calSet_rest calCrc
    have c : field (calSet calCrc) 12 4 = crc32c (calSet 0) := calSet_crc calCrc (BitVec.isLt _)
    simp only [calValid, calSet_length, calSet_zero, c, h.1, h.2.1, h.2.2.1, h.2.2.2, calSet_vf]
    rfl
theorem wit_calWrite_started : Started calState 1 5 0x0B02 (cmdQueue 0 0x0B02 0 [(0, 8, 0x1000), (8, 4, 77824)])
    (cmdOf 0x0B02 0 [(0, 8, 0x1000), (8, 4, 77824)]) ∧ calState.pwr.writes < 10000 ∧
    par (cmdOf 0x0B02 0 [(0, 8, 0x1000), (8, 4, 77824)]) 8 4 = 77824 ∧ par (cmdOf 0x0B02 0 [(0, 8, 0x1000), (8, 4, 77824)]) 0 8 = 0x1000 := by
  refine ⟨⟨rfl, rfl, rfl, rfl, rfl, rfl⟩, by decide, ?_, ?_⟩ <;> decide +kernel

/-- A quota record: slice, and the fields that are not zero: MAGIC, SLICE, QUEUE_FIRST 8, QUEUE_COUNT 4, CONTEXTS 2, 1 MiB of memory. -/
def quotaBytes (at_ n : Nat) : List (Nat × Nat) :=
  [(at_, 0x0A), (at_ + 1, 0x0C), (at_ + 4, n), (at_ + 8, 8), (at_ + 10, 4), (at_ + 14, 2), (at_ + 24, 1)]
def sliceArgs (n : Nat) : List (Nat × Nat × Nat) := [(0, 8, 0x1000), (8, 8, 0x4000), (16, 2, n)]
def sliceState : State := hostOf (quotaBytes 0x1000 3) (cmdState 0x0801 0 (sliceArgs 3))
theorem wit_sliceCreate : Started sliceState 1 5 0x0801 (cmdQueue 0 0x0801 0 (sliceArgs 3)) (cmdOf 0x0801 0 (sliceArgs 3)) ∧
    par (cmdOf 0x0801 0 (sliceArgs 3)) 16 2 = 3 ∧ par (cmdOf 0x0801 0 (sliceArgs 3)) 8 8 % 4096 = 0 ∧ sliceThere sliceState 3 = false ∧
    quotaOk (hostRead sliceState none 0x1000 512) 3 = true ∧ quotaTaken sliceState (hostRead sliceState none 0x1000 512) 3 = false ∧
    quotaOver sliceState (hostRead sliceState none 0x1000 512) 3 = false ∧ quotaAbsent sliceState (hostRead sliceState none 0x1000 512) = false := by
  decide +kernel
def resizeArgs : List (Nat × Nat × Nat) := [(0, 8, 0x1000), (8, 2, 3)]
def resizeState : State :=
  { hostOf (quotaBytes 0x1000 3) (cmdState 0x0802 0 resizeArgs) with ten := { slices := [(3, sliceOf (zeros 512) 0x4000)] } }
theorem wit_sliceResize : Started resizeState 1 5 0x0802 (cmdQueue 0 0x0802 0 resizeArgs) (cmdOf 0x0802 0 resizeArgs) ∧
    par (cmdOf 0x0802 0 resizeArgs) 8 2 = 3 ∧ tget? resizeState.ten.slices 3 = some (sliceOf (zeros 512) 0x4000) ∧
    quotaOk (hostRead resizeState none 0x1000 512) 3 = true ∧ quotaTaken resizeState (hostRead resizeState none 0x1000 512) 3 = false ∧
    quotaOver resizeState (hostRead resizeState none 0x1000 512) 3 = false ∧ quotaInUse resizeState (hostRead resizeState none 0x1000 512) 3 = false ∧
    sliceBusy resizeState 3 1 5 = false ∧ quotaAbsent resizeState (hostRead resizeState none 0x1000 512) = false ∧
    holdsLeaving resizeState [] = [] := by decide +kernel
def oneSlice (op : Nat) (ps : List (Nat × Nat × Nat)) : State :=
  { cmdState op 0 ps with ten := { slices := [(3, sliceOf (zeros 512) 0x4000)] } }
theorem wit_sliceDestroy : Started (oneSlice 0x0803 [(0, 2, 3)]) 1 5 0x0803 (cmdQueue 0 0x0803 0 [(0, 2, 3)]) (cmdOf 0x0803 0 [(0, 2, 3)]) ∧
    par (cmdOf 0x0803 0 [(0, 2, 3)]) 0 2 = 3 ∧ sliceUsed (oneSlice 0x0803 [(0, 2, 3)]) 3 = false ∧ sliceCtxs (oneSlice 0x0803 [(0, 2, 3)]) 3 = [] ∧
    (∀ e ∈ (oneSlice 0x0803 [(0, 2, 3)]).cmd.queues, e.2.slice = 3 → e.2.cmds = [] ∧ e.2.stopSeq = none) := by decide +kernel
def pasidArgs (op : Nat) : List (Nat × Nat × Nat) := [(0, 4, 0xFFFFF), (4, 2, 3), (6, 1, op)]
theorem wit_slicePasid : Started (oneSlice 0x0804 (pasidArgs 0)) 1 5 0x0804 (cmdQueue 0 0x0804 0 (pasidArgs 0)) (cmdOf 0x0804 0 (pasidArgs 0)) ∧
    par (cmdOf 0x0804 0 (pasidArgs 0)) 4 2 = 3 ∧ par (cmdOf 0x0804 0 (pasidArgs 0)) 0 4 < 2 ^ 20 ∧
    tget? (oneSlice 0x0804 (pasidArgs 0)).ten.pasids 0xFFFFF = none ∧
    (tget? (oneSlice 0x0804 (pasidArgs 0)).ten.slices 3).isSome := by decide +kernel
theorem wit_slicePasid_off : par (cmdOf 0x0804 0 (pasidArgs 1)) 6 1 = 1 ∧
    tget? ({ slices := [(3, sliceOf (zeros 512) 0x4000)], pasids := [(0xFFFFF, 3)] } : Tenants).pasids 0xFFFFF = some 3 := by decide +kernel
theorem wit_dirtyLog : Started (oneSlice 0x0805 [(16, 2, 3), (18, 1, 2)]) 1 5 0x0805 (cmdQueue 0 0x0805 0 [(16, 2, 3), (18, 1, 2)])
      (cmdOf 0x0805 0 [(16, 2, 3), (18, 1, 2)]) ∧ par (cmdOf 0x0805 0 [(16, 2, 3), (18, 1, 2)]) 16 2 = 3 ∧
    par (cmdOf 0x0805 0 [(16, 2, 3), (18, 1, 2)]) 18 1 = 2 ∧ par (cmdOf 0x0805 0 [(16, 2, 3), (18, 1, 1)]) 18 1 = 1 ∧
    par (cmdOf 0x0805 0 [(16, 2, 3)]) 18 1 = 0 := by decide +kernel

theorem wit_spdm : Started (cmdState 0x0901 0 [(16, 4, 4)]) 1 5 0x0901 (cmdQueue 0 0x0901 0 [(16, 4, 4)]) (cmdOf 0x0901 0 [(16, 4, 4)]) ∧
    ¬ par (cmdOf 0x0901 0 [(16, 4, 4)]) 16 4 < 4 ∧ par (cmdOf 0x0901 0 []) 16 4 < 4 := by decide +kernel
/-- Where the SPDM function answers the request with one message of 4 bytes, RESP_MAX allows it. -/
theorem wit_spdm_response (r : List Byte) (h : r = [0x12, 4, 0, 0]) : r ≠ [] ∧ ¬ par (cmdOf 0x0901 0 [(16, 4, 4), (20, 4, 4096)]) 20 4 < r.length := by
  subst h; decide +kernel
theorem wit_setKey : Started (cmdState 0x0902 0 [(16, 2, 255)]) 1 5 0x0902 (cmdQueue 0 0x0902 0 [(16, 2, 255)]) (cmdOf 0x0902 0 [(16, 2, 255)]) ∧
    (cmdState 0x0902 0 [(16, 2, 255)]).sec.unlocked = false ∧ par (cmdOf 0x0902 0 [(16, 2, 255)]) 16 2 = 255 := by decide +kernel
/-- Host memory with a SET_KEY message of one Recipe to this device at 1000H, its device hash among it. -/
def setKeyState : State :=
  { cmdState 0x0902 0 [(0, 8, 0x1000), (16, 2, 255)] with
    host := { mem := [(0x1000, 0x48), (0x1001, 0x4B), (0x1002, 0x53), (0x1003, 0x54), (0x1004, 1), (0x1006, 1)] ++
      (List.range 48).map (fun i => (0x1048 + i, Config.deviceHash i)) } }
set_option maxRecDepth 20000 in
theorem wit_setKey_hash : ((hostRead setKeyState none 0x1000 1048).drop 72).take 48 = deviceHash := rfl
theorem wit_setKey_message : setMsgOk (hostRead setKeyState none 0x1000 1048) = true := by
  unfold setMsgOk; rw [wit_setKey_hash, decide_eq_true rfl]; decide +kernel
theorem wit_setKey_started : Started setKeyState 1 5 0x0902 (cmdQueue 0 0x0902 0 [(0, 8, 0x1000), (16, 2, 255)])
    (cmdOf 0x0902 0 [(0, 8, 0x1000), (16, 2, 255)]) ∧ setKeyState.sec.unlocked = false := by decide +kernel
/-- A bundle of one device and a 64 KiB payload at the start of a 128 KiB extent, for a sealed extent 6. -/
def bundleArgs (set : Nat) : List (Nat × Nat × Nat) := [(0, 8, 65536), (8, 4, 6), (12, 2, set)]
def sealExt : Extent := { extA with attr := 3, sealSet := 9, stks := [1], grans := [[7]] }
def importState (set : Nat) : State :=
  linksUp { memOf (layout 256 [(72, [1]), (88, leBytes 8 65536)]) (cmdState 0x0903 0 (bundleArgs set)) with
    sec := { sets := [(9, ⟨0, [], [], [], []⟩)] },
    xt := { upState.xt with extents := [(5, { extA with length := 131072, grans := [[1, 2]] }), (6, sealExt)], maps := [⟨0, 65536, 5, false⟩] } }
theorem wit_bundle : Started (importState 9) 1 5 0x0903 (cmdQueue 0 0x0903 0 (bundleArgs 9)) (cmdOf 0x0903 0 (bundleArgs 9)) ∧ issueHeld (importState 9) = false ∧
    setOwned (importState 9) 0 9 = some ⟨0, [], [], [], []⟩ ∧ setOwned (importState 8) 0 8 = none ∧ cmdExtent (importState 9) 6 = some (6, sealExt) ∧ attrSealed sealExt.attr = true ∧
    rangeGrans 0 65536 = [0] := by decide +kernel
theorem wit_bundle_header : field (ctxRead (importState 9) 0 65536 256) 72 2 = 1 ∧ field (ctxRead (importState 9) 0 65536 256) 88 8 = 65536 ∧ bundleHead 1 = 320 := by decide +kernel
theorem wit_bundle_range : ctxReadRefusal (importState 9) 0 65536 65856 (.cmd 1 5) = none ∧ rangeDown (importState 9) sealExt 0 65536 = false ∧
    ctxBusy (importState 9) 0 65536 65856 = false := by decide +kernel
theorem wit_setDestroy : Started { cmdState 0x0904 0 [(0, 2, 9)] with sec := { sets := [(9, ⟨0, [], [], [], []⟩)] } } 1 5 0x0904
      (cmdQueue 0 0x0904 0 [(0, 2, 9)]) (cmdOf 0x0904 0 [(0, 2, 9)]) ∧
    setExtents { cmdState 0x0904 0 [(0, 2, 9)] with sec := { sets := [(9, ⟨0, [], [], [], []⟩)] } } 9 = [] := by decide +kernel
def resetArgs (t r : Nat) : List (Nat × Nat × Nat) := [(0, 2, t), (2, 1, r)]
theorem wit_reset : Started (cmdState 0x0A01 0 (resetArgs 9 3)) 1 5 0x0A01 (cmdQueue 0 0x0A01 0 (resetArgs 9 3)) (cmdOf 0x0A01 0 (resetArgs 9 3)) ∧
    par (cmdOf 0x0A01 0 (resetArgs 9 3)) 2 1 = 3 ∧ resetTarget (cmdState 0x0A01 0 (resetArgs 9 3)) 3 9 = true ∧
    resetTarget (cmdState 0x0A01 0 (resetArgs 10 3)) 3 10 = false ∧ par (cmdOf 0x0A01 0 (resetArgs 9 6)) 2 1 = 6 ∧
    (cmdState 0x0A01 0 (resetArgs 9 3)).err.rungs = [] ∧ stnOfId (par (cmdOf 0x0A01 0 (resetArgs 0xFFFF 2)) 0 2) = none ∧
    resetTarget (withCtx { slice := 0 } (cmdState 0x0A01 0 (resetArgs 7 1))) 1 7 = true ∧
    ctxOf (withCtx { slice := 0 } (cmdState 0x0A01 0 (resetArgs 7 1))) 7 = some { slice := 0 } ∧
    ctxOf (withCtx { slice := 0, dead := true } (cmdState 0x0A01 0 (resetArgs 7 1))) 7 = some { slice := 0, dead := true } := by decide +kernel
theorem wit_crumbRead : Started { cmdState 0x0A02 0 [(8, 4, 3)] with err := { region := [[1, 2], [3, 4]] } } 1 5 0x0A02
      (cmdQueue 0 0x0A02 0 [(8, 4, 3)]) (cmdOf 0x0A02 0 [(8, 4, 3)]) ∧ [1, 2].length ≤ par (cmdOf 0x0A02 0 [(8, 4, 3)]) 8 4 := by decide +kernel
theorem wit_crashBuffer : Started (cmdState 0x0A03 0 []) 1 5 0x0A03 (cmdQueue 0 0x0A03 0 []) (cmdOf 0x0A03 0 []) := by decide +kernel

def svcCtx : Ctx := { slice := 0, weight := 7, carry := 3, overrun := some 9 }
def svcState : State := { stnState (oneIns 0 0 wReg) with ten := { ctxs := [(0, svcCtx)] } }
theorem wit_serviceTick : svcState.pwr.phase = .ready ∧ svcState.ten.ctxs.filter (fun e => decide (e.1 = 0)) = [(0, svcCtx)] := by decide
/-- R413: one station at weight 7 adds (3 + 10000)/7 = 1429, no remainder. -/
theorem test_service : (match exec (.serviceTick 0) svcState with
    | .next t => (ctxOf t 0).map (fun x => (x.service, x.carry, x.overrun))
    | _ => none) = some (1429, 0, some 10) := by decide +kernel
def tsState (n : Nat) : State :=
  { upState with ten := { ctxs := [(7, { slice := 0, sliceAt := some 0, debit := 5000 })] }, clk := { upState.clk with ref := [(pd0, n)] } }
theorem wit_timeSlice : (tsState 375000).pwr.phase = .ready ∧ ctxOf (tsState 375000) 7 = some { slice := 0, sliceAt := some 0, debit := 5000 } ∧
    refOf (tsState 375000) (ctxDie (tsState 375000) 7) - 0 = 375000 ∧ max 1000 (tsliceMs (tsState 375000) 0 * 1000 - 5000) * 25 = 375000 ∧
    refOf (tsState 374999) (ctxDie (tsState 374999) 7) - 0 < 375000 ∧ (tsState 375000).sch.launches = [] := by decide
/-- Slice 3 holds station 1 alone; a launch of context 7 runs there and one of context 8, with a lower count, waits. -/
def giveCtx : Ctx := { slice := 3, sliceAt := some 0, service := 5 }
def giveState : State :=
  { upState with
    clk := { upState.clk with ref := [(pd0, 500000)] },
    ten := { slices := [(3, { sliceOf (zeros 512) 0 with stations := [(0, 2)] })], ctxs := [(7, giveCtx), (8, { slice := 3 })] },
    sch := { recipes := [(3, tinyRec)], launches := [(1, { runLaunch with ctx := 7, slice := 3, recipe := 3 }), (4, { tinyLaunch 1 with ctx := 8, slice := 3 })],
             stns := [(1, { launch := 1, inst := 0, cell := 0, ctx := 7, kind := 1, split := 0, descs := [], code := [] })] } }
theorem wit_timeSlice_gives : ctxOf giveState 7 = some giveCtx ∧ max 1000 (tsliceMs giveState 3 * 1000 - 0) * 25 ≤ refOf giveState (ctxDie giveState 7) - 0 ∧
    waits { tinyLaunch 1 with ctx := 8, slice := 3 } = true ∧ ctxClass giveState 8 = ctxClass giveState 7 ∧ ctxService giveState 8 < 5 := by decide +kernel
theorem wit_timeSlice_victims : chooseVictims (setCtx 7 (fun x => { x with sliceEnded := true, debit := 0 }) giveState) { tinyLaunch 1 with ctx := 8, slice := 3 } =
    some [1] := by decide +kernel
def overState (us : Nat) : State := { upState with ten := { ctxs := [(7, { slice := 0, overrun := some us })] } }
theorem wit_overrun : ctxOf (overState 2001) 7 = some { slice := 0, overrun := some 2001 } ∧ graceMs (overState 2001) 0 * 1000 = 2000 ∧
    (overState 2001).pwr.brake = false ∧ (overState 2001).err.rungs = [] := by decide
/-- The launch of `tinyLaunch`, waiting or pre-empted from station 1, under key 4. -/
def placeState (l : Launch) : State := { launchState 1 with sch := { (launchState 1).sch with launches := [(4, l)], nextKey := 5 } }
def preLaunch : Launch := { tinyLaunch 1 with ph := .preempted, insts := [{ part := 0, y := 0, x := 1, ph := .saved, placed := false }] }
theorem wit_placement : tget? (placeState (tinyLaunch 1)).sch.launches 4 = some (tinyLaunch 1) ∧
    tget? (placeState (tinyLaunch 1)).sch.recipes 3 = some tinyRec ∧ waits (tinyLaunch 1) = true ∧ damageHeld (placeState (tinyLaunch 1)) 0 = false ∧
    (∀ e ∈ (placeState (tinyLaunch 1)).sch.launches, e.1 ≠ 4 → False) ∧ (tinyLaunch 1).plan = 0 ∧
    (∀ e ∈ tinyRec.stations, e.fx < tinyRec.footW ∧ e.fy < tinyRec.footH) ∧ (tinyRec.stations.map (fun e => (e.fx, e.fy))).Nodup := by decide +kernel
theorem wit_placement_origin : placeFor (placeState (tinyLaunch 1)) (tinyLaunch 1) tinyRec [] = some [(0, 0, 0)] := by decide +kernel
theorem wit_placement_again : waits preLaunch = true ∧ preLaunch.ph = .preempted ∧ oldInSlice (placeState preLaunch) preLaunch tinyRec = true ∧
    oldFree (placeState preLaunch) preLaunch tinyRec [] = true := by decide +kernel
theorem wit_placement_not : waits runLaunch = false := by decide

/-- A Matrix Station of `runLaunch`, cell 0, that has marked rest point `m`. -/
def mxStn (m : Nat) : Stn := { launch := 1, inst := 0, cell := 0, ctx := 0, kind := 1, split := 0, descs := [], code := [], marked := m }
/-- `runLaunch` in phase `ph`, its instance `i`, on that station, its Recipe with rest point 1. -/
def mxRec : Recipe := { tinyRec with rests := [⟨1, 0, 1, 500, 64⟩], lives := [⟨0, 1, 64, 64⟩] }
def mxState (ph : LaunchPh) (i : Inst) (x : Stn) : State :=
  { upState with
    sch := { recipes := [(1, mxRec)], launches := [(1, { runLaunch with ph := ph, insts := [i] })], stns := [(1, x)] } }
def mxInst (ph : InstPh) : Inst := { part := 0, y := 0, x := 1, ph := ph }
theorem wit_restReached : (mxState .running (mxInst .running) (mxStn 1)).pwr.phase = .ready ∧
    instOf (mxState .running (mxInst .running) (mxStn 1)) 1 0 = some (mxInst .running) ∧ copiesDone (mxState .running (mxInst .running) (mxStn 1)) 1 0 = true ∧
    allMarked (mxState .running (mxInst .running) (mxStn 1)) 1 0 = some 1 ∧ streamsEmpty (mxInst .running) = true ∧
    piperHolds (mxState .running (mxInst .running) (mxStn 1)) 1 0 = false ∧ batchOpen (mxState .running (mxInst .running) (mxStn 1)) 0 = false ∧
    ((ctxOf (mxState .running (mxInst .running) (mxStn 1)) 0).map (·.owedDamage)).getD [] = [] ∧
    heldForRetrain (mxState .running (mxInst .running) (mxStn 1)) 0 = false ∧ ctxStopping (mxState .running (mxInst .running) (mxStn 1)) 0 = false ∧
    heldForRetrain { mxState .running (mxInst .running) (mxStn 1) with seam := { upState.seam with holding := some 256 } } 0 = true ∧ allMarked (mxState .leaving (mxInst .running) (mxStn 1)) 1 0 = some 1 ∧
    allMarked (mxState .running (mxInst .running) { mxStn 0 with descs := [zeros 64] }) 1 0 = none := by decide +kernel
def fullInst : Inst := { mxInst .running with bufs := [(0, [⟨0, 1, 1, 0, []⟩])] }
def streamRec : Recipe := { mxRec with streams := [⟨0, 0, 0, 1, 1, 0, 2, 1⟩] }
def fullState : State :=
  { mxState .running fullInst (mxStn 1) with sch := { (mxState .running fullInst (mxStn 1)).sch with recipes := [(1, streamRec)] } }
theorem wit_restFull : fullStream fullInst = some 0 ∧ allMarked fullState 1 0 = some 1 ∧ copiesDone fullState 1 0 = true ∧
    tget? fullState.sch.recipes 1 = some streamRec ∧ (instStns fullState 1 0).find? (fun e =>
    decide (some e.2.cell = (streamRec.streams[0]?).map (·.sinkCell))) = some (1, mxStn 1) := by decide +kernel
def savingInst : Inst := { mxInst .saving with rest := 1 }
theorem wit_saveDone : instOf (mxState .leaving savingInst (mxStn 0)) 1 0 = some savingInst ∧ savingInst.ph = .saving ∧
    tget? (mxState .leaving savingInst (mxStn 0)).sch.recipes 1 = some mxRec ∧
    (∀ e ∈ (mxState .leaving savingInst (mxStn 0)).sch.stns, e.2.cell = 0 → e = (1, mxStn 0)) := by decide +kernel
/-- R76: the live set names bytes 64 to 127 of the local store. -/
theorem test_save : (match exec (.saveDone 1 0) (mxState .leaving savingInst { mxStn 0 with ls := [(63, 1), (64, 2), (127, 3), (128, 4)] }) with
    | .next t => (instOf t 1 0).map (fun i => i.saved.map (fun e => e.2.ls))
    | _ => none) = some [[(64, 2), (127, 3)]] := by decide +kernel
theorem wit_restoreDone : instOf (mxState .running (mxInst .restoring) (mxStn 0)) 1 0 = some (mxInst .restoring) ∧
    areaPoisoned (mxState .running (mxInst .restoring) (mxStn 0)) (mxInst .restoring) = false ∧
    areaPoisoned { upState with mem := { poison := [512] } } { mxInst .restoring with area := [(0, 1)] } = true := by decide +kernel
theorem wit_instanceComplete : instOf (mxState .running (mxInst .running) (mxStn 0)) 1 0 = some (mxInst .running) ∧
    (∀ e ∈ instStns (mxState .running (mxInst .running) (mxStn 0)) 1 0, listEnded e.2 = true ∧ e.2.xfers = [] ∧ e.2.stopped = false) ∧
    ctxStopping (mxState .running (mxInst .running) (mxStn 0)) 0 = false ∧
    piperHolds (mxState .running (mxInst .running) (mxStn 0)) 1 0 = false := by decide +kernel
def endState : State :=
  { cmdState 0x0304 0 [] with sch := { launches := [(1, { runLaunch with q := 1, seq := 5, insts := [mxInst .complete] })] } }
theorem wit_launchComplete : tget? endState.sch.launches 1 = some { runLaunch with q := 1, seq := 5, insts := [mxInst .complete] } ∧
    tget? endState.cmd.queues 1 = some (cmdQueue 0 0x0304 0 []) ∧ (cmdQueue 0 0x0304 0 []).cmds.find? (fun c => decide (c.seq = 5)) = some (cmdOf 0x0304 0 []) ∧
    launchWrites endState { runLaunch with q := 1, seq := 5, insts := [mxInst .complete] } pd0 0 = [] := by decide +kernel
theorem wit_launchComplete_not : ∃ i ∈ runLaunch.insts, i.ph ≠ .complete := ⟨_, List.mem_singleton_self _, by decide⟩

/-- A station of `runLaunch` of kind `k` at number `n`, cell 0, with these descriptors, at descriptor `i`. -/
def dStn (k : Nat) (ds : List (List Byte)) (i : Nat) : Stn := { launch := 1, inst := 0, cell := 0, ctx := 0, kind := k, split := 0, descs := ds, code := [], next := i }
/-- Descriptor of `l` 64-byte units and OP `op` with fields. -/
def descOf (l op : Nat) (fs : List (Nat × List Byte)) : List Byte := layout (64 * l) ((0, leBytes 2 (l + 16 * op)) :: fs)
/-- The launch with its Recipe (streams: 0 from LK engine 8 of cell 0 or port 0, 1 into port 1 or engine 12 of cell 0). -/
def strRec : Recipe :=
  { tinyRec with streams := [⟨0, 0, 1, 0, 1, 0, 2, 1⟩, ⟨1, 0, 0, 1, 1, 0, 4, 1⟩, ⟨0, 8, 1, 2, 1, 0, 8, 1⟩, ⟨1, 3, 0, 12, 1, 0, 16, 1⟩] }
def dState (x : Stn) : State :=
  { upState with sch := { recipes := [(1, strRec)], launches := [(1, { runLaunch with insts := [mxInst .running] })], stns := [(1, x)] } }
theorem wit_descs : ∀ p ∈ descCmds 1, liveOf (dState (dStn 1 [] 0)) 1 = some (dStn 1 [] 0) ∧ liveOf upState 1 = none ∧
    (∀ d, (dStn 1 [] 0).descs[(dStn 1 [] 0).next]? = some d → dOp d ≠ p.1 ∧ dOp d ∈ rowOps) := by
  intro p _
  exact ⟨rfl, rfl, nofun⟩
theorem wit_descFault : ∀ p ∈ descCmds 1, p.1 ∉ [0x30, 0x40, 0x41, 0x42] → mayStart (dStn 5 [descOf 1 p.1 []] 0) 0 = true ∧
    handHeld (dState (dStn 5 [descOf 1 p.1 []] 0)) 1 (dStn 5 [descOf 1 p.1 []] 0) 0 = false ∧
    descFault (dState (dStn 5 [descOf 1 p.1 [(3, [1])]] 0)) (dStn 5 [descOf 1 p.1 [(3, [1])]] 0) 0 = 0xA5 := by decide +kernel
def loopDesc : List Byte := descOf 1 1 [(8, leBytes 4 3), (12, leBytes 2 1)]
def loopStn (n : Nat) : Stn := { dStn 1 [descOf 1 6 [], loopDesc] 1 with loops := if n = 0 then [] else [(1, n)] }
theorem wit_loop : DescReady (dState (loopStn 1)) 1 1 (loopStn 1) loopDesc ∧ DescReady (dState (loopStn 2)) 1 1 (loopStn 2) loopDesc ∧
    lpCount loopDesc = 3 ∧ dRestAfter loopDesc = false ∧ tget 0 (loopStn 1).loops 1 = 1 ∧ tget 0 (loopStn 2).loops 1 = 2 := by decide +kernel
def runDesc : List Byte := descOf 1 0x30 [(8, leBytes 4 8)]
def runStn : Stn := { dStn 2 [runDesc] 0 with code := [shWord 0x0B 0 ⟨7, false, 0, 0, 0, 0⟩, shWord 0x0B 2 ⟨7, false, 0, 0, 0, 1⟩], shConfig := 1 + 64 * 2 }
theorem wit_run : DescReady (dState runStn) 1 0x30 runStn runDesc ∧ residents runStn.shConfig = [0, 16] := by decide +kernel
def copyDesc (op rows : Nat) : List Byte := descOf 1 op [(8, leBytes 8 65536), (16, leBytes 4 rows), (20, leBytes 4 128), (28, leBytes 4 64)]
theorem wit_copyDesc : DescReady (dState (dStn 1 [copyDesc 4 2] 0)) 1 4 (dStn 1 [copyDesc 4 2] 0) (copyDesc 4 2) ∧
    DescReady (dState (dStn 1 [copyDesc 5 0] 0)) 1 5 (dStn 1 [copyDesc 5 0] 0) (copyDesc 5 0) ∧ cpRows (copyDesc 4 2) ≤ rowsPer (cpRowBytes (copyDesc 4 2)) := by
  decide +kernel
def semDesc (op : Nat) : List Byte := descOf 1 op [(8, leBytes 8 65544), (16, [1])]
theorem wit_semDesc : DescReady (dState (dStn 1 [semDesc 6] 0)) 1 6 (dStn 1 [semDesc 6] 0) (semDesc 6) ∧
    DescReady (dState (dStn 1 [semDesc 7] 0)) 1 7 (dStn 1 [semDesc 7] 0) (semDesc 7) := by decide +kernel
def copyXfer (st : Nat) : Xfer := { id := 9, kind := .copyIn, desc := 0, grp := none, pieces := [⟨65536, 64, 128, st⟩], lo := 64, hi := 192, eng := 0 }
theorem wit_copyDone : ∀ st ∈ [1, 2], stnOf (dState { dStn 1 [] 0 with xfers := [copyXfer st] }) 1 = some { dStn 1 [] 0 with xfers := [copyXfer st] } ∧
    ({ dStn 1 [] 0 with xfers := [copyXfer st] } : Stn).xfers.find? (fun f => decide (f.id = 9) && isCopy f) = some (copyXfer st) := by decide
def restDesc : List Byte := descOf 1 6 [(1, [16]), (2, [7])]
def finStn (d : List Byte) (st : WorkSt) : Stn := { dStn 1 [d] 1 with works := [(0, { st := st })] }
theorem wit_descComplete : liveOf (dState (finStn restDesc .fin)) 1 = some (finStn restDesc .fin) ∧ dRestAfter restDesc = true ∧ dRestId restDesc = 7 ∧
    liveOf (dState (finStn loopDesc .fin)) 1 = some (finStn loopDesc .fin) ∧ liveOf (dState (finStn loopDesc .run)) 1 = some (finStn loopDesc .run) ∧
    (∀ e ∈ instStns (dState (finStn restDesc .fin)) 1 0, e.1 = 1) := by decide +kernel
def tenState : State :=
  { dState { dStn 1 [] 0 with ctx := 7 } with ten := { ctxs := [(7, { slice := 0 })] }, sch := { (dState { dStn 1 [] 0 with ctx := 7 }).sch with
    launches := [(1, { runLaunch with ctx := 7, insts := [mxInst .running] })] } }
theorem wit_stationFault : stnOf tenState 1 = some { dStn 1 [] 0 with ctx := 7 } ∧ stnLive tenState { dStn 1 [] 0 with ctx := 7 } = true ∧
    tenState.err.rungs = [] ∧ tenState.pwr.phase = .ready := by decide +kernel

def oneFlit : Flit := ⟨6, 8, 64, 0, zeros 512⟩
/-- `dState` with its instance changed. -/
def iState (i : Inst) (x : Stn) : State :=
  { dState x with sch := { (dState x).sch with launches := [(1, { runLaunch with insts := [i] })] } }
def flyInst (h : Nat) : Inst := { mxInst .running with flight := [(0, h, oneFlit)] }
theorem wit_flit : instOf (iState (flyInst 0) (dStn 1 [] 0)) 1 0 = some (flyInst 0) ∧ (streamsOf (iState (flyInst 0) (dStn 1 [] 0)) 1)[0]? = some ⟨0, 0, 1, 0, 1, 0, 2, 1⟩ ∧
    flightAt (flyInst 0).flight 0 0 = some 0 ∧ (flyInst 0).flight[0]? = some (0, 0, oneFlit) ∧ (∀ g ∈ (flyInst 0).flight.take 0, g.1 = 0 → 0 < g.2.1) ∧
    (∃ g ∈ ([(0, 0, oneFlit), (0, 0, oneFlit)] : List (Nat × Nat × Flit)).take 1, g.1 = 0 ∧ g.2.1 ≤ 0) ∧
    flightAt [(0, 0, oneFlit), (0, 0, oneFlit)] 0 1 = some 1 := by decide +kernel
theorem wit_flit_long : ∃ e : StreamEntry, 0 + 1 < e.hops := ⟨⟨0, 0, 1, 0, 2, 0, 2, 1⟩, by decide⟩
def credInst : Inst := { mxInst .running with credits := [(0, 31)], returning := [(0, 1)] }
theorem wit_credit : instOf (iState credInst (dStn 1 [] 0)) 1 0 = some credInst ∧ tget 0 credInst.returning 0 ≠ 0 ∧ tget 0 (mxInst .running).returning 0 = 0 := by decide +kernel
/-- RECV (OP 2) or SEND (OP 3) of one FP8 tile on port 1 or 0 at byte 64, rows 64 bytes apart. -/
def rsDesc (op : Nat) : List Byte := descOf 1 op [(8, [3 - BitVec.ofNat 8 op, 6]), (12, leBytes 4 1), (16, leBytes 4 64), (20, leBytes 4 64)]
def bufInst : Inst := { mxInst .running with bufs := [(1, [oneFlit])] }
theorem wit_recv : DescReady (iState bufInst (dStn 1 [rsDesc 2] 0)) 1 2 (dStn 1 [rsDesc 2] 0) (rsDesc 2) ∧
    DescReady (dState (dStn 1 [rsDesc 2] 0)) 1 2 (dStn 1 [rsDesc 2] 0) (rsDesc 2) ∧ rsTiles (rsDesc 2) = 1 ∧
    sinkStream (iState bufInst (dStn 1 [rsDesc 2] 0)) (dStn 1 [rsDesc 2] 0) (rsPort (rsDesc 2)) = some 1 ∧
    bufOf (iState bufInst (dStn 1 [rsDesc 2] 0)) (dStn 1 [rsDesc 2] 0) 1 = [oneFlit] ∧ bufOf (dState (dStn 1 [rsDesc 2] 0)) (dStn 1 [rsDesc 2] 0) 1 = [] ∧
    oneFlit.fmt = rsFmt (rsDesc 2) ∧ tileFlits 6 (8, 64) = 1 ∧ rowBytes 6 64 = 64 ∧ rsOff (rsDesc 2) 0 = 64 ∧ inScratch (dStn 1 [rsDesc 2] 0) 64 512 = true := by
  decide +kernel
theorem wit_recv_bytes : oneFlit.rows * 64 ≤ oneFlit.data.length := by
  show 8 * 64 ≤ (List.replicate 512 0).length
  rw [List.length_replicate]
def dryInst : Inst := { mxInst .running with credits := [(0, 0)] }
/-- Every stream link of `strRec` may be crossed. -/
theorem wit_mayCross : mayCross (iState (flyInst 0) (dStn 1 [] 0)) 1 0 0 0 = true := by decide +kernel
theorem wit_send : DescReady (dState (dStn 1 [rsDesc 3] 0)) 1 3 (dStn 1 [rsDesc 3] 0) (rsDesc 3) ∧ DescReady (iState dryInst (dStn 1 [rsDesc 3] 0)) 1 3 (dStn 1 [rsDesc 3] 0) (rsDesc 3) ∧
    sourceStream (dState (dStn 1 [rsDesc 3] 0)) (dStn 1 [rsDesc 3] 0) (rsPort (rsDesc 3)) = some 0 ∧ tget 32 dryInst.credits 0 = 0 ∧
    (List.range (ceilDiv 4096 512)).length ≤ tget 32 (mxInst .running).credits 0 := by decide +kernel
/-- FETCH (OP 50H) into stream 2 or STORE (OP 51H) from stream 3 of 2 rows of 64 FP8 elements. -/
def fsDesc (op : Nat) : List Byte :=
  descOf 1 op [(8, leBytes 2 (op - 0x4E)), (10, [6]), (12, [64, 64]), (16, leBytes 8 65536), (24, leBytes 4 2), (28, leBytes 4 64), (32, leBytes 4 64)]
theorem wit_fetch : DescReady (dState (dStn 4 [fsDesc 0x50] 0)) 1 0x50 (dStn 4 [fsDesc 0x50] 0) (fsDesc 0x50) ∧ fsXfer (dStn 4 [fsDesc 0x50] 0) 0 = none ∧
    fsRows (fsDesc 0x50) = 2 ∧ fsCols (fsDesc 0x50) = 64 ∧ DescReady (dState (dStn 4 [fsDesc 0x51] 0)) 1 0x51 (dStn 4 [fsDesc 0x51] 0) (fsDesc 0x51) ∧
    fsTiles (fsDesc 0x51) = 1 ∧ bufOf (dState (dStn 4 [fsDesc 0x51] 0)) (dStn 4 [fsDesc 0x51] 0) 3 = [] := by decide +kernel

/-- An operand entry in the local store: format, order, offset, pitch 64. -/
def opIn (fmt ord off : Nat) : List Byte := [8, BitVec.ofNat 8 fmt, BitVec.ofNat 8 ord, 0] ++ leBytes 4 off ++ leBytes 4 64
/-- MATMUL, CONV or ATTN_SCORE without OUT: M, N, K, A and B in bfloat16 at 0 and 64, no C. -/
def mmDesc (l op m n k : Nat) (fs : List (Nat × List Byte)) : List Byte :=
  descOf l op ([(4, [0x10]), (8, leBytes 2 m), (10, leBytes 2 n), (12, leBytes 4 k), (24, opIn 8 0 0), (40, opIn 8 1 64), (56, [0xFF])] ++ fs)
def mmStn (d : List Byte) : Stn := { dStn 1 [d] 0 with ls := [(0, 0xC0), (1, 0x3F), (64, 0x00), (65, 0x40)] }
def matmulDesc : List Byte := mmDesc 2 0x10 1 1 1 []
theorem wit_matmul : DescReady (dState (mmStn matmulDesc)) 1 0x10 (mmStn matmulDesc) matmulDesc ∧ feedsOf (mmStn matmulDesc) 0 = [] ∧ mxNoOut matmulDesc = true ∧
    mxEpi matmulDesc = 0 ∧ (opndOn matmulDesc 56 0).src = 0xFF := by decide +kernel
/-- R97: 1.5 times 2 is 3. -/
theorem test_matmul : (match exec (.matmul 1) (dState (mmStn matmulDesc)) with
    | .next t => (stnOf t 1).map (fun y => accAt y 0 1 0 0)
    | _ => none) = some 0x40400000#32 := by decide +kernel
def convDesc : List Byte := mmDesc 2 0x11 1 1 32 [(112, [1, 1, 0x11, 0x11, 1, 0, 1, 0, 32, 0, 1, 0])]
theorem wit_conv : DescReady (dState (mmStn convDesc)) 1 0x11 (mmStn convDesc) convDesc ∧ feedsOf (mmStn convDesc) 0 = [] ∧ mxEpi convDesc = 0 := by decide +kernel
def scoreDesc : List Byte := mmDesc 3 0x12 1 64 1 [(17, [1]), (128, [1]), (132, leBytes 4 0x40000000)]
theorem wit_attnScore : DescReady (dState (mmStn scoreDesc)) 1 0x12 (mmStn scoreDesc) scoreDesc ∧ feedsOf (mmStn scoreDesc) 0 = [] ∧ mxEpi scoreDesc = 1 ∧
    (epiStep scoreDesc 0).1 = 1 := by decide +kernel
def pvDesc : List Byte := descOf 2 0x13 [(8, [0, 1, 0, 1, 8, 1]), (16, opIn 8 0 0)]
def pvStn : Stn := { dStn 1 [scoreDesc, pvDesc] 1 with ls := [] }
theorem wit_attnPv : DescReady (dState pvStn) 1 0x13 pvStn pvDesc ∧ feedsOf pvStn 1 = [] ∧ attnRows pvStn 1 = 1 ∧ field pvDesc 10 1 ≠ field pvDesc 11 1 := by decide +kernel
def finDesc : List Byte := descOf 2 0x14 [(4, [0x10]), (8, leBytes 2 1), (10, leBytes 2 1)]
def finalStn (v : Word) : Stn := { dStn 1 [pvDesc, finDesc] 1 with vreg := [(64, v)] }
theorem wit_attnFinal : DescReady (dState (finalStn 0x40000000)) 1 0x14 (finalStn 0x40000000) finDesc ∧ feedsOf (finalStn 0x40000000) 1 = [] ∧
    attnSum (finalStn 0x40000000) 1 = 1 ∧ vregAt (finalStn 0x40000000) 1 0 &&& 0x7FFFFFFF#32 ≠ 0 ∧ vregAt (finalStn 0) 1 0 &&& 0x7FFFFFFF#32 = 0 ∧
    DescReady (dState (finalStn 0)) 1 0x14 (finalStn 0) finDesc := by decide +kernel
def eltDesc : List Byte := descOf 2 0x20 [(4, [0x10]), (8, leBytes 2 1), (10, leBytes 2 1), (24, opIn 8 0 0)]
theorem wit_eltwise : DescReady (dState (mmStn eltDesc)) 1 0x20 (mmStn eltDesc) eltDesc ∧ feedsOf (mmStn eltDesc) 0 = [] ∧ mxEpi eltDesc = 0 := by decide +kernel
def redDesc (axis : Nat) : List Byte := descOf 2 0x21 [(8, opIn 8 0 0), (24, leBytes 2 1), (26, leBytes 2 2), (29, [BitVec.ofNat 8 axis])]
theorem wit_reduce : ∀ a ∈ [0, 1, 2], DescReady (dState (mmStn (redDesc a))) 1 0x21 (mmStn (redDesc a)) (redDesc a) ∧ feedsOf (mmStn (redDesc a)) 0 = [] ∧
    field (redDesc a) 29 1 = a := by decide +kernel
def streamDesc : List Byte := descOf 2 0x10 [(4, [0x10]), (8, leBytes 2 1), (10, leBytes 2 1), (12, leBytes 4 1), (24, [1, 8]), (40, opIn 8 1 64), (56, [0xFF])]
theorem wit_matmul_stream : DescReady (dState (mmStn streamDesc)) 1 0x10 (mmStn streamDesc) streamDesc ∧
    (∃ f ∈ feedsOf (mmStn streamDesc) 0, 0 < feedLen f) ∧ sinkStream (dState (mmStn streamDesc)) (mmStn streamDesc) 1 = some 1 ∧
    bufOf (dState (mmStn streamDesc)) (mmStn streamDesc) 1 = [] ∧ (feedsOf (mmStn streamDesc) 0).map (·.port) = [1] := by
  refine ⟨by decide +kernel, ⟨_, List.mem_cons_self .., by decide +kernel⟩, by decide +kernel, by decide +kernel, by decide +kernel⟩

/-- TRACE of `b` batches from and to scratchpad, results flushed after 9 cycles. -/
def traceDesc (b : Nat) : List Byte := descOf 1 0x40 [(28, leBytes 4 b), (36, leBytes 4 65536), (48, [9])]
theorem wit_trace : DescReady (dState (dStn 3 [traceDesc 1] 0)) 1 0x40 (dStn 3 [traceDesc 1] 0) (traceDesc 1) := by decide +kernel
def traceStn (rs : List (List Byte)) : Stn :=
  { dStn 3 [traceDesc 1] 1 with works := [(0, {})], rg := { results := rs } }
theorem wit_rayBatch_settled : dState (traceStn []) = rgPump 1 (dState (traceStn [])) := by decide +kernel
theorem wit_rayBatch : liveOf (dState (traceStn [])) 1 = some (traceStn []) ∧ rgDesc (traceStn []) = some (0, traceDesc 1) ∧
    (traceStn []).rg.batches < field (traceDesc 1) 28 4 ∧ dOp (traceDesc 1) = 0x40 := by decide +kernel
theorem wit_rayBatch_slots : (freeSlots (traceStn []) 64).length = 64 := by decide +kernel
theorem wit_rayBatch_next : ∃ bs, nextBatch (dState (traceStn [])) (traceStn []) (traceDesc 1) = some (bs, none) ∧ bs = lsRead (traceStn []) 0 3072 := ⟨_, rfl, rfl⟩
theorem wit_rayBatch_good : rayBad (zeros 48) = false ∧ rayBad (layout 48 [(41, [8])]) = true := by decide +kernel
theorem wit_rayBatch_zero : ∀ e ∈ (List.range 64).map (fun j => ((lsRead (traceStn []) 0 3072).drop (48 * j)).take 48), rayBad e = false := by
  decide +kernel
theorem wit_flushBatch : liveOf (dState (traceStn [zeros 32])) 1 = some (traceStn [zeros 32]) ∧ rgDesc (traceStn [zeros 32]) = some (0, traceDesc 1) ∧
    field (traceDesc 1) 48 2 = 9 ∧ field (traceDesc 1) 25 1 = 0 ∧ inScratch (traceStn [zeros 32]) 65536 2048 = true ∧ (traceStn []).rg.results = [] ∧
    (∀ r ∈ (traceStn [zeros 32]).rg.results, r.length = 32) := by decide +kernel
/-- GATHER_HASH of one point from port 1 to scratchpad. -/
def hashDesc : List Byte := descOf 1 0x41 [(8, leBytes 4 1), (12, [2, 1, 1, 8, 1, 8])]
def hashStn : Stn := { dStn 3 [hashDesc] 0 with ls := [(8, 1), (12, 10)] }
theorem wit_gatherHash : DescReady (dState hashStn) 1 0x41 hashStn hashDesc ∧ field hashDesc 16 1 ≠ 8 ∧ sinkStream (dState hashStn) hashStn 1 = some 1 ∧
    (bufOf (dState hashStn) hashStn 1).length < 2 := by decide +kernel
/-- GATHER_EMBED of one bag of one row of 4 bfloat16 elements, its index FFFF_FFFF. -/
def embedDesc : List Byte := descOf 1 0x42 [(8, leBytes 4 1), (12, [1, 8, 4, 1]), (20, [8, 8]), (24, leBytes 4 64), (28, leBytes 4 8)]
def embedStn : Stn := { dStn 3 [embedDesc] 0 with ls := [(0, 0xFF), (1, 0xFF), (2, 0xFF), (3, 0xFF), (64, 7)] }
theorem wit_gatherEmbed : DescReady (dState embedStn) 1 0x42 embedStn embedDesc ∧ field embedDesc 8 4 = 1 ∧ field embedDesc 20 1 = 8 ∧ field embedDesc 15 1 = 1 ∧
    field (lsRead embedStn (field embedDesc 16 4 + 4 * 0) 4) 0 4 = 0xFFFFFFFF := by decide +kernel
/-- R245: the row of a bag without rows is zero. -/
theorem test_empty_bag : (match exec (.gatherEmbed 1) (dState embedStn) with
    | .next t => (stnOf t 1).map (fun y => (y.ls, y.works.map (fun w => w.2.st)))
    | _ => none) = some ([(0, 0xFF), (1, 0xFF), (2, 0xFF), (3, 0xFF)], [.fin]) := by decide +kernel
def fillReq : Req := ⟨0, 512, 0, 5, .missReg 1 3⟩
def missRay : RaySt := { ray := zeros 48, todo := [], tmax := 0, hit := none, waitLine := some 65536, poisoned := false, spilled := 0 }
def missStn : Stn := { dStn 3 [traceDesc 1] 1 with works := [(0, {})], rg := { rays := [(9, missRay)], miss := [(3, 65536, [9], false)] } }
def missState : State := { dState missStn with home := { net := [.fill 0 512 [1] false [fillReq]] } }
theorem wit_missFill : stnOf missState 1 = some missStn ∧ fillReq.who = .missReg 1 3 ∧ tget? missStn.rg.miss 3 = some (65536, [9], false) ∧
    (missState.home.net.find? (fun g => match g with
      | .fill _ _ _ _ rs => rs.any (fun r => decide (r.who = .missReg 1 3))
      | _ => false)) = some (.fill 0 512 [1] false [fillReq]) ∧ (dState missStn).home.net = [] := by decide +kernel

/-- A route plan: one router of two tokens, TOP_K 1, experts 0 (on device) and 1 (remote), rows of 32 FP8 elements. -/
def planBytes : List Byte := layout 416
  [(4, [1, 1]), (6, leBytes 2 2), (8, [3, 0]), (10, [1, 1]), (12, leBytes 2 32), (14, leBytes 2 32), (16, leBytes 4 2), (20, leBytes 4 64),
   (24, leBytes 2 1), (26, leBytes 2 1), (32, leBytes 8 4096), (128, [0, 0, 0, 0, 1, 0]), (140, leBytes 4 4096), (148, leBytes 4 2),
   (160, [1, 1, 0, 1, 4]), (168, leBytes 4 8192), (184, leBytes 8 4104), (288, [2, 0, 0, 2]), (332, leBytes 2 7)]
def aRow : Nat × Nat × Word × List Byte := (0, 0, 0x3F800000#32, zeros 64)
def planWith (v : Nat) : Plan :=
  { ctx := 3, addr := 640, launches := [1], total := 1, bytes := some planBytes, waiting := [(1, 4096, v), (1, 4104, 1)] }
def planState (x : Stn) (pl : Plan) : State := { dState x with pip := { plans := [(1, pl)] } }
def planStn : Stn := dStn 3 [] 0
theorem wit_handOver : nextHandOver (planState planStn (planWith 2)) 1 = some (1, planWith 2, planBytes, 2) ∧
    routerOf (planState planStn (planWith 2)) (planWith 2) planBytes 1 = some 0 ∧ stnOf (planState planStn (planWith 2)) 1 = some planStn ∧
    tget 0 (planWith 2).tokens 0 + 2 = rtCount planBytes 0 ∧ (planState planStn (planWith 2)).pwr.phase = .ready := by decide +kernel
theorem wit_handOver_bad : nextHandOver (planState planStn (planWith 1)) 1 = some (1, planWith 1, planBytes, 1) ∧
    tget 0 (planWith 1).tokens 0 + 1 ≠ rtCount planBytes 0 ∧ nextHandOver (dState planStn) 1 = none ∧
    grantedTo planBytes {} 0 ≤ quotaOf planBytes 0 := by decide +kernel
def rowsPlan (tok : Nat) (x : PExpert) : Plan := { planWith 2 with tokens := [(0, tok)], experts := [(0, x), (1, x)] }
theorem wit_tokenRow : livePlan (planState planStn (rowsPlan 2 { transit := [aRow] })) 1 = some (rowsPlan 2 { transit := [aRow] }, planBytes) ∧
    routersDone (rowsPlan 2 { transit := [aRow] }) planBytes = true ∧ routersDone (rowsPlan 0 { transit := [aRow] }) planBytes = false ∧
    (tget {} (rowsPlan 2 { transit := [aRow] }).experts 0).transit[0]? = some aRow ∧
    roleOf (planState planStn (planWith 2)) (planWith 2) (packerRole planBytes 0) = some 1 ∧ plCapSplit planBytes = false ∧ plOverSpill planBytes = false ∧ 0 < plCapacity planBytes ∧ exKind planBytes 0 = 1 ∧
    (tget {} (rowsPlan 0 { cur := List.replicate 63 aRow, transit := [aRow] }).experts 0).cur.length = 63 := by decide +kernel
theorem wit_blockPlaced : placedFor (planState planStn (planWith 2)) (planWith 2) planBytes 0 = true ∧ placedFor (planState planStn (planWith 2)) (planWith 2) planBytes 1 = true ∧
    placedFor (planState planStn { planWith 2 with launches := [] }) { planWith 2 with launches := [] } planBytes 0 = false := by decide +kernel
theorem wit_blockDelivery : slotFree planBytes 0 { ready := [mkBlock [aRow]] } = true ∧ slotFree planBytes 1 { ready := [mkBlock [aRow]] } = true ∧ exKind planBytes 1 = 2 ∧
    slotFree planBytes 0 { ready := [mkBlock [aRow]], delivered := 1 } = false ∧ exDests planBytes 0 = 1 ∧
    roleOf (planState planStn (planWith 2)) (planWith 2) (exDest planBytes 0 0) = some 1 ∧ tget? (dState planStn).rbx.owins (exWindow planBytes 1) = none := by decide +kernel
theorem wit_resultHandOver : roleOf (planState planStn (rowsPlan 2 { delivered := 1 })) (rowsPlan 2 { delivered := 1 }) (exDest planBytes 0 (exRet planBytes 0)) = some 1 ∧
    (1, exResultSem planBytes 0, 1) ∈ (rowsPlan 2 { delivered := 1 }).waiting ∧ (tget {} (rowsPlan 2 { delivered := 1 }).experts 0).returned < 1 ∧
    ctxBusy (planState planStn (rowsPlan 2 { delivered := 1 })) 3 (exResultBase planBytes 0 + 0 * 64 * plOutPitch planBytes) (64 * plOutPitch planBytes) = false := by decide +kernel
def outPlan : Plan := { rowsPlan 2 { out := [(0, mkBlock [aRow], 0)] } with base := [(1, 2 ^ 64 - 4608)] }
theorem wit_resultRemote : (tget {} outPlan.experts 1).out = [(0, mkBlock [aRow], 0)] ∧ resultCount (planState planStn outPlan) outPlan planBytes 1 = 4608 ∧ remoteBlock planBytes = 4608 ∧
    resultCount (planState planStn (rowsPlan 2 { out := [(0, mkBlock [aRow], 0)] })) (rowsPlan 2 { out := [(0, mkBlock [aRow], 0)] }) planBytes 1 = 0 ∧
    ctxBusy (planState planStn outPlan) 3 (exResultBase planBytes 1 + 0 % exSlots planBytes 1 * remoteBlock planBytes) (remoteBlock planBytes) = false := by decide +kernel
def lostPlan : Plan := rowsPlan 2 { out := [(0, mkBlock [aRow], 0)] }
def lostState : State := { planState planStn lostPlan with clk := { upState.clk with ref := [(0, 25000)] } }
theorem wit_remoteLost : (tget {} lostPlan.experts 1).out.find? (fun o => decide (o.1 = 0)) = some (0, mkBlock [aRow], 0) ∧
    plTimeoutMs planBytes * refMs ≤ refOf lostState (packerDie lostState lostPlan planBytes 1) - 0 ∧ resultCount lostState lostPlan planBytes 1 < remoteBlock planBytes ∧ refOf (planState planStn outPlan) 0 = 0 := by decide +kernel
/-- R180, R182: the lost block's one row is counted, and the record's 0x0002 goes out. -/
theorem test_remoteLost : (match exec (.piperRemoteLost 1 1 0) lostState with
    | .next t => (tget? t.pip.plans 1).map (fun q => (q.lost, (tget {} q.experts 1).out.length, t.cmd.evq.length))
    | _ => none) = some (1, 0, 1) := by decide +kernel

/-- A station with one transfer of one 64-byte piece at the extent's first byte, and the extent in its extent cache. -/
def pieceStn (k : XKind) (a : Nat) : Stn :=
  { dStn 1 [] 0 with split := 1, xcache := [(0, 5, 65536)], xfers := [{ id := 2, kind := k, desc := 0, grp := none, pieces := [⟨a, 32, 64, 0⟩], lo := 32, hi := 96, eng := 9 }] }
def homeOf (h : HLine) (x : Extent) (y : Stn) : State :=
  linksUp { withExt x (dState y) with home := { lines := [(512, h)] }, xt := { (withExt x (dState y)).xt with windows := [(255, ⟨0, 0, []⟩)] } }
def reqBy (w : Agent) : Req := ⟨0, 512, 0, 5, w⟩
def roExt : Extent := { extA with attr := 1 }
theorem wit_gets : cacheReaders (homeOf {} roExt (pieceStn .copyIn 65536)) (pieceStn .copyIn 65536) (reqBy (.cache 1)) = [(2, 0)] ∧
    liveOf (homeOf {} roExt (pieceStn .copyIn 65536)) 1 = some (pieceStn .copyIn 65536) ∧ cacheLines 1 1 ≠ 0 ∧
    (pieceOf (pieceStn .copyIn 65536) 2 0).isSome = true ∧ (pieceStn .copyIn 65536).cache = [] ∧ pendGood (pieceStn .copyIn 65536) 512 = false ∧ roExt.attr = 1 := by decide +kernel
def hitStn : Stn := { pieceStn .copyIn 65536 with cache := [(7, zeros 128), (512, List.replicate 128 9)] }
theorem wit_gets_hit : cacheReaders (homeOf {} roExt hitStn) hitStn (reqBy (.cache 1)) = [(2, 0)] ∧
    hitStn.cache.find? (fun e => decide (e.1 = lkey 0 512)) = some (512, List.replicate 128 9) ∧ liveOf (homeOf {} roExt hitStn) 1 = some hitStn := by decide +kernel
def pendStn : Stn := { pieceStn .copyIn 65536 with pend := [(512, [], false)] }
theorem wit_gets_pend : cacheReaders (homeOf {} roExt pendStn) pendStn (reqBy (.cache 1)) = [(2, 0)] ∧ pendGood pendStn (lkey 0 512) = true ∧ pendStn.pend = [] ++ [(512, [], false)] ++ [] ∧
    liveOf (homeOf {} roExt pendStn) 1 = some pendStn := by decide +kernel
theorem wit_pieces_live : ∀ k ∈ [XKind.copyIn, .copyOut, .scatterRed], liveOf (homeOf {} extA (pieceStn k 65536)) 1 = some (pieceStn k 65536) := by decide +kernel
theorem wit_pieces_issue : ∀ k ∈ [XKind.copyIn, .copyOut, .scatterRed], (pieceOf (pieceStn k 65536) 2 0).any (fun e =>
    !heldBack (homeOf {} extA (pieceStn k 65536)) 1 (pieceStn k 65536) e.1 e.2 0 && !engineHeld (homeOf {} extA (pieceStn k 65536)) e.1 && decide (groupOf e.1 e.2 0 = [0] ∧ firstUses e.1 [0] = [0] ∧
      readsX e.1.kind = decide (k = .copyIn) ∧ e.2.st = 0)) = true := by decide +kernel
theorem wit_pieces_place : ∀ k ∈ [XKind.copyIn, .copyOut, .scatterRed],
    owinAt (homeOf {} extA (pieceStn k 65536)) 0 65536 = none ∧ placeIs (homeOf {} extA (pieceStn k 65536)) (pieceStn k 65536) 65536 (reqBy (.xfer 1 2 0)) = true ∧
    placeRo (homeOf {} extA (pieceStn k 65536)) (pieceStn k 65536) 65536 = false ∧ placeRo (homeOf {} roExt (pieceStn k 65536)) (pieceStn k 65536) 65536 = true ∧
    placeIs (homeOf {} roExt (pieceStn k 65536)) (pieceStn k 65536) 65536 (reqBy (.xfer 1 2 0)) = true := by decide +kernel
theorem wit_getu_counter : inCounters 0xFFFFFFFFFFF80 = true ∧ counterOwned (homeOf {} extA (pieceStn .copyIn 0xFFFFFFFFFFF80)) 0 0xFFFFFFFFFFF80 = true ∧
    owinAt (homeOf {} extA (pieceStn .copyIn 0xFFFFFFFFFFF80)) 0 0xFFFFFFFFFFF80 = none ∧ 0xFFFFFFFFFFF80 % 128 + 64 ≤ 128 := by decide +kernel
def missedStn : Stn := { dStn 3 [] 0 with xcache := [(0, 5, 65536)], rg := { miss := [(3, 65536, [9], false)] } }
theorem wit_getr : liveOf (homeOf {} extA missedStn) 1 = some missedStn ∧ asked (homeOf {} extA missedStn) (.missReg 1 3) = false ∧ writeHeld missedStn 512 (homeOf {} extA missedStn).sch.xseq = false ∧
    placeIs (homeOf {} extA missedStn) missedStn 65536 (reqBy (.missReg 1 3)) = true ∧ owinAt (homeOf {} extA missedStn) 0 65536 = none := by decide +kernel
theorem wit_homeTakes : HomeTakes (homeOf {} extA (dStn 1 [] 0)) (reqBy (.core 48)) ∧ freeAgent (homeOf {} extA (dStn 1 [] 0)) (.core 48) = true ∧
    (hline (homeOf { cached := true } extA (dStn 1 [] 0)) 512).cached = true ∧ HomeTakes (homeOf { cached := true } extA (dStn 1 [] 0)) (reqBy .bar4) ∧
    repairSource (homeOf {} extA (dStn 1 [] 0)) 0 512 = none ∧ replicaLine (homeOf {} extA (dStn 1 [] 0)) 0 512 = none ∧
    homeRefuses (homeOf {} { extA with gen := 1 } (dStn 1 [] 0)) (reqBy .bar4) = some 0x10000 ∧ linePoisoned (homeOf {} extA (dStn 1 [] 0)) 0 512 = false := by decide +kernel
/-- An extent of one granule with a replica on stack 4 whose first line is poisoned. -/
def repExt : Extent := { extA with attr := 17, repStacks := [4], repGrans := [[3]] }
def repState : State := { homeOf { cached := true } repExt (dStn 1 [] 0) with mem := { poison := [512] } }
theorem wit_homePoison : linePoisoned repState 0 512 = true ∧ repairSource repState 0 512 = some (4, 1536) ∧ HomeTakes repState (reqBy .bar4) := by decide +kernel
theorem wit_homeBusy : HomeHears (homeOf { st := .bl, await := [0] } extA (dStn 1 [] 0)) (reqBy .bar4) ∧ lineBusy (hline (homeOf { st := .bl, await := [0] } extA (dStn 1 [] 0)) 512) = true ∧
    redAccepts (hline (homeOf { st := .bl, await := [0] } extA (dStn 1 [] 0)) 512) = false ∧ HomeTakes (homeOf { cached := true, st := .sh, sharers := [(0, 1)] } extA (dStn 1 [] 0)) (reqBy .bar4) ∧
    (wayFor (homeOf {} extA (dStn 1 [] 0)) 0 512).isSome = true ∧ (homeOf {} extA (dStn 1 [] 0)).seam.fenced = [] := by decide +kernel
theorem wit_red : HomeHears (homeOf { cached := true } extA (dStn 1 [] 0)) (reqBy .bar4) ∧ redAccepts (hline (homeOf { cached := true } extA (dStn 1 [] 0)) 512) = true ∧
    orderedOf (homeOf {} extA (dStn 1 [] 0)) 512 = none ∧ orderStored (homeOf {} extA (dStn 1 [] 0)) 0 < 4096 ∧ orderUsed (homeOf {} extA (dStn 1 [] 0)) 0 < 8192 := by decide +kernel
/-- Releases of 3 and waits for 3 at the extent's byte 8, device scope. -/
def semStn1 (op : Nat) : Stn :=
  { dStn 1 [descOf 1 op [(8, leBytes 8 65544), (16, leBytes 8 3), (24, [1])]] 1 with xcache := [(0, 5, 65536)], works := [(0, { st := .wait })] }
theorem wit_stnSem : ∀ op ∈ [6, 7], liveOf (homeOf {} extA (semStn1 op)) 1 = some (semStn1 op) ∧
    semAcc (homeOf {} extA (semStn1 op)) (.sem 1) = some ⟨decide (op = 7), 65544, 3, 1, 0⟩ ∧ inCounters 65544 = false ∧ owinAt (homeOf {} extA (semStn1 op)) 0 65544 = none ∧
    xlate (homeOf {} extA (semStn1 op)) (semStn1 op) 65544 = some ⟨0, 512, 8, 5, false⟩ ∧ releaseReady (homeOf {} extA (semStn1 op)) (semStn1 op) 1 (semMark (homeOf {} extA (semStn1 op)) (.sem 1)) = true ∧
    semHeld (semStn1 op) (semMark (homeOf {} extA (semStn1 op)) (.sem 1)) 65544 = false ∧
    placeIs (homeOf {} extA (semStn1 op)) (semStn1 op) 65544 (reqBy (.sem 1)) = true := by decide +kernel
theorem wit_stnSem_add : ∃ o, HReq.red (reqBy (.sem 1)) o = semAddReq 0 512 8 0 5 3 (.sem 1) := ⟨_, rfl⟩
theorem wit_homeSemWait : signedOf 64 0 ≤ signedOf 64 (field (lineBytes (homeOf {} extA (dStn 1 [] 0)) 0 512) 8 8) ∧
    signedOf 64 (field (lineBytes (homeOf {} extA (dStn 1 [] 0)) 0 512) 8 8) < signedOf 64 1 ∧ (tget [] (homeOf {} extA (dStn 1 [] 0)).home.waiters 0).length < 4096 := by decide +kernel
/-- R299: a byte write reaches its byte alone. -/
theorem test_home_write : (match exec (.write (reqBy .bar4) 2 [9, 7]) (homeOf { cached := true } extA (dStn 1 [] 0)) with
    | .next t => some (t.mem.cells, t.home.net)
    | _ => none) = some ([(65537, 7)], [.wrAck (reqBy .bar4) 0]) := by decide +kernel

def invState (i f d : List (Nat × Nat)) (h : HLine) : State :=
  { homeOf h extA hitStn with home := { lines := [(512, h)], invs := i, fanned := f, drops := d } }
theorem wit_inv : (lkey 0 512, 0) ∈ (invState [(512, 0)] [] [] { sharers := [(0, 1)] }).home.invs ∧ (lkey 0 512, 0) ∉ upState.home.invs ∧
    bitOf (tget 0 (hline (invState [(512, 0)] [] [] { sharers := [(0, 1)] }) (lkey 0 512)).sharers 0) (1 % 168 / 8) = true := by decide +kernel
theorem wit_invDrop : (lkey 0 512, 1) ∈ (invState [] [] [(512, 1)] {}).home.drops ∧ stnOf (invState [] [] [(512, 1)] {}) 1 = some hitStn ∧
    (lkey 0 512, 1) ∉ upState.home.drops ∧ stnOf (homeOf {} extA missedStn) 1 = some missedStn ∧ (xlate (homeOf {} extA missedStn) missedStn 65536).isSome = true := by decide +kernel
theorem wit_partAck : (lkey 0 512, 0) ∈ (invState [] [(512, 0)] [] { st := .bl, await := [0, 1] }).home.fanned ∧
    (∃ q ∈ (hline (invState [] [(512, 0)] [] { st := .bl, await := [0, 1] }) (lkey 0 512)).await, q ≠ 0) ∧
    (∀ q ∈ (hline (invState [] [(512, 0)] [] { st := .bl, await := [0], owed := [.wrAck (reqBy .bar4) 0] }) (lkey 0 512)).await, q = 0) ∧
    (hline (invState [] [(512, 0)] [] { st := .bl, await := [0] }) (lkey 0 512)).held = [] ∧ settled (invState [] [(512, 0)] [] { st := .bl, await := [0] }) 0 512 = true := by decide +kernel
theorem wit_partAck_drops : ∃ n, (lkey 0 512, n) ∈ (invState [] [(512, 0)] [(512, 1)] {}).home.drops ∧ n / 168 = 0 := ⟨1, by decide +kernel, by decide⟩
/-- R300: the INV of group 0 reaches stations 0 to 7. -/
theorem test_inv_fanout : (match exec (.inv 0 512 0) (invState [(512, 0)] [] [] { sharers := [(0, 1)] }) with
    | .next t => some (t.home.drops, t.home.invs)
    | _ => none) = some ([(512, 0), (512, 1), (512, 2), (512, 3), (512, 4), (512, 5), (512, 6), (512, 7)], []) := by decide +kernel

/-- The piece of `pieceStn` issued, and a message on its way. -/
def issuedStn (k : XKind) : Stn :=
  { pieceStn k 65536 with xfers := [{ id := 2, kind := k, desc := 0, grp := none, pieces := [⟨65536, 32, 64, 1⟩], lo := 32, hi := 96, eng := 9 }], pend := [(512, [reqBy (.xfer 1 2 0)], false)] }
def netState (m : Msg) (x : Stn) : State := { homeOf {} extA x with home := { net := [m] } }
theorem wit_answer_xfer : ∀ p ∈ [Msg.fill 0 512 (zeros 128) false [reqBy (.xfer 1 2 0)], .fill 0 512 (zeros 128) true [reqBy (.xfer 1 2 0)], .wrAck (reqBy (.xfer 1 2 0)) 0,
    .wrAck (reqBy (.xfer 1 2 0)) 0xB7, .redAck (reqBy (.xfer 1 2 0)) 0, .redAck (reqBy .bar4) 0, .wrAck (reqBy (.rbx 255 3 4)) 0, .fill 0 512 (zeros 128) false [reqBy (.rbx 255 3 4)],
    .fill 0 512 (zeros 128) false [reqBy (.cache 1)], .fill 0 512 (zeros 128) false [reqBy (.core 48)], .retry (reqBy (.xfer 1 2 0)) ⟨0, 0, 1, [], true, 1, 2⟩, .retry (reqBy .bar4) ⟨0, 0, 1, [], true, 1, 2⟩],
    (netState p (issuedStn .copyIn)).home.net[0]? = some p ∧ (netState p (issuedStn .copyIn)).home.net[1]? = none ∧ (netState p (issuedStn .copyIn)).pwr.phase = .ready := by
  intro p _
  exact ⟨rfl, rfl, rfl⟩
theorem wit_answer_piece : (pieceOf (issuedStn .copyIn) 2 0).any (fun e => decide (servedBy e.1 e.2 = [0] ∧ e.1.id = 2 ∧ e.2.addr % 128 + e.2.len ≤ 128)) = true ∧
    pendOf (issuedStn .copyIn) (lkey 0 512) = some ([reqBy (.xfer 1 2 0)], false) ∧ (pieceOf (issuedStn .copyIn) 2 0).isSome = true ∧ 8 ≤ cacheLines 1 1 ∧
    stnOf (netState (.wrAck (reqBy .bar4) 0) (issuedStn .copyIn)) 1 = some (issuedStn .copyIn) := by decide +kernel
def sentSem (op : Nat) : Stn := { semStn1 op with works := [(0, { st := .wait, count := 1 })] }
theorem wit_semOk : semOwn (netState (.semOk (reqBy (.sem 1)) 0) (sentSem 6)) (reqBy (.sem 1)) = true ∧ semOwn upState (reqBy (.sem 1)) = false ∧
    stnOf (netState (.semOk (reqBy (.sem 1)) 0) (sentSem 6)) 1 = some (sentSem 6) ∧ tget? (sentSem 6).works 0 = some { st := .wait, count := 1 } ∧
    dOp (nth [] (sentSem 6).descs 0) = 6 := by decide +kernel
theorem wit_semOk_net : ∀ m ∈ [Msg.semOk (reqBy (.sem 1)) 0, .semOk (reqBy (.sem 1)) 0x3A, .redAck (reqBy (.sem 1)) 0, .semRetry (reqBy (.sem 1)) 8 3, .semOk (reqBy (.semGrp 1 0)) 0],
    (netState m (sentSem 6)).home.net[0]? = some m ∧ Agent.sem 1 ∈ [Agent.sem 1] ++ (List.range 64).map (Agent.semGrp 1) ∧ Agent.semGrp 1 0 ∈ [Agent.sem 1] ++ (List.range 64).map (Agent.semGrp 1) := by
  intro m _
  exact ⟨rfl, by decide +kernel, by decide +kernel⟩
theorem wit_semOk_group : ∃ z : GroupSt, z.waiting = some (10, 5) ∧ tget? ({ dStn 2 [] 0 with groups := [(0, z)] } : Stn).groups 0 = some z := ⟨{ waiting := some (10, 5) }, rfl, rfl⟩
/-- R307: the filled line is in the station cache, and the piece that waited is finished. -/
theorem test_fill_cache : (match exec (.fill 0) (netState (.fill 0 512 (List.replicate 128 9) false [reqBy (.cache 1)]) (issuedStn .copyIn)) with
    | .next t => (stnOf t 1).map (fun y => (y.cache.map (·.1), tget 0 y.ls 32, t.home.net.length))
    | _ => none) = some ([512], 9, 0) := by decide +kernel

def fpLine : HLine := { st := .fp, merge := [.getu (reqBy .bar4)] }
def fpState : State := homeOf fpLine extA (dStn 1 [] 0)
theorem wit_stackData : (hline fpState (lkey 0 512)).st = .fp ∧ settled fpState 0 512 = true ∧ (hline fpState (lkey 0 512)).ready = false ∧
    (hline fpState (lkey 0 512)).merge = [.getu (reqBy .bar4)] ∧ sharerOf (.getu (reqBy .bar4)) = none ∧ hasMac { fpState with xt := { fpState.xt with extents := tmap fpState.xt.extents (fun _ x => { x with attr := 2 }) } } 0 512 ≠ none ∧ crustWorks fpState 0 = true ∧ (wayFor fpState 0 512).isSome = true ∧ (hline fpState (lkey 0 512)).held = [] ∧
    repairSource fpState 0 512 = none ∧ lkey 0 512 ∉ fpState.mem.poison ∧ (hline upState (lkey 0 512)).st ≠ .fp := by decide +kernel
/-- Every way of line 512's set taken by pinned lines. -/
def packedState : State :=
  { fpState with home := { lines := [(512, fpLine)], cru := [(0, { ways := [(setOf 512, List.replicate 16 50000)] })], pins := [(lkey 0 49999, [0])] } }
theorem wit_stackData_full : (hline packedState (lkey 0 512)).st = .fp ∧ crustWorks packedState 0 = true ∧ wayFor packedState 0 512 = none ∧ settled packedState 0 512 = true ∧ heldWays packedState 0 512 = [] := by decide +kernel
theorem wit_replicaRepair : extByHandle repState 5 = some (5, repExt) ∧ locate repExt (128 * 0) = some (0, 65536) ∧ locateRep repExt (128 * 0) = some (4, 196608) ∧
    lkey 0 (65536 / 128) ∈ repState.mem.poison ∧ attrReadOnly repExt.attr = true ∧ attrReplica repExt.attr = true ∧ homeDown repState 0 = false ∧ homeDown repState 4 = false ∧
    lineBusy (hline repState (lkey 0 512)) = false ∧ linePoisoned repState 4 1536 = false ∧ lkey 0 (65536 / 128) ∉ fpState.mem.poison := by decide +kernel
def redLine (ty : Nat) : HLine := { isHeld := true, cached := true, batch := [(reqBy .bar4, ⟨0, ty, 2, zeros 8 ++ leBytes 8 3 ++ zeros 112, false, 0, 0⟩)] }
def redState (ty : Nat) : State :=
  { homeOf (redLine ty) extA (dStn 1 [] 0) with home := { lines := [(512, redLine ty)], waiters := [(0, [⟨reqBy (.sem 1), 8, 3⟩])] } }
theorem wit_reductionApply : ∀ ty ∈ [2, 3], crustWorks (redState ty) 0 = true ∧ settled (redState ty) 0 512 = true ∧ (hline (redState ty) (lkey 0 512)).st ≠ .fp ∧ linePoisoned (redState ty) 0 512 = false ∧ (hline (redState ty) (lkey 0 512)).held = [] ∧
    (hline (redState ty) (lkey 0 512)).st ≠ .bl ∧ (hline (redState ty) (lkey 0 512)).batch = [(reqBy .bar4, ⟨0, ty, 2, zeros 8 ++ leBytes 8 3 ++ zeros 112, false, 0, 0⟩)] ∧
    linePoisoned { redState ty with mem := { poison := [512] } } 0 512 = true := by decide +kernel
/-- R309, R314: adding 3 to the 64-bit element 1 reaches the waiter for 3. -/
theorem test_reductionApply : (match exec (.reductionApply 0 512) (redState 3) with
    | .next t => some (t.mem.cells, t.home.net)
    | _ => none) = some ([(65544, 3)], [.redAck (reqBy .bar4) 0, .semOk (reqBy (.sem 1)) 0]) := by decide +kernel
theorem wit_holdEnd : (hline (homeOf { isHeld := true } extA (dStn 1 [] 0)) (lkey 0 512)).isHeld = true ∧ (hline (homeOf { isHeld := true } extA (dStn 1 [] 0)) (lkey 0 512)).batch = [] ∧ settled (homeOf { isHeld := true } extA (dStn 1 [] 0)) 0 512 = true ∧
    (hline upState (lkey 0 512)).isHeld = false := by decide +kernel
def lateSeq (n : Nat) : State :=
  { fpState with clk := { upState.clk with ref := [(16, n)] }, home := { lines := [(512, { cached := true })], ordered := [(512, ⟨3, 0, [(reqBy .bar4, ⟨0, 2, 1, zeros 128, true, 2, 3⟩)], 0⟩)] } }
theorem wit_orderTimeout_line : redAccepts (hline (lateSeq 100000000) (lkey 0 512)) = true ∧ settled (lateSeq 100000000) 0 512 = true ∧ (hline (lateSeq 0) (lkey 0 512)).cached = true := by decide +kernel
theorem wit_orderTimeout : orderedOf (lateSeq 0) (lkey 0 512) = some ⟨3, 0, [(reqBy .bar4, ⟨0, 2, 1, zeros 128, true, 2, 3⟩)], 0⟩ ∧
    refOf (lateSeq 0) (crustDie 0) - 0 < (cruOf (lateSeq 0) 0).orderMs * refMs ∧ (cruOf (lateSeq 100000000) 0).orderMs * refMs ≤ refOf (lateSeq 100000000) (crustDie 0) - 0 := by decide +kernel
theorem wit_scrub : (cruOf upState 0).scrubOn = true ∧ 512 < usableGrans fpState 0 * 512 ∧ (cruOf fpState 0).scrubDone = [] ∧ scrubOver fpState 0 = false ∧ crustWorks fpState 0 = true ∧ withdrawn fpState 0 512 = false ∧
    (cruOf { fpState with home := { cru := [(0, { scrubOn := false })] } } 0).scrubOn = false := by decide +kernel
def hotState : State := { fpState with clk := { upState.clk with ref := [(16, 25000)] }, home := { cru := [(0, { thrEnable := true, thrThresh := 2, misses := [(0, 3)] })] } }
theorem wit_thrash : crustWorks hotState 0 = true ∧ tget 0 (cruOf hotState 0).missWin 0 < refOf hotState (crustDie 0) / 25000 ∧ refOf fpState (crustDie 0) / 25000 ≤ tget 0 (cruOf fpState 0).missWin 0 ∧ (cruOf hotState 0).thrEnable = true ∧ (cruOf hotState 0).thrThresh ≤ tget 0 (cruOf hotState 0).misses 0 ∧
    tget 0 (cruOf hotState 0).silent 0 = 0 ∧ tget 0 (cruOf hotState 0).misses 1 < (cruOf hotState 0).thrThresh := by decide +kernel
def freeingState : State := { memOf [7, 8] upState with xt := { upState.xt with freeing := [(0, 1, 0)] } }
theorem wit_freed : freeingState.xt.freeing.find? (fun e => decide (e.1 = 0 ∧ e.2.1 = 1)) = some (0, 1, 0) ∧ memByte freeingState 0 65537 = 8 ∧
    (∀ e ∈ upState.xt.freeing, ¬ (e.1 = 0 ∧ e.2.1 = 1)) := by decide +kernel

def coldStn : Stn := { pieceStn .copyIn 65536 with xcache := [] }
theorem wit_walk : liveOf (homeOf {} extA coldStn) 1 = some coldStn ∧ xlate (homeOf {} extA coldStn) coldStn 65536 = none ∧ owinAt (homeOf {} extA coldStn) 0 65536 = none ∧
    (walkPieces coldStn 65536 0 0).map (·.2) = [(⟨65536, 32, 64, 0⟩, 0)] ∧ walkSems (homeOf {} extA coldStn) 1 coldStn 65536 0 0 = [] ∧
    findMap (homeOf {} extA coldStn) 0 65536 = some (⟨0, 65536, 5, false⟩, extA) ∧ findMap (dState coldStn) 0 65536 = none := by decide +kernel
theorem wit_walk_none : walkPieces coldStn 65664 0 0 = [] ∧ walkSems (homeOf {} extA coldStn) 1 coldStn 65664 0 0 = [] ∧ liveOf (dState coldStn) 1 = some coldStn ∧
    (walkMisses (homeOf {} extA missedStn) 1 missedStn 65536).any (fun m => decide (9 ∈ m.2)) = true := by decide +kernel
theorem wit_stale : (netState (.refuse (reqBy (.xfer 1 2 0)) 0x10000) (issuedStn .copyIn)).home.net.find? (staleFor (netState (.refuse (reqBy (.xfer 1 2 0)) 0x10000) (issuedStn .copyIn)) 1 0 65536) =
    some (.refuse (reqBy (.xfer 1 2 0)) 0x10000) ∧ upState.home.net = [] := by decide +kernel
def aFault : FaultRec := ⟨0, 1, 0, 65536, 0, 0, 0, 0, 1, 64⟩
def batchState (x : Ctx) : State := { dState (dStn 1 [] 0) with ten := { ctxs := [(0, x)] }, xt := { upState.xt with ringEnable := true, ringBase := 4096 } }
theorem wit_allStalled : ctxOf (batchState { slice := 0, openBatch := some ⟨0, [aFault]⟩ }) 0 = some { slice := 0, openBatch := some ⟨0, [aFault]⟩ } ∧
    ctxRunning { batchState { slice := 0 } with sch := { (batchState { slice := 0 }).sch with launches := [(1, { runLaunch with insts := [{ mxInst .running with placed := true }] })] } } 0 = true ∧
    ctxRunning upState 0 = false := by decide +kernel
def stalledState (w : Nat) : State :=
  { batchState { slice := 0, openBatch := some ⟨0, [aFault]⟩ } with sch := { (dState { dStn 1 [] 0 with waited := w }).sch with
    launches := [(1, { runLaunch with insts := [{ mxInst .running with placed := true }] })] } }
theorem wit_stalled : ctxRunning (stalledState 25600) 0 = true ∧
    (∀ e ∈ (stalledState 25600).sch.stns, 25600 ≤ e.2.waited ∧ stnWaits (stalledState 25600) e.1 e.2 = true) ∧ (stalledState 1).sch.stns.any (fun e => decide (e.2.waited < 25600)) = true := by decide +kernel
theorem wit_faultDelivery : ctxOf (batchState { slice := 0, waiting := [(⟨0, [aFault]⟩, 2)] }) 0 = some { slice := 0, waiting := [(⟨0, [aFault]⟩, 2)] } ∧
    faultRoom (batchState { slice := 0 }) 1 = true ∧ (batchState { slice := 0 }).xt.ringLog2 ≤ 20 ∧ upState.xt.ringEnable = false := by decide +kernel
def apState (h : HLine) (x : Extent) : State :=
  { homeOf h x (dStn 1 [] 0) with pci := { upState.pci with active := true, linkUp := true }, xt := { (withExt x (dState (dStn 1 [] 0))).xt with apertures := [(0, ⟨0, 65536, true, true⟩)] } }
theorem wit_bar4 : BarUp (apState {} extA) ∧ apServe (apState {} extA) 8 4 false = some (0, 65544) ∧ apServe (apState {} extA) 8 4 true = some (0, 65544) ∧
    apServe (apState {} extA) 65536 4 false = none ∧ ctxBusy (apState {} extA) 0 65544 4 = false ∧ ctxPoisoned (apState {} extA) 0 65544 4 = false ∧
    ctxBusy (apState { st := .bl } extA) 0 65544 4 = true ∧ busUp upState = false := by decide +kernel
theorem wit_bar4_cached : HomeTakes (apState { cached := true } extA) ⟨0, 512, 0, 5, .bar4⟩ ∧ (hline (apState { cached := true } extA) (lkey 0 512)).cached = true ∧
    wayFor (apState { cached := true } extA) 0 512 ≠ none ∧ (hline (apState {} extA) (lkey 0 512)).cached = false := by decide +kernel
theorem wit_bar4_write : translate (apState {} extA) 0 65544 = some ⟨0, 512, 8, 5, false⟩ ∧ HomeTakes (apState {} extA) ⟨0, 512, 0, 5, .bar4⟩ ∧
    ctxPoisoned { apState {} extA with mem := { poison := [512] } } 0 65544 4 = true ∧ replicaLine (apState {} extA) 0 512 = none := by decide +kernel
/-- R368: a write through the aperture. -/
theorem test_bar4_write : (match exec (.bar4Write 8 [7, 9]) (apState { cached := true } extA) with
    | .next t => some t.mem.cells
    | _ => none) = some [(65544, 7), (65545, 9)] := by decide +kernel
def wcState : State := { apState {} extA with host := { mem := [(0, 1)], dirty := [(0, 5), (4096, 6)] } }
theorem wit_writeback : wcState.pci.active = true ∧ wcState.pci.linkUp = true ∧ HostMem.wf wcState.host = true ∧ wcDie 4096 = 49 ∧ wcDie 0 = 48 ∧ upState.pci.active = false := by decide +kernel

def portState (u : RPort) : State := { upState with rbx := { ports := [(0, u)] } }
def fullPort : RPort := { st := 2, replay := [(3, 0, 0), (4, 1, 0)], txSeq := 5 }
theorem wit_flit_up : portUp (portState fullPort) 0 = true ∧ portUp upState 0 = false ∧ (portOf (portState fullPort) 0).rxUsed.length = 3 ∧ (portOf (portState fullPort) 0).rxSeq = 0 := by decide +kernel
theorem wit_flit_ack : LeftAfter (portOf (portState fullPort) 0).replay 3 [(4, 1, 0)] := Or.inr ⟨[], (3, 0, 0), by decide +kernel, rfl, by simp⟩
theorem wit_flit_none : LeftAfter (portOf (portState fullPort) 0).replay 0xFFF [(3, 0, 0), (4, 1, 0)] := Or.inl ⟨by decide +kernel, by decide +kernel⟩
theorem wit_flit_eight : LeftAfter (portOf (portState { fullPort with replay := [(3, 0, 8)] }) 0).replay 2 [(3, 0, 8)] := Or.inl ⟨by decide +kernel, by decide +kernel⟩
/-- R492: a flit in sequence on channel 1 that acknowledges 3. -/
theorem test_flit : (match exec (.rbxFlit 0 ⟨0, 3, false, 1, [0, 9, 0], true⟩) (portState fullPort) with
    | .next t => some ((portOf t 0).rxUsed, (portOf t 0).replay)
    | _ => none) = some ([0, 1, 0], [(4, 1, 0)]) := by decide +kernel
/-- R494: a NAK of 3 has the flit after it replayed. -/
theorem test_nak : (match exec (.rbxNak 0 3) (portState fullPort) with
    | .next t => some ((portOf t 0).replay, (portOf t 0).replays)
    | _ => none) = some ([(4, 1, 1)], 1) := by decide +kernel
/-- The same port when IDLE_US have passed since a flit was heard. -/
def silentState : State := { portState fullPort with clk := { (portState fullPort).clk with ref := [(48, 25 * (portState fullPort).rbx.idleUs)] } }
theorem wit_silent : (portState fullPort).rbx.idleUs * 25 ≤ refOf silentState 48 - fullPort.heardAt ∧ refOf (portState fullPort) 48 - fullPort.heardAt < (portState fullPort).rbx.idleUs * 25 ∧
    portUp silentState 0 = true := by decide +kernel
/-- R515: a port down by its idle timeout. -/
theorem test_idleTimeout : (match exec (.idleTimeout 0) silentState with
    | .next t => some ((portOf t 0).st, (portOf t 0).cause, t.cmd.evq.length)
    | _ => none) = some (1, 4, 1) := by decide +kernel
theorem wit_portUp : (portOf (portState { st := 1 }) 0).st = 1 ∧ (portState fullPort).rbx.mode ≠ 1 ∧ (0x0F : Nat) % 16 = 15 ∧ (0x77 : Nat) % 16 ≠ 15 ∧ 0x77 / 16 % 16 ≠ 15 ∧
    ({ portState { st := 1 } with rbx := { ports := [(0, { st := 1 })], mode := 1, groupSize := 4, deviceNum := 2 } } : State).rbx.mode = 1 ∧ 1 ≠ (2 + 0 + 1) % 4 := by decide +kernel

/-- A packet of device 3 into window 255. -/
def pktIn (ty len off st : Nat) (d : List Byte) : Pkt :=
  { ptype := ty, op := 0, src := 3, dst := 0, window := 255, counter := 0, offset := off, length := len, status := st, tag := 4, mask := 0, reservedOk := true, data := d }
/-- A state with port 0 up and window 255 over the extent, of every right and any peer. -/
def pktState (x : Stn) (out : List RReq) : State :=
  { homeOf {} extA x with
    rbx := { ports := [(0, { st := 2 })], out := out },
    xt := { (withExt extA (dState x)).xt with windows := [(255, ⟨0, 1, [⟨0, 65536, 65536, 15, 0xFFFF⟩]⟩)] } }
theorem wit_packets : anyPort (pktState (dStn 1 [] 0) []) = true ∧ anyPort upState = false ∧ inbCheck (pktState (dStn 1 [] 0) []) (pktIn 1 4 8 0 [1, 2, 3, 4]) = (0, 65544) ∧
    inbCheck (pktState (dStn 1 [] 0) []) (pktIn 2 128 0 0 []) = (0, 65536) ∧ (inbCheck (pktState (dStn 1 [] 0) []) (pktIn 4 8 65536 0 (zeros 8))).1 = 1 ∧
    inbCheck (pktState (dStn 1 [] 0) []) (pktIn 3 128 0 0 (zeros 128)) = (0, 65536) ∧ (inbCheck { pktState (dStn 1 [] 0) [] with xt := upState.xt } (pktIn 1 4 8 0 [1, 2, 3, 4])).1 = 8 := by decide +kernel
theorem wit_packets_home : (inbCheck { pktState (dStn 1 [] 0) [] with seam := upState.seam } (pktIn 1 4 8 0 [1, 2, 3, 4])).1 = 6 ∧ (5 : Nat) ∉ pktTypes ∧
    translate (pktState (dStn 1 [] 0) []) 0 65544 = some ⟨0, 512, 8, 5, false⟩ ∧ HomeTakes (pktState (dStn 1 [] 0) []) ⟨0, 512, 0, 5, .rbx 255 3 4⟩ ∧
    replicaLine (pktState (dStn 1 [] 0) []) 0 512 = none := by decide +kernel
/-- The same with the line held by its home. -/
def pktHeld : State := { pktState (dStn 1 [] 0) [] with home := { lines := [(512, { cached := true })] } }
theorem wit_packets_held : (inbCheck pktHeld (pktIn 1 4 8 0 [1, 2, 3, 4])).1 = 0 ∧ HomeTakes pktHeld ⟨0, 512, 0, 5, .rbx 255 3 4⟩ ∧ (hline pktHeld (lkey 0 512)).cached = true ∧
    wayFor pktHeld 0 512 ≠ none ∧ (hline (pktState (dStn 1 [] 0) []) (lkey 0 512)).cached = false := by decide +kernel
/-- R500: four bytes of an RBX_WRITE at offset 8 of the window. -/
theorem test_rbxWrite : (match exec (.rbxWrite (pktIn 1 4 8 0 [1, 2, 3, 4])) pktHeld with
    | .next t => some t.mem.cells
    | _ => none) = some [(65544, 1), (65545, 2), (65546, 3), (65547, 4)] := by decide +kernel
theorem wit_barrier : requestOk (pktIn 0x20 0 0 0 []) = true ∧ requestOk (pktIn 0x20 1 0 0 [0]) = false ∧ tget? (pktState (dStn 1 [] 0) []).xt.windows 255 = some ⟨0, 1, [⟨0, 65536, 65536, 15, 0xFFFF⟩]⟩ ∧
    peerOk ⟨0, 65536, 65536, 15, 0xFFFF⟩ 3 = true ∧ peerOk ⟨0, 65536, 65536, 15, 7⟩ 3 = false ∧ bitOf 1 0 = true := by decide +kernel
/-- R501: the barrier counts 1. -/
theorem test_barrier : (match exec (.rbxBarrier (pktIn 0x20 0 0 0 [])) (pktState (dStn 1 [] 0) []) with
    | .next t => some t.xt.counters
    | _ => none) = some [(4080, 1)] := by decide +kernel
def sentReq (ty : Nat) (who : Agent) : RReq := { tag := 4, die := 48, port := some 0, owin := 0, pkt := pktIn ty 64 0 0 [], who := who, since := 0, piper := none }
theorem wit_response : responseOk (pktIn 0x10 0 0 0 []) = true ∧ responseOk (pktIn 0x10 0 0 9 []) = false ∧ responseOk (pktIn 0x11 64 0 0 (zeros 64)) = true ∧
    answered (pktState (issuedStn .copyOut) [sentReq 1 (.xfer 1 2 0)]) (pktIn 0x10 0 0 0 []) = some (sentReq 1 (.xfer 1 2 0)) ∧
    answered (pktState (issuedStn .scatterRed) [sentReq 3 (.xfer 1 2 0)]) (pktIn 0x10 0 0 0 []) = some (sentReq 3 (.xfer 1 2 0)) ∧
    answered (pktState (issuedStn .copyIn) [sentReq 2 (.xfer 1 2 0)]) (pktIn 0x11 64 0 0 (zeros 64)) = some (sentReq 2 (.xfer 1 2 0)) ∧
    answered (pktState (issuedStn .copyIn) [sentReq 2 (.xfer 1 2 0)]) (pktIn 0x11 0 0 7 []) = some (sentReq 2 (.xfer 1 2 0)) ∧
    answered (pktState (sentSem 7) [sentReq 4 (.sem 1)]) (pktIn 0x10 0 0 0 []) = some (sentReq 4 (.sem 1)) ∧
    answered (pktState (issuedStn .copyOut) []) (pktIn 0x10 0 0 0 []) = none := by decide +kernel
theorem wit_response_piece : stnOf (pktState (issuedStn .copyOut) []) 1 = some (issuedStn .copyOut) ∧ (pieceOf (issuedStn .copyOut) 2 0).isSome = true ∧
    responseOk (pktIn 0x11 0 0 7 []) = true ∧ responseOk (pktIn 0x10 0 0 4 []) = true := by decide +kernel
theorem wit_response_sem : answered (pktState (issuedStn .semAdd) [sentReq 4 (.xfer 1 2 0)]) (pktIn 0x10 0 0 0 []) = some (sentReq 4 (.xfer 1 2 0)) ∧
    (pieceOf (issuedStn .semAdd) 2 0).map (·.1.kind) = some .semAdd ∧ (pieceOf (issuedStn .scatterRed) 2 0).map (·.1.kind) = some .scatterRed ∧
    answered (pktState (issuedStn .copyOut) [{ sentReq 1 (.piper 7) with piper := some (7, 0, 1) }]) (pktIn 0x10 0 0 0 []) = some { sentReq 1 (.piper 7) with piper := some (7, 0, 1) } := by decide +kernel
theorem wit_expiry : (pktState (issuedStn .copyOut) [sentReq 1 (.xfer 1 2 0)]).rbx.out.find? (fun q => decide (q.tag = 4 ∧ q.port ≠ none)) = some (sentReq 1 (.xfer 1 2 0)) ∧
    refOf (pktState (issuedStn .copyOut) []) 48 - 0 < (pktState (issuedStn .copyOut) []).rbx.ackUs * refUs ∧
    (pktState (issuedStn .copyOut) []).rbx.ackUs * refUs ≤ refOf { pktState (issuedStn .copyOut) [] with clk := { upState.clk with ref := [(48, 25000000)] } } 48 - 0 ∧
    upState.rbx.out = [] := by decide +kernel

def bundleState (l n : Nat) : State := { upState with seam := { bundles := [(16 * l, { st := n })], pendLinks := [l], pendTrims := [3] } }
theorem wit_laneLoss : (0 : Nat) < linkBundles 20 ∧ (bundleOf (bundleState 20 1) 20 0).st ∈ [1, 2] ∧ (bundleOf upState 20 0).st ∉ [1, 2] ∧ (linkEnds 20).1 < 10 ∧
    (bundleState 20 1).err.rungs = [] ∧ (bundleState 20 1).pwr.phase = .ready := by decide +kernel
/-- R468, R593: the only link of dies 0 and 1 goes, and both are fenced. -/
theorem test_laneLoss : (match exec (.seamLaneLoss 20 0 3) (bundleState 20 1) with
    | .next t => some (t.seam.fenced, (bundleOf t 20 0).st, (bundleOf t 20 0).was)
    | _ => none) = some ([0, 1], 3, 1) := by decide +kernel
theorem wit_loadWindow : (tget {} (bundleState 5 1).seam.watch 5).windows < (bundleState 5 1).seam.watchMin * 60000 ∧ (tget {} (bundleState 5 1).seam.watch 5).retrains < 2 ∧
    (bundleState 5 1).seam.retryThresh < nth 0 [0, 17] 1 ∧ (bundleState 5 1).seam.hbmThresh < 65 ∧
    (∀ b < linkBundles 5, nth 0 [] b ≤ (bundleState 5 1).seam.retryThresh ∧ nth 0 [] b ≤ (bundleState 5 1).seam.corrThresh) := by decide +kernel
theorem wit_retraining : isPending (bundleState 5 1) 5 = true ∧ isPending (bundleState 33 1) 33 = true ∧ isPending (bundleState 5 1) 259 = true ∧ isPending (bundleState 5 1) 6 = false ∧
    (bundleState 5 1).seam.holding = none ∧ heldUp { bundleState 5 1 with seam := { (bundleState 5 1).seam with holding := some 5 } } = [] := by decide +kernel
def heldState : State :=
  { dState (dStn 1 [] 0) with seam := { pendLinks := [0], holding := some 0 }, sch := { (dState (dStn 1 [] 0)).sch with launches := [(1, { runLaunch with insts := [{ mxInst .running with placed := true }] })] } }
def watchState : State := { bundleState 5 1 with seam := { (bundleState 5 1).seam with watch := [(5, { windows := 9, retrains := 2 })] } }
theorem wit_watch_lane : 2 ≤ (tget {} watchState.seam.watch 5).retrains ∧ (tget {} watchState.seam.watch 5).windows < watchState.seam.watchMin * 60000 := by decide +kernel
theorem wit_retraining_held : isPending heldState 0 = true ∧ heldState.seam.holding = some 0 ∧ heldUp heldState ≠ [] ∧ { heldState with seam := { heldState.seam with holding := none } }.seam.holding = none := by decide +kernel
theorem wit_clockLoss : diePart 3 = some 3 ∧ diePart 0x11 = some 0 ∧ diePart pd1 = none ∧ 3 ∈ allDies ∧ pd0 ∈ allDies ∧ upState.clk.lost = [] ∧ upState.err.rungs = [] := by decide +kernel
def fencedState : State := { invState [] [] [] { held := [.getu (reqBy .bar4)], st := .bl, await := [3] } with seam := { upState.seam with fenced := [0] } }
theorem wit_fenced : 0 ∈ fencedState.seam.fenced ∧ 0 ∉ fencedState.seam.absent ∧ tget? fencedState.seam.fencedAt 0 = none ∧ fencedState.err.rungs = [] ∧ touching tenState 0 = [7] := by decide +kernel
/-- R479: the homes of partition 0 are empty and its stations' cached lines of it are gone. -/
theorem test_fenced : (match exec (.partitionFenced 0) fencedState with
    | .next t => (stnOf t 1).map (fun y => (y.cache.length, t.home.lines.map (fun e => (decide (e.2.st = .ns), e.2.held.length))))
    | _ => none) = some (0, [(true, 0)]) := by decide +kernel
def returnState : State :=
  { homeOf {} extA (dStn 1 [] 0) with
    clk := { upState.clk with lost := [0x10] },
    err := { upState.err with rungs := [⟨3, 0, 7, [], 0, 48⟩] } }
theorem wit_crustReturn : diePart 0x10 = some 0 ∧ 0x10 ∈ returnState.clk.lost ∧ (rungReq? returnState 3 0).isSome = true ∧
    (∀ e ∈ returnState.xt.extents, attrSealed e.2.attr = false) ∧ attrReadOnly extA.attr = false ∧ extGrans extA 0 = [1] ∧ rungReq? upState 3 0 = none := by decide +kernel
def restoreState : State :=
  { returnState with clk := upState.clk, seam := { returnState.seam with retrained := [0], fenced := [0] } }
theorem wit_restored : rungReq? restoreState 3 0 = some ⟨3, 0, 7, [], 0, 48⟩ ∧ 0 ∈ restoreState.seam.retrained ∧ (∀ d ∈ partDies 0, d ∉ restoreState.clk.lost) := by decide +kernel
theorem wit_restored_straps : partAbsent restoreState restoreState.seam.straps 0 = false := by decide +kernel
theorem wit_resend : ({ upState with home := { resend := [.getu (reqBy .bar4)] } } : State).home.resend[0]? = some (.getu (reqBy .bar4)) ∧ upState.home.resend[0]? = none := by
  exact ⟨rfl, rfl⟩
theorem wit_resend_held : ({ upState with pin := { upState.pin with trayStop := true }, home := { resend := [.getu (reqBy (.cache 3))] } } : State).home.resend[0]? =
      some (.getu (reqBy (.cache 3))) ∧ issueHeld { upState with pin := { upState.pin with trayStop := true } } = true ∧
    agentPart (reqOf (.getu (reqBy (.cache 3)))).who ≠ none := by
  exact ⟨rfl, rfl, by decide⟩

def oneStn (x : Stn) : State :=
  { upState with
    ten := { ctxs := [(7, { slice := 0 })] },
    sch := { upState.sch with stns := [(20, x)], launches := [(1, { runLaunch with ctx := 7 })] } }
def restStn (n : Nat) : Stn := { oneIns 0 0 wReg with ctx := 7, bound := 1000, stretch := n }
theorem wit_wdRest : (oneStn (restStn 1700000)).pwr.phase = .ready ∧ stnOf (oneStn (restStn 1700000)) 20 = some (restStn 1700000) ∧
    stnLive (oneStn (restStn 1700000)) (restStn 1700000) = true ∧ (tget? (oneStn (restStn 1700000)).ten.ctxs 7).isSome ∧
    (oneStn (restStn 1700000)).err.rungs = [] ∧
    max ((restStn 1700000).bound / max 1 4) 65536 + (restStn 1700000).bound < (restStn 1700000).stretch / 25 ∧
    (restStn 1000).stretch / 25 ≤ (restStn 1000).bound + 65536 := by decide +kernel
def blockedState : State :=
  { upState with
    clk := { upState.clk with ref := [(0x10, 25000)] },
    home := { upState.home with lines := [(5, { st := .bl, await := [9] })] } }
theorem wit_wdHome : (hline blockedState (lkey 0 5)).st = .bl ∧ (hline blockedState (lkey 0 5)).await = [9] ∧ blockedState.err.rungs = [] ∧
    blockedState.err.homeUs * 25 ≤ refOf blockedState (crustDie 0) - (hline blockedState (lkey 0 5)).blockedAt := by decide +kernel
theorem wit_wdHome_not : refOf upState (crustDie 0) - 0 < upState.err.homeUs * 25 := by decide
def lateState : State := { cmdState 0x0702 0 [] with clk := { upState.clk with ref := [(0x30, 300000)] } }
theorem wit_wdCommand : (cmdQueue 0 0x0702 0 []).cmds.find? startedCmd = some (cmdOf 0x0702 0 []) ∧
    tget? lateState.cmd.queues 1 = some (cmdQueue 0 0x0702 0 []) ∧ wdLate lateState 1 (cmdQueue 0 0x0702 0 []) (cmdOf 0x0702 0 []) = true ∧
    copyPart lateState (cmdOf 0x0702 0 []) = none ∧ lateState.pin.trayStop = false ∧ wdLate (cmdState 0x0702 0 []) 1 (cmdQueue 0 0x0702 0 []) (cmdOf 0x0702 0 []) = false := by
  decide +kernel
theorem wit_watchdogs : upState.pwr.phase = .ready ∧ upState.err.rungs = [] ∧ (1 : Nat) < 2 ∧ startingState.pwr.phase = .starting := by decide
theorem wit_stationUe : (stnOf (oneStn (restStn 0)) 20).isSome = true ∧ (20 : Nat) < 1680 := by decide +kernel

def rungState (r t : Nat) : State :=
  { upState with
    ten := { ctxs := [(7, { slice := 0 })] },
    seam := { upState.seam with fenced := if r = 3 then [t] else [] },
    err := { upState.err with rungs := [⟨r, t, 0, [], 0, 48⟩] } }
theorem wit_rung1 : (rungState 1 7).pwr.phase = .ready ∧ (tget? (rungState 1 7).ten.ctxs 7).isSome ∧ (rungReq? (rungState 1 7) 1 7).isSome ∧
    rung1Waits (rungState 1 7) 7 = false := by decide
theorem wit_rung2 : stnOfId 0x9BD0 = some 1679 ∧ stnOf (rungState 2 0x9BD0) 1679 = none ∧ (rungReq? (rungState 2 0x9BD0) 2 0x9BD0).isSome := by
  decide +kernel
theorem wit_rung3 : (9 : Nat) < 10 ∧ 9 ∈ (rungState 3 9).seam.fenced ∧ 9 ∉ (rungState 3 9).seam.absent ∧ 9 ∉ (rungState 3 9).seam.retrained ∧ (rungReq? (rungState 3 9) 3 9).isSome := by
  decide
theorem wit_rung4 : (rungReq? (rungState 4 0) 4 0).isSome ∧ bootOrder (rungState 4 0) = [] ∧ (rungState 4 0).xt.extents = [] := by decide +kernel
theorem wit_rung5 : (rungReq? (rungState 5 0) 5 0).isSome := by decide
theorem wit_unlocking : ({ rungState 4 0 with sec := { unlocking := true } } : State).sec.unlocking = true := by decide

def longRung (r t : Nat) : State := { rungState r t with clk := { ref := [(0x30, 1250000)] } }
theorem wit_escalate : (longRung 2 0x9BD0).pwr.phase = .ready ∧ (longRung 2 0x9BD0).err.rungs = [⟨2, 0x9BD0, 0, [], 0, 48⟩] ∧
    (1250000 : Nat) ≤ refOf (longRung 2 0x9BD0) 48 - 0 ∧ ((3, 0x9BD0 / 4096) : Nat × Nat) = (3, 9) := by decide
theorem wit_escalate_early : refOf (rungState 4 0) 48 - 0 < 1250000 ∧ (rungState 4 0).err.rungs = [⟨4, 0, 0, [], 0, 48⟩] := by decide
/-- The rung 1 of context 7, with one of its stations. -/
def hungState : State := { oneStn (restStn 0) with err := (longRung 1 7).err, clk := (longRung 1 7).clk }
theorem wit_escalate_one : hungState.err.rungs = [⟨1, 7, 0, [], 0, 48⟩] ∧ (stnOf hungState 20).map (·.ctx) = some 7 ∧ stnOf hungState 21 = none ∧
    (1250000 : Nat) ≤ refOf hungState 48 - 0 := by decide +kernel
/-- R597: a station that has not stopped has rung 2, beside the rung 1. -/
theorem test_escalate : (match exec (.rungEscalated 1 7 20) hungState with
    | .next t => some (t.err.rungs.map (fun q => (q.rung, q.target)))
    | _ => none) = some [(1, 7), (2, stnId 20)] := by decide +kernel

end Sys2Proof.Tests
end

section
/-! PROOF. BAR0 accesses of a form R12 does not allow: what the meanings of a read and of a write do with them (R13). -/

namespace Sys2Proof.Machine

theorem exec_readClear (off size : Nat) (s : State) : exec (.readClear off size) s = .next (barRead off size s) := rfl

theorem exec_registerWrite (off size val : Nat) (s : State) :
    exec (.registerWrite off size val) s = .next (barWrite off size val s) := rfl

theorem accessOk_iff (off size : Nat) :
    accessOk off size = true ↔ (size = 4 ∨ size = 8) ∧ off % size = 0 ∧ off + size ≤ 2 ^ 25 := decide_eq_true_iff

/-- R13: a form that is not allowed is answered alike whether the bus is up or not and in every phase. -/
theorem barRead_of_not_accessOk {off size : Nat} (s : State) (h : ¬ accessOk off size) :
    barRead off size s = onesBack size false s := if_pos (.inr h)

theorem barWrite_of_not_accessOk {off size : Nat} (val : Nat) (s : State) (h : ¬ accessOk off size) :
    barWrite off size val s = s := if_pos (.inr (.inl h))

/-- Settles O19: a form that R12 does not allow alone sends both meanings down their first branch (R13), whatever the state. -/
theorem accessesOfAnyOtherFormAreTurnedAway : Obligations.AccessesOfAnyOtherFormAreTurnedAway := by
  intro s off size hform
  have hbad : ¬ accessOk off size := fun hok => hform ((accessOk_iff off size).mp hok)
  constructor
  · rw [exec_readClear, barRead_of_not_accessOk s hbad, onesBack]
  · intro v
    rw [exec_registerWrite, barWrite_of_not_accessOk v s hbad]

end Sys2Proof.Machine
end

section
/-! PROOF. The effective cap of R525, with the brake released and in force. -/

namespace Sys2Proof.Machine

theorem effCap_of_brake_released {s : State} (h : s.pwr.brake = false) : effCap s = s.pwr.cap :=
  if_neg (Bool.eq_false_iff.mp h)

theorem effCap_of_brake_in_force {s : State} (h : s.pwr.brake = true) : effCap s = min s.pwr.cap 1200 := if_pos h

/-- Settles O25: the brake alone chooses between CAP_W and its minimum with 1,200 W (R525). -/
theorem theEffectiveCap : Obligations.TheEffectiveCap :=
  fun _ => ⟨effCap_of_brake_released, effCap_of_brake_in_force⟩

end Sys2Proof.Machine
end

section
/-! PROOF. Every command goes on and keeps the limits; so does a step (the tier 3 invariant). -/

namespace Sys2Proof.Machine

/-- The outcome goes on, to a state that keeps the queue and the limits of `s`. -/
def GoesKeeping (s : State) (o : Out) : Prop := ∃ t, o = .next t ∧ Keeps s t

theorem GoesKeeping.next {s t : State} (h : Keeps s t) : GoesKeeping s (.next t) := ⟨t, rfl, h⟩

/-- An outcome that leaves every limited value goes on and keeps them. -/
theorem GoesKeeping.of_limits {s : State} {o : Out} (h : limitsO o = some (limits s)) : GoesKeeping s o := by
  cases o with
  | next t => exact .next (.of_eq (Option.some.inj h))
  | fault r => cases h
  | refused r => cases h

theorem keeps_ueThreshWrite (stack : Nat) (channel : Option Nat) (val : Nat) (s : State) :
    Keeps s (if 20 ≤ stack then s
      else match channel with
        | none => barWrite (0x1000000 + 0x4000 * stack + 0x10) 4 val s
        | some c => if c < 32 then barWrite (0x1000000 + 0x4000 * stack + 0x104 + 8 * c) 4 val s else s) := by
  refine .ite (.refl s) ?_
  cases channel with
  | none => exact keeps_barWrite _ _ _ s
  | some c => exact .ite (keeps_barWrite _ _ _ s) (.refl s)

/-- Each command's own lemma: it leaves the limited values, or keeps them in their ranges. -/
theorem exec_goesKeeping (c : Instr) (s : State) : GoesKeeping s (exec c s) :=
  match c with
  | .powerOn b => .next (keeps_powerOnS b s)
  | .imageFault _ _ => .of_limits (limits_execImageFault ..)
  | .undervoltageStop => .next (keeps_undervoltage s)
  | .overvoltageStop => .next (keeps_overvoltage s)
  | .powerSample _ => .of_limits (limits_execPowerSample ..)
  | .poweredHour => .of_limits (limits_execPoweredHour ..)
  | .thermalSample die tj => .next (.ite (keeps_thermalSampleS die tj s) (.refl s))
  | .budgetWindow _ _ _ => .of_limits (limits_execBudgetWindow ..)
  | .boostStep _ _ _ => .of_limits (limits_execBoostStep ..)
  | .pwrbrkAssert _ => .of_limits (limits_execPwrbrkAssert ..)
  | .pwrbrkRelease => .next (keeps_brakeOff s)
  | .sidebandChatter _ _ _ => .of_limits (limits_execSidebandChatter ..)
  | .trayStopOn _ => .of_limits (limits_execTrayStopOn ..)
  | .trayStopOff => .of_limits (limits_execTrayStopOff ..)
  | .perstAssert => .next (keeps_perstOn s)
  | .perstDeassert _ => .of_limits (limits_execPerstDeassert ..)
  | .perstChatter _ => .of_limits (limits_execPerstChatter ..)
  | .linkDown => .of_limits (limits_execLinkDown ..)
  | .hotReset b => .next (keeps_hotResetS b s)
  | .functionLevelReset b => .next (keeps_flrS b s)
  | .d3hotEntry => .of_limits (limits_execD3hotEntry ..)
  | .d0Return => .next (keeps_d0ReturnS s)
  | .doeSpdm _ => .of_limits (limits_execDoeSpdm ..)
  | .mctpMessage _ => .of_limits (limits_execMctpMessage ..)
  | .dynamicAddress _ => .of_limits (limits_execDynamicAddress ..)
  | .jtagInstruction _ => .of_limits (limits_execJtagInstruction ..)
  | .registerWrite _ _ _ => .next (keeps_barWrite _ _ _ s)
  | .readClear _ _ => .of_limits (limits_execReadClear ..)
  | .q0Enable _ => .next (keeps_barWrite _ _ _ s)
  | .q0Restart => .next (keeps_barWrite _ _ _ s)
  | .faultTailWrite _ => .next (keeps_barWrite _ _ _ s)
  | .eventTailWrite _ => .next (keeps_barWrite _ _ _ s)
  | .pendingWrite _ _ => .next (.ite (keeps_barWrite _ _ _ s) (.refl s))
  | .ueThreshWrite stack channel val => .next (keeps_ueThreshWrite stack channel val s)
  | .seamRetrainReq _ => .next (keeps_barWrite _ _ _ s)
  | .rbxModeSet _ => .next (keeps_barWrite _ _ _ s)
  | .rbxRetrain _ => .next (keeps_barWrite _ _ _ s)
  | .owinValidSet _ _ => .next (.ite (keeps_barWrite _ _ _ s) (.refl s))
  | .owinValidClear _ => .next (.ite (keeps_barWrite _ _ _ s) (.refl s))
  | .unlock => .next (keeps_barWrite _ _ _ s)
  | .bar2Write _ _ => .of_limits (limits_execBar2Write ..)
  | .sealWord _ _ => .of_limits (limits_execSealWord ..)
  | .takePacket _ => .of_limits (limits_execTakePacket ..)
  | .commandStart _ _ => .of_limits (limits_execCommandStart ..)
  | .reply _ _ => .of_limits (limits_execReply ..)
  | .eventRecord => .of_limits (limits_execEventRecord ..)
  | .ctxCreate _ _ => .of_limits (limits_execCtxCreate ..)
  | .ctxDestroy _ _ => .of_limits (limits_execCtxDestroy ..)
  | .ctxFlags _ _ => .of_limits (limits_execCtxFlags ..)
  | .queueCreate _ _ => .of_limits (limits_execQueueCreate ..)
  | .queueDestroy _ _ => .of_limits (limits_execQueueDestroy ..)
  | .queueReset _ _ => .of_limits (limits_execQueueReset ..)
  | .faultResume _ _ => .of_limits (limits_execFaultResume ..)
  | .extCreate _ _ _ => .of_limits (limits_execExtCreate ..)
  | .extDestroy _ _ => .of_limits (limits_execExtDestroy ..)
  | .extShare _ _ => .of_limits (limits_execExtShare ..)
  | .extUnmap _ _ => .of_limits (limits_execExtUnmap ..)
  | .extQuery _ _ => .of_limits (limits_execExtQuery ..)
  | .pin _ _ => .of_limits (limits_execPin ..)
  | .unpin _ _ => .of_limits (limits_execUnpin ..)
  | .apertureSet _ _ => .of_limits (limits_execApertureSet ..)
  | .windowSet _ _ => .of_limits (limits_execWindowSet ..)
  | .counterReset _ _ => .of_limits (limits_execCounterReset ..)
  | .recipeLoad _ _ => .of_limits (limits_execRecipeLoad ..)
  | .recipeCheck _ _ => .of_limits (limits_execRecipeCheck ..)
  | .recipeUnload _ _ => .of_limits (limits_execRecipeUnload ..)
  | .launch _ _ => .of_limits (limits_execLaunch ..)
  | .copy _ _ => .of_limits (limits_execCopy ..)
  | .fillCommand _ _ => .of_limits (limits_execFillCommand ..)
  | .semWaitCommand _ _ => .of_limits (limits_execSemWaitCommand ..)
  | .semWaitTimeout _ _ => .of_limits (limits_execSemWaitTimeout ..)
  | .semReleaseCommand _ _ => .of_limits (limits_execSemReleaseCommand ..)
  | .flush _ _ => .of_limits (limits_execFlush ..)
  | .budgetSet _ _ => .of_limits (limits_execBudgetSet ..)
  | .capSet _ _ => keeps_cmdOut _ _ _ _ s keeps_capSetS
  | .modeSet _ _ => keeps_cmdOut _ _ _ _ s keeps_modeSetS
  | .sliceCreate _ _ => .of_limits (limits_execSliceCreate ..)
  | .sliceResize _ _ => .of_limits (limits_execSliceResize ..)
  | .sliceDestroy _ _ => .of_limits (limits_execSliceDestroy ..)
  | .slicePasid _ _ => .of_limits (limits_execSlicePasid ..)
  | .dirtyLog _ _ => .of_limits (limits_execDirtyLog ..)
  | .spdm _ _ => .of_limits (limits_execSpdm ..)
  | .setKey _ _ => .of_limits (limits_execSetKey ..)
  | .bundleImport _ _ => .of_limits (limits_execBundleImport ..)
  | .setDestroy _ _ => .of_limits (limits_execSetDestroy ..)
  | .reset _ _ => .of_limits (limits_execReset ..)
  | .crumbRead _ _ => .of_limits (limits_execCrumbRead ..)
  | .crashBufferSet _ _ => .of_limits (limits_execCrashBufferSet ..)
  | .calRead _ _ => .of_limits (limits_execCalRead ..)
  | .calWrite _ _ => .of_limits (limits_execCalWrite ..)
  | .clockCorr _ _ _ => .of_limits (limits_execClockCorr ..)
  | .energyRead _ _ => .of_limits (limits_execEnergyRead ..)
  | .serviceTick _ => .of_limits (limits_execServiceTick ..)
  | .timeSliceEnd _ => .of_limits (limits_execTimeSliceEnd ..)
  | .placement _ _ => .of_limits (limits_execPlacement ..)
  | .overrunKill _ => .of_limits (limits_execOverrunKill ..)
  | .restPointReached _ _ => .of_limits (limits_execRestPointReached ..)
  | .saveDone _ _ => .of_limits (limits_execSaveDone ..)
  | .restoreDone _ _ => .of_limits (limits_execRestoreDone ..)
  | .instanceComplete _ _ => .of_limits (limits_execInstanceComplete ..)
  | .launchComplete _ => .of_limits (limits_execLaunchComplete ..)
  | .flitArrival _ _ _ _ => .of_limits (limits_execFlitArrival ..)
  | .creditReturn _ _ _ => .of_limits (limits_execCreditReturn ..)
  | .descriptorComplete _ _ => .of_limits (limits_execDescriptorComplete ..)
  | .stationFault _ => .of_limits (limits_execStationFault ..)
  | .loop _ => .of_limits (limits_execLoop ..)
  | .recv _ => .of_limits (limits_execRecv ..)
  | .send _ => .of_limits (limits_execSend ..)
  | .copyIn _ => .of_limits (limits_execCopyIn ..)
  | .copyOut _ => .of_limits (limits_execCopyOut ..)
  | .explicitCopyDone _ _ => .of_limits (limits_execExplicitCopyDone ..)
  | .semWait _ => .of_limits (limits_execSemWait ..)
  | .semRelease _ => .of_limits (limits_execSemRelease ..)
  | .matmul _ => .of_limits (limits_execMatmul ..)
  | .conv _ => .of_limits (limits_execConv ..)
  | .attnScore _ => .of_limits (limits_execAttnScore ..)
  | .attnPv _ => .of_limits (limits_execAttnPv ..)
  | .attnFinal _ => .of_limits (limits_execAttnFinal ..)
  | .eltwise _ => .of_limits (limits_execEltwise ..)
  | .reduce _ => .of_limits (limits_execReduce ..)
  | .run _ => .of_limits (limits_execRun ..)
  | .iadd _ _ => .of_limits (limits_execIadd ..)
  | .isub _ _ => .of_limits (limits_execIsub ..)
  | .imul _ _ => .of_limits (limits_execImul ..)
  | .imuladd _ _ => .of_limits (limits_execImuladd ..)
  | .imin _ _ => .of_limits (limits_execImin ..)
  | .imax _ _ => .of_limits (limits_execImax ..)
  | .and _ _ => .of_limits (limits_execAnd ..)
  | .or _ _ => .of_limits (limits_execOr ..)
  | .xor _ _ => .of_limits (limits_execXor ..)
  | .not _ _ => .of_limits (limits_execNot ..)
  | .shl _ _ => .of_limits (limits_execShl ..)
  | .shr _ _ => .of_limits (limits_execShr ..)
  | .shra _ _ => .of_limits (limits_execShra ..)
  | .bitcnt _ _ => .of_limits (limits_execBitcnt ..)
  | .leadz _ _ => .of_limits (limits_execLeadz ..)
  | .icmp _ _ => .of_limits (limits_execIcmp ..)
  | .fadd _ _ => .of_limits (limits_execFadd ..)
  | .fmul _ _ => .of_limits (limits_execFmul ..)
  | .fmuladd _ _ => .of_limits (limits_execFmuladd ..)
  | .fmin _ _ => .of_limits (limits_execFmin ..)
  | .fmax _ _ => .of_limits (limits_execFmax ..)
  | .fcmp _ _ => .of_limits (limits_execFcmp ..)
  | .rcp _ _ => .of_limits (limits_execRcp ..)
  | .rsqrt _ _ => .of_limits (limits_execRsqrt ..)
  | .sqrt _ _ => .of_limits (limits_execSqrt ..)
  | .exp2 _ _ => .of_limits (limits_execExp2 ..)
  | .log2 _ _ => .of_limits (limits_execLog2 ..)
  | .sin _ _ => .of_limits (limits_execSin ..)
  | .cos _ _ => .of_limits (limits_execCos ..)
  | .tanh _ _ => .of_limits (limits_execTanh ..)
  | .ftoi _ _ => .of_limits (limits_execFtoi ..)
  | .itof _ _ => .of_limits (limits_execItof ..)
  | .fcvt _ _ => .of_limits (limits_execFcvt ..)
  | .pack2 _ _ => .of_limits (limits_execPack2 ..)
  | .unpack2 _ _ => .of_limits (limits_execUnpack2 ..)
  | .mov _ _ => .of_limits (limits_execMov ..)
  | .movi _ _ => .of_limits (limits_execMovi ..)
  | .sel _ _ => .of_limits (limits_execSel ..)
  | .threadno _ _ => .of_limits (limits_execThreadno ..)
  | .groupno _ _ => .of_limits (limits_execGroupno ..)
  | .stationno _ _ => .of_limits (limits_execStationno ..)
  | .laneget _ _ => .of_limits (limits_execLaneget ..)
  | .lanepoll _ _ => .of_limits (limits_execLanepoll ..)
  | .psave _ _ => .of_limits (limits_execPsave ..)
  | .pload _ _ => .of_limits (limits_execPload ..)
  | .ld _ _ => .of_limits (limits_execLd ..)
  | .st _ _ => .of_limits (limits_execSt ..)
  | .gmac _ _ => .of_limits (limits_execGmac ..)
  | .gmload _ _ => .of_limits (limits_execGmload ..)
  | .gmstore _ _ => .of_limits (limits_execGmstore ..)
  | .jump _ _ => .of_limits (limits_execJump ..)
  | .split _ _ => .of_limits (limits_execSplit ..)
  | .join _ _ => .of_limits (limits_execJoin ..)
  | .loopin _ _ => .of_limits (limits_execLoopin ..)
  | .leave _ _ => .of_limits (limits_execLeave ..)
  | .issue _ _ => .of_limits (limits_execIssue ..)
  | .gatherDone _ _ => .of_limits (limits_execGatherDone ..)
  | .msemr _ _ => .of_limits (limits_execMsemr ..)
  | .msemw _ _ => .of_limits (limits_execMsemw ..)
  | .precv _ _ => .of_limits (limits_execPrecv ..)
  | .psend _ _ => .of_limits (limits_execPsend ..)
  | .wait _ _ => .of_limits (limits_execWait ..)
  | .meet _ _ => .of_limits (limits_execMeet ..)
  | .sema _ _ => .of_limits (limits_execSema ..)
  | .swait _ _ => .of_limits (limits_execSwait ..)
  | .lock _ _ => .of_limits (limits_execLock ..)
  | .trylock _ _ => .of_limits (limits_execTrylock ..)
  | .nop _ _ => .of_limits (limits_execNop ..)
  | .rest _ _ => .of_limits (limits_execRest ..)
  | .finish _ _ => .of_limits (limits_execFinish ..)
  | .trace _ => .of_limits (limits_execTrace ..)
  | .rayBatchTake _ => .of_limits (limits_execRayBatchTake ..)
  | .resultBatchFlush _ => .of_limits (limits_execResultBatchFlush ..)
  | .gatherHash _ => .of_limits (limits_execGatherHash ..)
  | .gatherEmbed _ => .of_limits (limits_execGatherEmbed ..)
  | .missFill _ _ => .of_limits (limits_execMissFill ..)
  | .fetch _ => .of_limits (limits_execFetch ..)
  | .store _ => .of_limits (limits_execStore ..)
  | .handOver _ => .of_limits (limits_execHandOver ..)
  | .tokenRowArrival _ _ _ => .of_limits (limits_execTokenRowArrival ..)
  | .blockDelivery _ _ => .of_limits (limits_execBlockDelivery ..)
  | .resultHandOver _ _ => .of_limits (limits_execResultHandOver ..)
  | .piperRemoteLost _ _ _ => .of_limits (limits_execPiperRemoteLost ..)
  | .gets _ => .of_limits (limits_execGets ..)
  | .getu _ => .of_limits (limits_execGetu ..)
  | .getr _ => .of_limits (limits_execGetr ..)
  | .getc _ => .of_limits (limits_execGetc ..)
  | .write _ _ _ => .of_limits (limits_execWrite ..)
  | .red _ _ => .of_limits (limits_execRed ..)
  | .homeSemWait _ _ _ => .of_limits (limits_execHomeSemWait ..)
  | .inv _ _ _ => .of_limits (limits_execInv ..)
  | .invDrop _ _ _ => .of_limits (limits_execInvDrop ..)
  | .partAck _ _ _ => .of_limits (limits_execPartAck ..)
  | .stackDataArrival _ _ _ => .of_limits (limits_execStackDataArrival ..)
  | .replicaRepair _ _ => .of_limits (limits_execReplicaRepair ..)
  | .fill _ => .of_limits (limits_execFill ..)
  | .wrAck _ => .of_limits (limits_execWrAck ..)
  | .redAck _ => .of_limits (limits_execRedAck ..)
  | .semOk _ => .of_limits (limits_execSemOk ..)
  | .semRetry _ => .of_limits (limits_execSemRetry ..)
  | .retry _ => .of_limits (limits_execRetry ..)
  | .reductionApply _ _ => .of_limits (limits_execReductionApply ..)
  | .holdEnd _ _ => .of_limits (limits_execHoldEnd ..)
  | .orderTimeout _ _ => .of_limits (limits_execOrderTimeout ..)
  | .writeBatchDrain _ _ => .of_limits (limits_execWriteBatchDrain ..)
  | .scrubRead _ _ _ => .of_limits (limits_execScrubRead ..)
  | .thrashWindow _ _ => .of_limits (limits_execThrashWindow ..)
  | .extentWalk stn ctx addr access agent index len => .of_limits (limits_execExtentWalk stn ctx addr access agent index len s)
  | .staleExtent _ _ _ => .of_limits (limits_execStaleExtent ..)
  | .allStalled _ => .of_limits (limits_execAllStalled ..)
  | .faultBatchDelivery _ => .of_limits (limits_execFaultBatchDelivery ..)
  | .bar4Read _ _ => .of_limits (limits_execBar4Read ..)
  | .bar4Write _ _ => .of_limits (limits_execBar4Write ..)
  | .hostWcWriteback _ _ => .of_limits (limits_execHostWcWriteback ..)
  | .rbxFlit _ _ => .of_limits (limits_execRbxFlit ..)
  | .rbxNak _ _ => .of_limits (limits_execRbxNak ..)
  | .idleTimeout _ => .of_limits (limits_execIdleTimeout ..)
  | .rbxLossOfLock port lane => .of_limits (limits_execRbxLossOfLock port lane s)
  | .rbxPortUp _ _ _ _ => .of_limits (limits_execRbxPortUp ..)
  | .rbxWrite _ => .of_limits (limits_execRbxWrite ..)
  | .rbxRead _ => .of_limits (limits_execRbxRead ..)
  | .rbxRed _ => .of_limits (limits_execRbxRed ..)
  | .rbxSemAdd _ => .of_limits (limits_execRbxSemAdd ..)
  | .rbxBarrier _ => .of_limits (limits_execRbxBarrier ..)
  | .rbxAck _ => .of_limits (limits_execRbxAck ..)
  | .rbxReadData _ => .of_limits (limits_execRbxReadData ..)
  | .requestExpiry _ => .of_limits (limits_execRequestExpiry ..)
  | .seamLaneLoss _ _ _ => .of_limits (limits_execSeamLaneLoss ..)
  | .loadWindow _ _ => .of_limits (limits_execLoadWindow ..)
  | .retrainingWindow _ _ => .of_limits (limits_execRetrainingWindow ..)
  | .dieClockLoss _ => .of_limits (limits_execDieClockLoss ..)
  | .partitionFenced _ => .of_limits (limits_execPartitionFenced ..)
  | .crustClockReturn _ => .of_limits (limits_execCrustClockReturn ..)
  | .partitionRestored _ => .of_limits (limits_execPartitionRestored ..)
  | .homeUnavailableResend _ => .of_limits (limits_execHomeUnavailableResend ..)
  | .wdRest _ => .of_limits (limits_execWdRest ..)
  | .wdCommand _ => .of_limits (limits_execWdCommand ..)
  | .wdHome _ _ => .of_limits (limits_execWdHome ..)
  | .controlComplexWatchdog _ => .of_limits (limits_execControlComplexWatchdog ..)
  | .powerSequencerWatchdog => .of_limits (limits_execPowerSequencerWatchdog ..)
  | .stationUe _ _ => .of_limits (limits_execStationUe ..)
  | .fatalError _ _ => .of_limits (limits_execFatalError ..)
  | .rung1 _ => .of_limits (limits_execRung1 ..)
  | .rung2 _ => .of_limits (limits_execRung2 ..)
  | .rung3 _ _ => .of_limits (limits_execRung3 ..)
  | .rung4 b => keeps_ifUp _ s (keeps_rung4S b)
  | .rung5 => .of_limits (limits_execRung5 ..)
  | .rungEscalated _ _ _ => .of_limits (limits_execRungEscalated ..)
  | .shaderUnlock _ _ => .of_limits (limits_execShaderUnlock ..)
  | .msixUnmask _ => .of_limits (limits_execMsixUnmask ..)
  | .bar4Resize log2 => keeps_ifUp _ s (keeps_bar4ResizeS log2)
  | .faultRingEnable _ => .next (keeps_barWrite _ _ _ s)
  | .seamRetry _ _ => .of_limits (limits_execSeamRetry ..)
  | .freedGranuleZeroed _ _ => .of_limits (limits_execFreedGranuleZeroed ..)

/-- The limits do not speak of the queue. -/
theorem inLimits_pending (s : State) (r : List Instr) (h : s.inLimits) : State.inLimits { s with pending := r } := h

/-- Settles O1: with a command at the front, a step is by definition that command's meaning on the queue's rest. -/
theorem stepRunsTheFrontCommand : Obligations.StepRunsTheFrontCommand := by
  intro s c r h
  unfold step
  rw [h]

/-- Settles O2: an idle step ticks, which leaves every limited value; any other is a command, which keeps them. -/
theorem everyStepKeepsTheLimits : Obligations.EveryStepKeepsTheLimits := by
  intro s hs
  cases hp : s.pending with
  | nil =>
    have hk : Keeps s (refTick s) := .of_eq (limits_refTick s)
    exact ⟨refTick s, by unfold step; rw [hp], hk.2 hs, hk.1.trans hp⟩
  | cons c r =>
    obtain ⟨t, ht, hk⟩ := exec_goesKeeping c { s with pending := r }
    exact ⟨t, (stepRunsTheFrontCommand s c r hp).trans ht, hk.2 (inLimits_pending s r hs), hk.1⟩

/-- Settles O3, from what the laws say of reset's registers and of its memories. -/
theorem resetIsInLimits : Obligations.ResetIsInLimits :=
  ⟨reset_inLimits, reset_memory_wf⟩

end Sys2Proof.Machine
end

section
/-! PROOF. The shader instructions that write a register or a predicate in each acting lane (R201, R202, R204): each is a step
of its group by the value it writes. -/

namespace Sys2Proof.Machine

/-- An instruction in order that steps its group, and raises flags, does so. -/
theorem shOut_stepGrp {s : State} {u : Grp} {cls op : Nat} {w : ShIns} {x : Stn} {y : GroupSt} (h : AtIns s u cls op w x y)
    {form ok : Bool} {regs : List Nat} (hf : form = true) (ho : ok = true) (hr : ∀ r ∈ regs, r < nregOf x)
    (hk : cls < 16 ∧ op < 64 ∧ op < nth 0 classOps cls) (g : State → Stn → GroupSt → GroupSt → GroupSt) (fl : State → Stn → GroupSt → Nat) :
    shOut cls op form ok regs u w (fun x y s => stepGrp u (g s x y) (addFlags u.stn (fl s x y) s)) s =
      .next (putGrp u (nextPc (g s x y y)) (addFlags u.stn (fl s x y) s)) := by
  have hx : stnOf s u.stn = some x := liveOf_stnOf s u.stn x h.2.2.1
  have hy : tget? x.groups u.g = some y := h.2.2.2.1
  rw [shOut_at h hf ho hr _ hk, stepGrp_flags u _ _ s x y hx hy]

/-- What an instruction of a class completes with, from what it does to its group. -/
theorem completes_of_step {cls op : Nat} {i : Grp → ShIns → Instr} {forms : List (BitVec 2)} {regs : ShIns → List Nat}
    {fl : Bool → ShIns → GroupSt → Nat} {Eff : Bool → Grp → ShIns → GroupSt → GroupSt → Prop} (form : ShIns → Bool)
    (g : Bool → Grp → ShIns → GroupSt → GroupSt)
    (hi : ∀ u w s, exec (i u w) s = shOut cls op (form w) true (regs w) u w (fun x y s =>
      stepGrp u (g (stnFlush s x) u w) (addFlags u.stn (fl (stnFlush s x) w y) s)) s)
    (hform : ∀ w : ShIns, w.form ∈ forms → form w = true)
    (hE : ∀ b u w y, w.form ∈ forms → Eff b u w y (nextPc (g b u w y)))
    (hk : cls < 16 ∧ op < 64 ∧ op < nth 0 classOps cls := by decide) : Completes cls op i forms regs fl Eff := by
  intro s u w x y h hw hr
  refine ⟨nextPc (g (stnFlush s x) u w y), ?_, hE _ u w y hw⟩
  rw [hi]
  exact shOut_stepGrp h (hform w hw) rfl hr hk (fun s x _ => g (stnFlush s x) u w) (fun s x y => fl (stnFlush s x) w y)

theorem form01_of_mem (w : ShIns) (h : w.form ∈ ([0, 1] : List (BitVec 2))) : form01 w = true := by
  simpa [form01, form0, form1] using h

theorem form0_of_mem (w : ShIns) (h : w.form ∈ ([0] : List (BitVec 2))) : form0 w = true := by
  simpa [form0] using h

theorem form_eq_zero (w : ShIns) (h : w.form ∈ ([0] : List (BitVec 2))) : w.form = 0 := by
  simpa using h

theorem form01_of_mem0 (w : ShIns) (h : w.form ∈ ([0] : List (BitVec 2))) : form01 w = true := by
  simp [form01, form0_of_mem w h]

/-- An instruction of two forms that writes a value in register DST of each acting lane. -/
theorem completes_laneWrite {cls op : Nat} {i : Grp → ShIns → Instr} {regs : ShIns → List Nat}
    {fl : Bool → ShIns → GroupSt → Nat} {P : Bool → Grp → ShIns → GroupSt → Nat → Word → Prop}
    (v : Bool → Grp → ShIns → GroupSt → Nat → Word)
    (hi : ∀ u w s, exec (i u w) s = shOut cls op (form01 w) true (regs w) u w (fun x y s =>
      stepGrp u (laneWrite w (v (stnFlush s x) u w)) (addFlags u.stn (fl (stnFlush s x) w y) s)) s)
    (hP : ∀ b u w y t, P b u w y t (v b u w y t)) (hk : cls < 16 ∧ op < 64 ∧ op < nth 0 classOps cls := by decide) :
    Completes cls op i [0, 1] regs fl (fun b u w y z => LaneEff w y z (P b u w y)) :=
  completes_of_step form01 (fun b u w => laneWrite w (v b u w)) hi form01_of_mem
    (fun b u w y _ => laneWrite_eff w (v b u w) y (P b u w y) (fun t _ => hP b u w y t)) hk

/-- The same for an instruction of FORM 0 alone. -/
theorem completes_laneWrite0 {cls op : Nat} {i : Grp → ShIns → Instr} {regs : ShIns → List Nat}
    {fl : Bool → ShIns → GroupSt → Nat} {P : Bool → Grp → ShIns → GroupSt → Nat → Word → Prop}
    (v : Bool → Grp → ShIns → GroupSt → Nat → Word)
    (hi : ∀ u w s, exec (i u w) s = shOut cls op (form0 w) true (regs w) u w (fun x y s =>
      stepGrp u (laneWrite w (v (stnFlush s x) u w)) (addFlags u.stn (fl (stnFlush s x) w y) s)) s)
    (hP : ∀ b u w y t, P b u w y t (v b u w y t)) (hk : cls < 16 ∧ op < 64 ∧ op < nth 0 classOps cls := by decide) :
    Completes cls op i [0] regs fl (fun b u w y z => LaneEff w y z (P b u w y)) :=
  completes_of_step form0 (fun b u w => laneWrite w (v b u w)) hi form0_of_mem
    (fun b u w y _ => laneWrite_eff w (v b u w) y (P b u w y) (fun t _ => hP b u w y t)) hk

/-! ### INT (R202) -/

/-- An integer operation in two forms. -/
theorem completes_intOut {op : Nat} {i : Grp → ShIns → Instr} {regs : ShIns → List Nat}
    (f : ShIns → GroupSt → Nat → Word → Word → Word) {P : ShIns → GroupSt → Nat → Word → Prop}
    (hi : ∀ u w s, exec (i u w) s = intOut op u w (regs w) (f w) s)
    (hP : ∀ w y t, P w y t (f w y t (greg y (insSa w) t) (opB w y t)))
    (hk : 0 < 16 ∧ op < 64 ∧ op < nth 0 classOps 0 := by decide) :
    Completes 0 op i [0, 1] (fun w => insDst w :: insSa w :: regs w) noFlags (fun _ _ w y z => LaneEff w y z (P w y)) :=
  completes_laneWrite (fun _ _ w y t => f w y t (greg y (insSa w) t) (opB w y t)) hi (fun _ _ w y t => hP w y t) hk

/-- Settles O6: each instruction writes its own value, by what `intOut` does. -/
theorem integerArithmeticLanes : Obligations.IntegerArithmeticLanes := by
  refine ⟨completes_intOut (fun _ _ _ a b => a + b) (fun _ _ _ => rfl) (fun _ _ _ => rfl),
    completes_intOut (fun _ _ _ a b => a - b) (fun _ _ _ => rfl) (fun _ _ _ => rfl),
    completes_intOut (fun _ _ _ a b => a * b) (fun _ _ _ => rfl) (fun _ _ _ => rfl),
    completes_intOut (fun w y t a b => a * b + opC w y t) (fun _ _ _ => rfl) ?_,
    completes_intOut (fun _ _ _ a b => if a.toInt ≤ b.toInt then a else b) (fun _ _ _ => rfl) (fun _ _ _ => rfl),
    completes_intOut (fun _ _ _ a b => if b.toInt ≤ a.toInt then a else b) (fun _ _ _ => rfl) (fun _ _ _ => rfl)⟩
  intro w y t hw
  rw [opC, if_pos hw]

/-! ### Bit counts (R202) -/

/-- The positions of a word's ones are those that BITCNT counts. -/
theorem popCount_word (a : Word) :
    (BitVec.ofNat 32 (popCount 32 a.toNat)).toNat = ((List.range 32).filter (fun i => a.getLsbD i)).length := by
  have hle : popCount 32 a.toNat ≤ 32 := by
    simpa [popCount, bitsSet] using List.length_filter_le (fun i => a.toNat.testBit i) (List.range 32)
  rw [BitVec.toNat_ofNat, Nat.mod_eq_of_lt (by omega)]
  rfl

theorem leadZeros_le (a : Word) : leadZeros a ≤ 32 := by
  unfold leadZeros
  split <;> omega

/-- A position lies above a word's highest one exactly when the word is zero from there upwards. -/
theorem lt_leadZeros_iff (a : Word) (n : Nat) (hn : n < 32) :
    n < leadZeros a ↔ ∀ i, i ≤ n → a.getLsbD (31 - i) = false := by
  by_cases ha : a = 0
  · subst ha
    simp [leadZeros, hn]
  · have hpos : a.toNat ≠ 0 := fun h => ha (BitVec.eq_of_toNat_eq (by simpa using h))
    have htop : a.toNat.log2 ≤ 31 := by
      have := (Nat.log2_lt hpos (k := 32)).mpr a.isLt
      omega
    rw [leadZeros, if_neg ha, ilog2]
    constructor
    · intro hlt i hi
      have hlog : a.toNat < 2 ^ (31 - i) := (Nat.log2_lt hpos).mp (by omega)
      exact Nat.testBit_lt_two_pow hlog
    · intro hz
      by_contra hge
      have hone : a.toNat.testBit a.toNat.log2 = true := Nat.testBit_log2 hpos
      have hzero := hz (31 - a.toNat.log2) (by omega)
      rw [show 31 - (31 - a.toNat.log2) = a.toNat.log2 by omega] at hzero
      exact absurd (hone.symm.trans hzero) (by decide)

/-- Settles O7: as the integer arithmetic; a shift below 32 is the shift, and BITCNT and LEADZ count. -/
theorem logicAndShiftLanes : Obligations.LogicAndShiftLanes := by
  refine ⟨completes_intOut (fun _ _ _ a b => a &&& b) (fun _ _ _ => rfl) (fun _ _ _ => rfl),
    completes_intOut (fun _ _ _ a b => a ||| b) (fun _ _ _ => rfl) (fun _ _ _ => rfl),
    completes_intOut (fun _ _ _ a b => a ^^^ b) (fun _ _ _ => rfl) (fun _ _ _ => rfl),
    completes_intOut (fun _ _ _ a _ => ~~~ a) (fun _ _ _ => rfl) (fun _ _ _ => rfl),
    completes_intOut (fun _ _ _ a b => if b.toNat < 32 then a <<< b.toNat else Config.unstated 12 [a, b]) (fun _ _ _ => rfl)
      (fun _ _ _ hb => if_pos hb),
    completes_intOut (fun _ _ _ a b => if b.toNat < 32 then a >>> b.toNat else Config.unstated 13 [a, b]) (fun _ _ _ => rfl)
      (fun _ _ _ hb => if_pos hb),
    completes_intOut (fun _ _ _ a b => if b.toNat < 32 then a.sshiftRight b.toNat else Config.unstated 14 [a, b])
      (fun _ _ _ => rfl) (fun _ _ _ hb => if_pos hb),
    completes_intOut (fun _ _ _ a _ => BitVec.ofNat 32 (popCount 32 a.toNat)) (fun _ _ _ => rfl) (fun _ _ _ => popCount_word _),
    completes_intOut (fun _ _ _ a _ => BitVec.ofNat 32 (leadZeros a)) (fun _ _ _ => rfl) (fun w y t => ?_)⟩
  have hle := leadZeros_le (greg y (insSa w) t)
  rw [BitVec.toNat_ofNat, Nat.mod_eq_of_lt (by omega)]
  exact ⟨hle, fun n hn => lt_leadZeros_iff _ n hn⟩

/-! ### FP and SFU (R202, R204) -/

/-- An operation in two forms that raises flags. -/
theorem completes_flagOut {cls op : Nat} {i : Grp → ShIns → Instr} {regs : ShIns → List Nat}
    (f : ShIns → Bool → GroupSt → Nat → Word × Nat)
    (hi : ∀ u w s, exec (i u w) s = flagOut cls op (form01 w) true (regs w) u w (f w) s)
    (hk : cls < 16 ∧ op < 64 ∧ op < nth 0 classOps cls := by decide) :
    Completes cls op i [0, 1] (fun w => insDst w :: regs w) (fun fl w y => laneFlags w y (fun t => (f w fl y t).2))
      (fun fl _ w y z => LaneEff w y z (fun t v => v = (f w fl y t).1)) :=
  completes_laneWrite (fun b _ w y t => (f w b y t).1) hi (fun _ _ _ _ _ => rfl) hk

/-- An operation of FORM 0 alone that raises flags. -/
theorem completes_flagOut0 {cls op : Nat} {i : Grp → ShIns → Instr} {regs : ShIns → List Nat}
    (f : ShIns → Bool → GroupSt → Nat → Word × Nat)
    (hi : ∀ u w s, exec (i u w) s = flagOut cls op (form0 w) true (regs w) u w (f w) s)
    (hk : cls < 16 ∧ op < 64 ∧ op < nth 0 classOps cls := by decide) :
    Completes cls op i [0] (fun w => insDst w :: regs w) (fun fl w y => laneFlags w y (fun t => (f w fl y t).2))
      (fun fl _ w y z => LaneEff w y z (fun t v => v = (f w fl y t).1)) :=
  completes_laneWrite0 (fun b _ w y t => (f w b y t).1) hi (fun _ _ _ _ _ => rfl) hk

/-- Settles O8: each instruction is a `flagOut` of its binary32 operation. -/
theorem floatLanes : Obligations.FloatLanes :=
  ⟨completes_flagOut (fun w fl y t => add32 fl (fpA w y t) (fpB w y t)) (fun _ _ _ => rfl),
    completes_flagOut (fun w fl y t => mul32 fl (fpA w y t) (fpB w y t)) (fun _ _ _ => rfl),
    completes_flagOut (fun w fl y t => fma32 fl (fpA w y t) (fpB w y t) (opC w y t)) (fun _ _ _ => rfl),
    completes_flagOut (fun w fl y t => ext32 fl false (fpA w y t) (fpB w y t)) (fun _ _ _ => rfl),
    completes_flagOut (fun w fl y t => ext32 fl true (fpA w y t) (fpB w y t)) (fun _ _ _ => rfl)⟩

/-- A special function of FORM 0. -/
theorem completes_sfuOut {code : Nat} {i : Grp → ShIns → Instr} (hi : ∀ u w s, exec (i u w) s = sfuOut code u w s)
    (hk : 2 < 16 ∧ code < 64 ∧ code < nth 0 classOps 2 := by decide) :
    Completes 2 code i [0] (fun w => [insDst w, insSa w])
      (fun fl w y => laneFlags w y (fun t => (sfuVal fl code (greg y (insSa w) t)).2))
      (fun fl _ w y z => LaneEff w y z (fun t v => v = (sfuVal fl code (greg y (insSa w) t)).1)) :=
  completes_flagOut0 (fun w fl y t => sfuVal fl code (greg y (insSa w) t)) hi hk

/-- Reading a binary32 NaN keeps it a NaN: flushing touches subnormals alone. -/
theorem readF_nan (flush : Bool) (v : Nat) (h : isNanV (decF fF32 v) = true) : ∃ g, (readF flush fF32 v).1 = .nan g := by
  have hsub : isSub fF32 v = false := by
    by_contra hs
    have h0 : bits v 30 23 = 0 := (of_decide_eq_true (eq_true_of_ne_false hs)).1
    simp [decF, fF32, h0, isNanV] at h
  rw [readF, if_neg (by simp [hsub])]
  cases hd : decF fF32 v with
  | nan g => exact ⟨g, rfl⟩
  | inf _ => simp [hd, isNanV] at h
  | fin _ _ _ => simp [hd, isNanV] at h

/-- R204: every special function of a NaN is the canonical NaN of binary32. -/
theorem sfuVal_nan (flush : Bool) (code : Nat) (a : Word) (h : isNanV (decF fF32 a.toNat) = true) :
    (sfuVal flush code a).1 = 0x7FC00000 := by
  obtain ⟨g, hg⟩ := readF_nan flush a.toNat h
  unfold sfuVal
  simp only [hg]
  rfl

/-- Settles O9: the eight functions are one `sfuOut` each. -/
theorem specialFunctionLanes : Obligations.SpecialFunctionLanes :=
  ⟨completes_sfuOut (fun _ _ _ => rfl), completes_sfuOut (fun _ _ _ => rfl), completes_sfuOut (fun _ _ _ => rfl),
    completes_sfuOut (fun _ _ _ => rfl), completes_sfuOut (fun _ _ _ => rfl), completes_sfuOut (fun _ _ _ => rfl),
    completes_sfuOut (fun _ _ _ => rfl), completes_sfuOut (fun _ _ _ => rfl), fun flush code a _ h => sfuVal_nan flush code a h⟩

/-! ### CONV (R202, R131) -/

theorem openHigh_low (tag n v : Nat) (ops : List Word) (hn : n ≤ 32) : (openHigh tag n v ops).toNat % 2 ^ n = v % 2 ^ n := by
  unfold openHigh
  rw [BitVec.toNat_ofNat, Nat.mod_mod_of_dvd _ (pow_dvd_pow 2 hn), Nat.add_mul_mod_self_right, Nat.mod_mod]

theorem fmtOf_width_le (c : Nat) : (fmtOf c).width ≤ 32 := by
  unfold fmtOf
  (repeat' split) <;> decide

theorem fmtBits_le (c : Nat) : fmtBits c ≤ 32 := by
  have := fmtOf_width_le c
  unfold fmtBits
  (repeat' split) <;> omega

theorem laneFlags_zero (w : ShIns) (y : GroupSt) : laneFlags w y (fun _ => 0) = 0 := by
  unfold laneFlags
  induction actLanes y w with
  | nil => rfl
  | cons a l ih => simp

/-- PACK2 raises no flag. -/
theorem execPack2_noFlags (u : Grp) (w : ShIns) (s : State) : exec (.pack2 u w) s =
    shOut 3 3 (form0 w) true [insDst w, insSa w, insSb w] u w (fun x y s =>
      stepGrp u (laneWrite w (fun y t => Config.unstated 19 [greg y (insSa w) t, greg y (insSb w) t, BitVec.ofNat 32 (insMod w)]))
        (addFlags u.stn (noFlags (stnFlush s x) w y) s)) s := by
  show execPack2 u w s = _
  simp only [execPack2, flagOut, laneFlags_zero]
  rfl

/-- The `k`-th word that UNPACK2 finds in a lane. -/
def unpackWord (w : ShIns) (y : GroupSt) (t k : Nat) : Word :=
  Config.unstated 20 [greg y (insSa w) t, BitVec.ofNat 32 (insMod w), BitVec.ofNat 32 k]

/-- What UNPACK2 writes in one lane. -/
def unpackLane (w : ShIns) (y : GroupSt) (t : Nat) (z : GroupSt) : GroupSt :=
  setReg (insDst w + 1) t (unpackWord w y t 1) (setReg (insDst w) t (unpackWord w y t 0) z)

theorem greg_unpackLane (w : ShIns) (y : GroupSt) (t : Nat) (z : GroupSt) (q k : Nat) (ht : t < 32) (hk : k < 32) :
    greg (unpackLane w y t z) q k =
      if k = t ∧ insDst w ≤ q ∧ q < insDst w + 2 then unpackWord w y t (q - insDst w) else greg z q k := by
  rw [unpackLane, greg_setReg, greg_setReg]
  by_cases h1 : 32 * (insDst w + 1) + t = 32 * q + k
  · have : q = insDst w + 1 ∧ k = t := by omega
    obtain ⟨rfl, rfl⟩ := this
    simp
  · by_cases h0 : 32 * insDst w + t = 32 * q + k
    · have : q = insDst w ∧ k = t := by omega
      obtain ⟨rfl, rfl⟩ := this
      simp
    · rw [if_neg h1, if_neg h0, if_neg (by omega)]

/-- What FCVT gives a lane. -/
def fcvtLane (w : ShIns) (fl : Bool) (y : GroupSt) (t : Nat) : Word × Nat :=
  fcvtVal fl (insMod w % 256) (insMod w / 256) (greg y (insSa w) t)

/-- Settles O10: FCVT's modifier has to name two formats; UNPACK2 writes two registers. -/
theorem conversionLanes : Obligations.ConversionLanes := by
  refine ⟨completes_flagOut0 (fun w fl y t => ftoiVal fl (greg y (insSa w) t)) (fun _ _ _ => rfl),
    completes_flagOut0 (fun w fl y t => op32 fl (intV (greg y (insSa w) t).toInt, 0) 0) (fun _ _ _ => rfl), ?_,
    completes_laneWrite0 (P := fun _ _ _ _ _ _ => True) (fun _ _ w y t => Config.unstated 19 [greg y (insSa w) t, greg y (insSb w) t, BitVec.ofNat 32 (insMod w)])
      execPack2_noFlags (fun _ _ _ _ _ => trivial), ?_⟩
  · intro s u w x y h hw hd ha hm
    have hok : decide (6 ≤ insMod w % 256 ∧ insMod w % 256 ≤ 0x0A ∧ 6 ≤ insMod w / 256 ∧ insMod w / 256 ≤ 0x0A) = true := by
      simpa using hm
    have hrun := shOut_stepGrp (regs := [insDst w, insSa w]) h (form0_of_mem w (by simp [hw])) hok (by simpa using ⟨hd, ha⟩)
      (by decide) (fun s x _ => laneWrite w (fun y t => (fcvtLane w (stnFlush s x) y t).1))
      (fun s x y => laneFlags w y (fun t => (fcvtLane w (stnFlush s x) y t).2))
    exact ⟨_, hrun, laneWrite_eff w _ y _ (fun t _ => openHigh_low _ _ _ _ (fmtBits_le _))⟩
  · refine completes_of_step form0 (fun _ _ w y => (actLanes y w).foldl (fun z t => unpackLane w y t z) y) (fun _ _ _ => rfl)
      form0_of_mem (fun _ _ w y _ => ?_)
    exact lanes_eff w 2 (unpackLane w y) (fun k t => unpackWord w y t k) (fun t z => rfl) (greg_unpackLane w y) y _ (fun _ _ _ _ => trivial)

/-! ### MOVE (R202) -/

/-- A move in two forms. -/
theorem completes_moveOut {op : Nat} {i : Grp → ShIns → Instr} {regs : ShIns → List Nat}
    (f : Grp → ShIns → GroupSt → Nat → Word) {P : Grp → ShIns → GroupSt → Nat → Word → Prop}
    (hi : ∀ u w s, exec (i u w) s = moveOut op (regs w) u w (f u w) s)
    (hP : ∀ u w y t, P u w y t (f u w y t)) (hk : 4 < 16 ∧ op < 64 ∧ op < nth 0 classOps 4 := by decide) :
    Completes 4 op i [0, 1] (fun w => insDst w :: regs w) noFlags (fun _ u w y z => LaneEff w y z (P u w y)) :=
  completes_laneWrite (fun _ u w y t => f u w y t) hi (fun _ u w y t => hP u w y t) hk

/-- In FORM 0 a modifier is the instruction's own. -/
theorem modSel_form0 (w : ShIns) (h : w.form = 0) (hi lo : Nat) : modSel w hi lo = bits (insMod w) hi lo := if_pos h

/-- Settles O11: each instruction is one `moveOut`. -/
theorem moveLanes : Obligations.MoveLanes := by
  refine ⟨completes_moveOut (fun _ w y t => greg y (insSa w) t) (fun _ _ _ => rfl) (fun _ _ _ _ => rfl),
    completes_moveOut (fun _ w y t => opB w y t) (fun _ _ _ => rfl) (fun _ _ _ _ => rfl),
    completes_moveOut (fun _ w y t => if bitOf (predMask y (modSel w 2 0)) t then greg y (insSa w) t else opB w y t)
      (fun _ _ _ => rfl) (fun _ w y t hw => ?_),
    completes_moveOut (fun _ _ _ t => BitVec.ofNat 32 t) (fun _ _ _ => rfl) (fun _ _ _ _ => rfl),
    completes_moveOut (fun u _ _ _ => BitVec.ofNat 32 u.g) (fun _ _ _ => rfl) (fun _ _ _ _ => rfl),
    completes_moveOut (fun u _ _ _ => BitVec.ofNat 32 (stnId u.stn)) (fun _ _ _ => rfl) (fun _ _ _ _ => rfl),
    completes_moveOut (fun _ w y t => if (opB w y t).toNat < 32 then greg y (insSa w) (opB w y t).toNat
      else Config.unstated 21 [greg y (insSa w) t, opB w y t]) (fun _ _ _ => rfl) (fun _ _ _ _ hl => if_pos hl)⟩
  rw [modSel_form0 w hw, bits, Nat.pow_zero, Nat.div_one]
  rfl

end Sys2Proof.Machine
end

section
/-! PROOF. The shader instructions on the local store and on group matrices (R194, R205, R213-R216). -/

namespace Sys2Proof.Machine

theorem form1_of_eq {w : ShIns} (h : w.form = 1) : form1 w = true := decide_eq_true h

theorem form0_of_eq {w : ShIns} (h : w.form = 0) : form0 w = true := decide_eq_true h

/-! ### What an instruction finds -/

/-- The record of the station of an instruction's group. -/
theorem AtIns.stn {s : State} {u : Grp} {cls op : Nat} {w : ShIns} {x : Stn} {y : GroupSt} (h : AtIns s u cls op w x y) :
    stnOf s u.stn = some x := liveOf_stnOf s u.stn x h.2.2.1

theorem AtIns.grp {s : State} {u : Grp} {cls op : Nat} {w : ShIns} {x : Stn} {y : GroupSt} (h : AtIns s u cls op w x y) :
    tget? x.groups u.g = some y := h.2.2.2.1

/-- The group goes on by what `f` makes of it. -/
theorem AtIns.stepGrp {s : State} {u : Grp} {cls op : Nat} {w : ShIns} {x : Stn} {y : GroupSt} (h : AtIns s u cls op w x y)
    (f : GroupSt → GroupSt) : stepGrp u f s = putGrp u (nextPc (f y)) s := stepGrp_eq u f s x y h.stn h.grp

/-- A change of the station's record that keeps its groups is no hindrance. -/
theorem stepGrp_setStn {s : State} {u : Grp} {cls op : Nat} {w : ShIns} {x : Stn} {y : GroupSt} (h : AtIns s u cls op w x y)
    {t : State} (ht : stnOf t u.stn = some x) (g : Stn → Stn) (hg : (g x).groups = x.groups) (f : GroupSt → GroupSt) :
    stepGrp u f (setStn u.stn g t) = putGrp u (nextPc (f y)) (setStn u.stn g t) :=
  stepGrp_eq u f _ (g x) y (by rw [stnOf_setStn, if_pos rfl, ht]; rfl) (by rw [hg]; exact h.grp)

/-! ### Registers of one lane -/

/-- Consecutive registers of one lane, written one after the other. -/
theorem foldl_range_setReg (d t n : Nat) (f : Nat → Word) (z : GroupSt) (ht : t < 32) (q k : Nat) (hk : k < 32) :
    greg ((List.range n).foldl (fun z j => setReg (d + j) t (f j) z) z) q k =
      if k = t ∧ d ≤ q ∧ q < d + n then f (q - d) else greg z q k := by
  induction n with
  | zero => rw [if_neg (by omega)]; rfl
  | succ n ih =>
    rw [List.range_succ, List.foldl_append, List.foldl_cons, List.foldl_nil, greg_setReg, ih]
    by_cases hq : 32 * (d + n) + t = 32 * q + k
    · have hlane : q = d + n ∧ k = t := by omega
      obtain ⟨rfl, rfl⟩ := hlane
      simp
    · rw [if_neg hq]
      congr 1
      simp only [eq_iff_iff]
      omega

theorem foldl_range_setReg_frame (d t n : Nat) (f : Nat → Word) (z : GroupSt) :
    (List.range n).foldl (fun z j => setReg (d + j) t (f j) z) z =
      { z with regs := ((List.range n).foldl (fun z j => setReg (d + j) t (f j) z) z).regs } := by
  induction n with
  | zero => rfl
  | succ n ih =>
    rw [List.range_succ, List.foldl_append, List.foldl_cons, List.foldl_nil, ih]
    rfl

/-! ### Bytes -/

theorem leNat_lt (bs : List Byte) : leNat bs < 2 ^ (8 * bs.length) := by
  induction bs with
  | nil => simp [leNat]
  | cons b r ih =>
    have hb : b.toNat < 256 := b.isLt
    have hp : 2 ^ (8 * (b :: r).length) = 256 * 2 ^ (8 * r.length) := by
      rw [List.length_cons, Nat.mul_succ, Nat.pow_add]
      omega
    rw [hp, leNat]
    omega

theorem lsRead_length (x : Stn) (o n : Nat) : (lsRead x o n).length = n := by simp [lsRead]

/-! ### LD (R205) -/

theorem loadWords_length (w : ShIns) (bs : List Byte) : (loadWords w bs).length = ldRegs w := by
  unfold loadWords
  split
  · rename_i h
    simp [ldRegs, show ldSize w ≤ 4 by omega]
  · simp

/-- The `k`-th register that a load fills from a lane's bytes. -/
theorem loadWords_getD (w : ShIns) (x : Stn) (o k : Nat) (hk : k < ldRegs w) :
    let bs := lsRead x o (ldSize w)
    let v := (loadWords w bs).getD k 0
    if ldSize w < 4 then v.toNat % 2 ^ (8 * ldSize w) = leNat bs else v = BitVec.ofNat 32 (field bs (4 * k) 4) := by
  intro bs v
  by_cases h : ldSize w < 4
  · have hk0 : k = 0 := by
      rw [ldRegs, if_pos (by omega)] at hk
      omega
    have hlt : leNat bs < 2 ^ (8 * ldSize w) := by
      have := leNat_lt bs
      rwa [lsRead_length] at this
    have hv : v = openHigh 31 (8 * ldSize w) (leNat bs) [BitVec.ofNat 32 (leNat bs), w.low] := by
      show (loadWords w bs).getD k 0 = _
      rw [hk0, loadWords, if_pos h]
      rfl
    rw [if_pos h, hv, openHigh_low _ _ _ _ (by omega), Nat.mod_eq_of_lt hlt]
  · rw [if_neg h]
    show (loadWords w bs).getD k 0 = _
    rw [loadWords, if_neg h]
    simp [List.getD_eq_getElem?_getD, hk]

/-- What LD writes in one lane. -/
def loadLane (w : ShIns) (x : Stn) (g : Nat) (y : GroupSt) (t : Nat) (z : GroupSt) : GroupSt :=
  ((loadWords w (lsRead x ((ldAddr x g w y t).getD 0) (ldSize w))).zipIdx).foldl (fun z e => setReg (insDst w + e.2) t e.1 z) z

theorem greg_loadLane (w : ShIns) (x : Stn) (g : Nat) (y : GroupSt) (t : Nat) (z : GroupSt) (q k : Nat) (ht : t < 32) (hk : k < 32) :
    greg (loadLane w x g y t z) q k = if k = t ∧ insDst w ≤ q ∧ q < insDst w + ldRegs w then
      (loadWords w (lsRead x ((ldAddr x g w y t).getD 0) (ldSize w))).getD (q - insDst w) 0 else greg z q k := by
  rw [loadLane, foldl_words _ _ _ _ _ ht _ _ hk, loadWords_length]
  rfl

theorem badLane_none {x : Stn} {g : Nat} {w : ShIns} {y : GroupSt} (h : ∀ t ∈ actLanes y w, (ldAddr x g w y t).isSome) :
    badLane x g w y = none := by
  rw [badLane, List.find?_eq_none.mpr]
  · rfl
  · intro t ht
    have := h t ht
    cases e : ldAddr x g w y t <;> simp_all

theorem ldFields_ok {w : ShIns} (h : bits (insImm w) 2 0 ≤ 4) : decide (bits (insImm w) 2 0 ≤ 4) = true := decide_eq_true h

theorem ldRegs_below {w : ShIns} {x : Stn} (ha : insSa w < nregOf x) (hd : ∀ k < ldRegs w, insDst w + k < nregOf x) :
    ∀ r ∈ insSa w :: (List.range (ldRegs w)).map (insDst w + ·), r < nregOf x := by
  intro r hr
  rcases List.mem_cons.mp hr with rfl | hr
  · exact ha
  · obtain ⟨k, hk, rfl⟩ := List.mem_map.mp hr
    exact hd k (List.mem_range.mp hk)

/-! ### ST (R205) -/

/-- Bytes that lanes store, and the group goes on. -/
theorem localStored_storeLanes {s : State} {u : Grp} {cls op : Nat} {w : ShIns} {x : Stn} {y : GroupSt} (h : AtIns s u cls op w x y)
    (l : List (Nat × List Byte)) :
    LocalStored s u x y (l.flatMap (fun e => e.2.zipIdx.map (fun b => (e.1 + b.2, b.1)))) (stepGrp u id (storeLanes u.stn l s)) := by
  generalize hm : l.flatMap (fun e => e.2.zipIdx.map (fun b => (e.1 + b.2, b.1))) = m
  obtain ⟨hrec, hother, hheld⟩ := putAll_spec s.clk.free m x
  have hx : stnOf { s with clk := { s.clk with free := s.clk.free + 1 } } u.stn = some x := h.stn
  refine ⟨(putAll s.clk.free m x).ls, ?_, hother, hheld⟩
  unfold storeLanes
  rw [hm, stepGrp_setStn h hx _ (by rw [hrec]), setStn_congr u.stn _ (fun x' => { x' with ls := (putAll s.clk.free m x).ls }) _ x hx hrec]
  rfl

theorem lanes_flatMap_bytes {α : Type} (l : List α) (a : α → Nat) (b : α → List Byte) :
    (l.map (fun t => (a t, b t))).flatMap (fun e => e.2.zipIdx.map (fun b => (e.1 + b.2, b.1))) =
      l.flatMap (fun t => (b t).zipIdx.map (fun b => (a t + b.2, b.1))) := by
  rw [List.flatMap_map]

/-- Settles O13: an access in order loads or stores lane by lane, one that is not is the fault of its lowest lane. -/
theorem localStoreAccess : Obligations.LocalStoreAccess := by
  refine ⟨?_, ?_, ?_, ?_⟩
  · intro s u w x y h hf hsz ha hd hok
    refine ⟨nextPc ((actLanes y w).foldl (fun z t => loadLane w x u.g y t z) y), ?_, ?_⟩
    · show execLd u w s = _
      rw [execLd, shOut_at h (form1_of_eq hf) (ldFields_ok hsz) (ldRegs_below ha hd)]
      simp only [badLane_none hok]
      rw [h.stepGrp]
      rfl
    · exact lanes_eff w (ldRegs w) (loadLane w x u.g y) _ (fun t z => foldl_words_frame _ _ _ _ _) (greg_loadLane w x u.g y) y _
        (fun t _ k hk => loadWords_getD w x _ k hk)
  · intro s u w x y h hf hsz ha hd hok
    refine ⟨_, ?_, by rw [← lanes_flatMap_bytes]; exact localStored_storeLanes h _⟩
    show execSt u w s = _
    rw [execSt, shOut_at h (form1_of_eq hf) (ldFields_ok hsz) (ldRegs_below ha hd)]
    simp only [badLane_none hok]
  · intro s u w x y h hf hsz ha hd o ho
    show execLd u w s = _
    rw [execLd, shOut_at h (form1_of_eq hf) (ldFields_ok hsz) (ldRegs_below ha hd)]
    simp only [ho]
    rfl
  · intro s u w x y h hf hsz ha hd o ho
    show execSt u w s = _
    rw [execSt, shOut_at h (form1_of_eq hf) (ldFields_ok hsz) (ldRegs_below ha hd)]
    simp only [ho]
    rfl

/-! ### Group matrices (R213-R216) -/

/-- The element of D that GMAC gives register `j` of lane `t`, and its flags. -/
def gmacElem (fl : Bool) (w : ShIns) (y : GroupSt) (t j : Nat) : Word × Nat :=
  gmDot fl (if bitOf (insMod w) 0 then fF16 else fBf16) y (actLanes y w) (insSa w) (insSb w) (insSc w) (t % 16) (8 * (t / 16) + j)

/-- What GMAC writes in one lane. -/
def gmacLane (fl : Bool) (w : ShIns) (y : GroupSt) (t : Nat) (z : GroupSt) : GroupSt :=
  (List.range 8).foldl (fun z j => setReg (insDst w + j) t (gmacElem fl w y t j).1 z) z

theorem gmac_fold (fl : Bool) (w : ShIns) (y z : GroupSt) (l : List Nat) :
    (l.flatMap (fun t => (List.range 8).map (fun j => (t, j, gmacElem fl w y t j)))).foldl
      (fun z e => setReg (insDst w + e.2.1) e.1 e.2.2.1 z) z = l.foldl (fun z t => gmacLane fl w y t z) z := by
  rw [List.foldl_flatMap]
  simp only [List.foldl_map]
  rfl

theorem gmac_flags (fl : Bool) (w : ShIns) (y : GroupSt) (l : List Nat) :
    (l.flatMap (fun t => (List.range 8).map (fun j => (t, j, gmacElem fl w y t j)))).foldl (fun a e => a ||| e.2.2.2) 0 =
      (l.flatMap (fun t => (List.range 8).map (fun j => (gmacElem fl w y t j).2))).foldl (fun a b => a ||| b) 0 := by
  simp only [List.foldl_flatMap, List.foldl_map]

/-- GMAC raises its flags, marks a partial group, and steps the group. -/
theorem stepGrp_partial {s : State} {u : Grp} {cls op : Nat} {w : ShIns} {x : Stn} {y : GroupSt} (h : AtIns s u cls op w x y)
    (fl : Nat) (b : Prop) [Decidable b] (f : GroupSt → GroupSt) :
    let t := if b then addFlags u.stn fl s else setStn u.stn (fun x => { x with shStatus := x.shStatus ||| 1 }) (addFlags u.stn fl s)
    stepGrp u f t = putGrp u (nextPc (f y)) t := by
  intro t
  obtain ⟨x', hx', hg⟩ := addFlags_stn u.stn fl s x h.stn
  by_cases hb : b
  · simp only [t, if_pos hb]
    exact stepGrp_eq u f _ x' y hx' (by rw [hg]; exact h.grp)
  · simp only [t, if_neg hb]
    exact stepGrp_eq u f _ { x' with shStatus := x'.shStatus ||| 1 } y (by rw [stnOf_setStn, if_pos rfl, hx']; rfl) (by
      show tget? x'.groups u.g = some y
      rw [hg]; exact h.grp)

/-- The word that GMLOAD finds for register `j` of lane `t`. -/
def gmWord (x : Stn) (g : Nat) (w : ShIns) (o t j : Nat) : Word :=
  BitVec.ofNat 32 (leNat ((gmElems (gmSel w) t j).flatMap (fun e =>
    lsRead x ((gmAddr x g w o e.1 e.2).getD 0) (gmBytes (gmSel w)))))

/-- GMLOAD and GMSTORE whose operand lies in its region run their own effect. -/
theorem gmOut_at {s : State} {u : Grp} {op : Nat} {w : ShIns} {x : Stn} {y : GroupSt} (h : AtIns s u 6 op w x y)
    (hf : w.form = 1) (hok : gmSel w ≤ 2 ∧ insDst w % gmRegs (gmSel w) = 0)
    (hr : insSa w < nregOf x ∧ insDst w + gmRegs (gmSel w) - 1 < nregOf x)
    (hb : gmBad x u.g w (actLanes y w) (uniform y (activeLanes y) (insSa w)).toNat = false) (f : Stn → GroupSt → Nat → State → State)
    (hk : 6 < 16 ∧ op < 64 ∧ op < nth 0 classOps 6 := by decide) :
    gmOut op u w f s = .next (f x y (uniform y (activeLanes y) (insSa w)).toNat s) := by
  rw [gmOut, shOut_at h (form1_of_eq hf) (decide_eq_true hok) (by simpa using hr) _ hk]
  simp [hb]

/-- Settles O14: each of the three writes or stores register by register and lane by lane. -/
theorem groupMatrixInstructions : Obligations.GroupMatrixInstructions := by
  refine ⟨?_, ?_, ?_⟩
  · intro s u w x y h hf hok hr
    refine ⟨nextPc ((actLanes y w).foldl (fun z t => gmacLane (stnFlush s x) w y t z) y), _, rfl, ?_, ?_⟩
    · show execGmac u w s = _
      rw [execGmac, shOut_at h (form0_of_eq hf) (decide_eq_true hok) (by simpa using hr)]
      have hstep := stepGrp_partial h (((actLanes y w).flatMap (fun t => (List.range 8).map (fun j =>
        (gmacElem (stnFlush s x) w y t j).2))).foldl (fun a b => a ||| b) 0) ((actLanes y w).length = 32)
        (fun y' => ((actLanes y w).flatMap (fun t => (List.range 8).map (fun j => (t, j, gmacElem (stnFlush s x) w y t j)))).foldl
          (fun z e => setReg (insDst w + e.2.1) e.1 e.2.2.1 z) y')
      rw [gmac_fold, ← gmac_flags] at hstep
      exact congrArg _ (hstep.trans (by rw [gmac_flags]; rfl))
    · exact lanes_eff w 8 (gmacLane (stnFlush s x) w y) (fun j t => (gmacElem (stnFlush s x) w y t j).1)
        (fun t z => foldl_range_setReg_frame _ _ _ _ _)
        (fun t z q k ht hk => foldl_range_setReg _ _ _ _ _ ht _ _ hk) y _ (fun _ _ _ _ => rfl)
  · intro s u w x y h hf hok hr hb
    have hlanes := lanes_eff w (gmRegs (gmSel w))
      (fun t z => (List.range (gmRegs (gmSel w))).foldl (fun z j =>
        setReg (insDst w + j) t (gmWord x u.g w (uniform y (activeLanes y) (insSa w)).toNat t j) z) z)
      (fun j t => gmWord x u.g w (uniform y (activeLanes y) (insSa w)).toNat t j)
      (fun t z => foldl_range_setReg_frame _ _ _ _ _) (fun t z q k ht hk => foldl_range_setReg _ _ _ _ _ ht _ _ hk) y
      (fun j t v => v = gmWord x u.g w (uniform y (activeLanes y) (insSa w)).toNat t j) (fun _ _ _ _ => rfl)
    refine ⟨_, ?_, hlanes⟩
    show execGmload u w s = _
    rw [execGmload, gmOut_at h hf hok hr hb, h.stepGrp]
    rfl
  · intro s u w x y h hf hok hr hb
    refine ⟨_, ?_, localStored_storeLanes h _⟩
    show execGmstore u w s = _
    rw [execGmstore, gmOut_at h hf hok hr hb]

end Sys2Proof.Machine
end

section
/-! PROOF. The shader instructions that branch, issue, synchronise and end (R203, R206-R212, R218-R223). -/

namespace Sys2Proof.Machine

/-! ### Holding a group -/

theorem AtIns.holdGrp_eq {s : State} {u : Grp} {cls op : Nat} {w : ShIns} {x : Stn} {y : GroupSt} (h : AtIns s u cls op w x y)
    (a b : Nat) : holdGrp u a b s = putGrp u { y with waiting := some (a, b) } s :=
  Machine.holdGrp_eq u a b s x y h.stn h.grp

theorem AtIns.setGrp_eq {s : State} {u : Grp} {cls op : Nat} {w : ShIns} {x : Stn} {y : GroupSt} (h : AtIns s u cls op w x y)
    (f : GroupSt → GroupSt) : setGrp u.stn u.g f s = putGrp u (f y) s := by
  unfold putGrp setGrp
  exact setStn_congr _ _ _ _ _ h.stn (by rw [tupd_const _ _ _ _ h.grp])

theorem tupd_tupd {α : Type} (t : Tbl α) (k : Nat) (f g : α → α) : tupd (tupd t k f) k g = tupd t k (fun v => g (f v)) := by
  induction t with
  | nil => rfl
  | cons e r ih =>
    obtain ⟨j, v⟩ := e
    by_cases hj : j = k
    · simp [tupd, hj]
    · simp [tupd, hj, ih]

/-- A change of a group that has just been set. -/
theorem setGrp_putGrp (u : Grp) (f : GroupSt → GroupSt) (z : GroupSt) (s : State) :
    setGrp u.stn u.g f (putGrp u z s) = putGrp u (f z) s := by
  simp [putGrp, setGrp, setStn, tupd_tupd]

theorem putGrp_stn {s : State} {u : Grp} {x : Stn} {z : GroupSt} (hx : stnOf s u.stn = some x) :
    stnOf (putGrp u z s) u.stn = some { x with groups := tupd x.groups u.g (fun _ => z) } := by
  rw [putGrp, setGrp, stnOf_setStn, if_pos rfl, hx]
  rfl

/-! ### Branches (R211, R212) -/

/-- A branch whose fields, target and join point are in order runs its own effect. -/
theorem brOut_at {s : State} {u : Grp} {op : Nat} {w : ShIns} {x : Stn} {y : GroupSt} (h : AtIns s u 7 op w x y)
    (hf : w.form = 1) (hsa : w.sa = 0) {ok : Bool} (hok : ok = true) {points : List Nat}
    (hp : ∀ p ∈ points, p < 8 * x.code.length) (f : Stn → GroupSt → State → State)
    (hk : 7 < 16 ∧ op < 64 ∧ op < nth 0 classOps 7 := by decide) : brOut op ok points u w f s = .next (f x y s) := by
  have hin : points.any (fun p => decide (8 * x.code.length ≤ p)) = false := by
    simpa using hp
  rw [brOut, shOut_at h (form1_of_eq hf) (by simp [hok, hsa]) (by simp) _ hk]
  simp [hin]

/-- The topmost path with lanes left is resumed. -/
theorem popPath_append (y : GroupSt) (l r : List (Nat × BitVec 32)) (pc : Nat) (m : BitVec 32) (hl : ∀ e ∈ l, e.2 = 0) (hm : m ≠ 0) :
    popPath y (l ++ (pc, m) :: r) = some { y with pc := pc, mask := m, stack := r, waiting := none } := by
  induction l with
  | nil => exact if_neg hm
  | cons e l ih =>
    obtain ⟨p, q⟩ := e
    have hq : q = 0 := hl (p, q) (by simp)
    rw [List.cons_append, popPath, if_pos hq]
    exact ih (fun e he => hl e (List.mem_cons_of_mem _ he))

/-- Taking a mask's lanes in `p` out of it leaves those outside `p`. -/
theorem and_not_and (m p : BitVec 32) : m &&& ~~~(m &&& p) = m &&& ~~~p := by
  ext i hi
  simp
  cases m[i] <;> simp

theorem brLevels_of_le {w : ShIns} (h : insDst w ≤ 8) : brLevels w = insDst w := Nat.mod_eq_of_lt (by omega)

/-- Settles O15: each branch, in order, sets its group's program counter, mask and stack. -/
theorem branchesAndTheMaskStack : Obligations.BranchesAndTheMaskStack := by
  refine ⟨?_, ?_, ?_, ?_, ?_⟩
  · intro s u w x y h hf hsa hok ht
    have hrun : exec (.jump u w) s = _ := brOut_at h hf hsa (decide_eq_true hok) (by simpa using ht) _
    rw [hrun]
    constructor
    · intro hall
      rw [if_pos hall]
    · intro hnone hmask
      rw [if_neg (by rw [hnone]; exact fun e => hmask e.symm), if_pos hnone]
      rfl
  · intro s u w x y h hf hsa hok ht
    have hrun : exec (.split u w) s = _ := brOut_at h hf hsa (decide_eq_true hok) (by simpa using ht) _
    rw [hrun]
    constructor
    · intro hroom hp
      rw [if_neg (by omega)]
      exact congrArg _ (if_neg hp)
    · intro hfull
      rw [if_pos (by omega)]
      rfl
  · intro s u w x y h hf hsa hok hg l pc m r hst hl hm
    have hrun : exec (.join u w) s = _ := brOut_at h hf hsa (by simp [hok, hg]) (by simp) _
    rw [hrun, joinGrp, hst, popPath_append y l r pc m hl hm]
  · intro s u w x y h hf hsa hok hg ht hroom
    have hrun : exec (.loopin u w) s = _ := brOut_at h hf hsa (by simp [hok, hg]) (by simpa using ht) _
    rw [hrun, if_neg (by omega)]
    rfl
  · intro s u w x y h hf hsa hok hleft
    have hrun : exec (.leave u w) s = _ := brOut_at h hf hsa (decide_eq_true hok) (by simp) _
    have hz : (leaveGrp w y).mask = y.mask &&& ~~~(guardLanes y w) := and_not_and _ _
    rw [hrun]
    simp only [hz]
    rw [if_neg hleft]
    simp only [leaveGrp, nextPc, dropLanes, and_not_and, brLevels_of_le hok.2]

/-! ### Gathers, semaphore accesses and stream ports (R206-R210, R222) -/

/-- The word of an instruction has its fields. -/
theorem insOf_shWord (cls op : Nat) (w : ShIns) : insOf (shWord cls op w) = w := by
  obtain ⟨pred, pneg, form, dst, sa, low⟩ := w
  have h1 := pred.isLt
  have h2 := form.isLt
  have h3 := dst.isLt
  have h4 := sa.isLt
  have h5 := low.isLt
  have h6 : b2n pneg ≤ 1 := by cases pneg <;> decide
  simp only [insOf, ShIns.mk.injEq]
  refine ⟨?_, ?_, ?_, ?_, ?_, ?_⟩
  · apply BitVec.eq_of_toNat_eq
    simp only [BitVec.toNat_ofNat, bits, shWord]
    omega
  · have hbit : shWord cls op ⟨pred, pneg, form, dst, sa, low⟩ / 2 ^ 50 % 2 = b2n pneg := by
      simp only [shWord]
      omega
    rw [bitOf, Nat.testBit_eq_decide_div_mod_eq, hbit]
    cases pneg <;> rfl
  all_goals
    apply BitVec.eq_of_toNat_eq
    simp only [BitVec.toNat_ofNat, bits, shWord]
    omega

theorem bits_op_shWord {cls op : Nat} (w : ShIns) (ho : op < 64) : bits (shWord cls op w) 59 54 = op := by
  obtain ⟨pred, pneg, form, dst, sa, low⟩ := w
  have h1 := pred.isLt
  have h2 := form.isLt
  have h3 := dst.isLt
  have h4 := sa.isLt
  have h5 := low.isLt
  have h6 : b2n pneg ≤ 1 := by cases pneg <;> decide
  simp only [bits, shWord]
  omega

theorem actLanes_isEmpty {y : GroupSt} {w : ShIns} (h : actLanes y w ≠ []) : (actLanes y w).isEmpty = false := by
  simpa using h

theorem reg_below {x : Stn} {r : Nat} (h : r < nregOf x) : ∀ q ∈ [r], q < nregOf x := by simpa using h

/-- The access of a group held at its MSEMR or MSEMW is the one that its instruction gives. -/
theorem semAcc_held {s : State} {u : Grp} {op : Nat} {w : ShIns} {x : Stn} {y : GroupSt} (h : AtIns s u 8 op w x y) (ho : op < 64)
    (a k : Nat) :
    semAcc (putGrp u { y with waiting := some (10, 4 * a), mark := k } s) (.semGrp u.stn u.g) =
      some ⟨decide (op = 1), a, uniform64 y (activeLanes y) (insSb w), insMod w % 4, 0⟩ := by
  have hcode : codeAt x y = some (shWord 8 op w) := h.2.2.2.2.2.2.2
  have hcode' : x.code[y.pc / 8]? = some (shWord 8 op w) := hcode
  have h4 : 4 * a / 4 = a := by omega
  simp only [semAcc, putGrp_stn h.stn, Option.bind_some, tget?_tupd, if_true, h.grp, Option.map_some, codeAt, hcode',
    insOf_shWord, bits_op_shWord w ho, h4, Nat.mul_mod_right]
  rfl

/-- MSEMR and MSEMW alike: the access stands to be sent and holds the group. -/
theorem msemOut_at {s : State} {u : Grp} {op : Nat} {w : ShIns} {x : Stn} {y : GroupSt} (h : AtIns s u 8 op w x y)
    (hf : w.form = 0) (ha : insSa w + 1 < nregOf x) (hb : insSb w + 1 < nregOf x) (hact : actLanes y w ≠ [])
    (hw : y.waiting.map (·.1) ≠ some 10) (h8 : uniform64 y (activeLanes y) (insSa w) % 8 = 0)
    (h52 : uniform64 y (activeLanes y) (insSa w) < 2 ^ 52) (hk : 8 < 16 ∧ op < 64 ∧ op < nth 0 classOps 8) :
    msemOut op u w s =
      .next (putGrp u { y with waiting := some (10, 4 * uniform64 y (activeLanes y) (insSa w)), mark := s.sch.xseq } s) := by
  rw [msemOut, shOut_at h (form0_of_eq hf) rfl (by simpa using ⟨ha, hb⟩) _ hk]
  simp only [actLanes_isEmpty hact, h8, Nat.not_le.mpr h52, h.setGrp_eq]
  simp only [Host.Outcome.next.injEq, ne_eq, not_true, or_self, Bool.false_eq_true, if_false, ite_eq_right_iff]
  intro hheld
  split at hheld
  · rename_i v e
    simp [e] at hw
  · cases hheld

/-- PRECV and PSEND alike, with a port, a range and a counter in order. -/
theorem portOut_at {s : State} {u : Grp} {op : Nat} {w : ShIns} {x : Stn} {y : GroupSt} (h : AtIns s u 9 op w x y)
    (hf : w.form = 1) (ha : insSa w < nregOf x) (hact : actLanes y w ≠ [])
    (hport : (if op = 0 then noSink s x (bits (insImm w) 2 0) else noSource s x (bits (insImm w) 2 0)) = false)
    (hin : inScratch x (uniform y (activeLanes y) (insSa w)).toNat (512 * bits (insImm w) 31 16) = true)
    (hc : ctrOf y (bits (insImm w) 5 4) < 15) (hk : 9 < 16 ∧ op < 64 ∧ op < nth 0 classOps 9) :
    portOut op u w s = .next (portPump u.stn (takeCtr u (bits (insImm w) 5 4) (addXfer u.stn
      { id := s.sch.xseq, kind := if op = 0 then .precv else .psend, desc := bits (insImm w) 2 0, grp := some (u.g, bits (insImm w) 5 4),
        pieces := (List.range (bits (insImm w) 31 16)).map (fun i =>
          ⟨(uniform y (activeLanes y) (insSa w)).toNat + 512 * i, (uniform y (activeLanes y) (insSa w)).toNat + 512 * i, 512, 0⟩),
        lo := 0, hi := 0, eng := 0 } s))) := by
  rw [portOut, shOut_at h (form1_of_eq hf) rfl (reg_below ha) _ hk]
  simp only [actLanes_isEmpty hact, hport, hin, Nat.not_le.mpr hc]
  simp

/-- PRECV and PSEND without an acting lane only go on. -/
theorem portOut_idle {s : State} {u : Grp} {op : Nat} {w : ShIns} {x : Stn} {y : GroupSt} (h : AtIns s u 9 op w x y)
    (hf : w.form = 1) (ha : insSa w < nregOf x) (hact : actLanes y w = []) (hk : 9 < 16 ∧ op < 64 ∧ op < nth 0 classOps 9) :
    portOut op u w s = .next (putGrp u (nextPc y) s) := by
  rw [portOut, shOut_at h (form1_of_eq hf) rfl (reg_below ha) _ hk]
  simp [hact, h.stepGrp]

/-- Of transfers of which one alone has the number, that one is found. -/
theorem find?_unique {α : Type} {l : List α} {p : α → Bool} {f : α} (hf : f ∈ l) (hp : p f = true) (hu : ∀ g ∈ l, p g = true → g = f) :
    l.find? p = some f := by
  cases e : l.find? p with
  | none => exact absurd hp (by simpa using List.find?_eq_none.mp e f hf)
  | some g => rw [hu g (List.mem_of_find?_eq_some e) (List.find?_some e)]

/-- Settles O16: each instruction checks in the spec's order and starts what it names. -/
theorem gatherIssueAndCompletion : Obligations.GatherIssueAndCompletion := by
  refine ⟨?_, ?_, ?_, ?_, ?_⟩
  · intro s u w x y h hf ha hact hin hgd
    have hrun : exec (.issue u w) s = _ := shOut_at h (form1_of_eq hf) rfl (reg_below ha) _
    rw [hrun]
    constructor
    · intro hc
      simp [actLanes_isEmpty hact, Nat.not_le.mpr hc, hin, hgd]
    · intro hc
      simp [actLanes_isEmpty hact, hc, h.holdGrp_eq]
  · intro s n k x f hup hx hf hid hkind huniq hdone
    have hfind : x.xfers.find? (fun f =>
        decide (f.id = k ∧ (f.kind = .gather ∨ f.kind = .scatter ∨ f.kind = .scatterRed))) = some f :=
      find?_unique hf (decide_eq_true ⟨hid, hkind⟩) (fun g hg hp => huniq g hg (of_decide_eq_true hp).1)
    have hall : f.pieces.all (fun p => decide (p.st = 2)) = true := by simpa using hdone
    show ifUp (gatherDoneS n k) s = _
    rw [ifUp_ready hup, gatherDoneS, hx, Option.bind_some, hfind]
    exact congrArg _ (if_pos hall)
  · intro s u w x y op hop h hf ha hb hact hw h8 h52
    have hk : 8 < 16 ∧ op < 64 ∧ op < nth 0 classOps 8 := by
      rcases hop with rfl | rfl <;> decide
    refine ⟨Eq.trans ?_ (msemOut_at h hf ha hb hact hw h8 h52 hk), semAcc_held h hk.2.1 _ _⟩
    rcases hop with rfl | rfl <;> rfl
  · intro s u w x y op hop h hf ha hact hport hin hc
    have hk : 9 < 16 ∧ op < 64 ∧ op < nth 0 classOps 9 := by
      rcases hop with rfl | rfl <;> decide
    refine Eq.trans ?_ (portOut_at h hf ha hact hport hin hc hk)
    rcases hop with rfl | rfl <;> rfl
  · intro s u w x y hact
    refine ⟨fun h hf ha => ?_, fun h hf ha => portOut_idle h hf ha hact (by decide), fun h hf ha => portOut_idle h hf ha hact (by decide)⟩
    have hrun : exec (.issue u w) s = _ := shOut_at h (form1_of_eq hf) rfl (reg_below ha) _
    rw [hrun]
    simp [hact, h.stepGrp]

/-! ### Synchronisation in a station (R208, R218-R221) -/

/-- Settles O17: each instruction goes on, holds its group, or faults, by the counter, semaphore or lock it names. -/
theorem stationSynchronisation : Obligations.StationSynchronisation := by
  refine ⟨?_, ?_, ?_, ?_, ?_, ?_, ?_⟩
  · intro s u w x y h hf
    have hrun : exec (.wait u w) s = _ := shOut_at h (form1_of_eq hf) rfl (by simp) _
    rw [hrun]
    constructor
    · intro hc
      simp only [if_pos hc, h.stepGrp]
      rfl
    · intro hc
      simp only [if_neg (Nat.not_le.mpr hc), h.holdGrp_eq]
  · intro s u w x y h hf hnew
    have hrun : exec (.meet u w) s = _ := shOut_at h (form1_of_eq hf) rfl (by simp) _
    rw [hrun]
    simp only [if_neg hnew]
    rw [holdGrp_eq u _ _ _ { x with meets := tput x.meets (insImm w % 8) (tget [] x.meets (insImm w % 8) ++ [u.g]) } y
      (by rw [stnOf_setStn, if_pos rfl, h.stn]; rfl) h.grp]
  · intro s u w x y h hf
    have hrun : exec (.sema u w) s = _ := shOut_at h (form1_of_eq hf) rfl (by simp) _
    rw [hrun]
    simp only [stepGrp_setStn h h.stn]
    rfl
  · intro s u w x y h hf ha
    have hrun : exec (.swait u w) s = _ := shOut_at h (form1_of_eq hf) rfl (reg_below ha) _
    rw [hrun]
    constructor
    · intro hc
      simp only [if_pos hc, h.stepGrp]
      rfl
    · intro hc
      simp only [if_neg (Int.not_le.mpr hc), h.holdGrp_eq]
  · intro s u w x y h hf hd o l hl
    have hrun : exec (.lock u w) s = _ := shOut_at h (form1_of_eq hf) rfl (reg_below hd) _
    rw [hrun]
    simp only [hl]
    refine ⟨?_, ?_, ?_⟩
    · rintro rfl
      rfl
    · rintro rfl hw
      simp [hw]
    · rintro k rfl hk hm
      simp [hk, hm]
  · intro s u w x y h hf hd o l hl
    have hrun : exec (.trylock u w) s = _ := shOut_at h (form1_of_eq hf) rfl (reg_below hd) _
    rw [hrun]
    simp only [hl]
    refine ⟨?_, ?_, ?_⟩
    · rintro rfl
      rfl
    · rintro rfl
      simp
    · rintro k rfl hk
      simp [hk]
  · intro s u w x y h hf o l hl
    have hrun : exec (.shaderUnlock u w) s = _ := shOut_at h (form1_of_eq hf) rfl (by simp) _
    rw [hrun]
    simp only [hl]
    constructor
    · rintro rfl
      rw [if_neg (by simp), setLock, stepGrp_setStn h h.stn]
      · rfl
      · rfl
    · intro hne
      rw [if_pos hne]
      rfl

/-! ### Control (R211, R219, R223, R198) -/

/-- Settles O18: a group rests or ends only without a lock; RUN starts every resident group. -/
theorem shaderControl : Obligations.ShaderControl := by
  refine ⟨?_, ?_, ?_, ?_, ?_⟩
  · intro s u w x y h hf
    have hrun : exec (.nop u w) s = _ := shOut_at h (form1_of_eq hf) rfl (by simp) _
    rw [hrun, h.stepGrp]
    rfl
  · intro s u w x y h hf
    have hrun : exec (.rest u w) s = _ := shOut_at h (form1_of_eq hf) rfl (by simp) _
    rw [hrun]
    refine ⟨fun hlock hctr hsem => ?_, fun hlock hwait => ?_, fun hlock => ?_⟩
    · have hgo : (y.counters.any (fun c => decide (c ≠ 0)) || semUnsent x u.g) = false := by simpa [hsem] using hctr
      simp only [hlock, hgo, h.stepGrp, holdGrp, setGrp_putGrp]
      rfl
    · have hgo : (y.counters.any (fun c => decide (c ≠ 0)) || semUnsent x u.g) = true := by simpa using hwait
      simp only [hlock, hgo, h.holdGrp_eq]
      rfl
    · simp only [hlock]
      rfl
  · intro s u w x y h hf hlock
    have hrun : exec (.finish u w) s = _ := shOut_at h (form1_of_eq hf) rfl (by simp) _
    rw [hrun]
    simp only [hlock, endLanes]
    refine ⟨fun z hz hlive => ?_, fun hz => ?_⟩
    · simp [hz, hlive]
    · simp [hz]
  · intro s u w x y h hf hlock
    have hrun : exec (.finish u w) s = _ := shOut_at h (form1_of_eq hf) rfl (by simp) _
    rw [hrun]
    simp only [hlock]
    rfl
  · intro s n x d h
    exact descOut_ready h (runGo n)

end Sys2Proof.Machine
end

section
/-! PROOF. BAR0 accesses of the allowed form: what a write stores and what a read answers and clears (R12-R17). -/

namespace Sys2Proof.Machine

/-! ### The form of an access -/

theorem accessOk8 {off : Nat} (h8 : off % 8 = 0) (hin : off + 8 ≤ 2 ^ 25) : accessOk off 8 = true :=
  (accessOk_iff off 8).mpr ⟨.inr rfl, h8, hin⟩

theorem accessOk4 {off : Nat} (h4 : off % 4 = 0) (hin : off + 4 ≤ 2 ^ 25) : accessOk off 4 = true :=
  (accessOk_iff off 4).mpr ⟨.inl rfl, h4, hin⟩

theorem served_ready {s : State} (h : s.pwr.phase = .ready) (off : Nat) (wr : Bool) : served s off wr = true := by
  simp [served, h]

theorem covOf_word {off : Nat} : covOf off 8 = ⟨true, true⟩ := by simp [covOf]

theorem covOf_low {off : Nat} (h : off % 8 = 0) : covOf off 4 = ⟨true, false⟩ := by simp [covOf, h]

theorem covOf_high {off : Nat} (h : off % 8 = 0) : covOf (off + 4) 4 = ⟨false, true⟩ := by
  have h4 : (off + 4) % 8 = 4 := by omega
  simp [covOf, h4]

/-- Once Uhlug is up a write of the allowed form reaches the registers (R12). -/
theorem barWrite_up {s : State} (h : BarUp s) {off size : Nat} (hok : accessOk off size = true) (v : Nat) :
    barWrite off size v s =
      regWrite (off / 8 * 8) (covOf off size) (if off % 8 = 4 then v % 2 ^ 32 * 2 ^ 32 else v % 2 ^ (8 * size)) s := by
  rw [barWrite, if_neg]
  simp [h.2, hok, served_ready h.1]

theorem barWrite_word {s : State} (h : BarUp s) {off : Nat} (h8 : off % 8 = 0) (hin : off + 8 ≤ 2 ^ 25) (v : Nat) :
    barWrite off 8 v s = regWrite off ⟨true, true⟩ (v % 2 ^ 64) s := by
  rw [barWrite_up h (accessOk8 h8 hin), covOf_word, if_neg (by omega), show off / 8 * 8 = off by omega]

theorem barWrite_low {s : State} (h : BarUp s) {off : Nat} (h8 : off % 8 = 0) (hin : off + 8 ≤ 2 ^ 25) (v : Nat) :
    barWrite off 4 v s = regWrite off ⟨true, false⟩ (v % 2 ^ 32) s := by
  rw [barWrite_up h (accessOk4 (by omega) (by omega)), covOf_low h8, if_neg (by omega), show off / 8 * 8 = off by omega]

theorem barWrite_high {s : State} (h : BarUp s) {off : Nat} (h8 : off % 8 = 0) (hin : off + 8 ≤ 2 ^ 25) (v : Nat) :
    barWrite (off + 4) 4 v s = regWrite off ⟨false, true⟩ (v % 2 ^ 32 * 2 ^ 32) s := by
  rw [barWrite_up h (accessOk4 (by omega) (by omega)), covOf_high h8, if_pos (by omega), show (off + 4) / 8 * 8 = off by omega]

/-- A write of all 8 bytes leaves nothing of the old word (R15). -/
theorem merge_word {v : Nat} (old : Nat) (hv : v < 2 ^ 64) : merge ⟨true, true⟩ old v = v := by
  simp only [merge, if_true]
  omega

/-- A write of the low half keeps the upper one. -/
theorem merge_low {v : Nat} (old : Nat) (hv : v < 2 ^ 32) : merge ⟨true, false⟩ old v = v + 2 ^ 32 * (old / 2 ^ 32 % 2 ^ 32) := by
  simp only [merge, if_true, Bool.false_eq_true, if_false, Nat.mod_eq_of_lt hv]

/-- A write of the upper half keeps the low one. -/
theorem merge_high {v : Nat} (old : Nat) (hv : v < 2 ^ 32) :
    merge ⟨false, true⟩ old (v * 2 ^ 32) = old % 2 ^ 32 + 2 ^ 32 * v := by
  simp only [merge, if_true, Bool.false_eq_true, if_false]
  omega

theorem word_nil : word [] = 0 := rfl

theorem sumNat_eq_sum (l : List Nat) : sumNat l = l.sum := List.sum_eq_foldl.symm

theorem word_cons (a b v : Nat) (l : List (Nat × Nat × Nat)) : word ((a, b, v) :: l) = v % 2 ^ b * 2 ^ a + word l := by
  simp [word, sumNat_eq_sum]

/-! ### Writes (R380, R408, R486, R519, R554, R613, R291, R325) -/

/-- The offset of a CRU_ register of stack `k` names that stack and register. -/
theorem regWrite_cru {k b : Nat} (hk : k < 20) (hb : 0x1000000 ≤ b ∧ b < 0x1004000) (c : Cov) (v : Nat) (s : State) :
    regWrite (b + 0x4000 * k) c v s = cruWrite k (b - 0x1000000) c v s := by
  have h0 : (b + 0x4000 * k) / 2 ^ 20 = 16 := by omega
  have h1 : (b + 0x4000 * k) % 2 ^ 20 / 0x4000 = k := by omega
  have h2 : (b + 0x4000 * k) % 2 ^ 20 % 0x4000 = b - 0x1000000 := by omega
  simp only [regWrite, h0, h1, h2]
  rw [if_neg (by omega)]
  simp only [Nat.reduceEqDiff, if_false]
  rw [if_pos (by omega)]

theorem cruWrite_unfenced {k : Nat} {s : State} (h : k / 2 ∉ s.seam.fenced) (o : Nat) (c : Cov) (v : Nat) :
    cruWrite k o c v s = (let w := merge c (cruVal s k o) v
      let n := (o - 0x100) / 8
      if o = 0x08 then (if c.hi then pendingSet k (bits w 63 32) s else s)
      else if o = 0x10 then
        let s1 := setCru k (fun u => { u with ueThresh := bits w 15 0, wrBatch := inRange 8 32 (bits w 37 32) u.wrBatch }) s
        if c.lo then (List.range 32).foldl (fun s n => checkThresh k n s) s1 else s1
      else if o = 0x20 then setCru k (fun u => { u with thrThresh := bits w 31 0, thrEnable := bitOf w 32 }) s
      else if o = 0x28 then setCru k (fun u => { u with scrubH := inRange 1 8760 (bits w 15 0) u.scrubH, scrubOn := bitOf w 16 }) s
      else if o = 0x30 then setCru k (fun u => { u with orderMs := inRange 1 60000 (bits w 15 0) u.orderMs }) s
      else if 0x100 ≤ o ∧ n < 32 ∧ c.hi then
        checkThresh k n (setCru k (fun u => { u with uncorr := tset 0 u.uncorr n (bits w 47 32) }) s)
      else s) := if_neg h

theorem bits_mod (v n hi lo : Nat) (h : hi + 1 ≤ n) (hl : lo ≤ hi + 1) : bits (v % 2 ^ n) hi lo = bits v hi lo := by
  unfold bits
  have e : n = lo + (n - lo) := by omega
  rw [e, Nat.pow_add, Nat.mod_mul_right_div_self, Nat.mod_mod_of_dvd _ (pow_dvd_pow 2 (by omega))]

/-- The fields below bit 32 of a word whose low half alone is written. -/
theorem bits_low (a b hi lo : Nat) (h : hi < 32) (hl : lo ≤ hi + 1) : bits (a + 2 ^ 32 * b) hi lo = bits a hi lo := by
  have e : (a + 2 ^ 32 * b) % 2 ^ 32 = a % 2 ^ 32 := by omega
  rw [← bits_mod _ 32 hi lo (by omega) hl, e, bits_mod _ 32 hi lo (by omega) hl]

/-- A write of 4 bytes of DBG_WD_CFG leaves the fields of the upper half (R15). -/
theorem merge_low_watchdogs (s : State) {v : Nat} (hv : v < 2 ^ 32) :
    let w := merge ⟨true, false⟩ (dbgVal s 8) v
    bits w 23 4 = bits v 23 4 ∧ bits w 47 32 = s.err.cmdMs % 2 ^ 16 ∧ bits w 63 48 = s.err.homeUs % 2 ^ 16 := by
  have e : dbgVal s 8 = word [(0, 4, s.err.graceDiv), (4, 20, s.err.graceMin), (32, 16, s.err.cmdMs), (48, 16, s.err.homeUs)] := rfl
  simp only [merge_low _ hv, e, word_cons, word_nil, bits]
  omega

/-- A value in its range stays as it is where the word holds it still. -/
theorem inRange_self {lo hi a old : Nat} (h : a = old) : inRange lo hi a old = old := by
  rw [inRange, h]
  split <;> rfl

/-- Settles O20: a write reaches its register's own clause, whose word is the value written. -/
theorem registerWritesStoreTheirFields : Obligations.RegisterWritesStoreTheirFields := by
  intro s v h hv
  have hw : ∀ off, off % 8 = 0 → off + 8 ≤ 2 ^ 25 → exec (.registerWrite off 8 v) s = .next (regWrite off ⟨true, true⟩ v s) := by
    intro off h8 hin
    rw [exec_registerWrite, barWrite_word h h8 hin, Nat.mod_eq_of_lt hv]
  have hpage : v / 4096 * 4096 = bits v 63 12 * 4096 := by
    simp only [bits]
    omega
  refine ⟨?_, ?_, ?_, ?_, ?_, ?_, ?_, ?_, ?_, ?_⟩
  · rw [hw _ (by decide) (by decide), ← hpage]
    show Host.Outcome.next { s with cmd := { s.cmd with evBase := merge _ _ v / 4096 * 4096 } } = _
    rw [merge_word _ hv]
  · rw [hw _ (by decide) (by decide)]
    show Host.Outcome.next { s with cmd := { s.cmd with evLog2 := inRange 12 20 (bits (merge _ _ v) 4 0) s.cmd.evLog2, evVec := bits (merge _ _ v) 26 16, evEnable := bitOf (merge _ _ v) 31 } } = _
    rw [merge_word _ hv]
    rfl
  · rw [hw _ (by decide) (by decide), ← hpage]
    show Host.Outcome.next { s with xt := { s.xt with ringBase := merge _ _ v / 4096 * 4096 } } = _
    rw [merge_word _ hv]
  · rw [hw _ (by decide) (by decide)]
    show Host.Outcome.next { s with seam := { s.seam with highPct := inRange 1 100 (bits (merge _ _ v) 7 0) s.seam.highPct, watchMin := bits (merge _ _ v) 15 8, retryThresh := bits (merge _ _ v) 31 16, hbmThresh := bits (merge _ _ v) 47 32 } } = _
    rw [merge_word _ hv]
    rfl
  · rw [exec_registerWrite, barWrite_low h (by decide) (by decide)]
    show Host.Outcome.next { s with seam := { s.seam with corrThresh := bits (merge _ _ (v % 2 ^ 32)) 31 0 } } = _
    rw [merge_low _ (Nat.mod_lt _ (by decide)), bits_low _ _ _ _ (by decide) (by decide), bits_mod _ _ _ _ (by decide) (by decide)]
  · rw [hw _ (by decide) (by decide)]
    show Host.Outcome.next { s with pwr := { s.pwr with borrow := bits (merge _ _ v) 3 0 } } = _
    rw [merge_word _ hv]
  · rw [hw _ (by decide) (by decide)]
    show Host.Outcome.next { s with err := { s.err with graceDiv := inRange 1 15 (bits (merge _ _ v) 3 0) s.err.graceDiv, graceMin := bits (merge _ _ v) 23 4, cmdMs := inRange 1 65535 (bits (merge _ _ v) 47 32) s.err.cmdMs, homeUs := inRange 100 65535 (bits (merge _ _ v) 63 48) s.err.homeUs } } = _
    rw [merge_word _ hv]
    rfl
  · refine ⟨_, by rw [exec_registerWrite, barWrite_low h (by decide) (by decide)], ?_⟩
    obtain ⟨hmin, hcmd, hhome⟩ := merge_low_watchdogs s (Nat.mod_lt v (by decide : 2 ^ 32 > 0))
    refine ⟨hmin.trans (bits_mod v 32 23 4 (by decide) (by decide)), fun hr => ?_, fun hr => ?_⟩
    · exact inRange_self (hcmd.trans (Nat.mod_eq_of_lt (by omega)))
    · exact inRange_self (hhome.trans (Nat.mod_eq_of_lt (by omega)))
  · rw [hw _ (by decide) (by decide)]
    show Host.Outcome.next { s with rbx := { s.rbx with ackUs := inRange 10 1000000 (bits (merge _ _ v) 19 0) s.rbx.ackUs, idleUs := bits (merge _ _ v) 47 32 } } = _
    rw [merge_word _ hv]
    rfl
  · intro k hk hf
    refine ⟨?_, ?_, ?_⟩
    · rw [hw _ (by omega) (by omega), regWrite_cru hk (by decide), cruWrite_unfenced hf]
      show Host.Outcome.next (setCru k (fun u => { u with thrThresh := bits (merge _ _ v) 31 0, thrEnable := bitOf (merge _ _ v) 32 }) s) = _
      rw [merge_word _ hv]
    · rw [hw _ (by omega) (by omega), regWrite_cru hk (by decide), cruWrite_unfenced hf]
      show Host.Outcome.next (setCru k (fun u => { u with scrubH := inRange 1 8760 (bits (merge _ _ v) 15 0) u.scrubH, scrubOn := bitOf (merge _ _ v) 16 }) s) = _
      rw [merge_word _ hv]
      rfl
    · rw [exec_registerWrite, barWrite_low h (by omega) (by omega), regWrite_cru hk (by decide), cruWrite_unfenced hf]
      show Host.Outcome.next (setCru k (fun u => { u with orderMs := inRange 1 60000 (bits (merge _ _ (v % 2 ^ 32)) 15 0) u.orderMs }) s) = _
      rw [merge_low _ (Nat.mod_lt _ (by decide)), bits_low _ _ _ _ (by decide) (by decide), bits_mod _ _ _ _ (by decide) (by decide)]
      rfl

end Sys2Proof.Machine
end

section
/-! PROOF. BAR0 reads, the tails, ring enables and queue 0 controls, and the reset values (R13-R17, R380, R400, R408, R618). -/

namespace Sys2Proof.Machine

/-! ### Reads -/

/-- A read of the allowed form while the bus works answers what is served, and clears what it covers (R12, R15). -/
theorem barRead_ok {s : State} (hb : busUp s = true) {off size : Nat} (hok : accessOk off size = true) :
    barRead off size s =
      (let v := if served s off false then regVal s (off / 8 * 8) else 0
       let s1 := if served s off false then regClear (off / 8 * 8) (covOf off size) s else s
       { s1 with pci := { s1.pci with rdData := leBytes size (if off % 8 = 4 then v / 2 ^ 32 else v), rdPoison := false } }) := by
  rw [barRead, if_neg]
  simp [hb, hok]

/-- What a read answers, in a state. -/
def readAnswers (data : List Byte) (s : State) : State := { s with pci := { s.pci with rdData := data, rdPoison := false } }

theorem barRead_up {s : State} (h : BarUp s) {off size : Nat} (hok : accessOk off size = true) :
    barRead off size s = readAnswers (leBytes size (if off % 8 = 4 then regVal s (off / 8 * 8) / 2 ^ 32 else regVal s (off / 8 * 8)))
      (regClear (off / 8 * 8) (covOf off size) s) := by
  rw [barRead_ok h.2 hok]
  simp only [served_ready h.1, if_true]
  rfl

theorem barRead_word {s : State} (h : BarUp s) {off : Nat} (h8 : off % 8 = 0) (hin : off + 8 ≤ 2 ^ 25) :
    barRead off 8 s = readAnswers (leBytes 8 (regVal s off)) (regClear off ⟨true, true⟩ s) := by
  rw [barRead_up h (accessOk8 h8 hin), covOf_word, if_neg (by omega), show off / 8 * 8 = off by omega]

theorem barRead_low {s : State} (h : BarUp s) {off : Nat} (h8 : off % 8 = 0) (hin : off + 8 ≤ 2 ^ 25) :
    barRead off 4 s = readAnswers (leBytes 4 (regVal s off)) (regClear off ⟨true, false⟩ s) := by
  rw [barRead_up h (accessOk4 (by omega) (by omega)), covOf_low h8, if_neg (by omega), show off / 8 * 8 = off by omega]

theorem barRead_high {s : State} (h : BarUp s) {off : Nat} (h8 : off % 8 = 0) (hin : off + 8 ≤ 2 ^ 25) :
    barRead (off + 4) 4 s = readAnswers (leBytes 4 (regVal s off / 2 ^ 32)) (regClear off ⟨false, true⟩ s) := by
  rw [barRead_up h (accessOk4 (by omega) (by omega)), covOf_high h8, if_pos (by omega), show (off + 4) / 8 * 8 = off by omega]

/-- A bus that is down answers all-ones. -/
theorem barRead_busDown {s : State} (hb : busUp s = false) (off size : Nat) : barRead off size s = onesBack size false s := by
  rw [barRead, if_pos]
  simp [hb]

/-- In start-up and in a boot halt the offsets from 0x1_8100 are not served (R625). -/
theorem served_booting {s : State} (hp : s.pwr.phase = .starting ∨ s.pwr.phase = .halted) {off : Nat} (ho : 0x18100 ≤ off) (wr : Bool) :
    served s off wr = false := by
  have hn : ¬ off < 0x18100 := by omega
  rcases hp with hp | hp <;> simp [served, hp, hn]

/-! ### Words of the registers that reads clear -/

theorem two_halves (a b : Nat) : word [(0, 32, a), (32, 32, b)] = a % 2 ^ 32 + 2 ^ 32 * (b % 2 ^ 32) := by
  simp only [word_cons, word_nil]
  omega

theorem regVal_eventStat (s : State) : regVal s 0x500038 = s.cmd.evLost % 2 ^ 32 + 2 ^ 32 * (s.cmd.evDelivered % 2 ^ 32) :=
  two_halves s.cmd.evLost s.cmd.evDelivered

theorem regVal_late (s : State) : regVal s 0x800020 = s.rbx.late % 2 ^ 32 + 2 ^ 32 * (s.rbx.expired % 2 ^ 32) :=
  two_halves s.rbx.late s.rbx.expired

theorem regVal_faultStat_high (s : State) : regVal s 0x600028 / 2 ^ 32 = s.xt.delivered % 2 ^ 32 := by
  have e : regVal s 0x600028 =
      word [(0, 1, b2n (ringFull s)), (16, 12, min 4095 (waitingBatches s)), (32, 32, s.xt.delivered)] := rfl
  rw [e]
  simp only [word_cons, word_nil]
  omega

theorem regVal_integ (s : State) : regVal s 0xA00040 = s.sec.integFails % 2 ^ 32 := by
  have e : regVal s 0xA00040 = word [(0, 32, s.sec.integFails)] := rfl
  rw [e]
  simp only [word_cons, word_nil]
  omega

theorem regVal_errCounts (s : State) : regVal s 0xB00010 =
    s.err.corrected % 2 ^ 16 + 2 ^ 16 * (s.err.poisoned % 2 ^ 16) + 2 ^ 32 * (s.err.stationUe % 2 ^ 16) + 2 ^ 48 * (s.err.fatal % 2 ^ 8) := by
  have e : regVal s 0xB00010 =
      word [(0, 16, s.err.corrected), (16, 16, s.err.poisoned), (32, 16, s.err.stationUe), (48, 8, s.err.fatal)] := rfl
  rw [e]
  simp only [word_cons, word_nil]
  omega

/-- Settles O21: a read answers by the half it covers, and clears the read-to-clear fields it covers whole. -/
theorem registerReadsAnswerAndClear : Obligations.RegisterReadsAnswerAndClear := by
  refine ⟨?_, ?_, ?_, ?_⟩
  · intro s off h hin h8
    refine ⟨⟨_, by rw [exec_readClear, barRead_word h h8 hin], rfl, rfl⟩, ⟨_, by rw [exec_readClear, barRead_low h h8 hin], rfl, rfl⟩,
      ⟨_, by rw [exec_readClear, barRead_high h h8 hin], rfl, rfl⟩⟩
  · intro s h
    refine ⟨?_, ?_, ?_, ?_, ?_, ?_, ?_⟩
    · rw [exec_readClear, barRead_word (off := 0x500038) h (by decide) (by decide), regVal_eventStat]
      rfl
    · rw [exec_readClear, barRead_high (off := 0x500038) h (by decide) (by decide), regVal_eventStat, Nat.add_mul_div_left _ _ (by decide),
        Nat.div_eq_of_lt (Nat.mod_lt _ (by decide)), Nat.zero_add]
      rfl
    · rw [exec_readClear, barRead_low (off := 0x600028) h (by decide) (by decide)]
      rfl
    · rw [exec_readClear, barRead_high (off := 0x600028) h (by decide) (by decide), regVal_faultStat_high]
      rfl
    · rw [exec_readClear, barRead_word (off := 0x800020) h (by decide) (by decide), regVal_late]
      rfl
    · rw [exec_readClear, barRead_word (off := 0xA00040) h (by decide) (by decide), regVal_integ]
      rfl
    · rw [exec_readClear, barRead_word (off := 0xB00010) h (by decide) (by decide), regVal_errCounts]
      rfl
  · intro s off hb
    rw [exec_readClear, barRead_busDown hb]
    rfl
  · intro s off hb hp ho hin h8
    rw [exec_readClear, barRead_ok hb (accessOk8 h8 hin)]
    simp only [served_booting hp ho, Bool.false_eq_true, if_false]
    rw [if_neg (by omega)]

/-! ### Tails, ring enables and queue 0 (R380, R400, R408) -/

/-- The value that an ENABLE write gives its register: bit 31 set. -/
theorem putBits_enable {v : Nat} (hv : v < 2 ^ 31) : putBits v 31 31 1 = v + 2 ^ 31 := by
  simp only [putBits, bits]
  omega

theorem bits_enable {v hi lo : Nat} (h : hi < 31) (hl : lo ≤ hi + 1) : bits (v + 2 ^ 31) hi lo = bits v hi lo := by
  rw [← bits_mod _ 31 hi lo (by omega) hl, Nat.add_mod_right, bits_mod _ 31 hi lo (by omega) hl]

theorem bitOf_enable {v : Nat} (hv : v < 2 ^ 31) : bitOf (v + 2 ^ 31) 31 = true := by
  rw [bitOf, Nat.testBit_eq_decide_div_mod_eq]
  simp only [decide_eq_true_eq]
  omega

/-- The word of CMD_Q0_CFG after a write of its upper half alone: the fields as they stand. -/
theorem q0Cfg_kept {s : State} (hl : s.cmd.q0log2 ≤ 16) (hv : s.cmd.q0vec < 2048) (he : s.cmd.q0enable = true) {v : Nat} (hlt : v < 2 ^ 32) :
    let w := merge ⟨false, true⟩ (cmdVal s 0x10) (v * 2 ^ 32)
    bits w 4 0 = s.cmd.q0log2 ∧ bits w 26 16 = s.cmd.q0vec ∧ bitOf w 31 = true := by
  have e : cmdVal s 0x10 = word [(0, 5, s.cmd.q0log2), (16, 11, s.cmd.q0vec), (31, 1, b2n s.cmd.q0enable)] := rfl
  have hb : b2n s.cmd.q0enable = 1 := by rw [he]; rfl
  simp only [merge_high _ hlt, e, word_cons, word_nil, bits, bitOf, Nat.testBit_eq_decide_div_mod_eq, decide_eq_true_eq, hb]
  omega

/-- Queue 0 as a restart leaves it. -/
theorem setQueue_zero (f : Queue → Queue) (s : State) {u : Queue} (hu : tget? s.cmd.queues 0 = some u) :
    tget? (setQueue 0 f s).cmd.queues 0 = some (f u) := by
  rw [setQueue_queues, if_pos rfl, hu]
  rfl

theorem setQueue_zero_other (f : Queue → Queue) (s : State) {q : Nat} (hq : q ≠ 0) :
    tget? (setQueue 0 f s).cmd.queues q = tget? s.cmd.queues q := by
  rw [setQueue_queues, if_neg hq.symm]

/-- CMD_Q0_CFG as a write of its low half with ENABLE leaves it. -/
def q0Enabled (v : Nat) (s : State) : State :=
  { s with cmd := { s.cmd with q0log2 := inRange 8 16 (bits v 4 0) s.cmd.q0log2, q0vec := bits v 26 16, q0enable := true } }

/-- A write of the low half of CMD_Q0_CFG with ENABLE. -/
theorem q0CfgWrite_enable {v : Nat} (hv : v < 2 ^ 31) (s : State) :
    q0CfgWrite ⟨true, false⟩ (v + 2 ^ 31) s =
      if s.cmd.q0enable then q0Enabled v s else setQueue 0 (restartQueue 0) (q0Enabled v s) := by
  have hlt : v + 2 ^ 31 < 2 ^ 32 := by omega
  have hbit : bitOf (v + 2 ^ 31 + 2 ^ 32 * (cmdVal s 0x10 / 2 ^ 32 % 2 ^ 32)) 31 = true := by
    rw [bitOf, Nat.testBit_eq_decide_div_mod_eq, decide_eq_true_eq]
    omega
  simp only [q0CfgWrite, merge_low _ hlt, hbit, bits_low _ _ _ _ (by decide : 4 < 32) (by decide : 0 ≤ 4 + 1),
    bits_low _ _ _ _ (by decide : 26 < 32) (by decide : 16 ≤ 26 + 1), bits_enable (by decide : 4 < 31) (by decide : 0 ≤ 4 + 1),
    bits_enable (by decide : 26 < 31) (by decide : 16 ≤ 26 + 1)]
  cases he : s.cmd.q0enable <;> simp [covers, q0Enabled]

/-- A write of RESTART alone stores the fields as they stand and restarts (R400). -/
theorem q0CfgWrite_restart {s : State} (hl : 8 ≤ s.cmd.q0log2 ∧ s.cmd.q0log2 ≤ 16) (hv : s.cmd.q0vec < 2048) (he : s.cmd.q0enable = true) :
    q0CfgWrite ⟨false, true⟩ (1 * 2 ^ 32) s = q0Restart s := by
  obtain ⟨h1, h2, h3⟩ := q0Cfg_kept hl.2 hv he (v := 1) (by decide)
  have hs : { s with cmd := { s.cmd with q0log2 := s.cmd.q0log2, q0vec := s.cmd.q0vec, q0enable := true } } = s := by
    rw [← he]
  simp only [q0CfgWrite, h1, h2, h3, inRange_self, he, hs]
  rfl

/-! ### MSI-X (R618) -/

theorem bitOf_even (v : Nat) : bitOf (v / 2 * 2) 0 = false := by
  simp [bitOf, Nat.testBit_zero]

/-- Unmasking a vector delivers its pending message, once (R618). -/
theorem msixUnmask_eq {s : State} (ha : s.pci.active = true) (hl : s.pci.linkUp = true) (hd : s.pci.d3hot = false) {v : Nat} (hv : v < 2048) :
    exec (.msixUnmask v) s = .next (unmaskVector v { s with pci := { s.pci with
      table := tset 0 s.pci.table (4 * (4 * v + 3)) (tableDword s (4 * v + 3) / 2 * 2 % 2 ^ 32) } }) := by
  have hne : v ≠ 2048 := by omega
  have h3 : (4 * v + 3) % 4 = 3 := by omega
  have hq : (4 * v + 3) / 4 = v := by omega
  show execMsixUnmask v s = _
  simp [execMsixUnmask, ha, hl, hd, hne, hv, tableWrite, h3, hq, bitOf_even]

theorem unmaskVector_spec {s : State} (hm : s.pci.functionMask = false) (v : Nat) :
    let t := unmaskVector v s
    v ∈ t.pci.unmasked ∧ v ∉ t.pci.pba ∧ t.pci.msix = s.pci.msix ++ (if v ∈ s.pci.pba then [v] else []) ∧
      ∀ u, u ≠ v → (u ∈ t.pci.unmasked ↔ u ∈ s.pci.unmasked) ∧ (u ∈ t.pci.pba ↔ u ∈ s.pci.pba) := by
  by_cases hp : v ∈ s.pci.pba
  · have e : unmaskVector v s = { s with pci := { s.pci with
        unmasked := insKey v s.pci.unmasked, pba := s.pci.pba.filter (fun x => !decide (x = v)), msix := s.pci.msix ++ [v] } } := by
      simp [unmaskVector, hp, hm]
    rw [e]
    exact ⟨by simp [mem_insKey], by simp, by simp [hp], fun u hu => ⟨by simp [mem_insKey, hu], by simp [hu]⟩⟩
  · have e : unmaskVector v s = { s with pci := { s.pci with unmasked := insKey v s.pci.unmasked } } := by
      simp [unmaskVector, hp]
    rw [e]
    exact ⟨by simp [mem_insKey], hp, by simp [hp], fun u hu => ⟨by simp [mem_insKey, hu], Iff.rfl⟩⟩

theorem regWrite_ringCfg (c : Cov) (v : Nat) (s : State) : regWrite 0x600010 c v s =
    (let w := merge c (xtVal s 0x10) v
     { s with xt := { s.xt with ringLog2 := inRange 12 20 (bits w 4 0) s.xt.ringLog2, ringVec := bits w 26 16, ringEnable := bitOf w 31 } }) := rfl

theorem regWrite_q0Cfg (c : Cov) (v : Nat) (s : State) : regWrite 0x500010 c v s = q0CfgWrite c v s := rfl

theorem eventTailWrite_eq {s : State} (h : BarUp s) (v : Nat) :
    exec (.eventTailWrite v) s = .next { s with cmd := { s.cmd with evTail := bits v 19 0 } } := by
  show Host.Outcome.next (barWrite 0x500030 8 v s) = _
  rw [barWrite_word h (by decide) (by decide)]
  show Host.Outcome.next { s with cmd := { s.cmd with evTail := bits (merge _ _ (v % 2 ^ 64)) 19 0 } } = _
  rw [merge_word _ (Nat.mod_lt _ (by decide)), bits_mod _ _ _ _ (by decide) (by decide)]

theorem faultTailWrite_eq {s : State} (h : BarUp s) (v : Nat) :
    exec (.faultTailWrite v) s = .next { s with xt := { s.xt with tail := bits v 19 0 } } := by
  show Host.Outcome.next (barWrite 0x600020 8 v s) = _
  rw [barWrite_word h (by decide) (by decide)]
  show Host.Outcome.next { s with xt := { s.xt with tail := bits (merge _ _ (v % 2 ^ 64)) 19 0 } } = _
  rw [merge_word _ (Nat.mod_lt _ (by decide)), bits_mod _ _ _ _ (by decide) (by decide)]

theorem faultRingEnable_eq {s : State} (h : BarUp s) {v : Nat} (hv : v < 2 ^ 31) :
    exec (.faultRingEnable v) s = .next { s with xt := { s.xt with
      ringLog2 := inRange 12 20 (bits v 4 0) s.xt.ringLog2, ringVec := bits v 26 16, ringEnable := true } } := by
  have hlt : v + 2 ^ 31 < 2 ^ 64 := by omega
  show Host.Outcome.next (barWrite 0x600010 8 (putBits v 31 31 1) s) = _
  rw [putBits_enable hv, barWrite_word h (by decide) (by decide), Nat.mod_eq_of_lt hlt, regWrite_ringCfg, merge_word _ hlt]
  simp only [bits_enable (by decide : 4 < 31) (by decide : 0 ≤ 4 + 1), bits_enable (by decide : 26 < 31) (by decide : 16 ≤ 26 + 1),
    bitOf_enable hv]

theorem q0Enable_eq {s : State} (h : BarUp s) {v : Nat} (hv : v < 2 ^ 31) :
    exec (.q0Enable v) s = .next (q0CfgWrite ⟨true, false⟩ (v + 2 ^ 31) s) := by
  have hlt : v + 2 ^ 31 < 2 ^ 32 := by omega
  show Host.Outcome.next (barWrite 0x500010 4 (putBits v 31 31 1) s) = _
  rw [putBits_enable hv, barWrite_low h (by decide) (by decide), Nat.mod_eq_of_lt hlt, regWrite_q0Cfg]

theorem q0Restart_eq {s : State} (h : BarUp s) (hl : 8 ≤ s.cmd.q0log2 ∧ s.cmd.q0log2 ≤ 16) (hv : s.cmd.q0vec < 2048)
    (he : s.cmd.q0enable = true) : exec .q0Restart s = .next (q0Restart s) := by
  show Host.Outcome.next (barWrite (0x500010 + 4) 4 1 s) = _
  rw [barWrite_high h (by decide) (by decide), regWrite_q0Cfg, Nat.mod_eq_of_lt (by decide), q0CfgWrite_restart hl hv he]

/-- Settles O22: each write lands in one register, and MSI-X delivers a pending message as its vector is unmasked. -/
theorem ringAndQueueZeroRegisters : Obligations.RingAndQueueZeroRegisters := by
  refine ⟨fun s v h => ⟨eventTailWrite_eq h v, faultTailWrite_eq h v⟩, ?_, ?_, ?_⟩
  · intro s v h hv
    refine ⟨faultRingEnable_eq h hv, _, q0Enable_eq h hv, ?_⟩
    rw [q0CfgWrite_enable hv]
    by_cases he : s.cmd.q0enable = true
    · rw [if_pos he]
      exact ⟨rfl, rfl, rfl, fun _ => rfl, fun _ e => absurd (he.symm.trans e) (by decide), fun _ _ => rfl, rfl⟩
    · rw [if_neg he]
      refine ⟨rfl, rfl, rfl, fun e => absurd e he, fun u _ hu => ?_, fun q hq => setQueue_zero_other _ _ hq, rfl⟩
      exact ⟨restartQueue 0 u, setQueue_zero (restartQueue 0) _ hu, rfl, rfl, rfl, rfl, rfl, rfl⟩
  · intro s u h he hl hv hu
    rw [q0Restart_eq h hl hv he]
    constructor
    · intro hst hcmds hseq
      have hgo : q0Restart s = setQueue 0 (restartQueue 0) s := by simp [q0Restart, hu, hst, hcmds, hseq]
      rw [hgo]
      exact ⟨_, restartQueue 0 u, rfl, setQueue_zero _ s hu, rfl, rfl, rfl, rfl, rfl, fun q hq => setQueue_zero_other _ s hq⟩
    · intro hst
      simp [q0Restart, hu, hst]
  · intro s v ha hl hd hm hv
    refine ⟨_, msixUnmask_eq ha hl hd hv, ?_⟩
    exact unmaskVector_spec (s := { s with pci := { s.pci with
      table := tset 0 s.pci.table (4 * (4 * v + 3)) (tableDword s (4 * v + 3) / 2 * 2 % 2 ^ 32) } }) hm v

/-- Settles O24: the reset state is a constant, of which each register's word is computed. -/
theorem registersAfterReset : Obligations.RegistersAfterReset := by
  unfold Obligations.RegistersAfterReset
  decide +kernel

end Sys2Proof.Machine
end

section
/-! PROOF. PENDING_WRITE on a state whose table of Crust stacks is not in canonical form (R281). -/

namespace Sys2Proof.Machine

theorem pendingWrite_eq {k : Nat} (m : Nat) (s : State) (hk : k < 20) :
    exec (.pendingWrite k m) s = .next (barWrite (0x1000000 + 0x4000 * k + 0x0C) 4 m s) := congrArg _ (if_pos hk)

/-- The record of a stack has nothing of the command protocol. -/
theorem setCru_home_cmd (k : Nat) (f : Cru → Cru) (s : State) (c : CmdSt) :
    (setCru k f { s with cmd := c }).home.cru = (setCru k f s).home.cru := rfl

/-- A device that is up and lists stack 0 twice, once with its channel 0 pending. -/
def doubledCru : State :=
  { State.reset with
    pwr := { State.reset.pwr with phase := .ready },
    pci := { State.reset.pci with active := true, linkUp := true, d3hot := false },
    home := { State.reset.home with cru := [(0, { chPending := 1 }), (0, { chPending := 1 })] } }

theorem doubledCru_barUp : BarUp doubledCru := ⟨rfl, rfl⟩

/-- Cancelling the pending channel makes the record the default one, which a table does not list: both entries go. -/
theorem pendingWrite_doubledCru :
    (barWrite (0x1000000 + 0x4000 * 0 + 0x0C) 4 2 doubledCru).home.cru ≠
      (setCru 0 (fun u => { u with chPending := 2 }) doubledCru).home.cru := by decide +kernel

/-- Refutes O23: over every state, PENDING_WRITE need not be one change of the stack's record. Where the table lists the stack twice, the
record that the cancelled channels leave is the default one, so both entries are dropped before the new one is listed. -/
theorem not_linkWindowAndChannelRegisters : ¬ Obligations.LinkWindowAndChannelRegisters := by
  intro h
  obtain ⟨t, hrun, ht, -⟩ := h.1 doubledCru 0 2 doubledCru_barUp (by decide) (by decide) (by decide)
  rw [pendingWrite_eq _ _ (by decide), Host.Outcome.next.injEq] at hrun
  have hcru : t.home.cru = (setCru 0 (fun u => { u with chPending := 2 }) { doubledCru with cmd := t.cmd }).home.cru :=
    congrArg (fun s : State => s.home.cru) ht
  rw [setCru_home_cmd, ← hrun] at hcru
  exact pendingWrite_doubledCru hcru

end Sys2Proof.Machine
end

section
/-! PROOF. The sideband inputs, the resets of the link and of the function, the management sideband and JTAG. -/

namespace Sys2Proof.Machine

/-! ### The brake, the tray stop and chatter (O29) -/

theorem powered_ready {s : State} (h : s.pwr.phase = .ready) : powered s = true := by simp [powered, h]

section
variable {s : State} (h : s.pwr.phase = .ready)
include h

theorem brakeOn_new (w : Nat) (b : s.pin.pwrbrk = false) : brakeOn w s = raise pd0 0x0032 0 0 w 0 0 { s with
    pin := { s.pin with pwrbrk := true }, pwr := { s.pwr with brake := true, braked := true, brakeAt := refOf s pd0 } } := by
  simp [brakeOn, b, powered, raiseUp, h]

theorem brakeOff_new (b : s.pin.pwrbrk = true) : brakeOff s = raise pd0 0x0033 0 0 ((refOf s pd0 - s.pwr.brakeAt) / 25) 0 0 { s with
    pin := { s.pin with pwrbrk := false },
    pwr := { s.pwr with brake := false, braked := false, cap := s.pwr.capStored.getD s.pwr.cap, capStored := none } } := by
  simp [brakeOff, b, powered, raiseUp, h, refUs]

theorem stopOn_new (w : Nat) (c : Bool) (b : s.pin.trayStop = false) : stopOn w c s = raise pd0 0x0058 0 0 w (b2n c) 0 { s with
    pin := { s.pin with trayStop := true, stopAt := refOf s pd0 } } := by
  simp [stopOn, b, powered, raiseUp, h]

theorem stopOff_new (b : s.pin.trayStop = true) :
    stopOff s = raise pd0 0x0059 0 0 ((refOf s pd0 - s.pin.stopAt) / 25) 0 0 (pauseCmds { s with pin := { s.pin with trayStop := false } }) := by
  simp [stopOff, b, powered, raiseUp, h, refUs, pauseCmds]

theorem chatEvent_due {i : Nat} (n : Nat) (c : chatDue s i) : chatEvent i n s = raise pd0 0x005A 0 0 i n 0 { s with
    pin := { s.pin with chatAt := tput s.pin.chatAt i (refOf s pd0) } } := by
  unfold chatDue at c
  unfold chatEvent
  cases e : tget? s.pin.chatAt i with
  | none => simp [h]
  | some t => simp [h, refMs, c t e]

omit h in
theorem chatEvent_soon {i : Nat} (n : Nat) (c : ¬ chatDue s i) : chatEvent i n s = s := by
  unfold chatDue at c
  unfold chatEvent
  cases e : tget? s.pin.chatAt i with
  | none => simp [e] at c
  | some t =>
    simp only [e, Option.some.injEq, forall_eq', not_le] at c
    have : ¬ 1000 * refMs ≤ refOf s pd0 - t := by simp only [refMs]; omega
    simp [this]

end

/-- A second assertion of a level changes nothing. -/
theorem brakeOn_again {s : State} (w : Nat) (b : s.pin.pwrbrk = true) : brakeOn w s = s := by simp [brakeOn, b]
theorem stopOn_again {s : State} (w : Nat) (c : Bool) (b : s.pin.trayStop = true) : stopOn w c s = s := by simp [stopOn, b]

theorem sidebandChatter_power {s : State} (h : s.pwr.phase = .ready) (n w : Nat) :
    exec (.sidebandChatter 1 n w) s = .next (chatEvent 1 n (brakeOn w { s with pin := { s.pin with pwrbrkChat := true } })) := by
  show Host.Outcome.next (chatterS 1 n w s) = _
  simp [chatterS, powered_ready h]

theorem sidebandChatter_stop {s : State} (h : s.pwr.phase = .ready) (n w : Nat) :
    exec (.sidebandChatter 2 n w) s = .next (chatEvent 2 n (stopOn w true { s with pin := { s.pin with stopChat := true } })) := by
  show Host.Outcome.next (chatterS 2 n w s) = _
  simp [chatterS, powered_ready h]

theorem perstChatter_eq {s : State} (h : s.pwr.phase = .ready) (n : Nat) :
    exec (.perstChatter n) s = .next (chatEvent 0 n { s with pin := { s.pin with perstChat := true } }) := by
  show Host.Outcome.next _ = _
  simp [powered_ready h]

/-- Settles O29: each input takes its level, its event and what it stores from one lemma on that input. -/
theorem sidebandInputs : Obligations.SidebandInputs := by
  intro s w n h
  refine ⟨fun b => congrArg _ (brakeOn_new h w b), fun b => congrArg _ (brakeOn_again w b), fun b => congrArg _ (brakeOff_new h b),
    fun b => by show Host.Outcome.next (brakeOff s) = _; simp [brakeOff, b], fun b => congrArg _ (stopOn_new h w false b),
    fun b => congrArg _ (stopOn_again w false b), fun b => congrArg _ (stopOff_new h b),
    fun b => by show Host.Outcome.next (stopOff s) = _; simp [stopOff, b],
    fun c => ⟨fun b => ?_, fun b => ?_⟩, fun c => ⟨fun b => ?_, fun b => ?_⟩, fun c => ⟨fun b => ?_, fun b => ?_⟩,
    fun c => ⟨fun b => ?_, fun b => ?_⟩, fun c => ?_, fun c => ?_⟩
  · exact (sidebandChatter_power h n w).trans (congrArg _ ((congrArg (chatEvent 1 n) (brakeOn_again w (by exact b))).trans (chatEvent_due (by exact h) n (by exact c))))
  · exact (sidebandChatter_power h n w).trans (congrArg _ ((congrArg (chatEvent 1 n) (brakeOn_new (by exact h) w (by exact b))).trans (chatEvent_due (by exact h) n (by exact c))))
  · exact (sidebandChatter_power h n w).trans (congrArg _ ((congrArg (chatEvent 1 n) (brakeOn_again w (by exact b))).trans (chatEvent_soon n (by exact c))))
  · exact (sidebandChatter_power h n w).trans (congrArg _ ((congrArg (chatEvent 1 n) (brakeOn_new (by exact h) w (by exact b))).trans (chatEvent_soon n (by exact c))))
  · exact (sidebandChatter_stop h n w).trans (congrArg _ ((congrArg (chatEvent 2 n) (stopOn_again w true (by exact b))).trans (chatEvent_due (by exact h) n (by exact c))))
  · exact (sidebandChatter_stop h n w).trans (congrArg _ ((congrArg (chatEvent 2 n) (stopOn_new (by exact h) w true (by exact b))).trans (chatEvent_due (by exact h) n (by exact c))))
  · exact (sidebandChatter_stop h n w).trans (congrArg _ ((congrArg (chatEvent 2 n) (stopOn_again w true (by exact b))).trans (chatEvent_soon n (by exact c))))
  · exact (sidebandChatter_stop h n w).trans (congrArg _ ((congrArg (chatEvent 2 n) (stopOn_new (by exact h) w true (by exact b))).trans (chatEvent_soon n (by exact c))))
  · exact (perstChatter_eq h n).trans (congrArg _ (chatEvent_due (by exact h) n (by exact c)))
  · exact (perstChatter_eq h n).trans (congrArg _ (chatEvent_soon n (by exact c)))

/-! ### Rungs begun by the link (O30) -/

/-- A rung requested while none is under way raises its event and stands alone. -/
theorem startRung_first {s : State} (r t cause : Nat) (l : List (Nat × Nat)) (e : s.err.rungs = []) :
    startRung r t cause l s = (let s := raise (rungDie s r t) 0x004B (if r = 1 then t else 0) 0 r t cause s
      { s with
        err := { s.err with
          rungs := [⟨r, t, cause, l, refOf s (rungDie s r t), rungDie s r t⟩],
          active := s.err.active || decide (2 ≤ r), rung := r, cause := cause, target := t },
        cmd := if r ≥ 4 then { s.cmd with ready := false } else s.cmd,
        seam := if r = 3 then { s.seam with fenced := insKey t s.seam.fenced } else s.seam,
        pin := if r = 4 then { s.pin with fault := true }
          else if r = 5 then { s.pin with fault := true, trayCycle := true } else s.pin }) := by
  simp [startRung, e, rungsLeft, rungsCmds]

/-- A rung stands alone, with the counter of the die that times it. -/
theorem startRung_set {s : State} {r : Nat} (t cause : Nat) (l : List (Nat × Nat)) (e : s.err.rungs = []) (h5 : r ≤ 5) :
    RungSet s (startRung r t cause l s) r t cause l := by
  rw [startRung_first r t cause l e]
  refine ⟨rfl, rfl, rfl, rfl, fun h => by simp [h], fun h => ⟨by simp [h], ?_⟩, fun h => by simp [h]⟩
  rcases (by omega : r = 4 ∨ r = 5) with rfl | rfl <;> simp

@[simp] theorem startRung_pci (r t c : Nat) (l : List (Nat × Nat)) (s : State) : (startRung r t c l s).pci = s.pci := by
  unfold startRung; split <;> rfl
@[simp] theorem startRung_host (r t c : Nat) (l : List (Nat × Nat)) (s : State) : (startRung r t c l s).host = s.host := by
  unfold startRung; split <;> rfl
@[simp] theorem startRung_mem (r t c : Nat) (l : List (Nat × Nat)) (s : State) : (startRung r t c l s).mem = s.mem := by
  unfold startRung; split <;> rfl
@[simp] theorem startRung_idr (r t c : Nat) (l : List (Nat × Nat)) (s : State) : (startRung r t c l s).idr = s.idr := by
  unfold startRung; split <;> rfl
@[simp] theorem startRung_sec (r t c : Nat) (l : List (Nat × Nat)) (s : State) : (startRung r t c l s).sec = s.sec := by
  unfold startRung; split <;> rfl
@[simp] theorem startRung_perst (r t c : Nat) (l : List (Nat × Nat)) (s : State) : (startRung r t c l s).pin.perst = s.pin.perst := by
  unfold startRung; split
  · rfl
  · dsimp only; (repeat' split) <;> rfl
@[simp] theorem startRung_tdo (r t c : Nat) (l : List (Nat × Nat)) (s : State) : (startRung r t c l s).pin.tdo = s.pin.tdo := by
  unfold startRung; split
  · rfl
  · dsimp only; (repeat' split) <;> rfl

@[simp] theorem linkRung_pci (s : State) : (linkRung s).pci = s.pci := startRung_pci ..
@[simp] theorem linkRung_perst (s : State) : (linkRung s).pin.perst = s.pin.perst := startRung_perst ..

theorem linkRung_lost {s : State} (e : s.err.rungs = []) : LinkLost s (linkRung s) :=
  ⟨startRung_set 0 rcLink [] (s := discardDirty s) e (by decide), by simp [linkRung, discardDirty], by simp [linkRung, discardDirty],
    by simp [linkRung, discardDirty, satAdd], by simp [linkRung, discardDirty]⟩

/-- A link lost after a change of the configuration, of the link or of a pin is lost as from the state before it. -/
theorem LinkLost.of_config {s u t : State} (h : LinkLost u t) (c : u.clk = s.clk) (k : u.host = s.host)
    (i : u.idr = s.idr) (m : u.mem = s.mem) : LinkLost s t := by
  obtain ⟨⟨h1, h2⟩, h3, h4, h5, h6⟩ := h
  refine ⟨⟨?_, h2⟩, h3, k ▸ h4, ?_, m ▸ h6⟩
  · simpa only [refOf, rungDie, Nat.reduceEqDiff, if_false, c] using h1
  · rw [h5, k, i]

theorem configReset_reset (s : State) : CfgReset (configReset s) := ⟨rfl, rfl, rfl, rfl, rfl, rfl, rfl⟩

theorem CfgReset.of_pci {s t : State} (h : CfgReset s) (e : t.pci = s.pci) : CfgReset t := by
  unfold CfgReset; rw [e]; exact h

/-- Settles O30: each reset of the link is a configuration reset or none, and the rung of `linkRung`. -/
theorem linkAndFunctionResets : Obligations.LinkAndFunctionResets := by
  refine ⟨fun s h p e => ?_, fun s p => ?_, fun s b h p => ?_, fun s b h a l e => ⟨?_, ?_, ?_⟩, fun s b h => ?_, fun s h => ?_,
    fun s h d e => ?_, fun s d => ?_, fun s k h a l => ⟨fun h1 h2 h3 => ?_, fun h1 => ?_⟩⟩
  · refine ⟨linkRung (configReset { s with pin := { s.pin with perst := true }, pci := { s.pci with active := false, linkUp := false } }),
      ?_, (linkRung_lost (by exact e)).of_config rfl rfl rfl rfl, (configReset_reset _).of_pci (linkRung_pci _), by simp [configReset], ?_, ?_⟩
    · show Host.Outcome.next (perstOn s) = _
      simp [perstOn, p, h]
    · rw [linkRung_pci]; rfl
    · rw [linkRung_pci]; rfl
  · show Host.Outcome.next (perstOn s) = _
    simp [perstOn, p]
  · show Host.Outcome.next (perstOff b s) = _
    simp [perstOff, p, h]
  · refine ⟨linkRung s, ?_, linkRung_lost e, linkRung_pci s⟩
    show Host.Outcome.next (linkDownS s) = _
    simp [linkDownS, a, l, h]
  · refine ⟨linkRung (configReset { s with pci := { s.pci with linkUp := b.linkTrains } }), ?_,
      (linkRung_lost (by exact e)).of_config rfl rfl rfl rfl, (configReset_reset _).of_pci (linkRung_pci _), ?_, ?_⟩
    · show Host.Outcome.next (hotResetS b s) = _
      simp [hotResetS, a, l, h]
    · rw [linkRung_pci]; exact a
    · rw [linkRung_pci]; rfl
  · refine ⟨linkRung (configReset s), ?_, (linkRung_lost (by exact e)).of_config rfl rfl rfl rfl, (configReset_reset _).of_pci (linkRung_pci _), ?_, ?_⟩
    · show Host.Outcome.next (flrS b s) = _
      simp [flrS, a, l, h]
    · rw [linkRung_pci]; exact a
    · rw [linkRung_pci]; exact l
  · have h : ¬ (s.pci.active = true ∧ s.pci.linkUp = true) := by rcases h with h | h <;> simp [h]
    exact ⟨congrArg _ (if_pos h), congrArg _ (if_pos h), congrArg _ (if_pos h)⟩
  · exact congrArg _ (if_pos h)
  · refine ⟨startRung 4 0 rcLink [] (configReset s), ?_, startRung_set 0 rcLink [] e (by decide),
      (configReset_reset _).of_pci (startRung_pci ..), startRung_host .., startRung_mem ..⟩
    show Host.Outcome.next (d0ReturnS s) = _
    simp [d0ReturnS, d, h]
  · show Host.Outcome.next (d0ReturnS s) = _
    simp [d0ReturnS, d]
  · refine (ifUp_ready h).trans (congrArg _ (if_neg ?_))
    simp [a, l, h1, h2, h3]
  · refine (ifUp_ready h).trans (congrArg _ (if_pos (.inr ?_)))
    omega

/-! ### The management sideband and JTAG (O31) -/

theorem doeSpdm_link {s : State} (h : s.pwr.phase = .ready) (a : s.pci.active = true) (l : s.pci.linkUp = true) (r : List Byte) :
    exec (.doeSpdm r) s = .next { s with
      sec := { s.sec with
        spdmLog := s.sec.spdmLog ++ [r]
        spdmOut := Config.spdmResponse certSlots (measurements s) s.sec.spdmLog r },
      pci := { s.pci with ide := s.pci.ide || Config.spdmIde s.sec.spdmLog r } } := by
  refine (ifUp_ready h).trans (congrArg _ ?_)
  simp [doeS, a, l, spdmRun, spdmAnswer]

theorem mctp_sensor {s : State} (u : sidebandUp s = true) (n : Nat) :
    exec (.mctpMessage (.sensor n)) s = .next { s with pin := { s.pin with mctpOut := sensor s n } } := by
  show Host.Outcome.next (mctpS (.sensor n) s) = _
  simp [mctpS, u]

theorem mctp_image {s : State} (u : sidebandUp s = true) (b : List Byte) :
    exec (.mctpMessage (.image false b)) s = .next { s with sec := { s.sec with imageA := ⟨b⟩ }, pin := { s.pin with mctpOut := 0 } } ∧
    exec (.mctpMessage (.image true b)) s = .next { s with sec := { s.sec with imageB := ⟨b⟩ }, pin := { s.pin with mctpOut := 0 } } := by
  constructor
  · show Host.Outcome.next (mctpS (.image false b) s) = _
    simp [mctpS, u]
  · show Host.Outcome.next (mctpS (.image true b) s) = _
    simp [mctpS, u]

theorem sensor_die (s : State) {d : Nat} (h : d ∈ allDies) : sensor s (16 + d) = tget 0 s.pwr.tj d := by
  unfold sensor
  rw [if_neg (by omega), if_neg (by omega), if_neg (by omega), if_neg (by omega), if_pos ⟨by omega, by simpa using h⟩]
  simp

theorem sensor_none (s : State) {n : Nat} (h4 : 4 ≤ n) (h : ∀ d ∈ allDies, n ≠ 16 + d) : sensor s n = 0 := by
  have hd : ¬ (16 ≤ n ∧ n - 16 ∈ allDies) := fun ⟨hn, hm⟩ => h _ hm (by omega)
  unfold sensor
  rw [if_neg (by omega), if_neg (by omega), if_neg (by omega), if_neg (by omega), if_neg hd]

/-- An instruction other than EXTEST, with no EXTEST before it, leaves the link. -/
theorem jtag_plain {s : State} (h : powered s = true) (n : s.pin.jtag ≠ some .extest) {j : Jtag} (hj : j ≠ .extest) :
    exec (.jtagInstruction j) s = .next { jtagOut j s with pin := { (jtagOut j s).pin with jtag := some j } } := by
  show Host.Outcome.next (jtagS j s) = _
  simp [jtagS, h, jtagLink, n, hj]

/-- EXTEST takes a working link down, as its loss (R646, R620). -/
theorem jtag_extest {s : State} (h : s.pwr.phase = .ready) (a : s.pci.active = true) (l : s.pci.linkUp = true) (e : s.err.rungs = []) :
    ∃ t, exec (.jtagInstruction .extest) s = .next t ∧ LinkLost s t ∧ t.pci.linkUp = false ∧ t.pin.jtag = some .extest := by
  let u := linkRung { s with pci := { s.pci with linkUp := false } }
  have hl : LinkLost s u := (linkRung_lost (by exact e)).of_config rfl rfl rfl rfl
  refine ⟨{ u with pin := { u.pin with tdo := 0, jtag := some .extest } }, ?_, hl, congrArg Pci.linkUp (linkRung_pci _), rfl⟩
  have e1 : jtagLink .extest s = u := (if_pos rfl).trans ((if_pos ⟨a, l⟩).trans (if_pos h))
  show Host.Outcome.next (jtagS .extest s) = _
  simp only [jtagS, powered_ready h, e1, not_true, if_false]
  rfl

theorem unlockS_pci (s : State) : (unlockS s).pci = s.pci := by
  simp only [unlockS]; split
  · exact startRung_pci ..
  · rfl

theorem secWrite_pci (o : Nat) (c : Cov) (v : Nat) (s : State) : (secWrite o c v s).pci = s.pci := by
  unfold secWrite; (repeat' split)
  · rfl
  · exact unlockS_pci s
  · rfl

theorem unlockS_tdo (s : State) : (unlockS s).pin.tdo = s.pin.tdo := by
  simp only [unlockS]; split
  · exact startRung_tdo ..
  · rfl

theorem secWrite_tdo (o : Nat) (c : Cov) (v : Nat) (s : State) : (secWrite o c v s).pin.tdo = s.pin.tdo := by
  unfold secWrite; (repeat' split)
  · rfl
  · exact unlockS_tdo s
  · rfl

/-- What UNLOCK and the token's registers record does not depend on the pins. -/
theorem secWrite_sec_pin (o : Nat) (c : Cov) (v : Nat) (s : State) (p : Pins) :
    (secWrite o c v { s with pin := p }).sec = (secWrite o c v s).sec := by
  have hr : unlockResult { s with pin := p } = unlockResult s := rfl
  have hu : (unlockS { s with pin := p }).sec = (unlockS s).sec := by
    simp only [unlockS, hr]; split
    · simp only [startRung_sec]
      rfl
    · rfl
  unfold secWrite; (repeat' split)
  · rfl
  · exact hu
  · rfl

/-- Settles O31: each message or instruction is one step of its function on the pins, the link or the security registers. -/
theorem managementSidebandAndJtag : Obligations.ManagementSidebandAndJtag := by
  refine ⟨fun s r h a l => doeSpdm_link h a l r, fun s b a u => ⟨mctp_sensor u 0, mctp_sensor u 1, mctp_sensor u 2, mctp_sensor u 3,
      fun d hd => ?_, fun n h4 hn => ?_, (mctp_image u b).1, (mctp_image u b).2, congrArg _ (if_pos u)⟩,
    fun s h n => ⟨jtag_plain h n (by decide), jtag_plain h n (by decide), fun i => jtag_plain h n (by simp), fun o h1 h2 h3 => ?_,
      fun o v h1 h2 h3 => ⟨_, jtag_plain h n (by simp), ?_, ?_, rfl, ?_⟩, ⟨_, jtag_plain h n (by decide)⟩⟩,
    fun s h a l e => jtag_extest h a l e, fun s h j => ?_⟩
  · rw [mctp_sensor u, sensor_die s hd]
  · rw [mctp_sensor u, sensor_none s h4 hn]
  · rw [jtag_plain h n (by simp)]
    simp [jtagOut, h1, h2, h3]
  · simp only [jtagOut, h1, h2, h3, and_self, if_true]
    exact secWrite_sec_pin ..
  · simp only [jtagOut, h1, h2, h3, and_self, if_true, secWrite_tdo]
  · simp only [jtagOut, h1, h2, h3, and_self, if_true, secWrite_pci]
  · show Host.Outcome.next (jtagS .bypass s) = _
    simp [jtagS, h, jtagLink, j, jtagOut]

end Sys2Proof.Machine
end

section
/-! PROOF. Start-up and the supply stops, heat, budget windows and boost steps. -/

namespace Sys2Proof.Machine

/-- A powered module that alerts, with every die cool. -/
def alertingState : State := { pwr := { phase := .ready, alertOn := true } }

/-- Refutes O27: the clause for a sample below 93 °C keeps ALERT_N's temperature alert where every other die is below 98 °C, and
there the model ends it (the clause lacks a negation). -/
theorem not_samplesHoursAndHeat : ¬ Obligations.SamplesHoursAndHeat := by
  rintro ⟨_, _, h, _⟩
  obtain ⟨t, ht, _, _, _, _, _, ha, _⟩ := h alertingState 0 20 rfl (by decide) (by decide)
  have e : t = thermalSampleS 0 20 alertingState := (Host.Outcome.next.inj ht).symm
  subst e
  revert ha
  decide +kernel

/-! ### Budget windows (O28) -/

/-- What the refills, breaches and clock steps of a window leave as it was. -/
structure WindowKeeps (s t : State) : Prop where
  mode : t.pwr.mode = s.pwr.mode
  portRes : t.pwr.portRes = s.pwr.portRes
  baseW : t.pwr.baseW = s.pwr.baseW
  grantMw : t.pwr.grantMw = s.pwr.grantMw
  grants : t.pwr.grants = s.pwr.grants
  ten : t.ten = s.ten
  mem : t.mem = s.mem
  xt : t.xt = s.xt
  sch : t.sch = s.sch
  home : t.home = s.home

theorem WindowKeeps.refl (s : State) : WindowKeeps s s := ⟨rfl, rfl, rfl, rfl, rfl, rfl, rfl, rfl, rfl, rfl⟩

theorem WindowKeeps.trans {s t u : State} (h : WindowKeeps s t) (k : WindowKeeps t u) : WindowKeeps s u :=
  ⟨k.1.trans h.1, k.2.trans h.2, k.3.trans h.3, k.4.trans h.4, k.5.trans h.5, k.6.trans h.6, k.7.trans h.7, k.8.trans h.8,
    k.9.trans h.9, k.10.trans h.10⟩

/-- A step that keeps these and the remaining budgets. -/
def KeepsBudgets (s t : State) : Prop := WindowKeeps s t ∧ t.pwr.remaining = s.pwr.remaining

theorem KeepsBudgets.refl (s : State) : KeepsBudgets s s := ⟨.refl s, rfl⟩

theorem KeepsBudgets.trans {s t u : State} (h : KeepsBudgets s t) (k : KeepsBudgets t u) : KeepsBudgets s u :=
  ⟨h.1.trans k.1, k.2.trans h.2⟩

theorem updateBreach_keeps (p sh n g r : Nat) (s : State) : KeepsBudgets s (updateBreach p sh n g r s) := by
  unfold updateBreach
  dsimp only
  (repeat' split) <;> exact ⟨⟨rfl, rfl, rfl, rfl, rfl, rfl, rfl, rfl, rfl, rfl⟩, rfl⟩

theorem endBreaches_keeps (p : Nat) (ns : List Nat) (s : State) : KeepsBudgets s (endBreaches p ns s) := by
  unfold endBreaches
  generalize s.pwr.breaches.filter _ = l
  induction l generalizing s with
  | nil => exact .refl s
  | cons e r ih => exact (updateBreach_keeps ..).trans (ih _)

theorem seamFollow_keeps (p : Nat) (s : State) : KeepsBudgets s (seamFollow p s) := by
  unfold seamFollow
  (repeat' split) <;> exact ⟨⟨rfl, rfl, rfl, rfl, rfl, rfl, rfl, rfl, rfl, rfl⟩, rfl⟩

theorem moveHalves_keeps (p w e : Nat) (s : State) : KeepsBudgets s (moveHalves p w e s) :=
  KeepsBudgets.trans (t := putPoint (2 * p + 1) (stepTowards s (2 * p + 1) e) (putPoint (2 * p) (stepTowards s (2 * p) w) s))
    ⟨⟨rfl, rfl, rfl, rfl, rfl, rfl, rfl, rfl, rfl, rfl⟩, rfl⟩ (seamFollow_keeps p _)

theorem fixedBroken_keeps (p c : Nat) (s : State) : KeepsBudgets s (fixedBroken p c s) :=
  (moveHalves_keeps ..).trans ⟨⟨rfl, rfl, rfl, rfl, rfl, rfl, rfl, rfl, rfl, rfl⟩, rfl⟩

theorem refill_keeps (p n b : Nat) (s : State) : WindowKeeps s (refill p n b s) := ⟨rfl, rfl, rfl, rfl, rfl, rfl, rfl, rfl, rfl, rfl⟩

theorem grantOf_keeps {s t : State} (h : WindowKeeps s t) (n p : Nat) : grantOf t n p = grantOf s n p := by
  simp only [grantOf, h.grants, h.ten]

/-- A window's work on one grantee. -/
def windowStep (p k sum g : Nat) (s : State) (n : Nat) : State :=
  let gr := (grantOf s n p).getD 0
  updateBreach p k n gr (effBudget gr sum g) (refill p n (effBudget gr sum g) s)

theorem windowStep_keeps (p k sum g : Nat) (s : State) (n : Nat) : WindowKeeps s (windowStep p k sum g s n) :=
  (refill_keeps ..).trans (updateBreach_keeps ..).1

theorem windowSteps_keeps (p k sum g : Nat) (l : List Nat) (s : State) : WindowKeeps s (l.foldl (windowStep p k sum g) s) := by
  induction l generalizing s with
  | nil => exact .refl s
  | cons n r ih => exact (windowStep_keeps ..).trans (ih _)

theorem bk_inj {n m p : Nat} : bk n p = bk m p ↔ n = m := by simp [bk]

/-- A grantee's budget after its step: refilled to the grant where no debt stood. -/
theorem windowStep_remaining {p k sum g : Nat} {s : State} (hg : sum ≤ g) (m n : Nat) (h : 0 ≤ tget 0 s.pwr.remaining (bk n p)) :
    tget 0 (windowStep p k sum g s m).pwr.remaining (bk n p) =
      if m = n then (((grantOf s n p).getD 0 : Nat) : Int) else tget 0 s.pwr.remaining (bk n p) := by
  have e : effBudget ((grantOf s m p).getD 0) sum g = (grantOf s m p).getD 0 := if_neg (by omega)
  rw [windowStep, e, (updateBreach_keeps ..).2]
  simp only [refill, tget_tset, bk_inj]
  split
  · next hm => subst hm; simp [h]
  · rfl

/-- Every grantee without debt has its grant when the window's steps are done. -/
theorem windowSteps_remaining {p k sum g : Nat} (hg : sum ≤ g) (l : List Nat) (n : Nat) (s : State)
    (h : 0 ≤ tget 0 s.pwr.remaining (bk n p)) :
    tget 0 (l.foldl (windowStep p k sum g) s).pwr.remaining (bk n p) =
      if n ∈ l then (((grantOf s n p).getD 0 : Nat) : Int) else tget 0 s.pwr.remaining (bk n p) := by
  induction l generalizing s with
  | nil => simp
  | cons m r ih =>
    have e := windowStep_remaining (k := k) (s := s) hg m n h
    rw [List.foldl_cons, ih _ (by rw [e]; split <;> omega), grantOf_keeps (windowStep_keeps ..), e]
    by_cases hm : m = n
    · subst hm; simp
    · simp [hm, Ne.symm hm]

theorem portReserve_eq (w : Nat) : portReserve w = max 60 (min 300 ((w + 9) / 10 * 10)) := rfl

/-- The registers of a window, before its grantees are served. -/
def windowStart (p b w : Nat) (s : State) : State :=
  { s with pwr := { s.pwr with
      mode := tput s.pwr.mode p s.pwr.modeSel, portRes := portReserve w,
      grantMw := tset 0 s.pwr.grantMw p (partBudget s w - b * 1000), baseW := tset 0 s.pwr.baseW p b,
      pool := tset 0 s.pwr.pool p (partBudget s w - b * 1000 - grantSum s p) } }

/-- A budget window serves its grantees, ends the breaches of those gone, and moves a fixed-frequency partition's clocks. -/
theorem budgetWindow_steps {s : State} {p : Nat} (h : s.pwr.phase = .ready) (hp : p < 10) (hf : p ∉ s.seam.fenced) (b w : Nat) :
    ∃ t, exec (.budgetWindow p b w) s = .next t ∧
      KeepsBudgets ((grantees s p).foldl (windowStep p (grantees s p).length (grantSum s p) (partBudget s w - b * 1000)) (windowStart p b w s)) t := by
  refine ⟨_, ifUp_ready h, ?_⟩
  unfold budgetWindowS
  rw [if_neg (by rintro (h | h) <;> [omega; exact hf h])]
  dsimp only
  split
  · exact (endBreaches_keeps ..).trans (fixedBroken_keeps ..)
  · exact endBreaches_keeps ..


theorem windowStart_mode (p b w : Nat) (s : State) : tget? (windowStart p b w s).pwr.mode p = some s.pwr.modeSel := by
  simp [windowStart]

theorem windowStart_grantMw (p b w : Nat) (s : State) : tget 0 (windowStart p b w s).pwr.grantMw p = partBudget s w - b * 1000 := by
  simp [windowStart]

theorem windowStart_baseW (p b w : Nat) (s : State) : tget 0 (windowStart p b w s).pwr.baseW p = b := by
  simp [windowStart]

/-! ### Boost steps (O28) -/

theorem seamFollow_halves (p : Nat) (s : State) : (seamFollow p s).pwr = s.pwr := by
  unfold seamFollow
  (repeat' split) <;> rfl

@[simp] theorem halfClk_putPoint (h k j : Nat) (s : State) :
    halfClk (putPoint h k s) j = if j = h then ⟨k, pointVolt s h k⟩ else halfClk s j := by
  simp [halfClk, putPoint, eq_comm]

theorem halfClk_seamFollow (p j : Nat) (s : State) : halfClk (seamFollow p s) j = halfClk s j := by
  simp only [halfClk, seamFollow_halves]

theorem halfClk_moveHalves (p w e j : Nat) (s : State) :
    halfClk (moveHalves p w e s) j =
      if j = 2 * p + 1 then ⟨stepTowards s (2 * p + 1) e, pointVolt s (2 * p + 1) (stepTowards s (2 * p + 1) e)⟩
      else if j = 2 * p then ⟨stepTowards s (2 * p) w, pointVolt s (2 * p) (stepTowards s (2 * p) w)⟩ else halfClk s j := by
  have hv : ∀ a b h k, pointVolt (putPoint a b s) h k = pointVolt s h k := fun _ _ _ _ => rfl
  simp only [moveHalves, halfClk_seamFollow, halfClk_putPoint, hv]

/-- With every point up to 12 enabled a half moves to the next point of its way (R533, R534). -/
theorem stepTowards_enabled {s : State} (hv : ∀ h k, k ≤ 12 → pointVolt s h k ≠ 0) {h w : Nat} (hw : w ≤ 12)
    (hc : (halfClk s h).point ≤ 12) : stepTowards s h w =
      (if (halfClk s h).point < w then (halfClk s h).point + 1 else if w < (halfClk s h).point then (halfClk s h).point - 1 else w) := by
  simp only [stepTowards]
  rw [if_neg (hv _ _ (by split <;> [omega; split <;> omega]))]
  split
  · rfl
  · split <;> omega

/-- A boost step outside fixed-frequency mode and throttling moves the halves, sets their caps and restarts them. -/
theorem boostStep_eq {s : State} {p w e : Nat} (h : s.pwr.phase = .ready) (hp : p < 10) (hf : p ∉ s.seam.fenced)
    (hm : tget 1 s.pwr.mode p = 0) (ht : partThrottled s p = false) (hw : w ≤ 12) (he : e ≤ 12) :
    exec (.boostStep p w e) s = .next (restartHalves (setHalfCaps p (moveHalves p w e s))) := by
  refine (ifUp_ready h).trans (congrArg _ ?_)
  have h12 : 12 ≤ topPoint s p := by unfold topPoint; split <;> omega
  unfold boostStepS
  rw [if_neg (by rintro (h | h) <;> [omega; exact hf h]), if_neg (by simp [hm])]
  simp [ht, Nat.min_eq_left (hw.trans h12), Nat.min_eq_left (he.trans h12)]

theorem seamFollow_frame (p : Nat) (s : State) :
    ∃ c l, seamFollow p s = { s with seam := { s.seam with credit := c, spanning := l } } := by
  unfold seamFollow
  split
  · exact ⟨_, _, rfl⟩
  · split
    · exact ⟨s.seam.credit, s.seam.spanning, rfl⟩
    · exact ⟨_, s.seam.spanning, rfl⟩

theorem setHalfCaps_frame (p : Nat) (s : State) : ∃ m, setHalfCaps p s = { s with pwr := { s.pwr with halfMw := m } } := ⟨_, rfl⟩

theorem putPoint_frame (h k : Nat) (s : State) : ∃ m, putPoint h k s = { s with pwr := { s.pwr with halves := m } } := ⟨_, rfl⟩

/-- It changes nothing but the halves, their caps, the brake's stop and the seam's credit mode. -/
theorem boostStep_frame (p w e : Nat) (s t : State) (ht : t = restartHalves (setHalfCaps p (moveHalves p w e s))) :
    t = { s with pwr := { s.pwr with halves := t.pwr.halves, halfMw := t.pwr.halfMw, braked := false },
                 seam := { s.seam with credit := t.seam.credit, spanning := t.seam.spanning } } := by
  unfold moveHalves at ht
  generalize stepTowards s (2 * p) w = a, stepTowards s (2 * p + 1) e = b at ht
  obtain ⟨h1, e1⟩ := putPoint_frame (2 * p) a s
  obtain ⟨h2, e2⟩ := putPoint_frame (2 * p + 1) b { s with pwr := { s.pwr with halves := h1 } }
  obtain ⟨c, l, e3⟩ := seamFollow_frame p { s with pwr := { s.pwr with halves := h2 } }
  obtain ⟨m, e4⟩ := setHalfCaps_frame p
    { s with pwr := { s.pwr with halves := h2 }, seam := { s.seam with credit := c, spanning := l } }
  dsimp only at ht e1 e2 e3 e4
  rw [e1, e2, e3, e4] at ht
  subst ht
  rfl

theorem halfClk_boosted (p j : Nat) (s : State) : halfClk (restartHalves (setHalfCaps p s)) j = halfClk s j := rfl

/-- Settles O28: a window by the invariant of its steps over the grantees, a boost step by the two moves it makes. -/
theorem budgetWindowsAndClockPoints : Obligations.BudgetWindowsAndClockPoints := by
  refine ⟨fun s p b w h hp hf => ?_, fun s p w e h hp hf hm ht hv hw he cw ce => ?_, fun s p a c h hf => ⟨?_, ?_⟩⟩
  · obtain ⟨t, ht, hk, hr⟩ := budgetWindow_steps h hp hf b w
    replace hk := (windowSteps_keeps p _ _ _ _ _).trans hk
    refine ⟨t, ht, ?_, ?_, ?_, ?_, fun n g hg hn hs hz => ?_, hk.mem, hk.xt, hk.sch, hk.home⟩
    · rw [hk.mode, windowStart_mode]
    · rw [hk.portRes]; rfl
    · rw [hk.baseW, windowStart_baseW]
    · rw [hk.grantMw, windowStart_grantMw]; rfl
    · rw [hk.grantMw, windowStart_grantMw] at hs
      rw [hr, windowSteps_remaining hs _ n (windowStart p b w s) hz, if_pos hn]
      have : grantOf (windowStart p b w s) n p = grantOf s n p := rfl
      rw [this, hg]; rfl
  · refine ⟨_, boostStep_eq h hp hf hm ht hw he, ?_, ?_, ?_, fun j h1 h2 => ?_, boostStep_frame p w e s _ rfl⟩
    · rw [halfClk_boosted, halfClk_moveHalves, if_neg (by omega), if_pos rfl]
      exact stepTowards_enabled hv hw cw
    · rw [halfClk_boosted, halfClk_moveHalves, if_pos rfl]
      exact stepTowards_enabled hv he ce
    · rw [halfClk_boosted, halfClk_moveHalves, if_neg (by omega), if_pos rfl]
    · rw [halfClk_boosted, halfClk_moveHalves, if_neg h2, if_neg h1]
  · exact (ifUp_ready h).trans (congrArg _ (if_pos (.inr hf)))
  · exact (ifUp_ready h).trans (congrArg _ (if_pos (.inr hf)))

end Sys2Proof.Machine
end

section
/-! PROOF. Power-on to READY or a halt, a fault of the started image, and the stops of the input supply. -/

namespace Sys2Proof.Machine

/-! ### Uhlug's images -/

/-- What the choice of an image depends on. -/
theorem bootOrder_congr {s t : State} (h : t.sec.imageA = s.sec.imageA ∧ t.sec.imageB = s.sec.imageB ∧ t.sec.svnFloor = s.sec.svnFloor) :
    bootOrder t = bootOrder s := by
  obtain ⟨a, b, f⟩ := h
  have hv (i : Image) : imageValid t i = imageValid s i := by unfold imageValid floorNow; rw [f]
  unfold bootOrder
  rw [a, b, hv, hv]

theorem bootHalt_halted (status die : Nat) (s : State) : Halted (bootHalt status die s) status die := ⟨rfl, rfl, rfl, rfl, rfl, rfl⟩

theorem placeCrumb_sec (k : Nat) (s : State) : (placeCrumb k s).sec = s.sec := by
  unfold placeCrumb; split <;> rfl

theorem readyWith (slot : Bool) {s v : State} (h : v.sec = s.sec) (a b : Nat) : Ready s (bootReport 11 a b { v with
    pwr := { v.pwr with phase := .ready },
    pin := { v.pin with fault := false },
    idr := { v.idr with readyCount := refOf v pd0 },
    sec := { v.sec with
      svn := imgSvn (slotImage s slot), digest := ((slotImage s slot).bytes.drop 24).take 48, slot := slot,
      svnFloor := max v.sec.svnFloor (imgFloor (slotImage s slot)), keys := insKey 0 v.sec.keys, tried := [] },
    cmd := { v.cmd with ready := true, queues := tput v.cmd.queues 0 { state := .running } } }) slot := by
  refine ⟨rfl, rfl, rfl, rfl, rfl, rfl, ?_, rfl, { state := .running }, ?_, rfl⟩
  · rw [← h]; rfl
  · exact (tget?_tput ..).trans (if_pos rfl)

/-- READY with the image of a slot (R622 step 10). -/
theorem reachReady_ready (slot : Bool) (s : State) : Ready s (reachReady slot s) slot := by
  unfold reachReady
  refine readyWith slot ?_ _ _
  have h1 : (if s.err.regionExt.isSome then s else match stacksUp s with | k :: _ => placeCrumb k s | [] => s).sec = s.sec := by
    split
    · rfl
    · split
      · exact placeCrumb_sec ..
      · rfl
  split <;> exact h1

/-- Uhlug starts from the first valid image not yet tried. -/
theorem startUhlug_slot {s : State} {slot : Bool} {l : List Bool} (r p : Bool)
    (h : (bootOrder s).filter (fun x => decide (x ∉ s.sec.tried)) = slot :: l) :
    startUhlug r p s =
      (let s := { s with sec := { s.sec with tried := s.sec.tried ++ [slot] } }
       if ¬ r then bootReport 10 0 0x3F { s with pwr := { s.pwr with phase := .starting } }
       else if ¬ p then bootHalt 0x12 pd1 s
       else reachReady slot s) := by
  unfold startUhlug
  cases e : bootOrder s with
  | nil => simp [e] at h
  | cons a r => rw [e] at h; simp only [h]

theorem startUhlug_empty {s : State} (r p : Bool) (h : bootOrder s = []) : startUhlug r p s = bootHalt 0x10 pd0 s := by
  unfold startUhlug; rw [h]

theorem startUhlug_tried {s : State} (r p : Bool) (h : bootOrder s ≠ []) (k : ∀ x ∈ bootOrder s, x ∈ s.sec.tried) :
    startUhlug r p s = bootHalt 0x11 pd0 s := by
  unfold startUhlug
  cases e : bootOrder s with
  | nil => exact absurd e h
  | cons a l =>
    have hf : (a :: l).filter (fun x => decide (x ∉ s.sec.tried)) = [] := by
      rw [← e]; simpa using k
    simp only [hf]

/-- READY is a matter of the images and the SVN floor. -/
theorem Ready.of_images {s u t : State} {slot : Bool} (h : Ready u t slot) (a : u.sec.imageA = s.sec.imageA)
    (b : u.sec.imageB = s.sec.imageB) (f : u.sec.svnFloor = s.sec.svnFloor) : Ready s t slot := by
  have e : slotImage u slot = slotImage s slot := by unfold slotImage; rw [a, b]
  obtain ⟨h1, h2, h3, h4, h5, h6, h7, h8⟩ := h
  exact ⟨h1, h2, h3, h4, h5, e ▸ h6, e ▸ f ▸ h7, h8⟩

/-! ### Start-up -/

theorem foldl_seam {α : Type} {f : State → α → State} (h : ∀ s a, (f s a).seam = s.seam) (l : List α) (s : State) :
    (l.foldl f s).seam = s.seam := by
  induction l generalizing s with
  | nil => rfl
  | cons a r ih => rw [List.foldl_cons, ih, h]

theorem foldl_sec {α : Type} {f : State → α → State} (h : ∀ s a, (f s a).sec = s.sec) (l : List α) (s : State) :
    (l.foldl f s).sec = s.sec := by
  induction l generalizing s with
  | nil => rfl
  | cons a r ih => rw [List.foldl_cons, ih, h]

theorem bootStack_seam (b : BootIn) (k : Nat) (s : State) : (bootStack b k s).seam = s.seam := by
  refine Eq.trans ?_ (foldl_seam (f := fun s c => raise (crustDie k) 0x0001 0 0 k c 0 s) (fun _ _ => rfl) (bitsSet 32 (forcedMask s k)) s)
  rfl

theorem bootStack_sec (b : BootIn) (k : Nat) (s : State) : (bootStack b k s).sec = s.sec := by
  refine Eq.trans ?_ (foldl_sec (f := fun s c => raise (crustDie k) 0x0001 0 0 k c 0 s) (fun _ _ => rfl) (bitsSet 32 (forcedMask s k)) s)
  rfl

theorem trainBundle_sec (st : List (Nat × Nat)) (la wo : List (Nat × Nat × Nat)) (l b : Nat) (s : State) :
    (trainBundle st la wo l b s).sec = s.sec := rfl

theorem trainLink_sec (st : List (Nat × Nat)) (la wo : List (Nat × Nat × Nat)) (l : Nat) (s : State) :
    (trainLink st la wo l s).sec = s.sec := by
  unfold trainLink
  dsimp only
  split <;> exact foldl_sec (f := fun s b => trainBundle st la wo l b s) (fun _ _ => rfl) _ _

theorem bootParts_sec (st : List (Nat × Nat)) (s : State) : (bootParts st s).sec = s.sec :=
  foldl_sec (f := fun s p => raise pd0 0x0022 0 0 p 2 0 s) (fun _ _ => rfl) _ _

/-- With good straps and lanes bundle 0 of a link is in service with both spares (R467). -/
def firstUp (s : State) (l : Nat) : Prop := (bundleOf s l 0).st = 1

theorem strapRead_good (d : Nat) : strapRead [] d = strapOf d := rfl

theorem wrongWord_none (l b : Nat) : wrongWord [] [] l b = none := by simp [wrongWord, strapRead_good]

theorem linkEnds_straps : ∀ l < 45, strapOk (strapOf (linkEnds l).1) = true ∧ strapOk (strapOf (linkEnds l).2) = true := by decide +kernel

theorem trained_zero (old : Bundle) : (trained old 0).st = 1 := rfl

theorem trainBundle_bundle {l : Nat} (hl : l < 45) (b j : Nat) (s : State) :
    tget {} (trainBundle [] [] [] l b s).seam.bundles j =
      if l * 16 + b = j then trained (tget {} s.seam.bundles j) 0 else tget {} s.seam.bundles j := by
  obtain ⟨h1, h2⟩ := linkEnds_straps l hl
  simp only [trainBundle, strapRead_good, h1, h2, wrongWord_none, tget_tput]
  split
  · next e => subst e; rfl
  · rfl

theorem firstUp_trainBundle {l : Nat} (hl : l < 45) (b j : Nat) (s : State) (h : firstUp s j ∨ (j = l ∧ b = 0)) :
    firstUp (trainBundle [] [] [] l b s) j := by
  unfold firstUp bundleOf at *
  rw [trainBundle_bundle hl]
  split
  · exact trained_zero _
  · next e => exact h.resolve_right (fun ⟨h1, h2⟩ => e (by subst h1; subst h2; rfl))

theorem firstUp_trainBundles {l : Nat} (hl : l < 45) (bs : List Nat) (j : Nat) (s : State) (h : firstUp s j ∨ (j = l ∧ 0 ∈ bs)) :
    firstUp (bs.foldl (fun s b => trainBundle [] [] [] l b s) s) j := by
  induction bs generalizing s with
  | nil => simpa using h
  | cons b r ih =>
    refine ih _ ?_
    rcases h with h | ⟨rfl, h⟩
    · exact .inl (firstUp_trainBundle hl b j s (.inl h))
    · rcases List.mem_cons.1 h with rfl | h
      · exact .inl (firstUp_trainBundle hl 0 j s (.inr ⟨rfl, rfl⟩))
      · exact .inr ⟨rfl, h⟩

theorem linkBundles_pos (l : Nat) : 0 < linkBundles l := by unfold linkBundles; split <;> [omega; (split <;> omega)]

theorem firstUp_trainLink {l : Nat} (hl : l < 45) (j : Nat) (s : State) (h : firstUp s j ∨ j = l) :
    firstUp (trainLink [] [] [] l s) j := by
  have hb := firstUp_trainBundles hl (List.range (linkBundles l)) j s (h.imp_right fun h => ⟨h, List.mem_range.2 (linkBundles_pos l)⟩)
  unfold trainLink
  dsimp only
  split <;> exact hb

theorem firstUp_trainLinks (ls : List Nat) (hl : ∀ l ∈ ls, l < 45) (j : Nat) (s : State) (h : firstUp s j ∨ j ∈ ls) :
    firstUp (ls.foldl (fun s l => trainLink [] [] [] l s) s) j := by
  induction ls generalizing s with
  | nil => simpa using h
  | cons l r ih =>
    refine ih (fun x hx => hl x (List.mem_cons_of_mem _ hx)) _ ?_
    have hl := hl l List.mem_cons_self
    rcases h with h | h
    · exact .inl (firstUp_trainLink hl j s (.inl h))
    · rcases List.mem_cons.1 h with rfl | h
      · exact .inl (firstUp_trainLink hl j s (.inr rfl))
      · exact .inr h

theorem linkUp_of_first {s : State} {l : Nat} (h : firstUp s l) : linkUp s l = true := by
  unfold linkUp
  exact List.any_eq_true.2 ⟨0, List.mem_range.2 (linkBundles_pos l), decide_eq_true (.inl h)⟩

theorem partLinks_some : ∀ p < 10, ∃ l < 45, l ∈ partLinks p := by decide +kernel

theorem strapOf_parts : ∀ p < 10, strapOk (strapOf p) = true := by decide +kernel

/-- With every link in service no partition is absent (R462). -/
theorem partAbsent_none {s : State} (h : ∀ l < 45, linkUp s l = true) : ∀ p < 10, partAbsent s [] p = false := by
  intro p hp
  obtain ⟨l, hl, hm⟩ := partLinks_some p hp
  have : (partLinks p).any (linkUp s) = true := List.any_eq_true.2 ⟨l, hm, h l hl⟩
  simp [partAbsent, strapRead_good, strapOf_parts p hp, this]

theorem bootParts_absent (st : List (Nat × Nat)) (s : State) :
    (bootParts st s).seam.absent = (List.range 10).filter (partAbsent s st) := by
  unfold bootParts
  dsimp only
  rw [foldl_seam (f := fun s p => raise pd0 0x0022 0 0 p 2 0 s) (fun _ _ => rfl)]

theorem linkUp_congr {s t : State} (h : t.seam.bundles = s.seam.bundles) (l : Nat) : linkUp t l = linkUp s l := by
  unfold linkUp bundleOf
  rw [h]

theorem bootParts_bundles (st : List (Nat × Nat)) (s : State) : (bootParts st s).seam.bundles = s.seam.bundles := by
  unfold bootParts
  dsimp only
  rw [foldl_seam (f := fun s p => raise pd0 0x0022 0 0 p 2 0 s) (fun _ _ => rfl)]

/-- The state of a start with good straps, lanes and words, before its image is chosen. -/
def bootTrained (b : BootIn) (s : State) : State :=
  let s := advanceRef b.elapsed { s with
    pin := { s.pin with perst := b.perst, pwrbrk := b.pwrbrk, trayStop := b.trayStop, fault := false },
    pwr := { s.pwr with brake := b.pwrbrk, braked := false, calDefault := !b.calOk },
    pci := { s.pci with active := !b.perst, linkUp := !b.perst && b.linkTrains } }
  let s := (List.range 45).foldl (fun s l => trainLink [] [] [] l s) s
  let s := bootParts [] s
  let s := (List.range 20).foldl (fun s k => bootStack b k s) s
  let s := makeRecord s.clk.ref [] { s with clk := { s.clk with corrSeq := 0 } }
  { s with sec := { s.sec with tried := [] } }

theorem bootTrained_sec (b : BootIn) (s : State) : (bootTrained b s).sec = { s.sec with tried := [] } := by
  have h : ∀ u : State, ((List.range 20).foldl (fun s k => bootStack b k s)
      (bootParts [] ((List.range 45).foldl (fun s l => trainLink [] [] [] l s) u))).sec = u.sec := fun u => by
    rw [foldl_sec (fun _ _ => bootStack_sec ..), bootParts_sec, foldl_sec (fun _ _ => trainLink_sec ..)]
  exact congrArg (fun c : Sec => { c with tried := [] }) (h _)

/-- Such a start chooses an image. -/
theorem bootFrom4_good {b : BootIn} (s : State) (h1 : b.straps = []) (h2 : b.lanes = []) (h3 : b.words = []) (h4 : b.fuseOk = true)
    (h5 : b.memFail = none) : bootFrom4 b s = startUhlug b.imageReady b.pd1Answers (bootTrained b s) := by
  unfold bootFrom4
  dsimp only
  rw [if_neg (by simp [h4])]
  simp only [h1, h2, h3, h5]
  generalize hu : (List.range 45).foldl (fun s l => trainLink [] [] [] l s) _ = u
  have hup : ∀ l < 45, linkUp u l = true := fun l hl => by
    subst hu
    exact linkUp_of_first (firstUp_trainLinks _ (fun l => List.mem_range.1) l _ (.inr (List.mem_range.2 hl)))
  have habs : (bootParts [] u).seam.absent = [] := by
    rw [bootParts_absent, List.filter_eq_nil_iff]
    intro p hp
    simp [partAbsent_none hup p (List.mem_range.1 hp)]
  have hseam : ((List.range 20).foldl (fun s k => bootStack b k s) (bootParts [] u)).seam = (bootParts [] u).seam :=
    foldl_seam (f := fun s k => bootStack b k s) (fun s k => bootStack_seam b k s) (List.range 20) (bootParts [] u)
  generalize hv : (List.range 20).foldl (fun s k => bootStack b k s) (bootParts [] u) = v at hseam ⊢
  have h38 : linkUp v 38 = true :=
    (linkUp_congr ((congrArg Seam.bundles hseam).trans (bootParts_bundles [] u)) 38).trans (hup 38 (by decide))
  have hrec (w : Tbl Nat) (c : Clk) (l : Nat) : linkUp (makeRecord w [] { v with clk := c }) l = linkUp v l := rfl
  have habs' (w : Tbl Nat) (c : Clk) : (makeRecord w [] { v with clk := c }).seam.absent = [] := by
    rw [← habs, ← hseam]; rfl
  have hpd1 : strapOk (strapRead [] pd1) = true := by decide +kernel
  rw [if_neg (by rw [hrec, h38, hpd1]; simp), if_neg (by rw [habs']; decide)]
  subst hv hu
  rfl

theorem powerOn_off {s : State} {b : BootIn} (h : s.pwr.phase = .off) (k : strapOk (strapRead b.straps pd0) = true) :
    exec (.powerOn b) s = .next (bootFrom4 b { losePower .starting s with pin := { (losePower .starting s).pin with addr := b.addr % 4 } }) := by
  show Host.Outcome.next (powerOnS b s) = _
  simp only [powerOnS, h, k, not_true, if_false]

theorem imageFault_starting {s : State} (h : s.pwr.phase = .starting) (r p : Bool) :
    exec (.imageFault r p) s = .next (startUhlug r p s) := by
  show Host.Outcome.next _ = _
  simp only [h]

/-- Power-on with everything good reaches READY, or halts for want of an image. -/
theorem powerOn_good {s : State} {b : BootIn} (h : s.pwr.phase = .off) (h1 : b.straps = []) (h2 : b.lanes = []) (h3 : b.words = [])
    (h4 : b.fuseOk = true) (h5 : b.memFail = none) (h6 : b.imageReady = true) (h7 : b.pd1Answers = true) :
    ∃ t, exec (.powerOn b) s = .next t ∧
      (∀ slot r, bootOrder s = slot :: r → Ready s t slot) ∧ (bootOrder s = [] → Halted t 0x10 0x30) := by
  refine ⟨_, powerOn_off h (by rw [h1]; decide +kernel), fun slot r e => ?_, fun e => ?_⟩ <;> rw [bootFrom4_good _ h1 h2 h3 h4 h5]
  all_goals
    generalize hv : bootTrained b _ = v
    have hs : v.sec = { svnFloor := s.sec.svnFloor, nonceNo := s.sec.nonceNo, imageA := s.sec.imageA, imageB := s.sec.imageB } := by
      rw [← hv, bootTrained_sec]; rfl
    have ho : bootOrder v = bootOrder s := bootOrder_congr (by rw [hs]; exact ⟨rfl, rfl, rfl⟩)
  · rw [startUhlug_slot (slot := slot) (l := r) _ _ (by rw [ho, e, hs]; simp), h6, h7]
    exact (reachReady_ready slot _).of_images (by rw [hs]) (by rw [hs]) (by rw [hs])
  · rw [startUhlug_empty _ _ (ho.trans e)]
    exact bootHalt_halted ..

/-- Settles O26: start-up by the state that training leaves, the images by the choice that `startUhlug` makes. -/
theorem supplyStopsAndStartUp : Obligations.SupplyStopsAndStartUp := by
  refine ⟨fun s b h h1 h2 h3 h4 h5 h6 h7 => powerOn_good h h1 h2 h3 h4 h5 h6 h7, fun s b h k => ?_,
    fun s b h k => ⟨fun f => ⟨_, powerOn_off h k, ?_⟩, fun d f m => ⟨_, powerOn_off h k, ?_⟩⟩, fun s b h => ?_,
    fun s slot l h e => ⟨⟨_, imageFault_starting h _ _, ?_⟩, ⟨_, imageFault_starting h _ _, ?_⟩,
      fun p => ⟨_, imageFault_starting h _ _, ?_⟩⟩,
    fun s r p h k => ⟨_, imageFault_starting h r p, ?_⟩, fun s r p h => ?_, fun s => ⟨_, rfl, ?_⟩, fun s h => ⟨losePower .offOver s, ?_, ?_⟩, fun s h => ?_⟩
  · refine ⟨_, rfl, ?_⟩
    simp [powerOnS, h, k]
  · simp only [bootFrom4, f, Bool.false_eq_true, not_false_eq_true, if_true]
    exact bootHalt_halted ..
  · simp only [bootFrom4, f, m, not_true, if_false]
    exact bootHalt_halted ..
  · show Host.Outcome.next (powerOnS b s) = _
    unfold powerOnS; split
    · contradiction
    · rfl
  · rw [startUhlug_slot _ _ e]
    exact (reachReady_ready slot _).of_images rfl rfl rfl
  · rw [startUhlug_slot _ _ e]
    exact bootHalt_halted ..
  · rw [startUhlug_slot _ _ e]
    exact ⟨rfl, rfl⟩
  · by_cases e : bootOrder s = []
    · rw [startUhlug_empty r p e, if_pos e]; exact bootHalt_halted ..
    · rw [startUhlug_tried r p e k, if_neg e]; exact bootHalt_halted ..
  · show Host.Outcome.next _ = _
    split
    · contradiction
    · rfl
  · exact ⟨rfl, rfl, rfl, rfl, rfl, rfl, rfl, rfl, rfl, rfl, rfl, rfl, rfl, rfl, rfl, rfl, rfl, rfl, rfl, rfl, rfl, rfl, rfl⟩
  · show Host.Outcome.next _ = _
    split
    · contradiction
    · rfl
  · exact ⟨rfl, rfl, rfl, rfl, rfl, rfl, rfl, rfl, rfl, rfl, rfl, rfl, rfl, rfl, rfl, rfl, rfl, rfl, rfl, rfl, rfl, rfl, rfl⟩
  · show Host.Outcome.next _ = _
    simp only [h]

end Sys2Proof.Machine
end

section
/-! PROOF. Fields of byte strings, and what a write to host memory leaves as it was. -/

namespace Sys2Proof.Machine

/-! ### Fields (R8) -/

@[simp] theorem length_leBytes (n v : Nat) : (leBytes n v).length = n := by
  induction n generalizing v with
  | zero => rfl
  | succ n ih => simp [leBytes, ih]

@[simp] theorem length_zeros (n : Nat) : (zeros n).length = n := by simp [zeros]

theorem leNat_leBytes (n v : Nat) : leNat (leBytes n v) = v % 256 ^ n := by
  induction n generalizing v with
  | zero => simp [leBytes, leNat, Nat.mod_one]
  | succ n ih =>
    rw [leBytes, leNat, ih, Nat.pow_succ', Nat.mod_mul]
    simp [BitVec.toNat_ofNat]

/-- A field that the first part holds. -/
theorem field_append_left {a b : List Byte} {o n : Nat} (h : o + n ≤ a.length) : field (a ++ b) o n = field a o n := by
  unfold field
  rw [List.drop_append_of_le_length (by omega), List.take_append_of_le_length (by simp; omega)]

/-- A field past the first part. -/
theorem field_append_right {a b : List Byte} {o k n : Nat} (h : a.length + k = o) : field (a ++ b) o n = field b k n := by
  subst h
  rw [field, field, List.drop_append, List.drop_eq_nil_of_le (by omega), Nat.add_sub_cancel_left, List.nil_append]

theorem field_leBytes (n v : Nat) : field (leBytes n v) 0 n = v % 256 ^ n := by
  rw [field, List.drop_zero, List.take_of_length_le (by simp), leNat_leBytes]

theorem field_leBytes_append (n v : Nat) (b : List Byte) : field (leBytes n v ++ b) 0 n = v % 256 ^ n := by
  rw [field_append_left (by simp), field_leBytes]

/-- A field of the entry at index `i` of a list of records of one size. -/
theorem field_flatMap {α : Type} (f : α → List Byte) (m : Nat) (l : List α) (hf : ∀ a ∈ l, (f a).length = m) (i o n : Nat) (a : α)
    (hi : l[i]? = some a) (ho : o + n ≤ m) : field (l.flatMap f) (m * i + o) n = field (f a) o n := by
  induction l generalizing i with
  | nil => simp at hi
  | cons b r ih =>
    have hb := hf b List.mem_cons_self
    rw [List.flatMap_cons]
    cases i with
    | zero =>
      obtain rfl : b = a := by simpa using hi
      rw [field_append_left (by omega)]
      simp
    | succ i =>
      rw [field_append_right (k := m * i + o) (by rw [hb, Nat.mul_succ]; omega)]
      exact ih (fun a ha => hf a (List.mem_cons_of_mem _ ha)) i (by simpa using hi)

theorem length_flatMap_const {α : Type} (f : α → List Byte) (m : Nat) (l : List α) (hf : ∀ a ∈ l, (f a).length = m) :
    (l.flatMap f).length = m * l.length := by
  induction l with
  | nil => rfl
  | cons b r ih =>
    rw [List.flatMap_cons, List.length_append, ih fun a ha => hf a (List.mem_cons_of_mem _ ha), hf b List.mem_cons_self,
      List.length_cons, Nat.mul_succ, Nat.add_comm]

/-! ### Energy entries and records (R542) -/

theorem energyEntry_eq (id kind e : Nat) : energyEntry id kind e = leBytes 2 id ++ leBytes 1 kind ++ zeros 5 ++ leBytes 8 e := rfl

@[simp] theorem length_energyEntry (id kind e : Nat) : (energyEntry id kind e).length = 16 := by simp [energyEntry_eq]

theorem energyEntry_id (id kind e : Nat) : field (energyEntry id kind e) 0 2 = id % 65536 := by
  rw [energyEntry_eq, List.append_assoc, List.append_assoc, field_leBytes_append]; rfl

theorem energyEntry_kind (id kind e : Nat) : field (energyEntry id kind e) 2 1 = kind % 256 := by
  rw [energyEntry_eq, List.append_assoc, List.append_assoc, field_append_right (k := 0) (by simp), field_leBytes_append]; rfl

theorem energyEntry_energy (id kind e : Nat) : field (energyEntry id kind e) 8 8 = e % 2 ^ 64 := by
  rw [energyEntry_eq, field_append_right (k := 0) (by simp), field_leBytes]; norm_num

/-! ### What a write to host memory leaves as it was -/

/-- A write to host memory touches host memory, the slices' host logs and the events alone. -/
structure HostKeeps (s t : State) : Prop where
  pending : t.pending = s.pending
  clk : t.clk = s.clk
  pwr : t.pwr = s.pwr
  pin : t.pin = s.pin
  pci : t.pci = s.pci
  idr : t.idr = s.idr
  queues : t.cmd.queues = s.cmd.queues
  q0vec : t.cmd.q0vec = s.cmd.q0vec
  xt : t.xt = s.xt
  mem : t.mem = s.mem
  home : t.home = s.home
  seam : t.seam = s.seam
  rbx : t.rbx = s.rbx
  sch : t.sch = s.sch
  pip : t.pip = s.pip
  sec : t.sec = s.sec
  err : t.err = s.err

theorem HostKeeps.refl (s : State) : HostKeeps s s := by constructor <;> rfl

theorem HostKeeps.trans {s t u : State} (h : HostKeeps s t) (k : HostKeeps t u) : HostKeeps s u :=
  ⟨k.1.trans h.1, k.2.trans h.2, k.3.trans h.3, k.4.trans h.4, k.5.trans h.5, k.6.trans h.6, k.7.trans h.7, k.8.trans h.8,
    k.9.trans h.9, k.10.trans h.10, k.11.trans h.11, k.12.trans h.12, k.13.trans h.13, k.14.trans h.14, k.15.trans h.15, k.16.trans h.16,
    k.17.trans h.17⟩

theorem HostKeeps.foldl {β : Type} {g : State → β → State} (h : ∀ s b, HostKeeps s (g s b)) (l : List β) (s : State) :
    HostKeeps s (l.foldl g s) := by
  induction l generalizing s with
  | nil => exact .refl s
  | cons b r ih => exact (h s b).trans (ih _)

theorem logPage_keeps (p g n : Nat) (s : State) : HostKeeps s (logPage p g n s) := by
  unfold logPage raiseSlice raiseRec
  (repeat' split) <;> constructor <;> rfl

theorem logHost_keeps (p : Option Nat) (a n : Nat) (s : State) : HostKeeps s (logHost p a n s) := by
  unfold logHost
  split
  · exact .refl s
  · exact .foldl (fun s g => .foldl (fun s k => logPage_keeps _ _ _ s) _ s) _ s

theorem wcTrim_keeps (d : Nat) (s : State) : HostKeeps s (wcTrim d s) := by
  unfold wcTrim writeBack
  split <;> constructor <;> rfl

theorem hostWrite_keeps (p : Option Nat) (a : Nat) (bs : List Byte) (s : State) : HostKeeps s (hostWrite p a bs s) := by
  refine HostKeeps.trans ?_ (logHost_keeps ..)
  refine HostKeeps.trans ?_ (wcTrim_keeps ..)
  refine HostKeeps.trans ?_ (wcTrim_keeps ..)
  constructor <;> rfl

end Sys2Proof.Machine
end

section
/-! PROOF. The planner's, energy, clock and calibration commands. -/

namespace Sys2Proof.Machine

theorem Started.ids {s : State} {q n op : Nat} {u : Queue} {c : TakenCmd} (h : Started s q n op u c) : u.num = q ∧ c.seq = n :=
  ⟨h.2.2.2.2.2, by simpa using List.find?_some h.2.2.1⟩

theorem Started.of_queues {s t : State} {q n op : Nat} {u : Queue} {c : TakenCmd} (h : Started s q n op u c)
    (hp : t.pwr.phase = s.pwr.phase) (hq : t.cmd.queues = s.cmd.queues) : Started t q n op u c := by
  obtain ⟨h1, h2, h3⟩ := h
  exact ⟨hp.trans h1, hq ▸ h2, h3⟩

/-! ### CAP_SET, MODE_SET and BUDGET_SET (O39) -/

/-- A table after one value is listed at each of a list of keys. -/
theorem tget?_foldl_tput {α : Type} (f : Nat → Nat) (v : α) (l : List Nat) (t : Tbl α) (k : Nat) :
    tget? (l.foldl (fun t i => tput t (f i) v) t) k = if ∃ i ∈ l, f i = k then some v else tget? t k := by
  induction l generalizing t with
  | nil => simp
  | cons a r ih =>
    rw [List.foldl_cons, ih, tget?_tput]
    by_cases h : ∃ i ∈ r, f i = k
    · obtain ⟨i, hi, e⟩ := h
      rw [if_pos ⟨i, hi, e⟩, if_pos ⟨i, List.mem_cons_of_mem _ hi, e⟩]
    · rw [if_neg h]
      by_cases e : f a = k
      · rw [if_pos (by simp [e]), if_pos ⟨a, List.mem_cons_self, e⟩]
      · rw [if_neg (by simpa [eq_comm] using e), if_neg]
        rintro ⟨i, hi, e'⟩
        rcases List.mem_cons.1 hi with rfl | hi
        · exact e e'
        · exact h ⟨i, hi, e'⟩

theorem budgetSet_grants (n m v : Nat) (t : Tbl Nat) (k : Nat) :
    tget? ((bitsSet 10 m).foldl (fun t p => tput t (bk n p) v) t) k =
      if k / 16 = n ∧ k % 16 < 10 ∧ bitOf m (k % 16) = true then some v else tget? t k := by
  rw [tget?_foldl_tput]
  refine if_congr ?_ rfl rfl
  constructor
  · rintro ⟨i, hi, rfl⟩
    obtain ⟨h1, h2⟩ := List.mem_filter.1 hi
    have h1 := List.mem_range.1 h1
    have e1 : bk n i / 16 = n := by unfold bk; omega
    have e2 : bk n i % 16 = i := by unfold bk; omega
    rw [e1, e2]
    exact ⟨rfl, h1, h2⟩
  · rintro ⟨h1, h2, h3⟩
    exact ⟨k % 16, List.mem_filter.2 ⟨List.mem_range.2 h2, h3⟩, by unfold bk; omega⟩

section
variable {s : State} {q n : Nat} {u : Queue} {c : TakenCmd}

theorem capSet_eq (h : Started s q n 0x0702 u c) : exec (.capSet q n) s = .next (
    if par c 0 2 < 1500 ∨ 4400 < par c 0 2 then finishCmd q n 0x0060 0 s
    else if s.pwr.brake then finishCmd q n 0 0 { s with pwr := { s.pwr with capStored := some (par c 0 2) } }
    else finishCmd q n 0 0 { s with pwr := { s.pwr with cap := par c 0 2 } }) := by
  obtain ⟨h1, h2⟩ := h.ids
  refine (cmdOut_started h _).trans ?_
  simp only [capSetS, h1, h2]
  rfl

theorem modeSet_eq (h : Started s q n 0x0703 u c) : exec (.modeSet q n) s = .next (
    if 1 < par c 0 1 then finishCmd q n 0x0015 0 s
    else finishCmd q n 0 0 { s with pwr := { s.pwr with modeSel := par c 0 1 } }) := by
  obtain ⟨h1, h2⟩ := h.ids
  refine (cmdOut_started h _).trans ?_
  simp only [modeSetS, h1, h2]
  rfl

theorem budgetSet_bad (h : Started s q n 0x0701 u c)
    (hb : 404000 < par c 0 4 ∨ par c 4 2 = 0 ∨ 127 < par c 4 2 ∨ 1024 ≤ par c 6 2) :
    exec (.budgetSet q n) s = .next (finishCmd q n 0x0015 0 s) := by
  obtain ⟨h1, h2⟩ := h.ids
  refine (cmdOut_started h _).trans ?_
  simp only [budgetSetS, h1, h2, if_pos hb]
  rfl

theorem budgetSet_ok (h : Started s q n 0x0701 u c) (b1 : par c 0 4 ≤ 404000) (b2 : par c 4 2 ≠ 0) (b3 : par c 4 2 ≤ 127)
    (b4 : par c 6 2 < 1024) (b5 : (tget? s.ten.slices (par c 4 2)).isSome) :
    exec (.budgetSet q n) s = .next (finishCmd q n 0 0 { s with pwr := { s.pwr with
      grants := (bitsSet 10 (par c 6 2)).foldl (fun t p => tput t (bk (par c 4 2) p) (par c 0 4)) s.pwr.grants } }) := by
  obtain ⟨h1, h2⟩ := h.ids
  refine (cmdOut_started h _).trans ?_
  have hb : ¬ (404000 < par c 0 4 ∨ par c 4 2 = 0 ∨ 127 < par c 4 2 ∨ 1024 ≤ par c 6 2) := by omega
  have hs : ¬ (tget? s.ten.slices (par c 4 2)).isNone = true := by
    cases e : tget? s.ten.slices (par c 4 2) <;> simp_all
  simp only [budgetSetS, h1, h2, if_neg hb, if_neg hs]
  rfl

/-! ### ENERGY_READ (O39) -/

/-- The record of a read: 64 bytes of header and the entries. -/
def energyRecord (s : State) (u : Queue) (es : List (List Byte)) : List Byte :=
  (leBytes 4 0x0C0B ++ leBytes 2 es.length ++ leBytes 1 (cplxDie u.cplx) ++ zeros 1 ++ leBytes 8 (refOf s (cplxDie u.cplx)) ++ zeros 48) ++
    es.flatMap id

theorem energyRead_ok (h : Started s q n 0x0C02 u c) {sc : Nat} (hs : par c 8 1 = sc) (h2 : sc ≤ 2) (hm : sc = 2 → u.slice = 0) :
    exec (.energyRead q n) s = .next (finishCmd q n 0 (energyRecord s u (energyEntries s u c sc)).length
      (hostWrite u.pasid (par c 0 8) (energyRecord s u (energyEntries s u c sc)) s)) := by
  obtain ⟨h1, h2⟩ := h.ids
  refine (cmdOut_started h _).trans ?_
  have hm' : ¬ (sc = 2 ∧ u.slice ≠ 0) := fun ⟨a, b⟩ => b (hm a)
  simp only [energyReadS, hs, if_neg (show ¬ 2 < sc by omega), if_neg hm', h1, h2]
  rfl

theorem energyRecord_length (es : List (List Byte)) (he : ∀ e ∈ es, e.length = 16) :
    (energyRecord s u es).length = 64 + 16 * es.length := by
  have : (es.flatMap id).length = 16 * es.length := length_flatMap_const id 16 es he
  rw [energyRecord, List.length_append, this]
  simp

theorem energyRecord_magic (es : List (List Byte)) : field (energyRecord s u es) 0 4 = 0x0C0B := by
  simp only [energyRecord, List.append_assoc]
  rw [field_leBytes_append]; rfl

theorem energyRecord_count (es : List (List Byte)) : field (energyRecord s u es) 4 2 = es.length % 65536 := by
  simp only [energyRecord, List.append_assoc]
  rw [field_append_right (k := 0) (by simp), field_leBytes_append]; rfl

theorem energyRecord_die (es : List (List Byte)) : field (energyRecord s u es) 6 1 = cplxDie u.cplx := by
  simp only [energyRecord, List.append_assoc]
  rw [field_append_right (k := 2) (by simp), field_append_right (k := 0) (by simp), field_leBytes_append]
  unfold cplxDie; split <;> rfl

theorem energyRecord_ref (es : List (List Byte)) : field (energyRecord s u es) 8 8 = refOf s (cplxDie u.cplx) % 2 ^ 64 := by
  unfold energyRecord
  rw [field_append_left (by simp), field_append_left (by simp), field_append_right (k := 0) (by simp), field_leBytes]; norm_num

/-- A field of an entry. -/
theorem energyRecord_entry (es : List (List Byte)) (he : ∀ e ∈ es, e.length = 16) {i o k : Nat} {e : List Byte} (hi : es[i]? = some e)
    (ho : o + k ≤ 16) : field (energyRecord s u es) (64 + 16 * i + o) k = field e o k := by
  unfold energyRecord
  rw [field_append_right (k := 16 * i + o) (by simp; omega)]
  exact field_flatMap id 16 es he i o k e hi ho

theorem energyEntries_length (sc : Nat) : ∀ e ∈ energyEntries s u c sc, e.length = 16 := by
  intro e he
  unfold energyEntries at he
  split at he
  · obtain rfl := List.mem_singleton.1 he
    exact length_energyEntry ..
  · split at he
    · obtain ⟨x, _, rfl⟩ := List.mem_map.1 he
      exact length_energyEntry ..
    · rcases List.mem_append.1 he with h | h
      · obtain ⟨x, _, rfl⟩ := List.mem_map.1 h
        exact length_energyEntry ..
      · rcases List.mem_cons.1 h with rfl | h
        · exact length_energyEntry ..
        · obtain rfl := List.mem_singleton.1 h
          exact length_energyEntry ..

/-! ### CLOCK_CORR (O39) -/

theorem clockCorr_started (h : Started s q n 0x0C01 u c) (l : List Nat) :
    exec (.clockCorr q n l) s = .next (clockCorrS l u c s) := cmdOut_started h _

theorem clockCorr_leaves (h : Started s q n 0x0C01 u c) (l : List Nat) (m : s.clk.marker = none) :
    exec (.clockCorr q n l) s = .next { s with clk := { s.clk with marker := some s.clk.ref, corrWait := [(q, n)], corrNext := [] } } := by
  obtain ⟨h1, h2⟩ := h.ids
  rw [clockCorr_started h, clockCorrS, m, h1, h2]
  rfl

theorem clockCorr_waits (h : Started s q n 0x0C01 u c) (l : List Nat) {a : Tbl Nat} (m : s.clk.marker = some a)
    (k : (q, n) ∉ s.clk.corrWait ++ s.clk.corrNext) :
    exec (.clockCorr q n l) s = .next { s with clk := { s.clk with corrNext := s.clk.corrNext ++ [(q, n)] } } := by
  obtain ⟨h1, h2⟩ := h.ids
  rw [clockCorr_started h, clockCorrS, m, h1, h2]
  simp only [if_neg k]

/-- No marker in flight, and no command that waits for one. -/
def markerNone (t : State) : State := { t with clk := { t.clk with marker := none, corrWait := [] } }

/-- The one command that waits gets the record of the marker that comes back. -/
theorem clockCorr_back (h : Started s q n 0x0C01 u c) (l : List Nat) {a : Tbl Nat} (m : s.clk.marker = some a)
    (w : s.clk.corrWait = [(q, n)]) (e : s.clk.corrNext = []) :
    exec (.clockCorr q n l) s = .next (markerNone (finishCmd q n 0 s.clk.corrSeq
        (hostWrite u.pasid (par c 0 8) (corrRecord s a l) (makeRecord a l s)))) := by
  obtain ⟨h1, h2⟩ := h.ids
  obtain ⟨_, hu, hc, ho, hp, _⟩ := id h
  have hk : (u.num, c.seq) ∈ s.clk.corrWait ++ s.clk.corrNext := by rw [w, h1, h2]; simp
  have ha : corrAnswer s.clk.corrSeq q n (makeRecord a l s) =
      finishCmd q n stOk s.clk.corrSeq (hostWrite u.pasid (par c 0 8) (corrRecord s a l) (makeRecord a l s)) := by
    unfold corrAnswer
    have : (makeRecord a l s).cmd = s.cmd := rfl
    rw [this, hu]
    simp only [Option.bind_some, hc, Option.map_some, ho, hp, and_self, if_true]
    rfl
  rw [clockCorr_started h, clockCorrS, m]
  refine congrArg _ ((if_pos hk).trans ?_)
  simp only [markerBack, w, e, if_true, List.foldl_cons, List.foldl_nil, ha]
  rfl

end

/-! ### The clock correlation record (R41) -/

/-- A die's entry of the record. -/
def corrEntry (s : State) (at0 : Tbl Nat) (uncert : List Nat) (e : Nat × Nat) : List Byte :=
  leBytes 1 e.1 ++ leBytes 1 (dieKind e.1) ++ leBytes 1 (corrState s e.1) ++ zeros 1 ++
    leBytes 2 (if corrState s e.1 = 0 then min 120 (uncert.getD e.2 120) else 0) ++ zeros 2 ++
    leBytes 8 (if corrState s e.1 = 0 then tget 0 at0 e.1 else 0)

theorem corrRecord_eq (s : State) (at0 : Tbl Nat) (uncert : List Nat) : corrRecord s at0 uncert =
    (leBytes 4 0x0C01 ++ leBytes 4 s.clk.corrSeq ++ leBytes 8 (tget 0 at0 pd0) ++ zeros 48) ++
      allDies.zipIdx.flatMap (corrEntry s at0 uncert) := rfl

theorem corrEntry_length (s : State) (at0 : Tbl Nat) (uncert : List Nat) (e : Nat × Nat) : (corrEntry s at0 uncert e).length = 16 := by
  simp [corrEntry]

theorem corrRecord_length (s : State) (at0 : Tbl Nat) (uncert : List Nat) : (corrRecord s at0 uncert).length = 576 := by
  rw [corrRecord_eq, List.length_append, length_flatMap_const _ 16 _ fun e _ => corrEntry_length s at0 uncert e]
  simp [allDies]

theorem corrState_le (s : State) (d : Nat) : corrState s d ≤ 2 := by
  unfold corrState
  (repeat' split) <;> omega

theorem corrEntry_fields (s : State) (at0 : Tbl Nat) (uncert : List Nat) (d i : Nat) (hd : d < 256) :
    field (corrEntry s at0 uncert (d, i)) 0 1 = d ∧ field (corrEntry s at0 uncert (d, i)) 2 1 = corrState s d ∧
    field (corrEntry s at0 uncert (d, i)) 4 2 ≤ 120 ∧
    (corrState s d = 0 → field (corrEntry s at0 uncert (d, i)) 8 8 = tget 0 at0 d % 2 ^ 64) := by
  have hs := corrState_le s d
  refine ⟨?_, ?_, ?_, fun e => ?_⟩
  · simp only [corrEntry, List.append_assoc]
    rw [field_leBytes_append]; omega
  · simp only [corrEntry, List.append_assoc]
    rw [field_append_right (k := 1) (by simp), field_append_right (k := 0) (by simp), field_leBytes_append]; omega
  · simp only [corrEntry, List.append_assoc]
    rw [field_append_right (k := 3) (by simp), field_append_right (k := 2) (by simp), field_append_right (k := 1) (by simp),
      field_append_right (k := 0) (by simp), field_leBytes_append]
    refine (Nat.mod_le _ _).trans ?_
    split <;> omega
  · unfold corrEntry
    rw [field_append_right (k := 0) (by simp), field_leBytes, if_pos e]; norm_num

theorem corrRecord_header (s : State) (at0 : Tbl Nat) (uncert : List Nat) : field (corrRecord s at0 uncert) 0 4 = 0x0C01 ∧
    field (corrRecord s at0 uncert) 4 4 = s.clk.corrSeq % 2 ^ 32 ∧ field (corrRecord s at0 uncert) 8 8 = tget 0 at0 pd0 % 2 ^ 64 := by
  simp only [corrRecord_eq, List.append_assoc]
  refine ⟨?_, ?_, ?_⟩
  · rw [field_leBytes_append]; rfl
  · rw [field_append_right (k := 0) (by simp), field_leBytes_append]; norm_num
  · rw [field_append_right (k := 4) (by simp), field_append_right (k := 0) (by simp), field_leBytes_append]; norm_num

theorem allDies_entry : ∀ i < 32, allDies.zipIdx[i]? = some (nth 0 allDies i, i) ∧ nth 0 allDies i < 256 := by decide

theorem corrRecord_entry (s : State) (at0 : Tbl Nat) (uncert : List Nat) {i o k : Nat} (hi : i < 32) (ho : o + k ≤ 16) :
    field (corrRecord s at0 uncert) (64 + 16 * i + o) k = field (corrEntry s at0 uncert (nth 0 allDies i, i)) o k := by
  rw [corrRecord_eq, field_append_right (k := 16 * i + o) (by simp; omega)]
  exact field_flatMap _ 16 _ (fun e _ => corrEntry_length ..) i o k _ (allDies_entry i hi).1 ho

theorem corrRecord_entries (s : State) (at0 : Tbl Nat) (uncert : List Nat) {i : Nat} (hi : i < 32) :
    field (corrRecord s at0 uncert) (64 + 16 * i) 1 = nth 0 allDies i ∧
    field (corrRecord s at0 uncert) (66 + 16 * i) 1 = corrState s (nth 0 allDies i) ∧
    field (corrRecord s at0 uncert) (68 + 16 * i) 2 ≤ 120 ∧
    (corrState s (nth 0 allDies i) = 0 → field (corrRecord s at0 uncert) (72 + 16 * i) 8 = tget 0 at0 (nth 0 allDies i) % 2 ^ 64) := by
  have hf := corrEntry_fields s at0 uncert (nth 0 allDies i) i (allDies_entry i hi).2
  rw [← corrRecord_entry s at0 uncert hi (by decide), ← corrRecord_entry s at0 uncert hi (by decide),
    ← corrRecord_entry s at0 uncert hi (by decide), ← corrRecord_entry s at0 uncert hi (by decide)] at hf
  simpa only [Nat.add_zero, Nat.add_right_comm 64 (16 * i), Nat.reduceAdd] using hf

/-- Settles O39: each command is its equation; the records by their fields. -/
theorem plannerEnergyAndClockCommands : Obligations.PlannerEnergyAndClockCommands := by
  refine ⟨fun s q n u c h => capSet_eq h, fun s q n u c h => modeSet_eq h, fun s q n u c h => ⟨budgetSet_bad h, fun b1 b2 b3 b4 b5 =>
      ⟨_, budgetSet_ok h b1 b2 b3 b4 b5, budgetSet_grants _ _ _ _⟩⟩,
    fun s q n u c h => ⟨fun hs => ?_, fun hs => ?_, fun l hs hl => ?_, fun hs hm => ?_, fun hs hm => ?_⟩,
    fun s q n l u c h => ⟨clockCorr_leaves h l, fun m hm hw => clockCorr_waits h l hm hw, fun m hm hw hn => ?_⟩⟩
  · obtain ⟨h1, h2⟩ := h.ids
    refine (cmdOut_started h _).trans ?_
    simp only [energyReadS, if_pos hs, h1, h2]
    rfl
  · have hl := energyRecord_length (s := s) (u := u) _ (energyEntries_length (s := s) (u := u) (c := c) 0)
    have he {o k : Nat} (ho : o + k ≤ 16) := energyRecord_entry (s := s) (u := u) (energyEntries s u c 0) (energyEntries_length 0)
      (i := 0) (o := o) (k := k) (e := energyEntry c.ctx 0 (tget 0 s.pwr.eCtx c.ctx)) rfl ho
    have hx := energyRead_ok h hs (by omega) (by omega)
    rw [hl] at hx
    refine ⟨_, hx, hl, energyRecord_magic _, energyRecord_count _, ?_, ?_, ?_⟩
    · rw [← energyEntry_id c.ctx 0 (tget 0 s.pwr.eCtx c.ctx)]; exact he (o := 0) (by omega)
    · exact (he (o := 2) (by omega)).trans (energyEntry_kind ..)
    · exact (he (o := 8) (by omega)).trans (energyEntry_energy ..)
  · have es : energyEntries s u c 1 = l.map (fun e => energyEntry e.1 1 (tget 0 s.pwr.eQueue e.1)) := by rw [hl]; rfl
    have hlen := energyRecord_length (s := s) (u := u) _ (energyEntries_length (s := s) (u := u) (c := c) 1)
    have hx := energyRead_ok h hs (by omega) (by omega)
    have hcnt := energyRecord_count (s := s) (u := u) (energyEntries s u c 1)
    have hlm : (energyEntries s u c 1).length = l.length := by rw [es, List.length_map]
    rw [hlm] at hlen hcnt
    rw [hlen] at hx
    refine ⟨_, hx, hlen, energyRecord_magic _, hcnt, fun i e hi => ?_⟩
    have he {o k : Nat} (ho : o + k ≤ 16) := energyRecord_entry (s := s) (u := u) (energyEntries s u c 1) (energyEntries_length 1)
      (i := i) (o := o) (k := k) (e := energyEntry e.1 1 (tget 0 s.pwr.eQueue e.1)) (by rw [es, List.getElem?_map, hi]; rfl) ho
    refine ⟨(he (o := 0) (by omega)).trans (energyEntry_id ..), ?_, ?_⟩
    · rw [show 66 + 16 * i = 64 + 16 * i + 2 by omega, he (by omega), energyEntry_kind]
    · rw [show 72 + 16 * i = 64 + 16 * i + 8 by omega, he (by omega), energyEntry_energy]
  · obtain ⟨h1, h2⟩ := h.ids
    refine (cmdOut_started h _).trans ?_
    have hn : ¬ 2 < par c 8 1 := by omega
    simp only [energyReadS, if_neg hn, if_pos (And.intro hs hm), h1, h2]
    rfl
  · have hlen := energyRecord_length (s := s) (u := u) _ (energyEntries_length (s := s) (u := u) (c := c) 2)
    have hx := energyRead_ok h hs (by omega) (fun _ => hm)
    rw [hlen] at hx
    have he {i : Nat} {e : List Byte} (hi : (energyEntries s u c 2)[i]? = some e) {o k : Nat} (ho : o + k ≤ 16) :=
      energyRecord_entry (s := s) (u := u) (energyEntries s u c 2) (energyEntries_length 2) hi ho
    refine ⟨_, hx, hlen, energyRecord_magic _, energyRecord_count _, energyRecord_die _, energyRecord_ref _, fun p hp => ?_, ?_, ?_⟩
    · rw [show 72 + 16 * p = 64 + 16 * p + 8 by omega,
        he (e := energyEntry p 2 (tget 0 s.pwr.ePart p)) (by
          show (((List.range 10).map _) ++ _)[p]? = _
          rw [List.getElem?_append_left (by simpa using hp)]
          simp [hp]) (by omega), energyEntry_energy]
    · exact (he (i := 10) (e := energyEntry 0 3 s.pwr.ePort) rfl (o := 8) (by omega)).trans (energyEntry_energy ..)
    · exact (he (i := 11) (e := energyEntry 0 4 s.pwr.eIn) rfl (o := 8) (by omega)).trans (energyEntry_energy ..)
  · have hk := hostWrite_keeps u.pasid (par c 0 8) (corrRecord s m l) (makeRecord m l s)
    have hs : Started (hostWrite u.pasid (par c 0 8) (corrRecord s m l) (makeRecord m l s)) q n 0x0C01 u c :=
      h.of_queues (congrArg Pwr.phase hk.pwr) hk.queues
    obtain ⟨h1, h2, h3⟩ := corrRecord_header s m l
    exact ⟨_, corrRecord s m l, clockCorr_back h l hm hw hn, finishCmd_replies hs _ _,
      congrArg (fun c : Clk => { c with marker := none, corrWait := [] }) (hk.clk), hk.mem, corrRecord_length .., h1, h2, h3,
      fun i hi => corrRecord_entries s m l hi⟩

/-! ### CAL_READ and CAL_WRITE (O40) -/

section
variable {s : State} {q n : Nat} {u : Queue} {c : TakenCmd}

theorem calRead_eq (h : Started s q n 0x0B01 u c) : exec (.calRead q n) s = .next (
    if s.pwr.calDefault then finishCmd q n 0x0061 0 s
    else if par c 8 4 < 77824 then finishCmd q n 0x0015 0 s
    else finishCmd q n 0 77824 (hostWrite u.pasid (par c 0 8) (storedSet s) s)) := by
  obtain ⟨h1, h2⟩ := h.ids
  refine (cmdOut_started h _).trans ?_
  simp only [calReadS, h1, h2]
  rfl

theorem calWrite_eq (h : Started s q n 0x0B02 u c) : exec (.calWrite q n) s = .next (
    if 10000 ≤ s.pwr.writes then finishCmd q n 0x0062 0 s
    else if par c 8 4 ≠ 77824 ∨ ¬ calValid (hostRead s u.pasid (par c 0 8) 77824) then finishCmd q n 0x0061 0 s
    else finishCmd q n 0 0 (raise pd0 0x0037 0 0 (s.pwr.writes + 1) 0 0 { s with pwr := { s.pwr with
      writes := s.pwr.writes + 1,
      calNext := some ((hostRead s u.pasid (par c 0 8) 77824).take 6 ++ [1] ++ (hostRead s u.pasid (par c 0 8) 77824).drop 7) } })) := by
  obtain ⟨h1, h2⟩ := h.ids
  refine (cmdOut_started h _).trans ?_
  simp only [calWriteS, h1, h2]
  rfl

end

/-- A set with its ORIGIN byte written. -/
theorem setOrigin_get (l : List Byte) (h : l.length = 77824) :
    (l.take 6 ++ [1] ++ l.drop 7).length = 77824 ∧ (l.take 6 ++ [1] ++ l.drop 7)[6]? = some 1 ∧
    ∀ i, i ≠ 6 → (l.take 6 ++ [1] ++ l.drop 7)[i]? = l[i]? := by
  have h6 : (l.take 6).length = 6 := by simp [h]
  refine ⟨by simp [h], ?_, fun i hi => ?_⟩
  · rw [List.getElem?_append_left (by simp [h]), List.getElem?_append_right (by omega), h6]; rfl
  · rcases Nat.lt_or_gt_of_ne hi with h1 | h1
    · rw [List.getElem?_append_left (by simp [h]; omega), List.getElem?_append_left (by omega), List.getElem?_take_of_lt h1]
    · rw [List.getElem?_append_right (by simp [h]; omega), List.getElem?_drop]
      congr 1
      simp [h]; omega

/-- Settles O40: the two commands by their equations. -/
theorem calibrationCommands : Obligations.CalibrationCommands := by
  refine ⟨fun s q n u c h => calRead_eq h, fun s q n u c h => ⟨fun w => ?_, fun w p => ?_, fun w p => ?_⟩⟩
  · rw [calWrite_eq h, if_pos w]
  · rw [calWrite_eq h, if_neg (by omega), if_pos (.inl p)]
  · refine ⟨_, calWrite_eq h, fun v => ?_, fun v => ?_, ?_⟩
    · rw [if_neg (by omega), if_pos (.inr (by simp [v]))]
    · rw [if_neg (by omega), if_neg (by simp [v, p])]
      refine ⟨finishCmd_replies (by exact h) _ _, rfl, rfl, rfl, _, rfl, setOrigin_get _ ?_⟩
      simp [hostRead]
    · (repeat' split) <;> exact ⟨rfl, rfl, rfl⟩

end Sys2Proof.Machine
end

section
/-! PROOF. BAR2 writes, seal words, taking and starting; replies and event records. -/

namespace Sys2Proof.Machine

/-! ### Tables written byte by byte -/

/-- What a table holds at a key after a list of keys was set one by one: each key of the list its value. -/
theorem tget_foldl_tset_on {α : Type} [DecidableEq α] (d : α) (f : Nat → Nat) (v : Nat → α) (l : List Nat) (hl : l.Nodup)
    (hf : ∀ i ∈ l, ∀ j ∈ l, f i = f j → i = j) (t : Tbl α) {j : Nat} (hj : j ∈ l) :
    tget d (l.foldl (fun m i => tset d m (f i) (v i)) t) (f j) = v j := by
  induction l generalizing t with
  | nil => simp at hj
  | cons a r ih =>
    obtain ⟨ha, hr⟩ := List.nodup_cons.1 hl
    rw [List.foldl_cons]
    by_cases h : j ∈ r
    · exact ih hr (fun i hi k hk => hf i (List.mem_cons_of_mem _ hi) k (List.mem_cons_of_mem _ hk)) _ h
    · obtain rfl : j = a := (List.mem_cons.1 hj).resolve_right h
      rw [tget_foldl_tset_other d f v r _ _ fun i hi e =>
        h (hf i (List.mem_cons_of_mem _ hi) j List.mem_cons_self e ▸ hi), tget_tset, if_pos rfl]

theorem putWindow_byte (off : Nat) (bs : List Byte) (s : State) {i : Nat} (h : i < bs.length) :
    tget 0 (putWindow off bs s).cmd.window (off + i) = nth 0 bs i :=
  tget_foldl_tset_on 0 (fun i => off + i) (fun i => nth 0 bs i) _ List.nodup_range (fun _ _ _ _ e => Nat.add_left_cancel e) _
    (List.mem_range.2 h)

theorem putWindow_other (off : Nat) (bs : List Byte) (s : State) {a : Nat} (h : a < off ∨ off + bs.length ≤ a) :
    tget 0 (putWindow off bs s).cmd.window a = tget 0 s.cmd.window a :=
  tget_foldl_tset_other 0 (fun i => off + i) (fun i => nth 0 bs i) _ _ _ (fun i hi e => by
    have := List.mem_range.1 hi; omega)

/-- The bytes just written read back. -/
theorem windowBytes_putWindow (off : Nat) (bs : List Byte) (s : State) : windowBytes (putWindow off bs s) off bs.length = bs := by
  refine List.ext_getElem (by simp [windowBytes]) fun i h1 h2 => ?_
  simp only [windowBytes, List.getElem_map, List.getElem_range]
  rw [putWindow_byte off bs s h2]
  simp [nth, h2]

/-! ### BAR2 writes and seal words (R387-R389) -/

theorem sealAt_window (o : Nat) (s : State) : (sealAt o s).cmd.window = s.cmd.window := by
  unfold sealAt
  dsimp only
  split
  · unfold sealCheck
    split
    · rfl
    · dsimp only; (repeat' split) <;> rfl
  · rfl

theorem foldl_window {α : Type} {f : State → α → State} (h : ∀ s a, (f s a).cmd.window = s.cmd.window) (l : List α) (s : State) :
    (l.foldl f s).cmd.window = s.cmd.window := by
  induction l generalizing s with
  | nil => rfl
  | cons a r ih => rw [List.foldl_cons, ih, h]

theorem bar2Write_eq {s : State} {off : Nat} {d : List Byte} (hl : off + d.length ≤ 2 ^ 26)
    {u : Queue} (hu : tget? s.cmd.queues (off / 65536) = some u) :
    bar2WriteS off d s = (List.range ((off + d.length) / 8 - (off + 7) / 8)).foldl (fun s i => sealAt (8 * ((off + 7) / 8 + i)) s) (putWindow off d s) := by
  unfold bar2WriteS
  rw [if_neg (by omega), if_neg (by simp [hu])]

theorem exec_bar2Write {s : State} (h : s.pwr.phase = .ready) (b : busUp s = true) (off : Nat) (d : List Byte) :
    exec (.bar2Write off d) s = .next (bar2WriteS off d s) := by
  refine (ifUp_ready h).trans (congrArg _ ?_)
  simp only [b, guardS_true]

/-- A seal word's fields (R386). -/
theorem sealWord_bits {n l m : Nat} (hn : n < 2 ^ 32) (hl : l ≤ 8) (hm : m < 2 ^ 16) :
    bits (n + 2 ^ 32 * l + 2 ^ 48 * m) 31 0 = n ∧ bits (n + 2 ^ 32 * l + 2 ^ 48 * m) 35 32 = l ∧
    bits (n + 2 ^ 32 * l + 2 ^ 48 * m) 47 36 = 0 ∧ bits (n + 2 ^ 32 * l + 2 ^ 48 * m) 63 48 = m := by
  simp only [bits]
  omega

/-- A seal word in slot `j` of queue `q` is checked as that slot's. -/
theorem sealWord_checked {s : State} {q j n l m : Nat} {u : Queue} (h : s.pwr.phase = .ready) (b : busUp s = true) (hq : q < 1024)
    (hj : j < 128) (hu : tget? s.cmd.queues q = some u) (hn : n < 2 ^ 32) (h1 : 1 ≤ l) (h8 : l ≤ 8) (hm : m < 2 ^ 16) :
    exec (.sealWord (q * 65536 + j * 512 + 64 * l - 8) (n + 2 ^ 32 * l + 2 ^ 48 * m)) s =
      .next (sealCheck q j (n + 2 ^ 32 * l + 2 ^ 48 * m)
        (putWindow (q * 65536 + j * 512 + 64 * l - 8) (leBytes 8 (n + 2 ^ 32 * l + 2 ^ 48 * m)) s)) := by
  generalize ho : q * 65536 + j * 512 + 64 * l - 8 = off
  generalize hw : n + 2 ^ 32 * l + 2 ^ 48 * m = w
  have hw64 : w < 2 ^ 64 := by omega
  have hoq : off / 65536 = q := by omega
  have hoj : off % 65536 / 512 = j := by omega
  have ho8 : off % 8 = 0 := by omega
  have hol : off % 512 = 64 * l - 8 := by omega
  obtain ⟨b1, b2, b3, b4⟩ := sealWord_bits hn h8 hm
  rw [hw] at b2
  refine (ifUp_ready h).trans (congrArg _ ?_)
  have hr := windowBytes_putWindow off (leBytes 8 w) s
  rw [length_leBytes] at hr
  simp only [b, ho8, decide_true, Bool.and_self, guardS_true]
  rw [bar2Write_eq (by rw [length_leBytes]; omega) (u := u) (by rw [hoq]; exact hu), length_leBytes,
    show (off + 8) / 8 - (off + 7) / 8 = 1 by omega]
  simp only [List.range_one, List.foldl_cons, List.foldl_nil, Nat.add_zero]
  rw [show 8 * ((off + 7) / 8) = off by omega]
  unfold sealAt
  rw [hr, leNat_leBytes, Nat.mod_eq_of_lt (by omega)]
  dsimp only
  rw [b2, if_pos ⟨h1, h8, hol⟩, hoq, hoj]

theorem setQueue_get {s : State} {q : Nat} {u : Queue} (hu : tget? s.cmd.queues q = some u) (f : Queue → Queue) :
    tget? (setQueue q f s).cmd.queues q = some (f u) := by
  simp [setQueue, hu]

theorem setQueue_get_other (s : State) {q k : Nat} (hk : k ≠ q) (f : Queue → Queue) :
    tget? (setQueue q f s).cmd.queues k = tget? s.cmd.queues k := by
  simp [setQueue, hk.symm]

theorem stopQueue_stops {s : State} {q : Nat} {u : Queue} (hu : tget? s.cmd.queues q = some u) (cause n : Nat) :
    QueueStops s (stopQueue q cause n u s) q u cause n :=
  ⟨_, setQueue_get hu _, rfl, rfl, rfl, rfl, rfl, rfl⟩

/-- The check of a seal word, by the order of R398's table. -/
theorem sealCheck_cases {s : State} {q j w : Nat} {u : Queue} (hu : tget? s.cmd.queues q = some u) (on : queueOn s q u = true)
    (hr : bits w 47 36 = 0) :
    sealCheck q j w s =
      if bits w 31 0 % 128 ≠ j then stopQueue q 0x0011 (bits w 31 0) u s
      else if 2 ^ 31 ≤ seqDiff (bits w 31 0) u.next then setQueue q (fun u => { u with stale := satAdd 65535 u.stale 1 }) s
      else if 128 ≤ seqDiff (bits w 31 0) (creditOf u) then stopQueue q 0x0012 (bits w 31 0) u s
      else if bits w 63 48 ≠ 0x5EA1 then stopQueue q 0x0010 (bits w 31 0) u s
      else setQueue q (fun u => { u with sealed := u.sealed.filter (fun e => !decide (e.1 = bits w 31 0)) ++ [(bits w 31 0, bits w 35 32)] }) s := by
  unfold sealCheck
  rw [hu]
  simp only [on, hr, not_true, if_false, ne_eq, or_false]
  rfl

theorem sealCheck_keeps (q j w : Nat) (s : State) :
    (∀ k, k ≠ q → tget? (sealCheck q j w s).cmd.queues k = tget? s.cmd.queues k) ∧ (sealCheck q j w s).mem = s.mem := by
  unfold sealCheck
  split
  · exact ⟨fun _ _ => rfl, rfl⟩
  · dsimp only
    split
    · exact ⟨fun _ _ => rfl, rfl⟩
    · (repeat' split) <;> exact ⟨fun k hk => setQueue_get_other s hk _, rfl⟩

/-! ### Taking (R390) -/

/-- The command that a packet becomes. -/
def takenOf (s : State) (u : Queue) (pkt : List Byte) (n l : Nat) : TakenCmd where
  seq := n
  op := field pkt 4 2
  flags := field pkt 7 1
  energy := field pkt 8 4
  ctx := field pkt 12 2
  tag := field pkt 16 8
  pkt := pkt
  phase := match packetRefusal s u pkt l with
    | some st => .done st 0
    | none => .taken
  admitted := false
  shares := []
  used := 0
  startAt := 0

theorem takePacket_eq {s : State} {q n l : Nat} {u : Queue} (h : s.pwr.phase = .ready) (r : s.cmd.ready = true) (d : s.pci.d3hot = false)
    (hu : tget? s.cmd.queues q = some u) (on : queueOn s q u = true) (ht : ∀ c ∈ u.cmds, c.phase ≠ .taken) (hb : bar4Pending s = false)
    (hs : u.sealed.find? (fun e => decide (e.1 = u.next)) = some (n, l)) :
    exec (.takePacket q) s = .next (
      let pkt := windowBytes s (q * 65536 + n % 128 * 512) (64 * l)
      if field pkt 0 4 ≠ n ∨ field pkt 6 1 ≠ l then stopQueue q stBadPacket n u s
      else setQueue q (fun u' => { u' with
        next := (n + 1) % 2 ^ 32, sealed := u'.sealed.filter (fun e => !decide (e.1 = n)),
        cmds := u'.cmds ++ [takenOf s u pkt n l] }) s) := by
  refine (ifUp_ready h).trans (congrArg _ ?_)
  unfold takePacketS
  have hany : u.cmds.any (fun c => decide (c.phase = .taken)) = false := by simpa using ht
  rw [hu]
  simp only [r, d, on, hany, hb, hs, not_true, Bool.false_eq_true, or_false, if_false]
  rfl

/-! ### Starting (R391, R530) -/

/-- A debit touches the pools and remaining budgets alone. -/
theorem debitShare_frame (k e : Nat) (s : State) :
    ∃ p r, debitShare k e s = { s with pwr := { s.pwr with pool := p, remaining := r } } := by
  unfold debitShare
  split
  · exact ⟨s.pwr.pool, s.pwr.remaining, rfl⟩
  · split
    · exact ⟨_, s.pwr.remaining, rfl⟩
    · exact ⟨s.pwr.pool, _, rfl⟩

theorem debitShares_frame (l : List (Nat × Nat)) (s : State) :
    ∃ p r, l.foldl (fun s e => debitShare e.1 e.2 s) s = { s with pwr := { s.pwr with pool := p, remaining := r } } := by
  induction l generalizing s with
  | nil => exact ⟨s.pwr.pool, s.pwr.remaining, rfl⟩
  | cons a r ih =>
    obtain ⟨p1, r1, e1⟩ := debitShare_frame a.1 a.2 s
    obtain ⟨p2, r2, e2⟩ := ih { s with pwr := { s.pwr with pool := p1, remaining := r1 } }
    exact ⟨p2, r2, by rw [List.foldl_cons, e1, e2]⟩

theorem startLaunch_keeps (q n : Nat) (s : State) : (startLaunch q n s).cmd = s.cmd ∧ (startLaunch q n s).mem = s.mem ∧ (startLaunch q n s).ten = s.ten := by
  unfold startLaunch
  split
  · split <;> exact ⟨rfl, rfl, rfl⟩
  · exact ⟨rfl, rfl, rfl⟩

theorem launchOf_listed {s : State} {q n k : Nat} {l : Launch} (h : launchOf s q n = some (k, l)) : (tget? s.sch.launches k).isSome := by
  have hm := List.mem_of_find?_eq_some h
  clear h
  generalize s.sch.launches = t at hm ⊢
  induction t with
  | nil => simp at hm
  | cons a r ih =>
    obtain ⟨j, v⟩ := a
    rw [tget?_cons]
    split
    · rfl
    · next e =>
      rcases List.mem_cons.1 hm with h | h
      · exact absurd (congrArg Prod.fst h).symm e
      · exact ih h

theorem startLaunch_placed {s : State} {q n k : Nat} {l : Launch} (h : launchOf s q n = some (k, l)) (p : l.ph = .placed) :
    (tget? (startLaunch q n s).sch.launches k).map (·.ph) = some .running := by
  unfold startLaunch
  rw [h]
  simp only [p, if_true, setLaunch, tget?_tupd]
  obtain ⟨v, hv⟩ := Option.isSome_iff_exists.1 (launchOf_listed h)
  simp [hv]

theorem startLaunch_none {s : State} {q n : Nat} (h : launchOf s q n = none) : startLaunch q n s = s := by
  unfold startLaunch; rw [h]

section
variable {s : State} {q n : Nat} {u : Queue} {c : TakenCmd} (h : s.pwr.phase = .ready) (hu : tget? s.cmd.queues q = some u)
  (hc : u.cmds.find? (fun c => decide (c.seq = n)) = some c)
include h hu hc

theorem commandStart_stopped (t : s.pin.trayStop = true) : exec (.commandStart q n) s = .next s := by
  refine (ifUp_ready h).trans (congrArg _ ?_)
  unfold commandStartS
  rw [hu]
  simp [hc, t]

theorem commandStart_eq (t : s.pin.trayStop = false) (hr : readyToAdmit s q u c = true)
    (ha : admitAhead s c.ctx (admitPart u (sharesOf s q u c)) = false) :
    exec (.commandStart q n) s = .next (
      if admits s (sharesOf s q u c) (admitPart u (sharesOf s q u c)) then
        (let s' := (sharesOf s q u c).foldl (fun s e => debitShare e.1 e.2 s) s
         startLaunch q n (setCmd q n (fun x => { x with
          phase := .started, admitted := true, shares := sharesOf s q u c,
          pooled := ((sharesOf s q u c).filter (fun e => decide (fits s e.1 e.2 = some true))).map (·.1),
          startAt := refOf s' (cplxDie u.cplx) }) s'))
      else if fixedHold s (admitPart u (sharesOf s q u c)) then fixedDelay (admitPart u (sharesOf s q u c)) s
      else s) := by
  refine (ifUp_ready h).trans (congrArg _ ?_)
  unfold commandStartS
  rw [hu]
  simp only [hc, t, hr, ha, Bool.false_eq_true, not_true, or_self, if_false]

/-- An admitted command is started at its complex's count, with its shares debited. -/
theorem commandStart_admitted (t : s.pin.trayStop = false) (hr : readyToAdmit s q u c = true)
    (ha : admitAhead s c.ctx (admitPart u (sharesOf s q u c)) = false)
    (ok : admits s (sharesOf s q u c) (admitPart u (sharesOf s q u c)) = true) :
    ∃ t v d, exec (.commandStart q n) s = .next t ∧ tget? t.cmd.queues q = some v ∧
      v.cmds.find? (fun c => decide (c.seq = n)) = some d ∧ d.phase = .started ∧ d.admitted = true ∧ d.startAt = refOf s (cplxDie u.cplx) ∧
      d.shares = sharesOf s q u c ∧ d.pkt = c.pkt ∧ d.op = c.op ∧ t.mem = s.mem ∧ t.ten = s.ten ∧
      (launchOf s q n = none → t.sch = s.sch) ∧
      (∀ k l, launchOf s q n = some (k, l) → l.ph = .placed → (tget? t.sch.launches k).map (·.ph) = some .running) := by
  obtain ⟨p, r, e⟩ := debitShares_frame (sharesOf s q u c) s
  have he := commandStart_eq h hu hc t hr ha
  rw [if_pos ok, e] at he
  dsimp only at he
  obtain ⟨k1, k2, k3⟩ := startLaunch_keeps q n (setCmd q n (fun x => { x with
    phase := .started, admitted := true, shares := sharesOf s q u c,
    pooled := ((sharesOf s q u c).filter (fun e => decide (fits s e.1 e.2 = some true))).map (·.1),
    startAt := refOf s (cplxDie u.cplx) }) { s with pwr := { s.pwr with pool := p, remaining := r } })
  refine ⟨_, _, _, he, (congrArg (fun c : CmdSt => tget? c.queues q) k1).trans (setQueue_get hu _),
    find?_map_seq u.cmds n _ ?_ c hc, rfl, rfl, rfl, rfl, rfl, rfl, k2, k3, fun hl => ?_, fun k l hl hp => ?_⟩
  · exact fun _ => rfl
  · rw [startLaunch_none (by exact hl)]; rfl
  · exact startLaunch_placed (by exact hl) hp

end

/-- Settles O32: BAR2 writes byte by byte and seal word by seal word, taking and starting by their equations. -/
theorem postingTakingAndStarting : Obligations.PostingTakingAndStarting := by
  refine ⟨fun s off d h b hl => ⟨fun hn => ?_, fun hn => ?_⟩, fun s q u j n l m h b hq hj hu on hn h1 h8 hm => ?_,
    fun s q u n l p h r d hu on ht hb hs hp => ⟨fun hbad => ?_, fun g1 g2 => ?_⟩,
    fun s q u c n h hu hc => ⟨commandStart_stopped h hu hc, fun t hr ha => ⟨fun no nf => ?_, commandStart_admitted h hu hc t hr ha⟩⟩⟩
  · rw [exec_bar2Write h b]
    refine congrArg _ ?_
    unfold bar2WriteS
    rw [if_neg (by omega), if_pos (by simp [hn])]
    rfl
  · obtain ⟨u, hu⟩ := Option.isSome_iff_exists.1 hn
    have hw := foldl_window (f := fun s i => sealAt (8 * ((off + 7) / 8 + i)) s) (fun s i => sealAt_window _ s)
      (List.range ((off + d.length) / 8 - (off + 7) / 8)) (putWindow off d s)
    refine ⟨_, (exec_bar2Write h b off d).trans (congrArg _ (bar2Write_eq hl hu)), fun i hi => ?_, fun a ha => ?_, fun h8 => ?_⟩
    · rw [hw]; exact putWindow_byte off d s hi
    · rw [hw]; exact putWindow_other off d s ha
    · rw [show (off + d.length) / 8 - (off + 7) / 8 = 0 by omega]; rfl
  · generalize hv : putWindow (q * 65536 + j * 512 + 64 * l - 8) (leBytes 8 (n + 2 ^ 32 * l + 2 ^ 48 * m)) s = v
    have hx := sealWord_checked h b hq hj hu hn h1 h8 hm
    rw [hv] at hx
    obtain ⟨b1, b2, b3, b4⟩ := sealWord_bits hn h8 hm
    have hvq : v.cmd.queues = s.cmd.queues := by rw [← hv]; rfl
    have hvu : tget? v.cmd.queues q = some u := by rw [hvq]; exact hu
    have hvon : queueOn v q u = true := by rw [← hv]; exact on
    obtain ⟨k1, k2⟩ := sealCheck_keeps q j (n + 2 ^ 32 * l + 2 ^ 48 * m) v
    refine ⟨_, hx, fun k hk => (k1 k hk).trans (by rw [hvq]), k2.trans (by rw [← hv]; rfl), ?_⟩
    rw [sealCheck_cases hvu hvon b3, b1, b2, b4]
    have hst (ca k : Nat) : QueueStops s (stopQueue q ca k u v) q u ca k := by
      obtain ⟨w, e1, e2, e3, e4, e5, e6, e7⟩ := stopQueue_stops hvu ca k
      refine ⟨w, e1, e2, e3, e4, e5, e6, ?_⟩
      rw [← hv] at e7 ⊢
      exact e7
    have hev : v.cmd.evq = s.cmd.evq := by rw [← hv]; rfl
    (repeat' split)
    · exact hst ..
    · exact ⟨setQueue_get hvu _, hev⟩
    · exact hst ..
    · exact hst ..
    · exact ⟨setQueue_get hvu _, hev⟩
  · refine ⟨_, takePacket_eq h r d hu on ht hb hs, ?_⟩
    rw [← hp]
    dsimp only
    rw [if_pos hbad]
    exact stopQueue_stops hu _ _
  · have hx := takePacket_eq h r d hu on ht hb hs
    rw [← hp] at hx
    dsimp only at hx
    rw [if_neg (by simp [g1, g2])] at hx
    exact ⟨_, _, _, hx, setQueue_get hu _, rfl, rfl, rfl, rfl, rfl, rfl, rfl, rfl, rfl, rfl, fun j hj => setQueue_get_other s hj _, rfl⟩
  · rw [commandStart_eq h hu hc t hr ha, no, nf]; rfl

end Sys2Proof.Machine
end

section
/-! PROOF. Replies and event records. -/

namespace Sys2Proof.Machine

/-! ### Bytes posted to host memory -/

theorem hkey_inj (p : Option Nat) (a : Nat) {n : Nat} (hn : n ≤ 2 ^ 64) : ∀ i ∈ List.range n, ∀ j ∈ List.range n,
    hkey p (a + i) = hkey p (a + j) → i = j := by
  intro i hi j hj e
  have hi := List.mem_range.1 hi
  have hj := List.mem_range.1 hj
  unfold hkey at e
  split at e <;> omega

/-- Bytes posted read back from host memory. -/
theorem hostPost_byte (p : Option Nat) (a : Nat) (bs : List Byte) (s : State) (hn : bs.length ≤ 2 ^ 64) {i : Nat} (hi : i < bs.length) :
    tget 0 (hostPost p a bs s).host.mem (hkey p (a + i)) = nth 0 bs i :=
  tget_foldl_tset_on 0 (fun i => hkey p (a + i)) (fun i => nth 0 bs i) _ List.nodup_range (hkey_inj p a hn) _ (List.mem_range.2 hi)

/-! ### Interrupts and credits -/

theorem raiseMsix_unmasked {v : Nat} {s : State} (f : s.pci.functionMask = false) (u : v ∈ s.pci.unmasked) :
    raiseMsix v s = { s with pci := { s.pci with msix := s.pci.msix ++ [v] } } := by
  simp [raiseMsix, f, u]

theorem creditBack_frame (c : TakenCmd) (s : State) :
    ∃ r, creditBack c s = { s with pwr := { s.pwr with remaining := r } } := by
  unfold creditBack
  split
  · generalize c.shares.filter _ = l
    induction l generalizing s with
    | nil => exact ⟨s.pwr.remaining, rfl⟩
    | cons a r ih => exact ih _
  · exact ⟨s.pwr.remaining, rfl⟩

theorem tget?_tmap {α : Type} (t : Tbl α) (f : Nat → α → α) (k : Nat) : tget? (tmap t f) k = (tget? t k).map (f k) := by
  induction t with
  | nil => rfl
  | cons a r ih =>
    obtain ⟨j, v⟩ := a
    show tget? ((j, f j v) :: tmap r f) k = _
    rw [tget?_cons, tget?_cons]
    split
    · next e => subst e; rfl
    · exact ih

/-- What the last reply of queue `q` makes of a command of queue `k`, of record `u`: a bound that waited for it begins. -/
def lastReplyMark (s : State) (q k : Nat) (u : Queue) (c : TakenCmd) : TakenCmd :=
  let mine := ((tget? s.cmd.queues q).map (fun u => (u.cmds.map (fun c => (q, c.seq))))).getD []
  let names := fun c : TakenCmd => decide ((c.op = 0x0105 ∧ par c 0 2 = q) ∨ (c.op = 0x0106 ∧ par c 4 2 = q))
  if names c && mine.all (fun e => decide (e = (k, c.seq))) then { c with boundAt := some (refOf s (cplxDie u.cplx)), paused := 0 } else c

theorem lastReplyMark_keeps (s : State) (q k : Nat) (u : Queue) (c : TakenCmd) : (lastReplyMark s q k u c).seq = c.seq ∧
    (lastReplyMark s q k u c).op = c.op ∧ (lastReplyMark s q k u c).phase = c.phase := by
  unfold lastReplyMark
  dsimp only
  split <;> exact ⟨rfl, rfl, rfl⟩

theorem markQueue_get (q k : Nat) (s : State) {u : Queue} (hu : tget? s.cmd.queues k = some u) :
    tget? (markQueue q s).cmd.queues k = some { u with cmds := u.cmds.map (lastReplyMark s q k u) } := by
  unfold markQueue
  dsimp only
  rw [tget?_tmap, hu]
  rfl

/-- The credit of a queue is that of its commands' numbers and its NEXT. -/
theorem creditOf_map (u : Queue) (g : TakenCmd → TakenCmd) (hg : ∀ c, (g c).seq = c.seq) (r : Nat) :
    creditOf { u with cmds := u.cmds.map g, replies := r } = creditOf u := by
  unfold creditOf
  cases u.cmds with
  | nil => rfl
  | cons c l => simp [hg]

/-! ### REPLY (R393-R396) -/

theorem replyBytes_length (s : State) (u : Queue) (ph n st tag cr d : Nat) : (replyBytes s u ph n st tag cr d).length = 32 := by
  simp [replyBytes]

theorem replyBytes_fields (s : State) (u : Queue) {ph n st d : Nat} (tag cr : Nat) (hn : n < 2 ^ 32) (hs : st < 2 ^ 16) (hd : d < 2 ^ 32)
    (hp : ph ≤ 1) (b : List Byte) (hb : b = replyBytes s u ph n st tag cr d) :
    field b 0 4 = n ∧ field b 4 2 = st ∧ field b 6 1 = ph ∧ field b 7 1 = cplxDie u.cplx ∧ field b 8 8 = tag % 2 ^ 64 ∧
      field b 16 4 = cr % 2 ^ 32 ∧ field b 20 4 = d ∧ field b 24 8 = refOf s (cplxDie u.cplx) % 2 ^ 64 := by
  have hc : cplxDie u.cplx < 256 := by unfold cplxDie; split <;> decide
  subst hb
  unfold replyBytes
  refine ⟨?_, ?_, ?_, ?_, ?_, ?_, ?_, ?_⟩
  · simp only [List.append_assoc, field_leBytes_append]
    omega
  · simp only [List.append_assoc]
    rw [field_append_right (k := 0) (by simp), field_leBytes_append]; omega
  · simp only [List.append_assoc]
    rw [field_append_right (k := 2) (by simp), field_append_right (k := 0) (by simp), field_leBytes_append]; omega
  · simp only [List.append_assoc]
    rw [field_append_right (k := 3) (by simp), field_append_right (k := 1) (by simp), field_append_right (k := 0) (by simp),
      field_leBytes_append]
    omega
  · rw [field_append_left (by simp), field_append_left (by simp), field_append_left (by simp), field_append_right (k := 0) (by simp),
      field_leBytes]
    norm_num
  · rw [field_append_left (by simp), field_append_left (by simp), field_append_right (k := 0) (by simp), field_leBytes]
    norm_num
  · rw [field_append_left (by simp), field_append_right (k := 0) (by simp), field_leBytes]
    omega
  · rw [field_append_right (k := 0) (by simp), field_leBytes]
    norm_num

/-- A reply stands at the next entry of its queue's ring, and its queue counts it. -/
theorem writeReply_eq {s : State} {q : Nat} {u : Queue} (hu : tget? s.cmd.queues q = some u) (n st tag cr d : Nat) :
    writeReply q n st tag cr d s = setQueue q (fun u => { u with replies := u.replies + 1 })
      (logHost u.pasid ((ringOf s q u).1 + 32 * (u.replies % 2 ^ (ringOf s q u).2.1)) 32
        (hostPost u.pasid ((ringOf s q u).1 + 32 * (u.replies % 2 ^ (ringOf s q u).2.1))
          (replyBytes s u (1 - u.replies / 2 ^ (ringOf s q u).2.1 % 2) n st tag cr d) s)) := by
  unfold writeReply
  rw [hu]

theorem writeReply_spec {s : State} {q : Nat} {u : Queue} (hu : tget? s.cmd.queues q = some u) (n st tag cr d : Nat) :
    tget? (writeReply q n st tag cr d s).cmd.queues q = some { u with replies := u.replies + 1 } ∧
    (∀ i < 32, tget 0 (writeReply q n st tag cr d s).host.mem
        (hkey u.pasid ((ringOf s q u).1 + 32 * (u.replies % 2 ^ (ringOf s q u).2.1) + i)) =
      nth 0 (replyBytes s u (1 - u.replies / 2 ^ (ringOf s q u).2.1 % 2) n st tag cr d) i) ∧
    (writeReply q n st tag cr d s).pci = s.pci ∧ (writeReply q n st tag cr d s).mem = s.mem ∧
    (writeReply q n st tag cr d s).xt = s.xt ∧ (writeReply q n st tag cr d s).sch = s.sch ∧
    (writeReply q n st tag cr d s).cmd.q0vec = s.cmd.q0vec := by
  rw [writeReply_eq hu]
  generalize hb : replyBytes s u _ n st tag cr d = b
  generalize (ringOf s q u).1 + 32 * (u.replies % 2 ^ (ringOf s q u).2.1) = a
  have hl : b.length = 32 := by rw [← hb]; exact replyBytes_length ..
  have hk := logHost_keeps u.pasid a 32 (hostPost u.pasid a b s)
  refine ⟨setQueue_get (by rw [hk.queues]; exact hu) _, fun i hi => ?_, hk.pci, hk.mem, hk.xt, hk.sch, hk.q0vec⟩
  show tget 0 (logHost u.pasid a 32 (hostPost u.pasid a b s)).host.mem _ = _
  rw [logHost_host]
  exact hostPost_byte u.pasid a b s (by rw [hl]; decide) (by omega)

/-- The end of a reply: the energy credited back and the vector, for a command that destroys no queue. -/
theorem replyTail_spec (c : TakenCmd) (v : Nat) (x : State) (hf : x.pci.functionMask = false) (hv : v ∈ x.pci.unmasked) :
    ∃ r m, (if bitOf c.flags 1 then raiseMsix v (creditBack c x) else creditBack c x) =
      { x with pwr := { x.pwr with remaining := r }, pci := { x.pci with msix := m } } ∧
      m = x.pci.msix ++ (if bitOf c.flags 1 then [v] else []) := by
  obtain ⟨r, hb⟩ := creditBack_frame c x
  rw [hb]
  split
  · exact ⟨r, _, raiseMsix_unmasked (by exact hf) (by exact hv), rfl⟩
  · exact ⟨r, x.pci.msix, rfl, (List.append_nil _).symm⟩

theorem reply_waits {s : State} {q n : Nat} {u : Queue} {c : TakenCmd} (h : s.pwr.phase = .ready) (hu : tget? s.cmd.queues q = some u)
    (hc : u.cmds.find? (fun c => decide (c.seq = n)) = some c)
    (w : cmdOutstanding s q n = true ∨ oldEntriesUsed s c = true ∨ c.retries.any (untried s) = true ∨ ∀ st d, c.phase ≠ .done st d) :
    exec (.reply q n) s = .next s := by
  refine (ifUp_ready h).trans (congrArg _ ?_)
  unfold replyS
  rw [hu]
  simp only [hc]
  split
  · next st d hp =>
    refine if_pos ?_
    rcases w with w | w | w | w
    · simp [w]
    · simp [w]
    · simp [w]
    · exact absurd hp (w st d)
  · rfl

theorem reply_writes {s : State} {q n st d : Nat} {u : Queue} {c : TakenCmd} (h : s.pwr.phase = .ready) (hu : tget? s.cmd.queues q = some u)
    (hc : u.cmds.find? (fun c => decide (c.seq = n)) = some c) (hp : c.phase = .done st d) (h1 : cmdOutstanding s q n = false)
    (h2 : oldEntriesUsed s c = false) (h3 : c.retries.any (untried s) = false) :
    exec (.reply q n) s = .next (replyCmd q u c st d s) := by
  refine (ifUp_ready h).trans (congrArg _ ?_)
  unfold replyS
  rw [hu]
  simp only [hc, hp, h1, h2, h3]
  rfl

/-- The reply of a command other than QUEUE_DESTROY: what it writes, and the queue without the command. -/
theorem replyCmd_spec {s : State} {q n : Nat} {u : Queue} {c : TakenCmd} (hu : tget? s.cmd.queues q = some u) (hn : c.seq = n) (st d : Nat)
    (ho : c.op ≠ 0x0105) (hf : s.pci.functionMask = false) (hv : (ringOf s q u).2.2 ∈ s.pci.unmasked) :
    ∃ (g : TakenCmd → TakenCmd) (v : Queue), (∀ c, (g c).seq = c.seq ∧ (g c).op = c.op ∧ (g c).phase = c.phase) ∧
      v = { u with cmds := (u.cmds.filter (fun x => !decide (x.seq = n))).map g, replies := u.replies + 1 } ∧
      tget? (replyCmd q u c st d s).cmd.queues q = some v ∧
      (∀ i < 32, tget 0 (replyCmd q u c st d s).host.mem (hkey u.pasid ((ringOf s q u).1 + 32 * (u.replies % 2 ^ (ringOf s q u).2.1) + i)) =
        nth 0 (replyBytes s u (1 - u.replies / 2 ^ (ringOf s q u).2.1 % 2) n st c.tag (creditOf v) d) i) ∧
      (replyCmd q u c st d s).pci.msix = s.pci.msix ++ (if bitOf c.flags 1 then [(ringOf s q u).2.2] else []) ∧
      (replyCmd q u c st d s).mem = s.mem ∧ (replyCmd q u c st d s).xt = s.xt ∧ (replyCmd q u c st d s).sch = s.sch := by
  subst hn
  let k : Queue := { u with cmds := u.cmds.filter (fun x => !decide (x.seq = c.seq)) }
  let s1 := setQueue q (fun u => { u with cmds := u.cmds.filter (fun x => !decide (x.seq = c.seq)) }) s
  let w : Queue := { k with cmds := k.cmds.map (lastReplyMark s1 q q k) }
  have hw : tget? (markQueue q s1).cmd.queues q = some w := markQueue_get q q s1 (setQueue_get hu _)
  obtain ⟨e1, e2, e3, e4, e5, e6, e7⟩ := writeReply_spec hw c.seq st c.tag (creditOf w) d
  obtain ⟨r, m, t1, t2⟩ := replyTail_spec c (ringOf s q u).2.2 (writeReply q c.seq st c.tag (creditOf w) d (markQueue q s1))
    (by rw [e3]; exact hf) (by rw [e3]; exact hv)
  have hx : replyCmd q u c st d s = { writeReply q c.seq st c.tag (creditOf w) d (markQueue q s1) with
      pwr := { (writeReply q c.seq st c.tag (creditOf w) d (markQueue q s1)).pwr with remaining := r },
      pci := { (writeReply q c.seq st c.tag (creditOf w) d (markQueue q s1)).pci with msix := m } } := by
    have hcr : ((tget? (markQueue q s1).cmd.queues q).map creditOf).getD 0 = creditOf w := by rw [hw]; rfl
    have hring : (ringOf (creditBack c (writeReply q c.seq st c.tag (creditOf w) d (markQueue q s1))) q u).2.2 = (ringOf s q u).2.2 := by
      obtain ⟨r', hb⟩ := creditBack_frame c (writeReply q c.seq st c.tag (creditOf w) d (markQueue q s1))
      rw [hb]
      unfold ringOf
      split
      · exact e7
      · rfl
    rw [← t1]
    unfold replyCmd
    dsimp only
    rw [if_neg (fun h => ho h.1), hcr, hring]
  refine ⟨lastReplyMark s1 q q k, _, lastReplyMark_keeps s1 q q k, rfl, ?_⟩
  rw [hx]
  exact ⟨e1, e2, t2.trans (by rw [e3]; rfl), e4, e5, e6⟩

/-! ### EVENT_RECORD (R401-R403) -/

theorem eventRecord_none {s : State} (h : s.pwr.phase = .ready) (e : s.cmd.evq = []) : exec .eventRecord s = .next s := by
  refine (ifUp_ready h).trans (congrArg _ ?_)
  unfold eventRecordS
  rw [e]

theorem eventRecord_eq {s : State} {r : EvRec} {l : List EvRec} (h : s.pwr.phase = .ready) (e : s.cmd.evq = r :: l) (n : r.slice = none) :
    exec .eventRecord s = .next (
      if evRoom s then raiseMsix s.cmd.evVec (let t := hostPost none (s.cmd.evBase + 64 * s.cmd.evHead) r.bytes { s with cmd := { s.cmd with evq := l } }
        { t with cmd := { t.cmd with evHead := (s.cmd.evHead + 1) % 2 ^ s.cmd.evLog2, evDelivered := satAdd (2 ^ 32 - 1) s.cmd.evDelivered 1 } })
      else { s with cmd := { s.cmd with evq := l, evLost := satAdd (2 ^ 32 - 1) s.cmd.evLost 1 } }) := by
  refine (ifUp_ready h).trans (congrArg _ ?_)
  unfold eventRecordS
  rw [e]
  simp only [n]
  rfl

/-- Settles O33: a reply by what it writes and what it leaves of its queue, an event record by its equation. -/
theorem repliesAndEventRecords : Obligations.RepliesAndEventRecords := by
  refine ⟨fun s q u c n h hu hc w => reply_waits h hu hc w, fun s q u c n st d h hu hc hp ho h1 h2 h3 hf hv hn hs hd => ?_,
    fun s h e => eventRecord_none h e, fun s r l h e hn => ⟨fun hr => ?_, fun hr hf hv => ?_⟩⟩
  · have hseq : c.seq = n := by simpa using List.find?_some hc
    obtain ⟨g, v, hg, rfl, e1, e2, e3, e4, e5, e6⟩ := replyCmd_spec hu hseq st d ho hf hv
    obtain ⟨f1, f2, f3, f4, f5, f6, f7, f8⟩ := replyBytes_fields s u c.tag _ hn hs hd (Nat.sub_le _ _) _ rfl
    refine ⟨_, _, _, reply_writes h hu hc hp h1 h2 h3, e1, ?_, rfl, replyBytes_length .., e2, f1, f2, f3, f4, f5, f6, f7, f8, e3, e4, e5, e6⟩
    simp [Function.comp_def, hg]
  · rw [eventRecord_eq h e hn, if_neg (by simp [hr])]; rfl
  · refine ⟨_, eventRecord_eq h e hn, ?_⟩
    rw [if_pos hr, raiseMsix_unmasked (by exact hf) (by exact hv)]
    exact ⟨fun i hi hl => hostPost_byte none _ r.bytes _ hl hi, rfl, rfl, rfl, rfl, rfl, rfl, rfl⟩

end Sys2Proof.Machine
end

section
/-! PROOF. Commands on contexts and queues, and the resolution of fault batches. -/

namespace Sys2Proof.Machine

/-! ### The lowest free number -/

/-- Every number passed over is used; the number is free, or the search ended. -/
theorem lowestFree_spec (used : List Nat) (fuel n : Nat) : n ≤ lowestFree used fuel n ∧ lowestFree used fuel n ≤ n + fuel ∧
    (∀ j, n ≤ j → j < lowestFree used fuel n → j ∈ used) ∧
    (lowestFree used fuel n ∉ used ∨ lowestFree used fuel n = n + fuel) := by
  induction fuel generalizing n with
  | zero => exact ⟨Nat.le_refl _, Nat.le_refl _, fun j h1 h2 => by simp only [lowestFree] at h2; omega, .inr rfl⟩
  | succ f ih =>
    rw [lowestFree]
    split
    · next h =>
      obtain ⟨i1, i2, i3, i4⟩ := ih (n + 1)
      refine ⟨by omega, by omega, fun j h1 h2 => ?_, i4.imp_right (fun e => by omega)⟩
      rcases Nat.eq_or_lt_of_le h1 with rfl | h1
      · exact h
      · exact i3 j h1 h2
    · next h => exact ⟨Nat.le_refl _, by omega, fun j h1 h2 => by omega, .inl h⟩

/-- With fewer numbers used than are searched, the number found is free. -/
theorem lowestFree_free {used : List Nat} {fuel : Nat} (n : Nat) (h : used.length < fuel) : lowestFree used fuel n ∉ used := by
  obtain ⟨_, _, h3, h4⟩ := lowestFree_spec used fuel n
  refine h4.resolve_right fun e => ?_
  rw [e] at h3
  have hsub : Finset.Ico n (n + fuel) ⊆ used.toFinset := fun j hj => by
    obtain ⟨a, b⟩ := Finset.mem_Ico.1 hj
    exact List.mem_toFinset.2 (h3 j a b)
  have := (Finset.card_le_card hsub).trans used.toFinset_card_le
  simp at this
  omega

theorem mem_tkeys {α : Type} (t : Tbl α) (k : Nat) : k ∈ tkeys t ↔ (tget? t k).isSome := by
  induction t with
  | nil => simp [tkeys]
  | cons a r ih =>
    obtain ⟨j, v⟩ := a
    rw [tget?_cons]
    split
    · next e => simp [tkeys, e]
    · next e => simpa [tkeys, Ne.symm e] using ih

theorem mem_tenantCtxs (s : State) (c : Nat) : c ∈ tenantCtxs s ↔ (tget? s.ten.ctxs c).isSome ∧ c ≠ 0 := by
  simp [tenantCtxs, mem_tkeys]

/-- The identifier of a new context is free, and every lower one is taken. -/
theorem newCtx_free {s : State} (h : (tenantCtxs s).length < 4095) : 1 ≤ lowestFree (tenantCtxs s) 4095 1 ∧
    tget? s.ten.ctxs (lowestFree (tenantCtxs s) 4095 1) = none ∧
    ∀ j, 1 ≤ j → j < lowestFree (tenantCtxs s) 4095 1 → (tget? s.ten.ctxs j).isSome := by
  obtain ⟨h1, _, h3, _⟩ := lowestFree_spec (tenantCtxs s) 4095 1
  refine ⟨h1, ?_, fun j a b => ((mem_tenantCtxs s j).1 (h3 j a b)).1⟩
  have hf := lowestFree_free 1 h
  rw [mem_tenantCtxs] at hf
  have : ¬ (tget? s.ten.ctxs (lowestFree (tenantCtxs s) 4095 1)).isSome := fun e => hf ⟨e, by omega⟩
  simpa using this

/-! ### Context 0 and the others -/

theorem ctxOf_setCtx {s : State} {c : Nat} {x : Ctx} (h : ctxOf s c = some x) (f : Ctx → Ctx) : ctxOf (setCtx c f s) c = some (f x) := by
  unfold setCtx
  rw [h]
  unfold ctxOf
  by_cases e : c = 0
  · subst e; simp
  · simp [e]

theorem setCtx_frame (c : Nat) (f : Ctx → Ctx) (s : State) : ∃ l, setCtx c f s = { s with ten := { s.ten with ctxs := l } } := by
  unfold setCtx
  split
  · exact ⟨s.ten.ctxs, rfl⟩
  · exact ⟨_, rfl⟩

theorem rung1Start_living {s : State} {c : Nat} {x : Ctx} (hc : c ≠ 0) (h : ctxOf s c = some x) (hd : x.dead = false)
    (cause : Nat) (l : List (Nat × Nat)) : rung1Start c cause l s = startRung 1 c cause l s := by
  simp [rung1Start, hc, h, hd]

theorem startRung_ten (r t c : Nat) (l : List (Nat × Nat)) (s : State) : (startRung r t c l s).ten = s.ten := by
  unfold startRung; split <;> rfl
theorem startRung_pwr (r t c : Nat) (l : List (Nat × Nat)) (s : State) : (startRung r t c l s).pwr = s.pwr := by
  unfold startRung; split <;> rfl
theorem startRung_queues (r t c : Nat) (l : List (Nat × Nat)) (s : State) : (startRung r t c l s).cmd.queues = s.cmd.queues := by
  unfold startRung; split
  · rfl
  · dsimp only; split <;> rfl

/-- A completed command's reply waits, whatever state its queue is in. -/
theorem finish_replies {s : State} {q n : Nat} {u : Queue} {c : TakenCmd} (hu : tget? s.cmd.queues q = some u)
    (hc : u.cmds.find? (fun c => decide (c.seq = n)) = some c) (st d : Nat) : Replies (finishCmd q n st d s) q n st d :=
  ⟨_, _, setQueue_get hu _, find?_map_seq u.cmds n (fun c => { c with phase := .done st d }) (fun _ => rfl) c hc, rfl⟩

theorem finishCmd_other (s : State) {q n k : Nat} (hk : k ≠ q) {st d : Nat} :
    tget? (finishCmd q n st d s).cmd.queues k = tget? s.cmd.queues k := setQueue_get_other s hk _

section
variable {s : State} {q n : Nat} {u : Queue} {c : TakenCmd}

/-! ### CTX_CREATE, CTX_DESTROY and CTX_FLAGS -/

/-- The context that a CTX_CREATE names. -/
def ctxNamed (c : TakenCmd) : Ctx :=
  { slice := par c 0 2, cls := par c 2 1, weight := par c 4 2, flush := decide (par c 3 1 = 1), cplx := par c 6 1 }

theorem ctxCreate_eq (h : Started s q n 0x0101 u c) (ht : sliceThere s (par c 0 2) = true)
    (hq : ∀ sl, par c 0 2 ≠ 0 → tget? s.ten.slices (par c 0 2) = some sl → (sliceCtxs s (par c 0 2)).length < sl.contexts)
    (h1 : par c 2 1 ≤ 3) (h2 : 1 ≤ par c 4 2) (h3 : par c 4 2 ≤ 10000) (h4 : par c 3 1 ≤ 1) (h5 : par c 6 1 ≤ 1)
    (hl : (tenantCtxs s).length < 4095) :
    exec (.ctxCreate q n) s = .next (finishCmd q n stOk (lowestFree (tenantCtxs s) 4095 1) { s with
      ten := { s.ten with ctxs := tput s.ten.ctxs (lowestFree (tenantCtxs s) 4095 1) (ctxNamed c) },
      pwr := { s.pwr with eCtx := tset 0 s.pwr.eCtx (lowestFree (tenantCtxs s) 4095 1) 0 } }) := by
  obtain ⟨e1, e2⟩ := h.ids
  refine (cmdOut_started h _).trans (congrArg _ ?_)
  unfold ctxCreateS
  dsimp only
  rw [if_neg (by omega), if_neg (by simp [ht]), if_neg (by omega), e1, e2]
  split
  · next sl hs =>
    refine if_neg ?_
    rintro ⟨a, b⟩
    have := hq sl a hs
    omega
  · rfl

theorem ctxDestroy_living {x : Ctx} (h : Started s q n 0x0102 u c) (h0 : c.ctx ≠ 0) (hx : tget? s.ten.ctxs c.ctx = some x)
    (hd : x.dead = false) : exec (.ctxDestroy q n) s = .next (startRung 1 c.ctx 0 [] s) := by
  refine (cmdOut_started h _).trans (congrArg _ ?_)
  unfold ctxDestroyS
  rw [hx]
  simp only [h0, hd, if_false]
  exact rung1Start_living h0 (by simp [ctxOf, h0, hx]) hd _ _

theorem ctxDestroy_dead {x : Ctx} (h : Started s q n 0x0102 u c) (h0 : c.ctx ≠ 0) (hx : tget? s.ten.ctxs c.ctx = some x)
    (hd : x.dead = true) (hr : rungReq? s 1 c.ctx = none) : exec (.ctxDestroy q n) s =
      .next (finishCmd q n 0 0 { s with ten := { s.ten with ctxs := tdel s.ten.ctxs c.ctx } }) := by
  obtain ⟨e1, e2⟩ := h.ids
  refine (cmdOut_started h _).trans (congrArg _ ?_)
  unfold ctxDestroyS
  rw [hx]
  simp only [h0, hd, hr, e1, e2, if_false]
  rfl

theorem ctxFlags_eq {x : Ctx} (h : Started s q n 0x0103 u c) (hx : ctxOf s c.ctx = some x) :
    exec (.ctxFlags q n) s = .next (finishCmd q n 0 (x.flags % 32 + 256 * (x.shStatus % 2))
      (setCtx c.ctx (fun x => { x with flags := 0, shStatus := 0 }) s)) := by
  obtain ⟨e1, e2⟩ := h.ids
  refine (cmdOut_started h _).trans (congrArg _ ?_)
  unfold ctxFlagsS
  rw [hx, e1, e2]
  rfl

/-! ### QUEUE_CREATE, QUEUE_DESTROY and QUEUE_RESET -/

theorem queueCreate_eq (h : Started s q n 0x0104 u c) (hn : tget? s.cmd.queues (par c 12 2) = none) (h1 : 1 ≤ par c 12 2)
    (h2 : par c 12 2 ≤ 1023) (h3 : 8 ≤ par c 20 1) (h4 : par c 20 1 ≤ 16) (h5 : par c 19 1 ≤ 1) (h6 : par c 18 1 ≤ 9)
    (h7 : par c 16 2 ≤ 2047) (h8 : par c 0 8 % 32 = 0) (h9 : sliceThere s (par c 14 2) = true)
    (h10 : queueOwner s (par c 12 2) = (if par c 14 2 = 0 then none else some (par c 14 2)))
    (h11 : par c 14 2 ≠ 0 → tget? s.ten.pasids (par c 8 4) = some (par c 14 2)) :
    exec (.queueCreate q n) s = .next (finishCmd q n 0 0 { s with
      cmd := { s.cmd with queues := tput s.cmd.queues (par c 12 2) {
        num := par c 12 2, state := .running, cplx := par c 19 1, slice := par c 14 2,
        pasid := if par c 14 2 = 0 then none else some (par c 8 4), vector := par c 16 2, homePart := par c 18 1,
        log2 := par c 20 1, ring := par c 0 8 } },
      pwr := { s.pwr with eQueue := tset 0 s.pwr.eQueue (par c 12 2) 0 } }) := by
  obtain ⟨e1, e2⟩ := h.ids
  refine (cmdOut_started h _).trans (congrArg _ ?_)
  unfold queueCreateS
  dsimp only
  rw [if_neg (by simp [hn]), if_neg (by omega), if_neg (by simp [h9]), if_neg (by simp [h10]),
    if_neg (fun ⟨a, b⟩ => b (h11 a)), e1, e2]
  rfl

theorem queueDestroy_other {k : Nat} {v : Queue} (h : Started s q n 0x0105 u c) (hk : k = par c 0 2) (h0 : k ≠ 0) (hq : k ≠ q)
    (hu : u.slice = 0) (hv : tget? s.cmd.queues k = some v) (hc : v.cmds = []) (hs : v.stopSeq = none) :
    ∃ t, exec (.queueDestroy q n) s = .next (finishCmd q n 0 0 t) ∧ tget? t.cmd.queues k = none ∧ t.mem = s.mem ∧
      t.pwr = s.pwr ∧ ∀ j, j ≠ k → tget? t.cmd.queues j = tget? s.cmd.queues j := by
  obtain ⟨e1, e2⟩ := h.ids
  let f : Queue → Queue := fun v => { v with state := .draining, sealed := [] }
  refine ⟨{ setQueue k f s with cmd := { s.cmd with queues := tdel (setQueue k f s).cmd.queues k } },
    (cmdOut_started h _).trans (congrArg _ ?_), ?_, rfl, rfl, fun j hj => ?_⟩
  · unfold queueDestroyS
    dsimp only
    rw [← hk, hv]
    simp only [h0, e1, e2, hq, mayName, hu, hc, hs, true_or, decide_true, not_true, if_false, List.filter_nil]
    rfl
  · simp
  · show tget? (tdel (setQueue k f s).cmd.queues k) j = _
    rw [tget?_tdel, if_neg hj.symm, setQueue_get_other s hj]

/-- A queue that destroys itself drains, and completes the command where no other is left. -/
theorem queueDestroy_self (h : Started s q n 0x0105 u c) (hq : par c 0 2 = q) (h0 : q ≠ 0) :
    exec (.queueDestroy q n) s = .next (
      let t := setQueue q (fun v => { v with state := .draining, sealed := [] }) s
      if (u.cmds.filter (fun x => !decide (x.seq = n))).isEmpty = true ∧ u.stopSeq = none then finishCmd q n 0 0 t else t) := by
  obtain ⟨e1, e2⟩ := h.ids
  refine (cmdOut_started h _).trans (congrArg _ ?_)
  unfold queueDestroyS
  dsimp only
  rw [hq, h.2.1]
  simp only [h0, e1, e2, mayName, or_true, decide_true, not_true, if_false, true_and, if_true]
  split
  · next hl =>
    rw [if_neg]
    rintro ⟨a, b⟩
    simp [a, b] at hl
  · next hl =>
    rw [if_pos]
    · rfl
    · simpa using hl

theorem queueReset_eq {k : Nat} {v : Queue} (h : Started s q n 0x0106 u c) (hk : k = par c 4 2) (h0 : k ≠ 0) (hu : u.slice = 0)
    (hv : tget? s.cmd.queues k = some v) (hs : v.state = .stopped) (hc : v.cmds = []) (hq : v.stopSeq = none) :
    exec (.queueReset q n) s = .next (finishCmd q n 0 0 (setQueue k (restartQueue (par c 0 4)) s)) := by
  obtain ⟨e1, e2⟩ := h.ids
  refine (cmdOut_started h _).trans (congrArg _ ?_)
  unfold queueResetS
  dsimp only
  rw [← hk, hv]
  simp only [h0, e1, e2, mayName, hu, hs, hc, hq]
  rfl

/-- A queue with a started command is not one whose commands have all replied. -/
theorem Started.ne_of_empty {op k : Nat} {v : Queue} (h : Started s q n op u c) (hv : tget? s.cmd.queues k = some v) (hc : v.cmds = []) :
    k ≠ q := by
  rintro rfl
  obtain ⟨_, h2, h3, _⟩ := h
  obtain rfl : v = u := Option.some.inj (hv.symm.trans h2)
  simp [hc] at h3

/-! ### FAULT_RESUME -/

/-- RETRY's work: the accesses recorded in `rs` of context `k` translate again, and command `n` of queue `q` waits for them. -/
def retryAll (q n : Nat) (rs : List FaultRec) (k : Nat) (s : State) : State :=
  setCmd q n (fun y => { y with retries := (s.sch.stns.filter (fun e => decide (e.2.ctx = k))).flatMap (fun e => retriesOf rs e.1 e.2) })
    { s with sch := { s.sch with stns := tmap s.sch.stns (fun n y => if y.ctx = k then retryStn rs n y else y) } }

theorem faultResume_eq {x : Ctx} (h : Started s q n 0x0107 u c) (hx : ctxOf s c.ctx = some x) (hd : x.dead = false)
    (ha : par c 4 1 ≤ 1) : exec (.faultResume q n) s = .next (
      if ∀ y ∈ x.unresolved, y.seq ≠ par c 0 4 then finishCmd q n 0x0022 0 s
      else if par c 4 1 = 1 then finishCmd q n 0 0 (rung1Start c.ctx 0 [] s)
      else finishCmd q n 0 0 (retryAll q n ((x.unresolved.filter (fun y => decide (y.seq ≤ par c 0 4))).flatMap (·.recs)) c.ctx
        (setCtx c.ctx (fun x => { x with unresolved := x.unresolved.filter (fun y => decide (par c 0 4 < y.seq)) }) s))) := by
  obtain ⟨e1, e2⟩ := h.ids
  refine (cmdOut_started h _).trans (congrArg _ ?_)
  unfold faultResumeS
  dsimp only
  rw [hx]
  simp only [hd, e1, e2]
  rw [if_neg (by decide), if_neg (by omega)]
  refine if_congr (by simp) rfl (if_congr Iff.rfl rfl ?_)
  rfl

end

/-- Settles O34: each command by its equation. -/
theorem contextAndQueueCommands : Obligations.ContextAndQueueCommands := by
  refine ⟨fun s q n u c h ht hq h1 h2 h3 h4 h5 hl => ?_, fun s q n u c x h h0 hx => ⟨fun hd hr => ?_, ctxDestroy_dead h h0 hx⟩,
    fun s q n u c x h hx => ctxFlags_eq h hx, fun s q n u c k h hk hn h1 h2 h3 h4 h5 h6 h7 h8 h9 h10 h11 => ?_,
    fun s q n u c k v h hk h0 hq hu hv hc hs => ?_, fun s q n u c h hq h0 => ?_,
    fun s q n u c k v h hk h0 hu hv hs hc hq => ?_, fun s q n u c x h hx hd ha => ⟨fun hb => ?_, fun hk hb h0 hr => ?_, fun hk hb => ?_⟩⟩
  · obtain ⟨f1, f2, f3⟩ := newCtx_free hl
    refine ⟨_, _, ctxCreate_eq h ht hq h1 h2 h3 h4 h5 hl, finishCmd_replies (by exact h) _ _, f1, f2, f3, ?_, fun j hj => ?_, ?_, rfl, rfl⟩
    · exact (tget?_tput ..).trans (if_pos rfl)
    · exact (tget?_tput ..).trans (if_neg (Ne.symm hj))
    · show tget 0 (tset 0 s.pwr.eCtx _ 0) _ = 0
      simp
  · exact ⟨_, ctxDestroy_living h h0 hx hd, startRung_set _ _ _ hr (by decide), startRung_ten .., startRung_mem ..⟩
  · subst hk
    exact queueCreate_eq h hn h1 h2 h3 h4 h5 h6 h7 h8 h9 h10 h11
  · obtain ⟨t, ht, t1, t2, t3, t4⟩ := queueDestroy_other h hk h0 hq hu hv hc hs
    have hst : Started t q n 0x0105 u c := by
      obtain ⟨a1, a2, a3⟩ := h
      exact ⟨(congrArg Pwr.phase t3).trans a1, (t4 q hq.symm).trans a2, a3⟩
    refine ⟨_, ht, finishCmd_replies hst _ _, ?_, t2, fun j j1 j2 => ?_⟩
    · rw [finishCmd_other t hq]; exact t1
    · rw [finishCmd_other t j2]; exact t4 j j1
  · have hd : tget? (setQueue q (fun v => { v with state := .draining, sealed := [] }) s).cmd.queues q =
        some { u with state := .draining, sealed := [] } := setQueue_get h.2.1 _
    rw [queueDestroy_self h hq h0]
    dsimp only
    split
    · exact ⟨_, _, rfl, setQueue_get hd _, rfl, rfl, rfl, fun _ _ => finish_replies hd (h.2.2.1) _ _⟩
    · next hl =>
      refine ⟨_, _, rfl, hd, rfl, rfl, rfl, fun hx hs => absurd ⟨?_, hs⟩ hl⟩
      rw [List.isEmpty_iff, List.filter_eq_nil_iff]
      intro x hm
      simp [hx x hm]
  · have hkq := h.ne_of_empty hv hc
    refine ⟨_, _, queueReset_eq h hk h0 hu hv hs hc hq, finish_replies ((setQueue_get_other s hkq.symm _).trans h.2.1) h.2.2.1 _ _,
      (finishCmd_other _ hkq ..).trans (setQueue_get hv _), rfl, rfl, rfl, rfl, rfl, rfl⟩
  · rw [faultResume_eq h hx hd ha, if_pos hb]
  · refine ⟨_, faultResume_eq h hx hd ha, ?_⟩
    rw [if_neg (by simpa using hb), if_pos hk, rung1Start_living h0 hx hd]
    refine ⟨finish_replies ((congrArg (tget? · q) (startRung_queues ..)).trans h.2.1) h.2.2.1 _ _,
      startRung_set c.ctx 0 [] hr (by decide), startRung_ten .., startRung_mem ..⟩
  · refine ⟨_, { x with unresolved := x.unresolved.filter (fun y => decide (par c 0 4 < y.seq)) }, faultResume_eq h hx hd ha, ?_⟩
    rw [if_neg (by simpa using hb), if_neg (by omega)]
    have hz := ctxOf_setCtx hx (fun x => { x with unresolved := x.unresolved.filter (fun y => decide (par c 0 4 < y.seq)) })
    obtain ⟨l, e⟩ := setCtx_frame c.ctx (fun x => { x with unresolved := x.unresolved.filter (fun y => decide (par c 0 4 < y.seq)) }) s
    generalize setCtx c.ctx _ s = v at e hz ⊢
    subst e
    exact ⟨finish_replies (setQueue_get (by exact h.2.1) _) (find?_map_seq u.cmds n _ (by exact fun _ => rfl) c h.2.2.1) _ _, hz, rfl, rfl, rfl, rfl⟩

end Sys2Proof.Machine
end

section
/-! PROOF. Commands on extents. -/

namespace Sys2Proof.Machine

/-! ### Work of the homes alone -/

/-- From `s` to `t` only the homes, the Riberex ports and the arrival counters changed. -/
def HomesOnly (s t : State) : Prop :=
  t = { s with home := t.home, rbx := t.rbx, xt := { s.xt with counters := t.xt.counters } }

theorem HomesOnly.of_eq {s t : State} {h : Home} {r : Rbx} {c : Tbl Nat}
    (e : t = { s with home := h, rbx := r, xt := { s.xt with counters := c } }) : HomesOnly s t := by subst e; rfl

theorem HomesOnly.refl (s : State) : HomesOnly s s := rfl

theorem HomesOnly.trans {s t u : State} (h : HomesOnly s t) (k : HomesOnly t u) : HomesOnly s u := by
  unfold HomesOnly at *
  rw [k, h]

theorem HomesOnly.foldl {α : Type} {f : State → α → State} (h : ∀ s a, HomesOnly s (f s a)) (l : List α) (s : State) :
    HomesOnly s (l.foldl f s) := by
  induction l generalizing s with
  | nil => exact .refl s
  | cons a r ih => exact (h s a).trans (ih _)

theorem sendMsg_homes (m : Msg) (s : State) : HomesOnly s (sendMsg m s) := rfl

theorem setCru_homes (k : Nat) (f : Cru → Cru) (s : State) : HomesOnly s (setCru k f s) := rfl

theorem wakeWaiters_homes (u k o : Nat) (v : Int) (s : State) : HomesOnly s (wakeWaiters u k o v s) :=
  HomesOnly.trans (t := { s with home := _ }) rfl (.foldl (fun s _ => sendMsg_homes _ s) _ _)

theorem arriveCount_homes (w c n : Nat) (s : State) : HomesOnly s (arriveCount w c n s) := by
  unfold arriveCount
  split
  · exact .refl s
  · exact HomesOnly.trans (t := { s with xt := { s.xt with counters := _ } }) rfl (wakeWaiters_homes ..)

theorem inbFinish_homes (e : InPkt) (s : State) : HomesOnly s (inbFinish e s) := by
  have h0 (s : State) (r : Rbx) : HomesOnly s { s with rbx := r } := rfl
  unfold inbFinish
  dsimp only
  split
  · exact ((h0 s _).trans (arriveCount_homes ..)).trans (h0 _ _)
  · exact (h0 s _).trans (h0 _ _)

theorem inbAnswer_homes (r : Req) (st : Nat) (l : List Byte) (s : State) : HomesOnly s (inbAnswer r st l s) := by
  have h0 (s : State) (r : Rbx) : HomesOnly s { s with rbx := r } := rfl
  unfold inbAnswer
  split
  · exact .refl s
  · dsimp only
    split
    · exact (h0 s _).trans (inbFinish_homes ..)
    · exact h0 s _

theorem retireLines_homes (k : Nat) (g : List Nat) (s : State) : HomesOnly s (retireLines k g s) := by
  have h0 (s : State) (h : Home) : HomesOnly s { s with home := h } := rfl
  unfold retireLines
  dsimp only
  refine HomesOnly.trans ?_ (setCru_homes ..)
  refine HomesOnly.trans ?_ (h0 _ _)
  refine HomesOnly.trans (.foldl (fun s e => ?_) _ _) (.foldl (fun s w => ?_) _ _)
  · refine HomesOnly.trans ?_ (.foldl (fun s h => ?_) _ _)
    · refine HomesOnly.trans ?_ (.foldl (fun s r => sendMsg_homes _ s) _ _)
      exact .foldl (fun s m => sendMsg_homes m s) _ _
    split
    · exact .refl s
    · exact .refl s
    · exact .refl s
    · exact .refl s
    · exact inbAnswer_homes ..
    · exact sendMsg_homes ..
  · split
    · exact .refl s
    · exact sendMsg_homes ..

/-! ### Attributes and numbers of a new extent -/

theorem pickNum_free (s : State) (hint : Nat) : tget? s.xt.extents (pickNum s hint) = none := by
  have h : pickNum s hint ∉ tkeys s.xt.extents ++ liveNums s := by
    unfold pickNum
    dsimp only
    split <;> exact lowestFree_free _ (Nat.lt_succ_self _)
  have h1 := (not_or.1 (fun e => h (List.mem_append.2 e))).1
  rw [mem_tkeys] at h1
  simpa using h1

/-- An extent's attributes are the record's but DAMAGED. -/
theorem attr_undamaged : ∀ a < 128, attrPinned (a - (if bitOf a 5 then 32 else 0)) = attrPinned a ∧
    attrSealed (a - (if bitOf a 5 then 32 else 0)) = attrSealed a := by decide +kernel

theorem recordOk_attr {c : TakenCmd} (h : recordOk c = true) : par c 22 2 < 128 := by
  unfold recordOk at h
  simp only [Bool.and_eq_true, decide_eq_true_eq] at h
  omega

theorem Started.queue {s : State} {q n op : Nat} {u : Queue} {c : TakenCmd} (h : Started s q n op u c) :
    tget? s.cmd.queues q = some u := h.2.1

theorem Started.taken {s : State} {q n op : Nat} {u : Queue} {c : TakenCmd} (h : Started s q n op u c) :
    u.cmds.find? (fun c => decide (c.seq = n)) = some c := h.2.2.1

section
variable {s : State} {q n : Nat} {u : Queue} {c : TakenCmd}

/-! ### EXT_CREATE (R359-R363) -/

/-- The granules that an EXT_CREATE charges to its slice's quota. -/
def createCharge (s : State) (c : TakenCmd) : Nat :=
  sumNat (((createShares s c).1 ++ (createShares s c).2).map (fun e => e.2 +
    (if (attrSealed (par c 22 2) || attrIntegrity (par c 22 2)) = true then ceilDiv e.2 16 else 0)))

theorem extCreate_eq (h : Started s q n 0x0201 u c) (hint : AllocHint) :
    exec (.extCreate q n hint) s = .next (extCreateS hint u c s) := cmdOut_started h _

theorem extLines_new (c : TakenCmd) (g g' : Nat) (main rep : List (Nat × List Nat × List Nat)) (f k : Nat) :
    extLines (newExtent c g main rep) f k = extLines (newExtent c g' main rep) f k := rfl

/-- An extent made: its record, generation and first mapping, and its lines pinned. -/
def extMade (c : TakenCmd) (num g : Nat) (x : Extent) (keys : List Nat) (s : State) : State :=
  let s := addPins (par c 32 2) keys s
  { s with xt := { s.xt with
      extents := tput s.xt.extents num x, gens := tput s.xt.gens num g, maps := s.xt.maps ++ [⟨par c 30 2, par c 0 8, num, false⟩] } }

/-- The generation of the next extent of a number. -/
def nextGen (s : State) (num : Nat) : Nat :=
  match tget? s.xt.gens num with
  | some g => (g + 1) % 256
  | none => 0

theorem extPlace_ok (hu : u.num = q) (hc : c.seq = n) (hint : AllocHint) (main rep : List (Nat × List Nat × List Nat))
    (hr : recordOk c = true)
    (hp : attrPinned (par c 22 2) = true → pinCheck s (par c 32 2) (extLines (newExtent c 0 main rep) 0 (par c 8 8)) = 2)
    (hs : attrSealed (par c 22 2) = true → (setOwned s (par c 32 2) (par c 28 2)).isSome) :
    ∃ keys, extPlace u c hint main rep s = finishCmd q n stOk
      (handleOf (pickNum s hint.num) (newExtent c (nextGen s (pickNum s hint.num)) main rep))
      (extMade c (pickNum s hint.num) (nextGen s (pickNum s hint.num)) (newExtent c (nextGen s (pickNum s hint.num)) main rep) keys s) := by
  obtain ⟨a1, a2⟩ := attr_undamaged _ (recordOk_attr hr)
  refine ⟨if attrPinned (par c 22 2) then extLines (newExtent c 0 main rep) 0 (par c 8 8) else [], ?_⟩
  unfold extPlace
  have hat (g : Nat) : (newExtent c g main rep).attr = par c 22 2 - (if bitOf (par c 22 2) 5 then 32 else 0) := rfl
  have hln (g : Nat) : extLines (newExtent c g main rep) 0 (newExtent c g main rep).length = extLines (newExtent c 0 main rep) 0 (par c 8 8) := rfl
  have hse (g : Nat) : (newExtent c g main rep).sealSet = par c 28 2 := rfl
  simp only [hat, a1, a2, hln, hse, hu, hc]
  rw [if_neg, if_neg]
  · rfl
  · rintro ⟨k1, k2⟩
    have := hs k1
    simp_all
  · split
    · next k => simpa [stPinOk] using hp k
    · simp

theorem extCreate_ok {o : Ctx} {main rep : List (Nat × List Nat × List Nat)} {r1 r2 : List Nat} (h : Started s q n 0x0201 u c)
    (hint : AllocHint) (hr : recordOk c = true) (ho : ctxOf s (par c 30 2) = some o) (hd : o.dead = false) (hsl : o.slice = par c 32 2)
    (hm : mapRefusal s (par c 30 2) (par c 0 8) (par c 8 8) = none) (h1 : (createShares s c).1 ≠ [])
    (h2 : attrReplica (par c 22 2) = true → (createShares s c).2 ≠ []) (hq : createCharge s c + usedQuota s (par c 32 2) ≤ quotaGrans s (par c 32 2))
    (t1 : takeShares s (attrSealed (par c 22 2) || attrIntegrity (par c 22 2)) (createShares s c).1 hint.grans = some (main, r1))
    (t2 : takeShares s (attrSealed (par c 22 2) || attrIntegrity (par c 22 2)) (createShares s c).2 r1 = some (rep, r2)) :
    exec (.extCreate q n hint) s = .next (extPlace u c hint main rep s) := by
  rw [extCreate_eq h]
  unfold extCreateS
  dsimp only
  rw [if_neg, if_neg (by simp [ho, hd]), hm]
  · dsimp only
    rw [if_neg, if_neg, t1]
    · dsimp only
      rw [t2]
    · unfold createCharge at hq
      omega
    · simpa [h1] using h2
  · simp [hr, ho, ctxSlice, hsl]

/-- The refusals of EXT_CREATE before pins and sets, in the order of R360's table. -/
theorem extCreate_refused (h : Started s q n 0x0201 u c) (hint : AllocHint) {st : Nat}
    (hst : (if recordOk c = false ∨ ctxOf s (par c 30 2) = none ∨ ctxSlice s (par c 30 2) ≠ par c 32 2 then some 0x0030
       else if (∃ o, ctxOf s (par c 30 2) = some o ∧ o.dead = true) then some 0x0021
       else if (mapRefusal s (par c 30 2) (par c 0 8) (par c 8 8)).isSome then mapRefusal s (par c 30 2) (par c 0 8) (par c 8 8)
       else if (createShares s c).1 = [] ∨ (attrReplica (par c 22 2) = true ∧ (createShares s c).2 = []) then some 0x0039
       else if quotaGrans s (par c 32 2) < usedQuota s (par c 32 2) + createCharge s c then some 0x0033
       else match takeShares s (attrSealed (par c 22 2) || attrIntegrity (par c 22 2)) (createShares s c).1 hint.grans with
        | none => some 0x003B
        | some r => if takeShares s (attrSealed (par c 22 2) || attrIntegrity (par c 22 2)) (createShares s c).2 r.2 = none then some 0x003B else none) = some st) :
    exec (.extCreate q n hint) s = .next (finishCmd q n st 0 s) := by
  obtain ⟨e1, e2⟩ := h.ids
  rw [extCreate_eq h]
  refine congrArg _ ?_
  unfold extCreateS
  dsimp only
  rw [e1, e2]
  split at hst
  · next k =>
    cases hst
    rw [if_pos (by simpa using k)]
    rfl
  next k =>
  rw [if_neg (by simpa using k)]
  split at hst
  · next k =>
    obtain ⟨o, k1, k2⟩ := k
    cases hst
    rw [if_pos (by simp [k1, k2])]
    rfl
  next k =>
  rw [if_neg]
  swap
  · intro hd
    cases ho : ctxOf s (par c 30 2) with
    | none => simp [ho] at hd
    | some o => exact k ⟨o, ho, by simpa [ho] using hd⟩
  split at hst
  · next k =>
    rw [hst]
  next k =>
  rw [show mapRefusal s (par c 30 2) (par c 0 8) (par c 8 8) = none by simpa using k]
  dsimp only
  split at hst
  · next k =>
    cases hst
    rw [if_pos (by simpa using k)]
    rfl
  next k =>
  rw [if_neg (by simpa using k)]
  split at hst
  · next k =>
    cases hst
    rw [if_pos (by exact k)]
    rfl
  next k =>
  rw [if_neg (by exact k)]
  split at hst
  · next k =>
    cases hst
    rw [k]
    rfl
  · next r k =>
    rw [k]
    dsimp only
    split at hst
    · next k2 =>
      cases hst
      rw [k2]
      rfl
    · cases hst

/-! ### EXT_SHARE, EXT_UNMAP and EXT_QUERY -/

theorem dropCopies_cache (x : Extent) (s : State) {k : Nat} {y : Stn} (h : tget? (dropCopies x s).sch.stns k = some y) :
    ∀ e ∈ y.cache, e.1 ∉ extLines x 0 x.length := by
  unfold dropCopies at h
  dsimp only at h
  rw [tget?_tmap] at h
  obtain ⟨z, _, rfl⟩ := Option.map_eq_some_iff.1 h
  intro e he
  simpa using (List.mem_filter.1 he).2

theorem extShare_ok {tc : Ctx} {num : Nat} {x : Extent} (h : Started s q n 0x0203 u c) (ht : ctxOf s (par c 12 2) = some tc)
    (hd : tc.dead = false) (hx : cmdExtent s (par c 8 4) = some (num, x)) (h0 : x.sharedSet ≠ 0)
    (hm : ∀ m ∈ s.xt.maps, ¬ (m.ctx = par c 12 2 ∧ m.num = num)) (hr : mapRangeOk (par c 0 8) x.length = true)
    (hn : mapRefusal s (par c 12 2) (par c 0 8) x.length = none)
    (hb : attrSealed x.attr = false ∨ shareBreaks s (par c 12 2) (insKey x.sealSet (ctxSets s (par c 12 2))) = false) :
    exec (.extShare q n) s = .next (
      let t := if readOnlyFor x (par c 12 2) then s else dropCopies x s
      finishCmd q n stOk 0 { t with xt := { t.xt with maps := t.xt.maps ++ [⟨par c 12 2, par c 0 8, num, true⟩] } }) := by
  obtain ⟨e1, e2⟩ := h.ids
  refine (cmdOut_started h _).trans (congrArg _ ?_)
  unfold extShareS
  have hany : s.xt.maps.any (fun m => decide (m.ctx = par c 12 2 ∧ m.num = num)) = false := by simpa using hm
  have hbr : ¬ (attrSealed x.attr = true ∧ shareBreaks s (par c 12 2) (insKey x.sealSet (ctxSets s (par c 12 2))) = true) := by
    rintro ⟨a, b⟩
    rcases hb with hb | hb <;> simp_all
  simp only [ht, hd, hx, h0, hany, hr, hn, hbr, e1, e2, Bool.false_eq_true, or_self, not_true, if_false]

theorem extUnmap_eq {m : Mapping} (h : Started s q n 0x0204 u c)
    (hm : s.xt.maps.find? (fun m => decide (m.ctx = par c 8 2 ∧ m.start = par c 0 8)) = some m) :
    exec (.extUnmap q n) s = .next (finishCmd q n stOk 0 (unmap m s)) := by
  obtain ⟨e1, e2⟩ := h.ids
  refine (cmdOut_started h _).trans (congrArg _ ?_)
  unfold extUnmapS
  rw [hm, e1, e2]

theorem unmap_extent {m : Mapping} {x : Extent} (hx : tget? s.xt.extents m.num = some x) :
    unmap m s = dropXcache (handleOf m.num x) (some m.ctx) { s with xt := { s.xt with maps := s.xt.maps.filter (fun y => !decide (y = m)) } } := by
  unfold unmap
  dsimp only
  rw [hx]

theorem dropXcache_gone (hd k : Nat) {j : Nat} {y : Stn} (h : tget? (dropXcache hd (some k) s).sch.stns j = some y) :
    ∀ e ∈ y.xcache, ¬ (e.2.1 = hd ∧ e.1 = k) := by
  unfold dropXcache at h
  dsimp only at h
  rw [tget?_tmap] at h
  obtain ⟨z, _, rfl⟩ := Option.map_eq_some_iff.1 h
  rintro e he ⟨h1, h2⟩
  have := (List.mem_filter.1 he).2
  simp [h1, h2] at this

/-! ### Fields of a record that a layout builds -/

/-- One field laid over a record. -/
def overlay (acc : List Byte) (f : Nat × List Byte) : List Byte := acc.take f.1 ++ f.2 ++ acc.drop (f.1 + f.2.length)

theorem length_overlay {acc : List Byte} {f : Nat × List Byte} (h : f.1 + f.2.length ≤ acc.length) :
    (overlay acc f).length = acc.length := by
  simp [overlay]
  omega

theorem field_overlay_same {acc : List Byte} {f : Nat × List Byte} (h : f.1 + f.2.length ≤ acc.length) :
    field (overlay acc f) f.1 f.2.length = leNat f.2 := by
  unfold overlay
  rw [field_append_left (by simp; omega), field_append_right (k := 0) (by simp; omega), field, List.drop_zero, List.take_length]

/-- A field that ends where the laid one begins, or before. -/
theorem field_overlay_before {acc : List Byte} {f : Nat × List Byte} {o n : Nat} (h : o + n ≤ f.1)
    (hf : f.1 + f.2.length ≤ acc.length) : field (overlay acc f) o n = field acc o n := by
  unfold overlay
  rw [List.append_assoc, field_append_left (by simp; omega)]
  conv_rhs => rw [← List.take_append_drop f.1 acc]
  rw [field_append_left (by simp; omega)]

theorem overlays_length (fs : List (Nat × List Byte)) (acc : List Byte) (h : ∀ f ∈ fs, f.1 + f.2.length ≤ acc.length) :
    (fs.foldl overlay acc).length = acc.length := by
  induction fs generalizing acc with
  | nil => rfl
  | cons f r ih =>
    have hf := length_overlay (h f List.mem_cons_self)
    rw [List.foldl_cons, ih _ (fun g hg => by rw [hf]; exact h g (List.mem_cons_of_mem _ hg)), hf]

theorem field_overlays_before (fs : List (Nat × List Byte)) (acc : List Byte) {o n : Nat} (h : ∀ f ∈ fs, f.1 + f.2.length ≤ acc.length)
    (hb : ∀ f ∈ fs, o + n ≤ f.1) : field (fs.foldl overlay acc) o n = field acc o n := by
  induction fs generalizing acc with
  | nil => rfl
  | cons f r ih =>
    have hf := h f List.mem_cons_self
    rw [List.foldl_cons, ih _ (fun g hg => by rw [length_overlay hf]; exact h g (List.mem_cons_of_mem _ hg))
      (fun g hg => hb g (List.mem_cons_of_mem _ hg)), field_overlay_before (hb f List.mem_cons_self) hf]

/-- Each field of a layout in rising order reads as it was laid. -/
theorem field_layout {size : Nat} {fs : List (Nat × List Byte)} (hs : ∀ f ∈ fs, f.1 + f.2.length ≤ size)
    (hp : fs.Pairwise (fun f g => f.1 + f.2.length ≤ g.1)) {f : Nat × List Byte} (hf : f ∈ fs) :
    field (layout size fs) f.1 f.2.length = leNat f.2 := by
  have gen (acc : List Byte) (ha : acc.length = size) : field (fs.foldl overlay acc) f.1 f.2.length = leNat f.2 := by
    induction fs generalizing acc with
    | nil => cases hf
    | cons g r ih =>
      have hg : g.1 + g.2.length ≤ acc.length := ha ▸ hs g List.mem_cons_self
      have hr (x) (hx : x ∈ r) : x.1 + x.2.length ≤ (overlay acc g).length := by
        rw [length_overlay hg, ha]
        exact hs x (List.mem_cons_of_mem _ hx)
      obtain ⟨p1, p2⟩ := List.pairwise_cons.1 hp
      rw [List.foldl_cons]
      rcases List.mem_cons.1 hf with rfl | hm
      · rw [field_overlays_before r _ hr p1, field_overlay_same hg]
      · exact ih (fun x hx => hs x (List.mem_cons_of_mem _ hx)) p2 hm _ ((length_overlay hg).trans ha)
  exact gen _ (length_zeros size)

theorem length_layout {size : Nat} {fs : List (Nat × List Byte)} (hs : ∀ f ∈ fs, f.1 + f.2.length ≤ size) :
    (layout size fs).length = size := by
  refine (overlays_length fs (zeros size) ?_).trans (length_zeros size)
  rwa [length_zeros]

theorem handleOf_lt (num : Nat) (x : Extent) : handleOf num x < 2 ^ 32 := by unfold handleOf; omega

/-- The parts of an extent record (R406). -/
def recordParts (start num : Nat) (x : Extent) : List (Nat × List Byte) :=
  [(0, leBytes 8 start), (8, leBytes 8 x.length), (16, leBytes 4 (handleOf num x)), (20, leBytes 1 x.placement),
    (21, leBytes 1 x.place), (22, leBytes 2 (x.attr + (if x.damaged then 32 else 0))), (24, leBytes 2 x.sharedSet),
    (26, leBytes 1 x.replicaWhere), (28, leBytes 2 x.sealSet), (30, leBytes 2 x.owner), (32, leBytes 2 x.slice)]

theorem recordBytes_eq (start num : Nat) (x : Extent) : recordBytes start num x = layout 64 (recordParts start num x) := by
  unfold recordBytes recordParts
  rfl

theorem recordParts_fit (start num : Nat) (x : Extent) : ∀ f ∈ recordParts start num x, f.1 + f.2.length ≤ 64 := by
  simp [recordParts]

theorem recordBytes_field {start num : Nat} {x : Extent} {o n v : Nat} (h : (o, leBytes n v) ∈ recordParts start num x) :
    field (recordBytes start num x) o n = v % 256 ^ n := by
  have := field_layout (recordParts_fit start num x) (by simp [recordParts]) h
  rwa [length_leBytes, leNat_leBytes, ← recordBytes_eq] at this

theorem recordBytes_fields (start num : Nat) (x : Extent) (b : List Byte) (hb : b = recordBytes start num x) :
    b.length = 64 ∧ field b 0 8 = start % 2 ^ 64 ∧ field b 8 8 = x.length % 2 ^ 64 ∧ field b 16 4 = handleOf num x ∧
      field b 20 1 = x.placement % 256 ∧ field b 21 1 = x.place % 256 ∧ field b 22 2 = (x.attr + (if x.damaged then 32 else 0)) % 65536 ∧
      field b 26 1 = x.replicaWhere % 256 ∧ field b 24 2 = x.sharedSet % 65536 ∧ field b 28 2 = x.sealSet % 65536 ∧
      field b 30 2 = x.owner % 65536 ∧ field b 32 2 = x.slice % 65536 := by
  have hh : field b 16 4 = handleOf num x := by
    rw [hb, recordBytes_field (v := handleOf num x) (by simp [recordParts])]
    exact Nat.mod_eq_of_lt (handleOf_lt num x)
  rw [hb] at hh ⊢
  refine ⟨?_, recordBytes_field (by simp [recordParts]), recordBytes_field (by simp [recordParts]), hh,
    recordBytes_field (by simp [recordParts]), recordBytes_field (by simp [recordParts]), recordBytes_field (by simp [recordParts]),
    recordBytes_field (by simp [recordParts]), recordBytes_field (by simp [recordParts]), recordBytes_field (by simp [recordParts]),
    recordBytes_field (by simp [recordParts]), recordBytes_field (by simp [recordParts])⟩
  rw [recordBytes_eq, length_layout (recordParts_fit start num x)]

/-! ### EXT_DESTROY (R367) -/

/-- What unhooking an extent leaves: the homes' work and the stations aside, its record and mappings are gone. -/
theorem unhookExtent_frame (num : Nat) (x : Extent) (s : State) :
    ∃ h r k l, unhookExtent num x s = { s with
      xt := { s.xt with extents := tdel s.xt.extents num, maps := s.xt.maps.filter (fun m => !decide (m.num = num)), counters := k },
      home := h, rbx := r, sch := { s.sch with stns := l } } := by
  unfold unhookExtent
  dsimp only
  have hf := HomesOnly.foldl (f := fun s k => retireLines k (((extGranList x).filter (fun e => decide (e.1 = k))).map (·.2)) s)
    (fun s k => retireLines_homes k _ s) (((extGranList x).map (·.1)).eraseDups)
    (dropXcache (handleOf num x) none { s with xt := { s.xt with
      extents := tdel s.xt.extents num, maps := s.xt.maps.filter (fun m => !decide (m.num = num)) } })
  rw [hf]
  exact ⟨_, _, _, _, rfl⟩

theorem zeroGran_mem (k g : Nat) (s : State) : ∃ m, zeroGran k g s = { s with mem := m } := ⟨_, rfl⟩

theorem tget?_filter {α : Type} {p : Nat → Bool} (t : Tbl α) (k : Nat) :
    tget? (t.filter (fun e => p e.1)) k = if p k then tget? t k else none := by
  induction t with
  | nil => simp [tget?]
  | cons e r ih =>
    obtain ⟨j, v⟩ := e
    by_cases hk : j = k
    · subst hk
      by_cases hp : p j = true <;> simp [tget?, hp] at ih ⊢
      exact ih
    · by_cases hp : p j = true <;> simpa [tget?, hp, hk] using ih

theorem zeroGran_cell (k g k' a : Nat) (ha : a < 2 ^ 36) (s : State) :
    tget 0 (zeroGran k g s).mem.cells (k' * 2 ^ 36 + a) =
      if (k', a / 65536) = (k, g) then 0 else tget 0 s.mem.cells (k' * 2 ^ 36 + a) := by
  have e1 : (k' * 2 ^ 36 + a) / 2 ^ 36 = k' := by omega
  have e2 : (k' * 2 ^ 36 + a) % 2 ^ 36 = a := by omega
  unfold zeroGran tget
  rw [tget?_filter (p := fun i => !decide (i / 2 ^ 36 = k ∧ i % 2 ^ 36 / 65536 = g)), e1, e2]
  simp only [Prod.mk.injEq]
  by_cases hk : k' = k ∧ a / 65536 = g <;> simp [hk]

theorem zeroGran_poison (k g : Nat) (s : State) (p : Nat) :
    p ∈ (zeroGran k g s).mem.poison ↔ p ∈ s.mem.poison ∧ ¬ (p / 2 ^ 29 = k ∧ p % 2 ^ 29 / 512 = g) := by
  simp only [zeroGran, List.mem_filter, Bool.not_eq_true', decide_eq_false_iff_not]

/-- Zeroing granules one by one: only device memory changes, a byte of one of them is zero and unpoisoned, any other as it was. -/
theorem zeroGrans_spec (l : List (Nat × Nat)) (s : State) :
    (∃ m, l.foldl (fun s e => zeroGran e.1 e.2 s) s = { s with mem := m }) ∧
    (∀ k a, a < 2 ^ 36 → tget 0 (l.foldl (fun s e => zeroGran e.1 e.2 s) s).mem.cells (k * 2 ^ 36 + a) =
      if (k, a / 65536) ∈ l then 0 else tget 0 s.mem.cells (k * 2 ^ 36 + a)) ∧
    (∀ p, p ∈ (l.foldl (fun s e => zeroGran e.1 e.2 s) s).mem.poison ↔ p ∈ s.mem.poison ∧ (p / 2 ^ 29, p % 2 ^ 29 / 512) ∉ l) := by
  induction l generalizing s with
  | nil => exact ⟨⟨s.mem, rfl⟩, fun k a _ => by simp, fun p => by simp⟩
  | cons e r ih =>
    obtain ⟨⟨m, hm⟩, hc, hp⟩ := ih (zeroGran e.1 e.2 s)
    rw [List.foldl_cons]
    refine ⟨⟨m, hm⟩, fun k a ha => ?_, fun p => ?_⟩
    · rw [hc k a ha, zeroGran_cell _ _ _ _ ha]
      by_cases h1 : (k, a / 65536) ∈ r
      · simp [h1]
      · by_cases h2 : (k, a / 65536) = e <;> simp [h1, h2]
    · rw [hp, zeroGran_poison, List.mem_cons, not_or, Prod.ext_iff, and_assoc]

end

/-- Settles O35. -/
theorem extentCommands : Obligations.ExtentCommands := by
  unfold Obligations.ExtentCommands
  refine ⟨?_, fun s q n h u c st hs hst => extCreate_refused hs h hst, ?_, ?_, ?_, ?_⟩
  · intro s q n h u c o main r1 rep r2 hs hr ho hd hsl hm h1 h2 hq t1 t2 hp hse
    obtain ⟨hu, hc⟩ := hs.ids
    obtain ⟨keys, hk⟩ := extPlace_ok hu hc h main rep hr hp hse
    refine ⟨_, pickNum s h.num, nextGen s (pickNum s h.num),
      (extCreate_ok hs h hr ho hd hsl hm h1 h2 hq t1 t2).trans (congrArg _ hk), pickNum_free s h.num, rfl, rfl,
      finishCmd_replies (s := s) hs _ _, rfl, rfl, rfl⟩
  · intro s q n u c tc num x hs ht hd hx h0 hm hr hn hb
    refine ⟨_, extShare_ok hs ht hd hx h0 hm hr hn hb, ?_⟩
    dsimp only
    split
    · next hro => exact ⟨finish_replies hs.queue hs.taken _ _, rfl, rfl, rfl, rfl, fun _ => rfl, fun k => by simp [hro] at k⟩
    · next hro => exact ⟨finish_replies hs.queue hs.taken _ _, rfl, rfl, rfl, rfl, fun k => absurd k hro, fun _ k y hy => dropCopies_cache x s hy⟩
  · intro s q n u c m x hs hm hx
    refine ⟨_, extUnmap_eq hs hm, ?_⟩
    rw [unmap_extent hx]
    exact ⟨finish_replies hs.queue hs.taken _ _, rfl, rfl, fun k y hy => dropXcache_gone _ _ hy, rfl⟩
  · intro s q n u c hs
    obtain ⟨hu, hc⟩ := hs.ids
    have he : exec (.extQuery q n) s = .next (extQueryS u c s) := cmdOut_started hs _
    unfold extQueryS at he
    rw [hu, hc] at he
    refine ⟨fun hf => ?_, fun m x hf => ?_⟩
    · rw [he, hf]
      rfl
    · rw [he, hf]
      exact ⟨_, rfl, recordBytes_fields _ _ _ _ rfl⟩
  · intro s q n u c num x hs hx
    obtain ⟨hu, hc⟩ := hs.ids
    have he : exec (.extDestroy q n) s = .next (extDestroyS u c s) := cmdOut_started hs _
    unfold extDestroyS destroyNow at he
    rw [hu, hc, hx] at he
    dsimp only at he
    obtain ⟨h, r, k, l, hun⟩ := unhookExtent_frame num x s
    obtain ⟨⟨m, hm⟩, hcell, hpois⟩ := zeroGrans_spec (extGranList x) (unhookExtent num x s)
    have hmem : (unhookExtent num x s).mem = s.mem := by rw [hun]
    have hxt : ((extGranList x).foldl (fun s e => zeroGran e.1 e.2 s) (unhookExtent num x s)).xt =
        { s.xt with extents := tdel s.xt.extents num, maps := s.xt.maps.filter (fun m => !decide (m.num = num)), counters := k } := by
      rw [hm, hun]
    have hq : ((extGranList x).foldl (fun s e => zeroGran e.1 e.2 s) (unhookExtent num x s)).cmd = s.cmd := by
      rw [hm, hun]
    rw [hmem] at hcell
    generalize (extGranList x).foldl (fun s e => zeroGran e.1 e.2 s) (unhookExtent num x s) = t at he hcell hpois hxt hq
    refine ⟨_, he, finish_replies (by rw [hq]; exact hs.queue) hs.taken _ _, ?_, ?_, ?_, ?_, ?_⟩
    · refine (congrArg (fun x => tget? x.extents num) hxt).trans ?_
      simp [tget?_tdel]
    · intro y hy
      have hy : y ∈ t.xt.maps := hy
      rw [hxt] at hy
      simpa [and_comm] using hy
    · intro j hj
      refine (congrArg (fun x => tget? x.extents j) hxt).trans ?_
      rw [tget?_tdel, if_neg (Ne.symm hj)]
    · intro k a hk ha
      refine ⟨(hcell k a ha).trans (if_pos hk), fun hp => ?_⟩
      have e1 : (k * 2 ^ 29 + a / 128) / 2 ^ 29 = k := by omega
      have e2 : (k * 2 ^ 29 + a / 128) % 2 ^ 29 / 512 = a / 65536 := by omega
      have := ((hpois _).1 hp).2
      rw [e1, e2] at this
      exact this hk
    · intro k a hk ha
      exact (hcell k a ha).trans (if_neg hk)

end Sys2Proof.Machine
end

section
/-! PROOF. Pins, the aperture, inbound windows and their counters. -/

namespace Sys2Proof.Machine

/-! ### Pins (R285-R288) -/

theorem mem_addPins (n : Nat) (keys : List Nat) (t : Tbl (List Nat)) (k sl : Nat) :
    sl ∈ tget [] (keys.foldl (fun t k => tmod [] t k (insKey n)) t) k ↔ sl ∈ tget [] t k ∨ (sl = n ∧ k ∈ keys) := by
  induction keys generalizing t with
  | nil => simp
  | cons a r ih =>
    rw [List.foldl_cons, ih, tget_tmod, List.mem_cons]
    by_cases h : a = k
    · subst h
      rw [if_pos rfl, mem_insKey]
      tauto
    · rw [if_neg h]
      have : k ≠ a := Ne.symm h
      tauto

theorem mem_dropPins (n : Nat) (keys : List Nat) (t : Tbl (List Nat)) (k sl : Nat) :
    sl ∈ tget [] (keys.foldl (fun t k => tmod [] t k (fun l => l.filter (fun m => !decide (m = n)))) t) k ↔
      sl ∈ tget [] t k ∧ ¬ (sl = n ∧ k ∈ keys) := by
  induction keys generalizing t with
  | nil => simp
  | cons a r ih =>
    rw [List.foldl_cons, ih, tget_tmod, List.mem_cons]
    by_cases h : a = k
    · subst h
      rw [if_pos rfl, List.mem_filter, Bool.not_eq_true', decide_eq_false_iff_not]
      tauto
    · rw [if_neg h]
      have : k ≠ a := Ne.symm h
      tauto

/-- The preloads left over touch none of the dies. -/
theorem stopPreloads_apart (keys : List Nat) (s : State) : ∃ l, stopPreloads keys s = { s with home := { s.home with preloads := l } } ∧
    ∀ e ∈ l, ∀ k ∈ e.2.2, ∀ j ∈ keys, k / 2 ^ 29 ≠ j / 2 ^ 29 := by
  refine ⟨_, rfl, fun e he k hk j hj h => ?_⟩
  obtain ⟨p, _, rfl⟩ := List.mem_map.1 (List.mem_filter.1 he).1
  have := (List.mem_filter.1 hk).2
  rw [h] at this
  simp only [Bool.not_eq_true', decide_eq_false_iff_not] at this
  exact this (List.mem_map.2 ⟨j, hj, rfl⟩)

/-! ### The aperture and counters (R368, R377) -/

theorem tget?_foldl_tput_run {α : Type} (p : Nat) (v : Nat → α) (n : Nat) (t : Tbl α) (k : Nat) :
    tget? ((List.range n).foldl (fun m i => tput m (p + i) (v i)) t) k =
      if p ≤ k ∧ k < p + n then some (v (k - p)) else tget? t k := by
  induction n with
  | zero =>
    rw [if_neg (by omega)]
    rfl
  | succ n ih =>
    rw [List.range_succ, List.foldl_append, List.foldl_cons, List.foldl_nil, tget?_tput, ih]
    by_cases h : p + n = k
    · subst h
      rw [if_pos rfl, if_pos (by omega), Nat.add_sub_cancel_left]
    · rw [if_neg h]
      by_cases h1 : p ≤ k ∧ k < p + n
      · rw [if_pos h1, if_pos (by omega)]
      · rw [if_neg h1, if_neg (by omega)]

theorem mem_bitsSet (n v i : Nat) : i ∈ bitsSet n v ↔ i < n ∧ bitOf v i = true := by
  simp [bitsSet, bitOf]

theorem clearCounters_get (w m : Nat) (t : Tbl Nat) (j : Nat) :
    tget 0 ((bitsSet 16 m).foldl (fun t i => tset 0 t (16 * w + i) 0) t) j =
      if 16 * w ≤ j ∧ j - 16 * w < 16 ∧ bitOf m (j - 16 * w) = true then 0 else tget 0 t j := by
  by_cases h : 16 * w ≤ j ∧ j - 16 * w < 16 ∧ bitOf m (j - 16 * w) = true
  · obtain ⟨h1, h2, h3⟩ := h
    rw [if_pos ⟨h1, h2, h3⟩]
    obtain ⟨i, rfl⟩ : ∃ i, j = 16 * w + i := ⟨j - 16 * w, by omega⟩
    rw [Nat.add_sub_cancel_left] at h2 h3
    rw [tget_foldl_tset 0 (fun i => 16 * w + i) (fun _ => 0) (fun i j e => by omega) (bitsSet 16 m) (List.nodup_range.filter _) t i,
      if_pos ((mem_bitsSet ..).2 ⟨h2, h3⟩)]
  · rw [if_neg h]
    refine tget_foldl_tset_other 0 (fun i => 16 * w + i) (fun _ => 0) _ t j fun i hi e => h ?_
    obtain ⟨h1, h2⟩ := (mem_bitsSet ..).1 hi
    have : j - 16 * w = i := by omega
    exact ⟨by omega, by omega, by rwa [this]⟩

section
variable {s : State} {q n : Nat} {u : Queue} {c : TakenCmd}

theorem pin_eq {cx : Ctx} {num : Nat} {x : Extent} (h : Started s q n 0x0206 u c) (hx : ctxOf s c.ctx = some cx)
    (he : cmdExtent s (par c 12 4) = some (num, x)) (hf : par c 16 1 ≤ 1) :
    exec (.pin q n) s = .next (
      if pinRangeOk x (par c 0 8) (par c 8 4) = false then finishCmd q n 0x0015 0 s
      else if pinCheck s cx.slice (extLines x (par c 0 8) (65536 * par c 8 4)) ≠ 2 then
        finishCmd q n (pinCheck s cx.slice (extLines x (par c 0 8) (65536 * par c 8 4))) 0 s
      else finishCmd q n 2 0 { s with home := { s.home with
        pins := (extLines x (par c 0 8) (65536 * par c 8 4)).foldl (fun t k => tmod [] t k (insKey cx.slice)) s.home.pins
        preloads := if par c 16 1 = 1 ∧ ∃ k ∈ extLines x (par c 0 8) (65536 * par c 8 4), (hline s k).cached = false then
          s.home.preloads ++ [(q, n, (extLines x (par c 0 8) (65536 * par c 8 4)).filter (fun k => !(hline s k).cached))]
          else s.home.preloads } }) := by
  obtain ⟨e1, e2⟩ := h.ids
  refine (cmdOut_started h _).trans (congrArg _ ?_)
  unfold pinS
  rw [hx, he, e1, e2]
  dsimp only
  cases hr : pinRangeOk x (par c 0 8) (par c 8 4)
  · rw [if_pos (by simp), if_pos rfl]
    rfl
  have h1 : ¬ (¬ true = true ∨ 1 < par c 16 1) := by simpa using hf
  rw [if_neg h1, if_neg (by simp : ¬ (true = false))]
  by_cases hp : pinCheck s cx.slice (extLines x (par c 0 8) (65536 * par c 8 4)) ≠ stPinOk
  · rw [if_pos hp, if_pos (show _ ≠ 2 from hp)]
  rw [if_neg hp, if_neg (show ¬ _ ≠ 2 from hp)]
  refine congrArg (finishCmd q n 2 0) ?_
  have hk : (¬ ((extLines x (par c 0 8) (65536 * par c 8 4)).filter (fun k => !(hline s k).cached)).isEmpty = true) ↔
      ∃ k ∈ extLines x (par c 0 8) (65536 * par c 8 4), (hline s k).cached = false := by
    simp [List.isEmpty_iff, List.filter_eq_nil_iff]
  by_cases hc : par c 16 1 = 1 ∧ ∃ k ∈ extLines x (par c 0 8) (65536 * par c 8 4), (hline s k).cached = false
  · rw [if_pos hc]
    exact if_pos ⟨hc.1, hk.2 hc.2⟩
  · rw [if_neg hc]
    exact if_neg fun e => hc ⟨e.1, hk.1 e.2⟩

theorem unpin_eq {cx : Ctx} {num : Nat} {x : Extent} (h : Started s q n 0x0207 u c) (hx : ctxOf s c.ctx = some cx)
    (he : cmdExtent s (par c 12 4) = some (num, x)) :
    exec (.unpin q n) s = .next (
      if pinRangeOk x (par c 0 8) (par c 8 4) = false then finishCmd q n 0x0015 0 s
      else finishCmd q n 0 0 (stopPreloads (extLines x (par c 0 8) (65536 * par c 8 4))
        (dropPins cx.slice (extLines x (par c 0 8) (65536 * par c 8 4)) s))) := by
  obtain ⟨e1, e2⟩ := h.ids
  refine (cmdOut_started h _).trans (congrArg _ ?_)
  unfold unpinS
  rw [hx, he, e1, e2]
  dsimp only
  cases hr : pinRangeOk x (par c 0 8) (par c 8 4)
  · rw [if_pos (by simp), if_pos rfl]
    rfl
  · rw [if_neg (by simp), if_neg (by simp)]
    rfl

section
variable {tc : Ctx} (h : Started s q n 0x0208 u c) (ht : ctxOf s (par c 16 2) = some tc) (hd : tc.dead = false)
  (ha : par c 0 8 % 65536 = 0) (hr : par c 18 1 ≤ 7) (hp : par c 8 4 + par c 12 4 ≤ 2 ^ (s.pci.bar4Log2 - 16))

include h ht hd ha hr hp

/-- APERTURE_SET of a range in order asks the extents of its pages. -/
theorem apertureSet_eq (o : Out) (ho : o = .next (
      let exts := (List.range (par c 12 4)).map (fun i => (findMap s (par c 16 2) (par c 0 8 + 65536 * i)).map (·.2))
      if bitOf (par c 18 1) 2 then
        if exts.any (·.isNone) then finishCmd q n 0x0034 0 s
        else if exts.any (fun e => (e.map (fun x => attrSealed x.attr)).getD false) then finishCmd q n 0x0038 0 s
        else if bitOf (par c 18 1) 1 ∧ exts.any (fun e => (e.map (fun x => readOnlyFor x (par c 16 2))).getD false) then finishCmd q n 0x0015 0 s
        else finishCmd q n 0 0 { s with xt := { s.xt with
          apertures := (List.range (par c 12 4)).foldl (fun m i =>
            tput m (par c 8 4 + i) ⟨par c 16 2, par c 0 8 + 65536 * i, bitOf (par c 18 1) 0, bitOf (par c 18 1) 1⟩) s.xt.apertures } }
      else finishCmd q n 0 0 { s with xt := { s.xt with
        apertures := s.xt.apertures.filter (fun e => !decide (par c 8 4 ≤ e.1 ∧ e.1 < par c 8 4 + par c 12 4)) } })) :
    exec (.apertureSet q n) s = o := by
  obtain ⟨e1, e2⟩ := h.ids
  rw [ho]
  refine (cmdOut_started h _).trans (congrArg _ ?_)
  unfold apertureSetS
  dsimp only
  rw [ht, e1, e2]
  dsimp only
  rw [if_neg (by simp [hd]), if_neg (by unfold apPages; omega)]
  rfl

theorem apertureSet_clear (hv : bitOf (par c 18 1) 2 = false) : exec (.apertureSet q n) s = .next (
    finishCmd q n 0 0 { s with xt := { s.xt with
      apertures := s.xt.apertures.filter (fun e => !decide (par c 8 4 ≤ e.1 ∧ e.1 < par c 8 4 + par c 12 4)) } }) := by
  refine apertureSet_eq h ht hd ha hr hp _ ?_
  dsimp only
  rw [if_neg (by simp [hv])]

theorem apertureSet_hole (hv : bitOf (par c 18 1) 2 = true)
    (hn : ∃ i < par c 12 4, findMap s (par c 16 2) (par c 0 8 + 65536 * i) = none) :
    exec (.apertureSet q n) s = .next (finishCmd q n 0x0034 0 s) := by
  refine apertureSet_eq h ht hd ha hr hp _ ?_
  dsimp only
  rw [if_pos hv, if_pos (by simpa using hn)]

variable (hv : bitOf (par c 18 1) 2 = true)
  (hs : ∀ i < par c 12 4, (findMap s (par c 16 2) (par c 0 8 + 65536 * i)).isSome)

include hv hs

theorem apertureSet_sealed (he : ∃ i < par c 12 4, ∃ m x, findMap s (par c 16 2) (par c 0 8 + 65536 * i) = some (m, x) ∧ attrSealed x.attr = true) :
    exec (.apertureSet q n) s = .next (finishCmd q n 0x0038 0 s) := by
  refine apertureSet_eq h ht hd ha hr hp _ ?_
  dsimp only
  rw [if_pos hv, if_neg, if_pos]
  · obtain ⟨i, hi, m, x, hm, hx⟩ := he
    exact List.any_eq_true.2 ⟨_, List.mem_map.2 ⟨i, List.mem_range.2 hi, rfl⟩, by simp [hm, hx]⟩
  · simpa [Option.ne_none_iff_isSome] using hs

theorem apertureSet_made (hx : ∀ i < par c 12 4, ∀ m x, findMap s (par c 16 2) (par c 0 8 + 65536 * i) = some (m, x) →
    attrSealed x.attr = false ∧ (bitOf (par c 18 1) 1 = true → readOnlyFor x (par c 16 2) = false)) :
    exec (.apertureSet q n) s = .next (finishCmd q n 0 0 { s with xt := { s.xt with
      apertures := (List.range (par c 12 4)).foldl (fun m i =>
        tput m (par c 8 4 + i) ⟨par c 16 2, par c 0 8 + 65536 * i, bitOf (par c 18 1) 0, bitOf (par c 18 1) 1⟩) s.xt.apertures } }) := by
  refine apertureSet_eq h ht hd ha hr hp _ ?_
  have none (p : Extent → Bool) (hq : ∀ i < par c 12 4, ∀ m x, findMap s (par c 16 2) (par c 0 8 + 65536 * i) = some (m, x) → p x = false) :
      ¬ ((List.range (par c 12 4)).map (fun i => (findMap s (par c 16 2) (par c 0 8 + 65536 * i)).map (·.2))).any
        (fun e => (e.map p).getD false) = true := by
    intro ht
    obtain ⟨_, he, hb⟩ := List.any_eq_true.1 ht
    obtain ⟨i, hi, rfl⟩ := List.mem_map.1 he
    cases hm : findMap s (par c 16 2) (par c 0 8 + 65536 * i) with
    | none => simp [hm] at hb
    | some e => simp [hm, hq i (List.mem_range.1 hi) e.1 e.2 hm] at hb
  dsimp only
  rw [if_pos hv, if_neg, if_neg (none _ fun i hi m x hm => (hx i hi m x hm).1), if_neg]
  · rintro ⟨h1, h2⟩
    exact none _ (fun i hi m x hm => (hx i hi m x hm).2 h1) h2
  · simpa [Option.ne_none_iff_isSome] using hs

end

/-! ### WINDOW_SET and COUNTER_RESET (R377, R378) -/

theorem windowSet_eq {oc : Ctx} {es : List WinEntry} (h : Started s q n 0x0209 u c) (ho : ctxOf s (par c 10 2) = some oc)
    (hw : par c 8 2 ≤ 255) (hn : par c 14 1 ≤ 64)
    (hr : ∀ i < par c 14 1, winEntryOk (hostRead s u.pasid (par c 0 8 + 32 * i) 32) = true)
    (he : es = (List.range (par c 14 1)).map (fun i => winEntry (hostRead s u.pasid (par c 0 8 + 32 * i) 32)))
    (hd : winDisjoint es = true) :
    exec (.windowSet q n) s = .next (
      if oc.dead then finishCmd q n 0x0021 0 s
      else if par c 14 1 = 0 then finishCmd q n 0 0 { s with xt := { s.xt with windows := tdel s.xt.windows (par c 8 2) } }
      else if ¬ es.all (winMapped s (par c 10 2)) then finishCmd q n 0x0034 0 s
      else if windowQuota s oc.slice ≤ sliceWindows s oc.slice (par c 8 2) then finishCmd q n 0x0077 0 s
      else finishCmd q n 0 0 { s with xt := { s.xt with windows := tput s.xt.windows (par c 8 2) ⟨par c 10 2, par c 12 2, es⟩ } }) := by
  obtain ⟨e1, e2⟩ := h.ids
  refine (cmdOut_started h _).trans (congrArg _ ?_)
  have hes : ((List.range (par c 14 1)).map (fun i => hostRead s u.pasid (par c 0 8 + 32 * i) 32)).map winEntry = es := by
    rw [he, List.map_map]
    rfl
  have hall : ((List.range (par c 14 1)).map (fun i => hostRead s u.pasid (par c 0 8 + 32 * i) 32)).all winEntryOk = true := by
    simpa using hr
  unfold windowSetS
  dsimp only
  rw [ho, e1, e2]
  dsimp only
  rw [hes, if_neg (by rw [hall, hd]; simp; omega)]
  rfl

theorem counterReset_eq (h : Started s q n 0x020A u c) :
    exec (.counterReset q n) s = .next (
      match tget? s.xt.windows (par c 0 2) with
      | some x =>
        if x.owner ≠ c.ctx then finishCmd q n 0x0015 0 s
        else finishCmd q n 0 0 { s with xt := { s.xt with
          counters := (bitsSet 16 (par c 2 2)).foldl (fun t i => tset 0 t (16 * par c 0 2 + i) 0) s.xt.counters } }
      | none => finishCmd q n 0x0015 0 s) := by
  obtain ⟨e1, e2⟩ := h.ids
  refine (cmdOut_started h _).trans (congrArg _ ?_)
  unfold counterResetS
  dsimp only
  rw [e1, e2]
  cases tget? s.xt.windows (par c 0 2) <;> rfl

end

/-- Settles O36. -/
theorem pinApertureWindowAndCounterCommands : Obligations.PinApertureWindowAndCounterCommands := by
  unfold Obligations.PinApertureWindowAndCounterCommands
  refine ⟨?_, ?_, ?_, ?_, ?_⟩
  · intro s q n u c cx num x h hx he hf
    rw [pin_eq h hx he hf]
    refine ⟨fun hr => by rw [if_pos hr], fun hr => ?_⟩
    rw [if_neg (by simp [hr])]
    refine ⟨?_, fun hp h0 => ?_, fun hp h1 => ?_⟩
    · rintro st rfl hp
      rw [if_pos hp]
    · rw [if_neg (not_not.2 hp), if_neg (by omega)]
      exact ⟨_, rfl, fun k sl => mem_addPins ..⟩
    · rw [if_neg (not_not.2 hp)]
      refine ⟨_, _, rfl, fun k sl => mem_addPins .., fun hc => if_neg ?_, fun hc => if_pos ⟨h1, hc⟩⟩
      rintro ⟨_, k, hk, hf⟩
      simp [hc k hk] at hf
  · intro s q n u c cx num x h hx he
    rw [unpin_eq h hx he]
    refine ⟨fun hr => by rw [if_pos hr], fun hr => ?_⟩
    rw [if_neg (by simp [hr])]
    obtain ⟨l, hl, ha⟩ := stopPreloads_apart (extLines x (par c 0 8) (65536 * par c 8 4))
      (dropPins cx.slice (extLines x (par c 0 8) (65536 * par c 8 4)) s)
    rw [hl]
    exact ⟨_, l, rfl, fun k sl => mem_dropPins .., ha⟩
  · intro s q n u c tc h ht hd ha hr hp
    refine ⟨fun hv => ⟨_, apertureSet_clear h ht hd ha hr hp hv, fun e => ?_⟩, apertureSet_hole h ht hd ha hr hp,
      fun hv hs => ⟨apertureSet_sealed h ht hd ha hr hp hv hs, fun hx => ⟨_, apertureSet_made h ht hd ha hr hp hv hs hx, fun i hi => ?_, fun k hk => ?_⟩⟩⟩
    · simp only [List.mem_filter, Bool.not_eq_true', decide_eq_false_iff_not]
    · rw [tget?_foldl_tput_run, if_pos (by omega), Nat.add_sub_cancel_left]
    · rw [tget?_foldl_tput_run, if_neg (by omega)]
  · intro s q n u c oc es h ho hw hn hr he hd
    rw [windowSet_eq h ho hw hn hr he hd]
    refine ⟨fun h1 => by rw [if_pos h1], fun h1 h2 => by rw [if_neg (by simp [h1]), if_pos h2], fun h1 h2 ⟨e, h3, h4⟩ => ?_, fun h1 h2 h3 => ?_⟩
    · rw [if_neg (by simp [h1]), if_neg h2, if_pos]
      exact fun hall => by simp [List.all_eq_true.1 hall e h3] at h4
    · rw [if_neg (by simp [h1]), if_neg h2, if_neg]
      exact not_not.2 (List.all_eq_true.2 h3)
  · intro s q n u c h
    rw [counterReset_eq h]
    refine ⟨fun hw => ?_, fun w hw ho => ?_⟩
    · cases he : tget? s.xt.windows (par c 0 2) with
      | none => rfl
      | some w => exact congrArg _ (if_pos (hw w he))
    · rw [hw]
      refine ⟨_, congrArg _ (if_neg (not_not.2 ho)), fun i hi => ?_, fun j hj => ?_⟩
      · simp [clearCounters_get, hi]
      · rw [clearCounters_get, if_neg (by omega)]

end Sys2Proof.Machine
end

section
/-! PROOF. Recipes loaded, checked and unloaded, and launches that ask for placement. -/

namespace Sys2Proof.Machine

/-- A `match` on a Boolean condition's refusal aside, a taken command runs its meaning. -/
theorem cmdTaken_taken {s : State} {q n op : Nat} {u : Queue} {c : TakenCmd} (f : Queue → TakenCmd → State → State)
    (hu : tget? s.cmd.queues q = some u) (hc : u.cmds.find? (fun c => decide (c.seq = n)) = some c) (ho : c.op = op)
    (hp : c.phase = .taken) : cmdTaken op q n f s = f u c s := by
  unfold cmdTaken
  rw [hu]
  dsimp only
  rw [hc]
  dsimp only
  rw [if_pos ⟨ho, hp⟩]

section
variable {s : State} {q n : Nat} {u : Queue} {c : TakenCmd}

/-! ### RECIPE_LOAD (R87, R406) -/

/-- A Recipe loaded: its identifier in the context, and its place among the loaded Recipes. -/
def recipeLoaded (c : TakenCmd) (id : Nat) (b : List Byte) (s : State) : State :=
  let t := setCtx c.ctx (fun x => { x with recipes := tput x.recipes id s.sch.nextKey }) s
  { t with sch := { t.sch with recipes := tput t.sch.recipes s.sch.nextKey (parseRecipe c.ctx b), nextKey := s.sch.nextKey + 1 } }

theorem recipeLoad_full {x : Ctx} (h : Started s q n 0x0301 u c) (hx : ctxOf s c.ctx = some x) (h0 : par c 8 4 ≠ 0) (h1 : par c 8 4 % 64 = 0)
    (h2 : par c 8 4 ≤ 67108864) (hl : 256 ≤ x.recipes.length) : exec (.recipeLoad q n) s = .next (finishCmd q n 0x0046 0 s) := by
  obtain ⟨e1, e2⟩ := h.ids
  refine (cmdOut_started h _).trans (congrArg _ ?_)
  unfold recipeLoadS
  dsimp only
  rw [hx, e1, e2]
  dsimp only
  rw [if_neg (show ¬ (par c 8 4 = 0 ∨ par c 8 4 % 64 ≠ 0 ∨ 67108864 < par c 8 4) by omega), if_pos hl]
  rfl

theorem recipeLoad_eq {x : Ctx} (h : Started s q n 0x0301 u c) (hx : ctxOf s c.ctx = some x) (h0 : par c 8 4 ≠ 0) (h1 : par c 8 4 % 64 = 0)
    (h2 : par c 8 4 ≤ 67108864) (hl : x.recipes.length < 256)
    (hr : ctxReadRefusal s c.ctx (par c 0 8) (par c 8 4) (.cmd q n) = none) (hb : ctxBusy s c.ctx (par c 0 8) (par c 8 4) = false) :
    exec (.recipeLoad q n) s = .next (
      match recipeFault (ctxRead s c.ctx (par c 0 8) (par c 8 4)) (par c 8 4) with
      | some (st, o) => finishCmd q n st o s
      | none => finishCmd q n 0 (lowestFree (tkeys x.recipes) 257 1)
          (recipeLoaded c (lowestFree (tkeys x.recipes) 257 1) (ctxRead s c.ctx (par c 0 8) (par c 8 4)) s)) := by
  obtain ⟨e1, e2⟩ := h.ids
  refine (cmdOut_started h _).trans (congrArg _ ?_)
  unfold recipeLoadS
  dsimp only
  rw [hx, e1, e2]
  dsimp only
  rw [if_neg (show ¬ (par c 8 4 = 0 ∨ par c 8 4 % 64 ≠ 0 ∨ 67108864 < par c 8 4) by omega), if_neg (show ¬ 256 ≤ x.recipes.length by omega), hr]
  dsimp only
  rw [if_neg (show ¬ ctxBusy s c.ctx (par c 0 8) (par c 8 4) = true by simp [hb])]
  cases recipeFault (ctxRead s c.ctx (par c 0 8) (par c 8 4)) (par c 8 4) <;> rfl

theorem recipeLoaded_ctx {x : Ctx} (hx : ctxOf s c.ctx = some x) (id : Nat) (b : List Byte) :
    ctxOf (recipeLoaded c id b s) c.ctx = some { x with recipes := tput x.recipes id s.sch.nextKey } :=
  ctxOf_setCtx hx _

theorem recipeLoaded_frame (c : TakenCmd) (id : Nat) (b : List Byte) (s : State) : ∃ l, recipeLoaded c id b s =
    { s with ten := { s.ten with ctxs := l }, sch := { s.sch with
      recipes := tput s.sch.recipes s.sch.nextKey (parseRecipe c.ctx b), nextKey := s.sch.nextKey + 1 } } := by
  unfold recipeLoaded
  obtain ⟨l, hl⟩ := setCtx_frame c.ctx (fun x => { x with recipes := tput x.recipes id s.sch.nextKey }) s
  rw [hl]
  exact ⟨l, rfl⟩

/-- The identifier of a new Recipe is free, and every lower one is taken. -/
theorem newRecipe_free {t : Tbl Nat} (h : t.length < 256) : 1 ≤ lowestFree (tkeys t) 257 1 ∧ tget? t (lowestFree (tkeys t) 257 1) = none ∧
    ∀ j, 1 ≤ j → j < lowestFree (tkeys t) 257 1 → (tget? t j).isSome := by
  obtain ⟨h1, _, h3, _⟩ := lowestFree_spec (tkeys t) 257 1
  have hf := lowestFree_free (used := tkeys t) (fuel := 257) 1 (by rw [tkeys, List.length_map]; omega)
  rw [mem_tkeys] at hf
  exact ⟨h1, by simpa using hf, fun j a b => (mem_tkeys t j).1 (h3 j a b)⟩

/-! ### RECIPE_CHECK and RECIPE_UNLOAD (R88, R406) -/

theorem recipeCheck_eq {k : Nat} {r : Recipe} (h : Started s q n 0x0302 u c) (hr : recipeOf s c.ctx (par c 0 2) = some (k, r)) :
    exec (.recipeCheck q n) s = .next (
      match checkFinding r with
      | some (st, d) => finishCmd q n st d s
      | none => finishCmd q n 1 0 { s with sch := { s.sch with recipes := tput s.sch.recipes k { r with checked := true } } }) := by
  obtain ⟨e1, e2⟩ := h.ids
  refine (cmdOut_started h _).trans (congrArg _ ?_)
  unfold recipeCheckS
  rw [hr, e1, e2]
  dsimp only
  cases checkFinding r <;> rfl

/-- The checker's analyses in their order (R88). -/
theorem checkFinding_eq (r : Recipe) : checkFinding r =
    match checkDeadlock r, checkRestOrder r, checkLive r, checkBound r, checkShader r with
    | some d, _, _, _, _ => some (0x0050, d)
    | none, some d, _, _, _ => some (0x0051, d)
    | none, none, some d, _, _ => some (0x0052, d)
    | none, none, none, some d, _ => some (0x0053, d)
    | none, none, none, none, some d => some (0x0054, d)
    | none, none, none, none, none => none := by
  unfold checkFinding
  simp only [List.zipIdx_cons, List.zipIdx_nil, List.findSome?_cons, List.findSome?_nil]
  generalize checkDeadlock r = a
  generalize checkRestOrder r = b
  generalize checkLive r = x
  generalize checkBound r = y
  generalize checkShader r = z
  cases a
  · cases b
    · cases x
      · cases y
        · cases z <;> rfl
        · rfl
      · rfl
    · rfl
  · rfl

/-- A Recipe taken out of its context and of the loaded ones. -/
def recipeUnloaded (c : TakenCmd) (k : Nat) (s : State) : State :=
  let t := setCtx c.ctx (fun x => { x with recipes := tdel x.recipes (par c 0 2) }) s
  { t with sch := { t.sch with recipes := tdel t.sch.recipes k } }

theorem recipeUnload_eq {k : Nat} {r : Recipe} (h : Started s q n 0x0303 u c) (hr : recipeOf s c.ctx (par c 0 2) = some (k, r)) :
    exec (.recipeUnload q n) s = .next (
      if s.sch.launches.any (fun e => decide (e.2.recipe = k)) then finishCmd q n 0x0018 0 s
      else finishCmd q n 0 0 (recipeUnloaded c k s)) := by
  obtain ⟨e1, e2⟩ := h.ids
  refine (cmdOut_started h _).trans (congrArg _ ?_)
  unfold recipeUnloadS
  dsimp only
  rw [hr, e1, e2]
  rfl

theorem recipeUnloaded_frame (c : TakenCmd) (k : Nat) (s : State) : ∃ l, recipeUnloaded c k s =
    { s with ten := { s.ten with ctxs := l }, sch := { s.sch with recipes := tdel s.sch.recipes k } } := by
  unfold recipeUnloaded
  obtain ⟨l, hl⟩ := setCtx_frame c.ctx (fun x => { x with recipes := tdel x.recipes (par c 0 2) }) s
  rw [hl]
  exact ⟨l, rfl⟩

theorem recipeUnloaded_ctx {x : Ctx} (hx : ctxOf s c.ctx = some x) (k : Nat) :
    ctxOf (recipeUnloaded c k s) c.ctx = some { x with recipes := tdel x.recipes (par c 0 2) } := ctxOf_setCtx hx _

theorem recipeOf_ctx {x id k : Nat} {r : Recipe} (h : recipeOf s x id = some (k, r)) : ∃ y, ctxOf s x = some y := by
  unfold recipeOf at h
  cases hx : ctxOf s x with
  | none => simp [hx] at h
  | some y => exact ⟨y, rfl⟩

/-! ### LAUNCH (R79-R81) -/

theorem launch_eq (hp : s.pwr.phase = .ready) (hu : tget? s.cmd.queues q = some u)
    (hc : u.cmds.find? (fun c => decide (c.seq = n)) = some c) (ho : c.op = 0x0304) (ht : c.phase = .taken) :
    exec (.launch q n) s = .next (launchS u c s) :=
  (ifUp_ready hp).trans (congrArg _ (cmdTaken_taken launchS hu hc ho ht))

/-- A launch that waits in the launch list. -/
def launchAdded (l : Launch) (s : State) : State :=
  { s with sch := { s.sch with launches := tput s.sch.launches s.sch.nextKey l, nextKey := s.sch.nextKey + 1, order := s.sch.order + 1 } }

theorem canPlace_launchAdded (s : State) {l : Launch} (hl : l.ph = .waiting) (f : List Nat) :
    canPlace (launchAdded l s) l f = canPlace s l f := by
  unfold canPlace launchAdded
  dsimp only
  cases tget? s.sch.recipes l.recipe with
  | none => rfl
  | some r =>
    dsimp only
    rw [if_neg (by rw [hl]; simp), if_neg (by rw [hl]; simp), if_neg (by rw [hl]; simp), if_neg (by rw [hl]; simp)]
    rfl

/-- A launch that fits as it comes seeks no victims. -/
theorem seekVictims_fits {l : Launch} (hl : l.ph = .waiting) (h : canPlace s l [] = true) :
    seekVictims s.sch.nextKey (launchAdded l s) = launchAdded l s := by
  have hk : tget? (launchAdded l s).sch.launches s.sch.nextKey = some l := by simp [launchAdded]
  unfold seekVictims
  rw [hk]
  dsimp only
  rw [if_pos (.inr ((canPlace_launchAdded s hl []).trans h))]

/-- The launch that a LAUNCH asks for. -/
def askedLaunch (q n k : Nat) (u : Queue) (c : TakenCmd) (r : Recipe) (s : State) : Launch :=
  { q := q, seq := n, ctx := c.ctx, slice := ctxSlice s c.ctx, recipe := k, recipeId := par c 24 2, d := (if par c 28 1 = 0 then 3 else par c 28 1), count := par c 26 2, plan := par c 0 8, hist := par c 8 8, telem := par c 16 8, homePart := u.homePart, noWait := bitOf c.flags 2, ph := .waiting, order := s.sch.order + 1, insts := [], saveGrans := saveAreaGrans r, victimOf := [] }

theorem launchAsk_eq (h1 : u.num = q) (h2 : c.seq = n) (k : Nat) (r : Recipe) (s : State) {l : Launch} (hl : l = askedLaunch q n k u c r s) :
    launchAsk u c k r s =
      if lowestSlot r ≤ l.d then finishCmd q n 0x0043 0 s
      else if quotaGrans s l.slice < usedQuota s l.slice + saveAreaGrans r * par c 26 2 then finishCmd q n 0x0033 0 s
      else if everFits s l r = false then finishCmd q n 0x0047 0 s
      else if canPlace s l [] = true then launchAdded l s
      else if bitOf c.flags 2 then finishCmd q n 0x0047 0 s
      else seekVictims s.sch.nextKey (raiseService c.ctx (launchAdded l s)) := by
  have hph : l.ph = .waiting := by rw [hl]; rfl
  have hno : l.noWait = bitOf c.flags 2 := by rw [hl]; rfl
  have hask : launchAsk u c k r s =
      if lowestSlot r ≤ l.d then finishCmd q n 0x0043 0 s
      else if quotaGrans s l.slice < usedQuota s l.slice + saveAreaGrans r * par c 26 2 then finishCmd q n 0x0033 0 s
      else if ¬ everFits s l r = true then finishCmd q n 0x0047 0 s
      else if l.noWait = true ∧ ¬ canPlace s l [] = true then finishCmd q n 0x0047 0 s
      else seekVictims s.sch.nextKey (if canPlace (launchAdded l s) l [] then launchAdded l s else raiseService c.ctx (launchAdded l s)) := by
    subst hl h1 h2
    rfl
  rw [hask, canPlace_launchAdded s hph, hno]
  cases he : everFits s l r
  · rfl
  · cases hc : canPlace s l []
    · simp
    · simp [seekVictims_fits hph hc]

theorem launchS_free (h1 : u.num = q) (h2 : c.seq = n) {k : Nat} {r : Recipe} (hl : launchOf s q n = none)
    (hr : recipeOf s c.ctx (par c 24 2) = some (k, r)) :
    launchS u c s =
      if par c 26 2 = 0 ∨ par c 8 8 % 64 ≠ 0 ∨ par c 28 1 = 1 ∨ 8 < par c 28 1 then finishCmd q n 0x0015 0 s
      else if recipePermitted s r (ctxSets s c.ctx) = false then finishCmd q n 0x0087 0 s
      else launchAsk u c k r s := by
  unfold launchS
  dsimp only
  rw [h1, h2, hl, hr]
  dsimp only
  rw [if_neg (show ¬ (none : Option (Nat × Launch)).isSome = true by simp)]
  cases recipePermitted s r (ctxSets s c.ctx) <;> rfl

end

/-- Settles O37. -/
theorem recipeAndLaunchCommands : Obligations.RecipeAndLaunchCommands := by
  unfold Obligations.RecipeAndLaunchCommands
  refine ⟨?_, ?_, ?_, ?_⟩
  · intro s q n u c x h hx h0 h1 h2
    refine ⟨recipeLoad_full h hx h0 h1 h2, fun hl hr hb => ⟨fun st o hf => ?_, fun hf => ?_⟩⟩
    · rw [recipeLoad_eq h hx h0 h1 h2 hl hr hb, hf]
    · obtain ⟨g1, g2, g3⟩ := newRecipe_free hl
      have hk := recipeLoad_eq h hx h0 h1 h2 hl hr hb
      rw [hf] at hk
      generalize lowestFree (tkeys x.recipes) 257 1 = i at hk g1 g2 g3
      obtain ⟨l, hfr⟩ := recipeLoaded_frame c i (ctxRead s c.ctx (par c 0 8) (par c 8 4)) s
      have hctx := recipeLoaded_ctx hx i (ctxRead s c.ctx (par c 0 8) (par c 8 4))
      generalize recipeLoaded c i (ctxRead s c.ctx (par c 0 8) (par c 8 4)) s = t at hk hfr hctx
      refine ⟨_, i, _, hk, finish_replies (by rw [hfr]; exact h.queue) h.taken _ _, g1, g2, g3, hctx, by simp, fun j hj => by simp [Ne.symm hj], ?_, fun j hj => ?_, ?_, ?_⟩
      · show tget? t.sch.recipes s.sch.nextKey = _
        rw [hfr]
        simp
      · show tget? t.sch.recipes j = _
        rw [hfr]
        simp [Ne.symm hj]
      · exact congrArg (fun t => t.sch.launches) hfr
      · exact (congrArg (fun t : State => t.mem) hfr :)
  · intro s q n u c k r h hr
    rw [recipeCheck_eq h hr, checkFinding_eq]
    refine ⟨fun d h1 => ?_, fun d h1 h2 => ?_, fun d h1 h2 h3 => ?_, fun d h1 h2 h3 h4 => ?_, fun d h1 h2 h3 h4 h5 => ?_, fun h1 h2 h3 h4 h5 => ?_⟩
    · rw [h1]
    · rw [h1, h2]
    · rw [h1, h2, h3]
    · rw [h1, h2, h3, h4]
    · rw [h1, h2, h3, h4, h5]
    · rw [h1, h2, h3, h4, h5]
  · intro s q n u c k r h hr
    rw [recipeUnload_eq h hr]
    refine ⟨fun ⟨e, he, hk⟩ => ?_, fun hn => ?_⟩
    · rw [if_pos (List.any_eq_true.2 ⟨e, he, by simpa using hk⟩)]
    · rw [if_neg (show ¬ (s.sch.launches.any (fun e => decide (e.2.recipe = k))) = true by simpa using fun a b hab => hn (a, b) hab)]
      obtain ⟨x, hx⟩ := recipeOf_ctx hr
      obtain ⟨l, hfr⟩ := recipeUnloaded_frame c k s
      have hctx := recipeUnloaded_ctx hx k
      generalize recipeUnloaded c k s = t at hfr hctx
      have hctx' : ctxOf (finishCmd q n 0 0 t) c.ctx = _ := hctx
      refine ⟨_, rfl, finish_replies (by rw [hfr]; exact h.queue) h.taken _ _, ?_, ?_, fun j hj => ?_, fun i hi => ?_, (congrArg (fun t : State => t.mem) hfr :),
        congrArg (fun t => t.sch.launches) hfr⟩
      · unfold recipeOf
        rw [hctx']
        simp
      · show tget? t.sch.recipes k = _
        rw [hfr]
        simp
      · show tget? t.sch.recipes j = _
        rw [hfr]
        simp [Ne.symm hj]
      · rw [hctx', hx]
        simp [Ne.symm hi]
  · intro s q n u c k r hp hu hn hc ho ht hl hr
    have hseq : c.seq = n := by simpa using List.find?_some hc
    rw [launch_eq hp hu hc ho ht, launchS_free hn hseq hl hr]
    refine ⟨fun hb => by rw [if_pos hb], fun h1 h2 h3 h4 => ?_⟩
    rw [if_neg (show ¬ (par c 26 2 = 0 ∨ par c 8 8 % 64 ≠ 0 ∨ par c 28 1 = 1 ∨ 8 < par c 28 1) by omega)]
    refine ⟨fun h5 => by rw [if_pos h5], fun h5 l hl => ?_⟩
    rw [if_neg (show ¬ recipePermitted s r (ctxSets s c.ctx) = false by simp [h5])]
    exact congrArg _ (launchAsk_eq hn hseq k r s hl)

end Sys2Proof.Machine
end

section
/-! PROOF. COPY, FILL, semaphore commands and FLUSH. -/

namespace Sys2Proof.Machine

/-! ### Bytes written back -/

/-- Entries written one after another: a key not among them reads as before, any other as one of its entries. -/
theorem writeEntries_get (l : Tbl Byte) (m : Tbl Byte) (k : Nat) :
    (tget? l k = none → tget 0 (l.foldl (fun m e => tset 0 m e.1 e.2) m) k = tget 0 m k) ∧
    ((tget? l k).isSome → (k, tget 0 (l.foldl (fun m e => tset 0 m e.1 e.2) m) k) ∈ l) := by
  induction l generalizing m with
  | nil => exact ⟨fun _ => rfl, fun h => by simp [tget?] at h⟩
  | cons e r ih =>
    obtain ⟨j, v⟩ := e
    rw [List.foldl_cons, tget?_cons]
    obtain ⟨i1, i2⟩ := ih (tset 0 m j v)
    by_cases hj : j = k
    · subst hj
      refine ⟨fun h => by simp at h, fun _ => ?_⟩
      cases hr : tget? r j with
      | none => rw [i1 hr]; simp
      | some w => exact List.mem_cons_of_mem _ (i2 (by simp [hr]))
    · rw [if_neg hj]
      refine ⟨fun h => ?_, fun h => List.mem_cons_of_mem _ (i2 h)⟩
      rw [i1 h, tget_tset, if_neg hj]

theorem mem_tget? {α : Type} {t : Tbl α} (h : tsorted t = true) {k : Nat} {v : α} (hm : (k, v) ∈ t) : tget? t k = some v := by
  induction t with
  | nil => cases hm
  | cons e r ih =>
    obtain ⟨j, w⟩ := e
    obtain ⟨h1, h2⟩ := tsorted_tail _ _ h
    rw [tget?_cons]
    rcases List.mem_cons.1 hm with e | hr
    · obtain ⟨rfl, rfl⟩ := Prod.mk.inj e
      rw [if_pos rfl]
    · rw [if_neg (Nat.ne_of_lt (h1 _ hr)), ih h2 hr]

theorem tget?_dirtyLeft (p : Nat → Bool) (t : Tbl Byte) (k : Nat) :
    tget? (tfilter t (fun k _ => !p k)) k = if p k = true then none else tget? t k := by
  rw [tfilter, tget?_filter (p := fun k => !p k)]
  cases p k <;> rfl

/-- What a write-back does to each byte (R346, R347). -/
theorem writeBack_byte (p : Nat → Bool) (s : State) (k : Nat) :
    (p k = true → tget? (writeBack p s).host.dirty k = none ∧
      ((tget? s.host.dirty k).isSome → (k, tget 0 (writeBack p s).host.mem k) ∈ s.host.dirty) ∧
      (tget? s.host.dirty k = none → tget 0 (writeBack p s).host.mem k = tget 0 s.host.mem k)) ∧
    (p k = false → tget? (writeBack p s).host.dirty k = tget? s.host.dirty k ∧
      tget 0 (writeBack p s).host.mem k = tget 0 s.host.mem k) := by
  obtain ⟨i1, i2⟩ := writeEntries_get (s.host.dirty.filter (fun e => p e.1)) s.host.mem k
  rw [tget?_filter] at i1 i2
  refine ⟨fun h => ⟨?_, fun hd => ?_, fun hd => ?_⟩, fun h => ⟨?_, ?_⟩⟩
  · exact (tget?_dirtyLeft p _ k).trans (if_pos h)
  · exact List.mem_of_mem_filter (i2 (by rwa [if_pos h]))
  · exact i1 (by rwa [if_pos h])
  · exact (tget?_dirtyLeft p _ k).trans (if_neg (by simp [h]))
  · exact i1 (by simp [h])

/-- Writing back changes no byte that the device reads (R345). -/
theorem writeBack_hostByte (p : Nat → Bool) {s : State} (h : tsorted s.host.dirty = true) (k : Nat) :
    hostByte (writeBack p s) k = hostByte s k := by
  obtain ⟨w1, w2⟩ := writeBack_byte p s k
  unfold hostByte
  cases hp : p k with
  | false =>
    obtain ⟨a, b⟩ := w2 hp
    rw [a, b]
  | true =>
    obtain ⟨a, b, c⟩ := w1 hp
    rw [a, Option.getD_none]
    cases hd : tget? s.host.dirty k with
    | none => rw [c hd, Option.getD_none]
    | some v =>
      have := mem_tget? h (b (by simp [hd]))
      rw [hd] at this
      exact (Option.some.inj this).symm

theorem wcTrim_hostByte (d : Nat) {s : State} (h : tsorted s.host.dirty = true) (k : Nat) :
    hostByte (wcTrim d s) k = hostByte s k := by
  unfold wcTrim
  split
  · exact writeBack_hostByte _ h k
  · rfl

theorem tget?_foldl_tput_on {α : Type} (f : Nat → Nat) (v : Nat → α) (l : List Nat) (hl : l.Nodup)
    (hf : ∀ i ∈ l, ∀ j ∈ l, f i = f j → i = j) (t : Tbl α) {j : Nat} (hj : j ∈ l) :
    tget? (l.foldl (fun m i => tput m (f i) (v i)) t) (f j) = some (v j) := by
  induction l using List.reverseRecOn with
  | nil => cases hj
  | append_singleton r a ih =>
    rw [List.foldl_append, List.foldl_cons, List.foldl_nil, tget?_tput]
    obtain ⟨h1, _, h3⟩ := List.nodup_append.1 hl
    by_cases e : f a = f j
    · rw [if_pos e, hf a (by simp) j hj e]
    · rw [if_neg e]
      have hr : j ∈ r := by
        rcases List.mem_append.1 hj with h | h
        · exact h
        · exact absurd (congrArg f (List.mem_singleton.1 h)).symm e
      exact ih h1 (fun i hi k hk => hf i (List.mem_append_left _ hi) k (List.mem_append_left _ hk)) hr

/-- Bytes that the device wrote to host memory read back (R344, R345). -/
theorem hostWrite_byte (p : Option Nat) (a : Nat) (bs : List Byte) {s : State} (h : HostMem.wf s.host = true) (hn : bs.length ≤ 2 ^ 64)
    {i : Nat} (hi : i < bs.length) : hostByte (hostWrite p a bs s) (hkey p (a + i)) = nth 0 bs i := by
  obtain ⟨_, hd⟩ := (HostMem.wf_iff _).1 h
  have hs : tsorted ((List.range bs.length).foldl (fun m i => tput m (hkey p (a + i)) (nth 0 bs i)) s.host.dirty) = true :=
    tsorted_foldl_tput _ _ _ _ hd
  unfold hostWrite
  have hl (t : State) (k : Nat) : hostByte (logHost p a bs.length t) k = hostByte t k := by
    unfold hostByte
    rw [logHost_host]
  rw [hl, wcTrim_hostByte, wcTrim_hostByte _ hs]
  · unfold hostByte
    dsimp only
    rw [tget?_foldl_tput_on (fun i => hkey p (a + i)) (fun i => nth 0 bs i) _ List.nodup_range (hkey_inj p a hn) _ (List.mem_range.2 hi)]
    rfl
  · unfold wcTrim
    split
    · exact tsorted_filter _ _ hs
    · exact hs

/-! ### A command that completes with its bound begun anew -/

theorem markBound_replies {s : State} {q n : Nat} {u : Queue} {c : TakenCmd} (hu : tget? s.cmd.queues q = some u)
    (hc : u.cmds.find? (fun c => decide (c.seq = n)) = some c) (st d : Nat) : Replies (markBound q n (finishCmd q n st d s)) q n st d := by
  refine ⟨_, _, setQueue_get (setQueue_get hu _) _, find?_map_seq _ n _ (by exact fun _ => rfl) _
    (find?_map_seq u.cmds n (fun c => { c with phase := .done st d }) (fun _ => rfl) c hc), rfl⟩

section
variable {s : State} {q n : Nat} {u : Queue} {c : TakenCmd}

/-! ### COPY (R404, R406) -/

theorem copy_eq (h : Started s q n 0x0401 u c) (hi : issueHeld s = false) : exec (.copy q n) s = .next (copyS u c s) := by
  refine Eq.trans ?_ (cmdOut_started h copyS)
  show execCopy q n s = _
  unfold execCopy
  rw [if_neg (by simp [hi])]

section
variable (hu : u.num = q) (hc : c.seq = n)

include hu hc

theorem copyS_bad (hb : par c 16 8 % 64 ≠ 0 ∨ par c 16 8 < 64 ∨ 2 ^ 40 < par c 16 8 ∨ 3 < par c 24 1 ∨ ctxOf s c.ctx = none) :
    copyS u c s = finishCmd q n 0x0015 0 s := by
  unfold copyS
  dsimp only
  rw [hu, hc, if_pos (by simpa using hb)]
  rfl

variable (h1 : par c 16 8 % 64 = 0) (h2 : 64 ≤ par c 16 8) (h3 : par c 16 8 ≤ 2 ^ 40) (h4 : par c 24 1 ≤ 3) (h5 : (ctxOf s c.ctx).isSome = true)

include h1 h2 h3 h4 h5

/-- A COPY in range asks its source and destination first. -/
theorem copyS_eq (t : State) (ht : t =
      match (if (if bitOf (par c 24 1) 0 then none else ctxReadRefusal s c.ctx (par c 0 8) (par c 16 8) (.cmd q n)) = some stPoisoned then none
          else (if bitOf (par c 24 1) 0 then none else ctxReadRefusal s c.ctx (par c 0 8) (par c 16 8) (.cmd q n))),
        (if bitOf (par c 24 1) 1 then none else ctxWriteRefusal s c.ctx (par c 8 8) (par c 16 8) (decide (u.slice = 0)) (.cmd q n)) with
      | some st, _ => finishCmd q n st 0 s
      | none, some st => finishCmd q n st 0 s
      | none, none => if (¬ bitOf (par c 24 1) 0 ∧ ctxBusy s c.ctx (par c 0 8) (par c 16 8)) ∨ copyCmdAhead s c then s
          else copyMove u c (par c 0 8) (par c 8 8) (par c 16 8) (par c 24 1) s) : copyS u c s = t := by
  have hn : ¬ (par c 16 8 % 64 ≠ 0 ∨ par c 16 8 < 64 ∨ 2 ^ 40 < par c 16 8 ∨ 3 < par c 24 1 ∨ (ctxOf s c.ctx).isNone = true) := by
    have : (ctxOf s c.ctx).isNone = false := by simpa using h5
    rw [this]
    simp only [Bool.false_eq_true, or_false]
    omega
  rw [ht]
  unfold copyS
  dsimp only
  rw [hu, hc]
  exact (if_neg hn).trans rfl

theorem copyS_source (hb : bitOf (par c 24 1) 0 = false) {st : Nat}
    (hr : ctxReadRefusal s c.ctx (par c 0 8) (par c 16 8) (.cmd q n) = some st) (hp : st ≠ 0x3A) : copyS u c s = finishCmd q n st 0 s := by
  refine copyS_eq hu hc h1 h2 h3 h4 h5 _ ?_
  rw [hb, if_neg (by simp : ¬ false = true), hr, if_neg (fun e : some st = some stPoisoned => hp (Option.some.inj e))]

theorem copyS_destination (hb : bitOf (par c 24 1) 0 = true) (hd : bitOf (par c 24 1) 1 = false) {st : Nat}
    (hr : ctxWriteRefusal s c.ctx (par c 8 8) (par c 16 8) (decide (u.slice = 0)) (.cmd q n) = some st) : copyS u c s = finishCmd q n st 0 s := by
  refine copyS_eq hu hc h1 h2 h3 h4 h5 _ ?_
  rw [hb, hd, hr]
  rfl

/-- A COPY whose ranges stand and with none ahead of it moves its bytes. -/
theorem copyS_moves (ha : copyCmdAhead s c = false)
    (hs : bitOf (par c 24 1) 0 = true ∨ ((ctxReadRefusal s c.ctx (par c 0 8) (par c 16 8) (.cmd q n) = none ∨
      ctxReadRefusal s c.ctx (par c 0 8) (par c 16 8) (.cmd q n) = some 0x3A) ∧ ctxBusy s c.ctx (par c 0 8) (par c 16 8) = false))
    (hd : bitOf (par c 24 1) 1 = true ∨ ctxWriteRefusal s c.ctx (par c 8 8) (par c 16 8) (decide (u.slice = 0)) (.cmd q n) = none) :
    copyS u c s = copyMove u c (par c 0 8) (par c 8 8) (par c 16 8) (par c 24 1) s := by
  refine copyS_eq hu hc h1 h2 h3 h4 h5 _ ?_
  have hw : (if bitOf (par c 24 1) 1 = true then none
      else ctxWriteRefusal s c.ctx (par c 8 8) (par c 16 8) (decide (u.slice = 0)) (.cmd q n)) = none := by
    rcases hd with hd | hd <;> simp [hd]
  rw [hw]
  cases hb : bitOf (par c 24 1) 0 with
  | true => simp [ha]
  | false =>
    obtain ⟨hr, hbusy⟩ := hs.resolve_left (by simp [hb])
    rcases hr with hr | hr <;> simp [hr, ha, hbusy, stPoisoned]

end

/-- The move of a COPY in the statement's words. -/
theorem copyMove_eq (hu : u.num = q) (hc : c.seq = n) {src dst m sp st : Nat} {data : List Byte} {bad : List Nat}
    (hdata : data = (if bitOf sp 0 = true then hostRead s u.pasid src m else copySource s c.ctx src m (bitOf sp 1)))
    (hbad : bad = (if bitOf sp 0 = true then [] else poisonOffsets s c.ctx src m))
    (hst : st = (if bitOf sp 0 = false ∧ (bad ≠ [] ∨ touchesSealed s c.ctx src m = true) then 0x3A else 0)) :
    copyMove u c src dst m sp s = markBound q n (finishCmd q n st 0 (if bitOf sp 1 = true then hostWrite u.pasid dst data s
      else poisonDest c.ctx dst bad (ctxWrite c.ctx dst data (.cmd q n) s))) := by
  have hst' : st = if ¬ bitOf sp 0 = true ∧ (¬ bad.isEmpty = true ∨ touchesSealed s c.ctx src m = true) then stPoisoned else stOk := by
    rw [hst]
    simp only [Bool.not_eq_true, List.isEmpty_eq_false_iff]
    rfl
  rw [hst']
  unfold copyMove
  dsimp only
  rw [← hdata, ← hbad, hu, hc]

theorem length_copyData (src m sp : Nat) (s : State) (u : Queue) (c : TakenCmd) :
    (if bitOf sp 0 = true then hostRead s u.pasid src m else copySource s c.ctx src m (bitOf sp 1)).length = m := by
  split
  · simp [hostRead]
  · simp [copySource]

/-! ### FILL (R406) -/

theorem fill_eq (h : Started s q n 0x0402 u c) (hi : issueHeld s = false) : exec (.fillCommand q n) s = .next (fillS u c s) := by
  refine Eq.trans ?_ (cmdOut_started h fillS)
  show execFillCommand q n s = _
  unfold execFillCommand
  rw [if_neg (by simp [hi])]

/-- The bytes of a FILL: its pattern again and again. -/
def fillData (c : TakenCmd) : List Byte := (List.replicate (par c 8 8 / 8) (leBytes 8 (par c 16 8))).flatMap id

theorem length_fillData (h : par c 8 8 % 64 = 0) : (fillData c).length = par c 8 8 := by
  unfold fillData
  rw [length_flatMap_const id 8 _ (fun a ha => by rw [List.eq_of_mem_replicate ha]; simp), List.length_replicate]
  omega

theorem nth_replicate_flat (p : List Byte) (hp : p.length = 8) (k i : Nat) (hi : i < 8 * k) :
    nth 0 ((List.replicate k p).flatMap id) i = nth 0 p (i % 8) := by
  induction k generalizing i with
  | zero => omega
  | succ k ih =>
    rw [List.replicate_succ, List.flatMap_cons]
    unfold nth at ih ⊢
    by_cases h : i < 8
    · rw [List.getD_append _ _ _ _ (by simpa [hp] using h), Nat.mod_eq_of_lt h]
      rfl
    · rw [List.getD_append_right _ _ _ _ (by simp [hp]; omega)]
      have := ih (i - 8) (by omega)
      simp only [id_eq, hp]
      rw [this]
      congr 1
      omega

theorem nth_fillData (h : par c 8 8 % 64 = 0) {i : Nat} (hi : i < par c 8 8) :
    nth 0 (fillData c) i = nth 0 (leBytes 8 (par c 16 8)) (i % 8) :=
  nth_replicate_flat _ (by simp) _ i (by omega)

theorem fillS_bad (hu : u.num = q) (hc : c.seq = n)
    (hb : par c 8 8 % 64 ≠ 0 ∨ par c 8 8 < 64 ∨ 2 ^ 40 < par c 8 8 ∨ 1 < par c 24 1 ∨ ctxOf s c.ctx = none) :
    fillS u c s = finishCmd q n 0x0015 0 s := by
  unfold fillS
  dsimp only
  rw [hu, hc, if_pos (by simpa using hb)]
  rfl

theorem fillS_eq (hu : u.num = q) (hc : c.seq = n) (h1 : par c 8 8 % 64 = 0) (h2 : 64 ≤ par c 8 8) (h3 : par c 8 8 ≤ 2 ^ 40)
    (h4 : par c 24 1 ≤ 1) (h5 : (ctxOf s c.ctx).isSome = true) (ha : copyCmdAhead s c = false) : fillS u c s =
      if par c 24 1 = 1 then finishCmd q n 0 0 (hostWrite u.pasid (par c 0 8) (fillData c) s)
      else match ctxWriteRefusal s c.ctx (par c 0 8) (par c 8 8) false (.cmd q n) with
        | some st => finishCmd q n st 0 s
        | none => markBound q n (finishCmd q n 0 0 (ctxWrite c.ctx (par c 0 8) (fillData c) (.cmd q n) s)) := by
  have hn : ¬ (par c 8 8 % 64 ≠ 0 ∨ par c 8 8 < 64 ∨ 2 ^ 40 < par c 8 8 ∨ 1 < par c 24 1 ∨ (ctxOf s c.ctx).isNone = true) := by
    have : (ctxOf s c.ctx).isNone = false := by simpa using h5
    rw [this]
    simp only [Bool.false_eq_true, or_false]
    omega
  unfold fillS
  dsimp only
  rw [hu, hc, if_neg hn, if_neg (show ¬ copyCmdAhead s c = true by simp [ha])]
  rfl

/-! ### Semaphores (R314, R315, R377) -/

theorem semWait_eq (h : Started s q n 0x0501 u c) (ha : cmdAsked s q n = false) (o : Out) (ho : o = .next (
      if par c 0 8 % 8 ≠ 0 ∨ (ctxOf s c.ctx).isNone then finishCmd q n 0x0015 0 s
      else if inCounters (par c 0 8) then
        if counterOwned s c.ctx (par c 0 8) then
          counterWait (counterReq (par c 0 8) c.ctx (.cmd q n)) (counterAt (par c 0 8)).1 (counterAt (par c 0 8)).2 (par c 8 8) s
        else finishCmd q n 0x0015 0 s
      else match translate s c.ctx (par c 0 8) with
        | none => finishCmd q n 0x0034 0 s
        | some p => if ¬ homeAnswers s p.stack (.cmd q n) then finishCmd q n 0x0039 0 s
            else homeRequest (.semWait ⟨p.stack, p.line, c.ctx, p.handle, .cmd q n⟩ p.off (par c 8 8)) s)) :
    exec (.semWaitCommand q n) s = o := by
  obtain ⟨e1, e2⟩ := h.ids
  rw [ho]
  refine (cmdOut_started h _).trans (congrArg _ ?_)
  unfold semWaitCmdS
  dsimp only
  rw [e1, e2, if_neg (show ¬ cmdAsked s q n = true by simp [ha])]
  rfl

theorem semTimeout_eq (h : Started s q n 0x0501 u c) : exec (.semWaitTimeout q n) s = .next (
    if par c 16 4 = 0 ∨ refOf s (cplxDie u.cplx) - c.startAt < par c 16 4 * 25000 then s
    else finishCmd q n 0x0019 0 (dropCmdWaits q n s)) := by
  obtain ⟨e1, e2⟩ := h.ids
  refine (cmdOut_started h _).trans (congrArg _ ?_)
  unfold semTimeoutS
  rw [e1, e2]
  rfl

theorem dropCmdWaits_waiters (q n : Nat) (s : State) (k : Nat) : tget [] (dropCmdWaits q n s).home.waiters k =
    (tget [] s.home.waiters k).filter (fun w => !decide (w.r.who = .cmd q n)) := by
  unfold dropCmdWaits tget
  rw [tget?_tmap]
  cases tget? s.home.waiters k <;> rfl

theorem semRelease_eq (h : Started s q n 0x0502 u c) (ha : cmdAsked s q n = false) (o : Out) (ho : o = .next (
      if par c 0 8 % 8 ≠ 0 ∨ 3 < par c 16 1 ∨ (ctxOf s c.ctx).isNone then finishCmd q n 0x0015 0 s
      else match ctxWriteRefusal s c.ctx (par c 0 8) 8 false (.cmd q n) with
        | some st => if st = 0x38 then finishCmd q n 0x0015 0 s else finishCmd q n st 0 s
        | none => match translate s c.ctx (par c 0 8) with
          | none => finishCmd q n 0x0034 0 s
          | some p => homeRequest (semAddReq p.stack p.line p.off c.ctx p.handle (par c 8 8) (.cmd q n)) s)) :
    exec (.semReleaseCommand q n) s = o := by
  obtain ⟨e1, e2⟩ := h.ids
  rw [ho]
  refine (cmdOut_started h _).trans (congrArg _ ?_)
  unfold semReleaseCmdS
  dsimp only
  rw [e1, e2, if_neg (show ¬ cmdAsked s q n = true by simp [ha])]
  rfl

end

/-- Settles O38. -/
theorem copyFillSemaphoreAndFlushCommands : Obligations.CopyFillSemaphoreAndFlushCommands := by
  unfold Obligations.CopyFillSemaphoreAndFlushCommands
  refine ⟨?_, ?_, ?_, ?_, ?_, ?_⟩
  · intro s q n u c h hi
    obtain ⟨hu, hc⟩ := h.ids
    rw [copy_eq h hi]
    refine ⟨fun hb => congrArg _ (copyS_bad hu hc hb), fun h1 h2 h3 h4 h5 => ⟨fun hb st hr hp => congrArg _ (copyS_source hu hc h1 h2 h3 h4 h5 hb hr hp),
      fun hb hd st hr => congrArg _ (copyS_destination hu hc h1 h2 h3 h4 h5 hb hd hr), fun data bad st ha hs hdata hbad hst => ⟨fun hd => ?_, fun hd hr => ?_⟩⟩⟩
    · rw [copyS_moves hu hc h1 h2 h3 h4 h5 ha hs (.inl hd), copyMove_eq hu hc hdata hbad hst, if_pos hd]
      have hk := hostWrite_keeps u.pasid (par c 8 8) data s
      have hl : data.length = par c 16 8 := by rw [hdata, length_copyData]
      refine ⟨_, rfl, markBound_replies (by rw [hk.queues]; exact h.queue) h.taken _ _, hk.mem, hk.home, fun hw i hi => ?_⟩
      exact hostWrite_byte _ _ _ hw (by omega) (by omega)
    · rw [copyS_moves hu hc h1 h2 h3 h4 h5 ha hs (.inr hr), copyMove_eq hu hc hdata hbad hst, if_neg (by simp [hd])]
  · intro s q n u c h hi
    obtain ⟨hu, hc⟩ := h.ids
    rw [fill_eq h hi]
    refine ⟨fun hb => congrArg _ (fillS_bad hu hc hb), fun h1 h2 h3 h5 ha => ⟨fun hd => ?_, fun hd => ?_⟩⟩
    · rw [fillS_eq hu hc h1 h2 h3 (by omega) h5 ha, if_pos hd]
      have hk := hostWrite_keeps u.pasid (par c 0 8) (fillData c) s
      refine ⟨_, rfl, finish_replies (by rw [hk.queues]; exact h.queue) h.taken _ _, hk.mem, hk.home, fun hw i hi => ?_⟩
      rw [← nth_fillData h1 hi]
      exact hostWrite_byte _ _ _ hw (by rw [length_fillData h1]; omega) (by rwa [length_fillData h1])
    · rw [fillS_eq hu hc h1 h2 h3 (by omega) h5 ha, if_neg (by omega)]
      refine ⟨fun st hr => by rw [hr], fun hr => ⟨fillData c, length_fillData h1, fun i hi => nth_fillData h1 hi, by rw [hr]⟩⟩
  · intro s q n u c h ha
    refine ⟨fun hb => semWait_eq h ha _ ?_, fun h1 h2 => ⟨fun hi ho => semWait_eq h ha _ ?_, fun w k r hi ho hwk hr => ?_, fun hi => ⟨fun hn => semWait_eq h ha _ ?_, fun p hp => ⟨fun hh => semWait_eq h ha _ ?_, fun hh => semWait_eq h ha _ ?_⟩⟩⟩⟩
    · rw [if_pos (by simpa using hb)]
    · simp [h1, Option.isSome_iff_ne_none.1 h2, hi, ho]
    · have he : exec (.semWaitCommand q n) s = .next (counterWait r w k (par c 8 8) s) := by
        refine semWait_eq h ha _ ?_
        rw [← hwk, hr]
        simp [h1, Option.isSome_iff_ne_none.1 h2, hi, ho]
      rw [he]
      unfold counterWait
      dsimp only
      refine ⟨fun hv => by rw [if_pos hv]; rfl, fun hv hl => ?_, fun hv hl => ?_⟩
      · rw [if_neg (by omega), if_pos hl]
        refine ⟨_, rfl, by simp, fun j hj => by simp [Ne.symm hj]⟩
      · rw [if_neg (by omega), if_neg (by omega)]
        rfl
    · simp [h1, Option.isSome_iff_ne_none.1 h2, hi, hn]
    · simp [h1, Option.isSome_iff_ne_none.1 h2, hi, hp, hh]
    · simp [h1, Option.isSome_iff_ne_none.1 h2, hi, hp, hh]
  · intro s q n u c h
    rw [semTimeout_eq h]
    refine ⟨fun hb => by rw [if_pos hb], fun h1 h2 => ?_⟩
    rw [if_neg (by omega)]
    refine ⟨_, rfl, finish_replies h.queue h.taken _ _, fun k => ?_, fun x hx => ?_, rfl, rfl, rfl⟩
    · exact dropCmdWaits_waiters q n s k
    · simpa using (List.mem_filter.1 hx).2
  · intro s q n u c h ha
    refine ⟨fun hb => semRelease_eq h ha _ ?_, fun st h1 h2 h3 hr => semRelease_eq h ha _ ?_, fun p h1 h2 h3 hr hp => semRelease_eq h ha _ ?_⟩
    · rw [if_pos (by simpa using hb)]
    · have hn : ¬ (par c 0 8 % 8 ≠ 0 ∨ 3 < par c 16 1 ∨ (ctxOf s c.ctx).isNone = true) := by
        simp [h1, h2, Option.isSome_iff_ne_none.1 h3]
      rw [if_neg hn, hr]
      dsimp only
      exact congrArg Host.Outcome.next (apply_ite (fun x => finishCmd q n x 0 s) ..)
    · have hn : ¬ (par c 0 8 % 8 ≠ 0 ∨ 3 < par c 16 1 ∨ (ctxOf s c.ctx).isNone = true) := by
        simp [h1, h2, Option.isSome_iff_ne_none.1 h3]
      rw [if_neg hn, hr, hp]
  · intro s q n u c h
    obtain ⟨hu, hc⟩ := h.ids
    refine ⟨_, cmdOut_started h flushS, ?_⟩
    unfold flushS
    rw [hu, hc]
    refine ⟨finish_replies h.queue h.taken _ _, rfl, rfl, fun k => ?_⟩
    obtain ⟨w1, w2⟩ := writeBack_byte (fun k => decide (hkey u.pasid (par c 0 8) ≤ k ∧ k < hkey u.pasid (par c 0 8) + par c 8 8)) s k
    exact ⟨fun hk => w1 (decide_eq_true hk), fun hk => w2 (decide_eq_false hk)⟩

end Sys2Proof.Machine
end

section
/-! PROOF. Slices made, resized, destroyed, bound and logged. -/

namespace Sys2Proof.Machine

/-! ### What the scheduler's functions leave alone -/

/-- The state but for the context records and the launches and stations. -/
def notSched (s : State) : State := { s with ten := { s.ten with ctxs := [] }, sch := {} }

/-- What every step of a fold keeps, the fold keeps. -/
theorem foldl_keeps {α β : Type} (π : State → β) {f : State → α → State} (h : ∀ s a, π (f s a) = π s) (l : List α) (s : State) :
    π (l.foldl f s) = π s := by
  induction l generalizing s with
  | nil => rfl
  | cons a r ih => rw [List.foldl_cons, ih, h]

theorem notSched_setCtx (c : Nat) (f : Ctx → Ctx) (s : State) : notSched (setCtx c f s) = notSched s := by
  obtain ⟨l, hl⟩ := setCtx_frame c f s
  rw [hl]
  rfl

theorem notSched_setLaunch (k : Nat) (f : Launch → Launch) (s : State) : notSched (setLaunch k f s) = notSched s := rfl

theorem notSched_mergeFlags (p : Nat → Stn → Bool) (s : State) : notSched (mergeFlags p s) = notSched s := by
  refine (foldl_keeps notSched (f := fun s e => if p e.1 e.2 then
    setCtx e.2.ctx (fun c => { c with flags := c.flags ||| e.2.flags, shStatus := c.shStatus ||| e.2.shStatus }) s else s) (fun s e => ?_) s.sch.stns s)
  split
  · exact notSched_setCtx ..
  · rfl

theorem notSched_endOverrun (c : Nat) (s : State) : notSched (endOverrun c s) = notSched s := by
  unfold endOverrun
  dsimp only
  split
  · rfl
  · exact notSched_setCtx ..

theorem notSched_requestPreempt (w : Nat) (b : Bool) (k : Nat) (s : State) : notSched (requestPreempt w b k s) = notSched s := by
  unfold requestPreempt
  cases tget? s.sch.launches k with
  | none => rfl
  | some l =>
    dsimp only
    split
    · rw [notSched_mergeFlags, notSched_setLaunch]
    · rw [notSched_endOverrun, notSched_setCtx, notSched_mergeFlags, notSched_setLaunch]

theorem notSched_seekVictims (k : Nat) (s : State) : notSched (seekVictims k s) = notSched s := by
  unfold seekVictims
  cases tget? s.sch.launches k with
  | none => rfl
  | some w =>
    dsimp only
    split
    · rfl
    · cases chooseVictims s w with
      | none => rfl
      | some vs => exact foldl_keeps notSched (fun s v => notSched_requestPreempt ..) vs s

theorem notSched_stationsFreed (s : State) : notSched (stationsFreed s) = notSched s :=
  foldl_keeps notSched (fun s k => notSched_seekVictims k s) _ s

section
variable {s : State} {q n : Nat} {u : Queue} {c : TakenCmd}

/-! ### SLICE_CREATE and SLICE_RESIZE (R437-R439, R450, R451) -/

/-- A new slice: its record, and its key. -/
def sliceAdded (k page : Nat) (r : List Byte) (s : State) : State :=
  { s with ten := { s.ten with slices := tput s.ten.slices k (sliceOf r page) }, sec := { s.sec with keys := insKey k s.sec.keys } }

theorem sliceCreate_eq {k : Nat} {r : List Byte} (h : Started s q n 0x0801 u c) (hk : k = par c 16 2)
    (hr : r = hostRead s u.pasid (par c 0 8) 512) (h1 : k ≤ 127) (h2 : par c 8 8 % 4096 = 0) (h3 : sliceThere s k = false)
    (h4 : quotaOk r k = true) (h5 : quotaTaken s r k = false) (h6 : quotaOver s r k = false) (h7 : quotaAbsent s r = false) :
    exec (.sliceCreate q n) s = .next (finishCmd q n 0 0 (hostPost none (par c 8 8) (pageInit k r) (sliceAdded k (par c 8 8) r s))) := by
  obtain ⟨e1, e2⟩ := h.ids
  refine (cmdOut_started h _).trans (congrArg _ ?_)
  unfold sliceCreateS readQuota
  dsimp only
  rw [e1, e2, ← hk, ← hr, if_neg (show ¬ (127 < k ∨ par c 8 8 % 4096 ≠ 0) by omega), if_neg (by simp [h3]), if_neg (by simp [h4]),
    if_neg (by simp [h5]), if_neg (by simp [h6]), if_neg (by simp [h7])]
  rfl

/-- What a resize makes of a slice's record once its stations are free. -/
def resizedSlice (sl : Slice) (r : List Byte) : Slice :=
  { sliceOf r sl.page with stations := qStations r, evHead := sl.evHead, evLost := sl.evLost, leaving := [], resizing := none, dirtyOn := sl.dirtyOn, dirty := sl.dirty, hostlog := sl.hostlog, hostlogOver := sl.hostlogOver }

/-- A resize in order, with no launch on a station taken away. -/
theorem sliceResize_eq {k : Nat} {r : List Byte} {sl : Slice} (h : Started s q n 0x0802 u c) (hk : k = par c 8 2)
    (hr : r = hostRead s u.pasid (par c 0 8) 512) (h1 : 1 ≤ k) (h2 : k ≤ 127) (hs : tget? s.ten.slices k = some sl) (h3 : sl.resizing = none)
    (h4 : quotaOk r k = true) (h5 : quotaTaken s r k = false) (h6 : quotaOver s r k = false) (h7 : quotaInUse s r k = false)
    (h8 : sliceBusy s k q n = false) (h9 : quotaAbsent s r = false) :
    exec (.sliceResize q n) s = .next (resizeDrain u c k (resizeBegin u c k sl r s)) := by
  obtain ⟨e1, e2⟩ := h.ids
  refine (cmdOut_started h _).trans (congrArg _ ?_)
  unfold sliceResizeS readQuota
  dsimp only
  rw [e1, e2, ← hk, ← hr, hs]
  dsimp only
  rw [if_neg (by simp [h3]), if_neg (by omega), if_neg (by simp [h4]), if_neg (by simp [h5]), if_neg (by simp [h6]), if_neg (by simp [h7]),
    if_neg (by simp [h8]), if_neg (by simp [h9])]

theorem resizeDrain_free {k : Nat} {t : State} {sl : Slice} (hs : tget? t.ten.slices k = some sl) (hl : holdsLeaving t sl.leaving = []) :
    ∃ b m, resizeDrain u c k t = finishCmd u.num c.seq 0 0 (raiseSlice pd0 0x0018 0 k b m 0
      (stationsFreed (setSlice k (fun x => { x with stations := qStations sl.record, leaving := [], resizing := none }) t))) := by
  unfold resizeDrain
  rw [hs]
  dsimp only
  rw [hl, if_neg (by simp)]
  exact ⟨_, _, rfl⟩

theorem resized_frame {k : Nat} {r : List Byte} {sl : Slice} (h : Started s q n 0x0802 u c)
    (hl : holdsLeaving s ((maskStns sl.stations).filter (fun m => decide (m ∉ maskStns (qStations r)))) = []) :
    ∃ t, resizeDrain u c k (resizeBegin u c k sl r s) = t ∧ Replies t q n 0 0 ∧ tget? t.ten.slices k = some (resizedSlice sl r) ∧
      (∀ j, j ≠ k → tget? t.ten.slices j = tget? s.ten.slices j) ∧ t.xt = s.xt ∧ t.mem = s.mem := by
  obtain ⟨e1, e2⟩ := h.ids
  have hb : ∃ x, tget? (resizeBegin u c k sl r s).ten.slices k = some x ∧ holdsLeaving (resizeBegin u c k sl r s) x.leaving = [] ∧
      ({ x with stations := qStations x.record, leaving := [], resizing := none } : Slice) = resizedSlice sl r := by
    refine ⟨_, (tget?_tput ..).trans (if_pos rfl), hl, rfl⟩
  obtain ⟨x, hx, hxl, hxr⟩ := hb
  obtain ⟨b, m, hd⟩ := resizeDrain_free (u := u) (c := c) hx hxl
  have hk := notSched_stationsFreed (setSlice k (fun y => { y with stations := qStations x.record, leaving := [], resizing := none }) (resizeBegin u c k sl r s))
  rw [hd, e1, e2]
  generalize stationsFreed (setSlice k (fun y => { y with stations := qStations x.record, leaving := [], resizing := none })
    (resizeBegin u c k sl r s)) = t at hk
  have hsl : t.ten.slices = tupd (resizeBegin u c k sl r s).ten.slices k
      (fun y => { y with stations := qStations x.record, leaving := [], resizing := none }) := congrArg (fun s : State => s.ten.slices) hk
  have hother (j) (hj : j ≠ k) : tget? (resizeBegin u c k sl r s).ten.slices j = tget? s.ten.slices j :=
    (tget?_tput ..).trans (if_neg (Ne.symm hj))
  have hq : t.cmd = s.cmd := (congrArg (fun s : State => s.cmd) hk :)
  refine ⟨_, rfl, finish_replies (by rw [show (raiseSlice pd0 0x0018 0 k b m 0 t).cmd.queues = s.cmd.queues from congrArg (·.queues) hq]; exact h.queue) h.taken _ _, ?_, fun j hj => ?_,
    (congrArg (fun s : State => s.xt) hk :), (congrArg (fun s : State => s.mem) hk :)⟩
  · show tget? t.ten.slices k = _
    rw [hsl, tget?_tupd, if_pos rfl, hx, ← hxr]
    rfl
  · show tget? t.ten.slices j = _
    rw [hsl, tget?_tupd, if_neg (Ne.symm hj), hother j hj]

/-! ### SLICE_DESTROY (R453) -/

theorem tget?_filter_keep {α : Type} {p : Nat × α → Bool} {t : Tbl α} {k : Nat} {v : α} (h : tget? t k = some v) (hp : p (k, v) = true) :
    tget? (t.filter p) k = some v := by
  induction t with
  | nil => cases h
  | cons e r ih =>
    obtain ⟨j, w⟩ := e
    rw [tget?_cons] at h
    by_cases hj : j = k
    · subst hj
      obtain rfl : w = v := by simpa using h
      rw [List.filter_cons, if_pos hp, tget?_cons, if_pos rfl]
    · rw [if_neg hj] at h
      rw [List.filter_cons]
      split
      · rw [tget?_cons, if_neg hj, ih h]
      · exact ih h

/-- Entries after one is changed: each is an entry from before, or that entry changed. -/
theorem mem_tupd {α : Type} {t : Tbl α} {k : Nat} {f : α → α} {e : Nat × α} (h : e ∈ tupd t k f) : e ∈ t ∨ ∃ v, (k, v) ∈ t ∧ e = (k, f v) := by
  induction t with
  | nil => cases h
  | cons a r ih =>
    obtain ⟨j, w⟩ := a
    unfold tupd at h
    split at h
    · next hj =>
      subst hj
      rcases List.mem_cons.1 h with rfl | h
      · exact .inr ⟨w, List.mem_cons_self, rfl⟩
      · exact .inl (List.mem_cons_of_mem _ h)
    · rcases List.mem_cons.1 h with rfl | h
      · exact .inl List.mem_cons_self
      · exact (ih h).imp (List.mem_cons_of_mem _) fun ⟨v, h1, h2⟩ => ⟨v, List.mem_cons_of_mem _ h1, h2⟩

theorem finishCmd_slices {t : State} {st d k : Nat} (h : ∀ e ∈ t.cmd.queues, e.2.slice ≠ k) :
    ∀ e ∈ (finishCmd q n st d t).cmd.queues, e.2.slice ≠ k := by
  intro e he
  rcases mem_tupd he with he | ⟨v, hv, rfl⟩
  · exact h e he
  · exact h (q, v) hv

/-- The slice and all that is its own are gone, before its stations serve other launches. -/
def sliceErased (n : Nat) (s : State) : State :=
  { s with
    ten := { slices := tdel s.ten.slices n, ctxs := s.ten.ctxs.filter (fun e => !decide (e.1 ≠ 0 ∧ e.2.slice = n)), pasids := s.ten.pasids.filter (fun e => !decide (e.2 = n)) }
    cmd := { s.cmd with queues := s.cmd.queues.filter (fun e => !decide (e.2.slice = n)) }
    sec := { s.sec with sets := s.sec.sets.filter (fun e => !decide (e.2.slice = n)), keys := s.sec.keys.filter (fun k => !decide (k = n)) }
    pwr := { s.pwr with grants := s.pwr.grants.filter (fun e => !decide (e.1 / 16 = n)), remaining := s.pwr.remaining.filter (fun e => !decide (e.1 / 16 = n)), budget := s.pwr.budget.filter (fun e => !decide (e.1 / 16 = n)), breaches := s.pwr.breaches.filter (fun e => !decide (e.1 / 16 = n)) } }

theorem notSched_sliceErase (k : Nat) (s : State) : notSched (sliceErase k s) = notSched (sliceErased k s) :=
  notSched_stationsFreed (sliceErased k s)

theorem sliceDestroy_eq {k : Nat} (h : Started s q n 0x0803 u c) (hk : k = par c 0 2) (h1 : 1 ≤ k) (h2 : k ≤ 127)
    (h3 : (tget? s.ten.slices k).isSome) (h4 : sliceUsed s k = false) (h5 : sliceCtxs s k = [])
    (h6 : ∀ e ∈ s.cmd.queues, e.2.slice = k → e.2.cmds = [] ∧ e.2.stopSeq = none) :
    exec (.sliceDestroy q n) s = .next (finishCmd q n 0 0 (sliceErase k (drainQueues k s))) := by
  obtain ⟨e1, e2⟩ := h.ids
  refine (cmdOut_started h _).trans (congrArg _ ?_)
  have hd : sliceCtxs (drainQueues k s) k = [] := h5
  have hq : ((drainQueues k s).cmd.queues.any (fun e => decide (e.2.slice = k) && (!e.2.cmds.isEmpty || e.2.stopSeq.isSome))) = false := by
    rw [List.any_eq_false]
    intro e he
    obtain ⟨a, ha, rfl⟩ := List.mem_map.1 he
    dsimp only
    split
    · next hs => simp [h6 a ha hs]
    · next hs => simp [hs]
  have hn : (tget? s.ten.slices k).isNone = false := by simpa [← Option.ne_none_iff_isSome] using h3
  unfold sliceDestroyS
  dsimp only
  rw [e1, e2, ← hk, if_neg (by omega), if_neg (by simp [hn]), if_neg (by simp [h4]), h5]
  refine if_neg ?_
  rw [List.foldl_nil, hd, hq]
  simp

/-! ### DIRTY_LOG (R454-R457) -/

/-- The queues stay, and each slice keeps its list of dirty granules. -/
structure DirtyKept (s t : State) : Prop where
  queues : t.cmd.queues = s.cmd.queues
  dirty : ∀ k x, tget? s.ten.slices k = some x → ∃ y, tget? t.ten.slices k = some y ∧ y.dirty = x.dirty

theorem DirtyKept.of_slices {s t : State} (h : t.ten.slices = s.ten.slices) (hq : t.cmd.queues = s.cmd.queues) : DirtyKept s t :=
  ⟨hq, fun _ x hx => ⟨x, by rwa [h], rfl⟩⟩

theorem DirtyKept.refl (s : State) : DirtyKept s s := .of_slices rfl rfl

theorem DirtyKept.trans {s t v : State} (h : DirtyKept s t) (k : DirtyKept t v) : DirtyKept s v :=
  ⟨k.queues.trans h.queues, fun j x hx => by
    obtain ⟨y, hy, e⟩ := h.dirty j x hx
    obtain ⟨z, hz, f⟩ := k.dirty j y hy
    exact ⟨z, hz, f.trans e⟩⟩

theorem DirtyKept.foldl {α : Type} {f : State → α → State} (h : ∀ s a, DirtyKept s (f s a)) (l : List α) (s : State) :
    DirtyKept s (l.foldl f s) := by
  induction l generalizing s with
  | nil => exact .refl s
  | cons a r ih => exact (h s a).trans (ih _)

theorem DirtyKept.ite {s t v : State} {p : Prop} [Decidable p] (h : DirtyKept s t) (k : DirtyKept s v) : DirtyKept s (if p then t else v) := by
  split
  · exact h
  · exact k

/-- A slice's record put back with the same granules. -/
theorem DirtyKept.put {s t : State} {n : Nat} {sl new : Slice} (hs : tget? s.ten.slices n = some sl) (hd : new.dirty = sl.dirty)
    (ht : t.ten.slices = tput s.ten.slices n new) (hq : t.cmd.queues = s.cmd.queues) : DirtyKept s t := by
  refine ⟨hq, fun k x hx => ?_⟩
  rw [ht, tget?_tput]
  by_cases hk : n = k
  · subst hk
    obtain rfl : sl = x := Option.some.inj (hs.symm.trans hx)
    exact ⟨new, if_pos rfl, hd⟩
  · exact ⟨x, by rwa [if_neg hk], rfl⟩

theorem logPage_dirty (p g j : Nat) (s : State) : DirtyKept s (logPage p g j s) := by
  unfold logPage
  cases hs : tget? s.ten.slices j with
  | none => exact .refl s
  | some sl =>
    dsimp only
    refine .ite (.refl s) (.ite ?_ ?_)
    · exact .put hs (new := { sl with hostlogOver := true }) rfl rfl rfl
    · exact .put hs (new := { sl with hostlog := sl.hostlog ++ [(g, p)] }) rfl rfl rfl

theorem wcTrim_dirty (d : Nat) (s : State) : DirtyKept s (wcTrim d s) := .ite (.of_slices rfl rfl) (.refl s)

theorem hostWrite_dirty (p : Option Nat) (a : Nat) (bs : List Byte) (s : State) : DirtyKept s (hostWrite p a bs s) := by
  have hl (t : State) : DirtyKept t (logHost p a bs.length t) := by
    unfold logHost
    split
    · exact .refl _
    · exact .foldl (fun s g => .foldl (fun s k => logPage_dirty _ g k s) _ s) _ _
  unfold hostWrite
  refine DirtyKept.trans ?_ (hl _)
  refine DirtyKept.trans ?_ (wcTrim_dirty ..)
  refine DirtyKept.trans ?_ (wcTrim_dirty ..)
  exact .of_slices rfl rfl

theorem reportGran_dirty (p : Option Nat) (b k : Nat) (s : State) : DirtyKept s (reportGran p b k s) :=
  (hostWrite_dirty ..).trans (hostWrite_dirty ..)

/-- The host log reported: it is empty, and the granules stay. -/
theorem reportPages_spec (p : Option Nat) (a k : Nat) (s : State) {x : Slice} (hx : tget? s.ten.slices k = some x) :
    (reportPages p a k s).cmd.queues = s.cmd.queues ∧
      ∃ y, tget? (reportPages p a k s).ten.slices k = some y ∧ y.dirty = x.dirty ∧ y.hostlog = [] := by
  have clear (f : Slice → Bool) (t : State) (h : DirtyKept s t) :
      (setSlice k (fun sl => { sl with hostlog := [], hostlogOver := f sl }) t).cmd.queues = s.cmd.queues ∧
        ∃ y, tget? (setSlice k (fun sl => { sl with hostlog := [], hostlogOver := f sl }) t).ten.slices k = some y ∧ y.dirty = x.dirty ∧ y.hostlog = [] := by
    obtain ⟨y, hy, hd⟩ := h.dirty k x hx
    refine ⟨h.queues, { y with hostlog := [], hostlogOver := f y }, ?_, hd, rfl⟩
    simp [setSlice, hy]
  have pages (l : List (Nat × Nat)) (b1 b2 : List Byte) (a1 a2 : Nat) : DirtyKept s (if l.isEmpty then s else hostWrite p a1 b1 (hostWrite p a2 b2 s)) :=
    .ite (.refl s) ((hostWrite_dirty ..).trans (hostWrite_dirty ..))
  have full (b : Bool) (t : State) (ht : DirtyKept s t) (a : Nat) : DirtyKept s (if b then hostWrite p a [1] t else t) :=
    .ite (ht.trans (hostWrite_dirty ..)) ht
  have event (b : Bool) (t : State) (ht : DirtyKept s t) (m : Nat) : DirtyKept s (if b then raiseSlice pd0 0x001A 0 k m 0 0 t else t) :=
    .ite (ht.trans (.of_slices rfl rfl)) ht
  unfold reportPages
  rw [hx]
  exact clear _ _ (event _ _ (full _ _ (pages _ _ _ _ _) _) _)

theorem dirtyLog_eq {k : Nat} {sl : Slice} (h : Started s q n 0x0805 u c) (hk : k = par c 16 2) (h1 : par c 0 8 % 4096 = 0)
    (h2 : k ≤ 127) (hs : tget? s.ten.slices k = some sl) (h3 : par c 18 1 ≤ 2) (o : Out) (ho : o = .next (
      if par c 18 1 = 1 then finishCmd q n 0 0 (hostWrite u.pasid (par c 8 8 + 4) (zeros 5)
        (putSlice k { sl with dirtyOn := true, dirty := sliceGrans s k, hostlog := [], hostlogOver := false } s))
      else if par c 18 1 = 0 then finishCmd q n 0 0 (putSlice k { sl with dirtyOn := false } s)
      else finishCmd q n 0 (sl.dirty.length - 65536) (reportPages u.pasid (par c 8 8) k
        ((sl.dirty.take 65536).foldl (fun s j => reportGran u.pasid (par c 0 8) j s) (putSlice k { sl with dirty := sl.dirty.drop 65536 } s))))) :
    exec (.dirtyLog q n) s = o := by
  obtain ⟨e1, e2⟩ := h.ids
  rw [ho]
  refine (cmdOut_started h _).trans (congrArg _ ?_)
  have hl : logRecord s k = sl := by simp [logRecord, hs]
  have ht : sliceThere s k = true := by simp [sliceThere, hs]
  unfold dirtyLogS
  dsimp only
  rw [e1, e2, ← hk, if_neg (by omega), if_neg (by simp [ht]), hl]
  rfl

/-! ### SLICE_PASID (R442) -/

theorem slicePasid_eq (h : Started s q n 0x0804 u c) (h1 : 1 ≤ par c 4 2) (h2 : par c 4 2 ≤ 127) (h3 : par c 0 4 < 2 ^ 20)
    (hs : (tget? s.ten.slices (par c 4 2)).isSome) (h4 : par c 6 1 ≤ 1) (o : Out) (ho : o = .next (
      if par c 6 1 = 0 then
        if tget? s.ten.pasids (par c 0 4) = some (par c 4 2) then finishCmd q n 0 0 s
        else if (tget? s.ten.pasids (par c 0 4)).isSome then finishCmd q n stPasidInUse 0 s
        else if 16 ≤ (s.ten.pasids.filter (fun e => decide (e.2 = par c 4 2))).length ∨ 1024 ≤ s.ten.pasids.length then finishCmd q n stPasidLimit 0 s
        else finishCmd q n 0 0 { s with ten := { s.ten with pasids := tput s.ten.pasids (par c 0 4) (par c 4 2) } }
      else if tget? s.ten.pasids (par c 0 4) ≠ some (par c 4 2) then finishCmd q n 0x0015 0 s
      else if s.cmd.queues.any (fun e => decide (e.2.pasid = some (par c 0 4))) then finishCmd q n 0x0018 0 s
      else finishCmd q n 0 0 { s with ten := { s.ten with pasids := tdel s.ten.pasids (par c 0 4) } })) :
    exec (.slicePasid q n) s = o := by
  obtain ⟨e1, e2⟩ := h.ids
  rw [ho]
  refine (cmdOut_started h _).trans (congrArg _ ?_)
  have hn : (tget? s.ten.slices (par c 4 2)).isNone = false := by simpa [← Option.ne_none_iff_isSome] using hs
  unfold slicePasidS
  dsimp only
  rw [e1, e2, if_neg (by omega), if_neg (by simp [hn])]
  rfl

end

/-- Settles O41. -/
theorem sliceCommandsTakeEffect : Obligations.SliceCommandsTakeEffect := by
  unfold Obligations.SliceCommandsTakeEffect
  refine ⟨?_, ?_, ?_, ?_, ?_⟩
  · intro s q n u c k r h hk hr h1 h2 h3 h4 h5 h6 h7
    exact sliceCreate_eq h hk hr h1 h2 h3 h4 h5 h6 h7
  · intro s q n u c k r sl h hk hr h1 h2 hs h3 h4 h5 h6 h7 h8 h9 hl
    obtain ⟨t, ht, t1, t2, t3, t4, t5⟩ := resized_frame h hl
    exact ⟨t, resizedSlice sl r, (sliceResize_eq h hk hr h1 h2 hs h3 h4 h5 h6 h7 h8 h9).trans (congrArg _ ht), t1, t2, rfl, rfl, rfl, rfl, rfl,
      rfl, rfl, rfl, t3, t4, t5⟩
  · intro s q n u c k h hk h1 h2 h3 h4 h5 hu h6
    have he := sliceDestroy_eq h hk h1 h2 h3 h4 h5 h6
    have hf := notSched_sliceErase k (drainQueues k s)
    generalize sliceErase k (drainQueues k s) = t at he hf
    have hq : t.cmd.queues = (drainQueues k s).cmd.queues.filter (fun e => !decide (e.2.slice = k)) := (congrArg (fun s : State => s.cmd.queues) hf :)
    have hs : t.ten.slices = tdel s.ten.slices k := (congrArg (fun s : State => s.ten.slices) hf :)
    have hk : t.sec.keys = s.sec.keys.filter (fun j => !decide (j = k)) := (congrArg (fun s : State => s.sec.keys) hf :)
    have hp : t.ten.pasids = s.ten.pasids.filter (fun e => !decide (e.2 = k)) := (congrArg (fun s : State => s.ten.pasids) hf :)
    have hx : t.sec.sets = s.sec.sets.filter (fun e => !decide (e.2.slice = k)) := (congrArg (fun s : State => s.sec.sets) hf :)
    refine ⟨_, he, finish_replies (u := u) ?_ h.taken _ _, ?_, ?_, finishCmd_slices ?_, ?_, ?_,
      (congrArg (fun s : State => s.xt) hf :), (congrArg (fun s : State => s.mem) hf :)⟩
    · rw [hq]
      refine tget?_filter_keep ?_ (by simp [hu])
      have hd : (drainQueues k s).cmd.queues =
        tmap s.cmd.queues (fun _ u => if u.slice = k then { u with state := .draining, sealed := [] } else u) := rfl
      rw [hd, tget?_tmap, h.queue, Option.map_some, if_neg hu]
    · show tget? t.ten.slices k = none
      rw [hs]
      simp
    · show k ∉ t.sec.keys
      rw [hk]
      simp
    · intro e he
      rw [hq] at he
      simpa using (List.mem_filter.1 he).2
    · intro e he
      have he : e ∈ t.ten.pasids := he
      rw [hp] at he
      simpa using (List.mem_filter.1 he).2
    · intro e he
      have he : e ∈ t.sec.sets := he
      rw [hx] at he
      simpa using (List.mem_filter.1 he).2
  · intro s q n u c h h1 h2 h3 hs
    refine ⟨fun h4 hp hl hm => slicePasid_eq h h1 h2 h3 hs (by omega) _ ?_, fun h4 hp hq => slicePasid_eq h h1 h2 h3 hs (by omega) _ ?_⟩
    · rw [if_pos h4, hp, if_neg (by simp), if_neg (by simp), if_neg (by omega)]
    · rw [if_neg (by omega), if_neg (not_not.2 hp), if_neg]
      simpa using fun a b hab => hq (a, b) hab
  · intro s q n u c k sl h hk h1 h2 h3 hs
    refine ⟨fun h4 => dirtyLog_eq h hk h1 h3 hs (by omega) _ ?_, fun h4 => dirtyLog_eq h hk h1 h3 hs (by omega) _ ?_, fun h4 => ?_⟩
    · rw [if_pos h4]
    · rw [if_neg (by omega), if_pos h4]
    · refine ⟨_, dirtyLog_eq h hk h1 h3 hs (by omega) _ rfl, ?_⟩
      rw [if_neg (by omega), if_neg (by omega)]
      have hg : DirtyKept (putSlice k { sl with dirty := sl.dirty.drop 65536 } s)
        ((sl.dirty.take 65536).foldl (fun s j => reportGran u.pasid (par c 0 8) j s) (putSlice k { sl with dirty := sl.dirty.drop 65536 } s)) :=
        .foldl (fun s j => reportGran_dirty ..) _ _
      obtain ⟨y, hy, hd⟩ := hg.dirty k _ ((tget?_tput ..).trans (if_pos rfl))
      have hq := hg.queues
      obtain ⟨r1, x, r2, r3, r4⟩ := reportPages_spec u.pasid (par c 8 8) k _ hy
      exact ⟨finish_replies (by rw [r1, hq]; exact h.queue) h.taken _ _, x, r2, r3.trans hd, r4⟩

end Sys2Proof.Machine
end

section
/-! PROOF. PLACEMENT on a state whose table of launches is not in canonical form (R422, R423). -/

namespace Sys2Proof.Machine

/-- A launch of no instances that waits for its first placement. -/
def emptyLaunch : Launch := { q := 0, seq := 0, ctx := 0, slice := 0, recipe := 0, recipeId := 0, d := 3, count := 0, plan := 0, hist := 0, telem := 0, homePart := 0, noWait := false, ph := .waiting, order := 0, insts := [], saveGrans := 0, victimOf := [] }

def emptyRecipe : Recipe := { ctx := 0, bytes := [], footW := 0, footH := 0, period := 0, foot := [], stations := [], streams := [], rests := [], lives := [], startBound := 0, checked := false }

/-- A state that lists launch 1 twice: waiting first, then making way for launch 1. -/
def doubledLaunch : State :=
  { pwr := { phase := .ready }, sch := { recipes := [(0, emptyRecipe)], launches := [(1, emptyLaunch), (1, { emptyLaunch with ph := .leaving, victimOf := [1] })] } }

/-- The withdrawal after the placement starts the launches that made way for it, and the doubled one by its number. -/
theorem placement_doubledLaunch :
    (tget? (withdraw 1 (placeFirst 1 emptyLaunch emptyRecipe [] [] doubledLaunch)).sch.launches 1).map (·.ph) = some .running := by decide +kernel

theorem placementS_doubledLaunch :
    placementS 1 [] doubledLaunch = withdraw 1 (placeFirst 1 emptyLaunch emptyRecipe [] [] doubledLaunch) := rfl

/-- Refutes O43: over every state, a launch that is placed need not stand at its placed phase. Where the table lists the launch a second
time as one that makes way for it, the withdrawal that follows the placement sets the first entry running. -/
theorem not_schedulingEvents : ¬ Obligations.SchedulingEvents := by
  intro h
  obtain ⟨-, -, -, hplace⟩ := h
  obtain ⟨-, hfirst⟩ := hplace doubledLaunch 1 emptyLaunch emptyRecipe [] rfl rfl rfl
  obtain ⟨hnew, -⟩ := hfirst rfl rfl (by decide)
  obtain ⟨t, l, hrun, -, hl, hph, -⟩ := hnew [] rfl rfl rfl (by decide) (by decide) (by decide) (by decide)
  have ht : placementS 1 [] doubledLaunch = t := Host.Outcome.next.inj ((ifUp_ready rfl).symm.trans hrun)
  have hp := placement_doubledLaunch
  rw [← placementS_doubledLaunch, ht, hl] at hp
  exact absurd (hph.symm.trans (Option.some.inj hp)) (by decide)

end Sys2Proof.Machine
end

section
/-! PROOF. SAVE_DONE on a state whose table of launches is not in canonical form (R417, R423). -/

namespace Sys2Proof.Machine

/-- A Recipe of one pass-through station. -/
def oneCellRecipe : Recipe := { emptyRecipe with footW := 14, footH := 12, stations := [{ fx := 0, fy := 0, kind := 5, split := 0, descs := [], code := [], shConfig := 0 }] }

/-- A slice of one station. -/
def oneStnSlice : Slice := { vector := 0, queueFirst := 0, queueCount := 0, windows := 0, contexts := 0, tsliceMs := 0, graceMs := 0, latTarget := 0, memMib := 0, pinMib := 0, energyUj := 0, memBwFloor := 0, rbxBwFloor := 0, stations := [(0, 1)], record := [], page := 0 }

/-- A launch whose one placed part saves. -/
def savingLaunch : Launch := { emptyLaunch with ph := .leaving, insts := [{ part := 0, y := 0, x := 0, ph := .saving }] }

/-- A station held by launch 1. -/
def heldStation : Stn := { launch := 1, inst := 7, cell := 0, ctx := 4, kind := 5, split := 0, descs := [], code := [] }

/-- A state that lists launch 1 twice: saving first, then running in a context of a lower class; launch 2 waits for its station. -/
def doubledSaving : State :=
  { pwr := { phase := .ready }
    ten := { slices := [(5, oneStnSlice)], ctxs := [(4, { slice := 5, cls := 1 })] }
    sch := { recipes := [(0, oneCellRecipe)], launches := [(1, savingLaunch), (1, { emptyLaunch with ph := .running, ctx := 4, slice := 5 }), (2, { emptyLaunch with slice := 5, count := 1 })], stns := [(0, heldStation)] } }

/-- The saved launch is chosen as a victim by its second entry, and asked to leave once more. -/
theorem saveDone_doubledSaving : (tget? (saveDoneS 1 0 doubledSaving).sch.launches 1).map (·.ph) = some .leaving := by decide +kernel

/-- Refutes O44: over every state, a launch whose last part is saved need not stand pre-empted. Where the table lists the launch a
second time as a running one, the launches that wait for the freed stations choose it as their victim, and the first entry is set leaving. -/
theorem not_restPointsSavingAndCompletion : ¬ Obligations.RestPointsSavingAndCompletion := by
  intro h
  obtain ⟨-, hsave, -⟩ := h
  obtain ⟨t, w, l, hrun, -, -, -, -, -, -, hl, hph⟩ :=
    hsave doubledSaving 1 0 savingLaunch { part := 0, y := 0, x := 0, ph := .saving } oneCellRecipe rfl rfl rfl rfl rfl rfl
  have ht : saveDoneS 1 0 doubledSaving = t := Host.Outcome.next.inj ((ifUp_ready rfl).symm.trans hrun)
  have hp := saveDone_doubledSaving
  rw [ht, hl] at hp
  have hone : ∀ (j : Nat) (y : Inst), savingLaunch.insts[j]? = some y → j = 0 ∨ y.ph = .saved ∨ y.ph = .complete := by
    intro j y hy
    cases j with
    | zero => exact .inl rfl
    | succ j => simp [savingLaunch] at hy
  exact absurd ((hph hone).symm.trans (Option.some.inj hp)) (by decide)

end Sys2Proof.Machine
end

section
/-! PROOF. Descriptors: when none starts, LOOP, explicit copies, semaphore descriptors, completion and reported faults. -/

namespace Sys2Proof.Machine

/-! ### Station records -/

theorem setStn_setStn (n : Nat) (f g : Stn → Stn) (s : State) : setStn n g (setStn n f s) = setStn n (fun x => g (f x)) s := by
  unfold setStn
  dsimp only
  rw [tupd_tupd]

theorem stnOf_setStn_same {s : State} {n : Nat} {x : Stn} (h : stnOf s n = some x) (f : Stn → Stn) : stnOf (setStn n f s) n = some (f x) := by
  rw [stnOf_setStn, if_pos rfl, h, Option.map_some]

theorem stnOf_setStn_other (s : State) {n m : Nat} (h : m ≠ n) (f : Stn → Stn) : stnOf (setStn n f s) m = stnOf s m := by
  rw [stnOf_setStn, if_neg (Ne.symm h)]

/-- Stations but the changed one are listed as before. -/
theorem mem_instStns_setStn {s : State} {n k i : Nat} {f : Stn → Stn} {e : Nat × Stn} (h : e ∈ instStns (setStn n f s) k i) (hn : e.1 ≠ n) :
    e ∈ instStns s k i := by
  obtain ⟨h1, h2⟩ := List.mem_filter.1 h
  refine List.mem_filter.2 ⟨(mem_tupd h1).resolve_right ?_, h2⟩
  rintro ⟨v, -, rfl⟩
  exact hn rfl

theorem instStns_setStn_mem {s : State} {n k i : Nat} {f : Stn → Stn} {e : Nat × Stn} (h : e ∈ instStns s k i) (hn : e.1 ≠ n) :
    e ∈ instStns (setStn n f s) k i := by
  obtain ⟨h1, h2⟩ := List.mem_filter.1 h
  refine List.mem_filter.2 ⟨?_, h2⟩
  show e ∈ tupd s.sch.stns n f
  clear h h2
  revert h1
  generalize s.sch.stns = t
  induction t with
  | nil => exact id
  | cons a r ih =>
    intro h1
    unfold tupd
    rcases List.mem_cons.1 h1 with rfl | h1
    · rw [if_neg hn]
      exact List.mem_cons_self
    · split
      · exact List.mem_cons_of_mem _ h1
      · exact List.mem_cons_of_mem _ (ih h1)

/-! ### When no descriptor starts, and when one faults (R71, R82) -/

/-- Each command that runs a station's next descriptor runs the one of its OP. -/
theorem descCmds_out {n : Nat} {p : Nat × Instr} (h : p ∈ descCmds n) : ∃ f, ∀ s, exec p.2 s = descOut p.1 n f s := by
  simp only [descCmds, List.mem_cons, List.not_mem_nil, or_false] at h
  rcases h with rfl | rfl | rfl | rfl | rfl | rfl | rfl | rfl | rfl | rfl | rfl | rfl | rfl | rfl | rfl | rfl | rfl | rfl | rfl | rfl
  all_goals exact ⟨_, fun s => rfl⟩

theorem startIf_idle {s : State} {n op : Nat} (f : Nat → List Byte → Stn → State → State) {x : Stn} (hl : liveOf s n = some x)
    (h : ∀ d, x.descs[x.next]? = some d → (dOp d ≠ op ∧ dOp d ∈ rowOps) ∨ mayStart x x.next = false ∨ handHeld s n x x.next = true) :
    startIf op n f s = s := by
  unfold startIf
  rw [hl]
  dsimp only
  cases hd : x.descs[x.next]? with
  | none => rfl
  | some d => exact if_pos ((h d hd).imp_right (Or.imp_left (by simp)))

/-- An OP outside the opcode table is one of no station kind. -/
theorem kindOps_rowOps (kind : Nat) : ∀ op ∈ kindOps kind, op ∈ rowOps := by
  unfold kindOps
  split
  · decide
  · split
    · decide
    · split
      · decide
      · decide

theorem descFault_reserved (s : State) {x : Stn} {d : List Byte} (hd : x.descs[x.next]? = some d) (h : dOp d ∉ rowOps) :
    descFault s x x.next = 0xA5 := by
  have hn : nth [] x.descs x.next = d := by simp [nth, List.getD, hd]
  unfold descFault
  dsimp only
  rw [hn, if_pos]
  · rfl
  · unfold headBad
    exact decide_eq_true (.inr (.inr (.inr fun hk => h (kindOps_rowOps _ _ hk))))

theorem startIf_fault {s : State} {n op : Nat} (f : Nat → List Byte → Stn → State → State) {x : Stn} {d : List Byte} (hl : liveOf s n = some x)
    (hd : x.descs[x.next]? = some d) (ho : dOp d = op ∨ dOp d ∉ rowOps) (hm : mayStart x x.next = true) (hh : handHeld s n x x.next = false)
    (hf : descFault s x x.next ≠ 0) : startIf op n f s = stationFault n (descFault s x x.next) 0 x.next 0 0 0 s := by
  unfold startIf
  rw [hl]
  dsimp only
  rw [hd]
  dsimp only
  have hn : ¬ ((dOp d ≠ op ∧ dOp d ∈ rowOps) ∨ ¬ mayStart x x.next = true ∨ handHeld s n x x.next = true) := by
    rw [hm, hh]
    rintro (⟨h1, h2⟩ | h | h)
    · exact ho.elim h1 fun k => k h2
    · exact h rfl
    · cases h
  rw [if_neg hn, if_pos hf]

theorem descCmds_waits (s : State) (n : Nat) {p : Nat × Instr} (hp : p ∈ descCmds n) (h : issueHeld s = true ∨ liveOf s n = none) :
    exec p.2 s = .next s := by
  obtain ⟨f, hf⟩ := descCmds_out hp
  rw [hf]
  unfold descOut ifRun
  rcases h with h | h
  · rw [if_neg (by simp [h])]
  · unfold startIf
    rw [h]
    simp

theorem ifRun_idle {s : State} {f : State → State} (h : f s = s) : ifRun f s = .next s := by
  unfold ifRun
  rw [h, ite_self]

/-! ### LOOP (R66, R111, R112) -/

theorem tget_filter_key {α : Type} (d : α) (p : Nat → Bool) (t : Tbl α) (k : Nat) :
    tget d (tfilter t (fun k _ => p k)) k = if p k then tget d t k else d := by
  unfold tget tfilter
  rw [tget?_filter]
  cases p k <;> rfl

/-- The LOOP counts of a station once the loops inside the body of LOOP `i` start again. -/
def loopsAgain (x : Stn) (i : Nat) : Tbl Nat := tfilter x.loops (fun k _ => !inBody x i k)

theorem loopsAgain_get (x : Stn) (i k : Nat) : tget 0 (loopsAgain x i) k = if inBody x i k then 0 else tget 0 x.loops k := by
  unfold loopsAgain
  rw [tget_filter_key]
  cases inBody x i k <;> rfl

section
variable {s : State} {n : Nat} {x : Stn} {d : List Byte}

theorem loop_again (h : DescReady s n 1 x d) (hc : tget 0 x.loops x.next + 1 < lpCount d) : exec (.loop n) s = .next (
    setStn n (fun y => { y with loops := tput (loopsAgain x x.next) x.next (tget 0 x.loops x.next + 1), next := y.next - lpBack d }) s) := by
  refine (descOut_ready h _).trans (congrArg _ ?_)
  unfold loopGo
  dsimp only
  rw [if_pos hc]
  exact setStn_congr n _ _ s x (liveOf_stnOf s n x h.2.2.1) rfl

theorem loop_waits (h : DescReady s n 1 x d) (hc : lpCount d ≤ tget 0 x.loops x.next + 1) (hr : dRestAfter d = true) (hw : x.works ≠ []) :
    exec (.loop n) s = .next s := by
  refine (descOut_ready h _).trans (congrArg _ ?_)
  unfold loopGo
  dsimp only
  rw [if_neg (by omega), if_pos ⟨hr, by simpa [List.isEmpty_iff] using hw⟩]

/-- A rest point that no other station contradicts is marked. -/
theorem markRest_marks {id ik idx co : Nat} (hx : stnOf s n = some x)
    (hm : ∀ e ∈ instStns s x.launch x.inst, e.1 = n ∨ e.2.marked = 0 ∨ e.2.marked = id) :
    markRest n id ik idx co s = setStn n (fun x => { x with marked := id }) s := by
  unfold markRest
  rw [hx]
  dsimp only
  rw [if_neg]
  intro ha
  obtain ⟨e, he, hb⟩ := List.any_eq_true.1 ha
  obtain ⟨b1, b2, b3⟩ := of_decide_eq_true hb
  rcases hm e he with h | h | h
  · exact b1 h
  · exact b2 h
  · exact b3 h

theorem markRest_mismatch {id ik idx co : Nat} (hx : stnOf s n = some x)
    (hm : ∃ e ∈ instStns s x.launch x.inst, e.1 ≠ n ∧ e.2.marked ≠ 0 ∧ e.2.marked ≠ id) :
    markRest n id ik idx co s = stationFault n stRestMismatch ik idx co 0 0 s := by
  obtain ⟨e, he, hb⟩ := hm
  unfold markRest
  rw [hx]
  dsimp only
  rw [if_pos (List.any_eq_true.2 ⟨e, he, decide_eq_true hb⟩)]

/-- The station once the last pass of its LOOP is made. -/
def loopLeft (x : Stn) (d : List Byte) : Stn :=
  { x with loops := tdel (loopsAgain x x.next) x.next, next := x.next + 1, marked := if dRestAfter d then dRestId d else x.marked }

theorem loop_ends (h : DescReady s n 1 x d) (hc : lpCount d ≤ tget 0 x.loops x.next + 1)
    (hr : dRestAfter d = false ∨ (x.works = [] ∧ ∀ e ∈ instStns s x.launch x.inst, e.1 = n ∨ e.2.marked = 0 ∨ e.2.marked = dRestId d)) :
    exec (.loop n) s = .next (setStn n (fun _ => loopLeft x d) s) := by
  have hx := liveOf_stnOf s n x h.2.2.1
  refine (descOut_ready h _).trans (congrArg _ ?_)
  unfold loopGo
  dsimp only
  rw [if_neg (show ¬ tget 0 x.loops x.next + 1 < lpCount d by omega)]
  cases hd : dRestAfter d with
  | false =>
    rw [if_neg (by simp), if_neg (by simp)]
    exact setStn_congr n _ _ s x hx (by unfold loopLeft; rw [hd]; rfl)
  | true =>
    obtain ⟨hw, hm⟩ := hr.resolve_left (by simp [hd])
    rw [if_neg (by simp [hw]), if_pos rfl, markRest_marks (stnOf_setStn_same hx _), setStn_setStn]
    · exact setStn_congr n _ _ s x hx (by unfold loopLeft; rw [hd]; rfl)
    · intro e he
      by_cases hn : e.1 = n
      · exact .inl hn
      · exact hm e (mem_instStns_setStn he hn)

end

/-! ### COPY_IN and COPY_OUT (R113, R274) -/

theorem cutRange_fresh (s : State) (c fuel a n loc : Nat) : ∀ p ∈ cutRange s c fuel a n loc, p.st = 0 := by
  induction fuel generalizing a n loc with
  | zero => simp [cutRange]
  | succ fuel ih =>
    unfold cutRange
    split
    · simp
    · intro p hp
      rcases List.mem_cons.1 hp with rfl | hp
      · rfl
      · exact ih _ _ _ p hp

/-- A station takes up new transfers, numbered from the next number. -/
def xfersAdded (n : Nat) (fs : List Xfer) (s : State) : State :=
  setStn n (fun x => { x with xfers := x.xfers ++ fs }) { s with sch := { s.sch with xseq := s.sch.xseq + fs.length } }

theorem xfersAdded_nil (n : Nat) (s : State) : xfersAdded n [] s = s := by
  have hid (t : Tbl Stn) : tupd t n (fun x => { x with xfers := x.xfers ++ [] }) = t := by
    induction t with
    | nil => rfl
    | cons e r ih =>
      obtain ⟨j, v⟩ := e
      by_cases h : j = n <;> simp [tupd, h]
      simpa using ih
  unfold xfersAdded setStn
  dsimp only
  rw [hid]
  rfl

theorem xfersAdded_cons (n : Nat) (f : Xfer) (fs : List Xfer) (s : State) : xfersAdded n fs (xfersAdded n [f] s) = xfersAdded n (f :: fs) s := by
  have h (x : Stn) : ({ x with xfers := (x.xfers ++ [f]) ++ fs } : Stn) = { x with xfers := x.xfers ++ (f :: fs) } := by simp
  have hn : s.sch.xseq + [f].length + fs.length = s.sch.xseq + (f :: fs).length := by simp; omega
  have ht := (tupd_tupd s.sch.stns n (fun x => { x with xfers := x.xfers ++ [f] }) (fun x => { x with xfers := x.xfers ++ fs })).trans
    (congrArg (tupd s.sch.stns n) (funext h))
  unfold xfersAdded setStn
  dsimp only
  rw [hn, ht]

/-- What piece `j` of a copy descriptor's rows is. -/
def CopyPiece (d : List Byte) (i pass : Nat) (kind : XKind) (id j : Nat) (f : Xfer) : Prop :=
  f.id = id ∧ f.kind = kind ∧ f.desc = i ∧ f.grp = none ∧ (∀ p ∈ f.pieces, p.st = 0) ∧
    f.lo = cpOff d pass + j * rowsPer (cpRowBytes d) * cpPitch d ∧
    f.hi = f.lo + (min (rowsPer (cpRowBytes d)) (cpRows d - j * rowsPer (cpRowBytes d)) - 1) * cpPitch d + cpRowBytes d

theorem ceilDiv_sub {a b : Nat} (hb : 0 < b) (ha : b ≤ a) : ceilDiv a b = ceilDiv (a - b) b + 1 := by
  unfold ceilDiv
  rw [← Nat.add_div_right _ hb]
  congr 1
  omega

theorem ceilDiv_small {a b : Nat} (hb : 0 < a) (ha : a ≤ b) : ceilDiv a b = 1 := by
  unfold ceilDiv
  rw [Nat.div_eq_of_lt_le] <;> omega

theorem issued_none {n i pass P j : Nat} {d : List Byte} {kind : XKind} (hp : 0 < P) (s : State) (h : cpRows d ≤ j * P) :
    ∃ fs, s = xfersAdded n fs s ∧ fs.length = ceilDiv (cpRows d - j * P) P ∧
      ∀ k f, fs[k]? = some f → CopyPiece d i pass kind (s.sch.xseq + k) (j + k) f := by
  refine ⟨[], (xfersAdded_nil n s).symm, ?_, fun k f hk => by simp at hk⟩
  rw [Nat.sub_eq_zero_of_le h, ceilDiv, Nat.zero_add, Nat.div_eq_of_lt (by omega)]
  rfl

/-- The transfer of piece `j` of a copy descriptor's rows, as a station of context `c` issues it. -/
def rowsXfer (s : State) (n c i pass : Nat) (d : List Byte) (kind : XKind) (j : Nat) : Xfer :=
  let r := j * rowsPer (cpRowBytes d)
  let m := min (rowsPer (cpRowBytes d)) (cpRows d - r)
  let lo := cpOff d pass + r * cpPitch d
  { id := s.sch.xseq, kind := kind, desc := i, grp := none,
    pieces := (List.range m).flatMap (fun k => cutRange s c (cpRowBytes d + 1) (cpAddr d + (r + k) * cpMemPitch d) (cpRowBytes d) (lo + k * cpPitch d))
    lo := lo, hi := lo + (m - 1) * cpPitch d + cpRowBytes d, eng := engineFor s n (decide (kind = .copyIn)) }

theorem rowsXfer_piece (s : State) (n c i pass : Nat) (d : List Byte) (kind : XKind) (j : Nat) :
    CopyPiece d i pass kind s.sch.xseq j (rowsXfer s n c i pass d kind j) := by
  refine ⟨rfl, rfl, rfl, rfl, fun p hp => ?_, rfl, rfl⟩
  obtain ⟨k, _, hk⟩ := List.mem_flatMap.1 hp
  exact cutRange_fresh _ _ _ _ _ _ p hk

theorem issuePieces_next {n i pass fuel j : Nat} {d : List Byte} {kind : XKind} {s : State} {x : Stn} (hx : stnOf s n = some x)
    (hr : j * rowsPer (cpRowBytes d) < cpRows d) :
    issuePieces n i d pass kind (fuel + 1) (min (j * rowsPer (cpRowBytes d)) (cpRows d)) s =
      issuePieces n i d pass kind fuel (min ((j + 1) * rowsPer (cpRowBytes d)) (cpRows d)) (xfersAdded n [rowsXfer s n x.ctx i pass d kind j] s) := by
  rw [Nat.min_eq_left (Nat.le_of_lt hr),
    show min ((j + 1) * rowsPer (cpRowBytes d)) (cpRows d) =
      j * rowsPer (cpRowBytes d) + min (rowsPer (cpRowBytes d)) (cpRows d - j * rowsPer (cpRowBytes d)) by rw [Nat.succ_mul]; omega]
  conv_lhs => unfold issuePieces
  rw [if_neg (by omega), hx]
  rfl

/-- The rows from piece `j` on are issued as one transfer for each piece. -/
theorem issuePieces_spec {n i pass : Nat} {d : List Byte} {kind : XKind} (hp : 0 < rowsPer (cpRowBytes d)) (fuel j : Nat) (s : State)
    (hx : (stnOf s n).isSome) (hf : cpRows d < j * rowsPer (cpRowBytes d) + fuel) :
    ∃ fs, issuePieces n i d pass kind fuel (min (j * rowsPer (cpRowBytes d)) (cpRows d)) s = xfersAdded n fs s ∧
      fs.length = ceilDiv (cpRows d - j * rowsPer (cpRowBytes d)) (rowsPer (cpRowBytes d)) ∧
      ∀ k f, fs[k]? = some f → CopyPiece d i pass kind (s.sch.xseq + k) (j + k) f := by
  induction fuel generalizing j s with
  | zero => exact issued_none hp s (by omega)
  | succ fuel ih =>
    rcases Nat.lt_or_ge (j * rowsPer (cpRowBytes d)) (cpRows d) with hr | hr
    · obtain ⟨x, hx⟩ := Option.isSome_iff_exists.1 hx
      have hx2 : (stnOf (xfersAdded n [rowsXfer s n x.ctx i pass d kind j] s) n).isSome := by
        rw [xfersAdded, stnOf_setStn_same (by exact hx)]
        rfl
      obtain ⟨fs, h1, h2, h3⟩ := ih (j + 1) _ hx2 (by rw [Nat.succ_mul]; omega)
      refine ⟨_, (issuePieces_next hx hr).trans (h1.trans (xfersAdded_cons ..)), ?_, fun k f hk => ?_⟩
      · rw [List.length_cons, h2, Nat.succ_mul]
        unfold ceilDiv
        rw [← Nat.add_div_right _ hp]
        rcases Nat.lt_or_ge (rowsPer (cpRowBytes d)) (cpRows d - j * rowsPer (cpRowBytes d)) with hl | hl
        · congr 1
          omega
        · rw [show cpRows d - (j * rowsPer (cpRowBytes d) + rowsPer (cpRowBytes d)) = 0 by omega,
            Nat.div_eq_of_lt_le (k := 1) (by omega) (by omega), Nat.div_eq_of_lt_le (k := 1) (by omega) (by omega)]
      · cases k with
        | zero =>
          obtain rfl : rowsXfer s n x.ctx i pass d kind j = f := by simpa using hk
          exact rowsXfer_piece ..
        | succ k =>
          have := h3 k f (by simpa using hk)
          rwa [show (xfersAdded n [rowsXfer s n x.ctx i pass d kind j] s).sch.xseq + k = s.sch.xseq + (k + 1) by
            show s.sch.xseq + 1 + k = _; omega, show j + 1 + k = j + (k + 1) by omega] at this
    · unfold issuePieces
      rw [if_pos (by omega)]
      exact issued_none hp s hr

section
variable {s : State} {n : Nat} {x : Stn} {d : List Byte}

theorem nth_next (hd : x.descs[x.next]? = some d) : nth [] x.descs x.next = d := by simp [nth, List.getD, hd]

/-- A copy descriptor in order has rows that a piece holds. -/
theorem copyRow_fits {op : Nat} (h : DescReady s n op x d) (ho : op = 4 ∨ op = 5) : 0 < rowsPer (cpRowBytes d) := by
  obtain ⟨_, _, _, hd, hop, _, _, hf⟩ := h
  unfold descFault at hf
  dsimp only at hf
  rw [nth_next hd, hop] at hf
  have hb : cpRowBytes d ≤ 16777216 := by
    by_contra hb
    rw [if_neg (show ¬ op = 1 by omega), if_neg (show ¬ (op = 2 ∨ op = 3) by omega), if_pos ho] at hf
    have hc (p : Nat) : cpFault x d p = stBadDesc := by
      unfold cpFault firstOf
      rw [List.find?_cons_of_pos]
      · rfl
      · simp
        omega
    rw [hc] at hf
    split at hf <;> cases hf
  unfold rowsPer
  split
  · exact Nat.one_pos
  · exact Nat.div_pos hb (by omega)

/-! ### Descriptors begun -/

theorem beginWork_begun {i : Nat} {t : State} {y : Stn} (w : Work) (hy : stnOf t n = some y) (hn : y.started = x.started) (hd : y.descs = x.descs)
    (hl : y.loops = x.loops) : Begun (beginWork n i w t) n i x { y with works := tput y.works i { w with ord := y.started, passes := passesOf y i }, started := y.started + 1, next := i + 1 } w.st := by
  refine ⟨stnOf_setStn_same hy _, rfl, congrArg (· + 1) hn, hd, _, (tget?_tput ..).trans (if_pos rfl), rfl, hn, ?_⟩
  show passesOf y i = passesOf x i
  unfold passesOf enclosing inBody
  rw [hd, hl]

theorem copy_eq_begin {op : Nat} {kind : XKind} {cmd : Instr} (hm : (op, kind, cmd) ∈ ([(4, .copyIn, .copyIn n), (5, .copyOut, .copyOut n)] : List (Nat × XKind × Instr)))
    (h : DescReady s n op x d) : exec cmd s = .next (copyGo n kind x.next d x s) := by
  simp only [List.mem_cons, Prod.mk.injEq, List.not_mem_nil, or_false] at hm
  rcases hm with ⟨rfl, rfl, rfl⟩ | ⟨rfl, rfl, rfl⟩
  · exact descOut_ready h _
  · exact descOut_ready h _

theorem copyGo_issues {op : Nat} {kind : XKind} (h : DescReady s n op x d) (ho : op = 4 ∨ op = 5) :
    ∃ fs, copyGo n kind x.next d x s = beginWork n x.next { st := .fin } (xfersAdded n fs s) ∧
      fs.length = ceilDiv (cpRows d) (rowsPer (cpRowBytes d)) ∧
      ∀ k f, fs[k]? = some f → CopyPiece d x.next (nth 0 (passesOf x x.next) 0) kind (s.sch.xseq + k) k f := by
  have hx := liveOf_stnOf s n x h.2.2.1
  obtain ⟨fs, h1, h2, h3⟩ := issuePieces_spec (i := x.next) (pass := nth 0 (passesOf x x.next) 0) (kind := kind) (copyRow_fits h ho)
    (cpRows d + 1) 0 s (by rw [hx]; rfl) (by omega)
  rw [Nat.zero_mul, Nat.zero_min] at h1
  rw [Nat.zero_mul, Nat.sub_zero] at h2
  refine ⟨fs, congrArg (beginWork n x.next { st := .fin }) h1, h2, fun k f hk => ?_⟩
  have := h3 k f hk
  rwa [Nat.zero_add] at this

theorem sem_eq_begin {op : Nat} {cmd : Instr} (hm : (op, cmd) ∈ ([(6, .semWait n), (7, .semRelease n)] : List (Nat × Instr)))
    (h : DescReady s n op x d) : exec cmd s = .next (beginWork n x.next { st := .wait, rows := s.sch.xseq } s) := by
  simp only [List.mem_cons, Prod.mk.injEq, List.not_mem_nil, or_false] at hm
  rcases hm with ⟨rfl, rfl⟩ | ⟨rfl, rfl⟩
  · exact descOut_ready h (fun i _ _ s => beginWork n i { st := .wait, rows := s.sch.xseq } s)
  · exact descOut_ready h (fun i _ _ s => beginWork n i { st := .wait, rows := s.sch.xseq } s)

/-! ### Completion (R66, R71, R275) -/

theorem copyDone_eq {k : Nat} {f : Xfer} (hp : s.pwr.phase = .ready) (hx : stnOf s n = some x)
    (hf : x.xfers.find? (fun f => decide (f.id = k) && isCopy f) = some f) : exec (.explicitCopyDone n k) s = .next (
      if f.pieces.all (fun p => decide (p.st = 2)) then setStn n (fun x => { x with xfers := x.xfers.erase f }) s else s) := by
  refine (ifUp_ready hp).trans (congrArg _ ?_)
  unfold copyDoneS
  rw [hx]
  dsimp only
  rw [hf]

theorem descComplete_eq {i : Nat} {w : Work} (hp : s.pwr.phase = .ready) (hi : issueHeld s = false) (hl : liveOf s n = some x)
    (hw : tget? x.works i = some w) (o : Out) (ho : o = .next (
      if w.st ≠ .fin ∨ w.outs ≠ [] ∨ (dRestAfter (nth [] x.descs i) = true ∧ ∃ e ∈ x.works, e.2.ord < w.ord) then s
      else if dRestAfter (nth [] x.descs i) then markRest n (dRestId (nth [] x.descs i)) 0 i 0 (setStn n (fun x => { x with works := tdel x.works i }) s)
      else setStn n (fun x => { x with works := tdel x.works i }) s)) : exec (.descriptorComplete n i) s = o := by
  rw [ho]
  refine (ifRun_ready hp hi).trans (congrArg _ ?_)
  unfold descCompleteS
  rw [hl]
  dsimp only
  rw [hw]
  dsimp only
  refine if_congr ?_ rfl rfl
  simp

/-! ### Faults that the hardware reports (R82-R84) -/

/-- The records and what they may change: the registers of the command protocol, host memory, interrupts and the slices' pages. -/
def notEvents (s : State) : State := { s with cmd := {}, host := {}, pci := {}, ten := { s.ten with slices := [] } }

theorem notEvents_raiseMsix (v : Nat) (s : State) : notEvents (raiseMsix v s) = notEvents s := by
  unfold raiseMsix
  split <;> rfl

theorem notEvents_pageEntry {k : Nat} {b : List Byte} {s t : State} (h : pageEntry k b s = some t) : notEvents t = notEvents s := by
  unfold pageEntry at h
  cases hs : tget? s.ten.slices k with
  | none => rw [hs] at h; cases h
  | some sl =>
    rw [hs] at h
    dsimp only at h
    split at h
    · cases h
    · cases h
      exact notEvents_raiseMsix _ _

/-- The state once the count of lost records is told to a slice's page, where there are any and room. -/
def lostTold (k : Nat) (s : State) : State :=
  let lost := ((tget? s.ten.slices k).map (·.evLost)).getD 0
  if lost = 0 then s
  else ((pageEntry k (eventBytes pd0 0x0019 (refOf s pd0) 0 k lost 0 0) s).map (fun s =>
    raise pd0 0x0019 0 k lost 0 0 (setSlice k (fun sl => { sl with evLost := 0 }) s))).getD s

theorem pageRecord_eq (k : Nat) (b : List Byte) (s : State) : pageRecord k b s =
    (pageEntry k b (lostTold k s)).getD (setSlice k (fun sl => { sl with evLost := sl.evLost + 1 }) (lostTold k s)) := by
  have hl : lostTold k s = if ((tget? s.ten.slices k).map (·.evLost)).getD 0 = 0 then s else
      match pageEntry k (eventBytes pd0 0x0019 (refOf s pd0) 0 k (((tget? s.ten.slices k).map (·.evLost)).getD 0) 0 0) s with
      | some t => raise pd0 0x0019 0 k (((tget? s.ten.slices k).map (·.evLost)).getD 0) 0 0 (setSlice k (fun sl => { sl with evLost := 0 }) t)
      | none => s := by
    unfold lostTold
    dsimp only
    refine if_congr Iff.rfl rfl ?_
    cases pageEntry k (eventBytes pd0 0x0019 (refOf s pd0) 0 k (((tget? s.ten.slices k).map (·.evLost)).getD 0) 0 0) s <;> rfl
  rw [hl]
  unfold pageRecord
  dsimp only
  generalize (if ((tget? s.ten.slices k).map (·.evLost)).getD 0 = 0 then s else _) = t
  cases pageEntry k b t <;> rfl

theorem notEvents_lostTold (k : Nat) (s : State) : notEvents (lostTold k s) = notEvents s := by
  unfold lostTold
  dsimp only
  split
  · rfl
  · cases h : pageEntry k (eventBytes pd0 0x0019 (refOf s pd0) 0 k (((tget? s.ten.slices k).map (·.evLost)).getD 0) 0 0) s with
    | none => rfl
    | some t => exact (show notEvents _ = notEvents t from rfl).trans (notEvents_pageEntry h)

theorem notEvents_pageRecord (k : Nat) (b : List Byte) (s : State) : notEvents (pageRecord k b s) = notEvents s := by
  rw [pageRecord_eq, ← notEvents_lostTold k s]
  cases h : pageEntry k b (lostTold k s) with
  | none => rfl
  | some t => exact notEvents_pageEntry h

theorem notEvents_eventRecord (s : State) : notEvents (eventRecordS s) = notEvents s := by
  have hw (t : State) (b : List Byte) : notEvents (if evRoom t then
      raiseMsix t.cmd.evVec { hostPost none (t.cmd.evBase + 64 * t.cmd.evHead) b t with cmd := { t.cmd with evHead := (t.cmd.evHead + 1) % 2 ^ t.cmd.evLog2, evDelivered := satAdd (2 ^ 32 - 1) t.cmd.evDelivered 1 } }
      else { t with cmd := { t.cmd with evLost := satAdd (2 ^ 32 - 1) t.cmd.evLost 1 } }) = notEvents t := by
    split
    · exact notEvents_raiseMsix ..
    · rfl
  unfold eventRecordS
  split
  · rfl
  · refine (hw _ _).trans ?_
    split
    · exact notEvents_pageRecord ..
    · rfl

theorem notEvents_flushEvents (s : State) : notEvents (flushEvents s) = notEvents s :=
  foldl_keeps notEvents (fun s _ => notEvents_eventRecord s) _ s

/-- The parts of a station fault record (R84). -/
def faultParts (s : State) (n : Nat) (x : Stn) (code ik idx co addr detail : Nat) : List (Nat × List Byte) :=
  [(0, leBytes 4 0x0C0E), (4, leBytes 2 x.ctx), (6, leBytes 1 (stnPart n)), (7, leBytes 1 x.kind),
    (8, leBytes 8 (refOf s (stnPart n))), (16, leBytes 2 code), (18, leBytes 2 (stnId n)), (20, leBytes 2 x.inst),
    (22, leBytes 1 ik), (24, leBytes 4 idx), (28, leBytes 4 co), (32, leBytes 8 addr), (40, leBytes 8 detail)]

theorem stationFaultBytes_eq (s : State) (n : Nat) (x : Stn) (code ik idx co addr detail : Nat) :
    stationFaultBytes s n x code ik idx co addr detail = layout 64 (faultParts s n x code ik idx co addr detail) := by
  unfold stationFaultBytes faultParts
  rfl

theorem faultParts_fit (s : State) (n : Nat) (x : Stn) (code ik idx co addr detail : Nat) :
    ∀ f ∈ faultParts s n x code ik idx co addr detail, f.1 + f.2.length ≤ 64 := by simp [faultParts]

theorem stationFaultBytes_field {s : State} {n : Nat} {x : Stn} {code ik idx co addr detail o m v : Nat}
    (h : (o, leBytes m v) ∈ faultParts s n x code ik idx co addr detail) :
    field (stationFaultBytes s n x code ik idx co addr detail) o m = v % 256 ^ m := by
  have := field_layout (faultParts_fit s n x code ik idx co addr detail) (by simp [faultParts]) h
  rwa [length_leBytes, leNat_leBytes, ← stationFaultBytes_eq] at this

/-- A live station's fault: its record, the stations of its context stopped, and rung 1. -/
theorem stationFault_live {code ik idx co addr detail : Nat} (hx : stnOf s n = some x) (hl : stnLive s x = true) :
    stationFault n code ik idx co addr detail s = rung1Start x.ctx 1 [] (setStn n (fun x => { x with fault := code }) (stopStations x.ctx
      (flushEvents (raiseRec ⟨stationFaultBytes s n x code ik idx co addr detail, some (ctxSlice s x.ctx)⟩ s)))) := by
  unfold stnLive at hl
  simp only [Bool.and_eq_true, Bool.not_eq_true'] at hl
  obtain ⟨⟨h1, h2⟩, -⟩ := hl
  unfold stationFault
  rw [hx]
  dsimp only
  rw [if_neg (by simp [h1, h2])]
  rfl

/-- A live station's context is alive. -/
theorem stnLive_ctx (hl : stnLive s x = true) : ∃ c, ctxOf s x.ctx = some c ∧ c.dead = false := by
  unfold stnLive ctxStopping at hl
  simp only [Bool.and_eq_true, Bool.not_eq_true', Bool.or_eq_false_iff] at hl
  obtain ⟨⟨-, h, -⟩, -⟩ := hl
  cases hc : ctxOf s x.ctx with
  | none => simp [hc] at h
  | some c => exact ⟨c, rfl, by simpa [hc] using h⟩

theorem stationFault_idle {f : FaultIn} (hp : s.pwr.phase = .ready) (hx : stnOf s f.stn = some x)
    (h : f.code < 0xA0 ∨ 0xBA < f.code ∨ stnLive s x = false) : exec (.stationFault f) s = .next s := by
  refine (ifUp_ready hp).trans (congrArg _ ?_)
  unfold guardS
  rw [if_neg]
  rw [hx]
  rcases h with h | h | h
  · have : ¬ stStreamPort ≤ f.code := by show ¬ 0xA0 ≤ f.code; omega
    simp [this]
  · have : ¬ f.code ≤ stRemoteRefused := by show ¬ f.code ≤ 0xBA; omega
    simp [this]
  · simp [h]

theorem stationFault_hears {f : FaultIn} (hp : s.pwr.phase = .ready) (hx : stnOf s f.stn = some x) (h1 : 0xA0 ≤ f.code) (h2 : f.code ≤ 0xBA)
    (hl : stnLive s x = true) : exec (.stationFault f) s = .next (stationFault f.stn f.code f.indexKind f.index f.codeOffset f.address f.detail s) := by
  refine (ifUp_ready hp).trans (congrArg _ ?_)
  unfold guardS
  rw [if_pos]
  rw [hx]
  have : stStreamPort ≤ f.code ∧ f.code ≤ stRemoteRefused := ⟨h1, h2⟩
  simp [this, hl]

/-- Station `m` after a fault of station `n`: stopped where its context is the faulting one, and station `n` with the fault's code. -/
def faultStopped (c n m code : Nat) (y : Stn) : Stn :=
  { y with stopped := y.stopped || decide (y.ctx = c), fault := if n = m then code else y.fault }

theorem faultStopped_eq (c m code : Nat) (y : Stn) : faultStopped c n m code y =
    if n = m then { (if y.ctx = c then { y with stopped := true } else y) with fault := code }
    else (if y.ctx = c then { y with stopped := true } else y) := by
  unfold faultStopped
  by_cases hn : n = m <;> by_cases hc : y.ctx = c <;> simp [hn, hc]

/-- What a fault leaves of the stations: those of its context are stopped, the others as they were. -/
theorem stopStations_stn (c m code : Nat) (t : State) :
    stnOf (setStn n (fun x => { x with fault := code }) (stopStations c t)) m = (stnOf t m).map (faultStopped c n m code) := by
  have h (j) : stnOf (stopStations c t) j = (stnOf t j).map (fun y => if y.ctx = c then { y with stopped := true } else y) :=
    tget?_tmap t.sch.stns (fun _ y => if y.ctx = c then { y with stopped := true } else y) j
  rw [stnOf_setStn, h, h, funext (faultStopped_eq c m code)]
  by_cases hn : n = m
  · subst hn
    simp [Function.comp_def]
  · simp [hn]

/-- A fault of a live station takes its living context to rung 1, once the records before it are written. -/
theorem faultRung_spec {r : State} {c : Nat} {y : Ctx} {f : Stn → Stn} (hr : notEvents r = notEvents s) (h0 : c ≠ 0) (hy : ctxOf s c = some y)
    (hd : y.dead = false) (he : s.err.rungs = []) :
    ∃ t, rung1Start c 1 [] (setStn n f (stopStations c r)) = t ∧ t.host = r.host ∧ t.pci = r.pci ∧ t.ten = r.ten ∧ t.mem = s.mem ∧
      t.sch = (setStn n f (stopStations c r)).sch ∧ RungSet s t 1 c 1 [] ∧
      t.cmd.evq = r.cmd.evq ++ [⟨eventBytes (ctxDie s c) 0x004B (refOf s (ctxDie s c)) c 0 1 c 1, none⟩] := by
  have hclk : r.clk = s.clk := (congrArg (fun s : State => s.clk) hr :)
  have hctxs : r.ten.ctxs = s.ten.ctxs := (congrArg (fun s : State => s.ten.ctxs) hr :)
  have hmem : r.mem = s.mem := (congrArg (fun s : State => s.mem) hr :)
  have herr : r.err = s.err := (congrArg (fun s : State => s.err) hr :)
  generalize hw : setStn n f (stopStations c r) = w
  have wten : w.ten = r.ten := by rw [← hw]; rfl
  have wctx : ctxOf w c = ctxOf s c := by unfold ctxOf; rw [wten, hctxs]
  have wdie : ctxDie w c = ctxDie s c := by unfold ctxDie; rw [wctx]
  have wref (d) : refOf w d = refOf s d := by unfold refOf; rw [← hclk, ← hw]; rfl
  have werr : w.err.rungs = [] := by rw [← hw]; exact (congrArg (·.rungs) herr).trans he
  refine ⟨_, rfl, ?_⟩
  rw [rung1Start_living h0 (wctx.trans hy) hd]
  have hset := startRung_set (s := w) (r := 1) c 1 [] werr (by decide)
  unfold RungSet at hset ⊢
  rw [show rungDie w 1 c = rungDie s 1 c from wdie, wref] at hset
  rw [startRung_first 1 c 1 [] werr] at hset ⊢
  refine ⟨?_, ?_, wten, ?_, rfl, hset, ?_⟩
  · show w.host = r.host
    rw [← hw]; rfl
  · show w.pci = r.pci
    rw [← hw]; rfl
  · show w.mem = s.mem
    rw [← hw]; exact hmem
  · show w.cmd.evq ++ [⟨eventBytes (ctxDie w c) 0x004B (refOf w (ctxDie w c)) c 0 1 c 1, none⟩] = _
    rw [wdie, wref, ← hw]
    rfl

end

/-- Settles O45. -/
theorem descriptorsStartWaitOrFault : Obligations.DescriptorsStartWaitOrFault := by
  unfold Obligations.DescriptorsStartWaitOrFault
  refine ⟨?_, ?_, ?_, ?_, ?_, ?_, ?_⟩
  · intro s n p hp
    refine ⟨descCmds_waits s n hp, fun x hl h => ?_, fun x d hph hi hl hd ho hm hh => ⟨descFault_reserved s hd, fun hf => ?_⟩⟩
    · obtain ⟨f, hf⟩ := descCmds_out hp
      exact (hf s).trans (ifRun_idle (startIf_idle f hl h))
    · obtain ⟨f, hx⟩ := descCmds_out hp
      exact (hx s).trans ((ifRun_ready hph hi).trans (congrArg _ (startIf_fault f hl hd ho hm hh hf)))
  · intro s n x d h
    have hx := liveOf_stnOf s n x h.2.2.1
    refine ⟨fun hc => ⟨_, loop_again h hc, ?_, fun k hk => ?_⟩, loop_waits h, fun hc hr => ?_⟩
    · simp [tget]
    · rw [← loopsAgain_get]
      unfold tget
      rw [tget?_tput, if_neg (Ne.symm hk)]
    · refine ⟨_, loopLeft x d, loop_ends h hc hr, stnOf_setStn_same hx _, rfl, rfl, rfl, rfl, rfl, rfl, ?_, fun k hk => ?_, fun m hm => stnOf_setStn_other s hm _⟩
      · simp [loopLeft, tget]
      · rw [← loopsAgain_get]
        unfold loopLeft tget
        rw [tget?_tdel, if_neg (Ne.symm hk)]
  · intro s n x d kind op cmd hm h
    have hx := liveOf_stnOf s n x h.2.2.1
    have ho : op = 4 ∨ op = 5 := by
      simp only [List.mem_cons, Prod.mk.injEq, List.not_mem_nil, or_false] at hm
      exact hm.imp (·.1) (·.1)
    obtain ⟨fs, hg, hn, hf⟩ := copyGo_issues (kind := kind) h ho
    have hy : stnOf (xfersAdded n fs s) n = some { x with xfers := x.xfers ++ fs } := stnOf_setStn_same (by exact hx) _
    refine ⟨_, _, fs, (copy_eq_begin hm h).trans (congrArg _ hg), beginWork_begun { st := .fin } hy rfl rfl rfl, rfl, hn, rfl, rfl, rfl, rfl, rfl, fun m hm => ?_, fun j f hj => hf j f hj⟩
    exact (stnOf_setStn_other _ hm _).trans (stnOf_setStn_other _ hm _)
  · intro s n x d op cmd hm h
    have hx := liveOf_stnOf s n x h.2.2.1
    refine ⟨_, _, sem_eq_begin hm h, beginWork_begun { st := .wait, rows := s.sch.xseq } hx rfl rfl rfl, rfl, rfl, rfl, rfl, fun i hi => ?_, fun m hm => stnOf_setStn_other _ hm _, rfl, rfl, rfl⟩
    simp [Ne.symm hi]
  · intro s n k x f hp hx hf
    rw [copyDone_eq hp hx hf]
    refine ⟨fun ⟨p, h1, h2⟩ => ?_, fun ha => ?_⟩
    · rw [if_neg]
      exact fun h => h2 (of_decide_eq_true (List.all_eq_true.1 h p h1))
    · rw [if_pos (List.all_eq_true.2 fun p hp => decide_eq_true (ha p hp))]
  · intro s n i x w hp hi hl hw
    have hx := liveOf_stnOf s n x hl
    have hord (ha : ∀ e ∈ x.works, w.ord ≤ e.2.ord) : ¬ ∃ e ∈ x.works, e.2.ord < w.ord := by
      rintro ⟨e, he, hlt⟩
      exact absurd (ha e he) (Nat.not_le.2 hlt)
    refine ⟨fun h => descComplete_eq hp hi hl hw _ ?_, fun h1 h2 h3 => descComplete_eq hp hi hl hw _ ?_, fun h1 h2 => descComplete_eq hp hi hl hw _ ?_,
      fun h1 h2 h3 h4 h5 => descComplete_eq hp hi hl hw _ ?_, fun h1 h2 h3 h4 h5 => ?_⟩
    · rw [if_pos (h.imp_right .inl)]
    · rw [if_neg (by simp [h1, h2, h3]), if_neg (by simp [h3])]
    · rw [if_pos (.inr (.inr ⟨h1, h2⟩))]
    · rw [if_neg (by simpa [h1, h2, h3] using h4), if_pos h3, markRest_mismatch (stnOf_setStn_same hx _)]
      · rfl
      · obtain ⟨e, he, hn, hm⟩ := h5
        exact ⟨e, instStns_setStn_mem he hn, hn, hm⟩
    · have hm := markRest_marks (id := dRestId (nth [] x.descs i)) (ik := 0) (idx := i) (co := 0)
        (stnOf_setStn_same hx (fun x => { x with works := tdel x.works i })) (fun e he => ?_)
      · have hex := descComplete_eq hp hi hl hw _ rfl
        rw [if_neg (by simpa [h1, h2, h3] using h4), if_pos h3, hm] at hex
        refine ⟨_, _, hex, stnOf_setStn_same (stnOf_setStn_same hx _) _, rfl, fun m hn => ?_, rfl⟩
        rw [stnOf_setStn_other _ hn, stnOf_setStn_other _ hn]
      · by_cases hn : e.1 = n
        · exact .inl hn
        · exact h5 e (mem_instStns_setStn he hn)
  · intro s f x hp hx
    refine ⟨stationFault_idle hp hx, fun h1 h2 hl he => ?_⟩
    have hex := stationFault_hears hp hx h1 h2 hl
    rw [stationFault_live hx hl] at hex
    have hb (o m v : Nat) (hv : (o, leBytes m v) ∈ faultParts s f.stn x f.code f.indexKind f.index f.codeOffset f.address f.detail) :=
      stationFaultBytes_field hv
    have hlen : (stationFaultBytes s f.stn x f.code f.indexKind f.index f.codeOffset f.address f.detail).length = 64 := by
      rw [stationFaultBytes_eq, length_layout (faultParts_fit s f.stn x f.code f.indexKind f.index f.codeOffset f.address f.detail)]
    generalize hbytes : stationFaultBytes s f.stn x f.code f.indexKind f.index f.codeOffset f.address f.detail = b at hex hb hlen
    have hr : notEvents (flushEvents (raiseRec ⟨b, some (ctxSlice s x.ctx)⟩ s)) = notEvents s := notEvents_flushEvents _
    generalize hrr : flushEvents (raiseRec ⟨b, some (ctxSlice s x.ctx)⟩ s) = r at hex hr
    have hst (m : Nat) : stnOf r m = stnOf s m := (congrArg (fun s : State => stnOf s m) hr :)
    have hmem : r.mem = s.mem := (congrArg (fun s : State => s.mem) hr :)
    obtain ⟨y, hy, hd⟩ := stnLive_ctx hl
    have hrung (h0 : x.ctx ≠ 0) := faultRung_spec (n := f.stn) (f := fun x => { x with fault := f.code }) hr h0 hy hd he
    have hzero (h0 : x.ctx = 0) : rung1Start x.ctx 1 [] (setStn f.stn (fun x => { x with fault := f.code }) (stopStations x.ctx r)) =
        setStn f.stn (fun x => { x with fault := f.code }) (stopStations x.ctx r) := by rw [h0]; rfl
    have hstn (m : Nat) := stopStations_stn (n := f.stn) x.ctx m f.code r
    generalize hw : rung1Start x.ctx 1 [] (setStn f.stn (fun x => { x with fault := f.code }) (stopStations x.ctx r)) = t at hex hrung hzero
    have hkeep : t.host = r.host ∧ t.pci = r.pci ∧ t.ten = r.ten ∧ t.mem = s.mem ∧
        ∀ m, stnOf t m = stnOf (setStn f.stn (fun x => { x with fault := f.code }) (stopStations x.ctx r)) m := by
      by_cases h0 : x.ctx = 0
      · rw [hzero h0]
        exact ⟨rfl, rfl, rfl, hmem, fun _ => rfl⟩
      · obtain ⟨t, rfl, k1, k2, k3, k4, k5, -⟩ := hrung h0
        exact ⟨k1, k2, k3, k4, fun m => congrArg (fun h : Sched => tget? h.stns m) k5⟩
    obtain ⟨k1, k2, k3, k4, k5⟩ := hkeep
    refine ⟨t, b, r, hex, hlen, ?_, ?_, ?_, ?_, ?_, ?_, ?_, ?_, ?_, ?_, k1, k2, k3, k4, ?_, ?_, ?_, ?_⟩
    · exact hb 0 4 0x0C0E (by simp [faultParts])
    · exact hb 4 2 _ (by simp [faultParts])
    · exact hb 8 8 _ (by simp [faultParts])
    · exact (hb 16 2 f.code (by simp [faultParts])).trans (Nat.mod_eq_of_lt (by omega))
    · exact hb 18 2 _ (by simp [faultParts])
    · exact hb 22 1 _ (by simp [faultParts])
    · exact hb 24 4 _ (by simp [faultParts])
    · exact hb 32 8 _ (by simp [faultParts])
    · exact hb 40 8 _ (by simp [faultParts])
    · exact hrr.symm
    · intro m z hz hc
      rw [k5, hstn] at hz
      obtain ⟨v, hv, rfl⟩ := Option.map_eq_some_iff.1 hz
      exact Bool.or_eq_true_iff.2 (.inr (decide_eq_true hc))
    · intro m z hz hc
      rw [k5, hstn, hst, hz]
      have hm : f.stn ≠ m := by
        rintro rfl
        exact hc (congrArg Stn.ctx (Option.some.inj (hz.symm.trans hx)))
      simp only [Option.map_some, faultStopped_eq, if_neg hm, if_neg hc]
    · intro h0
      rw [hzero h0]
      exact ⟨(congrArg (fun s : State => s.err) hr :), rfl⟩
    · intro h0
      obtain ⟨t, rfl, -, -, -, -, -, k6, k7⟩ := hrung h0
      exact ⟨k6, k7⟩

end Sys2Proof.Machine
end

section
/-! PROOF. Watchdogs, errors and the escalation of rungs. -/

namespace Sys2Proof.Machine

variable {s : State}

@[simp] theorem startRung_sch (r t c : Nat) (l : List (Nat × Nat)) (s : State) : (startRung r t c l s).sch = s.sch := by
  unfold startRung; split <;> rfl
@[simp] theorem startRung_home (r t c : Nat) (l : List (Nat × Nat)) (s : State) : (startRung r t c l s).home = s.home := by
  unfold startRung; split <;> rfl

/-- Rung 3 fences its partition from the moment it starts. -/
theorem startRung_fences {p : Nat} (cause : Nat) (l : List (Nat × Nat)) (e : s.err.rungs = []) : p ∈ (startRung 3 p cause l s).seam.fenced := by
  rw [startRung_first 3 p cause l e]
  exact (mem_insKey _ _ _).2 (.inl rfl)

/-- The event of a rung that starts while none is under way. -/
theorem startRung_evq (r t cause : Nat) (l : List (Nat × Nat)) (e : s.err.rungs = []) : (startRung r t cause l s).cmd.evq =
    s.cmd.evq ++ [⟨eventBytes (rungDie s r t) 0x004B (refOf s (rungDie s r t)) (if r = 1 then t else 0) 0 r t cause, none⟩] := by
  rw [startRung_first r t cause l e]
  dsimp only
  split <;> rfl

/-! ### The watchdogs (R593-R595) -/

theorem wdRest_late {n : Nat} {x : Stn} {y : Ctx} (hx : stnOf s n = some x) (hl : stnLive s x = true) (h0 : x.ctx ≠ 0)
    (hy : tget? s.ten.ctxs x.ctx = some y) (hd : y.dead = false) (hs : max (x.bound / max 1 s.err.graceDiv) s.err.graceMin + x.bound < x.stretch / 25) :
    wdRestS n s = startRung 1 x.ctx rcRest [] (raise (ctxDie s x.ctx) 0x0048 x.ctx (ctxSlice s x.ctx) x.ctx (stnId n) (x.stretch / 25) s) := by
  unfold wdRestS
  rw [hx]
  dsimp only
  rw [if_neg (show ¬ (¬ stnLive s x = true ∨ x.stretch / 25 ≤ x.bound + max (x.bound / max 1 s.err.graceDiv) s.err.graceMin) by simp [hl]; omega)]
  refine rung1Start_living (x := y) h0 ?_ hd _ _
  show ctxOf s x.ctx = _
  rw [ctxOf, if_neg h0, hy]

theorem wdRest_within {n : Nat} {x : Stn} (hx : stnOf s n = some x) (hs : x.stretch / 25 ≤ x.bound + max (x.bound / max 1 s.err.graceDiv) s.err.graceMin) :
    wdRestS n s = s := by
  unfold wdRestS
  rw [hx]
  exact if_pos (.inr hs)

theorem wdHome_late {k l p : Nat} (hb : (hline s (lkey k l)).st = .bl) (ha : (hline s (lkey k l)).await = [p])
    (ht : s.err.homeUs * 25 ≤ refOf s (crustDie k) - (hline s (lkey k l)).blockedAt) :
    wdHomeS k l s = startRung 3 p rcHome [] (raise (crustDie k) 0x004A 0 0 k (l * 128) (maskOf [p]) s) := by
  unfold wdHomeS
  dsimp only
  rw [ha, if_neg]
  · rfl
  · simpa [hb, refUs] using ht

theorem wdHome_within {k l : Nat} (ht : refOf s (crustDie k) - (hline s (lkey k l)).blockedAt < s.err.homeUs * 25) : wdHomeS k l s = s :=
  if_pos (.inr (.inr ht))

/-- The command that a queue's watchdog watches, and when it is late. -/
theorem wdCommand_eq {q : Nat} {u : Queue} {c : TakenCmd} (hq : tget? s.cmd.queues q = some u) (hc : u.cmds.find? startedCmd = some c)
    (h0 : c.ctx = 0) : wdCommandS q s =
    if s.pin.trayStop ∨ ¬ wdLate s q u c ∨ c.op = 0x0A01 then s
    else
      match copyPart s c with
      | some p => startRung 3 p rcCommand [] (finishCmd q c.seq stTimeout 0 (raise (cplxDie u.cplx) 0x0049 c.ctx (ctxSlice s c.ctx) q c.seq c.op s))
      | none => startRung 4 0 rcCommand [] (finishCmd q c.seq stTimeout 0 (raise (cplxDie u.cplx) 0x0049 c.ctx (ctxSlice s c.ctx) q c.seq c.op s)) := by
  unfold wdCommandS
  rw [hq, Option.bind_some, hc]
  simp only [Option.map_some, h0, ne_eq, not_true, false_and, or_false, if_false] <;> rfl

/-- A command listed with a number replies once it is done. -/
theorem finishCmd_listed {q : Nat} {u : Queue} {c : TakenCmd} (hq : tget? s.cmd.queues q = some u) (hc : c ∈ u.cmds) (st d : Nat) :
    Replies (finishCmd q c.seq st d s) q c.seq st d := by
  cases hf : u.cmds.find? (fun x => decide (x.seq = c.seq)) with
  | none => exact absurd (List.find?_eq_none.1 hf c hc) (by simp)
  | some x =>
    refine ⟨{ u with cmds := u.cmds.map (fun x => if x.seq = c.seq then { x with phase := .done st d } else x) }, { x with phase := .done st d }, ?_, ?_, rfl⟩
    · simp [finishCmd, setCmd, setQueue, tget?_tupd, hq]
    · exact find?_map_seq u.cmds c.seq (fun x => { x with phase := .done st d }) (fun _ => rfl) x hf

theorem startRung4_queues (t cause : Nat) (l : List (Nat × Nat)) (e : s.err.rungs = []) : (startRung 4 t cause l s).cmd.queues = s.cmd.queues := by
  rw [startRung_first 4 t cause l e]
  rfl

/-- Settles O58. -/
theorem watchdogsAndErrorsStartTheirRungs : Obligations.WatchdogsAndErrorsStartTheirRungs := by
  unfold Obligations.WatchdogsAndErrorsStartTheirRungs
  refine ⟨?_, ?_, ?_, ?_, ?_, ?_, ?_⟩
  · intro s n x y hp hx hl h0 hy hd he
    refine ⟨fun hs => ⟨_, (ifUp_ready hp).trans (congrArg _ (wdRest_late hx hl h0 hy hd hs)), startRung_set _ _ _ he (by decide), ?_, startRung_sch .., startRung_mem .., startRung_ten ..⟩,
      fun hs => (ifUp_ready hp).trans (congrArg _ (wdRest_within hx hs))⟩
    rw [startRung_evq _ _ _ _ (by exact he)]
    simp [raise, raiseRec]
  · intro s k l p hp hb ha he
    exact ⟨fun ht => ⟨_, (ifUp_ready hp).trans (congrArg _ (wdHome_late hb ha ht)), startRung_set _ _ _ he (by decide), startRung_fences _ _ he, startRung_home .., startRung_mem ..⟩,
      fun ht => (ifUp_ready hp).trans (congrArg _ (wdHome_within ht))⟩
  · intro s q u c hp hq hc h0 hop
    refine ⟨fun ht => (ifUp_ready hp).trans (congrArg _ ((wdCommand_eq hq hc h0).trans (if_pos (.inl ht)))), fun ht he => ⟨fun hl hcp => ?_, fun hl => ?_⟩⟩
    · have hw := wdCommand_eq hq hc h0
      rw [if_neg (by simp [ht, hl, hop]), hcp] at hw
      dsimp only at hw
      refine ⟨_, (ifUp_ready hp).trans (congrArg _ hw), startRung_set _ _ _ he (by decide), ?_, startRung_mem ..⟩
      unfold Replies
      rw [startRung4_queues _ _ _ (by exact he)]
      exact finishCmd_listed (s := raise _ _ _ _ _ _ _ s) hq (List.mem_of_find?_eq_some hc) _ _
    · exact (ifUp_ready hp).trans (congrArg _ ((wdCommand_eq hq hc h0).trans (if_pos (.inr (.inl (by simp [hl]))))))
  · intro s x hp he hx
    refine ⟨startRung 4 0 rcControl [] s, (ifUp_ready hp).trans (congrArg _ (if_pos (decide_eq_true hx))), startRung_set _ _ _ he (by decide), startRung_evq _ _ _ _ he, startRung_mem .., startRung_ten ..⟩
  · intro s
    refine ⟨fun hp he => ⟨startRung 5 0 rcControl [] s, ?_, startRung_set _ _ _ he (by decide), startRung_mem ..⟩, ?_⟩
    · show Host.Outcome.next _ = _
      rw [hp]
    · rintro (hp | hp) <;> refine ⟨holdModule s, ?_, rfl, rfl, rfl⟩ <;> show Host.Outcome.next _ = _ <;> rw [hp]
  · intro s d o hp he hd ho
    have hg : fatalS d o s = startRung 4 0 rcFatal [] (raise pd0 0x0051 0 0 d o 4 { s with err := { s.err with fatal := satAdd 255 s.err.fatal 1 } }) := by
      refine if_neg ?_
      rintro (h | h)
      · exact h hd
      · omega
    refine ⟨_, (ifUp_ready hp).trans (congrArg _ hg), startRung_set _ _ _ he (by decide), ?_, ?_, startRung_mem ..⟩
    · rw [startRung_first _ _ _ _ (by exact he)]
      rfl
    · rw [startRung_evq _ _ _ _ (by exact he)]
      simp [raise, raiseRec]
  · intro s n k l x hp hx hn
    have hg : stationUeS n (some (k, l)) s = setStn n (fun x => { x with cache := x.cache.filter (fun e => !decide (e.1 = lkey k l)) })
        { s with err := { s.err with stationUe := satAdd 65535 s.err.stationUe 1 } } := if_neg (by unfold nStations; omega)
    exact ⟨_, _, (ifUp_ready hp).trans (congrArg _ hg), rfl, stnOf_setStn_same (by exact hx) _, rfl, rfl, rfl, fun m hm => stnOf_setStn_other _ hm _⟩

/-! ### Escalation (R597) -/

/-- The rung that is under way once its commands wait for the wider one. -/
def escalating (q : RungReq) (c w : Nat) (s : State) : State :=
  raise q.die 0x004D c 0 q.rung q.target w
    { s with err := { s.err with escalations := satAdd 255 s.err.escalations 1, rungs := [{ q with cmds := [] }] } }

theorem escalating_evq (q : RungReq) (c w : Nat) (s : State) :
    (escalating q c w s).cmd.evq = s.cmd.evq ++ [⟨eventBytes q.die 0x004D (refOf s q.die) c 0 q.rung q.target w, none⟩] := rfl

theorem escalating_ref (q : RungReq) (c w : Nat) (s : State) (d : Nat) : refOf (escalating q c w s) d = refOf s d := rfl

theorem escalated_soon {r g h : Nat} {q : RungReq} (he : s.err.rungs = [q]) (hr : q.rung = r) (hg : q.target = g) (ht : refOf s q.die - q.since < 1250000) :
    escalatedS r g h s = s := by
  unfold escalatedS rungReq?
  rw [he]
  simp only [hr, hg, and_self, decide_true, List.find?_cons_of_pos]
  cases nextRung s r g h with
  | none => rfl
  | some w => exact if_pos ht

theorem escalated_nobody {r g h : Nat} (hw : nextRung s r g h = none) : escalatedS r g h s = s := by
  unfold escalatedS
  rw [hw]
  cases rungReq? s r g <;> rfl

theorem escalated_late {r g h : Nat} {q : RungReq} {w : Nat × Nat} (he : s.err.rungs = [q]) (hr : q.rung = r) (hg : q.target = g) (hw : nextRung s r g h = some w)
    (ht : 1250000 ≤ refOf s q.die - q.since) :
    escalatedS r g h s = startRung w.1 w.2 rcEscalation q.cmds (escalating q (if r = 1 then g else 0) w.1 s) := by
  unfold escalatedS rungReq?
  rw [he, hw]
  subst hr hg
  simp only [and_self, decide_true, List.find?_cons_of_pos]
  rw [if_neg (show ¬ refOf s q.die - q.since < 50 * refMs from Nat.not_lt.2 ht)]
  simp [escalating]

/-- What a rung that no running one covers leaves as it starts (R602, R613). -/
theorem startRung_begun (r t cause : Nat) (l : List (Nat × Nat)) (h : s.err.rungs.any (fun x => rungCovers x.rung x.target r t) = false) :
    let u := startRung r t cause l s
    u.err.rungs = rungsLeft r t s.err.rungs ++ [⟨r, t, cause, rungsCmds r t s.err.rungs ++ l, refOf s (rungDie s r t), rungDie s r t⟩] ∧
    u.err.rung = r ∧ u.err.cause = cause ∧ u.err.target = t ∧ u.err.active = (s.err.active || decide (2 ≤ r)) ∧ u.err.escalations = s.err.escalations ∧
    (4 ≤ r → r ≤ 5 → u.cmd.ready = false ∧ u.pin.fault = true) ∧ (r = 5 → u.pin.trayCycle = true) ∧ (r = 3 → t ∈ u.seam.fenced) ∧
    u.cmd.evq = s.cmd.evq ++ [⟨eventBytes (rungDie s r t) 0x004B (refOf s (rungDie s r t)) (if r = 1 then t else 0) 0 r t cause, none⟩] := by
  unfold startRung
  rw [if_neg (by simp [h])]
  refine ⟨rfl, rfl, rfl, rfl, rfl, rfl, fun h4 h5 => ⟨congrArg CmdSt.ready (if_pos h4), ?_⟩, fun h => by subst h; rfl, fun h => by subst h; exact (mem_insKey _ _ _).2 (.inl rfl), ?_⟩
  · rcases (by omega : r = 4 ∨ r = 5) with rfl | rfl <;> rfl
  · dsimp only
    split <;> rfl

/-- The wider rung covers the narrower one that escalates to it, but for a rung 1 beside a rung 2 or 3, and is not covered. -/
theorem nextRung_covers {r g h : Nat} {w : Nat × Nat} (hw : nextRung s r g h = some w) :
    rungCovers r g w.1 w.2 = false ∧ rungCovers w.1 w.2 r g = decide (r ≠ 1 ∨ w.1 = 4) ∧ 2 ≤ w.1 ∧ w.1 ≤ 5 := by
  unfold nextRung at hw
  split at hw
  · next hr =>
    subst hr
    (repeat' split at hw) <;> cases hw <;> simp [rungCovers]
  · (repeat' split at hw) <;> cases hw <;> subst_vars <;> simp [rungCovers]

/-- What the escalation leaves: counted, both events raised, the wider rung begun with the commands that waited. -/
theorem escalated_spec {r g h : Nat} {q : RungReq} {w : Nat × Nat} {t : State} (hr : q.rung = r) (hg : q.target = g)
    (hw : nextRung s r g h = some w) (ht : t = startRung w.1 w.2 rcEscalation q.cmds (escalating q (if r = 1 then g else 0) w.1 s)) :
    t.err.escalations = min 255 (s.err.escalations + 1) ∧
    t.err.rungs = (if r ≠ 1 ∨ w.1 = 4 then [] else [{ q with cmds := [] }]) ++ [⟨w.1, w.2, 5, q.cmds, refOf s pd0, pd0⟩] ∧
    t.err.rung = w.1 ∧ t.err.cause = 5 ∧ t.err.target = w.2 ∧ t.err.active = true ∧ (4 ≤ w.1 → t.cmd.ready = false ∧ t.pin.fault = true) ∧
    (w.1 = 5 → t.pin.trayCycle = true) ∧
    t.cmd.evq = s.cmd.evq ++ [⟨eventBytes q.die 0x004D (refOf s q.die) (if r = 1 then g else 0) 0 r g w.1, none⟩,
      ⟨eventBytes pd0 0x004B (refOf s pd0) 0 0 w.1 w.2 5, none⟩] ∧ (w.1 = 3 → w.2 ∈ t.seam.fenced) ∧ t.mem = s.mem ∧ t.ten = s.ten ∧ t.sch = s.sch := by
  obtain ⟨hc, hc', h2, h5⟩ := nextRung_covers hw
  subst hr hg ht
  have hdie (u : State) : rungDie u w.1 w.2 = pd0 := if_neg (by omega)
  obtain ⟨k1, k2, k3, k4, k5, k6, k7, k8, k9, k10⟩ := startRung_begun (s := escalating q (if q.rung = 1 then q.target else 0) w.1 s) w.1 w.2 rcEscalation q.cmds (by simp [escalating, raise, raiseRec, hc])
  refine ⟨k6, ?_, k2, k3, k4, ?_, fun h => k7 h h5, k8, ?_, k9, startRung_mem .., startRung_ten .., startRung_sch ..⟩
  · rw [k1, hdie]
    by_cases h : q.rung ≠ 1 ∨ w.1 = 4
    · rw [if_pos h]
      rw [decide_eq_true h] at hc'
      simp only [escalating, raise, raiseRec, rungsLeft, rungsCmds, List.filter_cons, hc', Bool.not_true, if_true]
      rfl
    · rw [if_neg h]
      rw [decide_eq_false h] at hc'
      simp only [escalating, raise, raiseRec, rungsLeft, rungsCmds, List.filter_cons, hc', Bool.not_false, if_true]
      rfl
  · rw [k5, decide_eq_true h2, Bool.or_true]
  · rw [k10, hdie, if_neg (show w.1 ≠ 1 by omega), escalating_evq, List.append_assoc, escalating_ref]
    rfl

/-- Settles O60. -/
theorem escalationAfterFiftyMilliseconds : Obligations.EscalationAfterFiftyMilliseconds := by
  unfold Obligations.EscalationAfterFiftyMilliseconds
  refine ⟨fun s r g h q w hp he hr hg hw => ?_, fun s g h q hp he hr hg => ⟨fun h1 h2 => ?_, fun w hw => ?_⟩⟩
  · have hn : nextRung s r g h = some w ∧ r ≠ 1 := by
      rcases hw with ⟨rfl, rfl⟩ | ⟨rfl, rfl⟩ | ⟨rfl, rfl⟩ <;> exact ⟨rfl, by omega⟩
    refine ⟨fun ht => (ifUp_ready hp).trans (congrArg _ (escalated_soon he hr hg ht)), fun ht => ⟨_, (ifUp_ready hp).trans (congrArg _ (escalated_late he hr hg hn.1 ht)), ?_⟩⟩
    obtain ⟨k1, k2, k3, k4, k5, k6, k7, k8, k9, -, k10, k11, k12⟩ := escalated_spec hr hg hn.1 rfl
    have hdie : rungDie s w.1 w.2 = pd0 := if_neg (by have := (nextRung_covers hn.1).2.2.1; omega)
    rw [if_pos (show r ≠ 1 ∨ w.1 = 4 from .inl hn.2)] at k2
    refine ⟨k1, ⟨?_, k3, k4, k5, fun _ => k6, k7, k8⟩, k9.trans (by rw [if_neg hn.2]), k10, k11, k12⟩
    rw [hdie]
    exact k2
  · refine (ifUp_ready hp).trans (congrArg _ (escalated_nobody ?_))
    unfold nextRung
    rw [if_pos rfl, if_pos h1, if_neg]
    cases hx : stnOf s h with
    | none => simp
    | some x => simpa using h2 x hx
  · have hn : nextRung s 1 g h = some w := by
      unfold nextRung
      rw [if_pos rfl]
      rcases hw with ⟨h1, ⟨x, hx, hc⟩, rfl⟩ | ⟨h1, h2, rfl⟩ | ⟨h1, rfl⟩
      · rw [if_pos h1, if_pos (by simp [hx, hc])]
      · rw [if_neg (by omega), if_pos ⟨h1, h2⟩]
      · rw [if_neg (by omega), if_neg (by omega)]
    refine ⟨fun ht => (ifUp_ready hp).trans (congrArg _ (escalated_soon he hr hg ht)), fun ht => ⟨_, (ifUp_ready hp).trans (congrArg _ (escalated_late he hr hg hn ht)), ?_⟩⟩
    obtain ⟨k1, k2, -, -, -, -, -, -, k9, k10, k11, k12, k13⟩ := escalated_spec hr hg hn rfl
    exact ⟨k1, by simpa using k2, k9, k10, k11, k12, k13⟩

end Sys2Proof.Machine
end

section
/-! PROOF. ORDER_TIMEOUT on a state whose table of ordered sequences stores a reduction of another line (R323). -/

namespace Sys2Proof.Machine

/-- A reduction of line 1 of stack 0, the member 0 of a sequence. -/
def strayReq : Req := { stack := 0, line := 1, ctx := 0, handle := 0, who := .bar4 }
def strayOp : RedOp := { op := 0, ty := 0, mask := 0, data := [], ordered := true, seq := 0, count := 1 }

/-- A state whose line 0 is in the Crust cache, with an ordered sequence that stores a reduction of line 1 and is past its time. -/
def strayStored : State :=
  { pwr := { phase := .ready }, home := { lines := [(0, { cached := true })], ordered := [(0, { count := 1, next := 1, stored := [(strayReq, strayOp)], since := 0 })], cru := [(0, { orderMs := 0 })] } }

theorem orderTimeout_strayStored : (hline (orderTimeoutS 0 0 strayStored) (lkey 0 0)).batch = [] := by decide +kernel

/-- Refutes O53: over every state, ORDER_TIMEOUT need not accept the stored members into their line's batch. Where the sequence of a line
stores a reduction whose request names another line, that one takes it. -/
theorem not_homeWorkOnItsLines : ¬ Obligations.HomeWorkOnItsLines := by
  intro h
  obtain ⟨-, -, -, -, htime, -⟩ := h
  obtain ⟨-, hlate⟩ := htime strayStored 0 0 { count := 1, next := 1, stored := [(strayReq, strayOp)], since := 0 } [(strayReq, strayOp)] rfl rfl (by decide)
  obtain ⟨t, hrun, -, hbatch, -⟩ := hlate (by decide) (by decide) (by decide) (by decide) (by decide) (by decide +kernel) (by decide) (by decide)
  have ht : orderTimeoutS 0 0 strayStored = t := Host.Outcome.next.inj ((ifUp_ready rfl).symm.trans hrun)
  have hb := orderTimeout_strayStored
  rw [ht] at hb
  exact absurd (hbatch.symm.trans hb) (by decide)

end Sys2Proof.Machine
end

section
/-! PROOF. RED at a home whose line has its data but neither a way nor a place in the line for one (R311, R318). -/

namespace Sys2Proof.Machine

/-- An extent of one granule of stack 0, granule 1. -/
def oneGranule : Extent := { gen := 0, length := 65536, placement := 2, place := 0, attr := 0, sharedSet := 9, replicaWhere := 0, sealSet := 0, owner := 0, slice := 0, stks := [0], grans := [[1]], tagGrans := [], repStacks := [], repGrans := [], loaded := [], damaged := false, withdrawn := false, repaired := 0, damagedAt := 0 }

/-- A state whose line 512 of stack 0, the extent's first, has its fill's data and is in none of the lists that wait for a way. -/
def strayFill : State :=
  { pwr := { phase := .ready }, xt := { extents := [(5, oneGranule)], gens := [(5, 0)] }, home := { lines := [(512, { st := .fp, ready := true })] }, seam := { bundles := (List.range 45).map (fun l => (16 * l, { st := 1 })) } }

/-- A request of the aperture for the extent's first line. -/
def firstLineReq : Req := ⟨0, 512, 0, 5, .bar4⟩

/-- A reduction of no element. -/
def idleRed : RedOp := { op := 0, ty := 0, mask := 0, data := [], ordered := false, seq := 0, count := 0 }

theorem strayFill_hears : HomeHears strayFill firstLineReq := by decide +kernel

theorem red_strayFill : (hline (redS firstLineReq idleRed strayFill) (lkey 0 512)).held = [] := by decide +kernel

/-- Refutes O50: over every state, a home need not hold a reduction that its line does not take yet. Where the line's fill has its data and
awaits a way that no list keeps for it, the fill finishes as the request comes, and the line takes the reduction. -/
theorem not_requestsToTheHomes : ¬ Obligations.RequestsToTheHomes := by
  intro h
  obtain ⟨-, -, -, -, -, hred, -⟩ := h
  obtain ⟨hbusy, -⟩ := hred strayFill firstLineReq idleRed rfl rfl rfl strayFill_hears
  obtain ⟨t, hrun, -, -, hheld, -⟩ := hbusy (by decide +kernel)
  have ht : redS firstLineReq idleRed strayFill = t := Host.Outcome.next.inj ((ifRun_ready rfl rfl).symm.trans hrun)
  have hh := red_strayFill
  rw [ht] at hh
  exact absurd (hheld.symm.trans hh) (by simp)

end Sys2Proof.Machine
end

section
/-! PROOF. PARTITION_FENCED with a tenant context that the context table holds twice (R478, R479). -/

namespace Sys2Proof.Machine

/-- A state whose partition 0 is to be fenced, whose context 1 stands twice in the table of contexts, dead and living, and whose
context 1 has a semaphore waiter at stack 0. -/
def deadAndLiving : State :=
  { pwr := { phase := .ready }, seam := { fenced := [0] }, ten := { ctxs := [(1, { slice := 0, dead := true }), (1, { slice := 0 })] }, home := { waiters := [(0, [{ r := ⟨0, 0, 1, 0, .bar4⟩, off := 0, val := 0 }])] } }

theorem touching_deadAndLiving : 1 ∈ touching deadAndLiving 0 := by decide +kernel

theorem rungReq_fenced_deadAndLiving : rungReq? (fenceS 0 deadAndLiving) 1 1 = none := by decide +kernel

/-- Refutes O57: over every state, a context that touches the fenced partition need not be one that rung 1 finds. The list of living contexts
is taken from the entries of the table, and the rung looks its context up by number: a dead entry before a living one hides it. -/
theorem not_seamLinksClocksAndFences : ¬ Obligations.SeamLinksClocksAndFences := by
  intro h
  obtain ⟨-, -, -, -, -, hfence, -⟩ := h
  obtain ⟨-, htake⟩ := hfence deadAndLiving 0 rfl
  obtain ⟨t, hrun, -, -, -, -, hrung, -⟩ := htake (by decide) (by decide) rfl
  have ht : fenceS 0 deadAndLiving = t := Host.Outcome.next.inj ((ifUp_ready rfl).symm.trans hrun)
  have hr := hrung rfl 1 touching_deadAndLiving
  rw [← ht, rungReq_fenced_deadAndLiving] at hr
  exact absurd hr (by simp)

end Sys2Proof.Machine
end

section
/-! PROOF. A home line at rest, and invalidation rounds (R300-R303, R314, R331). -/

namespace Sys2Proof.Machine

/-! ### Line keys -/

theorem lkey_div {k l : Nat} (h : l < 2 ^ 29) : lkey k l / 2 ^ 29 = k := by unfold lkey; omega

theorem lkey_mod {k l : Nat} (h : l < 2 ^ 29) : lkey k l % 2 ^ 29 = l := by unfold lkey; omega

/-! ### What the state of a line depends on -/

theorem lineBytes_of {s t : State} (h : t.mem = s.mem) (k l : Nat) : lineBytes t k l = lineBytes s k l := by
  unfold lineBytes memByte
  rw [h]

theorem linePoisoned_of {s t : State} {k : Nat} (hm : t.mem = s.mem) (hx : t.xt.extents = s.xt.extents)
    (hu : usableGrans t k = usableGrans s k) (l : Nat) : linePoisoned t k l = linePoisoned s k l := by
  unfold linePoisoned withdrawn unloadedGran granOwner
  rw [hm, hx, hu]

theorem waitersOf_of {s t : State} (h : t.home.cru = s.home.cru) (k l : Nat) : waitersOf t k l = waitersOf s k l := by
  unfold waitersOf cruOf
  rw [h]

theorem waysOf_of {s t : State} (h : t.home.cru = s.home.cru) (k l : Nat) : waysOf t k l = waysOf s k l := by
  unfold waysOf cruOf
  rw [h]

/-! ### Answers of a home -/

theorem foldl_sendMsg (ms : List Msg) (s : State) :
    ms.foldl (fun s m => sendMsg m s) s = { s with home := { s.home with net := s.home.net ++ ms } } := by
  induction ms generalizing s with
  | nil => simp
  | cons m r ih =>
    rw [List.foldl_cons, ih]
    simp [sendMsg]

/-- A semaphore waiter of an address that a value reaches (R314). -/
def reachedBy (key off : Nat) (v : Int) (w : Waiter) : Bool :=
  decide (lkey w.r.stack w.r.line = key ∧ w.off = off ∧ signedOf 64 w.val ≤ v)

theorem wakeWaiters_eq (u key off : Nat) (v : Int) (s : State) :
    wakeWaiters u key off v s = { s with home := { s.home with
      waiters := tset [] s.home.waiters u ((tget [] s.home.waiters u).filter (fun w => !reachedBy key off v w)),
      net := s.home.net ++ ((tget [] s.home.waiters u).filter (reachedBy key off v)).map (fun w => .semOk w.r stOk) } } := by
  have hm (l : List Waiter) (s : State) : l.foldl (fun s w => sendMsg (.semOk w.r stOk) s) s =
      (l.map (fun w => Msg.semOk w.r stOk)).foldl (fun s m => sendMsg m s) s := by rw [List.foldl_map]
  unfold wakeWaiters
  dsimp only
  rw [hm, foldl_sendMsg]
  rfl

/-- From `s` to `t` homes have sent answers and taken semaphore waiters off their lists, and nothing else changed. -/
def AnswersOnly (s t : State) : Prop :=
  t = { s with home := { s.home with net := t.home.net, waiters := t.home.waiters } } ∧ s.home.net <+: t.home.net

theorem AnswersOnly.refl (s : State) : AnswersOnly s s := ⟨rfl, List.prefix_rfl⟩

theorem AnswersOnly.trans {s t u : State} (h : AnswersOnly s t) (k : AnswersOnly t u) : AnswersOnly s u := by
  obtain ⟨h1, h2⟩ := h
  obtain ⟨k1, k2⟩ := k
  exact ⟨by rw [k1, h1], h2.trans k2⟩

theorem AnswersOnly.line {s t : State} (h : AnswersOnly s t) (key : Nat) : hline t key = hline s key := by rw [h.1]; rfl

theorem AnswersOnly.bytes {s t : State} (h : AnswersOnly s t) (k l : Nat) : lineBytes t k l = lineBytes s k l := by rw [h.1]; rfl

theorem wakeWaiters_answers (u key off : Nat) (v : Int) (s : State) : AnswersOnly s (wakeWaiters u key off v s) := by
  rw [wakeWaiters_eq]
  exact ⟨rfl, List.prefix_append ..⟩

/-- The waiters of the 8 bytes at `8 * i` of a line are answered where the line's value reaches theirs. -/
def wakeAt (k l : Nat) (s : State) (i : Nat) : State :=
  wakeWaiters k (lkey k l) (8 * i) (signedOf 64 (field (lineBytes s k l) (8 * i) 8)) s

theorem foldl_wakeAt_answers (k l : Nat) (is : List Nat) (s : State) : AnswersOnly s (is.foldl (wakeAt k l) s) := by
  induction is generalizing s with
  | nil => exact .refl s
  | cons i r ih => exact (wakeWaiters_answers ..).trans (ih _)

theorem wakeLine_eq (k l : Nat) (s : State) : wakeLine k l s = (List.range 16).foldl (wakeAt k l) s := rfl

theorem wakeLine_answers (k l : Nat) (s : State) : AnswersOnly s (wakeLine k l s) := foldl_wakeAt_answers ..

theorem foldl_wakeAt_idle (k l : Nat) (is : List Nat) (s : State) (h : tget [] s.home.waiters k = []) :
    (is.foldl (wakeAt k l) s).home.net = s.home.net := by
  induction is generalizing s with
  | nil => rfl
  | cons i r ih => exact (ih _ (by simp [wakeAt, wakeWaiters_eq, h])).trans (by simp [wakeAt, wakeWaiters_eq, h])

theorem foldl_wakeAt_wakes (k l j : Nat) (w : Waiter) (is : List Nat) (hj : j ∈ is) (s : State) (hw : w ∈ tget [] s.home.waiters k)
    (hk : w.r.stack = k) (hl : w.r.line = l) (ho : w.off = 8 * j)
    (hv : signedOf 64 w.val ≤ signedOf 64 (field (lineBytes s k l) (8 * j) 8)) :
    .semOk w.r 0 ∈ (is.foldl (wakeAt k l) s).home.net := by
  induction is generalizing s with
  | nil => cases hj
  | cons i r ih =>
    by_cases e : j = i
    · refine (foldl_wakeAt_answers k l r _).2.subset ?_
      simp only [wakeAt, wakeWaiters_eq, List.mem_append, List.mem_map, List.mem_filter]
      exact .inr ⟨w, ⟨hw, by subst e; simp [reachedBy, hk, hl, ho, hv]⟩, rfl⟩
    · have hr : j ∈ r := by simpa [e] using hj
      refine ih hr _ ?_ ?_
      · simp only [wakeAt, wakeWaiters_eq, tget_tset, if_true, List.mem_filter]
        exact ⟨hw, by simp [reachedBy, ho]; omega⟩
      · rwa [(show AnswersOnly s (wakeAt k l s i) from wakeWaiters_answers ..).bytes]

/-! ### A line at rest -/

/-- Of the homes only the closed marks of reduction batches changed. -/
def ClosedOnly (s t : State) : Prop :=
  t = { s with home := { s.home with lines := t.home.lines } } ∧ ∀ key, ∃ c, hline t key = { hline s key with closed := c }

theorem ClosedOnly.refl (s : State) : ClosedOnly s s := ⟨rfl, fun _ => ⟨_, rfl⟩⟩

theorem ClosedOnly.trans {s t u : State} (h : ClosedOnly s t) (k : ClosedOnly t u) : ClosedOnly s u := by
  refine ⟨by rw [k.1, h.1], fun key => ?_⟩
  obtain ⟨c, hc⟩ := h.2 key
  obtain ⟨d, hd⟩ := k.2 key
  exact ⟨d, by rw [hd, hc]⟩

theorem setClosed_closed (k l : Nat) (b : Bool) (s : State) : ClosedOnly s (setClosed k l b s) := by
  have hf (ws : List Nat) (s : State) :
      ClosedOnly s (ws.foldl (fun s w => setLine (lkey k (w - 1)) (fun h => { h with closed := b }) s) s) := by
    induction ws generalizing s with
    | nil => exact .refl s
    | cons w r ih =>
      refine ClosedOnly.trans ⟨rfl, fun key => ?_⟩ (ih _)
      rw [hline_setLine]
      split
      · next e => exact ⟨b, by rw [e]⟩
      · exact ⟨_, rfl⟩
  exact hf _ s

theorem ClosedOnly.fillReady {s t : State} (h : ClosedOnly s t) (key : Nat) : fillReady t key = fillReady s key := by
  obtain ⟨c, hc⟩ := h.2 key
  simp [Machine.fillReady, hc]

theorem settled_iff (s : State) (k l : Nat) : settled s k l = true ↔ waitersOf s k l = [] ∧
    (∀ w ∈ waysOf s k l, w = 0 ∨ fillReady s (lkey k (w - 1)) = false) ∧ (hline s (lkey k l)).recallFor = [] ∧
    ∀ q, orderedOf s (lkey k l) = some q → q.stored.find? (fun e => decide (e.2.seq = q.next)) = none := by
  unfold settled
  cases orderedOf s (lkey k l) <;> simp [and_assoc]

theorem finishFill_idle {s : State} {k l : Nat} (h : fillReady s (lkey k l) = false) : finishFill k l s = s := by
  unfold finishFill
  have h : (hline s (lkey k l)).st ≠ .fp ∨ ¬ (hline s (lkey k l)).ready ∨ (hline s (lkey k l)).waitDir := by
    by_contra hc
    simp only [not_or, not_not, Bool.not_eq_true] at hc
    obtain ⟨hst, hr, hw⟩ := hc
    simp [fillReady, hst, hr, hw] at h
  rw [if_pos h]

theorem beginRecall_idle {s : State} {k l : Nat} (h : (hline s (lkey k l)).recallFor = []) : beginRecall k l s = s := by
  simp [beginRecall, h]

theorem acceptStored_idle {s : State} {key : Nat}
    (h : ∀ q, orderedOf s key = some q → q.stored.find? (fun e => decide (e.2.seq = q.next)) = none) (n : Nat) :
    acceptStored key n s = s := by
  cases n with
  | zero => rfl
  | succ n =>
    unfold acceptStored
    cases e : orderedOf s key with
    | none => rfl
    | some q => simp [h q e]

theorem serveHeld_none {s : State} {key : Nat} (h : (hline s key).held = []) (n : Nat) : serveHeld key n s = s := by
  cases n with
  | zero => rfl
  | succ n => simp [serveHeld, h]

/-- What a line at rest does by itself is to serve the requests held. -/
theorem serveLine_settled {s : State} {k l : Nat} (hl : l < 2 ^ 29) (h : settled s k l = true) (hf : fillReady s (lkey k l) = false) :
    serveLine (lkey k l) s = serveHeld (lkey k l) (2 * (hline s (lkey k l)).held.length + 2) s := by
  obtain ⟨-, -, hr, ho⟩ := (settled_iff s k l).1 h
  unfold serveLine
  dsimp only
  rw [lkey_div hl, lkey_mod hl, finishFill_idle hf, beginRecall_idle hr, acceptStored_idle ho]

/-- A set where no fill waits or has its data: its held lines accept reductions again, and nothing else happens. -/
theorem serveWays_settled {s : State} {k l : Nat} (hw : waitersOf s k l = [])
    (hf : ∀ w ∈ waysOf s k l, w = 0 ∨ fillReady s (lkey k (w - 1)) = false) : serveWays k l s = setClosed k l false s := by
  have hc := setClosed_closed k l false s
  have hg : giveWays k l s = setClosed k l false s := by simp [giveWays, hw, nextWays]
  have hws : waysOf (setClosed k l false s) k l = waysOf s k l := by rw [hc.1]; rfl
  have hfold (ws : List Nat) (h : ∀ w ∈ ws, w = 0 ∨ fillReady s (lkey k (w - 1)) = false) :
      ws.foldl (fun s w => if w ≠ 0 ∧ fillReady s (lkey k (w - 1)) then serveLine (lkey k (w - 1)) s else s) (setClosed k l false s) =
        setClosed k l false s := by
    induction ws with
    | nil => rfl
    | cons w r ih =>
      have hw := h w (by simp)
      rw [List.foldl_cons, if_neg (by rw [hc.fillReady]; rcases hw with e | e <;> simp [e])]
      exact ih fun w hw => h w (by simp [hw])
  unfold serveWays
  dsimp only
  rw [hg, hws]
  exact hfold _ hf

theorem goLine_settled {s : State} {k l : Nat} (hl : l < 2 ^ 29) (h : settled s k l = true) (hf : fillReady s (lkey k l) = false)
    (hh : (hline s (lkey k l)).held = []) : goLine (lkey k l) s = setClosed k l false s := by
  obtain ⟨hw, hws, -, -⟩ := (settled_iff s k l).1 h
  unfold goLine
  rw [serveLine_settled hl h hf, serveHeld_none hh, lkey_div hl, lkey_mod hl, serveWays_settled hw hws]

/-! ### INV and INV_DROP -/

theorem mem_groupStns (p m n : Nat) : n ∈ groupStns p m ↔ n / 168 = p ∧ bitOf m (n % 168 / 8) = true := by
  simp only [groupStns, List.mem_filterMap, List.mem_range]
  constructor
  · rintro ⟨i, hi, h⟩
    split at h
    · next hb =>
      obtain rfl : 168 * p + i = n := by simpa using h
      exact ⟨by omega, by rw [show (168 * p + i) % 168 = i by omega]; exact hb⟩
    · cases h
  · rintro ⟨rfl, hb⟩
    exact ⟨n % 168, by omega, by rw [if_pos hb]; congr 1; omega⟩

theorem mem_filter_ne {α : Type} [DecidableEq α] (l : List α) (a e : α) : e ∈ l.filter (fun x => !decide (x = a)) ↔ e ∈ l ∧ e ≠ a := by
  simp

theorem invS_fans {s : State} {k l p : Nat} (h : (lkey k l, p) ∈ s.home.invs) : invS k l p s = { s with home := { s.home with
    invs := s.home.invs.filter (fun e => !decide (e = (lkey k l, p))), fanned := s.home.fanned ++ [(lkey k l, p)],
    drops := s.home.drops ++ (groupStns p (tget 0 (hline s (lkey k l)).sharers p)).map (fun n => (lkey k l, n)) } } := by
  unfold invS
  exact if_neg (by simpa using h)

theorem invDropS_drops {s : State} {n k l : Nat} (h : (lkey k l, n) ∈ s.home.drops) : invDropS n k l s =
    setStn n (dropLine (lkey k l) s) { s with home := { s.home with drops := s.home.drops.filter (fun e => !decide (e = (lkey k l, n))) } } := by
  unfold invDropS
  exact if_neg (by simpa using h)

/-! ### PART_ACK -/

theorem partAckS_waits {s : State} {k l p : Nat}
    (h : (lkey k l, p) ∉ s.home.fanned ∨ ∃ n, (lkey k l, n) ∈ s.home.drops ∧ n / 168 = p) : partAckS k l p s = s := by
  unfold partAckS
  refine if_neg ?_
  rintro ⟨h1, h2⟩
  rcases h with h | ⟨n, hn, hp⟩
  · exact h h1
  · exact h2 (List.any_eq_true.2 ⟨_, hn, by simp [stnPart, hp]⟩)

theorem partAckS_acks {s : State} {k l p : Nat} (h1 : (lkey k l, p) ∈ s.home.fanned)
    (h2 : ∀ n, (lkey k l, n) ∈ s.home.drops → n / 168 ≠ p) : partAckS k l p s = partAck k l p s := by
  unfold partAckS
  refine if_pos ⟨h1, ?_⟩
  rw [List.any_eq_true]
  rintro ⟨⟨key, n⟩, hn, he⟩
  obtain ⟨rfl, hp⟩ := of_decide_eq_true he
  exact h2 n hn hp

/-- A round without the partition `p`: its messages of the round are gone, and the line awaits it no longer. -/
def ackTaken (key p : Nat) (s : State) : State :=
  setLine key (fun h => { h with await := h.await.filter (fun q => !decide (q = p)) }) { s with home := { s.home with invs := s.home.invs.filter (fun e => !decide (e = (key, p))), fanned := s.home.fanned.filter (fun e => !decide (e = (key, p))), drops := s.home.drops.filter (fun e => !decide (e.1 = key ∧ e.2 / 168 = p)) } }

theorem partAck_eq (k l p : Nat) (s : State) : partAck k l p s =
    if (hline (ackTaken (lkey k l) p s) (lkey k l)).st = .bl ∧ (hline (ackTaken (lkey k l) p s) (lkey k l)).await.isEmpty then endRound k l (ackTaken (lkey k l) p s)
    else ackTaken (lkey k l) p s := rfl

theorem hline_ackTaken (key p : Nat) (s : State) :
    hline (ackTaken key p s) key = { hline s key with await := (hline s key).await.filter (fun q => !decide (q = p)) } := by
  unfold ackTaken
  rw [hline_setLine, if_pos rfl]
  rfl

/-- A line after its round: no sharers, and nothing owed. -/
def roundOver (k l : Nat) (s : State) : State :=
  setLine (lkey k l) (fun h => { h with st := .ns, await := [], owed := [], recallFor := [] }) (dropDir k l s)

/-- The acknowledgements that a round kept back go out, and the waiters that its adds reach are answered. -/
def roundAnswered (k l : Nat) (s : State) : State :=
  let u := (hline s (lkey k l)).owed.foldl (fun s m => sendMsg m s) (roundOver k l s)
  if linePoisoned u k l then u else wakeLine k l u

theorem endRound_eq (k l : Nat) (s : State) : endRound k l s = (hline s (lkey k l)).recallFor.foldl
    (fun s v => goLine (lkey k v) (setLine (lkey k v) (fun h => { h with waitDir := false }) s)) (goLine (lkey k l) (roundAnswered k l s)) := by
  unfold endRound roundAnswered roundOver
  dsimp only

/-- The state of a round's end once its acknowledgements are out. -/
theorem roundOver_acks (k l : Nat) (s : State) : (hline s (lkey k l)).owed.foldl (fun s m => sendMsg m s) (roundOver k l s) =
    { roundOver k l s with home := { (roundOver k l s).home with net := s.home.net ++ (hline s (lkey k l)).owed } } :=
  foldl_sendMsg ..

theorem roundAnswered_answers (k l : Nat) (s : State) : AnswersOnly (roundOver k l s) (roundAnswered k l s) := by
  have h : AnswersOnly (roundOver k l s) ((hline s (lkey k l)).owed.foldl (fun s m => sendMsg m s) (roundOver k l s)) := by
    rw [foldl_sendMsg]
    exact ⟨rfl, List.prefix_append ..⟩
  unfold roundAnswered
  dsimp only
  split
  · exact h
  · exact h.trans (wakeLine_answers ..)

theorem hline_roundOver (k l key : Nat) (s : State) : hline (roundOver k l s) key =
    if lkey k l = key then { hline s key with sharers := [], st := .ns, await := [], owed := [], recallFor := [] } else hline s key := by
  have hd (j : Nat) : hline (dropDir k l s) j = if lkey k l = j then { hline s (lkey k l) with sharers := [] } else hline s j :=
    hline_setLine (lkey k l) j (fun h => { h with sharers := [] }) s
  unfold roundOver
  rw [hline_setLine]
  split
  · next e => rw [← e, hd, if_pos rfl]
  · next e => rw [hd, if_neg e]

theorem cruOf_roundOver (k l j : Nat) (s : State) :
    cruOf (roundOver k l s) j = if k = j then { cruOf s k with dirOrder := (cruOf s k).dirOrder.filter (fun x => !decide (x = l)) } else cruOf s j :=
  cruOf_setCru k j (fun c => { c with dirOrder := c.dirOrder.filter (fun x => !decide (x = l)) }) s

theorem fillReady_roundOver {s : State} {k l key : Nat} (h : fillReady s key = false ∨ lkey k l = key) :
    fillReady (roundOver k l s) key = false := by
  unfold fillReady
  dsimp only
  rw [hline_roundOver]
  split
  · rfl
  · next e => exact h.resolve_right e

theorem settled_roundOver {s : State} {k l : Nat} (h : settled s k l = true) : settled (roundOver k l s) k l = true := by
  obtain ⟨hw, hf, -, ho⟩ := (settled_iff s k l).1 h
  refine (settled_iff _ k l).2 ⟨?_, fun w hm => ?_, ?_, ho⟩
  · simpa [waitersOf, cruOf_roundOver] using hw
  · have hm : w ∈ waysOf s k l := by simpa [waysOf, cruOf_roundOver] using hm
    exact (hf w hm).imp_right fun e => fillReady_roundOver (.inl e)
  · rw [hline_roundOver, if_pos rfl]

theorem AnswersOnly.settled {s t : State} (h : AnswersOnly s t) (k l : Nat) : settled t k l = settled s k l := by rw [h.1]; rfl

theorem AnswersOnly.fillReady {s t : State} (h : AnswersOnly s t) (key : Nat) : fillReady t key = fillReady s key := by rw [h.1]; rfl

theorem goLine_answered {s : State} {k l : Nat} (hl : l < 2 ^ 29) (h : settled s k l = true) (hh : (hline s (lkey k l)).held = []) :
    goLine (lkey k l) (roundAnswered k l s) = setClosed k l false (roundAnswered k l s) := by
  have ha := roundAnswered_answers k l s
  have h1 : Machine.settled (roundAnswered k l s) k l = true := (ha.settled k l).trans (settled_roundOver h)
  have h2 : Machine.fillReady (roundAnswered k l s) (lkey k l) = false := (ha.fillReady _).trans (fillReady_roundOver (.inr rfl))
  have h3 : (hline (roundAnswered k l s) (lkey k l)).held = [] := by
    rw [ha.line, hline_roundOver, if_pos rfl]
    exact hh
  exact goLine_settled hl h1 h2 h3

theorem endRound_settled {s : State} {k l : Nat} (hl : l < 2 ^ 29) (h : settled s k l = true) (hh : (hline s (lkey k l)).held = []) :
    endRound k l s = setClosed k l false (roundAnswered k l s) := by
  obtain ⟨-, -, hr, -⟩ := (settled_iff s k l).1 h
  rw [endRound_eq, hr, List.foldl_nil, goLine_answered hl h hh]

theorem fillReady_ackTaken (key p j : Nat) (s : State) : fillReady (ackTaken key p s) j = fillReady s j := by
  have h : hline (ackTaken key p s) j = if key = j then { hline s key with await := (hline s key).await.filter (fun q => !decide (q = p)) } else hline s j :=
    hline_setLine key j (fun h => { h with await := h.await.filter (fun q => !decide (q = p)) }) _
  unfold fillReady
  rw [h]
  split
  · next e => rw [e]
  · rfl

theorem ackTaken_cru (key p : Nat) (s : State) : (ackTaken key p s).home.cru = s.home.cru := rfl

theorem ackTaken_mem (key p : Nat) (s : State) : (ackTaken key p s).mem = s.mem := rfl

theorem ackTaken_net (key p : Nat) (s : State) : (ackTaken key p s).home.net = s.home.net := rfl

theorem ackTaken_waiters (key p : Nat) (s : State) : (ackTaken key p s).home.waiters = s.home.waiters := rfl

theorem ackTaken_fanned (key p : Nat) (s : State) :
    (ackTaken key p s).home.fanned = s.home.fanned.filter (fun e => !decide (e = (key, p))) := rfl

theorem orderedOf_ackTaken (key p j : Nat) (s : State) : orderedOf (ackTaken key p s) j = orderedOf s j := rfl

theorem linePoisoned_ackTaken (key p k l : Nat) (s : State) : linePoisoned (ackTaken key p s) k l = linePoisoned s k l :=
  linePoisoned_of rfl rfl rfl l

theorem settled_ackTaken {s : State} {k l p : Nat} (h : settled s k l = true) : settled (ackTaken (lkey k l) p s) k l = true := by
  obtain ⟨hw, hf, hr, ho⟩ := (settled_iff s k l).1 h
  refine (settled_iff (ackTaken (lkey k l) p s) k l).2 ⟨?_, fun w hm => ?_, ?_, ?_⟩
  · rw [waitersOf_of (ackTaken_cru ..)]
    exact hw
  · rw [waysOf_of (ackTaken_cru ..)] at hm
    rw [fillReady_ackTaken]
    exact hf w hm
  · rw [hline_ackTaken]
    exact hr
  · rw [orderedOf_ackTaken]
    exact ho

theorem roundOver_waiters (k l : Nat) (s : State) : (roundOver k l s).home.waiters = s.home.waiters := rfl

theorem roundAnswered_net (k l : Nat) (s : State) (hw : tget [] s.home.waiters k = []) :
    (roundAnswered k l s).home.net = s.home.net ++ (hline s (lkey k l)).owed := by
  unfold roundAnswered
  rw [roundOver_acks]
  dsimp only
  split
  · rfl
  · rw [wakeLine_eq, foldl_wakeAt_idle]
    rw [← roundOver_waiters k l s] at hw
    exact hw

theorem roundAnswered_owed (k l : Nat) (s : State) (m : Msg) (hm : m ∈ (hline s (lkey k l)).owed) : m ∈ (roundAnswered k l s).home.net := by
  have h : m ∈ s.home.net ++ (hline s (lkey k l)).owed := List.mem_append_right _ hm
  unfold roundAnswered
  rw [roundOver_acks]
  dsimp only
  split
  · exact h
  · exact (wakeLine_answers k l _).2.subset h

theorem roundOver_mem (k l : Nat) (s : State) : (roundOver k l s).mem = s.mem := rfl

theorem linePoisoned_roundOver (k l : Nat) (s : State) : linePoisoned (roundOver k l s) k l = linePoisoned s k l := by
  refine linePoisoned_of (roundOver_mem ..) rfl ?_ l
  unfold usableGrans
  rw [cruOf_roundOver, if_pos rfl]

theorem roundAnswered_wakes (k l j : Nat) (s : State) (w : Waiter) (hp : linePoisoned s k l = false) (hj : j < 16)
    (hw : w ∈ tget [] s.home.waiters k) (hk : w.r.stack = k) (hl : w.r.line = l) (ho : w.off = 8 * j)
    (hv : signedOf 64 w.val ≤ signedOf 64 (field (lineBytes s k l) (8 * j) 8)) : .semOk w.r 0 ∈ (roundAnswered k l s).home.net := by
  let u := (hline s (lkey k l)).owed.foldl (fun s m => sendMsg m s) (roundOver k l s)
  have hu : u = { roundOver k l s with home := { (roundOver k l s).home with net := (roundOver k l s).home.net ++ (hline s (lkey k l)).owed } } :=
    foldl_sendMsg ..
  have hpu : linePoisoned u k l = false := by
    rw [hu]
    exact ((linePoisoned_of rfl rfl rfl l).trans (linePoisoned_roundOver k l s)).trans hp
  have hbu : lineBytes u k l = lineBytes s k l := by
    rw [hu]
    exact lineBytes_of (roundOver_mem k l s) k l
  have hwu : w ∈ tget [] u.home.waiters k := by
    rw [hu]
    exact hw
  have he : roundAnswered k l s = wakeLine k l u := if_neg (by rw [hpu]; simp)
  rw [he, wakeLine_eq]
  exact foldl_wakeAt_wakes k l j w _ (List.mem_range.2 hj) u hwu hk hl ho (by rw [hbu]; exact hv)

theorem roundAnswered_fanned (k l : Nat) (s : State) : (roundAnswered k l s).home.fanned = s.home.fanned := by
  rw [(roundAnswered_answers k l s).1]
  rfl

theorem roundAnswered_mem (k l : Nat) (s : State) : (roundAnswered k l s).mem = s.mem := by
  rw [(roundAnswered_answers k l s).1]
  rfl

theorem ClosedOnly.net {s t : State} (h : ClosedOnly s t) : t.home.net = s.home.net := by rw [h.1]

theorem ClosedOnly.fanned {s t : State} (h : ClosedOnly s t) : t.home.fanned = s.home.fanned := by rw [h.1]

theorem ClosedOnly.mem {s t : State} (h : ClosedOnly s t) : t.mem = s.mem := by rw [h.1]

theorem partAck_goesOn {s : State} {k l p q : Nat} (hq : q ∈ (hline s (lkey k l)).await) (hqp : q ≠ p) :
    partAck k l p s = ackTaken (lkey k l) p s := by
  have hm : q ∈ (hline s (lkey k l)).await.filter (fun q => !decide (q = p)) := by simp [hq, hqp]
  rw [partAck_eq, hline_ackTaken]
  exact if_neg fun h => List.ne_nil_of_mem hm (List.isEmpty_iff.1 h.2)

section
variable {s : State} {k l p : Nat} (hb : (hline s (lkey k l)).st = .bl) (hh : (hline s (lkey k l)).held = []) (hs : settled s k l = true)
  (hl : l < 2 ^ 29) (hq : ∀ q ∈ (hline s (lkey k l)).await, q = p)
include hb hh hs hl hq

theorem partAck_ends : partAck k l p s = setClosed k l false (roundAnswered k l (ackTaken (lkey k l) p s)) := by
  have ha : (hline s (lkey k l)).await.filter (fun q => !decide (q = p)) = [] := by simpa using hq
  have hw : (hline (ackTaken (lkey k l) p s) (lkey k l)).held = [] := by
    rw [hline_ackTaken]
    exact hh
  rw [partAck_eq, if_pos, endRound_settled hl (settled_ackTaken hs) hw]
  rw [hline_ackTaken]
  exact ⟨hb, List.isEmpty_iff.2 ha⟩

theorem partAck_ends_line : ∃ c, hline (partAck k l p s) (lkey k l) =
    { hline s (lkey k l) with st := .ns, sharers := [], await := [], owed := [], recallFor := [], closed := c } := by
  obtain ⟨c, hc⟩ := (setClosed_closed k l false (roundAnswered k l (ackTaken (lkey k l) p s))).2 (lkey k l)
  refine ⟨c, ?_⟩
  rw [partAck_ends hb hh hs hl hq, hc, (roundAnswered_answers ..).line, hline_roundOver, if_pos rfl, hline_ackTaken]

theorem partAck_ends_net : (partAck k l p s).home.net = (roundAnswered k l (ackTaken (lkey k l) p s)).home.net := by
  rw [partAck_ends hb hh hs hl hq, (setClosed_closed ..).net]

theorem partAck_ends_fanned : (lkey k l, p) ∉ (partAck k l p s).home.fanned := by
  rw [partAck_ends hb hh hs hl hq, (setClosed_closed ..).fanned, roundAnswered_fanned, ackTaken_fanned]
  simp

theorem partAck_ends_mem : (partAck k l p s).mem = s.mem := by
  rw [partAck_ends hb hh hs hl hq, (setClosed_closed ..).mem, roundAnswered_mem, ackTaken_mem]

theorem partAck_ends_wakes (hp : linePoisoned s k l = false) (w : Waiter) (hw : w ∈ tget [] s.home.waiters k) (j : Nat) (hj : j < 16)
    (hk : w.r.stack = k) (hlw : w.r.line = l) (ho : w.off = 8 * j)
    (hv : signedOf 64 w.val ≤ signedOf 64 (field (lineBytes s k l) (8 * j) 8)) : .semOk w.r 0 ∈ (partAck k l p s).home.net := by
  rw [partAck_ends_net hb hh hs hl hq]
  rw [← lineBytes_of (ackTaken_mem (lkey k l) p s)] at hv
  rw [← linePoisoned_ackTaken (lkey k l) p] at hp
  exact roundAnswered_wakes k l j _ w hp hj hw hk hlw ho hv

end

theorem invS_frame {s : State} {k l p : Nat} (h : (lkey k l, p) ∈ s.home.invs) : { invS k l p s with home := s.home } = s := by
  rw [invS_fans h]

theorem invS_invs {s : State} {k l p : Nat} (h : (lkey k l, p) ∈ s.home.invs) (e : Nat × Nat) :
    e ∈ (invS k l p s).home.invs ↔ e ∈ s.home.invs ∧ e ≠ (lkey k l, p) := by
  rw [invS_fans h]
  exact mem_filter_ne ..

theorem invS_drops {s : State} {k l p : Nat} (h : (lkey k l, p) ∈ s.home.invs) (key n : Nat) :
    (key, n) ∈ (invS k l p s).home.drops ↔ (key, n) ∈ s.home.drops ∨
      (key = lkey k l ∧ n / 168 = p ∧ bitOf (tget 0 (hline s (lkey k l)).sharers p) (n % 168 / 8) = true) := by
  rw [invS_fans h]
  simp only [List.mem_append, List.mem_map, mem_groupStns, Prod.mk.injEq]
  constructor
  · rintro (h | ⟨n', ⟨h1, h2⟩, rfl, rfl⟩)
    · exact .inl h
    · exact .inr ⟨rfl, h1, h2⟩
  · rintro (h | ⟨rfl, h1, h2⟩)
    · exact .inl h
    · exact .inr ⟨n, ⟨h1, h2⟩, rfl, rfl⟩

theorem invS_rest {s : State} {k l p : Nat} (h : (lkey k l, p) ∈ s.home.invs) :
    (lkey k l, p) ∈ (invS k l p s).home.fanned ∧ (invS k l p s).home.lines = s.home.lines ∧ (invS k l p s).home.net = s.home.net := by
  rw [invS_fans h]
  exact ⟨by simp, rfl, rfl⟩

theorem dropLine_miss {s : State} {x : Stn} {key m a : Nat} {ws : List Nat} {i : Bool} {p : Place}
    (ha : tget? x.rg.miss m = some (a, ws, i)) (hp : xlate s x a = some p) :
    tget? (dropLine key s x).rg.miss m = some (a, ws, i || decide (lkey p.stack p.line = key)) := by
  have hat : ((xlate s x a).map (fun p => decide (lkey p.stack p.line = key))).getD false = decide (lkey p.stack p.line = key) := by
    rw [hp, Option.map_some, Option.getD_some]
  unfold dropLine
  dsimp only
  rw [tget?_tmap, ha, Option.map_some]
  cases hd : decide (lkey p.stack p.line = key)
  · rw [if_neg (by rw [hat, hd]; simp), Bool.or_false]
  · rw [if_pos (by rw [hat, hd]), Bool.or_true]

theorem invDropS_stn {s : State} {n k l : Nat} {x : Stn} (h : (lkey k l, n) ∈ s.home.drops) (hx : stnOf s n = some x) :
    stnOf (invDropS n k l s) n = some (dropLine (lkey k l) s x) := by
  have he (h : Home) : stnOf { s with home := h } n = some x := hx
  rw [invDropS_drops h, stnOf_setStn, if_pos rfl, he, Option.map_some]

theorem invDropS_drops_mem {s : State} {n k l : Nat} (h : (lkey k l, n) ∈ s.home.drops) (e : Nat × Nat) :
    e ∈ (invDropS n k l s).home.drops ↔ e ∈ s.home.drops ∧ e ≠ (lkey k l, n) := by
  rw [invDropS_drops h]
  exact mem_filter_ne ..

theorem invDropS_rest {s : State} {n k l : Nat} (h : (lkey k l, n) ∈ s.home.drops) :
    (invDropS n k l s).mem = s.mem ∧ { (invDropS n k l s).home with drops := s.home.drops } = s.home := by
  rw [invDropS_drops h]
  exact ⟨rfl, rfl⟩

/-- Settles O51: a fan-out, a station's drop, and the acknowledgements of a round at a line that has nothing else to do. -/
theorem invalidationRounds : Obligations.InvalidationRounds := by
  refine ⟨fun s k l p hup => ⟨fun hn => ?_, fun hm => ?_⟩, fun s n k l hup => ⟨fun hn => ?_, fun x hm hx => ?_⟩,
    fun s k l p hup => ⟨fun hn => ?_, fun hm hd hb hh hs hl => ⟨fun ⟨q, hq, hqp⟩ => ?_, fun hq => ?_⟩⟩⟩
  · exact (ifUp_ready hup).trans (congrArg _ (if_pos hn))
  · obtain ⟨hfan, hlines, hnet⟩ := invS_rest hm
    exact ⟨_, ifUp_ready hup, invS_frame hm, fun h => ((invS_invs hm _).1 h).2 rfl, hfan,
      fun e he => (invS_invs hm e).trans (and_iff_left he), hlines, hnet, invS_drops hm⟩
  · exact (ifUp_ready hup).trans (congrArg _ (if_pos hn))
  · obtain ⟨hmem, hhome⟩ := invDropS_rest hm
    exact ⟨_, dropLine (lkey k l) s x, ifUp_ready hup, invDropS_stn hm hx, rfl, rfl, rfl, rfl, hmem, invDropS_drops_mem hm, hhome,
      fun m a ws i p => dropLine_miss⟩
  · exact (ifUp_ready hup).trans (congrArg _ (partAckS_waits hn))
  · refine ⟨_, ifUp_ready hup, ?_⟩
    rw [partAckS_acks hm hd, partAck_goesOn hq hqp, hline_ackTaken]
    exact ⟨hb, rfl, ackTaken_net .., ackTaken_mem ..⟩
  · refine ⟨_, ifUp_ready hup, ?_⟩
    rw [partAckS_acks hm hd]
    obtain ⟨c, hc⟩ := partAck_ends_line hb hh hs hl hq
    have howed : (hline (ackTaken (lkey k l) p s) (lkey k l)).owed = (hline s (lkey k l)).owed := by rw [hline_ackTaken]
    refine ⟨by rw [hc], by rw [hc], by rw [hc], fun m hm => ?_, fun hw => ?_, partAck_ends_wakes hb hh hs hl hq,
      partAck_ends_fanned hb hh hs hl hq, partAck_ends_mem hb hh hs hl hq⟩
    · rw [partAck_ends_net hb hh hs hl hq]
      exact roundAnswered_owed k l _ m (by rw [howed]; exact hm)
    · rw [partAck_ends_net hb hh hs hl hq, roundAnswered_net k l (ackTaken (lkey k l) p s) hw, howed, ackTaken_net]

end Sys2Proof.Machine
end

section
/-! PROOF. Streams: flits and credits, and a station with one tile descriptor in progress (R46, R51, R111, R272, R273). -/

namespace Sys2Proof.Machine

/-! ### A placed part of a launch after a change -/

theorem instOf_setInst_same {s : State} {k i : Nat} {x : Inst} (h : instOf s k i = some x) (f : Inst → Inst) :
    instOf (setInst k i f s) k i = some (f x) := by
  unfold instOf at *
  obtain ⟨l, hl, hx⟩ := Option.bind_eq_some_iff.1 h
  have ht : tget? (setInst k i f s).sch.launches k = some { l with insts := l.insts.zipIdx.map (fun e => if e.2 = i then f e.1 else e.1) } := by
    unfold setInst setLaunch
    dsimp only
    rw [tget?_tupd, if_pos rfl, hl, Option.map_some]
  rw [ht, Option.bind_some, List.getElem?_map, List.getElem?_zipIdx, hx]
  simp

theorem streamsOf_setInst (k i : Nat) (f : Inst → Inst) (s : State) (j : Nat) : streamsOf (setInst k i f s) j = streamsOf s j := by
  unfold streamsOf setInst setLaunch
  dsimp only
  rw [tget?_tupd]
  split
  · next e =>
    subst e
    cases tget? s.sch.launches k <;> rfl
  · rfl

theorem stnOf_setInst (k i : Nat) (f : Inst → Inst) (s : State) (n : Nat) : stnOf (setInst k i f s) n = stnOf s n := rfl

theorem setInst_frame (k i : Nat) (f : Inst → Inst) (s : State) :
    setInst k i f s = { s with sch := { s.sch with launches := (setInst k i f s).sch.launches } } := rfl

/-! ### FLIT_ARRIVAL and CREDIT_RETURN -/

/-- What an arriving flit makes of its part of the launch: it joins the sink's buffer. -/
def flitTaken (p st : Nat) (f : Flit) (x : Inst) : Inst :=
  { x with flight := x.flight.eraseIdx p, bufs := tput x.bufs st (tget [] x.bufs st ++ [f]) }

/-- What a returning credit makes of its part of the launch: the source holds it. -/
def creditTaken (st : Nat) (x : Inst) : Inst :=
  { x with returning := tset 0 x.returning st (tget 0 x.returning st - 1), credits := tset 32 x.credits st (tget 32 x.credits st + 1) }

/-- The station of a cell, where the part of the launch has one, goes on. -/
def pumpCell (s : State) (k i c : Nat) (r : State) : State := (stnAtCell s k i c).elim r (fun n => pump n r)

section
variable {s : State} {k i st m p h : Nat} {x : Inst} {e : StreamEntry} {f : Flit}

theorem flitArrival_eq (hx : instOf s k i = some x) (he : (streamsOf s k)[st]? = some e) (hp : flightAt x.flight st m = some p)
    (hf : x.flight[p]? = some (st, h, f)) : flitArrivalS k i st m s =
      if (x.flight.take p).any (fun g => decide (g.1 = st ∧ g.2.1 ≤ h)) || !mayCross s k i st h then s
      else if e.hops ≤ h + 1 then pumpCell s k i e.sinkCell (setInst k i (flitTaken p st f) s)
      else setInst k i (fun x => { x with flight := x.flight.set p (st, h + 1, f) }) s := by
  unfold flitArrivalS pumpCell
  simp only [hx, he, hp, hf]
  cases stnAtCell s k i e.sinkCell <;> rfl

theorem flitBlocked_iff : ((x.flight.take p).any (fun g => decide (g.1 = st ∧ g.2.1 ≤ h)) || !mayCross s k i st h) = true ↔
    (∃ g ∈ x.flight.take p, g.1 = st ∧ g.2.1 ≤ h) ∨ mayCross s k i st h = false := by
  simp only [Bool.or_eq_true, List.any_eq_true, decide_eq_true_eq, Bool.not_eq_true']

theorem creditReturn_eq (hx : instOf s k i = some x) (he : (streamsOf s k)[st]? = some e) : creditReturnS k i st s =
      if tget 0 x.returning st = 0 then s else pumpCell s k i e.srcCell (setInst k i (creditTaken st) s) := by
  unfold creditReturnS pumpCell
  simp only [hx, he]
  cases stnAtCell s k i e.srcCell <;> rfl

end

/-! ### A station with one descriptor in progress -/

/-- Station `n` has record `x` but for its work: descriptor `i`, the only one in progress, at `w`. -/
def OneWork (s : State) (n i : Nat) (x : Stn) (w : Work) : Prop := stnOf s n = some { x with works := [(i, w)] }

theorem OneWork.work {s : State} {n i : Nat} {x : Stn} {w : Work} (h : OneWork s n i x w) : workOf s n i = some w := by
  unfold workOf
  rw [show stnOf s n = _ from h]
  simp [tget?]

theorem OneWork.set {s : State} {n i : Nat} {x : Stn} {w : Work} (h : OneWork s n i x w) (f : Work → Work) :
    OneWork (setWork n i f s) n i x (f w) := by
  refine (stnOf_setStn_same h _).trans ?_
  simp [tupd]

theorem OneWork.setStn {s : State} {n i : Nat} {x : Stn} {w : Work} (h : OneWork s n i x w) {f : Stn → Stn} {y : Stn}
    (hf : f { x with works := [(i, w)] } = { y with works := [(i, w)] }) : OneWork (setStn n f s) n i y w :=
  (stnOf_setStn_same h f).trans (congrArg some hf)

theorem liveOf_eq {s t : State} {n : Nat} {x y : Stn} (hl : liveOf s n = some x) (hy : stnOf t n = some y) (h1 : y.stopped = x.stopped)
    (h2 : y.ctx = x.ctx) (h3 : y.launch = x.launch) (h4 : y.inst = x.inst) (ht : t.ten = s.ten) (he : t.err = s.err)
    (hs : t.sch.launches = s.sch.launches) : liveOf t n = some y := by
  have hx := liveOf_stnOf s n x hl
  have hlive : stnLive s x = true := by
    unfold liveOf at hl
    rw [hx, Option.bind_some] at hl
    by_contra hc
    rw [if_neg hc] at hl
    cases hl
  have : stnLive t y = stnLive s x := by
    unfold stnLive ctxStopping ctxOf rungReq? instOf
    rw [h1, h2, h3, h4, ht, he, hs]
  unfold liveOf
  rw [hy, Option.bind_some, this, if_pos hlive]

/-- A station whose one descriptor in progress takes and sends what it can. -/
theorem pump_oneWork {s : State} {n i : Nat} {x : Stn} {w : Work} (hw : OneWork s n i x w) (hl : liveOf s n = some { x with works := [(i, w)] })
    (hi : issueHeld s = false) (h2 : x.kind ≠ 2) (h3 : x.kind ≠ 3) :
    pump n s = stepWork n i (dOp (nth [] x.descs i)) [] true true s := by
  have hstop : x.stopped = false := by
    cases hs : x.stopped with
    | false => rfl
    | true => simp [liveOf, show stnOf s n = _ from hw, stnLive, hs] at hl
  have hp : pumpWorks n [(i, w)] [] [] s = stepWork n i (dOp (nth [] x.descs i)) [] true true s := by
    unfold pumpWorks
    rw [show stnOf s n = _ from hw]
    dsimp only
    rw [hstop, if_neg (by simp)]
    have ha (l : List Nat) : l.all (fun p => decide (p ∉ ([] : List Nat))) = true := by simp
    rw [ha, ha]
    split
    · split <;> rfl
    · rfl
  unfold pump
  rw [hl]
  dsimp only
  rw [hi, if_neg (by simp), if_neg h3, if_neg h2]
  exact hp

/-- The descriptor `i` of `n`, the station's only one, has started at `s` and stands at `w`. -/
theorem OneWork.begun {t : State} {n i : Nat} {x y : Stn} {w : Work} (h : OneWork t n i y w) (h1 : y.next = i + 1) (h2 : y.started = x.started + 1)
    (h3 : y.descs = x.descs) (h4 : w.ord = x.started) (h5 : w.passes = passesOf x i) : Begun t n i x { y with works := [(i, w)] } w.st :=
  ⟨h, h1, h2, h3, w, by simp [tget?], rfl, h4, h5⟩

/-- The record of a station without work that has just started its next descriptor. -/
def startedStn (x : Stn) : Stn := { x with started := x.started + 1, next := x.next + 1 }

/-- The work of the descriptor that a station starts next. -/
def firstWork (x : Stn) : Work := { ord := x.started, passes := passesOf x x.next }

theorem beginWork_oneWork {s : State} {n : Nat} {x : Stn} (hx : stnOf s n = some x) (hw : x.works = []) :
    OneWork (beginWork n x.next {} s) n x.next (startedStn x) (firstWork x) := by
  refine (stnOf_setStn_same hx _).trans ?_
  simp [tput, hw, startedStn, firstWork]

/-! ### Bytes put in the local store -/

theorem tget_foldl_zipIdx (o : Nat) (bs : List Byte) (k : Nat) (t : Tbl Byte) (a : Nat) :
    tget 0 ((bs.zipIdx k).foldl (fun t e => tset 0 t (o + e.2) e.1) t) a =
      if o + k ≤ a ∧ a - (o + k) < bs.length then nth 0 bs (a - (o + k)) else tget 0 t a := by
  induction bs generalizing k t with
  | nil => simp
  | cons b r ih =>
    rw [List.zipIdx_cons, List.foldl_cons, ih, tget_tset, List.length_cons]
    by_cases h1 : o + (k + 1) ≤ a ∧ a - (o + (k + 1)) < r.length
    · rw [if_pos h1, if_pos (by omega), show a - (o + k) = a - (o + (k + 1)) + 1 by omega]
      rfl
    · rw [if_neg h1]
      by_cases h2 : o + k = a
      · rw [if_pos h2, if_pos (by omega), show a - (o + k) = 0 by omega]
        rfl
      · rw [if_neg h2, if_neg (by omega)]

theorem lsPut_ls (o : Nat) (bs : List Byte) (x : Stn) (a : Nat) :
    tget 0 (lsPut o bs x).ls a = if o ≤ a ∧ a - o < bs.length then nth 0 bs (a - o) else tget 0 x.ls a :=
  tget_foldl_zipIdx o bs 0 x.ls a

theorem lsPut_frame (o : Nat) (bs : List Byte) (x : Stn) : lsPut o bs x = { x with ls := (lsPut o bs x).ls } := rfl

/-- Rows put in the local store `p` bytes apart, from offset `o`. -/
def putRows (o p : Nat) (row : Nat → List Byte) (m : Nat) (x : Stn) : Stn := (List.range m).foldl (fun x r => lsPut (o + r * p) (row r) x) x

theorem putRows_frame (o p : Nat) (row : Nat → List Byte) (m : Nat) (x : Stn) : putRows o p row m x = { x with ls := (putRows o p row m x).ls } := by
  unfold putRows
  induction m with
  | zero => rfl
  | succ m ih =>
    rw [List.range_succ, List.foldl_append, List.foldl_cons, List.foldl_nil]
    generalize List.foldl _ x (List.range m) = y at *
    rw [lsPut_frame, ih]

theorem putRows_in {o p rb : Nat} {row : Nat → List Byte} (x : Stn) {m : Nat} (hr : ∀ r < m, (row r).length = rb) (hp : rb ≤ p) {r b : Nat} (h : r < m) (hb : b < rb) :
    tget 0 (putRows o p row m x).ls (o + r * p + b) = nth 0 (row r) b := by
  unfold putRows
  induction m with
  | zero => cases h
  | succ m ih =>
    rw [List.range_succ, List.foldl_append, List.foldl_cons, List.foldl_nil, lsPut_ls, hr m (Nat.lt_succ_self m)]
    by_cases e : r = m
    · subst e
      rw [if_pos (by omega), Nat.add_sub_cancel_left]
    · have hlt : r < m := by omega
      have hmul : r * p + p ≤ m * p := by nlinarith
      rw [if_neg (by omega)]
      exact ih (fun r h => hr r (by omega)) hlt

theorem putRows_out {o p rb : Nat} {row : Nat → List Byte} (x : Stn) {m : Nat} (hr : ∀ r < m, (row r).length = rb) {a : Nat}
    (h : ∀ r < m, ¬ (o + r * p ≤ a ∧ a < o + r * p + rb)) : tget 0 (putRows o p row m x).ls a = tget 0 x.ls a := by
  unfold putRows
  induction m with
  | zero => rfl
  | succ m ih =>
    rw [List.range_succ, List.foldl_append, List.foldl_cons, List.foldl_nil, lsPut_ls, hr m (Nat.lt_succ_self m)]
    rw [if_neg (fun hc => h m (Nat.lt_succ_self m) (by omega))]
    exact ih (fun r h => hr r (by omega)) (fun r hr => h r (by omega))

end Sys2Proof.Machine
end

section
/-! PROOF. RECV, SEND, FETCH and STORE (R111, R272, R273). -/

namespace Sys2Proof.Machine

/-! ### What a station that starts the descriptor does not refuse -/

theorem firstOf_cons (b : Bool) (c : Nat) (l : List (Bool × Nat)) : firstOf ((b, c) :: l) = if b then c else firstOf l := by
  cases b <;> simp [firstOf]

theorem nth_of_getElem? {α : Type} {d e : α} {l : List α} {i : Nat} (h : l[i]? = some e) : nth d l i = e := by
  simp [nth, List.getD, h]

section
variable {s : State} {n op : Nat} {x : Stn} {d : List Byte} (h : DescReady s n op x d)
include h

theorem descReady_kind : op ∈ kindOps x.kind := by
  obtain ⟨-, -, -, hd, ho, -, -, hf⟩ := h
  unfold descFault at hf
  rw [nth_of_getElem? hd] at hf
  by_cases hb : headBad x d = true
  · rw [if_pos hb] at hf
    exact absurd hf (by decide)
  · simp only [headBad, decide_eq_true_eq, not_or, not_not] at hb
    rw [← ho]
    exact hb.2.2.2

theorem descReady_rs (ho : op = 2 ∨ op = 3) : rsFault s x d (nth 0 (passesOf x x.next) 0) = 0 := by
  obtain ⟨-, -, -, hd, hop, -, -, hf⟩ := h
  unfold descFault at hf
  rw [nth_of_getElem? hd] at hf
  by_cases hb : headBad x d = true
  · rw [if_pos hb] at hf
    exact absurd hf (by decide)
  · rwa [if_neg hb, hop, if_neg (by omega), if_pos ho] at hf

theorem descReady_rsPort (ho : op = 2 ∨ op = 3) : rsPort d ≤ 7 ∧ 1 ≤ rsFmt d := by
  have hf := descReady_rs h ho
  unfold rsFault at hf
  dsimp only at hf
  rw [firstOf_cons] at hf
  split at hf
  · exact absurd hf (by decide)
  · next hb =>
    simp only [Bool.or_eq_true, decide_eq_true_eq, not_or, not_lt] at hb
    exact ⟨hb.2.1, hb.2.2.1⟩

theorem descReady_fs (ho : op = 0x50 ∨ op = 0x51) : fsFault s x d = 0 := by
  obtain ⟨-, -, -, hd, hop, -, -, hf⟩ := h
  unfold descFault at hf
  rw [nth_of_getElem? hd] at hf
  by_cases hb : headBad x d = true
  · rw [if_pos hb] at hf
    exact absurd hf (by decide)
  · rw [if_neg hb, hop] at hf
    rcases ho with rfl | rfl <;> simpa using hf

theorem descReady_fsDims (ho : op = 0x50 ∨ op = 0x51) : 1 ≤ fsFmt d ∧ fsFmt d ≤ 0x0C ∧ 1 ≤ field d 12 1 ∧ 1 ≤ field d 13 1 := by
  have hf := descReady_fs h ho
  unfold fsFault at hf
  dsimp only at hf
  rw [firstOf_cons] at hf
  split at hf
  · exact absurd hf (by decide)
  · next hb =>
    simp only [Bool.or_eq_true, decide_eq_true_eq, not_or, not_lt] at hb
    obtain ⟨-, h1, h2, -, -, h3, -, h4, -⟩ := hb
    exact ⟨h1, h2, h3, h4⟩

end

/-- A matrix station has kind 1; FETCH and STORE belong to a kind that is none of the first three. -/
theorem kindOps_tile {op k : Nat} (h : op ∈ kindOps k) (ho : op ∈ [2, 3, 0x10, 0x11, 0x12, 0x13, 0x14, 0x20, 0x21, 0x50, 0x51]) : k ≠ 2 ∧ k ≠ 3 := by
  constructor
  · rintro rfl
    fin_cases ho <;> simp [kindOps] at h
  · rintro rfl
    fin_cases ho <;> simp [kindOps] at h

/-! ### The one descriptor in progress goes on -/

/-- A tile descriptor that starts on a station with nothing in progress goes as far as it can. -/
theorem tileGo_steps {s : State} {n op : Nat} {x : Stn} {d : List Byte} (h : DescReady s n op x d) (hw : x.works = [])
    (ho : op ∈ [2, 3, 0x10, 0x11, 0x12, 0x13, 0x14, 0x20, 0x21]) :
    tileGo n x.next d x s = stepWork n x.next op [] true true (beginWork n x.next {} s) := by
  obtain ⟨hk2, hk3⟩ := kindOps_tile (descReady_kind h) (by revert ho; simp only [List.mem_cons, List.not_mem_nil, or_false]; omega)
  obtain ⟨-, hi, hl, hd, hop, -⟩ := h
  have hone := beginWork_oneWork (liveOf_stnOf s n x hl) hw
  have hlive : liveOf (beginWork n x.next {} s) n = some { startedStn x with works := [(x.next, firstWork x)] } :=
    liveOf_eq hl hone rfl rfl rfl rfl rfl rfl rfl
  refine (pump_oneWork hone hlive hi hk2 hk3).trans ?_
  rw [show (startedStn x).descs = x.descs from rfl, nth_of_getElem? hd, hop]

/-! ### RECV -/

section
variable {s : State} {n i : Nat} {x : Stn} {w : Work} (hx : stnOf s n = some x) (hw : workOf s n i = some w) (hs : x.stopped = false)
include hx hw hs

theorem recvStep_done (hc : rsTiles (nth [] x.descs i) ≤ w.count) (k : Nat) :
    recvStep n i (k + 1) s = setWork n i (fun w => { w with st := .fin }) s := by
  unfold recvStep
  rw [hx, hw]
  dsimp only
  rw [hs, if_neg (by simp), if_pos hc]

theorem recvStep_empty (hc : ¬ rsTiles (nth [] x.descs i) ≤ w.count) {st : Nat}
    (hp : sinkStream s x (rsPort (nth [] x.descs i)) = some st) (hb : bufOf s x st = []) (k : Nat) : recvStep n i (k + 1) s = s := by
  unfold recvStep
  rw [hx, hw]
  dsimp only
  rw [hs, if_neg (by simp), if_neg hc, hp, Option.map_some, hb]

theorem recvStep_tile (hc : ¬ rsTiles (nth [] x.descs i) ≤ w.count) (hf : w.feeds = []) {st : Nat} {f : Flit}
    (hp : sinkStream s x (rsPort (nth [] x.descs i)) = some st) (hb : bufOf s x st = [f]) (hm : f.fmt = rsFmt (nth [] x.descs i))
    (h0 : f.fmt ≠ 0) (hi : f.idx = 0) (ht : tileFlits f.fmt (f.rows, f.cols) = 1) (k : Nat) :
    recvStep n i (k + 1) s = recvStep n i k (placeTile n i (nth [] x.descs i) w [f] (popFlit x st s)) := by
  have hwant : recvWant (rsFmt (nth [] x.descs i)) [f] ≤ [f].length := by simp [recvWant, h0, ht]
  have hcur : tget [] w.feeds 0 = [] := by rw [hf]; rfl
  conv_lhs => unfold recvStep
  rw [hx, hw]
  dsimp only
  rw [hs, if_neg (by simp), if_neg hc, hp, Option.map_some, hb]
  dsimp only
  rw [hcur]
  dsimp only
  rw [if_neg (by simp [hm, hi]), List.nil_append, if_pos hwant]

end

theorem putRows_works (o p : Nat) (row : Nat → List Byte) (m : Nat) (x : Stn) (ws : Tbl Work) :
    putRows o p row m { x with works := ws } = { putRows o p row m x with works := ws } := by
  unfold putRows
  induction m with
  | zero => rfl
  | succ m ih =>
    rw [List.range_succ, List.foldl_append, List.foldl_append, List.foldl_cons, List.foldl_cons, List.foldl_nil, List.foldl_nil, ih]
    rfl

/-- The rows of a tile that came in one flit. -/
def flitRow (f : Flit) (rb r : Nat) : List Byte := (f.data.drop (r * rb)).take rb

/-- A tile of one flit in the scratchpad. -/
theorem placeTile_one {s : State} {n i : Nat} {x : Stn} {w : Work} {d : List Byte} {f : Flit} (hx : stnOf s n = some x) (h0 : f.fmt ≠ 0)
    (hp : rowBytes (rsFmt d) f.cols ≤ rsPitch d)
    (hi : inScratch x (rsOff d (nth 0 w.passes 0) + w.rows * rsPitch d) ((f.rows - 1) * rsPitch d + rowBytes (rsFmt d) f.cols) = true) :
    placeTile n i d w [f] s = setWork n i (fun w => { w with feeds := [], count := w.count + 1, rows := w.rows + f.rows })
      (setStn n (putRows (rsOff d (nth 0 w.passes 0) + w.rows * rsPitch d) (rsPitch d) (flitRow f (rowBytes (rsFmt d) f.cols)) f.rows) s) := by
  unfold placeTile putRows flitRow
  rw [hx]
  simp [h0, Nat.not_lt.2 hp, hi]

theorem setWork_launches (n i : Nat) (f : Work → Work) (s : State) : (setWork n i f s).sch.launches = s.sch.launches := rfl

theorem setStn_launches (n : Nat) (f : Stn → Stn) (s : State) : (setStn n f s).sch.launches = s.sch.launches := rfl

theorem instOf_of {s t : State} (h : t.sch.launches = s.sch.launches) (k i : Nat) : instOf t k i = instOf s k i := by
  unfold instOf
  rw [h]

theorem popFlit_mem (x : Stn) (st : Nat) (s : State) : (popFlit x st s).mem = s.mem := rfl

theorem recvStep_oneTile {s : State} {n i : Nat} {x : Stn} {w : Work} (h : OneWork s n i x w) (hs : x.stopped = false) (hw : w.count = 0 ∧ w.rows = 0 ∧ w.feeds = [])
    (ht : rsTiles (nth [] x.descs i) = 1) {st o rb : Nat} {f : Flit} (hp : sinkStream s x (rsPort (nth [] x.descs i)) = some st)
    (hb : bufOf s x st = [f]) (hm : f.fmt = rsFmt (nth [] x.descs i)) (h0 : f.fmt ≠ 0) (hi : f.idx = 0) (hf : tileFlits f.fmt (f.rows, f.cols) = 1)
    (hrb : rb = rowBytes f.fmt f.cols) (ho : o = rsOff (nth [] x.descs i) (nth 0 w.passes 0)) (hle : rb ≤ rsPitch (nth [] x.descs i))
    (hin : inScratch x o ((f.rows - 1) * rsPitch (nth [] x.descs i) + rb) = true) (k : Nat) :
    recvStep n i (k + 2) s = setWork n i (fun w => { w with st := .fin }) (setWork n i (fun w => { w with feeds := [], count := w.count + 1, rows := w.rows + f.rows })
      (setStn n (putRows o (rsPitch (nth [] x.descs i)) (flitRow f rb) f.rows) (popFlit { x with works := [(i, w)] } st s))) ∧
    OneWork (recvStep n i (k + 2) s) n i (putRows o (rsPitch (nth [] x.descs i)) (flitRow f rb) f.rows x) { w with feeds := [], count := 1, rows := f.rows, st := .fin } := by
  obtain ⟨hc, hr, hfe⟩ := hw
  have hpop : OneWork (popFlit { x with works := [(i, w)] } st s) n i x w := h
  have hput : OneWork (setStn n (putRows o (rsPitch (nth [] x.descs i)) (flitRow f rb) f.rows) (popFlit { x with works := [(i, w)] } st s)) n i
      (putRows o (rsPitch (nth [] x.descs i)) (flitRow f rb) f.rows x) w := hpop.setStn (putRows_works ..)
  have hset := hput.set (fun w => { w with feeds := [], count := w.count + 1, rows := w.rows + f.rows })
  have hplace : placeTile n i (nth [] x.descs i) w [f] (popFlit { x with works := [(i, w)] } st s) =
      setWork n i (fun w => { w with feeds := [], count := w.count + 1, rows := w.rows + f.rows })
        (setStn n (putRows o (rsPitch (nth [] x.descs i)) (flitRow f rb) f.rows) (popFlit { x with works := [(i, w)] } st s)) := by
    have ho' : rsOff (nth [] x.descs i) (nth 0 w.passes 0) + w.rows * rsPitch (nth [] x.descs i) = o := by rw [hr, ho]; omega
    rw [placeTile_one hpop h0 (by rw [← hm, ← hrb]; exact hle) (by rw [ho', ← hm, ← hrb]; exact hin), ho', ← hm, ← hrb]
  have hfin : recvStep n i (k + 2) s = setWork n i (fun w => { w with st := .fin }) (setWork n i (fun w => { w with feeds := [], count := w.count + 1, rows := w.rows + f.rows })
      (setStn n (putRows o (rsPitch (nth [] x.descs i)) (flitRow f rb) f.rows) (popFlit { x with works := [(i, w)] } st s))) := by
    rw [recvStep_tile h h.work hs (by rw [hc]; show ¬ rsTiles (nth [] x.descs i) ≤ 0; omega) hfe hp hb hm h0 hi hf (k + 1)]
    refine (congrArg (recvStep n i (k + 1)) hplace).trans ?_
    refine recvStep_done hset hset.work ?_ ?_ k
    · rw [putRows_frame]
      exact hs
    · rw [putRows_frame]
      show rsTiles (nth [] x.descs i) ≤ w.count + 1
      omega
  refine ⟨hfin, ?_⟩
  rw [hfin]
  have hlast := hset.set (fun w => { w with st := .fin })
  rw [hc, hr, Nat.zero_add, Nat.zero_add] at hlast
  exact hlast

/-! ### SEND -/

/-- Flits sent one by one into a stream. -/
def pushAll (x : Stn) (st : Nat) (fs : List Flit) (s : State) : State := fs.foldl (fun s f => pushFlit x st f s) s

theorem streamsOf_pushAll (x : Stn) (st : Nat) (fs : List Flit) (s : State) (j : Nat) : streamsOf (pushAll x st fs s) j = streamsOf s j := by
  unfold pushAll
  induction fs generalizing s with
  | nil => rfl
  | cons f r ih => rw [List.foldl_cons, ih, pushFlit, streamsOf_setInst]

theorem pushAll_frame (x : Stn) (st : Nat) (fs : List Flit) (s : State) :
    pushAll x st fs s = { s with sch := { s.sch with launches := (pushAll x st fs s).sch.launches } } := by
  unfold pushAll
  induction fs generalizing s with
  | nil => rfl
  | cons f r ih =>
    rw [List.foldl_cons, ih, pushFlit, setInst_frame]

theorem pushAll_inst (x : Stn) (st : Nat) (fs : List Flit) {s : State} {i0 : Inst} (h : instOf s x.launch x.inst = some i0) :
    ∃ i, instOf (pushAll x st fs s) x.launch x.inst = some i ∧ i.flight = i0.flight ++ fs.map (fun f => (st, 0, f)) ∧
      tget 32 i.credits st = tget 32 i0.credits st - fs.length ∧ (∀ j, j ≠ st → tget 32 i.credits j = tget 32 i0.credits j) ∧
      i.bufs = i0.bufs ∧ i.returning = i0.returning := by
  unfold pushAll
  induction fs generalizing s i0 with
  | nil => exact ⟨i0, h, by simp, rfl, fun _ _ => rfl, rfl, rfl⟩
  | cons f r ih =>
    obtain ⟨i, h1, h2, h3, h4, h5, h6⟩ := ih (instOf_setInst_same h (fun i => { i with credits := tset 32 i.credits st (tget 32 i.credits st - 1), flight := i.flight ++ [(st, 0, f)] }))
    refine ⟨i, h1, ?_, ?_, fun j hj => ?_, h5, h6⟩
    · rw [h2]
      simp
    · rw [h3, List.length_cons, tget_tset, if_pos rfl]
      omega
    · rw [h4 j hj, tget_tset, if_neg (Ne.symm hj)]

/-- What `sendWork` does with one flit. -/
def sendOne (x : Stn) (a : State × List (Nat × Flit)) (o : Nat × Flit) : State × List (Nat × Flit) :=
  match outStream a.1 x o.1 with
  | some st => if creditsOf a.1 x st = 0 ∨ a.2.any (fun e => decide (e.1 = o.1)) then (a.1, a.2 ++ [o]) else (pushFlit x st o.2 a.1, a.2)
  | none => a

theorem sendWork_eq {s : State} {n i : Nat} {x : Stn} {w : Work} (hx : stnOf s n = some x) (hw : workOf s n i = some w) :
    sendWork n i s = setWork n i (fun v => { v with outs := (w.outs.foldl (sendOne x) (s, [])).2 }) (w.outs.foldl (sendOne x) (s, [])).1 := by
  unfold sendWork
  simp only [hx, hw]
  rfl

theorem foldl_sendOne_held {x : Stn} {s : State} {p st : Nat} (ho : outStream s x p = some st) (fs : List Flit) (held : List (Nat × Flit))
    (hh : creditsOf s x st = 0 ∨ held.any (fun e => decide (e.1 = p)) = true) :
    (fs.map (fun f => (p, f))).foldl (sendOne x) (s, held) = (s, held ++ fs.map (fun f => (p, f))) := by
  induction fs generalizing held with
  | nil => simp
  | cons f r ih =>
    have h1 : sendOne x (s, held) (p, f) = (s, held ++ [(p, f)]) := by
      unfold sendOne
      dsimp only
      rw [ho]
      exact if_pos hh
    rw [List.map_cons, List.foldl_cons, h1, ih _ (hh.imp_right fun h => by simp)]
    simp

theorem foldl_sendOne {x : Stn} {s : State} {p st : Nat} (hp : p < 16) (ho : sourceStream s x p = some st) {i0 : Inst}
    (hi : instOf s x.launch x.inst = some i0) (fs : List Flit) :
    (fs.map (fun f => (p, f))).foldl (sendOne x) (s, []) =
      (pushAll x st (fs.take (tget 32 i0.credits st)) s, (fs.drop (tget 32 i0.credits st)).map (fun f => (p, f))) := by
  have hout {u : State} (h : sourceStream u x p = some st) : outStream u x p = some st := (if_pos hp).trans h
  have hcred {u : State} {j : Inst} (h : instOf u x.launch x.inst = some j) : creditsOf u x st = tget 32 j.credits st := by
    simp [creditsOf, h]
  induction fs generalizing s i0 with
  | nil => simp [pushAll]
  | cons f r ih =>
    cases hc : tget 32 i0.credits st with
    | zero =>
      rw [foldl_sendOne_held (hout ho) _ [] (.inl (by rw [hcred hi, hc]))]
      rfl
    | succ c =>
      have h1 : sendOne x (s, []) (p, f) = (pushFlit x st f s, []) := by
        unfold sendOne
        dsimp only
        rw [hout ho]
        exact if_neg (by rw [hcred hi, hc]; simp)
      have h2 := instOf_setInst_same hi (fun i => { i with credits := tset 32 i.credits st (tget 32 i.credits st - 1), flight := i.flight ++ [(st, 0, f)] })
      have h3 : sourceStream (pushFlit x st f s) x p = some st := by
        unfold sourceStream at *
        unfold pushFlit
        rw [streamsOf_setInst]
        exact ho
      have h4 : tget 32 (tset 32 i0.credits st (tget 32 i0.credits st - 1)) st = c := by
        rw [tget_tset, if_pos rfl, hc, Nat.add_sub_cancel]
      rw [List.map_cons, List.foldl_cons, h1, ih h3 h2, h4]
      rfl

theorem setWork_same {s : State} {n i : Nat} {x : Stn} {w : Work} (h : OneWork s n i x w) {f : Work → Work} (hf : f w = w) :
    OneWork (setWork n i f s) n i x w := by
  have := h.set f
  rwa [hf] at this

/-- A SEND's step with nothing to send. -/
theorem sendWork_none {s : State} {n i : Nat} {x : Stn} {w : Work} (h : OneWork s n i x w) (hw : w.outs = []) :
    sendWork n i s = setWork n i (fun v => { v with outs := [] }) s ∧ OneWork (sendWork n i s) n i x w := by
  have he := sendWork_eq h h.work
  rw [hw] at he
  refine ⟨he, ?_⟩
  rw [he]
  exact setWork_same h (by cases w; cases hw; rfl)

section
variable {s : State} {n i : Nat} {x : Stn} {w : Work} (h : OneWork s n i x w) (hs : x.stopped = false) (hw : w.outs = [])
include h hs hw

theorem sendStep_done (hc : rsTiles (nth [] x.descs i) ≤ w.count) (k : Nat) :
    sendStep n i (k + 1) s = setWork n i (fun w => { w with st := .fin }) (setWork n i (fun v => { v with outs := [] }) s) := by
  obtain ⟨he, ho⟩ := sendWork_none h hw
  conv_lhs => unfold sendStep
  dsimp only
  rw [show stnOf (sendWork n i s) n = _ from ho, ho.work]
  dsimp only
  rw [hs, hw, if_neg (by simp), if_pos hc, he]

/-- The flits of the tile that a SEND sends next. -/
theorem sendStep_tile (hc : ¬ rsTiles (nth [] x.descs i) ≤ w.count) {fl : List Flit}
    (hfl : fl = flitsOf (rsFmt (nth [] x.descs i)) (64, 64) (sendTile x (nth [] x.descs i) (nth 0 w.passes 0) w.count)) (k : Nat) :
    sendStep n i (k + 1) s = sendStep n i k (setWork n i (fun v => { v with outs := fl.map (fun f => (rsPort (nth [] x.descs i), f)), count := v.count + 1 })
      (setWork n i (fun v => { v with outs := [] }) s)) := by
  obtain ⟨he, ho⟩ := sendWork_none h hw
  conv_lhs => unfold sendStep
  dsimp only
  rw [show stnOf (sendWork n i s) n = _ from ho, ho.work]
  dsimp only
  rw [hs, hw, if_neg (by simp), if_neg hc, he, hfl]
  rfl

end

/-- A SEND whose last tile's flits stand to be sent. -/
theorem sendStep_last {s : State} {n i : Nat} {x : Stn} {w : Work} {fl : List Flit} (h : OneWork s n i x w) (hs : x.stopped = false)
    (hw : w.outs = fl.map (fun f => (rsPort (nth [] x.descs i), f))) (hp : rsPort (nth [] x.descs i) < 16) {st : Nat}
    (ho : sourceStream s x (rsPort (nth [] x.descs i)) = some st) {i0 : Inst} (hi : instOf s x.launch x.inst = some i0)
    (hc : rsTiles (nth [] x.descs i) ≤ w.count) (k : Nat) :
    OneWork (sendStep n i (k + 1) s) n i x { w with outs := (fl.drop (tget 32 i0.credits st)).map (fun f => (rsPort (nth [] x.descs i), f)), st := if fl.length ≤ tget 32 i0.credits st then .fin else w.st } ∧
    (sendStep n i (k + 1) s).sch.launches = (pushAll x st (fl.take (tget 32 i0.credits st)) s).sch.launches ∧ (sendStep n i (k + 1) s).mem = s.mem := by
  have hfold := foldl_sendOne (x := { x with works := [(i, w)] }) hp ho hi fl
  have he := sendWork_eq h h.work
  rw [hw, hfold] at he
  have hpush : OneWork (pushAll { x with works := [(i, w)] } st (fl.take (tget 32 i0.credits st)) s) n i x w := by
    unfold OneWork
    rw [pushAll_frame]
    exact h
  have hmem : (pushAll { x with works := [(i, w)] } st (fl.take (tget 32 i0.credits st)) s).mem = s.mem := by rw [pushAll_frame]
  have hone : OneWork (sendWork n i s) n i x { w with outs := (fl.drop (tget 32 i0.credits st)).map (fun f => (rsPort (nth [] x.descs i), f)) } := by
    rw [he]
    exact hpush.set _
  have hstep : sendStep n i (k + 1) s = if fl.length ≤ tget 32 i0.credits st then setWork n i (fun w => { w with st := .fin }) (sendWork n i s) else sendWork n i s := by
    unfold sendStep
    dsimp only
    rw [show stnOf (sendWork n i s) n = _ from hone, hone.work]
    dsimp only
    rw [hs]
    by_cases hl : fl.length ≤ tget 32 i0.credits st
    · rw [if_neg (by simp [hl]), if_pos hc, if_pos hl]
    · rw [if_pos (.inr (by simpa using hl)), if_neg hl]
  rw [hstep]
  split
  · refine ⟨hone.set _, ?_, ?_⟩
    · rw [he]
      rfl
    · rw [he]
      exact hmem
  · refine ⟨hone, ?_, ?_⟩
    · rw [he]
      rfl
    · rw [he]
      exact hmem

/-! ### FETCH and STORE -/

/-- The pieces of a FETCH. -/
def fetchPieces (s : State) (x : Stn) (d : List Byte) : List XPiece :=
  (List.range (fsRows d)).flatMap (fun r => cutRange s x.ctx (fsRowBytes d + 1) (fsAddr d (nth 0 (passesOf x x.next) 0) + r * field d 32 4) (fsRowBytes d) (s.sch.xseq * 2 ^ 40 + r * fsRowBytes d))

/-- The transfer that a FETCH or STORE starts. -/
def fsNew (n : Nat) (kind : XKind) (d : List Byte) (x : Stn) (s : State) : Xfer :=
  { id := s.sch.xseq, kind := kind, desc := x.next, grp := none, pieces := if kind = .fetch then fetchPieces s x d else [], lo := 0, hi := 0, eng := (((streamsOf s x.launch)[fsStream d]?).map (fun e => 16 * n + (if kind = .fetch then e.srcPort else e.sinkPort))).getD 0 }

/-- The state in which a FETCH or STORE has its transfer. -/
def fsBegun (n : Nat) (kind : XKind) (d : List Byte) (x : Stn) (s : State) : State :=
  beginWork n x.next {} (setStn n (fun y => { y with xfers := y.xfers ++ [fsNew n kind d x s] }) { s with sch := { s.sch with xseq := s.sch.xseq + 1 } })

theorem fsGo_eq (n : Nat) (kind : XKind) (d : List Byte) (x : Stn) (s : State) : fsGo n kind x.next d x s = pump n (fsBegun n kind d x s) := rfl

/-- The station of a FETCH or STORE that has just started. -/
def fsStn (n : Nat) (kind : XKind) (d : List Byte) (x : Stn) (s : State) : Stn := startedStn { x with xfers := x.xfers ++ [fsNew n kind d x s] }

theorem fsBegun_oneWork {s : State} {n : Nat} {x : Stn} (kind : XKind) (d : List Byte) (hx : stnOf s n = some x) (hw : x.works = []) :
    OneWork (fsBegun n kind d x s) n x.next (fsStn n kind d x s) (firstWork x) := by
  have h : stnOf (setStn n (fun y => { y with xfers := y.xfers ++ [fsNew n kind d x s] }) { s with sch := { s.sch with xseq := s.sch.xseq + 1 } }) n =
      some { x with xfers := x.xfers ++ [fsNew n kind d x s] } := stnOf_setStn_same hx _
  exact beginWork_oneWork h hw

theorem fsXfer_none {x : Stn} {i : Nat} (h : fsXfer x i = none) {f : Xfer} (hd : f.desc = i) (hg : f.grp = none) (hk : f.kind = .fetch ∨ f.kind = .store) :
    f ∉ x.xfers := by
  intro hf
  have := List.find?_eq_none.1 h f hf
  simp [hd, hg, hk] at this

theorem fsXfer_fsStn {s : State} {n : Nat} {x : Stn} {kind : XKind} {d : List Byte} (hk : kind = .fetch ∨ kind = .store) (h : fsXfer x x.next = none) :
    fsXfer (fsStn n kind d x s) x.next = some (fsNew n kind d x s) := by
  unfold fsXfer at *
  show (x.xfers ++ [fsNew n kind d x s]).find? _ = _
  rw [List.find?_append, h, Option.none_or]
  exact List.find?_cons_of_pos (decide_eq_true ⟨rfl, rfl, hk⟩)

/-- The station without the transfer. -/
theorem dropFs_fsStn {s : State} {n : Nat} {x : Stn} {kind : XKind} {d : List Byte} (hk : kind = .fetch ∨ kind = .store) (h : fsXfer x x.next = none) :
    (fsStn n kind d x s).xfers.erase (fsNew n kind d x s) = x.xfers := by
  show (x.xfers ++ [fsNew n kind d x s]).erase _ = _
  rw [List.erase_append_right _ (fsXfer_none h rfl rfl hk), List.erase_cons_head, List.append_nil]

theorem fsGo_steps {s : State} {n op : Nat} {x : Stn} {d : List Byte} (kind : XKind) (h : DescReady s n op x d) (hw : x.works = [])
    (ho : op = 0x50 ∨ op = 0x51) : fsGo n kind x.next d x s = stepWork n x.next op [] true true (fsBegun n kind d x s) := by
  obtain ⟨hk2, hk3⟩ := kindOps_tile (descReady_kind h) (by rcases ho with rfl | rfl <;> decide)
  obtain ⟨-, hi, hl, hd, hop, -⟩ := h
  have hone := fsBegun_oneWork kind d (liveOf_stnOf s n x hl) hw
  have hlive : liveOf (fsBegun n kind d x s) n = some { fsStn n kind d x s with works := [(x.next, firstWork x)] } :=
    liveOf_eq hl hone rfl rfl rfl rfl rfl rfl rfl
  rw [fsGo_eq]
  refine (pump_oneWork hone hlive hi hk2 hk3).trans ?_
  rw [show (fsStn n kind d x s).descs = x.descs from rfl, nth_of_getElem? hd, hop]

/-- A transfer of the station's that is over: its record without it. -/
def fsGone (f : Xfer) (x : Stn) : Stn := { x with xfers := x.xfers.erase f, ls := tfilter x.ls (fun a _ => decide (a / 2 ^ 40 ≠ f.id)) }

section
variable {s : State} {n i : Nat} {x : Stn} {w : Work} (h : OneWork s n i x w) (hs : x.stopped = false) {f : Xfer} (hf : fsXfer x i = some f)
include h hs hf

theorem fetchStep_done (hw : w.outs = []) (hc : fsTiles (nth [] x.descs i) ≤ w.count) (k : Nat) :
    OneWork (fetchStep n i (k + 1) s) n i (fsGone f x) { w with st := .fin } ∧ (fetchStep n i (k + 1) s).mem = s.mem := by
  obtain ⟨he, ho⟩ := sendWork_none h hw
  have hf' : fsXfer { x with works := [(i, w)] } i = some f := hf
  have hstep : fetchStep n i (k + 1) s = setWork n i (fun w => { w with st := .fin }) (dropFs n f (sendWork n i s)) := by
    unfold fetchStep
    dsimp only
    rw [show stnOf (sendWork n i s) n = _ from ho, ho.work]
    simp only [hf']
    rw [hs, if_neg (by simp [hw]), if_pos hc]
  rw [hstep]
  refine ⟨(ho.setStn (y := fsGone f x) rfl).set _, ?_⟩
  rw [he]
  rfl

theorem fetchStep_waits (hw : w.outs = []) (hc : ¬ fsTiles (nth [] x.descs i) ≤ w.count) (hr : fetchReady (nth [] x.descs i) f w.count = false) (k : Nat) :
    OneWork (fetchStep n i (k + 1) s) n i x w ∧ fetchStep n i (k + 1) s = { s with sch := { s.sch with stns := (fetchStep n i (k + 1) s).sch.stns } } := by
  obtain ⟨he, ho⟩ := sendWork_none h hw
  have hf' : fsXfer { x with works := [(i, w)] } i = some f := hf
  have hstep : fetchStep n i (k + 1) s = sendWork n i s := by
    unfold fetchStep
    dsimp only
    rw [show stnOf (sendWork n i s) n = _ from ho, ho.work]
    simp only [hf']
    rw [hs, if_neg (by simp [hw]), if_neg hc, if_neg (by simp [hr])]
  rw [hstep]
  exact ⟨ho, by rw [he]; rfl⟩

theorem storeStep_done (hp : f.pieces = []) (hc : fsTiles (nth [] x.descs i) ≤ w.count) (take : Bool) (k : Nat) :
    storeStep n i take (k + 1) s = setWork n i (fun w => { w with st := .fin }) (dropFs n f s) := by
  have hf' : fsXfer { x with works := [(i, w)] } i = some f := hf
  unfold storeStep
  rw [show stnOf s n = _ from h, h.work]
  simp only [hf']
  rw [hs, if_neg (by simp), if_pos hc, hp, if_pos (by rfl)]

theorem storeStep_waits (hc : ¬ fsTiles (nth [] x.descs i) ≤ w.count) (hb : bufOf s x (fsStream (nth [] x.descs i)) = []) (k : Nat) :
    storeStep n i true (k + 1) s = s := by
  have hf' : fsXfer { x with works := [(i, w)] } i = some f := hf
  have hb' : bufOf s { x with works := [(i, w)] } (fsStream (nth [] x.descs i)) = [] := hb
  unfold storeStep
  rw [show stnOf s n = _ from h, h.work]
  simp only [hf']
  rw [if_neg (by simp [hs]), if_neg hc, if_neg (by simp), hb']

end

/-! ### The pieces of a FETCH -/

theorem fmtBits_pos {c : Nat} (h1 : 1 ≤ c) (h2 : c ≤ 0x0C) : 0 < fmtBits c := by
  interval_cases c <;> decide

theorem ceilDiv_pos {a b : Nat} (ha : 0 < a) (hb : 0 < b) : 0 < ceilDiv a b := by
  unfold ceilDiv
  exact Nat.div_pos (by omega) hb

theorem accessLen_pos (s : State) (c a : Nat) {m : Nat} (hm : 0 < m) : 0 < accessLen s c a m := by
  unfold accessLen
  split <;> omega

theorem mem_cutRange_first (s : State) (c k a loc : Nat) {m : Nat} (hm : 0 < m) :
    ⟨a, loc, accessLen s c a m, 0⟩ ∈ cutRange s c (k + 1) a m loc := by
  unfold cutRange
  rw [if_neg (by omega)]
  simp

theorem fsRowBytes_pos {d : List Byte} (h1 : 1 ≤ fsFmt d) (h2 : fsFmt d ≤ 0x0C) (hc : 1 ≤ fsCols d) : 0 < fsRowBytes d := by
  unfold fsRowBytes rowBytes elemBytes
  have := ceilDiv_pos (Nat.mul_pos (fmtBits_pos h1 h2) hc) (show 0 < 8 by omega)
  omega

theorem fsTile_zero (d : List Byte) : fsTile d 0 = (0, 0) := by
  simp [fsTile]

/-- A FETCH of a region that is not empty has a piece of its first tile, still to be issued. -/
theorem fetchPieces_first (s : State) (x : Stn) {d : List Byte} (hr : 1 ≤ fsRows d) (hb : 0 < fsRowBytes d) :
    ∃ p ∈ fetchPieces s x d, p.st = 0 ∧ p.loc = s.sch.xseq * 2 ^ 40 ∧ 0 < p.len := by
  refine ⟨_, List.mem_flatMap.2 ⟨0, List.mem_range.2 hr, mem_cutRange_first s x.ctx _ _ _ hb⟩, rfl, ?_, accessLen_pos _ _ _ hb⟩
  dsimp only
  omega

theorem fetchPieces_fresh (s : State) (x : Stn) (d : List Byte) : ∀ p ∈ fetchPieces s x d, p.st = 0 := by
  intro p hp
  obtain ⟨r, -, hp⟩ := List.mem_flatMap.1 hp
  exact cutRange_fresh _ _ _ _ _ _ p hp

theorem fetchReady_first {d : List Byte} {f : Xfer} {p : XPiece} (hp : p ∈ f.pieces) (hst : p.st = 0) (hloc : p.loc = fsBase f) (hlen : 0 < p.len)
    (h1 : 1 ≤ fsFmt d) (h2 : fsFmt d ≤ 0x0C) (hr : 1 ≤ fsRows d) (hc : 1 ≤ fsCols d) (hdr : 1 ≤ field d 12 1) (hdc : 1 ≤ field d 13 1) :
    fetchReady d f 0 = false := by
  have hm : fsDim d 0 = (min (field d 12 1) (fsRows d), min (field d 13 1) (fsCols d)) := by simp [fsDim, fsTile_zero]
  have hpos : 0 < fmtBits (fsFmt d) * min (field d 13 1) (fsCols d) := Nat.mul_pos (fmtBits_pos h1 h2) (by omega)
  have hg : (0, ceilDiv (fmtBits (fsFmt d) * min (field d 13 1) (fsCols d)) 8) ∈ fsRanges d 0 (min (field d 13 1) (fsCols d)) := by
    simp [fsRanges]
  have hgpos := ceilDiv_pos hpos (show 0 < 8 by omega)
  rw [Bool.eq_false_iff]
  intro hall
  unfold fetchReady at hall
  dsimp only at hall
  rw [fsTile_zero, hm] at hall
  have h := List.all_eq_true.1 hall p hp
  rw [Bool.or_eq_true, Bool.not_eq_true', decide_eq_true_eq, hst] at h
  rcases h with h | h
  · cases h
  · rw [Bool.eq_false_iff] at h
    refine h (List.any_eq_true.2 ⟨0, List.mem_range.2 (by dsimp only; omega), List.any_eq_true.2 ⟨_, hg, decide_eq_true ?_⟩⟩)
    dsimp only
    rw [hloc]
    omega

theorem fsTiles_pos {d : List Byte} (hr : 1 ≤ fsRows d) (hc : 1 ≤ fsCols d) (hdr : 1 ≤ field d 12 1) (hdc : 1 ≤ field d 13 1) : 0 < fsTiles d :=
  Nat.mul_pos (ceilDiv_pos hr hdr) (ceilDiv_pos hc hdc)

/-! ### The obligation -/

theorem flitArrival_takes (s : State) (k i st m : Nat) (x : Inst) (e : StreamEntry) (p h : Nat) (f : Flit) (hup : s.pwr.phase = .ready) (hi : issueHeld s = false)
    (hx : instOf s k i = some x) (he : (streamsOf s k)[st]? = some e) (hp : flightAt x.flight st m = some p) (hf : x.flight[p]? = some (st, h, f)) :
    ((∃ g ∈ x.flight.take p, g.1 = st ∧ g.2.1 ≤ h) ∨ mayCross s k i st h = false → exec (.flitArrival k i st m) s = .next s) ∧
    ((∀ g ∈ x.flight.take p, g.1 = st → h < g.2.1) → mayCross s k i st h = true →
      (h + 1 < e.hops → ∃ t, exec (.flitArrival k i st m) s = .next t ∧ instOf t k i = some { x with flight := x.flight.set p (st, h + 1, f) } ∧ t.sch.stns = s.sch.stns ∧ t.mem = s.mem) ∧
      (e.hops ≤ h + 1 → exec (.flitArrival k i st m) s = .next (pumpCell s k i e.sinkCell (setInst k i (flitTaken p st f) s)))) := by
  have hrun : exec (.flitArrival k i st m) s = .next (flitArrivalS k i st m s) := ifRun_ready hup hi
  rw [hrun, flitArrival_eq hx he hp hf]
  refine ⟨fun hb => congrArg _ (if_pos (flitBlocked_iff.2 hb)), fun ha hm => ?_⟩
  have hfree : ¬ (((x.flight.take p).any (fun g => decide (g.1 = st ∧ g.2.1 ≤ h)) || !mayCross s k i st h) = true) := by
    rw [flitBlocked_iff]
    rintro (⟨g, hg, h1, h2⟩ | hc)
    · exact absurd (ha g hg h1) (by omega)
    · rw [hm] at hc
      cases hc
  rw [if_neg hfree]
  refine ⟨fun hlt => ⟨_, rfl, ?_, ?_, ?_⟩, fun hle => congrArg _ (if_pos hle)⟩
  · rw [if_neg (by omega)]
    exact instOf_setInst_same hx _
  · rw [if_neg (by omega)]
    rfl
  · rw [if_neg (by omega)]
    rfl

theorem liveOf_running {s : State} {n : Nat} {x : Stn} (h : liveOf s n = some x) : x.stopped = false := by
  have hx := liveOf_stnOf s n x h
  cases hs : x.stopped with
  | false => rfl
  | true => simp [liveOf, hx, stnLive, hs] at h

theorem recv_eq {s : State} {n : Nat} {x : Stn} {d : List Byte} (h : DescReady s n 2 x d) (hw : x.works = []) :
    exec (.recv n) s = .next (recvStep n x.next 40 (beginWork n x.next {} s)) :=
  (descOut_ready h _).trans (congrArg _ (tileGo_steps h hw (by decide)))

theorem send_eq {s : State} {n : Nat} {x : Stn} {d : List Byte} (h : DescReady s n 3 x d) (hw : x.works = []) :
    exec (.send n) s = .next (sendStep n x.next 40 (beginWork n x.next {} s)) :=
  (descOut_ready h _).trans (congrArg _ (tileGo_steps h hw (by decide)))

theorem fetch_eq {s : State} {n : Nat} {x : Stn} {d : List Byte} (h : DescReady s n 0x50 x d) (hw : x.works = []) :
    exec (.fetch n) s = .next (fetchStep n x.next 40 (fsBegun n .fetch d x s)) :=
  (descOut_ready h _).trans (congrArg _ (fsGo_steps .fetch h hw (.inl rfl)))

theorem store_eq {s : State} {n : Nat} {x : Stn} {d : List Byte} (h : DescReady s n 0x51 x d) (hw : x.works = []) :
    exec (.store n) s = .next (storeStep n x.next true 40 (fsBegun n .store d x s)) :=
  (descOut_ready h _).trans (congrArg _ (fsGo_steps .store h hw (.inr rfl)))

theorem nth_take_drop (l : List Byte) (k m : Nat) {b : Nat} (hb : b < m) : nth 0 ((l.drop k).take m) b = nth 0 l (k + b) := by
  simp [nth, List.getD, hb]

theorem flitRow_length {f : Flit} {rb r : Nat} (hl : f.rows * rb ≤ f.data.length) (hr : r < f.rows) : (flitRow f rb r).length = rb := by
  have : r * rb + rb ≤ f.rows * rb := by nlinarith
  simp only [flitRow, List.length_take, List.length_drop]
  omega

/-- A part of a launch whose sink has consumed the oldest flit of a stream. -/
def flitUsed (st : Nat) (i : Inst) : Inst :=
  { i with bufs := tset [] i.bufs st ((tget [] i.bufs st).drop 1), returning := tmod 0 i.returning st (· + 1) }

/-- RECV on a station with nothing in progress (R111). -/
theorem recv_runs (s : State) (n : Nat) (x : Stn) (d : List Byte) (st : Nat) (h : DescReady s n 2 x d) (hw : x.works = []) (hp : sinkStream s x (rsPort d) = some st) :
    (rsTiles d = 0 → ∃ t y, exec (.recv n) s = .next t ∧ Begun t n x.next x y .fin ∧ y.ls = x.ls ∧ y.acc = x.acc ∧ t.mem = s.mem ∧ t.sch.launches = s.sch.launches) ∧
    (rsTiles d ≠ 0 → bufOf s x st = [] → exec (.recv n) s = .next (beginWork n x.next {} s)) ∧
    (∀ f rb o, rsTiles d = 1 → bufOf s x st = [f] → f.fmt = rsFmt d → f.idx = 0 → tileFlits f.fmt (f.rows, f.cols) = 1 → rb = rowBytes f.fmt f.cols →
      o = rsOff d (nth 0 (passesOf x x.next) 0) → rb ≤ rsPitch d → f.rows * rb ≤ f.data.length → inScratch x o ((f.rows - 1) * rsPitch d + rb) = true →
      ∃ t y i, exec (.recv n) s = .next t ∧ Begun t n x.next x y .fin ∧ t.mem = s.mem ∧ y.acc = x.acc ∧
        (∀ r < f.rows, ∀ b < rb, tget 0 y.ls (o + r * rsPitch d + b) = nth 0 f.data (r * rb + b)) ∧
        (∀ a, (∀ r < f.rows, ¬ (o + r * rsPitch d ≤ a ∧ a < o + r * rsPitch d + rb)) → tget 0 y.ls a = tget 0 x.ls a) ∧
        instOf t x.launch x.inst = some i ∧ tget [] i.bufs st = [] ∧ (∀ i0, instOf s x.launch x.inst = some i0 → tget 0 i.returning st = tget 0 i0.returning st + 1)) := by
  have hs := liveOf_running h.2.2.1
  have hone := beginWork_oneWork (liveOf_stnOf s n x h.2.2.1) hw
  have hd : nth [] (startedStn x).descs x.next = d := nth_of_getElem? h.2.2.2.1
  rw [recv_eq h hw]
  refine ⟨fun h0 => ?_, fun h0 hb => ?_, fun f rb o ht hb hm hi hf hrb ho hle hlen hin => ?_⟩
  · rw [recvStep_done hone hone.work hs (by rw [show nth [] ({ startedStn x with works := [(x.next, firstWork x)] } : Stn).descs x.next = d from hd, h0]; exact Nat.zero_le _)]
    exact ⟨_, _, rfl, (hone.set _).begun rfl rfl rfl rfl rfl, rfl, rfl, rfl, rfl⟩
  · rw [recvStep_empty hone hone.work hs (by rw [show nth [] ({ startedStn x with works := [(x.next, firstWork x)] } : Stn).descs x.next = d from hd]; show ¬ rsTiles d ≤ 0; omega)
      (by rw [show nth [] ({ startedStn x with works := [(x.next, firstWork x)] } : Stn).descs x.next = d from hd]; exact hp) hb]
  · obtain ⟨i0, hi0, hbuf⟩ : ∃ i0, instOf s x.launch x.inst = some i0 ∧ tget [] i0.bufs st = [f] := by
      unfold bufOf at hb
      cases hc : instOf s x.launch x.inst with
      | none => rw [hc] at hb; cases hb
      | some i0 => rw [hc] at hb; exact ⟨i0, rfl, hb⟩
    obtain ⟨he, hlast⟩ := recvStep_oneTile (o := o) (rb := rb) hone hs ⟨rfl, rfl, rfl⟩ (by rw [hd]; exact ht) (by rw [hd]; exact hp) hb (by rw [hd]; exact hm)
      (by have := (descReady_rsPort h (.inl rfl)).2; omega) hi hf hrb (by rw [hd]; exact ho) (by rw [hd]; exact hle) (by rw [hd]; exact hin) 38
    rw [hd] at he hlast
    have hrow : ∀ r < f.rows, (flitRow f rb r).length = rb := fun r hr => flitRow_length hlen hr
    have hinst : instOf (setInst x.launch x.inst (flitUsed st) (beginWork n x.next {} s)) x.launch x.inst = some (flitUsed st i0) := instOf_setInst_same hi0 _
    refine ⟨_, { putRows o (rsPitch d) (flitRow f rb) f.rows (startedStn x) with works := _ }, flitUsed st i0, rfl, hlast.begun ?_ ?_ ?_ rfl rfl, ?_, ?_, fun r hr b hb' => ?_, fun a ha => ?_, ?_, ?_, fun j hj => ?_⟩
    · rw [putRows_frame]
      rfl
    · rw [putRows_frame]
      rfl
    · rw [putRows_frame]
      rfl
    · rw [he, setWork_mem, setWork_mem, setStn_mem, popFlit_mem]
      rfl
    · rw [putRows_frame]
      rfl
    · refine (putRows_in (startedStn x) hrow hle hr hb').trans ?_
      exact nth_take_drop _ _ _ hb'
    · exact putRows_out (startedStn x) hrow ha
    · rw [he, instOf_of (setWork_launches ..), instOf_of (setWork_launches ..), instOf_of (setStn_launches ..)]
      exact hinst
    · unfold flitUsed
      dsimp only
      rw [tget_tset, if_pos rfl, hbuf]
      rfl
    · obtain rfl : i0 = j := Option.some.inj (hi0.symm.trans hj)
      unfold flitUsed
      dsimp only
      rw [tget_tmod, if_pos rfl]

/-- SEND on a station with nothing in progress (R111). -/
theorem send_runs (s : State) (n : Nat) (x : Stn) (d : List Byte) (st : Nat) (i0 : Inst) (fl : List Flit) (c : Nat) (h : DescReady s n 3 x d) (hw : x.works = [])
    (ho : sourceStream s x (rsPort d) = some st) (hi : instOf s x.launch x.inst = some i0) (hc : c = tget 32 i0.credits st) :
    (rsTiles d = 0 → ∃ t y, exec (.send n) s = .next t ∧ Begun t n x.next x y .fin ∧ y.ls = x.ls ∧ t.mem = s.mem ∧ t.sch.launches = s.sch.launches) ∧
    (rsTiles d = 1 → fl = flitsOf (rsFmt d) (64, 64) (sendTile x d (nth 0 (passesOf x x.next) 0) 0) → ∃ t y i, exec (.send n) s = .next t ∧
      Begun t n x.next x y (if fl.length ≤ c then .fin else .run) ∧ y.ls = x.ls ∧ y.acc = x.acc ∧ t.mem = s.mem ∧ instOf t x.launch x.inst = some i ∧
      i.flight = i0.flight ++ (fl.take c).map (fun f => (st, 0, f)) ∧ tget 32 i.credits st = c - fl.length ∧ (∀ j, j ≠ st → tget 32 i.credits j = tget 32 i0.credits j) ∧
      i.bufs = i0.bufs ∧ i.returning = i0.returning) := by
  have hs := liveOf_running h.2.2.1
  have hone := beginWork_oneWork (liveOf_stnOf s n x h.2.2.1) hw
  have hd : nth [] (startedStn x).descs x.next = d := nth_of_getElem? h.2.2.2.1
  have hport := (descReady_rsPort h (.inr rfl)).1
  subst hc
  rw [send_eq h hw]
  refine ⟨fun h0 => ?_, fun ht hfl => ?_⟩
  · rw [sendStep_done hone hs rfl (by rw [hd, h0]; exact Nat.zero_le _)]
    exact ⟨_, _, rfl, ((setWork_same hone rfl).set _).begun rfl rfl rfl rfl rfl, rfl, rfl, rfl⟩
  · have htile := sendStep_tile hone hs rfl (fl := fl) (by rw [hd, ht]; exact Nat.not_succ_le_zero 0) (by rw [hd]; exact hfl) 39
    have hone1 := (setWork_same hone (f := fun v => { v with outs := [] }) rfl).set (fun v => { v with outs := fl.map (fun f => (rsPort d, f)), count := v.count + 1 })
    rw [hd] at htile
    have hi1 : instOf (setWork n x.next (fun v => { v with outs := fl.map (fun f => (rsPort d, f)), count := v.count + 1 }) (setWork n x.next (fun v => { v with outs := [] }) (beginWork n x.next {} s))) (startedStn x).launch (startedStn x).inst = some i0 := hi
    obtain ⟨hlast, hl, hm⟩ := sendStep_last (fl := fl) hone1 hs (by rw [hd]) (by rw [hd]; omega) (by rw [hd]; exact ho) hi1 (by rw [hd, ht]; exact Nat.le_refl 1) 38
    obtain ⟨i, h1, h2, h3, h4, h5, h6⟩ := pushAll_inst (startedStn x) st (fl.take (tget 32 i0.credits st)) hi1
    rw [htile]
    refine ⟨_, _, i, rfl, hlast.begun rfl rfl rfl rfl rfl, rfl, rfl, hm, ?_, h2, ?_, h4, h5, h6⟩
    · rw [instOf_of hl]
      exact h1
    · rw [h3, List.length_take]
      omega

/-- FETCH on a station with nothing in progress (R272). -/
theorem fetch_runs (s : State) (n : Nat) (x : Stn) (d : List Byte) (h : DescReady s n 0x50 x d) (hw : x.works = []) (hx : fsXfer x x.next = none) :
    (fsTiles d = 0 → ∃ t y, exec (.fetch n) s = .next t ∧ Begun t n x.next x y .fin ∧ y.xfers = x.xfers ∧ t.mem = s.mem) ∧
    (1 ≤ fsRows d → 1 ≤ fsCols d → ∃ t y f, exec (.fetch n) s = .next t ∧ Begun t n x.next x y .run ∧ y.xfers = x.xfers ++ [f] ∧ f.id = s.sch.xseq ∧
      f.kind = .fetch ∧ f.desc = x.next ∧ f.grp = none ∧ f.pieces ≠ [] ∧ (∀ p ∈ f.pieces, p.st = 0) ∧
      (∀ e, (streamsOf s x.launch)[fsStream d]? = some e → f.eng = 16 * n + e.srcPort) ∧ t.sch.xseq = s.sch.xseq + 1 ∧ y.ls = x.ls ∧ t.mem = s.mem) := by
  have hs := liveOf_running h.2.2.1
  have hone := fsBegun_oneWork .fetch d (liveOf_stnOf s n x h.2.2.1) hw
  have hd : nth [] (fsStn n .fetch d x s).descs x.next = d := nth_of_getElem? h.2.2.2.1
  have hf := fsXfer_fsStn (s := s) (n := n) (d := d) (.inl rfl) hx
  obtain ⟨hf1, hf2, hdr, hdc⟩ := descReady_fsDims h (.inl rfl)
  rw [fetch_eq h hw]
  refine ⟨fun h0 => ?_, fun hr hc => ?_⟩
  · obtain ⟨hlast, hm⟩ := fetchStep_done hone hs hf rfl (by rw [hd, h0]; exact Nat.zero_le _) 39
    refine ⟨_, _, rfl, hlast.begun rfl rfl rfl rfl rfl, ?_, hm⟩
    exact dropFs_fsStn (.inl rfl) hx
  · obtain ⟨p, hp, hst, hloc, hlen⟩ := fetchPieces_first s x hr (fsRowBytes_pos hf1 hf2 hc)
    have hready : fetchReady d (fsNew n .fetch d x s) 0 = false := fetchReady_first hp hst hloc hlen hf1 hf2 hr hc hdr hdc
    obtain ⟨hlast, hframe⟩ := fetchStep_waits hone hs hf rfl (by rw [hd]; exact Nat.not_le.2 (fsTiles_pos hr hc hdr hdc)) (by rw [hd]; exact hready) 39
    refine ⟨_, _, fsNew n .fetch d x s, rfl, hlast.begun rfl rfl rfl rfl rfl, rfl, rfl, rfl, rfl, rfl, List.ne_nil_of_mem hp, fetchPieces_fresh s x d, fun e he => ?_, ?_, rfl, ?_⟩
    · show (((streamsOf s x.launch)[fsStream d]?).map (fun e => 16 * n + e.srcPort)).getD 0 = _
      rw [he]
      rfl
    · exact (congrArg (fun t : State => t.sch.xseq) hframe :)
    · exact (congrArg State.mem hframe :)

/-- STORE on a station with nothing in progress (R273). -/
theorem store_runs (s : State) (n : Nat) (x : Stn) (d : List Byte) (h : DescReady s n 0x51 x d) (hw : x.works = []) (hx : fsXfer x x.next = none) :
    (fsTiles d = 0 → ∃ t y, exec (.store n) s = .next t ∧ Begun t n x.next x y .fin ∧ y.xfers = x.xfers ∧ t.mem = s.mem) ∧
    (fsTiles d ≠ 0 → bufOf s x (fsStream d) = [] → ∃ t y f, exec (.store n) s = .next t ∧ Begun t n x.next x y .run ∧ y.xfers = x.xfers ++ [f] ∧ f.id = s.sch.xseq ∧
      f.kind = .store ∧ f.desc = x.next ∧ f.grp = none ∧ f.pieces = [] ∧ (∀ e, (streamsOf s x.launch)[fsStream d]? = some e → f.eng = 16 * n + e.sinkPort) ∧
      t.sch.xseq = s.sch.xseq + 1 ∧ y.ls = x.ls ∧ t.mem = s.mem) := by
  have hs := liveOf_running h.2.2.1
  have hone := fsBegun_oneWork .store d (liveOf_stnOf s n x h.2.2.1) hw
  have hd : nth [] (fsStn n .store d x s).descs x.next = d := nth_of_getElem? h.2.2.2.1
  have hf := fsXfer_fsStn (s := s) (n := n) (d := d) (.inr rfl) hx
  rw [store_eq h hw]
  refine ⟨fun h0 => ?_, fun h0 hb => ?_⟩
  · rw [storeStep_done hone hs hf rfl (by rw [hd, h0]; exact Nat.zero_le _)]
    refine ⟨_, _, rfl, ((hone.setStn (y := fsGone (fsNew n .store d x s) (fsStn n .store d x s)) rfl).set _).begun rfl rfl rfl rfl rfl, ?_, rfl⟩
    exact dropFs_fsStn (.inr rfl) hx
  · rw [storeStep_waits hone hs hf (by rw [hd]; show ¬ fsTiles d ≤ 0; omega) (by rw [hd]; exact hb)]
    refine ⟨_, _, fsNew n .store d x s, rfl, hone.begun rfl rfl rfl rfl rfl, rfl, rfl, rfl, rfl, rfl, rfl, fun e he => ?_, rfl, rfl, rfl⟩
    show (((streamsOf s x.launch)[fsStream d]?).map (fun e => 16 * n + e.sinkPort)).getD 0 = _
    rw [he]
    rfl

/-- Settles O46: flits and credits move one place, and each tile descriptor is followed from its start to where its station stops. -/
theorem streamsAndTileDescriptors : Obligations.StreamsAndTileDescriptors := by
  refine ⟨fun s k i st m x e p h f hup hi hx he hp hf => ?_, fun s k i st x e hup hi hx he => ?_, fun s n x d st => recv_runs s n x d st,
    fun s n x d st i0 fl c => send_runs s n x d st i0 fl c, fun s n x d => fetch_runs s n x d, fun s n x d => store_runs s n x d⟩
  · obtain ⟨h1, h2⟩ := flitArrival_takes s k i st m x e p h f hup hi hx he hp hf
    refine ⟨h1, fun ha hm => ⟨(h2 ha hm).1, fun hle => ⟨_, instOf_setInst_same hx (flitTaken p st f), rfl, ((h2 ha hm).2 hle).trans ?_⟩⟩⟩
    unfold pumpCell
    cases stnAtCell s k i e.sinkCell <;> rfl
  · have hrun : exec (.creditReturn k i st) s = .next (creditReturnS k i st s) := ifRun_ready hup hi
    rw [hrun, creditReturn_eq hx he]
    refine ⟨fun h0 => congrArg _ (if_pos h0), fun h0 => ⟨_, _, instOf_setInst_same hx (creditTaken st), ?_, ?_, rfl, rfl, fun j hj => ⟨?_, ?_⟩, rfl, ?_⟩⟩
    · unfold creditTaken
      dsimp only
      rw [tget_tset, if_pos rfl]
    · unfold creditTaken
      dsimp only
      rw [tget_tset, if_pos rfl]
    · unfold creditTaken
      dsimp only
      rw [tget_tset, if_neg (Ne.symm hj)]
    · unfold creditTaken
      dsimp only
      rw [tget_tset, if_neg (Ne.symm hj)]
    · rw [if_neg h0]
      unfold pumpCell
      cases stnAtCell s k i e.srcCell <;> rfl

end Sys2Proof.Machine
end

section
/-! PROOF. Answers of a home at the agents that asked (R301-R323, R588). -/

namespace Sys2Proof.Machine

/-! ### Pieces after a change -/

theorem pieceOf_iff {x : Stn} {xid j : Nat} {f : Xfer} {p : XPiece} :
    pieceOf x xid j = some (f, p) ↔ x.xfers.find? (fun f => decide (f.id = xid)) = some f ∧ f.pieces[j]? = some p := by
  unfold pieceOf
  cases x.xfers.find? (fun f => decide (f.id = xid)) with
  | none => simp
  | some g =>
    simp only [Option.map_eq_some_iff, Prod.mk.injEq, Option.some.injEq]
    constructor
    · rintro ⟨a, h1, rfl, rfl⟩
      exact ⟨rfl, h1⟩
    · rintro ⟨rfl, h⟩
      exact ⟨p, h, rfl, rfl⟩

/-- A piece where it is set to stand. -/
def pieceSet (k st : Nat) (f : Xfer) : Xfer :=
  { f with pieces := f.pieces.zipIdx.map (fun e => if e.2 = k then { e.1 with st := st } else e.1) }

/-- A station with piece `k` of transfer `xid` set to stand at `st`. -/
def stnSet (xid k st : Nat) (x : Stn) : Stn := { x with xfers := x.xfers.map (fun f => if f.id = xid then pieceSet k st f else f) }

theorem setPiece_eq (n xid k st : Nat) (s : State) : setPiece n xid k st s = setStn n (stnSet xid k st) s := rfl

theorem find?_map_id (l : List Xfer) (xid : Nat) (g : Xfer → Xfer) (hg : ∀ f, (g f).id = f.id) :
    (l.map (fun f => if f.id = xid then g f else f)).find? (fun f => decide (f.id = xid)) =
      (l.find? (fun f => decide (f.id = xid))).map g := by
  induction l with
  | nil => rfl
  | cons a r ih =>
    by_cases e : a.id = xid
    · simp [e, hg]
    · simp [e, ih]

theorem pieceOf_stnSet {x : Stn} {xid j k st : Nat} {f : Xfer} {p : XPiece} (h : pieceOf x xid j = some (f, p)) :
    pieceOf (stnSet xid k st x) xid j = some (pieceSet k st f, if j = k then { p with st := st } else p) := by
  obtain ⟨hf, hp⟩ := pieceOf_iff.1 h
  refine pieceOf_iff.2 ⟨?_, ?_⟩
  · refine (find?_map_id x.xfers xid (pieceSet k st) fun _ => rfl).trans ?_
    rw [hf, Option.map_some]
  · simp [pieceSet, hp]

theorem pieceOf_stnSet_other {x : Stn} {xid xid' j k st : Nat} {f : Xfer} {p : XPiece} (hne : xid' ≠ xid) (h : pieceOf x xid j = some (f, p)) :
    pieceOf (stnSet xid' k st x) xid j = some (f, p) := by
  obtain ⟨hf, hp⟩ := pieceOf_iff.1 h
  refine pieceOf_iff.2 ⟨?_, hp⟩
  have hg : ∀ (l : List Xfer), (l.map (fun f => if f.id = xid' then pieceSet k st f else f)).find? (fun f => decide (f.id = xid)) = l.find? (fun f => decide (f.id = xid)) := by
    intro l
    induction l with
    | nil => rfl
    | cons a r ih =>
      by_cases e : a.id = xid'
      · have hne' : ¬ xid' = xid := hne
        rw [List.map_cons, if_pos e, List.find?_cons_of_neg (by simp [pieceSet, e, hne']), ih, List.find?_cons_of_neg (by simp [e, hne'])]
      · rw [List.map_cons, if_neg e, List.find?_cons, List.find?_cons, ih]
  exact (hg x.xfers).trans hf

/-- The indices of the pieces that one request serves are pieces of the transfer. -/
theorem mem_servedBy {f : Xfer} {p : XPiece} {i : Nat} (h : i ∈ servedBy f p) : ∃ q, f.pieces[i]? = some q := by
  unfold servedBy at h
  obtain ⟨e, he, rfl⟩ := List.mem_map.1 h
  exact ⟨e.1, List.mem_zipIdx_iff_getElem?.1 (List.mem_filter.1 he).1⟩

/-- From record `x` to `y` local bytes have changed and pieces have been finished, and nothing else. -/
def PiecesKept (x y : Stn) : Prop :=
  y = { x with ls := y.ls, xfers := y.xfers } ∧
  ∀ xid j f p, pieceOf x xid j = some (f, p) → ∃ g q, pieceOf y xid j = some (g, q) ∧ q = { p with st := q.st } ∧ (q.st = p.st ∨ q.st = 2)

theorem PiecesKept.refl (x : Stn) : PiecesKept x x := ⟨rfl, fun _ _ f p h => ⟨f, p, h, rfl, .inl rfl⟩⟩

theorem PiecesKept.trans {x y z : Stn} (h : PiecesKept x y) (k : PiecesKept y z) : PiecesKept x z := by
  refine ⟨by rw [k.1, h.1], fun xid j f p hp => ?_⟩
  obtain ⟨g, q, hq, hqe, hqs⟩ := h.2 xid j f p hp
  obtain ⟨g', r, hr, hre, hrs⟩ := k.2 xid j g q hq
  refine ⟨g', r, hr, by rw [hre, hqe], ?_⟩
  rcases hrs with h | h
  · exact hqs.imp (h.trans ·) (h.trans ·)
  · exact .inr h

theorem PiecesKept.done {x y : Stn} (h : PiecesKept x y) {xid j : Nat} {f : Xfer} {p : XPiece} (hp : pieceOf x xid j = some (f, p)) (h2 : p.st = 2) :
    ∃ g q, pieceOf y xid j = some (g, q) ∧ q.st = 2 := by
  obtain ⟨g, q, hq, -, hqs⟩ := h.2 xid j f p hp
  exact ⟨g, q, hq, hqs.elim (·.trans h2) id⟩

theorem stnSet_kept (xid k : Nat) (x : Stn) : PiecesKept x (stnSet xid k 2 x) := by
  refine ⟨rfl, fun id j f p h => ?_⟩
  by_cases e : xid = id
  · subst e
    refine ⟨_, _, pieceOf_stnSet h, ?_⟩
    split
    · exact ⟨rfl, .inr rfl⟩
    · exact ⟨rfl, .inl rfl⟩
  · exact ⟨f, p, pieceOf_stnSet_other e h, rfl, .inl rfl⟩

theorem lsPut_kept (o : Nat) (bs : List Byte) (x : Stn) : PiecesKept x (lsPut o bs x) := ⟨rfl, fun _ _ f p h => ⟨f, p, h, rfl, .inl rfl⟩⟩

/-- From `s` to `t` only records of stations have changed. -/
def StnsOnly (s t : State) : Prop := t = { s with sch := { s.sch with stns := t.sch.stns } }

theorem StnsOnly.trans {s t u : State} (h : StnsOnly s t) (k : StnsOnly t u) : StnsOnly s u := by
  unfold StnsOnly at *
  rw [k, h]

theorem StnsOnly.home {s t : State} (h : StnsOnly s t) : t.home = s.home := by rw [h]

theorem StnsOnly.mem {s t : State} (h : StnsOnly s t) : t.mem = s.mem := by rw [h]

theorem setStn_stnsOnly (n : Nat) (f : Stn → Stn) (s : State) : StnsOnly s (setStn n f s) := rfl

/-- From `s` to `t` local bytes of station `n` have changed and pieces of it have been finished, and nothing else. -/
def PiecesOnly (n : Nat) (s t : State) : Prop :=
  StnsOnly s t ∧ ∀ x, stnOf s n = some x → ∃ y, stnOf t n = some y ∧ PiecesKept x y

theorem PiecesOnly.refl (n : Nat) (s : State) : PiecesOnly n s s := ⟨rfl, fun x h => ⟨x, h, .refl x⟩⟩

theorem PiecesOnly.trans {n : Nat} {s t u : State} (h : PiecesOnly n s t) (k : PiecesOnly n t u) : PiecesOnly n s u := by
  refine ⟨h.1.trans k.1, fun x hx => ?_⟩
  obtain ⟨y, hy, hxy⟩ := h.2 x hx
  obtain ⟨z, hz, hyz⟩ := k.2 y hy
  exact ⟨z, hz, hxy.trans hyz⟩

theorem PiecesOnly.foldl {α : Type} {n : Nat} {f : State → α → State} (h : ∀ s a, PiecesOnly n s (f s a)) (l : List α) (s : State) :
    PiecesOnly n s (l.foldl f s) := by
  induction l generalizing s with
  | nil => exact .refl n s
  | cons a r ih => exact (h s a).trans (ih _)

theorem setStn_pieces (n : Nat) {f : Stn → Stn} (h : ∀ x, PiecesKept x (f x)) (s : State) : PiecesOnly n s (setStn n f s) :=
  ⟨rfl, fun x hx => ⟨f x, stnOf_setStn_same hx f, h x⟩⟩

theorem PiecesOnly.at {n : Nat} {s t : State} (h : PiecesOnly n s t) {xid j : Nat} (hp : PieceAt s n xid j 2) : PieceAt t n xid j 2 := by
  obtain ⟨x, f, p, hx, hp, h2⟩ := hp
  obtain ⟨y, hy, hk⟩ := h.2 x hx
  obtain ⟨g, q, hq, hq2⟩ := hk.done hp h2
  exact ⟨y, g, q, hy, hq, hq2⟩

/-- Piece `j` of transfer `xid` of station `n` is there. -/
def HasPiece (s : State) (n xid j : Nat) : Prop := ∃ x, stnOf s n = some x ∧ (pieceOf x xid j).isSome

theorem PiecesOnly.has {n : Nat} {s t : State} (h : PiecesOnly n s t) {xid j : Nat} (hp : HasPiece s n xid j) : HasPiece t n xid j := by
  obtain ⟨x, hx, hp⟩ := hp
  obtain ⟨⟨f, p⟩, hp⟩ := Option.isSome_iff_exists.1 hp
  obtain ⟨y, hy, hk⟩ := h.2 x hx
  obtain ⟨g, q, hq, -⟩ := hk.2 xid j f p hp
  exact ⟨y, hy, by rw [hq]; rfl⟩

theorem setPiece_pieces (n xid k : Nat) (s : State) : PiecesOnly n s (setPiece n xid k 2 s) := setStn_pieces n (stnSet_kept xid k) s

theorem setPiece_at {n xid k : Nat} {s : State} (h : HasPiece s n xid k) : PieceAt (setPiece n xid k 2 s) n xid k 2 := by
  obtain ⟨x, hx, hp⟩ := h
  obtain ⟨⟨f, p⟩, hp⟩ := Option.isSome_iff_exists.1 hp
  refine ⟨_, _, _, stnOf_setStn_same hx _, pieceOf_stnSet hp, ?_⟩
  rw [if_pos rfl]

theorem servePiece_pieces (n xid k : Nat) (p : XPiece) (bs : List Byte) (s : State) : PiecesOnly n s (servePiece n xid k p bs s) :=
  (setStn_pieces n (lsPut_kept p.loc bs) s).trans (setPiece_pieces n xid k _)

/-- One piece served from its line. -/
def serveOne (n xid : Nat) (line : List Byte) (s : State) (k : Nat) : State := serveLinePieces n xid [k] line s

theorem serveOne_eq {n xid k : Nat} {line : List Byte} {s : State} {x : Stn} {f : Xfer} {p : XPiece} (hx : stnOf s n = some x) (hp : pieceOf x xid k = some (f, p)) :
    serveOne n xid line s k = servePiece n xid k p ((line.drop (p.addr % 128)).take p.len) s := by
  unfold serveOne serveLinePieces
  rw [List.foldl_cons, List.foldl_nil, hx, Option.bind_some, hp]

theorem serveLinePieces_eq (n xid : Nat) (l : List Nat) (line : List Byte) (s : State) : serveLinePieces n xid l line s = l.foldl (serveOne n xid line) s := rfl

theorem serveOne_pieces (n xid : Nat) (line : List Byte) (s : State) (k : Nat) : PiecesOnly n s (serveOne n xid line s k) := by
  unfold serveOne serveLinePieces
  rw [List.foldl_cons, List.foldl_nil]
  split
  · exact servePiece_pieces ..
  · exact .refl ..

theorem serveOne_at {n xid k : Nat} (line : List Byte) {s : State} (h : HasPiece s n xid k) : PieceAt (serveOne n xid line s k) n xid k 2 := by
  obtain ⟨x, hx, hp⟩ := h
  obtain ⟨⟨f, p⟩, hp⟩ := Option.isSome_iff_exists.1 hp
  rw [serveOne_eq hx hp]
  exact setPiece_at ⟨_, stnOf_setStn_same hx _, by rw [show pieceOf (lsPut p.loc _ x) xid k = _ from hp]; rfl⟩

/-- Pieces finished one by one are all finished in the end. -/
theorem foldl_at {α : Type} {n : Nat} {step : State → α → State} {key : α → Nat × Nat} (hk : ∀ s a, PiecesOnly n s (step s a))
    (ha : ∀ s a, HasPiece s n (key a).1 (key a).2 → PieceAt (step s a) n (key a).1 (key a).2 2) (l : List α) {s : State}
    (hp : ∀ a ∈ l, HasPiece s n (key a).1 (key a).2) : ∀ a ∈ l, PieceAt (l.foldl step s) n (key a).1 (key a).2 2 := by
  induction l generalizing s with
  | nil => intro a h; cases h
  | cons b r ih =>
    have hr := ih (s := step s b) fun a h => (hk s b).has (hp a (List.mem_cons_of_mem _ h))
    intro a h
    rcases List.mem_cons.1 h with rfl | h
    · exact (PiecesOnly.foldl hk r _).at (ha s a (hp a List.mem_cons_self))
    · exact hr a h

theorem serveLinePieces_pieces (n xid : Nat) (l : List Nat) (line : List Byte) (s : State) : PiecesOnly n s (serveLinePieces n xid l line s) :=
  .foldl (serveOne_pieces n xid line) l s

theorem serveLinePieces_at {n xid : Nat} {l : List Nat} (line : List Byte) {s : State} (h : ∀ j ∈ l, HasPiece s n xid j) :
    ∀ j ∈ l, PieceAt (serveLinePieces n xid l line s) n xid j 2 :=
  foldl_at (key := fun j => (xid, j)) (serveOne_pieces n xid line) (fun _ _ => serveOne_at line) l h

theorem setPieces_pieces (n xid : Nat) (l : List Nat) (s : State) : PiecesOnly n s (setPieces n xid l 2 s) :=
  .foldl (fun s k => setPiece_pieces n xid k s) l s

theorem setPieces_at {n xid : Nat} {l : List Nat} {s : State} (h : ∀ j ∈ l, HasPiece s n xid j) : ∀ j ∈ l, PieceAt (setPieces n xid l 2 s) n xid j 2 :=
  foldl_at (key := fun j => (xid, j)) (fun s k => setPiece_pieces n xid k s) (fun _ _ => setPiece_at) l h

theorem setPieces_ls {n xid : Nat} (l : List Nat) {s : State} {x : Stn} (hx : stnOf s n = some x) :
    ∃ y, stnOf (setPieces n xid l 2 s) n = some y ∧ y.ls = x.ls := by
  unfold setPieces
  induction l generalizing s x with
  | nil => exact ⟨x, hx, rfl⟩
  | cons k r ih =>
    obtain ⟨y, hy, hl⟩ := ih (x := stnSet xid k 2 x) (stnOf_setStn_same hx _)
    exact ⟨y, hy, hl⟩

/-! ### FILL -/

section
variable {s : State} {k n xid j c l : Nat} {data : List Byte} {poison : Bool} {r : Req} {x : Stn} {f : Xfer} {p : XPiece}

theorem fillMsg_exec (hup : s.pwr.phase = .ready) (hm : s.home.net[k]? = some (.fill c l data poison [r])) :
    exec (.fill k) s = .next (fillOne data poison r (takeMsg k s)) := by
  refine (ifUp_ready hup).trans (congrArg _ ?_)
  unfold fillMsgS
  rw [hm]
  rfl

theorem hasPiece_of (hx : stnOf s n = some x) (hp : pieceOf x xid j = some (f, p)) : HasPiece s n xid j := ⟨x, hx, by rw [hp]; rfl⟩

theorem hasPiece_served (hx : stnOf s n = some x) (hp : pieceOf x xid j = some (f, p)) : ∀ i ∈ servedBy f p, HasPiece s n xid i := by
  intro i hi
  obtain ⟨q, hq⟩ := mem_servedBy hi
  exact hasPiece_of hx (pieceOf_iff.2 ⟨(pieceOf_iff.1 hp).1, hq⟩)

theorem fillXfer_poison (hx : stnOf s n = some x) (hp : pieceOf x xid j = some (f, p)) (hs : servedBy f p = [j]) :
    fillXfer n xid j data true s = poisonedRead n x f p j s := by
  have hq := (pieceOf_iff.1 hp).2
  unfold fillXfer
  rw [hx, Option.bind_some, hp]
  simp [hs, hq]

theorem fillXfer_data (hx : stnOf s n = some x) (hp : pieceOf x xid j = some (f, p)) :
    fillXfer n xid j data false s = pump n (serveLinePieces n xid (servedBy f p) data s) := by
  unfold fillXfer
  rw [hx, Option.bind_some, hp]
  rfl

theorem serveOne_ls (hx : stnOf s n = some x) (hp : pieceOf x xid j = some (f, p)) (ha : p.addr % 128 + p.len ≤ 128) (hd : data.length = 128) :
    ∃ y, stnOf (serveOne n xid data s j) n = some y ∧ (∀ i < p.len, tget 0 y.ls (p.loc + i) = nth 0 data (p.addr % 128 + i)) ∧
      ∀ a, (a < p.loc ∨ p.loc + p.len ≤ a) → tget 0 y.ls a = tget 0 x.ls a := by
  have hlen : ((data.drop (p.addr % 128)).take p.len).length = p.len := by
    rw [List.length_take, List.length_drop]
    omega
  refine ⟨stnSet xid j 2 (lsPut p.loc ((data.drop (p.addr % 128)).take p.len) x), ?_, fun i hi => ?_, fun a ha => ?_⟩
  · rw [serveOne_eq hx hp]
    exact stnOf_setStn_same (stnOf_setStn_same hx _) _
  · refine (lsPut_ls ..).trans ?_
    rw [if_pos ⟨Nat.le_add_right .., by omega⟩, Nat.add_sub_cancel_left]
    exact nth_take_drop _ _ _ hi
  · refine (lsPut_ls ..).trans (if_neg ?_)
    omega

/-- A read that waits for a station cache's line is served, or stalls on its poison. -/
def cacheRead (n : Nat) (data : List Byte) (poison : Bool) (s : State) (w : Req) : State :=
  match w.who with
  | .xfer _ xid k =>
    (match (stnOf s n).bind (fun x => pieceOf x xid k) with
     | some (f, p) => if poison then pieceFault n f p k 5 s else serveLinePieces n xid [k] data s
     | none => s)
  | _ => s

theorem fillCache_eq {key : Nat} {ws : List Req} {inval : Bool} (hx : stnOf s n = some x) (hp : pendOf x key = some (ws, inval)) :
    fillCache n key data poison s = pump n (if poison || inval then ws.foldl (cacheRead n data poison) (setStn n (dropPend key) s)
      else setStn n (cacheInstall key data) (ws.foldl (cacheRead n data poison) (setStn n (dropPend key) s))) := by
  unfold fillCache
  rw [hx, Option.bind_some, hp]
  rfl

theorem cacheRead_poison {w : Req} {m : Nat} (hw : w.who = .xfer m xid j) (hx : stnOf s n = some x) (hp : pieceOf x xid j = some (f, p)) :
    cacheRead n data true s w = pieceFault n f p j 5 s := by
  unfold cacheRead
  rw [hw]
  dsimp only
  rw [hx, Option.bind_some, hp]
  rfl

theorem cacheRead_data {w : Req} {m : Nat} (hw : w.who = .xfer m xid j) (h : HasPiece s n xid j) :
    cacheRead n data false s w = serveOne n xid data s j := by
  obtain ⟨x, hx, hp⟩ := h
  obtain ⟨⟨f, p⟩, hp⟩ := Option.isSome_iff_exists.1 hp
  unfold cacheRead
  rw [hw]
  dsimp only
  rw [hx, Option.bind_some, hp]
  rfl

theorem cacheRead_pieces (w : Req) (s : State) : PiecesOnly n s (cacheRead n data false s w) := by
  unfold cacheRead
  split
  · split
    · exact serveLinePieces_pieces ..
    · exact .refl ..
  · exact .refl ..

/-- Reads that wait for a station cache's line are all finished once it has come. -/
theorem foldl_cacheRead_at {ws : List Req} (hw : ∀ w ∈ ws, ∃ xid j, w.who = .xfer n xid j ∧ HasPiece s n xid j) :
    ∀ w ∈ ws, ∀ xid j, w.who = .xfer n xid j → PieceAt (ws.foldl (cacheRead n data false) s) n xid j 2 := by
  induction ws generalizing s with
  | nil => intro w h; cases h
  | cons v r ih =>
    have hv := cacheRead_pieces (data := data) (n := n) v s
    intro w h xid j hwho
    rcases List.mem_cons.1 h with rfl | h
    · obtain ⟨xid', j', hwho', hhas⟩ := hw w List.mem_cons_self
      rw [hwho] at hwho'
      cases hwho'
      rw [List.foldl_cons]
      refine (PiecesOnly.foldl (fun s w => cacheRead_pieces w s) r _).at ?_
      rw [cacheRead_data hwho hhas]
      exact serveOne_at data hhas
    · refine ih (fun w h => ?_) w h xid j hwho
      obtain ⟨xid, j, h1, h2⟩ := hw w (List.mem_cons_of_mem _ h)
      exact ⟨xid, j, h1, hv.has h2⟩

end

theorem cacheInstall_kept (key : Nat) (data : List Byte) (x : Stn) :
    (cacheInstall key data x).pend = x.pend ∧ (cacheInstall key data x).xfers = x.xfers ∧
      (8 ≤ cacheLines x.kind x.split → (cacheInstall key data x).cache.head? = some (key, data)) := by
  unfold cacheInstall
  dsimp only
  split
  · next h => exact ⟨rfl, rfl, fun h8 => by omega⟩
  · exact ⟨rfl, rfl, fun _ => rfl⟩

theorem PieceAt.of_xfers {s t : State} {n xid j st : Nat} {x y : Stn} (h : PieceAt s n xid j st) (hx : stnOf s n = some x) (hy : stnOf t n = some y)
    (he : y.xfers = x.xfers) : PieceAt t n xid j st := by
  obtain ⟨x', f, p, hx', hp, h2⟩ := h
  obtain rfl : x' = x := Option.some.inj (hx'.symm.trans hx)
  refine ⟨y, f, p, hy, ?_, h2⟩
  unfold pieceOf at *
  rw [he]
  exact hp

/-- A FILL without poison at a station cache (R303, R307). -/
theorem fillCache_data {s : State} {n key : Nat} {x : Stn} {ws : List Req} {inval : Bool} (data : List Byte) (hx : stnOf s n = some x)
    (hp : pendOf x key = some (ws, inval)) (hw : ∀ w ∈ ws, ∃ xid j, w.who = .xfer n xid j ∧ (pieceOf x xid j).isSome = true) :
    ∃ b y, fillCache n key data false s = pump n b ∧ stnOf b n = some y ∧ y.pend = (dropPend key x).pend ∧ (inval = true → y.cache = x.cache) ∧
      (inval = false → 8 ≤ cacheLines x.kind x.split → y.cache.head? = some (key, data)) ∧
      (∀ w ∈ ws, ∀ xid j, w.who = .xfer n xid j → PieceAt b n xid j 2) ∧ StnsOnly s b := by
  have hx1 : stnOf (setStn n (dropPend key) s) n = some (dropPend key x) := stnOf_setStn_same hx _
  have hall : PiecesOnly n (setStn n (dropPend key) s) (ws.foldl (cacheRead n data false) (setStn n (dropPend key) s)) :=
    .foldl (fun s w => cacheRead_pieces w s) ws _
  obtain ⟨y, hy, hk, -⟩ := hall.2 _ hx1
  have hat := foldl_cacheRead_at (s := setStn n (dropPend key) s) (n := n) (data := data) (ws := ws) fun w h => by
    obtain ⟨xid, j, h1, h2⟩ := hw w h
    exact ⟨xid, j, h1, _, hx1, h2⟩
  have hframe := (setStn_stnsOnly n (dropPend key) s).trans hall.1
  rw [fillCache_eq hx hp, Bool.false_or]
  cases inval with
  | true =>
    refine ⟨_, y, by rw [if_pos rfl], hy, ?_, fun _ => ?_, nofun, hat, hframe⟩
    · rw [hk]
    · rw [hk]
      rfl
  | false =>
    obtain ⟨h1, h2, h3⟩ := cacheInstall_kept key data y
    have hy2 := stnOf_setStn_same hy (cacheInstall key data)
    refine ⟨_, _, by rw [if_neg (by simp)], hy2, ?_, nofun, fun _ h8 => ?_, fun w hm xid j hwho => (hat w hm xid j hwho).of_xfers hy hy2 h2, ?_⟩
    · rw [h1, hk]
    · refine h3 ?_
      rw [hk]
      exact h8
    · exact hframe.trans (setStn_stnsOnly ..)

theorem placeRo_takeMsg (s : State) (k : Nat) (x : Stn) (a : Nat) : placeRo (takeMsg k s) x a = placeRo s x a := rfl

theorem takeMsg_stnsOnly {s b : State} {k : Nat} (h : StnsOnly (takeMsg k s) b) : b.home = { s.home with net := s.home.net.eraseIdx k } ∧ b.mem = s.mem :=
  ⟨h.home, h.mem⟩

/-- FILL at each of its requesters. -/
theorem fill_answers (s : State) (k c l : Nat) (data : List Byte) (poison : Bool) (r : Req) (hup : s.pwr.phase = .ready) (hm : s.home.net[k]? = some (.fill c l data poison [r])) :
    (r.who ∈ [.bar4, .core 48, .core 49] → exec (.fill k) s = .next (takeMsg k s)) ∧
      (∀ w src tag, r.who = .rbx w src tag → exec (.fill k) s = .next (pumpRbx (inbAnswer r (if poison then 7 else 0) data (takeMsg k s)))) ∧
      (∀ n xid j x f p, r.who = .xfer n xid j → stnOf s n = some x → pieceOf x xid j = some (f, p) →
        (poison = true → servedBy f p = [j] → f.id = xid → exec (.fill k) s = .next (if placeRo s x p.addr then pieceFault n f p j 5 (takeMsg k s)
          else agentFault (.xfer n xid j) 0x3A 0 (takeMsg k s))) ∧
        (poison = false → ∃ b y, exec (.fill k) s = .next (pump n b) ∧ stnOf b n = some y ∧ (∀ i ∈ servedBy f p, PieceAt b n xid i 2) ∧
          b.home = { s.home with net := s.home.net.eraseIdx k } ∧ b.mem = s.mem ∧
          (servedBy f p = [j] → p.addr % 128 + p.len ≤ 128 → data.length = 128 → (∀ i < p.len, tget 0 y.ls (p.loc + i) = nth 0 data (p.addr % 128 + i)) ∧
            ∀ a, (a < p.loc ∨ p.loc + p.len ≤ a) → tget 0 y.ls a = tget 0 x.ls a))) ∧
      (∀ n m, r.who = .missReg n m → exec (.fill k) s = .next (serveMiss n m data poison (takeMsg k s))) ∧
      (∀ n x ws inval, r.who = .cache n → stnOf s n = some x → pendOf x (lkey r.stack r.line) = some (ws, inval) →
        (∀ w xid j f p, poison = true → ws = [w] → w.who = .xfer n xid j → pieceOf x xid j = some (f, p) →
          exec (.fill k) s = .next (pump n (pieceFault n f p j 5 (setStn n (dropPend (lkey r.stack r.line)) (takeMsg k s))))) ∧
        (poison = false → (∀ w ∈ ws, ∃ xid j, w.who = .xfer n xid j ∧ (pieceOf x xid j).isSome = true) →
          ∃ b y, exec (.fill k) s = .next (pump n b) ∧ stnOf b n = some y ∧ y.pend = (dropPend (lkey r.stack r.line) x).pend ∧ (inval = true → y.cache = x.cache) ∧
            (inval = false → 8 ≤ cacheLines x.kind x.split → y.cache.head? = some (lkey r.stack r.line, data)) ∧
            (∀ w ∈ ws, ∀ xid j, w.who = .xfer n xid j → PieceAt b n xid j 2) ∧ b.home = { s.home with net := s.home.net.eraseIdx k } ∧ b.mem = s.mem)) := by
  rw [fillMsg_exec hup hm]
  refine ⟨fun h => ?_, fun w src tag h => ?_, fun n xid j x f p h hx hp => ⟨fun hpo hs hid => ?_, fun hpo => ?_⟩, fun n m h => ?_,
    fun n x ws inval h hx hp => ⟨fun w xid j f p hpo hws hw hq => ?_, fun hpo hw => ?_⟩⟩
  · simp only [List.mem_cons, List.not_mem_nil, or_false] at h
    unfold fillOne
    rcases h with h | h | h <;> rw [h]
  · unfold fillOne
    rw [h]
  · unfold fillOne
    rw [h, hpo]
    dsimp only
    have hx' : stnOf (takeMsg k s) n = some x := hx
    rw [fillXfer_poison hx' hp hs, ← hid]
    rfl
  · unfold fillOne
    rw [h, hpo]
    have hx' : stnOf (takeMsg k s) n = some x := hx
    have hk := serveLinePieces_pieces n xid (servedBy f p) data (takeMsg k s)
    obtain ⟨y, hy, -⟩ := hk.2 x hx'
    obtain ⟨hhome, hmem⟩ := takeMsg_stnsOnly hk.1
    refine ⟨_, y, congrArg _ (fillXfer_data hx' hp), hy, serveLinePieces_at data (hasPiece_served hx' hp), hhome, hmem, fun hs ha hd => ?_⟩
    obtain ⟨z, hz, h1⟩ := serveOne_ls hx' hp ha hd
    rw [hs] at hy
    obtain rfl : z = y := Option.some.inj (hz.symm.trans hy)
    exact h1
  · unfold fillOne
    rw [h]
  · have hx1 : stnOf (setStn n (dropPend (lkey r.stack r.line)) (takeMsg k s)) n = some (dropPend (lkey r.stack r.line) x) := stnOf_setStn_same hx _
    unfold fillOne
    rw [h, hpo]
    dsimp only
    have hx' : stnOf (takeMsg k s) n = some x := hx
    rw [fillCache_eq hx' hp, Bool.true_or, if_pos rfl, hws, List.foldl_cons, List.foldl_nil, cacheRead_poison hw hx1 hq]
  · unfold fillOne
    rw [h, hpo]
    obtain ⟨b, y, h1, h2, h3, h4, h5, h6, h7⟩ := fillCache_data (s := takeMsg k s) data hx hp hw
    obtain ⟨hhome, hmem⟩ := takeMsg_stnsOnly h7
    exact ⟨b, y, congrArg _ h1, h2, h3, h4, h5, h6, hhome, hmem⟩

/-! ### WR_ACK, RED_ACK and SEM_OK -/

section
variable {s : State} {k : Nat} {r : Req} {st : Nat} (hup : s.pwr.phase = .ready)
include hup

theorem wrAck_exec (hm : s.home.net[k]? = some (.wrAck r st)) :
    (r.who ∈ [.bar4, .core 48, .core 49] → exec (.wrAck k) s = .next (takeMsg k s)) ∧
    (∀ w src tag, r.who = .rbx w src tag → exec (.wrAck k) s = .next (pumpRbx (inbAnswer r (if st = 0 then 0 else 6) [] (takeMsg k s)))) ∧
    (∀ j, r.who = .piper j → exec (.wrAck k) s = .next (piperFlush j (takeMsg k s))) ∧
    (∀ q seq, r.who = .cmd q seq → exec (.wrAck k) s = .next (if st = 0 then markBound q seq (takeMsg k s) else finishCmd q seq st 0 (takeMsg k s))) ∧
    ∀ n xid j, r.who = .xfer n xid j → exec (.wrAck k) s = .next (if st = 0 then ackXfer n xid j (takeMsg k s) else agentFault (.xfer n xid j) st 0 (takeMsg k s)) := by
  have hrun : exec (.wrAck k) s = .next (wrAckS k s) := ifUp_ready hup
  rw [hrun]
  unfold wrAckS
  rw [hm]
  dsimp only
  refine ⟨fun h => ?_, fun w src tag h => ?_, fun j h => ?_, fun q seq h => ?_, fun n xid j h => ?_⟩
  · simp only [List.mem_cons, List.not_mem_nil, or_false] at h
    rcases h with h | h | h <;> rw [h]
  · rw [h]
    rfl
  · rw [h]
  · rw [h]
    rfl
  · rw [h]
    rfl

theorem redAck_exec (hm : s.home.net[k]? = some (.redAck r st)) :
    (r.who ∈ [.bar4, .core 48, .core 49] → exec (.redAck k) s = .next (takeMsg k s)) ∧
    (∀ w src tag, r.who = .rbx w src tag → exec (.redAck k) s = .next (pumpRbx (inbAnswer r (if st = 0 then 0 else 7) [] (takeMsg k s)))) ∧
    (∀ j, r.who = .piper j → exec (.redAck k) s = .next (piperFlush j (takeMsg k s))) ∧
    (∀ q seq, r.who = .cmd q seq → exec (.redAck k) s = .next (finishCmd q seq st 0 (takeMsg k s))) ∧
    (∀ n xid j, r.who = .xfer n xid j → exec (.redAck k) s = .next (if st = 0xB7 then agentFault (.xfer n xid j) 0xB7 0 (takeMsg k s) else ackXfer n xid j (takeMsg k s))) ∧
    ∀ n, r.who ∈ [Agent.sem n] ++ (List.range 64).map (Agent.semGrp n) →
      exec (.redAck k) s = .next (if semOwn s r then pump n (semDone r.who (takeMsg k s)) else takeMsg k s) := by
  have hrun : exec (.redAck k) s = .next (redAckS k s) := ifUp_ready hup
  rw [hrun]
  unfold redAckS
  rw [hm]
  dsimp only
  refine ⟨fun h => ?_, fun w src tag h => ?_, fun j h => ?_, fun q seq h => ?_, fun n xid j h => ?_, fun n h => ?_⟩
  · simp only [List.mem_cons, List.not_mem_nil, or_false] at h
    rcases h with h | h | h <;> rw [h]
  · rw [h]
    rfl
  · rw [h]
  · rw [h]
  · rw [h]
    rfl
  · simp only [List.mem_append, List.mem_cons, List.not_mem_nil, or_false, List.mem_map] at h
    obtain h | ⟨g, -, h⟩ := h
    · rw [h]
    · rw [← h]

theorem semOk_exec (hm : s.home.net[k]? = some (.semOk r st)) :
    (∀ q seq, r.who = .cmd q seq → exec (.semOk k) s = .next (finishCmd q seq st 0 (takeMsg k s))) ∧
    ∀ n, r.who ∈ [Agent.sem n] ++ (List.range 64).map (Agent.semGrp n) → exec (.semOk k) s = .next (if ¬ semOwn s r then takeMsg k s
      else if st = 0 then pump n (semDone r.who (takeMsg k s)) else agentFault r.who st 0 (takeMsg k s)) := by
  have hrun : exec (.semOk k) s = .next (semOkS k s) := ifUp_ready hup
  rw [hrun]
  unfold semOkS
  rw [hm]
  dsimp only
  refine ⟨fun q seq h => ?_, fun n h => ?_⟩
  · rw [h]
  · simp only [List.mem_append, List.mem_cons, List.not_mem_nil, or_false, List.mem_map] at h
    obtain h | ⟨g, -, h⟩ := h
    · rw [h]
      rfl
    · rw [← h]
      rfl

end

/-- What an acknowledged write or reduction of pieces does at its station. -/
theorem ackXfer_spec {s : State} {n xid j : Nat} {x : Stn} {f : Xfer} {q : XPiece} (hx : stnOf s n = some x) (hp : pieceOf x xid j = some (f, q)) :
    ∃ b y, ackXfer n xid j s = pump n b ∧ stnOf b n = some y ∧ StnsOnly s b ∧ y.ls = x.ls ∧
      (f.kind ≠ .semAdd → ∀ i ∈ servedBy f q, PieceAt b n xid i 2) ∧
      (f.kind = .semAdd → y.xfers = x.xfers.filter (fun g => !decide (g.id = xid ∧ g.kind = .semAdd))) := by
  unfold ackXfer
  rw [hx, Option.bind_some, hp]
  dsimp only
  by_cases hk : f.kind = .semAdd
  · rw [if_pos hk]
    exact ⟨_, _, rfl, stnOf_setStn_same hx _, rfl, rfl, fun h => absurd hk h, fun _ => rfl⟩
  · rw [if_neg hk]
    obtain ⟨y, hy, hls⟩ := setPieces_ls (xid := xid) (servedBy f q) hx
    exact ⟨_, y, rfl, hy, (setPieces_pieces ..).1, hls, fun _ => setPieces_at (hasPiece_served hx hp), fun h => absurd h hk⟩

/-- A semaphore access that is complete, at its station. -/
theorem semDone_spec {s : State} {n : Nat} {x : Stn} {a : Agent} (hx : stnOf s n = some x) (ha : a ∈ [Agent.sem n] ++ (List.range 64).map (Agent.semGrp n)) :
    ∃ y, stnOf (semDone a s) n = some y ∧ StnsOnly s (semDone a s) ∧ y.ls = x.ls ∧
      (∀ i w, a = .sem n → tget? x.works i = some w → tget? y.works i = some (if w.st = .wait ∧ dOp (nth [] x.descs i) ∈ [6, 7] then { w with st := .fin } else w)) ∧
      (∀ g z v, a = .semGrp n g → tget? x.groups g = some z → z.waiting = some (10, v) → tget? y.groups g = some { z with waiting := none, pc := z.pc + 8 }) := by
  simp only [List.mem_append, List.mem_cons, List.not_mem_nil, or_false, List.mem_map] at ha
  obtain rfl | ⟨g, -, rfl⟩ := ha
  · refine ⟨_, stnOf_setStn_same hx _, rfl, rfl, fun i w _ hw => ?_, nofun⟩
    dsimp only
    rw [tget?_tmap, hw, Option.map_some]
    simp only [List.mem_cons, List.not_mem_nil, or_false]
  · refine ⟨_, stnOf_setStn_same hx _, rfl, rfl, nofun, fun g' z v hg hz hv => ?_⟩
    cases hg
    dsimp only
    rw [tget?_tupd, if_pos rfl, hz, Option.map_some, hv]
    rfl

/-- Settles O52: each answer leaves the fabric, and does at its agent what the requests behind it wait for. -/
theorem homeAnswersReachTheirAgents : Obligations.HomeAnswersReachTheirAgents := by
  refine ⟨fun s k hup hm i hi => ?_, fun s k c l data poison r hup hm => fill_answers s k c l data poison r hup hm, fun s k r st hup p hp hm => ?_,
    fun s k r st n hup p hp hm => ?_, fun s k hup m i h hm => ?_⟩
  · simp only [List.mem_cons, List.not_mem_nil, or_false] at hi
    rcases hi with rfl | rfl | rfl | rfl | rfl | rfl
    · refine (ifUp_ready hup).trans (congrArg _ ?_)
      unfold fillMsgS
      rw [hm]
    · refine (ifUp_ready hup).trans (congrArg _ ?_)
      unfold wrAckS
      rw [hm]
    · refine (ifUp_ready hup).trans (congrArg _ ?_)
      unfold redAckS
      rw [hm]
    · refine (ifUp_ready hup).trans (congrArg _ ?_)
      unfold semOkS
      rw [hm]
    · refine (ifUp_ready hup).trans (congrArg _ ?_)
      unfold semRetryS
      rw [hm]
    · refine (ifUp_ready hup).trans (congrArg _ ?_)
      unfold retryS
      rw [hm]
  · simp only [List.mem_cons, List.not_mem_nil, or_false] at hp
    rcases hp with rfl | rfl
    · obtain ⟨h1, h2, h3, h4, h5⟩ := wrAck_exec hup hm
      refine ⟨h1, fun w src tag h => ?_, h3, fun q seq h => ?_, fun n xid j x f q h hx hq => ⟨fun hst => ?_, fun hst => ?_⟩⟩
      · rw [h2 w src tag h, if_pos rfl]
      · rw [h4 q seq h]
        simp only [true_and]
      · rw [h5 n xid j h, if_neg (by omega), hst]
      · obtain ⟨b, y, he, hy, hb, hls, hn, hs⟩ := ackXfer_spec (s := takeMsg k s) hx hq
        obtain ⟨hhome, hmem⟩ := takeMsg_stnsOnly hb
        refine ⟨b, y, ?_, hy, hhome, hmem, hls, hn, hs⟩
        rw [h5 n xid j h, if_pos hst, he]
    · obtain ⟨h1, h2, h3, h4, h5, -⟩ := redAck_exec hup hm
      refine ⟨h1, fun w src tag h => ?_, h3, fun q seq h => ?_, fun n xid j x f q h hx hq => ⟨fun hst => ?_, fun hst => ?_⟩⟩
      · rw [h2 w src tag h]
        simp
      · rw [h4 q seq h]
        simp
      · rw [h5 n xid j h, if_pos hst]
      · obtain ⟨b, y, he, hy, hb, hls, hn, hs⟩ := ackXfer_spec (s := takeMsg k s) hx hq
        obtain ⟨hhome, hmem⟩ := takeMsg_stnsOnly hb
        refine ⟨b, y, ?_, hy, hhome, hmem, hls, hn, hs⟩
        rw [h5 n xid j h, if_neg (by omega), he]
  · have hdone (x : Stn) (hx : stnOf s n = some x) (ha : r.who ∈ [Agent.sem n] ++ (List.range 64).map (Agent.semGrp n)) :=
      semDone_spec (s := takeMsg k s) hx ha
    simp only [List.mem_cons, List.not_mem_nil, or_false] at hp
    rcases hp with rfl | rfl
    · obtain ⟨-, -, -, h4, -, h6⟩ := redAck_exec hup hm
      refine ⟨h4, fun ha => ⟨fun ho => ?_, fun _ h => absurd h (by simp), fun x ho hst hx => ?_⟩⟩
      · rw [h6 n ha, ho]
        rfl
      · obtain ⟨y, hy, hb, hls, hw, hg⟩ := hdone x hx ha
        obtain ⟨hhome, hmem⟩ := takeMsg_stnsOnly hb
        refine ⟨_, y, ?_, hy, hhome, hmem, hls, hw, hg⟩
        rw [h6 n ha, ho, if_pos rfl]
    · obtain ⟨h1, h2⟩ := semOk_exec hup hm
      refine ⟨h1, fun ha => ⟨fun ho => ?_, fun ho _ hst => ?_, fun x ho hst hx => ?_⟩⟩
      · rw [h2 n ha, if_pos (by simp [ho])]
      · rw [h2 n ha, if_neg (by simp [ho]), if_neg hst]
      · obtain ⟨y, hy, hb, hls, hw, hg⟩ := hdone x hx ha
        obtain ⟨hhome, hmem⟩ := takeMsg_stnsOnly hb
        refine ⟨_, y, ?_, hy, hhome, hmem, hls, hw, hg⟩
        rw [h2 n ha, if_neg (by simp [ho]), if_pos hst]
  · obtain ⟨m', hm', he⟩ := List.mem_filterMap.1 hm
    have hk : s.home.net[k]? = some m' := Option.mem_toList.1 hm'
    split at he
    · cases he
      refine ⟨sendLater _ (takeMsg k s), (ifUp_ready hup).trans (congrArg _ ?_), rfl, rfl, rfl⟩
      unfold semRetryS
      rw [hk]
    · cases he
      refine ⟨sendLater _ (takeMsg k s), (ifUp_ready hup).trans (congrArg _ ?_), rfl, rfl, rfl⟩
      unfold retryS
      rw [hk]
    · cases he

end Sys2Proof.Machine
end

section
/-! PROOF. A write at a home that takes it (R260, R301, R303, R318). -/

namespace Sys2Proof.Machine

/-! ### Moves among the ways of a set -/

/-- From `s` to `t` the home of line `l` of stack `k` has moved ways, marks and counts about: no message has left, no line has changed
its state, its queue or its fill, and only the line itself may have taken a way of its set or begun to wait for one. -/
structure SetMoves (k l : Nat) (s t : State) : Prop where
  home : t = { s with home := t.home }
  net : t.home.net = s.home.net
  line : ∀ key, (hline t key).st = (hline s key).st ∧ (hline t key).held = (hline s key).held ∧ (hline t key).ready = (hline s key).ready ∧
    (hline t key).waitDir = (hline s key).waitDir
  ways : ∀ w ∈ waysOf t k l, w ∈ waysOf s k l ∨ w = l + 1
  waits : ∀ x ∈ waitersOf t k l, x ∈ waitersOf s k l ∨ x = l

namespace SetMoves
variable {k l : Nat} {s t u : State}

theorem refl (k l : Nat) (s : State) : SetMoves k l s s := ⟨rfl, rfl, fun _ => ⟨rfl, rfl, rfl, rfl⟩, fun _ h => .inl h, fun _ h => .inl h⟩

theorem trans (h : SetMoves k l s t) (g : SetMoves k l t u) : SetMoves k l s u where
  home := by rw [g.home, h.home]
  net := g.net.trans h.net
  line key := by
    obtain ⟨h1, h2, h3, h4⟩ := h.line key
    obtain ⟨g1, g2, g3, g4⟩ := g.line key
    exact ⟨g1.trans h1, g2.trans h2, g3.trans h3, g4.trans h4⟩
  ways w hw := (g.ways w hw).elim (h.ways w) .inr
  waits x hx := (g.waits x hx).elim (h.waits x) .inr

theorem fillReady (h : SetMoves k l s t) (key : Nat) : fillReady t key = fillReady s key := by
  obtain ⟨h1, -, h3, h4⟩ := h.line key
  unfold Machine.fillReady
  dsimp only
  rw [h1, h3, h4]

theorem mem (h : SetMoves k l s t) : t.mem = s.mem := by rw [h.home]

theorem foldl {α : Type} {f : State → α → State} (h : ∀ s a, SetMoves k l s (f s a)) (xs : List α) (s : State) : SetMoves k l s (xs.foldl f s) := by
  induction xs generalizing s with
  | nil => exact refl k l s
  | cons a r ih => exact (h s a).trans (ih _)

end SetMoves

theorem setLine_moves (k l key : Nat) {f : HLine → HLine} (hf : ∀ h, (f h).st = h.st ∧ (f h).held = h.held ∧ (f h).ready = h.ready ∧ (f h).waitDir = h.waitDir) (s : State) :
    SetMoves k l s (setLine key f s) where
  home := rfl
  net := rfl
  line j := by
    rw [hline_setLine]
    split
    · next e => rw [← e]; exact hf _
    · exact ⟨rfl, rfl, rfl, rfl⟩
  ways _ h := .inl h
  waits _ h := .inl h

theorem setCru_moves (k l j : Nat) {f : Cru → Cru} (hf : ∀ c, (∀ w ∈ tget (List.replicate 16 0) (f c).ways (setOf l), w ∈ tget (List.replicate 16 0) c.ways (setOf l) ∨ w = l + 1) ∧
    ∀ x ∈ (f c).wayWait, x ∈ c.wayWait ∨ x = l) (s : State) : SetMoves k l s (setCru j f s) where
  home := rfl
  net := rfl
  line _ := ⟨rfl, rfl, rfl, rfl⟩
  ways w h := by
    unfold waysOf at *
    rw [cruOf_setCru] at h
    split at h
    · next e => rw [← e]; exact (hf _).1 w h
    · exact .inl h
  waits x h := by
    unfold waitersOf at *
    rw [cruOf_setCru] at h
    split at h
    · next e =>
      rw [← e]
      obtain ⟨h1, h2⟩ := List.mem_filter.1 h
      exact ((hf _).2 x h1).imp_left fun h => List.mem_filter.2 ⟨h, h2⟩
    · exact .inl h

theorem setCru_moves_same (k l j : Nat) {f : Cru → Cru} (hw : ∀ c, (f c).ways = c.ways) (hx : ∀ c, (f c).wayWait = c.wayWait) (s : State) : SetMoves k l s (setCru j f s) :=
  setCru_moves k l j (fun c => ⟨fun w h => .inl (by rwa [hw] at h), fun x h => .inl (by rwa [hx] at h)⟩) s

theorem touchLine_moves (k l j m : Nat) (s : State) : SetMoves k l s (touchLine j m s) := by
  unfold touchLine
  dsimp only
  split
  · exact setCru_moves_same k l j (by intro; rfl) (by intro; rfl) s
  · exact .refl k l s

theorem evictLine_moves (k l j m : Nat) (s : State) : SetMoves k l s (evictLine j m s) := by
  have h := setLine_moves k l (lkey j m) (f := fun h => { h with cached := false, dirty := false, isHeld := false, closed := false }) (by intro; exact ⟨rfl, rfl, rfl, rfl⟩) s
  unfold evictLine
  dsimp only
  split
  · exact h.trans (setCru_moves_same k l j (by intro; rfl) (by intro; rfl) _)
  · exact h

theorem countMiss_moves (k l j m c : Nat) (s : State) : SetMoves k l s (countMiss j m c s) := by
  unfold countMiss
  split
  · exact setCru_moves_same k l j (by intro; rfl) (by intro; rfl) s
  · exact .refl k l s

theorem setClosed_moves (k l j m : Nat) (b : Bool) (s : State) : SetMoves k l s (setClosed j m b s) :=
  .foldl (fun s w => setLine_moves k l _ (by intro; exact ⟨rfl, rfl, rfl, rfl⟩) s) _ s

/-- The line takes way `i` of its set. -/
theorem putWay_moves (k l i : Nat) (s u : State) (hu : waysOf s k l = waysOf u k l) {f : Cru → Cru} (hw : ∀ c, (f c).ways = tput c.ways (setOf l) (putNth (waysOf s k l) i (l + 1)))
    (hx : ∀ c, ∀ x ∈ (f c).wayWait, x ∈ c.wayWait) : SetMoves k l u (setCru k f u) where
  home := rfl
  net := rfl
  line _ := ⟨rfl, rfl, rfl, rfl⟩
  ways w h := by
    unfold waysOf at h
    rw [cruOf_setCru, if_pos rfl, hw] at h
    have h : w ∈ putNth (waysOf s k l) i (l + 1) := by simpa [tget, tget?_tput] using h
    rw [← hu]
    exact (List.mem_or_eq_of_mem_set h)
  waits x h := by
    unfold waitersOf at *
    rw [cruOf_setCru, if_pos rfl] at h
    obtain ⟨h1, h2⟩ := List.mem_filter.1 h
    exact .inl (List.mem_filter.2 ⟨hx _ x h1, h2⟩)

theorem waysOf_evictLine (k l j m : Nat) (s : State) : waysOf (evictLine j m s) k l = waysOf s k l := by
  unfold evictLine
  dsimp only
  split
  · unfold waysOf
    rw [cruOf_setCru]
    split
    · next e => rw [← e]; rfl
    · rfl
  · rfl

theorem installLine_moves (k l : Nat) (d : Bool) (s : State) : SetMoves k l s (installLine k l d s) := by
  unfold installLine
  dsimp only
  split
  · exact (setLine_moves k l _ (by intro; exact ⟨rfl, rfl, rfl, rfl⟩) s).trans (touchLine_moves ..)
  · split
    · exact .refl k l s
    · next i _ =>
      refine .trans ?_ (touchLine_moves ..)
      refine .trans ?_ (setLine_moves k l _ (by intro; exact ⟨rfl, rfl, rfl, rfl⟩) _)
      split
      · exact putWay_moves k l i s s rfl (by intro; rfl) (by exact fun _ _ h => h)
      · exact (evictLine_moves ..).trans (putWay_moves k l i s _ (waysOf_evictLine ..).symm (by intro; rfl) (by exact fun _ _ h => h))

theorem keepWay_moves (k l : Nat) (s : State) : SetMoves k l s (keepWay k l s) := by
  unfold keepWay
  split
  · exact .refl k l s
  · next i _ =>
    dsimp only
    split
    · exact putWay_moves k l i s s rfl (by intro; rfl) (by exact fun _ _ h => (List.mem_filter.1 h).1)
    · exact (evictLine_moves ..).trans (putWay_moves k l i s _ (waysOf_evictLine ..).symm (by intro; rfl) (by exact fun _ _ h => (List.mem_filter.1 h).1))

/-- Where no other line of the set waits for a way, handing out ways only moves them. -/
theorem nextWays_moves (k l n : Nat) (s : State) (hw : ∀ x ∈ waitersOf s k l, x = l) : SetMoves k l s (nextWays k l n s) := by
  induction n generalizing s with
  | zero => exact .refl k l s
  | succ n ih =>
    unfold nextWays
    cases hh : (waitersOf s k l).head? with
    | none => exact setClosed_moves ..
    | some m =>
      obtain rfl : m = l := hw m (List.mem_of_mem_head? hh)
      dsimp only
      have hk := keepWay_moves k m s
      split
      · exact hk.trans (ih _ fun x hx => (hk.waits x hx).elim (hw x) id)
      · split
        · next w _ =>
          have hs := setLine_moves k m (lkey k (w - 1)) (f := fun h => { h with isHeld := false, closed := false }) (by intro; exact ⟨rfl, rfl, rfl, rfl⟩) s
          exact hs.trans (ih _ fun x hx => (hs.waits x hx).elim (hw x) id)
        · exact setClosed_moves ..

theorem giveWays_moves (k l : Nat) (s : State) (hw : ∀ x ∈ waitersOf s k l, x = l) : SetMoves k l s (giveWays k l s) := nextWays_moves k l _ s hw

/-- A fill that asks for a way in a set where no other line waits only moves ways. -/
theorem wantWay_moves (k l : Nat) (s : State) (hw : ∀ x ∈ waitersOf s k l, x = l) : SetMoves k l s (wantWay k l s) := by
  unfold wantWay
  split
  · exact .refl k l s
  · have h := setCru_moves k l k (f := fun c => { c with wayWait := c.wayWait ++ [l], closes := satAdd 65535 c.closes 1 })
      (fun c => ⟨fun _ h => .inl h, fun x h => by simpa using h⟩) s
    exact h.trans (giveWays_moves k l _ fun x hx => (h.waits x hx).elim (hw x) id)

/-- Serving a set where no other line waits and none has its fill's data only moves ways. -/
theorem serveWays_moves (k l : Nat) (s : State) (hw : ∀ x ∈ waitersOf s k l, x = l)
    (hf : ∀ w ∈ waysOf s k l, w = 0 ∨ fillReady s (lkey k (w - 1)) = false) (ho : fillReady s (lkey k l) = false) : SetMoves k l s (serveWays k l s) := by
  have hg := giveWays_moves k l s hw
  have hws : ∀ w ∈ waysOf (giveWays k l s) k l, w = 0 ∨ fillReady (giveWays k l s) (lkey k (w - 1)) = false := by
    intro w hm
    rw [hg.fillReady]
    rcases hg.ways w hm with h | rfl
    · exact hf w h
    · exact .inr ho
  have hfold (ws : List Nat) (h : ∀ w ∈ ws, w = 0 ∨ fillReady (giveWays k l s) (lkey k (w - 1)) = false) :
      ws.foldl (fun s w => if w ≠ 0 ∧ fillReady s (lkey k (w - 1)) then serveLine (lkey k (w - 1)) s else s) (giveWays k l s) = giveWays k l s := by
    induction ws with
    | nil => rfl
    | cons w r ih =>
      have hw := h w (by simp)
      rw [List.foldl_cons, if_neg (by rcases hw with e | e <;> simp [e])]
      exact ih fun w hw => h w (by simp [hw])
  unfold serveWays
  dsimp only
  rw [hfold _ hws]
  exact hg

/-! ### The bytes that a write puts in memory -/

theorem testBit_maskOf (l : List Nat) (i : Nat) : (maskOf l).testBit i = decide (i ∈ l) := by
  have h (l : List Nat) (a : Nat) : (l.foldl (fun a i => a ||| 2 ^ i) a).testBit i = (a.testBit i || decide (i ∈ l)) := by
    induction l generalizing a with
    | nil => simp
    | cons b r ih =>
      rw [List.foldl_cons, ih, Nat.testBit_or, Nat.testBit_two_pow, Bool.or_assoc]
      simp [eq_comm]
  unfold maskOf
  rw [h]
  simp

/-- The mask of a run of bytes of a line. -/
def runMask (o n : Nat) : Nat := maskOf ((List.range n).map (fun i => o + i))

theorem testBit_runMask (o n i : Nat) : (runMask o n).testBit i = decide (o ≤ i ∧ i < o + n) := by
  unfold runMask
  rw [testBit_maskOf]
  simp only [List.mem_map, List.mem_range, decide_eq_decide]
  constructor
  · rintro ⟨j, hj, rfl⟩
    omega
  · rintro ⟨h1, h2⟩
    exact ⟨i - o, by omega, by omega⟩

theorem runMask_whole : runMask 0 128 = 2 ^ 128 - 1 := by decide +kernel

theorem runMask_part {o n : Nat} (h : o + n ≤ 128) (hn : n < 128) : runMask o n ≠ 2 ^ 128 - 1 := by
  intro e
  have ha (i : Nat) (hi : i < 128) : o ≤ i ∧ i < o + n := by
    have : (runMask o n).testBit i = true := by rw [e, Nat.testBit_two_pow_sub_one]; exact decide_eq_true hi
    rw [testBit_runMask] at this
    exact of_decide_eq_true this
  have h0 := ha 0 (by omega)
  have h1 := ha 127 (by omega)
  omega

/-- The bytes of a run in their line. -/
def runData (o : Nat) (bs : List Byte) : List Byte := zeros o ++ bs ++ zeros (128 - o - bs.length)

theorem nth_runData (o : Nat) (bs : List Byte) {j : Nat} (hj : j < bs.length) : nth 0 (runData o bs) (o + j) = nth 0 bs j := by
  simp [runData, nth, zeros, List.getElem?_append_right, List.getElem?_append_left, hj]

theorem clearPoison_cells (k l : Nat) (s : State) : (clearPoison k l s).mem.cells = s.mem.cells := by
  unfold clearPoison
  split
  · dsimp only
    split
    · split <;> rfl
    · rfl
  · rfl

theorem putWhole_cells (k l m : Nat) (d : List Byte) (s : State) : (putWhole k l m d s).mem.cells = (putLine k l m d s).mem.cells := by
  unfold putWhole
  dsimp only
  split
  · exact clearPoison_cells ..
  · rfl

theorem dirtyMark_mem (k g : Nat) (s : State) : (dirtyMark k g s).mem = s.mem := by
  unfold dirtyMark
  split <;> rfl

theorem dirtyMark_home (k g : Nat) (s : State) : (dirtyMark k g s).home = s.home := by
  unfold dirtyMark
  split <;> rfl

theorem clearPoison_home (k l : Nat) (s : State) : (clearPoison k l s).home = s.home := by
  unfold clearPoison
  split
  · dsimp only
    split
    · split <;> rfl
    · rfl
  · rfl

theorem putWhole_home (k l m : Nat) (d : List Byte) (s : State) : (putWhole k l m d s).home = s.home := by
  unfold putWhole
  dsimp only
  split
  · exact clearPoison_home ..
  · rfl

theorem writeLine_home (k l m : Nat) (d : List Byte) (s : State) : (writeLine k l m d s).home = s.home := by
  unfold writeLine
  split
  · rfl
  · dsimp only
    split
    · split
      · rw [putWhole_home, dirtyMark_home]
      · rw [putWhole_home, putWhole_home, dirtyMark_home]
    · rw [putWhole_home, dirtyMark_home]

theorem writeLine_cells {k l : Nat} (m : Nat) (d : List Byte) {s : State} (hw : withdrawn s k l = false) (hr : replicaLine s k l = none) :
    (writeLine k l m d s).mem.cells = (putLine k l m d s).mem.cells := by
  unfold writeLine
  rw [if_neg (by simp [hw]), hr]
  dsimp only
  rw [putWhole_cells]
  unfold putLine
  dsimp only
  rw [dirtyMark_mem]

/-- A run of bytes written to a line: they are there, and no other byte changed. -/
theorem putLine_run {k l o : Nat} {bs : List Byte} (s : State) (hl : l < 2 ^ 29) (ho : o + bs.length ≤ 128) :
    (∀ j < bs.length, memByte (putLine k l (runMask o bs.length) (runData o bs) s) k (l * 128 + o + j) = nth 0 bs j) ∧
    ∀ k' b, b < 2 ^ 36 → (k' ≠ k ∨ b < l * 128 + o ∨ l * 128 + o + bs.length ≤ b) →
      memByte (putLine k l (runMask o bs.length) (runData o bs) s) k' b = memByte s k' b := by
  have hmem (i : Nat) (hi : i ∈ bitsSet 128 (runMask o bs.length)) : i < 128 ∧ o ≤ i ∧ i < o + bs.length := by
    obtain ⟨h1, h2⟩ := (mem_bitsSet ..).1 hi
    unfold bitOf at h2
    rw [testBit_runMask] at h2
    exact ⟨h1, of_decide_eq_true h2⟩
  refine ⟨fun j hj => ?_, fun k' b hb hne => ?_⟩
  · have hin : o + j ∈ bitsSet 128 (runMask o bs.length) := by
      refine (mem_bitsSet ..).2 ⟨by omega, ?_⟩
      unfold bitOf
      rw [testBit_runMask]
      exact decide_eq_true (by omega)
    have h := tget_foldl_tset_on 0 (fun i => bkey k (l * 128 + i)) (fun i => nth 0 (runData o bs) i) (bitsSet 128 (runMask o bs.length))
      (List.Nodup.filter _ List.nodup_range) (fun i _ j _ e => by unfold bkey at e; omega) s.mem.cells hin
    rw [nth_runData o bs hj] at h
    rw [Nat.add_assoc]
    exact h
  · refine tget_foldl_tset_other 0 (fun i => bkey k (l * 128 + i)) (fun i => nth 0 (runData o bs) i) _ _ _ fun i hi => ?_
    obtain ⟨h1, h2, h3⟩ := hmem i hi
    unfold bkey
    omega

/-! ### The home's own request -/

/-- A request that a home has taken up. -/
def heldTaken (h : HReq) (s : State) : State :=
  setLine (lkey (reqOf h).stack (reqOf h).line) (fun l => { l with held := [] }) (holdReq h s)

theorem hline_holdReq (h : HReq) (s : State) (j : Nat) : hline (holdReq h s) j =
    if lkey (reqOf h).stack (reqOf h).line = j then { hline s j with held := (hline s j).held ++ [h] } else hline s j := by
  unfold holdReq
  dsimp only
  rw [hline_setLine]
  split
  · next e => rw [e]
  · rfl

section
variable {s : State} {h : HReq} (hh : HomeHears s (reqOf h))
include hh

theorem heldTaken_moves : SetMoves (reqOf h).stack (reqOf h).line s (heldTaken h s) where
  home := rfl
  net := rfl
  line key := by
    obtain ⟨-, hheld, -⟩ := hh
    unfold heldTaken
    rw [hline_setLine, hline_holdReq, hline_holdReq, if_pos rfl]
    split
    · next e =>
      rw [← e]
      exact ⟨rfl, hheld.symm, rfl, rfl⟩
    · exact ⟨rfl, rfl, rfl, rfl⟩
  ways _ h := .inl h
  waits _ h := .inl h

theorem hline_heldTaken : hline (heldTaken h s) (lkey (reqOf h).stack (reqOf h).line) = hline s (lkey (reqOf h).stack (reqOf h).line) := by
  obtain ⟨-, hheld, -⟩ := hh
  unfold heldTaken
  rw [hline_setLine, if_pos rfl, hline_holdReq, if_pos rfl]
  cases e : hline s (lkey (reqOf h).stack (reqOf h).line)
  rw [e] at hheld
  cases hheld
  rfl

theorem settled_holdReq : settled (holdReq h s) (reqOf h).stack (reqOf h).line = true := by
  obtain ⟨-, -, -, -, hs⟩ := hh
  obtain ⟨hw, hf, hr, ho⟩ := (settled_iff s _ _).1 hs
  refine (settled_iff (holdReq h s) _ _).2 ⟨hw, fun w hm => (hf w hm).imp_right fun e => ?_, ?_, ho⟩
  · unfold fillReady at *
    rw [hline_holdReq]
    split
    · exact e
    · exact e
  · rw [hline_holdReq, if_pos rfl]
    exact hr

/-- A home that hears a write which its line can take now does so, and then sees to the line's set. -/
theorem homeRequest_takes (hb : lineBusy (hline s (lkey (reqOf h).stack (reqOf h).line)) = false) (hm : mergeable h = false) (hred : ∀ r o, h ≠ .red r o) :
    homeRequest h s = serveWays (reqOf h).stack (reqOf h).line (serveHeld (lkey (reqOf h).stack (reqOf h).line) 3 (acceptReq h (heldTaken h s))) := by
  have hset := settled_holdReq hh
  obtain ⟨hn, hheld, -, hl, -⟩ := hh
  have hline1 : hline (holdReq h s) (lkey (reqOf h).stack (reqOf h).line) = { hline s (lkey (reqOf h).stack (reqOf h).line) with held := [h] } := by
    rw [hline_holdReq, if_pos rfl, hheld]
    rfl
  have hbusy : lineBusy (hline (holdReq h s) (lkey (reqOf h).stack (reqOf h).line)) = false := by
    rw [hline1]
    exact hb
  have hfp : (hline (holdReq h s) (lkey (reqOf h).stack (reqOf h).line)).st ≠ .fp := by
    intro e
    simp [lineBusy, e] at hbusy
  have hready : fillReady (holdReq h s) (lkey (reqOf h).stack (reqOf h).line) = false := by
    unfold fillReady
    simp [hfp]
  have hcan : canAccept (holdReq h s) h = true := by
    unfold canAccept
    cases h with
    | red r o => exact absurd rfl (hred r o)
    | _ => simpa using hbusy
  have hserve : serveHeld (lkey (reqOf h).stack (reqOf h).line) 4 (holdReq h s) = serveHeld (lkey (reqOf h).stack (reqOf h).line) 3 (acceptReq h (heldTaken h s)) := by
    conv_lhs => unfold serveHeld
    have hheld1 : (hline (holdReq h s) (lkey (reqOf h).stack (reqOf h).line)).held = [h] := by rw [hline1]
    rw [hheld1]
    dsimp only
    rw [hm, if_neg (by simp), if_pos hcan, if_neg (by simp)]
    rfl
  have hgo : homeRequest h s = goLine (lkey (reqOf h).stack (reqOf h).line) (holdReq h s) := by
    unfold homeRequest
    dsimp only
    rw [hn]
    dsimp only
    rw [hm, if_neg (by simp)]
  have hlen : 2 * (hline (holdReq h s) (lkey (reqOf h).stack (reqOf h).line)).held.length + 2 = 4 := by
    rw [hline1]
    rfl
  rw [hgo]
  unfold goLine
  rw [serveLine_settled hl hset hready, hlen, hserve, lkey_div hl, lkey_mod hl]

end

end Sys2Proof.Machine
end

section
/-! PROOF. A write at a home that takes it: the bytes it leaves, or the fill that it begins (R260, R301, R303, R318). -/

namespace Sys2Proof.Machine

/-! ### What an accepted write leaves of a set -/

/-- From `s` to `t` the home of line `l` of stack `k` has answered and moved ways about: no queue of requests has changed, no fill
has its data that had it not, and only the line itself may have taken a way of its set or begun to wait for one. -/
structure SetCalms (k l : Nat) (s t : State) : Prop where
  home : t = { s with home := t.home }
  held : ∀ key, (hline t key).held = (hline s key).held
  ready : ∀ key, fillReady t key = true → fillReady s key = true
  ways : ∀ w ∈ waysOf t k l, w ∈ waysOf s k l ∨ w = l + 1
  waits : ∀ x ∈ waitersOf t k l, x ∈ waitersOf s k l ∨ x = l

namespace SetCalms
variable {k l : Nat} {s t u : State}

theorem trans (h : SetCalms k l s t) (g : SetCalms k l t u) : SetCalms k l s u where
  home := by rw [g.home, h.home]
  held key := (g.held key).trans (h.held key)
  ready key e := h.ready key (g.ready key e)
  ways w hw := (g.ways w hw).elim (h.ways w) .inr
  waits x hx := (g.waits x hx).elim (h.waits x) .inr

theorem of_moves (h : SetMoves k l s t) : SetCalms k l s t where
  home := h.home
  held key := (h.line key).2.1
  ready key e := (h.fillReady key) ▸ e
  ways := h.ways
  waits := h.waits

theorem mem (h : SetCalms k l s t) : t.mem = s.mem := by rw [h.home]

theorem refl (k l : Nat) (s : State) : SetCalms k l s s := of_moves (.refl k l s)

theorem foldl {α : Type} {f : State → α → State} (h : ∀ s a, SetCalms k l s (f s a)) (xs : List α) (s : State) : SetCalms k l s (xs.foldl f s) := by
  induction xs generalizing s with
  | nil => exact refl k l s
  | cons a r ih => exact (h s a).trans (ih _)

/-- What lies outside the home's state does not matter. -/
theorem same_home (h : t.home = s.home) (g : SetCalms k l s u) : (∀ key, (hline u key).held = (hline t key).held) ∧ (∀ key, fillReady u key = true → fillReady t key = true) ∧
    (∀ w ∈ waysOf u k l, w ∈ waysOf t k l ∨ w = l + 1) ∧ ∀ x ∈ waitersOf u k l, x ∈ waitersOf t k l ∨ x = l := by
  have hl (key : Nat) : hline t key = hline s key := by unfold hline; rw [h]
  have hc (key : Nat) : cruOf t key = cruOf s key := by unfold cruOf; rw [h]
  refine ⟨fun key => by rw [hl]; exact g.held key, fun key e => ?_, ?_, ?_⟩
  · have := g.ready key e
    unfold fillReady at *
    rw [hl]
    exact this
  · unfold waysOf at *
    rw [hc]
    exact g.ways
  · unfold waitersOf at *
    rw [hc]
    exact g.waits

end SetCalms

theorem sendMsg_calms (k l : Nat) (m : Msg) (s : State) : SetCalms k l s (sendMsg m s) :=
  ⟨rfl, fun _ => rfl, fun _ h => h, fun _ h => .inl h, fun _ h => .inl h⟩

/-- A line that neither fills nor changes its queue of requests. -/
theorem setLine_calms (k l key : Nat) {f : HLine → HLine} (hf : ∀ h, (f h).held = h.held ∧ ((f h).st = h.st ∧ (f h).ready = h.ready ∧ (f h).waitDir = h.waitDir ∨ (f h).st ≠ .fp)) (s : State) :
    SetCalms k l s (setLine key f s) where
  home := rfl
  held j := by
    rw [hline_setLine]
    split
    · next e => rw [← e]; exact (hf _).1
    · rfl
  ready j e := by
    unfold fillReady at *
    rw [hline_setLine] at e
    split at e
    · next ej =>
      rw [← ej]
      rcases (hf (hline s key)).2 with ⟨h1, h2, h3⟩ | h1
      · dsimp only at e ⊢
        rwa [h1, h2, h3] at e
      · simp [h1] at e
    · exact e
  ways _ h := .inl h
  waits _ h := .inl h

theorem dropDir_calms (k l j m : Nat) (s : State) : SetCalms k l s (dropDir j m s) :=
  (SetCalms.of_moves (setLine_moves k l _ (by intro; exact ⟨rfl, rfl, rfl, rfl⟩) s)).trans
    (.of_moves (setCru_moves_same k l j (by intro; rfl) (by intro; rfl) _))

theorem invs_calms (k l : Nat) (i : List (Nat × Nat)) (s : State) : SetCalms k l s { s with home := { s.home with invs := i } } :=
  ⟨rfl, fun _ => rfl, fun _ h => h, fun _ h => .inl h, fun _ h => .inl h⟩

theorem startRound_calms (k l j m : Nat) (owed : List Msg) (s : State) : SetCalms k l s (startRound j m owed s) := by
  unfold startRound
  dsimp only
  split
  · exact ((dropDir_calms k l j m s).trans (setLine_calms k l _ (by intro; exact ⟨rfl, .inr (by simp)⟩) _)).trans
      (.foldl (fun s m => sendMsg_calms k l m s) _ _)
  · exact (invs_calms k l _ s).trans <| setLine_calms k l _ (by intro; exact ⟨rfl, .inr (by simp)⟩) _

/-! ### Writes that are taken at once -/

/-- The state in which a home has put a write into its line. -/
def missCounted (r : Req) (s : State) : State := if (hline s (lkey r.stack r.line)).cached then s else countMiss r.stack r.line r.ctx s

theorem missCounted_moves (r : Req) (s : State) : SetMoves r.stack r.line s (missCounted r s) := by
  unfold missCounted
  split
  · exact .refl ..
  · exact countMiss_moves ..

theorem acceptWrite_puts {r : Req} {s : State} (m : Nat) (d : List Byte) (hw : withdrawn s r.stack r.line = false)
    (h : (hline s (lkey r.stack r.line)).cached = true ∨ (m = 2 ^ 128 - 1 ∧ (wayFor s r.stack r.line).isSome = true)) :
    SetCalms r.stack r.line (writeLine r.stack r.line m d (missCounted r s)) (acceptWrite r m d s) := by
  unfold acceptWrite
  dsimp only
  rw [if_neg (by simp [hw]), if_pos (h.imp_right fun e => ⟨decide_eq_true e.1, e.2⟩)]
  refine (SetCalms.of_moves (installLine_moves r.stack r.line true (writeLine r.stack r.line m d (missCounted r s)))).trans ?_
  rw [show (if (hline s (lkey r.stack r.line)).cached then s else countMiss r.stack r.line r.ctx s) = missCounted r s from rfl]
  generalize installLine r.stack r.line true (writeLine r.stack r.line m d (missCounted r s)) = u
  split
  · exact sendMsg_calms ..
  · exact startRound_calms ..

theorem wayFor_heldTaken {s : State} {h : HReq} (hh : HomeHears s (reqOf h)) (k l : Nat) : wayFor (heldTaken h s) k l = wayFor s k l := by
  have hl (key : Nat) : hline (heldTaken h s) key = hline s key := by
    by_cases e : lkey (reqOf h).stack (reqOf h).line = key
    · rw [← e]
      exact hline_heldTaken hh
    · unfold heldTaken
      rw [hline_setLine, if_neg e, hline_holdReq, if_neg e]
  have hc : candidate (heldTaken h s) k = candidate s k := by
    funext w
    unfold candidate
    rw [hl]
    rfl
  unfold wayFor
  rw [hc]
  rfl

theorem withdrawn_heldTaken (h : HReq) (s : State) (k l : Nat) : withdrawn (heldTaken h s) k l = withdrawn s k l := rfl

theorem replicaLine_moved {s t : State} (h : t = { s with home := t.home }) (k l : Nat) : replicaLine t k l = replicaLine s k l := by
  rw [h]
  rfl

theorem withdrawn_missCounted (r : Req) (s : State) (k l : Nat) : withdrawn (missCounted r s) k l = withdrawn s k l := by
  unfold missCounted countMiss withdrawn usableGrans
  split
  · rfl
  · split
    · rw [cruOf_setCru]
      split
      · next e =>
        subst e
        rfl
      · rfl
    · rfl

/-- After a line at rest has taken a write, no request held and no fill goes on. -/
theorem serve_calm {k l n : Nat} {s u : State} (hs : settled s k l = true) (hr : fillReady s (lkey k l) = false) (h0 : (hline s (lkey k l)).held = [])
    (hheld : ∀ key, (hline u key).held = (hline s key).held) (hready : ∀ key, fillReady u key = true → fillReady s key = true)
    (hways : ∀ w ∈ waysOf u k l, w ∈ waysOf s k l ∨ w = l + 1) (hwaits : ∀ x ∈ waitersOf u k l, x ∈ waitersOf s k l ∨ x = l) :
    (serveWays k l (serveHeld (lkey k l) n u)).mem = u.mem := by
  obtain ⟨hw, hf, -, -⟩ := (settled_iff s k l).1 hs
  have hnot (key : Nat) (h : fillReady s key = false) : fillReady u key = false := by
    by_contra e
    rw [hready key (by simpa using e)] at h
    cases h
  rw [serveHeld_none ((hheld _).trans h0)]
  refine (serveWays_moves k l u (fun x hx => ?_) (fun w hm => ?_) (hnot _ hr)).mem
  · refine (hwaits x hx).resolve_left fun h => ?_
    rw [hw] at h
    cases h
  · rcases hways w hm with h | rfl
    · exact (hf w h).imp_right (hnot _)
    · exact .inr (hnot _ hr)

/-- A write that its home takes at once leaves memory as the write of its line does. -/
theorem homeRequest_write_mem {s : State} {r : Req} {m : Nat} {d : List Byte} (hh : HomeTakes s r)
    (hc : (hline s (lkey r.stack r.line)).cached = true ∨ (m = 2 ^ 128 - 1)) (hway : wayFor s r.stack r.line ≠ none) :
    (homeRequest (.write r m d) s).mem = (writeLine r.stack r.line m d (missCounted r (heldTaken (.write r m d) s))).mem := by
  obtain ⟨hh, hb⟩ := hh
  have htake := homeRequest_takes (h := .write r m d) hh hb rfl (by intro _ _ e; cases e)
  have h1 : SetMoves r.stack r.line s (heldTaken (.write r m d) s) := heldTaken_moves (h := .write r m d) hh
  have hline : (hline (heldTaken (.write r m d) s) (lkey r.stack r.line)) = hline s (lkey r.stack r.line) := hline_heldTaken (h := .write r m d) hh
  have hway1 := wayFor_heldTaken (h := .write r m d) hh r.stack r.line
  have hwd := withdrawn_heldTaken (.write r m d) s r.stack r.line
  generalize heldTaken (.write r m d) s = u at *
  obtain ⟨-, hheld, hw, -, hset⟩ := hh
  have hacc := acceptWrite_puts (r := r) (s := u) m d (hwd.trans hw)
    (hc.imp (fun e => by rw [hline]; exact e) fun e => ⟨e, by rw [hway1]; exact Option.isSome_iff_ne_none.2 hway⟩)
  have h12 := SetCalms.of_moves (h1.trans (missCounted_moves r u))
  obtain ⟨aheld, aready, aways, awaits⟩ := hacc.same_home (writeLine_home ..).symm
  have hr0 : fillReady s (lkey r.stack r.line) = false := by
    unfold fillReady
    unfold lineBusy at hb
    simp only [Bool.or_eq_false_iff, decide_eq_false_iff_not, not_or] at hb
    simp [hb.1.1.2]
  rw [htake]
  refine Eq.trans ?_ hacc.mem
  exact serve_calm (u := acceptWrite r m d u) hset hr0 hheld (fun key => (aheld key).trans (h12.held key)) (fun key e => h12.ready key (aready key e))
    (fun w hm => (aways w hm).elim (h12.ways w) .inr) (fun x hx => (awaits x hx).elim (h12.waits x) .inr)

/-- A run of bytes that the home of its line takes at once is there, and no other byte has changed. -/
theorem homeRequest_write_run {s : State} {r : Req} {o : Nat} {bs : List Byte} (hh : HomeTakes s r) (hl : r.line < 2 ^ 29) (ho : o + bs.length ≤ 128)
    (hc : (hline s (lkey r.stack r.line)).cached = true ∨ bs.length = 128) (hway : wayFor s r.stack r.line ≠ none) (hrep : replicaLine s r.stack r.line = none) :
    (∀ j < bs.length, memByte (homeRequest (.write r (runMask o bs.length) (runData o bs)) s) r.stack (r.line * 128 + o + j) = nth 0 bs j) ∧
    ∀ k b, b < 2 ^ 36 → (k ≠ r.stack ∨ b < r.line * 128 + o ∨ r.line * 128 + o + bs.length ≤ b) →
      memByte (homeRequest (.write r (runMask o bs.length) (runData o bs)) s) k b = memByte s k b := by
  have hfull : (hline s (lkey r.stack r.line)).cached = true ∨ runMask o bs.length = 2 ^ 128 - 1 :=
    hc.imp_right fun e => by rw [e, show o = 0 by omega]; exact runMask_whole
  have hmem := homeRequest_write_mem (d := runData o bs) hh hfull hway
  have hmv := (heldTaken_moves (h := .write r (runMask o bs.length) (runData o bs)) hh.1).trans (missCounted_moves r _)
  have hcells := writeLine_cells (k := r.stack) (l := r.line) (runMask o bs.length) (runData o bs)
    (s := missCounted r (heldTaken (.write r (runMask o bs.length) (runData o bs)) s))
    (by rw [withdrawn_missCounted, withdrawn_heldTaken]; exact hh.1.2.2.1) (by rw [replicaLine_moved hmv.home]; exact hrep)
  obtain ⟨h1, h2⟩ := putLine_run (k := r.stack) (l := r.line) (o := o) (bs := bs) (missCounted r (heldTaken (.write r (runMask o bs.length) (runData o bs)) s)) hl ho
  have hbyte (k b : Nat) : memByte (homeRequest (.write r (runMask o bs.length) (runData o bs)) s) k b =
      memByte (putLine r.stack r.line (runMask o bs.length) (runData o bs) (missCounted r (heldTaken (.write r (runMask o bs.length) (runData o bs)) s))) k b := by
    unfold memByte
    rw [hmem, hcells]
  refine ⟨fun j hj => (hbyte ..).trans (h1 j hj), fun k b hb hne => (hbyte ..).trans ((h2 k b hb hne).trans ?_)⟩
  unfold memByte
  rw [hmv.mem]

/-! ### Writes that wait for their line -/

/-- A line that is to be filled from the stack, with a request that goes on when its data comes. -/
def fillBegun (r : Req) (h : HReq) (s : State) : State :=
  setLine (lkey r.stack r.line) (fun l => { l with st := .fp, ready := false }) (setLine (lkey r.stack r.line) (fun l => { l with held := h :: l.held }) s)

theorem fillBegun_line (r : Req) (h : HReq) (s : State) :
    hline (fillBegun r h s) (lkey r.stack r.line) = { hline s (lkey r.stack r.line) with st := .fp, ready := false, held := h :: (hline s (lkey r.stack r.line)).held } ∧
    ∀ j, j ≠ lkey r.stack r.line → hline (fillBegun r h s) j = hline s j := by
  unfold fillBegun
  refine ⟨?_, fun j hj => ?_⟩
  · rw [hline_setLine, if_pos rfl, hline_setLine, if_pos rfl]
  · rw [hline_setLine, if_neg hj.symm, hline_setLine, if_neg hj.symm]

/-- A write of part of a line that the home has not in the cache begins the line's fill. -/
theorem homeRequest_write_fills {s : State} {r : Req} {m : Nat} {d : List Byte} (hh : HomeTakes s r) (hc : (hline s (lkey r.stack r.line)).cached = false)
    (hm : m ≠ 2 ^ 128 - 1) : Fills s (homeRequest (.write r m d) s) r (.write r m d) := by
  obtain ⟨hh, hb⟩ := hh
  have htake := homeRequest_takes (h := .write r m d) hh hb rfl (by intro _ _ e; cases e)
  have h1 : SetMoves r.stack r.line s (heldTaken (.write r m d) s) := heldTaken_moves (h := .write r m d) hh
  have hline : (hline (heldTaken (.write r m d) s) (lkey r.stack r.line)) = hline s (lkey r.stack r.line) := hline_heldTaken (h := .write r m d) hh
  have hwd := withdrawn_heldTaken (.write r m d) s r.stack r.line
  generalize heldTaken (.write r m d) s = u at *
  obtain ⟨-, hheld, hw, -, hset⟩ := hh
  obtain ⟨hwait, hf, -, -⟩ := (settled_iff s _ _).1 hset
  have hacc : acceptReq (.write r m d) u = wantWay r.stack r.line (countMiss r.stack r.line r.ctx (fillBegun r (.write r m d) u)) := by
    show acceptWrite r m d u = _
    unfold acceptWrite
    dsimp only
    rw [decide_eq_false hm, if_neg (by rw [hwd, hw]; exact Bool.false_ne_true), if_neg (by rw [hline, hc]; simp)]
    rfl
  obtain ⟨hb1, hb2⟩ := fillBegun_line r (.write r m d) u
  have hbw (x : Nat) (hx : x ∈ waitersOf (fillBegun r (.write r m d) u) r.stack r.line) : x = r.line :=
    (h1.waits x hx).resolve_left fun h => by
      rw [hwait] at h
      cases h
  have hmoves : SetMoves r.stack r.line (fillBegun r (.write r m d) u) (acceptReq (.write r m d) u) := by
    rw [hacc]
    have hcm := countMiss_moves r.stack r.line r.stack r.line r.ctx (fillBegun r (.write r m d) u)
    exact hcm.trans (wantWay_moves _ _ _ fun x hx => (hcm.waits x hx).elim (hbw x) id)
  generalize acceptReq (.write r m d) u = v at *
  obtain ⟨hst, hvh, hrd, -⟩ := hmoves.line (lkey r.stack r.line)
  rw [hb1] at hst hvh hrd
  rw [hline, hheld] at hvh
  have hserve : serveHeld (lkey r.stack r.line) 3 v = v := by
    conv_lhs => unfold serveHeld
    rw [hvh]
    dsimp only
    rw [if_neg (by simp [mergeable]), if_neg (by simp [canAccept, reqOf, lineBusy, hst])]
  have hlast : SetMoves r.stack r.line v (serveWays r.stack r.line v) := by
    refine serveWays_moves _ _ _ (fun x hx => (hmoves.waits x hx).elim (hbw x) id) (fun w hm => ?_) ?_
    · have hkey (h : fillReady s (lkey r.stack (w - 1)) = false) : fillReady v (lkey r.stack (w - 1)) = false := by
        rw [hmoves.fillReady]
        by_cases e : lkey r.stack (w - 1) = lkey r.stack r.line
        · rw [e]
          simp [fillReady, hb1]
        · unfold fillReady
          rw [hb2 _ e]
          rw [← h1.fillReady] at h
          exact h
      rcases hmoves.ways w hm with h | rfl
      · rcases h1.ways w h with h | rfl
        · exact (hf w h).imp_right hkey
        · exact .inr (by simp [fillReady, hrd])
      · exact .inr (by simp [fillReady, hrd])
    · simp [fillReady, hrd]
  have heq : homeRequest (.write r m d) s = serveWays r.stack r.line v := htake.trans (congrArg _ hserve)
  rw [heq]
  obtain ⟨l1, l2, -, -⟩ := hlast.line (lkey r.stack r.line)
  exact ⟨hlast.mem.trans (hmoves.mem.trans h1.mem), hlast.net.trans (hmoves.net.trans h1.net), l1.trans hst, l2.trans hvh⟩

/-! ### A context's write within one line -/

theorem linesOf_one {a n : Nat} (h : a % 128 + n ≤ 128) (h0 : 0 < n) : linesOf a n = [(a, 0, n)] := by
  have hc : ceilDiv (a % 128 + n) 128 = 1 := by
    unfold ceilDiv
    omega
  have hmax : max a ((a / 128 + 0) * 128) = a := by omega
  have hmin : min (a + n) ((a / 128 + 0 + 1) * 128) = a + n := by omega
  unfold linesOf
  rw [hc]
  simp only [List.range_one, List.map_cons, List.map_nil]
  rw [hmax, hmin, Nat.sub_self, Nat.add_sub_cancel_left]

theorem ctxWrite_one {s : State} {c a : Nat} {bs : List Byte} {p : Place} (who : Agent) (h : a % 128 + bs.length ≤ 128) (h0 : bs ≠ []) (hp : translate s c a = some p) :
    ctxWrite c a bs who s = homeRequest (.write ⟨p.stack, p.line, c, p.handle, who⟩ (runMask p.off bs.length) (runData p.off bs)) s := by
  unfold ctxWrite
  rw [linesOf_one h (List.length_pos_iff.2 h0), List.foldl_cons, List.foldl_nil]
  dsimp only
  rw [hp]
  dsimp only
  rw [List.drop_zero, List.take_length]
  rfl

end Sys2Proof.Machine
end

section
/-! PROOF. Translation misses, fault batches, the aperture and the host write caches (R260, R345-R375). -/

namespace Sys2Proof.Machine

/-! ### EXTENT_WALK (R364, R365, R371) -/

section
variable {s : State} {n a g i acc len : Nat} {x : Stn}

/-- The miss registers whose waiters an extent walk for agent `g` names. -/
theorem walkMisses_none (h : g = 3 → ∀ m ∈ walkMisses s n x a, i ∉ m.2) :
    (if g = 3 then (walkMisses s n x a).filter (fun m => decide (i ∈ m.2)) else []) = [] := by
  split
  · next e => exact List.filter_eq_nil_iff.2 fun m hm => by simpa using h e m hm
  · rfl

theorem extentWalk_idle (hl : liveOf s n = some x) (hp : walkPieces x a g i = []) (hw : walkSems s n x a g i = [])
    (hm : g = 3 → ∀ m ∈ walkMisses s n x a, i ∉ m.2) : extentWalkS n x.ctx a g i s = s := by
  unfold extentWalkS
  rw [hl]
  dsimp only
  rw [walkMisses_none hm, hp, hw, if_pos (by simp)]

section
variable (hl : liveOf s n = some x) (hx : xlate s x a = none) (hc : inCounters a = false) (ho : owinAt s x.ctx a = none)
include hl hx hc ho

/-- A walk that some access waits for. -/
theorem extentWalk_waited (h : walkPieces x a g i ≠ [] ∨ walkSems s n x a g i ≠ [] ∨ (g = 3 ∧ ∃ m ∈ walkMisses s n x a, i ∈ m.2)) :
    extentWalkS n x.ctx a g i s =
      match findMap s x.ctx a with
      | some (m, y) => addX n (x.ctx, handleOf m.num y, m.start) s
      | none =>
        (if g = 3 then (walkMisses s n x a).filter (fun m => decide (i ∈ m.2)) else []).foldl (fun s m => missFault n m.1 a 1 m.2 s)
          ((walkSems s n x a g i).foldl (fun s w => match semAcc s w with
            | some q => semXlate w n 1 q s
            | none => s) ((walkPieces x a g i).foldl (fun s e => pieceFault n e.1 e.2.1 e.2.2 1 s) s)) := by
  have hne : ¬ ((walkPieces x a g i).isEmpty ∧ (walkSems s n x a g i).isEmpty ∧
      (if g = 3 then (walkMisses s n x a).filter (fun m => decide (i ∈ m.2)) else []).isEmpty) := by
    rintro ⟨h1, h2, h3⟩
    rcases h with h | h | ⟨rfl, m, hm, hi⟩
    · exact h (List.isEmpty_iff.1 h1)
    · exact h (List.isEmpty_iff.1 h2)
    · rw [if_pos rfl, List.isEmpty_iff, List.filter_eq_nil_iff] at h3
      exact h3 m hm (decide_eq_true hi)
  unfold extentWalkS
  rw [hl]
  dsimp only
  refine (if_neg ?_).trans ?_
  · rintro (e | e | e | e | e)
    · exact e rfl
    · simp [hx] at e
    · simp [hc] at e
    · simp [ho] at e
    · exact hne e
  · cases findMap s x.ctx a <;> rfl

theorem extentWalk_mapped {m : Mapping} {y : Extent}
    (h : walkPieces x a g i ≠ [] ∨ walkSems s n x a g i ≠ [] ∨ (g = 3 ∧ ∃ m ∈ walkMisses s n x a, i ∈ m.2)) (hm : findMap s x.ctx a = some (m, y)) :
    extentWalkS n x.ctx a g i s = addX n (x.ctx, handleOf m.num y, m.start) s := by
  rw [extentWalk_waited hl hx hc ho h, hm]

end

theorem addX_spec (e : Nat × Nat × Nat) (hx : stnOf s n = some x) :
    ∃ z, stnOf (addX n e s) n = some z ∧ z.xcache.head? = some e ∧ z.xcache.length ≤ 32 ∧ { z with xcache := x.xcache } = x :=
  ⟨_, stnOf_setStn_same hx _, rfl, by simp, rfl⟩

end

/-! ### STALE_EXTENT (R366) -/

theorem pieceOf_setPieces {n xid j st : Nat} (l : List Nat) {s : State} {x : Stn} {f : Xfer} {p : XPiece} (hx : stnOf s n = some x)
    (hp : pieceOf x xid j = some (f, p)) :
    ∃ y g q, stnOf (setPieces n xid l st s) n = some y ∧ pieceOf y xid j = some (g, q) ∧ (j ∈ l ∨ p.st = st → q.st = st) ∧ y.xcache = x.xcache := by
  unfold setPieces
  induction l generalizing s x f p with
  | nil => exact ⟨x, f, p, hx, hp, fun h => h.resolve_left (by simp), rfl⟩
  | cons k r ih =>
    rw [List.foldl_cons]
    have h1 : stnOf (setPiece n xid k st s) n = some (stnSet xid k st x) := stnOf_setStn_same hx _
    obtain ⟨y, g, q, hy, hq, hst, hc⟩ := ih h1 (pieceOf_stnSet (st := st) (k := k) hp)
    refine ⟨y, g, q, hy, hq, fun h => hst ?_, hc⟩
    by_cases e : j = k
    · exact .inr (by rw [if_pos e])
    · rw [if_neg e]
      exact h.imp_left fun h => (List.mem_cons.1 h).resolve_left e

theorem setPieces_stns (n xid st : Nat) (l : List Nat) (s : State) : StnsOnly s (setPieces n xid l st s) := by
  unfold setPieces
  induction l generalizing s with
  | nil => rfl
  | cons k r ih => exact (setStn_stnsOnly n _ s).trans (ih _)

/-- A refusal for a stale handle at a transfer: its pieces on the line are to be issued again, and the handle's entries are gone. -/
theorem staleExtent_xfer {s : State} {n c a xid k st : Nat} {r : Req} {x : Stn} {f : Xfer} {p : XPiece}
    (hf : s.home.net.find? (staleFor s n c a) = some (.refuse r st)) (hr : r.who = .xfer n xid k) (hx : stnOf s n = some x) (hp : pieceOf x xid k = some (f, p)) :
    ∃ y, stnOf (staleExtentS n c a s) n = some y ∧ y.xcache = x.xcache.filter (fun e => !decide (e.2.1 = r.handle)) ∧
      (∀ j ∈ servedBy f p, PieceAt (staleExtentS n c a s) n xid j 0) ∧
      (staleExtentS n c a s).home = { s.home with net := s.home.net.erase (.refuse r st) } ∧ (staleExtentS n c a s).mem = s.mem := by
  have hb : staleExtentS n c a s = setStn n (fun x => { x with xcache := x.xcache.filter (fun e => !decide (e.2.1 = r.handle)) })
      (setPieces n xid (servedBy f p) 0 { s with home := { s.home with net := s.home.net.erase (.refuse r st) } }) := by
    unfold staleExtentS
    rw [hf]
    dsimp only
    unfold unsend
    rw [hr]
    dsimp only
    rw [show stnOf { s with home := { s.home with net := s.home.net.erase (.refuse r st) } } n = some x from hx, Option.bind_some, hp]
    rfl
  have hx1 : stnOf { s with home := { s.home with net := s.home.net.erase (.refuse r st) } } n = some x := hx
  have hfr := setPieces_stns n xid 0 (servedBy f p) { s with home := { s.home with net := s.home.net.erase (.refuse r st) } }
  rw [hb]
  obtain ⟨y, g, q, hy, -, -, hc⟩ := pieceOf_setPieces (st := 0) (servedBy f p) hx1 hp
  refine ⟨_, stnOf_setStn_same hy _, by rw [hc], fun j hj => ?_, hfr.home, hfr.mem⟩
  obtain ⟨pj, hpj⟩ := mem_servedBy hj
  have hpj : pieceOf x xid j = some (f, pj) := pieceOf_iff.2 ⟨(pieceOf_iff.1 hp).1, hpj⟩
  obtain ⟨y, g, q, hy, hq, hst, -⟩ := pieceOf_setPieces (st := 0) (servedBy f p) hx1 hpj
  exact ⟨_, g, q, stnOf_setStn_same hy _, hq, hst (.inl hj)⟩

/-! ### ALL_STALLED (R374) -/

/-- The stations of a context's instances that run. -/
theorem allStalled_all {s : State} {c : Nat} : ((s.sch.stns.filter (fun e => decide (e.2.ctx = c ∧ e.2.kind ≠ 5) &&
      ((instOf s e.2.launch e.2.inst).map (fun i => decide (i.ph ≠ .complete))).getD false)).all (fun e => decide (1024 * 25 ≤ e.2.waited) && stnWaits s e.1 e.2)) = true ↔
    ∀ e ∈ s.sch.stns, e.2.ctx = c → e.2.kind ≠ 5 → ∀ i, instOf s e.2.launch e.2.inst = some i → i.ph ≠ .complete → 25600 ≤ e.2.waited ∧ stnWaits s e.1 e.2 = true := by
  rw [List.all_eq_true]
  constructor
  · intro h e he hc hk i hi hph
    have := h e (List.mem_filter.2 ⟨he, by simp [hc, hk, hi, hph]⟩)
    simpa using this
  · intro h e he
    obtain ⟨he, hq⟩ := List.mem_filter.1 he
    cases hi : instOf s e.2.launch e.2.inst with
    | none => simp [hi] at hq
    | some i =>
      simp only [hi, Option.map_some, Option.getD_some, Bool.and_eq_true, decide_eq_true_eq] at hq
      have := h e he hq.1.1 hq.1.2 i hi hq.2
      simpa using this

theorem triggerBatch_spec {s : State} {c trig : Nat} {x : Ctx} {b : Batch} (hc : ctxOf s c = some x) (hb : x.openBatch = some b) (hr : b.recs ≠ []) :
    ctxOf (triggerBatch c trig s) c = some { x with openBatch := none, waiting := x.waiting ++ [(b, trig)] } := by
  unfold triggerBatch
  rw [ctxOf_setCtx hc, hb]
  dsimp only
  rw [if_neg (by simp [hr])]

theorem triggerBatch_frame (c trig : Nat) (s : State) : ∃ l, triggerBatch c trig s = { s with ten := { s.ten with ctxs := l } } := setCtx_frame c _ s

theorem ctxOf_setCtx_other {s : State} {c d : Nat} (f : Ctx → Ctx) (h : d ≠ c) : ctxOf (setCtx c f s) d = ctxOf s d := by
  unfold setCtx
  split
  · rfl
  · unfold ctxOf
    by_cases e : d = 0
    · subst e
      simp [tget?_tput, h.symm]
    · simp [e, tget?_tput, h.symm]

/-! ### FAULT_BATCH_DELIVERY (R374, R375) -/

/-- The place of entry `i` of the fault ring. -/
def ringSlot (s : State) (i : Nat) : Nat := s.xt.ringBase + 64 * ((s.xt.head + i) % ringLen s)

theorem ringSlot_ne {s : State} (hl : s.xt.ringLog2 ≤ 20) {a b i j : Nat} (ha : a < ringLen s) (hb : b < ringLen s) (hab : a ≠ b) (hi : i < 64) (hj : j < 64) :
    hkey none (ringSlot s a + i) ≠ hkey none (ringSlot s b + j) := by
  have hL : ringLen s ≤ 2 ^ 20 := Nat.pow_le_pow_right (by omega) hl
  have hpos : 0 < ringLen s := by omega
  have h1 := Nat.mod_lt (s.xt.head + a) hpos
  have h2 := Nat.mod_lt (s.xt.head + b) hpos
  have hne : (s.xt.head + a) % ringLen s ≠ (s.xt.head + b) % ringLen s := by
    intro e
    have hm : a ≡ b [MOD ringLen s] := Nat.ModEq.add_left_cancel' _ e
    exact hab (Nat.ModEq.eq_of_lt_of_lt hm ha hb)
  unfold ringSlot hkey
  dsimp only
  generalize (s.xt.head + a) % ringLen s = u at *
  generalize (s.xt.head + b) % ringLen s = v at *
  omega

/-- One entry written to the ring. -/
def ringPost (s0 : State) (s : State) (e : List Byte × Nat) : State := hostPost none (ringSlot s0 e.2) e.1 s

theorem hostPost_hostOnly (p : Option Nat) (a : Nat) (bs : List Byte) (s : State) : hostPost p a bs s = { s with host := (hostPost p a bs s).host } := rfl

theorem putRing_eq (s : State) (es : List (List Byte)) (k : Nat) (t : State) (ht : t.xt = s.xt) :
    (es.zipIdx k).foldl (fun s e => hostPost none (s.xt.ringBase + 64 * ((s.xt.head + e.2) % ringLen s)) e.1 s) t = (es.zipIdx k).foldl (ringPost s) t := by
  induction es generalizing k t with
  | nil => rfl
  | cons e r ih =>
    rw [List.zipIdx_cons, List.foldl_cons, List.foldl_cons]
    have : hostPost none (t.xt.ringBase + 64 * ((t.xt.head + k) % ringLen t)) e t = ringPost s t (e, k) := by
      unfold ringPost ringSlot ringLen
      rw [ht]
    dsimp only
    rw [this]
    exact ih (k + 1) _ ht

theorem ringPost_frame (s : State) (l : List (List Byte × Nat)) (t : State) : ∃ h, l.foldl (ringPost s) t = { t with host := h } := by
  induction l generalizing t with
  | nil => exact ⟨t.host, rfl⟩
  | cons e r ih =>
    obtain ⟨h, e⟩ := ih (ringPost s t e)
    exact ⟨h, e⟩

theorem ringPost_other {s : State} (hl : s.xt.ringLog2 ≤ 20) {m j : Nat} (hm : m < ringLen s) (hj : j < 64) (es : List (List Byte)) (k : Nat) (hk : m < k) (hlen : k + es.length ≤ ringLen s)
    (h64 : ∀ e ∈ es, e.length = 64) (t : State) : tget 0 ((es.zipIdx k).foldl (ringPost s) t).host.mem (hkey none (ringSlot s m + j)) = tget 0 t.host.mem (hkey none (ringSlot s m + j)) := by
  induction es generalizing k t with
  | nil => rfl
  | cons e r ih =>
    rw [List.length_cons] at hlen
    rw [List.zipIdx_cons, List.foldl_cons, ih (k + 1) (by omega) (by omega) fun e he => h64 e (List.mem_cons_of_mem _ he)]
    refine tget_foldl_tset_other 0 (fun i => hkey none (ringSlot s k + i)) (fun i => nth 0 e i) _ _ _ fun i hi => ?_
    rw [List.mem_range, h64 e List.mem_cons_self] at hi
    exact ringSlot_ne hl (by omega) hm (by omega) hi hj

theorem ringPost_byte {s : State} (hl : s.xt.ringLog2 ≤ 20) {j : Nat} (hj : j < 64) (es : List (List Byte)) (k : Nat) (hlen : k + es.length ≤ ringLen s) (h64 : ∀ e ∈ es, e.length = 64)
    (t : State) {i : Nat} {bs : List Byte} (hi : es[i]? = some bs) : tget 0 ((es.zipIdx k).foldl (ringPost s) t).host.mem (hkey none (ringSlot s (k + i) + j)) = nth 0 bs j := by
  induction es generalizing k t i with
  | nil => cases hi
  | cons e r ih =>
    rw [List.length_cons] at hlen
    have hr := fun e he => h64 e (List.mem_cons_of_mem _ he)
    rw [List.zipIdx_cons, List.foldl_cons]
    cases i with
    | zero =>
      obtain rfl : e = bs := by simpa using hi
      have he := h64 e List.mem_cons_self
      rw [Nat.add_zero, ringPost_other hl (by omega) hj r (k + 1) (by omega) (by omega) hr]
      exact hostPost_byte none (ringSlot s k) e t (by omega) (by omega)
    | succ i =>
      rw [show k + (i + 1) = k + 1 + i by omega]
      exact ih (k + 1) (by omega) hr _ (by simpa using hi)

theorem length_batchHeader (s : State) (c trig : Nat) (b : Batch) : (batchHeader s c trig b).length = 64 := by
  unfold batchHeader
  exact length_layout (by simp)

theorem length_faultBytes (c q : Nat) (r : FaultRec) : (faultBytes c q r).length = 64 := by
  unfold faultBytes
  exact length_layout (by simp)

theorem faultRoom_len {s : State} {n : Nat} (h : faultRoom s n = true) : n + 1 ≤ ringLen s := by
  have h := of_decide_eq_true h
  have hp : 0 < ringLen s := Nat.two_pow_pos _
  have := Nat.mod_lt (s.xt.tail % ringLen s + ringLen s - s.xt.head % ringLen s - 1) hp
  omega

/-- The state in which a batch has been written and moved, and its vector not yet raised. -/
def batchMoved (s : State) (c : Nat) (b : Batch) (trig : Nat) (rest : List (Batch × Nat)) : State :=
  setCtx c (fun x => { x with waiting := rest, unresolved := x.unresolved ++ [b] })
    { putRing (batchHeader s c trig b :: b.recs.map (faultBytes c b.seq)) s with
      xt := { (putRing (batchHeader s c trig b :: b.recs.map (faultBytes c b.seq)) s).xt with
        head := (s.xt.head + b.recs.length + 1) % ringLen s, delivered := satAdd (2 ^ 32 - 1) s.xt.delivered 1 } }

theorem faultDelivery_eq {s : State} {c : Nat} {x : Ctx} {b : Batch} {trig : Nat} {rest : List (Batch × Nat)} (hc : ctxOf s c = some x) (hw : x.waiting = (b, trig) :: rest) :
    faultDeliveryS c s = if ¬ s.xt.ringEnable ∨ ¬ faultRoom s b.recs.length then s else raiseMsix s.xt.ringVec (batchMoved s c b trig rest) := by
  unfold faultDeliveryS
  rw [hc]
  dsimp only
  rw [hw]
  rfl

theorem batchMoved_spec {s : State} {c : Nat} {x : Ctx} {b : Batch} {trig : Nat} {rest : List (Batch × Nat)} (hc : ctxOf s c = some x) (hroom : faultRoom s b.recs.length = true) :
    (batchMoved s c b trig rest).xt.head = (s.xt.head + b.recs.length + 1) % ringLen s ∧
    (batchMoved s c b trig rest).xt.delivered = min (2 ^ 32 - 1) (s.xt.delivered + 1) ∧
    ctxOf (batchMoved s c b trig rest) c = some { x with waiting := rest, unresolved := x.unresolved ++ [b] } ∧ (batchMoved s c b trig rest).mem = s.mem ∧
    (s.xt.ringLog2 ≤ 20 → ∀ (i : Nat) bs, (batchHeader s c trig b :: b.recs.map (faultBytes c b.seq))[i]? = some bs → ∀ j < 64,
      tget 0 (batchMoved s c b trig rest).host.mem (hkey none (s.xt.ringBase + 64 * ((s.xt.head + i) % ringLen s) + j)) = nth 0 bs j) := by
  have heq : putRing (batchHeader s c trig b :: b.recs.map (faultBytes c b.seq)) s = ((batchHeader s c trig b :: b.recs.map (faultBytes c b.seq)).zipIdx).foldl (ringPost s) s :=
    putRing_eq s _ 0 s rfl
  obtain ⟨h, hr⟩ := ringPost_frame s ((batchHeader s c trig b :: b.recs.map (faultBytes c b.seq)).zipIdx) s
  have hbyte := fun (hl : s.xt.ringLog2 ≤ 20) (i : Nat) (bs : List Byte) hi (j : Nat) hj =>
    ringPost_byte hl (j := j) hj (batchHeader s c trig b :: b.recs.map (faultBytes c b.seq)) 0 (by have := faultRoom_len hroom; simp; omega)
      (fun e he => by
        rcases List.mem_cons.1 he with rfl | he
        · exact length_batchHeader ..
        · obtain ⟨r, -, rfl⟩ := List.mem_map.1 he
          exact length_faultBytes ..) s (i := i) (bs := bs) hi
  unfold batchMoved
  rw [heq]
  rw [hr] at hbyte ⊢
  generalize hz : ({ { s with host := h } with xt := { ({ s with host := h } : State).xt with head := (s.xt.head + b.recs.length + 1) % ringLen s, delivered := satAdd (2 ^ 32 - 1) s.xt.delivered 1 } } : State) = z
  have hzc : ctxOf z c = some x := by rw [← hz]; exact hc
  obtain ⟨l, hs⟩ := setCtx_frame c (fun x => { x with waiting := rest, unresolved := x.unresolved ++ [b] }) z
  refine ⟨?_, ?_, ctxOf_setCtx hzc _, ?_, fun hl i bs hi j hj => ?_⟩
  · rw [hs, ← hz]
  · rw [hs, ← hz]
    rfl
  · rw [hs, ← hz]
  · rw [hs, ← hz]
    have := hbyte hl i bs hi j hj
    rwa [Nat.zero_add] at this

/-! ### The aperture (R349, R368-R370) -/

theorem apCount_spec (page : Nat) (poison : Bool) (s : State) :
    (apCount page poison s).pci = s.pci ∧ (apCount page poison s).mem = s.mem ∧ (apCount page poison s).home = s.home ∧
    (poison = false → (apCount page poison s).xt.apMisses = min (2 ^ 32 - 1) (s.xt.apMisses + 1)) ∧
    (poison = true → (apCount page poison s).xt.apPoisoned = min (2 ^ 32 - 1) (s.xt.apPoisoned + 1)) := by
  unfold apCount
  cases s.xt.apMissAt
  all_goals dsimp only; split
  all_goals exact ⟨rfl, rfl, rfl, fun h => by subst h; rfl, fun h => by subst h; rfl⟩

/-- Settles O54: a walk, a stale handle and a batch are read off their steps, an aperture write is the request of its home,
and write-back changes where a host byte lies and not what it reads as. -/
theorem translationMissesFaultBatchesAndTheAperture : Obligations.TranslationMissesFaultBatchesAndTheAperture := by
  unfold Obligations.TranslationMissesFaultBatchesAndTheAperture
  refine ⟨?_, ?_, ?_, ?_, ?_, ?_, ?_⟩
  · intro s n x a g i acc len hup hh hl hx hc ho
    have hsx : stnOf s n = some x := liveOf_stnOf _ _ _ hl
    refine ⟨fun hp hw hm => ifRun_idle (extentWalk_idle hl hp hw hm), fun h m y hm => ?_, fun f p k hp hw hg hm => ?_, fun m ws hp hw hmiss hi hm => ?_⟩
    · obtain ⟨z, h1, h2, h3, h4⟩ := addX_spec (x.ctx, handleOf m.num y, m.start) hsx
      refine ⟨addX n (x.ctx, handleOf m.num y, m.start) s, z, ?_, h1, h2, h3, h4, rfl, rfl, fun j hj => stnOf_setStn_other s hj _⟩
      exact (ifRun_ready hup hh).trans (congrArg _ (extentWalk_mapped hl hx hc ho h hm))
    · refine (ifRun_ready hup hh).trans (congrArg _ ?_)
      rw [extentWalk_waited hl hx hc ho (.inl (by simp [hp])), hm, hp, hw, if_neg hg]
      rfl
    · refine (ifRun_ready hup hh).trans (congrArg _ ?_)
      rw [extentWalk_waited hl hx hc ho (.inr (.inr ⟨rfl, (m, ws), by simp [hmiss], hi⟩)), hm, hp, hw, hmiss, if_pos rfl]
      simp [hi]
  · intro s n c a hup
    refine ⟨fun h => (ifUp_ready hup).trans (congrArg _ ?_), fun r st xid k x f p hf hr hx hp => ?_⟩
    · unfold staleExtentS
      rw [List.find?_eq_none.2 fun m hm => by simp [h m hm]]
    · obtain ⟨y, h1, h2, h3, h4, h5⟩ := staleExtent_xfer hf hr hx hp
      exact ⟨_, y, ifUp_ready hup, h1, h2, h3, h4, h5⟩
  · intro s c x b hup hc hb hr
    refine ⟨fun h => (ifUp_ready hup).trans (congrArg _ ?_), fun hrun hall => ?_⟩
    · rcases h with h | ⟨e, he, h1, h2, ⟨i, hi, hph⟩, hw⟩
      · rw [h]
        rfl
      · have hno : allStalledS c s = s := by
          unfold allStalledS
          dsimp only
          rw [if_neg]
          intro hall
          obtain ⟨w1, w2⟩ := allStalled_all.1 hall e he h1 h2 i hi hph
          rcases hw with hw | hw
          · omega
          · rw [hw] at w2
            cases w2
        cases ctxRunning s c
        · rfl
        · exact hno
    · have hgo : guardS (ctxRunning s c) (allStalledS c) s = triggerBatch c 2 s := by
        rw [hrun, guardS_true]
        unfold allStalledS
        dsimp only
        rw [if_pos (allStalled_all.2 hall)]
      obtain ⟨l, hl⟩ := triggerBatch_frame c 2 s
      exact ⟨triggerBatch c 2 s, (ifUp_ready hup).trans (congrArg _ hgo), triggerBatch_spec hc hb hr, by rw [hl], fun d hd => ctxOf_setCtx_other _ hd⟩
  · intro s c x b trig rest hup hc hw
    refine ⟨fun h => (ifUp_ready hup).trans (congrArg _ ?_), fun h1 h2 => ⟨batchMoved s c b trig rest, (ifUp_ready hup).trans (congrArg _ ?_), batchMoved_spec hc h2⟩⟩
    · rw [faultDelivery_eq hc hw, if_pos (h.imp (by simp [·]) (by simp [·]))]
    · rw [faultDelivery_eq hc hw, if_neg (by simp [h1, h2])]
  · intro s off n
    have hread (hb : BarUp s) : exec (.bar4Read off n) s = .next (bar4ReadS off n s) := congrArg Host.Outcome.next (if_pos hb.1)
    refine ⟨fun h => ?_, fun hb h => ?_, fun hb c a h => ⟨fun hbusy => ?_, fun hbusy hp => ?_, fun hbusy hp => ?_⟩⟩
    · by_cases hup : s.pwr.phase = .ready
      · have hbus : busUp s = false := h.resolve_left (fun e => e hup)
        refine (congrArg Host.Outcome.next (if_pos hup)).trans (congrArg _ ?_)
        unfold bar4ReadS
        rw [if_pos (by simp [hbus])]
      · exact congrArg Host.Outcome.next (if_neg hup)
    · obtain ⟨h1, h2, -, h4, -⟩ := apCount_spec (off / 65536) false (onesBack n false s)
      refine ⟨_, (hread hb).trans (congrArg _ ?_), by rw [h1]; rfl, h4 rfl, h2⟩
      unfold bar4ReadS
      rw [if_neg (by simp [hb.2]), h]
    · refine (hread hb).trans (congrArg _ ?_)
      unfold bar4ReadS
      rw [if_neg (by simp [hb.2]), h]
      exact if_pos hbusy
    · obtain ⟨h1, h2, -, -, h5⟩ := apCount_spec (off / 65536) true (onesBack n true s)
      refine ⟨_, (hread hb).trans (congrArg _ ?_), by rw [h1]; rfl, by rw [h1]; rfl, h5 rfl, h2⟩
      unfold bar4ReadS
      rw [if_neg (by simp [hb.2]), h]
      exact (if_neg (by simp [hbusy])).trans (if_pos hp)
    · refine ⟨{ s with pci := { s.pci with rdData := ctxRead s c a n, rdPoison := false } }, (hread hb).trans (congrArg _ ?_), rfl, rfl⟩
      unfold bar4ReadS
      rw [if_neg (by simp [hb.2]), h]
      exact (if_neg (by simp [hbusy])).trans (if_neg (by simp [hp]))
  · intro s off d hup
    have hwr : exec (.bar4Write off d) s = .next (bar4WriteS off d s) := ifUp_ready hup
    have hgo (hb : busUp s = true) (hd : d ≠ []) {c a : Nat} (h : apServe s off d.length true = some (c, a)) : bar4WriteS off d s = ctxWrite c a d .bar4 s := by
      unfold bar4WriteS
      rw [if_neg (by simp [hb, hd]), h]
    refine ⟨fun h => hwr.trans (congrArg _ ?_), fun hb hd h => ?_, fun c a p hb hd h hlen ht hoff hl hh hc hway hrep => ?_, fun c a p hb hd h hlen hlt ht hoff hh hc => ?_,
      fun c a hb hd h => hwr.trans (congrArg _ (hgo hb hd h))⟩
    · unfold bar4WriteS
      rw [if_pos (h.imp (by simp [·]) (by simp [·]))]
    · obtain ⟨-, h2, h3, h4, -⟩ := apCount_spec (off / 65536) false s
      refine ⟨_, hwr.trans (congrArg _ ?_), h4 rfl, h2, h3⟩
      unfold bar4WriteS
      rw [if_neg (by simp [hb, hd]), h]
    · have hex := (hgo hb hd h).trans (ctxWrite_one .bar4 hlen hd ht)
      obtain ⟨h1, h2⟩ := homeRequest_write_run (o := p.off) (bs := d) hh hl (by omega) hc hway hrep
      exact ⟨_, hwr.trans (congrArg _ hex), h1, h2⟩
    · have hex := (hgo hb hd h).trans (ctxWrite_one .bar4 hlen hd ht)
      exact ⟨_, _, _, hwr.trans (congrArg _ hex), homeRequest_write_fills hh hc (runMask_part (by omega) hlt)⟩
  · intro s die keys hup
    refine ⟨fun h => (ifUp_ready hup).trans (congrArg _ ?_), fun ha hl hwf => ⟨writeBack (fun k => decide (k ∈ keys ∧ wcDie k = die)) s, ?_, rfl, ?_, fun k hk hd => ?_, fun k hk => ?_⟩⟩
    · have : (s.pci.active && s.pci.linkUp) = false := by
        rcases h with h | h <;> simp [h]
      rw [this, guardS_false]
    · refine (ifUp_ready hup).trans (congrArg _ ?_)
      rw [ha, hl]
      rfl
    · unfold HostMem.wf at hwf
      exact writeBack_hostByte _ (by simp at hwf; exact hwf.2)
    · have hb := writeBack_byte (fun k => decide (k ∈ keys ∧ wcDie k = die)) s k
      obtain ⟨h1, -, -⟩ := hb.1 (decide_eq_true ⟨hk, hd⟩)
      refine ⟨h1, fun b hbb => ?_⟩
      have hh := writeBack_hostByte (fun k => decide (k ∈ keys ∧ wcDie k = die)) (s := s) (by unfold HostMem.wf at hwf; simp at hwf; exact hwf.2) k
      unfold hostByte at hh
      rw [h1, hbb] at hh
      exact hh
    · exact (writeBack_byte (fun k => decide (k ∈ keys ∧ wcDie k = die)) s k).2 (decide_eq_false (by
        rintro ⟨h1, h2⟩
        exact hk.elim (fun h => h h1) (fun h => h h2)))

end Sys2Proof.Machine
end

section
/-! PROOF. Riberex packets: requests in, answers and losses (R379, R499-R516). -/

namespace Sys2Proof.Machine

/-! ### What the ports leave alone -/

theorem flushEvents_mem (s : State) : (flushEvents s).mem = s.mem := (congrArg (fun s : State => s.mem) (notEvents_flushEvents s) :)

theorem rung1Start_mem (c r : Nat) (l : List (Nat × Nat)) (s : State) : (rung1Start c r l s).mem = s.mem := by
  unfold rung1Start
  split
  · rfl
  · split
    · rfl
    · exact startRung_mem ..

theorem stationFault_mem (n code ik idx co addr detail : Nat) (s : State) : (stationFault n code ik idx co addr detail s).mem = s.mem := by
  unfold stationFault
  split
  · rfl
  · dsimp only
    split
    · rfl
    · exact (rung1Start_mem ..).trans (flushEvents_mem _)

theorem agentFault_mem (a : Agent) (code detail : Nat) (s : State) : (agentFault a code detail s).mem = s.mem := by
  have hf (n code ik idx co addr detail : Nat) (s : State) := stationFault_mem n code ik idx co addr detail s
  cases a with
  | xfer n xid k => unfold agentFault; dsimp only; split <;> first | exact hf .. | rfl
  | sem n => unfold agentFault; dsimp only; split <;> first | exact hf .. | rfl
  | semGrp n g =>
    unfold agentFault
    dsimp only
    split
    · split <;> exact hf ..
    · rfl
  | missReg n r => unfold agentFault; dsimp only; split <;> first | exact hf .. | rfl
  | _ => rfl

theorem foldl_mem {α : Type} {f : State → α → State} (h : ∀ s a, (f s a).mem = s.mem) (l : List α) (s : State) : (l.foldl f s).mem = s.mem := by
  induction l generalizing s with
  | nil => rfl
  | cons a r ih => exact (ih _).trans (h s a)

theorem drainPort_mem (p n : Nat) (s : State) : (drainPort p n s).mem = s.mem := by
  induction n generalizing s with
  | zero => rfl
  | succ n ih =>
    unfold drainPort
    dsimp only
    split
    · rfl
    · split
      · exact ih _
      · exact ih _

theorem emitPkt_mem (p : Nat) (k : Pkt) (s : State) : (emitPkt p k s).mem = s.mem := drainPort_mem ..

/-- A lost request is noted at its port die. -/
theorem expiredEvent_frame (d w dev : Nat) (s : State) : (expiredEvent d w dev s).mem = s.mem ∧ (expiredEvent d w dev s).sch = s.sch ∧
    (expiredEvent d w dev s).rbx.out = s.rbx.out ∧ (expiredEvent d w dev s).rbx.expired = s.rbx.expired := by
  unfold expiredEvent
  cases tget? s.rbx.expAt d
  all_goals dsimp only; split
  all_goals exact ⟨rfl, rfl, rfl, rfl⟩

theorem expireReq_mem (q : RReq) (s : State) : (expireReq q s).mem = s.mem := by
  unfold expireReq
  dsimp only
  split
  · exact (expiredEvent_frame ..).1
  · exact (agentFault_mem ..).trans (expiredEvent_frame ..).1

theorem semDone_mem (a : Agent) (s : State) : (semDone a s).mem = s.mem := by
  unfold semDone
  split <;> rfl

theorem trySend_mem (q : RReq) (s : State) : (trySend q s).mem = s.mem := by
  unfold trySend
  split
  · exact expireReq_mem ..
  · split
    · dsimp only
      split
      · exact (semDone_mem ..).trans (emitPkt_mem ..)
      · exact emitPkt_mem ..
    · rfl

theorem sendAnswer_mem (s : State) : (sendAnswer s).mem = s.mem := by
  unfold sendAnswer
  split
  · rfl
  · split
    · split
      · exact emitPkt_mem ..
      · rfl
    · rfl

theorem pumpRbx_mem (s : State) : (pumpRbx s).mem = s.mem := by
  unfold pumpRbx
  dsimp only
  rw [foldl_mem (fun s q => trySend_mem q s), foldl_mem (fun s _ => sendAnswer_mem s), foldl_mem (fun s p => drainPort_mem p _ s), foldl_mem (fun s q => trySend_mem q s)]

/-! ### Receive buffers -/

/-- From `s` to `t` only the ports' registers and buffers have changed. -/
def PortsOnly (s t : State) : Prop := t = { s with rbx := { s.rbx with ports := t.rbx.ports } }

theorem freeRx_ports (vc n : Nat) (s : State) : PortsOnly s (freeRx vc n s) := by
  have h (l : List Nat) (a : Nat × State) : PortsOnly a.2 (l.foldl (fun (a : Nat × State) p =>
      let k := min a.1 (nth 0 (portOf a.2 p).rxUsed vc)
      if k = 0 then a else (a.1 - k, setPort p (fun u => { u with rxUsed := putNth u.rxUsed vc (nth 0 u.rxUsed vc - k) }) a.2)) a).2 := by
    induction l generalizing a with
    | nil => rfl
    | cons p r ih =>
      rw [List.foldl_cons]
      have h1 := ih (let k := min a.1 (nth 0 (portOf a.2 p).rxUsed vc)
        if k = 0 then a else (a.1 - k, setPort p (fun u => { u with rxUsed := putNth u.rxUsed vc (nth 0 u.rxUsed vc - k) }) a.2))
      unfold PortsOnly at *
      rw [h1]
      dsimp only
      split <;> rfl
  exact h _ (n, s)

theorem rangeMapped_rbx (r : Rbx) (s : State) (c a n : Nat) : rangeMapped { s with rbx := r } c a n = rangeMapped s c a n := by
  unfold rangeMapped
  rfl

theorem translate_rbx (r : Rbx) (s : State) (c a : Nat) : translate { s with rbx := r } c a = translate s c a := rfl

theorem routeClear_rbx (r : Rbx) (s : State) (a : Nat) (l : List Nat) : routeClear { s with rbx := r } a l = routeClear s a l := by
  induction l generalizing a with
  | nil => rfl
  | cons b l ih =>
    unfold routeClear
    rw [ih]
    rfl

theorem ringFwd_rbx (r : Rbx) (s : State) (i n : Nat) : ringFwd { s with rbx := r } i n = ringFwd s i n := by
  induction n generalizing i with
  | zero => rfl
  | succ n ih =>
    unfold ringFwd
    rw [ih]
    rfl

theorem ringOk_rbx (r : Rbx) (s : State) (p : Nat) : ringOk { s with rbx := r } p = ringOk s p := by
  unfold ringOk ringReach ringRoute ringWhole
  simp only [ringFwd_rbx]

theorem homeAnswers_rbx (r : Rbx) (s : State) (k : Nat) (w : Agent) : homeAnswers { s with rbx := r } k w = homeAnswers s k w := by
  unfold homeAnswers routeOk
  simp only [ringOk_rbx, routeClear_rbx]
  rfl

theorem ctxUnavailable_rbx (r : Rbx) (s : State) (c a n : Nat) (w : Agent) : ctxUnavailable { s with rbx := r } c a n w = ctxUnavailable s c a n w := by
  unfold ctxUnavailable
  simp only [translate_rbx, homeAnswers_rbx]

theorem notOwned_rbx (r : Rbx) (s : State) (c a : Nat) : notOwned { s with rbx := r } c a = notOwned s c a := rfl

theorem findMap_rbx (r : Rbx) (s : State) (c a : Nat) : findMap { s with rbx := r } c a = findMap s c a := rfl

theorem inbCheck_ports {s t : State} (h : PortsOnly s t) (p : Pkt) : inbCheck t p = inbCheck s p := by
  rw [h]
  unfold inbCheck
  simp only [rangeMapped_rbx, ctxUnavailable_rbx, notOwned_rbx, findMap_rbx]

theorem answered_ports {s t : State} (h : PortsOnly s t) (p : Pkt) : answered t p = answered s p := by
  rw [h]
  rfl

theorem PortsOnly.frame {s t : State} (h : PortsOnly s t) : { t with rbx := s.rbx } = s := by
  rw [h]

theorem PortsOnly.out {s t : State} (h : PortsOnly s t) : t.rbx.out = s.rbx.out := by
  rw [h]

/-! ### Requests in (R379, R499, R500) -/

/-- A packet is counted against its window: only the Riberex counters change. -/
theorem countRefused_frame (w st : Nat) (s : State) : countRefused w st s = { s with rbx := { s.rbx with
    refused := (countRefused w st s).rbx.refused, lastStatus := (countRefused w st s).rbx.lastStatus } } := by
  unfold countRefused
  split <;> rfl

theorem countRefused_counts {w st : Nat} (h : st ≠ 6) (s : State) :
    tget 0 (countRefused w st s).rbx.refused w = min (2 ^ 32 - 1) (tget 0 s.rbx.refused w + 1) ∧ tget 0 (countRefused w st s).rbx.lastStatus w = st := by
  unfold countRefused
  rw [if_neg h]
  refine ⟨?_, ?_⟩
  · rw [tget_tmod, if_pos rfl]
    rfl
  · rw [tget_tset, if_pos rfl]

/-- A request whose receive buffers have been freed. -/
def freed (p : Pkt) (s : State) : State := freeRx (vcOf p.ptype) (pktFlits p) s

theorem freed_ports (p : Pkt) (s : State) : PortsOnly s (freed p s) := freeRx_ports ..

/-- A refused request, counted, and its answer owed. -/
def turnedAway (p : Pkt) (st : Nat) (s : State) : State :=
  { countRefused p.window st s with rbx := { (countRefused p.window st s).rbx with answers := s.rbx.answers ++ [answerPkt s p st []] } }

theorem inbound_refused {p : Pkt} {s : State} (h : (inbCheck s p).1 ≠ 0) : inbound p s = pumpRbx (turnedAway p (inbCheck s p).1 (freed p s)) := by
  unfold inbound
  dsimp only
  rw [show freeRx (vcOf p.ptype) (pktFlits p) s = freed p s from rfl, inbCheck_ports (freed_ports p s)]
  split
  · next e _ => exact absurd e h
  · rfl

theorem inbound_taken {p : Pkt} {s : State} {w : Window} (h : (inbCheck s p).1 = 0) (hw : tget? s.xt.windows p.window = some w) :
    inbound p s = pumpRbx (inbBegin p w.owner (inbCheck s p).2 (freed p s)) := by
  unfold inbound
  dsimp only
  rw [show freeRx (vcOf p.ptype) (pktFlits p) s = freed p s from rfl, inbCheck_ports (freed_ports p s), h,
    show tget? (freed p s).xt.windows p.window = some w by rw [freed_ports p s]; exact hw]
  rfl

theorem turnedAway_spec (p : Pkt) (st : Nat) (s : State) :
    (turnedAway p st (freed p s)).rbx.answers = s.rbx.answers ++ [answerPkt s p st []] ∧ { turnedAway p st (freed p s) with rbx := s.rbx } = s ∧
    (st ≠ 6 → tget 0 (turnedAway p st (freed p s)).rbx.refused p.window = min (2 ^ 32 - 1) (tget 0 s.rbx.refused p.window + 1) ∧
      tget 0 (turnedAway p st (freed p s)).rbx.lastStatus p.window = st) ∧
    (st = 6 → (turnedAway p st (freed p s)).rbx.refused = s.rbx.refused) ∧ (turnedAway p st (freed p s)).rbx.inb = s.rbx.inb := by
  have hp := freed_ports p s
  generalize freed p s = u at *
  unfold PortsOnly at hp
  have ha : answerPkt u p st [] = answerPkt s p st [] := by
    rw [hp]
    rfl
  have hc (h : st ≠ 6) := countRefused_counts (w := p.window) h u
  refine ⟨?_, ?_, fun h => ?_, fun h => ?_, ?_⟩
  · unfold turnedAway
    rw [ha, hp]
  · unfold turnedAway
    rw [countRefused_frame, hp]
  · have hr : u.rbx.refused = s.rbx.refused := by rw [hp]
    obtain ⟨h1, h2⟩ := hc h
    rw [hr] at h1
    exact ⟨h1, h2⟩
  · unfold turnedAway countRefused
    rw [if_pos h, hp]
  · unfold turnedAway
    rw [countRefused_frame, hp]

/-- The commands of inbound packets, each with the type it acts on: what runs where the type is known or no port is up. -/
theorem packet_exec {p : Pkt} {i : Instr} {ty : Nat} (h : (i, ty) ∈ [(Instr.rbxWrite p, 1), (.rbxRead p, 2), (.rbxRed p, 3), (.rbxSemAdd p, 4), (.rbxBarrier p, 0x20), (.rbxAck p, 0x10), (.rbxReadData p, 0x11)]) :
    ∃ f : Pkt → State → State, (ty ∈ [1, 2, 3, 4] → f = inbound) ∧
      ∀ s, s.pwr.phase = .ready → anyPort s = false ∨ p.ptype ∈ pktTypes → exec i s = .next (inbIf ty f p s) := by
  simp only [List.mem_cons, List.not_mem_nil, or_false, Prod.mk.injEq] at h
  rcases h with ⟨rfl, rfl⟩ | ⟨rfl, rfl⟩ | ⟨rfl, rfl⟩ | ⟨rfl, rfl⟩ | ⟨rfl, rfl⟩ | ⟨rfl, rfl⟩ | ⟨rfl, rfl⟩
  · refine ⟨inbound, fun _ => rfl, fun s hup ht => (ifUp_ready hup).trans (congrArg _ ?_)⟩
    unfold writePktS
    rw [if_neg]
    rintro ⟨h1, h2⟩
    rcases ht with h | h
    · rw [h] at h1
      cases h1
    · exact h2 h
  · exact ⟨inbound, fun _ => rfl, fun s hup _ => ifUp_ready hup⟩
  · exact ⟨inbound, fun _ => rfl, fun s hup _ => ifUp_ready hup⟩
  · exact ⟨inbound, fun _ => rfl, fun s hup _ => ifUp_ready hup⟩
  · exact ⟨barrierS, fun h => absurd h (by decide), fun s hup _ => ifUp_ready hup⟩
  · exact ⟨response, fun h => absurd h (by decide), fun s hup _ => ifUp_ready hup⟩
  · exact ⟨response, fun h => absurd h (by decide), fun s hup _ => ifUp_ready hup⟩

theorem inbIf_on {ty : Nat} {f : Pkt → State → State} {p : Pkt} {s : State} (h : p.ptype = ty) (ha : anyPort s = true) : inbIf ty f p s = f p s := if_pos ⟨h, ha⟩

theorem rbxWrite_on {p : Pkt} {s : State} (hup : s.pwr.phase = .ready) (h : p.ptype = 1) (ha : anyPort s = true) : exec (.rbxWrite p) s = .next (inbound p s) := by
  refine (ifUp_ready hup).trans (congrArg _ ?_)
  unfold writePktS
  rw [if_neg (by rintro ⟨-, e⟩; rw [h] at e; exact e (by decide)), inbIf_on h ha]

/-- The record of a request whose accesses begin. -/
def inbRecord (p : Pkt) (c a : Nat) (s : State) : InPkt where
  pkt := p
  left := (inbLines s c a p.length).map (fun l => (l.1.stack, l.1.line))
  parts := (inbLines s c a p.length).map (fun l => (l.1.stack, l.1.line, l.1.off, l.2.2, l.2.1))
  data := zeros p.length

/-- A request is recorded and its accesses begin. -/
def inbNoted (p : Pkt) (c a : Nat) (s : State) : State := { s with rbx := { s.rbx with inb := s.rbx.inb ++ [inbRecord p c a s] } }

theorem inbBegin_write {p : Pkt} (h : p.ptype = 1) (c a : Nat) (s : State) :
    inbBegin p c a s = ctxWrite c a p.data (.rbx p.window p.src p.tag) (inbNoted p c a s) := by
  unfold inbBegin
  dsimp only
  rw [if_pos h]
  rfl

/-- The bytes of an accepted write are as many as its LENGTH, and at least 4. -/
theorem inbCheck_write {p : Pkt} {s : State} (h : p.ptype = 1) (hc : (inbCheck s p).1 = 0) : p.data.length = p.length ∧ p.data ≠ [] := by
  have hok : requestOk p = true := by
    by_contra e
    unfold inbCheck at hc
    rw [if_pos (by simpa using e)] at hc
    cases hc
  unfold requestOk shapeOk dataLen at hok
  rw [h] at hok
  simp at hok
  obtain ⟨⟨⟨-, hs⟩, -⟩, -, -, -, -, -, -, hd⟩ := hok
  refine ⟨hd, fun e => ?_⟩
  rw [e, List.length_nil] at hd
  omega

theorem homeTakes_rbx {r : Rbx} {s : State} {q : Req} (h : HomeTakes s q) : HomeTakes { s with rbx := r } q := by
  obtain ⟨⟨h1, h2, h3, h4, h5⟩, h6⟩ := h
  refine ⟨⟨?_, h2, h3, h4, h5⟩, h6⟩
  unfold homeRefuses at *
  rw [homeAnswers_rbx]
  exact h1

theorem wayFor_rbx (r : Rbx) (s : State) (k l : Nat) : wayFor { s with rbx := r } k l = wayFor s k l := by
  unfold wayFor
  rfl

/-- Recording an inbound request changes the Riberex state alone. -/
theorem inbNoted_freed (p : Pkt) (c a : Nat) (s : State) : ∃ r, inbNoted p c a (freed p s) = { s with rbx := r } := by
  refine ⟨(inbNoted p c a (freed p s)).rbx, ?_⟩
  have h := freed_ports p s
  unfold PortsOnly at h
  unfold inbNoted
  rw [h]

/-- An accepted write of one line is that line's write at its home, and then the ports send what they can. -/
theorem rbxWrite_line {s : State} {p : Pkt} {w : Window} {q : Place} (hup : s.pwr.phase = .ready) (ha : anyPort s = true) (hty : p.ptype = 1) (hc : (inbCheck s p).1 = 0)
    (hw : tget? s.xt.windows p.window = some w) (hlen : (inbCheck s p).2 % 128 + p.length ≤ 128) (hq : translate s w.owner (inbCheck s p).2 = some q) :
    ∃ r, exec (.rbxWrite p) s = .next (pumpRbx (homeRequest (.write ⟨q.stack, q.line, w.owner, q.handle, .rbx p.window p.src p.tag⟩ (runMask q.off p.data.length) (runData q.off p.data))
      { s with rbx := r })) := by
  obtain ⟨hd, hne⟩ := inbCheck_write hty hc
  obtain ⟨r, hr⟩ := inbNoted_freed p w.owner (inbCheck s p).2 s
  refine ⟨r, (rbxWrite_on hup hty ha).trans (congrArg _ ?_)⟩
  rw [inbound_taken hc hw, inbBegin_write hty, hr]
  exact congrArg pumpRbx (ctxWrite_one _ (by omega) hne ((translate_rbx ..).trans hq))

/-! ### Barriers (R501) -/

theorem arriveCount_spec {s : State} {w c : Nat} {x : Window} (n : Nat) (hw : tget? s.xt.windows w = some x) (hc : c < 16) :
    counterVal (arriveCount w c n s) w c = (counterVal s w c + (if bitOf x.counterMode c then 1 else n)) % 2 ^ 64 ∧
    (arriveCount w c n s).rbx = s.rbx ∧ ∀ v d, d < 16 → (v ≠ w ∨ d ≠ c) → counterVal (arriveCount w c n s) v d = counterVal s v d := by
  have hx (u k o : Nat) (v : Int) (t : State) : (wakeWaiters u k o v t).xt = t.xt ∧ (wakeWaiters u k o v t).rbx = t.rbx := by
    rw [wakeWaiters_eq]
    exact ⟨rfl, rfl⟩
  unfold arriveCount counterVal
  rw [hw]
  dsimp only
  refine ⟨?_, (hx ..).2, fun v d hd hne => ?_⟩
  · rw [(hx ..).1]
    dsimp only
    rw [tget_tset, if_pos rfl]
  · rw [(hx ..).1]
    dsimp only
    rw [tget_tset, if_neg (by omega)]

/-! ### Responses (R504, R508, R516) -/

/-- A response's packet has left its buffers, and its request is off the list. -/
def requestOff (p : Pkt) (q : RReq) (s : State) : State :=
  { freeRx 1 (pktFlits p) s with rbx := { (freeRx 1 (pktFlits p) s).rbx with out := (freeRx 1 (pktFlits p) s).rbx.out.filter (fun x => !decide (x.tag = q.tag)) } }

theorem requestOff_frame (p : Pkt) (q : RReq) (s : State) : { requestOff p q s with rbx := s.rbx } = s := by
  have h := freeRx_ports 1 (pktFlits p) s
  unfold PortsOnly at h
  unfold requestOff
  rw [h]

theorem requestOff_out (p : Pkt) (q : RReq) (s : State) : ∀ x ∈ (requestOff p q s).rbx.out, x.tag ≠ q.tag := by
  intro x hx
  unfold requestOff at hx
  dsimp only at hx
  have := (List.mem_filter.1 hx).2
  simpa using this

theorem answered_tag {s : State} {p : Pkt} {q : RReq} (h : answered s p = some q) : q.tag = p.tag := by
  have := List.find?_some h
  simp only [Bool.and_eq_true, decide_eq_true_eq] at this
  exact this.1.1

theorem response_bad {p : Pkt} {s : State} (h : responseOk p = false) : response p s = countRefused p.window 1 (freeRx 1 (pktFlits p) s) := by
  unfold response
  dsimp only
  rw [if_pos (by simp [h])]

theorem response_late {p : Pkt} {s : State} (h : responseOk p = true) (ha : answered s p = none) : response p s = lateResponse (freeRx 1 (pktFlits p) s) := by
  unfold response
  dsimp only
  rw [if_neg (by simp [h]), answered_ports (freeRx_ports ..), ha]

theorem response_piper {p : Pkt} {s : State} {q : RReq} {k e l : Nat} (h : responseOk p = true) (ha : answered s p = some q) (hq : q.piper = some (k, e, l)) :
    response p s = pumpRbx (if p.status = 0 then requestOff p q s else refuseBlock k e l (requestOff p q s)) := by
  unfold response
  dsimp only
  rw [if_neg (by simp [h]), answered_ports (freeRx_ports ..), ha]
  dsimp only
  rw [hq]
  rfl

theorem response_agent {p : Pkt} {s : State} {q : RReq} (h : responseOk p = true) (ha : answered s p = some q) (hq : q.piper = none) :
    response p s = pumpRbx (if p.status = 0 then (if p.ptype = 0x11 then readRemote q p.data (requestOff p q s) else ackRemote q (requestOff p q s))
      else if p.ptype = 0x11 ∧ p.status = 7 then agentFault q.who stPoisoned 0 (requestOff p q s)
      else agentFault q.who stRemoteRefused p.status (requestOff p q s)) := by
  unfold response
  dsimp only
  rw [if_neg (by simp [h]), answered_ports (freeRx_ports ..), ha]
  dsimp only
  rw [hq]
  rfl

/-! ### Expiry (R516) -/

/-- A request that expires, before its agent hears of it. -/
def lostNoted (q : RReq) (s : State) : State :=
  expiredEvent q.die q.owin q.pkt.dst { s with rbx := { s.rbx with
    out := s.rbx.out.filter (fun x => !decide (x.tag = q.tag)), expired := satAdd (2 ^ 32 - 1) s.rbx.expired 1 } }

theorem lostNoted_spec (q : RReq) (s : State) : (lostNoted q s).rbx.expired = min (2 ^ 32 - 1) (s.rbx.expired + 1) ∧ (∀ x ∈ (lostNoted q s).rbx.out, x.tag ≠ q.tag) ∧
    (lostNoted q s).mem = s.mem ∧ (lostNoted q s).sch = s.sch := by
  obtain ⟨h1, h2, h3, h4⟩ := expiredEvent_frame q.die q.owin q.pkt.dst { s with rbx := { s.rbx with
    out := s.rbx.out.filter (fun x => !decide (x.tag = q.tag)), expired := satAdd (2 ^ 32 - 1) s.rbx.expired 1 } }
  refine ⟨h4, fun x hx => ?_, h1, h2⟩
  unfold lostNoted at hx
  rw [h3] at hx
  have := (List.mem_filter.1 hx).2
  simpa using this

theorem expiryS_eq {s : State} {tag : Nat} {q : RReq} (h : s.rbx.out.find? (fun q => decide (q.tag = tag ∧ q.port ≠ none)) = some q) :
    expiryS tag s = if refOf s q.die - q.since < s.rbx.ackUs * refUs then s else pumpRbx (expireReq q s) := by
  unfold expiryS
  rw [h]

/-- Settles O56: a packet's step is its check and what its row does, and what the ports then send leaves memory as it is. -/
theorem riberexPackets : Obligations.RiberexPackets := by
  unfold Obligations.RiberexPackets
  refine ⟨?_, ?_, ?_, ?_, ?_, ?_, ?_⟩
  · intro s p ty i hup hi
    obtain ⟨f, hf, hex⟩ := packet_exec hi
    refine ⟨fun h => (hex s hup (h.imp_right And.right)).trans (congrArg _ ?_), fun hty ha hp => ?_⟩
    · refine if_neg fun e => ?_
      obtain ⟨e1, e2⟩ := e
      rcases h with h | h
      · rw [h] at e2
        cases e2
      · exact h.1 e1
    · have hex := (hex s hup (.inr (by rw [hp]; exact (by decide : ∀ t ∈ [1, 2, 3, 4], t ∈ pktTypes) ty hty))).trans (congrArg _ (inbIf_on hp ha))
      rw [hf hty] at hex
      refine ⟨fun hc => ⟨_, hex.trans (congrArg _ (inbound_refused hc)), turnedAway_spec ..⟩, fun w hc hw => ⟨_, hex.trans (congrArg _ (inbound_taken hc hw)), ?_⟩⟩
      have hp := freed_ports p s
      unfold PortsOnly at hp
      rw [hp]
      exact ⟨rfl, rfl, rfl, rfl⟩
  · intro s p w q hup ha hty hc hw hlen hq hoff hl hh hcached hway hrep
    obtain ⟨hd, -⟩ := inbCheck_write hty hc
    obtain ⟨r, hex⟩ := rbxWrite_line hup ha hty hc hw hlen hq
    obtain ⟨h1, h2⟩ := homeRequest_write_run (o := q.off) (bs := p.data) (homeTakes_rbx (r := r) hh) hl (by omega) (hcached.imp_right fun e => hd.trans e)
      (by rw [wayFor_rbx]; exact hway) hrep
    have hm (k b : Nat) (t : State) : memByte (pumpRbx t) k b = memByte t k b := by
      unfold memByte
      rw [pumpRbx_mem]
    refine ⟨_, hex, fun j hj => (hm ..).trans (h1 j (by omega)), fun k b hb hne => (hm ..).trans (h2 k b hb ?_)⟩
    rw [hd]
    exact hne
  · intro s p w q hup ha hty hc hw hlen hlt hq hoff hh hcached
    obtain ⟨hd, -⟩ := inbCheck_write hty hc
    obtain ⟨r, hex⟩ := rbxWrite_line hup ha hty hc hw hlen hq
    exact ⟨_, _, _, hex, homeRequest_write_fills (homeTakes_rbx (r := r) hh) hcached (runMask_part (by omega) (by omega))⟩
  · intro s p hup ha hty
    refine (ifUp_ready hup).trans (congrArg _ ?_)
    unfold writePktS
    rw [if_pos ⟨ha, hty⟩]
  · intro s p hup ha hty
    have hp := freeRx_ports 2 (pktFlits p) s
    have hex : exec (.rbxBarrier p) s = .next (barrierS p s) := (ifUp_ready hup).trans (congrArg _ (inbIf_on hty ha))
    generalize hu : freeRx 2 (pktFlits p) s = u at hp
    unfold PortsOnly at hp
    have hcr (st : Nat) (h6 : st ≠ 6) : tget 0 (countRefused p.window st u).rbx.lastStatus p.window = st ∧
        tget 0 (countRefused p.window st u).rbx.refused p.window = min (2 ^ 32 - 1) (tget 0 s.rbx.refused p.window + 1) ∧ { countRefused p.window st u with rbx := s.rbx } = s := by
      obtain ⟨h1, h2⟩ := countRefused_counts (w := p.window) h6 u
      refine ⟨h2, h1.trans (by rw [hp]), ?_⟩
      rw [countRefused_frame, hp]
    have hw : tget? u.xt.windows p.window = tget? s.xt.windows p.window := by rw [hp]
    refine ⟨fun h => ⟨countRefused p.window 1 u, hex.trans (congrArg _ ?_), (hcr 1 (by decide)).1, (hcr 1 (by decide)).2.2⟩,
      fun h hno => ⟨countRefused p.window 3 u, hex.trans (congrArg _ ?_), hcr 3 (by decide)⟩, fun w e h hwin he hpe => ⟨arriveCount p.window p.counter 0 u, hex.trans (congrArg _ ?_), ?_⟩⟩
    · unfold barrierS
      dsimp only
      rw [hu, if_pos (by simp [h])]
    · unfold barrierS
      dsimp only
      rw [hu, if_neg (by simp [h]), hw]
      cases hwin : tget? s.xt.windows p.window with
      | none => rfl
      | some w =>
        dsimp only
        rw [if_neg]
        intro hany
        obtain ⟨e, he, hpe⟩ := List.any_eq_true.1 hany
        rw [hno w hwin e he] at hpe
        cases hpe
    · unfold barrierS
      dsimp only
      rw [hu, if_neg (by simp [h]), hw, hwin]
      dsimp only
      rw [if_pos (List.any_eq_true.2 ⟨e, he, hpe⟩)]
    · have hc : p.counter < 16 := by
        unfold requestOk at h
        simp at h
        exact h.2.2.2.2.1
      obtain ⟨h1, h2, h3⟩ := arriveCount_spec 0 (hw.trans hwin) hc
      have hcv (v c : Nat) : counterVal u v c = counterVal s v c := by rw [hp]; rfl
      refine ⟨h1.trans (by rw [hcv]), ?_, ?_, fun v c _ hc16 hne => (h3 v c hc16 hne).trans (hcv v c)⟩
      · rw [arriveCount_homes p.window p.counter 0 u, hp]
      · rw [h2, hp]
  · intro s p i hup ha hi
    have hp := freeRx_ports 1 (pktFlits p) s
    have hex : exec i s = .next (response p s) := by
      simp only [List.mem_cons, List.not_mem_nil, or_false, Prod.mk.injEq] at hi
      rcases hi with ⟨rfl, h⟩ | ⟨rfl, h⟩
      · exact (ifUp_ready hup).trans (congrArg _ (inbIf_on h ha))
      · exact (ifUp_ready hup).trans (congrArg _ (inbIf_on h ha))
    refine ⟨fun h => ?_, fun h hn => ?_, fun q k e l h hq hpi => ?_, fun q h hq hpi => ?_⟩
    · refine ⟨_, hex.trans (congrArg _ (response_bad h)), (countRefused_counts (by decide) _).2, ?_, ?_⟩
      · rw [countRefused_frame, hp]
      · rw [countRefused_frame, hp]
    · refine ⟨_, hex.trans (congrArg _ (response_late h hn)), ?_, ?_, ?_⟩
      · unfold lateResponse
        rw [hp]
        rfl
      · unfold lateResponse
        rw [hp]
      · unfold lateResponse
        rw [hp]
    · refine ⟨_, hex.trans (congrArg _ (response_piper h hq hpi)), fun x hx => ?_, requestOff_frame p q s⟩
      rw [← answered_tag hq]
      exact requestOff_out p q s x hx
    · have hex := hex.trans (congrArg _ (response_agent h hq hpi))
      have hout : ∀ x ∈ (requestOff p q s).rbx.out, x.tag ≠ p.tag := by
        rw [← answered_tag hq]
        exact requestOff_out p q s
      have hfr := requestOff_frame p q s
      generalize requestOff p q s = b at hex hout hfr
      have hsch : b.sch = s.sch := (congrArg (fun s : State => s.sch) hfr :)
      have hmem : b.mem = s.mem := (congrArg (fun s : State => s.mem) hfr :)
      have hstn (n : Nat) : stnOf b n = stnOf s n := by
        unfold stnOf
        rw [hsch]
      refine ⟨fun hst => ⟨b, hex.trans (congrArg _ ?_), hout, hfr⟩, fun n xid k x f y hst hwho hx hpc => ⟨fun hty h3 h4 => ?_, fun hty h34 hk => ?_, fun hty h34 hk => ?_, fun hty => ?_⟩,
        fun n hst hty hwho => ⟨b, hex.trans (congrArg _ ?_), hout, hfr⟩⟩
      · rw [if_neg hst]
        by_cases e : p.ptype = 0x11 ∧ p.status = 7
        · rw [if_pos e, if_pos e, if_pos e]
          rfl
        · rw [if_neg e, if_neg e, if_neg e]
          rfl
      · rw [if_pos hst, if_neg (by omega)] at hex
        unfold ackRemote at hex
        rw [hwho] at hex
        dsimp only at hex
        rw [if_neg (by omega)] at hex
        exact ⟨_, hex, setPiece_at (hasPiece_of ((hstn n).trans hx) hpc), hout, hmem⟩
      · rw [if_pos hst, if_neg (by omega)] at hex
        unfold ackRemote at hex
        rw [hwho] at hex
        dsimp only at hex
        rw [if_pos h34] at hex
        obtain ⟨c, z, h1, h2, h3, h4, h5, h6⟩ := ackXfer_spec ((hstn n).trans hx) hpc
        rw [h1] at hex
        exact ⟨c, hex, h5 hk, by rw [h3]; exact hout, h3.mem.trans hmem⟩
      · rw [if_pos hst, if_neg (by omega)] at hex
        unfold ackRemote at hex
        rw [hwho] at hex
        dsimp only at hex
        rw [if_pos h34] at hex
        obtain ⟨c, z, h1, h2, h3, h4, h5, h6⟩ := ackXfer_spec ((hstn n).trans hx) hpc
        rw [h1] at hex
        refine ⟨c, z, hex, h2, fun g hg => ?_, fun g hg hne => ?_, by rw [h3]; exact hout, h3.mem.trans hmem⟩
        · rw [h6 hk] at hg
          have := (List.mem_filter.1 hg).2
          simp only [Bool.not_eq_true', decide_eq_false_iff_not, not_and] at this
          by_cases e : g.id = xid
          · exact .inr (this e)
          · exact .inl e
        · rw [h6 hk]
          exact List.mem_filter.2 ⟨hg, by simp [hne]⟩
      · rw [if_pos hst, if_pos hty] at hex
        unfold readRemote at hex
        rw [hwho] at hex
        dsimp only at hex
        have hx := (hstn n).trans hx
        rw [hx, Option.bind_some, hpc] at hex
        have h1 : stnOf (setStn n (lsPut y.loc p.data) b) n = some (lsPut y.loc p.data x) := stnOf_setStn_same hx _
        refine ⟨servePiece n xid k y p.data b, stnSet xid k 2 (lsPut y.loc p.data x), hex, stnOf_setStn_same h1 _, setPiece_at (hasPiece_of h1 hpc), fun j hj => ?_, fun a ha => ?_, hout, hmem⟩
        · refine (lsPut_ls ..).trans ?_
          rw [if_pos (by omega), Nat.add_sub_cancel_left]
        · exact (lsPut_ls ..).trans (if_neg (by omega))
      · rw [if_pos hst, if_neg (by omega)]
        unfold ackRemote
        simp only [List.mem_append, List.mem_cons, List.not_mem_nil, or_false, List.mem_map] at hwho
        obtain e | ⟨g, -, e⟩ := hwho
        · rw [e]
        · rw [← e]
  · intro s tag hup
    refine ⟨fun h => (ifUp_ready hup).trans (congrArg _ ?_), fun q hq => ?_⟩
    · unfold expiryS
      rw [List.find?_eq_none.2 fun q hq => by
        have := h q hq
        simp only [decide_eq_true_eq, not_and, not_not]
        exact this]
    · have hex : exec (.requestExpiry tag) s = .next (expiryS tag s) := ifUp_ready hup
      rw [expiryS_eq hq] at hex
      have htag : q.tag = tag := by
        have := List.find?_some hq
        simp only [decide_eq_true_eq] at this
        exact this.1
      refine ⟨fun h => hex.trans (congrArg _ (if_pos h)), fun h => ?_⟩
      rw [if_neg (by omega)] at hex
      obtain ⟨h1, h2, h3, h4⟩ := lostNoted_spec q s
      exact ⟨lostNoted q s, hex, h1, by rw [← htag]; exact h2, h3, h4⟩

end Sys2Proof.Machine
end

section
/-! PROOF. What keeps device and host memory in canonical form: the relation, and the operations that write memory. -/

namespace Sys2Proof.Machine

/-! ### The relation -/

/-- Device memory `m` is in canonical form if that of `u` is. -/
def MemKept (u : State) (m : DevMem) : Prop := Memory.wf u.mem = true → Memory.wf m = true

/-- Host memory `h` is in canonical form if that of `u` is. -/
def HostKept (u : State) (h : HostMem) : Prop := HostMem.wf u.host = true → HostMem.wf h = true

/-- From `u` to `t` device and host memory keep their canonical form. -/
def FormKept (u t : State) : Prop := MemKept u t.mem ∧ HostKept u t.host

/-- The same relation, where `simp` is not to look into it: what is left of `FormKept u t` once `t` comes from a state that keeps the form. -/
def FormElse (u t : State) : Prop := FormKept u t

/-- As `FormElse`, for device memory alone. -/
def MemElse (u : State) (m : DevMem) : Prop := MemKept u m

/-- As `FormElse`, for host memory alone. -/
def HostElse (u : State) (h : HostMem) : Prop := HostKept u h

theorem FormKept.refl (u : State) : FormKept u u := ⟨id, id⟩

theorem FormKept.trans {u s t : State} (h : FormKept u s) (k : FormKept s t) : FormKept u t := ⟨fun w => k.1 (h.1 w), fun w => k.2 (h.2 w)⟩

/-- A step that keeps the form, as a rewriting rule for whatever came before it. -/
theorem kept {s t : State} (h : FormKept s t) (u : State) : FormKept u t ↔ FormKept u s ∨ FormElse u t :=
  ⟨.inr, fun k => k.elim (fun k => k.trans h) id⟩

@[simp] theorem formKept_refl (u : State) : FormKept u u := .refl u

@[simp] theorem formKept_mk (u : State) (p clk pwr pin pci host idr cmd ten xt mem home seam rbx sch pip sec err) :
    FormKept u (State.mk p clk pwr pin pci host idr cmd ten xt mem home seam rbx sch pip sec err) ↔ MemKept u mem ∧ HostKept u host := Iff.rfl

@[simp] theorem memKept_of (u s : State) : MemKept u s.mem ↔ FormKept u s ∨ MemElse u s.mem := ⟨.inr, fun h => h.elim And.left id⟩

@[simp] theorem hostKept_of (u s : State) : HostKept u s.host ↔ FormKept u s ∨ HostElse u s.host := ⟨.inr, fun h => h.elim And.right id⟩

@[simp] theorem formKept_ite (u : State) (c : Prop) [Decidable c] (a b : State) : FormKept u (if c then a else b) ↔ if c then FormKept u a else FormKept u b := by
  split <;> rfl

@[simp] theorem memKept_ite (u : State) (c : Prop) [Decidable c] (a b : DevMem) : MemKept u (if c then a else b) ↔ if c then MemKept u a else MemKept u b := by
  split <;> rfl

@[simp] theorem hostKept_ite (u : State) (c : Prop) [Decidable c] (a b : HostMem) : HostKept u (if c then a else b) ↔ if c then HostKept u a else HostKept u b := by
  split <;> rfl

theorem FormKept.foldl {α : Type} {g : State → α → State} (h : ∀ s a, FormKept s (g s a)) (l : List α) (s : State) : FormKept s (l.foldl g s) := by
  induction l generalizing s with
  | nil => exact .refl s
  | cons a r ih => exact (h s a).trans (ih _)

@[simp] theorem formKept_foldl {α : Type} (g : State → α → State) (h : ∀ s a, FormKept s (g s a)) (l : List α) (s u : State) :
    FormKept u (l.foldl g s) ↔ FormKept u s ∨ FormElse u (l.foldl g s) := kept (.foldl h l s) u

@[simp] theorem formKept_elim {α : Type} (o : Option α) (f : α → State) (s u : State) (h : ∀ a, FormKept s (f a)) :
    FormKept u (o.elim s f) ↔ FormKept u s ∨ FormElse u (o.elim s f) :=
  kept (by cases o; exacts [.refl s, h _]) u

theorem formKept_fold_fst {α β : Type} (g : State × β → α → State × β) (l : List α) (a : State × β) (h : ∀ a x, FormKept a.1 (g a x).1) : FormKept a.1 (l.foldl g a).1 := by
  induction l generalizing a with
  | nil => exact .refl _
  | cons x r ih => exact (h a x).trans (ih _)

theorem formKept_fold_snd {α β : Type} (g : β × State → α → β × State) (l : List α) (a : β × State) (h : ∀ a x, FormKept a.2 (g a x).2) : FormKept a.2 (l.foldl g a).2 := by
  induction l generalizing a with
  | nil => exact .refl _
  | cons x r ih => exact (h a x).trans (ih _)

/-- What an outcome's next state keeps. -/
def OutKept (u : State) (o : Out) : Prop := ∀ t, o = .next t → FormKept u t

@[simp] theorem outKept_next (u t : State) : OutKept u (.next t) ↔ FormKept u t :=
  ⟨fun h => h t rfl, fun h v e => by cases e; exact h⟩

@[simp] theorem outKept_ite (u : State) (c : Prop) [Decidable c] (a b : Out) : OutKept u (if c then a else b) ↔ if c then OutKept u a else OutKept u b := by
  split <;> rfl

/-! ### The operations that write -/

@[simp] theorem formKept_hostPost (p : Option Nat) (a : Nat) (bs : List Byte) (s u : State) :
    FormKept u (hostPost p a bs s) ↔ FormKept u s ∨ FormElse u (hostPost p a bs s) := kept (by exact ⟨id, wf_hostPost p a bs s⟩) u

@[simp] theorem formKept_writeBack (p : Nat → Bool) (s u : State) : FormKept u (writeBack p s) ↔ FormKept u s ∨ FormElse u (writeBack p s) :=
  kept (by exact ⟨id, wf_writeBack p s⟩) u

@[simp] theorem formKept_putLine (k l m : Nat) (d : List Byte) (s u : State) : FormKept u (putLine k l m d s) ↔ FormKept u s ∨ FormElse u (putLine k l m d s) :=
  kept ⟨wf_putLine k l m d s, id⟩ u

@[simp] theorem formKept_zeroGran (k g : Nat) (s u : State) : FormKept u (zeroGran k g s) ↔ FormKept u s ∨ FormElse u (zeroGran k g s) :=
  kept ⟨wf_zeroGran k g s, id⟩ u

@[simp] theorem formKept_unloadSealed (n : Nat) (x : Extent) (s u : State) : FormKept u (unloadSealed n x s) ↔ FormKept u s ∨ FormElse u (unloadSealed n x s) :=
  kept ⟨wf_unloadSealed n x s, id⟩ u

end Sys2Proof.Machine
end

section
/-! PROOF. What keeps device and host memory in canonical form: shared operations, memory, homes, contexts, the planner and start-up. -/

set_option maxRecDepth 4000

namespace Sys2Proof.Machine

/-! ### Ops -/

@[simp] theorem outKept_ifUp (f : State → State) (s : State) (h_f : ∀ a0, FormKept a0 (f a0)) : OutKept s (ifUp f s) := by unfold ifUp; (repeat' split) <;> simp_all
@[simp] theorem formKept_guardS (c : Bool) (f : State → State) (s : State) (h_f : ∀ a0, FormKept a0 (f a0)) (s₀ : State) :
    FormKept s₀ (guardS c f s) ↔ FormKept s₀ s ∨ FormElse s₀ (guardS c f s) := kept (by unfold guardS; (repeat' split) <;> simp_all) s₀
@[simp] theorem formKept_advanceRef (n : Nat) (s : State) (s₀ : State) :
    FormKept s₀ (advanceRef n s) ↔ FormKept s₀ s ∨ FormElse s₀ (advanceRef n s) := kept (by exact ⟨id, id⟩) s₀
@[simp] theorem formKept_raiseMsix (v : Nat) (s : State) (s₀ : State) :
    FormKept s₀ (raiseMsix v s) ↔ FormKept s₀ s ∨ FormElse s₀ (raiseMsix v s) := kept (by unfold raiseMsix; simp) s₀
@[simp] theorem formKept_raiseRec (r : EvRec) (s : State) (s₀ : State) :
    FormKept s₀ (raiseRec r s) ↔ FormKept s₀ s ∨ FormElse s₀ (raiseRec r s) := kept (by exact ⟨id, id⟩) s₀
@[simp] theorem formKept_raise (die ev ctx slice a0 a1 a2 : Nat) (s : State) (s₀ : State) :
    FormKept s₀ (raise die ev ctx slice a0 a1 a2 s) ↔ FormKept s₀ s ∨ FormElse s₀ (raise die ev ctx slice a0 a1 a2 s) := kept (by exact ⟨id, id⟩) s₀
@[simp] theorem formKept_raiseSlice (die ev ctx slice a0 a1 a2 : Nat) (s : State) (s₀ : State) :
    FormKept s₀ (raiseSlice die ev ctx slice a0 a1 a2 s) ↔ FormKept s₀ s ∨ FormElse s₀ (raiseSlice die ev ctx slice a0 a1 a2 s) := kept (by exact ⟨id, id⟩) s₀
@[simp] theorem formKept_logPage (pasid page : Nat) (n : Nat) (s : State) (s₀ : State) :
    FormKept s₀ (logPage pasid page n s) ↔ FormKept s₀ s ∨ FormElse s₀ (logPage pasid page n s) := kept (by unfold logPage; (repeat' split) <;> simp_all) s₀
@[simp] theorem formKept_logHost (pasid : Option Nat) (a n : Nat) (s : State) (s₀ : State) :
    FormKept s₀ (logHost pasid a n s) ↔ FormKept s₀ s ∨ FormElse s₀ (logHost pasid a n s) := kept (by unfold logHost; (repeat' split) <;> simp_all) s₀
@[simp] theorem formKept_wcTrim (d : Nat) (s : State) (s₀ : State) :
    FormKept s₀ (wcTrim d s) ↔ FormKept s₀ s ∨ FormElse s₀ (wcTrim d s) := kept (by unfold wcTrim; simp) s₀
theorem hostWrite_kept (pasid : Option Nat) (a : Nat) (bs : List Byte) (s : State) : FormKept s (hostWrite pasid a bs s) := by
  refine ⟨fun w => ?_, wf_hostWrite pasid a bs s⟩
  have h (d : Tbl Byte) : FormKept { s with host := { s.host with dirty := d } } (logHost pasid a bs.length (wcTrim pd1 (wcTrim pd0 { s with host := { s.host with dirty := d } }))) := by simp
  exact (h _).1 w
@[simp] theorem formKept_hostWrite (pasid : Option Nat) (a : Nat) (bs : List Byte) (s : State) (s₀ : State) :
    FormKept s₀ (hostWrite pasid a bs s) ↔ FormKept s₀ s ∨ FormElse s₀ (hostWrite pasid a bs s) := kept (hostWrite_kept pasid a bs s) s₀
@[simp] theorem formKept_setCtx (c : Nat) (f : Ctx → Ctx) (s : State) (s₀ : State) :
    FormKept s₀ (setCtx c f s) ↔ FormKept s₀ s ∨ FormElse s₀ (setCtx c f s) := kept (by unfold setCtx; (repeat' split) <;> simp_all) s₀
@[simp] theorem formKept_setSlice (n : Nat) (f : Slice → Slice) (s : State) (s₀ : State) :
    FormKept s₀ (setSlice n f s) ↔ FormKept s₀ s ∨ FormElse s₀ (setSlice n f s) := kept (by exact ⟨id, id⟩) s₀
@[simp] theorem formKept_startRung (r t cause : Nat) (cmds : List (Nat × Nat)) (s : State) (s₀ : State) :
    FormKept s₀ (startRung r t cause cmds s) ↔ FormKept s₀ s ∨ FormElse s₀ (startRung r t cause cmds s) := kept (by unfold startRung; (repeat' split) <;> simp_all) s₀
@[simp] theorem formKept_endRung (q : RungReq) (s : State) (s₀ : State) :
    FormKept s₀ (endRung q s) ↔ FormKept s₀ s ∨ FormElse s₀ (endRung q s) := kept (by exact ⟨id, id⟩) s₀

/-! ### Events -/

theorem pageEntry_kept {n : Nat} {bs : List Byte} {s t : State} (h : pageEntry n bs s = some t) : FormKept s t := by
  revert h; unfold pageEntry; (repeat' split) <;> intro h <;> simp at h <;> subst h <;> simp
theorem lostTold_kept (n : Nat) (s : State) : FormKept s (lostTold n s) := by
  unfold lostTold
  dsimp only
  split
  · exact .refl s
  · cases h : pageEntry n (eventBytes pd0 0x0019 (refOf s pd0) 0 n (((tget? s.ten.slices n).map (·.evLost)).getD 0) 0 0) s with
    | none => exact .refl s
    | some t => exact (pageEntry_kept h).trans (by simp)
theorem pageRecord_kept (n : Nat) (bs : List Byte) (s : State) : FormKept s (pageRecord n bs s) := by
  rw [pageRecord_eq]
  refine (lostTold_kept n s).trans ?_
  cases h : pageEntry n bs (lostTold n s) with
  | none => simp
  | some t => exact pageEntry_kept h
@[simp] theorem formKept_pageRecord (n : Nat) (bs : List Byte) (s : State) (s₀ : State) :
    FormKept s₀ (pageRecord n bs s) ↔ FormKept s₀ s ∨ FormElse s₀ (pageRecord n bs s) := kept (pageRecord_kept n bs s) s₀
@[simp] theorem formKept_eventRecordS (s : State) (s₀ : State) :
    FormKept s₀ (eventRecordS s) ↔ FormKept s₀ s ∨ FormElse s₀ (eventRecordS s) := kept (by unfold eventRecordS; (repeat' split) <;> simp_all) s₀
@[simp] theorem formKept_flushEvents (s : State) (s₀ : State) :
    FormKept s₀ (flushEvents s) ↔ FormKept s₀ s ∨ FormElse s₀ (flushEvents s) := kept (by unfold flushEvents; simp) s₀

/-! ### Memory -/

@[simp] theorem formKept_setCru (k : Nat) (f : Cru → Cru) (s : State) (s₀ : State) :
    FormKept s₀ (setCru k f s) ↔ FormKept s₀ s ∨ FormElse s₀ (setCru k f s) := kept (by exact ⟨id, id⟩) s₀
@[simp] theorem formKept_dirtyMark (k g : Nat) (s : State) (s₀ : State) :
    FormKept s₀ (dirtyMark k g s) ↔ FormKept s₀ s ∨ FormElse s₀ (dirtyMark k g s) := kept (by unfold dirtyMark; (repeat' split) <;> simp_all) s₀
theorem clearPoison_host (k line : Nat) (s : State) : (clearPoison k line s).host = s.host := by
  unfold clearPoison
  split
  · dsimp only
    split
    · split <;> rfl
    · rfl
  · rfl
@[simp] theorem formKept_clearPoison (k line : Nat) (s : State) (s₀ : State) :
    FormKept s₀ (clearPoison k line s) ↔ FormKept s₀ s ∨ FormElse s₀ (clearPoison k line s) :=
  kept ⟨wf_clearPoison k line s, fun w => by rw [clearPoison_host]; exact w⟩ s₀
@[simp] theorem formKept_putWhole (k line mask : Nat) (data : List Byte) (s : State) (s₀ : State) :
    FormKept s₀ (putWhole k line mask data s) ↔ FormKept s₀ s ∨ FormElse s₀ (putWhole k line mask data s) := kept (by unfold putWhole; simp) s₀
@[simp] theorem formKept_writeLine (k line mask : Nat) (data : List Byte) (s : State) (s₀ : State) :
    FormKept s₀ (writeLine k line mask data s) ↔ FormKept s₀ s ∨ FormElse s₀ (writeLine k line mask data s) := kept (by unfold writeLine; (repeat' split) <;> (try simp) <;> (repeat' (first | (apply FormKept.foldl; intro _ _) | split)) <;> simp_all) s₀
@[simp] theorem formKept_addFault (c : Nat) (r : FaultRec) (s : State) (s₀ : State) :
    FormKept s₀ (addFault c r s) ↔ FormKept s₀ s ∨ FormElse s₀ (addFault c r s) := kept (by unfold addFault; simp) s₀
@[simp] theorem formKept_triggerBatch (c t : Nat) (s : State) (s₀ : State) :
    FormKept s₀ (triggerBatch c t s) ↔ FormKept s₀ s ∨ FormElse s₀ (triggerBatch c t s) := kept (by unfold triggerBatch; simp) s₀
@[simp] theorem formKept_suspendCtxs (num : Nat) (k off : Nat) (s : State) (s₀ : State) :
    FormKept s₀ (suspendCtxs num k off s) ↔ FormKept s₀ s ∨ FormElse s₀ (suspendCtxs num k off s) := kept (by unfold suspendCtxs; simp) s₀
@[simp] theorem formKept_damageExtent (num : Nat) (x : Extent) (k off line : Nat) (s : State) (s₀ : State) :
    FormKept s₀ (damageExtent num x k off line s) ↔ FormKept s₀ s ∨ FormElse s₀ (damageExtent num x k off line s) := kept (by unfold damageExtent; simp) s₀
theorem poisonLine_kept (k line : Nat) (s : State) : FormKept s (poisonLine k line s) := by
  have h (e : Err) : FormKept s { s with mem := { s.mem with poison := insKey (lkey k line) s.mem.poison }, err := e } := ⟨wf_mark k line s.mem, id⟩
  unfold poisonLine
  split
  · exact .refl s
  · dsimp only
    split
    · split
      · exact h _
      · exact (formKept_damageExtent ..).2 (.inl (h _))
    · exact h _
@[simp] theorem formKept_poisonLine (k line : Nat) (s : State) (s₀ : State) :
    FormKept s₀ (poisonLine k line s) ↔ FormKept s₀ s ∨ FormElse s₀ (poisonLine k line s) := kept (poisonLine_kept k line s) s₀

/-! ### Home -/

@[simp] theorem formKept_setLine (key : Nat) (f : HLine → HLine) (s : State) (s₀ : State) :
    FormKept s₀ (setLine key f s) ↔ FormKept s₀ s ∨ FormElse s₀ (setLine key f s) := kept (by exact ⟨id, id⟩) s₀
@[simp] theorem formKept_sendMsg (m : Msg) (s : State) (s₀ : State) :
    FormKept s₀ (sendMsg m s) ↔ FormKept s₀ s ∨ FormElse s₀ (sendMsg m s) := kept (by exact ⟨id, id⟩) s₀
@[simp] theorem formKept_touchLine (k line : Nat) (s : State) (s₀ : State) :
    FormKept s₀ (touchLine k line s) ↔ FormKept s₀ s ∨ FormElse s₀ (touchLine k line s) := kept (by unfold touchLine; simp) s₀
@[simp] theorem formKept_evictLine (k line : Nat) (s : State) (s₀ : State) :
    FormKept s₀ (evictLine k line s) ↔ FormKept s₀ s ∨ FormElse s₀ (evictLine k line s) := kept (by unfold evictLine; simp) s₀
@[simp] theorem formKept_installLine (k line : Nat) (dirty : Bool) (s : State) (s₀ : State) :
    FormKept s₀ (installLine k line dirty s) ↔ FormKept s₀ s ∨ FormElse s₀ (installLine k line dirty s) := kept (by unfold installLine; (repeat' split) <;> simp_all) s₀
@[simp] theorem formKept_keepWay (k line : Nat) (s : State) (s₀ : State) :
    FormKept s₀ (keepWay k line s) ↔ FormKept s₀ s ∨ FormElse s₀ (keepWay k line s) := kept (by unfold keepWay; (repeat' split) <;> simp_all) s₀
@[simp] theorem formKept_setClosed (k line : Nat) (b : Bool) (s : State) (s₀ : State) :
    FormKept s₀ (setClosed k line b s) ↔ FormKept s₀ s ∨ FormElse s₀ (setClosed k line b s) := kept (by unfold setClosed; simp) s₀
theorem nextWays_kept (k line fuel : Nat) (s : State) : FormKept s (nextWays k line fuel s) := by
  induction fuel generalizing s with
  | zero => exact .refl s
  | succ n ih =>
    have ih := fun s => kept (ih s)
    unfold nextWays
    (repeat' split) <;> simp [ih]
@[simp] theorem formKept_nextWays (k line fuel : Nat) (s : State) (s₀ : State) :
    FormKept s₀ (nextWays k line fuel s) ↔ FormKept s₀ s ∨ FormElse s₀ (nextWays k line fuel s) := kept (nextWays_kept k line fuel s) s₀
@[simp] theorem formKept_giveWays (k line : Nat) (s : State) (s₀ : State) :
    FormKept s₀ (giveWays k line s) ↔ FormKept s₀ s ∨ FormElse s₀ (giveWays k line s) := kept (by unfold giveWays; simp) s₀
@[simp] theorem formKept_wantWay (k line : Nat) (s : State) (s₀ : State) :
    FormKept s₀ (wantWay k line s) ↔ FormKept s₀ s ∨ FormElse s₀ (wantWay k line s) := kept (by unfold wantWay; simp) s₀
@[simp] theorem formKept_markSharer (k line n : Nat) (s : State) (s₀ : State) :
    FormKept s₀ (markSharer k line n s) ↔ FormKept s₀ s ∨ FormElse s₀ (markSharer k line n s) := kept (by unfold markSharer; simp) s₀
@[simp] theorem formKept_dropDir (k line : Nat) (s : State) (s₀ : State) :
    FormKept s₀ (dropDir k line s) ↔ FormKept s₀ s ∨ FormElse s₀ (dropDir k line s) := kept (by exact ⟨id, id⟩) s₀
@[simp] theorem formKept_answerReads (k line : Nat) (hs : List HReq) (s : State) (s₀ : State) :
    FormKept s₀ (answerReads k line hs s) ↔ FormKept s₀ s ∨ FormElse s₀ (answerReads k line hs s) := kept (by unfold answerReads; simp) s₀
@[simp] theorem formKept_startRound (k line : Nat) (owed : List Msg) (s : State) (s₀ : State) :
    FormKept s₀ (startRound k line owed s) ↔ FormKept s₀ s ∨ FormElse s₀ (startRound k line owed s) := kept (by unfold startRound; simp) s₀
@[simp] theorem formKept_ackAfterRound (k line : Nat) (m : Msg) (s : State) (s₀ : State) :
    FormKept s₀ (ackAfterRound k line m s) ↔ FormKept s₀ s ∨ FormElse s₀ (ackAfterRound k line m s) := kept (by unfold ackAfterRound; simp) s₀
@[simp] theorem formKept_wakeWaiters (unit key off : Nat) (val : Int) (s : State) (s₀ : State) :
    FormKept s₀ (wakeWaiters unit key off val s) ↔ FormKept s₀ s ∨ FormElse s₀ (wakeWaiters unit key off val s) := kept (by unfold wakeWaiters; simp) s₀
@[simp] theorem formKept_dropWaiters (k line : Nat) (s : State) (s₀ : State) :
    FormKept s₀ (dropWaiters k line s) ↔ FormKept s₀ s ∨ FormElse s₀ (dropWaiters k line s) := kept (by unfold dropWaiters; simp) s₀
@[simp] theorem formKept_dropPoisoned (s : State) (s₀ : State) :
    FormKept s₀ (dropPoisoned s) ↔ FormKept s₀ s ∨ FormElse s₀ (dropPoisoned s) := kept (by unfold dropPoisoned; simp) s₀
@[simp] theorem formKept_poisonHome (k line : Nat) (s : State) (s₀ : State) :
    FormKept s₀ (poisonHome k line s) ↔ FormKept s₀ s ∨ FormElse s₀ (poisonHome k line s) := kept (by unfold poisonHome; simp) s₀
@[simp] theorem formKept_sendLater (h : HReq) (s : State) (s₀ : State) :
    FormKept s₀ (sendLater h s) ↔ FormKept s₀ s ∨ FormElse s₀ (sendLater h s) := kept (by exact ⟨id, id⟩) s₀
@[simp] theorem formKept_holdReq (h : HReq) (s : State) (s₀ : State) :
    FormKept s₀ (holdReq h s) ↔ FormKept s₀ s ∨ FormElse s₀ (holdReq h s) := kept (by exact ⟨id, id⟩) s₀
@[simp] theorem formKept_holdFront (h : HReq) (s : State) (s₀ : State) :
    FormKept s₀ (holdFront h s) ↔ FormKept s₀ s ∨ FormElse s₀ (holdFront h s) := kept (by exact ⟨id, id⟩) s₀
@[simp] theorem formKept_beginRecall (k v : Nat) (s : State) (s₀ : State) :
    FormKept s₀ (beginRecall k v s) ↔ FormKept s₀ s ∨ FormElse s₀ (beginRecall k v s) := kept (by unfold beginRecall; simp) s₀
@[simp] theorem formKept_startRecall (k line v : Nat) (s : State) (s₀ : State) :
    FormKept s₀ (startRecall k line v s) ↔ FormKept s₀ s ∨ FormElse s₀ (startRecall k line v s) := kept (by unfold startRecall; simp) s₀
@[simp] theorem formKept_countMiss (k line ctx : Nat) (s : State) (s₀ : State) :
    FormKept s₀ (countMiss k line ctx s) ↔ FormKept s₀ s ∨ FormElse s₀ (countMiss k line ctx s) := kept (by unfold countMiss; simp) s₀
@[simp] theorem formKept_openFill (k line ctx : Nat) (ready : Bool) (s : State) (s₀ : State) :
    FormKept s₀ (openFill k line ctx ready s) ↔ FormKept s₀ s ∨ FormElse s₀ (openFill k line ctx ready s) := kept (by unfold openFill; (repeat' split) <;> (try simp) <;> (repeat' (first | (apply FormKept.foldl; intro _ _) | split)) <;> simp_all) s₀
@[simp] theorem formKept_acceptRead (h : HReq) (s : State) (s₀ : State) :
    FormKept s₀ (acceptRead h s) ↔ FormKept s₀ s ∨ FormElse s₀ (acceptRead h s) := kept (by unfold acceptRead; (repeat' split) <;> (try simp) <;> (repeat' (first | (apply FormKept.foldl; intro _ _) | split)) <;> simp_all) s₀
@[simp] theorem formKept_acceptWrite (r : Req) (mask : Nat) (data : List Byte) (s : State) (s₀ : State) :
    FormKept s₀ (acceptWrite r mask data s) ↔ FormKept s₀ s ∨ FormElse s₀ (acceptWrite r mask data s) := kept (by unfold acceptWrite; simp) s₀
@[simp] theorem formKept_joinBatch (r : Req) (o : RedOp) (s : State) (s₀ : State) :
    FormKept s₀ (joinBatch r o s) ↔ FormKept s₀ s ∨ FormElse s₀ (joinBatch r o s) := kept (by unfold joinBatch; simp) s₀
@[simp] theorem formKept_acceptRed (r : Req) (o : RedOp) (s : State) (s₀ : State) :
    FormKept s₀ (acceptRed r o s) ↔ FormKept s₀ s ∨ FormElse s₀ (acceptRed r o s) := kept (by unfold acceptRed; simp) s₀
@[simp] theorem formKept_acceptSemWait (r : Req) (off val : Nat) (s : State) (s₀ : State) :
    FormKept s₀ (acceptSemWait r off val s) ↔ FormKept s₀ s ∨ FormElse s₀ (acceptSemWait r off val s) := kept (by unfold acceptSemWait; simp) s₀
theorem acceptStored_kept (key n : Nat) (s : State) : FormKept s (acceptStored key n s) := by
  induction n generalizing s with
  | zero => exact .refl s
  | succ m ih =>
    have ih := fun s => kept (ih s)
    unfold acceptStored
    (repeat' split) <;> simp [ih]
@[simp] theorem formKept_acceptStored (key n : Nat) (s : State) (s₀ : State) :
    FormKept s₀ (acceptStored key n s) ↔ FormKept s₀ s ∨ FormElse s₀ (acceptStored key n s) := kept (acceptStored_kept key n s) s₀
@[simp] theorem formKept_acceptOrdered (r : Req) (o : RedOp) (s : State) (s₀ : State) :
    FormKept s₀ (acceptOrdered r o s) ↔ FormKept s₀ s ∨ FormElse s₀ (acceptOrdered r o s) := kept (by unfold acceptOrdered; simp) s₀
@[simp] theorem formKept_acceptReq (h : HReq) (s : State) (s₀ : State) :
    FormKept s₀ (acceptReq h s) ↔ FormKept s₀ s ∨ FormElse s₀ (acceptReq h s) := kept (by unfold acceptReq; (repeat' split) <;> simp_all) s₀
theorem serveHeld_kept (key n : Nat) (s : State) : FormKept s (serveHeld key n s) := by
  induction n generalizing s with
  | zero => exact .refl s
  | succ m ih =>
    have ih := fun s => kept (ih s)
    unfold serveHeld
    (repeat' split) <;> simp [ih]
@[simp] theorem formKept_serveHeld (key n : Nat) (s : State) (s₀ : State) :
    FormKept s₀ (serveHeld key n s) ↔ FormKept s₀ s ∨ FormElse s₀ (serveHeld key n s) := kept (serveHeld_kept key n s) s₀
@[simp] theorem formKept_finishFill (k line : Nat) (s : State) (s₀ : State) :
    FormKept s₀ (finishFill k line s) ↔ FormKept s₀ s ∨ FormElse s₀ (finishFill k line s) := kept (by unfold finishFill; dsimp only; (repeat' split) <;> simp) s₀
@[simp] theorem formKept_serveLine (key : Nat) (s : State) (s₀ : State) :
    FormKept s₀ (serveLine key s) ↔ FormKept s₀ s ∨ FormElse s₀ (serveLine key s) := kept (by unfold serveLine; simp) s₀
@[simp] theorem formKept_serveWays (k line : Nat) (s : State) (s₀ : State) :
    FormKept s₀ (serveWays k line s) ↔ FormKept s₀ s ∨ FormElse s₀ (serveWays k line s) := kept (by unfold serveWays; (repeat' split) <;> simp_all) s₀
@[simp] theorem formKept_goLine (key : Nat) (s : State) (s₀ : State) :
    FormKept s₀ (goLine key s) ↔ FormKept s₀ s ∨ FormElse s₀ (goLine key s) := kept (by unfold goLine; simp) s₀
@[simp] theorem formKept_homeRequest (h : HReq) (s : State) (s₀ : State) :
    FormKept s₀ (homeRequest h s) ↔ FormKept s₀ s ∨ FormElse s₀ (homeRequest h s) := kept (by unfold homeRequest; dsimp only; (repeat' split) <;> simp) s₀
@[simp] theorem formKept_wakeLine (k line : Nat) (s : State) (s₀ : State) :
    FormKept s₀ (wakeLine k line s) ↔ FormKept s₀ s ∨ FormElse s₀ (wakeLine k line s) := kept (by unfold wakeLine; simp) s₀
@[simp] theorem formKept_endRound (k line : Nat) (s : State) (s₀ : State) :
    FormKept s₀ (endRound k line s) ↔ FormKept s₀ s ∨ FormElse s₀ (endRound k line s) := kept (by unfold endRound; (repeat' split) <;> (try simp) <;> (repeat' (first | (apply FormKept.foldl; intro _ _) | split)) <;> simp_all) s₀
@[simp] theorem formKept_partAck (k line p : Nat) (s : State) (s₀ : State) :
    FormKept s₀ (partAck k line p s) ↔ FormKept s₀ s ∨ FormElse s₀ (partAck k line p s) := kept (by unfold partAck; simp) s₀
@[simp] theorem formKept_orderApplied (k key : Nat) (o : RedOp) (s : State) (s₀ : State) :
    FormKept s₀ (orderApplied k key o s) ↔ FormKept s₀ s ∨ FormElse s₀ (orderApplied k key o s) := kept (by unfold orderApplied; (repeat' split) <;> simp_all) s₀
@[simp] theorem formKept_applyRed (k line : Nat) (s : State) (s₀ : State) :
    FormKept s₀ (applyRed k line s) ↔ FormKept s₀ s ∨ FormElse s₀ (applyRed k line s) := kept (by unfold applyRed; dsimp only; (repeat' split) <;> simp) s₀
@[simp] theorem formKept_flushOrdered (key : Nat) (q : Ordered) (s : State) (s₀ : State) :
    FormKept s₀ (flushOrdered key q s) ↔ FormKept s₀ s ∨ FormElse s₀ (flushOrdered key q s) := kept (by unfold flushOrdered; simp) s₀
@[simp] theorem formKept_ctxWrite (c a : Nat) (bs : List Byte) (who : Agent) (s : State) (s₀ : State) :
    FormKept s₀ (ctxWrite c a bs who s) ↔ FormKept s₀ s ∨ FormElse s₀ (ctxWrite c a bs who s) := kept (by unfold ctxWrite; (repeat' split) <;> (try simp) <;> (repeat' (first | (apply FormKept.foldl; intro _ _) | split)) <;> simp_all) s₀
@[simp] theorem formKept_arriveCount (w c n : Nat) (s : State) (s₀ : State) :
    FormKept s₀ (arriveCount w c n s) ↔ FormKept s₀ s ∨ FormElse s₀ (arriveCount w c n s) := kept (by unfold arriveCount; (repeat' split) <;> simp_all) s₀
@[simp] theorem formKept_inbFinish (e : InPkt) (s : State) (s₀ : State) :
    FormKept s₀ (inbFinish e s) ↔ FormKept s₀ s ∨ FormElse s₀ (inbFinish e s) := kept (by unfold inbFinish; simp) s₀
@[simp] theorem formKept_inbAnswer (r : Req) (status : Nat) (line : List Byte) (s : State) (s₀ : State) :
    FormKept s₀ (inbAnswer r status line s) ↔ FormKept s₀ s ∨ FormElse s₀ (inbAnswer r status line s) := kept (by unfold inbAnswer; (repeat' split) <;> simp_all) s₀

/-! ### Context -/

@[simp] theorem formKept_setStn (n : Nat) (f : Stn → Stn) (s : State) (s₀ : State) :
    FormKept s₀ (setStn n f s) ↔ FormKept s₀ s ∨ FormElse s₀ (setStn n f s) := kept (by exact ⟨id, id⟩) s₀
@[simp] theorem formKept_setLaunch (k : Nat) (f : Launch → Launch) (s : State) (s₀ : State) :
    FormKept s₀ (setLaunch k f s) ↔ FormKept s₀ s ∨ FormElse s₀ (setLaunch k f s) := kept (by exact ⟨id, id⟩) s₀
@[simp] theorem formKept_setInst (k i : Nat) (f : Inst → Inst) (s : State) (s₀ : State) :
    FormKept s₀ (setInst k i f s) ↔ FormKept s₀ s ∨ FormElse s₀ (setInst k i f s) := kept (by exact ⟨id, id⟩) s₀
@[simp] theorem formKept_addFlags (n fl : Nat) (s : State) (s₀ : State) :
    FormKept s₀ (addFlags n fl s) ↔ FormKept s₀ s ∨ FormElse s₀ (addFlags n fl s) := kept (by unfold addFlags; simp) s₀
@[simp] theorem formKept_mergeFlags (p : Nat → Stn → Bool) (s : State) (s₀ : State) :
    FormKept s₀ (mergeFlags p s) ↔ FormKept s₀ s ∨ FormElse s₀ (mergeFlags p s) := kept (by unfold mergeFlags; simp) s₀
@[simp] theorem formKept_rung1Start (c cause : Nat) (cmds : List (Nat × Nat)) (s : State) (s₀ : State) :
    FormKept s₀ (rung1Start c cause cmds s) ↔ FormKept s₀ s ∨ FormElse s₀ (rung1Start c cause cmds s) := kept (by unfold rung1Start; simp) s₀
@[simp] theorem formKept_stopStations (c : Nat) (s : State) (s₀ : State) :
    FormKept s₀ (stopStations c s) ↔ FormKept s₀ s ∨ FormElse s₀ (stopStations c s) := kept (by exact ⟨id, id⟩) s₀
@[simp] theorem formKept_stationFault (n code ik idx co addr detail : Nat) (s : State) (s₀ : State) :
    FormKept s₀ (stationFault n code ik idx co addr detail s) ↔ FormKept s₀ s ∨ FormElse s₀ (stationFault n code ik idx co addr detail s) := kept (by unfold stationFault; (repeat' split) <;> simp_all) s₀
@[simp] theorem formKept_stationXlate (n cause addr access agent index len : Nat) (s : State) (s₀ : State) :
    FormKept s₀ (stationXlate n cause addr access agent index len s) ↔ FormKept s₀ s ∨ FormElse s₀ (stationXlate n cause addr access agent index len s) := kept (by unfold stationXlate; (repeat' split) <;> simp_all) s₀
theorem HomesOnly.kept {s t : State} (h : HomesOnly s t) : FormKept s t := by
  rw [h]
  simp
@[simp] theorem formKept_retireLines (k : Nat) (grans : List Nat) (s : State) (s₀ : State) :
    FormKept s₀ (retireLines k grans s) ↔ FormKept s₀ s ∨ FormElse s₀ (retireLines k grans s) := kept (retireLines_homes k grans s).kept s₀
@[simp] theorem formKept_dropXcache (h : Nat) (c : Option Nat) (s : State) (s₀ : State) :
    FormKept s₀ (dropXcache h c s) ↔ FormKept s₀ s ∨ FormElse s₀ (dropXcache h c s) := kept (by exact ⟨id, id⟩) s₀
@[simp] theorem formKept_unhookExtent (num : Nat) (x : Extent) (s : State) (s₀ : State) :
    FormKept s₀ (unhookExtent num x s) ↔ FormKept s₀ s ∨ FormElse s₀ (unhookExtent num x s) := kept (by unfold unhookExtent; (repeat' split) <;> (try simp) <;> (repeat' (first | (apply FormKept.foldl; intro _ _) | split)) <;> simp_all) s₀
@[simp] theorem formKept_destroyLater (num : Nat) (x : Extent) (s : State) (s₀ : State) :
    FormKept s₀ (destroyLater num x s) ↔ FormKept s₀ s ∨ FormElse s₀ (destroyLater num x s) := kept (by unfold destroyLater; simp) s₀
@[simp] theorem formKept_destroyNow (num : Nat) (x : Extent) (s : State) (s₀ : State) :
    FormKept s₀ (destroyNow num x s) ↔ FormKept s₀ s ∨ FormElse s₀ (destroyNow num x s) := kept (by unfold destroyNow; simp) s₀
@[simp] theorem formKept_unmap (m : Mapping) (s : State) (s₀ : State) :
    FormKept s₀ (unmap m s) ↔ FormKept s₀ s ∨ FormElse s₀ (unmap m s) := kept (by unfold unmap; (repeat' split) <;> (try simp) <;> (repeat' (first | (apply FormKept.foldl; intro _ _) | split)) <;> simp_all) s₀
@[simp] theorem formKept_dropApertures (c : Nat) (s : State) (s₀ : State) :
    FormKept s₀ (dropApertures c s) ↔ FormKept s₀ s ∨ FormElse s₀ (dropApertures c s) := kept (by exact ⟨id, id⟩) s₀
@[simp] theorem formKept_dropWindows (c : Nat) (s : State) (s₀ : State) :
    FormKept s₀ (dropWindows c s) ↔ FormKept s₀ s ∨ FormElse s₀ (dropWindows c s) := kept (by exact ⟨id, id⟩) s₀
@[simp] theorem formKept_failOwins (c : Nat) (s : State) (s₀ : State) :
    FormKept s₀ (failOwins c s) ↔ FormKept s₀ s ∨ FormElse s₀ (failOwins c s) := kept (by exact ⟨id, id⟩) s₀
@[simp] theorem formKept_freeStations (p : Stn → Bool) (s : State) (s₀ : State) :
    FormKept s₀ (freeStations p s) ↔ FormKept s₀ s ∨ FormElse s₀ (freeStations p s) := kept (by exact ⟨id, id⟩) s₀
@[simp] theorem formKept_dropLaunch (k : Nat) (s : State) (s₀ : State) :
    FormKept s₀ (dropLaunch k s) ↔ FormKept s₀ s ∨ FormElse s₀ (dropLaunch k s) := kept (by exact ⟨id, id⟩) s₀
@[simp] theorem formKept_setQueue (q : Nat) (f : Queue → Queue) (s : State) (s₀ : State) :
    FormKept s₀ (setQueue q f s) ↔ FormKept s₀ s ∨ FormElse s₀ (setQueue q f s) := kept (by exact ⟨id, id⟩) s₀
@[simp] theorem formKept_setCmd (q seq : Nat) (f : TakenCmd → TakenCmd) (s : State) (s₀ : State) :
    FormKept s₀ (setCmd q seq f s) ↔ FormKept s₀ s ∨ FormElse s₀ (setCmd q seq f s) := kept (by exact ⟨id, id⟩) s₀
@[simp] theorem formKept_finishCmd (q seq st detail : Nat) (s : State) (s₀ : State) :
    FormKept s₀ (finishCmd q seq st detail s) ↔ FormKept s₀ s ∨ FormElse s₀ (finishCmd q seq st detail s) := kept (by exact ⟨id, id⟩) s₀
@[simp] theorem formKept_markBound (q seq : Nat) (s : State) (s₀ : State) :
    FormKept s₀ (markBound q seq s) ↔ FormKept s₀ s ∨ FormElse s₀ (markBound q seq s) := kept (by exact ⟨id, id⟩) s₀
@[simp] theorem formKept_killCmds (c : Nat) (s : State) (s₀ : State) :
    FormKept s₀ (killCmds c s) ↔ FormKept s₀ s ∨ FormElse s₀ (killCmds c s) := kept (by exact ⟨id, id⟩) s₀
@[simp] theorem formKept_dropRequests (c : Nat) (s : State) (s₀ : State) :
    FormKept s₀ (dropRequests c s) ↔ FormKept s₀ s ∨ FormElse s₀ (dropRequests c s) := kept (by exact ⟨id, id⟩) s₀
@[simp] theorem formKept_killCtx (c : Nat) (s : State) (s₀ : State) :
    FormKept s₀ (killCtx c s) ↔ FormKept s₀ s ∨ FormElse s₀ (killCtx c s) := kept (by unfold killCtx; simp) s₀
@[simp] theorem formKept_runRung1 (c : Nat) (s : State) (s₀ : State) :
    FormKept s₀ (runRung1 c s) ↔ FormKept s₀ s ∨ FormElse s₀ (runRung1 c s) := kept (by unfold runRung1; (repeat' split) <;> simp_all) s₀

/-! ### Planner -/

@[simp] theorem formKept_writeBreach (p n phase sharers granted received us : Nat) (s : State) (s₀ : State) :
    FormKept s₀ (writeBreach p n phase sharers granted received us s) ↔ FormKept s₀ s ∨ FormElse s₀ (writeBreach p n phase sharers granted received us s) := kept (by exact ⟨id, id⟩) s₀
@[simp] theorem formKept_lossBreach (resource p n phase granted received us : Nat) (s : State) (s₀ : State) :
    FormKept s₀ (lossBreach resource p n phase granted received us s) ↔ FormKept s₀ s ∨ FormElse s₀ (lossBreach resource p n phase granted received us s) := kept (by exact ⟨id, id⟩) s₀
@[simp] theorem formKept_updateBreach (p sharers n granted received : Nat) (s : State) (s₀ : State) :
    FormKept s₀ (updateBreach p sharers n granted received s) ↔ FormKept s₀ s ∨ FormElse s₀ (updateBreach p sharers n granted received s) := kept (by unfold updateBreach; (repeat' split) <;> simp_all) s₀
@[simp] theorem formKept_endBreaches (p : Nat) (ns : List Nat) (s : State) (s₀ : State) :
    FormKept s₀ (endBreaches p ns s) ↔ FormKept s₀ s ∨ FormElse s₀ (endBreaches p ns s) := kept (by unfold endBreaches; simp) s₀
@[simp] theorem formKept_debitShare (key e : Nat) (s : State) (s₀ : State) :
    FormKept s₀ (debitShare key e s) ↔ FormKept s₀ s ∨ FormElse s₀ (debitShare key e s) := kept (by unfold debitShare; (repeat' split) <;> simp_all) s₀
@[simp] theorem formKept_fixedDelay (p : Nat) (s : State) (s₀ : State) :
    FormKept s₀ (fixedDelay p s) ↔ FormKept s₀ s ∨ FormElse s₀ (fixedDelay p s) := kept (by unfold fixedDelay; simp) s₀
@[simp] theorem formKept_creditBack (c : TakenCmd) (s : State) (s₀ : State) :
    FormKept s₀ (creditBack c s) ↔ FormKept s₀ s ∨ FormElse s₀ (creditBack c s) := kept (by unfold creditBack; simp) s₀
@[simp] theorem formKept_putPoint (h k : Nat) (s : State) (s₀ : State) :
    FormKept s₀ (putPoint h k s) ↔ FormKept s₀ s ∨ FormElse s₀ (putPoint h k s) := kept (by exact ⟨id, id⟩) s₀
@[simp] theorem formKept_seamFollow (p : Nat) (s : State) (s₀ : State) :
    FormKept s₀ (seamFollow p s) ↔ FormKept s₀ s ∨ FormElse s₀ (seamFollow p s) := kept (by unfold seamFollow; simp) s₀
@[simp] theorem formKept_moveHalves (p west east : Nat) (s : State) (s₀ : State) :
    FormKept s₀ (moveHalves p west east s) ↔ FormKept s₀ s ∨ FormElse s₀ (moveHalves p west east s) := kept (by unfold moveHalves; simp) s₀
@[simp] theorem formKept_fixedBroken (p cause : Nat) (s : State) (s₀ : State) :
    FormKept s₀ (fixedBroken p cause s) ↔ FormKept s₀ s ∨ FormElse s₀ (fixedBroken p cause s) := kept (by unfold fixedBroken; simp) s₀

/-! ### Operands -/

@[simp] theorem formKept_cmdGo (op q seq : Nat) (f : Queue → TakenCmd → State → State) (s : State) (h_f : ∀ a0 a1 a2, FormKept a2 (f a0 a1 a2)) (s₀ : State) :
    FormKept s₀ (cmdGo op q seq f s) ↔ FormKept s₀ s ∨ FormElse s₀ (cmdGo op q seq f s) := kept (by unfold cmdGo; (repeat' split) <;> simp_all) s₀
@[simp] theorem outKept_cmdOut (op q seq : Nat) (f : Queue → TakenCmd → State → State) (s : State) (h_f : ∀ a0 a1 a2, FormKept a2 (f a0 a1 a2)) : OutKept s (cmdOut op q seq f s) := by unfold cmdOut; (repeat' split) <;> simp_all

/-! ### PowerOps -/

@[simp] theorem formKept_inputRange (v : Nat) (s : State) (s₀ : State) :
    FormKept s₀ (inputRange v s) ↔ FormKept s₀ s ∨ FormElse s₀ (inputRange v s) := kept (by unfold inputRange; simp) s₀
@[simp] theorem formKept_driveAlert (s : State) (s₀ : State) :
    FormKept s₀ (driveAlert s) ↔ FormKept s₀ s ∨ FormElse s₀ (driveAlert s) := kept (by exact ⟨id, id⟩) s₀
@[simp] theorem formKept_measure (p q seq e : Nat) (s : State) (s₀ : State) :
    FormKept s₀ (measure p q seq e s) ↔ FormKept s₀ s ∨ FormElse s₀ (measure p q seq e s) := kept (by unfold measure; (repeat' split) <;> simp_all) s₀
@[simp] theorem formKept_attribute_ (p q seq c e : Nat) (s : State) (s₀ : State) :
    FormKept s₀ (attribute_ p q seq c e s) ↔ FormKept s₀ s ∨ FormElse s₀ (attribute_ p q seq c e s) := kept (by unfold attribute_; simp) s₀
@[simp] theorem formKept_shareSample (p : Nat) (m : PartSample) (s : State) (s₀ : State) :
    FormKept s₀ (shareSample p m s) ↔ FormKept s₀ s ∨ FormElse s₀ (shareSample p m s) := kept (by unfold shareSample; simp) s₀
@[simp] theorem formKept_powerSampleS (m : PowerIn) (s : State) (s₀ : State) :
    FormKept s₀ (powerSampleS m s) ↔ FormKept s₀ s ∨ FormElse s₀ (powerSampleS m s) := kept (by unfold powerSampleS; simp) s₀
theorem outKept_execPowerSample (m : PowerIn) (s : State) : OutKept s (execPowerSample m s) := by unfold execPowerSample; simp
theorem outKept_execPoweredHour (s : State) : OutKept s (execPoweredHour s) := by unfold execPoweredHour; simp
@[simp] theorem formKept_throttle (die tj : Nat) (hot : Nat) (s : State) (s₀ : State) :
    FormKept s₀ (throttle die tj hot s) ↔ FormKept s₀ s ∨ FormElse s₀ (throttle die tj hot s) := kept (by unfold throttle; simp) s₀
@[simp] theorem formKept_alertLevel (die tj : Nat) (s : State) (s₀ : State) :
    FormKept s₀ (alertLevel die tj s) ↔ FormKept s₀ s ∨ FormElse s₀ (alertLevel die tj s) := kept (by unfold alertLevel; simp) s₀
@[simp] theorem formKept_refill (p n b : Nat) (s : State) (s₀ : State) :
    FormKept s₀ (refill p n b s) ↔ FormKept s₀ s ∨ FormElse s₀ (refill p n b s) := kept (by exact ⟨id, id⟩) s₀
@[simp] theorem formKept_budgetWindowS (p baseW portW : Nat) (s : State) (s₀ : State) :
    FormKept s₀ (budgetWindowS p baseW portW s) ↔ FormKept s₀ s ∨ FormElse s₀ (budgetWindowS p baseW portW s) := kept (by unfold budgetWindowS; simp) s₀
theorem outKept_execBudgetWindow (part baseW portW : Nat) (s : State) : OutKept s (execBudgetWindow part baseW portW s) := by unfold execBudgetWindow; simp
@[simp] theorem formKept_setHalfCaps (p : Nat) (s : State) (s₀ : State) :
    FormKept s₀ (setHalfCaps p s) ↔ FormKept s₀ s ∨ FormElse s₀ (setHalfCaps p s) := kept (by exact ⟨id, id⟩) s₀
@[simp] theorem formKept_restartHalves (s : State) (s₀ : State) :
    FormKept s₀ (restartHalves s) ↔ FormKept s₀ s ∨ FormElse s₀ (restartHalves s) := kept (by exact ⟨id, id⟩) s₀
@[simp] theorem formKept_boostStepS (p west east : Nat) (s : State) (s₀ : State) :
    FormKept s₀ (boostStepS p west east s) ↔ FormKept s₀ s ∨ FormElse s₀ (boostStepS p west east s) := kept (by unfold boostStepS; simp) s₀
theorem outKept_execBoostStep (part west east : Nat) (s : State) : OutKept s (execBoostStep part west east s) := by unfold execBoostStep; simp
@[simp] theorem formKept_budgetSetS (u : Queue) (c : TakenCmd) (s : State) (s₀ : State) :
    FormKept s₀ (budgetSetS u c s) ↔ FormKept s₀ s ∨ FormElse s₀ (budgetSetS u c s) := kept (by unfold budgetSetS; simp) s₀
theorem outKept_execBudgetSet (q seq : Nat) (s : State) : OutKept s (execBudgetSet q seq s) := by unfold execBudgetSet; simp
@[simp] theorem formKept_energyReadS (u : Queue) (c : TakenCmd) (s : State) (s₀ : State) :
    FormKept s₀ (energyReadS u c s) ↔ FormKept s₀ s ∨ FormElse s₀ (energyReadS u c s) := kept (by unfold energyReadS; simp) s₀
theorem outKept_execEnergyRead (q seq : Nat) (s : State) : OutKept s (execEnergyRead q seq s) := by unfold execEnergyRead; simp
@[simp] theorem formKept_calReadS (u : Queue) (c : TakenCmd) (s : State) (s₀ : State) :
    FormKept s₀ (calReadS u c s) ↔ FormKept s₀ s ∨ FormElse s₀ (calReadS u c s) := kept (by unfold calReadS; simp) s₀
theorem outKept_execCalRead (q seq : Nat) (s : State) : OutKept s (execCalRead q seq s) := by unfold execCalRead; simp
@[simp] theorem formKept_calWriteS (u : Queue) (c : TakenCmd) (s : State) (s₀ : State) :
    FormKept s₀ (calWriteS u c s) ↔ FormKept s₀ s ∨ FormElse s₀ (calWriteS u c s) := kept (by unfold calWriteS; simp) s₀
theorem outKept_execCalWrite (q seq : Nat) (s : State) : OutKept s (execCalWrite q seq s) := by unfold execCalWrite; simp

/-! ### Startup -/

@[simp] theorem formKept_trainBundle (straps : List (Nat × Nat)) (lanes words : List (Nat × Nat × Nat)) (link b : Nat) (s : State) (s₀ : State) :
    FormKept s₀ (trainBundle straps lanes words link b s) ↔ FormKept s₀ s ∨ FormElse s₀ (trainBundle straps lanes words link b s) := kept (by exact ⟨id, id⟩) s₀
@[simp] theorem formKept_trainLink (straps : List (Nat × Nat)) (lanes words : List (Nat × Nat × Nat)) (link : Nat) (s : State) (s₀ : State) :
    FormKept s₀ (trainLink straps lanes words link s) ↔ FormKept s₀ s ∨ FormElse s₀ (trainLink straps lanes words link s) := kept (by unfold trainLink; simp) s₀
@[simp] theorem formKept_bootStack (b : BootIn) (k : Nat) (s : State) (s₀ : State) :
    FormKept s₀ (bootStack b k s) ↔ FormKept s₀ s ∨ FormElse s₀ (bootStack b k s) := kept (by unfold bootStack; simp) s₀
@[simp] theorem formKept_makeRecord (at0 : Tbl Nat) (uncert : List Nat) (s : State) (s₀ : State) :
    FormKept s₀ (makeRecord at0 uncert s) ↔ FormKept s₀ s ∨ FormElse s₀ (makeRecord at0 uncert s) := kept (by exact ⟨id, id⟩) s₀
@[simp] theorem formKept_markerLeaves (ws : List (Nat × Nat)) (s : State) (s₀ : State) :
    FormKept s₀ (markerLeaves ws s) ↔ FormKept s₀ s ∨ FormElse s₀ (markerLeaves ws s) := kept (by exact ⟨id, id⟩) s₀
@[simp] theorem formKept_corrAnswer (n q seq : Nat) (s : State) (s₀ : State) :
    FormKept s₀ (corrAnswer n q seq s) ↔ FormKept s₀ s ∨ FormElse s₀ (corrAnswer n q seq s) := kept (by unfold corrAnswer; (repeat' split) <;> simp_all) s₀
@[simp] theorem formKept_markerBack (at0 : Tbl Nat) (uncert : List Nat) (s : State) (s₀ : State) :
    FormKept s₀ (markerBack at0 uncert s) ↔ FormKept s₀ s ∨ FormElse s₀ (markerBack at0 uncert s) := kept (by unfold markerBack; simp) s₀
@[simp] theorem formKept_clockCorrS (uncert : List Nat) (u : Queue) (c : TakenCmd) (s : State) (s₀ : State) :
    FormKept s₀ (clockCorrS uncert u c s) ↔ FormKept s₀ s ∨ FormElse s₀ (clockCorrS uncert u c s) := kept (by unfold clockCorrS; (repeat' split) <;> simp_all) s₀
theorem outKept_execClockCorr (q seq : Nat) (uncert : List Nat) (s : State) : OutKept s (execClockCorr q seq uncert s) := by unfold execClockCorr; simp
@[simp] theorem formKept_bootReport (stage status die : Nat) (s : State) (s₀ : State) :
    FormKept s₀ (bootReport stage status die s) ↔ FormKept s₀ s ∨ FormElse s₀ (bootReport stage status die s) := kept (by exact ⟨id, id⟩) s₀
@[simp] theorem formKept_bootHalt (status die : Nat) (s : State) (s₀ : State) :
    FormKept s₀ (bootHalt status die s) ↔ FormKept s₀ s ∨ FormElse s₀ (bootHalt status die s) := kept (by exact ⟨id, id⟩) s₀
@[simp] theorem formKept_placeCrumb (k : Nat) (s : State) (s₀ : State) :
    FormKept s₀ (placeCrumb k s) ↔ FormKept s₀ s ∨ FormElse s₀ (placeCrumb k s) := kept (by unfold placeCrumb; (repeat' split) <;> simp_all) s₀
@[simp] theorem formKept_reachReady (slot : Bool) (s : State) (s₀ : State) :
    FormKept s₀ (reachReady slot s) ↔ FormKept s₀ s ∨ FormElse s₀ (reachReady slot s) := kept (by unfold reachReady; (repeat' split) <;> (try simp) <;> (repeat' (first | (apply FormKept.foldl; intro _ _) | split)) <;> simp_all) s₀
@[simp] theorem formKept_startUhlug (ready pd1Answers : Bool) (s : State) (s₀ : State) :
    FormKept s₀ (startUhlug ready pd1Answers s) ↔ FormKept s₀ s ∨ FormElse s₀ (startUhlug ready pd1Answers s) := kept (by unfold startUhlug; (repeat' split) <;> simp_all) s₀
@[simp] theorem formKept_bootParts (straps : List (Nat × Nat)) (s : State) (s₀ : State) :
    FormKept s₀ (bootParts straps s) ↔ FormKept s₀ s ∨ FormElse s₀ (bootParts straps s) := kept (by unfold bootParts; simp) s₀
@[simp] theorem formKept_bootFrom4 (b : BootIn) (s : State) (s₀ : State) :
    FormKept s₀ (bootFrom4 b s) ↔ FormKept s₀ s ∨ FormElse s₀ (bootFrom4 b s) := kept (by unfold bootFrom4; (repeat' split) <;> simp_all) s₀
theorem outKept_execImageFault (ready pd1 : Bool) (s : State) : OutKept s (execImageFault ready pd1 s) := by unfold execImageFault; (repeat' split) <;> simp_all

end Sys2Proof.Machine
end

section
/-! PROOF. What keeps device and host memory in canonical form: the queues and the commands that packets carry. -/

set_option maxRecDepth 4000

namespace Sys2Proof.Machine

/-! ### Queues -/

@[simp] theorem formKept_putWindow (off : Nat) (bs : List Byte) (s : State) (s₀ : State) :
    FormKept s₀ (putWindow off bs s) ↔ FormKept s₀ s ∨ FormElse s₀ (putWindow off bs s) := kept (by exact ⟨id, id⟩) s₀
@[simp] theorem formKept_stopQueue (q cause seq : Nat) (u : Queue) (s : State) (s₀ : State) :
    FormKept s₀ (stopQueue q cause seq u s) ↔ FormKept s₀ s ∨ FormElse s₀ (stopQueue q cause seq u s) := kept (by exact ⟨id, id⟩) s₀
@[simp] theorem formKept_sealCheck (q slot w : Nat) (s : State) (s₀ : State) :
    FormKept s₀ (sealCheck q slot w s) ↔ FormKept s₀ s ∨ FormElse s₀ (sealCheck q slot w s) := kept (by unfold sealCheck; (repeat' split) <;> simp_all) s₀
@[simp] theorem formKept_sealAt (off : Nat) (s : State) (s₀ : State) :
    FormKept s₀ (sealAt off s) ↔ FormKept s₀ s ∨ FormElse s₀ (sealAt off s) := kept (by unfold sealAt; simp) s₀
@[simp] theorem formKept_bar2WriteS (off : Nat) (data : List Byte) (s : State) (s₀ : State) :
    FormKept s₀ (bar2WriteS off data s) ↔ FormKept s₀ s ∨ FormElse s₀ (bar2WriteS off data s) := kept (by unfold bar2WriteS; simp) s₀
theorem outKept_execBar2Write (off : Nat) (data : List Byte) (s : State) : OutKept s (execBar2Write off data s) := by unfold execBar2Write; simp
theorem outKept_execSealWord (off val : Nat) (s : State) : OutKept s (execSealWord off val s) := by unfold execSealWord; simp
@[simp] theorem formKept_takePacketS (q : Nat) (s : State) (s₀ : State) :
    FormKept s₀ (takePacketS q s) ↔ FormKept s₀ s ∨ FormElse s₀ (takePacketS q s) := kept (by unfold takePacketS; (repeat' split) <;> simp_all) s₀
theorem outKept_execTakePacket (q : Nat) (s : State) : OutKept s (execTakePacket q s) := by unfold execTakePacket; simp
@[simp] theorem formKept_startLaunch (q seq : Nat) (s : State) (s₀ : State) :
    FormKept s₀ (startLaunch q seq s) ↔ FormKept s₀ s ∨ FormElse s₀ (startLaunch q seq s) := kept (by unfold startLaunch; (repeat' split) <;> simp_all) s₀
@[simp] theorem formKept_commandStartS (q seq : Nat) (s : State) (s₀ : State) :
    FormKept s₀ (commandStartS q seq s) ↔ FormKept s₀ s ∨ FormElse s₀ (commandStartS q seq s) := kept (by unfold commandStartS; (repeat' split) <;> simp_all) s₀
theorem outKept_execCommandStart (q seq : Nat) (s : State) : OutKept s (execCommandStart q seq s) := by unfold execCommandStart; simp
@[simp] theorem formKept_writeReply (q seq st tag credit detail : Nat) (s : State) (s₀ : State) :
    FormKept s₀ (writeReply q seq st tag credit detail s) ↔ FormKept s₀ s ∨ FormElse s₀ (writeReply q seq st tag credit detail s) := kept (by unfold writeReply; (repeat' split) <;> simp_all) s₀
@[simp] theorem formKept_markQueue (q : Nat) (s : State) (s₀ : State) :
    FormKept s₀ (markQueue q s) ↔ FormKept s₀ s ∨ FormElse s₀ (markQueue q s) := kept (by exact ⟨id, id⟩) s₀
@[simp] theorem formKept_replyCmd (q : Nat) (u : Queue) (c : TakenCmd) (st detail : Nat) (s : State) (s₀ : State) :
    FormKept s₀ (replyCmd q u c st detail s) ↔ FormKept s₀ s ∨ FormElse s₀ (replyCmd q u c st detail s) := kept (by unfold replyCmd; simp) s₀
@[simp] theorem formKept_replyStopped (q : Nat) (u : Queue) (seq : Nat) (s : State) (s₀ : State) :
    FormKept s₀ (replyStopped q u seq s) ↔ FormKept s₀ s ∨ FormElse s₀ (replyStopped q u seq s) := kept (by unfold replyStopped; simp) s₀
@[simp] theorem formKept_replyS (q seq : Nat) (s : State) (s₀ : State) :
    FormKept s₀ (replyS q seq s) ↔ FormKept s₀ s ∨ FormElse s₀ (replyS q seq s) := kept (by unfold replyS; (repeat' split) <;> simp_all) s₀
theorem outKept_execReply (q seq : Nat) (s : State) : OutKept s (execReply q seq s) := by unfold execReply; simp
theorem outKept_execEventRecord (s : State) : OutKept s (execEventRecord s) := by unfold execEventRecord; simp

/-! ### CtxOps -/

@[simp] theorem formKept_ctxCreateS (u : Queue) (c : TakenCmd) (s : State) (s₀ : State) :
    FormKept s₀ (ctxCreateS u c s) ↔ FormKept s₀ s ∨ FormElse s₀ (ctxCreateS u c s) := kept (by unfold ctxCreateS; (repeat' split) <;> (try simp) <;> (repeat' (first | (apply FormKept.foldl; intro _ _) | split)) <;> simp_all) s₀
theorem outKept_execCtxCreate (q seq : Nat) (s : State) : OutKept s (execCtxCreate q seq s) := by unfold execCtxCreate; simp
@[simp] theorem formKept_ctxDestroyS (u : Queue) (c : TakenCmd) (s : State) (s₀ : State) :
    FormKept s₀ (ctxDestroyS u c s) ↔ FormKept s₀ s ∨ FormElse s₀ (ctxDestroyS u c s) := kept (by unfold ctxDestroyS; (repeat' split) <;> simp_all) s₀
theorem outKept_execCtxDestroy (q seq : Nat) (s : State) : OutKept s (execCtxDestroy q seq s) := by unfold execCtxDestroy; simp
@[simp] theorem formKept_ctxFlagsS (u : Queue) (c : TakenCmd) (s : State) (s₀ : State) :
    FormKept s₀ (ctxFlagsS u c s) ↔ FormKept s₀ s ∨ FormElse s₀ (ctxFlagsS u c s) := kept (by unfold ctxFlagsS; (repeat' split) <;> simp_all) s₀
theorem outKept_execCtxFlags (q seq : Nat) (s : State) : OutKept s (execCtxFlags q seq s) := by unfold execCtxFlags; simp
@[simp] theorem formKept_queueCreateS (u : Queue) (c : TakenCmd) (s : State) (s₀ : State) :
    FormKept s₀ (queueCreateS u c s) ↔ FormKept s₀ s ∨ FormElse s₀ (queueCreateS u c s) := kept (by unfold queueCreateS; simp) s₀
theorem outKept_execQueueCreate (q seq : Nat) (s : State) : OutKept s (execQueueCreate q seq s) := by unfold execQueueCreate; simp
@[simp] theorem formKept_queueDestroyS (u : Queue) (c : TakenCmd) (s : State) (s₀ : State) :
    FormKept s₀ (queueDestroyS u c s) ↔ FormKept s₀ s ∨ FormElse s₀ (queueDestroyS u c s) := kept (by unfold queueDestroyS; (repeat' split) <;> (try simp) <;> (repeat' (first | (apply FormKept.foldl; intro _ _) | split)) <;> simp_all) s₀
theorem outKept_execQueueDestroy (q seq : Nat) (s : State) : OutKept s (execQueueDestroy q seq s) := by unfold execQueueDestroy; simp
@[simp] theorem formKept_queueResetS (u : Queue) (c : TakenCmd) (s : State) (s₀ : State) :
    FormKept s₀ (queueResetS u c s) ↔ FormKept s₀ s ∨ FormElse s₀ (queueResetS u c s) := kept (by unfold queueResetS; (repeat' split) <;> (try simp) <;> (repeat' (first | (apply FormKept.foldl; intro _ _) | split)) <;> simp_all) s₀
theorem outKept_execQueueReset (q seq : Nat) (s : State) : OutKept s (execQueueReset q seq s) := by unfold execQueueReset; simp
@[simp] theorem formKept_faultResumeS (u : Queue) (c : TakenCmd) (s : State) (s₀ : State) :
    FormKept s₀ (faultResumeS u c s) ↔ FormKept s₀ s ∨ FormElse s₀ (faultResumeS u c s) := kept (by unfold faultResumeS; (repeat' split) <;> simp_all) s₀
theorem outKept_execFaultResume (q seq : Nat) (s : State) : OutKept s (execFaultResume q seq s) := by unfold execFaultResume; simp

/-! ### ExtOps -/

@[simp] theorem formKept_addPins (n : Nat) (keys : List Nat) (s : State) (s₀ : State) :
    FormKept s₀ (addPins n keys s) ↔ FormKept s₀ s ∨ FormElse s₀ (addPins n keys s) := kept (by exact ⟨id, id⟩) s₀
@[simp] theorem formKept_dropPins (n : Nat) (keys : List Nat) (s : State) (s₀ : State) :
    FormKept s₀ (dropPins n keys s) ↔ FormKept s₀ s ∨ FormElse s₀ (dropPins n keys s) := kept (by exact ⟨id, id⟩) s₀
@[simp] theorem formKept_extPlace (u : Queue) (c : TakenCmd) (h : AllocHint) (main rep : List (Nat × List Nat × List Nat)) (s : State) (s₀ : State) :
    FormKept s₀ (extPlace u c h main rep s) ↔ FormKept s₀ s ∨ FormElse s₀ (extPlace u c h main rep s) := kept (by unfold extPlace; simp) s₀
@[simp] theorem formKept_extCreateS (h : AllocHint) (u : Queue) (c : TakenCmd) (s : State) (s₀ : State) :
    FormKept s₀ (extCreateS h u c s) ↔ FormKept s₀ s ∨ FormElse s₀ (extCreateS h u c s) := kept (by unfold extCreateS; (repeat' split) <;> (try simp) <;> (repeat' (first | (apply FormKept.foldl; intro _ _) | split)) <;> simp_all) s₀
theorem outKept_execExtCreate (q seq : Nat) (h : AllocHint) (s : State) : OutKept s (execExtCreate q seq h s) := by unfold execExtCreate; simp
@[simp] theorem formKept_extDestroyS (u : Queue) (c : TakenCmd) (s : State) (s₀ : State) :
    FormKept s₀ (extDestroyS u c s) ↔ FormKept s₀ s ∨ FormElse s₀ (extDestroyS u c s) := kept (by unfold extDestroyS; (repeat' split) <;> simp_all) s₀
theorem outKept_execExtDestroy (q seq : Nat) (s : State) : OutKept s (execExtDestroy q seq s) := by unfold execExtDestroy; simp
@[simp] theorem formKept_dropCopies (x : Extent) (s : State) (s₀ : State) :
    FormKept s₀ (dropCopies x s) ↔ FormKept s₀ s ∨ FormElse s₀ (dropCopies x s) := kept (by exact ⟨id, id⟩) s₀
@[simp] theorem formKept_extShareS (u : Queue) (c : TakenCmd) (s : State) (s₀ : State) :
    FormKept s₀ (extShareS u c s) ↔ FormKept s₀ s ∨ FormElse s₀ (extShareS u c s) := kept (by unfold extShareS; (repeat' split) <;> (try simp) <;> (repeat' (first | (apply FormKept.foldl; intro _ _) | split)) <;> simp_all) s₀
theorem outKept_execExtShare (q seq : Nat) (s : State) : OutKept s (execExtShare q seq s) := by unfold execExtShare; simp
@[simp] theorem formKept_extUnmapS (u : Queue) (c : TakenCmd) (s : State) (s₀ : State) :
    FormKept s₀ (extUnmapS u c s) ↔ FormKept s₀ s ∨ FormElse s₀ (extUnmapS u c s) := kept (by unfold extUnmapS; (repeat' split) <;> simp_all) s₀
theorem outKept_execExtUnmap (q seq : Nat) (s : State) : OutKept s (execExtUnmap q seq s) := by unfold execExtUnmap; simp
@[simp] theorem formKept_extQueryS (u : Queue) (c : TakenCmd) (s : State) (s₀ : State) :
    FormKept s₀ (extQueryS u c s) ↔ FormKept s₀ s ∨ FormElse s₀ (extQueryS u c s) := kept (by unfold extQueryS; (repeat' split) <;> simp_all) s₀
theorem outKept_execExtQuery (q seq : Nat) (s : State) : OutKept s (execExtQuery q seq s) := by unfold execExtQuery; simp
@[simp] theorem formKept_stopPreloads (keys : List Nat) (s : State) (s₀ : State) :
    FormKept s₀ (stopPreloads keys s) ↔ FormKept s₀ s ∨ FormElse s₀ (stopPreloads keys s) := kept (by exact ⟨id, id⟩) s₀
@[simp] theorem formKept_pinS (u : Queue) (c : TakenCmd) (s : State) (s₀ : State) :
    FormKept s₀ (pinS u c s) ↔ FormKept s₀ s ∨ FormElse s₀ (pinS u c s) := kept (by unfold pinS; (repeat' split) <;> simp_all) s₀
theorem outKept_execPin (q seq : Nat) (s : State) : OutKept s (execPin q seq s) := by unfold execPin; simp
@[simp] theorem formKept_unpinS (u : Queue) (c : TakenCmd) (s : State) (s₀ : State) :
    FormKept s₀ (unpinS u c s) ↔ FormKept s₀ s ∨ FormElse s₀ (unpinS u c s) := kept (by unfold unpinS; (repeat' split) <;> simp_all) s₀
theorem outKept_execUnpin (q seq : Nat) (s : State) : OutKept s (execUnpin q seq s) := by unfold execUnpin; simp
@[simp] theorem formKept_apertureSetS (u : Queue) (c : TakenCmd) (s : State) (s₀ : State) :
    FormKept s₀ (apertureSetS u c s) ↔ FormKept s₀ s ∨ FormElse s₀ (apertureSetS u c s) := kept (by unfold apertureSetS; (repeat' split) <;> (try simp) <;> (repeat' (first | (apply FormKept.foldl; intro _ _) | split)) <;> simp_all) s₀
theorem outKept_execApertureSet (q seq : Nat) (s : State) : OutKept s (execApertureSet q seq s) := by unfold execApertureSet; simp
@[simp] theorem formKept_windowSetS (u : Queue) (c : TakenCmd) (s : State) (s₀ : State) :
    FormKept s₀ (windowSetS u c s) ↔ FormKept s₀ s ∨ FormElse s₀ (windowSetS u c s) := kept (by unfold windowSetS; (repeat' split) <;> (try simp) <;> (repeat' (first | (apply FormKept.foldl; intro _ _) | split)) <;> simp_all) s₀
theorem outKept_execWindowSet (q seq : Nat) (s : State) : OutKept s (execWindowSet q seq s) := by unfold execWindowSet; simp
@[simp] theorem formKept_counterResetS (u : Queue) (c : TakenCmd) (s : State) (s₀ : State) :
    FormKept s₀ (counterResetS u c s) ↔ FormKept s₀ s ∨ FormElse s₀ (counterResetS u c s) := kept (by unfold counterResetS; (repeat' split) <;> (try simp) <;> (repeat' (first | (apply FormKept.foldl; intro _ _) | split)) <;> simp_all) s₀
theorem outKept_execCounterReset (q seq : Nat) (s : State) : OutKept s (execCounterReset q seq s) := by unfold execCounterReset; simp

/-! ### Recipes -/

@[simp] theorem formKept_recipeLoadS (u : Queue) (c : TakenCmd) (s : State) (s₀ : State) :
    FormKept s₀ (recipeLoadS u c s) ↔ FormKept s₀ s ∨ FormElse s₀ (recipeLoadS u c s) := kept (by unfold recipeLoadS; (repeat' split) <;> (try simp) <;> (repeat' (first | (apply FormKept.foldl; intro _ _) | split)) <;> simp_all) s₀
theorem outKept_execRecipeLoad (q seq : Nat) (s : State) : OutKept s (execRecipeLoad q seq s) := by unfold execRecipeLoad; simp
@[simp] theorem formKept_recipeUnloadS (u : Queue) (c : TakenCmd) (s : State) (s₀ : State) :
    FormKept s₀ (recipeUnloadS u c s) ↔ FormKept s₀ s ∨ FormElse s₀ (recipeUnloadS u c s) := kept (by unfold recipeUnloadS; (repeat' split) <;> (try simp) <;> (repeat' (first | (apply FormKept.foldl; intro _ _) | split)) <;> simp_all) s₀
theorem outKept_execRecipeUnload (q seq : Nat) (s : State) : OutKept s (execRecipeUnload q seq s) := by unfold execRecipeUnload; simp

/-! ### RoutePlan -/

theorem joinPlan_kept {k c a : Nat} {s t : State} (h : joinPlan k c a s = some t) : FormKept s t := by
  revert h; unfold joinPlan; dsimp only; (repeat' split) <;> intro h <;> simp at h <;> subst h <;> simp

/-! ### Sched -/

@[simp] theorem outKept_ifRun (f : State → State) (s : State) (h_f : ∀ a0, FormKept a0 (f a0)) : OutKept s (ifRun f s) := by unfold ifRun; (repeat' split) <;> simp_all
@[simp] theorem formKept_cmdTaken (op q seq : Nat) (f : Queue → TakenCmd → State → State) (s : State) (h_f : ∀ a0 a1 a2, FormKept a2 (f a0 a1 a2)) (s₀ : State) :
    FormKept s₀ (cmdTaken op q seq f s) ↔ FormKept s₀ s ∨ FormElse s₀ (cmdTaken op q seq f s) := kept (by unfold cmdTaken; (repeat' split) <;> simp_all) s₀
@[simp] theorem formKept_endOverrun (c : Nat) (s : State) (s₀ : State) :
    FormKept s₀ (endOverrun c s) ↔ FormKept s₀ s ∨ FormElse s₀ (endOverrun c s) := kept (by unfold endOverrun; simp) s₀
@[simp] theorem formKept_requestPreempt (w : Nat) (debits : Bool) (k : Nat) (s : State) (s₀ : State) :
    FormKept s₀ (requestPreempt w debits k s) ↔ FormKept s₀ s ∨ FormElse s₀ (requestPreempt w debits k s) := kept (by unfold requestPreempt; (repeat' split) <;> simp_all) s₀
@[simp] theorem formKept_seekVictims (k : Nat) (s : State) (s₀ : State) :
    FormKept s₀ (seekVictims k s) ↔ FormKept s₀ s ∨ FormElse s₀ (seekVictims k s) := kept (by unfold seekVictims; (repeat' split) <;> simp_all) s₀
@[simp] theorem formKept_withdraw (w : Nat) (s : State) (s₀ : State) :
    FormKept s₀ (withdraw w s) ↔ FormKept s₀ s ∨ FormElse s₀ (withdraw w s) := kept (by unfold withdraw; simp) s₀
@[simp] theorem formKept_stationsFreed (s : State) (s₀ : State) :
    FormKept s₀ (stationsFreed s) ↔ FormKept s₀ s ∨ FormElse s₀ (stationsFreed s) := kept (by unfold stationsFreed; simp) s₀
@[simp] theorem formKept_raiseService (c : Nat) (s : State) (s₀ : State) :
    FormKept s₀ (raiseService c s) ↔ FormKept s₀ s ∨ FormElse s₀ (raiseService c s) := kept (by unfold raiseService; (repeat' split) <;> (try simp) <;> (repeat' (first | (apply FormKept.foldl; intro _ _) | split)) <;> simp_all) s₀
@[simp] theorem formKept_launchAsk (u : Queue) (c : TakenCmd) (k : Nat) (r : Recipe) (s : State) (s₀ : State) :
    FormKept s₀ (launchAsk u c k r s) ↔ FormKept s₀ s ∨ FormElse s₀ (launchAsk u c k r s) := kept (by unfold launchAsk; simp) s₀
@[simp] theorem formKept_launchS (u : Queue) (c : TakenCmd) (s : State) (s₀ : State) :
    FormKept s₀ (launchS u c s) ↔ FormKept s₀ s ∨ FormElse s₀ (launchS u c s) := kept (by unfold launchS; (repeat' split) <;> simp_all) s₀
theorem outKept_execLaunch (q seq : Nat) (s : State) : OutKept s (execLaunch q seq s) := by unfold execLaunch; simp
@[simp] theorem formKept_claimInst (k i : Nat) (l : Launch) (r : Recipe) (o : Nat × Nat × Nat) (old : Tbl Stn) (s : State) (s₀ : State) :
    FormKept s₀ (claimInst k i l r o old s) ↔ FormKept s₀ s ∨ FormElse s₀ (claimInst k i l r o old s) := kept (by exact ⟨id, id⟩) s₀
@[simp] theorem formKept_beginSlice (c held : Nat) (s : State) (s₀ : State) :
    FormKept s₀ (beginSlice c held s) ↔ FormKept s₀ s ∨ FormElse s₀ (beginSlice c held s) := kept (by unfold beginSlice; simp) s₀
theorem placeFirst_kept (k : Nat) (l : Launch) (r : Recipe) (os : List (Nat × Nat × Nat)) (hints : List Nat) (s : State) : FormKept s (placeFirst k l r os hints s) := by
  unfold placeFirst
  dsimp only
  split
  · simp
  · rename_i h
    split at h
    · cases h
      simp
    · refine FormKept.trans (.trans ?_ (joinPlan_kept h)) ?_ <;> simp
@[simp] theorem formKept_placeFirst (k : Nat) (l : Launch) (r : Recipe) (os : List (Nat × Nat × Nat)) (hints : List Nat) (s : State) (s₀ : State) :
    FormKept s₀ (placeFirst k l r os hints s) ↔ FormKept s₀ s ∨ FormElse s₀ (placeFirst k l r os hints s) := kept (placeFirst_kept k l r os hints s) s₀
@[simp] theorem formKept_placeAgain (k : Nat) (l : Launch) (r : Recipe) (os : List (Nat × Nat × Nat)) (s : State) (s₀ : State) :
    FormKept s₀ (placeAgain k l r os s) ↔ FormKept s₀ s ∨ FormElse s₀ (placeAgain k l r os s) := kept (by unfold placeAgain; simp) s₀
@[simp] theorem formKept_placementS (k : Nat) (hints : List Nat) (s : State) (s₀ : State) :
    FormKept s₀ (placementS k hints s) ↔ FormKept s₀ s ∨ FormElse s₀ (placementS k hints s) := kept (by unfold placementS; (repeat' split) <;> (try simp) <;> (repeat' (first | (apply FormKept.foldl; intro _ _) | split)) <;> simp_all) s₀
theorem outKept_execPlacement (launch : Nat) (grans : List Nat) (s : State) : OutKept s (execPlacement launch grans s) := by unfold execPlacement; simp
@[simp] theorem formKept_serviceCtx (c : Nat) (s : State) (s₀ : State) :
    FormKept s₀ (serviceCtx c s) ↔ FormKept s₀ s ∨ FormElse s₀ (serviceCtx c s) := kept (by unfold serviceCtx; simp) s₀
@[simp] theorem formKept_serviceTickS (cplx : Nat) (s : State) (s₀ : State) :
    FormKept s₀ (serviceTickS cplx s) ↔ FormKept s₀ s ∨ FormElse s₀ (serviceTickS cplx s) := kept (by unfold serviceTickS; simp) s₀
theorem outKept_execServiceTick (cplx : Nat) (s : State) : OutKept s (execServiceTick cplx s) := by unfold execServiceTick; simp
@[simp] theorem formKept_timeSliceEndS (c : Nat) (s : State) (s₀ : State) :
    FormKept s₀ (timeSliceEndS c s) ↔ FormKept s₀ s ∨ FormElse s₀ (timeSliceEndS c s) := kept (by unfold timeSliceEndS; dsimp only; (repeat' split) <;> simp) s₀
theorem outKept_execTimeSliceEnd (ctx : Nat) (s : State) : OutKept s (execTimeSliceEnd ctx s) := by unfold execTimeSliceEnd; simp
@[simp] theorem formKept_overrunKillS (c : Nat) (s : State) (s₀ : State) :
    FormKept s₀ (overrunKillS c s) ↔ FormKept s₀ s ∨ FormElse s₀ (overrunKillS c s) := kept (by unfold overrunKillS; (repeat' split) <;> simp_all) s₀
theorem outKept_execOverrunKill (ctx : Nat) (s : State) : OutKept s (execOverrunKill ctx s) := by unfold execOverrunKill; simp
@[simp] theorem formKept_payDamage (c : Nat) (s : State) (s₀ : State) :
    FormKept s₀ (payDamage c s) ↔ FormKept s₀ s ∨ FormElse s₀ (payDamage c s) := kept (by unfold payDamage; simp) s₀
@[simp] theorem formKept_seamRested (k i p : Nat) (s : State) (s₀ : State) :
    FormKept s₀ (seamRested k i p s) ↔ FormKept s₀ s ∨ FormElse s₀ (seamRested k i p s) := kept (by unfold seamRested; simp) s₀
@[simp] theorem formKept_leaveRest (k i id : Nat) (r : Recipe) (s : State) (s₀ : State) :
    FormKept s₀ (leaveRest k i id r s) ↔ FormKept s₀ s ∨ FormElse s₀ (leaveRest k i id r s) := kept (by unfold leaveRest; simp) s₀
@[simp] theorem formKept_restReachedS (k i : Nat) (s : State) (s₀ : State) :
    FormKept s₀ (restReachedS k i s) ↔ FormKept s₀ s ∨ FormElse s₀ (restReachedS k i s) := kept (by unfold restReachedS; (repeat' split) <;> (try simp) <;> (repeat' (first | (apply FormKept.foldl; intro _ _) | split)) <;> simp_all) s₀
theorem outKept_execRestPointReached (launch inst : Nat) (s : State) : OutKept s (execRestPointReached launch inst s) := by unfold execRestPointReached; simp
@[simp] theorem formKept_settle (k : Nat) (s : State) (s₀ : State) :
    FormKept s₀ (settle k s) ↔ FormKept s₀ s ∨ FormElse s₀ (settle k s) := kept (by unfold settle; (repeat' split) <;> simp_all) s₀
@[simp] theorem formKept_saveDoneS (k i : Nat) (s : State) (s₀ : State) :
    FormKept s₀ (saveDoneS k i s) ↔ FormKept s₀ s ∨ FormElse s₀ (saveDoneS k i s) := kept (by unfold saveDoneS; (repeat' split) <;> simp_all) s₀
theorem outKept_execSaveDone (launch inst : Nat) (s : State) : OutKept s (execSaveDone launch inst s) := by unfold execSaveDone; simp
@[simp] theorem formKept_restoreDoneS (k i : Nat) (s : State) (s₀ : State) :
    FormKept s₀ (restoreDoneS k i s) ↔ FormKept s₀ s ∨ FormElse s₀ (restoreDoneS k i s) := kept (by unfold restoreDoneS; (repeat' split) <;> simp_all) s₀
theorem outKept_execRestoreDone (launch inst : Nat) (s : State) : OutKept s (execRestoreDone launch inst s) := by unfold execRestoreDone; simp
@[simp] theorem formKept_gather (k i : Nat) (s : State) (s₀ : State) :
    FormKept s₀ (gather k i s) ↔ FormKept s₀ s ∨ FormElse s₀ (gather k i s) := kept (by unfold gather; (repeat' split) <;> simp_all) s₀
@[simp] theorem formKept_instanceCompleteS (k i : Nat) (s : State) (s₀ : State) :
    FormKept s₀ (instanceCompleteS k i s) ↔ FormKept s₀ s ∨ FormElse s₀ (instanceCompleteS k i s) := kept (by unfold instanceCompleteS; (repeat' split) <;> simp_all) s₀
theorem outKept_execInstanceComplete (launch inst : Nat) (s : State) : OutKept s (execInstanceComplete launch inst s) := by unfold execInstanceComplete; simp
@[simp] theorem formKept_launchCompleteS (k : Nat) (s : State) (s₀ : State) :
    FormKept s₀ (launchCompleteS k s) ↔ FormKept s₀ s ∨ FormElse s₀ (launchCompleteS k s) := kept (by unfold launchCompleteS; (repeat' split) <;> (try simp) <;> (repeat' (first | (apply FormKept.foldl; intro _ _) | split)) <;> simp_all) s₀
theorem outKept_execLaunchComplete (launch : Nat) (s : State) : OutKept s (execLaunchComplete launch s) := by unfold execLaunchComplete; simp

/-! ### CopyCmds -/

@[simp] theorem formKept_poisonDest (c a : Nat) (offs : List Nat) (s : State) (s₀ : State) :
    FormKept s₀ (poisonDest c a offs s) ↔ FormKept s₀ s ∨ FormElse s₀ (poisonDest c a offs s) := kept (by unfold poisonDest; (repeat' split) <;> (try simp) <;> (repeat' (first | (apply FormKept.foldl; intro _ _) | split)) <;> simp_all) s₀
@[simp] theorem formKept_copyMove (u : Queue) (c : TakenCmd) (src dst n spaces : Nat) (s : State) (s₀ : State) :
    FormKept s₀ (copyMove u c src dst n spaces s) ↔ FormKept s₀ s ∨ FormElse s₀ (copyMove u c src dst n spaces s) := kept (by unfold copyMove; simp) s₀
@[simp] theorem formKept_copyS (u : Queue) (c : TakenCmd) (s : State) (s₀ : State) :
    FormKept s₀ (copyS u c s) ↔ FormKept s₀ s ∨ FormElse s₀ (copyS u c s) := kept (by unfold copyS; (repeat' split) <;> (try simp) <;> (repeat' (first | (apply FormKept.foldl; intro _ _) | split)) <;> simp_all) s₀
theorem outKept_execCopy (q seq : Nat) (s : State) : OutKept s (execCopy q seq s) := by unfold execCopy; (repeat' split) <;> simp_all
@[simp] theorem formKept_fillS (u : Queue) (c : TakenCmd) (s : State) (s₀ : State) :
    FormKept s₀ (fillS u c s) ↔ FormKept s₀ s ∨ FormElse s₀ (fillS u c s) := kept (by unfold fillS; (repeat' split) <;> (try simp) <;> (repeat' (first | (apply FormKept.foldl; intro _ _) | split)) <;> simp_all) s₀
theorem outKept_execFillCommand (q seq : Nat) (s : State) : OutKept s (execFillCommand q seq s) := by unfold execFillCommand; (repeat' split) <;> simp_all
@[simp] theorem formKept_counterWait (r : Req) (w c val : Nat) (s : State) (s₀ : State) :
    FormKept s₀ (counterWait r w c val s) ↔ FormKept s₀ s ∨ FormElse s₀ (counterWait r w c val s) := kept (by unfold counterWait; simp) s₀
@[simp] theorem formKept_semWaitCmdS (u : Queue) (c : TakenCmd) (s : State) (s₀ : State) :
    FormKept s₀ (semWaitCmdS u c s) ↔ FormKept s₀ s ∨ FormElse s₀ (semWaitCmdS u c s) := kept (by unfold semWaitCmdS; (repeat' split) <;> (try simp) <;> (repeat' (first | (apply FormKept.foldl; intro _ _) | split)) <;> simp_all) s₀
theorem outKept_execSemWaitCommand (q seq : Nat) (s : State) : OutKept s (execSemWaitCommand q seq s) := by unfold execSemWaitCommand; simp
@[simp] theorem formKept_dropCmdWaits (q seq : Nat) (s : State) (s₀ : State) :
    FormKept s₀ (dropCmdWaits q seq s) ↔ FormKept s₀ s ∨ FormElse s₀ (dropCmdWaits q seq s) := kept (by exact ⟨id, id⟩) s₀
@[simp] theorem formKept_semTimeoutS (u : Queue) (c : TakenCmd) (s : State) (s₀ : State) :
    FormKept s₀ (semTimeoutS u c s) ↔ FormKept s₀ s ∨ FormElse s₀ (semTimeoutS u c s) := kept (by unfold semTimeoutS; simp) s₀
theorem outKept_execSemWaitTimeout (q seq : Nat) (s : State) : OutKept s (execSemWaitTimeout q seq s) := by unfold execSemWaitTimeout; simp
@[simp] theorem formKept_semReleaseCmdS (u : Queue) (c : TakenCmd) (s : State) (s₀ : State) :
    FormKept s₀ (semReleaseCmdS u c s) ↔ FormKept s₀ s ∨ FormElse s₀ (semReleaseCmdS u c s) := kept (by unfold semReleaseCmdS; (repeat' split) <;> (try simp) <;> (repeat' (first | (apply FormKept.foldl; intro _ _) | split)) <;> simp_all) s₀
theorem outKept_execSemReleaseCommand (q seq : Nat) (s : State) : OutKept s (execSemReleaseCommand q seq s) := by unfold execSemReleaseCommand; simp
@[simp] theorem formKept_flushS (u : Queue) (c : TakenCmd) (s : State) (s₀ : State) :
    FormKept s₀ (flushS u c s) ↔ FormKept s₀ s ∨ FormElse s₀ (flushS u c s) := kept (by unfold flushS; simp) s₀
theorem outKept_execFlush (q seq : Nat) (s : State) : OutKept s (execFlush q seq s) := by unfold execFlush; simp

/-! ### SliceCmds -/

@[simp] theorem formKept_sliceCreateS (u : Queue) (c : TakenCmd) (s : State) (s₀ : State) :
    FormKept s₀ (sliceCreateS u c s) ↔ FormKept s₀ s ∨ FormElse s₀ (sliceCreateS u c s) := kept (by unfold sliceCreateS; simp) s₀
theorem outKept_execSliceCreate (q seq : Nat) (s : State) : OutKept s (execSliceCreate q seq s) := by unfold execSliceCreate; simp
@[simp] theorem formKept_resizeBegin (u : Queue) (c : TakenCmd) (n : Nat) (sl : Slice) (r : List Byte) (s : State) (s₀ : State) :
    FormKept s₀ (resizeBegin u c n sl r s) ↔ FormKept s₀ s ∨ FormElse s₀ (resizeBegin u c n sl r s) := kept (by unfold resizeBegin; simp) s₀
theorem resizeDrain_kept (u : Queue) (c : TakenCmd) (n : Nat) (s : State) : FormKept s (resizeDrain u c n s) := by
  unfold resizeDrain
  split
  · exact .refl s
  · dsimp only
    split
    · refine .foldl (fun s k => ?_) _ _
      (repeat' split) <;> simp
    · simp
@[simp] theorem formKept_resizeDrain (u : Queue) (c : TakenCmd) (n : Nat) (s : State) (s₀ : State) :
    FormKept s₀ (resizeDrain u c n s) ↔ FormKept s₀ s ∨ FormElse s₀ (resizeDrain u c n s) := kept (resizeDrain_kept u c n s) s₀
@[simp] theorem formKept_sliceResizeS (u : Queue) (c : TakenCmd) (s : State) (s₀ : State) :
    FormKept s₀ (sliceResizeS u c s) ↔ FormKept s₀ s ∨ FormElse s₀ (sliceResizeS u c s) := kept (by unfold sliceResizeS; (repeat' split) <;> (try simp) <;> (repeat' (first | (apply FormKept.foldl; intro _ _) | split)) <;> simp_all) s₀
theorem outKept_execSliceResize (q seq : Nat) (s : State) : OutKept s (execSliceResize q seq s) := by unfold execSliceResize; simp
@[simp] theorem formKept_drainQueues (n : Nat) (s : State) (s₀ : State) :
    FormKept s₀ (drainQueues n s) ↔ FormKept s₀ s ∨ FormElse s₀ (drainQueues n s) := kept (by exact ⟨id, id⟩) s₀
@[simp] theorem formKept_sliceErase (n : Nat) (s : State) (s₀ : State) :
    FormKept s₀ (sliceErase n s) ↔ FormKept s₀ s ∨ FormElse s₀ (sliceErase n s) := kept (by unfold sliceErase; simp) s₀
@[simp] theorem formKept_sliceDestroyS (u : Queue) (c : TakenCmd) (s : State) (s₀ : State) :
    FormKept s₀ (sliceDestroyS u c s) ↔ FormKept s₀ s ∨ FormElse s₀ (sliceDestroyS u c s) := kept (by unfold sliceDestroyS; simp) s₀
theorem outKept_execSliceDestroy (q seq : Nat) (s : State) : OutKept s (execSliceDestroy q seq s) := by unfold execSliceDestroy; simp
@[simp] theorem formKept_slicePasidS (u : Queue) (c : TakenCmd) (s : State) (s₀ : State) :
    FormKept s₀ (slicePasidS u c s) ↔ FormKept s₀ s ∨ FormElse s₀ (slicePasidS u c s) := kept (by unfold slicePasidS; simp) s₀
theorem outKept_execSlicePasid (q seq : Nat) (s : State) : OutKept s (execSlicePasid q seq s) := by unfold execSlicePasid; simp
@[simp] theorem formKept_reportGran (pasid : Option Nat) (bitmap key : Nat) (s : State) (s₀ : State) :
    FormKept s₀ (reportGran pasid bitmap key s) ↔ FormKept s₀ s ∨ FormElse s₀ (reportGran pasid bitmap key s) := kept (by unfold reportGran; simp) s₀
@[simp] theorem formKept_reportPages (pasid : Option Nat) (at_ n : Nat) (s : State) (s₀ : State) :
    FormKept s₀ (reportPages pasid at_ n s) ↔ FormKept s₀ s ∨ FormElse s₀ (reportPages pasid at_ n s) := kept (by unfold reportPages; (repeat' split) <;> simp_all) s₀
@[simp] theorem formKept_dirtyLogS (u : Queue) (c : TakenCmd) (s : State) (s₀ : State) :
    FormKept s₀ (dirtyLogS u c s) ↔ FormKept s₀ s ∨ FormElse s₀ (dirtyLogS u c s) := kept (by unfold dirtyLogS; simp) s₀
theorem outKept_execDirtyLog (q seq : Nat) (s : State) : OutKept s (execDirtyLog q seq s) := by unfold execDirtyLog; simp

/-! ### SecurityCmds -/

@[simp] theorem formKept_spdmRun (req : List Byte) (s : State) (s₀ : State) :
    FormKept s₀ (spdmRun req s) ↔ FormKept s₀ s ∨ FormElse s₀ (spdmRun req s) := kept (by exact ⟨id, id⟩) s₀
@[simp] theorem formKept_spdmS (u : Queue) (c : TakenCmd) (s : State) (s₀ : State) :
    FormKept s₀ (spdmS u c s) ↔ FormKept s₀ s ∨ FormElse s₀ (spdmS u c s) := kept (by unfold spdmS; simp) s₀
theorem outKept_execSpdm (q seq : Nat) (s : State) : OutKept s (execSpdm q seq s) := by unfold execSpdm; simp
@[simp] theorem formKept_setKeyS (u : Queue) (c : TakenCmd) (s : State) (s₀ : State) :
    FormKept s₀ (setKeyS u c s) ↔ FormKept s₀ s ∨ FormElse s₀ (setKeyS u c s) := kept (by unfold setKeyS; (repeat' split) <;> (try simp) <;> (repeat' (first | (apply FormKept.foldl; intro _ _) | split)) <;> simp_all) s₀
theorem outKept_execSetKey (q seq : Nat) (s : State) : OutKept s (execSetKey q seq s) := by unfold execSetKey; simp
@[simp] theorem formKept_putPayload (x : Extent) (off : Nat) (bs : List Byte) (s : State) (s₀ : State) :
    FormKept s₀ (putPayload x off bs s) ↔ FormKept s₀ s ∨ FormElse s₀ (putPayload x off bs s) := kept (by unfold putPayload; (repeat' split) <;> (try simp) <;> (repeat' (first | (apply FormKept.foldl; intro _ _) | split)) <;> simp_all) s₀
@[simp] theorem formKept_importRun (u : Queue) (c : TakenCmd) (num : Nat) (x : Extent) (off n : Nat) (bkey_ h list payload : List Byte) (s : State) (s₀ : State) :
    FormKept s₀ (importRun u c num x off n bkey_ h list payload s) ↔ FormKept s₀ s ∨ FormElse s₀ (importRun u c num x off n bkey_ h list payload s) := kept (by unfold importRun; (repeat' split) <;> simp_all) s₀
@[simp] theorem formKept_bundleImportS (u : Queue) (c : TakenCmd) (s : State) (s₀ : State) :
    FormKept s₀ (bundleImportS u c s) ↔ FormKept s₀ s ∨ FormElse s₀ (bundleImportS u c s) := kept (by unfold bundleImportS; dsimp only; (repeat' split) <;> simp) s₀
theorem outKept_execBundleImport (q seq : Nat) (s : State) : OutKept s (execBundleImport q seq s) := by unfold execBundleImport; (repeat' split) <;> simp_all
@[simp] theorem formKept_setDestroyS (u : Queue) (c : TakenCmd) (s : State) (s₀ : State) :
    FormKept s₀ (setDestroyS u c s) ↔ FormKept s₀ s ∨ FormElse s₀ (setDestroyS u c s) := kept (by unfold setDestroyS; dsimp only; (repeat' split) <;> simp) s₀
theorem outKept_execSetDestroy (q seq : Nat) (s : State) : OutKept s (execSetDestroy q seq s) := by unfold execSetDestroy; simp

end Sys2Proof.Machine
end

section
/-! PROOF. What keeps device and host memory in canonical form: coherence, faults and the descriptors of stations. -/

set_option maxRecDepth 4000

namespace Sys2Proof.Machine

/-! ### Access -/

@[simp] theorem formKept_touchX (n a : Nat) (s : State) (s₀ : State) :
    FormKept s₀ (touchX n a s) ↔ FormKept s₀ s ∨ FormElse s₀ (touchX n a s) := kept (by exact ⟨id, id⟩) s₀
@[simp] theorem formKept_addX (n : Nat) (e : Nat × Nat × Nat) (s : State) (s₀ : State) :
    FormKept s₀ (addX n e s) ↔ FormKept s₀ s ∨ FormElse s₀ (addX n e s) := kept (by exact ⟨id, id⟩) s₀
@[simp] theorem formKept_setPiece (n xid k st : Nat) (s : State) (s₀ : State) :
    FormKept s₀ (setPiece n xid k st s) ↔ FormKept s₀ s ∨ FormElse s₀ (setPiece n xid k st s) := kept (by exact ⟨id, id⟩) s₀
@[simp] theorem formKept_pieceFault (n : Nat) (f : Xfer) (p : XPiece) (k cause : Nat) (s : State) (s₀ : State) :
    FormKept s₀ (pieceFault n f p k cause s) ↔ FormKept s₀ s ∨ FormElse s₀ (pieceFault n f p k cause s) := kept (by unfold pieceFault; simp) s₀
@[simp] theorem formKept_agentFault (who : Agent) (code detail : Nat) (s : State) (s₀ : State) :
    FormKept s₀ (agentFault who code detail s) ↔ FormKept s₀ s ∨ FormElse s₀ (agentFault who code detail s) := kept (by unfold agentFault; (repeat' split) <;> simp_all) s₀
@[simp] theorem formKept_setSem (who : Agent) (v : Nat) (s : State) (s₀ : State) :
    FormKept s₀ (setSem who v s) ↔ FormKept s₀ s ∨ FormElse s₀ (setSem who v s) := kept (by unfold setSem; (repeat' split) <;> simp_all) s₀
@[simp] theorem formKept_semDone (who : Agent) (s : State) (s₀ : State) :
    FormKept s₀ (semDone who s) ↔ FormKept s₀ s ∨ FormElse s₀ (semDone who s) := kept (by unfold semDone; (repeat' split) <;> simp_all) s₀
@[simp] theorem formKept_endUnavailable (h : HReq) (s : State) (s₀ : State) :
    FormKept s₀ (endUnavailable h s) ↔ FormKept s₀ s ∨ FormElse s₀ (endUnavailable h s) := kept (by unfold endUnavailable; (repeat' split) <;> (try simp) <;> (repeat' (first | (apply FormKept.foldl; intro _ _) | split)) <;> simp_all) s₀
@[simp] theorem formKept_unavailable (h : HReq) (s : State) (s₀ : State) :
    FormKept s₀ (unavailable h s) ↔ FormKept s₀ s ∨ FormElse s₀ (unavailable h s) := kept (by unfold unavailable; (repeat' split) <;> (try simp) <;> (repeat' (first | (apply FormKept.foldl; intro _ _) | split)) <;> simp_all) s₀
theorem refusedOwner_kept (r : Req) (s : State) : FormKept s (refusedOwner r s) := by
  unfold refusedOwner
  split
  · refine FormKept.trans ?_ (.foldl (fun s w => ?_) _ _)
    · simp
    · (repeat' split) <;> simp
  all_goals (repeat' split) <;> simp
@[simp] theorem formKept_refusedOwner (r : Req) (s : State) (s₀ : State) :
    FormKept s₀ (refusedOwner r s) ↔ FormKept s₀ s ∨ FormElse s₀ (refusedOwner r s) := kept (refusedOwner_kept r s) s₀
@[simp] theorem formKept_sendReq (h : HReq) (s : State) (s₀ : State) :
    FormKept s₀ (sendReq h s) ↔ FormKept s₀ s ∨ FormElse s₀ (sendReq h s) := kept (by unfold sendReq; (repeat' split) <;> simp_all) s₀
@[simp] theorem formKept_setPort (p : Nat) (f : RPort → RPort) (s : State) (s₀ : State) :
    FormKept s₀ (setPort p f s) ↔ FormKept s₀ s ∨ FormElse s₀ (setPort p f s) := kept (by exact ⟨id, id⟩) s₀
theorem drainPort_kept (p fuel : Nat) (s : State) : FormKept s (drainPort p fuel s) := by
  induction fuel generalizing s with
  | zero => exact .refl s
  | succ m ih =>
    have ih := fun s => kept (ih s)
    unfold drainPort
    dsimp only
    split
    · exact .refl s
    · split <;> simp [ih]
@[simp] theorem formKept_drainPort (p fuel : Nat) (s : State) (s₀ : State) :
    FormKept s₀ (drainPort p fuel s) ↔ FormKept s₀ s ∨ FormElse s₀ (drainPort p fuel s) := kept (drainPort_kept p fuel s) s₀
@[simp] theorem formKept_emitPkt (p : Nat) (k : Pkt) (s : State) (s₀ : State) :
    FormKept s₀ (emitPkt p k s) ↔ FormKept s₀ s ∨ FormElse s₀ (emitPkt p k s) := kept (by unfold emitPkt; simp) s₀
@[simp] theorem formKept_expiredEvent (d w dev : Nat) (s : State) (s₀ : State) :
    FormKept s₀ (expiredEvent d w dev s) ↔ FormKept s₀ s ∨ FormElse s₀ (expiredEvent d w dev s) := kept (by unfold expiredEvent; simp) s₀
@[simp] theorem formKept_expireReq (q : RReq) (s : State) (s₀ : State) :
    FormKept s₀ (expireReq q s) ↔ FormKept s₀ s ∨ FormElse s₀ (expireReq q s) := kept (by unfold expireReq; (repeat' split) <;> simp_all) s₀
@[simp] theorem formKept_trySend (q : RReq) (s : State) (s₀ : State) :
    FormKept s₀ (trySend q s) ↔ FormKept s₀ s ∨ FormElse s₀ (trySend q s) := kept (by unfold trySend; (repeat' split) <;> simp_all) s₀
@[simp] theorem formKept_sendAnswer (s : State) (s₀ : State) :
    FormKept s₀ (sendAnswer s) ↔ FormKept s₀ s ∨ FormElse s₀ (sendAnswer s) := kept (by unfold sendAnswer; (repeat' split) <;> simp_all) s₀
@[simp] theorem formKept_pumpRbx (s : State) (s₀ : State) :
    FormKept s₀ (pumpRbx s) ↔ FormKept s₀ s ∨ FormElse s₀ (pumpRbx s) := kept (by unfold pumpRbx; simp) s₀
@[simp] theorem formKept_openReq (w : Nat) (pkt : Pkt) (who : Agent) (piper : Option (Nat × Nat × Nat)) (s : State) (s₀ : State) :
    FormKept s₀ (openReq w pkt who piper s) ↔ FormKept s₀ s ∨ FormElse s₀ (openReq w pkt who piper s) := kept (by unfold openReq; simp) s₀

/-! ### GroupOps -/

@[simp] theorem formKept_setGrp (n g : Nat) (f : GroupSt → GroupSt) (s : State) (s₀ : State) :
    FormKept s₀ (setGrp n g f s) ↔ FormKept s₀ s ∨ FormElse s₀ (setGrp n g f s) := kept (by exact ⟨id, id⟩) s₀

/-! ### Order -/

@[simp] theorem formKept_noteEngine (f : Xfer) (s : State) (s₀ : State) :
    FormKept s₀ (noteEngine f s) ↔ FormKept s₀ s ∨ FormElse s₀ (noteEngine f s) := kept (by unfold noteEngine; simp) s₀

/-! ### Coherence -/

@[simp] theorem formKept_setPieces (n xid : Nat) (l : List Nat) (st : Nat) (s : State) (s₀ : State) :
    FormKept s₀ (setPieces n xid l st s) ↔ FormKept s₀ s ∨ FormElse s₀ (setPieces n xid l st s) := kept (by unfold setPieces; simp) s₀
@[simp] theorem formKept_servePiece (n xid k : Nat) (p : XPiece) (bs : List Byte) (s : State) (s₀ : State) :
    FormKept s₀ (servePiece n xid k p bs s) ↔ FormKept s₀ s ∨ FormElse s₀ (servePiece n xid k p bs s) := kept (by exact ⟨id, id⟩) s₀
@[simp] theorem formKept_serveLinePieces (n xid : Nat) (l : List Nat) (line : List Byte) (s : State) (s₀ : State) :
    FormKept s₀ (serveLinePieces n xid l line s) ↔ FormKept s₀ s ∨ FormElse s₀ (serveLinePieces n xid l line s) := kept (by unfold serveLinePieces; (repeat' split) <;> (try simp) <;> (repeat' (first | (apply FormKept.foldl; intro _ _) | split)) <;> simp_all) s₀
@[simp] theorem formKept_noteEngines (x : Stn) (ids : List Nat) (s : State) (s₀ : State) :
    FormKept s₀ (noteEngines x ids s) ↔ FormKept s₀ s ∨ FormElse s₀ (noteEngines x ids s) := kept (by unfold noteEngines; simp) s₀
@[simp] theorem formKept_getsStn (n : Nat) (r : Req) (s : State) (s₀ : State) :
    FormKept s₀ (getsStn n r s) ↔ FormKept s₀ s ∨ FormElse s₀ (getsStn n r s) := kept (by unfold getsStn; (repeat' split) <;> (try simp) <;> (repeat' (first | (apply FormKept.foldl; intro _ _) | split)) <;> simp_all) s₀
@[simp] theorem formKept_getsS (r : Req) (s : State) (s₀ : State) :
    FormKept s₀ (getsS r s) ↔ FormKept s₀ s ∨ FormElse s₀ (getsS r s) := kept (by unfold getsS; (repeat' split) <;> simp_all) s₀
theorem outKept_execGets (r : Req) (s : State) : OutKept s (execGets r s) := by unfold execGets; simp
@[simp] theorem formKept_remoteRead (n : Nat) (f : Xfer) (p : XPiece) (k : Nat) (w : Nat × OWin) (s : State) (s₀ : State) :
    FormKept s₀ (remoteRead n f p k w s) ↔ FormKept s₀ s ∨ FormElse s₀ (remoteRead n f p k w s) := kept (by unfold remoteRead; simp) s₀
@[simp] theorem formKept_getuStn (n xid k : Nat) (r : Req) (s : State) (s₀ : State) :
    FormKept s₀ (getuStn n xid k r s) ↔ FormKept s₀ s ∨ FormElse s₀ (getuStn n xid k r s) := kept (by unfold getuStn; (repeat' split) <;> simp_all) s₀
@[simp] theorem formKept_getuS (r : Req) (s : State) (s₀ : State) :
    FormKept s₀ (getuS r s) ↔ FormKept s₀ s ∨ FormElse s₀ (getuS r s) := kept (by unfold getuS; (repeat' split) <;> simp_all) s₀
theorem outKept_execGetu (r : Req) (s : State) : OutKept s (execGetu r s) := by unfold execGetu; simp
@[simp] theorem formKept_missFault (n m a cause : Nat) (ws : List Nat) (s : State) (s₀ : State) :
    FormKept s₀ (missFault n m a cause ws s) ↔ FormKept s₀ s ∨ FormElse s₀ (missFault n m a cause ws s) := kept (by unfold missFault; simp) s₀
@[simp] theorem formKept_getrS (r : Req) (s : State) (s₀ : State) :
    FormKept s₀ (getrS r s) ↔ FormKept s₀ s ∨ FormElse s₀ (getrS r s) := kept (by unfold getrS; (repeat' split) <;> simp_all) s₀
theorem outKept_execGetr (r : Req) (s : State) : OutKept s (execGetr r s) := by unfold execGetr; simp
@[simp] theorem formKept_getcS (r : Req) (s : State) (s₀ : State) :
    FormKept s₀ (getcS r s) ↔ FormKept s₀ s ∨ FormElse s₀ (getcS r s) := kept (by unfold getcS; (repeat' split) <;> simp_all) s₀
theorem outKept_execGetc (r : Req) (s : State) : OutKept s (execGetc r s) := by unfold execGetc; simp
@[simp] theorem formKept_writeStn (n xid k : Nat) (r : Req) (mask : Nat) (data : List Byte) (s : State) (s₀ : State) :
    FormKept s₀ (writeStn n xid k r mask data s) ↔ FormKept s₀ s ∨ FormElse s₀ (writeStn n xid k r mask data s) := kept (by unfold writeStn; (repeat' split) <;> simp_all) s₀
@[simp] theorem formKept_writeS (r : Req) (mask : Nat) (data : List Byte) (s : State) (s₀ : State) :
    FormKept s₀ (writeS r mask data s) ↔ FormKept s₀ s ∨ FormElse s₀ (writeS r mask data s) := kept (by unfold writeS; (repeat' split) <;> simp_all) s₀
theorem outKept_execWrite (r : Req) (mask : Nat) (data : List Byte) (s : State) : OutKept s (execWrite r mask data s) := by unfold execWrite; simp
@[simp] theorem formKept_addAgain (n xid : Nat) (f : Xfer) (p : XPiece) (r : Req) (o : RedOp) (x : Stn) (s : State) (s₀ : State) :
    FormKept s₀ (addAgain n xid f p r o x s) ↔ FormKept s₀ s ∨ FormElse s₀ (addAgain n xid f p r o x s) := kept (by unfold addAgain; (repeat' split) <;> simp_all) s₀
@[simp] theorem formKept_redStn (n xid k : Nat) (r : Req) (o : RedOp) (s : State) (s₀ : State) :
    FormKept s₀ (redStn n xid k r o s) ↔ FormKept s₀ s ∨ FormElse s₀ (redStn n xid k r o s) := kept (by unfold redStn; (repeat' split) <;> simp_all) s₀
@[simp] theorem formKept_semXlate (who : Agent) (n cause : Nat) (q : SemAcc) (s : State) (s₀ : State) :
    FormKept s₀ (semXlate who n cause q s) ↔ FormKept s₀ s ∨ FormElse s₀ (semXlate who n cause q s) := kept (by unfold semXlate; simp) s₀
@[simp] theorem formKept_noteRelease (n : Nat) (x : Stn) (a v : Nat) (s : State) (s₀ : State) :
    FormKept s₀ (noteRelease n x a v s) ↔ FormKept s₀ s ∨ FormElse s₀ (noteRelease n x a v s) := kept (by exact ⟨id, id⟩) s₀
@[simp] theorem formKept_semLeaves (who : Agent) (q : SemAcc) (s : State) (s₀ : State) :
    FormKept s₀ (semLeaves who q s) ↔ FormKept s₀ s ∨ FormElse s₀ (semLeaves who q s) := kept (by unfold semLeaves; (repeat' split) <;> simp_all) s₀
@[simp] theorem formKept_relWindow (who : Agent) (n : Nat) (q : SemAcc) (w : Nat × OWin) (s : State) (s₀ : State) :
    FormKept s₀ (relWindow who n q w s) ↔ FormKept s₀ s ∨ FormElse s₀ (relWindow who n q w s) := kept (by unfold relWindow; (repeat' split) <;> simp_all) s₀
@[simp] theorem formKept_relHome (who : Agent) (n : Nat) (x : Stn) (q : SemAcc) (r : Req) (o : RedOp) (s : State) (s₀ : State) :
    FormKept s₀ (relHome who n x q r o s) ↔ FormKept s₀ s ∨ FormElse s₀ (relHome who n x q r o s) := kept (by unfold relHome; (repeat' split) <;> simp_all) s₀
@[simp] theorem formKept_semRelStn (who : Agent) (r : Req) (o : RedOp) (s : State) (s₀ : State) :
    FormKept s₀ (semRelStn who r o s) ↔ FormKept s₀ s ∨ FormElse s₀ (semRelStn who r o s) := kept (by unfold semRelStn; (repeat' split) <;> simp_all) s₀
@[simp] theorem formKept_semWaitStn (who : Agent) (r : Req) (off val : Nat) (s : State) (s₀ : State) :
    FormKept s₀ (semWaitStn who r off val s) ↔ FormKept s₀ s ∨ FormElse s₀ (semWaitStn who r off val s) := kept (by unfold semWaitStn; (repeat' split) <;> simp_all) s₀
@[simp] theorem formKept_redS (r : Req) (o : RedOp) (s : State) (s₀ : State) :
    FormKept s₀ (redS r o s) ↔ FormKept s₀ s ∨ FormElse s₀ (redS r o s) := kept (by unfold redS; (repeat' split) <;> simp_all) s₀
theorem outKept_execRed (r : Req) (o : RedOp) (s : State) : OutKept s (execRed r o s) := by unfold execRed; simp
@[simp] theorem formKept_homeSemWaitS (r : Req) (off val : Nat) (s : State) (s₀ : State) :
    FormKept s₀ (homeSemWaitS r off val s) ↔ FormKept s₀ s ∨ FormElse s₀ (homeSemWaitS r off val s) := kept (by unfold homeSemWaitS; (repeat' split) <;> simp_all) s₀
theorem outKept_execHomeSemWait (r : Req) (off val : Nat) (s : State) : OutKept s (execHomeSemWait r off val s) := by unfold execHomeSemWait; simp
@[simp] theorem formKept_invS (k line p : Nat) (s : State) (s₀ : State) :
    FormKept s₀ (invS k line p s) ↔ FormKept s₀ s ∨ FormElse s₀ (invS k line p s) := kept (by unfold invS; simp) s₀
theorem outKept_execInv (stack line part : Nat) (s : State) : OutKept s (execInv stack line part s) := by unfold execInv; simp
@[simp] theorem formKept_invDropS (n k line : Nat) (s : State) (s₀ : State) :
    FormKept s₀ (invDropS n k line s) ↔ FormKept s₀ s ∨ FormElse s₀ (invDropS n k line s) := kept (by unfold invDropS; simp) s₀
theorem outKept_execInvDrop (stn stack line : Nat) (s : State) : OutKept s (execInvDrop stn stack line s) := by unfold execInvDrop; simp
@[simp] theorem formKept_partAckS (k line p : Nat) (s : State) (s₀ : State) :
    FormKept s₀ (partAckS k line p s) ↔ FormKept s₀ s ∨ FormElse s₀ (partAckS k line p s) := kept (by unfold partAckS; simp) s₀
theorem outKept_execPartAck (stack line part : Nat) (s : State) : OutKept s (execPartAck stack line part s) := by unfold execPartAck; simp
@[simp] theorem formKept_pendChannel (k c : Nat) (s : State) (s₀ : State) :
    FormKept s₀ (pendChannel k c s) ↔ FormKept s₀ s ∨ FormElse s₀ (pendChannel k c s) := kept (by unfold pendChannel; simp) s₀
@[simp] theorem formKept_checkThresh (k c : Nat) (s : State) (s₀ : State) :
    FormKept s₀ (checkThresh k c s) ↔ FormKept s₀ s ∨ FormElse s₀ (checkThresh k c s) := kept (by unfold checkThresh; simp) s₀
@[simp] theorem formKept_eccVerdict (k line : Nat) (e : Ecc) (s : State) (s₀ : State) :
    FormKept s₀ (eccVerdict k line e s) ↔ FormKept s₀ s ∨ FormElse s₀ (eccVerdict k line e s) := kept (by unfold eccVerdict; (repeat' split) <;> simp_all) s₀
@[simp] theorem formKept_stackDataS (k line : Nat) (e : Ecc) (s : State) (s₀ : State) :
    FormKept s₀ (stackDataS k line e s) ↔ FormKept s₀ s ∨ FormElse s₀ (stackDataS k line e s) := kept (by unfold stackDataS; simp) s₀
theorem outKept_execStackDataArrival (stack line : Nat) (e : Ecc) (s : State) : OutKept s (execStackDataArrival stack line e s) := by unfold execStackDataArrival; simp
@[simp] theorem formKept_replicaRepairS (handle i : Nat) (s : State) (s₀ : State) :
    FormKept s₀ (replicaRepairS handle i s) ↔ FormKept s₀ s ∨ FormElse s₀ (replicaRepairS handle i s) := kept (by unfold replicaRepairS; (repeat' split) <;> simp_all) s₀
theorem outKept_execReplicaRepair (handle line : Nat) (s : State) : OutKept s (execReplicaRepair handle line s) := by unfold execReplicaRepair; simp
theorem outKept_execReductionApply (stack line : Nat) (s : State) : OutKept s (execReductionApply stack line s) := by unfold execReductionApply; simp
@[simp] theorem formKept_holdEndS (k line : Nat) (s : State) (s₀ : State) :
    FormKept s₀ (holdEndS k line s) ↔ FormKept s₀ s ∨ FormElse s₀ (holdEndS k line s) := kept (by unfold holdEndS; simp) s₀
theorem outKept_execHoldEnd (stack line : Nat) (s : State) : OutKept s (execHoldEnd stack line s) := by unfold execHoldEnd; simp
@[simp] theorem formKept_orderTimeoutS (k line : Nat) (s : State) (s₀ : State) :
    FormKept s₀ (orderTimeoutS k line s) ↔ FormKept s₀ s ∨ FormElse s₀ (orderTimeoutS k line s) := kept (by unfold orderTimeoutS; dsimp only; (repeat' split) <;> simp) s₀
theorem outKept_execOrderTimeout (stack line : Nat) (s : State) : OutKept s (execOrderTimeout stack line s) := by unfold execOrderTimeout; simp
@[simp] theorem formKept_drainS (k c : Nat) (s : State) (s₀ : State) :
    FormKept s₀ (drainS k c s) ↔ FormKept s₀ s ∨ FormElse s₀ (drainS k c s) := kept (by exact ⟨id, id⟩) s₀
theorem outKept_execWriteBatchDrain (stack channel : Nat) (s : State) : OutKept s (execWriteBatchDrain stack channel s) := by unfold execWriteBatchDrain; simp
@[simp] theorem formKept_scrubS (k line : Nat) (e : Ecc) (s : State) (s₀ : State) :
    FormKept s₀ (scrubS k line e s) ↔ FormKept s₀ s ∨ FormElse s₀ (scrubS k line e s) := kept (by unfold scrubS; simp) s₀
theorem outKept_execScrubRead (stack line : Nat) (e : Ecc) (s : State) : OutKept s (execScrubRead stack line e s) := by unfold execScrubRead; simp
@[simp] theorem formKept_thrashS (k n : Nat) (s : State) (s₀ : State) :
    FormKept s₀ (thrashS k n s) ↔ FormKept s₀ s ∨ FormElse s₀ (thrashS k n s) := kept (by unfold thrashS; simp) s₀
theorem outKept_execThrashWindow (stack slice : Nat) (s : State) : OutKept s (execThrashWindow stack slice s) := by unfold execThrashWindow; simp

/-! ### Faults -/

theorem extentWalkS_kept (n c a agent index : Nat) (s : State) : FormKept s (extentWalkS n c a agent index s) := by
  unfold extentWalkS
  split
  · exact .refl s
  · next x _ =>
    dsimp only
    generalize (if agent = 3 then (walkMisses s n x a).filter (fun m => decide (index ∈ m.2)) else []) = ms
    split
    · exact .refl s
    · split
      · simp
      · refine (FormKept.trans (.foldl (fun s e => ?_) _ _) (.foldl (fun s w => ?_) _ _)).trans (.foldl (fun s m => ?_) _ _)
        · simp
        · split <;> simp
        · simp
@[simp] theorem formKept_extentWalkS (n c a agent index : Nat) (s : State) (s₀ : State) :
    FormKept s₀ (extentWalkS n c a agent index s) ↔ FormKept s₀ s ∨ FormElse s₀ (extentWalkS n c a agent index s) := kept (extentWalkS_kept n c a agent index s) s₀
theorem outKept_execExtentWalk (stn ctx addr _access agent index _len : Nat) (s : State) : OutKept s (execExtentWalk stn ctx addr _access agent index _len s) := by unfold execExtentWalk; simp
theorem unsend_kept (r : Req) (s : State) : FormKept s (unsend r s) := by
  unfold unsend
  split
  · dsimp only
    rw [formKept_setStn]
    refine .inl (.foldl (fun s w => ?_) _ _)
    split <;> simp
  all_goals (repeat' split) <;> simp
@[simp] theorem formKept_unsend (r : Req) (s : State) (s₀ : State) :
    FormKept s₀ (unsend r s) ↔ FormKept s₀ s ∨ FormElse s₀ (unsend r s) := kept (unsend_kept r s) s₀
@[simp] theorem formKept_staleExtentS (n c a : Nat) (s : State) (s₀ : State) :
    FormKept s₀ (staleExtentS n c a s) ↔ FormKept s₀ s ∨ FormElse s₀ (staleExtentS n c a s) := kept (by unfold staleExtentS; (repeat' split) <;> simp_all) s₀
theorem outKept_execStaleExtent (stn ctx addr : Nat) (s : State) : OutKept s (execStaleExtent stn ctx addr s) := by unfold execStaleExtent; simp
@[simp] theorem formKept_putRing (es : List (List Byte)) (s : State) (s₀ : State) :
    FormKept s₀ (putRing es s) ↔ FormKept s₀ s ∨ FormElse s₀ (putRing es s) := kept (by unfold putRing; simp) s₀
@[simp] theorem formKept_faultDeliveryS (c : Nat) (s : State) (s₀ : State) :
    FormKept s₀ (faultDeliveryS c s) ↔ FormKept s₀ s ∨ FormElse s₀ (faultDeliveryS c s) := kept (by unfold faultDeliveryS; (repeat' split) <;> simp_all) s₀
theorem outKept_execFaultBatchDelivery (ctx : Nat) (s : State) : OutKept s (execFaultBatchDelivery ctx s) := by unfold execFaultBatchDelivery; simp
@[simp] theorem formKept_apCount (page : Nat) (poison : Bool) (s : State) (s₀ : State) :
    FormKept s₀ (apCount page poison s) ↔ FormKept s₀ s ∨ FormElse s₀ (apCount page poison s) := kept (by unfold apCount; simp) s₀
@[simp] theorem formKept_onesBack (n : Nat) (poison : Bool) (s : State) (s₀ : State) :
    FormKept s₀ (onesBack n poison s) ↔ FormKept s₀ s ∨ FormElse s₀ (onesBack n poison s) := kept (by exact ⟨id, id⟩) s₀
@[simp] theorem formKept_bar4ReadS (off n : Nat) (s : State) (s₀ : State) :
    FormKept s₀ (bar4ReadS off n s) ↔ FormKept s₀ s ∨ FormElse s₀ (bar4ReadS off n s) := kept (by unfold bar4ReadS; (repeat' split) <;> simp_all) s₀
theorem outKept_execBar4Read (off len : Nat) (s : State) : OutKept s (execBar4Read off len s) := by unfold execBar4Read; simp
@[simp] theorem formKept_bar4WriteS (off : Nat) (data : List Byte) (s : State) (s₀ : State) :
    FormKept s₀ (bar4WriteS off data s) ↔ FormKept s₀ s ∨ FormElse s₀ (bar4WriteS off data s) := kept (by unfold bar4WriteS; (repeat' split) <;> simp_all) s₀
theorem outKept_execBar4Write (off : Nat) (data : List Byte) (s : State) : OutKept s (execBar4Write off data s) := by unfold execBar4Write; simp
theorem outKept_execHostWcWriteback (die : Nat) (keys : List Nat) (s : State) : OutKept s (execHostWcWriteback die keys s) := by unfold execHostWcWriteback; simp
@[simp] theorem formKept_freedZeroedS (k g : Nat) (s : State) (s₀ : State) :
    FormKept s₀ (freedZeroedS k g s) ↔ FormKept s₀ s ∨ FormElse s₀ (freedZeroedS k g s) := kept (by unfold freedZeroedS; (repeat' split) <;> simp_all) s₀
theorem outKept_execFreedGranuleZeroed (stack granule : Nat) (s : State) : OutKept s (execFreedGranuleZeroed stack granule s) := by unfold execFreedGranuleZeroed; simp

/-! ### Descriptors -/

@[simp] theorem formKept_popFlit (x : Stn) (st : Nat) (s : State) (s₀ : State) :
    FormKept s₀ (popFlit x st s) ↔ FormKept s₀ s ∨ FormElse s₀ (popFlit x st s) := kept (by exact ⟨id, id⟩) s₀
@[simp] theorem formKept_pushFlit (x : Stn) (st : Nat) (f : Flit) (s : State) (s₀ : State) :
    FormKept s₀ (pushFlit x st f s) ↔ FormKept s₀ s ∨ FormElse s₀ (pushFlit x st f s) := kept (by exact ⟨id, id⟩) s₀
@[simp] theorem formKept_markRest (n id ik idx co : Nat) (s : State) (s₀ : State) :
    FormKept s₀ (markRest n id ik idx co s) ↔ FormKept s₀ s ∨ FormElse s₀ (markRest n id ik idx co s) := kept (by unfold markRest; (repeat' split) <;> simp_all) s₀
@[simp] theorem formKept_beginWork (n i : Nat) (w : Work) (s : State) (s₀ : State) :
    FormKept s₀ (beginWork n i w s) ↔ FormKept s₀ s ∨ FormElse s₀ (beginWork n i w s) := kept (by exact ⟨id, id⟩) s₀
@[simp] theorem formKept_startIf (op n : Nat) (f : Nat → List Byte → Stn → State → State) (s : State) (h_f : ∀ a0 a1 a2 a3, FormKept a3 (f a0 a1 a2 a3)) (s₀ : State) :
    FormKept s₀ (startIf op n f s) ↔ FormKept s₀ s ∨ FormElse s₀ (startIf op n f s) := kept (by unfold startIf; (repeat' split) <;> simp_all) s₀
@[simp] theorem outKept_descOut (op n : Nat) (f : Nat → List Byte → Stn → State → State) (s : State) (h_f : ∀ a0 a1 a2 a3, FormKept a3 (f a0 a1 a2 a3)) : OutKept s (descOut op n f s) := by unfold descOut; (repeat' split) <;> simp_all
@[simp] theorem formKept_descCompleteS (n i : Nat) (s : State) (s₀ : State) :
    FormKept s₀ (descCompleteS n i s) ↔ FormKept s₀ s ∨ FormElse s₀ (descCompleteS n i s) := kept (by unfold descCompleteS; (repeat' split) <;> simp_all) s₀
theorem outKept_execDescriptorComplete (stn idx : Nat) (s : State) : OutKept s (execDescriptorComplete stn idx s) := by unfold execDescriptorComplete; simp
@[simp] theorem formKept_loopGo (n : Nat) (i : Nat) (d : List Byte) (x : Stn) (s : State) (s₀ : State) :
    FormKept s₀ (loopGo n i d x s) ↔ FormKept s₀ s ∨ FormElse s₀ (loopGo n i d x s) := kept (by unfold loopGo; simp) s₀
theorem outKept_execLoop (stn : Nat) (s : State) : OutKept s (execLoop stn s) := by unfold execLoop; simp
theorem outKept_execStationFault (f : FaultIn) (s : State) : OutKept s (execStationFault f s) := by unfold execStationFault; simp
theorem issuePieces_kept (n i : Nat) (d : List Byte) (pass : Nat) (kind : XKind) (fuel r : Nat) (s : State) : FormKept s (issuePieces n i d pass kind fuel r s) := by
  induction fuel generalizing r s with
  | zero => exact .refl s
  | succ m ih =>
    have ih := fun r s => kept (ih r s)
    unfold issuePieces
    (repeat' split) <;> (try simp [ih]) <;> (repeat' split) <;> simp_all
@[simp] theorem formKept_issuePieces (n i : Nat) (d : List Byte) (pass : Nat) (kind : XKind) (fuel r : Nat) (s : State) (s₀ : State) :
    FormKept s₀ (issuePieces n i d pass kind fuel r s) ↔ FormKept s₀ s ∨ FormElse s₀ (issuePieces n i d pass kind fuel r s) := kept (issuePieces_kept n i d pass kind fuel r s) s₀
@[simp] theorem formKept_copyGo (n : Nat) (kind : XKind) (i : Nat) (d : List Byte) (x : Stn) (s : State) (s₀ : State) :
    FormKept s₀ (copyGo n kind i d x s) ↔ FormKept s₀ s ∨ FormElse s₀ (copyGo n kind i d x s) := kept (by unfold copyGo; simp) s₀
theorem outKept_execCopyIn (stn : Nat) (s : State) : OutKept s (execCopyIn stn s) := by unfold execCopyIn; simp
theorem outKept_execCopyOut (stn : Nat) (s : State) : OutKept s (execCopyOut stn s) := by unfold execCopyOut; simp
@[simp] theorem formKept_copyDoneS (n k : Nat) (s : State) (s₀ : State) :
    FormKept s₀ (copyDoneS n k s) ↔ FormKept s₀ s ∨ FormElse s₀ (copyDoneS n k s) := kept (by unfold copyDoneS; (repeat' split) <;> simp_all) s₀
theorem outKept_execExplicitCopyDone (stn x : Nat) (s : State) : OutKept s (execExplicitCopyDone stn x s) := by unfold execExplicitCopyDone; simp
theorem outKept_execSemWait (stn : Nat) (s : State) : OutKept s (execSemWait stn s) := by unfold execSemWait; simp
theorem outKept_execSemRelease (stn : Nat) (s : State) : OutKept s (execSemRelease stn s) := by unfold execSemRelease; simp
@[simp] theorem formKept_setWork (n i : Nat) (f : Work → Work) (s : State) (s₀ : State) :
    FormKept s₀ (setWork n i f s) ↔ FormKept s₀ s ∨ FormElse s₀ (setWork n i f s) := kept (by exact ⟨id, id⟩) s₀
theorem sendWork_kept (n i : Nat) (s : State) : FormKept s (sendWork n i s) := by
  unfold sendWork
  split
  · dsimp only
    rw [formKept_setWork]
    refine .inl (formKept_fold_fst _ _ (s, []) fun a o => ?_)
    (repeat' split) <;> simp
  · exact .refl s
@[simp] theorem formKept_sendWork (n i : Nat) (s : State) (s₀ : State) :
    FormKept s₀ (sendWork n i s) ↔ FormKept s₀ s ∨ FormElse s₀ (sendWork n i s) := kept (sendWork_kept n i s) s₀

/-! ### Ray -/

@[simp] theorem formKept_setRg (n : Nat) (f : RgSt → RgSt) (s : State) (s₀ : State) :
    FormKept s₀ (setRg n f s) ↔ FormKept s₀ s ∨ FormElse s₀ (setRg n f s) := kept (by exact ⟨id, id⟩) s₀
@[simp] theorem formKept_setRay (n k : Nat) (f : RaySt → RaySt) (s : State) (s₀ : State) :
    FormKept s₀ (setRay n k f s) ↔ FormKept s₀ s ∨ FormElse s₀ (setRay n k f s) := kept (by exact ⟨id, id⟩) s₀
@[simp] theorem formKept_rgFlag (n : Nat) (fl : Nat) (s : State) (s₀ : State) :
    FormKept s₀ (rgFlag n fl s) ↔ FormKept s₀ s ∨ FormElse s₀ (rgFlag n fl s) := kept (by exact ⟨id, id⟩) s₀
@[simp] theorem formKept_rgRequest (n k a : Nat) (s : State) (s₀ : State) :
    FormKept s₀ (rgRequest n k a s) ↔ FormKept s₀ s ∨ FormElse s₀ (rgRequest n k a s) := kept (by unfold rgRequest; (repeat' split) <;> simp_all) s₀
@[simp] theorem formKept_rgRead (n k a : Nat) (s : State) (s₀ : State) :
    FormKept s₀ (rgRead n k a s) ↔ FormKept s₀ s ∨ FormElse s₀ (rgRead n k a s) := kept (by unfold rgRead; (repeat' split) <;> simp_all) s₀
@[simp] theorem formKept_endRay (n k : Nat) (s : State) (s₀ : State) :
    FormKept s₀ (endRay n k s) ↔ FormKept s₀ s ∨ FormElse s₀ (endRay n k s) := kept (by exact ⟨id, id⟩) s₀
@[simp] theorem formKept_spillRay (n k units off : Nat) (s : State) (s₀ : State) :
    FormKept s₀ (spillRay n k units off s) ↔ FormKept s₀ s ∨ FormElse s₀ (spillRay n k units off s) := kept (by unfold spillRay; (repeat' split) <;> simp_all) s₀
@[simp] theorem formKept_stepNode (n k : Nat) (d nd : List Byte) (i : Nat) (r : RaySt) (s : State) (s₀ : State) :
    FormKept s₀ (stepNode n k d nd i r s) ↔ FormKept s₀ s ∨ FormElse s₀ (stepNode n k d nd i r s) := kept (by unfold stepNode; simp) s₀
@[simp] theorem formKept_stepTri (n k : Nat) (d t : List Byte) (j : Nat) (r : RaySt) (s : State) (s₀ : State) :
    FormKept s₀ (stepTri n k d t j r s) ↔ FormKept s₀ s ∨ FormElse s₀ (stepTri n k d t j r s) := kept (by unfold stepTri; dsimp only; (repeat' split) <;> simp) s₀
theorem stepRay_kept (n k : Nat) (d : List Byte) (s : State) : FormKept s (stepRay n k d s).1 := by
  unfold stepRay; (repeat' split) <;> (try simp) <;> (repeat' split) <;> simp_all
@[simp] theorem formKept_stepRay (n k : Nat) (d : List Byte) (s : State) (s₀ : State) :
    FormKept s₀ (stepRay n k d s).1 ↔ FormKept s₀ s ∨ FormElse s₀ (stepRay n k d s).1 := kept (stepRay_kept n k d s) s₀
theorem stepPoint_kept (n k : Nat) (d : List Byte) (s : State) : FormKept s (stepPoint n k d s).1 := by
  unfold stepPoint; (repeat' split) <;> (try simp) <;> (repeat' split) <;> simp_all
@[simp] theorem formKept_stepPoint (n k : Nat) (d : List Byte) (s : State) (s₀ : State) :
    FormKept s₀ (stepPoint n k d s).1 ↔ FormKept s₀ s ∨ FormElse s₀ (stepPoint n k d s).1 := kept (stepPoint_kept n k d s) s₀
theorem runSlot_kept (n k : Nat) (d : List Byte) (fuel : Nat) (s : State) : FormKept s (runSlot n k d fuel s) := by
  induction fuel generalizing s with
  | zero => exact .refl s
  | succ m ih =>
    have ih := fun s => kept (ih s)
    unfold runSlot
    (repeat' split) <;> (try simp [ih]) <;> (repeat' split) <;> simp_all
@[simp] theorem formKept_runSlot (n k : Nat) (d : List Byte) (fuel : Nat) (s : State) (s₀ : State) :
    FormKept s₀ (runSlot n k d fuel s) ↔ FormKept s₀ s ∨ FormElse s₀ (runSlot n k d fuel s) := kept (runSlot_kept n k d fuel s) s₀
@[simp] theorem formKept_leaveBatch (n i : Nat) (d : List Byte) (s : State) (s₀ : State) :
    FormKept s₀ (leaveBatch n i d s) ↔ FormKept s₀ s ∨ FormElse s₀ (leaveBatch n i d s) := kept (by unfold leaveBatch; dsimp only; (repeat' split) <;> simp) s₀
@[simp] theorem formKept_freeTile (n t : Nat) (ks : List Nat) (s : State) (s₀ : State) :
    FormKept s₀ (freeTile n t ks s) ↔ FormKept s₀ s ∨ FormElse s₀ (freeTile n t ks s) := kept (by exact ⟨id, id⟩) s₀
theorem gatherOut_kept (n i : Nat) (d : List Byte) (fuel : Nat) (s : State) : FormKept s (gatherOut n i d fuel s) := by
  induction fuel generalizing s with
  | zero => exact .refl s
  | succ m ih =>
    have ih := fun s => kept (ih s)
    unfold gatherOut
    (repeat' split) <;> (try simp [ih]) <;> (repeat' split) <;> simp_all
@[simp] theorem formKept_gatherOut (n i : Nat) (d : List Byte) (fuel : Nat) (s : State) (s₀ : State) :
    FormKept s₀ (gatherOut n i d fuel s) ↔ FormKept s₀ s ∨ FormElse s₀ (gatherOut n i d fuel s) := kept (gatherOut_kept n i d fuel s) s₀
theorem gatherIn_kept (n : Nat) (d : List Byte) (fuel : Nat) (s : State) : FormKept s (gatherIn n d fuel s) := by
  induction fuel generalizing s with
  | zero => exact .refl s
  | succ m ih =>
    have ih := fun s => kept (ih s)
    unfold gatherIn
    (repeat' split) <;> (try simp [ih]) <;> (repeat' split) <;> simp_all
@[simp] theorem formKept_gatherIn (n : Nat) (d : List Byte) (fuel : Nat) (s : State) (s₀ : State) :
    FormKept s₀ (gatherIn n d fuel s) ↔ FormKept s₀ s ∨ FormElse s₀ (gatherIn n d fuel s) := kept (gatherIn_kept n d fuel s) s₀
theorem traceOut_kept (n i : Nat) (d : List Byte) (fuel : Nat) (s : State) : FormKept s (traceOut n i d fuel s) := by
  induction fuel generalizing s with
  | zero => exact .refl s
  | succ m ih =>
    have ih := fun s => kept (ih s)
    unfold traceOut
    (repeat' split) <;> (try simp [ih]) <;> (repeat' split) <;> simp_all
@[simp] theorem formKept_traceOut (n i : Nat) (d : List Byte) (fuel : Nat) (s : State) (s₀ : State) :
    FormKept s₀ (traceOut n i d fuel s) ↔ FormKept s₀ s ∨ FormElse s₀ (traceOut n i d fuel s) := kept (traceOut_kept n i d fuel s) s₀
@[simp] theorem formKept_traceRest (n i : Nat) (d : List Byte) (s : State) (s₀ : State) :
    FormKept s₀ (traceRest n i d s) ↔ FormKept s₀ s ∨ FormElse s₀ (traceRest n i d s) := kept (by unfold traceRest; (repeat' split) <;> simp_all) s₀
@[simp] theorem formKept_rgRound (n i : Nat) (d : List Byte) (s : State) (s₀ : State) :
    FormKept s₀ (rgRound n i d s) ↔ FormKept s₀ s ∨ FormElse s₀ (rgRound n i d s) := kept (by unfold rgRound; simp) s₀
theorem rgRounds_kept (n i : Nat) (d : List Byte) (fuel : Nat) (s : State) : FormKept s (rgRounds n i d fuel s) := by
  induction fuel generalizing s with
  | zero => exact .refl s
  | succ m ih =>
    have ih := fun s => kept (ih s)
    unfold rgRounds
    dsimp only
    split <;> simp [ih]
@[simp] theorem formKept_rgRounds (n i : Nat) (d : List Byte) (fuel : Nat) (s : State) (s₀ : State) :
    FormKept s₀ (rgRounds n i d fuel s) ↔ FormKept s₀ s ∨ FormElse s₀ (rgRounds n i d fuel s) := kept (rgRounds_kept n i d fuel s) s₀
@[simp] theorem formKept_rgPump (n : Nat) (s : State) (s₀ : State) :
    FormKept s₀ (rgPump n s) ↔ FormKept s₀ s ∨ FormElse s₀ (rgPump n s) := kept (by unfold rgPump; dsimp only; (repeat' split) <;> simp) s₀
@[simp] theorem formKept_rgGo (n i : Nat) (_d : List Byte) (_x : Stn) (s : State) (s₀ : State) :
    FormKept s₀ (rgGo n i _d _x s) ↔ FormKept s₀ s ∨ FormElse s₀ (rgGo n i _d _x s) := kept (by unfold rgGo; simp) s₀
theorem outKept_execTrace (stn : Nat) (s : State) : OutKept s (execTrace stn s) := by unfold execTrace; simp
theorem outKept_execGatherHash (stn : Nat) (s : State) : OutKept s (execGatherHash stn s) := by unfold execGatherHash; simp
theorem outKept_execGatherEmbed (stn : Nat) (s : State) : OutKept s (execGatherEmbed stn s) := by unfold execGatherEmbed; simp
@[simp] theorem formKept_putRay (flush : Bool) (n : Nat) (s : State) (e : List Byte × Nat) (s₀ : State) :
    FormKept s₀ (putRay flush n s e) ↔ FormKept s₀ s ∨ FormElse s₀ (putRay flush n s e) := kept (by unfold putRay; simp) s₀
@[simp] theorem formKept_batchTakeS (n : Nat) (s : State) (s₀ : State) :
    FormKept s₀ (batchTakeS n s) ↔ FormKept s₀ s ∨ FormElse s₀ (batchTakeS n s) := kept (by unfold batchTakeS; dsimp only; (repeat' split) <;> simp) s₀
theorem outKept_execRayBatchTake (stn : Nat) (s : State) : OutKept s (execRayBatchTake stn s) := by unfold execRayBatchTake; simp
@[simp] theorem formKept_batchFlushS (n : Nat) (s : State) (s₀ : State) :
    FormKept s₀ (batchFlushS n s) ↔ FormKept s₀ s ∨ FormElse s₀ (batchFlushS n s) := kept (by unfold batchFlushS; (repeat' split) <;> simp_all) s₀
theorem outKept_execResultBatchFlush (stn : Nat) (s : State) : OutKept s (execResultBatchFlush stn s) := by unfold execResultBatchFlush; simp
@[simp] theorem formKept_serveMiss (n m : Nat) (line : List Byte) (poison : Bool) (s : State) (s₀ : State) :
    FormKept s₀ (serveMiss n m line poison s) ↔ FormKept s₀ s ∨ FormElse s₀ (serveMiss n m line poison s) := kept (by unfold serveMiss; (repeat' split) <;> (try simp) <;> (repeat' (first | (apply FormKept.foldl; intro _ _) | split)) <;> simp_all) s₀
@[simp] theorem formKept_missFillS (n m : Nat) (s : State) (s₀ : State) :
    FormKept s₀ (missFillS n m s) ↔ FormKept s₀ s ∨ FormElse s₀ (missFillS n m s) := kept (by unfold missFillS; (repeat' split) <;> (try simp) <;> (repeat' (first | (apply FormKept.foldl; intro _ _) | split)) <;> simp_all) s₀
theorem outKept_execMissFill (stn reg : Nat) (s : State) : OutKept s (execMissFill stn reg s) := by unfold execMissFill; simp

/-! ### Streams -/

theorem takeFeed_kept (n i : Nat) (f : Feed) (fuel : Nat) (s : State) : FormKept s (takeFeed n i f fuel s) := by
  induction fuel generalizing s with
  | zero => exact .refl s
  | succ m ih =>
    have ih := fun s => kept (ih s)
    unfold takeFeed
    (repeat' split) <;> (try simp [ih]) <;> (repeat' split) <;> simp_all
@[simp] theorem formKept_takeFeed (n i : Nat) (f : Feed) (fuel : Nat) (s : State) (s₀ : State) :
    FormKept s₀ (takeFeed n i f fuel s) ↔ FormKept s₀ s ∨ FormElse s₀ (takeFeed n i f fuel s) := kept (takeFeed_kept n i f fuel s) s₀
@[simp] theorem formKept_mxStep (n i : Nat) (noIn : List Nat) (canSend : Bool) (s : State) (s₀ : State) :
    FormKept s₀ (mxStep n i noIn canSend s) ↔ FormKept s₀ s ∨ FormElse s₀ (mxStep n i noIn canSend s) := kept (by unfold mxStep; dsimp only; (repeat' split) <;> simp) s₀
@[simp] theorem formKept_placeTile (n i : Nat) (d : List Byte) (w : Work) (fs : List Flit) (s : State) (s₀ : State) :
    FormKept s₀ (placeTile n i d w fs s) ↔ FormKept s₀ s ∨ FormElse s₀ (placeTile n i d w fs s) := kept (by unfold placeTile; (repeat' split) <;> simp_all) s₀
theorem recvStep_kept (n i fuel : Nat) (s : State) : FormKept s (recvStep n i fuel s) := by
  induction fuel generalizing s with
  | zero => exact .refl s
  | succ m ih =>
    have ih := fun s => kept (ih s)
    unfold recvStep
    (repeat' split) <;> (try simp [ih]) <;> (repeat' split) <;> simp_all
@[simp] theorem formKept_recvStep (n i fuel : Nat) (s : State) (s₀ : State) :
    FormKept s₀ (recvStep n i fuel s) ↔ FormKept s₀ s ∨ FormElse s₀ (recvStep n i fuel s) := kept (recvStep_kept n i fuel s) s₀
theorem sendStep_kept (n i fuel : Nat) (s : State) : FormKept s (sendStep n i fuel s) := by
  induction fuel generalizing s with
  | zero => exact .refl s
  | succ m ih =>
    have ih := fun s => kept (ih s)
    unfold sendStep
    dsimp only
    (repeat' split) <;> simp [ih]
@[simp] theorem formKept_sendStep (n i fuel : Nat) (s : State) (s₀ : State) :
    FormKept s₀ (sendStep n i fuel s) ↔ FormKept s₀ s ∨ FormElse s₀ (sendStep n i fuel s) := kept (sendStep_kept n i fuel s) s₀
@[simp] theorem formKept_dropFs (n : Nat) (f : Xfer) (s : State) (s₀ : State) :
    FormKept s₀ (dropFs n f s) ↔ FormKept s₀ s ∨ FormElse s₀ (dropFs n f s) := kept (by exact ⟨id, id⟩) s₀
theorem fetchStep_kept (n i fuel : Nat) (s : State) : FormKept s (fetchStep n i fuel s) := by
  induction fuel generalizing s with
  | zero => exact .refl s
  | succ m ih =>
    have ih := fun s => kept (ih s)
    unfold fetchStep
    dsimp only
    (repeat' split) <;> simp [ih]
@[simp] theorem formKept_fetchStep (n i fuel : Nat) (s : State) (s₀ : State) :
    FormKept s₀ (fetchStep n i fuel s) ↔ FormKept s₀ s ∨ FormElse s₀ (fetchStep n i fuel s) := kept (fetchStep_kept n i fuel s) s₀
@[simp] theorem formKept_storeTile (n i : Nat) (d : List Byte) (w : Work) (fs : List Flit) (f : Xfer) (s : State) (s₀ : State) :
    FormKept s₀ (storeTile n i d w fs f s) ↔ FormKept s₀ s ∨ FormElse s₀ (storeTile n i d w fs f s) := kept (by unfold storeTile; (repeat' split) <;> simp_all) s₀
theorem storeStep_kept (n i : Nat) (take : Bool) (fuel : Nat) (s : State) : FormKept s (storeStep n i take fuel s) := by
  induction fuel generalizing s with
  | zero => exact .refl s
  | succ m ih =>
    have ih := fun s => kept (ih s)
    unfold storeStep
    (repeat' split) <;> (try simp [ih]) <;> (repeat' split) <;> simp_all
@[simp] theorem formKept_storeStep (n i : Nat) (take : Bool) (fuel : Nat) (s : State) (s₀ : State) :
    FormKept s₀ (storeStep n i take fuel s) ↔ FormKept s₀ s ∨ FormElse s₀ (storeStep n i take fuel s) := kept (storeStep_kept n i take fuel s) s₀
@[simp] theorem formKept_endXfer (n : Nat) (f : Xfer) (s : State) (s₀ : State) :
    FormKept s₀ (endXfer n f s) ↔ FormKept s₀ s ∨ FormElse s₀ (endXfer n f s) := kept (by exact ⟨id, id⟩) s₀
theorem portFlit_kept {n : Nat} {f : Xfer} {k : Nat} {p : XPiece} {s t : State} (h : portFlit n f k p s = some t) : FormKept s t := by
  revert h; unfold portFlit; (repeat' split) <;> intro h <;> simp at h <;> subst h <;> simp
theorem portStep_kept (n id fuel : Nat) (s : State) : FormKept s (portStep n id fuel s) := by
  induction fuel generalizing s with
  | zero => exact .refl s
  | succ m ih =>
    have ih := fun s => kept (ih s)
    unfold portStep
    split
    · exact .refl s
    · split
      · simp
      · split
        · next h => exact (portFlit_kept h).trans (by simp [ih])
        · exact .refl s
@[simp] theorem formKept_portStep (n id fuel : Nat) (s : State) (s₀ : State) :
    FormKept s₀ (portStep n id fuel s) ↔ FormKept s₀ s ∨ FormElse s₀ (portStep n id fuel s) := kept (portStep_kept n id fuel s) s₀
@[simp] theorem formKept_portPump (n : Nat) (s : State) (s₀ : State) :
    FormKept s₀ (portPump n s) ↔ FormKept s₀ s ∨ FormElse s₀ (portPump n s) := kept (by unfold portPump; simp) s₀
@[simp] theorem formKept_stepWork (n i op : Nat) (noIn : List Nat) (inOk outOk : Bool) (s : State) (s₀ : State) :
    FormKept s₀ (stepWork n i op noIn inOk outOk s) ↔ FormKept s₀ s ∨ FormElse s₀ (stepWork n i op noIn inOk outOk s) := kept (by unfold stepWork; simp) s₀
theorem pumpWorks_kept (n : Nat) (l : List (Nat × Work)) (a b : List Nat) (s : State) : FormKept s (pumpWorks n l a b s) := by
  induction l generalizing a b s with
  | nil => exact .refl s
  | cons e r ih =>
    have ih := fun a b s => kept (ih a b s)
    unfold pumpWorks
    dsimp only
    (repeat' split) <;> simp [ih]
@[simp] theorem formKept_pumpWorks (n : Nat) (l : List (Nat × Work)) (a b : List Nat) (s : State) (s₀ : State) :
    FormKept s₀ (pumpWorks n l a b s) ↔ FormKept s₀ s ∨ FormElse s₀ (pumpWorks n l a b s) := kept (pumpWorks_kept n l a b s) s₀
@[simp] theorem formKept_pump (n : Nat) (s : State) (s₀ : State) :
    FormKept s₀ (pump n s) ↔ FormKept s₀ s ∨ FormElse s₀ (pump n s) := kept (by unfold pump; (repeat' split) <;> simp_all) s₀
@[simp] theorem formKept_tileGo (n i : Nat) (_d : List Byte) (_x : Stn) (s : State) (s₀ : State) :
    FormKept s₀ (tileGo n i _d _x s) ↔ FormKept s₀ s ∨ FormElse s₀ (tileGo n i _d _x s) := kept (by unfold tileGo; simp) s₀
theorem outKept_execRecv (stn : Nat) (s : State) : OutKept s (execRecv stn s) := by unfold execRecv; simp
theorem outKept_execSend (stn : Nat) (s : State) : OutKept s (execSend stn s) := by unfold execSend; simp
theorem outKept_execMatmul (stn : Nat) (s : State) : OutKept s (execMatmul stn s) := by unfold execMatmul; simp
theorem outKept_execConv (stn : Nat) (s : State) : OutKept s (execConv stn s) := by unfold execConv; simp
theorem outKept_execAttnScore (stn : Nat) (s : State) : OutKept s (execAttnScore stn s) := by unfold execAttnScore; simp
theorem outKept_execAttnPv (stn : Nat) (s : State) : OutKept s (execAttnPv stn s) := by unfold execAttnPv; simp
theorem outKept_execAttnFinal (stn : Nat) (s : State) : OutKept s (execAttnFinal stn s) := by unfold execAttnFinal; simp
theorem outKept_execEltwise (stn : Nat) (s : State) : OutKept s (execEltwise stn s) := by unfold execEltwise; simp
theorem outKept_execReduce (stn : Nat) (s : State) : OutKept s (execReduce stn s) := by unfold execReduce; simp
@[simp] theorem formKept_fsGo (n : Nat) (kind : XKind) (i : Nat) (d : List Byte) (x : Stn) (s : State) (s₀ : State) :
    FormKept s₀ (fsGo n kind i d x s) ↔ FormKept s₀ s ∨ FormElse s₀ (fsGo n kind i d x s) := kept (by unfold fsGo; simp) s₀
theorem outKept_execFetch (stn : Nat) (s : State) : OutKept s (execFetch stn s) := by unfold execFetch; simp
theorem outKept_execStore (stn : Nat) (s : State) : OutKept s (execStore stn s) := by unfold execStore; simp
@[simp] theorem formKept_flitArrivalS (k i st m : Nat) (s : State) (s₀ : State) :
    FormKept s₀ (flitArrivalS k i st m s) ↔ FormKept s₀ s ∨ FormElse s₀ (flitArrivalS k i st m s) := kept (by unfold flitArrivalS; (repeat' split) <;> simp_all) s₀
theorem outKept_execFlitArrival (launch inst stream k : Nat) (s : State) : OutKept s (execFlitArrival launch inst stream k s) := by unfold execFlitArrival; simp
@[simp] theorem formKept_creditReturnS (k i st : Nat) (s : State) (s₀ : State) :
    FormKept s₀ (creditReturnS k i st s) ↔ FormKept s₀ s ∨ FormElse s₀ (creditReturnS k i st s) := kept (by unfold creditReturnS; (repeat' split) <;> simp_all) s₀
theorem outKept_execCreditReturn (launch inst stream : Nat) (s : State) : OutKept s (execCreditReturn launch inst stream s) := by unfold execCreditReturn; simp

end Sys2Proof.Machine
end

section
/-! PROOF. What keeps device and host memory in canonical form: the shader instructions. -/

set_option maxRecDepth 4000

namespace Sys2Proof.Machine

/-! ### Shader -/

@[simp] theorem formKept_grpFault (u : Grp) (y : GroupSt) (code addr : Nat) (s : State) (s₀ : State) :
    FormKept s₀ (grpFault u y code addr s) ↔ FormKept s₀ s ∨ FormElse s₀ (grpFault u y code addr s) := kept (by unfold grpFault; simp) s₀
@[simp] theorem formKept_holdGrp (u : Grp) (why v : Nat) (s : State) (s₀ : State) :
    FormKept s₀ (holdGrp u why v s) ↔ FormKept s₀ s ∨ FormElse s₀ (holdGrp u why v s) := kept (by exact ⟨id, id⟩) s₀
@[simp] theorem formKept_shGo (cls op : Nat) (u : Grp) (w : ShIns) (f : Stn → GroupSt → State → State) (s : State) (h_f : ∀ a0 a1 a2, FormKept a2 (f a0 a1 a2)) (s₀ : State) :
    FormKept s₀ (shGo cls op u w f s) ↔ FormKept s₀ s ∨ FormElse s₀ (shGo cls op u w f s) := kept (by unfold shGo; (repeat' split) <;> simp_all) s₀
@[simp] theorem outKept_shOut (cls op : Nat) (form : Bool) (fieldsOk : Bool) (regs : List Nat) (u : Grp) (w : ShIns) (f : Stn → GroupSt → State → State) (s : State) (h_f : ∀ a0 a1 a2, FormKept a2 (f a0 a1 a2)) : OutKept s (shOut cls op form fieldsOk regs u w f s) := by unfold shOut; (repeat' split) <;> simp_all
@[simp] theorem formKept_stepGrp (u : Grp) (f : GroupSt → GroupSt) (s : State) (s₀ : State) :
    FormKept s₀ (stepGrp u f s) ↔ FormKept s₀ s ∨ FormElse s₀ (stepGrp u f s) := kept (by exact ⟨id, id⟩) s₀
@[simp] theorem formKept_runGo (n i : Nat) (d : List Byte) (_x : Stn) (s : State) (s₀ : State) :
    FormKept s₀ (runGo n i d _x s) ↔ FormKept s₀ s ∨ FormElse s₀ (runGo n i d _x s) := kept (by exact ⟨id, id⟩) s₀
theorem outKept_execRun (stn : Nat) (s : State) : OutKept s (execRun stn s) := by unfold execRun; simp
@[simp] theorem outKept_intOut (op : Nat) (u : Grp) (w : ShIns) (regs : List Nat) (f : GroupSt → Nat → Word → Word → Word) (s : State) : OutKept s (intOut op u w regs f s) := by unfold intOut; simp
theorem outKept_execIadd (u : Grp) (w : ShIns) (s : State) : OutKept s (execIadd u w s) := by unfold execIadd; simp
theorem outKept_execIsub (u : Grp) (w : ShIns) (s : State) : OutKept s (execIsub u w s) := by unfold execIsub; simp
theorem outKept_execImul (u : Grp) (w : ShIns) (s : State) : OutKept s (execImul u w s) := by unfold execImul; simp
theorem outKept_execImuladd (u : Grp) (w : ShIns) (s : State) : OutKept s (execImuladd u w s) := by unfold execImuladd; simp
theorem outKept_execImin (u : Grp) (w : ShIns) (s : State) : OutKept s (execImin u w s) := by unfold execImin; simp
theorem outKept_execImax (u : Grp) (w : ShIns) (s : State) : OutKept s (execImax u w s) := by unfold execImax; simp
theorem outKept_execAnd (u : Grp) (w : ShIns) (s : State) : OutKept s (execAnd u w s) := by unfold execAnd; simp
theorem outKept_execOr (u : Grp) (w : ShIns) (s : State) : OutKept s (execOr u w s) := by unfold execOr; simp
theorem outKept_execXor (u : Grp) (w : ShIns) (s : State) : OutKept s (execXor u w s) := by unfold execXor; simp
theorem outKept_execNot (u : Grp) (w : ShIns) (s : State) : OutKept s (execNot u w s) := by unfold execNot; simp
theorem outKept_execShl (u : Grp) (w : ShIns) (s : State) : OutKept s (execShl u w s) := by unfold execShl; simp
theorem outKept_execShr (u : Grp) (w : ShIns) (s : State) : OutKept s (execShr u w s) := by unfold execShr; simp
theorem outKept_execShra (u : Grp) (w : ShIns) (s : State) : OutKept s (execShra u w s) := by unfold execShra; simp
theorem outKept_execBitcnt (u : Grp) (w : ShIns) (s : State) : OutKept s (execBitcnt u w s) := by unfold execBitcnt; simp
theorem outKept_execLeadz (u : Grp) (w : ShIns) (s : State) : OutKept s (execLeadz u w s) := by unfold execLeadz; simp
theorem outKept_execIcmp (u : Grp) (w : ShIns) (s : State) : OutKept s (execIcmp u w s) := by unfold execIcmp; simp
@[simp] theorem outKept_flagOut (cls op : Nat) (form ok : Bool) (regs : List Nat) (u : Grp) (w : ShIns) (f : Bool → GroupSt → Nat → Word × Nat) (s : State) : OutKept s (flagOut cls op form ok regs u w f s) := by unfold flagOut; simp
theorem outKept_execFadd (u : Grp) (w : ShIns) (s : State) : OutKept s (execFadd u w s) := by unfold execFadd; simp
theorem outKept_execFmul (u : Grp) (w : ShIns) (s : State) : OutKept s (execFmul u w s) := by unfold execFmul; simp
theorem outKept_execFmuladd (u : Grp) (w : ShIns) (s : State) : OutKept s (execFmuladd u w s) := by unfold execFmuladd; simp
theorem outKept_execFmin (u : Grp) (w : ShIns) (s : State) : OutKept s (execFmin u w s) := by unfold execFmin; simp
theorem outKept_execFmax (u : Grp) (w : ShIns) (s : State) : OutKept s (execFmax u w s) := by unfold execFmax; simp
theorem outKept_execFcmp (u : Grp) (w : ShIns) (s : State) : OutKept s (execFcmp u w s) := by unfold execFcmp; simp
@[simp] theorem outKept_sfuOut (code : Nat) (u : Grp) (w : ShIns) (s : State) : OutKept s (sfuOut code u w s) := by unfold sfuOut; simp
theorem outKept_execRcp (u : Grp) (w : ShIns) (s : State) : OutKept s (execRcp u w s) := by unfold execRcp; simp
theorem outKept_execRsqrt (u : Grp) (w : ShIns) (s : State) : OutKept s (execRsqrt u w s) := by unfold execRsqrt; simp
theorem outKept_execSqrt (u : Grp) (w : ShIns) (s : State) : OutKept s (execSqrt u w s) := by unfold execSqrt; simp
theorem outKept_execExp2 (u : Grp) (w : ShIns) (s : State) : OutKept s (execExp2 u w s) := by unfold execExp2; simp
theorem outKept_execLog2 (u : Grp) (w : ShIns) (s : State) : OutKept s (execLog2 u w s) := by unfold execLog2; simp
theorem outKept_execSin (u : Grp) (w : ShIns) (s : State) : OutKept s (execSin u w s) := by unfold execSin; simp
theorem outKept_execCos (u : Grp) (w : ShIns) (s : State) : OutKept s (execCos u w s) := by unfold execCos; simp
theorem outKept_execTanh (u : Grp) (w : ShIns) (s : State) : OutKept s (execTanh u w s) := by unfold execTanh; simp
theorem outKept_execFtoi (u : Grp) (w : ShIns) (s : State) : OutKept s (execFtoi u w s) := by unfold execFtoi; simp
theorem outKept_execItof (u : Grp) (w : ShIns) (s : State) : OutKept s (execItof u w s) := by unfold execItof; simp
theorem outKept_execFcvt (u : Grp) (w : ShIns) (s : State) : OutKept s (execFcvt u w s) := by unfold execFcvt; simp
theorem outKept_execPack2 (u : Grp) (w : ShIns) (s : State) : OutKept s (execPack2 u w s) := by unfold execPack2; simp
theorem outKept_execUnpack2 (u : Grp) (w : ShIns) (s : State) : OutKept s (execUnpack2 u w s) := by unfold execUnpack2; simp
@[simp] theorem outKept_moveOut (op : Nat) (regs : List Nat) (u : Grp) (w : ShIns) (f : GroupSt → Nat → Word) (s : State) : OutKept s (moveOut op regs u w f s) := by unfold moveOut; simp
theorem outKept_execMov (u : Grp) (w : ShIns) (s : State) : OutKept s (execMov u w s) := by unfold execMov; simp
theorem outKept_execMovi (u : Grp) (w : ShIns) (s : State) : OutKept s (execMovi u w s) := by unfold execMovi; simp
theorem outKept_execSel (u : Grp) (w : ShIns) (s : State) : OutKept s (execSel u w s) := by unfold execSel; simp
theorem outKept_execThreadno (u : Grp) (w : ShIns) (s : State) : OutKept s (execThreadno u w s) := by unfold execThreadno; simp
theorem outKept_execGroupno (u : Grp) (w : ShIns) (s : State) : OutKept s (execGroupno u w s) := by unfold execGroupno; simp
theorem outKept_execStationno (u : Grp) (w : ShIns) (s : State) : OutKept s (execStationno u w s) := by unfold execStationno; simp
theorem outKept_execLaneget (u : Grp) (w : ShIns) (s : State) : OutKept s (execLaneget u w s) := by unfold execLaneget; simp
theorem outKept_execLanepoll (u : Grp) (w : ShIns) (s : State) : OutKept s (execLanepoll u w s) := by unfold execLanepoll; simp
theorem outKept_execPsave (u : Grp) (w : ShIns) (s : State) : OutKept s (execPsave u w s) := by unfold execPsave; simp
theorem outKept_execPload (u : Grp) (w : ShIns) (s : State) : OutKept s (execPload u w s) := by unfold execPload; simp

/-! ### ShaderMem -/

@[simp] theorem formKept_storeLanes (n : Nat) (l : List (Nat × List Byte)) (s : State) (s₀ : State) :
    FormKept s₀ (storeLanes n l s) ↔ FormKept s₀ s ∨ FormElse s₀ (storeLanes n l s) := kept (by exact ⟨id, id⟩) s₀
theorem outKept_execLd (u : Grp) (w : ShIns) (s : State) : OutKept s (execLd u w s) := by
  unfold execLd
  refine outKept_shOut _ _ _ _ _ _ _ _ _ (fun x y s => ?_)
  (repeat' split) <;> simp
theorem outKept_execSt (u : Grp) (w : ShIns) (s : State) : OutKept s (execSt u w s) := by
  unfold execSt
  refine outKept_shOut _ _ _ _ _ _ _ _ _ (fun x y s => ?_)
  (repeat' split) <;> simp
theorem outKept_execGmac (u : Grp) (w : ShIns) (s : State) : OutKept s (execGmac u w s) := by unfold execGmac; simp
@[simp] theorem outKept_gmOut (op : Nat) (u : Grp) (w : ShIns) (f : Stn → GroupSt → Nat → State → State) (s : State) (h_f : ∀ a0 a1 a2 a3, FormKept a3 (f a0 a1 a2 a3)) : OutKept s (gmOut op u w f s) := by unfold gmOut; (repeat' split) <;> simp_all
theorem outKept_execGmload (u : Grp) (w : ShIns) (s : State) : OutKept s (execGmload u w s) := by unfold execGmload; simp
theorem outKept_execGmstore (u : Grp) (w : ShIns) (s : State) : OutKept s (execGmstore u w s) := by unfold execGmstore; simp
@[simp] theorem outKept_brOut (op : Nat) (ok : Bool) (points : List Nat) (u : Grp) (w : ShIns) (f : Stn → GroupSt → State → State) (s : State) (h_f : ∀ a0 a1 a2, FormKept a2 (f a0 a1 a2)) : OutKept s (brOut op ok points u w f s) := by unfold brOut; (repeat' split) <;> simp_all
@[simp] theorem formKept_putGrp (u : Grp) (y : GroupSt) (s : State) (s₀ : State) :
    FormKept s₀ (putGrp u y s) ↔ FormKept s₀ s ∨ FormElse s₀ (putGrp u y s) := kept (by exact ⟨id, id⟩) s₀
@[simp] theorem formKept_joinGrp (u : Grp) (y : GroupSt) (s : State) (s₀ : State) :
    FormKept s₀ (joinGrp u y s) ↔ FormKept s₀ s ∨ FormElse s₀ (joinGrp u y s) := kept (by unfold joinGrp; (repeat' split) <;> simp_all) s₀
theorem outKept_execJump (u : Grp) (w : ShIns) (s : State) : OutKept s (execJump u w s) := by unfold execJump; simp
theorem outKept_execSplit (u : Grp) (w : ShIns) (s : State) : OutKept s (execSplit u w s) := by unfold execSplit; simp
theorem outKept_execJoin (u : Grp) (w : ShIns) (s : State) : OutKept s (execJoin u w s) := by unfold execJoin; simp
theorem outKept_execLoopin (u : Grp) (w : ShIns) (s : State) : OutKept s (execLoopin u w s) := by unfold execLoopin; simp
theorem outKept_execLeave (u : Grp) (w : ShIns) (s : State) : OutKept s (execLeave u w s) := by unfold execLeave; simp
@[simp] theorem formKept_takeCtr (u : Grp) (c : Nat) (s : State) (s₀ : State) :
    FormKept s₀ (takeCtr u c s) ↔ FormKept s₀ s ∨ FormElse s₀ (takeCtr u c s) := kept (by exact ⟨id, id⟩) s₀
@[simp] theorem formKept_addXfer (n : Nat) (f : Xfer) (s : State) (s₀ : State) :
    FormKept s₀ (addXfer n f s) ↔ FormKept s₀ s ∨ FormElse s₀ (addXfer n f s) := kept (by exact ⟨id, id⟩) s₀
theorem outKept_execIssue (u : Grp) (w : ShIns) (s : State) : OutKept s (execIssue u w s) := by unfold execIssue; simp
@[simp] theorem formKept_gatherDoneS (n k : Nat) (s : State) (s₀ : State) :
    FormKept s₀ (gatherDoneS n k s) ↔ FormKept s₀ s ∨ FormElse s₀ (gatherDoneS n k s) := kept (by unfold gatherDoneS; (repeat' split) <;> simp_all) s₀
theorem outKept_execGatherDone (stn x : Nat) (s : State) : OutKept s (execGatherDone stn x s) := by unfold execGatherDone; simp
@[simp] theorem outKept_msemOut (op : Nat) (u : Grp) (w : ShIns) (s : State) : OutKept s (msemOut op u w s) := by unfold msemOut; simp
theorem outKept_execMsemr (u : Grp) (w : ShIns) (s : State) : OutKept s (execMsemr u w s) := by unfold execMsemr; simp
theorem outKept_execMsemw (u : Grp) (w : ShIns) (s : State) : OutKept s (execMsemw u w s) := by unfold execMsemw; simp
@[simp] theorem outKept_portOut (op : Nat) (u : Grp) (w : ShIns) (s : State) : OutKept s (portOut op u w s) := by unfold portOut; simp
theorem outKept_execPrecv (u : Grp) (w : ShIns) (s : State) : OutKept s (execPrecv u w s) := by unfold execPrecv; simp
theorem outKept_execPsend (u : Grp) (w : ShIns) (s : State) : OutKept s (execPsend u w s) := by unfold execPsend; simp
theorem outKept_execWait (u : Grp) (w : ShIns) (s : State) : OutKept s (execWait u w s) := by unfold execWait; simp
@[simp] theorem formKept_openMeets (n : Nat) (s : State) (s₀ : State) :
    FormKept s₀ (openMeets n s) ↔ FormKept s₀ s ∨ FormElse s₀ (openMeets n s) := kept (by exact ⟨id, id⟩) s₀
theorem outKept_execMeet (u : Grp) (w : ShIns) (s : State) : OutKept s (execMeet u w s) := by unfold execMeet; simp
theorem outKept_execSema (u : Grp) (w : ShIns) (s : State) : OutKept s (execSema u w s) := by unfold execSema; simp
theorem outKept_execSwait (u : Grp) (w : ShIns) (s : State) : OutKept s (execSwait u w s) := by unfold execSwait; simp
@[simp] theorem formKept_lockCode (u : Grp) (w : ShIns) (v : Nat) (s : State) (s₀ : State) :
    FormKept s₀ (lockCode u w v s) ↔ FormKept s₀ s ∨ FormElse s₀ (lockCode u w v s) := kept (by exact ⟨id, id⟩) s₀
@[simp] theorem formKept_setLock (n k : Nat) (v : Option Nat × List Nat) (s : State) (s₀ : State) :
    FormKept s₀ (setLock n k v s) ↔ FormKept s₀ s ∨ FormElse s₀ (setLock n k v s) := kept (by exact ⟨id, id⟩) s₀
theorem outKept_execLock (u : Grp) (w : ShIns) (s : State) : OutKept s (execLock u w s) := by
  unfold execLock
  refine outKept_shOut _ _ _ _ _ _ _ _ _ (fun x y s => ?_)
  dsimp only
  (repeat' split) <;> simp
theorem outKept_execTrylock (u : Grp) (w : ShIns) (s : State) : OutKept s (execTrylock u w s) := by
  unfold execTrylock
  refine outKept_shOut _ _ _ _ _ _ _ _ _ (fun x y s => ?_)
  dsimp only
  (repeat' split) <;> simp
theorem outKept_execShaderUnlock (u : Grp) (w : ShIns) (s : State) : OutKept s (execShaderUnlock u w s) := by unfold execShaderUnlock; simp
theorem outKept_execNop (u : Grp) (w : ShIns) (s : State) : OutKept s (execNop u w s) := by unfold execNop; simp
@[simp] theorem formKept_shRest (u : Grp) (co : Nat) (s : State) (s₀ : State) :
    FormKept s₀ (shRest u co s) ↔ FormKept s₀ s ∨ FormElse s₀ (shRest u co s) := kept (by unfold shRest; (repeat' split) <;> simp_all) s₀
theorem outKept_execRest (u : Grp) (w : ShIns) (s : State) : OutKept s (execRest u w s) := by unfold execRest; simp
@[simp] theorem formKept_endRun (n : Nat) (s : State) (s₀ : State) :
    FormKept s₀ (endRun n s) ↔ FormKept s₀ s ∨ FormElse s₀ (endRun n s) := kept (by unfold endRun; (repeat' split) <;> simp_all) s₀
theorem outKept_execFinish (u : Grp) (w : ShIns) (s : State) : OutKept s (execFinish u w s) := by unfold execFinish; simp

/-! ### Check -/

@[simp] theorem formKept_recipeCheckS (u : Queue) (c : TakenCmd) (s : State) (s₀ : State) :
    FormKept s₀ (recipeCheckS u c s) ↔ FormKept s₀ s ∨ FormElse s₀ (recipeCheckS u c s) := kept (by unfold recipeCheckS; (repeat' split) <;> simp_all) s₀
theorem outKept_execRecipeCheck (q seq : Nat) (s : State) : OutKept s (execRecipeCheck q seq s) := by unfold execRecipeCheck; simp

/-! ### Stalls -/

@[simp] theorem formKept_allStalledS (c : Nat) (s : State) (s₀ : State) :
    FormKept s₀ (allStalledS c s) ↔ FormKept s₀ s ∨ FormElse s₀ (allStalledS c s) := kept (by unfold allStalledS; simp) s₀
theorem outKept_execAllStalled (ctx : Nat) (s : State) : OutKept s (execAllStalled ctx s) := by unfold execAllStalled; simp

end Sys2Proof.Machine
end

section
/-! PROOF. What keeps device and host memory in canonical form: Piper, the deliveries, Riberex and the seams. -/

set_option maxRecDepth 4000

namespace Sys2Proof.Machine

/-! ### Piper -/

@[simp] theorem formKept_setPlan (k : Nat) (f : Plan → Plan) (s : State) (s₀ : State) :
    FormKept s₀ (setPlan k f s) ↔ FormKept s₀ s ∨ FormElse s₀ (setPlan k f s) := kept (by exact ⟨id, id⟩) s₀
@[simp] theorem formKept_setExpert (k e : Nat) (f : PExpert → PExpert) (s : State) (s₀ : State) :
    FormKept s₀ (setExpert k e f s) ↔ FormKept s₀ s ∨ FormElse s₀ (setExpert k e f s) := kept (by exact ⟨id, id⟩) s₀
@[simp] theorem formKept_sumRow (k c : Nat) (p : List Byte) (t j : Nat) (live : Bool) (row : List Byte) (s : State) (s₀ : State) :
    FormKept s₀ (sumRow k c p t j live row s) ↔ FormKept s₀ s ∨ FormElse s₀ (sumRow k c p t j live row s) := kept (by unfold sumRow; (repeat' split) <;> (try simp) <;> (repeat' (first | (apply FormKept.foldl; intro _ _) | split)) <;> simp_all) s₀
@[simp] theorem formKept_placeRow (k c : Nat) (p : List Byte) (t j : Nat) (row : List Byte) (s : State) (s₀ : State) :
    FormKept s₀ (placeRow k c p t j row s) ↔ FormKept s₀ s ∨ FormElse s₀ (placeRow k c p t j row s) := kept (by unfold placeRow; simp) s₀
@[simp] theorem formKept_placeNone (k c : Nat) (p : List Byte) (t j : Nat) (s : State) (s₀ : State) :
    FormKept s₀ (placeNone k c p t j s) ↔ FormKept s₀ s ∨ FormElse s₀ (placeNone k c p t j s) := kept (by unfold placeNone; simp) s₀
@[simp] theorem formKept_piperAdd (c a v : Nat) (s : State) (s₀ : State) :
    FormKept s₀ (piperAdd c a v s) ↔ FormKept s₀ s ∨ FormElse s₀ (piperAdd c a v s) := kept (by unfold piperAdd; (repeat' split) <;> simp_all) s₀
@[simp] theorem formKept_payCombine (k : Nat) (pl : Plan) (p : List Byte) (s : State) (s₀ : State) :
    FormKept s₀ (payCombine k pl p s) ↔ FormKept s₀ s ∨ FormElse s₀ (payCombine k pl p s) := kept (by unfold payCombine; simp) s₀
@[simp] theorem formKept_piperFlush (k : Nat) (s : State) (s₀ : State) :
    FormKept s₀ (piperFlush k s) ↔ FormKept s₀ s ∨ FormElse s₀ (piperFlush k s) := kept (by unfold piperFlush; (repeat' split) <;> simp_all) s₀
@[simp] theorem formKept_owe (k v : Nat) (s : State) (s₀ : State) :
    FormKept s₀ (owe k v s) ↔ FormKept s₀ s ∨ FormElse s₀ (owe k v s) := kept (by unfold owe; simp) s₀
@[simp] theorem formKept_refuseClaim (k c : Nat) (p : List Byte) (t e j : Nat) (gate : Word) (row : List Byte) (s : State) (s₀ : State) :
    FormKept s₀ (refuseClaim k c p t e j gate row s) ↔ FormKept s₀ s ∨ FormElse s₀ (refuseClaim k c p t e j gate row s) := kept (by unfold refuseClaim; simp) s₀
@[simp] theorem formKept_claim (k c : Nat) (p : List Byte) (r t e j : Nat) (gate : Word) (row : List Byte) (s : State) (s₀ : State) :
    FormKept s₀ (claim k c p r t e j gate row s) ↔ FormKept s₀ s ∨ FormElse s₀ (claim k c p r t e j gate row s) := kept (by unfold claim; dsimp only; (repeat' split) <;> simp) s₀
@[simp] theorem formKept_closeBlocks (k e : Nat) (s : State) (s₀ : State) :
    FormKept s₀ (closeBlocks k e s) ↔ FormKept s₀ s ∨ FormElse s₀ (closeBlocks k e s) := kept (by unfold closeBlocks; (repeat' split) <;> simp_all) s₀
@[simp] theorem formKept_handToken (k c : Nat) (flush : Bool) (x : Stn) (p : List Byte) (r slot i t : Nat) (s : State) (s₀ : State) :
    FormKept s₀ (handToken k c flush x p r slot i t s) ↔ FormKept s₀ s ∨ FormElse s₀ (handToken k c flush x p r slot i t s) := kept (by unfold handToken; simp) s₀
@[simp] theorem formKept_takeSlot (k : Nat) (pl : Plan) (p : List Byte) (n r v : Nat) (x : Stn) (s : State) (s₀ : State) :
    FormKept s₀ (takeSlot k pl p n r v x s) ↔ FormKept s₀ s ∨ FormElse s₀ (takeSlot k pl p n r v x s) := kept (by unfold takeSlot; simp) s₀
@[simp] theorem formKept_handOverS (n : Nat) (s : State) (s₀ : State) :
    FormKept s₀ (handOverS n s) ↔ FormKept s₀ s ∨ FormElse s₀ (handOverS n s) := kept (by unfold handOverS; (repeat' split) <;> simp_all) s₀
theorem outKept_execHandOver (stn : Nat) (s : State) : OutKept s (execHandOver stn s) := by unfold execHandOver; simp
@[simp] theorem formKept_rowArrivalS (k e i : Nat) (s : State) (s₀ : State) :
    FormKept s₀ (rowArrivalS k e i s) ↔ FormKept s₀ s ∨ FormElse s₀ (rowArrivalS k e i s) := kept (by unfold rowArrivalS; (repeat' split) <;> simp_all) s₀
theorem outKept_execTokenRowArrival (plan expert k : Nat) (s : State) : OutKept s (execTokenRowArrival plan expert k s) := by unfold execTokenRowArrival; simp
@[simp] theorem formKept_deliverTo (pl : Plan) (p : List Byte) (e slot i : Nat) (b : PBlock) (s : State) (s₀ : State) :
    FormKept s₀ (deliverTo pl p e slot i b s) ↔ FormKept s₀ s ∨ FormElse s₀ (deliverTo pl p e slot i b s) := kept (by unfold deliverTo; (repeat' split) <;> simp_all) s₀
@[simp] theorem formKept_sendBlock (k e slot blk : Nat) (pl : Plan) (p : List Byte) (b : PBlock) (s : State) (s₀ : State) :
    FormKept s₀ (sendBlock k e slot blk pl p b s) ↔ FormKept s₀ s ∨ FormElse s₀ (sendBlock k e slot blk pl p b s) := kept (by unfold sendBlock; (repeat' split) <;> simp_all) s₀
@[simp] theorem formKept_blockDeliveryS (k e : Nat) (s : State) (s₀ : State) :
    FormKept s₀ (blockDeliveryS k e s) ↔ FormKept s₀ s ∨ FormElse s₀ (blockDeliveryS k e s) := kept (by unfold blockDeliveryS; (repeat' split) <;> (try simp) <;> (repeat' (first | (apply FormKept.foldl; intro _ _) | split)) <;> simp_all) s₀
theorem outKept_execBlockDelivery (plan expert : Nat) (s : State) : OutKept s (execBlockDelivery plan expert s) := by unfold execBlockDelivery; simp
@[simp] theorem formKept_placeBlock (k : Nat) (pl : Plan) (p : List Byte) (tags : List Byte) (base : Nat) (s : State) (s₀ : State) :
    FormKept s₀ (placeBlock k pl p tags base s) ↔ FormKept s₀ s ∨ FormElse s₀ (placeBlock k pl p tags base s) := kept (by unfold placeBlock; simp) s₀
@[simp] theorem formKept_resultLocal (k e : Nat) (pl : Plan) (p : List Byte) (s : State) (s₀ : State) :
    FormKept s₀ (resultLocal k e pl p s) ↔ FormKept s₀ s ∨ FormElse s₀ (resultLocal k e pl p s) := kept (by unfold resultLocal; (repeat' split) <;> simp_all) s₀
@[simp] theorem formKept_resultRemote (k e : Nat) (pl : Plan) (p : List Byte) (s : State) (s₀ : State) :
    FormKept s₀ (resultRemote k e pl p s) ↔ FormKept s₀ s ∨ FormElse s₀ (resultRemote k e pl p s) := kept (by unfold resultRemote; (repeat' split) <;> (try simp) <;> (repeat' (first | (apply FormKept.foldl; intro _ _) | split)) <;> simp_all) s₀
@[simp] theorem formKept_resultHandOverS (k e : Nat) (s : State) (s₀ : State) :
    FormKept s₀ (resultHandOverS k e s) ↔ FormKept s₀ s ∨ FormElse s₀ (resultHandOverS k e s) := kept (by unfold resultHandOverS; (repeat' split) <;> simp_all) s₀
theorem outKept_execResultHandOver (plan expert : Nat) (s : State) : OutKept s (execResultHandOver plan expert s) := by unfold execResultHandOver; simp
@[simp] theorem formKept_loseBlock (k e : Nat) (o : Nat × PBlock × Nat) (s : State) (s₀ : State) :
    FormKept s₀ (loseBlock k e o s) ↔ FormKept s₀ s ∨ FormElse s₀ (loseBlock k e o s) := kept (by unfold loseBlock; (repeat' split) <;> simp_all) s₀
@[simp] theorem formKept_remoteLostS (k e b : Nat) (s : State) (s₀ : State) :
    FormKept s₀ (remoteLostS k e b s) ↔ FormKept s₀ s ∨ FormElse s₀ (remoteLostS k e b s) := kept (by unfold remoteLostS; (repeat' split) <;> simp_all) s₀
theorem outKept_execPiperRemoteLost (plan expert block : Nat) (s : State) : OutKept s (execPiperRemoteLost plan expert block s) := by unfold execPiperRemoteLost; simp
@[simp] theorem formKept_refuseBlock (k e b : Nat) (s : State) (s₀ : State) :
    FormKept s₀ (refuseBlock k e b s) ↔ FormKept s₀ s ∨ FormElse s₀ (refuseBlock k e b s) := kept (by unfold refuseBlock; (repeat' split) <;> simp_all) s₀

/-! ### Deliver -/

@[simp] theorem formKept_takeMsg (k : Nat) (s : State) (s₀ : State) :
    FormKept s₀ (takeMsg k s) ↔ FormKept s₀ s ∨ FormElse s₀ (takeMsg k s) := kept (by exact ⟨id, id⟩) s₀
@[simp] theorem formKept_poisonedRead (n : Nat) (x : Stn) (f : Xfer) (p : XPiece) (k : Nat) (s : State) (s₀ : State) :
    FormKept s₀ (poisonedRead n x f p k s) ↔ FormKept s₀ s ∨ FormElse s₀ (poisonedRead n x f p k s) := kept (by unfold poisonedRead; simp) s₀
@[simp] theorem formKept_fillXfer (n xid k : Nat) (data : List Byte) (poison : Bool) (s : State) (s₀ : State) :
    FormKept s₀ (fillXfer n xid k data poison s) ↔ FormKept s₀ s ∨ FormElse s₀ (fillXfer n xid k data poison s) := kept (by unfold fillXfer; (repeat' split) <;> (try simp) <;> (repeat' (first | (apply FormKept.foldl; intro _ _) | split)) <;> simp_all) s₀
theorem fillCache_kept (n key : Nat) (data : List Byte) (poison : Bool) (s : State) : FormKept s (fillCache n key data poison s) := by
  unfold fillCache
  split
  · exact .refl s
  · dsimp only
    rw [formKept_pump]
    refine .inl ?_
    split
    · refine FormKept.trans ?_ (.foldl (fun s w => ?_) _ _)
      · simp
      · (repeat' split) <;> simp
    · rw [formKept_setStn]
      refine .inl (FormKept.trans ?_ (.foldl (fun s w => ?_) _ _))
      · simp
      · (repeat' split) <;> simp
@[simp] theorem formKept_fillCache (n key : Nat) (data : List Byte) (poison : Bool) (s : State) (s₀ : State) :
    FormKept s₀ (fillCache n key data poison s) ↔ FormKept s₀ s ∨ FormElse s₀ (fillCache n key data poison s) := kept (fillCache_kept n key data poison s) s₀
@[simp] theorem formKept_fillOne (data : List Byte) (poison : Bool) (r : Req) (s : State) (s₀ : State) :
    FormKept s₀ (fillOne data poison r s) ↔ FormKept s₀ s ∨ FormElse s₀ (fillOne data poison r s) := kept (by unfold fillOne; (repeat' split) <;> simp_all) s₀
@[simp] theorem formKept_fillMsgS (k : Nat) (s : State) (s₀ : State) :
    FormKept s₀ (fillMsgS k s) ↔ FormKept s₀ s ∨ FormElse s₀ (fillMsgS k s) := kept (by unfold fillMsgS; (repeat' split) <;> simp_all) s₀
theorem outKept_execFill (k : Nat) (s : State) : OutKept s (execFill k s) := by unfold execFill; simp
@[simp] theorem formKept_ackXfer (n xid k : Nat) (s : State) (s₀ : State) :
    FormKept s₀ (ackXfer n xid k s) ↔ FormKept s₀ s ∨ FormElse s₀ (ackXfer n xid k s) := kept (by unfold ackXfer; (repeat' split) <;> simp_all) s₀
@[simp] theorem formKept_wrAckS (k : Nat) (s : State) (s₀ : State) :
    FormKept s₀ (wrAckS k s) ↔ FormKept s₀ s ∨ FormElse s₀ (wrAckS k s) := kept (by unfold wrAckS; (repeat' split) <;> simp_all) s₀
theorem outKept_execWrAck (k : Nat) (s : State) : OutKept s (execWrAck k s) := by unfold execWrAck; simp
@[simp] theorem formKept_redAckS (k : Nat) (s : State) (s₀ : State) :
    FormKept s₀ (redAckS k s) ↔ FormKept s₀ s ∨ FormElse s₀ (redAckS k s) := kept (by unfold redAckS; (repeat' split) <;> simp_all) s₀
theorem outKept_execRedAck (k : Nat) (s : State) : OutKept s (execRedAck k s) := by unfold execRedAck; simp
@[simp] theorem formKept_semOkS (k : Nat) (s : State) (s₀ : State) :
    FormKept s₀ (semOkS k s) ↔ FormKept s₀ s ∨ FormElse s₀ (semOkS k s) := kept (by unfold semOkS; (repeat' split) <;> simp_all) s₀
theorem outKept_execSemOk (k : Nat) (s : State) : OutKept s (execSemOk k s) := by unfold execSemOk; simp
@[simp] theorem formKept_semRetryS (k : Nat) (s : State) (s₀ : State) :
    FormKept s₀ (semRetryS k s) ↔ FormKept s₀ s ∨ FormElse s₀ (semRetryS k s) := kept (by unfold semRetryS; (repeat' split) <;> simp_all) s₀
theorem outKept_execSemRetry (k : Nat) (s : State) : OutKept s (execSemRetry k s) := by unfold execSemRetry; simp
@[simp] theorem formKept_retryS (k : Nat) (s : State) (s₀ : State) :
    FormKept s₀ (retryS k s) ↔ FormKept s₀ s ∨ FormElse s₀ (retryS k s) := kept (by unfold retryS; (repeat' split) <;> (try simp) <;> (repeat' (first | (apply FormKept.foldl; intro _ _) | split)) <;> simp_all) s₀
theorem outKept_execRetry (k : Nat) (s : State) : OutKept s (execRetry k s) := by unfold execRetry; simp

/-! ### Riberex -/

theorem expireStuck_kept (s : State) : FormKept s (expireStuck s).2 := by
  unfold expireStuck
  refine formKept_fold_snd _ _ (0, s) (fun a q => ?_)
  split <;> simp
@[simp] theorem formKept_expireStuck (s : State) (s₀ : State) :
    FormKept s₀ (expireStuck s).2 ↔ FormKept s₀ s ∨ FormElse s₀ (expireStuck s).2 := kept (expireStuck_kept s) s₀
@[simp] theorem formKept_portLeave (p st cause : Nat) (s : State) (s₀ : State) :
    FormKept s₀ (portLeave p st cause s) ↔ FormKept s₀ s ∨ FormElse s₀ (portLeave p st cause s) := kept (by unfold portLeave; simp) s₀
@[simp] theorem formKept_portDown (p cause : Nat) (s : State) (s₀ : State) :
    FormKept s₀ (portDown p cause s) ↔ FormKept s₀ s ∨ FormElse s₀ (portDown p cause s) := kept (by unfold portDown; simp) s₀
@[simp] theorem formKept_ackFlits (p ack : Nat) (s : State) (s₀ : State) :
    FormKept s₀ (ackFlits p ack s) ↔ FormKept s₀ s ∨ FormElse s₀ (ackFlits p ack s) := kept (by exact ⟨id, id⟩) s₀
@[simp] theorem formKept_nakPort (p ack : Nat) (s : State) (s₀ : State) :
    FormKept s₀ (nakPort p ack s) ↔ FormKept s₀ s ∨ FormElse s₀ (nakPort p ack s) := kept (by unfold nakPort; simp) s₀
@[simp] theorem formKept_takeFlit (p : Nat) (f : RFlit) (s : State) (s₀ : State) :
    FormKept s₀ (takeFlit p f s) ↔ FormKept s₀ s ∨ FormElse s₀ (takeFlit p f s) := kept (by unfold takeFlit; simp) s₀
@[simp] theorem formKept_heard (p : Nat) (s : State) (s₀ : State) :
    FormKept s₀ (heard p s) ↔ FormKept s₀ s ∨ FormElse s₀ (heard p s) := kept (by exact ⟨id, id⟩) s₀
@[simp] theorem formKept_flitGo (p : Nat) (f : RFlit) (s : State) (s₀ : State) :
    FormKept s₀ (flitGo p f s) ↔ FormKept s₀ s ∨ FormElse s₀ (flitGo p f s) := kept (by unfold flitGo; simp) s₀
@[simp] theorem formKept_flitS (p : Nat) (f : RFlit) (s : State) (s₀ : State) :
    FormKept s₀ (flitS p f s) ↔ FormKept s₀ s ∨ FormElse s₀ (flitS p f s) := kept (by unfold flitS; simp) s₀
theorem outKept_execRbxFlit (port : Nat) (f : RFlit) (s : State) : OutKept s (execRbxFlit port f s) := by unfold execRbxFlit; simp
theorem outKept_execRbxNak (port ackSeq : Nat) (s : State) : OutKept s (execRbxNak port ackSeq s) := by unfold execRbxNak; simp
theorem outKept_execIdleTimeout (port : Nat) (s : State) : OutKept s (execIdleTimeout port s) := by unfold execIdleTimeout; simp
theorem outKept_execRbxLossOfLock (port _lane : Nat) (s : State) : OutKept s (execRbxLossOfLock port _lane s) := by unfold execRbxLossOfLock; simp
@[simp] theorem formKept_trainFail (p cause lanes peer : Nat) (s : State) (s₀ : State) :
    FormKept s₀ (trainFail p cause lanes peer s) ↔ FormKept s₀ s ∨ FormElse s₀ (trainFail p cause lanes peer s) := kept (by exact ⟨id, id⟩) s₀
@[simp] theorem formKept_portUpS (p lanes peer us : Nat) (s : State) (s₀ : State) :
    FormKept s₀ (portUpS p lanes peer us s) ↔ FormKept s₀ s ∨ FormElse s₀ (portUpS p lanes peer us s) := kept (by unfold portUpS; simp) s₀
theorem outKept_execRbxPortUp (port lanesOk peer us : Nat) (s : State) : OutKept s (execRbxPortUp port lanesOk peer us s) := by unfold execRbxPortUp; simp
@[simp] theorem formKept_retrainWrite (p : Nat) (s : State) (s₀ : State) :
    FormKept s₀ (retrainWrite p s) ↔ FormKept s₀ s ∨ FormElse s₀ (retrainWrite p s) := kept (by unfold retrainWrite; simp) s₀
@[simp] theorem formKept_putOwin (n : Nat) (x : OWin) (s : State) (s₀ : State) :
    FormKept s₀ (putOwin n x s) ↔ FormKept s₀ s ∨ FormElse s₀ (putOwin n x s) := kept (by exact ⟨id, id⟩) s₀
@[simp] theorem formKept_owinBaseWrite (n v : Nat) (s : State) (s₀ : State) :
    FormKept s₀ (owinBaseWrite n v s) ↔ FormKept s₀ s ∨ FormElse s₀ (owinBaseWrite n v s) := kept (by unfold owinBaseWrite; simp) s₀
theorem freeRx_kept (vc n : Nat) (s : State) : FormKept s (freeRx vc n s) := by
  rw [freeRx_ports vc n s]
  simp
@[simp] theorem formKept_freeRx (vc n : Nat) (s : State) (s₀ : State) :
    FormKept s₀ (freeRx vc n s) ↔ FormKept s₀ s ∨ FormElse s₀ (freeRx vc n s) := kept (freeRx_kept vc n s) s₀
@[simp] theorem formKept_countRefused (w st : Nat) (s : State) (s₀ : State) :
    FormKept s₀ (countRefused w st s) ↔ FormKept s₀ s ∨ FormElse s₀ (countRefused w st s) := kept (by unfold countRefused; simp) s₀
@[simp] theorem formKept_inbBegin (p : Pkt) (c a : Nat) (s : State) (s₀ : State) :
    FormKept s₀ (inbBegin p c a s) ↔ FormKept s₀ s ∨ FormElse s₀ (inbBegin p c a s) := kept (by unfold inbBegin; simp) s₀
@[simp] theorem formKept_inbound (p : Pkt) (s : State) (s₀ : State) :
    FormKept s₀ (inbound p s) ↔ FormKept s₀ s ∨ FormElse s₀ (inbound p s) := kept (by unfold inbound; dsimp only; (repeat' split) <;> simp) s₀
@[simp] theorem formKept_inbIf (ty : Nat) (f : Pkt → State → State) (p : Pkt) (s : State) (h_f : ∀ a0 a1, FormKept a1 (f a0 a1)) (s₀ : State) :
    FormKept s₀ (inbIf ty f p s) ↔ FormKept s₀ s ∨ FormElse s₀ (inbIf ty f p s) := kept (by unfold inbIf; (repeat' split) <;> simp_all) s₀
@[simp] theorem formKept_writePktS (p : Pkt) (s : State) (s₀ : State) :
    FormKept s₀ (writePktS p s) ↔ FormKept s₀ s ∨ FormElse s₀ (writePktS p s) := kept (by unfold writePktS; simp) s₀
theorem outKept_execRbxWrite (p : Pkt) (s : State) : OutKept s (execRbxWrite p s) := by unfold execRbxWrite; simp
theorem outKept_execRbxRead (p : Pkt) (s : State) : OutKept s (execRbxRead p s) := by unfold execRbxRead; simp
theorem outKept_execRbxRed (p : Pkt) (s : State) : OutKept s (execRbxRed p s) := by unfold execRbxRed; simp
theorem outKept_execRbxSemAdd (p : Pkt) (s : State) : OutKept s (execRbxSemAdd p s) := by unfold execRbxSemAdd; simp
@[simp] theorem formKept_barrierS (p : Pkt) (s : State) (s₀ : State) :
    FormKept s₀ (barrierS p s) ↔ FormKept s₀ s ∨ FormElse s₀ (barrierS p s) := kept (by unfold barrierS; dsimp only; (repeat' split) <;> simp) s₀
theorem outKept_execRbxBarrier (p : Pkt) (s : State) : OutKept s (execRbxBarrier p s) := by unfold execRbxBarrier; simp
@[simp] theorem formKept_lateResponse (s : State) (s₀ : State) :
    FormKept s₀ (lateResponse s) ↔ FormKept s₀ s ∨ FormElse s₀ (lateResponse s) := kept (by exact ⟨id, id⟩) s₀
@[simp] theorem formKept_ackRemote (q : RReq) (s : State) (s₀ : State) :
    FormKept s₀ (ackRemote q s) ↔ FormKept s₀ s ∨ FormElse s₀ (ackRemote q s) := kept (by unfold ackRemote; (repeat' split) <;> simp_all) s₀
@[simp] theorem formKept_readRemote (q : RReq) (data : List Byte) (s : State) (s₀ : State) :
    FormKept s₀ (readRemote q data s) ↔ FormKept s₀ s ∨ FormElse s₀ (readRemote q data s) := kept (by unfold readRemote; (repeat' split) <;> simp_all) s₀
@[simp] theorem formKept_response (p : Pkt) (s : State) (s₀ : State) :
    FormKept s₀ (response p s) ↔ FormKept s₀ s ∨ FormElse s₀ (response p s) := kept (by unfold response; dsimp only; (repeat' split) <;> simp) s₀
theorem outKept_execRbxAck (p : Pkt) (s : State) : OutKept s (execRbxAck p s) := by unfold execRbxAck; simp
theorem outKept_execRbxReadData (p : Pkt) (s : State) : OutKept s (execRbxReadData p s) := by unfold execRbxReadData; simp
@[simp] theorem formKept_expiryS (tag : Nat) (s : State) (s₀ : State) :
    FormKept s₀ (expiryS tag s) ↔ FormKept s₀ s ∨ FormElse s₀ (expiryS tag s) := kept (by unfold expiryS; (repeat' split) <;> simp_all) s₀
theorem outKept_execRequestExpiry (tag : Nat) (s : State) : OutKept s (execRequestExpiry tag s) := by unfold execRequestExpiry; simp

/-! ### Seams -/

@[simp] theorem formKept_setBundle (l b : Nat) (f : Bundle → Bundle) (s : State) (s₀ : State) :
    FormKept s₀ (setBundle l b f s) ↔ FormKept s₀ s ∨ FormElse s₀ (setBundle l b f s) := kept (by exact ⟨id, id⟩) s₀
@[simp] theorem formKept_countBundles (l : Nat) (s : State) (s₀ : State) :
    FormKept s₀ (countBundles l s) ↔ FormKept s₀ s ∨ FormElse s₀ (countBundles l s) := kept (by unfold countBundles; simp) s₀
@[simp] theorem formKept_linkWatch (l : Nat) (s : State) (s₀ : State) :
    FormKept s₀ (linkWatch l s) ↔ FormKept s₀ s ∨ FormElse s₀ (linkWatch l s) := kept (by unfold linkWatch; simp) s₀
@[simp] theorem formKept_degrade (l b st : Nat) (f : Bundle → Bundle) (s : State) (s₀ : State) :
    FormKept s₀ (degrade l b st f s) ↔ FormKept s₀ s ∨ FormElse s₀ (degrade l b st f s) := kept (by unfold degrade; simp) s₀
@[simp] theorem formKept_laneLossS (l b lane : Nat) (s : State) (s₀ : State) :
    FormKept s₀ (laneLossS l b lane s) ↔ FormKept s₀ s ∨ FormElse s₀ (laneLossS l b lane s) := kept (by unfold laneLossS; simp) s₀
theorem outKept_execSeamLaneLoss (link bundle lane : Nat) (s : State) : OutKept s (execSeamLaneLoss link bundle lane s) := by unfold execSeamLaneLoss; simp
@[simp] theorem formKept_seamRetryS (l b : Nat) (s : State) (s₀ : State) :
    FormKept s₀ (seamRetryS l b s) ↔ FormKept s₀ s ∨ FormElse s₀ (seamRetryS l b s) := kept (by unfold seamRetryS; simp) s₀
theorem outKept_execSeamRetry (link bundle : Nat) (s : State) : OutKept s (execSeamRetry link bundle s) := by unfold execSeamRetry; simp
@[simp] theorem formKept_worstLane (l : Nat) (s : State) (s₀ : State) :
    FormKept s₀ (worstLane l s) ↔ FormKept s₀ s ∨ FormElse s₀ (worstLane l s) := kept (by unfold worstLane; simp) s₀
@[simp] theorem formKept_pendLink (l : Nat) (s : State) (s₀ : State) :
    FormKept s₀ (pendLink l s) ↔ FormKept s₀ s ∨ FormElse s₀ (pendLink l s) := kept (by unfold pendLink; simp) s₀
@[simp] theorem formKept_addCorrected (l : Nat) (cs : List Nat) (s : State) (s₀ : State) :
    FormKept s₀ (addCorrected l cs s) ↔ FormKept s₀ s ∨ FormElse s₀ (addCorrected l cs s) := kept (by unfold addCorrected; simp) s₀
@[simp] theorem formKept_loadWindowS (l : Nat) (w : LoadIn) (s : State) (s₀ : State) :
    FormKept s₀ (loadWindowS l w s) ↔ FormKept s₀ s ∨ FormElse s₀ (loadWindowS l w s) := kept (by unfold loadWindowS; simp) s₀
theorem outKept_execLoadWindow (link : Nat) (w : LoadIn) (s : State) : OutKept s (execLoadWindow link w s) := by unfold execLoadWindow; simp
@[simp] theorem formKept_retrainLink (l : Nat) (t : TrainIn) (s : State) (s₀ : State) :
    FormKept s₀ (retrainLink l t s) ↔ FormKept s₀ s ∨ FormElse s₀ (retrainLink l t s) := kept (by unfold retrainLink; simp) s₀
@[simp] theorem formKept_releaseHeld (l : Nat) (s : State) (s₀ : State) :
    FormKept s₀ (releaseHeld l s) ↔ FormKept s₀ s ∨ FormElse s₀ (releaseHeld l s) := kept (by unfold releaseHeld; (repeat' split) <;> (try simp) <;> (repeat' (first | (apply FormKept.foldl; intro _ _) | split)) <;> simp_all) s₀
@[simp] theorem formKept_retrainGo (l : Nat) (t : TrainIn) (s : State) (s₀ : State) :
    FormKept s₀ (retrainGo l t s) ↔ FormKept s₀ s ∨ FormElse s₀ (retrainGo l t s) := kept (by unfold retrainGo; simp) s₀
@[simp] theorem formKept_retrainingS (l : Nat) (t : TrainIn) (s : State) (s₀ : State) :
    FormKept s₀ (retrainingS l t s) ↔ FormKept s₀ s ∨ FormElse s₀ (retrainingS l t s) := kept (by unfold retrainingS; simp) s₀
theorem outKept_execRetrainingWindow (link : Nat) (t : TrainIn) (s : State) : OutKept s (execRetrainingWindow link t s) := by unfold execRetrainingWindow; simp
@[simp] theorem formKept_homeGone (h : HReq) (s : State) (s₀ : State) :
    FormKept s₀ (homeGone h s) ↔ FormKept s₀ s ∨ FormElse s₀ (homeGone h s) := kept (by unfold homeGone; (repeat' split) <;> simp_all) s₀
@[simp] theorem formKept_emptyHomes (p : Nat) (s : State) (s₀ : State) :
    FormKept s₀ (emptyHomes p s) ↔ FormKept s₀ s ∨ FormElse s₀ (emptyHomes p s) := kept (by exact ⟨id, id⟩) s₀
@[simp] theorem formKept_dropHomed (p : Nat) (s : State) (s₀ : State) :
    FormKept s₀ (dropHomed p s) ↔ FormKept s₀ s ∨ FormElse s₀ (dropHomed p s) := kept (by exact ⟨id, id⟩) s₀
@[simp] theorem formKept_ackFor (p : Nat) (s : State) (s₀ : State) :
    FormKept s₀ (ackFor p s) ↔ FormKept s₀ s ∨ FormElse s₀ (ackFor p s) := kept (by unfold ackFor; simp) s₀
@[simp] theorem formKept_clearSharers (p key : Nat) (s : State) (s₀ : State) :
    FormKept s₀ (clearSharers p key s) ↔ FormKept s₀ s ∨ FormElse s₀ (clearSharers p key s) := kept (by unfold clearSharers; simp) s₀
@[simp] theorem formKept_forgetPart (p : Nat) (s : State) (s₀ : State) :
    FormKept s₀ (forgetPart p s) ↔ FormKept s₀ s ∨ FormElse s₀ (forgetPart p s) := kept (by unfold forgetPart; simp) s₀
@[simp] theorem formKept_setDies (p st : Nat) (s : State) (s₀ : State) :
    FormKept s₀ (setDies p st s) ↔ FormKept s₀ s ∨ FormElse s₀ (setDies p st s) := kept (by exact ⟨id, id⟩) s₀
@[simp] theorem formKept_loseStations (p : Nat) (s : State) (s₀ : State) :
    FormKept s₀ (loseStations p s) ↔ FormKept s₀ s ∨ FormElse s₀ (loseStations p s) := kept (by unfold loseStations; simp) s₀
@[simp] theorem formKept_regainStations (p us : Nat) (s : State) (s₀ : State) :
    FormKept s₀ (regainStations p us s) ↔ FormKept s₀ s ∨ FormElse s₀ (regainStations p us s) := kept (by unfold regainStations; simp) s₀
@[simp] theorem formKept_fenceS (p : Nat) (s : State) (s₀ : State) :
    FormKept s₀ (fenceS p s) ↔ FormKept s₀ s ∨ FormElse s₀ (fenceS p s) := kept (by unfold fenceS; simp) s₀
theorem outKept_execPartitionFenced (part : Nat) (s : State) : OutKept s (execPartitionFenced part s) := by unfold execPartitionFenced; simp
@[simp] theorem formKept_clockLossS (d : Nat) (s : State) (s₀ : State) :
    FormKept s₀ (clockLossS d s) ↔ FormKept s₀ s ∨ FormElse s₀ (clockLossS d s) := kept (by unfold clockLossS; (repeat' split) <;> simp_all) s₀
theorem outKept_execDieClockLoss (die : Nat) (s : State) : OutKept s (execDieClockLoss die s) := by unfold execDieClockLoss; simp
@[simp] theorem formKept_countDamage (p : Nat) (f : State → State) (s : State) (h : FormKept s (f s)) (s₀ : State) :
    FormKept s₀ (countDamage p f s) ↔ FormKept s₀ s ∨ FormElse s₀ (countDamage p f s) := kept (by unfold countDamage; simp [h]) s₀
@[simp] theorem formKept_poisonGran (k g : Nat) (q : Nat → Bool) (s : State) (s₀ : State) :
    FormKept s₀ (poisonGran k g q s) ↔ FormKept s₀ s ∨ FormElse s₀ (poisonGran k g q s) := kept (by unfold poisonGran; simp) s₀
theorem crustReturnS_kept (d : Nat) (s : State) : FormKept s (crustReturnS d s) := by
  unfold crustReturnS
  split
  · exact .refl s
  · dsimp only
    split
    · exact .refl s
    · exact (formKept_countDamage _ _ _ (.foldl (fun s e => .foldl (fun s g => by simp) _ _) _ _) _).2 (.inl (by simp))
@[simp] theorem formKept_crustReturnS (d : Nat) (s : State) (s₀ : State) :
    FormKept s₀ (crustReturnS d s) ↔ FormKept s₀ s ∨ FormElse s₀ (crustReturnS d s) := kept (crustReturnS_kept d s) s₀
theorem outKept_execCrustClockReturn (die : Nat) (s : State) : OutKept s (execCrustClockReturn die s) := by unfold execCrustClockReturn; simp
@[simp] theorem formKept_resendS (k : Nat) (s : State) (s₀ : State) :
    FormKept s₀ (resendS k s) ↔ FormKept s₀ s ∨ FormElse s₀ (resendS k s) := kept (by unfold resendS; (repeat' split) <;> simp_all) s₀
theorem outKept_execHomeUnavailableResend (k : Nat) (s : State) : OutKept s (execHomeUnavailableResend k s) := by unfold execHomeUnavailableResend; simp

end Sys2Proof.Machine
end

section
/-! PROOF. What keeps device and host memory in canonical form: Crumb, the rungs, the registers and the pins. -/

set_option maxRecDepth 4000

namespace Sys2Proof.Machine

/-! ### Crumb -/

@[simp] theorem formKept_sampleToHost (q : RungReq) (es : List (List Byte)) (s : State) (s₀ : State) :
    FormKept s₀ (sampleToHost q es s) ↔ FormKept s₀ s ∨ FormElse s₀ (sampleToHost q es s) := kept (by unfold sampleToHost; simp) s₀
@[simp] theorem formKept_sampleToRegion (q : RungReq) (es : List (List Byte)) (s : State) (s₀ : State) :
    FormKept s₀ (sampleToRegion q es s) ↔ FormKept s₀ s ∨ FormElse s₀ (sampleToRegion q es s) := kept (by unfold sampleToRegion; simp) s₀
@[simp] theorem formKept_takeSample (q : RungReq) (s : State) (s₀ : State) :
    FormKept s₀ (takeSample q s) ↔ FormKept s₀ s ∨ FormElse s₀ (takeSample q s) := kept (by unfold takeSample; simp) s₀
@[simp] theorem formKept_crumbReadS (u : Queue) (c : TakenCmd) (s : State) (s₀ : State) :
    FormKept s₀ (crumbReadS u c s) ↔ FormKept s₀ s ∨ FormElse s₀ (crumbReadS u c s) := kept (by unfold crumbReadS; (repeat' split) <;> simp_all) s₀
theorem outKept_execCrumbRead (q seq : Nat) (s : State) : OutKept s (execCrumbRead q seq s) := by unfold execCrumbRead; simp
@[simp] theorem formKept_crashBufferS (u : Queue) (c : TakenCmd) (s : State) (s₀ : State) :
    FormKept s₀ (crashBufferS u c s) ↔ FormKept s₀ s ∨ FormElse s₀ (crashBufferS u c s) := kept (by exact ⟨id, id⟩) s₀
theorem outKept_execCrashBufferSet (q seq : Nat) (s : State) : OutKept s (execCrashBufferSet q seq s) := by unfold execCrashBufferSet; simp

/-! ### Tick -/


/-! ### Rungs -/

@[simp] theorem formKept_killRung (c : Nat) (s : State) (s₀ : State) :
    FormKept s₀ (killRung c s) ↔ FormKept s₀ s ∨ FormElse s₀ (killRung c s) := kept (by unfold killRung; simp) s₀
theorem outKept_execRung1 (ctx : Nat) (s : State) : OutKept s (execRung1 ctx s) := by unfold execRung1; simp
@[simp] theorem formKept_takeCtx (c cause n : Nat) (s : State) (s₀ : State) :
    FormKept s₀ (takeCtx c cause n s) ↔ FormKept s₀ s ∨ FormElse s₀ (takeCtx c cause n s) := kept (by unfold takeCtx; (repeat' split) <;> simp_all) s₀
@[simp] theorem formKept_replyRung (q : RungReq) (s : State) (s₀ : State) :
    FormKept s₀ (replyRung q s) ↔ FormKept s₀ s ∨ FormElse s₀ (replyRung q s) := kept (by unfold replyRung; simp) s₀
@[simp] theorem formKept_rung2S (t : Nat) (s : State) (s₀ : State) :
    FormKept s₀ (rung2S t s) ↔ FormKept s₀ s ∨ FormElse s₀ (rung2S t s) := kept (by unfold rung2S; (repeat' split) <;> (try simp) <;> (repeat' (first | (apply FormKept.foldl; intro _ _) | split)) <;> simp_all) s₀
theorem outKept_execRung2 (stn : Nat) (s : State) : OutKept s (execRung2 stn s) := by unfold execRung2; simp
@[simp] theorem formKept_markWithdrawn (k : Nat) (s : State) (s₀ : State) :
    FormKept s₀ (markWithdrawn k s) ↔ FormKept s₀ s ∨ FormElse s₀ (markWithdrawn k s) := kept (by unfold markWithdrawn; (repeat' split) <;> (try simp) <;> (repeat' (first | (apply FormKept.foldl; intro _ _) | split)) <;> simp_all) s₀
@[simp] theorem formKept_mapOutGo (k : Nat) (s : State) (s₀ : State) :
    FormKept s₀ (mapOutGo k s) ↔ FormKept s₀ s ∨ FormElse s₀ (mapOutGo k s) := kept (by unfold mapOutGo; simp) s₀
theorem memoryLoss_kept (k : Nat) (s0 : State) (s : State) : FormKept s (memoryLoss k s0 s) := by
  exact .foldl (fun s e => by dsimp only; split <;> simp) _ _
@[simp] theorem formKept_memoryLoss (k : Nat) (s0 : State) (s : State) (s₀ : State) :
    FormKept s₀ (memoryLoss k s0 s) ↔ FormKept s₀ s ∨ FormElse s₀ (memoryLoss k s0 s) := kept (memoryLoss_kept k s0 s) s₀
@[simp] theorem formKept_mapOutStack (k : Nat) (s : State) (s₀ : State) :
    FormKept s₀ (mapOutStack k s) ↔ FormKept s₀ s ∨ FormElse s₀ (mapOutStack k s) := kept (by unfold mapOutStack; simp) s₀
@[simp] theorem formKept_moveRegion (p : Nat) (s : State) (s₀ : State) :
    FormKept s₀ (moveRegion p s) ↔ FormKept s₀ s ∨ FormElse s₀ (moveRegion p s) := kept (by unfold moveRegion; (repeat' split) <;> simp_all) s₀
@[simp] theorem formKept_poisonDirty (k : Nat) (s : State) (s₀ : State) :
    FormKept s₀ (poisonDirty k s) ↔ FormKept s₀ s ∨ FormElse s₀ (poisonDirty k s) := kept (by unfold poisonDirty; simp) s₀
@[simp] theorem formKept_clearHomes (p : Nat) (s : State) (s₀ : State) :
    FormKept s₀ (clearHomes p s) ↔ FormKept s₀ s ∨ FormElse s₀ (clearHomes p s) := kept (by exact ⟨id, id⟩) s₀
theorem rung3Go_kept (p : Nat) (t : TrainIn) (q : RungReq) (s : State) : FormKept s (rung3Go p t q s) := by
  unfold rung3Go
  dsimp only
  suffices h : FormKept s _ from ⟨h.1, h.2⟩
  refine FormKept.trans ?_ (.foldl (fun s _ => by simp) _ _)
  refine FormKept.trans ?_ (.foldl (fun s _ => by simp) _ _)
  refine FormKept.trans ?_ (.foldl (fun s _ => by simp) _ _)
  rw [formKept_clearHomes]
  refine .inl (FormKept.trans ?_ (.foldl (fun s _ => by simp) _ _))
  refine FormKept.trans ?_ (.foldl (fun s _ => by split <;> simp) _ _)
  refine FormKept.trans ?_ (.foldl (fun s _ => by simp) _ _)
  rw [formKept_countDamage _ _ _ (.foldl (fun s _ => by simp) _ _)]
  simp
@[simp] theorem formKept_rung3Go (p : Nat) (t : TrainIn) (q : RungReq) (s : State) (s₀ : State) :
    FormKept s₀ (rung3Go p t q s) ↔ FormKept s₀ s ∨ FormElse s₀ (rung3Go p t q s) := kept (rung3Go_kept p t q s) s₀
@[simp] theorem formKept_rung3S (p : Nat) (t : TrainIn) (s : State) (s₀ : State) :
    FormKept s₀ (rung3S p t s) ↔ FormKept s₀ s ∨ FormElse s₀ (rung3S p t s) := kept (by unfold rung3S; (repeat' split) <;> simp_all) s₀
theorem outKept_execRung3 (part : Nat) (t : TrainIn) (s : State) : OutKept s (execRung3 part t s) := by unfold execRung3; simp
@[simp] theorem formKept_restoredS (p : Nat) (s : State) (s₀ : State) :
    FormKept s₀ (restoredS p s) ↔ FormKept s₀ s ∨ FormElse s₀ (restoredS p s) := kept (by unfold restoredS; (repeat' split) <;> simp_all) s₀
theorem outKept_execPartitionRestored (part : Nat) (s : State) : OutKept s (execPartitionRestored part s) := by unfold execPartitionRestored; simp
theorem discardDirty_kept (s : State) : FormKept s (discardDirty s) :=
  ⟨id, fun w => (HostMem.wf_iff _).2 ⟨((HostMem.wf_iff _).1 w).1, rfl⟩⟩
@[simp] theorem formKept_discardDirty (s : State) (s₀ : State) :
    FormKept s₀ (discardDirty s) ↔ FormKept s₀ s ∨ FormElse s₀ (discardDirty s) := kept (discardDirty_kept s) s₀
@[simp] theorem formKept_holdModule (s : State) (s₀ : State) :
    FormKept s₀ (holdModule s) ↔ FormKept s₀ s ∨ FormElse s₀ (holdModule s) := kept (by exact ⟨id, id⟩) s₀
@[simp] theorem formKept_rung5S (s : State) (s₀ : State) :
    FormKept s₀ (rung5S s) ↔ FormKept s₀ s ∨ FormElse s₀ (rung5S s) := kept (by unfold rung5S; (repeat' split) <;> simp_all) s₀
theorem outKept_execRung5 (s : State) : OutKept s (execRung5 s) := by unfold execRung5; simp
@[simp] theorem formKept_escalatedS (r t hung : Nat) (s : State) (s₀ : State) :
    FormKept s₀ (escalatedS r t hung s) ↔ FormKept s₀ s ∨ FormElse s₀ (escalatedS r t hung s) := kept (by unfold escalatedS; (repeat' split) <;> simp_all) s₀
theorem outKept_execRungEscalated (rung target hung : Nat) (s : State) : OutKept s (execRungEscalated rung target hung s) := by unfold execRungEscalated; simp
@[simp] theorem formKept_resetS (u : Queue) (c : TakenCmd) (s : State) (s₀ : State) :
    FormKept s₀ (resetS u c s) ↔ FormKept s₀ s ∨ FormElse s₀ (resetS u c s) := kept (by unfold resetS; simp) s₀
theorem outKept_execReset (q seq : Nat) (s : State) : OutKept s (execReset q seq s) := by unfold execReset; simp
@[simp] theorem formKept_wdRestS (n : Nat) (s : State) (s₀ : State) :
    FormKept s₀ (wdRestS n s) ↔ FormKept s₀ s ∨ FormElse s₀ (wdRestS n s) := kept (by unfold wdRestS; (repeat' split) <;> simp_all) s₀
theorem outKept_execWdRest (stn : Nat) (s : State) : OutKept s (execWdRest stn s) := by unfold execWdRest; simp
@[simp] theorem formKept_wdCommandS (q : Nat) (s : State) (s₀ : State) :
    FormKept s₀ (wdCommandS q s) ↔ FormKept s₀ s ∨ FormElse s₀ (wdCommandS q s) := kept (by unfold wdCommandS; (repeat' split) <;> simp_all) s₀
theorem outKept_execWdCommand (q : Nat) (s : State) : OutKept s (execWdCommand q s) := by unfold execWdCommand; simp
@[simp] theorem formKept_wdHomeS (k line : Nat) (s : State) (s₀ : State) :
    FormKept s₀ (wdHomeS k line s) ↔ FormKept s₀ s ∨ FormElse s₀ (wdHomeS k line s) := kept (by unfold wdHomeS; simp) s₀
theorem outKept_execWdHome (stack line : Nat) (s : State) : OutKept s (execWdHome stack line s) := by unfold execWdHome; simp
theorem outKept_execControlComplexWatchdog (cplx : Nat) (s : State) : OutKept s (execControlComplexWatchdog cplx s) := by unfold execControlComplexWatchdog; simp
theorem outKept_execPowerSequencerWatchdog (s : State) : OutKept s (execPowerSequencerWatchdog s) := by unfold execPowerSequencerWatchdog; (repeat' split) <;> simp_all
@[simp] theorem formKept_stationUeS (n : Nat) (line : Option (Nat × Nat)) (s : State) (s₀ : State) :
    FormKept s₀ (stationUeS n line s) ↔ FormKept s₀ s ∨ FormElse s₀ (stationUeS n line s) := kept (by unfold stationUeS; (repeat' split) <;> simp_all) s₀
theorem outKept_execStationUe (stn : Nat) (cacheLine : Option (Nat × Nat)) (s : State) : OutKept s (execStationUe stn cacheLine s) := by unfold execStationUe; simp
@[simp] theorem formKept_fatalS (die source : Nat) (s : State) (s₀ : State) :
    FormKept s₀ (fatalS die source s) ↔ FormKept s₀ s ∨ FormElse s₀ (fatalS die source s) := kept (by unfold fatalS; simp) s₀
theorem outKept_execFatalError (die source : Nat) (s : State) : OutKept s (execFatalError die source s) := by unfold execFatalError; simp

/-! ### Registers -/

@[simp] theorem formKept_unmaskVector (v : Nat) (s : State) (s₀ : State) :
    FormKept s₀ (unmaskVector v s) ↔ FormKept s₀ s ∨ FormElse s₀ (unmaskVector v s) := kept (by unfold unmaskVector; simp) s₀
@[simp] theorem formKept_unmaskFunction (s : State) (s₀ : State) :
    FormKept s₀ (unmaskFunction s) ↔ FormKept s₀ s ∨ FormElse s₀ (unmaskFunction s) := kept (by exact ⟨id, id⟩) s₀
@[simp] theorem formKept_tableWrite (i v : Nat) (s : State) (s₀ : State) :
    FormKept s₀ (tableWrite i v s) ↔ FormKept s₀ s ∨ FormElse s₀ (tableWrite i v s) := kept (by unfold tableWrite; simp) s₀
@[simp] theorem formKept_idWrite (o : Nat) (c : Cov) (v : Nat) (s : State) (s₀ : State) :
    FormKept s₀ (idWrite o c v s) ↔ FormKept s₀ s ∨ FormElse s₀ (idWrite o c v s) := kept (by unfold idWrite; simp) s₀
@[simp] theorem formKept_q0Restart (s : State) (s₀ : State) :
    FormKept s₀ (q0Restart s) ↔ FormKept s₀ s ∨ FormElse s₀ (q0Restart s) := kept (by unfold q0Restart; (repeat' split) <;> simp_all) s₀
@[simp] theorem formKept_cmdClear (o : Nat) (c : Cov) (s : State) (s₀ : State) :
    FormKept s₀ (cmdClear o c s) ↔ FormKept s₀ s ∨ FormElse s₀ (cmdClear o c s) := kept (by unfold cmdClear; simp) s₀
@[simp] theorem formKept_xtClear (o : Nat) (c : Cov) (s : State) (s₀ : State) :
    FormKept s₀ (xtClear o c s) ↔ FormKept s₀ s ∨ FormElse s₀ (xtClear o c s) := kept (by unfold xtClear; simp) s₀
@[simp] theorem formKept_seamClear (o : Nat) (c : Cov) (s : State) (s₀ : State) :
    FormKept s₀ (seamClear o c s) ↔ FormKept s₀ s ∨ FormElse s₀ (seamClear o c s) := kept (by unfold seamClear; simp) s₀
@[simp] theorem formKept_owinWrite (n r w : Nat) (s : State) (s₀ : State) :
    FormKept s₀ (owinWrite n r w s) ↔ FormKept s₀ s ∨ FormElse s₀ (owinWrite n r w s) := kept (by unfold owinWrite; simp) s₀
@[simp] theorem formKept_rbxClear (o : Nat) (c : Cov) (s : State) (s₀ : State) :
    FormKept s₀ (rbxClear o c s) ↔ FormKept s₀ s ∨ FormElse s₀ (rbxClear o c s) := kept (by unfold rbxClear; simp) s₀
@[simp] theorem formKept_pwrWrite (o : Nat) (c : Cov) (v : Nat) (s : State) (s₀ : State) :
    FormKept s₀ (pwrWrite o c v s) ↔ FormKept s₀ s ∨ FormElse s₀ (pwrWrite o c v s) := kept (by unfold pwrWrite; simp) s₀
@[simp] theorem formKept_pwrClear (o : Nat) (c : Cov) (s : State) (s₀ : State) :
    FormKept s₀ (pwrClear o c s) ↔ FormKept s₀ s ∨ FormElse s₀ (pwrClear o c s) := kept (by unfold pwrClear; simp) s₀
@[simp] theorem formKept_unlockS (s : State) (s₀ : State) :
    FormKept s₀ (unlockS s) ↔ FormKept s₀ s ∨ FormElse s₀ (unlockS s) := kept (by unfold unlockS; simp) s₀
@[simp] theorem formKept_secWrite (o : Nat) (c : Cov) (v : Nat) (s : State) (s₀ : State) :
    FormKept s₀ (secWrite o c v s) ↔ FormKept s₀ s ∨ FormElse s₀ (secWrite o c v s) := kept (by unfold secWrite; simp) s₀
@[simp] theorem formKept_secClear (o : Nat) (c : Cov) (s : State) (s₀ : State) :
    FormKept s₀ (secClear o c s) ↔ FormKept s₀ s ∨ FormElse s₀ (secClear o c s) := kept (by unfold secClear; simp) s₀
@[simp] theorem formKept_dbgClear (o : Nat) (c : Cov) (s : State) (s₀ : State) :
    FormKept s₀ (dbgClear o c s) ↔ FormKept s₀ s ∨ FormElse s₀ (dbgClear o c s) := kept (by unfold dbgClear; simp) s₀
@[simp] theorem formKept_pendingSet (k m : Nat) (s : State) (s₀ : State) :
    FormKept s₀ (pendingSet k m s) ↔ FormKept s₀ s ∨ FormElse s₀ (pendingSet k m s) := kept (by unfold pendingSet; simp) s₀
@[simp] theorem formKept_cruWrite (k o : Nat) (c : Cov) (v : Nat) (s : State) (s₀ : State) :
    FormKept s₀ (cruWrite k o c v s) ↔ FormKept s₀ s ∨ FormElse s₀ (cruWrite k o c v s) := kept (by unfold cruWrite; simp) s₀
@[simp] theorem formKept_cruClear (k o : Nat) (c : Cov) (s : State) (s₀ : State) :
    FormKept s₀ (cruClear k o c s) ↔ FormKept s₀ s ∨ FormElse s₀ (cruClear k o c s) := kept (by unfold cruClear; simp) s₀
@[simp] theorem formKept_regClear (o : Nat) (c : Cov) (s : State) (s₀ : State) :
    FormKept s₀ (regClear o c s) ↔ FormKept s₀ s ∨ FormElse s₀ (regClear o c s) := kept (by unfold regClear; simp) s₀
@[simp] theorem formKept_barRead (off size : Nat) (s : State) (s₀ : State) :
    FormKept s₀ (barRead off size s) ↔ FormKept s₀ s ∨ FormElse s₀ (barRead off size s) := kept (by unfold barRead; simp) s₀
theorem outKept_execReadClear (off size : Nat) (s : State) : OutKept s (execReadClear off size s) := by unfold execReadClear; simp
theorem outKept_execMsixUnmask (vector : Nat) (s : State) : OutKept s (execMsixUnmask vector s) := by unfold execMsixUnmask; simp

/-! ### Pins -/

@[simp] theorem formKept_raiseUp (ev a0 a1 : Nat) (s : State) (s₀ : State) :
    FormKept s₀ (raiseUp ev a0 a1 s) ↔ FormKept s₀ s ∨ FormElse s₀ (raiseUp ev a0 a1 s) := kept (by unfold raiseUp; simp) s₀
@[simp] theorem formKept_brakeOn (watts : Nat) (s : State) (s₀ : State) :
    FormKept s₀ (brakeOn watts s) ↔ FormKept s₀ s ∨ FormElse s₀ (brakeOn watts s) := kept (by unfold brakeOn; simp) s₀
@[simp] theorem formKept_stopOn (watts : Nat) (chat : Bool) (s : State) (s₀ : State) :
    FormKept s₀ (stopOn watts chat s) ↔ FormKept s₀ s ∨ FormElse s₀ (stopOn watts chat s) := kept (by unfold stopOn; simp) s₀
@[simp] theorem formKept_pauseCmds (s : State) (s₀ : State) :
    FormKept s₀ (pauseCmds s) ↔ FormKept s₀ s ∨ FormElse s₀ (pauseCmds s) := kept (by exact ⟨id, id⟩) s₀
@[simp] theorem formKept_stopOff (s : State) (s₀ : State) :
    FormKept s₀ (stopOff s) ↔ FormKept s₀ s ∨ FormElse s₀ (stopOff s) := kept (by unfold stopOff; simp) s₀
@[simp] theorem formKept_chatEvent (input episodes : Nat) (s : State) (s₀ : State) :
    FormKept s₀ (chatEvent input episodes s) ↔ FormKept s₀ s ∨ FormElse s₀ (chatEvent input episodes s) := kept (by unfold chatEvent; simp) s₀
@[simp] theorem formKept_chatterS (input episodes watts : Nat) (s : State) (s₀ : State) :
    FormKept s₀ (chatterS input episodes watts s) ↔ FormKept s₀ s ∨ FormElse s₀ (chatterS input episodes watts s) := kept (by unfold chatterS; simp) s₀
theorem outKept_execPwrbrkAssert (watts : Nat) (s : State) : OutKept s (execPwrbrkAssert watts s) := by unfold execPwrbrkAssert; simp
theorem outKept_execSidebandChatter (input episodes watts : Nat) (s : State) : OutKept s (execSidebandChatter input episodes watts s) := by unfold execSidebandChatter; simp
theorem outKept_execTrayStopOn (watts : Nat) (s : State) : OutKept s (execTrayStopOn watts s) := by unfold execTrayStopOn; simp
theorem outKept_execTrayStopOff (s : State) : OutKept s (execTrayStopOff s) := by unfold execTrayStopOff; simp
@[simp] theorem formKept_linkRung (s : State) (s₀ : State) :
    FormKept s₀ (linkRung s) ↔ FormKept s₀ s ∨ FormElse s₀ (linkRung s) := kept (by unfold linkRung; simp) s₀
@[simp] theorem formKept_haltRestart (b : BootIn) (s : State) (s₀ : State) :
    FormKept s₀ (haltRestart b s) ↔ FormKept s₀ s ∨ FormElse s₀ (haltRestart b s) := kept (by unfold haltRestart; simp) s₀
@[simp] theorem formKept_perstOff (b : BootIn) (s : State) (s₀ : State) :
    FormKept s₀ (perstOff b s) ↔ FormKept s₀ s ∨ FormElse s₀ (perstOff b s) := kept (by unfold perstOff; (repeat' split) <;> simp_all) s₀
theorem outKept_execPerstDeassert (b : BootIn) (s : State) : OutKept s (execPerstDeassert b s) := by unfold execPerstDeassert; simp
theorem outKept_execPerstChatter (episodes : Nat) (s : State) : OutKept s (execPerstChatter episodes s) := by unfold execPerstChatter; simp
@[simp] theorem formKept_linkDownS (s : State) (s₀ : State) :
    FormKept s₀ (linkDownS s) ↔ FormKept s₀ s ∨ FormElse s₀ (linkDownS s) := kept (by unfold linkDownS; simp) s₀
theorem outKept_execLinkDown (s : State) : OutKept s (execLinkDown s) := by unfold execLinkDown; simp
theorem outKept_execD3hotEntry (s : State) : OutKept s (execD3hotEntry s) := by unfold execD3hotEntry; simp
@[simp] theorem formKept_doeS (req : List Byte) (s : State) (s₀ : State) :
    FormKept s₀ (doeS req s) ↔ FormKept s₀ s ∨ FormElse s₀ (doeS req s) := kept (by unfold doeS; simp) s₀
theorem outKept_execDoeSpdm (req : List Byte) (s : State) : OutKept s (execDoeSpdm req s) := by unfold execDoeSpdm; simp
@[simp] theorem formKept_mctpS (m : Mctp) (s : State) (s₀ : State) :
    FormKept s₀ (mctpS m s) ↔ FormKept s₀ s ∨ FormElse s₀ (mctpS m s) := kept (by unfold mctpS; (repeat' split) <;> simp_all) s₀
theorem outKept_execMctpMessage (m : Mctp) (s : State) : OutKept s (execMctpMessage m s) := by unfold execMctpMessage; simp
theorem outKept_execDynamicAddress (addr : Nat) (s : State) : OutKept s (execDynamicAddress addr s) := by unfold execDynamicAddress; simp
@[simp] theorem formKept_jtagOut (j : Jtag) (s : State) (s₀ : State) :
    FormKept s₀ (jtagOut j s) ↔ FormKept s₀ s ∨ FormElse s₀ (jtagOut j s) := kept (by unfold jtagOut; (repeat' split) <;> simp_all) s₀
@[simp] theorem formKept_jtagLink (j : Jtag) (s : State) (s₀ : State) :
    FormKept s₀ (jtagLink j s) ↔ FormKept s₀ s ∨ FormElse s₀ (jtagLink j s) := kept (by unfold jtagLink; simp) s₀
@[simp] theorem formKept_jtagS (j : Jtag) (s : State) (s₀ : State) :
    FormKept s₀ (jtagS j s) ↔ FormKept s₀ s ∨ FormElse s₀ (jtagS j s) := kept (by unfold jtagS; simp) s₀
theorem outKept_execJtagInstruction (ir : Jtag) (s : State) : OutKept s (execJtagInstruction ir s) := by unfold execJtagInstruction; simp

end Sys2Proof.Machine
end

section
/-! PROOF. Every command keeps device and host memory in canonical form (the tier 3 invariant of the queue and the memory). -/

set_option maxRecDepth 4000

namespace Sys2Proof.Machine

/-! ### The functions that change a limited value -/

@[simp] theorem formKept_losePower (ph : Phase) (s u : State) : FormKept u (losePower ph s) ↔ FormKept u s ∨ FormElse u (losePower ph s) := by
  refine kept ⟨fun _ => rfl, fun w => ?_⟩ u
  have hm : twf 0 s.host.mem = true := (Bool.and_eq_true _ _ ▸ w : twf 0 s.host.mem = true ∧ tsorted s.host.dirty = true).1
  exact (Bool.and_eq_true _ _).mpr ⟨hm, rfl⟩

@[simp] theorem formKept_thermalSampleS (die tj : Nat) (s u : State) : FormKept u (thermalSampleS die tj s) ↔ FormKept u s ∨ FormElse u (thermalSampleS die tj s) :=
  kept (by unfold thermalSampleS; dsimp only; (repeat' split) <;> simp) u
@[simp] theorem formKept_powerOnS (b : BootIn) (s u : State) : FormKept u (powerOnS b s) ↔ FormKept u s ∨ FormElse u (powerOnS b s) :=
  kept (by unfold powerOnS; dsimp only; (repeat' split) <;> simp) u
@[simp] theorem formKept_capSetS (q : Queue) (c : TakenCmd) (s u : State) : FormKept u (capSetS q c s) ↔ FormKept u s ∨ FormElse u (capSetS q c s) :=
  kept (by unfold capSetS; dsimp only; (repeat' split) <;> simp) u
@[simp] theorem formKept_modeSetS (q : Queue) (c : TakenCmd) (s u : State) : FormKept u (modeSetS q c s) ↔ FormKept u s ∨ FormElse u (modeSetS q c s) :=
  kept (by unfold modeSetS; (repeat' split) <;> simp) u
@[simp] theorem formKept_bar4ResizeS (k : Nat) (s u : State) : FormKept u (bar4ResizeS k s) ↔ FormKept u s ∨ FormElse u (bar4ResizeS k s) :=
  kept (by unfold bar4ResizeS; split <;> simp) u
@[simp] theorem formKept_configReset (s u : State) : FormKept u (configReset s) ↔ FormKept u s ∨ FormElse u (configReset s) :=
  kept (by exact ⟨id, id⟩) u
@[simp] theorem formKept_rung4Reset (s u : State) : FormKept u (rung4Reset s) ↔ FormKept u s ∨ FormElse u (rung4Reset s) :=
  kept (by exact ⟨wf_freshMem s, id⟩) u
@[simp] theorem formKept_rung4S (b : BootIn) (s u : State) : FormKept u (rung4S b s) ↔ FormKept u s ∨ FormElse u (rung4S b s) :=
  kept (by unfold rung4S; dsimp only; (repeat' split) <;> simp) u

/-! ### The register writes -/

@[simp] theorem formKept_q0CfgWrite (c : Cov) (v : Nat) (s u : State) : FormKept u (q0CfgWrite c v s) ↔ FormKept u s ∨ FormElse u (q0CfgWrite c v s) :=
  kept (by unfold q0CfgWrite; dsimp only; (repeat' split) <;> simp) u
@[simp] theorem formKept_cmdWrite (o : Nat) (c : Cov) (v : Nat) (s u : State) : FormKept u (cmdWrite o c v s) ↔ FormKept u s ∨ FormElse u (cmdWrite o c v s) :=
  kept (by unfold cmdWrite; dsimp only; (repeat' split) <;> simp) u
@[simp] theorem formKept_xtWrite (o : Nat) (c : Cov) (v : Nat) (s u : State) : FormKept u (xtWrite o c v s) ↔ FormKept u s ∨ FormElse u (xtWrite o c v s) :=
  kept (by unfold xtWrite; dsimp only; (repeat' split) <;> simp) u
@[simp] theorem formKept_seamWrite (o : Nat) (c : Cov) (v : Nat) (s u : State) : FormKept u (seamWrite o c v s) ↔ FormKept u s ∨ FormElse u (seamWrite o c v s) :=
  kept (by unfold seamWrite; dsimp only; (repeat' split) <;> simp) u
@[simp] theorem formKept_modeWrite (v : Nat) (s u : State) : FormKept u (modeWrite v s) ↔ FormKept u s ∨ FormElse u (modeWrite v s) :=
  kept (by unfold modeWrite; dsimp only; (repeat' split) <;> simp) u
@[simp] theorem formKept_rbxWrite (o : Nat) (c : Cov) (v : Nat) (s u : State) : FormKept u (rbxWrite o c v s) ↔ FormKept u s ∨ FormElse u (rbxWrite o c v s) :=
  kept (by unfold rbxWrite; dsimp only; (repeat' split) <;> simp) u
@[simp] theorem formKept_dbgWrite (o : Nat) (c : Cov) (v : Nat) (s u : State) : FormKept u (dbgWrite o c v s) ↔ FormKept u s ∨ FormElse u (dbgWrite o c v s) :=
  kept (by unfold dbgWrite; dsimp only; (repeat' split) <;> simp) u
@[simp] theorem formKept_regWrite (o : Nat) (c : Cov) (v : Nat) (s u : State) : FormKept u (regWrite o c v s) ↔ FormKept u s ∨ FormElse u (regWrite o c v s) :=
  kept (by unfold regWrite; dsimp only; (repeat' split) <;> simp) u
@[simp] theorem formKept_barWrite (off size val : Nat) (s u : State) : FormKept u (barWrite off size val s) ↔ FormKept u s ∨ FormElse u (barWrite off size val s) :=
  kept (by unfold barWrite; split <;> simp) u

/-! ### The pins and the link -/

@[simp] theorem formKept_brakeOff (s u : State) : FormKept u (brakeOff s) ↔ FormKept u s ∨ FormElse u (brakeOff s) :=
  kept (by unfold brakeOff; dsimp only; (repeat' split) <;> simp) u
@[simp] theorem formKept_perstOn (s u : State) : FormKept u (perstOn s) ↔ FormKept u s ∨ FormElse u (perstOn s) :=
  kept (by unfold perstOn; dsimp only; (repeat' split) <;> simp) u
@[simp] theorem formKept_hotResetS (b : BootIn) (s u : State) : FormKept u (hotResetS b s) ↔ FormKept u s ∨ FormElse u (hotResetS b s) :=
  kept (by unfold hotResetS; dsimp only; (repeat' split) <;> simp) u
@[simp] theorem formKept_flrS (b : BootIn) (s u : State) : FormKept u (flrS b s) ↔ FormKept u s ∨ FormElse u (flrS b s) :=
  kept (by unfold flrS; (repeat' split) <;> simp) u
@[simp] theorem formKept_d0ReturnS (s u : State) : FormKept u (d0ReturnS s) ↔ FormKept u s ∨ FormElse u (d0ReturnS s) :=
  kept (by unfold d0ReturnS; dsimp only; (repeat' split) <;> simp) u

/-! ### The commands -/

theorem outKept_execPowerOn (b : BootIn) (s : State) : OutKept s (execPowerOn b s) := by unfold execPowerOn; simp
theorem outKept_execUndervoltageStop (s : State) : OutKept s (execUndervoltageStop s) := by unfold execUndervoltageStop; simp
theorem outKept_execOvervoltageStop (s : State) : OutKept s (execOvervoltageStop s) := by unfold execOvervoltageStop; (repeat' split) <;> simp
theorem outKept_execThermalSample (die tj : Nat) (s : State) : OutKept s (execThermalSample die tj s) := by unfold execThermalSample; simp
theorem outKept_execPwrbrkRelease (s : State) : OutKept s (execPwrbrkRelease s) := by unfold execPwrbrkRelease; simp
theorem outKept_execPerstAssert (s : State) : OutKept s (execPerstAssert s) := by unfold execPerstAssert; simp
theorem outKept_execHotReset (b : BootIn) (s : State) : OutKept s (execHotReset b s) := by unfold execHotReset; simp
theorem outKept_execFunctionLevelReset (b : BootIn) (s : State) : OutKept s (execFunctionLevelReset b s) := by unfold execFunctionLevelReset; simp
theorem outKept_execD0Return (s : State) : OutKept s (execD0Return s) := by unfold execD0Return; simp
theorem outKept_execRegisterWrite (off size val : Nat) (s : State) : OutKept s (execRegisterWrite off size val s) := by unfold execRegisterWrite; simp
theorem outKept_execQ0Enable (val : Nat) (s : State) : OutKept s (execQ0Enable val s) := by unfold execQ0Enable; simp
theorem outKept_execQ0Restart (s : State) : OutKept s (execQ0Restart s) := by unfold execQ0Restart; simp
theorem outKept_execFaultTailWrite (val : Nat) (s : State) : OutKept s (execFaultTailWrite val s) := by unfold execFaultTailWrite; simp
theorem outKept_execEventTailWrite (val : Nat) (s : State) : OutKept s (execEventTailWrite val s) := by unfold execEventTailWrite; simp
theorem outKept_execPendingWrite (stack mask : Nat) (s : State) : OutKept s (execPendingWrite stack mask s) := by unfold execPendingWrite; simp
theorem outKept_execUeThreshWrite (stack : Nat) (channel : Option Nat) (val : Nat) (s : State) : OutKept s (execUeThreshWrite stack channel val s) := by unfold execUeThreshWrite; (repeat' split) <;> simp
theorem outKept_execSeamRetrainReq (link : Nat) (s : State) : OutKept s (execSeamRetrainReq link s) := by unfold execSeamRetrainReq; simp
theorem outKept_execRbxModeSet (val : Nat) (s : State) : OutKept s (execRbxModeSet val s) := by unfold execRbxModeSet; simp
theorem outKept_execRbxRetrain (port : Nat) (s : State) : OutKept s (execRbxRetrain port s) := by unfold execRbxRetrain; simp
theorem outKept_execOwinValidSet (w val : Nat) (s : State) : OutKept s (execOwinValidSet w val s) := by unfold execOwinValidSet; simp
theorem outKept_execOwinValidClear (w : Nat) (s : State) : OutKept s (execOwinValidClear w s) := by unfold execOwinValidClear; simp
theorem outKept_execUnlock (s : State) : OutKept s (execUnlock s) := by unfold execUnlock; simp
theorem outKept_execCapSet (q seq : Nat) (s : State) : OutKept s (execCapSet q seq s) := by unfold execCapSet; simp
theorem outKept_execModeSet (q seq : Nat) (s : State) : OutKept s (execModeSet q seq s) := by unfold execModeSet; simp
theorem outKept_execRung4 (b : BootIn) (s : State) : OutKept s (execRung4 b s) := by unfold execRung4; simp
theorem outKept_execBar4Resize (log2 : Nat) (s : State) : OutKept s (execBar4Resize log2 s) := by unfold execBar4Resize; simp
theorem outKept_execFaultRingEnable (val : Nat) (s : State) : OutKept s (execFaultRingEnable val s) := by unfold execFaultRingEnable; simp

/-- Each command's own lemma. -/
theorem exec_outKept (c : Instr) (s : State) : OutKept s (exec c s) :=
  match c with
  | .powerOn _ => outKept_execPowerOn _ s
  | .imageFault _ _ => outKept_execImageFault _ _ s
  | .undervoltageStop => outKept_execUndervoltageStop s
  | .overvoltageStop => outKept_execOvervoltageStop s
  | .powerSample _ => outKept_execPowerSample _ s
  | .poweredHour => outKept_execPoweredHour s
  | .thermalSample _ _ => outKept_execThermalSample _ _ s
  | .budgetWindow _ _ _ => outKept_execBudgetWindow _ _ _ s
  | .boostStep _ _ _ => outKept_execBoostStep _ _ _ s
  | .pwrbrkAssert _ => outKept_execPwrbrkAssert _ s
  | .pwrbrkRelease => outKept_execPwrbrkRelease s
  | .sidebandChatter _ _ _ => outKept_execSidebandChatter _ _ _ s
  | .trayStopOn _ => outKept_execTrayStopOn _ s
  | .trayStopOff => outKept_execTrayStopOff s
  | .perstAssert => outKept_execPerstAssert s
  | .perstDeassert _ => outKept_execPerstDeassert _ s
  | .perstChatter _ => outKept_execPerstChatter _ s
  | .linkDown => outKept_execLinkDown s
  | .hotReset _ => outKept_execHotReset _ s
  | .functionLevelReset _ => outKept_execFunctionLevelReset _ s
  | .d3hotEntry => outKept_execD3hotEntry s
  | .d0Return => outKept_execD0Return s
  | .doeSpdm _ => outKept_execDoeSpdm _ s
  | .mctpMessage _ => outKept_execMctpMessage _ s
  | .dynamicAddress _ => outKept_execDynamicAddress _ s
  | .jtagInstruction _ => outKept_execJtagInstruction _ s
  | .registerWrite _ _ _ => outKept_execRegisterWrite _ _ _ s
  | .readClear _ _ => outKept_execReadClear _ _ s
  | .q0Enable _ => outKept_execQ0Enable _ s
  | .q0Restart => outKept_execQ0Restart s
  | .faultTailWrite _ => outKept_execFaultTailWrite _ s
  | .eventTailWrite _ => outKept_execEventTailWrite _ s
  | .pendingWrite _ _ => outKept_execPendingWrite _ _ s
  | .ueThreshWrite _ _ _ => outKept_execUeThreshWrite _ _ _ s
  | .seamRetrainReq _ => outKept_execSeamRetrainReq _ s
  | .rbxModeSet _ => outKept_execRbxModeSet _ s
  | .rbxRetrain _ => outKept_execRbxRetrain _ s
  | .owinValidSet _ _ => outKept_execOwinValidSet _ _ s
  | .owinValidClear _ => outKept_execOwinValidClear _ s
  | .unlock => outKept_execUnlock s
  | .bar2Write _ _ => outKept_execBar2Write _ _ s
  | .sealWord _ _ => outKept_execSealWord _ _ s
  | .takePacket _ => outKept_execTakePacket _ s
  | .commandStart _ _ => outKept_execCommandStart _ _ s
  | .reply _ _ => outKept_execReply _ _ s
  | .eventRecord => outKept_execEventRecord s
  | .ctxCreate _ _ => outKept_execCtxCreate _ _ s
  | .ctxDestroy _ _ => outKept_execCtxDestroy _ _ s
  | .ctxFlags _ _ => outKept_execCtxFlags _ _ s
  | .queueCreate _ _ => outKept_execQueueCreate _ _ s
  | .queueDestroy _ _ => outKept_execQueueDestroy _ _ s
  | .queueReset _ _ => outKept_execQueueReset _ _ s
  | .faultResume _ _ => outKept_execFaultResume _ _ s
  | .extCreate _ _ _ => outKept_execExtCreate _ _ _ s
  | .extDestroy _ _ => outKept_execExtDestroy _ _ s
  | .extShare _ _ => outKept_execExtShare _ _ s
  | .extUnmap _ _ => outKept_execExtUnmap _ _ s
  | .extQuery _ _ => outKept_execExtQuery _ _ s
  | .pin _ _ => outKept_execPin _ _ s
  | .unpin _ _ => outKept_execUnpin _ _ s
  | .apertureSet _ _ => outKept_execApertureSet _ _ s
  | .windowSet _ _ => outKept_execWindowSet _ _ s
  | .counterReset _ _ => outKept_execCounterReset _ _ s
  | .recipeLoad _ _ => outKept_execRecipeLoad _ _ s
  | .recipeCheck _ _ => outKept_execRecipeCheck _ _ s
  | .recipeUnload _ _ => outKept_execRecipeUnload _ _ s
  | .launch _ _ => outKept_execLaunch _ _ s
  | .copy _ _ => outKept_execCopy _ _ s
  | .fillCommand _ _ => outKept_execFillCommand _ _ s
  | .semWaitCommand _ _ => outKept_execSemWaitCommand _ _ s
  | .semWaitTimeout _ _ => outKept_execSemWaitTimeout _ _ s
  | .semReleaseCommand _ _ => outKept_execSemReleaseCommand _ _ s
  | .flush _ _ => outKept_execFlush _ _ s
  | .budgetSet _ _ => outKept_execBudgetSet _ _ s
  | .capSet _ _ => outKept_execCapSet _ _ s
  | .modeSet _ _ => outKept_execModeSet _ _ s
  | .sliceCreate _ _ => outKept_execSliceCreate _ _ s
  | .sliceResize _ _ => outKept_execSliceResize _ _ s
  | .sliceDestroy _ _ => outKept_execSliceDestroy _ _ s
  | .slicePasid _ _ => outKept_execSlicePasid _ _ s
  | .dirtyLog _ _ => outKept_execDirtyLog _ _ s
  | .spdm _ _ => outKept_execSpdm _ _ s
  | .setKey _ _ => outKept_execSetKey _ _ s
  | .bundleImport _ _ => outKept_execBundleImport _ _ s
  | .setDestroy _ _ => outKept_execSetDestroy _ _ s
  | .reset _ _ => outKept_execReset _ _ s
  | .crumbRead _ _ => outKept_execCrumbRead _ _ s
  | .crashBufferSet _ _ => outKept_execCrashBufferSet _ _ s
  | .calRead _ _ => outKept_execCalRead _ _ s
  | .calWrite _ _ => outKept_execCalWrite _ _ s
  | .clockCorr _ _ _ => outKept_execClockCorr _ _ _ s
  | .energyRead _ _ => outKept_execEnergyRead _ _ s
  | .serviceTick _ => outKept_execServiceTick _ s
  | .timeSliceEnd _ => outKept_execTimeSliceEnd _ s
  | .placement _ _ => outKept_execPlacement _ _ s
  | .overrunKill _ => outKept_execOverrunKill _ s
  | .restPointReached _ _ => outKept_execRestPointReached _ _ s
  | .saveDone _ _ => outKept_execSaveDone _ _ s
  | .restoreDone _ _ => outKept_execRestoreDone _ _ s
  | .instanceComplete _ _ => outKept_execInstanceComplete _ _ s
  | .launchComplete _ => outKept_execLaunchComplete _ s
  | .flitArrival _ _ _ _ => outKept_execFlitArrival _ _ _ _ s
  | .creditReturn _ _ _ => outKept_execCreditReturn _ _ _ s
  | .descriptorComplete _ _ => outKept_execDescriptorComplete _ _ s
  | .stationFault _ => outKept_execStationFault _ s
  | .loop _ => outKept_execLoop _ s
  | .recv _ => outKept_execRecv _ s
  | .send _ => outKept_execSend _ s
  | .copyIn _ => outKept_execCopyIn _ s
  | .copyOut _ => outKept_execCopyOut _ s
  | .explicitCopyDone _ _ => outKept_execExplicitCopyDone _ _ s
  | .semWait _ => outKept_execSemWait _ s
  | .semRelease _ => outKept_execSemRelease _ s
  | .matmul _ => outKept_execMatmul _ s
  | .conv _ => outKept_execConv _ s
  | .attnScore _ => outKept_execAttnScore _ s
  | .attnPv _ => outKept_execAttnPv _ s
  | .attnFinal _ => outKept_execAttnFinal _ s
  | .eltwise _ => outKept_execEltwise _ s
  | .reduce _ => outKept_execReduce _ s
  | .run _ => outKept_execRun _ s
  | .iadd _ _ => outKept_execIadd _ _ s
  | .isub _ _ => outKept_execIsub _ _ s
  | .imul _ _ => outKept_execImul _ _ s
  | .imuladd _ _ => outKept_execImuladd _ _ s
  | .imin _ _ => outKept_execImin _ _ s
  | .imax _ _ => outKept_execImax _ _ s
  | .and _ _ => outKept_execAnd _ _ s
  | .or _ _ => outKept_execOr _ _ s
  | .xor _ _ => outKept_execXor _ _ s
  | .not _ _ => outKept_execNot _ _ s
  | .shl _ _ => outKept_execShl _ _ s
  | .shr _ _ => outKept_execShr _ _ s
  | .shra _ _ => outKept_execShra _ _ s
  | .bitcnt _ _ => outKept_execBitcnt _ _ s
  | .leadz _ _ => outKept_execLeadz _ _ s
  | .icmp _ _ => outKept_execIcmp _ _ s
  | .fadd _ _ => outKept_execFadd _ _ s
  | .fmul _ _ => outKept_execFmul _ _ s
  | .fmuladd _ _ => outKept_execFmuladd _ _ s
  | .fmin _ _ => outKept_execFmin _ _ s
  | .fmax _ _ => outKept_execFmax _ _ s
  | .fcmp _ _ => outKept_execFcmp _ _ s
  | .rcp _ _ => outKept_execRcp _ _ s
  | .rsqrt _ _ => outKept_execRsqrt _ _ s
  | .sqrt _ _ => outKept_execSqrt _ _ s
  | .exp2 _ _ => outKept_execExp2 _ _ s
  | .log2 _ _ => outKept_execLog2 _ _ s
  | .sin _ _ => outKept_execSin _ _ s
  | .cos _ _ => outKept_execCos _ _ s
  | .tanh _ _ => outKept_execTanh _ _ s
  | .ftoi _ _ => outKept_execFtoi _ _ s
  | .itof _ _ => outKept_execItof _ _ s
  | .fcvt _ _ => outKept_execFcvt _ _ s
  | .pack2 _ _ => outKept_execPack2 _ _ s
  | .unpack2 _ _ => outKept_execUnpack2 _ _ s
  | .mov _ _ => outKept_execMov _ _ s
  | .movi _ _ => outKept_execMovi _ _ s
  | .sel _ _ => outKept_execSel _ _ s
  | .threadno _ _ => outKept_execThreadno _ _ s
  | .groupno _ _ => outKept_execGroupno _ _ s
  | .stationno _ _ => outKept_execStationno _ _ s
  | .laneget _ _ => outKept_execLaneget _ _ s
  | .lanepoll _ _ => outKept_execLanepoll _ _ s
  | .psave _ _ => outKept_execPsave _ _ s
  | .pload _ _ => outKept_execPload _ _ s
  | .ld _ _ => outKept_execLd _ _ s
  | .st _ _ => outKept_execSt _ _ s
  | .gmac _ _ => outKept_execGmac _ _ s
  | .gmload _ _ => outKept_execGmload _ _ s
  | .gmstore _ _ => outKept_execGmstore _ _ s
  | .jump _ _ => outKept_execJump _ _ s
  | .split _ _ => outKept_execSplit _ _ s
  | .join _ _ => outKept_execJoin _ _ s
  | .loopin _ _ => outKept_execLoopin _ _ s
  | .leave _ _ => outKept_execLeave _ _ s
  | .issue _ _ => outKept_execIssue _ _ s
  | .gatherDone _ _ => outKept_execGatherDone _ _ s
  | .msemr _ _ => outKept_execMsemr _ _ s
  | .msemw _ _ => outKept_execMsemw _ _ s
  | .precv _ _ => outKept_execPrecv _ _ s
  | .psend _ _ => outKept_execPsend _ _ s
  | .wait _ _ => outKept_execWait _ _ s
  | .meet _ _ => outKept_execMeet _ _ s
  | .sema _ _ => outKept_execSema _ _ s
  | .swait _ _ => outKept_execSwait _ _ s
  | .lock _ _ => outKept_execLock _ _ s
  | .trylock _ _ => outKept_execTrylock _ _ s
  | .nop _ _ => outKept_execNop _ _ s
  | .rest _ _ => outKept_execRest _ _ s
  | .finish _ _ => outKept_execFinish _ _ s
  | .trace _ => outKept_execTrace _ s
  | .rayBatchTake _ => outKept_execRayBatchTake _ s
  | .resultBatchFlush _ => outKept_execResultBatchFlush _ s
  | .gatherHash _ => outKept_execGatherHash _ s
  | .gatherEmbed _ => outKept_execGatherEmbed _ s
  | .missFill _ _ => outKept_execMissFill _ _ s
  | .fetch _ => outKept_execFetch _ s
  | .store _ => outKept_execStore _ s
  | .handOver _ => outKept_execHandOver _ s
  | .tokenRowArrival _ _ _ => outKept_execTokenRowArrival _ _ _ s
  | .blockDelivery _ _ => outKept_execBlockDelivery _ _ s
  | .resultHandOver _ _ => outKept_execResultHandOver _ _ s
  | .piperRemoteLost _ _ _ => outKept_execPiperRemoteLost _ _ _ s
  | .gets _ => outKept_execGets _ s
  | .getu _ => outKept_execGetu _ s
  | .getr _ => outKept_execGetr _ s
  | .getc _ => outKept_execGetc _ s
  | .write _ _ _ => outKept_execWrite _ _ _ s
  | .red _ _ => outKept_execRed _ _ s
  | .homeSemWait _ _ _ => outKept_execHomeSemWait _ _ _ s
  | .inv _ _ _ => outKept_execInv _ _ _ s
  | .invDrop _ _ _ => outKept_execInvDrop _ _ _ s
  | .partAck _ _ _ => outKept_execPartAck _ _ _ s
  | .stackDataArrival _ _ _ => outKept_execStackDataArrival _ _ _ s
  | .replicaRepair _ _ => outKept_execReplicaRepair _ _ s
  | .fill _ => outKept_execFill _ s
  | .wrAck _ => outKept_execWrAck _ s
  | .redAck _ => outKept_execRedAck _ s
  | .semOk _ => outKept_execSemOk _ s
  | .semRetry _ => outKept_execSemRetry _ s
  | .retry _ => outKept_execRetry _ s
  | .reductionApply _ _ => outKept_execReductionApply _ _ s
  | .holdEnd _ _ => outKept_execHoldEnd _ _ s
  | .orderTimeout _ _ => outKept_execOrderTimeout _ _ s
  | .writeBatchDrain _ _ => outKept_execWriteBatchDrain _ _ s
  | .scrubRead _ _ _ => outKept_execScrubRead _ _ _ s
  | .thrashWindow _ _ => outKept_execThrashWindow _ _ s
  | .extentWalk stn ctx addr access agent index len => outKept_execExtentWalk stn ctx addr access agent index len s
  | .staleExtent _ _ _ => outKept_execStaleExtent _ _ _ s
  | .allStalled _ => outKept_execAllStalled _ s
  | .faultBatchDelivery _ => outKept_execFaultBatchDelivery _ s
  | .bar4Read _ _ => outKept_execBar4Read _ _ s
  | .bar4Write _ _ => outKept_execBar4Write _ _ s
  | .hostWcWriteback _ _ => outKept_execHostWcWriteback _ _ s
  | .rbxFlit _ _ => outKept_execRbxFlit _ _ s
  | .rbxNak _ _ => outKept_execRbxNak _ _ s
  | .idleTimeout _ => outKept_execIdleTimeout _ s
  | .rbxLossOfLock port lane => outKept_execRbxLossOfLock port lane s
  | .rbxPortUp _ _ _ _ => outKept_execRbxPortUp _ _ _ _ s
  | .rbxWrite _ => outKept_execRbxWrite _ s
  | .rbxRead _ => outKept_execRbxRead _ s
  | .rbxRed _ => outKept_execRbxRed _ s
  | .rbxSemAdd _ => outKept_execRbxSemAdd _ s
  | .rbxBarrier _ => outKept_execRbxBarrier _ s
  | .rbxAck _ => outKept_execRbxAck _ s
  | .rbxReadData _ => outKept_execRbxReadData _ s
  | .requestExpiry _ => outKept_execRequestExpiry _ s
  | .seamLaneLoss _ _ _ => outKept_execSeamLaneLoss _ _ _ s
  | .loadWindow _ _ => outKept_execLoadWindow _ _ s
  | .retrainingWindow _ _ => outKept_execRetrainingWindow _ _ s
  | .dieClockLoss _ => outKept_execDieClockLoss _ s
  | .partitionFenced _ => outKept_execPartitionFenced _ s
  | .crustClockReturn _ => outKept_execCrustClockReturn _ s
  | .partitionRestored _ => outKept_execPartitionRestored _ s
  | .homeUnavailableResend _ => outKept_execHomeUnavailableResend _ s
  | .wdRest _ => outKept_execWdRest _ s
  | .wdCommand _ => outKept_execWdCommand _ s
  | .wdHome _ _ => outKept_execWdHome _ _ s
  | .controlComplexWatchdog _ => outKept_execControlComplexWatchdog _ s
  | .powerSequencerWatchdog => outKept_execPowerSequencerWatchdog s
  | .stationUe _ _ => outKept_execStationUe _ _ s
  | .fatalError _ _ => outKept_execFatalError _ _ s
  | .rung1 _ => outKept_execRung1 _ s
  | .rung2 _ => outKept_execRung2 _ s
  | .rung3 _ _ => outKept_execRung3 _ _ s
  | .rung4 _ => outKept_execRung4 _ s
  | .rung5 => outKept_execRung5 s
  | .rungEscalated _ _ _ => outKept_execRungEscalated _ _ _ s
  | .shaderUnlock _ _ => outKept_execShaderUnlock _ _ s
  | .msixUnmask _ => outKept_execMsixUnmask _ s
  | .bar4Resize _ => outKept_execBar4Resize _ s
  | .faultRingEnable _ => outKept_execFaultRingEnable _ s
  | .seamRetry _ _ => outKept_execSeamRetry _ _ s
  | .freedGranuleZeroed _ _ => outKept_execFreedGranuleZeroed _ _ s

/-- Settles O4: every command goes on with the queue as it was, and none of its writes of memory breaks the canonical form. -/
theorem commandsKeepTheQueueAndTheMemoryForm : Obligations.CommandsKeepTheQueueAndTheMemoryForm := by
  intro c s
  obtain ⟨t, ht, hq, -⟩ := exec_goesKeeping c s
  obtain ⟨hm, hh⟩ := exec_outKept c s t ht
  exact ⟨t, ht, hq, hm, hh⟩

end Sys2Proof.Machine
end

section
/-! PROOF. The Ray-and-Gather Station: what a round leaves of the station's work, and the first rounds of a descriptor (R236, R243, R245). -/

namespace Sys2Proof.Machine

/-! ### What a round leaves of a station's work -/

/-- What of a station's record no round of its slots changes: where it stands in its list, and what is in progress. -/
def stnCore (x : Stn) : Nat × Nat × List Nat := (x.next, x.started, tkeys x.works)

/-- The same of station `n` of a state. -/
def coreAt (s : State) (n : Nat) : Option (Nat × Nat × List Nat) := (stnOf s n).map stnCore

theorem coreAt_of {s t : State} (h : t.sch.stns = s.sch.stns) (n : Nat) : coreAt t n = coreAt s n := by
  unfold coreAt stnOf
  rw [h]

theorem coreAt_setStn (m n : Nat) {f : Stn → Stn} (h : ∀ x, stnCore (f x) = stnCore x) (s : State) : coreAt (setStn m f s) n = coreAt s n := by
  unfold coreAt stnOf setStn
  dsimp only
  rw [tget?_tupd]
  split
  · next e =>
    subst e
    rw [Option.map_map]
    exact congrArg (fun g => Option.map g _) (funext h)
  · rfl

@[simp] theorem coreAt_setRg (m n : Nat) (f : RgSt → RgSt) (s : State) : coreAt (setRg m f s) n = coreAt s n := coreAt_setStn m n (by intro x; rfl) s

@[simp] theorem coreAt_setRay (m n k : Nat) (f : RaySt → RaySt) (s : State) : coreAt (setRay m k f s) n = coreAt s n := coreAt_setRg ..

@[simp] theorem coreAt_rgFlag (m n fl : Nat) (s : State) : coreAt (rgFlag m fl s) n = coreAt s n := coreAt_setStn m n (by intro x; rfl) s

@[simp] theorem coreAt_lsPut (m n o : Nat) (bs : List Byte) (s : State) : coreAt (setStn m (lsPut o bs) s) n = coreAt s n :=
  coreAt_setStn m n (by intro x; rfl) s

@[simp] theorem coreAt_cacheTouch (m n key : Nat) (s : State) : coreAt (setStn m (cacheTouch key) s) n = coreAt s n :=
  coreAt_setStn m n (fun x => by unfold cacheTouch; split <;> rfl) s

@[simp] theorem coreAt_popFlit (x : Stn) (st : Nat) (s : State) (n : Nat) : coreAt (popFlit x st s) n = coreAt s n := coreAt_of rfl n

theorem tkeys_tupd {α : Type} (t : Tbl α) (k : Nat) (f : α → α) : tkeys (tupd t k f) = tkeys t := by
  induction t with
  | nil => rfl
  | cons e r ih =>
    unfold tupd
    split
    · rfl
    · exact congrArg (_ :: ·) ih

@[simp] theorem coreAt_setWork (m n i : Nat) (f : Work → Work) (s : State) : coreAt (setWork m i f s) n = coreAt s n :=
  coreAt_setStn m n (fun x => by unfold stnCore; rw [tkeys_tupd]) s

theorem foldl_sendOne_stns (x : Stn) (l : List (Nat × Flit)) (a : State × List (Nat × Flit)) : (l.foldl (sendOne x) a).1.sch.stns = a.1.sch.stns := by
  induction l generalizing a with
  | nil => rfl
  | cons o r ih =>
    refine (ih _).trans ?_
    unfold sendOne
    split
    · split <;> rfl
    · rfl

theorem foldl_sendOne_frame (x : Stn) (l : List (Nat × Flit)) (a : State × List (Nat × Flit)) :
    (l.foldl (sendOne x) a).1 = { a.1 with sch := { a.1.sch with launches := (l.foldl (sendOne x) a).1.sch.launches } } := by
  induction l generalizing a with
  | nil => rfl
  | cons o r ih =>
    rw [List.foldl_cons, ih]
    unfold sendOne
    split
    · split <;> rfl
    · rfl

@[simp] theorem coreAt_sendWork (m n i : Nat) (s : State) : coreAt (sendWork m i s) n = coreAt s n := by
  cases hx : stnOf s m with
  | none => unfold sendWork; rw [hx]
  | some x =>
    cases hw : workOf s m i with
    | none => unfold sendWork; rw [hx, hw]
    | some w =>
      rw [sendWork_eq hx hw, coreAt_setWork]
      exact coreAt_of (foldl_sendOne_stns x w.outs (s, [])) n

@[simp] theorem coreAt_stationFault (m n code ik idx co addr detail : Nat) (s : State) : coreAt (stationFault m code ik idx co addr detail s) n = coreAt s n := by
  unfold stationFault
  split
  · rfl
  · next x _ =>
    split
    · rfl
    · have hr (u : State) : (rung1Start x.ctx rcRest [] u).sch.stns = u.sch.stns := by
        unfold rung1Start
        split
        · rfl
        · split
          · rfl
          · rw [startRung_sch]
      dsimp only
      rw [coreAt_of (hr _), coreAt_setStn _ _ (by intro x; rfl)]
      unfold coreAt stnOf stopStations
      dsimp only
      rw [tget?_tmap, Option.map_map]
      rw [show (flushEvents (raiseRec ⟨stationFaultBytes s m x code ik idx co addr detail, some (ctxSlice s x.ctx)⟩ s)).sch = s.sch from
        (congrArg (fun s : State => s.sch) (notEvents_flushEvents _) :)]
      exact congrArg (fun g => Option.map g _) (funext fun y => by dsimp only [Function.comp]; split <;> rfl)

@[simp] theorem coreAt_rgRequest (m k a n : Nat) (s : State) : coreAt (rgRequest m k a s) n = coreAt s n := by
  unfold rgRequest
  split
  · rfl
  · dsimp only
    split
    · split <;> simp
    · split <;> simp

@[simp] theorem coreAt_rgRead (m k a n : Nat) (s : State) : coreAt (rgRead m k a s) n = coreAt s n := by
  unfold rgRead
  split
  · dsimp only
    split <;> simp
  · simp

@[simp] theorem coreAt_stepPoint (m k n : Nat) (d : List Byte) (s : State) : coreAt (stepPoint m k d s).1 n = coreAt s n := by
  unfold stepPoint
  split
  · rfl
  · dsimp only
    (repeat' split) <;> simp

@[simp] theorem coreAt_endRay (m k n : Nat) (s : State) : coreAt (endRay m k s) n = coreAt s n := coreAt_setRg ..

@[simp] theorem coreAt_gatherIn (m n : Nat) (d : List Byte) (k : Nat) (s : State) : coreAt (gatherIn m d k s) n = coreAt s n := by
  induction k generalizing s with
  | zero => rfl
  | succ k ih =>
    unfold gatherIn
    split
    · rfl
    · split
      · rfl
      · next ps st _ =>
        dsimp only
        split
        · simp
        · rw [ih, coreAt_setRg]
          cases st <;> simp

theorem coreAt_runSlot (m k n : Nat) {d : List Byte} (hd : dOp d ≠ 0x40) (j : Nat) (s : State) : coreAt (runSlot m k d j s) n = coreAt s n := by
  induction j generalizing s with
  | zero => rfl
  | succ j ih =>
    unfold runSlot
    rw [if_neg hd]
    dsimp only
    split
    · rw [ih, coreAt_stepPoint]
    · rw [coreAt_stepPoint]

@[simp] theorem coreAt_freeTile (m t n : Nat) (ks : List Nat) (s : State) : coreAt (freeTile m t ks s) n = coreAt s n := coreAt_setRg ..

@[simp] theorem coreAt_gatherOut (m i n : Nat) (d : List Byte) (k : Nat) (s : State) : coreAt (gatherOut m i d k s) n = coreAt s n := by
  induction k generalizing s with
  | zero => rfl
  | succ k ih =>
    unfold gatherOut
    split
    · dsimp only
      (repeat' split) <;> simp [ih]
    · rfl

theorem coreAt_rgRound (m i n : Nat) {d : List Byte} (hd : dOp d ≠ 0x40) (s : State) : coreAt (rgRound m i d s) n = coreAt s n := by
  have hf (l : List Nat) (u : State) : coreAt (l.foldl (fun s k => runSlot m k d 1000000 s) u) n = coreAt u n := by
    induction l generalizing u with
    | nil => rfl
    | cons k r ih => exact (ih _).trans (coreAt_runSlot m k n hd _ u)
  simp only [rgRound, if_neg hd, coreAt_gatherOut]
  split
  · simp
  · rw [hf, coreAt_gatherIn]

theorem coreAt_rgRounds (m i n : Nat) {d : List Byte} (hd : dOp d ≠ 0x40) (k : Nat) (s : State) : coreAt (rgRounds m i d k s) n = coreAt s n := by
  induction k generalizing s with
  | zero => rfl
  | succ k ih =>
    unfold rgRounds
    dsimp only
    split
    · exact coreAt_rgRound m i n hd s
    · rw [ih, coreAt_rgRound m i n hd]

/-- A round of a gather leaves where the station stands and what is in progress. -/
theorem coreAt_rgPump (m n : Nat) {s : State} (h : ∀ x i d, liveOf s m = some x → rgDesc x = some (i, d) → dOp d ≠ 0x40) : coreAt (rgPump m s) n = coreAt s n := by
  unfold rgPump
  split
  · rfl
  · next i d e =>
    obtain ⟨x, hl, hr⟩ := Option.bind_eq_some_iff.1 e
    have hd := h x i d hl hr
    rw [if_neg hd]
    dsimp only
    rw [if_neg hd]
    have hs : coreAt (sendWork m i (rgRounds m i d 262145 s)) n = coreAt s n := by
      rw [coreAt_sendWork, coreAt_rgRounds m i n hd]
    split
    · split
      · rw [coreAt_setWork, hs]
      · exact hs
    · exact hs

end Sys2Proof.Machine
end

section
/-! PROOF. The Ray-and-Gather Station: TRACE, GATHER_HASH and GATHER_EMBED start (R236, R243, R245). -/

namespace Sys2Proof.Machine

/-! ### A station with one descriptor in progress -/

section
variable {s : State} {n i : Nat} {x : Stn} {w : Work}

/-- The record of a station whose only work is `w` at `i`. -/
def oneStn (x : Stn) (i : Nat) (w : Work) : Stn := { x with works := [(i, w)] }

theorem OneWork.stn (h : OneWork s n i x w) : stnOf s n = some (oneStn x i w) := h

theorem OneWork.setRg (h : OneWork s n i x w) (f : RgSt → RgSt) : OneWork (setRg n f s) n i { x with rg := f x.rg } w := by
  refine OneWork.setStn h ?_
  rfl

theorem OneWork.setRay (h : OneWork s n i x w) (k : Nat) (f : RaySt → RaySt) :
    OneWork (setRay n k f s) n i { x with rg := { x.rg with rays := tupd x.rg.rays k f } } w := h.setRg _

theorem OneWork.rgFlag (h : OneWork s n i x w) (fl : Nat) : OneWork (rgFlag n fl s) n i (mxFlag false fl x) w := by
  refine OneWork.setStn h ?_
  rfl

theorem OneWork.lsPut (h : OneWork s n i x w) (o : Nat) (bs : List Byte) : OneWork (Machine.setStn n (Machine.lsPut o bs) s) n i (Machine.lsPut o bs x) w := by
  refine OneWork.setStn h ?_
  rfl

theorem rgRounds_idle {d : List Byte} (h : rgRound n i d s = s) (k : Nat) : rgRounds n i d (k + 1) s = s := by
  unfold rgRounds
  dsimp only
  rw [h]
  exact if_pos (.inr rfl)

/-- TRACE without rays or results does nothing. -/
theorem rgRound_trace_idle (h : OneWork s n i x w) {d : List Byte} (hd : dOp d = 0x40) (hr : x.rg.rays = []) (hq : x.rg.results = []) :
    rgRound n i d s = s := by
  have hout : traceOut n i d 64 s = s := by
    unfold traceOut
    rw [h.stn]
    dsimp only
    exact if_pos (.inr (.inl (by show x.rg.results.isEmpty = true; rw [hq]; rfl)))
  simp only [rgRound, if_pos hd, h.stn, Option.map_some, Option.getD_some]
  rw [show tkeys (oneStn x i w).rg.rays = [] by show tkeys x.rg.rays = []; rw [hr]; rfl, List.foldl_nil, ite_self, hout]

theorem gatherOut_idle (h : OneWork s n i x w) (d : List Byte) (hq : x.rg.outQ = []) (k : Nat) : gatherOut n i d (k + 1) s = s := by
  unfold gatherOut
  rw [h.stn, h.work]
  dsimp only
  refine if_pos ?_
  show _ ∨ ¬ List.all _ (fun k => (tget? x.rg.outQ k).isSome) = true
  rw [hq]
  cases min 64 (field d 8 4 - 64 * (oneStn x i w).rg.outNext) with
  | zero => exact .inl rfl
  | succ m =>
    right
    rw [List.range_succ_eq_map]
    simp [tget?]

theorem gatherIn_idle (h : OneWork s n i x w) {d : List Byte} (ht : takePoints s (oneStn x i w) d = none) (k : Nat) : gatherIn n d (k + 1) s = s := by
  unfold gatherIn
  rw [h.stn]
  dsimp only
  rw [ht]

/-- A gather that has taken nothing and can take nothing does nothing. -/
theorem rgRound_gather_idle (h : OneWork s n i x w) {d : List Byte} (hd : dOp d ≠ 0x40) (ht : takePoints s (oneStn x i w) d = none)
    (hr : x.rg.rays = []) (hq : x.rg.outQ = []) : rgRound n i d s = s := by
  simp only [rgRound, if_neg hd, gatherIn_idle h ht, h.stn, Option.map_some, Option.getD_some]
  rw [show tkeys (oneStn x i w).rg.rays = [] by show tkeys x.rg.rays = []; rw [hr]; rfl, List.foldl_nil, ite_self, gatherOut_idle h d hq]

theorem traceRest_idle (h : OneWork s n i x w) (d : List Byte) (hr : x.rg.resting = 0) : traceRest n i d s = s := by
  unfold traceRest
  rw [h.stn, h.work]
  dsimp only
  have hr' : (oneStn x i w).rg.resting = 0 := hr
  rw [hr', if_neg (by simp), if_neg (by simp)]

theorem sendWork_frame (n i : Nat) (s : State) : sendWork n i s = { s with sch := (sendWork n i s).sch } := by
  cases hx : stnOf s n with
  | none => simp only [sendWork, hx]
  | some x =>
    cases hw : workOf s n i with
    | none => simp only [sendWork, hx, hw]
    | some w =>
      rw [sendWork_eq hx hw]
      unfold setWork setStn
      dsimp only
      rw [foldl_sendOne_frame x w.outs (s, [])]

/-- A station whose only work sends nothing goes one round on, and is done where nothing is left. -/
theorem rgPump_oneWork (h : OneWork s n i x w) (hl : liveOf s n = some (oneStn x i w)) {d : List Byte} (hd : nth [] x.descs i = d)
    (hop : 0x40 ≤ dOp d) (ho : w.outs = []) (h0 : x.rg.resting = 0) {t : State} {y : Stn} {v : Work}
    (hround : rgRounds n i d 262145 (if dOp d = 0x40 then sendWork n i s else s) = t) (ht : OneWork t n i y v) (hv : v.outs = [])
    (hy : y.rg.resting = 0) :
    rgPump n s = if rgDone (oneStn y i v) d v then setWork n i (fun w => { w with st := .fin }) (sendWork n i t) else sendWork n i t := by
  have hdesc : rgDesc (oneStn x i w) = some (i, d) := by
    unfold rgDesc oneStn
    dsimp only
    rw [List.find?_cons_of_pos (by rw [hd]; exact decide_eq_true hop), Option.map_some, hd]
  obtain ⟨-, h1⟩ := sendWork_none h ho
  obtain ⟨-, h2⟩ := sendWork_none ht hv
  unfold rgPump
  rw [hl, Option.bind_some, hdesc]
  dsimp only
  rw [traceRest_idle h1 d h0, hround, traceRest_idle h2 d hy, ite_self, h2.stn, h2.work]

end

/-! ### Starting -/

/-- The record of a Ray-and-Gather station that has just started a descriptor. -/
def rgStarted (x : Stn) : Stn := { startedStn x with rg := {} }

/-- The state in which the descriptor has joined those in progress. -/
def rgBegun (n : Nat) (x : Stn) (s : State) : State := beginWork n x.next {} (setRg n (fun _ => {}) s)

section
variable {s : State} {n op : Nat} {x : Stn} {d : List Byte} (h : DescReady s n op x d) (hop : op ∈ [0x40, 0x41, 0x42])
include h hop

theorem descReady_alone : x.works = [] ∧ x.marked = 0 := by
  obtain ⟨-, -, -, hd, ho, hm, -, -⟩ := h
  unfold mayStart at hm
  rw [nth_of_getElem? hd, ho] at hm
  have hr : runsAlone op = true := by revert hop; simp only [List.mem_cons, List.not_mem_nil, or_false]; rintro (rfl | rfl | rfl) <;> rfl
  simp only [Bool.and_eq_true, hr, Bool.not_true, Bool.false_or, decide_eq_true_eq, List.isEmpty_iff] at hm
  exact ⟨hm.1.2.1, hm.1.1.1.1⟩

theorem rgBegun_oneWork : OneWork (rgBegun n x s) n x.next (rgStarted x) (firstWork x) := by
  obtain ⟨hw, -⟩ := descReady_alone h hop
  obtain ⟨-, -, hl, -⟩ := h
  have hx : stnOf (setRg n (fun _ => {}) s) n = some { x with rg := {} } := stnOf_setStn_same (liveOf_stnOf s n x hl) _
  have hb := beginWork_oneWork hx hw
  exact hb

theorem rgBegun_live : liveOf (rgBegun n x s) n = some (oneStn (rgStarted x) x.next (firstWork x)) :=
  liveOf_eq h.2.2.1 (rgBegun_oneWork h hop) rfl rfl rfl rfl rfl rfl rfl

omit hop in
theorem rgGo_out : descOut op n (rgGo n) s = .next (rgPump n (rgBegun n x s)) := descOut_ready h _

omit hop in
theorem descReady_rgFault : (op = 0x40 → trFault s x d = 0) ∧ (op = 0x41 → ghFault s x d = 0) ∧ (op = 0x42 → geFault s x d = 0) := by
  obtain ⟨-, -, -, hd, ho, -, -, hf⟩ := h
  unfold descFault at hf
  rw [nth_of_getElem? hd] at hf
  by_cases hb : headBad x d = true
  · rw [if_pos hb] at hf
    exact absurd hf (by decide)
  · rw [if_neg hb, ho] at hf
    refine ⟨?_, ?_, ?_⟩ <;> (intro e; subst e; simpa using hf)

omit hop in
theorem descReady_batches (ho : op = 0x40) : field d 28 4 ≠ 0 := by
  have hf := (descReady_rgFault h).1 ho
  unfold trFault at hf
  dsimp only at hf
  rw [firstOf_cons] at hf
  split at hf
  · exact absurd hf (by decide)
  · next hb =>
    simp only [Bool.or_eq_true, decide_eq_true_eq, not_or] at hb
    obtain ⟨-, -, -, -, h0, -⟩ := hb
    exact h0

omit hop in
theorem descReady_points (ho : op = 0x41) : 1 ≤ field d 8 4 := by
  have hf := (descReady_rgFault h).2.1 ho
  unfold ghFault at hf
  dsimp only at hf
  rw [firstOf_cons] at hf
  split at hf
  · exact absurd hf (by decide)
  · next hb =>
    simp only [Bool.or_eq_true, decide_eq_true_eq, not_or, not_lt] at hb
    exact hb.2.1

omit hop in
theorem descReady_embedFmt (ho : op = 0x42) : field d 13 1 ∈ [8, 9, 0x0A] := by
  have hf := (descReady_rgFault h).2.2 ho
  unfold geFault at hf
  dsimp only at hf
  rw [firstOf_cons] at hf
  split at hf
  · exact absurd hf (by decide)
  · next hb =>
    simp only [Bool.or_eq_true, decide_eq_true_eq, not_or, not_not] at hb
    obtain ⟨-, -, -, -, h0, -⟩ := hb
    exact h0

end

/-- The record that a station's first round leaves, with its one descriptor begun. -/
theorem begun_of_oneWork {t : State} {n : Nat} {x y : Stn} {w : Work} (h : OneWork t n x.next y w) (h1 : y.next = x.next + 1) (h2 : y.started = x.started + 1)
    (h3 : y.descs = x.descs) (h4 : w.ord = x.started) (h5 : w.passes = passesOf x x.next) : Begun t n x.next x (oneStn y x.next w) w.st :=
  h.begun h1 h2 h3 h4 h5

/-- TRACE and GATHER_HASH that find nothing to take: the descriptor is in progress, with empty slots. -/
theorem rgGo_idle {s : State} {n op : Nat} {x : Stn} {d : List Byte} (h : DescReady s n op x d) (hop : op ∈ [0x40, 0x41, 0x42])
    (hr : ∀ t w, OneWork t n x.next (rgStarted x) w → t.sch.launches = s.sch.launches → t.sch.recipes = s.sch.recipes → rgRound n x.next d t = t)
    (hdone : rgDone (oneStn (rgStarted x) x.next (firstWork x)) d (firstWork x) = false) :
    ∃ t y, descOut op n (rgGo n) s = .next t ∧ Begun t n x.next x y .run ∧ y.rg = {} ∧ y.ls = x.ls ∧ t.mem = s.mem ∧ t.home = s.home := by
  have hone := rgBegun_oneWork h hop
  obtain ⟨he, h1⟩ := sendWork_none hone rfl
  have hd : dOp d = op := h.2.2.2.2.1
  have hge : 0x40 ≤ dOp d := by rw [hd]; revert hop; simp only [List.mem_cons, List.not_mem_nil, or_false]; omega
  let u := if dOp d = 0x40 then sendWork n x.next (rgBegun n x s) else rgBegun n x s
  have hu : OneWork u n x.next (rgStarted x) (firstWork x) := by
    show OneWork (if _ then _ else _) _ _ _ _
    split
    · exact h1
    · exact hone
  have hround : rgRounds n x.next d 262145 u = u := by
    refine rgRounds_idle (hr u _ hu ?_ ?_) 262144
    · show (if _ then _ else _ : State).sch.launches = _
      split
      · rw [he]; rfl
      · rfl
    · show (if _ then _ else _ : State).sch.recipes = _
      split
      · rw [he]; rfl
      · rfl
  have hp := rgPump_oneWork hone (rgBegun_live h hop) (nth_of_getElem? h.2.2.2.1) hge rfl rfl hround hu rfl rfl
  rw [hdone, if_neg (by simp)] at hp
  obtain ⟨he2, h2⟩ := sendWork_none hu rfl
  refine ⟨sendWork n x.next u, _, (rgGo_out h).trans (congrArg _ hp), begun_of_oneWork h2 rfl rfl rfl rfl rfl, rfl, rfl, ?_, ?_⟩
  · rw [he2]
    show (if _ then _ else _ : State).mem = _
    split
    · rw [he]; rfl
    · rfl
  · rw [he2]
    show (if _ then _ else _ : State).home = _
    split
    · rw [he]; rfl
    · rfl

/-- TRACE starts with empty slots and takes nothing by itself. -/
theorem trace_begins (s : State) (n : Nat) (x : Stn) (d : List Byte) (h : DescReady s n 0x40 x d) :
    ∃ t y, exec (.trace n) s = .next t ∧ Begun t n x.next x y .run ∧ y.rg = {} ∧ y.ls = x.ls ∧ t.mem = s.mem ∧ t.home = s.home := by
  have hd : dOp d = 0x40 := h.2.2.2.2.1
  refine rgGo_idle h (by simp) (fun t w ht _ _ => rgRound_trace_idle ht hd rfl rfl) ?_
  have hb := descReady_batches h rfl
  unfold rgDone
  rw [if_pos hd]
  simp [oneStn, rgStarted, Ne.symm hb]

/-- GATHER_HASH from a port without two flits starts and waits. -/
theorem gatherHash_waits (s : State) (n : Nat) (x : Stn) (d : List Byte) (h : DescReady s n 0x41 x d) {st : Nat} (h8 : field d 16 1 ≠ 8)
    (hs : sinkStream s x (field d 16 1) = some st) (hb : (bufOf s x st).length < 2) :
    ∃ t y, exec (.gatherHash n) s = .next t ∧ Begun t n x.next x y .run ∧ y.rg = {} ∧ y.ls = x.ls ∧ t.mem = s.mem := by
  have hd : dOp d = 0x41 := h.2.2.2.2.1
  have hp := descReady_points h rfl
  have hrun := rgGo_idle h (by simp) (fun t w ht hl hc => ?_) ?_
  · obtain ⟨t, y, h1, h2, h3, h4, h5, -⟩ := hrun
    exact ⟨t, y, h1, h2, h3, h4, h5⟩
  · refine rgRound_gather_idle ht (by rw [hd]; decide) ?_ rfl rfl
    have hs' : sinkStream t (oneStn (rgStarted x) x.next w) (field d 16 1) = some st := by
      unfold sinkStream streamsOf at *
      rw [hl, hc]
      exact hs
    have hb' : bufOf t (oneStn (rgStarted x) x.next w) st = bufOf s x st := by
      unfold bufOf
      rw [instOf_of hl]
      rfl
    unfold takePoints
    dsimp only
    split
    · rfl
    · rw [if_neg (show ¬ dOp d = 0x42 by rw [hd]; decide), hs']
      dsimp only
      rw [hb', if_pos hb]
  · unfold rgDone
    rw [if_neg (by rw [hd]; decide)]
    simp [oneStn, rgStarted]
    omega

/-- A gather that starts is in progress, whatever its first round does. -/
theorem gather_starts {s : State} {n op : Nat} {x : Stn} {d : List Byte} (h : DescReady s n op x d) (hop : op = 0x41 ∨ op = 0x42) :
    ∃ t y w, descOut op n (rgGo n) s = .next t ∧ stnOf t n = some y ∧ y.next = x.next + 1 ∧ y.started = x.started + 1 ∧ tget? y.works x.next = some w := by
  have hop' : op ∈ [0x40, 0x41, 0x42] := by rcases hop with rfl | rfl <;> simp
  have hone := rgBegun_oneWork h hop'
  have hd : dOp d = op := h.2.2.2.2.1
  have hcore : coreAt (rgPump n (rgBegun n x s)) n = some (x.next + 1, x.started + 1, [x.next]) := by
    rw [coreAt_rgPump]
    · unfold coreAt
      rw [hone.stn]
      rfl
    · intro y i e hl hr
      rw [rgBegun_live h hop'] at hl
      cases hl
      obtain ⟨v, hv, he⟩ := Option.map_eq_some_iff.1 hr
      have hm : v = (x.next, firstWork x) := List.mem_singleton.1 (List.mem_of_find?_eq_some hv)
      subst hm
      have : e = d := (congrArg Prod.snd he).symm.trans (nth_of_getElem? h.2.2.2.1)
      rw [this, hd]
      rcases hop with rfl | rfl <;> decide
  obtain ⟨y, hy, hc⟩ := Option.map_eq_some_iff.1 hcore
  obtain ⟨w, hw⟩ : ∃ w, tget? y.works x.next = some w :=
    Option.isSome_iff_exists.1 ((mem_tkeys y.works x.next).1 (by rw [show tkeys y.works = [x.next] from congrArg (fun e => e.2.2) hc]; simp))
  exact ⟨_, y, w, rgGo_out h, hy, congrArg (fun e => e.1) hc, congrArg (fun e => e.2.1) hc, hw⟩

end Sys2Proof.Machine
end

section
/-! PROOF. The Ray-and-Gather Station: a bag of empty indices, batches of rays, results and miss fills (R235-R250). -/

namespace Sys2Proof.Machine

/-! ### One bag whose indices are all empty (R245) -/

theorem embedZero : ∀ f : Bool, ∀ of ∈ [8, 9, 0x0A], (convF f 0x0A of none (sumV f []).1.toNat).1 = 0 := by decide +kernel

/-- The slot of a bag without rows. -/
def bag0 : RaySt := { ray := [], todo := [], tmax := 0, hit := none, waitLine := none, poisoned := false, spilled := 0, idx := 0 }

theorem freeSlots_empty {x : Stn} (h : x.rg.rays = []) : freeSlots x 1 = [0] := by
  have hall : (List.range 2048).filter (fun k => (tget? x.rg.rays k).isNone) = List.range 2048 :=
    List.filter_eq_self.2 (fun k _ => by rw [h]; rfl)
  unfold freeSlots
  rw [hall, List.take_range]
  rfl

theorem leBytes_zero (k : Nat) : leBytes k 0 = zeros k := by
  induction k with
  | zero => rfl
  | succ k ih => exact congrArg (0 :: ·) ih

theorem flatMap_zeros (m k : Nat) : (List.range m).flatMap (fun _ => zeros k) = zeros (m * k) := by
  unfold zeros
  rw [← List.flatten_replicate_replicate, List.flatMap_def, List.map_const', List.length_range]

section
variable {s : State} {n i : Nat} {x : Stn} {w : Work} {d : List Byte} (h : OneWork s n i x w) (hd : dOp d = 0x42) (h1 : field d 8 4 = 1)
include h hd h1

omit h in
theorem takePoints_bag (hr : x.rg = {}) : takePoints s (oneStn x i w) d = some ([[]], none) := by
  have hfree : freeSlots (oneStn x i w) 1 = [0] := freeSlots_empty (congrArg RgSt.rays hr)
  unfold takePoints
  dsimp only
  rw [show (oneStn x i w).rg = {} from hr, h1, show min 64 (1 - ({} : RgSt).inNext) = 1 from rfl, hfree, if_neg (by simp), if_pos hd]
  rfl

omit h hd in
theorem takePoints_taken (hr : x.rg.inNext = 1) : takePoints s (oneStn x i w) d = none := by
  unfold takePoints
  dsimp only
  rw [show (oneStn x i w).rg.inNext = 1 from hr, h1]
  exact if_pos (.inl rfl)

/-- The bag is taken into slot 0, with no line to read. -/
theorem gatherIn_bag (hr : x.rg = {}) (hrows : bagRows (oneStn x i w) d 0 = []) (k : Nat) :
    OneWork (gatherIn n d (k + 2) s) n i { x with rg := { inNext := 1, rays := [(0, bag0)] } } w ∧ (gatherIn n d (k + 2) s).mem = s.mem := by
  have hlines : gatherLines (stnFlush s (oneStn x i w)) (oneStn x i w) d bag0 = [] := by
    unfold gatherLines
    rw [if_neg (by rw [hd]; decide), show bag0.idx = 0 from rfl, hrows]
    rfl
  have hfree : freeSlots (oneStn x i w) 1 = [0] := freeSlots_empty (congrArg RgSt.rays hr)
  have hstep : gatherIn n d (k + 2) s = gatherIn n d (k + 1) (setRg n (fun g => { g with inNext := 1, rays := tput g.rays 0 bag0 }) s) := by
    conv_lhs => unfold gatherIn
    rw [h.stn]
    dsimp only
    rw [takePoints_bag hd h1 hr]
    dsimp only
    rw [if_neg (by rw [hd]; simp), List.length_singleton, hfree, show (oneStn x i w).rg.inNext = 0 from congrArg RgSt.inNext hr]
    simp only [List.zipIdx_cons, List.zipIdx_nil, List.zip_cons_cons, List.zip_nil_left, List.foldl_cons, List.foldl_nil, Nat.zero_add]
    rw [show gatherLines (stnFlush s (oneStn x i w)) (oneStn x i w) d { ray := [], todo := [], tmax := 0, hit := none, waitLine := none, poisoned := false, spilled := 0 } = [] from hlines]
    rfl
  have hset := h.setRg (fun g => { g with inNext := 1, rays := tput g.rays 0 bag0 })
  rw [hr] at hset
  rw [hstep, gatherIn_idle hset (takePoints_taken h1 rfl)]
  exact ⟨hset, rfl⟩

end

section
variable {s : State} {n i : Nat} {x : Stn} {w : Work} {d : List Byte} (h : OneWork s n i x w) (hd : dOp d = 0x42)
include h hd

/-- The bag's slot writes its row to the output queue. -/
theorem runSlot_bag (hs : x.stopped = false) (hr : x.rg = { inNext := 1, rays := [(0, bag0)] }) (k : Nat) :
    ∃ row fl, row = bagRow (stnFlush s (oneStn x i w)) (oneStn x i w) d bag0 ∧
      OneWork (runSlot n 0 d (k + 1) s) n i { x with flags := fl, rg := { inNext := 1, rays := [(0, { bag0 with done := true })], outQ := [(0, row.1)] } } w ∧
      (runSlot n 0 d (k + 1) s).mem = s.mem := by
  let row := bagRow (stnFlush s (oneStn x i w)) (oneStn x i w) d bag0
  have hray : (stnOf s n).bind (fun x => if x.stopped then none else (tget? x.rg.rays 0).map (fun r => (x, r))) = some (oneStn x i w, bag0) := by
    rw [h.stn, Option.bind_some, show (oneStn x i w).stopped = false from hs, if_neg (by simp), show (oneStn x i w).rg = _ from hr]
    rfl
  have hrow : gatherRow (stnFlush s (oneStn x i w)) (oneStn x i w) d bag0 = row := by
    unfold gatherRow
    dsimp only
    rw [if_neg (by simp [bag0]), if_neg (by rw [hd]; decide)]
  have hstep : stepPoint n 0 d s = (setRay n 0 (fun r => { r with done := true, todo := [], got := [] })
      (setRg n (fun g => { g with outQ := tput g.outQ 0 row.1 }) (rgFlag n row.2 s)), false) := by
    unfold stepPoint
    rw [hray]
    dsimp only
    rw [if_neg (by simp [bag0]), if_neg (by simp [bag0]), hrow]
    rfl
  have hrun : runSlot n 0 d (k + 1) s = setRay n 0 (fun r => { r with done := true, todo := [], got := [] })
      (setRg n (fun g => { g with outQ := tput g.outQ 0 row.1 }) (rgFlag n row.2 s)) := by
    unfold runSlot
    rw [if_neg (show ¬ dOp d = 0x40 by rw [hd]; decide), hstep]
    rfl
  refine ⟨row, (mxFlag false row.2 x).flags, rfl, ?_, by rw [hrun]; rfl⟩
  rw [hrun]
  have hall := ((h.rgFlag row.2).setRg (fun g => { g with outQ := tput g.outQ 0 row.1 })).setRay 0 (fun r => { r with done := true, todo := [], got := [] })
  have hm : (mxFlag false row.2 x).rg = { inNext := 1, rays := [(0, bag0)] } := hr
  rw [hm] at hall
  exact hall

/-- The row leaves to scratchpad, and the slot is free. -/
theorem gatherOut_bag (h1 : field d 8 4 = 1) (h8 : field d 20 1 = 8) {row : List Byte}
    (hr : x.rg = { inNext := 1, rays := [(0, { bag0 with done := true })], outQ := [(0, row)] }) (k : Nat) :
    OneWork (gatherOut n i d (k + 2) s) n i { lsPut (field d 24 4) row x with rg := { inNext := 1, outNext := 1 } } w ∧
      (gatherOut n i d (k + 2) s).mem = s.mem := by
  have hstep : gatherOut n i d (k + 2) s = gatherOut n i d (k + 1) (freeTile n 0 [0] (setStn n (lsPut (field d 24 4) row) s)) := by
    conv_lhs => unfold gatherOut
    rw [h.stn, h.work]
    dsimp only
    rw [show (oneStn x i w).rg = _ from hr, h1]
    rw [show List.map (fun j => 64 * 0 + j) (List.range (min 64 (1 - 64 * 0))) = [0] from rfl]
    simp only [List.all_cons, List.all_nil, List.flatMap_cons, List.flatMap_nil, List.append_nil, Nat.mul_zero, Nat.zero_mul, Nat.add_zero, tget?,
      if_true, Option.getD_some]
    rw [if_neg (by simp), if_neg (show ¬ dOp d = 0x41 by rw [hd]; decide), if_pos h8]
  have hput := h.lsPut (field d 24 4) row
  have hfree := hput.setRg (fun g => { g with
    outNext := 0 + 1, outQ := tfilter g.outQ (fun k _ => decide (k ∉ [0])), rays := tfilter g.rays (fun _ r => decide (r.idx ∉ [0])) })
  have hm : (lsPut (field d 24 4) row x).rg = { inNext := 1, rays := [(0, { bag0 with done := true })], outQ := [(0, row)] } := hr
  rw [hm] at hfree
  have hf : OneWork (freeTile n 0 [0] (setStn n (lsPut (field d 24 4) row) s)) n i
      { lsPut (field d 24 4) row x with rg := { inNext := 1, outNext := 1 } } w := hfree
  rw [hstep, gatherOut_idle hf d rfl]
  exact ⟨hf, rfl⟩

end

/-- A row of a bag without rows is zero throughout. -/
theorem bagRow_empty {x : Stn} {d : List Byte} (flush : Bool) (hrows : bagRows x d 0 = []) (hf : field d 13 1 ∈ [8, 9, 0x0A]) :
    (bagRow flush x d bag0).1 = zeros (field d 14 1 * (fmtBits (field d 13 1) / 8)) := by
  have hz : (convF flush 0x0A (field d 13 1) none (sumV flush []).1.toNat).1 = 0 := embedZero flush _ hf
  unfold bagRow
  dsimp only
  rw [show bag0.idx = 0 from rfl, hrows]
  rw [List.flatMap_map, ← flatMap_zeros, ← leBytes_zero]
  simp only [List.map_nil, List.length_nil, ne_eq, not_true_eq_false, and_false, if_false, hz]

section
variable {s : State} {n i : Nat} {x : Stn} {w : Work} {d : List Byte} (h : OneWork s n i x w) (hd : dOp d = 0x42) (h1 : field d 8 4 = 1)
  (h8 : field d 20 1 = 8) (hr : x.rg = {}) (hm : x.marked = 0) (hs : x.stopped = false) (hrows : bagRows x d 0 = []) (hf : field d 13 1 ∈ [8, 9, 0x0A])
include h hd h1 h8 hr hm hs hrows hf

/-- One round takes the bag, completes its row of zeros and lets it leave. -/
theorem rgRound_bag : ∃ fl, (rgRound n i d s).mem = s.mem ∧ OneWork (rgRound n i d s) n i { lsPut (field d 24 4)
    (zeros (field d 14 1 * (fmtBits (field d 13 1) / 8))) x with flags := fl, rg := { inNext := 1, outNext := 1 } } w := by
  obtain ⟨a1, m1⟩ := gatherIn_bag h hd h1 hr hrows 31
  obtain ⟨row, fl, hrow, a2, m2⟩ := runSlot_bag a1 hd hs rfl 999999
  obtain ⟨a3, m3⟩ := gatherOut_bag a2 hd h1 h8 rfl 31
  have hz : row.1 = zeros (field d 14 1 * (fmtBits (field d 13 1) / 8)) := by rw [hrow]; exact bagRow_empty _ hrows hf
  have hheld : ((stnOf s n).map (fun x => decide (x.rg.resting ≠ 0 ∨ x.marked ≠ 0))).getD true = false := by
    rw [h.stn, Option.map_some, Option.getD_some, show (oneStn x i w).rg = {} from hr, show (oneStn x i w).marked = 0 from hm]
    rfl
  have hkeys : ((stnOf (gatherIn n d 33 s) n).map (fun x => tkeys x.rg.rays)).getD [] = [0] := by
    rw [show stnOf (gatherIn n d 33 s) n = _ from a1]
    rfl
  have hround : rgRound n i d s = gatherOut n i d 33 (runSlot n 0 d 1000000 (gatherIn n d 33 s)) := by
    unfold rgRound
    rw [hheld]
    have hd' : ¬ dOp d = 0x40 := by rw [hd]; decide
    simp only [if_neg hd', hkeys, List.foldl_cons, List.foldl_nil, Bool.false_eq_true, if_false]
  rw [hround]
  rw [hz] at a3
  exact ⟨fl, m3.trans (m2.trans m1), a3⟩

/-- The rounds end with that one. -/
theorem rgRounds_bag (k : Nat) : ∃ fl, (rgRounds n i d (k + 2) s).mem = s.mem ∧ OneWork (rgRounds n i d (k + 2) s) n i { lsPut (field d 24 4)
    (zeros (field d 14 1 * (fmtBits (field d 13 1) / 8))) x with flags := fl, rg := { inNext := 1, outNext := 1 } } w := by
  obtain ⟨fl, m1, a1⟩ := rgRound_bag h hd h1 h8 hr hm hs hrows hf
  have hd' : ¬ dOp d = 0x40 := by rw [hd]; decide
  have hidle : rgRound n i d (rgRound n i d s) = rgRound n i d s := rgRound_gather_idle a1 hd' (takePoints_taken h1 rfl) rfl rfl
  have hout : ((stnOf (rgRound n i d s) n).map (fun x => x.rg.outNext)).getD 0 ≠ ((stnOf s n).map (fun x => x.rg.outNext)).getD 0 := by
    rw [show stnOf (rgRound n i d s) n = _ from a1, h.stn, Option.map_some, Option.map_some, Option.getD_some, Option.getD_some,
      show (oneStn x i w).rg = {} from hr]
    exact Nat.one_ne_zero
  have hk : rgRounds n i d (k + 2) s = rgRound n i d s := by
    conv_lhs => unfold rgRounds
    dsimp only
    rw [if_neg (not_or.2 ⟨hd', hout⟩), rgRounds_idle hidle]
  rw [hk]
  exact ⟨fl, m1, a1⟩

end

/-- GATHER_EMBED of one bag whose indices are all FFFF_FFFF is complete at once with a row of zeros. -/
theorem gatherEmbed_zero (s : State) (n : Nat) (x : Stn) (d : List Byte) (h : DescReady s n 0x42 x d) (h1 : field d 8 4 = 1) (h8 : field d 20 1 = 8)
    (hidx : ∀ j < field d 15 1, field (lsRead x (field d 16 4 + 4 * j) 4) 0 4 = 0xFFFFFFFF) :
    ∃ t y, exec (.gatherEmbed n) s = .next t ∧ Begun t n x.next x y .fin ∧ t.mem = s.mem ∧
      (∀ b < field d 14 1 * (fmtBits (field d 13 1) / 8), tget 0 y.ls (field d 24 4 + b) = 0) ∧
      (∀ a, (a < field d 24 4 ∨ field d 24 4 + field d 14 1 * (fmtBits (field d 13 1) / 8) ≤ a) → tget 0 y.ls a = tget 0 x.ls a) := by
  have hd : dOp d = 0x42 := h.2.2.2.2.1
  have hop : (0x42 : Nat) ∈ [0x40, 0x41, 0x42] := by decide
  have hone := rgBegun_oneWork h hop
  have hrows : bagRows x d 0 = [] := by
    unfold bagRows
    dsimp only
    rw [List.filterMap_map, List.filterMap_eq_nil_iff]
    intro j hj
    rw [Function.comp_apply, Nat.zero_mul, Nat.zero_add, if_pos (hidx j (List.mem_range.1 hj))]
  obtain ⟨fl, hmem, ha⟩ := rgRounds_bag hone hd h1 h8 rfl (descReady_alone h hop).2 (liveOf_running (x := x) h.2.2.1) hrows (descReady_embedFmt h rfl) 262143
  have hd' : ¬ dOp d = 0x40 := by rw [hd]; decide
  have hp := rgPump_oneWork hone (rgBegun_live h hop) (nth_of_getElem? h.2.2.2.1) (by rw [hd]; decide) rfl rfl (by rw [if_neg hd']) ha rfl rfl
  rw [if_pos (by unfold rgDone oneStn; rw [if_neg hd', h1]; rfl)] at hp
  obtain ⟨he, a2⟩ := sendWork_none ha rfl
  have a3 := a2.set (fun w => { w with st := .fin })
  have hls : ∀ a, tget 0 (lsPut (field d 24 4) (zeros (field d 14 1 * (fmtBits (field d 13 1) / 8))) (rgStarted x)).ls a =
      if field d 24 4 ≤ a ∧ a - field d 24 4 < field d 14 1 * (fmtBits (field d 13 1) / 8) then 0 else tget 0 x.ls a := by
    intro a
    rw [lsPut_ls, length_zeros]
    split
    · simp [nth, zeros]
    · rfl
  refine ⟨_, _, (rgGo_out h).trans (congrArg _ hp), begun_of_oneWork a3 rfl rfl rfl rfl rfl, ?_, fun b hb => ?_, fun a ha => ?_⟩
  · rw [he]
    exact hmem
  · refine (hls _).trans (if_pos ⟨by omega, by omega⟩)
  · exact (hls a).trans (if_neg (by omega))

end Sys2Proof.Machine
end

section
/-! PROOF. The Ray-and-Gather Station's batches, results and miss fills, and its obligation (R235-R250). -/

namespace Sys2Proof.Machine

/-! ### Records of one length, one after another -/

theorem length_flatMap_id {l : List (List Byte)} {m : Nat} (hl : ∀ r ∈ l, r.length = m) : (l.flatMap id).length = m * l.length := by
  induction l with
  | nil => simp
  | cons r t ih =>
    rw [List.flatMap_cons, List.length_append, ih (fun r h => hl r (List.mem_cons_of_mem _ h)), id, hl r List.mem_cons_self, List.length_cons]
    ring

theorem nth_flatMap_id {l : List (List Byte)} {m : Nat} (hl : ∀ r ∈ l, r.length = m) {j b : Nat} {e : List Byte} (h : l[j]? = some e) (hb : b < m) :
    nth 0 (l.flatMap id) (m * j + b) = nth 0 e b := by
  induction l generalizing j with
  | nil => cases h
  | cons r t ih =>
    have hr : r.length = m := hl r List.mem_cons_self
    unfold nth at *
    rw [List.flatMap_cons, id, List.getD_eq_getElem?_getD, List.getD_eq_getElem?_getD]
    cases j with
    | zero =>
      cases h
      rw [List.getElem?_append_left (by omega)]
      simp
    | succ j =>
      rw [List.getElem?_append_right (by rw [hr, Nat.mul_succ]; omega), hr, Nat.mul_succ, show m * j + m + b - m = m * j + b by omega]
      have := ih (fun r h => hl r (List.mem_cons_of_mem _ h)) h
      rwa [List.getD_eq_getElem?_getD, List.getD_eq_getElem?_getD] at this

theorem flatMap_same (m : Nat) (e : List Byte) : (List.range m).flatMap (fun _ => e) = (List.replicate m e).flatMap id := by
  rw [List.flatMap_def, List.map_const', List.length_range, List.flatMap_id]

/-! ### RESULT_BATCH_FLUSH (R240) -/

section
variable {s : State} {n i : Nat} {x : Stn} {d : List Byte}

theorem rgDesc_work (hx : stnOf s n = some x) (h : rgDesc x = some (i, d)) : ∃ w, workOf s n i = some w := by
  obtain ⟨v, hv, he⟩ := Option.map_eq_some_iff.1 h
  have hm : i ∈ tkeys x.works := List.mem_map.2 ⟨v, List.mem_of_find?_eq_some hv, congrArg Prod.fst he⟩
  unfold workOf
  rw [hx, Option.bind_some]
  exact Option.isSome_iff_exists.1 ((mem_tkeys x.works i).1 hm)

theorem liveDesc_eq (hl : liveOf s n = some x) (hd : rgDesc x = some (i, d)) :
    (liveOf s n).bind (fun x => (rgDesc x).map (fun e => (x, e))) = some (x, i, d) := by
  rw [hl, Option.bind_some, hd, Option.map_some]

theorem sendWork_stn {w : Work} (hx : stnOf s n = some x) (hw : workOf s n i = some w) :
    ∃ ws v, stnOf (sendWork n i s) n = some { x with works := ws } ∧ workOf (sendWork n i s) n i = some v := by
  have hu : stnOf (w.outs.foldl (sendOne x) (s, [])).1 n = some x := by
    unfold stnOf at *
    rw [foldl_sendOne_stns x w.outs (s, [])]
    exact hx
  have hs := stnOf_setStn_same hu (fun y => { y with works := tupd y.works i (fun v => { v with outs := (w.outs.foldl (sendOne x) (s, [])).2 }) })
  have hwx : tget? x.works i = some w := by
    unfold workOf at hw
    rwa [hx, Option.bind_some] at hw
  rw [sendWork_eq hx hw]
  refine ⟨_, { w with outs := (w.outs.foldl (sendOne x) (s, [])).2 }, hs, ?_⟩
  unfold workOf
  rw [show stnOf (setWork _ _ _ _) n = _ from hs, Option.bind_some, tget?_tupd, if_pos rfl, hwx, Option.map_some]

/-- The batch that leaves: the results, and EMPTY records up to 64. -/
def batchRecs (rs : List (List Byte)) : List (List Byte) := rs ++ List.replicate (64 - rs.length) (emptyResult (rs.flatMap id))

theorem length_emptyResult (key : List Byte) : (emptyResult key).length = 32 := by
  simp [emptyResult, openBytes, length_leBytes]

theorem batchRecs_length {rs : List (List Byte)} (h : ∀ r ∈ rs, r.length = 32) : ∀ r ∈ batchRecs rs, r.length = 32 := by
  intro r hr
  rcases List.mem_append.1 hr with hr | hr
  · exact h r hr
  · rw [List.eq_of_mem_replicate hr, length_emptyResult]

theorem batchRecs_result {rs : List (List Byte)} {j : Nat} {e : List Byte} (h : rs[j]? = some e) : (batchRecs rs)[j]? = some e := by
  unfold batchRecs
  rw [List.getElem?_append_left (List.getElem?_eq_some_iff.1 h).1, h]

theorem batchRecs_empty {rs : List (List Byte)} {j : Nat} (h : rs.length ≤ j) (hj : j < 64) : (batchRecs rs)[j]? = some (emptyResult (rs.flatMap id)) := by
  unfold batchRecs
  rw [List.getElem?_append_right h, List.getElem?_replicate, if_pos (by omega)]

theorem emptyResult_mark (key : List Byte) : nth 0 (emptyResult key) 23 = 0x80 := by
  unfold nth emptyResult openBytes
  rw [List.append_assoc, List.getD_eq_getElem?_getD, List.getElem?_append_right (by rw [length_leBytes]), length_leBytes]
  rfl

/-- A partial batch leaves to scratchpad at the next place, where no port takes it. -/
theorem leaveBatch_scratch {w : Work} (hx : stnOf s n = some x) (hw : workOf s n i = some w) (hp : field d 25 1 = 0)
    (hlt : x.rg.results.length < 64) (hin : inScratch x (field d 36 4 + 2048 * x.rg.outNext) 2048 = true) :
    leaveBatch n i d s = setStn n (lsPut (field d 36 4 + 2048 * x.rg.outNext) ((batchRecs x.rg.results).flatMap id))
      (setRg n (fun g => { g with results := g.results.drop 64, outNext := g.outNext + 1 }) s) := by
  have hb : (x.rg.results.take 64).flatMap id ++ (List.range (64 - min 64 x.rg.results.length)).flatMap (fun _ => emptyResult ((x.rg.results.take 64).flatMap id)) =
      (batchRecs x.rg.results).flatMap id := by
    unfold batchRecs
    rw [List.take_of_length_le (by omega), Nat.min_eq_right (by omega), List.flatMap_append, flatMap_same]
  unfold leaveBatch
  rw [hx, hw]
  dsimp only
  rw [hp, if_pos (by decide), if_pos hin, hb]

end

/-- RESULT_BATCH_FLUSH writes the partial batch to scratchpad, records in order and the rest EMPTY. -/
theorem resultBatchFlush_leaves (s : State) (n : Nat) (x : Stn) (i : Nat) (d : List Byte) (hup : s.pwr.phase = .ready) (hi : issueHeld s = false)
    (hl : liveOf s n = some x) (hd : rgDesc x = some (i, d)) (hop : dOp d = 0x40) (hc : field d 48 2 ≠ 0) (hne : x.rg.results ≠ [])
    (hlt : x.rg.results.length < 64) (h32 : ∀ r ∈ x.rg.results, r.length = 32) (hp : field d 25 1 = 0)
    (hin : inScratch x (field d 36 4 + 2048 * x.rg.outNext) 2048 = true) :
    ∃ r y, exec (.resultBatchFlush n) s = .next (rgPump n r) ∧ stnOf r n = some y ∧ y.rg.results = [] ∧
      y.rg.outNext = x.rg.outNext + 1 ∧ y.rg.rays = x.rg.rays ∧ r.mem = s.mem ∧
      (∀ (j : Nat) e, x.rg.results[j]? = some e → ∀ b < 32, tget 0 y.ls (field d 36 4 + 2048 * x.rg.outNext + 32 * j + b) = nth 0 e b) ∧
      (∀ j < 64, x.rg.results.length ≤ j → tget 0 y.ls (field d 36 4 + 2048 * x.rg.outNext + 32 * j + 23) = 0x80) ∧
      (∀ a, (a < field d 36 4 + 2048 * x.rg.outNext ∨ field d 36 4 + 2048 * x.rg.outNext + 2048 ≤ a) → tget 0 y.ls a = tget 0 x.ls a) := by
  have hx := liveOf_stnOf s n x hl
  obtain ⟨w, hw⟩ := rgDesc_work hx hd
  obtain ⟨ws, v, hx1, hw1⟩ := sendWork_stn hx hw
  have hleave := leaveBatch_scratch hx1 hw1 hp hlt hin
  have hflush : batchFlushS n s = rgPump n (leaveBatch n i d (sendWork n i s)) := by
    unfold batchFlushS
    rw [liveDesc_eq hl hd]
    dsimp only
    refine if_neg ?_
    rintro (e | e | e)
    · exact e hop
    · exact hc e
    · exact hne (List.isEmpty_iff.1 e)
  set o := field d 36 4 + 2048 * x.rg.outNext with ho
  have hy := stnOf_setStn_same (stnOf_setStn_same hx1 (fun y => { y with rg := { y.rg with results := y.rg.results.drop 64, outNext := y.rg.outNext + 1 } }))
    (lsPut o ((batchRecs x.rg.results).flatMap id))
  have hlen : ((batchRecs x.rg.results).flatMap id).length = 2048 := by
    rw [length_flatMap_id (batchRecs_length h32), batchRecs, List.length_append, List.length_replicate]
    omega
  have hin' {a : Nat} (h1 : o ≤ a) (h2 : a - o < 2048) : tget 0 (lsPut o ((batchRecs x.rg.results).flatMap id) x).ls a = nth 0 ((batchRecs x.rg.results).flatMap id) (a - o) :=
    (lsPut_ls _ _ x a).trans (if_pos ⟨h1, by rw [hlen]; exact h2⟩)
  refine ⟨_, _, (ifRun_ready hup hi).trans (congrArg _ hflush), (congrArg (stnOf · n) hleave).trans hy, ?_, rfl, rfl, ?_, fun j e he b hb => ?_,
    fun j hj hle => ?_, fun a ha => ?_⟩
  · exact List.drop_eq_nil_of_le (by show x.rg.results.length ≤ 64; omega)
  · rw [hleave]
    show (sendWork n i s).mem = s.mem
    rw [sendWork_frame]
  · have hj : j < x.rg.results.length := (List.getElem?_eq_some_iff.1 he).1
    refine (hin' (a := o + 32 * j + b) (by omega) (by omega)).trans ?_
    rw [show o + 32 * j + b - o = 32 * j + b by omega]
    exact nth_flatMap_id (batchRecs_length h32) (batchRecs_result he) hb
  · refine (hin' (a := o + 32 * j + 23) (by omega) (by omega)).trans ?_
    rw [show o + 32 * j + 23 - o = 32 * j + 23 by omega]
    exact (nth_flatMap_id (batchRecs_length h32) (batchRecs_empty hle hj) (by omega)).trans (emptyResult_mark _)
  · refine (lsPut_ls o _ x a).trans (if_neg ?_)
    rw [hlen]
    omega

/-! ### RAY_BATCH_TAKE (R235-R237) -/

/-- The slot of a ray that has just been taken. -/
def newRay (flush : Bool) (e : List Byte) : RaySt :=
  { ray := e, todo := [], cur := if rayIdle flush e then [] else [(false, 0)], tmax := flushW flush (ryTmax e), hit := none,
    waitLine := none, poisoned := false, spilled := 0 }

/-- What taking a record makes of the slots. -/
def rayPut (flush : Bool) (t : Tbl RaySt) (e : List Byte × Nat) : Tbl RaySt := if bitOf (ryFlags e.1) 7 then t else tput t e.2 (newRay flush e.1)

theorem putRay_foldl {flush : Bool} {n : Nat} (l : List (List Byte × Nat)) {s : State} {y : Stn} (hy : stnOf s n = some y) :
    stnOf (l.foldl (putRay flush n) s) n = some { y with rg := { y.rg with rays := l.foldl (rayPut flush) y.rg.rays } } ∧
    (l.foldl (putRay flush n) s).mem = s.mem ∧ (l.foldl (putRay flush n) s).sch.launches = s.sch.launches := by
  induction l generalizing s y with
  | nil => exact ⟨hy, rfl, rfl⟩
  | cons e r ih =>
    rw [List.foldl_cons, List.foldl_cons]
    unfold putRay rayPut
    by_cases hb : bitOf (ryFlags e.1) 7 = true
    · rw [if_pos hb, if_pos hb]
      exact ih hy
    · rw [if_neg hb, if_neg hb]
      exact ih (stnOf_setStn_same hy _)

theorem rayPut_foldl_other {flush : Bool} (l : List (List Byte × Nat)) (t : Tbl RaySt) {k : Nat} (hk : k ∉ l.map (·.2)) :
    tget? (l.foldl (rayPut flush) t) k = tget? t k := by
  induction l generalizing t with
  | nil => rfl
  | cons e r ih =>
    rw [List.map_cons, List.mem_cons, not_or] at hk
    rw [List.foldl_cons, ih _ hk.2]
    unfold rayPut
    split
    · rfl
    · rw [tget?_tput, if_neg (Ne.symm hk.1)]

theorem rayPut_foldl_at {flush : Bool} (l : List (List Byte × Nat)) (hn : (l.map (·.2)).Nodup) (t : Tbl RaySt) {e : List Byte} {k : Nat} (hm : (e, k) ∈ l) :
    tget? (l.foldl (rayPut flush) t) k = if bitOf (ryFlags e) 7 then tget? t k else some (newRay flush e) := by
  induction l generalizing t with
  | nil => cases hm
  | cons f r ih =>
    rw [List.map_cons, List.nodup_cons] at hn
    rw [List.foldl_cons]
    rcases List.mem_cons.1 hm with rfl | hm
    · rw [rayPut_foldl_other r _ hn.1]
      unfold rayPut
      split
      · rfl
      · rw [tget?_tput, if_pos rfl]
    · have hne : f.2 ≠ k := fun e => hn.1 (e ▸ List.mem_map.2 ⟨_, hm, rfl⟩)
      rw [ih hn.2 _ hm]
      congr 1
      unfold rayPut
      split
      · rfl
      · rw [tget?_tput, if_neg hne]

theorem freeSlots_nodup (x : Stn) (m : Nat) : (freeSlots x m).Nodup :=
  ((List.nodup_range.filter _).sublist (List.take_sublist _ _))

theorem mem_freeSlots {x : Stn} {m k : Nat} (h : k ∈ freeSlots x m) : tget? x.rg.rays k = none := by
  have := (List.mem_filter.1 (List.mem_of_mem_take h)).2
  simpa using this

theorem bufOf_popFlit (x : Stn) (st : Nat) (s : State) : bufOf (popFlit x st s) x st = (bufOf s x st).drop 1 := by
  unfold bufOf
  cases hi : instOf s x.launch x.inst with
  | some i =>
    unfold popFlit
    rw [instOf_setInst_same hi, Option.map_some, Option.map_some, Option.getD_some, Option.getD_some, tget_tset, if_pos rfl]
  | none =>
    have : instOf (popFlit x st s) x.launch x.inst = none := by
      unfold popFlit setInst setLaunch
      unfold instOf at *
      dsimp only
      rw [tget?_tupd, if_pos rfl]
      cases hl : tget? s.sch.launches x.launch with
      | none => rfl
      | some l =>
        rw [hl, Option.bind_some] at hi
        rw [Option.map_some, Option.bind_some, List.getElem?_map, List.getElem?_zipIdx, hi]
        rfl
    rw [this]
    rfl

theorem bufOf_popFlits (x : Stn) (st m : Nat) (s : State) : bufOf ((List.range m).foldl (fun s _ => popFlit x st s) s) x st = (bufOf s x st).drop m := by
  induction m with
  | zero => rfl
  | succ m ih =>
    rw [List.range_succ, List.foldl_append, List.foldl_cons, List.foldl_nil, bufOf_popFlit, ih, List.drop_drop]

theorem popFlits_frame (x : Stn) (st m : Nat) (s : State) : (List.range m).foldl (fun s _ => popFlit x st s) s =
    { s with sch := { s.sch with launches := ((List.range m).foldl (fun s _ => popFlit x st s) s).sch.launches } } := by
  induction m with
  | zero => rfl
  | succ m ih =>
    rw [List.range_succ, List.foldl_append, List.foldl_cons, List.foldl_nil]
    generalize (List.range m).foldl (fun s _ => popFlit x st s) s = u at *
    rw [ih]
    rfl

/-- The six flits of a port's batch are taken. -/
def batchPops (x : Stn) (st : Option Nat) (s : State) : State := st.elim s (fun st => (List.range 6).foldl (fun s _ => popFlit x st s) s)

theorem batchPops_frame (x : Stn) (st : Option Nat) (s : State) :
    batchPops x st s = { s with sch := { s.sch with launches := (batchPops x st s).sch.launches } } := by
  cases st with
  | none => rfl
  | some st => exact popFlits_frame x st 6 s

/-- The state after a batch has been put in its slots. -/
def batchTaken (n i : Nat) (x : Stn) (d : List Byte) (flush : Bool) (l : List (List Byte × Nat)) (st : Option Nat) (s : State) : State :=
  setWork n i id (setRg n (fun g => { g with
    batches := g.batches + 1, resting := if decide (field d 27 1 ≠ 0 ∧ (x.rg.batches + 1) % field d 44 4 = 0) then 1 else g.resting })
    (l.foldl (putRay flush n) (batchPops x st s)))

section
variable {s s0 : State} {n i : Nat} {x : Stn} {d : List Byte} (hs : s = rgPump n s0) (hl : liveOf s n = some x) (hd : rgDesc x = some (i, d))
include hs hl hd

theorem batchTakeS_eq : batchTakeS n s0 =
    if dOp d ≠ 0x40 ∨ field d 28 4 ≤ x.rg.batches ∨ x.rg.resting ≠ 0 ∨ x.marked ≠ 0 ∨ (freeSlots x 64).length < 64 then s
    else (nextBatch s x d).elim s (fun b =>
      (((((List.range 64).map (fun j => (b.1.drop (48 * j)).take 48)).zip (freeSlots x 64)).find? (fun e => rayBad e.1)).elim
        (rgPump n (batchTaken n i x d (stnFlush s x) (((List.range 64).map (fun j => (b.1.drop (48 * j)).take 48)).zip (freeSlots x 64)) b.2 s))
        (fun e => stationFault n stRayRecord 3 e.2 0 0 0 s))) := by
  unfold batchTakeS
  rw [← hs]
  dsimp only
  rw [liveDesc_eq hl hd]
  dsimp only
  congr 1
  cases nextBatch s x d with
  | none => rfl
  | some b =>
    obtain ⟨bs, st⟩ := b
    dsimp only [Option.elim]
    cases (((List.range 64).map (fun j => (bs.drop (48 * j)).take 48)).zip (freeSlots x 64)).find? (fun e => rayBad e.1) with
    | some e => rfl
    | none =>
      dsimp only [Option.elim]
      unfold batchTaken
      have hf : stnFlush (batchPops x st s) x = stnFlush s x := by
        rw [batchPops_frame]
        rfl
      rw [← hf]
      cases st <;> rfl

end

/-- RAY_BATCH_TAKE: when it takes none, when a record is refused, and what the batch it takes changes. -/
theorem rayBatchTake_all (s s0 : State) (n : Nat) (x : Stn) (i : Nat) (d : List Byte) (flush : Bool) (hup : s0.pwr.phase = .ready) (hi : issueHeld s0 = false)
    (hs : s = rgPump n s0) (hl : liveOf s n = some x) (hd : rgDesc x = some (i, d)) (hfl : flush = stnFlush s x) :
    (dOp d ≠ 0x40 ∨ field d 28 4 ≤ x.rg.batches ∨ x.rg.resting ≠ 0 ∨ x.marked ≠ 0 ∨ (freeSlots x 64).length < 64 ∨ nextBatch s x d = none → exec (.rayBatchTake n) s0 = .next s) ∧
      (∀ bs st recs, dOp d = 0x40 → x.rg.batches < field d 28 4 → x.rg.resting = 0 → x.marked = 0 → (freeSlots x 64).length = 64 → nextBatch s x d = some (bs, st) →
        recs = (List.range 64).map (fun j => (bs.drop (48 * j)).take 48) →
        (∀ (j : Nat) e (k : Nat), recs[j]? = some e → (freeSlots x 64)[j]? = some k → rayBad e = true → (∀ (i : Nat), i < j → ∀ e, recs[i]? = some e → rayBad e = false) →
          exec (.rayBatchTake n) s0 = .next (stationFault n 0xB4 3 k 0 0 0 s)) ∧
        ((∀ e ∈ recs, rayBad e = false) → ∃ r y, exec (.rayBatchTake n) s0 = .next (rgPump n r) ∧ stnOf r n = some y ∧ y.rg.batches = x.rg.batches + 1 ∧
          (y.rg.resting = 1 ↔ field d 27 1 ≠ 0 ∧ (x.rg.batches + 1) % field d 44 4 = 0) ∧
          (∀ (j : Nat) e (k : Nat), recs[j]? = some e → (freeSlots x 64)[j]? = some k → (bitOf (ryFlags e) 7 = true → tget? y.rg.rays k = none) ∧
            (bitOf (ryFlags e) 7 = false → ∃ z, tget? y.rg.rays k = some z ∧ z.ray = e ∧ z.cur = (if rayIdle flush e = true then [] else [(false, 0)]) ∧
              z.tmax = flushW flush (ryTmax e) ∧ z.hit = none ∧ z.todo = [] ∧ z.waitLine = none ∧ z.poisoned = false)) ∧
          (∀ k z, tget? x.rg.rays k = some z → tget? y.rg.rays k = some z) ∧ (∀ k, st = some k → bufOf r y k = (bufOf s x k).drop 6) ∧ y.ls = x.ls ∧ r.mem = s.mem)) := by
  have hexec : exec (.rayBatchTake n) s0 = .next (batchTakeS n s0) := ifRun_ready hup hi
  have hx := liveOf_stnOf s n x hl
  have heq := batchTakeS_eq hs hl hd
  subst hfl
  refine ⟨fun h => hexec.trans (congrArg _ ?_), fun bs st recs hop hb hr hm hfree hnb hrecs => ?_⟩
  · rw [heq]
    rcases h with h | h | h | h | h | h
    · exact if_pos (.inl h)
    · exact if_pos (.inr (.inl h))
    · exact if_pos (.inr (.inr (.inl h)))
    · exact if_pos (.inr (.inr (.inr (.inl h))))
    · exact if_pos (.inr (.inr (.inr (.inr h))))
    · rw [h]
      exact ite_self _
  · have hgo : ¬ (dOp d ≠ 0x40 ∨ field d 28 4 ≤ x.rg.batches ∨ x.rg.resting ≠ 0 ∨ x.marked ≠ 0 ∨ (freeSlots x 64).length < 64) := by omega
    rw [if_neg hgo, hnb] at heq
    dsimp only [Option.elim_some] at heq
    rw [← hrecs] at heq
    have hlen : recs.length = 64 := by rw [hrecs]; simp
    have hzip {j : Nat} {e : List Byte} {k : Nat} (h1 : recs[j]? = some e) (h2 : (freeSlots x 64)[j]? = some k) : (recs.zip (freeSlots x 64))[j]? = some (e, k) :=
      List.getElem?_zip_eq_some.2 ⟨h1, h2⟩
    refine ⟨fun j e k he hk hbad hgood => hexec.trans (congrArg _ ?_), fun hgood => ?_⟩
    · obtain ⟨hj, hje⟩ := List.getElem?_eq_some_iff.1 (hzip he hk)
      have hfind : (recs.zip (freeSlots x 64)).find? (fun e => rayBad e.1) = some (e, k) := by
        refine List.find?_eq_some_iff_getElem.2 ⟨hbad, j, hj, hje, fun m hm => ?_⟩
        rw [List.getElem_zip, hgood m hm _ (List.getElem?_eq_getElem (by rw [hlen]; simp at hj; omega))]
        rfl
      rw [heq, hfind]
      rfl
    · have hfind : (recs.zip (freeSlots x 64)).find? (fun e => rayBad e.1) = none := by
        refine List.find?_eq_none.2 (fun e he => ?_)
        rw [hgood e.1 (List.of_mem_zip he).1]
        simp
      rw [hfind] at heq
      have hsnd : (recs.zip (freeSlots x 64)).map (·.2) = freeSlots x 64 := List.map_snd_zip (by rw [hlen, hfree])
      have hpop : stnOf (batchPops x st s) n = some x := by
        rw [batchPops_frame]
        exact hx
      obtain ⟨h1, h2, h3⟩ := putRay_foldl (flush := stnFlush s x) (recs.zip (freeSlots x 64)) hpop
      have h4 := stnOf_setStn_same (stnOf_setStn_same h1 (fun y => { y with rg := { y.rg with
        batches := y.rg.batches + 1, resting := if decide (field d 27 1 ≠ 0 ∧ (x.rg.batches + 1) % field d 44 4 = 0) then 1 else y.rg.resting } }))
        (fun y => { y with works := tupd y.works i id })
      refine ⟨_, _, hexec.trans (congrArg _ heq), h4, rfl, ?_, fun j e k he hk => ?_, fun k z hz => ?_, fun k hk => ?_, rfl, ?_⟩
      · show (if _ then _ else x.rg.resting) = 1 ↔ _
        rw [hr]
        split
        · next hdue => exact ⟨fun _ => of_decide_eq_true hdue, fun _ => rfl⟩
        · next hdue => exact ⟨fun e => absurd e (by decide), fun hc => absurd (decide_eq_true hc) hdue⟩
      · have hat := rayPut_foldl_at (flush := stnFlush s x) (recs.zip (freeSlots x 64)) (by rw [hsnd]; exact freeSlots_nodup x 64) x.rg.rays
          (List.mem_of_getElem? (hzip he hk))
        refine ⟨fun hb7 => ?_, fun hb7 => ⟨newRay (stnFlush s x) e, ?_, rfl, rfl, rfl, rfl, rfl, rfl, rfl⟩⟩
        · exact hat.trans ((if_pos hb7).trans (mem_freeSlots (List.mem_of_getElem? hk)))
        · exact hat.trans (if_neg (by rw [hb7]; simp))
      · refine (rayPut_foldl_other (recs.zip (freeSlots x 64)) x.rg.rays ?_).trans hz
        rw [hsnd]
        intro hmem
        rw [mem_freeSlots hmem] at hz
        cases hz
      · subst hk
        have hbuf : bufOf ((recs.zip (freeSlots x 64)).foldl (putRay (stnFlush s x) n) (batchPops x (some k) s)) x k = bufOf (batchPops x (some k) s) x k := by
          unfold bufOf
          rw [instOf_of h3]
        exact hbuf.trans (bufOf_popFlits x k 6 s)
      · refine h2.trans ?_
        rw [batchPops_frame]

/-! ### MISS_FILL (R247-R249) -/

/-- A message is the fill of a miss register. -/
def fillsReg (n m : Nat) : Msg → Bool
  | .fill _ _ _ _ rs => rs.any (fun r => decide (r.who = .missReg n m))
  | _ => false

/-- What a line's arrival makes of a slot that waits for it. -/
def rayServed (a : Nat) (line : List Byte) (poison : Bool) (r : RaySt) : RaySt :=
  if r.waitLine = some a then { r with waitLine := none, poisoned := r.poisoned || poison, got := r.got ++ [(a, line)] } else r

theorem rayServed_twice (a : Nat) (line : List Byte) (poison : Bool) (r : RaySt) :
    rayServed a line poison (rayServed a line poison r) = rayServed a line poison r := by
  unfold rayServed
  split
  · simp
  · rfl

theorem rayServed_foldl (a : Nat) (line : List Byte) (poison : Bool) (ws : List Nat) (t : Tbl RaySt) (j : Nat) :
    tget? (ws.foldl (fun t k => tupd t k (rayServed a line poison)) t) j = (tget? t j).map (fun z => if j ∈ ws then rayServed a line poison z else z) := by
  induction ws generalizing t with
  | nil => simp
  | cons k r ih =>
    rw [List.foldl_cons, ih, tget?_tupd]
    by_cases hk : k = j
    · subst hk
      rw [if_pos rfl, Option.map_map]
      refine congrArg (fun g => Option.map g (tget? t k)) (funext fun z => ?_)
      simp only [Function.comp_apply, List.mem_cons, true_or, if_true]
      split
      · exact rayServed_twice a line poison z
      · rfl
    · rw [if_neg hk]
      simp only [List.mem_cons, Ne.symm hk, false_or]

theorem setRay_foldl {n : Nat} (f : RaySt → RaySt) (ws : List Nat) {s : State} {y : Stn} (hy : stnOf s n = some y) :
    stnOf (ws.foldl (fun s k => setRay n k f s) s) n = some { y with rg := { y.rg with rays := ws.foldl (fun t k => tupd t k f) y.rg.rays } } := by
  induction ws generalizing s y with
  | nil => exact hy
  | cons k r ih => exact ih (stnOf_setStn_same hy _)

theorem setRay_foldl_frame (n : Nat) (f : RaySt → RaySt) (ws : List Nat) (s : State) :
    ws.foldl (fun s k => setRay n k f s) s = { s with sch := { s.sch with stns := (ws.foldl (fun s k => setRay n k f s) s).sch.stns } } := by
  induction ws generalizing s with
  | nil => rfl
  | cons k r ih =>
    rw [List.foldl_cons, ih]
    rfl

theorem cacheInstall_rg (key : Nat) (line : List Byte) (x : Stn) : (cacheInstall key line x).rg = x.rg := by
  unfold cacheInstall
  dsimp only
  split <;> rfl

theorem missFillS_none {s : State} {n m : Nat} (h : s.home.net.find? (fillsReg n m) = none) : missFillS n m s = s := by
  unfold missFillS
  dsimp only
  rw [show List.find? _ s.home.net = none from (congrArg (List.find? · s.home.net) (funext fun g => by cases g <;> rfl)).trans h]

theorem missFillS_one {s : State} {n m k l : Nat} {data : List Byte} {poison : Bool} {r : Req} (hr : r.who = .missReg n m)
    (h : s.home.net.find? (fillsReg n m) = some (.fill k l data poison [r])) : missFillS n m s =
    serveMiss n m data poison { s with home := { s.home with net := s.home.net.erase (.fill k l data poison [r]) } } := by
  unfold missFillS
  dsimp only
  rw [show List.find? _ s.home.net = some (.fill k l data poison [r]) from (congrArg (List.find? · s.home.net) (funext fun g => by cases g <;> rfl)).trans h]
  dsimp only
  rw [List.filter_cons_of_neg (by simp [hr]), List.filter_nil]
  rfl

/-- The state in which a miss register's waiters have their line. -/
def missServed (n m a : Nat) (ws : List Nat) (line : List Byte) (poison : Bool) (s : State) : State :=
  ws.foldl (fun s k => setRay n k (rayServed a line poison) s) (setRg n (fun g => { g with miss := tdel g.miss m }) s)

/-- The line is installed in the station cache, where it may be. -/
def missInstalled (n a : Nat) (x : Stn) (line : List Byte) (inval poison : Bool) (s : State) : State :=
  (xlate s x a).elim s (fun p => if p.ro ∧ ¬ inval ∧ ¬ poison then setStn n (cacheInstall (lkey p.stack p.line) line) s else s)

theorem serveMiss_eq {s : State} {n m a : Nat} {x : Stn} {ws : List Nat} {inval : Bool} (hx : stnOf s n = some x) (hm : tget? x.rg.miss m = some (a, ws, inval))
    (line : List Byte) (poison : Bool) : serveMiss n m line poison s = rgPump n (missInstalled n a x line inval poison (missServed n m a ws line poison s)) := by
  unfold serveMiss
  rw [hx, Option.bind_some, hm, Option.map_some]
  unfold missInstalled missServed
  dsimp only
  have hf : (fun r : RaySt => if r.waitLine = some a then { r with waitLine := none, poisoned := r.poisoned || poison, got := r.got ++ [(a, line)] } else r) =
      rayServed a line poison := rfl
  rw [hf]
  generalize List.foldl (fun s k => setRay n k (rayServed a line poison) s) _ ws = u
  cases xlate u x a <;> rfl

theorem missInstalled_frame (n a : Nat) (x : Stn) (line : List Byte) (inval poison : Bool) {s : State} {y : Stn} (hy : stnOf s n = some y) :
    (∃ z, stnOf (missInstalled n a x line inval poison s) n = some z ∧ z.rg = y.rg) ∧ (missInstalled n a x line inval poison s).mem = s.mem ∧
      (missInstalled n a x line inval poison s).home = s.home := by
  unfold missInstalled
  cases xlate s x a with
  | none => exact ⟨⟨y, hy, rfl⟩, rfl, rfl⟩
  | some p =>
    dsimp only [Option.elim]
    split
    · exact ⟨⟨_, stnOf_setStn_same hy _, cacheInstall_rg _ _ _⟩, rfl, rfl⟩
    · exact ⟨⟨y, hy, rfl⟩, rfl, rfl⟩

/-- MISS_FILL gives the line to every slot that waits for it, and frees the register. -/
theorem missFill_serves (s : State) (n m : Nat) (hup : s.pwr.phase = .ready) (x : Stn) (k l : Nat) (data : List Byte) (poison : Bool) (r : Req) (a : Nat) (ws : List Nat)
    (inval : Bool) (hx : stnOf s n = some x) (hr : r.who = .missReg n m) (hm : tget? x.rg.miss m = some (a, ws, inval))
    (hf : s.home.net.find? (fillsReg n m) = some (.fill k l data poison [r])) :
    ∃ b y, exec (.missFill n m) s = .next (rgPump n b) ∧ stnOf b n = some y ∧ tget? y.rg.miss m = none ∧ b.home.net = s.home.net.erase (.fill k l data poison [r]) ∧ b.mem = s.mem ∧
      (∀ j, j ≠ m → tget? y.rg.miss j = tget? x.rg.miss j) ∧ ∀ j z, tget? x.rg.rays j = some z → tget? y.rg.rays j = some (if j ∈ ws ∧ z.waitLine = some a then
        { z with waitLine := none, poisoned := z.poisoned || poison, got := z.got ++ [(a, data)] } else z) := by
  let s1 : State := { s with home := { s.home with net := s.home.net.erase (.fill k l data poison [r]) } }
  have hx1 : stnOf s1 n = some x := hx
  have hdel := stnOf_setStn_same hx1 (fun y => { y with rg := { y.rg with miss := tdel y.rg.miss m } })
  have hserved : stnOf (missServed n m a ws data poison s1) n = _ := setRay_foldl (rayServed a data poison) ws hdel
  have hframe := setRay_foldl_frame n (rayServed a data poison) ws (setRg n (fun g => { g with miss := tdel g.miss m }) s1)
  obtain ⟨⟨y, hy, hrg⟩, hmem, hhome⟩ := missInstalled_frame n a x data inval poison hserved
  refine ⟨_, y, (ifUp_ready hup).trans (congrArg _ ((missFillS_one hr hf).trans (serveMiss_eq hx1 hm data poison))), hy, ?_, ?_, ?_, fun j hj => ?_, fun j z hz => ?_⟩
  · rw [hrg]
    show tget? (tdel x.rg.miss m) m = none
    rw [tget?_tdel, if_pos rfl]
  · rw [hhome]
    exact (congrArg (fun s : State => s.home.net) hframe :)
  · rw [hmem]
    exact (congrArg (fun s : State => s.mem) hframe :)
  · rw [hrg]
    show tget? (tdel x.rg.miss m) j = _
    rw [tget?_tdel, if_neg (Ne.symm hj)]
  · rw [hrg]
    refine (rayServed_foldl a data poison ws x.rg.rays j).trans ?_
    rw [hz, Option.map_some]
    congr 1
    unfold rayServed
    by_cases h1 : j ∈ ws
    · simp [h1]
    · simp [h1]

/-- Settles O48: a descriptor's first round, a batch put in its slots, results put in scratchpad, and a fill given to its waiters. -/
theorem rayAndGatherStation : Obligations.RayAndGatherStation := by
  unfold Obligations.RayAndGatherStation
  refine ⟨trace_begins, rayBatchTake_all, fun s n x i d hup hi hl hd => ⟨fun h => (ifRun_ready hup hi).trans (congrArg _ ?_), fun h1 h2 h3 h4 h5 h6 h7 =>
    resultBatchFlush_leaves s n x i d hup hi hl hd h1 h2 h3 h4 h5 h6 h7⟩, fun s n x d h => ⟨gather_starts h (.inl rfl), fun st h8 hs hb => gatherHash_waits s n x d h h8 hs hb⟩,
    fun s n x d h => ⟨gather_starts h (.inr rfl), gatherEmbed_zero s n x d h⟩, fun s n m hup => ⟨fun hnone => (ifUp_ready hup).trans (congrArg _ (missFillS_none ?_)),
      fun x k l data poison r a ws inval hx hr hm hf => missFill_serves s n m hup x k l data poison r a ws inval hx hr hm ?_⟩⟩
  · unfold batchFlushS
    rw [liveDesc_eq hl hd]
    dsimp only
    refine if_pos ?_
    rcases h with h | h | h
    · exact .inl h
    · exact .inr (.inl h)
    · exact .inr (.inr (by rw [h]; rfl))
  · refine List.find?_eq_none.2 (fun g hg hc => ?_)
    cases g with
    | fill k l data poison rs =>
      obtain ⟨r, hr, hw⟩ := List.any_eq_true.1 hc
      exact hnone _ hg k l data poison rs rfl r hr (of_decide_eq_true hw)
    | _ => cases hc
  · exact (congrArg (List.find? · s.home.net) (funext fun g => by cases g <;> rfl)).trans hf

end Sys2Proof.Machine
end

section
/-! PROOF. The matrix descriptors: the effect of one whose operands are in the local store, and how it runs (R97-R110). -/

namespace Sys2Proof.Machine

/-! ### What a descriptor takes in, and the attention block before it, depend on the list alone -/

section
variable {x y : Stn} (h : y.descs = x.descs)
include h

theorem descBefore_descs (op i : Nat) : descBefore y op i = descBefore x op i := by
  induction i with
  | zero => rfl
  | succ i ih =>
    unfold descBefore
    rw [h, ih]

theorem attnRows_descs (i : Nat) : attnRows y i = attnRows x i := by
  unfold attnRows
  rw [descBefore_descs h, h]

theorem attnCols_descs (i : Nat) : attnCols y i = attnCols x i := by
  unfold attnCols
  rw [descBefore_descs h, h]

theorem attnSum_descs (i : Nat) : attnSum y i = attnSum x i := by
  unfold attnSum
  rw [descBefore_descs h, h]

theorem feedsOf_descs (i : Nat) : feedsOf y i = feedsOf x i := by
  unfold feedsOf
  rw [attnCols_descs h, h]

end

/-! ### The effect does not look at where the station stands in its list -/

/-- The station elsewhere in its list, with other work in progress. -/
def atWork (a b : Nat) (c : Tbl Work) (x : Stn) : Stn := { x with next := a, started := b, works := c }

section
variable (a b : Nat) (c : Tbl Work)

theorem mxFlag_atWork (all : Bool) (fl : Nat) (x : Stn) : mxFlag all fl (atWork a b c x) = atWork a b c (mxFlag all fl x) := rfl

theorem putAcc_atWork (t0 n : Nat) (w : Mat) (x : Stn) : putAcc t0 n w (atWork a b c x) = atWork a b c (putAcc t0 n w x) := rfl

theorem countHist_atWork (k : Nat) (w : Mat) (x : Stn) : countHist k w (atWork a b c x) = atWork a b c (countHist k w x) := by
  unfold countHist
  split <;> rfl

theorem emitMat_atWork (flush : Bool) (e : Opnd) (m n round seed iter : Nat) (w : Mat) (x : Stn) :
    emitMat flush e m n round seed iter w (atWork a b c x) =
      (atWork a b c (emitMat flush e m n round seed iter w x).1, (emitMat flush e m n round seed iter w x).2) := by
  unfold emitMat
  dsimp only
  split
  · have h := List.foldl_hom (atWork a b c) (g₁ := fun y (r : (List Byte × Nat) × Nat) => lsPut (e.off + r.2 * e.pitch) r.1.1 y)
      (g₂ := fun y (r : (List Byte × Nat) × Nat) => lsPut (e.off + r.2 * e.pitch) r.1.1 y)
      (l := (encodeRows flush e w (drawOf round seed n iter) 0 0 m n).zipIdx) (init := x) (fun _ _ => rfl)
    rw [h]
  · rfl

theorem epiChain_atWork (flush : Bool) (x : Stn) (d : List Byte) (m n : Nat) (ps : List Nat) (w : Mat) :
    epiChain flush (atWork a b c x) d m n ps w = epiChain flush x d m n ps w := rfl

theorem mxFinish_atWork (flush all keep : Bool) (d : List Byte) (m n : Nat) (ps : List Nat) (w : Mat) (fl : Nat) (x : Stn) :
    mxFinish flush all keep d m n ps w fl (atWork a b c x) =
      (atWork a b c (mxFinish flush all keep d m n ps w fl x).1, (mxFinish flush all keep d m n ps w fl x).2) := by
  unfold mxFinish
  dsimp only
  rw [epiChain_atWork]
  split
  · rfl
  · have hk : (if keep = true then putAcc (mxAcc d) n w (atWork a b c x) else atWork a b c x) =
        atWork a b c (if keep = true then putAcc (mxAcc d) n w x else x) := by
      split <;> rfl
    rw [hk, emitMat_atWork]
    dsimp only
    rw [countHist_atWork, mxFlag_atWork]

theorem runMatmul_atWork (flush conv : Bool) (d : List Byte) (ps : List Nat) (ta tb tc : List (List Byte)) (x : Stn) :
    runMatmul flush conv d ps ta tb tc (atWork a b c x) =
      (atWork a b c (runMatmul flush conv d ps ta tb tc x).1, (runMatmul flush conv d ps ta tb tc x).2) :=
  mxFinish_atWork a b c flush false true d (mxM d) (mxN d) ps (matProduct flush conv x d (nth 0 ps 0) ta tb tc).1 (matProduct flush conv x d (nth 0 ps 0) ta tb tc).2 x

theorem runEltwise_atWork (flush : Bool) (d : List Byte) (ps : List Nat) (ta : List (List Byte)) (x : Stn) :
    runEltwise flush d ps ta (atWork a b c x) = (atWork a b c (runEltwise flush d ps ta x).1, (runEltwise flush d ps ta x).2) :=
  mxFinish_atWork a b c flush true false d (mxM d) (mxN d) ps _ _ x

theorem runReduce_atWork (flush : Bool) (d : List Byte) (pass : Nat) (ta : List (List Byte)) (x : Stn) :
    runReduce flush d pass ta (atWork a b c x) = atWork a b c (runReduce flush d pass ta x) := rfl

theorem runAttnPv_atWork (flush : Bool) (i : Nat) (d : List Byte) (ps : List Nat) (tv : List (List Byte)) (x : Stn) :
    runAttnPv flush i d ps tv (atWork a b c x) = atWork a b c (runAttnPv flush i d ps tv x) := by
  unfold runAttnPv
  dsimp only
  rw [attnRows_descs (x := x) (y := atWork a b c x) rfl, attnCols_descs (x := x) (y := atWork a b c x) rfl]
  refine List.foldl_hom (atWork a b c) ?_
  intro _ _
  rfl

theorem runAttnFinal_atWork (flush : Bool) (i : Nat) (d : List Byte) (ps : List Nat) (x : Stn) :
    runAttnFinal flush i d ps (atWork a b c x) = (atWork a b c (runAttnFinal flush i d ps x).1, (runAttnFinal flush i d ps x).2) := by
  unfold runAttnFinal
  dsimp only
  rw [attnSum_descs (x := x) (y := atWork a b c x) rfl, epiChain_atWork]
  split
  · rfl
  · rw [emitMat_atWork]
    dsimp only
    rw [countHist_atWork]
    rfl

/-- The effect of a descriptor whose operands are all in the local store. -/
theorem mxEffect_atWork {x : Stn} {i : Nat} (hf : feedsOf x i = []) (flush : Bool) (v w : Work) (hp : v.passes = w.passes) :
    mxEffect flush (atWork a b c x) i v = (atWork a b c (mxEffect flush x i w).1, (mxEffect flush x i w).2) := by
  have ht (k : Nat) : feedTiles (atWork a b c x) i v k = [] := by
    unfold feedTiles
    rw [(feedsOf_descs (x := x) (y := atWork a b c x) rfl i).trans hf]
    rfl
  have ht' (k : Nat) : feedTiles x i w k = [] := by
    unfold feedTiles
    rw [hf]
    rfl
  unfold mxEffect
  dsimp only
  rw [show (atWork a b c x).descs = x.descs from rfl, hp]
  simp only [ht, ht', runMatmul_atWork, runAttnPv_atWork, runAttnFinal_atWork, runEltwise_atWork, runReduce_atWork]
  (repeat' split) <;> rfl

end

/-! ### How a descriptor runs -/

/-- Sending leaves the one descriptor in progress, with what could not be sent. -/
theorem sendWork_one {s : State} {n i : Nat} {x : Stn} {w : Work} (h : OneWork s n i x w) :
    ∃ l, OneWork (sendWork n i s) n i x { w with outs := l } ∧ (w.outs = [] → l = []) := by
  let r := w.outs.foldl (sendOne (oneStn x i w)) (s, [])
  have hr : OneWork r.1 n i x w := by
    unfold OneWork stnOf
    rw [show r.1.sch.stns = s.sch.stns from foldl_sendOne_stns _ w.outs (s, [])]
    exact h
  refine ⟨r.2, ?_, fun e => ?_⟩
  · rw [sendWork_eq h.stn h.work]
    exact hr.set (fun v => { v with outs := r.2 })
  · show (w.outs.foldl (sendOne (oneStn x i w)) (s, [])).2 = []
    rw [e]
    rfl

section
variable {s : State} {n i : Nat} {x : Stn} {w : Work} (h : OneWork s n i x w) (hs : x.stopped = false)
include h hs

omit hs in
theorem takeFeed_empty {f : Feed} (hb : ∀ st, sinkStream s { x with works := [(i, w)] } f.port = some st → bufOf s { x with works := [(i, w)] } st = []) (k : Nat) :
    takeFeed n i f k s = s := by
  cases k with
  | zero => rfl
  | succ k =>
    unfold takeFeed
    rw [h.stn, h.work]
    dsimp only
    rw [show oneStn x i w = { x with works := [(i, w)] } from rfl]
    cases hp : sinkStream s { x with works := [(i, w)] } f.port with
    | none => rfl
    | some st =>
      rw [Option.map_some, hb st hp]

/-- A descriptor whose streams bring nothing waits. -/
theorem mxStep_waits (hw : w = { ord := w.ord, passes := w.passes }) (hl : ∃ f ∈ feedsOf x i, 0 < feedLen f)
    (hb : ∀ f ∈ feedsOf x i, ∀ st, sinkStream s { x with works := [(i, w)] } f.port = some st → bufOf s { x with works := [(i, w)] } st = []) :
    OneWork (mxStep n i [] true s) n i x w ∧ (mxStep n i [] true s).mem = s.mem := by
  have hx : stnOf s n = some { x with works := [(i, w)] } := h
  have hfs : feedsOf { x with works := [(i, w)] } i = feedsOf x i := feedsOf_descs (x := x) (by exact rfl) i
  have htake : (feedsOf x i).foldl (fun s f => if f.port ∈ ([] : List Nat) then s else takeFeed n i f 40 s) s = s := by
    have hall : ∀ l : List Feed, (∀ f ∈ l, f ∈ feedsOf x i) → l.foldl (fun s f => if f.port ∈ ([] : List Nat) then s else takeFeed n i f 40 s) s = s := by
      intro l
      induction l with
      | nil => intro _; rfl
      | cons f r ih =>
        intro hm
        rw [List.foldl_cons, if_neg (by simp), takeFeed_empty h (hb f (hm f List.mem_cons_self))]
        exact ih (fun g hg => hm g (List.mem_cons_of_mem _ hg))
    exact hall _ (fun f hf => hf)
  have hfull : ¬ (w.count = 0 ∧ (feedsOf x i).all (feedFull w) = true) := by
    rintro ⟨-, hall⟩
    obtain ⟨f, hf, hpos⟩ := hl
    have := List.all_eq_true.1 hall f hf
    unfold feedFull at this
    rw [hw] at this
    have := of_decide_eq_true this
    simp [tget, tget?] at this
    omega
  have ho : w.outs = [] := by rw [hw]
  have hc : w.count = 0 := by rw [hw]
  obtain ⟨he, h1⟩ := sendWork_none h ho
  have hstep : mxStep n i [] true s = setWork n i (fun w => if w.count = 1 ∧ w.outs.isEmpty then { w with st := .fin } else w) (sendWork n i s) := by
    unfold mxStep
    rw [hx]
    dsimp only
    rw [hfs, htake, hx, h.work]
    dsimp only
    rw [hs, if_neg (by simp), if_neg hfull, if_pos rfl]
  rw [hstep]
  refine ⟨setWork_same h1 (if_neg (by rw [hc]; simp)), ?_⟩
  rw [he]
  rfl

/-- A descriptor that takes nothing in has its effect at once, and is complete where it sends nothing. -/
theorem mxStep_runs (hc : w.count = 0) (hf : feedsOf x i = []) {r : Stn × List (Nat × Flit)}
    (hr : mxEffect (stnFlush s x) { x with works := [(i, w)] } i w = r) :
    ∃ v, OneWork (mxStep n i [] true s) n i r.1 v ∧ v.ord = w.ord ∧ v.passes = w.passes ∧ (r.2 = [] → v.st = .fin) ∧ (mxStep n i [] true s).mem = s.mem := by
  have hx : stnOf s n = some { x with works := [(i, w)] } := h
  have hf' : feedsOf { x with works := [(i, w)] } i = [] := (feedsOf_descs (x := x) (by exact rfl) i).trans hf
  let w1 : Work := { w with count := 1, feeds := [], outs := r.2 }
  have h1 : OneWork (setStn n (fun _ => { r.1 with works := tupd [(i, w)] i (fun w => { w with count := 1, feeds := [], outs := r.2 }) }) s) n i r.1 w1 := by
    refine (stnOf_setStn_same hx _).trans ?_
    simp [tupd, w1]
  have hstep : mxStep n i [] true s = setWork n i (fun w => if w.count = 1 ∧ w.outs.isEmpty then { w with st := .fin } else w) (sendWork n i
      (setStn n (fun _ => { r.1 with works := tupd [(i, w)] i (fun w => { w with count := 1, feeds := [], outs := r.2 }) }) s)) := by
    unfold mxStep
    rw [hx]
    dsimp only
    rw [hf', List.foldl_nil, hx, h.work]
    dsimp only
    rw [if_neg (show ¬ x.stopped = true by rw [hs]; simp), if_pos (show w.count = 0 ∧ ([] : List Feed).all (feedFull w) = true from ⟨hc, rfl⟩), if_pos rfl]
    rw [show mxEffect (stnFlush s { x with works := [(i, w)] }) { x with works := [(i, w)] } i w = r from hr]
  obtain ⟨l, h2, hl⟩ := sendWork_one h1
  have h3 := h2.set (fun w => if w.count = 1 ∧ w.outs.isEmpty then { w with st := .fin } else w)
  rw [hstep]
  refine ⟨_, h3, ?_, ?_, fun e => ?_, ?_⟩
  · split <;> rfl
  · split <;> rfl
  · rw [hl e]
    rfl
  · show (sendWork n i _).mem = s.mem
    rw [sendWork_frame]
    rfl

end

end Sys2Proof.Machine
end

section
/-! PROOF. The matrix descriptors, element by element (R97-R110), and their obligation. -/

namespace Sys2Proof.Machine

/-! ### Values set one after another -/

theorem tget_foldl_tset_mem {α : Type} [DecidableEq α] (z : α) (l : List (Nat × α)) {k : Nat} {v : α} (hm : ∃ e ∈ l, e.1 = k)
    (hv : ∀ e ∈ l, e.1 = k → e.2 = v) (t : Tbl α) : tget z (l.foldl (fun t e => tset z t e.1 e.2) t) k = v := by
  induction l using List.reverseRecOn with
  | nil =>
    obtain ⟨e, he, -⟩ := hm
    cases he
  | append_singleton l a ih =>
    rw [List.foldl_append, List.foldl_cons, List.foldl_nil, tget_tset]
    by_cases ha : a.1 = k
    · rw [if_pos ha]
      exact hv a (List.mem_append_right _ (List.mem_singleton_self a)) ha
    · rw [if_neg ha]
      obtain ⟨e, he, hk⟩ := hm
      refine ih ⟨e, ?_, hk⟩ (fun e he => hv e (List.mem_append_left _ he))
      rcases List.mem_append.1 he with he | he
      · exact he
      · exact absurd (List.mem_singleton.1 he ▸ hk) ha

/-! ### Elements of a matrix -/

/-- Element (i, j) of a matrix, where it has one. -/
def elemAt (w : Mat) (i j : Nat) : Option Word := w[i]?.bind (·[j]?)

/-- No row has more than `n` elements. -/
def RowsIn (w : Mat) (n : Nat) : Prop := ∀ r ∈ w, r.length ≤ n

theorem elemAt_matOf {r c i j : Nat} (hi : i < r) (hj : j < c) (f : Nat → Nat → Word × Nat) : elemAt (matOf r c f).1 i j = some (f i j).1 := by
  unfold elemAt matOf
  simp [hi, hj]

theorem rowsIn_matOf (r c : Nat) (f : Nat → Nat → Word × Nat) : RowsIn (matOf r c f).1 c := by
  intro row hrow
  unfold matOf at hrow
  simp only [List.mem_map, exists_exists_and_eq_and] at hrow
  obtain ⟨i, -, rfl⟩ := hrow
  simp

theorem elemAt_matMap (w : Mat) (f : Nat → Nat → Word → Word × Nat) (i j : Nat) : elemAt (matMap w f).1 i j = (elemAt w i j).map (fun v => (f i j v).1) := by
  unfold elemAt matMap
  simp only [List.getElem?_map, List.getElem?_zipIdx, Nat.zero_add]
  cases w[i]? with
  | none => rfl
  | some row => simp [Function.comp_def]

theorem rowsIn_matMap {w : Mat} {n : Nat} (h : RowsIn w n) (f : Nat → Nat → Word → Word × Nat) : RowsIn (matMap w f).1 n := by
  intro row hrow
  unfold matMap at hrow
  simp only [List.mem_map, exists_exists_and_eq_and] at hrow
  obtain ⟨e, he, rfl⟩ := hrow
  simp only [List.length_map, List.length_zipIdx]
  exact h _ (List.fst_mem_of_mem_zipIdx he)

/-- Place of an element in the accumulator. -/
def accKey (t0 n i j : Nat) : Nat := (t0 + i / 64 * ceilDiv n 64 + j / 64) * 4096 + 64 * (i % 64) + j % 64

theorem accKey_inj {t0 n i j i' j' : Nat} (hj : j < n) (hj' : j' < n) (h : accKey t0 n i j = accKey t0 n i' j') : i = i' ∧ j = j' := by
  unfold accKey at h
  have hc : j / 64 < ceilDiv n 64 := by unfold ceilDiv; omega
  have hc' : j' / 64 < ceilDiv n 64 := by unfold ceilDiv; omega
  generalize ceilDiv n 64 = c at *
  have h1 : i % 64 = i' % 64 ∧ j % 64 = j' % 64 ∧ i / 64 * c + j / 64 = i' / 64 * c + j' / 64 := by omega
  obtain ⟨hi, hjm, hq⟩ := h1
  have hpos : 0 < c := by omega
  have hdiv : i / 64 = i' / 64 := by
    have := congrArg (· / c) hq
    simpa [Nat.add_comm, Nat.add_mul_div_right _ _ hpos, Nat.div_eq_of_lt hc, Nat.div_eq_of_lt hc'] using this
  rw [hdiv] at hq
  omega

theorem putAcc_acc (t0 n : Nat) (w : Mat) (x : Stn) : (putAcc t0 n w x).acc =
    (w.zipIdx.flatMap (fun r => r.1.zipIdx.map (fun e => (accKey t0 n r.2 e.2, e.1)))).foldl (fun t e => tset 0 t e.1 e.2) x.acc := by
  rw [List.foldl_flatMap]
  simp only [List.foldl_map]
  rfl

/-- An element put in the accumulator is read back. -/
theorem accAt_putAcc {t0 n i j : Nat} {w : Mat} {v : Word} (hw : RowsIn w n) (hv : elemAt w i j = some v) (x : Stn) : accAt (putAcc t0 n w x) t0 n i j = v := by
  obtain ⟨row, hrow, hval⟩ := Option.bind_eq_some_iff.1 hv
  have hj : j < n := (List.getElem?_eq_some_iff.1 hval).1.trans_le (hw row (List.mem_of_getElem? hrow))
  show tget 0 (putAcc t0 n w x).acc (accKey t0 n i j) = v
  rw [putAcc_acc]
  refine tget_foldl_tset_mem 0 _ ⟨(accKey t0 n i j, v), List.mem_flatMap.2 ⟨(row, i), List.mem_zipIdx_iff_getElem?.2 hrow,
    List.mem_map.2 ⟨(v, j), List.mem_zipIdx_iff_getElem?.2 hval, rfl⟩⟩, rfl⟩ (fun e he hk => ?_) x.acc
  obtain ⟨r, hr, he⟩ := List.mem_flatMap.1 he
  obtain ⟨q, hq, rfl⟩ := List.mem_map.1 he
  have hr' := List.mem_zipIdx_iff_getElem?.1 hr
  have hq' := List.mem_zipIdx_iff_getElem?.1 hq
  have hqn : q.2 < n := (List.getElem?_eq_some_iff.1 hq').1.trans_le (hw r.1 (List.mem_of_getElem? hr'))
  obtain ⟨h1, h2⟩ := accKey_inj hqn hj hk
  rw [h1, hrow] at hr'
  obtain rfl := Option.some.inj hr'
  rw [h2, hval] at hq'
  exact (Option.some.inj hq').symm

/-- A row of values put in vector registers is read back. -/
theorem vregAt_foldl {reg i : Nat} {rs : List (Word × Nat)} {v : Word × Nat} (h : rs[i]? = some v) (t : Tbl Word) :
    tget 0 (rs.zipIdx.foldl (fun t r => tset 0 t (64 * reg + r.2) r.1.1) t) (64 * reg + i) = v.1 := by
  have hf := List.foldl_map (f := fun r : (Word × Nat) × Nat => (64 * reg + r.2, r.1.1)) (g := fun (t : Tbl Word) (e : Nat × Word) => tset 0 t e.1 e.2) (l := rs.zipIdx) (init := t)
  refine (congrArg (tget 0 · (64 * reg + i)) hf.symm).trans (tget_foldl_tset_mem 0 _ ⟨(64 * reg + i, v.1),
    List.mem_map.2 ⟨(v, i), List.mem_zipIdx_iff_getElem?.2 h, rfl⟩, rfl⟩ (fun e he hk => ?_) t)
  obtain ⟨q, hq, rfl⟩ := List.mem_map.1 he
  have hq' := List.mem_zipIdx_iff_getElem?.1 hq
  have : q.2 = i := by
    simp only at hk
    omega
  rw [this, h] at hq'
  rw [Option.some.inj hq']

/-! ### The effects keep the station's list -/

theorem emitMat_descs (flush : Bool) (e : Opnd) (m n round seed iter : Nat) (w : Mat) (x : Stn) : (emitMat flush e m n round seed iter w x).1.descs = x.descs := by
  have hf (l : List ((List Byte × Nat) × Nat)) (y : Stn) : (l.foldl (fun y r => lsPut (e.off + r.2 * e.pitch) r.1.1 y) y).descs = y.descs := by
    induction l generalizing y with
    | nil => rfl
    | cons a r ih => exact ih _
  unfold emitMat
  dsimp only
  split
  · exact hf _ x
  · rfl

theorem countHist_descs (k : Nat) (w : Mat) (x : Stn) : (countHist k w x).descs = x.descs := by
  unfold countHist
  split <;> rfl

theorem mxFinish_descs (flush all keep : Bool) (d : List Byte) (m n : Nat) (ps : List Nat) (w : Mat) (fl : Nat) (x : Stn) :
    (mxFinish flush all keep d m n ps w fl x).1.descs = x.descs := by
  unfold mxFinish
  dsimp only
  split
  · rfl
  · refine (countHist_descs _ _ _).trans ((emitMat_descs _ _ _ _ _ _ _ _ _).trans ?_)
    split <;> rfl

theorem runAttnPv_descs (flush : Bool) (i : Nat) (d : List Byte) (ps : List Nat) (tv : List (List Byte)) (x : Stn) :
    (runAttnPv flush i d ps tv x).descs = x.descs := by
  unfold runAttnPv
  dsimp only
  refine List.foldlRecOn (motive := fun y : Stn => y.descs = x.descs) _ _ rfl (fun y hy r _ => hy)

theorem runAttnFinal_descs (flush : Bool) (i : Nat) (d : List Byte) (ps : List Nat) (x : Stn) : (runAttnFinal flush i d ps x).1.descs = x.descs := by
  unfold runAttnFinal
  dsimp only
  split
  · rfl
  · exact (countHist_descs _ _ _).trans (emitMat_descs _ _ _ _ _ _ _ _ _)

theorem mxEffect_descs (flush : Bool) (x : Stn) (i : Nat) (w : Work) : (mxEffect flush x i w).1.descs = x.descs := by
  unfold mxEffect
  dsimp only
  split
  · exact mxFinish_descs ..
  · split
    · exact mxFinish_descs ..
    · split
      · exact runAttnPv_descs ..
      · split
        · exact runAttnFinal_descs ..
        · split
          · exact mxFinish_descs ..
          · rfl

/-! ### What each leaves -/

section
variable {flush : Bool} {x : Stn} {d : List Byte}

theorem epiChain_none (h : mxEpi d = 0) (x : Stn) (m n : Nat) (ps : List Nat) (w : Mat) : epiChain flush x d m n ps w = (w, 0) := by
  unfold epiChain epiSteps
  rw [h]
  rfl

theorem epiChain_scale (h : mxEpi d = 1) (h1 : (epiStep d 0).1 = 1) (x : Stn) (m n : Nat) (ps : List Nat) (w : Mat) :
    (epiChain flush x d m n ps w).1 = (matMap w (fun _ _ v => mul32 flush v (BitVec.ofNat 32 (epiStep d 0).2.2))).1 := by
  unfold epiChain epiSteps
  rw [h]
  show (epiRun flush x m n ps w (epiStep d 0)).1 = _
  unfold epiRun
  dsimp only
  rw [if_pos h1]

/-- Without OUT the result stays in the accumulator tiles. -/
theorem mxFinish_acc (ho : mxNoOut d = true) (all keep : Bool) (m n : Nat) (ps : List Nat) (w : Mat) (fl : Nat) :
    (mxFinish flush all keep d m n ps w fl x).1.acc = (putAcc (mxAcc d) n (epiChain flush x d m n ps w).1 x).acc := by
  unfold mxFinish
  dsimp only
  rw [if_pos ho]
  rfl

theorem accAt_congr {y z : Stn} (h : y.acc = z.acc) (t0 n i j : Nat) : accAt y t0 n i j = accAt z t0 n i j := by
  unfold accAt
  rw [h]

theorem mxFinish_plain (ho : mxNoOut d = true) (he : mxEpi d = 0) (all keep : Bool) {m n i j : Nat} (ps : List Nat) {w : Mat} (fl : Nat) {v : Word} (hw : RowsIn w n)
    (hv : elemAt w i j = some v) : accAt (mxFinish flush all keep d m n ps w fl x).1 (mxAcc d) n i j = v := by
  rw [accAt_congr (mxFinish_acc ho all keep m n ps w fl), epiChain_none he]
  exact accAt_putAcc hw hv x

theorem mxFinish_scaled (ho : mxNoOut d = true) (he : mxEpi d = 1) (h1 : (epiStep d 0).1 = 1) (all keep : Bool) {m n i j : Nat} (ps : List Nat) {w : Mat} (fl : Nat)
    {v : Word} (hw : RowsIn w n) (hv : elemAt w i j = some v) :
    accAt (mxFinish flush all keep d m n ps w fl x).1 (mxAcc d) n i j = (mul32 flush v (BitVec.ofNat 32 (epiStep d 0).2.2)).1 := by
  rw [accAt_congr (mxFinish_acc ho all keep m n ps w fl), epiChain_scale he h1]
  refine accAt_putAcc (rowsIn_matMap hw _) ?_ x
  rw [elemAt_matMap, hv]
  rfl

/-- The sum of products of an element: what the tile held where it is kept, the addend, and the products. -/
theorem elemAt_matProduct {conv : Bool} {pass i j : Nat} (hi : i < mxM d) (hj : j < mxN d) {p : List FV × Nat × Bool} {z : FV} {c : List FV}
    (hp : p = prodTerms (mxK d) (aValue flush conv x [] d (opndOn d 24 pass) i) (fun k => bValue flush x [] d (opndOn d 40 pass) k j))
    (hz : z = (if mxKeep d = true then (readF flush fF32 (accAt x (mxAcc d) (mxN d) i j).toNat).1 else .fin false 0 0))
    (hc : c = (if (opndOn d 56 pass).src = 0xFF then [] else [(opndElem flush x [] (opndOn d 56 pass) (mxM d) (mxN d) false i j).1])) :
    elemAt (matProduct flush conv x d pass [] [] []).1 i j = some (sumOf flush p.2.2 (z :: (c ++ p.1))).1 := by
  subst hp hz hc
  unfold matProduct
  dsimp only
  rw [elemAt_matOf hi hj]
  have hz' : (if mxKeep d = true then readF flush fF32 (accAt x (mxAcc d) (mxN d) i j).toNat else (FV.fin false 0 0, 0)).1 =
      (if mxKeep d = true then (readF flush fF32 (accAt x (mxAcc d) (mxN d) i j).toNat).1 else .fin false 0 0) := by
    split <;> rfl
  have hc' : ((if (opndOn d 56 pass).src = 0xFF then none else some (opndElem flush x [] (opndOn d 56 pass) (mxM d) (mxN d) false i j)).map (·.1)).toList =
      (if (opndOn d 56 pass).src = 0xFF then [] else [(opndElem flush x [] (opndOn d 56 pass) (mxM d) (mxN d) false i j).1]) := by
    split <;> rfl
  dsimp only
  rw [hz', hc']

/-- The results of a REDUCE, by axis. -/
theorem runReduce_vreg (pass : Nat) (ta : List (List Byte)) : (runReduce flush d pass ta x).vreg =
    (if field d 29 1 = 0 then (matOf (field d 24 2) (field d 26 2) (fun i j =>
        let v := opndElem flush x ta (opndOn d 8 pass) (field d 24 2) (field d 26 2) false i j
        let p := writeF flush fF32 (packV fF32 none v.1)
        (BitVec.ofNat 32 p.1, v.2 ||| p.2))).1.map (reduceOf flush (field d 28 1))
      else if field d 29 1 = 1 then (List.range (field d 26 2)).map (fun j => reduceOf flush (field d 28 1) ((matOf (field d 24 2) (field d 26 2) (fun i j =>
        let v := opndElem flush x ta (opndOn d 8 pass) (field d 24 2) (field d 26 2) false i j
        let p := writeF flush fF32 (packV fF32 none v.1)
        (BitVec.ofNat 32 p.1, v.2 ||| p.2))).1.map (fun r => r.getD j 0)))
      else [reduceOf flush (field d 28 1) ((matOf (field d 24 2) (field d 26 2) (fun i j =>
        let v := opndElem flush x ta (opndOn d 8 pass) (field d 24 2) (field d 26 2) false i j
        let p := writeF flush fF32 (packV fF32 none v.1)
        (BitVec.ofNat 32 p.1, v.2 ||| p.2))).1.flatMap id)]).zipIdx.foldl (fun t r => tset 0 t (64 * field d 30 1 + r.2) r.1.1) x.vreg := rfl

end

end Sys2Proof.Machine
end

section
/-! PROOF. REDUCE, the attention blocks, and the obligation of the matrix descriptors (R97-R110). -/

namespace Sys2Proof.Machine

/-! ### REDUCE (R110) -/

theorem matOf_rows (r c : Nat) (f : Nat → Nat → Word × Nat) : (matOf r c f).1 = (List.range r).map (fun i => (List.range c).map (fun j => (f i j).1)) := by
  unfold matOf
  simp [Function.comp_def]

section
variable {flush : Bool} {x : Stn} {d : List Byte} {pass : Nat} {e : Nat → Nat → Word}
  (he : ∀ i j, e i j = BitVec.ofNat 32 (writeF flush fF32 (packV fF32 none (opndElem flush x [] (opndOn d 8 pass) (field d 24 2) (field d 26 2) false i j).1)).1)
include he

/-- The rows that a REDUCE sees. -/
theorem reduce_rows : (matOf (field d 24 2) (field d 26 2) (fun i j =>
      let v := opndElem flush x [] (opndOn d 8 pass) (field d 24 2) (field d 26 2) false i j
      let p := writeF flush fF32 (packV fF32 none v.1)
      (BitVec.ofNat 32 p.1, v.2 ||| p.2))).1 = (List.range (field d 24 2)).map (fun i => (List.range (field d 26 2)).map (e i)) := by
  rw [matOf_rows]
  refine List.map_congr_left (fun i _ => List.map_congr_left (fun j _ => ?_))
  exact (he i j).symm

theorem reduce_byRow (h0 : field d 29 1 = 0) {i : Nat} (hi : i < field d 24 2) : vregAt (runReduce flush d pass [] x) (field d 30 1) i =
    (reduceOf flush (field d 28 1) ((List.range (field d 26 2)).map (e i))).1 := by
  unfold vregAt
  rw [runReduce_vreg, if_pos h0, reduce_rows he]
  exact vregAt_foldl (by simp [hi]) _

theorem reduce_byColumn (h1 : field d 29 1 = 1) {j : Nat} (hj : j < field d 26 2) : vregAt (runReduce flush d pass [] x) (field d 30 1) j =
    (reduceOf flush (field d 28 1) ((List.range (field d 24 2)).map (fun i => e i j))).1 := by
  have hcol : ((List.range (field d 24 2)).map (fun i => (List.range (field d 26 2)).map (e i))).map (fun r => r.getD j 0) =
      (List.range (field d 24 2)).map (fun i => e i j) := by
    rw [List.map_map]
    refine List.map_congr_left (fun i _ => ?_)
    simp [hj]
  unfold vregAt
  rw [runReduce_vreg, if_neg (by omega), if_pos h1, reduce_rows he]
  refine vregAt_foldl (v := reduceOf flush (field d 28 1) ((List.range (field d 24 2)).map (fun i => e i j))) ?_ _
  rw [List.getElem?_map, List.getElem?_range hj, Option.map_some, hcol]

theorem reduce_whole (h2 : field d 29 1 = 2) : vregAt (runReduce flush d pass [] x) (field d 30 1) 0 =
    (reduceOf flush (field d 28 1) ((List.range (field d 24 2)).flatMap (fun i => (List.range (field d 26 2)).map (e i)))).1 := by
  unfold vregAt
  rw [runReduce_vreg, if_neg (by omega), if_neg (by omega), reduce_rows he, List.flatMap_map]
  exact vregAt_foldl rfl _

end

/-! ### ATTN_PV (R107) -/

/-- The greater of a row's old maximum and those of the block's scores. -/
def attnMax (flush : Bool) (x : Stn) (d : List Byte) (r : Nat) : Word :=
  (((List.range 64).map (fun j => accAt x (field d 8 1) 64 r j)).foldl (fun a v => let q := ext32 flush true a.1 v; (q.1, a.2 ||| q.2))
    (if decide (field d 13 1 = 1) then 0xFF800000#32 else vregAt x (field d 10 1) r, 0)).1

theorem attnMax_eq (flush : Bool) (x : Stn) (d : List Byte) (r : Nat) : attnMax flush x d r = (List.range 64).foldl (fun a j =>
    (ext32 flush true a (accAt x (field d 8 1) 64 r j)).1) (if field d 13 1 = 1 then 0xFF800000#32 else vregAt x (field d 10 1) r) := by
  unfold attnMax
  rw [List.foldl_map]
  simp only [decide_eq_true_eq]
  exact (List.foldl_hom Prod.fst (fun _ _ => rfl)).symm

theorem attnPv_max {flush : Bool} {i : Nat} {d : List Byte} {ps : List Nat} {tv : List (List Byte)} {x : Stn} (hne : field d 10 1 ≠ field d 11 1)
    (hr : attnRows x i ≤ 64) {r : Nat} (h : r < attnRows x i) : vregAt (runAttnPv flush i d ps tv x) (field d 10 1) r = attnMax flush x d r := by
  unfold vregAt runAttnPv
  dsimp only
  generalize attnRows x i = m at *
  induction m with
  | zero => cases h
  | succ m ih =>
    rw [show List.range (m + 1) = List.range m ++ [m] from List.range_succ, List.foldl_append, List.foldl_cons, List.foldl_nil]
    show tget 0 (tset 0 (tset 0 (List.foldl _ x (List.range m)).vreg (64 * field d 10 1 + m) (attnMax flush x d m)) (64 * field d 11 1 + m) _) _ = _
    rw [tget_tset, if_neg (by omega), tget_tset]
    by_cases e : r = m
    · rw [if_pos (by omega), e]
    · rw [if_neg (by omega)]
      exact ih (by omega) (by omega)

/-! ### ATTN_FINAL (R108) -/

section
variable {flush : Bool} {i : Nat} {d : List Byte} {ps : List Nat} {x : Stn} (ho : mxNoOut d = true) (he : mxEpi d = 0) {r c : Nat} (hr : r < mxM d) (hc : c < mxN d)
include ho he hr hc

/-- A row of O over its row sum, or zero where every score was masked. -/
theorem attnFinal_acc : accAt (runAttnFinal flush i d ps x).1 (mxAcc d) (mxN d) r c =
    if (decide (vregAt x (attnSum x i) r &&& 0x7FFFFFFF#32 = 0) && (List.range (mxN d)).all (fun c => decide (accAt x (mxAcc d) (mxN d) r c &&& 0x7FFFFFFF#32 = 0))) = true
    then 0#32 else (div32 flush (accAt x (mxAcc d) (mxN d) r c) (vregAt x (attnSum x i) r)).1 := by
  unfold runAttnFinal
  dsimp only
  rw [if_pos ho, epiChain_none he]
  refine (accAt_congr (z := putAcc (mxAcc d) (mxN d) _ x) rfl _ _ _ _).trans (accAt_putAcc ?_ ?_ x)
  · intro row hrow
    obtain ⟨e, hm, rfl⟩ := List.mem_map.1 hrow
    have hl := rowsIn_matOf (mxM d) (mxN d) _ _ (List.fst_mem_of_mem_zipIdx hm)
    split
    · simpa using hl
    · exact hl
  · have hw := elemAt_matOf hr hc (fun r c => if (decide (vregAt x (attnSum x i) r &&& 0x7FFFFFFF#32 = 0) &&
      (List.range (mxN d)).all (fun c => decide (accAt x (mxAcc d) (mxN d) r c &&& 0x7FFFFFFF#32 = 0))) = true then ((0, 0) : Word × Nat)
      else div32 flush (accAt x (mxAcc d) (mxN d) r c) (vregAt x (attnSum x i) r))
    obtain ⟨row, hrow, hval⟩ := Option.bind_eq_some_iff.1 hw
    unfold elemAt
    rw [List.getElem?_map, List.getElem?_zipIdx, hrow, Option.map_some, Option.map_some, Option.bind_some, Nat.zero_add]
    dsimp only
    split
    · rw [List.getElem?_map, hval]
      rfl
    · next hm =>
      rw [hval, if_neg hm]

theorem attnFinal_divides (hs : vregAt x (attnSum x i) r &&& 0x7FFFFFFF#32 ≠ 0) : accAt (runAttnFinal flush i d ps x).1 (mxAcc d) (mxN d) r c =
    (div32 flush (accAt x (mxAcc d) (mxN d) r c) (vregAt x (attnSum x i) r)).1 := by
  rw [attnFinal_acc ho he hr hc, decide_eq_false hs]
  rfl

theorem attnFinal_masked (hs : vregAt x (attnSum x i) r &&& 0x7FFFFFFF#32 = 0) (hz : ∀ c < mxN d, accAt x (mxAcc d) (mxN d) r c &&& 0x7FFFFFFF#32 = 0) :
    accAt (runAttnFinal flush i d ps x).1 (mxAcc d) (mxN d) r c = 0#32 := by
  rw [attnFinal_acc ho he hr hc, decide_eq_true hs]
  exact if_pos (List.all_eq_true.2 (fun c hc => decide_eq_true (hz c (List.mem_range.1 hc))))

end

/-! ### The commands -/

/-- The matrix descriptors' OPs. -/
def mxOps : List Nat := [0x10, 0x11, 0x12, 0x13, 0x14, 0x20, 0x21]

section
variable {s : State} {n op : Nat} {x : Stn} {d : List Byte} {cmd : Instr}
  (hcmd : (op, cmd) ∈ ([(0x10, .matmul n), (0x11, .conv n), (0x12, .attnScore n), (0x13, .attnPv n), (0x14, .attnFinal n), (0x20, .eltwise n), (0x21, .reduce n)] : List (Nat × Instr)))
include hcmd

theorem mx_op : op ∈ mxOps := List.mem_map_of_mem (f := Prod.fst) hcmd

theorem mx_exec (s : State) : exec cmd s = descOut op n (tileGo n) s := by
  simp only [List.mem_cons, Prod.mk.injEq, List.not_mem_nil, or_false] at hcmd
  rcases hcmd with ⟨rfl, rfl⟩ | ⟨rfl, rfl⟩ | ⟨rfl, rfl⟩ | ⟨rfl, rfl⟩ | ⟨rfl, rfl⟩ | ⟨rfl, rfl⟩ | ⟨rfl, rfl⟩ <;> rfl

/-- A matrix descriptor that starts takes its first step. -/
theorem mx_runs (h : DescReady s n op x d) (hw : x.works = []) : exec cmd s = .next (mxStep n x.next [] true (beginWork n x.next {} s)) := by
  have ho := mx_op hcmd
  have hstep : stepWork n x.next op [] true true (beginWork n x.next {} s) = mxStep n x.next [] true (beginWork n x.next {} s) := by
    unfold stepWork
    revert ho
    unfold mxOps
    simp only [List.mem_cons, List.not_mem_nil, or_false]
    rintro (rfl | rfl | rfl | rfl | rfl | rfl | rfl) <;> rfl
  refine (mx_exec hcmd s).trans ((descOut_ready h _).trans (congrArg _ ((tileGo_steps h hw ?_).trans hstep)))
  revert ho
  unfold mxOps
  simp only [List.mem_cons, List.not_mem_nil, or_false]
  omega

/-- With streams that bring nothing it starts and changes no data. -/
theorem mx_waits (h : DescReady s n op x d) (hw : x.works = []) (hl : ∃ f ∈ feedsOf x x.next, 0 < feedLen f)
    (hb : ∀ f ∈ feedsOf x x.next, ∀ st, sinkStream s x f.port = some st → bufOf s x st = []) :
    ∃ t y, exec cmd s = .next t ∧ Begun t n x.next x y .run ∧ y.ls = x.ls ∧ y.acc = x.acc ∧ y.vreg = x.vreg ∧ y.flags = x.flags ∧ t.mem = s.mem := by
  have hone := beginWork_oneWork (liveOf_stnOf s n x h.2.2.1) hw
  obtain ⟨h1, hm⟩ := mxStep_waits hone (liveOf_running (x := x) h.2.2.1) rfl (by rw [feedsOf_descs (x := x) (by exact rfl)]; exact hl)
    (by rw [feedsOf_descs (x := x) (by exact rfl)]; exact hb)
  exact ⟨_, _, mx_runs hcmd h hw, h1.begun rfl rfl rfl rfl rfl, rfl, rfl, rfl, rfl, hm⟩

/-- With its operands in the local store it has its effect at once. -/
theorem mx_computes (h : DescReady s n op x d) (hw : x.works = []) (hf : feedsOf x x.next = []) {r : Stn × List (Nat × Flit)}
    (hr : r = mxEffect (stnFlush s x) x x.next { passes := passesOf x x.next }) :
    ∃ t y, exec cmd s = .next t ∧ stnOf t n = some y ∧ y.next = x.next + 1 ∧ y.ls = r.1.ls ∧ y.acc = r.1.acc ∧ y.vreg = r.1.vreg ∧ y.flags = r.1.flags ∧
      y.hist = r.1.hist ∧ t.mem = s.mem ∧ (r.2 = [] → Begun t n x.next x y .fin) := by
  have hone := beginWork_oneWork (liveOf_stnOf s n x h.2.2.1) hw
  have heff : mxEffect (stnFlush (beginWork n x.next {} s) (startedStn x)) { startedStn x with works := [(x.next, firstWork x)] } x.next (firstWork x) =
      (atWork (x.next + 1) (x.started + 1) [(x.next, firstWork x)] r.1, r.2) := by
    rw [hr]
    exact mxEffect_atWork _ _ _ hf (stnFlush s x) (firstWork x) { passes := passesOf x x.next } rfl
  obtain ⟨v, h1, h2, h3, h4, hm⟩ := mxStep_runs hone (liveOf_running (x := x) h.2.2.1) rfl ((feedsOf_descs (x := x) (by exact rfl) _).trans hf) heff
  refine ⟨_, _, mx_runs hcmd h hw, h1, rfl, rfl, rfl, rfl, rfl, rfl, hm, fun e => ?_⟩
  have hd : r.1.descs = x.descs := by rw [hr]; exact mxEffect_descs ..
  have := h1.begun (x := x) rfl rfl hd h2 h3
  rwa [h4 e] at this

end

/-- Settles O47: a descriptor that takes nothing in has its effect in its first step, element by element; one whose streams bring nothing waits. -/
theorem matrixDescriptorsCompute : Obligations.MatrixDescriptorsCompute := by
  unfold Obligations.MatrixDescriptorsCompute
  intro s n x d op cmd r pass flush hcmd h hw hr hpass hflush
  refine ⟨mx_waits hcmd h hw, fun hf => ?_⟩
  obtain ⟨t, y, h1, h2, h3, h4, h5, h6, h7, h8, h9, h10⟩ := mx_computes hcmd h hw hf hr
  have hd : nth [] x.descs x.next = d := nth_of_getElem? h.2.2.2.1
  have hop : dOp d = op := h.2.2.2.2.1
  have ht (k : Nat) : feedTiles x x.next { passes := passesOf x x.next } k = [] := by
    unfold feedTiles
    rw [hf]
    rfl
  rw [← hflush] at hr
  unfold mxEffect at hr
  simp only [hd, hop, ht, ← hpass] at hr
  have hacc (t0 c i j : Nat) : accAt y t0 c i j = accAt r.1 t0 c i j := accAt_congr h5 t0 c i j
  have hvreg (reg i : Nat) : vregAt y reg i = vregAt r.1 reg i := by
    unfold vregAt
    rw [h6]
  refine ⟨t, y, h1, h2, h3, h4, h5, h6, h7, h8, h9, h10, fun ho hno i hi j hj p z c v hp hz hc hv => ?_, fun ho hno he i hi j hj v hv => ?_, fun ho e he => ?_,
    fun ho hne hrows i hi => ?_, fun ho hno he i hi j hj => ?_⟩
  · have hrun : r = runMatmul flush (decide (op = 0x11)) d (passesOf x x.next) [] [] [] x := by
      rw [hr]
      rcases ho with rfl | rfl | rfl <;> rfl
    have hel := elemAt_matProduct (pass := pass) hi hj hp hz hc
    rw [← hv, hpass] at hel
    simp only [hacc, hrun]
    exact ⟨fun he => mxFinish_plain hno he _ _ _ _ (rowsIn_matOf _ _ _) hel, fun he h1 => mxFinish_scaled hno he h1 _ _ _ _ (rowsIn_matOf _ _ _) hel⟩
  · subst ho
    have hrun : r = runEltwise flush d (passesOf x x.next) [] x := hr
    rw [hacc, hrun]
    refine mxFinish_plain hno he _ _ _ _ (rowsIn_matOf _ _ _) ((elemAt_matOf hi hj _).trans ?_)
    rw [hv, hpass]
  · subst ho
    have hrun : r.1 = runReduce flush d pass [] x := congrArg Prod.fst hr
    simp only [hvreg, hrun]
    exact ⟨fun h0 i hi => reduce_byRow he h0 hi, fun h1 j hj => reduce_byColumn he h1 hj, fun h2 => reduce_whole he h2⟩
  · subst ho
    have hrun : r.1 = runAttnPv flush x.next d (passesOf x x.next) [] x := congrArg Prod.fst hr
    rw [hvreg, hrun, attnPv_max hne hrows hi, attnMax_eq]
  · subst ho
    have hrun : r = runAttnFinal flush x.next d (passesOf x x.next) x := hr
    simp only [hacc, hrun]
    exact ⟨fun hs => attnFinal_divides hno he hi hj hs, fun hs hz => attnFinal_masked hno he hi hj hs hz⟩

end Sys2Proof.Machine
end

section
/-! PROOF. What the homes leave alone: the plans, the stations and launches, the clocks and the contexts. -/

set_option maxRecDepth 4000

namespace Sys2Proof.Machine

/-! ### The part of the state that no home changes -/

/-- Plans, stations and launches, clocks, and contexts: a request at a home changes none of them. -/
def offHome (s : State) : Piper × Sched × Clk × Tbl Ctx := (s.pip, s.sch, s.clk, s.ten.ctxs)

theorem offHome_eq {s t : State} (h : offHome t = offHome s) : t.pip = s.pip ∧ t.sch = s.sch ∧ t.clk = s.clk ∧ t.ten.ctxs = s.ten.ctxs := by
  simpa [offHome] using h

theorem offHome_of {s t : State} (h1 : t.pip = s.pip) (h2 : t.sch = s.sch) (h3 : t.clk = s.clk) (h4 : t.ten.ctxs = s.ten.ctxs) : offHome t = offHome s := by
  simp [offHome, h1, h2, h3, h4]

@[simp] theorem offHome_home (h : Home) (s : State) : offHome { s with home := h } = offHome s := rfl
@[simp] theorem offHome_foldl {β : Type} (f : State → β → State) (hf : ∀ s b, offHome (f s b) = offHome s) (l : List β) (s : State) :
    offHome (l.foldl f s) = offHome s := by
  induction l generalizing s with
  | nil => rfl
  | cons b r ih => exact (ih _).trans (hf s b)
theorem offHome_ite {c : Prop} [Decidable c] {s t u : State} (h1 : offHome t = offHome s) (h2 : offHome u = offHome s) : offHome (if c then t else u) = offHome s := by
  split <;> assumption

/-! ### Memory -/

@[simp] theorem offHome_setCru (k : Nat) (f : Cru → Cru) (s : State) : offHome (setCru k f s) = offHome s := rfl
@[simp] theorem offHome_setSlice (n : Nat) (f : Slice → Slice) (s : State) : offHome (setSlice n f s) = offHome s := rfl
@[simp] theorem offHome_raise (die ev ctx slice a0 a1 a2 : Nat) (s : State) : offHome (raise die ev ctx slice a0 a1 a2 s) = offHome s := rfl
@[simp] theorem offHome_dirtyMark (k g : Nat) (s : State) : offHome (dirtyMark k g s) = offHome s := by
  unfold dirtyMark
  split <;> rfl
@[simp] theorem offHome_putLine (k line mask : Nat) (data : List Byte) (s : State) : offHome (putLine k line mask data s) = offHome s := rfl
@[simp] theorem offHome_clearPoison (k line : Nat) (s : State) : offHome (clearPoison k line s) = offHome s := by
  unfold clearPoison
  split
  · dsimp only
    split
    · split <;> rfl
    · rfl
  · rfl
@[simp] theorem offHome_putWhole (k line mask : Nat) (data : List Byte) (s : State) : offHome (putWhole k line mask data s) = offHome s := by
  unfold putWhole
  dsimp only
  split <;> simp
@[simp] theorem offHome_writeLine (k line mask : Nat) (data : List Byte) (s : State) : offHome (writeLine k line mask data s) = offHome s := by
  unfold writeLine
  dsimp only
  (repeat' split) <;> simp

/-! ### The Crust cache -/

@[simp] theorem offHome_setLine (key : Nat) (f : HLine → HLine) (s : State) : offHome (setLine key f s) = offHome s := rfl
@[simp] theorem offHome_sendMsg (m : Msg) (s : State) : offHome (sendMsg m s) = offHome s := rfl
@[simp] theorem offHome_touchLine (k line : Nat) (s : State) : offHome (touchLine k line s) = offHome s := by
  unfold touchLine
  dsimp only
  split <;> rfl
@[simp] theorem offHome_evictLine (k line : Nat) (s : State) : offHome (evictLine k line s) = offHome s := by
  unfold evictLine
  dsimp only
  split <;> rfl
@[simp] theorem offHome_installLine (k line : Nat) (dirty : Bool) (s : State) : offHome (installLine k line dirty s) = offHome s := by
  unfold installLine
  dsimp only
  (repeat' split) <;> simp
@[simp] theorem offHome_keepWay (k line : Nat) (s : State) : offHome (keepWay k line s) = offHome s := by
  unfold keepWay
  dsimp only
  (repeat' split) <;> simp
@[simp] theorem offHome_setClosed (k line : Nat) (b : Bool) (s : State) : offHome (setClosed k line b s) = offHome s :=
  offHome_foldl _ (by intro s w; rfl) _ s
@[simp] theorem offHome_nextWays (k line fuel : Nat) (s : State) : offHome (nextWays k line fuel s) = offHome s := by
  induction fuel generalizing s with
  | zero => rfl
  | succ n ih =>
    unfold nextWays
    (repeat' split) <;> simp [ih]
@[simp] theorem offHome_giveWays (k line : Nat) (s : State) : offHome (giveWays k line s) = offHome s := offHome_nextWays ..
@[simp] theorem offHome_wantWay (k line : Nat) (s : State) : offHome (wantWay k line s) = offHome s := by
  unfold wantWay
  split <;> simp

/-! ### The directory, answers and rounds -/

@[simp] theorem offHome_markSharer (k line n : Nat) (s : State) : offHome (markSharer k line n s) = offHome s := by
  unfold markSharer
  dsimp only
  split <;> simp
@[simp] theorem offHome_dropDir (k line : Nat) (s : State) : offHome (dropDir k line s) = offHome s := rfl
@[simp] theorem offHome_answerReads (k line : Nat) (hs : List HReq) (s : State) : offHome (answerReads k line hs s) = offHome s := by
  unfold answerReads
  dsimp only
  rw [offHome_setLine]
  split <;> simp
@[simp] theorem offHome_startRound (k line : Nat) (owed : List Msg) (s : State) : offHome (startRound k line owed s) = offHome s := by
  unfold startRound
  dsimp only
  split
  · exact (offHome_foldl _ (by intro s m; rfl) _ _).trans rfl
  · rfl
@[simp] theorem offHome_holdReq (h : HReq) (s : State) : offHome (holdReq h s) = offHome s := rfl
@[simp] theorem offHome_holdFront (h : HReq) (s : State) : offHome (holdFront h s) = offHome s := rfl
@[simp] theorem offHome_beginRecall (k v : Nat) (s : State) : offHome (beginRecall k v s) = offHome s := by
  unfold beginRecall
  dsimp only
  split <;> simp
@[simp] theorem offHome_startRecall (k line v : Nat) (s : State) : offHome (startRecall k line v s) = offHome s := by simp [startRecall]
@[simp] theorem offHome_countMiss (k line ctx : Nat) (s : State) : offHome (countMiss k line ctx s) = offHome s := by
  unfold countMiss
  split <;> rfl
@[simp] theorem offHome_openFill (k line ctx : Nat) (ready : Bool) (s : State) : offHome (openFill k line ctx ready s) = offHome s := by simp [openFill]

/-! ### Requests that a line takes -/

@[simp] theorem offHome_acceptRead (h : HReq) (s : State) : offHome (acceptRead h s) = offHome s := by
  unfold acceptRead
  dsimp only
  (repeat' split) <;> simp
@[simp] theorem offHome_acceptWrite (r : Req) (mask : Nat) (data : List Byte) (s : State) : offHome (acceptWrite r mask data s) = offHome s := by
  unfold acceptWrite
  dsimp only
  (repeat' split) <;> simp
@[simp] theorem offHome_joinBatch (r : Req) (o : RedOp) (s : State) : offHome (joinBatch r o s) = offHome s := by
  unfold joinBatch
  dsimp only
  split <;> simp
@[simp] theorem offHome_acceptRed (r : Req) (o : RedOp) (s : State) : offHome (acceptRed r o s) = offHome s := by
  unfold acceptRed
  split <;> simp
@[simp] theorem offHome_acceptSemWait (r : Req) (off val : Nat) (s : State) : offHome (acceptSemWait r off val s) = offHome s := by
  unfold acceptSemWait
  dsimp only
  (repeat' split) <;> simp
@[simp] theorem offHome_acceptStored (key n : Nat) (s : State) : offHome (acceptStored key n s) = offHome s := by
  induction n generalizing s with
  | zero => rfl
  | succ m ih =>
    unfold acceptStored
    (repeat' split) <;> simp [ih]
@[simp] theorem offHome_acceptOrdered (r : Req) (o : RedOp) (s : State) : offHome (acceptOrdered r o s) = offHome s := by
  unfold acceptOrdered
  dsimp only
  (repeat' split) <;> simp
@[simp] theorem offHome_acceptReq (h : HReq) (s : State) : offHome (acceptReq h s) = offHome s := by
  unfold acceptReq
  (repeat' split) <;> simp
@[simp] theorem offHome_serveHeld (key n : Nat) (s : State) : offHome (serveHeld key n s) = offHome s := by
  induction n generalizing s with
  | zero => rfl
  | succ m ih =>
    unfold serveHeld
    dsimp only
    (repeat' split) <;> simp [ih]
@[simp] theorem offHome_finishFill (k line : Nat) (s : State) : offHome (finishFill k line s) = offHome s := by
  unfold finishFill
  dsimp only
  (repeat' split) <;> simp
@[simp] theorem offHome_serveLine (key : Nat) (s : State) : offHome (serveLine key s) = offHome s := by simp [serveLine]
@[simp] theorem offHome_serveWays (k line : Nat) (s : State) : offHome (serveWays k line s) = offHome s := by
  unfold serveWays
  dsimp only
  rw [offHome_foldl _ (fun s w => offHome_ite (offHome_serveLine ..) rfl), offHome_giveWays]
@[simp] theorem offHome_goLine (key : Nat) (s : State) : offHome (goLine key s) = offHome s := by simp [goLine]

/-- A request at a home changes no plan, station, clock or context. -/
@[simp] theorem offHome_homeRequest (h : HReq) (s : State) : offHome (homeRequest h s) = offHome s := by
  unfold homeRequest
  dsimp only
  (repeat' split) <;> simp

/-! ### What the Piper sends to the homes -/

@[simp] theorem offHome_ctxWrite (c a : Nat) (bs : List Byte) (who : Agent) (s : State) : offHome (ctxWrite c a bs who s) = offHome s := by
  unfold ctxWrite
  refine offHome_foldl _ (fun s e => ?_) _ s
  split <;> simp

@[simp] theorem offHome_sumRow (k c : Nat) (p : List Byte) (t j : Nat) (live : Bool) (row : List Byte) (s : State) :
    offHome (sumRow k c p t j live row s) = offHome s := by
  unfold sumRow
  refine offHome_foldl _ (fun s e => ?_) _ s
  split <;> simp

@[simp] theorem offHome_placeNone (k c : Nat) (p : List Byte) (t j : Nat) (s : State) : offHome (placeNone k c p t j s) = offHome s := by
  unfold placeNone
  split <;> simp

@[simp] theorem offHome_piperAdd (c a v : Nat) (s : State) : offHome (piperAdd c a v s) = offHome s := by
  unfold piperAdd
  split <;> simp

end Sys2Proof.Machine
end

section
/-! PROOF. The Piper's plans under its operations: claims, hand-overs and the packing of rows (R160-R169). -/

namespace Sys2Proof.Machine

/-! ### A plan followed through the Piper's operations -/

/-- State `t` holds plan `q` under `k`; its other plans, its stations, clocks and contexts are those of `s`. -/
structure PlanNow (s : State) (k : Nat) (q : Plan) (t : State) : Prop where
  plan : tget? t.pip.plans k = some q
  others : ∀ j, j ≠ k → tget? t.pip.plans j = tget? s.pip.plans j
  sch : t.sch = s.sch
  clk : t.clk = s.clk
  ctxs : t.ten.ctxs = s.ten.ctxs

/-- A plan with an expert's record changed. -/
def withExpert (e : Nat) (f : PExpert → PExpert) (pl : Plan) : Plan := { pl with experts := tput pl.experts e (f (tget {} pl.experts e)) }

theorem withExpert_experts (e j : Nat) (f : PExpert → PExpert) (pl : Plan) :
    tget {} (withExpert e f pl).experts j = if e = j then f (tget {} pl.experts e) else tget {} pl.experts j := tget_tput ..

section
variable {s t : State} {k : Nat} {pl q : Plan} {p : List Byte}

theorem PlanNow.start (h : tget? s.pip.plans k = some pl) : PlanNow s k pl s := ⟨h, fun _ _ => rfl, rfl, rfl, rfl⟩

theorem PlanNow.setPlan (h : PlanNow s k q t) {f : Plan → Plan} {q' : Plan} (hq : f q = q') : PlanNow s k q' (setPlan k f t) where
  plan := by simp [Machine.setPlan, h.plan, hq]
  others j hj := by simpa [Machine.setPlan, Ne.symm hj] using h.others j hj
  sch := h.sch
  clk := h.clk
  ctxs := h.ctxs

theorem PlanNow.setExpert (h : PlanNow s k q t) (e : Nat) (f : PExpert → PExpert) : PlanNow s k (withExpert e f q) (setExpert k e f t) := h.setPlan rfl

/-- What changes nothing that a home leaves alone changes no plan. -/
theorem PlanNow.home (h : PlanNow s k q t) {u : State} (hu : offHome u = offHome t) : PlanNow s k q u := by
  obtain ⟨h1, h2, h3, h4⟩ := offHome_eq hu
  exact ⟨by rw [h1]; exact h.plan, fun j hj => by rw [h1]; exact h.others j hj, h2.trans h.sch, h3.trans h.clk, h4.trans h.ctxs⟩

theorem PlanNow.expertOf (h : PlanNow s k q t) (e : Nat) : expertOf t k e = tget {} q.experts e := by simp [Machine.expertOf, h.plan]

theorem PlanNow.livePlan (h : PlanNow s k q t) (hp : q.bytes = some p) : livePlan t k = some (q, p) := by simp [Machine.livePlan, h.plan, hp]

theorem livePlan_plan (h : livePlan s k = some (pl, p)) : tget? s.pip.plans k = some pl ∧ pl.bytes = some p := by
  unfold livePlan at h
  obtain ⟨a, ha, hb⟩ := Option.bind_eq_some_iff.1 h
  obtain ⟨b, hb, he⟩ := Option.map_eq_some_iff.1 hb
  cases he
  exact ⟨ha, hb⟩

theorem PlanNow.owe (h : PlanNow s k q t) {v : Nat} (hv : v ≠ 0) {q' : Plan} (hq : { q with owed := q.owed ++ [v] } = q') : PlanNow s k q' (owe k v t) := by
  unfold Machine.owe
  rw [if_neg hv]
  exact h.setPlan hq

/-! ### Claims (R165-R168) -/

/-- A plan after a claim of token `t` on expert `e` that is refused: dropped or spilled, and its add owed. -/
def refusedPlan (p : List Byte) (t e : Nat) (pl : Plan) : Plan :=
  let q := if plOverSpill p && decide (pl.spillUsed < plSpillCap p) then
      { withExpert e (fun x => { x with spilled := x.spilled + 1 }) pl with spillUsed := pl.spillUsed + 1 }
    else { withExpert e (fun x => { x with dropped := x.dropped + 1 }) pl with spillFull := pl.spillFull + b2n (plOverSpill p) }
  { q with refused := tmod 0 q.refused t (· + 1), unserved := q.unserved + b2n (decide (tget 0 q.refused t + 1 = plTopK p)), owed := q.owed ++ [1] }

theorem PlanNow.refuseClaim (h : PlanNow s k q t) (c n e j : Nat) (gate : Word) (row : List Byte) :
    PlanNow s k (refusedPlan p n e q) (refuseClaim k c p n e j gate row t) := by
  have hu : ((tget? t.pip.plans k).map (·.spillUsed)).getD 0 = q.spillUsed := by rw [h.plan]; rfl
  unfold Machine.refuseClaim refusedPlan
  simp only [hu]
  split
  · have h1 (u : State) (hu : offHome u = offHome t) := (h.home hu).setExpert e (fun x => { x with spilled := x.spilled + 1 })
    exact PlanNow.owe (PlanNow.home (PlanNow.setPlan ((h1 _ (offHome_ctxWrite ..)).setPlan rfl) rfl) (offHome_placeNone ..)) one_ne_zero rfl
  · have h1 := h.setExpert e (fun x => { x with dropped := x.dropped + 1 })
    exact PlanNow.owe (PlanNow.home (PlanNow.setPlan (h1.setPlan rfl) rfl) (offHome_placeNone ..)) one_ne_zero rfl

end

end Sys2Proof.Machine
end

section
/-! PROOF. A hand-over to the Piper: what its claims add up to at every expert (R160-R168). -/

namespace Sys2Proof.Machine

/-! ### An expert's counts -/

/-- From record `x` to record `y`, an expert has had `n` claims more of router `r`, each granted or refused at once, or all left to the packer. -/
structure ExpertClaimed (p : List Byte) (r n : Nat) (x y : PExpert) : Prop where
  claimed : y.claimed = x.claimed + n
  packed : plCapSplit p = false → y.transit.length + x.claimed = x.transit.length + y.claimed ∧ y.accepted = x.accepted ∧ y.dropped = x.dropped ∧ y.spilled = x.spilled
  granted : plCapSplit p = true → y.accepted + y.dropped + y.spilled + x.claimed = x.accepted + x.dropped + x.spilled + y.claimed ∧
    y.transit.length + x.accepted = x.transit.length + y.accepted ∧ (grantedTo p x r ≤ quotaOf p r → grantedTo p y r ≤ quotaOf p r)

/-- From plan `pl` to plan `q`, router `r` has made `n e` claims on each expert `e`. -/
structure PlanClaimed (p : List Byte) (r : Nat) (n : Nat → Nat) (pl q : Plan) : Prop where
  waiting : q.waiting = pl.waiting
  slots : q.slots = pl.slots
  tokens : q.tokens = pl.tokens
  experts : ∀ e, ExpertClaimed p r (n e) (tget {} pl.experts e) (tget {} q.experts e)

section
variable {s t : State} {k r : Nat} {pl q u : Plan} {p : List Byte}

theorem ExpertClaimed.refl (p : List Byte) (r : Nat) (x : PExpert) : ExpertClaimed p r 0 x x := ⟨rfl, fun _ => ⟨rfl, rfl, rfl, rfl⟩, fun _ => ⟨rfl, rfl, id⟩⟩

theorem ExpertClaimed.trans {x y z : PExpert} {a b : Nat} (h : ExpertClaimed p r a x y) (g : ExpertClaimed p r b y z) : ExpertClaimed p r (a + b) x z := by
  obtain ⟨h1, h2, h3⟩ := h
  obtain ⟨g1, g2, g3⟩ := g
  refine ⟨by omega, fun hc => ?_, fun hc => ?_⟩
  · obtain ⟨ha, hb, hd, he⟩ := h2 hc
    obtain ⟨ga, gb, gd, ge⟩ := g2 hc
    exact ⟨by omega, gb.trans hb, gd.trans hd, ge.trans he⟩
  · obtain ⟨ha, hb, hq⟩ := h3 hc
    obtain ⟨ga, gb, gq⟩ := g3 hc
    exact ⟨by omega, by omega, gq ∘ hq⟩

theorem PlanClaimed.refl (p : List Byte) (r : Nat) (pl : Plan) : PlanClaimed p r (fun _ => 0) pl pl := ⟨rfl, rfl, rfl, fun _ => .refl ..⟩

theorem PlanClaimed.trans {a b : Nat → Nat} (h : PlanClaimed p r a pl q) (g : PlanClaimed p r b q u) : PlanClaimed p r (fun e => a e + b e) pl u :=
  ⟨g.waiting.trans h.waiting, g.slots.trans h.slots, g.tokens.trans h.tokens, fun e => (h.experts e).trans (g.experts e)⟩

/-- One expert changes as by a claim, and no other. -/
theorem PlanClaimed.one (h1 : q.waiting = pl.waiting) (h2 : q.slots = pl.slots) (h3 : q.tokens = pl.tokens) {e : Nat} {y : PExpert}
    (h4 : ∀ i, tget {} q.experts i = if e = i then y else tget {} pl.experts i) (h5 : ExpertClaimed p r 1 (tget {} pl.experts e) y) :
    PlanClaimed p r (fun i => if e = i then 1 else 0) pl q := by
  refine ⟨h1, h2, h3, fun i => ?_⟩
  rw [h4 i]
  split
  · next hi => subst hi; exact h5
  · exact .refl ..

/-! ### One claim -/

theorem refusedPlan_experts (p : List Byte) (n e i : Nat) (pl : Plan) : tget {} (refusedPlan p n e pl).experts i =
    if e = i then (if plOverSpill p && decide (pl.spillUsed < plSpillCap p) then { tget {} pl.experts e with spilled := (tget {} pl.experts e).spilled + 1 }
      else { tget {} pl.experts e with dropped := (tget {} pl.experts e).dropped + 1 }) else tget {} pl.experts i := by
  unfold refusedPlan
  dsimp only
  split
  · simp only [withExpert_experts]
  · simp only [withExpert_experts]

theorem refusedPlan_same (p : List Byte) (n e : Nat) (pl : Plan) :
    (refusedPlan p n e pl).waiting = pl.waiting ∧ (refusedPlan p n e pl).slots = pl.slots ∧ (refusedPlan p n e pl).tokens = pl.tokens ∧
    (refusedPlan p n e pl).owed = pl.owed ++ [1] ∧ (refusedPlan p n e pl).bytes = pl.bytes := by
  unfold refusedPlan
  dsimp only
  split <;> exact ⟨rfl, rfl, rfl, rfl, rfl⟩

/-- A claim left to the packer. -/
theorem expertClaimed_packed (hc : plCapSplit p = false) (r : Nat) (x : PExpert) (row : Nat × Nat × Word × List Byte) :
    ExpertClaimed p r 1 x { x with claimed := x.claimed + 1, transit := x.transit ++ [row] } :=
  ⟨rfl, fun _ => ⟨by simp; omega, rfl, rfl, rfl⟩, fun hf => absurd hf (by simp [hc])⟩

/-- A claim granted against the router's quota. -/
theorem expertClaimed_granted (hc : plCapSplit p = true) {x : PExpert} (hq : tget 0 x.quota r < quotaOf p r) (row : Nat × Nat × Word × List Byte) :
    ExpertClaimed p r 1 x { x with
      claimed := x.claimed + 1, accepted := x.accepted + 1, quota := tput x.quota r (tget 0 x.quota r + 1), transit := x.transit ++ [row] } := by
  refine ⟨rfl, fun hf => absurd hf (by simp [hc]), fun _ => ⟨by dsimp only; omega, by simp; omega, fun _ => ?_⟩⟩
  simpa [grantedTo, hc] using hq

/-- A claim dropped or spilled. -/
theorem expertClaimed_refused (hc : plCapSplit p = true) (r : Nat) (x : PExpert) :
    ExpertClaimed p r 1 x { x with claimed := x.claimed + 1, spilled := x.spilled + 1 } ∧
    ExpertClaimed p r 1 x { x with claimed := x.claimed + 1, dropped := x.dropped + 1 } := by
  have hno : plCapSplit p ≠ false := by simp [hc]
  exact ⟨⟨rfl, fun hf => absurd hf hno, fun _ => ⟨by dsimp only; omega, rfl, id⟩⟩, ⟨rfl, fun hf => absurd hf hno, fun _ => ⟨by dsimp only; omega, rfl, id⟩⟩⟩

/-- A claim (R165): left to the packer, granted against the router's quota, or refused. -/
theorem PlanNow.claim (h : PlanNow s k q t) (c r n e j : Nat) (gate : Word) (row : List Byte) :
    ∃ q', PlanNow s k q' (claim k c p r n e j gate row t) ∧ PlanClaimed p r (fun i => if e = i then 1 else 0) q q' := by
  have h1 := h.setExpert e (fun x => { x with claimed := x.claimed + 1 })
  unfold Machine.claim
  dsimp only
  rw [h1.expertOf e, withExpert_experts, if_pos rfl]
  split
  · next hc =>
    refine ⟨_, h1.setExpert e _, .one (by exact rfl) (by exact rfl) (by exact rfl) (fun i => ?_) (expertClaimed_packed (by simpa using hc) r _ (n, j, gate, row))⟩
    simp only [withExpert_experts]
    split <;> rfl
  · next hc =>
    have hc : plCapSplit p = true := by simpa using hc
    split
    · next hq =>
      refine ⟨_, h1.setExpert e _, .one (by exact rfl) (by exact rfl) (by exact rfl) (fun i => ?_)
        (expertClaimed_granted hc (x := tget {} q.experts e) (by simpa [grantedTo, hc] using hq) (n, j, gate, row))⟩
      simp only [withExpert_experts]
      split <;> rfl
    · obtain ⟨hw, hs, ht, -, -⟩ := refusedPlan_same p n e (withExpert e (fun x => { x with claimed := x.claimed + 1 }) q)
      obtain ⟨hsp, hdr⟩ := expertClaimed_refused hc r (tget {} q.experts e)
      refine ⟨_, h1.refuseClaim c n e j gate row, ?_⟩
      have hx (i : Nat) := refusedPlan_experts p n e i (withExpert e (fun x => { x with claimed := x.claimed + 1 }) q)
      simp only [withExpert_experts, if_true] at hx
      by_cases hp : (plOverSpill p && decide (q.spillUsed < plSpillCap p)) = true
      · refine .one (pl := q) hw hs ht (fun i => (hx i).trans ?_) hsp
        split
        · exact if_pos hp
        · rfl
      · refine .one (pl := q) hw hs ht (fun i => (hx i).trans ?_) hdr
        split
        · exact if_neg hp
        · rfl

/-! ### The claims of a hand-over -/

/-- A list of steps that each make the claims `n b e`. -/
theorem PlanNow.claims {β : Type} {f : State → β → State} {n : β → Nat → Nat} (hf : ∀ {q t} b, PlanNow s k q t → ∃ q', PlanNow s k q' (f t b) ∧ PlanClaimed p r (n b) q q')
    (l : List β) {q : Plan} {t : State} (h : PlanNow s k q t) :
    ∃ q', PlanNow s k q' (l.foldl f t) ∧ PlanClaimed p r (fun e => (l.map (fun b => n b e)).sum) q q' := by
  induction l generalizing q t with
  | nil => exact ⟨q, h, .refl ..⟩
  | cons b l ih =>
    obtain ⟨q1, h1, c1⟩ := hf b h
    obtain ⟨q2, h2, c2⟩ := ih h1
    exact ⟨q2, h2, by simpa using c1.trans c2⟩

theorem bestOf_mem {l : List (Nat × Word)} {b : Nat × Word} (h : bestOf l = some b) : b ∈ l := by
  induction l generalizing b with
  | nil => cases h
  | cons a l ih =>
    unfold bestOf at h
    split at h
    · cases h
      exact List.mem_cons_self
    · next c hc =>
      split at h <;> cases h
      · exact List.mem_cons_of_mem _ (ih hc)
      · exact List.mem_cons_self

theorem chooseTop_mem {n : Nat} {l : List (Nat × Word)} {a : Nat} (h : a ∈ chooseTop n l) : ∃ e ∈ l, e.1 = a := by
  induction n generalizing l with
  | zero => cases h
  | succ n ih =>
    unfold chooseTop at h
    split at h
    · cases h
    · next b hb =>
      rcases List.mem_cons.1 h with rfl | h
      · exact ⟨b, bestOf_mem hb, rfl⟩
      · obtain ⟨e, he, h1⟩ := ih h
        exact ⟨e, List.mem_of_mem_filter he, h1⟩

/-- No expert is chosen twice for a row. -/
theorem chooseTop_nodup (n : Nat) (l : List (Nat × Word)) : (chooseTop n l).Nodup := by
  induction n generalizing l with
  | zero => exact .nil
  | succ n ih =>
    unfold chooseTop
    split
    · exact .nil
    · next b _ =>
      refine List.nodup_cons.2 ⟨fun hm => ?_, ih _⟩
      obtain ⟨e, he, h1⟩ := chooseTop_mem hm
      simpa [h1] using List.of_mem_filter he

theorem gatesOf_length (flush : Bool) (x : Stn) (p : List Byte) (r k i : Nat) (es : List Nat) : (gatesOf flush x p r k i es).length = es.length := by
  unfold gatesOf
  dsimp only
  split <;> simp

/-- The claims of one token: one on each expert chosen for its row. -/
theorem PlanNow.handToken (h : PlanNow s k q t) (c : Nat) (flush : Bool) (x : Stn) (r slot i n : Nat) :
    ∃ q', PlanNow s k q' (handToken k c flush x p r slot i n t) ∧ PlanClaimed p r (fun e => if e ∈ chosenOf flush x p r slot i then 1 else 0) q q' := by
  obtain ⟨q', h1, h2⟩ := PlanNow.claims (r := r) (p := p) (n := fun b e => if b.1.1 = e then 1 else 0)
    (fun (b : (Nat × Word) × Nat) h => h.claim c r n b.1.1 b.2 b.1.2 (lsRead x (rtTokens p r + (slot * 64 + i) * plInPitch p) (plInPitch p)))
    ((chosenOf flush x p r slot i).zip (gatesOf flush x p r slot i (chosenOf flush x p r slot i))).zipIdx h
  refine ⟨q', h1, ?_⟩
  have hn (e : Nat) : ((((chosenOf flush x p r slot i).zip (gatesOf flush x p r slot i (chosenOf flush x p r slot i))).zipIdx).map
      (fun b => if b.1.1 = e then 1 else 0)).sum = if e ∈ chosenOf flush x p r slot i then 1 else 0 := by
    rw [← List.Nodup.count (show (chosenOf flush x p r slot i).Nodup from chooseTop_nodup _ _)]
    conv_rhs =>
      rw [← List.map_fst_zip (l₁ := chosenOf flush x p r slot i) (gatesOf_length flush x p r slot i (chosenOf flush x p r slot i)).ge,
        ← List.zipIdx_map_fst 0 (List.zip _ _), List.map_map, List.count_eq_length_filter, List.filter_map, List.length_map]
    rw [List.sum_map_ite]
    simp [Function.comp_def, beq_eq_decide]
  simpa only [hn] using h2

/-- The claims of the tokens of a slot: each expert has as many as tokens chose it. -/
theorem PlanNow.handTokens (h : PlanNow s k q t) (c : Nat) (x : Stn) (r slot t0 v : Nat) :
    ∃ q', PlanNow s k q' ((List.range v).foldl (fun s i => Machine.handToken k c (stnFlush s x) x p r slot i (t0 + i) s) t) ∧
      PlanClaimed p r (fun e => ((List.range v).filter (fun i => decide (e ∈ chosenOf (stnFlush s x) x p r slot i))).length) q q' := by
  obtain ⟨q', h1, h2⟩ := PlanNow.claims (s := s) (k := k) (p := p) (r := r) (f := fun s i => Machine.handToken k c (stnFlush s x) x p r slot i (t0 + i) s)
    (n := fun i e => if e ∈ chosenOf (stnFlush s x) x p r slot i then 1 else 0) (fun {q t} i h => by
      have hf : stnFlush t x = stnFlush s x := by simp [stnFlush, ctxOf, h.ctxs]
      rw [hf]
      exact h.handToken c _ x r slot i (t0 + i)) (List.range v) h
  refine ⟨q', h1, ?_⟩
  have hn (e : Nat) : ((List.range v).map (fun i => if e ∈ chosenOf (stnFlush s x) x p r slot i then 1 else 0)).sum =
      ((List.range v).filter (fun i => decide (e ∈ chosenOf (stnFlush s x) x p r slot i))).length := by
    rw [List.sum_map_ite]
    simp
  simpa only [hn] using h2

end

theorem tupd_congr {α : Type} {t : Tbl α} {k : Nat} {a : α} (h : tget? t k = some a) {f g : α → α} (hfg : f a = g a) : tupd t k f = tupd t k g := by
  induction t with
  | nil => rfl
  | cons e t ih =>
    obtain ⟨j, w⟩ := e
    rw [tget?_cons] at h
    unfold tupd
    split
    · next hj =>
      rw [if_pos hj] at h
      cases h
      rw [hfg]
    · next hj => rw [ih ((if_neg hj).symm.trans h)]

theorem setPlan_congr {s : State} {k : Nat} {pl : Plan} (h : tget? s.pip.plans k = some pl) {f g : Plan → Plan} (hfg : f pl = g pl) : setPlan k f s = setPlan k g s := by
  unfold setPlan
  rw [tupd_congr h hfg]

/-! ### HAND_OVER (R160, R161, R183) -/

theorem handOver_none (s : State) (n : Nat) (hup : s.pwr.phase = .ready)
    (h : nextHandOver s n = none ∨ stnOf s n = none ∨ ∃ k pl p v, nextHandOver s n = some (k, pl, p, v) ∧ routerOf s pl p n = none) :
    exec (.handOver n) s = .next s := by
  refine (ifUp_ready hup).trans (congrArg _ ?_)
  unfold handOverS
  rcases h with h | h | ⟨k, pl, p, v, h, hr⟩
  · rw [h]
  · split
    · rfl
    · rw [h]
      split
      · next hx => cases hx
      · rfl
  · rw [h]
    simp only [hr]

section
variable {s : State} {n k v r : Nat} {pl : Plan} {p : List Byte} {x : Stn}
  (hup : s.pwr.phase = .ready) (hn : nextHandOver s n = some (k, pl, p, v)) (hr : routerOf s pl p n = some r) (hx : stnOf s n = some x)
include hup hn hr hx

theorem handOver_fault (hk : tget? s.pip.plans k = some pl) (h : v < 1 ∨ 64 < v ∨ rtCount p r < tget 0 pl.tokens r + v ∨ (v < 64 ∧ tget 0 pl.tokens r + v ≠ rtCount p r)) :
    exec (.handOver n) s = .next (stationFault n 0xB5 4 r 0 pl.addr 0 (setPlan k (fun q => { q with waiting := pl.waiting.erase (n, plDispatchSem p, v) }) s)) := by
  refine (ifUp_ready hup).trans (congrArg _ ?_)
  unfold handOverS
  rw [hn]
  simp only [hr, hx]
  exact (if_pos h).trans (congrArg (stationFault n stPiperCount 4 r 0 pl.addr 0) (setPlan_congr hk rfl))

theorem handOver_taken (h1 : 1 ≤ v) (h2 : v ≤ 64) (h3 : tget 0 pl.tokens r + v ≤ rtCount p r) (h4 : v < 64 → tget 0 pl.tokens r + v = rtCount p r) :
    exec (.handOver n) s = .next (takeSlot k pl p n r v x (setPlan k (fun pl => { pl with waiting := pl.waiting.erase (n, plDispatchSem p, v) }) s)) := by
  refine (ifUp_ready hup).trans (congrArg _ ?_)
  unfold handOverS
  rw [hn]
  simp only [hr, hx]
  exact if_neg (by omega)

/-- A hand-over in order (R160-R168): its slot counted, its tokens claimed, before blocks close and adds go out. -/
theorem handOver_claims (hk : tget? s.pip.plans k = some pl) (h1 : 1 ≤ v) (h2 : v ≤ 64) (h3 : tget 0 pl.tokens r + v ≤ rtCount p r)
    (h4 : v < 64 → tget 0 pl.tokens r + v = rtCount p r) :
    ∃ b q, exec (.handOver n) s = .next (pump n (piperFlush k ((List.range (plExperts p)).foldl (fun s e => if exKind p e = 0 then s else closeBlocks k e s) b))) ∧
      PlanNow s k q b ∧ q.waiting = pl.waiting.erase (n, plDispatchSem p, v) ∧
      q.slots = tput pl.slots r (tget 0 pl.slots r + 1) ∧ q.tokens = tput pl.tokens r (tget 0 pl.tokens r + v) ∧
      ∀ e, ExpertClaimed p r ((List.range v).filter (fun i => decide (e ∈ chosenOf (stnFlush s x) x p r (tget 0 pl.slots r % rtRing p r) i))).length
        (tget {} pl.experts e) (tget {} q.experts e) := by
  have hs := (PlanNow.start hk).setPlan (f := fun pl => { pl with waiting := pl.waiting.erase (n, plDispatchSem p, v) }) rfl
  obtain ⟨q, hq, hc⟩ := hs.handTokens (p := p) pl.ctx x r (tget 0 pl.slots r % rtRing p r) (rtFirst p r + tget 0 pl.tokens r) v
  refine ⟨_, _, handOver_taken hup hn hr hx h1 h2 h3 h4, hq.setPlan rfl, hc.waiting, ?_, ?_, fun e => hc.experts e⟩
  · dsimp only
    rw [hc.slots]
  · dsimp only
    rw [hc.tokens]

end

end Sys2Proof.Machine
end

section
/-! PROOF. Rows that arrive at an expert's packer: blocks filled and closed, claims granted or refused there (R165-R170). -/

namespace Sys2Proof.Machine

/-! ### An expert's record under packing -/

/-- The counts of an expert's record that packing leaves alone. -/
def countsOf (x : PExpert) : Nat × Nat × Nat × Nat × Nat × List (Nat × Nat × Word × List Byte) :=
  (x.claimed, x.accepted, x.dropped, x.spilled, x.delivered, x.transit)

/-- The current block closed, where it has rows. -/
def lastBlock (x : PExpert) : PExpert := if x.cur.isEmpty then x else { x with ready := x.ready ++ [mkBlock x.cur], cur := [] }

/-- Empty blocks up to BLOCKS. -/
def paddedExpert (p : List Byte) (x : PExpert) : PExpert := { x with ready := x.ready ++ List.replicate (plBlocks p - blocksMade x) (mkBlock []) }

/-- An expert's record once its last row has arrived (R170): the current block closed, and, on the device, empty blocks up to BLOCKS. -/
def closedExpert (p : List Byte) (e : Nat) (x : PExpert) : PExpert := if exKind p e = 1 then paddedExpert p (lastBlock x) else lastBlock x

/-- A plan with the current block of an expert closed, where it has rows. -/
def lastPlan (e : Nat) (q : Plan) : Plan :=
  if (tget {} q.experts e).cur.isEmpty then q else withExpert e (fun x => { x with ready := x.ready ++ [mkBlock x.cur], cur := [] }) q

/-- A plan after an expert's blocks have been closed, where its last row has arrived. -/
def closedPlan (p : List Byte) (e : Nat) (q : Plan) : Plan :=
  if ¬ routersDone q p ∨ ¬ (tget {} q.experts e).transit.isEmpty then q
  else if exKind p e = 1 then withExpert e (paddedExpert p) (lastPlan e q) else lastPlan e q

theorem countsOf_joinBlock (row : Nat × Nat × Word × List Byte) (x : PExpert) : countsOf (joinBlock row x) = countsOf x := by
  unfold joinBlock
  dsimp only
  split <;> rfl

theorem countsOf_lastBlock (x : PExpert) : countsOf (lastBlock x) = countsOf x := by
  unfold lastBlock
  split <;> rfl

theorem countsOf_closedExpert (p : List Byte) (e : Nat) (x : PExpert) : countsOf (closedExpert p e x) = countsOf x := by
  unfold closedExpert
  split <;> exact countsOf_lastBlock x

theorem joinBlock_room {row : Nat × Nat × Word × List Byte} {x : PExpert} (h : x.cur.length < 63) :
    (joinBlock row x).cur = x.cur ++ [row] ∧ (joinBlock row x).ready = x.ready := by
  unfold joinBlock
  dsimp only
  rw [if_neg (by simp; omega)]
  exact ⟨rfl, rfl⟩

theorem joinBlock_full {row : Nat × Nat × Word × List Byte} {x : PExpert} (h : 63 ≤ x.cur.length) :
    (joinBlock row x).cur = [] ∧ (joinBlock row x).ready = x.ready ++ [mkBlock (x.cur ++ [row])] := by
  unfold joinBlock
  dsimp only
  rw [if_pos (by simp; omega)]
  exact ⟨rfl, rfl⟩

/-- A row that is the last to arrive completes its block. -/
theorem lastBlock_joinBlock (row : Nat × Nat × Word × List Byte) (x : PExpert) :
    (lastBlock (joinBlock row x)).cur = [] ∧ (lastBlock (joinBlock row x)).ready = x.ready ++ [mkBlock (x.cur ++ [row])] := by
  unfold lastBlock
  by_cases h : x.cur.length < 63
  · obtain ⟨hc, hr⟩ := joinBlock_room (row := row) h
    rw [if_neg (by simp [hc]), hc, hr]
    exact ⟨rfl, rfl⟩
  · obtain ⟨hc, hr⟩ := joinBlock_full (row := row) (not_lt.1 h)
    rw [if_pos (by simp [hc])]
    exact ⟨hc, hr⟩

theorem closedExpert_joinBlock (p : List Byte) (e : Nat) (row : Nat × Nat × Word × List Byte) (x : PExpert) :
    (closedExpert p e (joinBlock row x)).cur = [] ∧ (closedExpert p e (joinBlock row x)).ready = x.ready ++ [mkBlock (x.cur ++ [row])] ++
      (if exKind p e = 1 then List.replicate (plBlocks p - (x.delivered + x.ready.length + 1)) (mkBlock []) else []) := by
  obtain ⟨hc, hr⟩ := lastBlock_joinBlock row x
  have hd : (lastBlock (joinBlock row x)).delivered = x.delivered :=
    congrArg (fun c => c.2.2.2.2.1) ((countsOf_lastBlock (joinBlock row x)).trans (countsOf_joinBlock row x))
  unfold closedExpert
  split
  · refine ⟨hc, ?_⟩
    unfold paddedExpert blocksMade
    rw [hr, hd, List.length_append]
    rfl
  · exact ⟨hc, by rw [hr, List.append_nil]⟩

/-! ### What changes plans alone -/

theorem onlyPlans_setExpert (k e : Nat) (f : PExpert → PExpert) (s : State) : { setExpert k e f s with pip := s.pip } = s := rfl

/-- `t` differs from `s` in its plans alone. -/
def OnlyPlans (s t : State) : Prop := { t with pip := s.pip } = s

theorem OnlyPlans.refl (s : State) : OnlyPlans s s := rfl

theorem OnlyPlans.setPlan {s t : State} (h : OnlyPlans s t) (k : Nat) (f : Plan → Plan) : OnlyPlans s (setPlan k f t) := h

theorem OnlyPlans.closeBlocks {s t : State} (h : OnlyPlans s t) (k e : Nat) : OnlyPlans s (closeBlocks k e t) := by
  unfold Machine.closeBlocks
  dsimp only
  (repeat' split) <;> exact h

section
variable {s t : State} {k e i : Nat} {pl q : Plan} {p : List Byte} {x : PExpert} {row : Nat × Nat × Word × List Byte}

theorem lastPlan_experts (e i : Nat) (q : Plan) : tget {} (lastPlan e q).experts i = if e = i then lastBlock (tget {} q.experts e) else tget {} q.experts i := by
  unfold lastPlan lastBlock
  split
  · split
    · next h => rw [h]
    · rfl
  · exact withExpert_experts ..

theorem lastPlan_same (e : Nat) (q : Plan) : (lastPlan e q).owed = q.owed ∧ (lastPlan e q).spillUsed = q.spillUsed := by
  unfold lastPlan
  split <;> exact ⟨rfl, rfl⟩

theorem closedPlan_same (p : List Byte) (e : Nat) (q : Plan) : (closedPlan p e q).owed = q.owed ∧ (closedPlan p e q).spillUsed = q.spillUsed := by
  unfold closedPlan
  split
  · exact ⟨rfl, rfl⟩
  · split <;> exact lastPlan_same e q

theorem closedPlan_other (p : List Byte) {e i : Nat} (h : i ≠ e) (q : Plan) : tget {} (closedPlan p e q).experts i = tget {} q.experts i := by
  have hl : tget {} (lastPlan e q).experts i = tget {} q.experts i := (lastPlan_experts e i q).trans (if_neg (Ne.symm h))
  unfold closedPlan
  split
  · rfl
  · split
    · exact (withExpert_experts ..).trans ((if_neg (Ne.symm h)).trans hl)
    · exact hl

/-- While rows of the expert are to come, nothing closes. -/
theorem closedPlan_open {e : Nat} {q : Plan} (h : routersDone q p = false ∨ (tget {} q.experts e).transit ≠ []) : closedPlan p e q = q := by
  unfold closedPlan
  exact if_pos (by simpa using h)

theorem closedPlan_closed {e : Nat} {q : Plan} (h1 : routersDone q p = true) (h2 : (tget {} q.experts e).transit = []) :
    tget {} (closedPlan p e q).experts e = closedExpert p e (tget {} q.experts e) := by
  unfold closedPlan closedExpert
  rw [if_neg (by simp [h1, h2])]
  have hl : tget {} (lastPlan e q).experts e = lastBlock (tget {} q.experts e) := (lastPlan_experts e e q).trans (if_pos rfl)
  split
  · rw [withExpert_experts, if_pos rfl, hl]
  · exact hl

theorem closedPlan_counts (p : List Byte) (e : Nat) (q : Plan) : countsOf (tget {} (closedPlan p e q).experts e) = countsOf (tget {} q.experts e) := by
  by_cases h : routersDone q p = false ∨ (tget {} q.experts e).transit ≠ []
  · rw [closedPlan_open h]
  · obtain ⟨h1, h2⟩ := not_or.1 h
    rw [closedPlan_closed (by simpa using h1) (not_not.1 h2)]
    exact countsOf_closedExpert p e _

theorem PlanNow.closeBlocks (h : PlanNow s k q t) (hp : q.bytes = some p) (e : Nat) : PlanNow s k (closedPlan p e q) (closeBlocks k e t) := by
  unfold Machine.closeBlocks closedPlan
  rw [h.livePlan hp]
  dsimp only
  split
  · exact h
  · have hlast : PlanNow s k (lastPlan e q)
        (if (tget {} q.experts e).cur.isEmpty then t else Machine.setExpert k e (fun x => { x with ready := x.ready ++ [mkBlock x.cur], cur := [] }) t) := by
      unfold lastPlan
      split
      · exact h
      · exact h.setExpert e _
    split
    · exact hlast.setExpert e _
    · exact hlast

/-! ### TOKEN_ROW_ARRIVAL (R165-R170) -/

theorem tokenRowArrival_none (hup : s.pwr.phase = .ready) (hl : livePlan s k = some (pl, p))
    (h : (tget {} pl.experts e).transit[i]? = none ∨ roleOf s pl (packerRole p e) = none) : exec (.tokenRowArrival k e i) s = .next s := by
  refine (ifUp_ready hup).trans (congrArg _ ?_)
  unfold rowArrivalS
  rw [hl]
  dsimp only
  split
  · next h1 h2 => rcases h with h | h <;> simp_all
  · rfl

/-- A plan with a row taken off an expert's way. -/
def rowOff (e i : Nat) (pl : Plan) : Plan := withExpert e (fun x => { x with transit := x.transit.eraseIdx i }) pl

/-- The packer joins a row to the current block, under CAP_SPLIT 0 granting its claim. -/
def grantRow (p : List Byte) (row : Nat × Nat × Word × List Byte) (x : PExpert) : PExpert :=
  joinBlock row (if plCapSplit p then x else { x with accepted := x.accepted + 1 })

section
variable (hup : s.pwr.phase = .ready) (hl : livePlan s k = some (pl, p)) (hrow : (tget {} pl.experts e).transit[i]? = some row) (hrole : roleOf s pl (packerRole p e) ≠ none)
include hup hl hrow hrole

/-- A row that the packer takes into its block. -/
theorem tokenRowArrival_granted (h : plCapSplit p = true ∨ (tget {} pl.experts e).accepted < plCapacity p) :
    ∃ b, exec (.tokenRowArrival k e i) s = .next (piperFlush k b) ∧ PlanNow s k (closedPlan p e (withExpert e (grantRow p row) (rowOff e i pl))) b ∧ OnlyPlans s b := by
  obtain ⟨hk, hp⟩ := livePlan_plan hl
  obtain ⟨m, hm⟩ := Option.ne_none_iff_exists'.1 hrole
  have h1 : PlanNow s k (rowOff e i pl) (setExpert k e (fun x => { x with transit := x.transit.eraseIdx i }) s) := (PlanNow.start hk).setExpert e _
  have h2 := h1.setExpert e (grantRow p row)
  refine ⟨_, (ifUp_ready hup).trans (congrArg _ ?_), h2.closeBlocks hp e, ((OnlyPlans.refl s).setPlan k _).setPlan k _ |>.closeBlocks k e⟩
  unfold rowArrivalS
  rw [hl]
  simp only [hrow, hm]
  refine congrArg (fun u => piperFlush k (Machine.closeBlocks k e u)) ?_
  have hg : grantRow p row = fun x => joinBlock row (if plCapSplit p then x else { x with accepted := x.accepted + 1 }) := rfl
  rw [h1.expertOf e, rowOff, withExpert_experts, if_pos rfl, hg]
  cases hc : plCapSplit p with
  | true => rfl
  | false => exact if_pos (h.resolve_left (by simp [hc]))

/-- A row whose claim the packer refuses. -/
theorem tokenRowArrival_refused (hc : plCapSplit p = false) (h : plCapacity p ≤ (tget {} pl.experts e).accepted) :
    ∃ b, exec (.tokenRowArrival k e i) s = .next (piperFlush k b) ∧ PlanNow s k (closedPlan p e (refusedPlan p row.1 e (rowOff e i pl))) b := by
  obtain ⟨hk, hp⟩ := livePlan_plan hl
  obtain ⟨m, hm⟩ := Option.ne_none_iff_exists'.1 hrole
  have h1 : PlanNow s k (rowOff e i pl) (setExpert k e (fun x => { x with transit := x.transit.eraseIdx i }) s) := (PlanNow.start hk).setExpert e _
  have h2 := h1.refuseClaim pl.ctx row.1 e row.2.1 row.2.2.1 row.2.2.2 (p := p)
  refine ⟨_, (ifUp_ready hup).trans (congrArg _ ?_), h2.closeBlocks ((refusedPlan_same ..).2.2.2.2.trans hp) e⟩
  unfold rowArrivalS
  rw [hl]
  simp only [hrow, hm]
  refine congrArg (fun u => piperFlush k (Machine.closeBlocks k e u)) ?_
  rw [h1.expertOf e, rowOff, withExpert_experts, if_pos rfl, hc]
  exact if_neg (not_lt.2 h)

end

/-- What the packer's taking of a row does to the expert's record. -/
theorem granted_experts (p : List Byte) (row : Nat × Nat × Word × List Byte) (e i : Nat) (pl : Plan) :
    let x := tget {} pl.experts e
    let q := closedPlan p e (withExpert e (grantRow p row) (rowOff e i pl))
    let y := tget {} q.experts e
    y.transit = x.transit.eraseIdx i ∧ y.delivered = x.delivered ∧ y.claimed = x.claimed ∧ y.dropped = x.dropped ∧ y.spilled = x.spilled ∧
    y.accepted = x.accepted + (if plCapSplit p then 0 else 1) ∧ (∀ j, j ≠ e → tget {} q.experts j = tget {} pl.experts j) ∧ q.owed = pl.owed := by
  dsimp only
  have hc : countsOf (tget {} (closedPlan p e (withExpert e (grantRow p row) (rowOff e i pl))).experts e) =
      countsOf (if plCapSplit p then { tget {} pl.experts e with transit := (tget {} pl.experts e).transit.eraseIdx i }
        else { tget {} pl.experts e with transit := (tget {} pl.experts e).transit.eraseIdx i, accepted := (tget {} pl.experts e).accepted + 1 }) := by
    rw [closedPlan_counts, withExpert_experts, if_pos rfl, rowOff, withExpert_experts, if_pos rfl]
    exact countsOf_joinBlock row _
  have ho (j : Nat) (hj : j ≠ e) : tget {} (closedPlan p e (withExpert e (grantRow p row) (rowOff e i pl))).experts j = tget {} pl.experts j := by
    rw [closedPlan_other p hj, withExpert_experts, if_neg (Ne.symm hj), rowOff, withExpert_experts, if_neg (Ne.symm hj)]
  have howed := (closedPlan_same p e (withExpert e (grantRow p row) (rowOff e i pl))).1
  cases hs : plCapSplit p with
  | true =>
    simp only [countsOf, hs, if_true, Prod.mk.injEq] at hc
    obtain ⟨h1, h2, h3, h4, h5, h6⟩ := hc
    exact ⟨h6, h5, h1, h3, h4, h2, ho, howed⟩
  | false =>
    simp only [countsOf, hs, Bool.false_eq_true, if_false, Prod.mk.injEq] at hc
    obtain ⟨h1, h2, h3, h4, h5, h6⟩ := hc
    exact ⟨h6, h5, h1, h3, h4, h2, ho, howed⟩

theorem eraseIdx_left {α : Type} {l : List α} {i : Nat} {a : α} (h : l[i]? = some a) : l.eraseIdx i = [] ↔ l.length = 1 := by
  have hi : i < l.length := (List.getElem?_eq_some_iff.1 h).1
  rw [← List.length_eq_zero_iff, List.length_eraseIdx, if_pos hi]
  omega

/-- While rows are to come, the record after a row is that of its joining; the last one closes the blocks. -/
theorem arrived_experts {q : Plan} (hrow : (tget {} pl.experts e).transit[i]? = some row) (ht : q.tokens = pl.tokens)
    (hx : (tget {} q.experts e).transit = (tget {} pl.experts e).transit.eraseIdx i) :
    ((routersDone pl p = false ∨ (tget {} pl.experts e).transit.length ≠ 1) → tget {} (closedPlan p e q).experts e = tget {} q.experts e) ∧
    (routersDone pl p = true → (tget {} pl.experts e).transit.length = 1 → tget {} (closedPlan p e q).experts e = closedExpert p e (tget {} q.experts e)) := by
  have hd : routersDone q p = routersDone pl p := by
    unfold routersDone
    rw [ht]
  refine ⟨fun h => ?_, fun h1 h2 => closedPlan_closed (hd.trans h1) (hx.trans ((eraseIdx_left hrow).2 h2))⟩
  rw [closedPlan_open (h.imp hd.trans fun h2 h3 => h2 ((eraseIdx_left hrow).1 (hx.symm.trans h3)))]

/-- The blocks of an expert after the packer has taken a row (R169, R170). -/
theorem granted_blocks (hrow : (tget {} pl.experts e).transit[i]? = some row) :
    let x := tget {} pl.experts e
    let y := tget {} (closedPlan p e (withExpert e (grantRow p row) (rowOff e i pl))).experts e
    ((x.cur.length < 63 ∧ (routersDone pl p = false ∨ x.transit.length ≠ 1)) → y.cur = x.cur ++ [row] ∧ y.ready = x.ready) ∧
    (x.cur.length = 63 → (routersDone pl p = false ∨ x.transit.length ≠ 1) → y.cur = [] ∧ y.ready = x.ready ++ [mkBlock (x.cur ++ [row])]) ∧
    (routersDone pl p = true → x.transit.length = 1 → y.cur = [] ∧ y.ready = x.ready ++ [mkBlock (x.cur ++ [row])] ++
      (if exKind p e = 1 then List.replicate (plBlocks p - (x.delivered + x.ready.length + 1)) (mkBlock []) else [])) := by
  obtain ⟨x', hx', hcur, hready, hdel, htr⟩ : ∃ x', tget {} (withExpert e (grantRow p row) (rowOff e i pl)).experts e = joinBlock row x' ∧
      x'.cur = (tget {} pl.experts e).cur ∧ x'.ready = (tget {} pl.experts e).ready ∧ x'.delivered = (tget {} pl.experts e).delivered ∧
      x'.transit = (tget {} pl.experts e).transit.eraseIdx i := by
    rw [withExpert_experts, if_pos rfl, rowOff, withExpert_experts, if_pos rfl]
    refine ⟨_, rfl, ?_⟩
    split <;> exact ⟨rfl, rfl, rfl, rfl⟩
  have htq : (tget {} (withExpert e (grantRow p row) (rowOff e i pl)).experts e).transit = (tget {} pl.experts e).transit.eraseIdx i := by
    rw [hx', ← htr]
    exact congrArg (fun c => c.2.2.2.2.2) (countsOf_joinBlock row x')
  obtain ⟨hopen, hclosed⟩ := arrived_experts (q := withExpert e (grantRow p row) (rowOff e i pl)) (p := p) hrow rfl htq
  dsimp only
  rw [← hcur, ← hready, ← hdel]
  refine ⟨fun ⟨h1, h2⟩ => ?_, fun h1 h2 => ?_, fun h1 h2 => ?_⟩
  · rw [hopen h2, hx']
    exact joinBlock_room h1
  · rw [hopen h2, hx']
    exact joinBlock_full h1.ge
  · rw [hclosed h1 h2, hx']
    exact closedExpert_joinBlock p e row x'

theorem refusedPlan_spilled (p : List Byte) (n e : Nat) (pl : Plan) :
    (refusedPlan p n e pl).spillUsed = pl.spillUsed + b2n (plOverSpill p && decide (pl.spillUsed < plSpillCap p)) := by
  unfold refusedPlan
  dsimp only
  split
  · next h => rw [h]; rfl
  · next h => rw [Bool.not_eq_true _ |>.mp h]; rfl

/-- The record of an expert whose packer has refused a row (R166-R168). -/
theorem refused_experts (hrow : (tget {} pl.experts e).transit[i]? = some row) (p : List Byte) (n : Nat) :
    let x := tget {} pl.experts e
    let q := closedPlan p e (refusedPlan p n e (rowOff e i pl))
    let y := tget {} q.experts e
    y.transit = x.transit.eraseIdx i ∧ y.delivered = x.delivered ∧ y.claimed = x.claimed ∧ (∀ j, j ≠ e → tget {} q.experts j = tget {} pl.experts j) ∧
    y.accepted = x.accepted ∧ q.owed = pl.owed ++ [1] ∧ ((routersDone pl p = false ∨ x.transit.length ≠ 1) → y.cur = x.cur ∧ y.ready = x.ready) ∧
    (plOverSpill p = true → pl.spillUsed < plSpillCap p → y.spilled = x.spilled + 1 ∧ y.dropped = x.dropped ∧ q.spillUsed = pl.spillUsed + 1) ∧
    (plOverSpill p = false ∨ plSpillCap p ≤ pl.spillUsed → y.spilled = x.spilled ∧ y.dropped = x.dropped + 1 ∧ q.spillUsed = pl.spillUsed) := by
  have hx' : tget {} (refusedPlan p n e (rowOff e i pl)).experts e =
      if plOverSpill p && decide (pl.spillUsed < plSpillCap p) then
        ({ tget {} pl.experts e with transit := (tget {} pl.experts e).transit.eraseIdx i, spilled := (tget {} pl.experts e).spilled + 1 } : PExpert)
      else { tget {} pl.experts e with transit := (tget {} pl.experts e).transit.eraseIdx i, dropped := (tget {} pl.experts e).dropped + 1 } := by
    rw [refusedPlan_experts, if_pos rfl, rowOff, withExpert_experts, if_pos rfl]
    rfl
  have hcnt := closedPlan_counts p e (refusedPlan p n e (rowOff e i pl))
  obtain ⟨howed, hspill⟩ := closedPlan_same p e (refusedPlan p n e (rowOff e i pl))
  obtain ⟨-, -, ht, ho, -⟩ := refusedPlan_same p n e (rowOff e i pl)
  have hsu : (closedPlan p e (refusedPlan p n e (rowOff e i pl))).spillUsed = _ := hspill.trans (refusedPlan_spilled p n e (rowOff e i pl))
  have hoth (j : Nat) (hj : j ≠ e) : tget {} (closedPlan p e (refusedPlan p n e (rowOff e i pl))).experts j = tget {} pl.experts j := by
    rw [closedPlan_other p hj, refusedPlan_experts, if_neg (Ne.symm hj), rowOff, withExpert_experts, if_neg (Ne.symm hj)]
  by_cases hs : (plOverSpill p && decide (pl.spillUsed < plSpillCap p)) = true
  · have hx := hx'.trans (if_pos hs)
    rw [hx] at hcnt
    simp only [countsOf, Prod.mk.injEq] at hcnt
    obtain ⟨h1, h2, h3, h4, h5, h6⟩ := hcnt
    refine ⟨h6, h5, h1, hoth, h2, howed.trans ho, fun h => ?_, fun _ _ => ⟨h4, h3, ?_⟩, fun h => ?_⟩
    · rw [(arrived_experts hrow ht (congrArg PExpert.transit hx)).1 h, hx]
      exact ⟨rfl, rfl⟩
    · rw [hsu]
      exact congrArg (fun b => pl.spillUsed + b2n b) hs
    · simp only [Bool.and_eq_true, decide_eq_true_eq] at hs
      rcases h with h | h
      · simp [h] at hs
      · omega
  · have hx := hx'.trans (if_neg hs)
    rw [hx] at hcnt
    simp only [countsOf, Prod.mk.injEq] at hcnt
    obtain ⟨h1, h2, h3, h4, h5, h6⟩ := hcnt
    refine ⟨h6, h5, h1, hoth, h2, howed.trans ho, fun h => ?_, fun h1 h2 => absurd (by simp [h1, h2]) hs, fun _ => ⟨h4, h3, ?_⟩⟩
    · rw [(arrived_experts hrow ht (congrArg PExpert.transit hx)).1 h, hx]
      exact ⟨rfl, rfl⟩
    · rw [hsu]
      exact congrArg (fun b => pl.spillUsed + b2n b) (Bool.not_eq_true _ |>.mp hs)

end

end Sys2Proof.Machine
end

section
/-! PROOF. Blocks delivered to stations and sent to remote devices (R171-R173, R179). -/

namespace Sys2Proof.Machine

/-! ### A block in a destination's slot (R171) -/

/-- A station with a block written to its slot and its gates to its vector register. -/
def putSlot (p : List Byte) (e slot : Nat) (b : PBlock) (x : Stn) : Stn :=
  let y := lsPut (exRx p e + slot * plSlotBytes p) (slotBytes p b) x
  { y with vreg := (slotGates b).zipIdx.foldl (fun t g => tset 0 t (64 * (exGateVreg p e + slot) + g.2) g.1) y.vreg }

/-- The slot and the vector register of a station hold a block. -/
def HoldsSlot (p : List Byte) (e slot : Nat) (b : PBlock) (z : Stn) : Prop :=
  (∀ j < (slotBytes p b).length, tget 0 z.ls (exRx p e + slot * plSlotBytes p + j) = nth 0 (slotBytes p b) j) ∧
  (∀ j < b.rows.length, tget 0 z.vreg (64 * (exGateVreg p e + slot) + j) = nth 0 (slotGates b) j)

section
variable {p : List Byte} {e slot : Nat} {b : PBlock}

theorem putSlot_outside (x : Stn) {a : Nat} (h : a < exRx p e + slot * plSlotBytes p ∨ exRx p e + slot * plSlotBytes p + (slotBytes p b).length ≤ a) :
    tget 0 (putSlot p e slot b x).ls a = tget 0 x.ls a :=
  (lsPut_ls ..).trans (if_neg (by omega))

theorem putSlot_holds (x : Stn) : HoldsSlot p e slot b (putSlot p e slot b x) := by
  refine ⟨fun j hj => ?_, fun j hj => ?_⟩
  · refine (lsPut_ls ..).trans ((if_pos (by omega)).trans ?_)
    rw [Nat.add_sub_cancel_left]
  · have hl : j < (slotGates b).length := by simpa [slotGates] using hj
    have hf := List.foldl_map (f := fun g : Word × Nat => (64 * (exGateVreg p e + slot) + g.2, g.1)) (g := fun (t : Tbl Word) (e : Nat × Word) => tset 0 t e.1 e.2)
      (l := (slotGates b).zipIdx) (init := x.vreg)
    refine (congrArg (tget 0 · (64 * (exGateVreg p e + slot) + j)) hf.symm).trans (tget_foldl_tset_mem 0 _ ⟨_,
      List.mem_map.2 ⟨((slotGates b)[j], j), List.mem_zipIdx_iff_getElem?.2 (List.getElem?_eq_getElem hl), rfl⟩, rfl⟩ (fun q hq hk => ?_) x.vreg)
    obtain ⟨g, hg, rfl⟩ := List.mem_map.1 hq
    have hg := List.mem_zipIdx_iff_getElem?.1 hg
    have hj : g.2 = j := Nat.add_left_cancel hk
    rw [hj] at hg
    simp [nth, List.getD, hg]

end

/-! ### The destinations of a block (R171, R173) -/

/-- A change that keeps what a role names of a station keeps the station of every role. -/
theorem roleStn_setStn (n : Nat) {f : Stn → Stn} (hf : ∀ x, (f x).launch = x.launch ∧ (f x).cell = x.cell ∧ (f x).inst = x.inst) (s : State) (ls : List Nat) (role : Nat) :
    roleStn (setStn n f s) ls role = roleStn s ls role := by
  unfold roleStn
  split
  · rfl
  · next k _ =>
    unfold setStn
    dsimp only
    generalize s.sch.stns = t
    induction t with
    | nil => rfl
    | cons e t ih =>
      obtain ⟨m, x⟩ := e
      obtain ⟨h1, h2, h3⟩ := hf x
      unfold tupd
      split
      · simp only [List.find?_cons, h1, h2, h3]
        cases decide (x.launch = k ∧ x.cell = role / 256 % 256 ∧ x.inst = role / 65536) <;> rfl
      · simp only [List.find?_cons]
        split
        · rfl
        · exact ih

section
variable {pl : Plan} {p : List Byte} {e slot : Nat} {b : PBlock}

theorem deliverTo_none {s : State} {i : Nat} (h : roleOf s pl (exDest p e i) = none) : deliverTo pl p e slot i b s = s := by
  unfold deliverTo
  rw [h]

theorem deliverTo_some {s : State} {i n : Nat} (h : roleOf s pl (exDest p e i) = some n) :
    offHome (deliverTo pl p e slot i b s) = offHome (setStn n (putSlot p e slot b) s) := by
  unfold deliverTo
  rw [h]
  exact offHome_piperAdd ..

theorem offHome_setStn {s u : State} (h : offHome u = offHome s) (n : Nat) (f : Stn → Stn) : offHome (setStn n f u) = offHome (setStn n f s) := by
  obtain ⟨h1, h2, h3, h4⟩ := offHome_eq h
  exact offHome_of h1 (by unfold setStn; rw [h2]) h3 h4

/-- What a delivery to the destinations in `l` leaves of the state and of every station. -/
structure Delivered (pl : Plan) (p : List Byte) (e slot : Nat) (b : PBlock) (l : List Nat) (s t : State) : Prop where
  pip : t.pip = s.pip
  roles : ∀ role, roleOf t pl role = roleOf s pl role
  others : ∀ n, (∀ i ∈ l, roleOf s pl (exDest p e i) ≠ some n) → stnOf t n = stnOf s n
  written : ∀ n y, stnOf s n = some y → ∃ z, stnOf t n = some z ∧ ((HoldsSlot p e slot b y ∨ ∃ i ∈ l, roleOf s pl (exDest p e i) = some n) → HoldsSlot p e slot b z) ∧
    ∀ a, (a < exRx p e + slot * plSlotBytes p ∨ exRx p e + slot * plSlotBytes p + (slotBytes p b).length ≤ a) → tget 0 z.ls a = tget 0 y.ls a

theorem Delivered.refl (s : State) : Delivered pl p e slot b [] s s :=
  ⟨rfl, fun _ => rfl, fun _ _ => rfl, fun _ y h => ⟨y, h, fun h => h.resolve_right (by simp), fun _ _ => rfl⟩⟩

theorem delivered_one (s : State) (i : Nat) : Delivered pl p e slot b [i] s (deliverTo pl p e slot i b s) := by
  cases h : roleOf s pl (exDest p e i) with
  | none =>
    rw [deliverTo_none h]
    refine ⟨rfl, fun _ => rfl, fun _ _ => rfl, fun n y hy => ⟨y, hy, fun hw => hw.resolve_right ?_, fun _ _ => rfl⟩⟩
    simp [h]
  | some m =>
    obtain ⟨h1, h2, -, -⟩ := offHome_eq (deliverTo_some (slot := slot) (b := b) h)
    have hst (n : Nat) : stnOf (deliverTo pl p e slot i b s) n = stnOf (setStn m (putSlot p e slot b) s) n := by
      unfold stnOf
      rw [h2]
    refine ⟨h1, fun role => ?_, fun n hn => ?_, fun n y hy => ?_⟩
    · have hr : roleOf (deliverTo pl p e slot i b s) pl role = roleOf (setStn m (putSlot p e slot b) s) pl role := by
        unfold roleOf roleStn
        rw [h2]
      exact hr.trans (roleStn_setStn m (f := putSlot p e slot b) (fun x => ⟨rfl, rfl, rfl⟩) s _ _)
    · have hmn : n ≠ m := fun he => hn i (List.mem_singleton_self i) (h.trans (congrArg some he.symm))
      exact (hst n).trans (stnOf_setStn_other s hmn _)
    · by_cases hmn : n = m
      · subst hmn
        exact ⟨_, (hst n).trans (stnOf_setStn_same hy _), fun _ => putSlot_holds y, fun a ha => putSlot_outside y ha⟩
      · refine ⟨y, (hst n).trans ((stnOf_setStn_other s hmn _).trans hy), fun hw => hw.resolve_right ?_, fun _ _ => rfl⟩
        simpa [h] using Ne.symm hmn

theorem Delivered.cons {i : Nat} {l : List Nat} {s t u : State} (h : Delivered pl p e slot b [i] s t) (g : Delivered pl p e slot b l t u) :
    Delivered pl p e slot b (i :: l) s u := by
  refine ⟨g.pip.trans h.pip, fun r => (g.roles r).trans (h.roles r), fun n hn => ?_, fun n y hy => ?_⟩
  · refine (g.others n fun j hj => ?_).trans (h.others n fun j hj => ?_)
    · rw [h.roles]
      exact hn j (List.mem_cons_of_mem _ hj)
    · rw [List.mem_singleton.1 hj]
      exact hn i List.mem_cons_self
  · obtain ⟨z, hz, hw, ho⟩ := h.written n y hy
    obtain ⟨z', hz', hw', ho'⟩ := g.written n z hz
    refine ⟨z', hz', fun hh => hw' ?_, fun a ha => (ho' a ha).trans (ho a ha)⟩
    rcases hh with hh | ⟨j, hj, hr⟩
    · exact .inl (hw (.inl hh))
    · rcases List.mem_cons.1 hj with rfl | hj
      · exact .inl (hw (.inr ⟨j, List.mem_singleton_self j, hr⟩))
      · exact .inr ⟨j, hj, (h.roles _).trans hr⟩

theorem delivered_all (l : List Nat) (s : State) : Delivered pl p e slot b l s (l.foldl (fun s i => deliverTo pl p e slot i b s) s) := by
  induction l generalizing s with
  | nil => exact .refl s
  | cons i l ih => exact (delivered_one s i).cons (ih _)

end

/-! ### Packets through an outbound window (R179) -/

theorem offHome_drainPort (p n : Nat) (s : State) : offHome (drainPort p n s) = offHome s := by
  induction n generalizing s with
  | zero => rfl
  | succ n ih =>
    unfold drainPort
    dsimp only
    split
    · rfl
    · split
      · exact (ih _).trans rfl
      · exact (ih _).trans rfl

theorem offHome_emitPkt (p : Nat) (k : Pkt) (s : State) : offHome (emitPkt p k s) = offHome s := (offHome_drainPort ..).trans rfl

theorem offHome_expireReq {q : RReq} (h : q.piper.isSome = true) (s : State) : offHome (expireReq q s) = offHome s := by
  obtain ⟨v, hv⟩ := Option.isSome_iff_exists.1 h
  unfold expireReq
  rw [hv]
  unfold expiredEvent
  dsimp only
  split <;> rfl

/-- A packet of a Piper block, sent or expired, changes no plan, station, clock or context. -/
theorem offHome_trySend {q : RReq} (ht : q.pkt.ptype ≠ 0x20) (hp : q.piper.isSome = true) (s : State) : offHome (trySend q s) = offHome s := by
  unfold trySend
  split
  · exact offHome_expireReq hp s
  · refine offHome_ite ?_ rfl
    dsimp only
    rw [if_neg ht]
    exact offHome_emitPkt _ _ s

theorem offHome_openReq (w : Nat) {pkt : Pkt} (h : pkt.ptype ≠ 0x20) (who : Agent) (v : Nat × Nat × Nat) (s : State) : offHome (openReq w pkt who (some v) s) = offHome s :=
  (offHome_trySend (by exact h) rfl _).trans rfl

theorem offHome_sendBlock (k e slot blk : Nat) (pl : Plan) (p : List Byte) (b : PBlock) (s : State) : offHome (sendBlock k e slot blk pl p b s) = offHome s := by
  unfold sendBlock
  split
  · rfl
  · split
    · rfl
    · refine offHome_foldl _ (fun s i => ?_) _ s
      dsimp only
      split
      · rfl
      · exact offHome_openReq _ (show (1 : Nat) ≠ 0x20 by decide) _ _ s

/-- Without a window in force of the plan's context nothing is sent. -/
theorem sendBlock_none {s : State} {pl : Plan} {p : List Byte} {e : Nat} (h : ∀ w, tget? s.rbx.owins (exWindow p e) = some w → w.valid = false ∨ w.owner ≠ pl.ctx)
    (k slot blk : Nat) (b : PBlock) : sendBlock k e slot blk pl p b s = s := by
  unfold sendBlock
  split
  · rfl
  · next w hw => exact if_pos (by simpa using h w hw)

/-! ### BLOCK_DELIVERY (R172, R173) -/

section
variable {s : State} {k e : Nat} {pl : Plan} {p : List Byte}

theorem blockDelivery_none (hup : s.pwr.phase = .ready) (hl : livePlan s k = some (pl, p))
    (h : (tget {} pl.experts e).ready = [] ∨ slotFree p e (tget {} pl.experts e) = false ∨ placedFor s pl p e = false) : exec (.blockDelivery k e) s = .next s := by
  refine (ifUp_ready hup).trans (congrArg _ ?_)
  unfold blockDeliveryS
  rw [hl]
  dsimp only
  split
  · rfl
  · next b rest hr =>
    rw [hr] at h
    exact if_pos (by simpa using h)

variable {b : PBlock} {rest : List PBlock}

variable (hup : s.pwr.phase = .ready) (hl : livePlan s k = some (pl, p)) (hr : (tget {} pl.experts e).ready = b :: rest)
  (hf : slotFree p e (tget {} pl.experts e) = true) (hpl : placedFor s pl p e = true)
include hup hl hr hf hpl

theorem blockDelivery_local (hk : exKind p e = 1) : exec (.blockDelivery k e) s = .next ((List.range (exDests p e)).foldl
    (fun s i => deliverTo pl p e ((tget {} pl.experts e).delivered % exSlots p e) i b s)
    (setExpert k e (fun x => { x with ready := rest, delivered := x.delivered + 1, out := x.out }) s)) := by
  refine (ifUp_ready hup).trans (congrArg _ ?_)
  unfold blockDeliveryS
  rw [hl]
  simp only [hr]
  rw [if_neg (by simp [hf, hpl]), if_pos hk]
  simp only [hk]
  rfl

theorem blockDelivery_remote (hk : exKind p e = 2) : exec (.blockDelivery k e) s = .next (sendBlock k e ((tget {} pl.experts e).delivered % exSlots p e) (tget {} pl.experts e).delivered pl p b
    (setExpert k e (fun x => { x with
      ready := rest, delivered := x.delivered + 1, out := x.out ++ [(x.delivered, b, refOf s (packerDie s pl p e))] }) s)) := by
  refine (ifUp_ready hup).trans (congrArg _ ?_)
  unfold blockDeliveryS
  rw [hl]
  simp only [hr]
  rw [if_neg (by simp [hf, hpl]), if_neg (by omega)]
  simp only [hk, if_true]

end

end Sys2Proof.Machine
end

section
/-! PROOF. Results and losses of blocks (R174-R180), and the obligation of the Piper. -/

namespace Sys2Proof.Machine

/-! ### RESULT_HAND_OVER of an expert on the device (R174, R183) -/

section
variable {s : State} {k e n : Nat} {pl : Plan} {p : List Byte}
  (hup : s.pwr.phase = .ready) (hl : livePlan s k = some (pl, p))
include hup hl

theorem resultHandOver_local (hk : exKind p e = 1) : exec (.resultHandOver k e) s = .next (resultLocal k e pl p s) := by
  refine (ifUp_ready hup).trans (congrArg _ ?_)
  unfold resultHandOverS
  rw [hl]
  exact if_pos hk

theorem resultHandOver_remote (hk : exKind p e = 2) : exec (.resultHandOver k e) s = .next (resultRemote k e pl p s) := by
  refine (ifUp_ready hup).trans (congrArg _ ?_)
  unfold resultHandOverS
  rw [hl]
  exact (if_neg (by omega)).trans (if_pos hk)

end

section
variable {s : State} {k e n : Nat} {pl : Plan} {p : List Byte} (hr : roleOf s pl (exDest p e (exRet p e)) = some n)
include hr

theorem resultLocal_idle (h : (n, exResultSem p e, 1) ∉ pl.waiting) : resultLocal k e pl p s = s := by
  unfold resultLocal
  rw [hr]
  exact if_pos h

theorem resultLocal_busy (h1 : (tget {} pl.experts e).returned < (tget {} pl.experts e).delivered)
    (h2 : ctxBusy s pl.ctx (exResultBase p e + (tget {} pl.experts e).returned % exSlots p e * 64 * plOutPitch p) (64 * plOutPitch p) = true) : resultLocal k e pl p s = s := by
  by_cases h : (n, exResultSem p e, 1) ∈ pl.waiting
  · unfold resultLocal
    rw [hr]
    exact (if_neg (not_not.2 h)).trans ((if_neg (not_le.2 h1)).trans (if_pos h2))
  · exact resultLocal_idle hr h

theorem resultLocal_early (h : (n, exResultSem p e, 1) ∈ pl.waiting) (h1 : (tget {} pl.experts e).delivered ≤ (tget {} pl.experts e).returned) :
    resultLocal k e pl p s = stationFault n 0xB6 4 e 0 pl.addr 0 s := by
  unfold resultLocal
  rw [hr]
  exact (if_neg (not_not.2 h)).trans (if_pos h1)

theorem resultLocal_placed (h : (n, exResultSem p e, 1) ∈ pl.waiting) (h1 : (tget {} pl.experts e).returned < (tget {} pl.experts e).delivered) {y : Stn} (hy : stnOf s n = some y)
    (h2 : ctxBusy s pl.ctx (exResultBase p e + (tget {} pl.experts e).returned % exSlots p e * 64 * plOutPitch p) (64 * plOutPitch p) = false) :
    resultLocal k e pl p s = placeBlock k pl p (lsRead y (exRx p e + (tget {} pl.experts e).returned % exSlots p e * plSlotBytes p + 64 * plInPitch p) 512)
      (exResultBase p e + (tget {} pl.experts e).returned % exSlots p e * 64 * plOutPitch p)
      (setExpert k e (fun x => { x with returned := x.returned + 1 }) (setPlan k (fun pl => { pl with waiting := pl.waiting.erase (n, exResultSem p e, 1) }) s)) := by
  unfold resultLocal
  rw [hr]
  dsimp only
  rw [if_neg (not_not.2 h), if_neg (not_le.2 h1), if_neg (by rw [h2]; decide)]
  simp only [hy, Option.map_some, Option.getD_some]

end

/-! ### RESULT_HAND_OVER of a remote expert (R179) -/

section
variable {s : State} {k e : Nat} {pl : Plan} {p : List Byte} {o : Nat × PBlock × Nat} {rest : List (Nat × PBlock × Nat)} (ho : (tget {} pl.experts e).out = o :: rest)
include ho

theorem resultRemote_waits (h : resultCount s pl p e < (o.1 + 1) * remoteBlock p ∨
    ctxBusy s pl.ctx (exResultBase p e + o.1 % exSlots p e * remoteBlock p) (remoteBlock p) = true) : resultRemote k e pl p s = s := by
  unfold resultRemote
  simp only [ho]
  exact if_pos h

theorem resultRemote_placed (h1 : (o.1 + 1) * remoteBlock p ≤ resultCount s pl p e)
    (h2 : ctxBusy s pl.ctx (exResultBase p e + o.1 % exSlots p e * remoteBlock p) (remoteBlock p) = false) :
    resultRemote k e pl p s = placeBlock k pl p (ctxRead s pl.ctx (exResultBase p e + o.1 % exSlots p e * remoteBlock p + 64 * plOutPitch p) 512)
      (exResultBase p e + o.1 % exSlots p e * remoteBlock p)
      (setExpert k e (fun x => { x with out := x.out.erase o, returned := if rest.isEmpty then x.delivered else x.returned }) s) := by
  unfold resultRemote
  simp only [ho]
  exact if_neg (by simp [h2]; omega)

end

/-! ### PIPER_REMOTE_LOST (R180) -/

section
variable {s : State} {k e i : Nat} {pl : Plan} {p : List Byte} {o : Nat × PBlock × Nat}
  (hup : s.pwr.phase = .ready) (hl : livePlan s k = some (pl, p)) (ho : (tget {} pl.experts e).out.find? (fun o => decide (o.1 = i)) = some o)
include hup hl ho

theorem piperRemoteLost_early (h : refOf s (packerDie s pl p e) - o.2.2 < plTimeoutMs p * refMs ∨ (i + 1) * remoteBlock p ≤ resultCount s pl p e) :
    exec (.piperRemoteLost k e i) s = .next s := by
  refine (ifUp_ready hup).trans (congrArg _ ?_)
  unfold remoteLostS
  rw [hl]
  simp only [ho]
  exact if_pos h

theorem piperRemoteLost_late (h1 : plTimeoutMs p * refMs ≤ refOf s (packerDie s pl p e) - o.2.2) (h2 : resultCount s pl p e < (i + 1) * remoteBlock p) :
    exec (.piperRemoteLost k e i) s = .next (loseBlock k e o s) := by
  refine (ifUp_ready hup).trans (congrArg _ ?_)
  unfold remoteLostS
  rw [hl]
  simp only [ho]
  exact if_neg (by omega)

end

/-- A plan after the loss of a block of `n` rows. -/
def lostPlan (e n : Nat) (o : Nat × PBlock × Nat) (pl : Plan) : Plan := withExpert e (fun x => { x with out := x.out.erase o }) { pl with lost := pl.lost + n }

/-- The event of a lost block, raised with the die, count and slice of the state before the loss. -/
theorem PlanNow.lossRaised {s t : State} {k : Nat} {q : Plan} (h : PlanNow s k q t) (pl : Plan) (p : List Byte) (e i : Nat) :
    PlanNow s k q (raise (packerDie t pl p e) 0x0002 pl.ctx (ctxSlice t pl.ctx) e i 0 t) ∧
    ⟨eventBytes (packerDie s pl p e) 0x0002 (refOf s (packerDie s pl p e)) pl.ctx (ctxSlice s pl.ctx) e i 0, none⟩ ∈
      (raise (packerDie t pl p e) 0x0002 pl.ctx (ctxSlice t pl.ctx) e i 0 t).cmd.evq := by
  have hdie : packerDie t pl p e = packerDie s pl p e := by
    unfold packerDie roleDie roleEntry
    rw [h.sch]
  refine ⟨h.home rfl, List.mem_append_right _ (List.mem_singleton.2 ?_)⟩
  rw [hdie]
  simp only [refOf, ctxSlice, ctxOf, h.clk, h.ctxs]

/-- The loss of a block: its rows count as complete, and the event is raised by the packer's die. -/
theorem loseBlock_plan {s : State} {k : Nat} {pl : Plan} {p : List Byte} (hl : livePlan s k = some (pl, p)) (e : Nat) (o : Nat × PBlock × Nat) :
    ∃ b, loseBlock k e o s = piperFlush k (owe k (o.2.1.rows.filterMap id).length b) ∧ PlanNow s k (lostPlan e (o.2.1.rows.filterMap id).length o pl) b ∧
      ⟨eventBytes (packerDie s pl p e) 0x0002 (refOf s (packerDie s pl p e)) pl.ctx (ctxSlice s pl.ctx) e o.1 0, none⟩ ∈ b.cmd.evq := by
  have hrows : PlanNow s k pl ((o.2.1.rows.filterMap id).foldl (fun s r => placeNone k pl.ctx p r.1 r.2.1 s) s) :=
    (PlanNow.start (livePlan_plan hl).1).home (offHome_foldl _ (fun s r => offHome_placeNone ..) _ s)
  have hq := (hrows.setPlan (f := fun pl => { pl with lost := pl.lost + (o.2.1.rows.filterMap id).length }) rfl).setExpert e (fun x => { x with out := x.out.erase o })
  obtain ⟨h1, h2⟩ := hq.lossRaised pl p e o.1
  refine ⟨_, ?_, h1, h2⟩
  unfold loseBlock
  rw [hl]

theorem expertOf_congr {s t : State} (h : t.pip = s.pip) (k e : Nat) : expertOf t k e = expertOf s k e := by
  unfold expertOf
  rw [h]

theorem onlyPlans_sendBlock {s : State} {pl : Plan} {p : List Byte} {e : Nat}
    (h : ∀ w, tget? s.rbx.owins (exWindow p e) = some w → w.valid = false ∨ w.owner ≠ pl.ctx) (k slot blk : Nat) (b : PBlock) (f : PExpert → PExpert) :
    OnlyPlans s (sendBlock k e slot blk pl p b (setExpert k e f s)) := by
  rw [sendBlock_none (s := setExpert k e f s) h]
  exact (OnlyPlans.refl s).setPlan k _

/-- Settles O49: the Piper's operations change the plan they name as the claims, rows, blocks and results say; what they send to the homes changes no plan and no station. -/
theorem piperHandOversBlocksAndResults : Obligations.PiperHandOversBlocksAndResults := by
  unfold Obligations.PiperHandOversBlocksAndResults
  refine ⟨fun s n k pl p v r x hup hn hk hr hx => ⟨handOver_fault hup hn hr hx hk, fun h1 h2 h3 h4 => ?_⟩, handOver_none, fun s k e i pl p x hup hl hx => ?_,
    fun s k e pl p hup hl => ?_, fun s k e pl p hup hl => ?_, fun s k e i pl p o hup hl ho => ?_⟩
  · obtain ⟨b, q, hex, hq, hw, hs, ht, hexp⟩ := handOver_claims hup hn hr hx hk h1 h2 h3 h4
    refine ⟨b, q, hex, hq.plan, hw, ?_, ?_, fun j hj => ?_, fun e => (hexp e).claimed, fun hc e => (hexp e).packed hc, fun hc e => (hexp e).granted hc, hq.others⟩
    · simp [hs]
    · simp [ht]
    · simp [hs, ht, Ne.symm hj]
  · subst hx
    obtain ⟨hk, -⟩ := livePlan_plan hl
    have hold (j : Nat) : expertOf s k j = tget {} pl.experts j := (PlanNow.start hk).expertOf j
    refine ⟨tokenRowArrival_none hup hl, fun row hrow hrole => ?_⟩
    by_cases hg : plCapSplit p = true ∨ (tget {} pl.experts e).accepted < plCapacity p
    · obtain ⟨b, hex, hq, hb⟩ := tokenRowArrival_granted hup hl hrow hrole hg
      obtain ⟨h1, h2, h3, h4, h5, h6, h7, h8⟩ := granted_experts p row e i pl
      obtain ⟨g1, g2, g3⟩ := granted_blocks (p := p) hrow
      refine ⟨b, _, _, hex, hq.expertOf e, hq.plan, h1, h2, h3, fun j hj => (hq.expertOf j).trans ((h7 j hj).trans (hold j).symm),
        fun _ => ⟨g1, g2, g3, h6, h4, h5, h8, hb⟩, fun hc hcap => ?_⟩
      rcases hg with hg | hg
      · simp [hc] at hg
      · omega
    · obtain ⟨hc, hcap⟩ := not_or.1 hg
      obtain ⟨b, hex, hq⟩ := tokenRowArrival_refused hup hl hrow hrole (by simpa using hc) (not_lt.1 hcap)
      obtain ⟨h1, h2, h3, h4, h5, h6, h7, h8, h9⟩ := refused_experts hrow p row.1
      exact ⟨b, _, _, hex, hq.expertOf e, hq.plan, h1, h2, h3, fun j hj => (hq.expertOf j).trans ((h4 j hj).trans (hold j).symm),
        fun h => absurd h hg, fun _ _ => ⟨h5, h6, h7, h8, h9⟩⟩
  · obtain ⟨hk, -⟩ := livePlan_plan hl
    refine ⟨blockDelivery_none hup hl, fun b rest slot hr hf hp hslot => ⟨fun hkind => ?_, fun hkind => ?_⟩⟩
    · subst hslot
      have hd := delivered_all (pl := pl) (p := p) (e := e) (slot := (tget {} pl.experts e).delivered % exSlots p e) (b := b) (List.range (exDests p e))
        (setExpert k e (fun x => { x with ready := rest, delivered := x.delivered + 1, out := x.out }) s)
      have hq := ((PlanNow.start hk).setExpert e (fun x => { x with ready := rest, delivered := x.delivered + 1, out := x.out })).expertOf e
      rw [withExpert_experts, if_pos rfl] at hq
      have he := (expertOf_congr hd.pip k e).trans hq
      refine ⟨_, blockDelivery_local hup hl hr hf hp hkind, by rw [he], by rw [he], by rw [he], fun i hi n y hn hy => ?_, fun n hn => ?_⟩
      · obtain ⟨z, hz, hw, ho⟩ := hd.written n y hy
        obtain ⟨hw1, hw2⟩ := hw (.inr ⟨i, List.mem_range.2 hi, hn⟩)
        exact ⟨z, hz, hw1, hw2, ho⟩
      · exact hd.others n (fun i hi => hn i (List.mem_range.1 hi))
    · subst hslot
      have hq := (((PlanNow.start hk).setExpert e (fun x => { x with
        ready := rest, delivered := x.delivered + 1, out := x.out ++ [(x.delivered, b, refOf s (packerDie s pl p e))] })).home
        (offHome_sendBlock k e ((tget {} pl.experts e).delivered % exSlots p e) (tget {} pl.experts e).delivered pl p b _)).expertOf e
      rw [withExpert_experts, if_pos rfl] at hq
      refine ⟨_, blockDelivery_remote hup hl hr hf hp hkind, by rw [hq], by rw [hq], by rw [hq], fun hw => ?_⟩
      exact onlyPlans_sendBlock hw k _ _ b _
  · obtain ⟨hk, -⟩ := livePlan_plan hl
    refine ⟨fun n hkind hrole => ?_, fun o rest hkind ho => ?_⟩
    · rw [resultHandOver_local hup hl hkind]
      refine ⟨fun h => congrArg _ (resultLocal_idle hrole h), fun base hbase h1 h2 => ?_, fun h h1 => congrArg _ (resultLocal_early hrole h h1), fun y slot h h1 hy hslot h2 => ?_⟩
      · subst hbase
        exact congrArg _ (resultLocal_busy hrole h1 h2)
      · subst hslot
        have hq := ((PlanNow.start hk).setPlan (f := fun pl => { pl with waiting := pl.waiting.erase (n, exResultSem p e, 1) }) rfl).setExpert e
          (fun x => { x with returned := x.returned + 1 })
        refine ⟨_, _, congrArg _ (resultLocal_placed hrole h h1 hy h2), hq.plan, rfl, ?_, fun j hj => ?_, rfl⟩
        · rw [withExpert_experts, if_pos rfl]
        · rw [withExpert_experts, if_neg (Ne.symm hj)]
    · rw [resultHandOver_remote hup hl hkind]
      refine ⟨fun h => congrArg _ (resultRemote_waits ho h), fun h1 h2 => ⟨_, congrArg _ (resultRemote_placed ho h1 h2), ?_, rfl⟩⟩
      have hq := ((PlanNow.start hk).setExpert e (fun x => { x with out := x.out.erase o, returned := if rest.isEmpty then x.delivered else x.returned })).expertOf e
      rw [withExpert_experts, if_pos rfl] at hq
      rw [hq]
      dsimp only
      rw [ho, List.erase_cons_head]
  · refine ⟨piperRemoteLost_early hup hl ho, fun h1 h2 => ?_⟩
    have hi : o.1 = i := by simpa using List.find?_some ho
    obtain ⟨b, hb, hq, hev⟩ := loseBlock_plan hl e o
    refine ⟨b, _, (piperRemoteLost_late hup hl ho h1 h2).trans (congrArg _ hb), hq.plan, ?_, rfl, hi ▸ hev⟩
    rw [lostPlan, withExpert_experts, if_pos rfl]

end Sys2Proof.Machine
end

section
/-! PROOF. ICMP, FCMP, LANEPOLL, PSAVE and PLOAD, up to the mode of a LANEPOLL that the spec leaves open (R201, R202). -/

namespace Sys2Proof.Machine

/-- An instruction that writes predicate DST[2:0] in each acting lane. -/
theorem completes_lanePred {cls op : Nat} {i : Grp → ShIns → Instr} {forms : List (BitVec 2)} {regs : ShIns → List Nat}
    {fl : Bool → ShIns → GroupSt → Nat} {P : Bool → ShIns → GroupSt → Nat → Bool → Prop} (v : Bool → ShIns → GroupSt → Nat → Bool)
    (hi : ∀ u w s, exec (i u w) s = shOut cls op (form01 w) true (regs w) u w (fun x y s =>
      stepGrp u (lanePred w (v (stnFlush s x) w)) (addFlags u.stn (fl (stnFlush s x) w y) s)) s)
    (hform : ∀ w : ShIns, w.form ∈ forms → form01 w = true) (hP : ∀ b w y t, w.form ∈ forms → P b w y t (v b w y t))
    (hk : cls < 16 ∧ op < 64 ∧ op < nth 0 classOps cls := by decide) :
    Completes cls op i forms regs fl (fun b _ w y z => PredEff w y z (P b w y)) :=
  completes_of_step form01 (fun b _ w => lanePred w (v b w)) hi hform
    (fun b _ w y hw => lanePred_eff w (v b w) y (P b w y) (fun t _ => hP b w y t hw)) hk

theorem modSel_test (w : ShIns) (h : w.form = 0) : modSel w 3 0 % 8 = insMod w % 8 ∧ bitOf (modSel w 3 0) 3 = bitOf (insMod w) 3 := by
  rw [modSel_form0 w h]
  unfold bits bitOf
  refine ⟨by norm_num, ?_⟩
  rw [Nat.pow_zero, Nat.div_one, Nat.testBit_mod_two_pow]
  rfl

/-- What ICMP finds with a test that the spec states. -/
theorem icmpVal_stated (w : ShIns) (h : w.form = 0) (ht : insMod w % 8 < 6) (a b : Word) : icmpVal w a b =
    (testOf (insMod w % 8) (if bitOf (insMod w) 3 then decide (a.toNat < b.toNat) else decide (a.toInt < b.toInt)) (decide (a = b))).getD false := by
  obtain ⟨h1, h2⟩ := modSel_test w h
  unfold icmpVal
  rw [h1, h2]
  generalize insMod w % 8 = m at ht ⊢
  dsimp only
  unfold testOf
  (repeat' split) <;> first | rfl | omega

/-! ### PLOAD -/

/-- Predicates 0 to 6 of one lane set, one after the other. -/
theorem foldl_setPreds (g : Nat → Bool) (t : Nat) (l : List Nat) (hl : 7 ∉ l) (y : GroupSt) (q i : Nat) (hi : i < 32) :
    bitOf (predMask (l.foldl (fun z p => setPred p t (g p) z) y) q) i = if q ∈ l ∧ i = t then g q else bitOf (predMask y q) i := by
  induction l generalizing y with
  | nil => simp
  | cons a l ih =>
    obtain ⟨ha, hl⟩ := not_or.1 (fun h => hl (List.mem_cons.2 h))
    rw [List.foldl_cons, ih hl, setPred_bit _ _ _ _ _ _ hi]
    by_cases h1 : q ∈ l ∧ i = t
    · rw [if_pos h1, if_pos ⟨List.mem_cons_of_mem _ h1.1, h1.2⟩]
    · rw [if_neg h1]
      by_cases h2 : q = a ∧ i = t
      · rw [if_pos ⟨Ne.symm ha, h2⟩, if_pos ⟨List.mem_cons.2 (.inl h2.1), h2.2⟩, h2.1]
      · rw [if_neg (fun h => h2 h.2), if_neg]
        rintro ⟨hq, hi⟩
        rcases List.mem_cons.1 hq with hq | hq
        · exact h2 ⟨hq, hi⟩
        · exact h1 ⟨hq, hi⟩

/-- PLOAD's predicates of the lanes in `l`, from their values `g`. -/
def loadPreds (g : Nat → Nat → Bool) (l : List Nat) (y : GroupSt) : GroupSt :=
  l.foldl (fun z t => (List.range 7).foldl (fun z p => setPred p t (g t p) z) z) y

theorem loadPreds_bit (g : Nat → Nat → Bool) (l : List Nat) (y : GroupSt) (q i : Nat) (hq : q < 7) (hi : i < 32) :
    bitOf (predMask (loadPreds g l y) q) i = if i ∈ l then g i q else bitOf (predMask y q) i := by
  unfold loadPreds
  induction l generalizing y with
  | nil => simp
  | cons t l ih =>
    rw [List.foldl_cons, ih, foldl_setPreds _ _ _ (by simp) _ _ _ hi]
    by_cases h1 : i ∈ l
    · rw [if_pos h1, if_pos (List.mem_cons_of_mem _ h1)]
    · rw [if_neg h1]
      by_cases h2 : i = t
      · rw [if_pos ⟨List.mem_range.2 hq, h2⟩, if_pos (List.mem_cons.2 (.inl h2)), h2]
      · rw [if_neg (fun h => h2 h.2), if_neg (by simp [h1, h2])]

theorem loadPreds_frame (g : Nat → Nat → Bool) (l : List Nat) (y : GroupSt) : loadPreds g l y = { y with preds := (loadPreds g l y).preds } := by
  unfold loadPreds
  refine List.foldlRecOn l _ (motive := fun z : GroupSt => z = { y with preds := z.preds }) rfl fun z hz t _ => ?_
  refine List.foldlRecOn (List.range 7) _ (motive := fun z : GroupSt => z = { y with preds := z.preds }) hz fun z hz p _ => ?_
  rw [setPred_frame, hz]

/-! ### LANEPOLL -/

theorem pollMode_eq (w : ShIns) (h : w.form = 0) : pollMode w = if insMod w % 4 = 3 then Config.openField 12 (insKeyOf w) % 3 else insMod w % 4 := by
  unfold pollMode
  rw [modSel_form0 w h, bits, Nat.pow_zero, Nat.div_one]
  rfl

/-- What a LANEPOLL does to its group. -/
def pollGrp (w : ShIns) (y : GroupSt) : GroupSt :=
  if pollMode w = 2 then laneWrite w (fun _ _ => BitVec.ofNat 32 (maskOf ((activeLanes y).filter (bitOf (predMask y (insSa w % 8)))))) y
  else lanePred w (fun _ _ => if pollMode w = 0 then (activeLanes y).any (bitOf (predMask y (insSa w % 8))) else (activeLanes y).all (bitOf (predMask y (insSa w % 8)))) y

theorem completes_lanepoll (hopen : ∀ w : ShIns, w.form = 0 → insMod w % 4 = 3 → Config.openField 12 (insKeyOf w) % 3 ≠ 2) :
    Completes 4 7 .lanepoll [0] (fun w => if insMod w % 4 = 2 then [insDst w] else []) noFlags (fun _ _ w y z =>
      (insMod w % 4 = 0 → PredEff w y z (fun _ v => v = (activeLanes y).any (bitOf (predMask y (insSa w % 8))))) ∧
      (insMod w % 4 = 1 → PredEff w y z (fun _ v => v = (activeLanes y).all (bitOf (predMask y (insSa w % 8))))) ∧
      (insMod w % 4 = 2 → LaneEff w y z (fun _ v => v = BitVec.ofNat 32 (maskOf ((activeLanes y).filter (bitOf (predMask y (insSa w % 8)))))))) := by
  intro s u w x y h hw hr
  have hf := form_eq_zero w hw
  have hm := pollMode_eq w hf
  have hregs : ∀ r ∈ (if pollMode w = 2 then [insDst w] else []), r < nregOf x := by
    by_cases h3 : insMod w % 4 = 3
    · rw [if_pos h3] at hm
      rw [if_neg (by rw [hm]; exact hopen w hf h3)]
      simp
    · rw [if_neg h3] at hm
      rw [hm]
      exact hr
  refine ⟨nextPc (pollGrp w y), ?_, fun h0 => ?_, fun h1 => ?_, fun h2 => ?_⟩
  · have hx : stnOf s u.stn = some x := liveOf_stnOf s u.stn x h.2.2.1
    refine (shOut_at h (form01_of_mem0 w hw) rfl hregs _).trans (congrArg _ ?_)
    have hpoll : (if pollMode w = 2 then stepGrp u (laneWrite w (fun _ _ => BitVec.ofNat 32 (maskOf ((activeLanes y).filter (bitOf (predMask y (insSa w % 8))))))) s
        else stepGrp u (lanePred w (fun _ _ => if pollMode w = 0 then (activeLanes y).any (bitOf (predMask y (insSa w % 8)))
          else (activeLanes y).all (bitOf (predMask y (insSa w % 8))))) s) = putGrp u (nextPc (pollGrp w y)) s := by
      unfold pollGrp
      split <;> exact stepGrp_eq u _ s x y hx h.2.2.2.1
    exact hpoll
  · rw [if_neg (by omega), h0] at hm
    unfold pollGrp
    rw [if_neg (by omega)]
    exact lanePred_eff w _ y _ (fun t _ => if_pos hm)
  · rw [if_neg (by omega), h1] at hm
    unfold pollGrp
    rw [if_neg (by omega)]
    exact lanePred_eff w _ y _ (fun t _ => if_neg (by omega))
  · rw [if_neg (by omega), h2] at hm
    unfold pollGrp
    rw [if_pos hm]
    exact laneWrite_eff w _ y _ (fun t _ => rfl)

/-! ### The statement, up to the open mode -/

/-- Every instruction of O12 but a LANEPOLL whose open mode is the mask, which may name a register at or above NREG. -/
theorem comparisons_of_pollMode (hopen : ∀ w : ShIns, w.form = 0 → insMod w % 4 = 3 → Config.openField 12 (insKeyOf w) % 3 ≠ 2) :
    Obligations.ComparisonsAndPredicateMoves := by
  refine ⟨?_, ?_, completes_lanepoll hopen, ?_, ?_⟩
  · exact completes_lanePred (fun _ w y t => icmpVal w (greg y (insSa w) t) (opB w y t)) (fun _ _ _ => rfl) form01_of_mem0
      (fun _ w y t hw ht => icmpVal_stated w (form_eq_zero w hw) ht _ _)
  · exact completes_lanePred (fun b w y t => (fcmpVal b (modSel w 6 4) (fpA w y t) (fpB w y t)).1) (fun _ _ _ => rfl) form01_of_mem (fun _ _ _ _ _ => rfl)
  · exact completes_moveOut (regs := fun _ => []) (fun _ w y t => openHigh 22 8 (predBits y t) [greg y (insDst w) t, BitVec.ofNat 32 (predBits y t)]) (fun _ _ _ => rfl)
      (fun _ w y t => openHigh_low 22 8 _ _ (by decide))
  · refine completes_of_step form01 (fun _ _ w y => loadPreds (fun t p => bitOf (greg y (insSa w) t).toNat p) (actLanes y w) y) (fun _ _ _ => rfl) form01_of_mem
      (fun _ _ w y _ => ?_)
    have hz := loadPreds_frame (fun t p => bitOf (greg y (insSa w) t).toNat p) (actLanes y w) y
    refine ⟨?_, ?_, fun p t hp ht => loadPreds_bit _ _ y p t hp ht⟩
    · rw [hz]
      exact ⟨rfl, rfl, rfl, rfl, rfl, rfl⟩
    · rw [hz]
      rfl

/-- A station of no registers that runs the instruction next. -/
def noRegs (w : ShIns) : Stn := { Tests.oneIns 4 7 w with shConfig := 0 }

/-- The statement leaves no LANEPOLL with the mask for its open mode: one that names a register at or above NREG faults. -/
theorem pollMode_of_comparisons (h : Obligations.ComparisonsAndPredicateMoves) (w : ShIns) (hw : w.form = 0) (h3 : insMod w % 4 = 3) :
    Config.openField 12 (insKeyOf w) % 3 ≠ 2 := by
  intro h2
  have hm : pollMode w = 2 := (pollMode_eq w hw).trans ((if_pos h3).trans h2)
  have hat : AtIns (Tests.stnState (noRegs w)) ⟨1, 0⟩ 4 7 w (noRegs w) {} := ⟨rfl, rfl, rfl, rfl, rfl, rfl, nofun, rfl⟩
  obtain ⟨-, -, hpoll, -, -⟩ := h
  obtain ⟨z, hz, -⟩ := hpoll (Tests.stnState (noRegs w)) ⟨1, 0⟩ w (noRegs w) {} hat (by simp [hw]) (by simp [h3])
  have hex : exec (.lanepoll ⟨1, 0⟩ w) (Tests.stnState (noRegs w)) = .next (grpFault ⟨1, 0⟩ {} stRegRange 0 (Tests.stnState (noRegs w))) := by
    refine congrArg _ ((if_pos (show (Tests.stnState (noRegs w)).pwr.phase = .ready ∧ ¬ issueHeld (Tests.stnState (noRegs w)) = true from ⟨rfl, nofun⟩)).trans
      ((shGo_at hat _).trans ?_))
    refine (if_neg (by simp [form01_of_mem0 w (by simp [hw])])).trans (if_pos ?_)
    rw [if_pos hm]
    simp [nregOf, noRegs, shNreg, bits]
  have heq := Host.Outcome.next.inj (hex.symm.trans hz)
  have hfault : (stnOf (grpFault ⟨1, 0⟩ {} stRegRange 0 (Tests.stnState (noRegs w))) 1).map (·.fault) = some stRegRange := by
    unfold grpFault
    rw [stationFault_live (x := noRegs w) rfl rfl]
    refine (congrArg (Option.map (·.fault)) (stopStations_stn 0 1 stRegRange _)).trans ?_
    rfl
  rw [heq] at hfault
  exact absurd (show some 0 = some stRegRange from hfault) (by decide)

end Sys2Proof.Machine
end

section
/-! PROOF. SPDM, SET_KEY, BUNDLE_IMPORT, SET_DESTROY, RESET, CRUMB_READ and CRASH_BUFFER_SET, but for a bundle whose tag
does not verify (R557-R582, R603-R609). -/

namespace Sys2Proof.Machine

section
variable {s : State} {q n : Nat} {u : Queue} {c : TakenCmd}

/-- The queue's number and the command's SEQ are those it is started under. -/
theorem started_ids {op : Nat} (h : Started s q n op u c) : u.num = q ∧ c.seq = n := by
  obtain ⟨h1, h2, h3, h4, h5, h6⟩ := h
  exact ⟨h6, by simpa using List.find?_some h3⟩

/-! ### SPDM -/

theorem spdm_eq (h : Started s q n 0x0901 u c) (r : List Byte) (hr : r = spdmAnswer s (hostRead s u.pasid (par c 0 8) (par c 16 4))) :
    exec (.spdm q n) s = .next (
        if par c 16 4 < 4 ∨ r = [] ∨ par c 20 4 < r.length then finishCmd q n 0x0089 0 s
        else finishCmd q n 0 r.length (hostWrite u.pasid (par c 8 8) r
          { s with sec := { s.sec with spdmLog := s.sec.spdmLog ++ [hostRead s u.pasid (par c 0 8) (par c 16 4)], spdmOut := r } })) := by
  obtain ⟨hq, hn⟩ := started_ids h
  subst hr
  refine (cmdOut_started h spdmS).trans (congrArg _ ?_)
  simp only [spdmS, hq, hn, List.isEmpty_iff]
  rfl

/-! ### SET_KEY -/

theorem setKey_unlocked (h : Started s q n 0x0902 u c) (hu : s.sec.unlocked = true) :
    exec (.setKey q n) s = .next (finishCmd q n 0x0088 0 s) := by
  obtain ⟨hq, hn⟩ := started_ids h
  refine (cmdOut_started h setKeyS).trans (congrArg _ ?_)
  simp [setKeyS, hu, hq, hn, stDebugUnlocked]

theorem setKey_badMessage (h : Started s q n 0x0902 u c) (hu : s.sec.unlocked = false) (h1 : 1 ≤ par c 16 2) (h2 : par c 16 2 ≤ 255)
    (hm : setMsgOk (hostRead s u.pasid (par c 0 8) 1048) = false) : exec (.setKey q n) s = .next (finishCmd q n 0x0082 0 s) := by
  obtain ⟨hq, hn⟩ := started_ids h
  refine (cmdOut_started h setKeyS).trans (congrArg _ ?_)
  have hr : ¬ (par c 16 2 = 0 ∨ 255 < par c 16 2) := by omega
  dsimp only [setKeyS]
  rw [if_neg (by simp [hu]), if_neg hr, if_pos (by simp [hm]), hq, hn, stSetMsgBad]

theorem setKey_opened (h : Started s q n 0x0902 u c) {m : List Byte} (e : m = hostRead s u.pasid (par c 0 8) 1048) (hu : s.sec.unlocked = false)
    (h1 : 1 ≤ par c 16 2) (h2 : par c 16 2 ≤ 255) (hm : setMsgOk m = true) :
    ∃ t, exec (.setKey q n) s = .next t ∧
        match Config.setKey m with
        | none => t = finishCmd q n 0x0082 0 s
        | some key => if (tget? s.sec.sets (par c 16 2)).isSome then t = finishCmd q n 0x0080 0 s
          else Replies t q n 0 0 ∧ t.mem = s.mem ∧ ∃ x, tget? t.sec.sets (par c 16 2) = some x ∧ x.key = key ∧ x.slice = u.slice ∧
            x.setId = (m.drop 8).take 16 ∧ x.listHash = (m.drop 24).take 48 ∧ x.recipes.length = field m 6 1 ∧
            ∀ j, j ≠ par c 16 2 → tget? t.sec.sets j = tget? s.sec.sets j := by
  obtain ⟨hq, hn⟩ := started_ids h
  have hr : ¬ (par c 16 2 = 0 ∨ 255 < par c 16 2) := by omega
  refine ⟨_, cmdOut_started h setKeyS, ?_⟩
  simp only [setKeyS, ← e, hu, hq, hn, hm, hr, Bool.false_eq_true, if_false, not_true_eq_false]
  cases hk : Config.setKey m with
  | none => rfl
  | some key =>
    dsimp only
    split
    · rfl
    · obtain ⟨-, hu, hc, -⟩ := h
      refine ⟨finish_replies (by exact (congrArg (tget? · q) (hostWrite_keeps ..).queues).trans hu) hc _ _, (hostWrite_keeps ..).mem, ?_⟩
      rw [finishCmd_sec, (hostWrite_keeps ..).sec]
      exact ⟨_, by simp; rfl, rfl, rfl, rfl, rfl, by simp, fun j hj => by simp [Ne.symm hj]⟩

/-! ### SET_DESTROY -/

theorem setDestroy_free (h : Started s q n 0x0904 u c) {x : SealedSet} (hx : tget? s.sec.sets (par c 0 2) = some x) (hs : x.slice = u.slice)
    (he : setExtents s (par c 0 2) = []) (hf : ∀ e ∈ s.xt.freeing, e.2.2 ≠ u.slice) :
    exec (.setDestroy q n) s = .next (finishCmd q n 0 0 { s with sec := { s.sec with sets := tdel s.sec.sets (par c 0 2) } }) := by
  obtain ⟨hq, hn⟩ := started_ids h
  have ho : setOwned s u.slice (par c 0 2) = some x := by simp [setOwned, hx, hs]
  have hc : setCtxs s (par c 0 2) = [] := by simp [setCtxs, he]
  refine (cmdOut_started h setDestroyS).trans (congrArg _ ?_)
  have hany : s.xt.freeing.any (fun e => decide (e.2.2 = u.slice)) = false := by simpa using hf
  simp only [setDestroyS, ho, hc, List.foldl_nil, List.isEmpty_nil, not_true_eq_false, if_false, he, hany, Bool.false_eq_true, hq, hn, stOk]

/-! ### RESET -/

theorem reset_badRung (h : Started s q n 0x0A01 u c) (hr : par c 2 1 = 0 ∨ 5 < par c 2 1) :
    exec (.reset q n) s = .next (finishCmd q n 0x0015 0 s) := by
  obtain ⟨hq, hn⟩ := started_ids h
  refine (cmdOut_started h resetS).trans (congrArg _ ?_)
  simp only [resetS, hr, if_true, hq, hn, stBadParam]

theorem reset_badStation (h : Started s q n 0x0A01 u c) (hr : par c 2 1 = 2) (hs : stnOfId (par c 0 2) = none) :
    exec (.reset q n) s = .next (finishCmd q n 0x0045 0 s) := by
  obtain ⟨hq, hn⟩ := started_ids h
  refine (cmdOut_started h resetS).trans (congrArg _ ?_)
  simp [resetS, hr, hs, hq, hn, stBadStation]

/-- A rung in range whose station identifier, where it has one, names a station. -/
def RungNamed (c : TakenCmd) : Prop := 1 ≤ par c 2 1 ∧ par c 2 1 ≤ 5 ∧ (par c 2 1 = 2 → stnOfId (par c 0 2) ≠ none)

theorem resetS_named (h : Started s q n 0x0A01 u c) (hr : RungNamed c) :
    exec (.reset q n) s = .next (if ¬ resetTarget s (par c 2 1) (par c 0 2) then finishCmd q n 0x0090 0 s
      else if s.err.rungs.any (fun x => decide ((q, n) ∈ x.cmds)) then s
      else if par c 2 1 = 1 ∧ ((ctxOf s (par c 0 2)).map (·.dead)).getD false ∧ (rungReq? s 1 (par c 0 2)).isNone then finishCmd q n 0 1 s
      else startRung (par c 2 1) (par c 0 2) rcReset [(q, n)] s) := by
  obtain ⟨hq, hn⟩ := started_ids h
  obtain ⟨h1, h5, h2⟩ := hr
  refine (cmdOut_started h resetS).trans (congrArg _ ?_)
  have e1 : ¬ (par c 2 1 = 0 ∨ 5 < par c 2 1) := by omega
  have e2 : ¬ (par c 2 1 = 2 ∧ (stnOfId (par c 0 2)).isNone) := by
    rintro ⟨a, b⟩
    exact h2 a (by simpa using b)
  simp only [resetS, e1, e2, if_false, hq, hn]
  rfl

theorem rungNamed_of_target (h1 : 1 ≤ par c 2 1) (h5 : par c 2 1 ≤ 5) (ht : resetTarget s (par c 2 1) (par c 0 2) = true) : RungNamed c := by
  refine ⟨h1, h5, fun e hs => ?_⟩
  simp [resetTarget, e, hs] at ht

theorem reset_noTarget (h : Started s q n 0x0A01 u c) (hr : RungNamed c) (ht : resetTarget s (par c 2 1) (par c 0 2) = false) :
    exec (.reset q n) s = .next (finishCmd q n 0x0090 0 s) := by
  rw [resetS_named h hr]; simp [ht]

theorem reset_dead (h : Started s q n 0x0A01 u c) (h1 : 1 ≤ par c 2 1) (h5 : par c 2 1 ≤ 5) (ht : resetTarget s (par c 2 1) (par c 0 2) = true)
    (hg : s.err.rungs = []) {x : Ctx} (hr : par c 2 1 = 1) (hx : ctxOf s (par c 0 2) = some x) (hd : x.dead = true) :
    exec (.reset q n) s = .next (finishCmd q n 0 1 s) := by
  rw [resetS_named h (rungNamed_of_target h1 h5 ht)]; simp [hg, hr, hx, hd, rungReq?] at *
  simp [ht]

theorem reset_begins (h : Started s q n 0x0A01 u c) (h1 : 1 ≤ par c 2 1) (h5 : par c 2 1 ≤ 5) (ht : resetTarget s (par c 2 1) (par c 0 2) = true)
    (hg : s.err.rungs = []) (hl : par c 2 1 = 1 → ∃ x, ctxOf s (par c 0 2) = some x ∧ x.dead = false) :
    ∃ t, exec (.reset q n) s = .next t ∧ RungSet s t (par c 2 1) (par c 0 2) 0 [(q, n)] ∧
          Raised s t (rungDie s (par c 2 1) (par c 0 2)) 0x004B (if par c 2 1 = 1 then par c 0 2 else 0) 0 (par c 2 1) (par c 0 2) 0 ∧
          t.mem = s.mem ∧ t.ten = s.ten ∧ t.sch = s.sch := by
  have hnd : ¬ (par c 2 1 = 1 ∧ ((ctxOf s (par c 0 2)).map (·.dead)).getD false ∧ (rungReq? s 1 (par c 0 2)).isNone) := by
    rintro ⟨a, b, -⟩
    obtain ⟨x, hx, hd⟩ := hl a
    simp [hx, hd] at b
  refine ⟨startRung (par c 2 1) (par c 0 2) rcReset [(q, n)] s, ?_, startRung_set _ _ _ hg h5, ?_, by simp, ?_, by simp⟩
  · rw [resetS_named h (rungNamed_of_target h1 h5 ht), if_neg (by simp [ht]), if_neg (by simp [hg]), if_neg hnd]
  · rw [startRung_first _ _ _ _ hg]
    dsimp only [Raised, rcReset]
    split <;> rfl
  · rw [startRung_first _ _ _ _ hg]; rfl

/-! ### CRUMB_READ and CRASH_BUFFER_SET -/

/-- The samples that fit are the oldest, and the next one does not fit after them (R607). -/
theorem samplesFit_prefix (l : List (List Byte)) (m : Nat) : samplesFit m l = l.take (samplesFit m l).length ∧
    (samplesFit m l).flatten.length ≤ m ∧
    ∀ b, l[(samplesFit m l).length]? = some b → m < (samplesFit m l).flatten.length + b.length := by
  induction l generalizing m with
  | nil => simp [samplesFit]
  | cons a r ih =>
    by_cases ha : a.length ≤ m
    · obtain ⟨i1, i2, i3⟩ := ih (m - a.length)
      simp only [samplesFit, ha, if_true, List.length_cons, List.take_succ_cons, List.flatten_cons, List.length_append, List.getElem?_cons_succ]
      refine ⟨by rw [← i1], by omega, fun b hb => ?_⟩
      have := i3 b hb
      omega
    · simp [samplesFit, ha]; omega

theorem crumbRead_none (h : Started s q n 0x0A02 u c) (hr : s.err.region = []) :
    exec (.crumbRead q n) s = .next (finishCmd q n 0x0091 0 s) := by
  obtain ⟨hq, hn⟩ := started_ids h
  refine (cmdOut_started h crumbReadS).trans (congrArg _ ?_)
  simp [crumbReadS, hr, hq, hn, stCrumbNone]

theorem crumbRead_short (h : Started s q n 0x0A02 u c) {a : List Byte} {r : List (List Byte)} (hr : s.err.region = a :: r)
    (hl : par c 8 4 < a.length) : exec (.crumbRead q n) s = .next (finishCmd q n 0x0015 0 s) := by
  obtain ⟨hq, hn⟩ := started_ids h
  refine (cmdOut_started h crumbReadS).trans (congrArg _ ?_)
  simp [crumbReadS, hr, hq, hn, stBadParam, hl]

theorem crumbRead_some (h : Started s q n 0x0A02 u c) {a : List Byte} {r : List (List Byte)} (hr : s.err.region = a :: r)
    (hl : a.length ≤ par c 8 4) : ∃ k, 1 ≤ k ∧ (s.err.region.take k).flatten.length ≤ par c 8 4 ∧
        (∀ b, s.err.region[k]? = some b → par c 8 4 < (s.err.region.take k).flatten.length + b.length) ∧
        exec (.crumbRead q n) s = .next (finishCmd q n 0 (s.err.region.take k).flatten.length
          (hostWrite u.pasid (par c 0 8) (s.err.region.take k).flatten { s with err := { s.err with region := s.err.region.drop k } })) := by
  obtain ⟨hq, hn⟩ := started_ids h
  obtain ⟨i1, i2, i3⟩ := samplesFit_prefix s.err.region (par c 8 4)
  rw [i1] at i2
  simp only [congrArg List.flatten i1] at i3
  refine ⟨(samplesFit (par c 8 4) s.err.region).length, by simp [hr, samplesFit, hl], i2, ?_, (cmdOut_started h crumbReadS).trans (congrArg _ ?_)⟩
  · exact i3
  · rw [← i1]
    have : ¬ par c 8 4 < a.length := by omega
    simp only [crumbReadS, hr, this, if_false, hq, hn, stOk]

theorem crashBuffer_eq (h : Started s q n 0x0A03 u c) : exec (.crashBufferSet q n) s =
      .next (finishCmd q n 0 0 { s with err := { s.err with bufBase := par c 0 8, bufSize := par c 8 4, bufUsed := 0 } }) := by
  obtain ⟨hq, hn⟩ := started_ids h
  refine (cmdOut_started h crashBufferS).trans (congrArg _ ?_)
  simp [crashBufferS, hq, hn, stOk]

/-! ### BUNDLE_IMPORT -/

theorem bundleImport_started (h : Started s q n 0x0903 u c) (hi : issueHeld s = false) :
    exec (.bundleImport q n) s = .next (bundleImportS u c s) := by
  rw [← cmdOut_started h bundleImportS]
  show execBundleImport q n s = _
  simp [execBundleImport, hi]

theorem bundleImport_absent (h : Started s q n 0x0903 u c) (hi : issueHeld s = false) (ho : setOwned s u.slice (par c 12 2) = none) :
    exec (.bundleImport q n) s = .next (finishCmd q n 0x0081 0 s) := by
  obtain ⟨hq, hn⟩ := started_ids h
  rw [bundleImport_started h hi]
  simp [bundleImportS, ho, hq, hn, stSetAbsent]

theorem clearPoison_queues (k l : Nat) (s : State) : (clearPoison k l s).cmd.queues = s.cmd.queues := by
  unfold clearPoison
  split
  · dsimp only
    split
    · split <;> rfl
    · rfl
  · rfl

theorem writeLine_queues (k l m : Nat) (d : List Byte) (s : State) : (writeLine k l m d s).cmd.queues = s.cmd.queues := by
  have hp (k l m : Nat) (d : List Byte) (s : State) : (putWhole k l m d s).cmd.queues = s.cmd.queues := by
    unfold putWhole
    dsimp only
    split
    · exact clearPoison_queues ..
    · rfl
  have hd : (dirtyMark k (l / 512) s).cmd.queues = s.cmd.queues := by unfold dirtyMark; split <;> rfl
  unfold writeLine
  split
  · rfl
  · dsimp only
    split
    · split
      · exact (hp ..).trans hd
      · exact (hp ..).trans ((hp ..).trans hd)
    · exact (hp ..).trans hd

theorem putPayload_queues (x : Extent) (off : Nat) (bs : List Byte) (s : State) : (putPayload x off bs s).cmd.queues = s.cmd.queues := by
  unfold putPayload
  induction List.range (bs.length / 128) generalizing s with
  | nil => rfl
  | cons i r ih =>
    rw [List.foldl_cons, ih]
    split
    · exact writeLine_queues ..
    · rfl

theorem mem_foldl_insKey (g : Nat) (l k : List Nat) : g ∈ l.foldl (fun l g => insKey g l) k ↔ g ∈ k ∨ g ∈ l := by
  induction l generalizing k with
  | nil => simp
  | cons a r ih => rw [List.foldl_cons, ih, mem_insKey]; simp; tauto

/-- The arguments of a BUNDLE_IMPORT that its sealed set, its source and its extent do not refuse: set `x`, mapping `m` of
extent `y`, target `num`, `e`, header `h` and device list `list` of the bundle at `a` (R573). -/
structure ImportArgs (s : State) (q n : Nat) (u : Queue) (c : TakenCmd) (x : SealedSet) (m : Mapping) (y : Extent) (num : Nat) (e : Extent)
    (a : Nat) (h : List Byte) (cnt off len : Nat) (list : List Byte) : Prop where
  set : setOwned s u.slice (par c 12 2) = some x
  addr : a = par c 0 8
  map : findMap s c.ctx a = some (m, y)
  head : h = ctxRead s c.ctx a 256
  count : cnt = field h 72 2
  offset : off = field h 80 8
  size : len = field h 88 8
  devices : list = ctxRead s c.ctx (a + 256) (48 * cnt)
  one : 1 ≤ cnt
  max : cnt ≤ 4096
  headRoom : 256 ≤ m.start + y.length - a
  room : bundleHead cnt + len ≤ m.start + y.length - a
  headRead : ctxReadRefusal s c.ctx a 256 (.cmd q n) = none
  read : ctxReadRefusal s c.ctx a (bundleHead cnt + len) (.cmd q n) = none
  idle : ctxBusy s c.ctx a (min (m.start + y.length - a) (bundleHead cnt + len)) = false
  target : cmdExtent s (par c 8 4) = some (num, e)
  isSealed : attrSealed e.attr = true
  sameSet : e.sealSet = par c 12 2
  fits : off + len ≤ e.length
  unloaded : ∀ g ∈ rangeGrans off len, g ∉ e.loaded
  up : rangeDown s e off len = false

/-- What such a command comes to: its three further refusals, or the import (R573). -/
theorem bundleImport_checked (h : Started s q n 0x0903 u c) (hi : issueHeld s = false) {x : SealedSet} {m : Mapping} {y : Extent} {num : Nat} {e : Extent}
    {a : Nat} {hd : List Byte} {cnt off len : Nat} {list : List Byte} (w : ImportArgs s q n u c x m y num e a hd cnt off len list) :
    exec (.bundleImport q n) s = .next (if bundleOk x hd list = false then finishCmd q n 0x0083 0 s
      else if listHas list cnt = false then finishCmd q n 0x0084 0 s
      else match Config.unwrap x.key ((hd.drop 112).take 40) with
        | none => finishCmd q n 0x0085 0 s
        | some bk => importRun u c num e off len bk hd list (ctxRead s c.ctx (a + bundleHead cnt) len) s) := by
  obtain ⟨hq, hn⟩ := started_ids h
  obtain ⟨hx, ha, hm, hh, hcnt, hoff, hlen, hlist, h1, h2, hr1, hr2, hf1, hf2, hb, hce, hat, hse, hle, hld, hdn⟩ := w
  have e1 : ¬ m.start + y.length - a < 256 := by omega
  have e3 : ¬ (¬ attrSealed e.attr = true ∨ e.sealSet ≠ par c 12 2 ∨ e.length < off + len) := by
    simp [hat, hse]; omega
  have e4 : (rangeGrans off len).any (fun g => decide (g ∈ e.loaded)) = false := by simpa using hld
  have hbad : (cnt = 0 ∨ 4096 < cnt ∨ m.start + y.length - a < bundleHead cnt + len ∨ ¬ bundleOk x hd list = true) ↔ bundleOk x hd list = false := by
    rw [← or_assoc, ← or_assoc, or_assoc (a := cnt = 0), or_iff_right (by omega), Bool.not_eq_true]
  rw [bundleImport_started h hi]
  simp only [bundleImportS, hx, ← ha, hm, ← hh, ← hcnt, ← hoff, ← hlen, ← hlist, hb, hce, hdn, e1, hbad, e3, e4, hq, hn, if_false, Bool.false_eq_true]
  rw [hf1, hf2]
  simp only [Bool.not_eq_true]
  rfl

end

/-- Every command of O42, where a tag under an unwrapped key never fails: which keys and tags do is a value of the
configuration, and of a failing tag nothing is said here (R573). -/
theorem securityAndReset_of_verifies (hv : ∀ k w key nonce aad ct tag, Config.unwrap k w = some key → Config.gcm key nonce aad ct tag ≠ none) :
    Obligations.SecurityAndResetCommands := by
  unfold Obligations.SecurityAndResetCommands
  refine ⟨fun s q n u c r h hr => spdm_eq h r hr, fun s q n u c h => ⟨setKey_unlocked h, setKey_badMessage h, fun m e => setKey_opened h e⟩,
    fun s q n u c h hi => ⟨bundleImport_absent h hi, ?_⟩, fun s q n u c x h => setDestroy_free h,
    fun s q n u c h => ⟨reset_badRung h, reset_badStation h, fun h1 h5 h2 => reset_noTarget h ⟨h1, h5, h2⟩,
      fun h1 h5 ht hg => ⟨fun x => reset_dead h h1 h5 ht hg, reset_begins h h1 h5 ht hg⟩⟩,
    fun s q n u c h => ⟨crumbRead_none h, fun a r => crumbRead_short h, fun a r => crumbRead_some h⟩, fun s q n u c => crashBuffer_eq⟩
  intro x m y num e a hd cnt off len list hx ha hm hh hcnt hoff hlen hlist h1 h2 hr1 hr2 hf1 hf2 hb hce hat hse hle hld hdn
  refine ⟨_, bundleImport_checked h hi ⟨hx, ha, hm, hh, hcnt, hoff, hlen, hlist, h1, h2, hr1, hr2, hf1, hf2, hb, hce, hat, hse, hle, hld, hdn⟩, ?_⟩
  obtain ⟨hq, hn⟩ := started_ids h
  obtain ⟨-, hu, hc, -⟩ := h
  split
  · exact ⟨finish_replies hu hc _ _, rfl⟩
  split
  · exact ⟨finish_replies hu hc _ _, rfl⟩
  cases hk : Config.unwrap x.key ((hd.drop 112).take 40) with
  | none => exact ⟨finish_replies hu hc _ _, rfl⟩
  | some key =>
    dsimp only
    cases hg : Config.gcm key ((hd.drop 96).take 12) (hd.take 160 ++ list) (ctxRead s c.ctx (a + bundleHead cnt) len) ((hd.drop 160).take 16) with
    | none => exact absurd hg (hv _ _ _ _ _ _ _ hk)
    | some plain =>
      simp only [importRun, hg, hq, hn]
      refine ⟨finish_replies (by exact (congrArg (tget? · q) (putPayload_queues ..)).trans hu) hc _ _, rfl, fun z hz => ?_⟩
      exact ⟨{ z with loaded := (rangeGrans off len).foldl (fun l g => insKey g l) z.loaded }, by simp [hz], fun g => mem_foldl_insKey g _ _, rfl, rfl⟩

end Sys2Proof.Machine
end

section
/-! PROOF. A bundle whose tag does not verify, over the last poisoned line of a damaged extent: two events (R573, R589). -/

namespace Sys2Proof.Machine

/-! ### The events of a payload -/

theorem clearPoison_events (k l : Nat) (s : State) : s.cmd.evq.length ≤ (clearPoison k l s).cmd.evq.length := by
  unfold clearPoison
  split
  · dsimp only
    split
    · split
      · simp [raise, raiseRec]
      · exact le_rfl
    · exact le_rfl
  · exact le_rfl

theorem putWhole_events (k l m : Nat) (d : List Byte) (s : State) : s.cmd.evq.length ≤ (putWhole k l m d s).cmd.evq.length := by
  unfold putWhole
  dsimp only
  split
  · exact clearPoison_events k l (putLine k l m d s)
  · exact le_rfl

theorem writeLine_events (k l m : Nat) (d : List Byte) (s : State) : s.cmd.evq.length ≤ (writeLine k l m d s).cmd.evq.length := by
  have hd : s.cmd.evq.length ≤ (dirtyMark k (l / 512) s).cmd.evq.length := by unfold dirtyMark; split <;> exact le_rfl
  have h1 := hd.trans (putWhole_events k l m d _)
  unfold writeLine
  split
  · exact le_rfl
  · dsimp only
    split
    · split
      · exact h1
      · exact h1.trans (putWhole_events ..)
    · exact h1

/-- One line of a payload at its home. -/
def payloadLine (x : Extent) (off : Nat) (bs : List Byte) (s : State) (i : Nat) : State :=
  match locate x (off + 128 * i) with
  | some (k, a) => writeLine k (a / 128) (2 ^ 128 - 1) ((bs.drop (128 * i)).take 128) s
  | none => s

theorem payloadLine_events (x : Extent) (off : Nat) (bs : List Byte) (s : State) (i : Nat) :
    s.cmd.evq.length ≤ (payloadLine x off bs s i).cmd.evq.length := by
  unfold payloadLine
  split
  · exact writeLine_events ..
  · exact le_rfl

/-- A payload raises at least the events that its first line raises. -/
theorem putPayload_events (x : Extent) (off : Nat) (bs : List Byte) (s : State) (h : 128 ≤ bs.length) :
    (payloadLine x off bs s 0).cmd.evq.length ≤ (putPayload x off bs s).cmd.evq.length := by
  obtain ⟨j, hj⟩ : ∃ j, bs.length / 128 = j + 1 := ⟨bs.length / 128 - 1, by omega⟩
  have mono (l : List Nat) (s : State) : s.cmd.evq.length ≤ (l.foldl (payloadLine x off bs) s).cmd.evq.length := by
    induction l generalizing s with
    | nil => exact le_rfl
    | cons i r ih => exact (payloadLine_events x off bs s i).trans (ih _)
  show _ ≤ ((List.range (bs.length / 128)).foldl (payloadLine x off bs) s).cmd.evq.length
  rw [hj, List.range_succ_eq_map, List.foldl_cons]
  exact mono _ _

theorem finish_raise_events (q n st d die ev ctx sl a0 a1 a2 : Nat) (s : State) :
    (finishCmd q n st d (raise die ev ctx sl a0 a1 a2 s)).cmd.evq.length = s.cmd.evq.length + 1 :=
  List.length_append

/-! ### A bundle for one device -/

/-- LIST_HASH of a device list that names this device alone. -/
def soleHash : List Byte := (List.range 48).map (Config.sha384 deviceHash)

/-- A bundle's header of one device and a 64 KiB payload at the extent's start, with its device list. -/
def soleBundle : List Byte :=
  [0x48, 0x4B, 0x42, 0x44, 1, 0, 0, 0] ++ zeros 16 ++ soleHash ++ [1] ++ zeros 15 ++ leBytes 8 65536 ++ zeros 160 ++ deviceHash

def soleSet : SealedSet := ⟨0, zeros 16, soleHash, [], []⟩

/-- The extent the bundle lies in, at 65536 of context 0. -/
def bundleExtent : Extent :=
  { gen := 0, length := 131072, placement := 2, place := 0, attr := 0, sharedSet := 9, replicaWhere := 0, sealSet := 0, owner := 0,
    slice := 0, stks := [0], grans := [[1, 2]], tagGrans := [], repStacks := [], repGrans := [], loaded := [], damaged := false,
    withdrawn := false, repaired := 0, damagedAt := 0 }

/-- The sealed extent it is for: one granule of stack 1, damaged by its first line. -/
def damagedExtent : Extent := { bundleExtent with length := 65536, attr := 3, sealSet := 9, stks := [1], grans := [[7]], damaged := true }

def importCmd : TakenCmd :=
  { seq := 5, op := 0x0903, flags := 0, energy := 0, ctx := 0, tag := 0,
    pkt := layout 128 [(24, leBytes 8 65536), (32, leBytes 4 6), (36, leBytes 2 9)],
    phase := .started, admitted := true, shares := [], used := 0, startAt := 0 }

def importQueue : Queue := { num := 1, state := .running, slice := 0, next := 6, cmds := [importCmd] }

def damagedState : State :=
  { pwr := { phase := .ready },
    cmd := { ready := true, queues := [(1, importQueue)] },
    seam := { bundles := (List.range 45).map (fun l => (16 * l, { st := 1 })) },
    mem := { cells := soleBundle.zipIdx.map (fun e => (65536 + e.2, e.1)), poison := [lkey 1 3584] },
    sec := { sets := [(9, soleSet)] },
    xt := { extents := [(5, bundleExtent), (6, damagedExtent)], maps := [⟨0, 65536, 5, false⟩] } }

theorem damagedState_started : Started damagedState 1 5 0x0903 importQueue importCmd ∧ issueHeld damagedState = false := by
  refine ⟨⟨rfl, rfl, rfl, rfl, rfl, rfl⟩, rfl⟩

set_option maxRecDepth 20000 in
theorem damagedState_header : ctxRead damagedState 0 65536 256 = soleBundle.take 256 := rfl
set_option maxRecDepth 20000 in
theorem damagedState_list : ctxRead damagedState 0 65792 48 = deviceHash := rfl
theorem soleBundle_count : field (soleBundle.take 256) 72 2 = 1 := by decide +kernel
theorem soleBundle_offset : field (soleBundle.take 256) 80 8 = 0 := by decide +kernel
theorem soleBundle_size : field (soleBundle.take 256) 88 8 = 65536 := by decide +kernel

set_option maxRecDepth 20000 in
theorem soleBundle_tag : ((soleBundle.take 256).drop 160).take 16 = zeros 16 := rfl

theorem soleBundle_ok : bundleOk soleSet (soleBundle.take 256) deviceHash = true := by
  have h1 : ((soleBundle.take 256).drop 8).take 16 = soleSet.setId := rfl
  have h2 : ((soleBundle.take 256).drop 24).take 48 = soleSet.listHash := rfl
  have h3 : (List.range 48).map (Config.sha384 deviceHash) = soleSet.listHash := rfl
  unfold bundleOk
  rw [h1, h2, h3, decide_eq_true (p := soleSet.setId = soleSet.setId ∧ soleSet.listHash = soleSet.listHash ∧ soleSet.listHash = soleSet.listHash) ⟨rfl, rfl, rfl⟩]
  decide +kernel

theorem listHas_self : listHas deviceHash 1 = true := by
  have : (deviceHash.drop (48 * 0)).take 48 = deviceHash := rfl
  show (decide _ || false) = true
  rw [Bool.or_false]
  exact decide_eq_true this

theorem damagedState_args : ImportArgs damagedState 1 5 importQueue importCmd soleSet ⟨0, 65536, 5, false⟩ bundleExtent 6
    damagedExtent 65536 (soleBundle.take 256) 1 0 65536 deviceHash where
  set := rfl
  addr := by decide +kernel
  map := rfl
  head := damagedState_header.symm
  count := soleBundle_count.symm
  offset := soleBundle_offset.symm
  size := soleBundle_size.symm
  devices := damagedState_list.symm
  one := by decide
  max := by decide
  headRoom := by decide
  room := by decide
  headRead := by decide +kernel
  read := by decide +kernel
  idle := by decide +kernel
  target := rfl
  isSealed := by decide
  sameSet := by decide +kernel
  fits := by decide
  unloaded := by simp [damagedExtent, bundleExtent]
  up := by decide +kernel

theorem damagedState_repaired : 1 ≤ (payloadLine damagedExtent 0 (zeros 65536) damagedState 0).cmd.evq.length := by
  decide +kernel

/-- The statement leaves no failing tag for a bundle whose zeros repair an extent: EXTENT_REPAIRED comes beside the
event of the tag, two events where the statement counts one. Whether such a tag fails is a value of the configuration. -/
theorem tag_of_securityAndReset (h : Obligations.SecurityAndResetCommands) (bk : List Byte) (hk : Config.unwrap [] (zeros 40) = some bk) :
    Config.gcm bk (zeros 12) (soleBundle.take 160 ++ deviceHash) (ctxRead damagedState 0 65856 65536) (zeros 16) ≠ none := by
  intro hg
  obtain ⟨-, -, hb, -⟩ := h
  obtain ⟨st, hi⟩ := damagedState_started
  have w := damagedState_args
  obtain ⟨t, ht, hr⟩ := (hb _ _ _ _ _ st hi).2 _ _ _ _ _ _ _ _ _ _ _ w.set w.addr w.map w.head w.count w.offset w.size w.devices w.one w.max w.headRoom
    w.room w.headRead w.read w.idle w.target w.isSealed w.sameSet w.fits w.unloaded w.up
  have hku : Config.unwrap soleSet.key (((soleBundle.take 256).drop 112).take 40) = some bk := hk
  have hgc : Config.gcm bk (((soleBundle.take 256).drop 96).take 12) ((soleBundle.take 256).take 160 ++ deviceHash)
      (ctxRead damagedState importCmd.ctx (65536 + bundleHead 1) 65536) (((soleBundle.take 256).drop 160).take 16) = none := by
    have hz1 : ((soleBundle.take 256).drop 96).take 12 = zeros 12 := by decide +kernel
    have hz3 : (soleBundle.take 256).take 160 = soleBundle.take 160 := by rw [List.take_take, Nat.min_eq_left (by decide)]
    have hb1 : 65536 + bundleHead 1 = 65856 := by decide
    have hc0 : importCmd.ctx = 0 := rfl
    rw [hz1, soleBundle_tag, hz3, hb1, hc0]
    exact hg
  rw [bundleImport_checked st hi w] at ht
  simp only [soleBundle_ok, listHas_self, hku, importRun, hgc, Bool.true_eq_false, if_false] at ht hr
  obtain ⟨-, -, hl⟩ := hr
  rw [← Host.Outcome.next.inj ht, finish_raise_events] at hl
  have hz : (zeros 65536).length = 65536 := List.length_replicate
  have h1 := putPayload_events damagedExtent 0 (zeros 65536) damagedState (by omega)
  have h2 := damagedState_repaired
  have h3 : damagedState.cmd.evq.length = 0 := rfl
  omega

end Sys2Proof.Machine
end
